-- ==== Sys2Proof/Word.lean ====
section
/-! DEFINITION. The plain number types of the model and their simplest bit arithmetic.
Register and memory values are natural numbers below 2^width, reduced where they are stored; bytes of memory are `BitVec 8`. -/
namespace Sys2Proof

/-- One byte of a memory. -/
abbrev Byte := BitVec 8

/-- An address of the 48-bit device address space (R47), as a natural number. -/
abbrev Addr := Nat

/-- Bits hi down to lo of n (R9: bit 0 is the least significant). -/
def bitsOf (n hi lo : Nat) : Nat := (n >>> lo) % 2 ^ (hi + 1 - lo)

/-- Bit k of n. -/
def bitOf (n k : Nat) : Bool := n.testBit k

/-- One for true, zero for false. -/
def b2n (b : Bool) : Nat := if b then 1 else 0

/-- n reduced to a w-bit field. -/
def trunc (w n : Nat) : Nat := n % 2 ^ w

/-- The two's complement reading of a w-bit number. -/
def toSigned (w n : Nat) : Int :=
  if trunc w n < 2 ^ (w - 1) then (trunc w n : Int) else (trunc w n : Int) - (2 ^ w : Int)

/-- The w-bit two's complement encoding of an integer. -/
def ofSigned (w : Nat) (i : Int) : Nat := (i % (2 ^ w : Int)).toNat

/-- Ceiling of a quotient. -/
def ceilDiv (a b : Nat) : Nat := (a + b - 1) / b

/-- n rounded up to a multiple of m. -/
def roundUp (n m : Nat) : Nat := ceilDiv n m * m

end Sys2Proof
end

