-- ==== Sys2Proof/Syntax.lean ====
section
/-! DEFINITION. The commands of the block (one constructor of Instr for each row of the opcode table) and the data that
commands carry: agents, banks, packets, flits, bank and controller requests. -/
namespace Sys2Proof

/-- Tile index (R20). -/
abbrev TileId := Fin 256
/-- Fabric port index. -/
abbrev PortId := Fin 8
/-- HBM controller index. -/
abbrev HbmcId := Fin 16
/-- Collective group index. -/
abbrev GroupId := Fin 64
/-- Mailbox channel. -/
abbrev ChanId := Fin 64
/-- Power block (R20). -/
abbrev PbId := Fin 16
/-- Headframe management core (R348). -/
abbrev CoreId := Fin 4
/-- Firmware component 0 to 5 (R349). -/
abbrev CompId := Fin 6
/-- Interrupt source (R371). -/
abbrev SrcId := Fin 1024

/-- The five scratchpad banks of a tile, numbered as in R235. -/
inductive BankId where
  | ma | mb | vb | cb | sb
deriving DecidableEq, Repr

/-- The agents that hold their own select registers and latch (R18, R63). -/
inductive Agent where
  | host
  | hf (core : CoreId)
  | dbg
  | sideband
deriving DecidableEq, Repr

/-- Bit errors that the environment brings to a stored word or line: none, correctable, or uncorrectable (R217, R230). -/
inductive Upset where
  | none | correctable | uncorrectable
deriving DecidableEq, Repr

/-- A packet (R274): its header fields and payload. `onDie` marks a packet that names this device without a logical device
ID (R277), `via` the port by which a link-local one leaves, `agent` a sender on this die that is no tile: HBM controller k, or 16 for
the headframe. `poison` lists the 8-byte words of the payload that carry poison (R218). -/
structure Packet where
  ty : Nat := 0
  vc : Nat := 2
  epoch : Nat := 0
  hops : Nat := 0
  dstDev : Nat := 0
  dstTile : Nat := 0
  dstQueue : Nat := 0
  srcDev : Nat := 0
  srcTile : Nat := 0
  gen : Nat := 0
  len : Nat := 0
  sem : Nat := 0
  addr : Nat := 0
  tag : Nat := 0
  injAt : Nat := 0
  payload : List Byte := []
  poison : List Nat := []
  onDie : Bool := false
  via : Option Nat := none
  agent : Option Nat := none
deriving DecidableEq, Repr

/-- Who makes an access, for decode errors (R51) and retry counters (R214): a tile's core, hoist or seam engine, another unit of
the tile, the host through BAR2, a headframe core, or the debug port. -/
inductive Requester where
  | core (t : Nat)
  | hoist (t : Nat)
  | seam (t : Nat)
  | unit (t : Nat)
  | bar2
  | hf (n : Nat)
  | dbg
deriving DecidableEq, Repr

/-- Who asks a bank for a slot: 0 the master, 1 to 7 the priorities of R213. -/
abbrev ReqClass := Fin 8

/-- One request of a bank slot (R213): a read or a write of at most one 64-byte line at a bank offset. -/
structure BankReq where
  cls : ReqClass
  write : Bool
  off : Nat
  len : Nat
  data : List Byte := []
  poison : Bool := false
  tag : Nat := 0
  who : Requester := .unit 0
  slot : Option (Fin 4) := none
deriving DecidableEq, Repr

/-- One access that reaches an HBM controller: its device address and at most one 64-byte line (R227). -/
structure HbmReq where
  addr : Nat
  write : Bool
  len : Nat
  data : List Byte := []
  poison : Bool := false
  tag : Nat := 0
  who : Requester := .bar2
deriving DecidableEq, Repr

/-- What the environment brings to an HBM access (R230): nothing, one or two bad symbols, an uncorrectable line, a correction by
the stack's own ECC, or a parity error on commands or addresses. -/
inductive HbmUpset where
  | none | one | two | uncorrectable | onDie | caParity
deriving DecidableEq, Repr

/-- What the FEC reports with a flit (R260): whether the flit lies in an uncorrectable codeword that is counted with another flit; the
codewords counted with this one: received, corrected and uncorrectable; and symbols corrected by lane. -/
structure FecReport where
  bad : Bool := false
  cw : Nat := 0
  corrected : Nat := 0
  uncorrectable : Nat := 0
  symbols : List (Fin 16 × Nat) := []
deriving DecidableEq, Repr

/-- A flit as it arrives (R253): 248 body bytes, the 64-bit welt and the FEC's report. `poison` lists the poisoned 8-byte words of the
packet that a start flit opens: the manual gives links no bit for it (assumption log 20). -/
structure Flit where
  body : List Byte
  welt : Nat
  fec : FecReport := {}
  poison : List Nat := []
deriving DecidableEq, Repr

/-- What a peer sends in INIT (R264, R265): logical device ID, port number, ALLOW_HALF, receive buffers by VC, and whether it has seen
this end's INIT. -/
structure InitInfo where
  dev : Nat
  port : Nat
  half : Bool
  bufs : List Nat
  seen : Bool
deriving DecidableEq, Repr

/-- A packet to inject: the n-th that waits in the outbox, or a read request of a tile's hoist (READ, die only, R275). -/
inductive InjectSrc where
  | queued (n : Nat)
  | read (t : TileId) (addr len : Nat)
deriving DecidableEq, Repr

/-- What faults a firmware component (R350): an MPU fault, or a bus fault at an address (R51). -/
inductive CompCause where
  | mpu
  | bus (addr : Nat)
deriving DecidableEq, Repr

/-- What the environment brings to the close of an estimation window (R403, R404): sensor readings in degrees of the blocks, the I/O dies,
the headframe and the stacks, and the steps that each block's slowest tile period allows in the window. -/
structure WindowIn where
  block : List Nat
  io : List Nat
  hf : Nat
  stack : List Nat
  rate : List Nat
deriving DecidableEq, Repr

/-- What resets the host side (R343). -/
inductive HostReset where
  | perst | hot | linkDown | flr
deriving DecidableEq, Repr

/-- A configuration write of the host (R332, R334, R338, R341): the size of BAR2, MSI-X Enable and Function Mask, Bus Master Enable, the power
state (D3hot or D0), Max_Payload_Size (0 to 2 for 128, 256 and 512 bytes), and the status bits (write 1 to clear) and mask bits of Advanced
Error Reporting. -/
inductive PciWrite where
  | bar2Size (code : Fin 4)
  | msix (enable mask : Bool)
  | busMaster (on : Bool)
  | power (d3 : Bool)
  | maxPayload (code : Fin 3)
  | aerClear (uncorrectable : Bool) (bits : Nat)
  | aerMask (uncorrectable : Bool) (bits : Nat)
deriving DecidableEq, Repr

/-- What trips the module (R403, R497, R505). -/
inductive TripCause where
  | block (k : PbId)
  | io (i : Fin 4)
  | headframe
  | stack (i : Fin 8)
  | inputHigh | inputLow | overcurrent | auxLow | stageHot
deriving DecidableEq, Repr

/-- An instruction of the IEEE 1149.1 port (R501): the mandatory ones and IDCODE, `drive` for those that drive pins, accesses of the debug
port (R50) and a private scan instruction (R431). -/
inductive JtagInstr where
  | bypass | sample | preload | drive | idcode
  | debugRead (addr len : Nat)
  | debugWrite (addr : Nat) (data : List Byte)
  | scan
deriving DecidableEq, Repr

/-- The select registers (R17). -/
inductive SelKind where
  | port | tile | queue | hbm | group | counter
deriving DecidableEq, Repr

/-- The capabilities of R334's table, present or absent. -/
inductive PciCap where
  | pciExpress | powerManagement | msix | aer | resizableBar | deviceSerial | dataLinkFeature | physicalLayer | laneMargining | flr
  | msi | intx | aspm | l1Substates | ltr | ats | pri | pasid | sriov | acs | tph | vpd | atomicCompleter | expansionRom
deriving DecidableEq, Repr

/-- What the host reads in the function's configuration space (R332, R334, R338, R341). The spec gives the registers no offsets: PCI Express does. -/
inductive PciReg where
  | capability (c : PciCap)
  | interruptPin | serialNumber | powerState | maxPayload | bar2Size | busMaster | msixControl
  | aerUncorrectable | aerCorrectable | linkStatus
deriving DecidableEq, Repr

/-- What a register access names: a register-space offset, a control register of a headframe core (R385), an offset of BAR4, which holds the
MSI-X table and the pending bits (R337), or, for reads, a register of configuration space (R334). -/
inductive RegTarget where
  | space (off : Nat)
  | control (core : CoreId) (off : Nat)
  | bar4 (off : Nat)
  | config (r : PciReg)
deriving DecidableEq, Repr

/-- One end of a stream as STREAM_BIND gives it (R194 to R196): whether its tile is on this device (else the logical ID of its device), the
tile and endpoint, and the endpoint's fields. -/
structure StreamEnd where
  here : Bool
  dev : Nat
  tile : Nat
  ep : Nat
  vc : Nat
  slots : Nat
  localSem : Nat
  peerSem : Nat
  peerLocal : Bool
  peerDev : Nat
  peerTile : Nat
  base : Nat
  size : Nat
deriving DecidableEq, Repr

/-- What PORT_CFG writes (R266): PORT_CTRL, receive buffers by VC, training limit and retry configuration; what is absent stays. -/
structure PortCfg where
  ctrl : Option Nat := none
  bufs : List Nat := []
  timeoutMs : Option Nat := none
  retry : Option Nat := none
deriving DecidableEq, Repr

/-- What GROUP_CFG writes (R296 to R299). -/
structure GroupIn where
  valid : Bool
  vc : Nat
  replayLimit : Nat
  tile : Nat
  gid : Nat
  n : Nat
  index : Nat
  map : Nat
  stepNs : Nat
  progressNs : Nat
  seq : Nat
deriving DecidableEq, Repr

/-- The data of a register write (R60), with the bits that the hardware sets in the same access (R12): the write-1-to-clear bits that
it sets, and the fields that it writes beside them. -/
structure RegData where
  value : Nat
  sets : Nat := 0
  info : List Nat := []
deriving DecidableEq, Repr

/-- A tile core's register write (CWR, R167): the tile, and what the hardware sets in the same access (R12). -/
structure CoreWrite where
  tile : TileId
  sets : Nat := 0
  info : List Nat := []
deriving DecidableEq, Repr

/-- What an engine reaches a bank for, and whether the bank granted it the slot that it asked for (R213, R214). -/
structure Asked (α : Type) where
  what : α
  granted : Bool
deriving DecidableEq, Repr

/-- A write of a drained row (R112): the tile, and whether the bank grants a slot to each 64-byte line of the row that still waits, in ascending
order (R212, R214); a line beyond the list is granted. -/
structure RowWrite where
  tile : TileId
  granted : List Bool := []
deriving DecidableEq, Repr

/-- A loss of lane lock (R261): the lanes that lost lock, or alignment lost with every lane locked. -/
structure LaneLoss where
  lanes : Nat
  misaligned : Bool
deriving DecidableEq, Repr

/-- The commands of the block: one constructor for each row of spec/opcode_table.json. -/
inductive Instr where
  /-- SELECT_REGISTER_WRITE (R17): A write to a select register re-points the register set behind it for the writing agent; a write naming an absent instance is counted. -/
  | selectRegisterWrite (a : Agent) (k : SelKind) (v : Nat)
  /-- REGISTER_WRITE (R60): A write to a register that has no row of its own stores, clears or is discarded according to its access code, size and alignment. -/
  | registerWrite (a : Agent) (target : RegTarget) (size : Nat) (v : RegData)
  /-- LOW_HALF_READ (R14): A read of the low half of a 64-bit RO register latches the high half for the reading agent with a tag. -/
  | lowHalfRead (a : Agent) (target : RegTarget) (size : Nat)
  /-- HIGH_HALF_READ (R63): A read of the high half of a 64-bit RO register returns the latched value if the tag matches, otherwise the live value and counts HF_LATCH_MISS. -/
  | highHalfRead (a : Agent) (off size : Nat)
  /-- RC_COUNTER_READ (R13): A read of an RC counter returns its value and clears it in the same access. -/
  | rcCounterRead (a : Agent) (off inc : Nat)
  /-- TALIGN_REQUEST_SEND (R38): Every 125 µs a follower sends a TALIGN REQUEST carrying t1 on VC0 of its upstream port. -/
  | talignRequestSend
  /-- TALIGN_REQUEST_RECEIVE (R39): An upstream device receives a TALIGN REQUEST and answers with a RESPONSE carrying t1, t2 and t3. -/
  | talignRequestReceive (n : Nat)
  /-- TALIGN_RESPONSE_RECEIVE (R38): A follower receives a TALIGN RESPONSE, discards it if stale, or computes the offset and steps or slews its master. -/
  | talignResponseReceive (n : Nat)
  /-- HOLDOVER_ENTRY (R40): When no exchange completes for 1 ms the follower clears XDEV_LOCKED, counts TLY_HOLDOVER and runs free. -/
  | holdoverEntry
  /-- XDEV_LOCK (R40): Once the offset has stayed within ±20 ns for 10 ms, XDEV_LOCKED sets. -/
  | xdevLock
  /-- REPLICA_RESYNC (R42): On wake of a power block each tile replica is reloaded from the master, checked, counted in TLY_RESYNC and TALLY_VALID sets. -/
  | replicaResync (k : PbId)
  /-- TLY_SNAP_ARM_WRITE (R45): A write of 1 to ARM arms a tally snapshot at TLY_SNAP_AT or rejects it and counts TLY_SNAP_LATE or TLY_SNAP_BUSY. -/
  | tlySnapArmWrite (v : Nat)
  /-- TALLY_SNAPSHOT (R46): When the replicas reach TLY_SNAP_AT every powered counter block copies its counters into shadows and TLY_SNAP_SEQ advances. -/
  | tallySnapshot
  /-- HBM_BAND_MODE_WRITE (R54): A write to a band-mode register requests a new interleave mode and holds new accesses to the band. -/
  | hbmBandModeWrite (reg : Fin 3) (v : Nat)
  /-- BAND_MODE_SWITCH (R54): Once earlier accesses to a band complete, its new mode takes effect, held accesses decode under it and HBM_BAND_REMAP counts. -/
  | bandModeSwitch
  /-- ADD (R164): The tile core writes a + b to x[RD]. -/
  | add (t : TileId)
  /-- SUB (R164): The tile core writes a − b to x[RD]. -/
  | sub (t : TileId)
  /-- AND (R164): The tile core writes a AND b to x[RD]. -/
  | and (t : TileId)
  /-- OR (R164): The tile core writes a OR b to x[RD]. -/
  | or (t : TileId)
  /-- XOR (R164): The tile core writes a XOR b to x[RD]. -/
  | xor (t : TileId)
  /-- SLL (R164): The tile core shifts a left by b. -/
  | sll (t : TileId)
  /-- SRL (R164): The tile core shifts a right by b with zeros entering. -/
  | srl (t : TileId)
  /-- SRA (R164): The tile core shifts a right by b with sign bits entering. -/
  | sra (t : TileId)
  /-- SLT (R164): The tile core writes 1 if a < b signed, else 0. -/
  | slt (t : TileId)
  /-- SLTU (R164): The tile core writes 1 if a < b unsigned, else 0. -/
  | sltu (t : TileId)
  /-- MUL (R164): The tile core writes the low 64 bits of a × b. -/
  | mul (t : TileId)
  /-- MULH (R164): The tile core writes the high 64 bits of the signed product. -/
  | mulh (t : TileId)
  /-- MULHU (R164): The tile core writes the high 64 bits of the unsigned product. -/
  | mulhu (t : TileId)
  /-- MIN (R164): The tile core writes the signed minimum of a and b. -/
  | min (t : TileId)
  /-- MAX (R164): The tile core writes the signed maximum of a and b. -/
  | max (t : TileId)
  /-- MINU (R164): The tile core writes the unsigned minimum of a and b. -/
  | minu (t : TileId)
  /-- MAXU (R164): The tile core writes the unsigned maximum of a and b. -/
  | maxu (t : TileId)
  /-- LUI (R164): The tile core writes the sign-extended 18-bit immediate times 2^13. -/
  | lui (t : TileId)
  /-- LOAD (R162): The tile core loads 1, 2, 4 or 8 bytes from its own banks into x[RD]. -/
  | load (t : TileId)
  /-- STORE (R162): The tile core stores 1, 2, 4 or 8 bytes of x[RS2] into its own banks. -/
  | store (t : TileId)
  /-- BEQ (R165): The tile core branches when a equals b. -/
  | beq (t : TileId)
  /-- BNE (R165): The tile core branches when a differs from b. -/
  | bne (t : TileId)
  /-- BLT (R165): The tile core branches when a < b signed. -/
  | blt (t : TileId)
  /-- BGE (R165): The tile core branches when a ≥ b signed. -/
  | bge (t : TileId)
  /-- BLTU (R165): The tile core branches when a < b unsigned. -/
  | bltu (t : TileId)
  /-- BGEU (R165): The tile core branches when a ≥ b unsigned. -/
  | bgeu (t : TileId)
  /-- JAL (R165): The tile core writes the link and jumps relative. -/
  | jal (t : TileId)
  /-- JALR (R165): The tile core writes the link and jumps to a register target. -/
  | jalr (t : TileId)
  /-- CRD (R167): The tile core reads a control register of its own tile into x[RD]. -/
  | crd (t : TileId)
  /-- CWR (R167): The tile core writes a permitted control register, or the write is discarded and counted in TILE_CR_WR_DENY. -/
  | cwr (t : CoreWrite)
  /-- POST (R177): The tile core posts a 64-byte entry to a local queue, waiting while full, or sends it as a POST packet. -/
  | post (t : TileId)
  /-- POST_NB (R177): The tile core posts an entry without waiting, returning full status if the local queue has no room. -/
  | postNb (t : TileId)
  /-- POST_UNBLOCK (R177): A local POST waiting on a full queue is admitted once the queue has room. -/
  | postUnblock (t : TileId)
  /-- POP (R179): The tile core moves the head entry of a command queue to CB, or reports the queue empty. -/
  | pop (t : TileId)
  /-- SEM_SIG (R180): The tile core adds an amount to a local semaphore. -/
  | semSig (t : TileId)
  /-- SEM_SIGR (R180): The tile core signals a semaphore of a named tile, directly or as a SIGNAL packet. -/
  | semSigr (t : TileId)
  /-- SEM_WAIT (R180): The tile core waits until a semaphore holds at least an amount and subtracts it. -/
  | semWait (t : TileId)
  /-- SEM_WAIT_SATISFIED (R181): A waiting SEM.WAIT succeeds when signals raise the semaphore to the amount, which is subtracted in the same instant. -/
  | semWaitSatisfied (t : TileId)
  /-- SEM_TRY (R180): The tile core tries to subtract an amount from a semaphore and writes success or failure. -/
  | semTry (t : TileId)
  /-- SEM_RD (R180): The tile core reads a semaphore value. -/
  | semRd (t : TileId)
  /-- OPE_ISSUE (R171): The tile core passes two instruction words into the OPE queue, waiting while it is full. -/
  | opeIssue (t : TileId)
  /-- VE_ISSUE (R171): The tile core passes one VE instruction word into the VE queue, waiting while it is full. -/
  | veIssue (t : TileId)
  /-- ISSUE_UNBLOCK (R171): An OPE.ISSUE or VE.ISSUE waiting on a full queue proceeds when an entry frees. -/
  | issueUnblock (t : TileId)
  /-- WAIT (R174): The tile core sleeps until a masked event bit is set, or returns at once. -/
  | wait (t : TileId)
  /-- WAITC (R174): As WAIT, and clears the sticky bits it returns. -/
  | waitc (t : TileId)
  /-- EVENT_WAIT_RETURN (R174): A sleeping WAIT or WAITC returns when its event condition becomes true. -/
  | eventWaitReturn (t : TileId)
  /-- SPEC_OPEN (R152): The tile core claims a free branch slot with a window or gets 0xFFFF_FFFF and counts SPEC_OPEN_REFUSED. -/
  | specOpen (t : TileId)
  /-- SPEC_BEGIN (R152): The tile core starts tagging later OPE and VE instructions with a slot. -/
  | specBegin (t : TileId)
  /-- SPEC_END (R152): The tile core stops tagging. -/
  | specEnd (t : TileId)
  /-- SPEC_WAIT (R152): The tile core waits until every tagged instruction of the named slots has completed or been discarded. -/
  | specWait (t : TileId)
  /-- SPEC_WAIT_RETURN (R152): A waiting SPEC.WAIT returns when its slots' tagged instructions are all done. -/
  | specWaitReturn (t : TileId)
  /-- SPEC_RESOLVE (R156): The tile core confirms or drops branch slots; stale slots count SPEC_STALE. -/
  | specResolve (t : TileId)
  /-- SPEC_COMMIT (R156): A confirmed branch whose tagged work has completed commits all its held effects at one instant. -/
  | specCommit (t : TileId) (slot : Fin 4)
  /-- SPEC_WRITEBACK_LINE (R157): A committed shadow line is written back into SB through an idle slot; the slot frees after the last line. -/
  | specWritebackLine (t : TileId) (slot : Asked (Fin 4))
  /-- SPEC_CANCEL_DONE (R156): A dropped slot becomes free once its engines have stopped. -/
  | specCancelDone (t : TileId) (slot : Fin 4)
  /-- SPEC_TIMEOUT (R158): A branch not resolved by open + L is dropped and counts SPEC_TIMEOUT. -/
  | specTimeout (t : TileId) (slot : Fin 4)
  /-- FENCE_MEM (R168): The tile core waits until every earlier store has been accepted by its bank. -/
  | fenceMem (t : TileId)
  /-- FENCE_MEM_COMPLETE (R168): A waiting FENCE.MEM completes when all earlier stores are accepted. -/
  | fenceMemComplete (t : TileId)
  /-- BREAK (R430): The tile core stops itself for the debug broker if access is open, else retires as no operation and counts DBG_BREAK_IGNORED. -/
  | brk (t : TileId)
  /-- OPE_MMA (R103): An OPE_MMA instruction leaves the queue, is checked for legality, and is folded and scheduled by the last. -/
  | opeMma (t : TileId)
  /-- OPE_MMA1 (R94): An OPE_MMA1 instruction leaves the queue, is checked, and runs single-pass with FP32 operands entering F19. -/
  | opeMma1 (t : TileId)
  /-- OPE_STEP (R93): The array takes one step, each active cell adding kd products into its accumulator. -/
  | opeStep (t : TileId)
  /-- OPE_DRAIN_BLOCK (R110): The drain unit starts draining a complete block once the previous drain has ended. -/
  | opeDrainBlock (t : TileId)
  /-- OPE_DRAIN_ROW_WRITE (R112): One drained row is written to a bank through an idle slot or delivered as a seam item. -/
  | opeDrainRowWrite (t : RowWrite)
  /-- OPE_COMPLETION (R113): An OPE instruction completes, OPE_DONE counts and the event unit is signalled. -/
  | opeCompletion (t : TileId)
  /-- VE_ADD (R185): The VE adds A and B element-wise. -/
  | veAdd (t : TileId)
  /-- VE_SUB (R185): The VE subtracts B from A element-wise. -/
  | veSub (t : TileId)
  /-- VE_MUL (R185): The VE multiplies A and B element-wise. -/
  | veMul (t : TileId)
  /-- VE_FMA (R185): The VE computes A × B + C rounded once. -/
  | veFma (t : TileId)
  /-- VE_MIN (R185): The VE takes the element-wise minimum. -/
  | veMin (t : TileId)
  /-- VE_MAX (R185): The VE takes the element-wise maximum. -/
  | veMax (t : TileId)
  /-- VE_ABS (R185): The VE takes the absolute value. -/
  | veAbs (t : TileId)
  /-- VE_NEG (R185): The VE negates. -/
  | veNeg (t : TileId)
  /-- VE_EXP2 (R185): The VE computes 2^x correctly rounded. -/
  | veExp2 (t : TileId)
  /-- VE_LOG2 (R185): The VE computes log2 correctly rounded. -/
  | veLog2 (t : TileId)
  /-- VE_RCP (R185): The VE computes the reciprocal correctly rounded. -/
  | veRcp (t : TileId)
  /-- VE_RSQRT (R185): The VE computes the reciprocal square root correctly rounded. -/
  | veRsqrt (t : TileId)
  /-- VE_SQRT (R185): The VE computes the square root correctly rounded. -/
  | veSqrt (t : TileId)
  /-- VE_CMP (R185): The VE writes one predicate bit per element. -/
  | veCmp (t : TileId)
  /-- VE_SEL (R185): The VE selects A or B per element under a mask. -/
  | veSel (t : TileId)
  /-- VE_RSUM (R185): The VE sums groups of w elements in tree order. -/
  | veRsum (t : TileId)
  /-- VE_RMAX (R185): The VE takes the maximum of groups of w elements. -/
  | veRmax (t : TileId)
  /-- VE_RMIN (R185): The VE takes the minimum of groups of w elements. -/
  | veRmin (t : TileId)
  /-- VE_CVT (R185): The VE converts between format codes. -/
  | veCvt (t : TileId)
  /-- VE_PERM (R185): The VE writes D[j] = A[idx[j]], writing zero for out-of-range indices. -/
  | vePerm (t : TileId)
  /-- VE_TRANSP (R185): The VE transposes consecutive 64 × 64 blocks. -/
  | veTransp (t : TileId)
  /-- VE_COMPLETION (R188): A VE instruction completes in issue order, sets VE_DONE, counts and raises its flags. -/
  | veCompletion (t : TileId)
  /-- TILE_QCFG_WRITE (R176): A write to TILE_QCFG configures, ignores or disables a queue, discarding entries when EN clears. -/
  | tileQcfgWrite (t : TileId) (q : Fin 128) (v : Nat)
  /-- TILE_SEM_WRITE (R181): A firmware write to TILE_SEM sets a semaphore, with coinciding signals added afterwards. -/
  | tileSemWrite (t : TileId) (k : Fin 64) (v : Nat)
  /-- TILE_PHASE_WRITE (R182): A write that changes TILE_PHASE stamps TILE_PHASE_AT and counts TILE_PHASE_CHG. -/
  | tilePhaseWrite (t : TileId) (v : Nat)
  /-- POST_PACKET_RECEIVE (R178): A tile admits a remote POST to an enabled queue with room, or drops and counts it. -/
  | postPacketReceive (n : Nat)
  /-- SIGNAL_PACKET_RECEIVE (R180): A tile adds the amount of a SIGNAL packet to the named semaphore. -/
  | signalPacketReceive (n : Nat)
  /-- WRITE_PACKET_RECEIVE (R240): A destination device writes the lines of a WRITE packet at priority 6 and acknowledges them. -/
  | writePacketReceive (n : Nat)
  /-- ACK_PACKET_RECEIVE (R448): A requester accepts an ACK whose GEN and TAG match an outstanding request, or drops and counts it. -/
  | ackPacketReceive (n : Nat)
  /-- READ_PACKET_RECEIVE (R275): An on-die target reads LEN bytes at ADDR and returns READ_DATA. -/
  | readPacketReceive (n : Nat)
  /-- READ_DATA_RECEIVE (R448): A requester accepts READ_DATA matching its generation and tag, or drops and counts it. -/
  | readDataReceive (n : Nat)
  /-- BANK_ACCESS (R213): A bank grants a slot to its master or a waiting non-master and performs the access, counting any deferral. -/
  | bankAccess (t : TileId) (b : BankId) (reqs : List BankReq) (upset : Upset)
  /-- ECC_WRITEBACK (R217): A corrected scratchpad word is written back in the next idle slot and counted in SPD_CE. -/
  | eccWriteback (t : TileId) (b : Asked BankId)
  /-- SCRUB_LINE_READ (R219): Patrol scrub reads one line of each bank per interval, correcting or reporting errors. -/
  | scrubLineRead (t : TileId) (b : BankId) (upset : Asked Upset)
  /-- SPD_CLEAR_WRITE (R224): A write of 1 to a bank's CLEAR bit starts clearing the bank. -/
  | spdClearWrite (t : TileId) (b : BankId)
  /-- BANK_CLEAR_COMPLETE (R222): A bank finishes clearing, CLEARING drops and held accesses are performed. -/
  | bankClearComplete (t : TileId) (b : BankId)
  /-- HBM_ACCESS (R227): A controller performs a line read or write, or a read-modify-write for a partial write. -/
  | hbmAccess (req : HbmReq) (upset : HbmUpset) (wait : Fin 191)
  /-- HBM_REFRESH (R229): A controller issues a refresh command to a pseudo-channel bank and counts HBM_REFRESH. -/
  | hbmRefresh (c : HbmcId)
  /-- HBM_SCRUB_LINE_READ (R232): HBM patrol scrub reads one line per controller per interval. -/
  | hbmScrubLineRead (c : HbmcId) (upset : HbmUpset)
  /-- HBM_TRAINED (R233): A controller becomes ready again after an hbmc reset and TRAINED reads 1. -/
  | hbmTrained (c : HbmcId)
  /-- HOIST_LINEAR (R239): The hoist takes a linear descriptor from a hoist queue and moves ROW_BYTES bytes. -/
  | hoistLinear (t : TileId)
  /-- HOIST_STRIDED (R239): The hoist takes a strided descriptor and moves COUNT rows between strides. -/
  | hoistStrided (t : TileId)
  /-- HOIST_GATHER (R149): The hoist takes a gather descriptor and fills destination rows by index list. -/
  | hoistGather (t : TileId)
  /-- HOIST_SCATTER (R150): The hoist takes a scatter descriptor and writes or reduces rows by index list. -/
  | hoistScatter (t : TileId)
  /-- HOIST_COMPLETION (R242): A hoist descriptor completes, sets HST_DONE, counts and signals or withholds the semaphore signal. -/
  | hoistCompletion (t : TileId) (q : Fin 32)
  /-- HOIST_REMOTE_TIMEOUT (R244): Remote acknowledgements fail to arrive in time and the descriptor completes with status 0x12. -/
  | hoistRemoteTimeout (t : TileId) (q : Fin 32)
  /-- BAR2_WRITE (R247): A host BAR2 write TLP is split into lines and written to banks or controllers through its window. -/
  | bar2Write (off : Nat) (data : List Byte) (poison : Bool)
  /-- BAR2_READ (R248): A host BAR2 read waits for earlier BAR2 writes to be accepted and then reads its lines. -/
  | bar2Read (off len : Nat)
  /-- BAR2_READ_COMPLETE (R248): A BAR2 read completes to the host after its flush wait and line reads. -/
  | bar2ReadComplete
  /-- FLIT_TRANSMIT (R256): A port sends one sequenced or control flit in a flit slot, carrying ACK and credits. -/
  | flitTransmit (p : PortId)
  /-- FLIT_RECEIVE (R258): A port accepts a sequenced flit with good CRC and expected SEQ, or discards it and may send RETRY_REQ. -/
  | flitReceive (p : PortId) (f : Flit)
  /-- RETRY_REQ_RECEIVE (R259): A transmitter receives RETRY_REQ and resends from the named SEQ. -/
  | retryReqReceive (p : PortId) (seq ack : Nat)
  /-- REPLAY_TIMEOUT (R259): ACK makes no progress for REPLAY_NS and the transmitter resends from the oldest flit. -/
  | replayTimeout (p : PortId)
  /-- INIT_FLIT_RECEIVE (R265): A port receives the peer's INIT flit, records PORT_PEER and enters UP when both ends are acknowledged. -/
  | initFlitReceive (p : PortId) (i : InitInfo)
  /-- DOWN_NOTICE_RECEIVE (R261): A port receives DOWN_NOTICE and goes DOWN with reason 5. -/
  | downNoticeReceive (p : PortId)
  /-- LANE_LOCK_LOSS (R261): A lane in use loses lock or alignment and the port goes DOWN with reason 2. -/
  | laneLockLoss (p : PortId) (lanes : LaneLoss)
  /-- CRC_SILENCE_TIMEOUT (R261): No flit passes its CRC for 2 µs and the port goes DOWN with reason 4. -/
  | crcSilenceTimeout (p : PortId)
  /-- PORT_ENABLE_WRITE (R264): A write of EN moves a port from DISABLED to TRAINING, or refuses it under R267, or takes it DOWN when cleared. -/
  | portEnableWrite (p : PortId) (v : Nat)
  /-- PORT_RETRAIN_WRITE (R264): A write of 1 to RETRAIN moves the port to TRAINING, through DOWN if it was UP. -/
  | portRetrainWrite (p : PortId)
  /-- TRAINING_COMPLETE (R264): IEEE 802.3 link training finishes and the port enters ALIGNING. -/
  | trainingComplete (p : PortId)
  /-- TRAINING_TIMEOUT (R261): Training exceeds TIMEOUT_MS and the port fails with reason 6. -/
  | trainingTimeout (p : PortId)
  /-- ALIGNMENT_COMPLETE (R264): FEC locks, lanes deskew and flit boundaries are found, and the port enters INIT. -/
  | alignmentComplete (p : PortId) (lanes peerLanes : Nat)
  /-- AUTO_RETRAIN_TIMER (R263): With AUTO_RETRAIN set, a DOWN port starts training again 1 ms after the transition. -/
  | autoRetrainTimer (p : PortId)
  /-- PACKET_INJECT (R287): A source builds a packet header, stamps EPOCH and INJ_AT, and routes or drops it. -/
  | packetInject (src : InjectSrc)
  /-- PACKET_RECEIVE_PORT (R284): A packet accepted whole from a port is checked, then delivered locally or routed onward or dropped. -/
  | packetReceivePort (p : PortId)
  /-- RT_ACC_DATA_WRITE (R289): A write to RT_ACC_DATA stores a routing entry, or is refused for an active or held bank. -/
  | rtAccDataWrite (v : Nat)
  /-- RT_ACC_DATA_READ (R294): A read of RT_ACC_DATA returns the entry and increments INDEX when AUTOINC is set. -/
  | rtAccDataRead (a : Agent)
  /-- FAB_EPOCH_WRITE (R289): A write that changes FAB_EPOCH.INJ switches the injection epoch and counts RT_FLIPS. -/
  | fabEpochWrite (v : Nat)
  /-- ALLREDUCE (R303): The seam engine starts an all-reduce descriptor: checks it, computes the signature and sends READY. -/
  | allreduce (t : TileId)
  /-- REDUCE_SCATTER (R303): The seam engine starts a reduce-scatter descriptor. -/
  | reduceScatter (t : TileId)
  /-- ALLGATHER (R303): The seam engine starts an all-gather descriptor. -/
  | allgather (t : TileId)
  /-- REDUCE (R303): The seam engine starts a reduce-to-root descriptor. -/
  | reduce (t : TileId)
  /-- BROADCAST (R303): The seam engine starts a broadcast descriptor. -/
  | broadcast (t : TileId)
  /-- ALLTOALL (R303): The seam engine starts an all-to-all descriptor. -/
  | alltoall (t : TileId)
  /-- BARRIER (R303): The seam engine starts a barrier descriptor. -/
  | barrier (t : TileId)
  /-- SEAM_READY_RECEIVE (R317): A READY packet is compared by signature, held as a pending record, or dropped. -/
  | seamReadyReceive (n : Nat)
  /-- SEAM_DATA_RECEIVE (R311): A SEAM DATA packet is checked, combined or stored, and a received step is acknowledged. -/
  | seamDataReceive (n : Nat)
  /-- SEAM_ACK_RECEIVE (R311): A SEAM ACK from a receiver completes the sender's step once all ACKs are in. -/
  | seamAckReceive (n : Nat)
  /-- SEAM_REPLAY_RECEIVE (R322): A sender receiving REPLAY resends the step from kept bytes, or treats it as READY if not yet sent. -/
  | seamReplayReceive (n : Nat)
  /-- COLL_ABORT_RECEIVE (R319): A member receiving COLL_ABORT aborts with reason 2 and forwards it once, or sets ABORTED when idle. -/
  | collAbortReceive (n : Nat)
  /-- COLL_STEP_BEGIN (R311): A member begins a step once the previous step is received and combined and peers' READY have arrived. -/
  | collStepBegin (g : GroupId)
  /-- SEAM_ITEM_ACCEPT (R315): The seam engine accepts an OPE drain item as initial partials for a running descriptor. -/
  | seamItemAccept (t : TileId)
  /-- COLL_COMMIT (R312): After the last step's receipt the seam engine narrows and copies the staged output to OUT. -/
  | collCommit (g : GroupId)
  /-- COLL_COMPLETE (R312): A collective completes once its commit copy and every step are done, setting SEAM_DONE and signalling. -/
  | collComplete (g : GroupId)
  /-- COLL_STEP_TIMEOUT (R322): A step waited on has received no packet for COLL_STEP_TIMEOUT_NS and REPLAY is sent. -/
  | collStepTimeout (g : GroupId)
  /-- COLL_ACK_TIMEOUT (R323): A sender without ACK after COLL_STEP_TIMEOUT_NS resends the step, aborting at the replay limit. -/
  | collAckTimeout (g : GroupId)
  /-- COLL_STALL (R321): A running collective without progress for COLL_PROGRESS_TIMEOUT_NS raises a stall and keeps waiting. -/
  | collStall (g : GroupId)
  /-- HOST_SIDE_RESET (R343): PERST# assertion, a hot reset, a link-down or an FLR resets the adit and, per PERST_SCOPE, the device. -/
  | hostSideReset (k : HostReset)
  /-- UNSUPPORTED_REQUEST (R337): A request that hits no BAR or is of an unsupported kind is answered as Unsupported Request and counted. -/
  | unsupportedRequest
  /-- MSIX_EVENT (R341): An event on an MSI-X vector sends a message, sets pending, merges or is discarded. -/
  | msixEvent (v : Fin 2048)
  /-- MSIX_UNMASK (R341): When a vector's mask clears, its pending message is sent. -/
  | msixUnmask (v : Fin 2048) (mask : Bool)
  /-- MBX_DOORBELL_WRITE (R358): A write of 1 to MBX_DOORBELL moves an idle or done channel to BUSY, or is discarded and counted. -/
  | mbxDoorbellWrite (c : ChanId) (v : Nat)
  /-- MBX_REQ_WRITE (R358): A host write to a request buffer is stored, or discarded and counted while the channel is BUSY. -/
  | mbxReqWrite (c : ChanId) (word : Fin 2032) (wide : Bool) (v : Nat)
  /-- MBX_DISPATCH (R359): The mailbox service takes the oldest latched doorbell, checks the header and executes or forwards the command. -/
  | mbxDispatch
  /-- HELLO (R366): Firmware negotiates the YCP version and feature map. -/
  | hello (c : ChanId)
  /-- GET_INFO (R363): Firmware returns device information. -/
  | getInfo (c : ChanId)
  /-- EVT_SUBSCRIBE (R383): Firmware subscribes event classes and forwarded interrupt sources to host vectors. -/
  | evtSubscribe (c : ChanId) (classes : List (Nat × Nat)) (sources : List Nat)
  /-- ECHO (R363): Firmware echoes the request. -/
  | echo (c : ChanId)
  /-- SET_WINDOW (R339): Firmware writes an ADT_WIN_BASE so later BAR2 TLPs use the new base. -/
  | setWindow (c : ChanId) (w base : Nat)
  /-- SET_BAND_MODE (R54): Firmware changes the interleave mode of HBM bands. -/
  | setBandMode (c : ChanId) (bands : List (Nat × Nat))
  /-- BANK_CLEAR (R224): Firmware clears a scratchpad bank through its CLEAR bit. -/
  | bankClear (c : ChanId) (t : Nat) (b : BankId)
  /-- QUEUE_CFG (R176): Firmware configures tile queues through TILE_QCFG. -/
  | queueCfg (c : ChanId) (entries : List (Nat × Nat × Nat))
  /-- STREAM_BIND (R196): Firmware enables or disables a checked pair of stream endpoints and initialises their semaphores. -/
  | streamBind (c : ChanId) (enable : Bool) (prod cons : StreamEnd)
  /-- STAGE_SET (R194): Firmware writes the stage identifier of tiles. -/
  | stageSet (c : ChanId) (entries : List (Nat × Nat))
  /-- SR_KEYS (R80): Firmware writes the stochastic-rounding keys and tag of tiles. -/
  | srKeys (c : ChanId) (entries : List (Nat × List (Nat × Nat) × Option Nat))
  /-- SNAPSHOT_ARM (R45): Firmware arms a tally snapshot at a requested instant. -/
  | snapshotArm (c : ChanId) (at_ : Nat)
  /-- TALLY_ROLE (R38): Firmware sets the tally role and upstream port. -/
  | tallyRole (c : ChanId) (role port : Nat)
  /-- SET_PERST_SCOPE (R343): Firmware sets ADT_CFG.PERST_SCOPE. -/
  | setPerstScope (c : ChanId) (scope : Nat)
  /-- TILE_START (R170): Firmware checks the entries and starts named tile cores at their program counters. -/
  | tileStart (c : ChanId)
  /-- PORT_CFG (R266): Firmware writes port control and buffer configuration. -/
  | portCfg (c : ChanId) (p : Nat) (cfg : PortCfg)
  /-- PORT_RETRAIN (R264): Firmware retrains a port. -/
  | portRetrain (c : ChanId) (p : Nat)
  /-- SET_DEV_ID (R277): Firmware assigns or clears the logical device ID, refusing 0xF_FFFF. -/
  | setDevId (c : ChanId) (id : Option Nat)
  /-- RT_LOAD (R289): Firmware loads routing-table entries into a bank, subject to the epoch refusal rule. -/
  | rtLoad (c : ChanId) (bank : Nat) (entries : List (Nat × Nat × Nat))
  /-- EPOCH_SET (R287): Firmware sets the injection epoch. -/
  | epochSet (c : ChanId) (e : Nat)
  /-- VC_WEIGHT (R279): Firmware writes VC weights for ports and end stations. -/
  | vcWeight (c : ChanId) (ports : List (Nat × Nat)) (endStation : Option Nat)
  /-- GROUP_CFG (R297): Firmware configures a collective group and caches its member-map entries, or refuses it. -/
  | groupCfg (c : ChanId) (g : Nat) (cfg : GroupIn)
  /-- GROUP_RESET (R319): Firmware clears ABORTED and writes COLL_SEQ of a group. -/
  | groupReset (c : ChanId) (g seq : Nat)
  /-- GROUP_ABORT (R318): Firmware aborts a group's collective with reason 6. -/
  | groupAbort (c : ChanId) (g : Nat)
  /-- GROUP_ORDER (R132): Firmware writes COLL_ORDER.MODE after checking the peer limit. -/
  | groupOrder (c : ChanId) (g mode : Nat)
  /-- SET_CAP (R392): Firmware writes the power cap, clamping to TDP or refusing below 600 W. -/
  | setCap (c : ChanId) (watts : Nat)
  /-- GET_POWER (R407): Firmware returns power estimates and pace information. -/
  | getPower (c : ChanId)
  /-- PACE_MODE (R408): Firmware turns pace matching on or off. -/
  | paceMode (c : ChanId) (on : Bool)
  /-- PB_GATE (R399): Firmware switches a power block off or on, refusing blocks with enabled endpoints or queues. -/
  | pbGate (c : ChanId) (k : Nat) (on : Bool)
  /-- RESET (R444): The RAS agent performs a tile, port, hbmc, component or warm reset on host request. -/
  | reset (c : ChanId)
  /-- GET_ERRORS (R441): The RAS agent returns log records from a starting sequence number. -/
  | getErrors (c : ChanId)
  /-- POSTMORTEM_READ (R454): The RAS agent returns 8 KiB of the post-mortem record at an offset. -/
  | postmortemRead (c : ChanId) (off : Nat)
  /-- RAS_SET (R457): The RAS agent writes checked RAS_ control registers in order. -/
  | rasSet (c : ChanId)
  /-- RAS_CLEAR (R457): The RAS agent clears RAS_PM_STATUS.VALID and RAS_HANG_INFO.VALID. -/
  | rasClear (c : ChanId)
  /-- DBG_CHALLENGE (R432): The debug broker draws a fresh nonce and returns it with the identity hash. -/
  | dbgChallenge (c : ChanId)
  /-- DBG_UNLOCK (R434): The debug broker checks an awl token and opens debug access, or closes it with LEN 0. -/
  | dbgUnlock (c : ChanId)
  /-- GLOBAL_STOP (R421): The debug broker begins a halt wave with a HALT_ID and optional dump address. -/
  | globalStop (c : ChanId)
  /-- RESUME (R429): The debug broker resumes a halted device or a tile core stopped by BREAK. -/
  | resume (c : ChanId)
  /-- PCS_CFG (R420): The debug broker configures the program-counter sampler. -/
  | pcsCfg (c : ChanId)
  /-- PCS_TAIL (R420): The debug broker advances the sampler ring's tail. -/
  | pcsTail (c : ChanId)
  /-- SKIP_START (R461): The CRC/snapshot service arms a skip snapshot or aborts the active one. -/
  | skipStart (c : ChanId)
  /-- CRC_SCAN (R472): The CRC/snapshot service computes a CRC over a memory range. -/
  | crcScan (c : ChanId)
  /-- BACKFILL (R475): The fabric agent performs STANDBY, ASSUME or RETIRE for backfill. -/
  | backfill (c : ChanId)
  /-- FW_WRITE (R356): Firmware writes into the image that is not booted. -/
  | fwWrite (c : ChanId) (image : Fin 2) (off : Nat) (data : List Byte)
  /-- FW_ACTIVATE (R356): Firmware verifies the written image and writes a boot-preference record naming it. -/
  | fwActivate (c : ChanId)
  /-- ATTEST (R492): The CRC/snapshot service returns a signed attestation report with the identity certificate. -/
  | attest (c : ChanId)
  /-- CFG_RECORD_WRITE (R488): The CRC/snapshot service validates and writes a signed configuration record, optionally advancing its counter. -/
  | cfgRecordWrite (c : ChanId)
  /-- RAS_NOTICE_RECEIVE (R442): A device receives a RAS notice MGMT packet, counts it and posts event 0x0330. -/
  | rasNoticeReceive (n : Nat)
  /-- COMPONENT_FAULT (R350): A component suffers an MPU, bus or stack fault and its watcher resets it or marks it FAILED. -/
  | componentFault (k : CompId) (cause : CompCause)
  /-- HEARTBEAT_MISS (R350): A component misses its 10 ms heartbeat and faults. -/
  | heartbeatMiss (k : CompId)
  /-- COMPONENT_RESTART_COMPLETE (R350): A restarted component resumes service and HF_COMP_RESTARTS counts. -/
  | componentRestartComplete (k : CompId)
  /-- ROM_BOOT (R355): HF0 starts in ROM and tries images by copy, header, signature, digest and rollback checks. -/
  | romBoot (flashErrA flashErrB ctrErr : Bool)
  /-- HF_BOOT_READY_WRITE (R356): Firmware writes HF_BOOT_CTRL.READY, which sets ADT_STATUS.FW_READY. -/
  | hfBootReadyWrite (v : Nat)
  /-- BOOT_WATCHDOG_EXPIRY (R356): The 1,600 ms boot watchdog expires, the ROM resets the headframe and tries the other image. -/
  | bootWatchdogExpiry
  /-- INTERRUPT_EVENT (R372): A source event sets PENDING, merges, or is discarded, and is forwarded to the host if FWD is set. -/
  | interruptEvent (n : SrcId)
  /-- INTERRUPT_DELIVERY (R375): The controller delivers the winning deliverable source to a core, pushing its stack entry. -/
  | interruptDelivery (core : CoreId) (late : Bool)
  /-- IC_SRC_CFG_WRITE (R373): A write to IC_SRC_CFG configures a source, ignoring changes of TARGET or PRIO while enabled. -/
  | icSrcCfgWrite (n : SrcId) (v : Nat)
  /-- IC_EOI_WRITE (R377): A handler completes a source, popping the stack or raising a stack fault on mismatch. -/
  | icEoiWrite (k : CompId) (v : Nat)
  /-- IC_STACK_FIX_WRITE (R378): The RAS agent removes a named source's entry from a core's stack. -/
  | icStackFixWrite (v : Nat)
  /-- IC_SIGNAL_WRITE (R380): A core raises a message or software source by number. -/
  | icSignalWrite (core : CoreId) (v : Nat)
  /-- IC_TIMER_EXPIRY (R381): A core timer reaches IC_TIMER_AT, raises its source and reads zero. -/
  | icTimerExpiry (core : CoreId) (i : Fin 4)
  /-- HEADFRAME_STANDBY (R382): With STANDBY_EN set and every core idle, the headframe clock stops and ASLEEP reads 1. -/
  | headframeStandby
  /-- LAMP_WAKE (R382): A watched source event restarts the headframe clock, counts IC_LAMP_WAKES and clears ASLEEP. -/
  | lampWake
  /-- ESTIMATION_WINDOW_CLOSE (R388): A 2,048 ns window closes, estimates are formed and the hardware peak and safe-mode limits are applied. -/
  | estimationWindowClose (w : WindowIn)
  /-- POWER_LOOP_INTERVAL (R401): Every 16,384 ns the power/thermal loop learns phase demand, allocates the cap and selects operating points. -/
  | powerLoopInterval (rates : List Nat)
  /-- VSET_SLEW_COMPLETE (R398): A block's voltage slew ends and the loop writes the deferred ISSUE value. -/
  | vsetSlewComplete (k : PbId)
  /-- GAIN_CALIBRATION (R391): Every 1 ms firmware reads measured input power and adjusts GAIN. -/
  | gainCalibration (measured : Nat)
  /-- DROOP_TRIP (R402): A block's rail falls below the droop threshold and its issue is limited to DROOP_FRAC. -/
  | droopTrip (k : PbId)
  /-- DROOP_HOLD_END (R402): The rail has stayed above the threshold for HOLD_NS and the droop limit is released. -/
  | droopHoldEnd (k : PbId)
  /-- PACE_BEACON_SEND (R406): The beacon engine sends a PACE packet 200 ns after a qualifying window close. -/
  | paceBeaconSend
  /-- PACE_BEACON_RECEIVE (R407): A received beacon updates or replaces a pace-table entry and may post an alert. -/
  | paceBeaconReceive (n : Nat)
  /-- DBG_HALT_GO_WRITE (R421): A write of GO begins a halt wave that stops every island and sends HALT flits. -/
  | dbgHaltGoWrite (v id : Nat)
  /-- DBG_HALT_RESUME_WRITE (R429): A write of RESUME restarts the halted islands and sends resume flits. -/
  | dbgHaltResumeWrite (v : Nat)
  /-- HALT_COMPLETE (R421): Every island has stopped, HALTED sets, DBG_HALTS counts and event 0x0501 is posted. -/
  | haltComplete
  /-- HALT_FLIT_RECEIVE (R423): A HALT flit begins a wave for a new ID, closes a link record, merges or is rejected. -/
  | haltFlitReceive (p : PortId) (lastSeq id origin stamp : Nat)
  /-- RESUME_FLIT_RECEIVE (R429): A resume flit with the device's HALT_ID resumes the device and is forwarded. -/
  | resumeFlitReceive (p : PortId) (id : Nat)
  /-- LINK_RECORD_TIMEOUT (R424): A link whose peer sends no marker within 1 ms is closed with its record incomplete. -/
  | linkRecordTimeout (p : PortId)
  /-- SCAN_OUT (R427): Once the cut is complete the debug broker writes the dump records and posts event 0x0502 or 0x0503. -/
  | scanOut
  /-- PCS_SAMPLE (R417): At each sample instant the sampler captures tile records and writes or drops a sample. -/
  | pcsSample
  /-- DEBUG_ACCESS_EXPIRY (R434): At DBG_OPEN_UNTIL debug access closes and tile cores stopped by BREAK resume. -/
  | debugAccessExpiry
  /-- NONCE_EXPIRY (R432): A debug nonce becomes invalid 300 s after issue. -/
  | nonceExpiry
  /-- RAS_ERROR_REPORT (R439): The RAS agent receives an error report, logs it, counts its class and posts an event. -/
  | rasErrorReport
  /-- CE_THRESHOLD_POLL (R440): Every 1 ms the RAS agent checks class-0 counters and posts event 0x0301 over threshold. -/
  | ceThresholdPoll
  /-- HANG_SCAN (R450): Every RAS_HANG_SCAN_US the hang detector classifies quiet tiles and reports hangs. -/
  | hangScan
  /-- POSTMORTEM_COMPLETE (R454): The dump is written, RAS record types are appended, RAS_PM_STATUS sets and event 0x0311 is posted. -/
  | postmortemComplete
  /-- TILE_RESET (R443): One tile is reset, its work discarded, its generation incremented and its core held in STATE 0. -/
  | tileReset (t : TileId)
  /-- PORT_RESET (R443): One port is reset, discarding as at link-down, and retrains if enabled. -/
  | portReset (p : PortId)
  /-- HBMC_RESET (R233): One controller enters self-refresh, discards pending accesses and retrains. -/
  | hbmcReset (c : HbmcId)
  /-- WARM_RESET (R443): Every warm-domain field is restored and HF0 restarts in ROM, keeping memory contents. -/
  | warmReset
  /-- COLD_RESET (R504): COLD_RST# held low restores every field and restarts power blocks without removing power. -/
  | coldReset (lowNs : Nat)
  /-- SKIP_STAGING_START (R463): At the first instant at or after T_Q the skip engine begins building the image. -/
  | skipStagingStart
  /-- SKIP_STAGED (R463): Staging ends, SKP_STAGED_AT is stamped, event 0x0601 is posted and the semaphore is signalled. -/
  | skipStaged
  /-- SKIP_CHUNK_SHIPPED (R467): Every packet of a shipped chunk is acknowledged and SKP_CHUNKS_SHIPPED counts. -/
  | skipChunkShipped
  /-- SKIP_CHUNK_TIMEOUT (R467): A chunk is not acknowledged in SKP_SHIP_TIMEOUT_NS and is resent whole, or the skip aborts. -/
  | skipChunkTimeout
  /-- SKIP_HEARTBEAT (R465): Every 1 ms while staging or shipping the engine writes a heartbeat header to the alive slot. -/
  | skipHeartbeat
  /-- CRC_CTRL_WRITE (R471): A write to CRC_CTRL selects a code and loads its initial value. -/
  | crcCtrlWrite (v : Nat)
  /-- CRC_DATA8_WRITE (R471): A write to CRC_DATA8 feeds one byte to the CRC. -/
  | crcData8Write (v : Nat)
  /-- CRC_DATA16_WRITE (R471): A write to CRC_DATA16 feeds two bytes to the CRC. -/
  | crcData16Write (v : Nat)
  /-- CRC_DATA32_WRITE (R471): A write to CRC_DATA32 feeds four bytes to the CRC. -/
  | crcData32Write (v : Nat)
  /-- CRC_RESULT_READ (R471): A read of CRC_RESULT waits until the feed is free and returns the finalised CRC. -/
  | crcResultRead (a : Agent)
  /-- NH_SAMPLE (R473): Every PERIOD_MS the service arms a snapshot, computes numeric-health shares and may post alerts. -/
  | nhSample
  /-- ROLLBACK_ADVANCE (R491): After SEC_ADV_DELAY_S of readiness component 5 increments counter 0 up to the image's ROLLBACK. -/
  | rollbackAdvance (good : Bool)
  /-- AUX_POWER_ON (R502): 3.3 V_AUX enters tolerance and housekeeping domains start. -/
  | auxPowerOn
  /-- MOD_PWR_EN_RISE (R502): MOD_PWR_EN rises and the internal rails ramp in order until MOD_PWRGD rises. -/
  | modPwrEnRise
  /-- RAILS_GOOD (R502): Every internal rail is in tolerance and MOD_PWRGD rises. -/
  | railsGood
  /-- MOD_PWR_EN_FALL (R503): MOD_PWR_EN falls and rails come down in reverse order, losing memory contents. -/
  | modPwrEnFall
  /-- PERST_DEASSERT (R502): The effective PERST# deassertion starts the tally, bank clearing, the ROM and adit link training. -/
  | perstDeassert
  /-- POWER_STAGE_WARNING (R497): A power-stage warning threshold is crossed, MOD_ALERT# asserts and source 443 is raised. -/
  | powerStageWarning
  /-- TRIP (R505): A junction, stack or power-stage trip asserts THERMTRIP#, removes rails and latches the cause. -/
  | trip (causes : List TripCause)
  /-- REF_CLOCK_LOSS (R498): REF100 stops, DEV_VALID clears within 10 µs and a class-3 error results. -/
  | refClockLoss
  /-- SIDEBAND_I2C_READ (R499): An I²C transaction at address 0x4C reads 4 bytes of slot 0 register space. -/
  | sidebandI2cRead (off : Nat)
  /-- UART_RX_CHAR (R500): A character received on UART_RX is discarded. -/
  | uartRxChar (c : Byte)
  /-- JTAG_INSTRUCTION (R501): An IEEE 1149.1 instruction runs on the boundary-scan port. -/
  | jtagInstruction (i : JtagInstr)
  /-- HBM_TRAINING_LOSS (R455): An HBM controller leaves TRAINED of itself, raising its interrupt source as a resource-fatal error that leads to an hbmc reset. -/
  | hbmTrainingLoss (c : HbmcId)
  /-- POWER_STAGE_WARNING_CLEAR (R497): The last power-stage warning condition ends and MOD_ALERT# is released. -/
  | powerStageWarningClear
  /-- TRIP_LATCH_RELEASE (R505): MOD_PWR_EN has been low for 100 ms, the trip latch clears and THERMTRIP# is released. -/
  | tripLatchRelease
  /-- AUX_POWER_LOSS (R505): 3.3 V_AUX is lost, which loses the trip latch and the housekeeping state, so the next start reports START_CAUSE 0. -/
  | auxPowerLoss
  /-- ADIT_LINK_UP (R335): Adit link training completes, the link comes up and the host-port interrupt source is raised. -/
  | aditLinkUp (width : Fin 5) (speed : Fin 6)
  /-- PCI_CONFIG_WRITE (R341): A host configuration write changes Resizable BAR size, MSI-X Enable, Function Mask or Bus Master Enable, which alters BAR2 window decoding and MSI-X delivery. -/
  | pciConfigWrite (w : PciWrite)
deriving DecidableEq, Repr

end Sys2Proof
end

