-- ==== Sys2Proof/Decode.lean ====
section
/-! DEFINITION. The command that a word of bits spells. The opcode table gives its rows no bits (the block has no instruction words of
its own; the tile core's and the engines' words are decoded by the machine, in TileCore.lean, Ope.lean and Ve.lean), so no word
spells a command (assumption log 8). -/
namespace Sys2Proof

/-- The command of a table word: none, since no row of the table has bits. -/
def decodeTableWord (_nbits _w : Nat) : Option Instr := none

end Sys2Proof
end

