-- ==== Sys2Proof/Machine/Operands.lean ====
section
/-! DEFINITION. The twelve number formats (chapter 4): decoding, exact arithmetic on values, and every narrowing with its
flags and health classes (R65 to R86, R509). -/
namespace Sys2Proof.Machine

/-- The number formats of R65. -/
inductive Fmt where
  | fp32 | f19 | bf16 | fp16 | e4m3 | e5m2 | e3m2 | e2m3 | e2m1 | int32 | int8 | int4
deriving DecidableEq, Repr

/-- Format of a 4-bit code; codes 12 to 15 are reserved (R65). -/
def Fmt.ofCode : Nat → Option Fmt
  | 0 => some .fp32 | 1 => some .f19 | 2 => some .bf16 | 3 => some .fp16
  | 4 => some .e4m3 | 5 => some .e5m2 | 6 => some .e3m2 | 7 => some .e2m3
  | 8 => some .e2m1 | 9 => some .int32 | 10 => some .int8 | 11 => some .int4
  | _ => none

/-- The code of a format (R65). -/
def Fmt.code : Fmt → Nat
  | .fp32 => 0 | .f19 => 1 | .bf16 => 2 | .fp16 => 3 | .e4m3 => 4 | .e5m2 => 5
  | .e3m2 => 6 | .e2m3 => 7 | .e2m1 => 8 | .int32 => 9 | .int8 => 10 | .int4 => 11

/-- Width in bits (R65). -/
def Fmt.width : Fmt → Nat
  | .fp32 => 32 | .f19 => 19 | .bf16 => 16 | .fp16 => 16 | .e4m3 => 8 | .e5m2 => 8
  | .e3m2 => 6 | .e2m3 => 6 | .e2m1 => 4 | .int32 => 32 | .int8 => 8 | .int4 => 4

/-- Fraction bits p (R65). -/
def Fmt.fracBits : Fmt → Nat
  | .fp32 => 23 | .f19 => 10 | .bf16 => 7 | .fp16 => 10 | .e4m3 => 3 | .e5m2 => 2
  | .e3m2 => 2 | .e2m3 => 3 | .e2m1 => 1 | _ => 0

/-- Exponent bits (R65). -/
def Fmt.expBits : Fmt → Nat
  | .fp32 => 8 | .f19 => 8 | .bf16 => 8 | .fp16 => 5 | .e4m3 => 4 | .e5m2 => 5
  | .e3m2 => 3 | .e2m3 => 2 | .e2m1 => 2 | _ => 0

/-- Exponent bias (R65). -/
def Fmt.bias : Fmt → Nat
  | .fp32 => 127 | .f19 => 127 | .bf16 => 127 | .fp16 => 15 | .e4m3 => 7 | .e5m2 => 15
  | .e3m2 => 3 | .e2m3 => 1 | .e2m1 => 1 | _ => 0

/-- Integer formats. -/
def Fmt.isInt : Fmt → Bool
  | .int32 | .int8 | .int4 => true
  | _ => false

/-- Block-scaled formats (R65). -/
def Fmt.isMx : Fmt → Bool
  | .e4m3 | .e5m2 | .e3m2 | .e2m3 | .e2m1 => true
  | _ => false

/-- Formats whose all-ones exponent is reserved for infinity and NaN (R66). -/
def Fmt.isIeee : Fmt → Bool
  | .fp32 | .f19 | .bf16 | .fp16 | .e5m2 => true
  | _ => false

/-- Formats that have a NaN (R66). -/
def Fmt.hasNan (f : Fmt) : Bool := f.isIeee || f == .e4m3

/-- Encoding of the largest finite magnitude (boundary table of R66). -/
def Fmt.maxFinite : Fmt → Nat
  | .fp32 => 0x7F7FFFFF | .f19 => 0x3FBFF | .bf16 => 0x7F7F | .fp16 => 0x7BFF | .e4m3 => 0x7E
  | .e5m2 => 0x7B | .e3m2 => 0x1F | .e2m3 => 0x1F | .e2m1 => 0x7
  | .int32 => 0x7FFFFFFF | .int8 => 0x7F | .int4 => 0x7

/-- Canonical NaN (boundary table of R66); 0 where the format has none (R86 stores +0). -/
def Fmt.canonNan : Fmt → Nat
  | .fp32 => 0x7FC00000 | .f19 => 0x3FE00 | .bf16 => 0x7FC0 | .fp16 => 0x7E00 | .e4m3 => 0x7F | .e5m2 => 0x7E
  | _ => 0

/-- Positive infinity (boundary table of R66); 0 where the format has none. -/
def Fmt.infinity : Fmt → Nat
  | .fp32 => 0x7F800000 | .f19 => 0x3FC00 | .bf16 => 0x7F80 | .fp16 => 0x7C00 | .e5m2 => 0x7C
  | _ => 0

/-- Exponent of the largest normal value, the E of R72. -/
def Fmt.mxEmax : Fmt → Int
  | .e2m1 => 2 | .e3m2 => 4 | .e2m3 => 2 | .e4m3 => 8 | .e5m2 => 15
  | _ => 0

/-- A number read from an encoding, or the exact result of an operation: a finite value (-1)^neg * mant * 2^exp,
an infinity, or a NaN (signalling or quiet). -/
inductive Num where
  | fin (neg : Bool) (mant : Nat) (exp : Int)
  | inf (neg : Bool)
  | nan (signalling : Bool)
deriving DecidableEq, Repr

/-- The five sticky conditions of R87. -/
structure NumFlags where
  flushed : Bool := false
  inv : Bool := false
  inx : Bool := false
  unf : Bool := false
  ovf : Bool := false
deriving DecidableEq, Repr

/-- No condition. -/
def NumFlags.none : NumFlags := {}

/-- Conditions of two operations together (sticky, R87). -/
def NumFlags.or (a b : NumFlags) : NumFlags :=
  { flushed := a.flushed || b.flushed, inv := a.inv || b.inv, inx := a.inx || b.inx,
    unf := a.unf || b.unf, ovf := a.ovf || b.ovf }

/-- The W1C layout of R87: FLUSHED 4, INV 3, INX 2, UNF 1, OVF 0. -/
def NumFlags.toBits (f : NumFlags) : Nat :=
  b2n f.flushed * 16 + b2n f.inv * 8 + b2n f.inx * 4 + b2n f.unf * 2 + b2n f.ovf

/-- Reads the layout of R87. -/
def NumFlags.ofBits (n : Nat) : NumFlags :=
  { flushed := bitOf n 4, inv := bitOf n 3, inx := bitOf n 2, unf := bitOf n 1, ovf := bitOf n 0 }

/-- A stored value: its bits, the flags it raises (R509), and its health classes (R90). -/
structure Stored where
  bits : Nat
  fl : NumFlags := {}
  hOvf : Bool := false
  hVanish : Bool := false
  hNan : Bool := false
deriving DecidableEq, Repr

/-- The round modes of R76; stochastic rounding carries its 16-bit draw (R78). -/
inductive Round where
  | rne
  | rtz
  | sr (draw : Nat)
deriving DecidableEq, Repr

/-- The mode of a 2-bit round field with the draw that the site would take; 3 is treated as 0 (R76). -/
def Round.ofField (n draw : Nat) : Round :=
  match n % 4 with
  | 1 => .rtz
  | 2 => .sr (draw % 65536)
  | _ => .rne

/-- The generator of R79. -/
def srDraw (key tag site index : Nat) : Nat :=
  let m := 2 ^ 64
  let x := ((trunc 32 tag) <<< 32) ||| ((trunc 8 site) <<< 24) ||| (index % 2 ^ 24)
  let x := (x ^^^ (key % m)) % m
  let x := (x + 0x9E3779B97F4A7C15) % m
  let x := x ^^^ (x >>> 30)
  let x := (x * 0xBF58476D1CE4E5B9) % m
  let x := x ^^^ (x >>> 27)
  let x := (x * 0x94D049BB133111EB) % m
  let x := x ^^^ (x >>> 31)
  x >>> 48

/-- The sign bit of a floating-point encoding. -/
def Fmt.signBit (f : Fmt) : Nat := 2 ^ (f.width - 1)

/-- The value of an encoding (R66; two's complement for the integer formats). -/
def unpack (f : Fmt) (bits : Nat) : Num :=
  if f.isInt then
    let v := toSigned f.width bits
    .fin (v < 0) v.natAbs 0
  else
    let p := f.fracBits
    let fr := bits % 2 ^ p
    let e := (bits >>> p) % 2 ^ f.expBits
    let s := bitOf bits (f.width - 1)
    let ones := 2 ^ f.expBits - 1
    if f.isIeee && e == ones then
      if fr == 0 then .inf s else .nan (f != .e5m2 && !(bitOf fr (p - 1)))
    else if f == .e4m3 && e == ones && fr == 7 then .nan false
    else if e == 0 then .fin s fr (1 - (f.bias : Int) - (p : Int))
    else .fin s (2 ^ p + fr) ((e : Int) - (f.bias : Int) - (p : Int))

/-- A subnormal encoding: zero exponent, non-zero fraction (R66). -/
def isSubnormal (f : Fmt) (bits : Nat) : Bool :=
  !f.isInt && (bits >>> f.fracBits) % 2 ^ f.expBits == 0 && bits % 2 ^ f.fracBits != 0

/-- A subnormal input flushed to zero with its sign kept, setting FLUSHED only (R81, R83). -/
def unpackFlush (flush : Bool) (f : Fmt) (bits : Nat) : Num × NumFlags :=
  if flush && isSubnormal f bits then (.fin (bitOf bits (f.width - 1)) 0 0, { flushed := true })
  else (unpack f bits, {})

/-- Is the number a NaN? -/
def Num.isNan : Num → Bool
  | .nan _ => true
  | _ => false

/-- Is the number a signalling NaN? (R86: it sets INV.) -/
def Num.isSnan : Num → Bool
  | .nan s => s
  | _ => false

/-- Is the number infinite or a NaN? -/
def Num.isSpecial : Num → Bool
  | .fin .. => false
  | _ => true

/-- Is the number a zero of either sign? -/
def Num.isZero : Num → Bool
  | .fin _ 0 _ => true
  | _ => false

/-- Sign of the number; a NaN has none. -/
def Num.sign : Num → Bool
  | .fin s _ _ => s
  | .inf s => s
  | .nan _ => false

/-- Negation; a NaN stays a NaN. -/
def Num.neg : Num → Num
  | .fin s m e => .fin (!s) m e
  | .inf s => .inf (!s)
  | .nan s => .nan s

/-- Absolute value. -/
def Num.abs : Num → Num
  | .fin _ m e => .fin false m e
  | .inf _ => .inf false
  | .nan s => .nan s

/-- Signed integer multiple of 2^e0 that a finite number is, for e0 not above its exponent. -/
def Num.scaledTo (e0 : Int) : Num → Int
  | .fin s m e =>
    let v : Int := ((m <<< (e - e0).toNat : Nat) : Int)
    if s then -v else v
  | _ => 0

/-- Exponent of a finite number; none for specials. -/
def Num.exp? : Num → Option Int
  | .fin _ _ e => some e
  | _ => none

/-- The exact product of two numbers, and whether it sets INV (0 times infinity, or a signalling NaN; R86). -/
def Num.mul (a b : Num) : Num × Bool :=
  match a, b with
  | .nan x, .nan y => (.nan false, x || y)
  | .nan x, _ => (.nan false, x)
  | _, .nan y => (.nan false, y)
  | .inf s, .inf t => (.inf (s != t), false)
  | .inf s, .fin t m _ => if m == 0 then (.nan false, true) else (.inf (s != t), false)
  | .fin t m _, .inf s => if m == 0 then (.nan false, true) else (.inf (s != t), false)
  | .fin s m e, .fin t n f => (.fin (s != t) (m * n) (e + f), false)

/-- The exact sum of a list of numbers, and whether it sets INV (infinities of both signs, or a signalling NaN; R86).
An exact zero is -0 when every term is -0 and +0 otherwise (R123). -/
def Num.sum (l : List Num) : Num × Bool :=
  if l.any Num.isNan then (.nan false, l.any Num.isSnan)
  else
    let pinf := l.any (fun n => n == .inf false)
    let ninf := l.any (fun n => n == .inf true)
    if pinf && ninf then (.nan false, true)
    else if pinf then (.inf false, false)
    else if ninf then (.inf true, false)
    else
      let e0 : Int := l.foldl (fun acc n => match n with
        | .fin _ _ e => min acc e
        | _ => acc) ((l.head?.bind Num.exp?).getD 0)
      let v : Int := l.foldl (fun acc n => acc + n.scaledTo e0) 0
      if v == 0 then (.fin (l.all (fun n => n.isZero && n.sign) && !l.isEmpty) 0 0, false)
      else (.fin (v < 0) v.natAbs e0, false)

/-- The sum of two numbers. -/
def Num.add (a b : Num) : Num × Bool := Num.sum [a, b]

/-- Exact scaling of a number by 2^x (R69). -/
def Num.scale (x : Int) : Num → Num
  | .fin s m e => .fin s m (e + x)
  | n => n

/-- Order of two numbers that are not NaN; zeros of either sign are equal here. -/
def Num.lt : Num → Num → Bool
  | .inf true, .inf true => false
  | .inf true, _ => true
  | _, .inf true => false
  | .inf false, _ => false
  | _, .inf false => true
  | .fin s m e, .fin t n f =>
    let e0 := min e f
    decide (Num.scaledTo e0 (.fin s m e) < Num.scaledTo e0 (.fin t n f))
  | _, _ => false

/-- Equality of two numbers that are not NaN; +0 equals -0. -/
def Num.eqv (a b : Num) : Bool := !a.isNan && !b.isNan && !a.lt b && !b.lt a

/-- Maximum: a NaN gives a NaN, and max(-0, +0) is +0 (R86, R150). -/
def Num.maxN (a b : Num) : Num × Bool :=
  if a.isNan || b.isNan then (.nan false, a.isSnan || b.isSnan)
  else if a.lt b then (b, false)
  else if b.lt a then (a, false)
  else (if a.sign then b else a, false)

/-- Minimum: a NaN gives a NaN, and min(-0, +0) is -0 (R86, R150). -/
def Num.minN (a b : Num) : Num × Bool :=
  if a.isNan || b.isNan then (.nan false, a.isSnan || b.isSnan)
  else if a.lt b then (a, false)
  else if b.lt a then (b, false)
  else (if a.sign then a else b, false)

/-- Rounds the magnitude mant * 2^exp (plus something less than one unit when sticky) to a multiple of 2^q: the multiple
and whether anything was lost. Stochastic rounding compares the top 16 discarded bits with its draw (R78). -/
def roundMag (r : Round) (mant : Nat) (exp : Int) (sticky : Bool) (q : Int) : Nat × Bool :=
  if q ≤ exp then (mant <<< (exp - q).toNat, sticky)
  else
    let sh := (q - exp).toNat
    let m0 := mant >>> sh
    let rem := mant % 2 ^ sh
    let lost := rem != 0 || sticky
    let up : Bool := match r with
      | .rtz => false
      | .rne =>
        if 2 * rem > 2 ^ sh then true
        else if 2 * rem == 2 ^ sh then sticky || m0 % 2 == 1
        else false
      | .sr d =>
        let top := if sh ≤ 16 then rem <<< (16 - sh) else rem >>> (sh - 16)
        decide (top + d ≥ 65536)
    (if up then m0 + 1 else m0, lost)

/-- Exponent of the leading bit of a non-zero magnitude. -/
def leadExp (mant : Nat) (exp : Int) : Int := (Nat.log2 mant : Int) + exp

/-- Smallest normal exponent of a floating-point format. -/
def Fmt.emin (f : Fmt) : Int := 1 - (f.bias : Int)

/-- Overflow column of R77 for a finite result too large for a floating-point destination under RNE or SR. -/
def overflowBits (f : Fmt) (sat : Bool) : Nat :=
  if sat then f.maxFinite
  else if f.isIeee then f.infinity
  else if f == .e4m3 then f.canonNan
  else f.maxFinite

/-- A NaN stored in f: the canonical NaN, or +0 with INV where f has no NaN (R86). -/
def storeNan (f : Fmt) (signalling : Bool) : Stored :=
  if f.hasNan then { bits := f.canonNan, fl := { inv := signalling }, hNan := true }
  else { bits := 0, fl := { inv := true } }

/-- An infinity stored in a floating-point format (R86): infinity where f has it; elsewhere the overflow column of R77
with INV. -/
def storeInf (f : Fmt) (sat neg : Bool) : Stored :=
  let s := if neg then f.signBit else 0
  if f.isIeee then { bits := f.infinity + s }
  else if f == .e4m3 && !sat then { bits := f.canonNan, fl := { inv := true }, hNan := true }
  else { bits := f.maxFinite + s, fl := { inv := true } }

/-- A finite value narrowed to a floating-point format (R76 to R83, R509). `flush` says whether the path flushes
subnormal results (R81); `sticky` marks a non-zero remainder below the last bit of the magnitude. -/
def narrowFin (f : Fmt) (r : Round) (sat flush neg : Bool) (mant : Nat) (exp : Int) (sticky : Bool) : Stored :=
  let s := if neg then f.signBit else 0
  if mant == 0 then { bits := s }
  else
    let p : Int := f.fracBits
    let le := leadExp mant exp
    let un := roundMag r mant exp sticky (le - p)
    let unLead := leadExp un.1 (le - p)
    let tiny := decide (unLead < f.emin)
    if tiny && flush then
      { bits := s, fl := { flushed := true, unf := true, inx := true }, hVanish := true }
    else
      let q := max le f.emin - p
      let rd := roundMag r mant exp sticky q
      let m := rd.1
      let lost := rd.2
      if m == 0 then { bits := s, fl := { unf := true, inx := true }, hVanish := true }
      else
        let l := leadExp m q
        let ef : Int := if l < f.emin then 0 else l - f.emin + 1
        let fr := if l < f.emin then m else (if l - p ≥ q then m >>> (l - p - q).toNat else m) % 2 ^ f.fracBits
        let enc := ef.toNat * 2 ^ f.fracBits + fr
        if ef > ((f.maxFinite >>> f.fracBits : Nat) : Int) || enc > f.maxFinite then
          match r with
          | .rtz => { bits := f.maxFinite + s, fl := { inx := true }, hOvf := true }
          | _ =>
            let b := overflowBits f sat
            let isN := f == .e4m3 && !sat
            { bits := if isN then b else b + s, fl := { ovf := true, inx := true }, hOvf := true, hNan := isN }
        else { bits := enc + s, fl := { unf := tiny && lost, inx := lost } }

/-- An exact integer stored in an integer format (integer row of R77): saturates or wraps, setting OVF only (R84). -/
def narrowInt (f : Fmt) (sat : Bool) (v : Int) : Stored :=
  let w := f.width
  let lo : Int := -(2 ^ (w - 1) : Int)
  let hi : Int := (2 ^ (w - 1) : Int) - 1
  if lo ≤ v ∧ v ≤ hi then { bits := ofSigned w v }
  else if sat then { bits := ofSigned w (if v < lo then lo else hi), fl := { ovf := true }, hOvf := true }
  else { bits := ofSigned w v, fl := { ovf := true }, hOvf := true }

/-- Any number narrowed to any format: R77 and R85 for integers, R86 for specials, `narrowFin` for finite values. -/
def narrow (f : Fmt) (r : Round) (sat flush : Bool) (n : Num) (sticky : Bool := false) : Stored :=
  match n with
  | .nan sg =>
    if f.isInt then { bits := 0, fl := { inv := true } } else storeNan f sg
  | .inf s =>
    if f.isInt then
      { bits := ofSigned f.width (if s then -(2 ^ (f.width - 1) : Int) else (2 ^ (f.width - 1) : Int) - 1),
        fl := { inv := true } }
    else storeInf f sat s
  | .fin s m e =>
    if f.isInt then
      let rd := roundMag r m e sticky 0
      let v : Int := if s then -(rd.1 : Int) else (rd.1 : Int)
      let st := narrowInt f sat v
      let van := rd.1 == 0 && (m != 0 || sticky)
      { st with fl := { st.fl with inx := rd.2 && !st.fl.ovf }, hVanish := van }
    else narrowFin f r sat flush s m e sticky

/-- A narrowing that starts from an encoding: subnormal inputs flushed where the path says so. -/
def convert (src dst : Fmt) (r : Round) (sat flushIn flushOut : Bool) (bits : Nat) : Stored :=
  let u := unpackFlush flushIn src bits
  let st := narrow dst r sat flushOut u.1
  { st with fl := st.fl.or u.2 }

/-- The FP32 update acc + g of R122: RNE, flushed subnormal results, overflow under SAT. -/
def fp32Acc (sat : Bool) (acc : Nat) (g : Num) (gInv : Bool) : Nat × NumFlags :=
  let a := unpack .fp32 acc
  let sm := Num.add a g
  let st := narrow .fp32 .rne sat true sm.1
  (st.bits, st.fl.or { inv := sm.2 || gInv })

/-- The INT32 update acc + g of R122. -/
def int32Acc (sat : Bool) (acc : Nat) (g : Int) : Nat × NumFlags :=
  let st := narrowInt .int32 sat (toSigned 32 acc + g)
  (st.bits, st.fl)

/-- The integer value of a finite number with non-negative exponent (integer formats). -/
def Num.toInt : Num → Int
  | .fin s m e => let v : Int := ((m <<< e.toNat : Nat) : Int); if s then -v else v
  | _ => 0

/-- An F19 operand of a single-pass instruction (R73): FP32 enters F19 under the round mode; F19 subnormals flush. The
result is the number and its flags; an overflow follows R77 under the instruction's SAT. -/
def enterF19 (r : Round) (sat : Bool) (src : Fmt) (bits : Nat) : Num × NumFlags :=
  if src == .fp32 then
    let st := convert .fp32 .f19 r sat true true bits
    (unpack .f19 st.bits, st.fl)
  else
    let u := unpackFlush true .f19 bits
    (u.1, u.2)

/-- The two split terms of an FP32 operand (R74): high by RTZ, low by RNE of the remainder, with their flags (FLUSHED for a
flushed term, INV for a signalling NaN). A subnormal operand is flushed before it is split (R81), so its low term is +0 whatever its sign: the model's
choice, since R74 read term by term would flush the low term with the operand's sign (DESIGN CHOICE, log 92). -/
def splitFp32 (bits : Nat) : Num × Num × NumFlags :=
  match unpack .fp32 bits with
  | .nan sg => (.nan false, .fin false 0 0, { inv := sg })
  | .inf s => (.inf s, .fin false 0 0, {})
  | .fin _ _ _ =>
    let u := unpackFlush true .fp32 bits
    let hiS := narrow .f19 .rtz false true u.1
    let hi := unpack .f19 hiS.bits
    let rest := (Num.add u.1 hi.neg).1
    let loS := narrow .f19 .rne false true rest
    (hi, unpack .f19 loS.bits, { flushed := u.2.flushed || hiS.fl.flushed || loS.fl.flushed })

/-- Formats whose subnormals are FP32 subnormals once they have entered FP32 (R128): those with its exponent range. -/
def Fmt.fp32Range (f : Fmt) : Bool := f == .fp32 || f == .f19 || f == .bf16

/-- add_c of R128 in a carry format (FP32, BF16 or an integer): exact entry, operands and result flushed where `flush` says so
(R81, the row of add_c), one rounding under RNE to the carry format, overflow by SAT. -/
def addC (carry : Fmt) (sat flush : Bool) (a b : Nat) : Stored :=
  if carry.isInt then narrowInt carry sat (toSigned carry.width a + toSigned carry.width b)
  else
    let fin := flush && carry.fp32Range
    let ua := unpackFlush fin carry a
    let ub := unpackFlush fin carry b
    let sm := Num.add ua.1 ub.1
    let st := narrow carry .rne sat fin sm.1
    { st with fl := (st.fl.or (ua.2.or ub.2)).or { inv := sm.2 } }

/-- Health classes of a reduction's stored value (R90) from its exact result, the operands taken as they entered, and whether an
addition on the way overflowed: an integer differs from it by saturation or wrap; a float became a special, or the largest finite
value after an overflow; it vanished when it is zero and the exact result is not. -/
def Stored.reduced (f : Fmt) (exact : Num) (lost : Bool) (st : Stored) : Stored :=
  let v := unpack f st.bits
  if exact.isSpecial then { st with hOvf := false, hVanish := false }
  else if f.isInt then { st with hOvf := v.toInt != exact.toInt, hVanish := false }
  else
    { st with
      hOvf := v.isSpecial || ((lost || st.hOvf) && st.bits % f.signBit == f.maxFinite)
      hVanish := v.isZero && !exact.isZero }

/-- Health classes of a drained value (R90) whose accumulator, of value `acc`, no longer holds the finite exact sum `exact`: it overflowed when the
accumulator became a special, was saturated or wrapped (an integer one differs in no other way), or saturated and was stored as the largest finite
value; it vanished when it is stored as zero and the exact sum is not zero. -/
def Stored.drained (f : Fmt) (accInt : Bool) (acc exact : Num) (st : Stored) : Stored :=
  let full := match acc with
    | .fin _ m e => m == 2 ^ 24 - 1 && e == 104
    | _ => true
  { st with
    hOvf := st.hOvf || accInt || acc.isSpecial || (full && st.bits % f.signBit == f.maxFinite)
    hVanish := !st.hNan && (unpack f st.bits).isZero && !exact.isZero }

/-- The tree order of R129 over a list of partials, with fuel for the halving. -/
def treeSum (add : Nat → Nat → Stored) : Nat → List Nat → Nat × NumFlags
  | 0, l => (l.headD 0, {})
  | _ + 1, [] => (0, {})
  | _ + 1, [x] => (x, {})
  | fuel + 1, l =>
    let p := 2 ^ Nat.log2 (l.length - 1)
    let a := treeSum add fuel (l.take p)
    let b := treeSum add fuel (l.drop p)
    let st := add a.1 b.1
    (st.bits, (a.2.or b.2).or st.fl)

/-- The chain order of R130 over a list of partials, from its first entry. -/
def chainSum (add : Nat → Nat → Stored) : List Nat → Nat × NumFlags
  | [] => (0, {})
  | x :: xs => xs.foldl (fun acc y => let st := add acc.1 y; (st.bits, acc.2.or st.fl)) (x, {})

/-- Largest magnitude exponent of the finite non-zero members of a block, none when all are zero (R72). -/
def blockTop (l : List Num) : Option Int :=
  l.foldl (fun acc n => match n with
    | .fin _ m e => if m == 0 then acc else
        match acc with
        | some t => some (max t (leadExp m e))
        | none => some (leadExp m e)
    | _ => acc) none

/-- The quantizing conversion of one block (R72): the scale byte and the stored elements. Each element brings its own round
mode, because under SR each takes its own draw. -/
def quantBlock (f : Fmt) (sat : Bool) (l : List (Num × Round)) : Nat × List Stored :=
  if l.any (fun n => n.1.isSpecial) then
    (0xFF, l.map (fun _ => { bits := 0, fl := { inv := true }, hNan := true }))
  else
    match blockTop (l.map (·.1)) with
    | none => (0x7F, l.map (fun n => { bits := if n.1.sign then f.signBit else 0 }))
    | some t =>
      let x : Int := max (-127) (min 127 (t - f.mxEmax))
      ((x + 127).toNat, l.map (fun n => narrow f n.2 (sat || true) false (n.1.scale (-x))))

/-- Bytes that n packed elements of a format take (R67, R68). -/
def elemBytes (f : Fmt) (n : Nat) : Nat :=
  match f with
  | .fp32 | .f19 | .int32 => 4 * n
  | .bf16 | .fp16 => 2 * n
  | .e4m3 | .e5m2 | .int8 => n
  | .e3m2 | .e2m3 => ceilDiv (6 * n) 8
  | .e2m1 | .int4 => ceilDiv n 2

/-- Bytes of the element part of a row of n elements: whole blocks for the block-scaled formats (R70). -/
def rowElemBytes (f : Fmt) (n : Nat) : Nat :=
  if f.isMx then elemBytes f (roundUp n 32) else elemBytes f n

/-- Pitch of a row of n elements (R100): element bytes rounded up to 64, plus scale bytes rounded up to 64. -/
def rowPitch (f : Fmt) (n : Nat) : Nat :=
  roundUp (rowElemBytes f n) 64 + (if f.isMx then roundUp (ceilDiv n 32) 64 else 0)

/-- Byte offset of the scale bytes within a row (R70). -/
def rowScaleOff (f : Fmt) (n : Nat) : Nat := roundUp (rowElemBytes f n) 64

/-- Bit position of element j within its packed row, and its storage width in bits (R67, R68: F19 sits in a container). -/
def elemBitPos (f : Fmt) (j : Nat) : Nat × Nat :=
  match f with
  | .f19 => (32 * j, 32)
  | _ => (f.width * j, f.width)

/-- Encoding in the container: F19 occupies bits 31:13 with zeros below (R68). -/
def toContainer (f : Fmt) (bits : Nat) : Nat := if f == .f19 then bits <<< 13 else bits

/-- Encoding out of the container: bits 12:0 of an F19 container are ignored (R68). -/
def ofContainer (f : Fmt) (v : Nat) : Nat := if f == .f19 then (v % 2 ^ 32) >>> 13 else v % 2 ^ f.width

end Sys2Proof.Machine
end

