-- ==== Sys2Proof/Config.lean ====
section
/-! DEFINITION. What an assembly fixes (the four variants of R1) and the free values: opaque constants with no body for
everything the manual leaves open. -/
namespace Sys2Proof

/-- The four assembly variants of R1. -/
inductive Variant where
  | m8i4 | m6i4 | m8i2 | m4i4
deriving DecidableEq, Repr

/-- HBM stacks populated (variant table of R2). -/
def Variant.stacks : Variant → Nat
  | .m8i4 => 8 | .m6i4 => 6 | .m8i2 => 8 | .m4i4 => 4

/-- I/O dies populated. -/
def Variant.ioDies : Variant → Nat
  | .m8i2 => 2 | _ => 4

/-- Fabric ports present: two for each I/O die (R3). -/
def Variant.ports (v : Variant) : Nat := 2 * v.ioDies

/-- Module TDP in watts. -/
def Variant.tdp : Variant → Nat
  | .m8i4 => 1900 | .m6i4 => 1820 | .m8i2 => 1780 | .m4i4 => 1740

/-- Controllers present: two for each populated stack (R3, R21). -/
def Variant.hbmcs (v : Variant) : Nat := 2 * v.stacks

/-- Mask of populated stacks, HBM_STACK_MASK of R5. -/
def Variant.stackMask (v : Variant) : Nat := 2 ^ v.stacks - 1

/-- Mask of present ports, FAB_PORT_MASK of R5. -/
def Variant.portMask (v : Variant) : Nat := 2 ^ v.ports - 1

namespace Config

/-- Free values in the order the machine meets them: the n-th one that a step takes. Nothing constrains them
(assumption log 2). -/
opaque freeValue : Nat → Nat

/-- SHA-384 of a byte string: the manual names the function without stating it (assumption log 3). -/
opaque sha384 : List Byte → List Byte

/-- Verification of an ECDSA signature: key, message, signature (assumption log 3). -/
opaque ecdsaVerify : List Byte → List Byte → List Byte → Bool

/-- An ECDSA signature by the device's identity key over a message (assumption log 3). -/
opaque ecdsaSign : List Byte → List Byte

/-- Public keys whose hashes the mask ROM holds: of firmware images and of the vendor's records (R482 and the key table before R483). -/
opaque firmwareKey : List Byte
opaque vendorKey : List Byte

/-- The device's identity public key, an uncompressed point (R481, R482). -/
opaque identityKey : List Byte

/-- The public key that the PUF yields with given helper data (R481). -/
opaque pufKey : List Byte → List Byte

/-- The syndrome that a scratchpad error of a given kind at a word shows (R220: implementation-defined, never zero). -/
opaque syndrome : Nat → Nat → Nat

end Config
end Sys2Proof
end

