-- ==== Sys2Proof/Machine/Fields.lean ====
section
/-! DEFINITION. Every field of the register tables of the spec: its place in the register space, its access code, its reset
value and the reset domain that restores it. One constructor for one row of a table (64-bit values one field). -/
namespace Sys2Proof.Machine

/-- The fields of all register tables (chapters 0 to 23). -/
inductive Field where
  | hfVariantIoDies | hfVariantFabPorts | hfVariantHbmStacks | hfVariantHbmStackMask | hfVariantFabPortMask
  | tileStepCount | tileStepRate | tileTlyGated | tileTlyTallyValid | tlyNow | tlyStatusSnapPending
  | tlyStatusCoarseSlew | tlyStatusXdevLocked | tlyStatusDevValid | tlyCtrlUpstreamPort | tlyCtrlRole
  | tlyOffset | tlyResync | tlyHoldover | tlySnapAt | tlySnapCtrlArm | tlySnapSeq | tlySnapTakenAt
  | tlySnapLate | tlySnapBusy | hbmBandMode0 | hbmBandMode1 | hbmBandMode2 | hbmBandRemap | hfSelAbsentWr
  | hfLatchMiss | hfDecodeErr | adtBar2DecodeErr | adtRegWrDeny | adtRegSizeErr | tileDecodeErr
  | tileSeamDecodeErr | hstDecodeErr | dbgDecodeErr | tileSrKey | tileSrTag | veFmodeFlush | opeFlagsFlushed
  | veFlagsFlushed | hstFlagsFlushed | tileSeamFlagsFlushed | opeFlagsInv | veFlagsInv | hstFlagsInv
  | tileSeamFlagsInv | opeFlagsInx | veFlagsInx | hstFlagsInx | tileSeamFlagsInx | opeFlagsUnf | veFlagsUnf
  | hstFlagsUnf | tileSeamFlagsUnf | opeFlagsOvf | veFlagsOvf | hstFlagsOvf | tileSeamFlagsOvf | tileNhTotal
  | tileNhOvf | tileNhVanish | tileNhNan | opeStatusQdepth | opeStatusT1State | opeStatusT0State
  | opeStatusBusy | opeDone | opeErrInfoValid | opeErrInfoReason | opeErrWord0 | opeErrWord1 | opeInstr
  | opeIllegal | opeK0 | opeOperandWaitNs | opeDrainStallNs | opeDrainRetry | opeSeamWaitNs | opeGovHoldNs
  | opeAbort | opeMacs | collOrderEffective | collOrderMode | tileSpecStatus | tileSpecWin | tileSpecLimitNs
  | specOpen | specOpenRefused | specConfirm | specDrop | specTimeout | specStale | specInstr
  | specInstrDropped | specSteps | specStepsDropped | specCommitLines | specHeldDrop | opeSkipSteps
  | opeOperandOor | hstIdxOor | hstSegRepeat | tileCoreStatusWaitKind | tileCoreStatusState | tileCorePc
  | tileFaultInfoValid | tileFaultInfoCause | tileFaultPc | tilePhasePhase | tilePhaseAt | tileWakeAt
  | tileEvq | tileSemWatchSem | tileSemWatchThresh | tileInstr | tileWaitNs | tileOpeQfullNs | tileVeQfullNs
  | tileOpeStarveNs | tileCrWrDeny | tileFaults | tilePhaseChg | tileSemSat | tileSem | tileQcfgEn
  | tileQcfgLog2Depth | tileQcfgBase | tileQTail | tileQHead | tileQOccupancy | tileQPosts | tileQDropFull
  | tileQDropDisabled | veStatusQdepth | veStatusBusy | veDone | veErrInfoValid | veErrInfoReason | veErrWord
  | veInstr | veIllegal | vePasses | veOperandWaitNs | veSlotRetry | vePermOor | veAbort | veElems | tileEpEn
  | tileEpRole | tileEpVc | tileEpSlots | tileEpPeerSem | tileEpLocalSem | tileEpPeerLocal | tileEpPeerDevice
  | tileEpPeerTile | tileEpBase | tileEpSize | tileStrmTaken | tileStrmArrived | tileStrmWaitNs
  | tileStrmLastAt | tileProgress | tileProgressAt | tileStage | spdScrubCfgEn | spdScrubCfgInterval
  | spdErrInfoValid | spdErrInfoUe | spdErrInfoBank | spdErrInfoSource | spdErrInfoWord | spdErrSyndSyndrome
  | spdPoisonWr | spdBankClear | spdBankClearing | spdClears | spdAccMaster | spdAccOther | spdDefer | spdCe
  | spdUe | spdClearHold | spdScrubLines | spdGatedAcc | hbmStatusPresent | hbmStatusTrained
  | hbmStatusSelfRefresh | hbmStatusRef2x | hbmStatusTemp | hbmScrubCfgEn | hbmScrubCfgIntervalNs
  | hbmErrInfoValid | hbmErrInfoUe | hbmErrInfoSource | hbmErrInfoSymbols | hbmErrLine | hbmRdLines
  | hbmWrLines | hbmRmw | hbmCe | hbmUe | hbmOndieCe | hbmPoisonWr | hbmPoisonRd | hbmRefresh | hbmRefWaitNs
  | hbmCaParRetry | hbmScrubLines | hbmResetDiscard | hstStatusOutstanding | hstStatusActive
  | hstErrInfoValid | hstErrInfoQueue | hstErrInfoStatus | hstErrTag | hstErrAddr | hstRemoteTimeoutNs
  | hstDescDone | hstDescIllegal | hstDescErr | hstLinesRd | hstLinesWr | hstSlotRetry | hstSlotWaitNs
  | hstOutstandingFullNs | hstPoisonCopy | hstRemoteTimeout | hstSigWithheld | adtBar2RdLines
  | adtBar2WrLines | adtBar2FlushWaitNs | portCtrlEn | portCtrlRetrain | portCtrlAutoRetrain
  | portCtrlAllowHalf | portCtrlMedia | portCtrlLoopback | portStatusLanesLocked | portStatusHalfUpper
  | portStatusWidthHalf | portStatusState | portPeerValid | portPeerPeerPort | portPeerPeerDevice
  | portTrainCfgTimeoutMs | portRetryCfgReplayNs | portRetryCfgLimit | portDownInfoValid | portDownInfoReason
  | portDownAt | portRxbufVc | portTxFrames | portRxFrames | portTxFlits | portRxFlits | portTxIdleFlits
  | portRxCrcErr | portRxSeqErr | portRxRetryReq | portTxRetry | portTxReplayTimeout | portTxRetryFlits
  | portFecCw | portFecCorrCw | portFecUncorrCw | portDropLinkDown | portDropPartial | portDropPortDown
  | portDropMalformed | portLinkDown | portTxCreditWaitNs | portTxWindowFullNs | portCtrlFlits | portFecSym
  | fabDevIdValid | fabDevIdId | fabEpochInj | fabPortDim | fabHopLimit | fabEndstnWeight | fabInjPkts
  | fabEjectPkts | fabTransitPkts | fabDropNoRoute | fabDropAbsentPort | fabDropUturn | fabDropHops
  | fabDropBadhdr | fabDropBadvc | fabDropUnassigned | fabRingInjWaitNs | rtAccAddrAutoinc | rtAccAddrBank
  | rtAccAddrLevel | rtAccAddrIndex | rtAccData | rtHeld0 | rtHeld1 | rtDrainEpoch1 | rtDrainEpoch0
  | rtWrDeny | rtFlips | vcWeight | vcTxPkts | vcRxPkts | vcTxFlits | vcArbWaitNs | vcBubbleWaitNs
  | vcCreditWaitNs | collCfgValid | collCfgVc | collCfgReplayLimit | collCfgTile | collCfgGid | collNM1
  | collIndex | collMap | collStepTimeoutNs | collProgressTimeoutNs | collSeq | collStatusMismatch
  | collStatusStall | collStatusAborted | collStatusState | collStatusStep | collAbortInfoValid
  | collAbortInfoReason | collAbortInfoMember | collAbortTag | collSigLocal | collSigRemote | collOps
  | collSteps | collTxPkts | collRxPkts | collWaitNs | collMismatch | collStall | collAborts | collIllegal
  | collReplayReqTx | collReplayReqRx | collReplayPkts | collReplayEarly | collDupDrop | collSeqDrop
  | collReadyDrop | collItemOor | tileSeamDescPoison | tileSeamNogroup | adtStatusFwReady | adtStatusBootFail
  | adtStatusLinkWidth | adtStatusLinkSpeed | adtStatusBar2Size | adtCfgPerstScope | adtWinBase | adtCorrErr
  | adtUncorrErr | adtLinkReplay | adtLinkDown | adtUr | adtPoisonRx | adtPoisonTx | adtMsixSent
  | adtMsixMasked | adtMsixMerged | adtMsixDisabledDrop | adtEarlyDoorbell | adtResetDiscard | hfMgmtRx
  | hfMgmtDrop | hfBootStatusAResult | hfBootStatusBResult | hfBootStatusPref | hfBootStatusBooted
  | hfFwVersion | hfBootCtrlReady | hfBoots | hfCompStatusGen | hfCompStatusState | hfCompFaults
  | hfCompRestarts | mbxDoorbell | mbxState | mbxCmds | mbxDoorbellReject | mbxWrBusy | mbxEvtHead
  | mbxEvtTail | mbxEvtDrop | mbxErrStatus | mbxReq | mbxResp | icCur | icEoi | icPmr | icVbase | icSignal
  | icTimerAt | icSrcCfgEn | icSrcCfgMask | icSrcCfgFwd | icSrcCfgPending | icSrcCfgActive | icSrcCfgTarget
  | icSrcCfgPrio | icLampSrcEn | icLampSrcSource | icLampCtrlAsleep | icLampCtrlStandbyEn | icStackInfoValid
  | icStackInfoEmpty | icStackInfoCore | icStackInfoWritten | icStackInfoTop | icStackFixCore
  | icStackFixSource | icCoreStateDepth | icDelivered | icLateDeliver | icStackFaults | icStackPrio
  | icStackSource | icRaised | icMerged | icDisabledDrop | icCfgDeny | icFixMiss | icLampWakes | pwrCapCapW
  | pwrStatusSafe | pwrStatusCapUnmet | pwrStatusFastActive | pwrStatusMatching | pwrStatusEstW | pwrAvgAvgW
  | pwrAvgAvgLog2 | pwrPeakW | pwrLimitSafeVset | pwrLimitFastFrac | pwrCalEff | pwrCalGain | pwrFixedMw
  | pwrStaticStackMw | pwrPortMw | pwrCoef | pwrTjTrip | pwrTjHot | pwrTjTarget | pwrHbmHot
  | pwrDroopCfgDroopMv | pwrDroopCfgDroopFrac | pwrDroopCfgHoldNs | pwrTripInfo | pwrPaceCfgEn
  | pwrPaceCfgMatchEn | pwrPaceCfgPeriodUs | pwrPaceDestValid | pwrPaceDestMatch | pwrPaceDestDevice
  | pwrPaceStageStage | pwrPaceStagePbMask | pwrPaceAlert | pwrPbStatusGated | pwrPbStatusDroop
  | pwrPbStatusHot | pwrPbStatusVsetEff | pwrPbStatusIssueEff | pwrPbStatusTj | pwrPbCtrlVset
  | pwrPbCtrlIssue | pwrPbPace | pwrPbRate | pwrPbE | pwrDroopTrips | pwrDroopHoldNs | pwrThermHoldNs
  | tilePwrE | pwrFastTrips | pwrSafeNs | pwrCapUnmetNs | pwrGateRefused | pwrPhaseEvict | pwrHbmHotNs
  | pwrPaceTx | pwrPaceRx | pwrPaceEvict | pwrPaceMatchNs | pwrPaceTblValid | pwrPaceTblDevice
  | pwrPaceTblReason | pwrPaceTblPace | pwrPaceTblStamp | dbgBlockPresent | dbgBlockPowered | dbgShadowSeq
  | dbgShadowAt | dbgRingFlits | dbgRingHoldNs | dbgLockOpen | dbgLockPerms | dbgOpenUntil | dbgHaltCtrlGo
  | dbgHaltCtrlResume | dbgHaltCtrlAccept | dbgHaltCtrlPropagate | dbgHaltStatusHalted
  | dbgHaltStatusStopping | dbgHaltStatusLinksComplete | dbgHaltStatusLinkLost | dbgHaltId | dbgHaltAt
  | dbgHaltOrigin | dbgPcsBase | dbgPcsCfgEn | dbgPcsCfgLog2Bytes | dbgPcsIntervalNs | dbgPcsHead
  | dbgPcsTail | dbgPcsTiles | dbgHalts | dbgHaltMerged | dbgHaltReject | dbgPcsSamples | dbgPcsDrop
  | dbgBreakIgnored | dbgUnlocks | dbgUnlockFail | rasCfgHangEn | rasCfgHangAction | rasCfgAutoWarm
  | rasCfgPmPropagate | rasCfgCeThresh | rasHangThreshNs | rasHangRemoteNs | rasHangScanUs | rasFenceMs
  | rasPmBase | rasPmCap | rasPmStatusValid | rasPmStatusIncomplete | rasPmStatusLength | rasPmAt
  | rasHangInfoValid | rasHangInfoKind | rasHangInfoTile | rasHangInfoStage | rasHangInfoWaiters
  | rasHangInfoPeerDevice | rasHangInfoPeerTile | rasHangAt | rasNotifyDestValid | rasNotifyDestDevice
  | rasCe | rasUeContained | rasUeResource | rasUeDevice | rasLogOverwrite | rasFlashLogDrop
  | rasResetSuppress | rasHangReports | rasLateDrop | rasNoticeTx | rasNoticeRx | rasPmTaken | rasResets
  | portGen | tileGen | tileGenAt | tileGenDrop | hbmGen | crcCtrlBusy | crcCtrlScanBusy | crcCtrlPoly
  | crcData8 | crcData16 | crcData32 | crcResult | crcRegBytes | crcScanBytes | crcRegStallNs
  | skpStatusState | skpStatusResult | skpId | skpQuiesceAt | skpStagedAt | skpShipTimeoutNs | skpAlive
  | skpChunksStaged | skpChunksShipped | skpChunkResend | skpPoisonLines | skpAborts | skpStageWaitNs
  | skpNhCfgEn | skpNhCfgFmtMask | skpNhCfgPeriodMs | skpNhOvfPpm | skpNhVanishPpm | skpNhShareOvf
  | skpNhShareVanish | skpNhShareNan | skpNhShareTotal | skpNhSkipped | skpNhStale | skpNhAlerts
  | secStatusIdValid | secStatusOwner | secStatusSettings | secStatusCtrErr | secCtr | secAdvDelayS
  | secAttest | secRecWr | secRecReject | secCtrAdv | secCtrErr | hfModStatusPwrgd | hfModStatusAlert
  | hfModStatusColdRst | hfModStatusTripCause | hfModStatusStartCause | hfModVin | hfModIin | hfModAlerts
  | tlyAlignDiscard | portSelIndex | portSelAbsent | tileSelIndex | tileSelAbsent | qselIndex | qselAbsent
  | hbmSelIndex | hbmSelAbsent | groupSelIndex | groupSelAbsent | cntSelIndex | cntSelAbsent
deriving DecidableEq, Repr

/-- Access codes (conventions before R12). -/
inductive Acc where
  | ro | rw | wo | w1c | rc
deriving DecidableEq, Repr

/-- The reset domain of a field (R15); live fields mirror state and hold no stored value. -/
inductive Dom where
  | cold | warm | port | tile | hbmc | live
deriving DecidableEq, Repr

/-- What an instance of a field belongs to: nothing, or the index of a select register, channel, block, core or agent. -/
inductive Space where
  | none | tile | queue | port | hbmc | group | block | chan | pb | core | agent
deriving DecidableEq, Repr

/-- One row of a register table: offset, low bit, width, access, domain, space, stride and count of its array, whether it
spans two offsets, whether it is a counter of R412, whether it is a control register of a headframe core, reset value. -/
structure FieldInfo where
  off : Nat
  lo : Nat
  width : Nat
  acc : Acc
  dom : Dom
  space : Space
  stride : Nat
  cnt : Nat
  wide : Bool
  counter : Bool
  cr : Bool
  rst : Nat
deriving DecidableEq, Repr

/-- The register tables. -/
def Field.info : Field → FieldInfo
  | .hfVariantIoDies => ⟨0x40, 24, 4, .ro, .cold, .none, 4, 1, false, false, false, 0x0⟩
  | .hfVariantFabPorts => ⟨0x40, 20, 4, .ro, .cold, .none, 4, 1, false, false, false, 0x0⟩
  | .hfVariantHbmStacks => ⟨0x40, 16, 4, .ro, .cold, .none, 4, 1, false, false, false, 0x0⟩
  | .hfVariantHbmStackMask => ⟨0x40, 8, 8, .ro, .cold, .none, 4, 1, false, false, false, 0x0⟩
  | .hfVariantFabPortMask => ⟨0x40, 0, 8, .ro, .cold, .none, 4, 1, false, false, false, 0x0⟩
  | .tileStepCount => ⟨0x6008000, 0, 64, .ro, .tile, .tile, 4, 1, true, true, false, 0x0⟩
  | .tileStepRate => ⟨0x6008008, 0, 16, .ro, .tile, .tile, 4, 1, false, false, false, 0x0⟩
  | .tileTlyGated => ⟨0x600800C, 1, 1, .ro, .live, .tile, 4, 1, false, false, false, 0x0⟩
  | .tileTlyTallyValid => ⟨0x600800C, 0, 1, .ro, .live, .tile, 4, 1, false, false, false, 0x0⟩
  | .tlyNow => ⟨0x2000, 0, 64, .ro, .live, .none, 4, 1, true, false, false, 0x0⟩
  | .tlyStatusSnapPending => ⟨0x2008, 3, 1, .ro, .warm, .none, 4, 1, false, false, false, 0x0⟩
  | .tlyStatusCoarseSlew => ⟨0x2008, 2, 1, .ro, .warm, .none, 4, 1, false, false, false, 0x0⟩
  | .tlyStatusXdevLocked => ⟨0x2008, 1, 1, .ro, .warm, .none, 4, 1, false, false, false, 0x0⟩
  | .tlyStatusDevValid => ⟨0x2008, 0, 1, .ro, .cold, .none, 4, 1, false, false, false, 0x0⟩
  | .tlyCtrlUpstreamPort => ⟨0x200C, 4, 4, .rw, .warm, .none, 4, 1, false, false, false, 0x0⟩
  | .tlyCtrlRole => ⟨0x200C, 0, 2, .rw, .warm, .none, 4, 1, false, false, false, 0x0⟩
  | .tlyOffset => ⟨0x2010, 0, 64, .ro, .warm, .none, 4, 1, true, false, false, 0x0⟩
  | .tlyResync => ⟨0x2018, 0, 64, .ro, .cold, .none, 4, 1, true, true, false, 0x0⟩
  | .tlyHoldover => ⟨0x2020, 0, 64, .ro, .cold, .none, 4, 1, true, true, false, 0x0⟩
  | .tlySnapAt => ⟨0x2028, 0, 64, .rw, .warm, .none, 4, 1, true, false, false, 0x0⟩
  | .tlySnapCtrlArm => ⟨0x2030, 0, 1, .wo, .warm, .none, 4, 1, false, false, false, 0x0⟩
  | .tlySnapSeq => ⟨0x2034, 0, 32, .ro, .cold, .none, 4, 1, false, false, false, 0x0⟩
  | .tlySnapTakenAt => ⟨0x2038, 0, 64, .ro, .warm, .none, 4, 1, true, false, false, 0x0⟩
  | .tlySnapLate => ⟨0x2040, 0, 64, .ro, .cold, .none, 4, 1, true, true, false, 0x0⟩
  | .tlySnapBusy => ⟨0x2048, 0, 64, .ro, .cold, .none, 4, 1, true, true, false, 0x0⟩
  | .hbmBandMode0 => ⟨0x70F0000, 0, 32, .rw, .cold, .none, 4, 1, false, false, false, 0x0⟩
  | .hbmBandMode1 => ⟨0x70F0004, 0, 32, .rw, .cold, .none, 4, 1, false, false, false, 0x0⟩
  | .hbmBandMode2 => ⟨0x70F0008, 0, 8, .rw, .cold, .none, 4, 1, false, false, false, 0x0⟩
  | .hbmBandRemap => ⟨0x70F0010, 0, 64, .ro, .cold, .none, 4, 1, true, true, false, 0x0⟩
  | .hfSelAbsentWr => ⟨0x48, 0, 64, .ro, .cold, .none, 4, 1, true, true, false, 0x0⟩
  | .hfLatchMiss => ⟨0x50, 0, 64, .ro, .cold, .none, 4, 1, true, true, false, 0x0⟩
  | .hfDecodeErr => ⟨0x58, 0, 64, .ro, .cold, .none, 4, 1, true, true, false, 0x0⟩
  | .adtBar2DecodeErr => ⟨0x2000100, 0, 64, .ro, .warm, .none, 4, 1, true, true, false, 0x0⟩
  | .adtRegWrDeny => ⟨0x2000108, 0, 64, .ro, .warm, .none, 4, 1, true, true, false, 0x0⟩
  | .adtRegSizeErr => ⟨0x2000110, 0, 64, .ro, .warm, .none, 4, 1, true, true, false, 0x0⟩
  | .tileDecodeErr => ⟨0x6008010, 0, 64, .ro, .tile, .tile, 4, 1, true, true, false, 0x0⟩
  | .tileSeamDecodeErr => ⟨0x6008018, 0, 64, .ro, .tile, .tile, 4, 1, true, true, false, 0x0⟩
  | .hstDecodeErr => ⟨0x6030100, 0, 64, .ro, .tile, .tile, 4, 1, true, true, false, 0x0⟩
  | .dbgDecodeErr => ⟨0x90F0100, 0, 64, .ro, .cold, .none, 4, 1, true, true, false, 0x0⟩
  | .tileSrKey => ⟨0x6008100, 0, 64, .rw, .tile, .tile, 8, 8, true, false, false, 0x0⟩
  | .tileSrTag => ⟨0x6008140, 0, 32, .rw, .tile, .tile, 4, 1, false, false, false, 0x0⟩
  | .veFmodeFlush => ⟨0x6020044, 0, 1, .rw, .tile, .tile, 4, 1, false, false, false, 0x0⟩
  | .opeFlagsFlushed => ⟨0x6010040, 4, 1, .w1c, .tile, .tile, 4, 1, false, false, false, 0x0⟩
  | .veFlagsFlushed => ⟨0x6020040, 4, 1, .w1c, .tile, .tile, 4, 1, false, false, false, 0x0⟩
  | .hstFlagsFlushed => ⟨0x6030040, 4, 1, .w1c, .tile, .tile, 4, 1, false, false, false, 0x0⟩
  | .tileSeamFlagsFlushed => ⟨0x6008020, 4, 1, .w1c, .tile, .tile, 4, 1, false, false, false, 0x0⟩
  | .opeFlagsInv => ⟨0x6010040, 3, 1, .w1c, .tile, .tile, 4, 1, false, false, false, 0x0⟩
  | .veFlagsInv => ⟨0x6020040, 3, 1, .w1c, .tile, .tile, 4, 1, false, false, false, 0x0⟩
  | .hstFlagsInv => ⟨0x6030040, 3, 1, .w1c, .tile, .tile, 4, 1, false, false, false, 0x0⟩
  | .tileSeamFlagsInv => ⟨0x6008020, 3, 1, .w1c, .tile, .tile, 4, 1, false, false, false, 0x0⟩
  | .opeFlagsInx => ⟨0x6010040, 2, 1, .w1c, .tile, .tile, 4, 1, false, false, false, 0x0⟩
  | .veFlagsInx => ⟨0x6020040, 2, 1, .w1c, .tile, .tile, 4, 1, false, false, false, 0x0⟩
  | .hstFlagsInx => ⟨0x6030040, 2, 1, .w1c, .tile, .tile, 4, 1, false, false, false, 0x0⟩
  | .tileSeamFlagsInx => ⟨0x6008020, 2, 1, .w1c, .tile, .tile, 4, 1, false, false, false, 0x0⟩
  | .opeFlagsUnf => ⟨0x6010040, 1, 1, .w1c, .tile, .tile, 4, 1, false, false, false, 0x0⟩
  | .veFlagsUnf => ⟨0x6020040, 1, 1, .w1c, .tile, .tile, 4, 1, false, false, false, 0x0⟩
  | .hstFlagsUnf => ⟨0x6030040, 1, 1, .w1c, .tile, .tile, 4, 1, false, false, false, 0x0⟩
  | .tileSeamFlagsUnf => ⟨0x6008020, 1, 1, .w1c, .tile, .tile, 4, 1, false, false, false, 0x0⟩
  | .opeFlagsOvf => ⟨0x6010040, 0, 1, .w1c, .tile, .tile, 4, 1, false, false, false, 0x0⟩
  | .veFlagsOvf => ⟨0x6020040, 0, 1, .w1c, .tile, .tile, 4, 1, false, false, false, 0x0⟩
  | .hstFlagsOvf => ⟨0x6030040, 0, 1, .w1c, .tile, .tile, 4, 1, false, false, false, 0x0⟩
  | .tileSeamFlagsOvf => ⟨0x6008020, 0, 1, .w1c, .tile, .tile, 4, 1, false, false, false, 0x0⟩
  | .tileNhTotal => ⟨0x6008200, 0, 64, .ro, .tile, .tile, 32, 12, true, true, false, 0x0⟩
  | .tileNhOvf => ⟨0x6008208, 0, 64, .ro, .tile, .tile, 32, 12, true, true, false, 0x0⟩
  | .tileNhVanish => ⟨0x6008210, 0, 64, .ro, .tile, .tile, 32, 12, true, true, false, 0x0⟩
  | .tileNhNan => ⟨0x6008218, 0, 64, .ro, .tile, .tile, 32, 12, true, true, false, 0x0⟩
  | .opeStatusQdepth => ⟨0x6010000, 8, 4, .ro, .live, .tile, 4, 1, false, false, false, 0x0⟩
  | .opeStatusT1State => ⟨0x6010000, 6, 2, .ro, .live, .tile, 4, 1, false, false, false, 0x0⟩
  | .opeStatusT0State => ⟨0x6010000, 4, 2, .ro, .live, .tile, 4, 1, false, false, false, 0x0⟩
  | .opeStatusBusy => ⟨0x6010000, 0, 1, .ro, .live, .tile, 4, 1, false, false, false, 0x0⟩
  | .opeDone => ⟨0x6010008, 0, 64, .ro, .tile, .tile, 4, 1, true, true, false, 0x0⟩
  | .opeErrInfoValid => ⟨0x6010010, 31, 1, .w1c, .tile, .tile, 4, 1, false, false, false, 0x0⟩
  | .opeErrInfoReason => ⟨0x6010010, 0, 8, .ro, .tile, .tile, 4, 1, false, false, false, 0x0⟩
  | .opeErrWord0 => ⟨0x6010018, 0, 64, .ro, .tile, .tile, 4, 1, true, false, false, 0x0⟩
  | .opeErrWord1 => ⟨0x6010020, 0, 64, .ro, .tile, .tile, 4, 1, true, false, false, 0x0⟩
  | .opeInstr => ⟨0x6010100, 0, 64, .ro, .tile, .tile, 4, 1, true, true, false, 0x0⟩
  | .opeIllegal => ⟨0x6010108, 0, 64, .ro, .tile, .tile, 4, 1, true, true, false, 0x0⟩
  | .opeK0 => ⟨0x6010110, 0, 64, .ro, .tile, .tile, 4, 1, true, true, false, 0x0⟩
  | .opeOperandWaitNs => ⟨0x6010118, 0, 64, .ro, .tile, .tile, 4, 1, true, true, false, 0x0⟩
  | .opeDrainStallNs => ⟨0x6010120, 0, 64, .ro, .tile, .tile, 4, 1, true, true, false, 0x0⟩
  | .opeDrainRetry => ⟨0x6010128, 0, 64, .ro, .tile, .tile, 4, 1, true, true, false, 0x0⟩
  | .opeSeamWaitNs => ⟨0x6010130, 0, 64, .ro, .tile, .tile, 4, 1, true, true, false, 0x0⟩
  | .opeGovHoldNs => ⟨0x6010138, 0, 64, .ro, .tile, .tile, 4, 1, true, true, false, 0x0⟩
  | .opeAbort => ⟨0x6010140, 0, 64, .ro, .tile, .tile, 4, 1, true, true, false, 0x0⟩
  | .opeMacs => ⟨0x6010200, 0, 64, .ro, .tile, .tile, 8, 12, true, true, false, 0x0⟩
  | .collOrderEffective => ⟨0x8000100, 8, 2, .ro, .warm, .group, 4, 1, false, false, false, 0x0⟩
  | .collOrderMode => ⟨0x8000100, 0, 2, .rw, .warm, .group, 4, 1, false, false, false, 0x0⟩
  | .tileSpecStatus => ⟨0x6008400, 0, 8, .ro, .live, .tile, 4, 1, false, false, false, 0x0⟩
  | .tileSpecWin => ⟨0x6008404, 0, 16, .ro, .live, .tile, 4, 1, false, false, false, 0x0⟩
  | .tileSpecLimitNs => ⟨0x6008408, 0, 32, .rw, .tile, .tile, 4, 1, false, false, false, 0x186A0⟩
  | .specOpen => ⟨0x6008410, 0, 64, .ro, .tile, .tile, 4, 1, true, true, false, 0x0⟩
  | .specOpenRefused => ⟨0x6008418, 0, 64, .ro, .tile, .tile, 4, 1, true, true, false, 0x0⟩
  | .specConfirm => ⟨0x6008420, 0, 64, .ro, .tile, .tile, 4, 1, true, true, false, 0x0⟩
  | .specDrop => ⟨0x6008428, 0, 64, .ro, .tile, .tile, 4, 1, true, true, false, 0x0⟩
  | .specTimeout => ⟨0x6008430, 0, 64, .ro, .tile, .tile, 4, 1, true, true, false, 0x0⟩
  | .specStale => ⟨0x6008438, 0, 64, .ro, .tile, .tile, 4, 1, true, true, false, 0x0⟩
  | .specInstr => ⟨0x6008440, 0, 64, .ro, .tile, .tile, 4, 1, true, true, false, 0x0⟩
  | .specInstrDropped => ⟨0x6008448, 0, 64, .ro, .tile, .tile, 4, 1, true, true, false, 0x0⟩
  | .specSteps => ⟨0x6008450, 0, 64, .ro, .tile, .tile, 4, 1, true, true, false, 0x0⟩
  | .specStepsDropped => ⟨0x6008458, 0, 64, .ro, .tile, .tile, 4, 1, true, true, false, 0x0⟩
  | .specCommitLines => ⟨0x6008460, 0, 64, .ro, .tile, .tile, 4, 1, true, true, false, 0x0⟩
  | .specHeldDrop => ⟨0x6008468, 0, 64, .ro, .tile, .tile, 4, 1, true, true, false, 0x0⟩
  | .opeSkipSteps => ⟨0x6010148, 0, 64, .ro, .tile, .tile, 4, 1, true, true, false, 0x0⟩
  | .opeOperandOor => ⟨0x6010150, 0, 64, .ro, .tile, .tile, 4, 1, true, true, false, 0x0⟩
  | .hstIdxOor => ⟨0x6030108, 0, 64, .ro, .tile, .tile, 4, 1, true, true, false, 0x0⟩
  | .hstSegRepeat => ⟨0x6030110, 0, 64, .ro, .tile, .tile, 4, 1, true, true, false, 0x0⟩
  | .tileCoreStatusWaitKind => ⟨0x6008500, 4, 4, .ro, .live, .tile, 4, 1, false, false, false, 0x0⟩
  | .tileCoreStatusState => ⟨0x6008500, 0, 2, .ro, .live, .tile, 4, 1, false, false, false, 0x0⟩
  | .tileCorePc => ⟨0x6008504, 0, 32, .ro, .live, .tile, 4, 1, false, false, false, 0x0⟩
  | .tileFaultInfoValid => ⟨0x6008508, 31, 1, .w1c, .tile, .tile, 4, 1, false, false, false, 0x0⟩
  | .tileFaultInfoCause => ⟨0x6008508, 0, 8, .ro, .tile, .tile, 4, 1, false, false, false, 0x0⟩
  | .tileFaultPc => ⟨0x600850C, 0, 32, .ro, .tile, .tile, 4, 1, false, false, false, 0x0⟩
  | .tilePhasePhase => ⟨0x6008510, 0, 16, .rw, .tile, .tile, 4, 1, false, false, false, 0x0⟩
  | .tilePhaseAt => ⟨0x6008518, 0, 64, .ro, .tile, .tile, 4, 1, true, false, false, 0x0⟩
  | .tileWakeAt => ⟨0x6008520, 0, 64, .rw, .tile, .tile, 4, 1, true, false, false, 0x0⟩
  | .tileEvq => ⟨0x6008528, 0, 64, .ro, .live, .tile, 4, 1, true, false, false, 0x0⟩
  | .tileSemWatchSem => ⟨0x6008530, 24, 6, .rw, .tile, .tile, 4, 8, false, false, false, 0x0⟩
  | .tileSemWatchThresh => ⟨0x6008530, 0, 24, .rw, .tile, .tile, 4, 8, false, false, false, 0x0⟩
  | .tileInstr => ⟨0x6008580, 0, 64, .ro, .tile, .tile, 4, 1, true, true, false, 0x0⟩
  | .tileWaitNs => ⟨0x6008588, 0, 64, .ro, .tile, .tile, 4, 1, true, true, false, 0x0⟩
  | .tileOpeQfullNs => ⟨0x6008590, 0, 64, .ro, .tile, .tile, 4, 1, true, true, false, 0x0⟩
  | .tileVeQfullNs => ⟨0x6008598, 0, 64, .ro, .tile, .tile, 4, 1, true, true, false, 0x0⟩
  | .tileOpeStarveNs => ⟨0x60085A0, 0, 64, .ro, .tile, .tile, 4, 1, true, true, false, 0x0⟩
  | .tileCrWrDeny => ⟨0x60085A8, 0, 64, .ro, .tile, .tile, 4, 1, true, true, false, 0x0⟩
  | .tileFaults => ⟨0x60085B0, 0, 64, .ro, .tile, .tile, 4, 1, true, true, false, 0x0⟩
  | .tilePhaseChg => ⟨0x60085B8, 0, 64, .ro, .tile, .tile, 4, 1, true, true, false, 0x0⟩
  | .tileSemSat => ⟨0x60085C0, 0, 64, .ro, .tile, .tile, 4, 1, true, true, false, 0x0⟩
  | .tileSem => ⟨0x6008600, 0, 32, .rw, .tile, .tile, 4, 64, false, false, false, 0x0⟩
  | .tileQcfgEn => ⟨0x6050004, 31, 1, .rw, .tile, .queue, 4, 1, false, false, false, 0x0⟩
  | .tileQcfgLog2Depth => ⟨0x6050004, 24, 4, .rw, .tile, .queue, 4, 1, false, false, false, 0x0⟩
  | .tileQcfgBase => ⟨0x6050004, 0, 13, .rw, .tile, .queue, 4, 1, false, false, false, 0x0⟩
  | .tileQTail => ⟨0x6050008, 16, 9, .ro, .tile, .queue, 4, 1, false, false, false, 0x0⟩
  | .tileQHead => ⟨0x6050008, 0, 9, .ro, .tile, .queue, 4, 1, false, false, false, 0x0⟩
  | .tileQOccupancy => ⟨0x605000C, 0, 9, .ro, .live, .queue, 4, 1, false, false, false, 0x0⟩
  | .tileQPosts => ⟨0x6050010, 0, 64, .ro, .tile, .queue, 4, 1, true, true, false, 0x0⟩
  | .tileQDropFull => ⟨0x6050018, 0, 64, .ro, .tile, .queue, 4, 1, true, true, false, 0x0⟩
  | .tileQDropDisabled => ⟨0x6050020, 0, 64, .ro, .tile, .queue, 4, 1, true, true, false, 0x0⟩
  | .veStatusQdepth => ⟨0x6020000, 8, 4, .ro, .live, .tile, 4, 1, false, false, false, 0x0⟩
  | .veStatusBusy => ⟨0x6020000, 0, 1, .ro, .live, .tile, 4, 1, false, false, false, 0x0⟩
  | .veDone => ⟨0x6020008, 0, 64, .ro, .tile, .tile, 4, 1, true, true, false, 0x0⟩
  | .veErrInfoValid => ⟨0x6020010, 31, 1, .w1c, .tile, .tile, 4, 1, false, false, false, 0x0⟩
  | .veErrInfoReason => ⟨0x6020010, 0, 8, .ro, .tile, .tile, 4, 1, false, false, false, 0x0⟩
  | .veErrWord => ⟨0x6020018, 0, 64, .ro, .tile, .tile, 4, 1, true, false, false, 0x0⟩
  | .veInstr => ⟨0x6020100, 0, 64, .ro, .tile, .tile, 4, 1, true, true, false, 0x0⟩
  | .veIllegal => ⟨0x6020108, 0, 64, .ro, .tile, .tile, 4, 1, true, true, false, 0x0⟩
  | .vePasses => ⟨0x6020110, 0, 64, .ro, .tile, .tile, 4, 1, true, true, false, 0x0⟩
  | .veOperandWaitNs => ⟨0x6020118, 0, 64, .ro, .tile, .tile, 4, 1, true, true, false, 0x0⟩
  | .veSlotRetry => ⟨0x6020120, 0, 64, .ro, .tile, .tile, 4, 1, true, true, false, 0x0⟩
  | .vePermOor => ⟨0x6020128, 0, 64, .ro, .tile, .tile, 4, 1, true, true, false, 0x0⟩
  | .veAbort => ⟨0x6020130, 0, 64, .ro, .tile, .tile, 4, 1, true, true, false, 0x0⟩
  | .veElems => ⟨0x6020200, 0, 64, .ro, .tile, .tile, 8, 12, true, true, false, 0x0⟩
  | .tileEpEn => ⟨0x6008800, 31, 1, .rw, .tile, .tile, 64, 16, false, false, false, 0x0⟩
  | .tileEpRole => ⟨0x6008800, 30, 1, .rw, .tile, .tile, 64, 16, false, false, false, 0x0⟩
  | .tileEpVc => ⟨0x6008800, 27, 3, .rw, .tile, .tile, 64, 16, false, false, false, 0x2⟩
  | .tileEpSlots => ⟨0x6008800, 12, 8, .rw, .tile, .tile, 64, 16, false, false, false, 0x0⟩
  | .tileEpPeerSem => ⟨0x6008800, 6, 6, .rw, .tile, .tile, 64, 16, false, false, false, 0x0⟩
  | .tileEpLocalSem => ⟨0x6008800, 0, 6, .rw, .tile, .tile, 64, 16, false, false, false, 0x0⟩
  | .tileEpPeerLocal => ⟨0x6008804, 28, 1, .rw, .tile, .tile, 64, 16, false, false, false, 0x0⟩
  | .tileEpPeerDevice => ⟨0x6008804, 8, 20, .rw, .tile, .tile, 64, 16, false, false, false, 0x0⟩
  | .tileEpPeerTile => ⟨0x6008804, 0, 8, .rw, .tile, .tile, 64, 16, false, false, false, 0x0⟩
  | .tileEpBase => ⟨0x6008808, 0, 17, .rw, .tile, .tile, 64, 16, false, false, false, 0x0⟩
  | .tileEpSize => ⟨0x600880C, 0, 16, .rw, .tile, .tile, 64, 16, false, false, false, 0x0⟩
  | .tileStrmTaken => ⟨0x6008810, 0, 64, .ro, .tile, .tile, 64, 16, true, true, false, 0x0⟩
  | .tileStrmArrived => ⟨0x6008818, 0, 64, .ro, .tile, .tile, 64, 16, true, true, false, 0x0⟩
  | .tileStrmWaitNs => ⟨0x6008820, 0, 64, .ro, .tile, .tile, 64, 16, true, true, false, 0x0⟩
  | .tileStrmLastAt => ⟨0x6008828, 0, 64, .ro, .tile, .tile, 64, 16, true, false, false, 0x0⟩
  | .tileProgress => ⟨0x6008C00, 0, 64, .ro, .tile, .tile, 4, 1, true, true, false, 0x0⟩
  | .tileProgressAt => ⟨0x6008C08, 0, 64, .ro, .tile, .tile, 4, 1, true, false, false, 0x0⟩
  | .tileStage => ⟨0x6008C10, 0, 16, .rw, .tile, .tile, 4, 1, false, false, false, 0x0⟩
  | .spdScrubCfgEn => ⟨0x6040000, 31, 1, .rw, .tile, .tile, 4, 1, false, false, false, 0x1⟩
  | .spdScrubCfgInterval => ⟨0x6040000, 0, 16, .rw, .tile, .tile, 4, 1, false, false, false, 0x40⟩
  | .spdErrInfoValid => ⟨0x6040008, 31, 1, .w1c, .tile, .tile, 4, 1, false, false, false, 0x0⟩
  | .spdErrInfoUe => ⟨0x6040008, 30, 1, .ro, .tile, .tile, 4, 1, false, false, false, 0x0⟩
  | .spdErrInfoBank => ⟨0x6040008, 27, 3, .ro, .tile, .tile, 4, 1, false, false, false, 0x0⟩
  | .spdErrInfoSource => ⟨0x6040008, 24, 3, .ro, .tile, .tile, 4, 1, false, false, false, 0x0⟩
  | .spdErrInfoWord => ⟨0x6040008, 0, 18, .ro, .tile, .tile, 4, 1, false, false, false, 0x0⟩
  | .spdErrSyndSyndrome => ⟨0x604000C, 0, 8, .ro, .tile, .tile, 4, 1, false, false, false, 0x0⟩
  | .spdPoisonWr => ⟨0x6040010, 0, 64, .ro, .cold, .tile, 4, 1, true, true, false, 0x0⟩
  | .spdBankClear => ⟨0x6040100, 1, 1, .wo, .tile, .tile, 64, 5, false, false, false, 0x0⟩
  | .spdBankClearing => ⟨0x6040100, 0, 1, .ro, .live, .tile, 64, 5, false, false, false, 0x0⟩
  | .spdClears => ⟨0x6040104, 0, 32, .ro, .cold, .tile, 64, 5, false, true, false, 0x0⟩
  | .spdAccMaster => ⟨0x6040108, 0, 64, .ro, .tile, .tile, 64, 5, true, true, false, 0x0⟩
  | .spdAccOther => ⟨0x6040110, 0, 64, .ro, .tile, .tile, 64, 5, true, true, false, 0x0⟩
  | .spdDefer => ⟨0x6040118, 0, 64, .ro, .tile, .tile, 64, 5, true, true, false, 0x0⟩
  | .spdCe => ⟨0x6040120, 0, 64, .ro, .cold, .tile, 64, 5, true, true, false, 0x0⟩
  | .spdUe => ⟨0x6040128, 0, 64, .ro, .cold, .tile, 64, 5, true, true, false, 0x0⟩
  | .spdClearHold => ⟨0x6040130, 0, 64, .ro, .tile, .tile, 64, 5, true, true, false, 0x0⟩
  | .spdScrubLines => ⟨0x6040138, 0, 64, .ro, .tile, .tile, 64, 5, true, true, false, 0x0⟩
  | .spdGatedAcc => ⟨0x60F0000, 0, 64, .ro, .cold, .none, 4, 1, true, true, false, 0x0⟩
  | .hbmStatusPresent => ⟨0x7000004, 31, 1, .ro, .cold, .hbmc, 4, 1, false, false, false, 0x0⟩
  | .hbmStatusTrained => ⟨0x7000004, 30, 1, .ro, .live, .hbmc, 4, 1, false, false, false, 0x0⟩
  | .hbmStatusSelfRefresh => ⟨0x7000004, 29, 1, .ro, .live, .hbmc, 4, 1, false, false, false, 0x0⟩
  | .hbmStatusRef2x => ⟨0x7000004, 28, 1, .ro, .live, .hbmc, 4, 1, false, false, false, 0x0⟩
  | .hbmStatusTemp => ⟨0x7000004, 0, 8, .ro, .live, .hbmc, 4, 1, false, false, false, 0x0⟩
  | .hbmScrubCfgEn => ⟨0x7000008, 31, 1, .rw, .hbmc, .hbmc, 4, 1, false, false, false, 0x1⟩
  | .hbmScrubCfgIntervalNs => ⟨0x7000008, 0, 16, .rw, .hbmc, .hbmc, 4, 1, false, false, false, 0x100⟩
  | .hbmErrInfoValid => ⟨0x700000C, 31, 1, .w1c, .hbmc, .hbmc, 4, 1, false, false, false, 0x0⟩
  | .hbmErrInfoUe => ⟨0x700000C, 30, 1, .ro, .hbmc, .hbmc, 4, 1, false, false, false, 0x0⟩
  | .hbmErrInfoSource => ⟨0x700000C, 28, 2, .ro, .hbmc, .hbmc, 4, 1, false, false, false, 0x0⟩
  | .hbmErrInfoSymbols => ⟨0x700000C, 0, 8, .ro, .hbmc, .hbmc, 4, 1, false, false, false, 0x0⟩
  | .hbmErrLine => ⟨0x7000010, 0, 32, .ro, .hbmc, .hbmc, 4, 1, false, false, false, 0x0⟩
  | .hbmRdLines => ⟨0x7000100, 0, 64, .ro, .hbmc, .hbmc, 4, 1, true, true, false, 0x0⟩
  | .hbmWrLines => ⟨0x7000108, 0, 64, .ro, .hbmc, .hbmc, 4, 1, true, true, false, 0x0⟩
  | .hbmRmw => ⟨0x7000110, 0, 64, .ro, .hbmc, .hbmc, 4, 1, true, true, false, 0x0⟩
  | .hbmCe => ⟨0x7000118, 0, 64, .ro, .cold, .hbmc, 4, 1, true, true, false, 0x0⟩
  | .hbmUe => ⟨0x7000120, 0, 64, .ro, .cold, .hbmc, 4, 1, true, true, false, 0x0⟩
  | .hbmOndieCe => ⟨0x7000128, 0, 64, .ro, .cold, .hbmc, 4, 1, true, true, false, 0x0⟩
  | .hbmPoisonWr => ⟨0x7000130, 0, 64, .ro, .cold, .hbmc, 4, 1, true, true, false, 0x0⟩
  | .hbmPoisonRd => ⟨0x7000138, 0, 64, .ro, .cold, .hbmc, 4, 1, true, true, false, 0x0⟩
  | .hbmRefresh => ⟨0x7000140, 0, 64, .ro, .hbmc, .hbmc, 4, 1, true, true, false, 0x0⟩
  | .hbmRefWaitNs => ⟨0x7000148, 0, 64, .ro, .hbmc, .hbmc, 4, 1, true, true, false, 0x0⟩
  | .hbmCaParRetry => ⟨0x7000150, 0, 64, .ro, .cold, .hbmc, 4, 1, true, true, false, 0x0⟩
  | .hbmScrubLines => ⟨0x7000158, 0, 64, .ro, .hbmc, .hbmc, 4, 1, true, true, false, 0x0⟩
  | .hbmResetDiscard => ⟨0x7000160, 0, 64, .ro, .cold, .hbmc, 4, 1, true, true, false, 0x0⟩
  | .hstStatusOutstanding => ⟨0x6030000, 16, 11, .ro, .live, .tile, 4, 1, false, false, false, 0x0⟩
  | .hstStatusActive => ⟨0x6030000, 0, 3, .ro, .live, .tile, 4, 1, false, false, false, 0x0⟩
  | .hstErrInfoValid => ⟨0x6030010, 31, 1, .w1c, .tile, .tile, 4, 1, false, false, false, 0x0⟩
  | .hstErrInfoQueue => ⟨0x6030010, 8, 5, .ro, .tile, .tile, 4, 1, false, false, false, 0x0⟩
  | .hstErrInfoStatus => ⟨0x6030010, 0, 8, .ro, .tile, .tile, 4, 1, false, false, false, 0x0⟩
  | .hstErrTag => ⟨0x6030014, 0, 32, .ro, .tile, .tile, 4, 1, false, false, false, 0x0⟩
  | .hstErrAddr => ⟨0x6030018, 0, 64, .ro, .tile, .tile, 4, 1, true, false, false, 0x0⟩
  | .hstRemoteTimeoutNs => ⟨0x6030020, 0, 32, .rw, .tile, .tile, 4, 1, false, false, false, 0xF4240⟩
  | .hstDescDone => ⟨0x6030118, 0, 64, .ro, .tile, .tile, 4, 1, true, true, false, 0x0⟩
  | .hstDescIllegal => ⟨0x6030120, 0, 64, .ro, .tile, .tile, 4, 1, true, true, false, 0x0⟩
  | .hstDescErr => ⟨0x6030128, 0, 64, .ro, .tile, .tile, 4, 1, true, true, false, 0x0⟩
  | .hstLinesRd => ⟨0x6030130, 0, 64, .ro, .tile, .tile, 4, 1, true, true, false, 0x0⟩
  | .hstLinesWr => ⟨0x6030138, 0, 64, .ro, .tile, .tile, 4, 1, true, true, false, 0x0⟩
  | .hstSlotRetry => ⟨0x6030140, 0, 64, .ro, .tile, .tile, 4, 1, true, true, false, 0x0⟩
  | .hstSlotWaitNs => ⟨0x6030148, 0, 64, .ro, .tile, .tile, 4, 1, true, true, false, 0x0⟩
  | .hstOutstandingFullNs => ⟨0x6030150, 0, 64, .ro, .tile, .tile, 4, 1, true, true, false, 0x0⟩
  | .hstPoisonCopy => ⟨0x6030158, 0, 64, .ro, .tile, .tile, 4, 1, true, true, false, 0x0⟩
  | .hstRemoteTimeout => ⟨0x6030160, 0, 64, .ro, .tile, .tile, 4, 1, true, true, false, 0x0⟩
  | .hstSigWithheld => ⟨0x6030168, 0, 64, .ro, .tile, .tile, 4, 1, true, true, false, 0x0⟩
  | .adtBar2RdLines => ⟨0x2000118, 0, 64, .ro, .warm, .none, 4, 1, true, true, false, 0x0⟩
  | .adtBar2WrLines => ⟨0x2000120, 0, 64, .ro, .warm, .none, 4, 1, true, true, false, 0x0⟩
  | .adtBar2FlushWaitNs => ⟨0x2000128, 0, 64, .ro, .warm, .none, 4, 1, true, true, false, 0x0⟩
  | .portCtrlEn => ⟨0x5000004, 31, 1, .rw, .port, .port, 4, 1, false, false, false, 0x0⟩
  | .portCtrlRetrain => ⟨0x5000004, 30, 1, .wo, .port, .port, 4, 1, false, false, false, 0x0⟩
  | .portCtrlAutoRetrain => ⟨0x5000004, 29, 1, .rw, .port, .port, 4, 1, false, false, false, 0x0⟩
  | .portCtrlAllowHalf => ⟨0x5000004, 28, 1, .rw, .port, .port, 4, 1, false, false, false, 0x1⟩
  | .portCtrlMedia => ⟨0x5000004, 26, 2, .rw, .port, .port, 4, 1, false, false, false, 0x0⟩
  | .portCtrlLoopback => ⟨0x5000004, 24, 2, .rw, .port, .port, 4, 1, false, false, false, 0x0⟩
  | .portStatusLanesLocked => ⟨0x5000008, 16, 16, .ro, .live, .port, 4, 1, false, false, false, 0x0⟩
  | .portStatusHalfUpper => ⟨0x5000008, 9, 1, .ro, .live, .port, 4, 1, false, false, false, 0x0⟩
  | .portStatusWidthHalf => ⟨0x5000008, 8, 1, .ro, .live, .port, 4, 1, false, false, false, 0x0⟩
  | .portStatusState => ⟨0x5000008, 0, 3, .ro, .live, .port, 4, 1, false, false, false, 0x0⟩
  | .portPeerValid => ⟨0x500000C, 31, 1, .ro, .port, .port, 4, 1, false, false, false, 0x0⟩
  | .portPeerPeerPort => ⟨0x500000C, 20, 4, .ro, .port, .port, 4, 1, false, false, false, 0x0⟩
  | .portPeerPeerDevice => ⟨0x500000C, 0, 20, .ro, .port, .port, 4, 1, false, false, false, 0x0⟩
  | .portTrainCfgTimeoutMs => ⟨0x5000010, 0, 16, .rw, .port, .port, 4, 1, false, false, false, 0x3E8⟩
  | .portRetryCfgReplayNs => ⟨0x5000014, 16, 16, .rw, .port, .port, 4, 1, false, false, false, 0x3E8⟩
  | .portRetryCfgLimit => ⟨0x5000014, 0, 8, .rw, .port, .port, 4, 1, false, false, false, 0x10⟩
  | .portDownInfoValid => ⟨0x5000018, 31, 1, .w1c, .warm, .port, 4, 1, false, false, false, 0x0⟩
  | .portDownInfoReason => ⟨0x5000018, 0, 4, .ro, .warm, .port, 4, 1, false, false, false, 0x0⟩
  | .portDownAt => ⟨0x5000020, 0, 64, .ro, .warm, .port, 4, 1, true, false, false, 0x0⟩
  | .portRxbufVc => ⟨0x5000040, 0, 12, .rw, .port, .port, 4, 8, false, false, false, 0x0⟩
  | .portTxFrames => ⟨0x5000100, 0, 64, .ro, .warm, .port, 4, 1, true, true, false, 0x0⟩
  | .portRxFrames => ⟨0x5000108, 0, 64, .ro, .warm, .port, 4, 1, true, true, false, 0x0⟩
  | .portTxFlits => ⟨0x5000110, 0, 64, .ro, .warm, .port, 4, 1, true, true, false, 0x0⟩
  | .portRxFlits => ⟨0x5000118, 0, 64, .ro, .warm, .port, 4, 1, true, true, false, 0x0⟩
  | .portTxIdleFlits => ⟨0x5000120, 0, 64, .ro, .warm, .port, 4, 1, true, true, false, 0x0⟩
  | .portRxCrcErr => ⟨0x5000128, 0, 64, .ro, .warm, .port, 4, 1, true, true, false, 0x0⟩
  | .portRxSeqErr => ⟨0x5000130, 0, 64, .ro, .warm, .port, 4, 1, true, true, false, 0x0⟩
  | .portRxRetryReq => ⟨0x5000138, 0, 64, .ro, .warm, .port, 4, 1, true, true, false, 0x0⟩
  | .portTxRetry => ⟨0x5000140, 0, 64, .ro, .warm, .port, 4, 1, true, true, false, 0x0⟩
  | .portTxReplayTimeout => ⟨0x5000148, 0, 64, .ro, .warm, .port, 4, 1, true, true, false, 0x0⟩
  | .portTxRetryFlits => ⟨0x5000150, 0, 64, .ro, .warm, .port, 4, 1, true, true, false, 0x0⟩
  | .portFecCw => ⟨0x5000158, 0, 64, .ro, .warm, .port, 4, 1, true, true, false, 0x0⟩
  | .portFecCorrCw => ⟨0x5000160, 0, 64, .ro, .warm, .port, 4, 1, true, true, false, 0x0⟩
  | .portFecUncorrCw => ⟨0x5000168, 0, 64, .ro, .warm, .port, 4, 1, true, true, false, 0x0⟩
  | .portDropLinkDown => ⟨0x5000170, 0, 64, .ro, .warm, .port, 4, 1, true, true, false, 0x0⟩
  | .portDropPartial => ⟨0x5000178, 0, 64, .ro, .warm, .port, 4, 1, true, true, false, 0x0⟩
  | .portDropPortDown => ⟨0x5000180, 0, 64, .ro, .warm, .port, 4, 1, true, true, false, 0x0⟩
  | .portDropMalformed => ⟨0x5000188, 0, 64, .ro, .warm, .port, 4, 1, true, true, false, 0x0⟩
  | .portLinkDown => ⟨0x5000190, 0, 64, .ro, .warm, .port, 4, 1, true, true, false, 0x0⟩
  | .portTxCreditWaitNs => ⟨0x5000198, 0, 64, .ro, .warm, .port, 4, 1, true, true, false, 0x0⟩
  | .portTxWindowFullNs => ⟨0x50001A0, 0, 64, .ro, .warm, .port, 4, 1, true, true, false, 0x0⟩
  | .portCtrlFlits => ⟨0x50001A8, 0, 64, .ro, .warm, .port, 4, 1, true, true, false, 0x0⟩
  | .portFecSym => ⟨0x5000200, 0, 64, .ro, .warm, .port, 8, 16, true, true, false, 0x0⟩
  | .fabDevIdValid => ⟨0x4000000, 31, 1, .rw, .warm, .none, 4, 1, false, false, false, 0x0⟩
  | .fabDevIdId => ⟨0x4000000, 0, 20, .rw, .warm, .none, 4, 1, false, false, false, 0x0⟩
  | .fabEpochInj => ⟨0x4000004, 0, 1, .rw, .warm, .none, 4, 1, false, false, false, 0x0⟩
  | .fabPortDim => ⟨0x4000008, 0, 32, .rw, .warm, .none, 4, 1, false, false, false, 0x0⟩
  | .fabHopLimit => ⟨0x400000C, 0, 8, .rw, .warm, .none, 4, 1, false, false, false, 0x80⟩
  | .fabEndstnWeight => ⟨0x4000010, 0, 32, .rw, .warm, .none, 4, 1, false, false, false, 0x144448FF⟩
  | .fabInjPkts => ⟨0x4000100, 0, 64, .ro, .warm, .none, 4, 1, true, true, false, 0x0⟩
  | .fabEjectPkts => ⟨0x4000108, 0, 64, .ro, .warm, .none, 4, 1, true, true, false, 0x0⟩
  | .fabTransitPkts => ⟨0x4000110, 0, 64, .ro, .warm, .none, 4, 1, true, true, false, 0x0⟩
  | .fabDropNoRoute => ⟨0x4000118, 0, 64, .ro, .warm, .none, 4, 1, true, true, false, 0x0⟩
  | .fabDropAbsentPort => ⟨0x4000120, 0, 64, .ro, .warm, .none, 4, 1, true, true, false, 0x0⟩
  | .fabDropUturn => ⟨0x4000128, 0, 64, .ro, .warm, .none, 4, 1, true, true, false, 0x0⟩
  | .fabDropHops => ⟨0x4000130, 0, 64, .ro, .warm, .none, 4, 1, true, true, false, 0x0⟩
  | .fabDropBadhdr => ⟨0x4000138, 0, 64, .ro, .warm, .none, 4, 1, true, true, false, 0x0⟩
  | .fabDropBadvc => ⟨0x4000140, 0, 64, .ro, .warm, .none, 4, 1, true, true, false, 0x0⟩
  | .fabDropUnassigned => ⟨0x4000148, 0, 64, .ro, .warm, .none, 4, 1, true, true, false, 0x0⟩
  | .fabRingInjWaitNs => ⟨0x4000150, 0, 64, .ro, .warm, .none, 4, 1, true, true, false, 0x0⟩
  | .rtAccAddrAutoinc => ⟨0x4010000, 29, 1, .rw, .warm, .none, 4, 1, false, false, false, 0x0⟩
  | .rtAccAddrBank => ⟨0x4010000, 28, 1, .rw, .warm, .none, 4, 1, false, false, false, 0x0⟩
  | .rtAccAddrLevel => ⟨0x4010000, 27, 1, .rw, .warm, .none, 4, 1, false, false, false, 0x0⟩
  | .rtAccAddrIndex => ⟨0x4010000, 0, 18, .rw, .warm, .none, 4, 1, false, false, false, 0x0⟩
  | .rtAccData => ⟨0x4010004, 0, 32, .rw, .warm, .none, 4, 1, false, false, false, 0x0⟩
  | .rtHeld0 => ⟨0x4010008, 0, 32, .ro, .live, .none, 4, 1, false, false, false, 0x0⟩
  | .rtHeld1 => ⟨0x401000C, 0, 32, .ro, .live, .none, 4, 1, false, false, false, 0x0⟩
  | .rtDrainEpoch1 => ⟨0x4010010, 16, 16, .ro, .live, .none, 4, 8, false, false, false, 0x0⟩
  | .rtDrainEpoch0 => ⟨0x4010010, 0, 16, .ro, .live, .none, 4, 8, false, false, false, 0x0⟩
  | .rtWrDeny => ⟨0x4010100, 0, 64, .ro, .warm, .none, 4, 1, true, true, false, 0x0⟩
  | .rtFlips => ⟨0x4010108, 0, 64, .ro, .warm, .none, 4, 1, true, true, false, 0x0⟩
  | .vcWeight => ⟨0x5080000, 0, 32, .rw, .port, .port, 4, 1, false, false, false, 0x144448FF⟩
  | .vcTxPkts => ⟨0x5080100, 0, 64, .ro, .warm, .port, 64, 8, true, true, false, 0x0⟩
  | .vcRxPkts => ⟨0x5080108, 0, 64, .ro, .warm, .port, 64, 8, true, true, false, 0x0⟩
  | .vcTxFlits => ⟨0x5080110, 0, 64, .ro, .warm, .port, 64, 8, true, true, false, 0x0⟩
  | .vcArbWaitNs => ⟨0x5080118, 0, 64, .ro, .warm, .port, 64, 8, true, true, false, 0x0⟩
  | .vcBubbleWaitNs => ⟨0x5080120, 0, 64, .ro, .warm, .port, 64, 8, true, true, false, 0x0⟩
  | .vcCreditWaitNs => ⟨0x5080128, 0, 64, .ro, .warm, .port, 64, 8, true, true, false, 0x0⟩
  | .collCfgValid => ⟨0x8000004, 31, 1, .rw, .warm, .group, 4, 1, false, false, false, 0x0⟩
  | .collCfgVc => ⟨0x8000004, 28, 3, .rw, .warm, .group, 4, 1, false, false, false, 0x0⟩
  | .collCfgReplayLimit => ⟨0x8000004, 24, 4, .rw, .warm, .group, 4, 1, false, false, false, 0x8⟩
  | .collCfgTile => ⟨0x8000004, 16, 8, .rw, .warm, .group, 4, 1, false, false, false, 0x0⟩
  | .collCfgGid => ⟨0x8000004, 0, 16, .rw, .warm, .group, 4, 1, false, false, false, 0x0⟩
  | .collNM1 => ⟨0x8000008, 0, 20, .rw, .warm, .group, 4, 1, false, false, false, 0x0⟩
  | .collIndex => ⟨0x800000C, 0, 20, .rw, .warm, .group, 4, 1, false, false, false, 0x0⟩
  | .collMap => ⟨0x8000010, 0, 48, .rw, .warm, .group, 4, 1, true, false, false, 0x0⟩
  | .collStepTimeoutNs => ⟨0x8000018, 0, 32, .rw, .warm, .group, 4, 1, false, false, false, 0x186A0⟩
  | .collProgressTimeoutNs => ⟨0x800001C, 0, 32, .rw, .warm, .group, 4, 1, false, false, false, 0x0⟩
  | .collSeq => ⟨0x8000020, 0, 32, .rw, .warm, .group, 4, 1, false, false, false, 0x0⟩
  | .collStatusMismatch => ⟨0x8000024, 31, 1, .w1c, .warm, .group, 4, 1, false, false, false, 0x0⟩
  | .collStatusStall => ⟨0x8000024, 30, 1, .w1c, .warm, .group, 4, 1, false, false, false, 0x0⟩
  | .collStatusAborted => ⟨0x8000024, 29, 1, .ro, .warm, .group, 4, 1, false, false, false, 0x0⟩
  | .collStatusState => ⟨0x8000024, 20, 3, .ro, .live, .group, 4, 1, false, false, false, 0x0⟩
  | .collStatusStep => ⟨0x8000024, 0, 20, .ro, .live, .group, 4, 1, false, false, false, 0x0⟩
  | .collAbortInfoValid => ⟨0x8000028, 31, 1, .w1c, .warm, .group, 4, 1, false, false, false, 0x0⟩
  | .collAbortInfoReason => ⟨0x8000028, 20, 4, .ro, .warm, .group, 4, 1, false, false, false, 0x0⟩
  | .collAbortInfoMember => ⟨0x8000028, 0, 20, .ro, .warm, .group, 4, 1, false, false, false, 0x0⟩
  | .collAbortTag => ⟨0x800002C, 0, 32, .ro, .warm, .group, 4, 1, false, false, false, 0x0⟩
  | .collSigLocal => ⟨0x8000030, 0, 64, .ro, .warm, .group, 4, 1, true, false, false, 0x0⟩
  | .collSigRemote => ⟨0x8000038, 0, 64, .ro, .warm, .group, 4, 1, true, false, false, 0x0⟩
  | .collOps => ⟨0x8000200, 0, 64, .ro, .warm, .group, 4, 1, true, true, false, 0x0⟩
  | .collSteps => ⟨0x8000208, 0, 64, .ro, .warm, .group, 4, 1, true, true, false, 0x0⟩
  | .collTxPkts => ⟨0x8000210, 0, 64, .ro, .warm, .group, 4, 1, true, true, false, 0x0⟩
  | .collRxPkts => ⟨0x8000218, 0, 64, .ro, .warm, .group, 4, 1, true, true, false, 0x0⟩
  | .collWaitNs => ⟨0x8000220, 0, 64, .ro, .warm, .group, 4, 1, true, true, false, 0x0⟩
  | .collMismatch => ⟨0x8000228, 0, 64, .ro, .warm, .group, 4, 1, true, true, false, 0x0⟩
  | .collStall => ⟨0x8000230, 0, 64, .ro, .warm, .group, 4, 1, true, true, false, 0x0⟩
  | .collAborts => ⟨0x8000238, 0, 64, .ro, .warm, .group, 4, 1, true, true, false, 0x0⟩
  | .collIllegal => ⟨0x8000240, 0, 64, .ro, .warm, .group, 4, 1, true, true, false, 0x0⟩
  | .collReplayReqTx => ⟨0x8000248, 0, 64, .ro, .warm, .group, 4, 1, true, true, false, 0x0⟩
  | .collReplayReqRx => ⟨0x8000250, 0, 64, .ro, .warm, .group, 4, 1, true, true, false, 0x0⟩
  | .collReplayPkts => ⟨0x8000258, 0, 64, .ro, .warm, .group, 4, 1, true, true, false, 0x0⟩
  | .collReplayEarly => ⟨0x8000260, 0, 64, .ro, .warm, .group, 4, 1, true, true, false, 0x0⟩
  | .collDupDrop => ⟨0x8000268, 0, 64, .ro, .warm, .group, 4, 1, true, true, false, 0x0⟩
  | .collSeqDrop => ⟨0x8000270, 0, 64, .ro, .warm, .group, 4, 1, true, true, false, 0x0⟩
  | .collReadyDrop => ⟨0x8000278, 0, 64, .ro, .warm, .group, 4, 1, true, true, false, 0x0⟩
  | .collItemOor => ⟨0x8000280, 0, 64, .ro, .warm, .group, 4, 1, true, true, false, 0x0⟩
  | .tileSeamDescPoison => ⟨0x6008028, 0, 64, .ro, .tile, .tile, 4, 1, true, true, false, 0x0⟩
  | .tileSeamNogroup => ⟨0x6008030, 0, 64, .ro, .tile, .tile, 4, 1, true, true, false, 0x0⟩
  | .adtStatusFwReady => ⟨0x2000000, 31, 1, .ro, .live, .none, 4, 1, false, false, false, 0x0⟩
  | .adtStatusBootFail => ⟨0x2000000, 30, 1, .ro, .live, .none, 4, 1, false, false, false, 0x0⟩
  | .adtStatusLinkWidth => ⟨0x2000000, 11, 5, .ro, .live, .none, 4, 1, false, false, false, 0x0⟩
  | .adtStatusLinkSpeed => ⟨0x2000000, 8, 3, .ro, .live, .none, 4, 1, false, false, false, 0x0⟩
  | .adtStatusBar2Size => ⟨0x2000000, 0, 2, .ro, .live, .none, 4, 1, false, false, false, 0x0⟩
  | .adtCfgPerstScope => ⟨0x2000004, 0, 2, .rw, .cold, .none, 4, 1, false, false, false, 0x0⟩
  | .adtWinBase => ⟨0x2000010, 0, 48, .rw, .warm, .none, 8, 4, true, false, false, 0x0⟩
  | .adtCorrErr => ⟨0x2000130, 0, 64, .ro, .warm, .none, 4, 1, true, true, false, 0x0⟩
  | .adtUncorrErr => ⟨0x2000138, 0, 64, .ro, .warm, .none, 4, 1, true, true, false, 0x0⟩
  | .adtLinkReplay => ⟨0x2000140, 0, 64, .ro, .warm, .none, 4, 1, true, true, false, 0x0⟩
  | .adtLinkDown => ⟨0x2000148, 0, 64, .ro, .cold, .none, 4, 1, true, true, false, 0x0⟩
  | .adtUr => ⟨0x2000150, 0, 64, .ro, .warm, .none, 4, 1, true, true, false, 0x0⟩
  | .adtPoisonRx => ⟨0x2000158, 0, 64, .ro, .warm, .none, 4, 1, true, true, false, 0x0⟩
  | .adtPoisonTx => ⟨0x2000160, 0, 64, .ro, .warm, .none, 4, 1, true, true, false, 0x0⟩
  | .adtMsixSent => ⟨0x2000168, 0, 64, .ro, .warm, .none, 4, 1, true, true, false, 0x0⟩
  | .adtMsixMasked => ⟨0x2000170, 0, 64, .ro, .warm, .none, 4, 1, true, true, false, 0x0⟩
  | .adtMsixMerged => ⟨0x2000178, 0, 64, .ro, .warm, .none, 4, 1, true, true, false, 0x0⟩
  | .adtMsixDisabledDrop => ⟨0x2000180, 0, 64, .ro, .warm, .none, 4, 1, true, true, false, 0x0⟩
  | .adtEarlyDoorbell => ⟨0x2000188, 0, 64, .ro, .cold, .none, 4, 1, true, true, false, 0x0⟩
  | .adtResetDiscard => ⟨0x2000190, 0, 64, .ro, .cold, .none, 4, 1, true, true, false, 0x0⟩
  | .hfMgmtRx => ⟨0x60, 0, 64, .ro, .warm, .none, 4, 1, true, true, false, 0x0⟩
  | .hfMgmtDrop => ⟨0x68, 0, 64, .ro, .warm, .none, 4, 1, true, true, false, 0x0⟩
  | .hfBootStatusAResult => ⟨0x100, 24, 4, .ro, .warm, .none, 4, 1, false, false, false, 0x0⟩
  | .hfBootStatusBResult => ⟨0x100, 20, 4, .ro, .warm, .none, 4, 1, false, false, false, 0x0⟩
  | .hfBootStatusPref => ⟨0x100, 16, 1, .ro, .warm, .none, 4, 1, false, false, false, 0x0⟩
  | .hfBootStatusBooted => ⟨0x100, 0, 2, .ro, .warm, .none, 4, 1, false, false, false, 0x0⟩
  | .hfFwVersion => ⟨0x104, 0, 32, .ro, .warm, .none, 4, 1, false, false, false, 0x0⟩
  | .hfBootCtrlReady => ⟨0x108, 0, 1, .rw, .warm, .none, 4, 1, false, false, false, 0x0⟩
  | .hfBoots => ⟨0x110, 0, 64, .ro, .cold, .none, 4, 1, true, true, false, 0x0⟩
  | .hfCompStatusGen => ⟨0x200, 24, 8, .ro, .cold, .none, 4, 6, false, false, false, 0x0⟩
  | .hfCompStatusState => ⟨0x200, 0, 2, .ro, .live, .none, 4, 6, false, false, false, 0x0⟩
  | .hfCompFaults => ⟨0x240, 0, 64, .ro, .cold, .none, 8, 6, true, true, false, 0x0⟩
  | .hfCompRestarts => ⟨0x280, 0, 64, .ro, .cold, .none, 8, 6, true, true, false, 0x0⟩
  | .mbxDoorbell => ⟨0x1000000, 0, 1, .wo, .warm, .chan, 4, 1, false, false, false, 0x0⟩
  | .mbxState => ⟨0x1000004, 0, 2, .ro, .warm, .chan, 4, 1, false, false, false, 0x0⟩
  | .mbxCmds => ⟨0x1000008, 0, 64, .ro, .warm, .chan, 4, 1, true, true, false, 0x0⟩
  | .mbxDoorbellReject => ⟨0x1000010, 0, 64, .ro, .warm, .chan, 4, 1, true, true, false, 0x0⟩
  | .mbxWrBusy => ⟨0x1000018, 0, 64, .ro, .warm, .chan, 4, 1, true, true, false, 0x0⟩
  | .mbxEvtHead => ⟨0x1000020, 0, 8, .ro, .warm, .chan, 4, 1, false, false, false, 0x0⟩
  | .mbxEvtTail => ⟨0x1000024, 0, 8, .rw, .warm, .chan, 4, 1, false, false, false, 0x0⟩
  | .mbxEvtDrop => ⟨0x1000028, 0, 64, .ro, .warm, .chan, 4, 1, true, true, false, 0x0⟩
  | .mbxErrStatus => ⟨0x1000030, 0, 64, .ro, .warm, .chan, 4, 1, true, true, false, 0x0⟩
  | .mbxReq => ⟨0x1000040, 0, 32, .rw, .warm, .chan, 4, 2032, false, false, false, 0x0⟩
  | .mbxResp => ⟨0x1002000, 0, 32, .ro, .warm, .chan, 4, 2048, false, false, false, 0x0⟩
  | .icCur => ⟨0x0, 0, 10, .ro, .live, .core, 4, 1, false, false, true, 0x0⟩
  | .icEoi => ⟨0x4, 0, 10, .wo, .warm, .core, 4, 1, false, false, true, 0x0⟩
  | .icPmr => ⟨0x8, 0, 5, .rw, .warm, .core, 4, 1, false, false, true, 0x0⟩
  | .icVbase => ⟨0xC, 14, 10, .rw, .warm, .core, 4, 1, false, false, true, 0x0⟩
  | .icSignal => ⟨0x10, 0, 10, .wo, .warm, .core, 4, 1, false, false, true, 0x0⟩
  | .icTimerAt => ⟨0x20, 0, 64, .rw, .warm, .core, 8, 4, true, false, true, 0x0⟩
  | .icSrcCfgEn => ⟨0x10000, 31, 1, .rw, .warm, .none, 4, 1024, false, false, false, 0x0⟩
  | .icSrcCfgMask => ⟨0x10000, 30, 1, .rw, .warm, .none, 4, 1024, false, false, false, 0x0⟩
  | .icSrcCfgFwd => ⟨0x10000, 29, 1, .rw, .warm, .none, 4, 1024, false, false, false, 0x0⟩
  | .icSrcCfgPending => ⟨0x10000, 28, 1, .ro, .live, .none, 4, 1024, false, false, false, 0x0⟩
  | .icSrcCfgActive => ⟨0x10000, 27, 1, .ro, .live, .none, 4, 1024, false, false, false, 0x0⟩
  | .icSrcCfgTarget => ⟨0x10000, 4, 2, .rw, .warm, .none, 4, 1024, false, false, false, 0x0⟩
  | .icSrcCfgPrio => ⟨0x10000, 0, 4, .rw, .warm, .none, 4, 1024, false, false, false, 0x0⟩
  | .icLampSrcEn => ⟨0x11000, 31, 1, .rw, .cold, .none, 4, 32, false, false, false, 0x0⟩
  | .icLampSrcSource => ⟨0x11000, 0, 10, .rw, .cold, .none, 4, 32, false, false, false, 0x0⟩
  | .icLampCtrlAsleep => ⟨0x11080, 1, 1, .ro, .live, .none, 4, 1, false, false, false, 0x0⟩
  | .icLampCtrlStandbyEn => ⟨0x11080, 0, 1, .rw, .cold, .none, 4, 1, false, false, false, 0x0⟩
  | .icStackInfoValid => ⟨0x11100, 31, 1, .w1c, .warm, .none, 4, 1, false, false, false, 0x0⟩
  | .icStackInfoEmpty => ⟨0x11100, 30, 1, .ro, .warm, .none, 4, 1, false, false, false, 0x0⟩
  | .icStackInfoCore => ⟨0x11100, 28, 2, .ro, .warm, .none, 4, 1, false, false, false, 0x0⟩
  | .icStackInfoWritten => ⟨0x11100, 16, 10, .ro, .warm, .none, 4, 1, false, false, false, 0x0⟩
  | .icStackInfoTop => ⟨0x11100, 0, 10, .ro, .warm, .none, 4, 1, false, false, false, 0x0⟩
  | .icStackFixCore => ⟨0x11104, 28, 2, .wo, .warm, .none, 4, 1, false, false, false, 0x0⟩
  | .icStackFixSource => ⟨0x11104, 0, 10, .wo, .warm, .none, 4, 1, false, false, false, 0x0⟩
  | .icCoreStateDepth => ⟨0x11200, 16, 5, .ro, .live, .core, 4, 1, false, false, false, 0x0⟩
  | .icDelivered => ⟨0x11208, 0, 64, .ro, .warm, .core, 4, 1, true, true, false, 0x0⟩
  | .icLateDeliver => ⟨0x11210, 0, 64, .ro, .warm, .core, 4, 1, true, true, false, 0x0⟩
  | .icStackFaults => ⟨0x11218, 0, 64, .ro, .cold, .core, 4, 1, true, true, false, 0x0⟩
  | .icStackPrio => ⟨0x11240, 10, 4, .ro, .live, .core, 4, 16, false, false, false, 0x0⟩
  | .icStackSource => ⟨0x11240, 0, 10, .ro, .live, .core, 4, 16, false, false, false, 0x0⟩
  | .icRaised => ⟨0x11400, 0, 64, .ro, .warm, .none, 4, 1, true, true, false, 0x0⟩
  | .icMerged => ⟨0x11408, 0, 64, .ro, .warm, .none, 4, 1, true, true, false, 0x0⟩
  | .icDisabledDrop => ⟨0x11410, 0, 64, .ro, .warm, .none, 4, 1, true, true, false, 0x0⟩
  | .icCfgDeny => ⟨0x11418, 0, 64, .ro, .warm, .none, 4, 1, true, true, false, 0x0⟩
  | .icFixMiss => ⟨0x11420, 0, 64, .ro, .warm, .none, 4, 1, true, true, false, 0x0⟩
  | .icLampWakes => ⟨0x11428, 0, 64, .ro, .cold, .none, 4, 1, true, true, false, 0x0⟩
  | .pwrCapCapW => ⟨0x3000000, 0, 16, .rw, .warm, .none, 4, 1, false, false, false, 0x0⟩
  | .pwrStatusSafe => ⟨0x3000004, 31, 1, .ro, .live, .none, 4, 1, false, false, false, 0x0⟩
  | .pwrStatusCapUnmet => ⟨0x3000004, 30, 1, .ro, .warm, .none, 4, 1, false, false, false, 0x0⟩
  | .pwrStatusFastActive => ⟨0x3000004, 29, 1, .ro, .live, .none, 4, 1, false, false, false, 0x0⟩
  | .pwrStatusMatching => ⟨0x3000004, 28, 1, .ro, .live, .none, 4, 1, false, false, false, 0x0⟩
  | .pwrStatusEstW => ⟨0x3000004, 0, 16, .ro, .live, .none, 4, 1, false, false, false, 0x0⟩
  | .pwrAvgAvgW => ⟨0x3000008, 16, 16, .ro, .live, .none, 4, 1, false, false, false, 0x0⟩
  | .pwrAvgAvgLog2 => ⟨0x3000008, 0, 4, .rw, .warm, .none, 4, 1, false, false, false, 0x4⟩
  | .pwrPeakW => ⟨0x300000C, 0, 16, .rw, .warm, .none, 4, 1, false, false, false, 0x0⟩
  | .pwrLimitSafeVset => ⟨0x3000010, 8, 2, .rw, .warm, .none, 4, 1, false, false, false, 0x1⟩
  | .pwrLimitFastFrac => ⟨0x3000010, 0, 7, .rw, .warm, .none, 4, 1, false, false, false, 0x20⟩
  | .pwrCalEff => ⟨0x3000014, 16, 16, .rw, .warm, .none, 4, 1, false, false, false, 0xF540⟩
  | .pwrCalGain => ⟨0x3000014, 0, 16, .rw, .warm, .none, 4, 1, false, false, false, 0x4000⟩
  | .pwrFixedMw => ⟨0x3000018, 0, 32, .rw, .warm, .none, 4, 1, false, false, false, 0xEA60⟩
  | .pwrStaticStackMw => ⟨0x300001C, 16, 16, .rw, .warm, .none, 4, 1, false, false, false, 0x1F40⟩
  | .pwrPortMw => ⟨0x300001C, 0, 16, .rw, .warm, .none, 4, 1, false, false, false, 0x2EE0⟩
  | .pwrCoef => ⟨0x3000020, 0, 16, .rw, .warm, .none, 4, 11, false, false, false, 0x0⟩
  | .pwrTjTrip => ⟨0x3000060, 24, 8, .ro, .cold, .none, 4, 1, false, false, false, 0x73⟩
  | .pwrTjHot => ⟨0x3000060, 16, 8, .rw, .warm, .none, 4, 1, false, false, false, 0x69⟩
  | .pwrTjTarget => ⟨0x3000060, 8, 8, .rw, .warm, .none, 4, 1, false, false, false, 0x5F⟩
  | .pwrHbmHot => ⟨0x3000060, 0, 8, .rw, .warm, .none, 4, 1, false, false, false, 0x64⟩
  | .pwrDroopCfgDroopMv => ⟨0x3000064, 24, 8, .rw, .warm, .none, 4, 1, false, false, false, 0x28⟩
  | .pwrDroopCfgDroopFrac => ⟨0x3000064, 16, 7, .rw, .warm, .none, 4, 1, false, false, false, 0x10⟩
  | .pwrDroopCfgHoldNs => ⟨0x3000064, 0, 16, .rw, .warm, .none, 4, 1, false, false, false, 0xC8⟩
  | .pwrTripInfo => ⟨0x3000068, 0, 8, .ro, .cold, .none, 4, 1, false, false, false, 0x0⟩
  | .pwrPaceCfgEn => ⟨0x3000080, 31, 1, .rw, .warm, .none, 4, 1, false, false, false, 0x1⟩
  | .pwrPaceCfgMatchEn => ⟨0x3000080, 30, 1, .rw, .warm, .none, 4, 1, false, false, false, 0x0⟩
  | .pwrPaceCfgPeriodUs => ⟨0x3000080, 0, 16, .rw, .warm, .none, 4, 1, false, false, false, 0x64⟩
  | .pwrPaceDestValid => ⟨0x3000084, 31, 1, .rw, .warm, .none, 4, 16, false, false, false, 0x0⟩
  | .pwrPaceDestMatch => ⟨0x3000084, 30, 1, .rw, .warm, .none, 4, 16, false, false, false, 0x0⟩
  | .pwrPaceDestDevice => ⟨0x3000084, 0, 20, .rw, .warm, .none, 4, 16, false, false, false, 0x0⟩
  | .pwrPaceStageStage => ⟨0x30000C4, 16, 16, .rw, .warm, .none, 4, 10, false, false, false, 0x0⟩
  | .pwrPaceStagePbMask => ⟨0x30000C4, 0, 16, .rw, .warm, .none, 4, 10, false, false, false, 0x0⟩
  | .pwrPaceAlert => ⟨0x30000F0, 0, 16, .rw, .warm, .none, 4, 1, false, false, false, 0xE00⟩
  | .pwrPbStatusGated => ⟨0x3000100, 31, 1, .ro, .live, .pb, 4, 1, false, false, false, 0x0⟩
  | .pwrPbStatusDroop => ⟨0x3000100, 30, 1, .ro, .live, .pb, 4, 1, false, false, false, 0x0⟩
  | .pwrPbStatusHot => ⟨0x3000100, 29, 1, .ro, .live, .pb, 4, 1, false, false, false, 0x0⟩
  | .pwrPbStatusVsetEff => ⟨0x3000100, 16, 2, .ro, .live, .pb, 4, 1, false, false, false, 0x0⟩
  | .pwrPbStatusIssueEff => ⟨0x3000100, 8, 7, .ro, .live, .pb, 4, 1, false, false, false, 0x0⟩
  | .pwrPbStatusTj => ⟨0x3000100, 0, 8, .ro, .live, .pb, 4, 1, false, false, false, 0x0⟩
  | .pwrPbCtrlVset => ⟨0x3000104, 8, 2, .rw, .warm, .pb, 4, 1, false, false, false, 0x2⟩
  | .pwrPbCtrlIssue => ⟨0x3000104, 0, 7, .rw, .warm, .pb, 4, 1, false, false, false, 0x40⟩
  | .pwrPbPace => ⟨0x3000108, 16, 16, .ro, .live, .pb, 4, 1, false, false, false, 0x0⟩
  | .pwrPbRate => ⟨0x3000108, 0, 16, .ro, .live, .pb, 4, 1, false, false, false, 0x0⟩
  | .pwrPbE => ⟨0x300010C, 0, 32, .ro, .live, .pb, 4, 1, false, false, false, 0x0⟩
  | .pwrDroopTrips => ⟨0x3000110, 0, 64, .ro, .warm, .pb, 4, 1, true, true, false, 0x0⟩
  | .pwrDroopHoldNs => ⟨0x3000118, 0, 64, .ro, .warm, .pb, 4, 1, true, true, false, 0x0⟩
  | .pwrThermHoldNs => ⟨0x3000120, 0, 64, .ro, .warm, .pb, 4, 1, true, true, false, 0x0⟩
  | .tilePwrE => ⟨0x6008C20, 0, 32, .ro, .live, .tile, 4, 1, false, false, false, 0x0⟩
  | .pwrFastTrips => ⟨0x3000600, 0, 64, .ro, .warm, .none, 4, 1, true, true, false, 0x0⟩
  | .pwrSafeNs => ⟨0x3000608, 0, 64, .ro, .warm, .none, 4, 1, true, true, false, 0x0⟩
  | .pwrCapUnmetNs => ⟨0x3000610, 0, 64, .ro, .warm, .none, 4, 1, true, true, false, 0x0⟩
  | .pwrGateRefused => ⟨0x3000618, 0, 64, .ro, .warm, .none, 4, 1, true, true, false, 0x0⟩
  | .pwrPhaseEvict => ⟨0x3000620, 0, 64, .ro, .warm, .none, 4, 1, true, true, false, 0x0⟩
  | .pwrHbmHotNs => ⟨0x3000628, 0, 64, .ro, .warm, .none, 4, 1, true, true, false, 0x0⟩
  | .pwrPaceTx => ⟨0x3000630, 0, 64, .ro, .warm, .none, 4, 1, true, true, false, 0x0⟩
  | .pwrPaceRx => ⟨0x3000638, 0, 64, .ro, .warm, .none, 4, 1, true, true, false, 0x0⟩
  | .pwrPaceEvict => ⟨0x3000640, 0, 64, .ro, .warm, .none, 4, 1, true, true, false, 0x0⟩
  | .pwrPaceMatchNs => ⟨0x3000648, 0, 64, .ro, .warm, .none, 4, 1, true, true, false, 0x0⟩
  | .pwrPaceTblValid => ⟨0x3000800, 31, 1, .ro, .warm, .none, 16, 64, false, false, false, 0x0⟩
  | .pwrPaceTblDevice => ⟨0x3000800, 0, 20, .ro, .warm, .none, 16, 64, false, false, false, 0x0⟩
  | .pwrPaceTblReason => ⟨0x3000804, 16, 16, .ro, .warm, .none, 16, 64, false, false, false, 0x0⟩
  | .pwrPaceTblPace => ⟨0x3000804, 0, 16, .ro, .warm, .none, 16, 64, false, false, false, 0x0⟩
  | .pwrPaceTblStamp => ⟨0x3000808, 0, 64, .ro, .warm, .none, 16, 64, true, false, false, 0x0⟩
  | .dbgBlockPresent => ⟨0x9000004, 31, 1, .ro, .cold, .block, 4, 1, false, false, false, 0x0⟩
  | .dbgBlockPowered => ⟨0x9000004, 30, 1, .ro, .live, .block, 4, 1, false, false, false, 0x0⟩
  | .dbgShadowSeq => ⟨0x9000008, 0, 32, .ro, .cold, .block, 4, 1, false, false, false, 0x0⟩
  | .dbgShadowAt => ⟨0x9000010, 0, 64, .ro, .cold, .block, 4, 1, true, false, false, 0x0⟩
  | .dbgRingFlits => ⟨0x9000100, 0, 64, .ro, .warm, .block, 4, 1, true, true, false, 0x0⟩
  | .dbgRingHoldNs => ⟨0x9000108, 0, 64, .ro, .warm, .block, 4, 1, true, true, false, 0x0⟩
  | .dbgLockOpen => ⟨0x90F0000, 31, 1, .ro, .warm, .none, 4, 1, false, false, false, 0x0⟩
  | .dbgLockPerms => ⟨0x90F0000, 0, 3, .ro, .warm, .none, 4, 1, false, false, false, 0x0⟩
  | .dbgOpenUntil => ⟨0x90F0008, 0, 64, .ro, .warm, .none, 4, 1, true, false, false, 0x0⟩
  | .dbgHaltCtrlGo => ⟨0x90F0010, 31, 1, .wo, .warm, .none, 4, 1, false, false, false, 0x0⟩
  | .dbgHaltCtrlResume => ⟨0x90F0010, 30, 1, .wo, .warm, .none, 4, 1, false, false, false, 0x0⟩
  | .dbgHaltCtrlAccept => ⟨0x90F0010, 29, 1, .rw, .warm, .none, 4, 1, false, false, false, 0x1⟩
  | .dbgHaltCtrlPropagate => ⟨0x90F0010, 16, 8, .rw, .warm, .none, 4, 1, false, false, false, 0xFF⟩
  | .dbgHaltStatusHalted => ⟨0x90F0014, 31, 1, .ro, .live, .none, 4, 1, false, false, false, 0x0⟩
  | .dbgHaltStatusStopping => ⟨0x90F0014, 30, 1, .ro, .live, .none, 4, 1, false, false, false, 0x0⟩
  | .dbgHaltStatusLinksComplete => ⟨0x90F0014, 29, 1, .ro, .live, .none, 4, 1, false, false, false, 0x0⟩
  | .dbgHaltStatusLinkLost => ⟨0x90F0014, 0, 8, .ro, .warm, .none, 4, 1, false, false, false, 0x0⟩
  | .dbgHaltId => ⟨0x90F0018, 0, 64, .ro, .warm, .none, 4, 1, true, false, false, 0x0⟩
  | .dbgHaltAt => ⟨0x90F0020, 0, 64, .ro, .warm, .none, 4, 1, true, false, false, 0x0⟩
  | .dbgHaltOrigin => ⟨0x90F0028, 0, 20, .ro, .warm, .none, 4, 1, false, false, false, 0x0⟩
  | .dbgPcsBase => ⟨0x90F0030, 0, 48, .rw, .warm, .none, 4, 1, true, false, false, 0x0⟩
  | .dbgPcsCfgEn => ⟨0x90F0038, 31, 1, .rw, .warm, .none, 4, 1, false, false, false, 0x0⟩
  | .dbgPcsCfgLog2Bytes => ⟨0x90F0038, 0, 5, .rw, .warm, .none, 4, 1, false, false, false, 0x14⟩
  | .dbgPcsIntervalNs => ⟨0x90F003C, 0, 32, .rw, .warm, .none, 4, 1, false, false, false, 0x2710⟩
  | .dbgPcsHead => ⟨0x90F0040, 0, 32, .ro, .warm, .none, 4, 1, false, false, false, 0x0⟩
  | .dbgPcsTail => ⟨0x90F0044, 0, 32, .rw, .warm, .none, 4, 1, false, false, false, 0x0⟩
  | .dbgPcsTiles => ⟨0x90F0048, 0, 32, .rw, .warm, .none, 4, 8, false, false, false, 0xFFFFFFFF⟩
  | .dbgHalts => ⟨0x90F0200, 0, 64, .ro, .warm, .none, 4, 1, true, true, false, 0x0⟩
  | .dbgHaltMerged => ⟨0x90F0208, 0, 64, .ro, .warm, .none, 4, 1, true, true, false, 0x0⟩
  | .dbgHaltReject => ⟨0x90F0210, 0, 64, .ro, .warm, .none, 4, 1, true, true, false, 0x0⟩
  | .dbgPcsSamples => ⟨0x90F0218, 0, 64, .ro, .warm, .none, 4, 1, true, true, false, 0x0⟩
  | .dbgPcsDrop => ⟨0x90F0220, 0, 64, .ro, .warm, .none, 4, 1, true, true, false, 0x0⟩
  | .dbgBreakIgnored => ⟨0x90F0228, 0, 64, .ro, .warm, .none, 4, 1, true, true, false, 0x0⟩
  | .dbgUnlocks => ⟨0x90F0230, 0, 64, .ro, .cold, .none, 4, 1, true, true, false, 0x0⟩
  | .dbgUnlockFail => ⟨0x90F0238, 0, 64, .ro, .cold, .none, 4, 1, true, true, false, 0x0⟩
  | .rasCfgHangEn => ⟨0xA000000, 31, 1, .rw, .warm, .none, 4, 1, false, false, false, 0x1⟩
  | .rasCfgHangAction => ⟨0xA000000, 29, 2, .rw, .warm, .none, 4, 1, false, false, false, 0x0⟩
  | .rasCfgAutoWarm => ⟨0xA000000, 28, 1, .rw, .warm, .none, 4, 1, false, false, false, 0x0⟩
  | .rasCfgPmPropagate => ⟨0xA000000, 16, 8, .rw, .warm, .none, 4, 1, false, false, false, 0x0⟩
  | .rasCfgCeThresh => ⟨0xA000000, 0, 16, .rw, .warm, .none, 4, 1, false, false, false, 0x64⟩
  | .rasHangThreshNs => ⟨0xA000004, 0, 32, .rw, .warm, .none, 4, 1, false, false, false, 0x5F5E100⟩
  | .rasHangRemoteNs => ⟨0xA000008, 0, 32, .rw, .warm, .none, 4, 1, false, false, false, 0x3B9ACA00⟩
  | .rasHangScanUs => ⟨0xA00000C, 0, 16, .rw, .warm, .none, 4, 1, false, false, false, 0x3E8⟩
  | .rasFenceMs => ⟨0xA000010, 0, 16, .rw, .warm, .none, 4, 1, false, false, false, 0x3E8⟩
  | .rasPmBase => ⟨0xA000018, 0, 48, .rw, .cold, .none, 4, 1, true, false, false, 0x0⟩
  | .rasPmCap => ⟨0xA000020, 0, 16, .rw, .cold, .none, 4, 1, false, false, false, 0x49⟩
  | .rasPmStatusValid => ⟨0xA000024, 31, 1, .w1c, .cold, .none, 4, 1, false, false, false, 0x0⟩
  | .rasPmStatusIncomplete => ⟨0xA000024, 30, 1, .ro, .cold, .none, 4, 1, false, false, false, 0x0⟩
  | .rasPmStatusLength => ⟨0xA000024, 0, 26, .ro, .cold, .none, 4, 1, false, false, false, 0x0⟩
  | .rasPmAt => ⟨0xA000028, 0, 64, .ro, .cold, .none, 4, 1, true, false, false, 0x0⟩
  | .rasHangInfoValid => ⟨0xA000030, 31, 1, .w1c, .warm, .none, 4, 1, false, false, false, 0x0⟩
  | .rasHangInfoKind => ⟨0xA000030, 28, 3, .ro, .warm, .none, 4, 1, false, false, false, 0x0⟩
  | .rasHangInfoTile => ⟨0xA000030, 20, 8, .ro, .warm, .none, 4, 1, false, false, false, 0x0⟩
  | .rasHangInfoStage => ⟨0xA000030, 0, 16, .ro, .warm, .none, 4, 1, false, false, false, 0x0⟩
  | .rasHangInfoWaiters => ⟨0xA000034, 20, 9, .ro, .warm, .none, 4, 1, false, false, false, 0x0⟩
  | .rasHangInfoPeerDevice => ⟨0xA000034, 0, 20, .ro, .warm, .none, 4, 1, false, false, false, 0x0⟩
  | .rasHangInfoPeerTile => ⟨0xA000038, 0, 8, .ro, .warm, .none, 4, 1, false, false, false, 0x0⟩
  | .rasHangAt => ⟨0xA000040, 0, 64, .ro, .warm, .none, 4, 1, true, false, false, 0x0⟩
  | .rasNotifyDestValid => ⟨0xA000080, 31, 1, .rw, .warm, .none, 4, 16, false, false, false, 0x0⟩
  | .rasNotifyDestDevice => ⟨0xA000080, 0, 20, .rw, .warm, .none, 4, 16, false, false, false, 0x0⟩
  | .rasCe => ⟨0xA000100, 0, 64, .ro, .cold, .none, 4, 1, true, true, false, 0x0⟩
  | .rasUeContained => ⟨0xA000108, 0, 64, .ro, .cold, .none, 4, 1, true, true, false, 0x0⟩
  | .rasUeResource => ⟨0xA000110, 0, 64, .ro, .cold, .none, 4, 1, true, true, false, 0x0⟩
  | .rasUeDevice => ⟨0xA000118, 0, 64, .ro, .cold, .none, 4, 1, true, true, false, 0x0⟩
  | .rasLogOverwrite => ⟨0xA000120, 0, 64, .ro, .cold, .none, 4, 1, true, true, false, 0x0⟩
  | .rasFlashLogDrop => ⟨0xA000128, 0, 64, .ro, .cold, .none, 4, 1, true, true, false, 0x0⟩
  | .rasResetSuppress => ⟨0xA000130, 0, 64, .ro, .cold, .none, 4, 1, true, true, false, 0x0⟩
  | .rasHangReports => ⟨0xA000138, 0, 64, .ro, .cold, .none, 4, 1, true, true, false, 0x0⟩
  | .rasLateDrop => ⟨0xA000140, 0, 64, .ro, .cold, .none, 4, 1, true, true, false, 0x0⟩
  | .rasNoticeTx => ⟨0xA000148, 0, 64, .ro, .cold, .none, 4, 1, true, true, false, 0x0⟩
  | .rasNoticeRx => ⟨0xA000150, 0, 64, .ro, .cold, .none, 4, 1, true, true, false, 0x0⟩
  | .rasPmTaken => ⟨0xA000158, 0, 64, .ro, .cold, .none, 4, 1, true, true, false, 0x0⟩
  | .rasResets => ⟨0xA000200, 0, 64, .ro, .cold, .none, 8, 6, true, true, false, 0x0⟩
  | .portGen => ⟨0x5000028, 0, 8, .ro, .cold, .port, 4, 1, false, false, false, 0x0⟩
  | .tileGen => ⟨0x6008C30, 0, 8, .ro, .cold, .tile, 4, 1, false, false, false, 0x0⟩
  | .tileGenAt => ⟨0x6008C38, 0, 64, .ro, .cold, .tile, 4, 1, true, false, false, 0x0⟩
  | .tileGenDrop => ⟨0x6008C40, 0, 64, .ro, .cold, .tile, 4, 1, true, true, false, 0x0⟩
  | .hbmGen => ⟨0x7000014, 0, 8, .ro, .cold, .hbmc, 4, 1, false, false, false, 0x0⟩
  | .crcCtrlBusy => ⟨0x20000, 31, 1, .ro, .live, .none, 4, 1, false, false, false, 0x0⟩
  | .crcCtrlScanBusy => ⟨0x20000, 30, 1, .ro, .live, .none, 4, 1, false, false, false, 0x0⟩
  | .crcCtrlPoly => ⟨0x20000, 0, 2, .rw, .warm, .none, 4, 1, false, false, false, 0x0⟩
  | .crcData8 => ⟨0x20004, 0, 8, .wo, .warm, .none, 4, 1, false, false, false, 0x0⟩
  | .crcData16 => ⟨0x20008, 0, 16, .wo, .warm, .none, 4, 1, false, false, false, 0x0⟩
  | .crcData32 => ⟨0x2000C, 0, 32, .wo, .warm, .none, 4, 1, false, false, false, 0x0⟩
  | .crcResult => ⟨0x20010, 0, 64, .ro, .warm, .none, 4, 1, true, false, false, 0x0⟩
  | .crcRegBytes => ⟨0x20100, 0, 64, .ro, .warm, .none, 4, 1, true, true, false, 0x0⟩
  | .crcScanBytes => ⟨0x20108, 0, 64, .ro, .warm, .none, 4, 1, true, true, false, 0x0⟩
  | .crcRegStallNs => ⟨0x20110, 0, 64, .ro, .warm, .none, 4, 1, true, true, false, 0x0⟩
  | .skpStatusState => ⟨0xB000000, 4, 4, .ro, .live, .none, 4, 1, false, false, false, 0x0⟩
  | .skpStatusResult => ⟨0xB000000, 0, 4, .ro, .warm, .none, 4, 1, false, false, false, 0x0⟩
  | .skpId => ⟨0xB000008, 0, 64, .ro, .warm, .none, 4, 1, true, false, false, 0x0⟩
  | .skpQuiesceAt => ⟨0xB000010, 0, 64, .ro, .warm, .none, 4, 1, true, false, false, 0x0⟩
  | .skpStagedAt => ⟨0xB000018, 0, 64, .ro, .warm, .none, 4, 1, true, false, false, 0x0⟩
  | .skpShipTimeoutNs => ⟨0xB000020, 0, 32, .rw, .warm, .none, 4, 1, false, false, false, 0x989680⟩
  | .skpAlive => ⟨0xB000024, 0, 32, .ro, .warm, .none, 4, 1, false, false, false, 0x0⟩
  | .skpChunksStaged => ⟨0xB000100, 0, 64, .ro, .warm, .none, 4, 1, true, true, false, 0x0⟩
  | .skpChunksShipped => ⟨0xB000108, 0, 64, .ro, .warm, .none, 4, 1, true, true, false, 0x0⟩
  | .skpChunkResend => ⟨0xB000110, 0, 64, .ro, .warm, .none, 4, 1, true, true, false, 0x0⟩
  | .skpPoisonLines => ⟨0xB000118, 0, 64, .ro, .warm, .none, 4, 1, true, true, false, 0x0⟩
  | .skpAborts => ⟨0xB000120, 0, 64, .ro, .warm, .none, 4, 1, true, true, false, 0x0⟩
  | .skpStageWaitNs => ⟨0xB000128, 0, 64, .ro, .warm, .none, 4, 1, true, true, false, 0x0⟩
  | .skpNhCfgEn => ⟨0xB000200, 31, 1, .rw, .warm, .none, 4, 1, false, false, false, 0x0⟩
  | .skpNhCfgFmtMask => ⟨0xB000200, 16, 12, .rw, .warm, .none, 4, 1, false, false, false, 0xFFF⟩
  | .skpNhCfgPeriodMs => ⟨0xB000200, 0, 16, .rw, .warm, .none, 4, 1, false, false, false, 0x3E8⟩
  | .skpNhOvfPpm => ⟨0xB000204, 0, 32, .rw, .warm, .none, 4, 1, false, false, false, 0x3E8⟩
  | .skpNhVanishPpm => ⟨0xB000208, 0, 32, .rw, .warm, .none, 4, 1, false, false, false, 0x2710⟩
  | .skpNhShareOvf => ⟨0xB000210, 0, 32, .ro, .warm, .none, 16, 12, false, false, false, 0x0⟩
  | .skpNhShareVanish => ⟨0xB000214, 0, 32, .ro, .warm, .none, 16, 12, false, false, false, 0x0⟩
  | .skpNhShareNan => ⟨0xB000218, 0, 32, .ro, .warm, .none, 16, 12, false, false, false, 0x0⟩
  | .skpNhShareTotal => ⟨0xB00021C, 0, 32, .ro, .warm, .none, 16, 12, false, false, false, 0x0⟩
  | .skpNhSkipped => ⟨0xB000300, 0, 64, .ro, .warm, .none, 4, 1, true, true, false, 0x0⟩
  | .skpNhStale => ⟨0xB000308, 0, 64, .ro, .warm, .none, 4, 1, true, true, false, 0x0⟩
  | .skpNhAlerts => ⟨0xB000310, 0, 64, .ro, .warm, .none, 4, 1, true, true, false, 0x0⟩
  | .secStatusIdValid => ⟨0x30000, 31, 1, .ro, .warm, .none, 4, 1, false, false, false, 0x0⟩
  | .secStatusOwner => ⟨0x30000, 30, 1, .ro, .warm, .none, 4, 1, false, false, false, 0x0⟩
  | .secStatusSettings => ⟨0x30000, 29, 1, .ro, .warm, .none, 4, 1, false, false, false, 0x0⟩
  | .secStatusCtrErr => ⟨0x30000, 28, 1, .ro, .warm, .none, 4, 1, false, false, false, 0x0⟩
  | .secCtr => ⟨0x30004, 0, 32, .ro, .warm, .none, 4, 4, false, false, false, 0x0⟩
  | .secAdvDelayS => ⟨0x30014, 0, 32, .rw, .warm, .none, 4, 1, false, false, false, 0xE10⟩
  | .secAttest => ⟨0x30100, 0, 64, .ro, .cold, .none, 4, 1, true, true, false, 0x0⟩
  | .secRecWr => ⟨0x30108, 0, 64, .ro, .cold, .none, 4, 1, true, true, false, 0x0⟩
  | .secRecReject => ⟨0x30110, 0, 64, .ro, .cold, .none, 4, 1, true, true, false, 0x0⟩
  | .secCtrAdv => ⟨0x30118, 0, 64, .ro, .cold, .none, 4, 1, true, true, false, 0x0⟩
  | .secCtrErr => ⟨0x30120, 0, 64, .ro, .cold, .none, 4, 1, true, true, false, 0x0⟩
  | .hfModStatusPwrgd => ⟨0x300, 31, 1, .ro, .live, .none, 4, 1, false, false, false, 0x0⟩
  | .hfModStatusAlert => ⟨0x300, 30, 1, .ro, .live, .none, 4, 1, false, false, false, 0x0⟩
  | .hfModStatusColdRst => ⟨0x300, 29, 1, .ro, .live, .none, 4, 1, false, false, false, 0x0⟩
  | .hfModStatusTripCause => ⟨0x300, 4, 4, .ro, .live, .none, 4, 1, false, false, false, 0x0⟩
  | .hfModStatusStartCause => ⟨0x300, 0, 4, .ro, .live, .none, 4, 1, false, false, false, 0x0⟩
  | .hfModVin => ⟨0x304, 16, 16, .ro, .live, .none, 4, 1, false, false, false, 0x0⟩
  | .hfModIin => ⟨0x304, 0, 16, .ro, .live, .none, 4, 1, false, false, false, 0x0⟩
  | .hfModAlerts => ⟨0x308, 0, 64, .ro, .cold, .none, 4, 1, true, true, false, 0x0⟩
  | .tlyAlignDiscard => ⟨0x2050, 0, 64, .ro, .cold, .none, 4, 1, true, true, false, 0x0⟩
  | .portSelIndex => ⟨0x5000000, 0, 16, .rw, .warm, .agent, 4, 1, false, false, false, 0x0⟩
  | .portSelAbsent => ⟨0x5000000, 31, 1, .ro, .live, .agent, 4, 1, false, false, false, 0x0⟩
  | .tileSelIndex => ⟨0x6000000, 0, 16, .rw, .warm, .agent, 4, 1, false, false, false, 0x0⟩
  | .tileSelAbsent => ⟨0x6000000, 31, 1, .ro, .live, .agent, 4, 1, false, false, false, 0x0⟩
  | .qselIndex => ⟨0x6050000, 0, 16, .rw, .warm, .agent, 4, 1, false, false, false, 0x0⟩
  | .qselAbsent => ⟨0x6050000, 31, 1, .ro, .live, .agent, 4, 1, false, false, false, 0x0⟩
  | .hbmSelIndex => ⟨0x7000000, 0, 16, .rw, .warm, .agent, 4, 1, false, false, false, 0x0⟩
  | .hbmSelAbsent => ⟨0x7000000, 31, 1, .ro, .live, .agent, 4, 1, false, false, false, 0x0⟩
  | .groupSelIndex => ⟨0x8000000, 0, 16, .rw, .warm, .agent, 4, 1, false, false, false, 0x0⟩
  | .groupSelAbsent => ⟨0x8000000, 31, 1, .ro, .live, .agent, 4, 1, false, false, false, 0x0⟩
  | .cntSelIndex => ⟨0x9000000, 0, 16, .rw, .warm, .agent, 4, 1, false, false, false, 0x0⟩
  | .cntSelAbsent => ⟨0x9000000, 31, 1, .ro, .live, .agent, 4, 1, false, false, false, 0x0⟩

/-- Position of a field in the tables, the leading part of its key. -/
def Field.idx (f : Field) : Nat := f.ctorIdx

/-- Fields of the tables, part 0. -/
def fieldsPart0 : List Field :=
  [.hfVariantIoDies, .hfVariantFabPorts, .hfVariantHbmStacks, .hfVariantHbmStackMask, .hfVariantFabPortMask, .tileStepCount, .tileStepRate, .tileTlyGated, .tileTlyTallyValid, .tlyNow, .tlyStatusSnapPending, .tlyStatusCoarseSlew, .tlyStatusXdevLocked, .tlyStatusDevValid, .tlyCtrlUpstreamPort, .tlyCtrlRole, .tlyOffset, .tlyResync, .tlyHoldover, .tlySnapAt, .tlySnapCtrlArm, .tlySnapSeq, .tlySnapTakenAt, .tlySnapLate, .tlySnapBusy, .hbmBandMode0, .hbmBandMode1, .hbmBandMode2, .hbmBandRemap, .hfSelAbsentWr, .hfLatchMiss, .hfDecodeErr, .adtBar2DecodeErr, .adtRegWrDeny, .adtRegSizeErr, .tileDecodeErr, .tileSeamDecodeErr, .hstDecodeErr, .dbgDecodeErr, .tileSrKey]

/-- Fields of the tables, part 1. -/
def fieldsPart1 : List Field :=
  [.tileSrTag, .veFmodeFlush, .opeFlagsFlushed, .veFlagsFlushed, .hstFlagsFlushed, .tileSeamFlagsFlushed, .opeFlagsInv, .veFlagsInv, .hstFlagsInv, .tileSeamFlagsInv, .opeFlagsInx, .veFlagsInx, .hstFlagsInx, .tileSeamFlagsInx, .opeFlagsUnf, .veFlagsUnf, .hstFlagsUnf, .tileSeamFlagsUnf, .opeFlagsOvf, .veFlagsOvf, .hstFlagsOvf, .tileSeamFlagsOvf, .tileNhTotal, .tileNhOvf, .tileNhVanish, .tileNhNan, .opeStatusQdepth, .opeStatusT1State, .opeStatusT0State, .opeStatusBusy, .opeDone, .opeErrInfoValid, .opeErrInfoReason, .opeErrWord0, .opeErrWord1, .opeInstr, .opeIllegal, .opeK0, .opeOperandWaitNs, .opeDrainStallNs]

/-- Fields of the tables, part 2. -/
def fieldsPart2 : List Field :=
  [.opeDrainRetry, .opeSeamWaitNs, .opeGovHoldNs, .opeAbort, .opeMacs, .collOrderEffective, .collOrderMode, .tileSpecStatus, .tileSpecWin, .tileSpecLimitNs, .specOpen, .specOpenRefused, .specConfirm, .specDrop, .specTimeout, .specStale, .specInstr, .specInstrDropped, .specSteps, .specStepsDropped, .specCommitLines, .specHeldDrop, .opeSkipSteps, .opeOperandOor, .hstIdxOor, .hstSegRepeat, .tileCoreStatusWaitKind, .tileCoreStatusState, .tileCorePc, .tileFaultInfoValid, .tileFaultInfoCause, .tileFaultPc, .tilePhasePhase, .tilePhaseAt, .tileWakeAt, .tileEvq, .tileSemWatchSem, .tileSemWatchThresh, .tileInstr, .tileWaitNs]

/-- Fields of the tables, part 3. -/
def fieldsPart3 : List Field :=
  [.tileOpeQfullNs, .tileVeQfullNs, .tileOpeStarveNs, .tileCrWrDeny, .tileFaults, .tilePhaseChg, .tileSemSat, .tileSem, .tileQcfgEn, .tileQcfgLog2Depth, .tileQcfgBase, .tileQTail, .tileQHead, .tileQOccupancy, .tileQPosts, .tileQDropFull, .tileQDropDisabled, .veStatusQdepth, .veStatusBusy, .veDone, .veErrInfoValid, .veErrInfoReason, .veErrWord, .veInstr, .veIllegal, .vePasses, .veOperandWaitNs, .veSlotRetry, .vePermOor, .veAbort, .veElems, .tileEpEn, .tileEpRole, .tileEpVc, .tileEpSlots, .tileEpPeerSem, .tileEpLocalSem, .tileEpPeerLocal, .tileEpPeerDevice, .tileEpPeerTile]

/-- Fields of the tables, part 4. -/
def fieldsPart4 : List Field :=
  [.tileEpBase, .tileEpSize, .tileStrmTaken, .tileStrmArrived, .tileStrmWaitNs, .tileStrmLastAt, .tileProgress, .tileProgressAt, .tileStage, .spdScrubCfgEn, .spdScrubCfgInterval, .spdErrInfoValid, .spdErrInfoUe, .spdErrInfoBank, .spdErrInfoSource, .spdErrInfoWord, .spdErrSyndSyndrome, .spdPoisonWr, .spdBankClear, .spdBankClearing, .spdClears, .spdAccMaster, .spdAccOther, .spdDefer, .spdCe, .spdUe, .spdClearHold, .spdScrubLines, .spdGatedAcc, .hbmStatusPresent, .hbmStatusTrained, .hbmStatusSelfRefresh, .hbmStatusRef2x, .hbmStatusTemp, .hbmScrubCfgEn, .hbmScrubCfgIntervalNs, .hbmErrInfoValid, .hbmErrInfoUe, .hbmErrInfoSource, .hbmErrInfoSymbols]

/-- Fields of the tables, part 5. -/
def fieldsPart5 : List Field :=
  [.hbmErrLine, .hbmRdLines, .hbmWrLines, .hbmRmw, .hbmCe, .hbmUe, .hbmOndieCe, .hbmPoisonWr, .hbmPoisonRd, .hbmRefresh, .hbmRefWaitNs, .hbmCaParRetry, .hbmScrubLines, .hbmResetDiscard, .hstStatusOutstanding, .hstStatusActive, .hstErrInfoValid, .hstErrInfoQueue, .hstErrInfoStatus, .hstErrTag, .hstErrAddr, .hstRemoteTimeoutNs, .hstDescDone, .hstDescIllegal, .hstDescErr, .hstLinesRd, .hstLinesWr, .hstSlotRetry, .hstSlotWaitNs, .hstOutstandingFullNs, .hstPoisonCopy, .hstRemoteTimeout, .hstSigWithheld, .adtBar2RdLines, .adtBar2WrLines, .adtBar2FlushWaitNs, .portCtrlEn, .portCtrlRetrain, .portCtrlAutoRetrain, .portCtrlAllowHalf]

/-- Fields of the tables, part 6. -/
def fieldsPart6 : List Field :=
  [.portCtrlMedia, .portCtrlLoopback, .portStatusLanesLocked, .portStatusHalfUpper, .portStatusWidthHalf, .portStatusState, .portPeerValid, .portPeerPeerPort, .portPeerPeerDevice, .portTrainCfgTimeoutMs, .portRetryCfgReplayNs, .portRetryCfgLimit, .portDownInfoValid, .portDownInfoReason, .portDownAt, .portRxbufVc, .portTxFrames, .portRxFrames, .portTxFlits, .portRxFlits, .portTxIdleFlits, .portRxCrcErr, .portRxSeqErr, .portRxRetryReq, .portTxRetry, .portTxReplayTimeout, .portTxRetryFlits, .portFecCw, .portFecCorrCw, .portFecUncorrCw, .portDropLinkDown, .portDropPartial, .portDropPortDown, .portDropMalformed, .portLinkDown, .portTxCreditWaitNs, .portTxWindowFullNs, .portCtrlFlits, .portFecSym, .fabDevIdValid]

/-- Fields of the tables, part 7. -/
def fieldsPart7 : List Field :=
  [.fabDevIdId, .fabEpochInj, .fabPortDim, .fabHopLimit, .fabEndstnWeight, .fabInjPkts, .fabEjectPkts, .fabTransitPkts, .fabDropNoRoute, .fabDropAbsentPort, .fabDropUturn, .fabDropHops, .fabDropBadhdr, .fabDropBadvc, .fabDropUnassigned, .fabRingInjWaitNs, .rtAccAddrAutoinc, .rtAccAddrBank, .rtAccAddrLevel, .rtAccAddrIndex, .rtAccData, .rtHeld0, .rtHeld1, .rtDrainEpoch1, .rtDrainEpoch0, .rtWrDeny, .rtFlips, .vcWeight, .vcTxPkts, .vcRxPkts, .vcTxFlits, .vcArbWaitNs, .vcBubbleWaitNs, .vcCreditWaitNs, .collCfgValid, .collCfgVc, .collCfgReplayLimit, .collCfgTile, .collCfgGid, .collNM1]

/-- Fields of the tables, part 8. -/
def fieldsPart8 : List Field :=
  [.collIndex, .collMap, .collStepTimeoutNs, .collProgressTimeoutNs, .collSeq, .collStatusMismatch, .collStatusStall, .collStatusAborted, .collStatusState, .collStatusStep, .collAbortInfoValid, .collAbortInfoReason, .collAbortInfoMember, .collAbortTag, .collSigLocal, .collSigRemote, .collOps, .collSteps, .collTxPkts, .collRxPkts, .collWaitNs, .collMismatch, .collStall, .collAborts, .collIllegal, .collReplayReqTx, .collReplayReqRx, .collReplayPkts, .collReplayEarly, .collDupDrop, .collSeqDrop, .collReadyDrop, .collItemOor, .tileSeamDescPoison, .tileSeamNogroup, .adtStatusFwReady, .adtStatusBootFail, .adtStatusLinkWidth, .adtStatusLinkSpeed, .adtStatusBar2Size]

/-- Fields of the tables, part 9. -/
def fieldsPart9 : List Field :=
  [.adtCfgPerstScope, .adtWinBase, .adtCorrErr, .adtUncorrErr, .adtLinkReplay, .adtLinkDown, .adtUr, .adtPoisonRx, .adtPoisonTx, .adtMsixSent, .adtMsixMasked, .adtMsixMerged, .adtMsixDisabledDrop, .adtEarlyDoorbell, .adtResetDiscard, .hfMgmtRx, .hfMgmtDrop, .hfBootStatusAResult, .hfBootStatusBResult, .hfBootStatusPref, .hfBootStatusBooted, .hfFwVersion, .hfBootCtrlReady, .hfBoots, .hfCompStatusGen, .hfCompStatusState, .hfCompFaults, .hfCompRestarts, .mbxDoorbell, .mbxState, .mbxCmds, .mbxDoorbellReject, .mbxWrBusy, .mbxEvtHead, .mbxEvtTail, .mbxEvtDrop, .mbxErrStatus, .mbxReq, .mbxResp, .icCur]

/-- Fields of the tables, part 10. -/
def fieldsPart10 : List Field :=
  [.icEoi, .icPmr, .icVbase, .icSignal, .icTimerAt, .icSrcCfgEn, .icSrcCfgMask, .icSrcCfgFwd, .icSrcCfgPending, .icSrcCfgActive, .icSrcCfgTarget, .icSrcCfgPrio, .icLampSrcEn, .icLampSrcSource, .icLampCtrlAsleep, .icLampCtrlStandbyEn, .icStackInfoValid, .icStackInfoEmpty, .icStackInfoCore, .icStackInfoWritten, .icStackInfoTop, .icStackFixCore, .icStackFixSource, .icCoreStateDepth, .icDelivered, .icLateDeliver, .icStackFaults, .icStackPrio, .icStackSource, .icRaised, .icMerged, .icDisabledDrop, .icCfgDeny, .icFixMiss, .icLampWakes, .pwrCapCapW, .pwrStatusSafe, .pwrStatusCapUnmet, .pwrStatusFastActive, .pwrStatusMatching]

/-- Fields of the tables, part 11. -/
def fieldsPart11 : List Field :=
  [.pwrStatusEstW, .pwrAvgAvgW, .pwrAvgAvgLog2, .pwrPeakW, .pwrLimitSafeVset, .pwrLimitFastFrac, .pwrCalEff, .pwrCalGain, .pwrFixedMw, .pwrStaticStackMw, .pwrPortMw, .pwrCoef, .pwrTjTrip, .pwrTjHot, .pwrTjTarget, .pwrHbmHot, .pwrDroopCfgDroopMv, .pwrDroopCfgDroopFrac, .pwrDroopCfgHoldNs, .pwrTripInfo, .pwrPaceCfgEn, .pwrPaceCfgMatchEn, .pwrPaceCfgPeriodUs, .pwrPaceDestValid, .pwrPaceDestMatch, .pwrPaceDestDevice, .pwrPaceStageStage, .pwrPaceStagePbMask, .pwrPaceAlert, .pwrPbStatusGated, .pwrPbStatusDroop, .pwrPbStatusHot, .pwrPbStatusVsetEff, .pwrPbStatusIssueEff, .pwrPbStatusTj, .pwrPbCtrlVset, .pwrPbCtrlIssue, .pwrPbPace, .pwrPbRate, .pwrPbE]

/-- Fields of the tables, part 12. -/
def fieldsPart12 : List Field :=
  [.pwrDroopTrips, .pwrDroopHoldNs, .pwrThermHoldNs, .tilePwrE, .pwrFastTrips, .pwrSafeNs, .pwrCapUnmetNs, .pwrGateRefused, .pwrPhaseEvict, .pwrHbmHotNs, .pwrPaceTx, .pwrPaceRx, .pwrPaceEvict, .pwrPaceMatchNs, .pwrPaceTblValid, .pwrPaceTblDevice, .pwrPaceTblReason, .pwrPaceTblPace, .pwrPaceTblStamp, .dbgBlockPresent, .dbgBlockPowered, .dbgShadowSeq, .dbgShadowAt, .dbgRingFlits, .dbgRingHoldNs, .dbgLockOpen, .dbgLockPerms, .dbgOpenUntil, .dbgHaltCtrlGo, .dbgHaltCtrlResume, .dbgHaltCtrlAccept, .dbgHaltCtrlPropagate, .dbgHaltStatusHalted, .dbgHaltStatusStopping, .dbgHaltStatusLinksComplete, .dbgHaltStatusLinkLost, .dbgHaltId, .dbgHaltAt, .dbgHaltOrigin, .dbgPcsBase]

/-- Fields of the tables, part 13. -/
def fieldsPart13 : List Field :=
  [.dbgPcsCfgEn, .dbgPcsCfgLog2Bytes, .dbgPcsIntervalNs, .dbgPcsHead, .dbgPcsTail, .dbgPcsTiles, .dbgHalts, .dbgHaltMerged, .dbgHaltReject, .dbgPcsSamples, .dbgPcsDrop, .dbgBreakIgnored, .dbgUnlocks, .dbgUnlockFail, .rasCfgHangEn, .rasCfgHangAction, .rasCfgAutoWarm, .rasCfgPmPropagate, .rasCfgCeThresh, .rasHangThreshNs, .rasHangRemoteNs, .rasHangScanUs, .rasFenceMs, .rasPmBase, .rasPmCap, .rasPmStatusValid, .rasPmStatusIncomplete, .rasPmStatusLength, .rasPmAt, .rasHangInfoValid, .rasHangInfoKind, .rasHangInfoTile, .rasHangInfoStage, .rasHangInfoWaiters, .rasHangInfoPeerDevice, .rasHangInfoPeerTile, .rasHangAt, .rasNotifyDestValid, .rasNotifyDestDevice, .rasCe]

/-- Fields of the tables, part 14. -/
def fieldsPart14 : List Field :=
  [.rasUeContained, .rasUeResource, .rasUeDevice, .rasLogOverwrite, .rasFlashLogDrop, .rasResetSuppress, .rasHangReports, .rasLateDrop, .rasNoticeTx, .rasNoticeRx, .rasPmTaken, .rasResets, .portGen, .tileGen, .tileGenAt, .tileGenDrop, .hbmGen, .crcCtrlBusy, .crcCtrlScanBusy, .crcCtrlPoly, .crcData8, .crcData16, .crcData32, .crcResult, .crcRegBytes, .crcScanBytes, .crcRegStallNs, .skpStatusState, .skpStatusResult, .skpId, .skpQuiesceAt, .skpStagedAt, .skpShipTimeoutNs, .skpAlive, .skpChunksStaged, .skpChunksShipped, .skpChunkResend, .skpPoisonLines, .skpAborts, .skpStageWaitNs]

/-- Fields of the tables, part 15. -/
def fieldsPart15 : List Field :=
  [.skpNhCfgEn, .skpNhCfgFmtMask, .skpNhCfgPeriodMs, .skpNhOvfPpm, .skpNhVanishPpm, .skpNhShareOvf, .skpNhShareVanish, .skpNhShareNan, .skpNhShareTotal, .skpNhSkipped, .skpNhStale, .skpNhAlerts, .secStatusIdValid, .secStatusOwner, .secStatusSettings, .secStatusCtrErr, .secCtr, .secAdvDelayS, .secAttest, .secRecWr, .secRecReject, .secCtrAdv, .secCtrErr, .hfModStatusPwrgd, .hfModStatusAlert, .hfModStatusColdRst, .hfModStatusTripCause, .hfModStatusStartCause, .hfModVin, .hfModIin, .hfModAlerts, .tlyAlignDiscard, .portSelIndex, .portSelAbsent, .tileSelIndex, .tileSelAbsent, .qselIndex, .qselAbsent, .hbmSelIndex, .hbmSelAbsent]

/-- Fields of the tables, part 16. -/
def fieldsPart16 : List Field :=
  [.groupSelIndex, .groupSelAbsent, .cntSelIndex, .cntSelAbsent]

/-- Every field. -/
def Field.all : List Field :=
  fieldsPart0 ++ fieldsPart1 ++ fieldsPart2 ++ fieldsPart3 ++ fieldsPart4 ++ fieldsPart5 ++ fieldsPart6 ++ fieldsPart7 ++ fieldsPart8 ++ fieldsPart9 ++ fieldsPart10 ++ fieldsPart11 ++ fieldsPart12 ++ fieldsPart13 ++ fieldsPart14 ++ fieldsPart15 ++ fieldsPart16

/-- The coefficients of R389 at reset, class by class. -/
def coefReset (i : Nat) : Nat := [1900, 1750, 1600, 1700, 90, 260, 120, 12, 35, 1350, 5760].getD i 0

/-- Reset values that depend on the variant or on the array index, and the constant of the table for every other field. -/
def Field.reset (v : Variant) (inst sub : Nat) (f : Field) : Nat :=
  match f with
  | .hfVariantIoDies => v.ioDies
  | .hfVariantFabPorts => v.ports
  | .hfVariantHbmStacks => v.stacks
  | .hfVariantHbmStackMask => v.stackMask
  | .hfVariantFabPortMask => v.portMask
  | .hbmStatusPresent => if inst < v.hbmcs then 1 else 0
  | .dbgBlockPresent => 1
  | .portRxbufVc => if sub < 2 then 0x40 else 0x140
  | .pwrCapCapW => v.tdp
  | .pwrPeakW => v.tdp * 115 / 100
  | .pwrCoef => coefReset sub
  | .adtWinBase => [0x0000, 0x0100, 0x0104, 0x0108].getD sub 0 * 2 ^ 32
  | f => f.info.rst

end Sys2Proof.Machine
end

