-- ==== Sys2Proof/Machine/Sparse.lean ====
section
/-! DEFINITION. Sparse tables: lists of (key, value) pairs with strictly rising keys, in which an unlisted key has a default
value and no entry equals its default. Registers, memory, accumulators and tiles are held so (MEMORY's canonical form). -/
namespace Sys2Proof.Machine

/-- Value listed under a key. -/
def slook {α : Type} (k : Nat) : List (Nat × α) → Option α
  | [] => none
  | (k', v) :: l => if k = k' then some v else slook k l

/-- Lists a value under a key, keeping keys strictly rising. -/
def sins {α : Type} (k : Nat) (x : α) : List (Nat × α) → List (Nat × α)
  | [] => [(k, x)]
  | (k', y) :: l => if k = k' then (k, x) :: l else if k < k' then (k, x) :: (k', y) :: l else (k', y) :: sins k x l

/-- Sets (some) or removes (none) the entry of a key. -/
def sset {α : Type} (k : Nat) (v : Option α) (l : List (Nat × α)) : List (Nat × α) :=
  match v with
  | some x => sins k x l
  | none => l.filter (fun e => e.1 != k)

/-- The value of a key: the listed one, or the default. -/
def sget {α : Type} (d : α) (k : Nat) (l : List (Nat × α)) : α := (slook k l).getD d

/-- Writes a value; writing the default removes the entry. -/
def sput {α : Type} [DecidableEq α] (d : α) (k : Nat) (v : α) (l : List (Nat × α)) : List (Nat × α) :=
  sset k (if v = d then none else some v) l

/-- Every listed key is above k. -/
def sabove {α : Type} (k : Nat) : List (Nat × α) → Bool
  | [] => true
  | (k', _) :: l => decide (k < k') && sabove k l

/-- Keys strictly rise. -/
def ssorted {α : Type} : List (Nat × α) → Bool
  | [] => true
  | (k, _) :: l => sabove k l && ssorted l

/-- No listed value equals the default of its key. -/
def snodef {α : Type} [DecidableEq α] (d : Nat → α) (l : List (Nat × α)) : Bool :=
  l.all (fun e => decide (e.2 ≠ d e.1))

/-- Canonical form: strictly rising keys and no default entry. -/
def swf {α : Type} [DecidableEq α] (d : Nat → α) (l : List (Nat × α)) : Bool := ssorted l && snodef d l

/-- Removes every entry whose key satisfies a test. -/
def sdrop {α : Type} (p : Nat → Bool) (l : List (Nat × α)) : List (Nat × α) := l.filter (fun e => !p e.1)

end Sys2Proof.Machine
end

