-- ==== Sys2Proof/Machine/State.lean ====
section
/-! DEFINITION. The state of the module as plain data: everything the manual gives it (see INVENTORY.md), the queue of
commands, the reasons a step can stop, and the state at reset. -/
namespace Sys2Proof.Machine

/-- Which tile-core wait holds the core (WAIT_KIND of R191), with what it waits for. -/
inductive Wait where
  | running
  | event (rd m0 m1 : Nat) (clear : Bool)
  | sem (s amount : Nat)
  | post (rd entry target : Nat)
  | ope (w0 w1 : Nat)
  | ve (word : Nat)
  | spec (mask : Nat)
  | fence
deriving DecidableEq, Repr

/-- The tile core's own state (R170, R191): held in reset, running, faulted, or stopped at a BREAK. -/
inductive CoreMode where
  | held | running | faulted | broken
deriving DecidableEq, Repr

/-- The tile core (R161). `x` lists the non-zero general registers; x0 is never listed. -/
structure Core where
  mode : CoreMode := .held
  wait : Wait := .running
  pc : Nat := 0
  x : List (Nat × Nat) := []
  tagSlot : Option Nat := none
  ev0 : Nat := 0
deriving DecidableEq, Repr

/-- An OPE instruction as issued: its two words, the key and tag in force (R79, R156), its branch slot (R152), and whether an idle OPE accepted it,
so that no predecessor's steps hide the staging of its first panel (R115). -/
structure OpeInstr where
  w0 : Nat
  w1 : Nat
  key : Nat := 0
  tag : Nat := 0
  slot : Option Nat := none
  cold : Bool := false
deriving DecidableEq, Repr

/-- An instruction that the last is folding (R103): the block (bm, bn), panel k0, sub-block (sm, sn), the steps left in
the current segment as (position, pass), scan steps left, and what it has done: `staged` whether this panel is, `lines` one more than the
2,048-position range whose scale lines have been read last in this block (0: none of the block's panels has been staged). -/
structure OpeRun where
  ins : OpeInstr
  bm : Nat := 0
  bn : Nat := 0
  k0 : Nat := 0
  sm : Nat := 0
  sn : Nat := 0
  seg : List (Nat × Nat) := []
  scans : Nat := 0
  begun : Bool := false
  staged : Bool := false
  lines : Nat := 0
  steps : Nat := 0
  drains : Nat := 0
  oor : List Nat := []
deriving DecidableEq, Repr

/-- A block that awaits its drain or is draining (R110): the next row and 64-column sub-block to write, and the 64-byte lines of it that still
wait for a slot, once its write has begun: each line's stride offset over 64, and whether it has been deferred already (R214). -/
structure OpeDrain where
  ins : OpeInstr
  blk : Nat
  bm : Nat
  bn : Nat
  mb : Nat
  nb : Nat
  row : Nat := 0
  col : Nat := 0
  started : Bool := false
  todo : List (Nat × Bool) := []
deriving DecidableEq, Repr

/-- An instruction whose steps are over: its completion waits for its last drain write (R113), or follows an abort; an illegal one waits
for those before it (R96). -/
structure OpeFin where
  ins : OpeInstr
  steps : Nat
  drains : Nat
  reason : Nat := 0
deriving DecidableEq, Repr

/-- The OPE (R96, R107): queue, running instruction, drains, finished instructions, and the accumulators of output tiles 0
and 1 (blocks 0 and 1) and of the shadow blocks of slots 0 to 3 (blocks 2 to 5), keyed block * 16384 + row * 128 + column. `exact` lists the finite exact sum of those whose accumulator no longer holds it, by
the same key, plus 2^20 for an INT32 accumulator: drains classify by it (R90). -/
structure Ope where
  queue : List OpeInstr := []
  run : Option OpeRun := none
  drains : List OpeDrain := []
  fins : List OpeFin := []
  acc : List (Nat × Nat) := []
  exact : List (Nat × Num) := []
deriving DecidableEq, Repr

/-- A VE instruction as issued (R171, R184): its word, the x-register values it names, FLUSH, key, tag and slot. -/
structure VeInstr where
  word : Nat
  d : Nat := 0
  a : Nat := 0
  b : Nat := 0
  c : Nat := 0
  n : Nat := 0
  flush : Bool := false
  key : Nat := 0
  tag : Nat := 0
  slot : Option Nat := none
deriving DecidableEq, Repr

/-- A VE instruction whose passes are over, waiting to complete in issue order (R188); reason 0 means executed. -/
structure VeFin where
  ins : VeInstr
  reason : Nat := 0
  flags : Nat := 0
  passes : Nat := 0
  permOor : Nat := 0
  health : List (Nat × Nat) := []
deriving DecidableEq, Repr

/-- The vector engine. -/
structure Ve where
  queue : List VeInstr := []
  fins : List VeFin := []
deriving DecidableEq, Repr

/-- A hoist descriptor in execution (R237): its queue, its eight words, the status found so far, the address of its first
failing element, the outstanding acknowledgement tags, the stamp of its last remote write (0 when it made none), and whether a hold
still keeps its bytes from moving (R223). -/
structure HoistRun where
  queue : Nat
  desc : List Nat
  status : Nat := 0
  errAddr : Nat := 0
  acks : List Nat := []
  lastSent : Nat := 0
  waits : Bool := false
deriving DecidableEq, Repr

/-- The hoist: active descriptors (at most four), round-robin pointer, next request tag, tags of line reads outstanding. -/
structure Hoist where
  active : List HoistRun := []
  rr : Nat := 0
  nextTag : Nat := 0
  reads : List Nat := []
deriving DecidableEq, Repr

/-- An effect that a branch holds until it commits (R155). -/
inductive Held where
  | count (key amount : Nat)
  | flags (ve : Bool) (bits : Nat)
  | opeErr (reason w0 w1 : Nat)
  | veErr (reason word : Nat)
  | spdErr (bank : BankId) (ue : Bool) (source word : Nat)
  | event (bit : Nat)
deriving DecidableEq, Repr

/-- State of a branch slot (R160). -/
inductive SlotMode where
  | free | opened | committing | cancelling
deriving DecidableEq, Repr

/-- A branch slot (R152, R158): window, open instant, limit, whether confirmed, tagged instructions not yet completed,
steps taken, held effects and the shadow lines that remain to be written back. -/
structure Slot where
  mode : SlotMode := .free
  win : Nat := 0
  openedAt : Nat := 0
  limit : Nat := 0
  confirmed : Bool := false
  live : Nat := 0
  steps : Nat := 0
  held : List Held := []
deriving DecidableEq, Repr

/-- A bank request that waits for a slot (R214, R223): how often it was passed over, whether its deferral was counted. -/
structure WaitingReq where
  req : BankReq
  passed : Nat := 0
  counted : Bool := false
deriving DecidableEq, Repr

/-- A read that a bank or controller has answered: its tag, the little-endian data, whether it is poisoned, and whether it completed with
error status (R221, R233). A write so completed is answered too, without data. -/
structure ReadDone where
  tag : Nat
  data : Nat
  poison : Bool
  err : Bool := false
deriving DecidableEq, Repr

/-- A scratchpad bank: the stamp at which a clear began (R222), requests waiting for slots, words whose corrected value
waits to be written back (R217), next line of the patrol scrub (R219), and whether the access of either has been deferred (R214). -/
structure Bank where
  clearing : Option Nat := none
  waiting : List WaitingReq := []
  writeback : List Nat := []
  scrubLine : Nat := 0
  scrubAt : Nat := 0
  fixLate : Bool := false
  scrubLate : Bool := false
deriving DecidableEq, Repr

/-- An item that an OPE drain delivers to the seam engine (R112, R315): queue, row, first column, values, and what their conversion did:
its flags and health counts (R87, R90), which follow acceptance. -/
structure SeamItem where
  queue : Nat
  row : Nat
  col : Nat
  fmt : Nat
  vals : List Nat
  flags : Nat := 0
  health : List Nat := []
deriving DecidableEq, Repr

/-- A tile: power and halt condition, replica validity, end of a reset in progress, its engines, branch slots, shadow
store (byte + 1 under slot * 16384 + offset) and banks; the group whose packet the seam engine injected last (R325); the index, modulo 64, of the next step period that the issue governor judges (R396), and
the tally plus one at which OPE_GOV_HOLD_NS counted last. -/
structure Tile where
  gated : Bool := false
  tallyValid : Bool := false
  stopped : Bool := false
  resetAt : Option Nat := none
  core : Core := {}
  ope : Ope := {}
  ve : Ve := {}
  hoist : Hoist := {}
  slots : List (Nat × Slot) := []
  shadow : List (Nat × Nat) := []
  banks : List (Nat × Bank) := []
  held : List Nat := []
  items : List SeamItem := []
  seamRr : Nat := 0
  seamTurn : Nat := 0
  reads : List ReadDone := []
  period : Nat := 0
  govAt : Nat := 0
deriving DecidableEq, Repr
/-- What reported an error, the KIND of a log record (R441). -/
inductive RasKind where
  | tile | port | hbmc | ring | component | hostPort | headframe | device
deriving DecidableEq, Repr

/-- An error report on its way to the RAS agent (R438, R439): class, kind, instance, the block's code, the generation at the
error and a detail word. -/
structure RasReport where
  cls : Nat
  kind : RasKind
  inst : Nat
  code : Nat
  gen : Nat
  detail : Nat
deriving DecidableEq, Repr

/-- The high-half latch of an agent (R63): the offset, the governing selects and the value. -/
structure Latch where
  off : Nat
  sel : List Nat
  hi : Nat
deriving DecidableEq, Repr

/-- An HBM controller (R229, R232, R233): PHY trained and ready, start of a reset in progress, self-refresh, stack temperature
in degrees, next line of the scrub and the stamp of the last scrub. -/
structure Hbmc where
  trained : Bool := false
  resetAt : Option Nat := none
  selfRefresh : Bool := false
  temp : Nat := 0
  scrubLine : Nat := 0
  scrubAt : Nat := 0
deriving DecidableEq, Repr
/-- State of a firmware component (R369): running, restarting, FAILED, not started. -/
inductive CompMode where
  | running | restarting | failed | notStarted
deriving DecidableEq, Repr

/-- A firmware component (R350, R351): its state, when its reset began, the last heartbeat and the stamps of its faults. -/
structure Comp where
  mode : CompMode := .notStarted
  resetAt : Nat := 0
  beatAt : Nat := 0
  faults : List Nat := []
deriving DecidableEq, Repr

/-- A mailbox command that has been dispatched and waits to execute (R359): channel, opcode, component, stamp of its dispatch, and whether it has begun and still waits for something. -/
structure MbxCmd where
  chan : Nat
  op : Nat
  comp : Nat
  stamp : Nat
  began : Bool := false
deriving DecidableEq, Repr

/-- The interrupt controller (R371 to R384): PENDING and ACTIVE bits, each core's stack (top first, (source, PRIO)), the core's own return stack
(top first, (source it was pushed for, the saved program counter and status)) (R375), the source of
each core's latest delivery plus one, the handler address handed to it (R375), the stamp plus one of a write that masked a source (R379), sources that a lamp wake
delivers in spite of MASK, whether an event of a watched source has come during sleep, and whether the headframe sleeps. -/
structure Ic where
  pending : List (Nat × Bool) := []
  active : List (Nat × Bool) := []
  stack : List (Nat × List (Nat × Nat)) := []
  banks : List (Nat × List (Nat × Nat)) := []
  cur : List (Nat × Nat) := []
  vector : List (Nat × Nat) := []
  maskAt : List (Nat × Nat) := []
  lampFree : List Nat := []
  lampHit : Bool := false
  asleep : Bool := false
deriving DecidableEq, Repr

/-- A line of a BAR2 write that waits for its bank or band: its write's number, device address, bytes, poison (R223, R247). -/
structure HostWrite where
  id : Nat
  addr : Nat
  data : List Byte
  poison : Bool
deriving DecidableEq, Repr

/-- A BAR2 read that has not completed: its lines as (device address, bytes) and the writes that it waits for (R248). -/
structure HostRead where
  lines : List (Nat × Nat)
  after : List Nat
deriving DecidableEq, Repr

/-- The adit (R332 to R346): link up, width in lanes and speed code, BAR2 size code, the PCI configuration bits, MSI-X masks
cleared, pending bits, the last vector whose message was sent with its address and data, readiness, lines of writes and reads that wait, the next write's number, and
whether the last read completion carried the poison mark EP (R218). `d3`: the power state D3hot; `payload`: Max_Payload_Size is 128 bytes shifted
left by it (R332); the status and mask bits of Advanced Error Reporting (R334); the MSI-X table's address and data words by entry * 4 + word (R337);
the module time plus one of the last messages with their vectors (R341). -/
structure Adit where
  linkUp : Bool := false
  d3 : Bool := false
  payload : Nat := 0
  uncSts : Nat := 0
  uncMask : Nat := 0
  corSts : Nat := 0
  corMask : Nat := 0x2000
  table : List (Nat × Nat) := []
  msgAddr : Nat := 0
  msgData : Nat := 0
  sentAt : Nat := 0
  sentVecs : List Nat := []
  width : Nat := 0
  speed : Nat := 0
  bar2Size : Nat := 0
  msixEn : Bool := false
  fnMask : Bool := false
  busMaster : Bool := false
  unmasked : List (Nat × Bool) := []
  pba : List (Nat × Bool) := []
  lastMsg : Option Nat := none
  fwReady : Bool := false
  bootFail : Bool := false
  writes : List HostWrite := []
  reads : List HostRead := []
  nextId : Nat := 0
  ep : Bool := false
deriving DecidableEq, Repr

/-- The mailbox service and YCP (R357 to R367): latched doorbells as (channel, stamp), oldest first; dispatched commands; the negotiated version
pair and agreed feature map of HELLO; the vector of each event class and of event forwarding; next event sequence number. -/
structure Mbx where
  latched : List (Nat × Nat) := []
  run : List MbxCmd := []
  pair : Option Nat := none
  features : Nat := 0
  classVec : List (Nat × Nat) := []
  evtSeq : Nat := 0
deriving DecidableEq, Repr

/-- A packet that has reached its destination on this die and waits to be received: the port it arrived on, if any, the stamp
at which its first flit crossed that port's PMA (R39), and whether a clearing bank has counted it as held (R223). -/
structure Arrival where
  pkt : Packet
  port : Option Nat := none
  stamp : Nat := 0
  held : Bool := false
deriving DecidableEq, Repr

/-- PORT_STATUS.STATE (R264, R272). -/
inductive PortMode where
  | disabled | training | aligning | init | up | down | loopback
deriving DecidableEq, Repr

/-- A control flit's content (R256). A HALT flit carries ACTION, LAST_SEQ, HALT_ID, the origin's device ID and wave stamp (R423). -/
inductive Ctrl where
  | framing
  | retryReq (seq : Nat)
  | init (i : InitInfo)
  | downNotice (reason : Nat)
  | halt (action lastSeq id origin stamp : Nat)
deriving DecidableEq, Repr

/-- A sequenced flit in the retry buffer (R256, R259): body, KIND, VC, credit return, SEQ, whether it is its packet's last, the
packet's epoch, its poisoned words. -/
structure TxFlit where
  body : List Byte
  kind : Nat
  vc : Nat
  cvc : Nat
  cred : Nat
  seq : Nat
  last : Bool
  epoch : Nat
  poison : List Nat
deriving DecidableEq, Repr

/-- What a port put on its lanes last: a control flit with its body and welt, or a sequenced flit with its welt. -/
inductive OutFlit where
  | ctrl (c : Ctrl) (body : List Byte) (welt : Nat)
  | seq (f : TxFlit) (welt : Nat)
deriving DecidableEq, Repr

/-- A packet queued for a port: its VC there and the port it arrived on, if any. -/
structure TxPkt where
  pkt : Packet
  vc : Nat
  arrival : Option Nat
deriving DecidableEq, Repr

/-- The packet that a port is sending: its remaining flit bodies. -/
structure TxCur where
  pkt : Packet
  vc : Nat
  bodies : List (List Byte)
deriving DecidableEq, Repr

/-- What the module has written to UART_TX (R500): the ROM's line for an image attempt, with the image and its result code, and event records.
The lines' text, and which of its characters find the transmit buffer full, the spec does not give. -/
inductive UartLine where
  | image (img result : Nat)
  | event (record : List Byte)
deriving DecidableEq, Repr

/-- A packet on this die's rings, or waiting to enter them (R24, R279 to R281): the places still ahead, the last of them its attachment, and
the place it is at (0 to 255 ring stops, from 256 end stations, from 512 attachments); the dimension it travels in (0 before it enters, 1 row,
2 column) and the place it came from; the port it leaves by, or none when it is for this device; the port it arrived on and its stamp; how often
another requester was granted before its own (R32), and the tally plus one of its last hop. -/
structure RingPkt where
  pkt : Packet
  path : List Nat
  place : Nat
  dim : Nat := 0
  last : Nat := 0
  out : Option Nat := none
  arr : Option Nat := none
  stamp : Nat := 0
  passed : Nat := 0
  movedAt : Nat := 0
deriving DecidableEq, Repr

/-- A packet that a receiver is accepting on a VC: bytes so far, flits accepted and needed (none needed: the rest is discarded), its
poisoned words, the stamp of its first flit. -/
structure RxOpen where
  vc : Nat
  bytes : List Byte
  got : Nat
  need : Nat
  poison : List Nat
  stamp : Nat
deriving DecidableEq, Repr

/-- A packet accepted whole from a port: its welts' VC, its flits, the stamp of its first flit. -/
structure RxPkt where
  pkt : Packet
  vc : Nat
  flits : Nat
  stamp : Nat
deriving DecidableEq, Repr

/-- A fabric port and its link layer (R250 to R273). In a global stop (R421 to R424): whether the transmitter is halted, the peer's
LAST_SEQ once its marker has come, whether the link record is shut, the record itself, flits as (kind, VC, body, poison), the flits after
LAST_SEQ that wait behind it, and whether everything up to LAST_SEQ has come. `tail`: the VC of the packet that the last sequenced flit made whole, while the next one has not come (R276); `sendAt`: the tally plus one of the last packet flit sent, and its VC (R279). `acked` and
`told`: whether the peer's INIT says that it has seen this end's, and whether this end has said so of the peer's. The end of a reset in
progress. -/
structure Port where
  mode : PortMode := .disabled
  since : Nat := 0
  lanes : Nat := 0
  half : Bool := false
  halfUpper : Bool := false
  txq : List TxPkt := []
  cur : Option TxCur := none
  sent : List TxFlit := []
  resend : Option Nat := none
  seq : Nat := 0
  tries : Nat := 0
  ackAt : Nat := 0
  crcAt : Nat := 0
  slot : Nat := 0
  ctrl : List Ctrl := []
  credit : List (Nat × Nat) := []
  owed : List (Nat × Nat) := []
  deficit : List (Nat × Nat) := []
  rr : Nat := 0
  got : Nat := 0
  reqSent : Bool := false
  opens : List RxOpen := []
  rxq : List RxPkt := []
  peer : Option InitInfo := none
  acked : Bool := false
  told : Bool := false
  halted : Bool := false
  marker : Option Nat := none
  linkShut : Bool := false
  record : List (Nat × Nat × List Byte × List Nat) := []
  late : List (Nat × Nat × List Byte × List Nat) := []
  past : Bool := false
  tail : Option Nat := none
  sendAt : Nat × Nat := (0, 0)
  out : Option OutFlit := none
  resetAt : Option Nat := none
deriving DecidableEq, Repr


/-- The tally alignment of a follower (R38 to R40): the outstanding exchange, the next sequence number, the stamp plus one of the last
REQUEST, whether an exchange has completed since reset, the stamp of the last completion (or of the role's choice), the stamp plus
one since which the offset has lain within 20 ns, holdover, and the correction that slewing still owes, in ns. -/
structure Talign where
  out : Option Nat := none
  next : Nat := 0
  sentAt : Nat := 0
  done : Bool := false
  lastAt : Nat := 0
  inSince : Nat := 0
  settle : Nat := 0
  holdover : Bool := false
  slew : Int := 0
deriving DecidableEq, Repr

/-- What firmware has learned of a phase (R400): its demand in µW for a tile at 0.75 V, and when it was last seen. -/
structure PhaseRec where
  phase : Nat
  demand : Nat
  seen : Nat
deriving DecidableEq, Repr

/-- The last beacon sent (R406): the window close it followed plus one, its REASON and PACE, the next sequence number. -/
structure Beacon where
  closeAt : Nat := 0
  sentAt : Nat := 0
  reason : Nat := 0
  pace : Nat := 0
  seq : Nat := 0
deriving DecidableEq, Repr

/-- The power estimator, limits and firmware loop (R388 to R408): index of the running estimation window and of the next loop
interval, OPE steps of each tile by window (window * 256 + tile), recent EST_W newest first, energy of each tile since the last interval in pJ and the windows that closed since, the power outside the
blocks at the last close in µW, the cap in force, the safe-mode voltage clamp, blocks whose voltage slews as (block, (end, deferred ISSUE)), stamps of the last droop trip, the
stamp of the last calibration, each block's pace without matching plus one, for each tile the phase and its stamp at the start of the window
that its last change fell in as (window + 1, phase, stamp) (R182), the window plus one of the last change of the cap with the cap
before it (R392), whether the peak limit holds, each block's pace at the point chosen last plus one, its point without matching as
(block, (step rate in M steps/s, (VSET, ISSUE))), the blocks that the last interval held below their demand for the cap and for their temperature (R401),
and the last beacon. -/
structure Pwr where
  window : Nat := 0
  interval : Nat := 0
  stepsAt : List (Nat × Nat) := []
  hist : List Nat := []
  tileE : List (Nat × Nat) := []
  windows : Nat := 0
  uncore : Nat := 0
  cap : Option Nat := none
  safeClamp : Bool := false
  slews : List (Nat × Nat × Nat) := []
  droopAt : List (Nat × Nat) := []
  gainAt : Nat := 0
  unmatched : List (Nat × Nat) := []
  phases : List (Nat × Nat × Nat × Nat) := []
  capWas : Nat × Nat := (0, 0)
  peak : Bool := false
  chosen : List (Nat × Nat) := []
  alone : List (Nat × Nat × Nat × Nat) := []
  capped : List Nat := []
  cooled : List Nat := []
  beacon : Beacon := {}
deriving DecidableEq, Repr

/-- A register write that a stopped island holds until resume (R426): register-space offset, instances in force, value. -/
structure HeldWrite where
  off : Nat
  tile : Nat
  q : Nat
  v : Nat
deriving DecidableEq, Repr

/-- The debug broker (R417 to R434): where the dump goes, what the stop is for (0 nothing, 1 a dump, 2 a post-mortem record), whether it
has been written, its length and whether it was cut short, the instant of this device's wave and its origin's stamp, held register writes, the
current nonce with its stamp, the next sample instant and sample number. -/
structure Dbg where
  dumpAt : Nat := 0
  dumpCap : Nat := 0
  purpose : Nat := 0
  dumped : Bool := false
  dumpLen : Nat := 0
  short : Bool := false
  wave : Nat := 0
  originAt : Nat := 0
  heldWrites : List HeldWrite := []
  nonce : Option (List Byte) := none
  nonceAt : Nat := 0
  pcsNext : Nat := 0
  pcsSeq : Nat := 0
deriving DecidableEq, Repr

/-- A record of the RAS log (R441). -/
structure LogRec where
  seq : Nat
  stamp : Nat
  cls : Nat
  kind : Nat
  inst : Nat
  code : Nat
  gen : Nat
  action : Nat
  detail : Nat
deriving DecidableEq, Repr

/-- The RAS agent's working data (R440 to R454): next log sequence number, next flash entry and the stamp plus one of the last one
written, class-0 counter values at the start of each 1,000 ms, resources already posted, stamps of the last scan, tiles already
reported with their TILE_PROGRESS, a post-mortem collection in progress with its trigger, the resets to follow it as (domain, instance),
the generation that a RESET command found before its reset began, and a warm reset planned at a stamp (plus one). -/
structure Ras where
  seq : Nat := 0
  flashNext : Nat := 0
  flashAt : Nat := 0
  ceHist : List (Nat × List (Nat × Nat)) := []
  cePosted : List (Nat × Nat) := []
  ceAt : Nat := 0
  scanAt : Nat := 0
  reported : List (Nat × Nat) := []
  collecting : Option (List Nat) := none
  then_ : List (Nat × Nat) := []
  cmdGen : Option Nat := none
  warmPlan : Nat := 0
deriving DecidableEq, Repr

/-- A chunk of a skip image (R463, R467): index, kind, source address, offset in the image, payload bytes, resends, stamp of its last
packet, tags outstanding, whether shipping of it has begun and ended, whether clearing banks have counted its source as held (R223). -/
structure Chunk where
  index : Nat
  kind : Nat
  src : Nat
  off : Nat
  len : Nat
  flags : Nat := 0
  resends : Nat := 0
  sentAt : Nat := 0
  tags : List Nat := []
  begun : Bool := false
  shipped : Bool := false
  held : Bool := false
deriving DecidableEq, Repr

/-- The skip engine (R461 to R469): the command's fields, the image size, its chunks, the last ALIVE, the instant of the next heartbeat,
the next tag, and how many chunks are staged. -/
structure Skip where
  base : Nat := 0
  dest : Nat := 0
  destDev : Nat := 0
  host : Bool := false
  sigEn : Bool := false
  sem : Nat := 0
  target : Nat := 0
  log2 : Nat := 16
  regions : List (Nat × Nat) := []
  size : Nat := 0
  chunks : List Chunk := []
  alive : Nat := 0
  beatAt : Nat := 0
  nextTag : Nat := 0
  staged : Nat := 0
deriving DecidableEq, Repr

/-- The CRC unit's register feed (R471): the running value, and the stamp until which it absorbs. -/
structure Crc where
  value : Nat := 0xFFFFFFFF
  busyTill : Nat := 0
deriving DecidableEq, Repr

/-- A numeric-health sample (R473): the snapshot's sequence number and instant, the tiles that took part, and the shadows of the health
counters then. -/
structure NhSample where
  seq : Nat
  stamp : Nat
  tiles : List Nat
  shadows : List (Nat × Nat)
deriving DecidableEq, Repr

/-- A region of a core's MPU (R348): core, region, base, size, permissions (bit 0 read, 1 write, 2 execute). -/
structure MpuRegion where
  core : Nat
  region : Nat
  base : Nat
  size : Nat
  perms : Nat
deriving DecidableEq, Repr

/-- The headframe's boot (R353 to R356): whether the ROM is about to try an image, the image that runs (0 A, 1 B), images that have been tried, the
stamp at which the image was started, READY's stamp plus one, the verified header's ROLLBACK, PROTO range and DIGEST, the instant from which the
counter may be advanced again, the MPU regions, the data areas in SRAM as (component, base, size) (R349), and whether this is the first boot since a
cold reset. -/
structure Boot where
  rom : Bool := false
  image : Option Nat := none
  tried : List Nat := []
  startedAt : Nat := 0
  readyAt : Nat := 0
  rollback : Nat := 0
  protoMin : Nat := 0
  protoMax : Nat := 0
  digest : List Byte := []
  advAt : Nat := 0
  mpu : List MpuRegion := []
  areas : List (Nat × Nat × Nat) := []
  cold : Bool := false
deriving DecidableEq, Repr

/-- The module's supplies, pins and latches (R495 to R508): auxiliary and main power, PERST# low, COLD_RST# low, MOD_PWRGD and the module
time at which it rose, MOD_PWR_EN and when it fell, warnings in force, trip latch, cause of the start, the reference running, the
boundary-scan hold, the cause of a trip that the ROM must log, the last answer of the boundary-scan port and whether it was an error response (R51, R218), debug-port accesses that wait for what holds them (R50), PERST# low, and whether the main stage has started
since auxiliary power came. -/
structure Mod where
  aux : Bool := false
  pwrEn : Bool := false
  enFellAt : Nat := 0
  pwrgd : Bool := false
  pgAt : Nat := 0
  running : Bool := false
  warned : Bool := false
  tripped : Bool := false
  refOk : Bool := true
  scanHold : Bool := false
  tripToLog : Nat := 0
  tripInfo : Nat := 0
  jtag : Nat := 0
  jtagErr : Bool := false
  jtagWait : List JtagInstr := []
  perst : Bool := true
  started : Bool := false
deriving DecidableEq, Repr

/-- One chunk (or ALLTOALL block) that a step moves (R305 to R307): step, sending and receiving member, its index at the sender and at
the receiver. -/
structure Xfer where
  step : Nat
  src : Nat
  dst : Nat
  inp : Nat
  out : Nat
deriving DecidableEq, Repr

/-- Packets of a step that a member has sent to a peer and keeps (R311): (peer, step), the packets, the stamp of the last one sent,
and whether the peer has acknowledged the step. -/
structure Kept where
  step : Nat
  peer : Nat
  packets : List Packet
  sentAt : Nat
  acked : Bool
deriving DecidableEq, Repr

/-- A transfer received in part: the values of each packet by PKT. -/
structure RxXfer where
  xfer : Xfer
  got : List (Nat × List Nat)
deriving DecidableEq, Repr

/-- A running collective of a group (R310 to R323): seam queue, descriptor, sequence number, signature, order, members and this one's
index, map entries (member, device, tile), current step (0 where there is none), the last step begun, whether it is committed, members whose READY has come,
chunks still to send, kept packets, transfers received, steps received, steps complete, values and output image by element (value plus one), their
poisoned elements, whether the result is narrowed, stamps of the last packet of the step and of the last progress, tries by (peer *
2^32 + step), whether poison was copied, the GEN of the last DATA packet by (peer * 2^32 + step), and the two partials that were combined
last into an element, as (first plus one, second). -/
structure Coll where
  tile : Nat
  queue : Nat
  desc : List Nat
  seq : Nat
  sig : Nat
  order : Nat
  n : Nat
  me : Nat
  members : List (Nat × Nat × Nat)
  step : Nat := 0
  began : Nat := 0
  committed : Bool := false
  ready : List Nat := []
  tx : List Xfer := []
  kept : List Kept := []
  rx : List RxXfer := []
  rcvd : List Nat := []
  ended : List Nat := []
  vals : List (Nat × Nat) := []
  badV : List Nat := []
  image : List (Nat × Nat) := []
  badO : List Nat := []
  narrowed : Bool := false
  rxAt : Nat := 0
  progressAt : Nat := 0
  tries : List (Nat × Nat) := []
  poisoned : Bool := false
  gens : List (Nat × Nat) := []
  last : List (Nat × Nat × Nat) := []
deriving DecidableEq, Repr
/-- The module. -/
structure State where
  /-- commands that wait, first in, first out -/
  pending : List Instr := []
  /-- the assembly variant (R1) -/
  variant : Variant := .m8i4
  /-- module time in ns since power was first applied -/
  time : Nat := 0
  /-- the master tally (R35) -/
  tally : Nat := 0
  /-- register fields, by key (see fkey), against their reset values -/
  regs : List (Nat × Nat) := []
  /-- bytes of the device address space, HBM by stack and local address; an unlisted byte reads zero -/
  mem : List Host.Cell := []
  /-- error marks of words (scratchpad, 8 bytes) and lines (HBM, 64 bytes): 1 correctable (5 in a line: two
  symbols), 2 uncorrectable or, in a word, poison, 3 the poison pattern of a line -/
  ecc : List (Nat × Nat) := []
  /-- the 256 tiles -/
  tiles : List (Nat × Tile) := []
  /-- the 16 controllers' own state -/
  hbmcs : List (Nat × Hbmc) := []
  /-- bands whose written mode waits to take effect (R54), oldest first: (band, the value still in force) -/
  bandNext : List (Nat × Nat) := []
  /-- HBM accesses held for such a band, in order of arrival -/
  bandHeld : List HbmReq := []
  /-- reads that controllers have answered -/
  hbmReads : List ReadDone := []
  /-- how many free values have been taken -/
  free : Nat := 0
  /-- packets that wait to be injected by PACKET_INJECT -/
  outbox : List Packet := []
  /-- packets on the rings and at their end stations, in the order in which they came there -/
  ring : List RingPkt := []
  /-- arbiters of the rings' links, by (place left * 1024 + place entered): the VC under the pointer and the deficits of the VCs -/
  ringArb : List (Nat × Nat × List (Nat × Nat)) := []
  /-- packets that have arrived at their destination on this die and wait to be received -/
  dieNet : List Arrival := []
  /-- WRITE packets of the headframe's agents whose ACK is outstanding (R448): (TAG, component) -/
  hfOut : List (Nat × Nat) := []
  /-- the fabric ports -/
  ports : List (Nat × Port) := []
  /-- the routing tables (R284): bank * 2^20 + level * 2^18 + index -/
  rt : List (Nat × Nat) := []
  /-- error reports that wait for the RAS agent -/
  ras : List RasReport := []
  /-- events of the estimation windows not yet closed (R389), keyed window * 65536 + unit * 16 + class; units 0 to 255 tiles, 256 to 271 ring islands,
  272 to 279 ports, 280 to 295 controllers -/
  act : List (Nat × Nat) := []
  /-- shadow copies of counters, by key (R46, R412) -/
  shadows : List (Nat × Nat) := []
  /-- running collectives, by group -/
  colls : List (Nat × Coll) := []
  /-- cached member-map entries of each group (R297): (member, device, tile) -/
  collMap : List (Nat × List (Nat × Nat × Nat)) := []
  /-- READY records held for a group's next collective (R317): (member, SIG, sequence number) -/
  collPend : List (Nat × List (Nat × Nat × Nat)) := []
  /-- the interrupt controller -/
  ic : Ic := {}
  /-- the host port -/
  adit : Adit := {}
  /-- the mailbox service -/
  mbx : Mbx := {}
  /-- firmware components 0 to 5 -/
  comps : List (Nat × Comp) := []
  /-- the tally's alignment as a follower -/
  talign : Talign := {}
  /-- the power estimator, limits and loop -/
  pwr : Pwr := {}
  /-- learned demand of phases (R400) -/
  demand : List PhaseRec := []
  /-- the debug broker -/
  dbg : Dbg := {}
  /-- the RAS agent's log ring, oldest first (R441) -/
  rasLog : List LogRec := []
  /-- the RAS agent's working data -/
  rasw : Ras := {}
  /-- the skip engine -/
  skip : Skip := {}
  /-- the CRC unit's register feed -/
  crc : Crc := {}
  /-- the last numeric-health sample, and whether one waits for a snapshot -/
  nhLast : Option NhSample := none
  nhWait : Option Nat := none
  nhAt : Nat := 0
  /-- the instant of the armed snapshot (R45) -/
  snapArmed : Nat := 0
  /-- the counters have been copied for the armed snapshot (R46) -/
  snapCopied : Bool := false
  uart : List UartLine := []
  /-- the device is in the standby of R475 -/
  spare : Bool := false
  /-- configuration flash (R353); an erased byte reads 0xFF -/
  flash : List Host.Cell := []
  /-- the four counters of the counter device (R489) -/
  mono : List (Nat × Nat) := []
  /-- configuration records selected at the last selection (R486): (type, slot + 1) -/
  records : List (Nat × Nat) := []
  /-- the headframe's boot -/
  boot : Boot := {}
  /-- the module's supplies, pins and latches -/
  mod : Mod := {}
  /-- stamps from which the hang detector judges tiles (q0 of R450) -/
  quietFrom : List (Nat × Nat) := []
  /-- the stamp plus one at which a warm reset began, while it runs (R384, R443) -/
  warmAt : Nat := 0
  /-- what the last register read of each agent returned: the model's own field, the interface's answer -/
  answers : List (Nat × Nat) := []
  /-- latches of the agents (R63) -/
  latches : List (Nat × Latch) := []
deriving DecidableEq, Repr

/-- Why a command ends the run. -/
inductive Fault where
  /-- For a situation in which the manual gives a command no effect at all. No command of this model raises it: every row of the table
  has an effect in every state. Safe. -/
  | undefinedByManual (what : String)
deriving DecidableEq, Repr

/-- Why a command is turned away. -/
inductive Refusal where
  /-- The command has no meaning in this model yet. Safe. -/
  | notModelled (mnemonic : String)
  /-- The command's data is not well formed (WellFormed.lean): it names lengths that its data does not have. Safe. -/
  | illFormed (mnemonic : String)
deriving DecidableEq, Repr

/-- The module before power has ever been applied: every register at its reset value, memory with nothing listed, no tile
running. The start-up commands (AUX_POWER_ON and after) lead from here to a running part (assumption log 1). -/
def State.reset : State := {}

/-- What a step or a command answers. -/
abbrev Result := Host.Outcome State Fault Refusal

/-- Key of a field instance: the field's index in the tables, the instance and the position in its array. -/
def fkey (f : Field) (inst sub : Nat) : Nat := (f.idx * 65536 + inst % 65536) * 4096 + sub % 4096

end Sys2Proof.Machine
end

