-- ==== Sys2Proof/Machine/Ops.lean ====
section
/-! DEFINITION. The named operations over registers, memory, tiles, reports and packets that every meaning is written with. -/
namespace Sys2Proof.Machine

/-! ### Registers -/

/-- Value of a field instance: the stored one, or its reset value. -/
def State.rd (s : State) (f : Field) (inst : Nat := 0) (sub : Nat := 0) : Nat :=
  (slook (fkey f inst sub) s.regs).getD (f.reset s.variant inst sub)

/-- Stores a value in a field instance, cut to the field's width; a value equal to the reset value is not listed. -/
def State.wr (s : State) (f : Field) (inst sub v : Nat) : State :=
  let x := v % 2 ^ f.info.width
  { s with regs := sset (fkey f inst sub) (if x = f.reset s.variant inst sub then none else some x) s.regs }

/-- Adds to a counter; 64-bit counters wrap (R15), as narrower ones do. -/
def State.cnt (s : State) (f : Field) (inst sub n : Nat) : State := s.wr f inst sub (s.rd f inst sub + n)

/-- Counts one event in a device-level counter. -/
def State.bump (s : State) (f : Field) : State := s.cnt f 0 0 1

/-- Is a one-bit field set? -/
def State.on (s : State) (f : Field) (inst : Nat := 0) (sub : Nat := 0) : Bool := s.rd f inst sub != 0

/-- The estimation window that holds the present instant (R388). -/
def State.windowNow (s : State) : Nat := s.tally / 2048

/-- Counts n events of a class in the window that holds their stamp (R44, R389); speculative work counts as it occurs (R155). -/
def State.activity (s : State) (unit cls n : Nat) : State :=
  let k := s.windowNow * 65536 + unit * 16 + cls
  if n = 0 then s else { s with act := sput 0 k (sget 0 k s.act + n) s.act }

/-- Before a tile's phase changes: the phase and its stamp at the window's start are kept, for the window is attributed to them (R182). -/
def State.phaseMark (s : State) (t : Nat) : State :=
  if (sget (0, 0, 0) t s.pwr.phases).1 = s.windowNow + 1 then s
  else { s with pwr := { s.pwr with phases := sput (0, 0, 0) t (s.windowNow + 1, s.rd .tilePhasePhase t, s.rd .tilePhaseAt t) s.pwr.phases } }

/-- The phase in force at the start of the present window, and its stamp (R182). -/
def State.phaseInForce (s : State) (t : Nat) : Nat × Nat :=
  let e := sget (0, 0, 0) t s.pwr.phases
  if e.1 = s.windowNow + 1 then e.2 else (s.rd .tilePhasePhase t, s.rd .tilePhaseAt t)

/-- Before the cap changes: the cap at the window's start is kept, for a change applies to windows that start later (R392). -/
def State.capMark (s : State) : State :=
  if s.pwr.capWas.1 = s.windowNow + 1 then s
  else { s with pwr := { s.pwr with capWas := (s.windowNow + 1, s.rd .pwrCapCapW) } }

/-- The cap of the present window (R392). -/
def State.capNow (s : State) : Nat := if s.pwr.capWas.1 = s.windowNow + 1 then s.pwr.capWas.2 else s.rd .pwrCapCapW

/-! ### Tiles -/

/-- Tile t. -/
def State.tile (s : State) (t : Nat) : Tile := sget {} t s.tiles

/-- Replaces tile t. -/
def State.setTile (s : State) (t : Nat) (x : Tile) : State := { s with tiles := sput {} t x s.tiles }

/-- Changes tile t. -/
def State.onTile (s : State) (t : Nat) (f : Tile → Tile) : State := s.setTile t (f (s.tile t))

/-- Row and column of a tile (R20). -/
def tileRow (t : Nat) : Nat := t / 16
def tileCol (t : Nat) : Nat := t % 16

/-- Power block of a tile (R20). -/
def tilePb (t : Nat) : Nat := 4 * (tileRow t / 4) + tileCol t / 4

/-- Quadrant of a tile (R20). -/
def tileQuad (t : Nat) : Nat := (if tileRow t ≥ 8 then 2 else 0) + (if tileCol t ≥ 8 then 1 else 0)

/-- The tiles of a power block. -/
def pbTiles (k : Nat) : List Nat := (List.range 256).filter (fun t => tilePb t == k)

/-- A tile that may take steps: replica valid, neither gated, stopped nor in reset (R42, R43). -/
def Tile.active (x : Tile) : Bool := x.tallyValid && !x.gated && !x.stopped && x.resetAt.isNone

/-- Marks progress events of a tile (R204). -/
def State.progress (s : State) (t n : Nat) : State :=
  if n = 0 then s else (s.cnt .tileProgress t 0 n).wr .tileProgressAt t 0 s.tally

/-- Bank number b of R235. -/
def bankIdx : BankId → Nat
  | .ma => 0 | .mb => 1 | .vb => 2 | .cb => 3 | .sb => 4

/-- Stride offset at which a bank starts (R48). -/
def bankBase : BankId → Nat
  | .ma => 0 | .mb => 0x200000 | .vb => 0x400000 | .cb => 0x540000 | .sb => 0x5C0000

/-- Bytes of a bank (R48). -/
def bankSize : BankId → Nat
  | .ma => 0x200000 | .mb => 0x200000 | .vb => 0x140000 | .cb => 0x80000 | .sb => 0x40000

/-- Bank that a stride offset lies in (R48). -/
def bankAt (off : Nat) : Option BankId :=
  if off < 0x200000 then some .ma
  else if off < 0x400000 then some .mb
  else if off < 0x540000 then some .vb
  else if off < 0x5C0000 then some .cb
  else if off < 0x600000 then some .sb
  else none

/-- Device address of a byte of a bank of tile t. -/
def spdAddr (t : Nat) (b : BankId) (off : Nat) : Nat := t * 0x800000 + bankBase b + off

/-- Bank b of tile t. -/
def State.bank (s : State) (t : Nat) (b : BankId) : Bank := sget {} (bankIdx b) (s.tile t).banks

/-- Replaces bank b of tile t. -/
def State.setBank (s : State) (t : Nat) (b : BankId) (x : Bank) : State :=
  s.onTile t (fun y => { y with banks := sput {} (bankIdx b) x y.banks })

/-- Is the bank being cleared (R223)? -/
def State.clearing (s : State) (t : Nat) (b : BankId) : Bool := (s.bank t b).clearing.isSome

/-! ### Reports -/

/-- Is a resource in its own reset (R445)? -/
def State.inReset (s : State) (kind : RasKind) (inst : Nat) : Bool :=
  match kind with
  | .tile => (s.tile inst).resetAt.isSome
  | .port => (sget {} inst s.ports).resetAt.isSome
  | .hbmc => (sget {} inst s.hbmcs).resetAt.isSome
  | .component => (sget {} inst s.comps).mode == .restarting
  | _ => false

/-- Interrupt source of the block that reports an error (R371): a tile's, a port's, a controller's, or the fault source of a headframe core. What
the headframe's own components and the device report has none. -/
def RasKind.source : RasKind → Nat → Option Nat
  | .tile, t => some t
  | .port, p => some (320 + p)
  | .hbmc, c => some (328 + c)
  | .headframe, n => some (428 + n)
  | _, _ => none

/-- Does an error of a block reach the RAS agent: not while its block's source has EN 0, for the source's events are then discarded (R372, R439)? -/
def State.heard (s : State) (kind : RasKind) (inst : Nat) : Bool :=
  match kind.source inst with
  | some n => s.on .icSrcCfgEn 0 n
  | none => true

/-- An error report joins those that wait for the RAS agent; during the resource's own reset it is only counted (R445). -/
def State.rasQueue (s : State) (cls : Nat) (kind : RasKind) (inst code gen detail : Nat) : State :=
  if s.inReset kind inst then s.bump .rasResetSuppress
  else { s with ras := s.ras ++ [⟨cls, kind, inst, code, gen, detail⟩] }

/-- Sends an error report to the RAS agent through the interrupt source of its block (R439). -/
def State.report (s : State) (cls : Nat) (kind : RasKind) (inst code gen detail : Nat) : State :=
  if s.heard kind inst then s.rasQueue cls kind inst code gen detail else s

/-- A report of a tile with its current generation. -/
def State.reportTile (s : State) (cls t code detail : Nat) : State :=
  s.report cls .tile t code (s.rd .tileGen t) detail

/-! ### Free values -/

/-- The next free value, and the state that has taken it. -/
def State.takeFree (s : State) : Nat × State := (Config.freeValue s.free, { s with free := s.free + 1 })

/-! ### The address map -/

/-- What a device address names (R47 to R52). HBM is named by stack and local address. -/
inductive Place where
  | spd (t : Nat) (b : BankId) (off : Nat)
  | rom (off : Nat)
  | sram (off : Nat)
  | reg (off : Nat)
  | hbm (stack loc : Nat)
  | undecoded
deriving DecidableEq, Repr

/-- Value last written for a band's mode (R53). -/
def State.bandValue (s : State) (band : Nat) : Nat :=
  let w := if band < 16 then s.rd .hbmBandMode0 else if band < 32 then s.rd .hbmBandMode1 else s.rd .hbmBandMode2
  w / 4 ^ (band % 16) % 4

/-- Mode in force for an HBM band: 0 for 4 KiB, 1 for 1 MiB, 2 for stack-local; 3 is treated as 0 (R53). A change that waits leaves the
old value in force (R54). -/
def State.bandMode (s : State) (band : Nat) : Nat :=
  let m := (slook band s.bandNext).getD (s.bandValue band)
  if m = 3 then 0 else m

/-- HBM decode of R52: an offset into the HBM range. -/
def State.hbmDecode (s : State) (o : Nat) : Place :=
  let n := s.variant.stacks
  let gib := 0x40000000
  if o ≥ n * (36 * gib) then .undecoded
  else
    let band := o / (n * gib)
    let b := o % (n * gib)
    if s.bandMode band = 2 then .hbm (b / gib) (band * gib + b % gib)
    else
      let g := if s.bandMode band = 1 then 0x100000 else 0x1000
      let u := b / g
      .hbm (u % n) (band * gib + u / n * g + b % g)

/-- Decode of a device address (R47 to R52). -/
def State.place (s : State) (a : Nat) : Place :=
  if a < 0x80000000 then
    match bankAt (a % 0x800000) with
    | some b => .spd (a / 0x800000) b (a % 0x800000 - bankBase b)
    | none => .undecoded
  else if 0x100000000 ≤ a ∧ a < 0x100040000 then .rom (a - 0x100000000)
  else if 0x100400000 ≤ a ∧ a < 0x100800000 then .sram (a - 0x100400000)
  else if 0x200000000 ≤ a ∧ a < 0x210000000 then .reg (a - 0x200000000)
  else if 0x10000000000 ≤ a ∧ a < 0x14800000000 then s.hbmDecode (a - 0x10000000000)
  else .undecoded

/-- Key of a place's byte in the memory list: the device address itself, and for HBM the stack's 36 GiB by local address. -/
def Place.key : Place → Nat
  | .spd t b off => spdAddr t b off
  | .rom off => 0x100000000 + off
  | .sram off => 0x100400000 + off
  | .reg off => 0x200000000 + off
  | .hbm st l => 0x10000000000 + st * 0x900000000 + l
  | .undecoded => 0

/-- Controller that serves a stack's local address (R52). -/
def hbmcOf (stack loc : Nat) : Nat := 2 * stack + (loc / 256) % 2

/-- Bytes under one error mark: 8 for a scratchpad word, 64 for an HBM line. -/
def Place.unit : Place → Nat
  | .hbm .. => 64
  | _ => 8

/-! ### Bytes -/

/-- A byte of memory by key; an unlisted byte reads zero. -/
def State.byte (s : State) (k : Nat) : Byte := sget 0#8 k s.mem

/-- Writes one byte by key. -/
def State.setByte (s : State) (k : Nat) (v : Byte) : State := { s with mem := sput 0#8 k v s.mem }

/-- Writes bytes at ascending keys. -/
def State.setBytes (s : State) (k : Nat) : List Byte → State
  | [] => s
  | v :: vs => (s.setByte k v).setBytes (k + 1) vs

/-- Bytes at ascending keys. -/
def State.bytes (s : State) (k n : Nat) : List Byte := (List.range n).map (fun i => s.byte (k + i))

/-- The little-endian number of a byte list (R10). -/
def leNat : List Byte → Nat
  | [] => 0
  | b :: bs => b.toNat + 256 * leNat bs

/-- The n little-endian bytes of a number. -/
def natLe : Nat → Nat → List Byte
  | 0, _ => []
  | n + 1, v => BitVec.ofNat 8 v :: natLe n (v / 256)

/-- Error mark of the word or line that starts at a key: 0 good, 1 correctable, 2 uncorrectable or poison. -/
def State.mark (s : State) (k : Nat) : Nat := sget 0 k s.ecc

/-- Sets an error mark. -/
def State.setMark (s : State) (k v : Nat) : State := { s with ecc := sput 0 k v s.ecc }

/-! ### Interrupt sources, MSI-X messages and events -/

/-- Has the adit sent a message for a vector at this instant? -/
def State.msixNow (s : State) (v : Nat) : Bool := s.adit.sentAt == s.time + 1 && s.adit.sentVecs.contains v

/-- The message of a vector goes out, with the address and data of its table entry (R333, R337, R341). -/
def State.msixSend (s : State) (v : Nat) : State :=
  let a := s.adit
  { s.bump .adtMsixSent with adit := { a with
    lastMsg := some v, msgAddr := sget 0 (4 * v) a.table + sget 0 (4 * v + 1) a.table * 2 ^ 32, msgData := sget 0 (4 * v + 2) a.table
    pba := sput false v false a.pba, sentAt := s.time + 1, sentVecs := v :: (if a.sentAt = s.time + 1 then a.sentVecs else []) } }

/-- An event on an MSI-X vector (R341). A function in D3hot sends no message: its event is discarded as with Bus Master Enable 0 (PRESUMED, log 89). -/
def State.msix (s : State) (v : Nat) : State :=
  let a := s.adit
  if !a.msixEn || !a.busMaster || a.d3 then s.bump .adtMsixDisabledDrop
  else if sget false v a.pba || s.msixNow v then s.bump .adtMsixMerged
  else if !sget false v a.unmasked || a.fnMask then
    { s.bump .adtMsixMasked with adit := { a with pba := sput false v true a.pba } }
  else s.msixSend v

/-- Is interrupt source n one that something raises (R371: 464 to 959 are reserved)? -/
def srcOk (n : Nat) : Bool := decide (n < 464) || (decide (960 ≤ n) && decide (n < 1024))

/-- An event of interrupt source n (R372, R383, R384). While the headframe sleeps, one of a watched source calls for a wake (R382). -/
def State.irq (s : State) (n : Nat) : State :=
  if s.warmAt ≠ 0 ∨ !srcOk n then s
  else
    let watched := s.ic.asleep && (List.range 32).any (fun i => s.on .icLampSrcEn 0 i && s.rd .icLampSrcSource 0 i == n)
    let s := if watched then { s with ic := { s.ic with lampHit := true } } else s
    if !s.on .icSrcCfgEn 0 n then s.bump .icDisabledDrop
    else
    let s := if watched then { s with ic := { s.ic with lampFree := n :: s.ic.lampFree.filter (· != n) } } else s
    let s := if sget false n s.ic.pending then s.bump .icMerged
      else { s.bump .icRaised with ic := { s.ic with pending := sput false n true s.ic.pending } }
    if s.on .icSrcCfgFwd 0 n then s.msix (64 + n) else s

/-- Firmware component k. -/
def State.comp (s : State) (k : Nat) : Comp := sget {} k s.comps

/-- Replaces component k. -/
def State.setComp (s : State) (k : Nat) (c : Comp) : State := { s with comps := sput {} k c s.comps }

/-- Key of a byte of a mailbox channel's buffers (R357). -/
def mbxKey (c off : Nat) : Nat := 0x200000000 + 0x01000000 + 0x4000 * c + off

/-- Little-endian bytes of a list of (value, bytes) fields. -/
def fieldBytes (l : List (Nat × Nat)) : List Byte := l.flatMap (fun p => natLe p.2 p.1)

/-- A byte list cut or padded with zeros to n bytes. -/
def padTo (n : Nat) (l : List Byte) : List Byte := (l ++ List.replicate (n - l.length) 0#8).take n

/-- Firmware posts an event (R360): a 64-byte record at MBX_EVT_HEAD, or a drop when 128 records wait; then the vector that the
class is subscribed to is raised. `data` is at most 48 bytes. -/
def State.postEvent (s : State) (code comp : Nat) (data : List Byte) : State :=
  let head := s.rd .mbxEvtHead 63
  let tail := s.rd .mbxEvtTail 63
  let seq := s.mbx.evtSeq
  let record := fieldBytes [(code, 2), (comp, 1), (0, 1), (seq, 4), (s.tally, 8)] ++ padTo 48 data
  let s := { s with mbx := { s.mbx with evtSeq := (seq + 1) % 2 ^ 32 }, uart := s.uart ++ [UartLine.event record] }
  let s :=
    if (head + 256 - tail) % 256 = 128 then s.cnt .mbxEvtDrop 63 0 1
    else (s.setBytes (mbxKey 63 (0x2000 + 64 * (head % 128))) record).wr .mbxEvtHead 63 0 ((head + 1) % 256)
  s.msix (sget 1088 (code / 256) s.mbx.classVec)

/-! ### Scratchpad words (R216 to R220) -/

/-- Records the first error of a tile's scratchpad while VALID is 0 (R220). -/
def State.spdRecord (s : State) (t : Nat) (b : BankId) (ue : Bool) (source word : Nat) : State :=
  if s.on .spdErrInfoValid t then s
  else
    let s := s.wr .spdErrInfoUe t 0 (b2n ue)
    let s := s.wr .spdErrInfoBank t 0 (bankIdx b)
    let s := s.wr .spdErrInfoSource t 0 source
    let s := s.wr .spdErrInfoWord t 0 word
    let s := s.wr .spdErrSyndSyndrome t 0 (max 1 (Config.syndrome (b2n ue) word % 256))
    (s.wr .spdErrInfoValid t 0 1).irq t

/-! ### Effects of engine work, which a branch may hold (R87, R155) -/

/-- The four numeric engines of a tile (R87). -/
inductive NumEngine where
  | ope | ve | hst | seam
deriving DecidableEq, Repr

/-- The flag fields of an engine, from bit 4 down: FLUSHED, INV, INX, UNF, OVF. -/
def NumEngine.flagFields : NumEngine → List Field
  | .ope => [.opeFlagsFlushed, .opeFlagsInv, .opeFlagsInx, .opeFlagsUnf, .opeFlagsOvf]
  | .ve => [.veFlagsFlushed, .veFlagsInv, .veFlagsInx, .veFlagsUnf, .veFlagsOvf]
  | .hst => [.hstFlagsFlushed, .hstFlagsInv, .hstFlagsInx, .hstFlagsUnf, .hstFlagsOvf]
  | .seam => [.tileSeamFlagsFlushed, .tileSeamFlagsInv, .tileSeamFlagsInx, .tileSeamFlagsUnf, .tileSeamFlagsOvf]

/-- Sets the sticky flags of an engine that the 5-bit mask names (R87: set stays set). -/
def State.setFlags (s : State) (e : NumEngine) (t bits : Nat) : State :=
  ((e.flagFields.zip [4, 3, 2, 1, 0]).filter (fun p => bitOf bits p.2)).foldl (fun s p => s.wr p.1 t 0 1) s

/-- A word read with a correctable error, still uncorrected, waits for its write-back (R217); a merge (source 3) stores the corrected word itself. -/
def State.fixLater (s : State) (t : Nat) (b : BankId) (source word : Nat) : State :=
  let bk := s.bank t b
  if source = 3 ∨ s.mark (spdAddr t b (8 * word)) ≠ 1 ∨ bk.writeback.contains word then s
  else s.setBank t b { bk with writeback := bk.writeback ++ [word] }

/-- Applies an effect to a tile at once. -/
def State.applyHeld (s : State) (t : Nat) : Held → State
  | .count key n =>
    match Field.all[key / 4096]? with
    | some f => s.cnt f t (key % 4096) n
    | none => s
  | .flags ve bits => s.setFlags (if ve then .ve else .ope) t bits
  | .opeErr reason w0 w1 =>
    let s := s.reportTile 1 t (0x100 + reason) w0
    if s.on .opeErrInfoValid t then s
    else ((((s.wr .opeErrInfoReason t 0 reason).wr .opeErrWord0 t 0 w0).wr .opeErrWord1 t 0 w1).wr .opeErrInfoValid t 0 1).irq t
  | .veErr reason word =>
    let s := s.reportTile 1 t (0x200 + reason) word
    if s.on .veErrInfoValid t then s
    else (((s.wr .veErrInfoReason t 0 reason).wr .veErrWord t 0 word).wr .veErrInfoValid t 0 1).irq t
  | .spdErr b ue source word =>
    let s := (s.cnt (if ue then .spdUe else .spdCe) t (bankIdx b) 1).spdRecord t b ue source word
    if ue then s else (s.reportTile 0 t 1 (spdAddr t b (8 * word))).fixLater t b source word
  | .event b => s.onTile t (fun x => { x with core := { x.core with ev0 := x.core.ev0 ||| 2 ^ b } })

/-- Branch slot i of tile t. -/
def State.slot (s : State) (t i : Nat) : Slot := sget {} i (s.tile t).slots

/-- Replaces branch slot i of tile t. -/
def State.setSlot (s : State) (t i : Nat) (x : Slot) : State :=
  s.onTile t (fun y => { y with slots := sput {} i x y.slots })

/-- An effect of engine work: at once for untagged work, held in the slot for tagged work (R155). -/
def State.eff (s : State) (t : Nat) (slot : Option Nat) (h : Held) : State :=
  match slot with
  | none => s.applyHeld t h
  | some i => let x := s.slot t i; s.setSlot t i { x with held := x.held ++ [h] }

/-- Counts n in a tile counter (array position sub), at once or held. -/
def State.effCnt (s : State) (t : Nat) (slot : Option Nat) (f : Field) (sub n : Nat) : State :=
  if n = 0 then s else s.eff t slot (.count (f.idx * 4096 + sub) n)

/-! ### The shadow store (R153 to R157) -/

/-- The shadow byte of an SB offset as a reader sees it: of a slot that is committing (R157), or of a tagged reader's own open slot
(R153). -/
def State.shadowByte (s : State) (t : Nat) (b : BankId) (off : Nat) (slot : Option Nat) : Option Byte :=
  if b = .sb then
    let x := s.tile t
    let seen (i : Nat) : Option Byte :=
      let sl := sget {} i x.slots
      if sl.win * 0x4000 ≤ off ∧ off < sl.win * 0x4000 + 0x4000 ∧ (sl.mode = .committing ∨ (slot = some i ∧ sl.mode = .opened)) then
        match sget 0 (i * 16384 + (off - sl.win * 0x4000)) x.shadow with
        | 0 => none
        | v + 1 => some (BitVec.ofNat 8 v)
      else none
    [0, 1, 2, 3].findSome? seen
  else none

/-- A committing slot that still holds a shadow byte of the line of an SB offset (R157). -/
def Tile.shadowLine (x : Tile) (off : Nat) : Option Nat :=
  [0, 1, 2, 3].find? (fun i =>
    let sl := sget {} i x.slots
    decide (sl.mode = .committing) && decide (sl.win * 0x4000 ≤ off) && decide (off < sl.win * 0x4000 + 0x4000) &&
      x.shadow.any (fun e => e.1 / 64 == (i * 16384 + (off - sl.win * 0x4000)) / 64))

/-- Sets or removes the shadow bytes of slot i from an SB offset on. -/
def State.shadowPut (s : State) (t i off : Nat) (bs : List (Option Byte)) : State :=
  let k := i * 16384 + (off - (s.slot t i).win * 0x4000)
  s.onTile t (fun x => { x with shadow := ((List.range bs.length).zip bs).foldl (fun m p =>
    sput 0 (k + p.1) ((p.2.map (fun b => b.toNat + 1)).getD 0) m) x.shadow })

/-- Does the shadow store answer every byte of a span, so that a reader meets no word of the bank there (R153, R157)? -/
def State.shadowed (s : State) (t : Nat) (b : BankId) (off n : Nat) (slot : Option Nat) : Bool :=
  b == .sb && (List.range n).all (fun i => (s.shadowByte t b (off + i) slot).isSome)

/-! ### Words of a bank (R216 to R218) -/

/-- A word of a bank is read (R217): a correctable error is counted, recorded, reported and queued for write-back; an uncorrectable one
is counted, recorded and reported. For tagged work the branch holds all but the report of an uncorrectable error, the write-back too: its bank
slot would count before the commit (R155). Answers the state and whether the word is poisoned. -/
def State.spdWordRead (s : State) (t : Nat) (b : BankId) (source word : Nat) (slot : Option Nat := none) : State × Bool :=
  match s.mark (spdAddr t b (8 * word)) with
  | 0 => (s, false)
  | 1 => (s.eff t slot (.spdErr b false source word), false)
  | _ => ((s.eff t slot (.spdErr b true source word)).reportTile 1 t 2 (spdAddr t b (8 * word)), true)

/-- The parts of a span that lie in one word each: (offset, bytes). -/
def wordParts (off n : Nat) : List (Nat × Nat) :=
  if n = 0 then []
  else (List.range ((off + n - 1) / 8 + 1 - off / 8)).map (fun i =>
    let lo := max off (8 * (off / 8 + i))
    (lo, min (off + n) (8 * (off / 8 + i + 1)) - lo))

/-- Reads the words that cover a span of a bank, in ascending order, but for those that the shadow store answers: the state and
whether any word is poisoned. -/
def State.spdWordsRead (s : State) (t : Nat) (b : BankId) (source off n : Nat) (slot : Option Nat := none) : State × Bool :=
  (wordParts off n).foldl (fun acc p =>
    if acc.1.shadowed t b p.1 p.2 slot then acc
    else
      let r := acc.1.spdWordRead t b source (p.1 / 8) slot
      (r.1, acc.2 || r.2)) (s, false)

/-- Would a read of a span meet a poisoned word? -/
def State.spdBad (s : State) (t : Nat) (b : BankId) (off n : Nat) (slot : Option Nat := none) : Bool :=
  (wordParts off n).any (fun p => s.mark (spdAddr t b (p.1 / 8 * 8)) == 2 && !s.shadowed t b p.1 p.2 slot)

/-- A word of a bank is written as poison (R217, R218). -/
def State.spdPoisonWord (s : State) (t : Nat) (b : BankId) (word : Nat) : State :=
  let k := spdAddr t b (8 * word)
  ((s.setBytes k (List.replicate 8 0xFF#8)).setMark k 2).cnt .spdPoisonWr t 0 1

/-- Writes bytes of one word, each at its place: all eight replace the word; fewer merge into the old word, unless that is
uncorrectable: the write is then refused, and the word keeps the poison code (R216). -/
def State.spdWordMerge (s : State) (t : Nat) (b : BankId) (word : Nat) (l : List (Nat × Byte)) : State :=
  let k := spdAddr t b (8 * word)
  let store (s : State) : State := l.foldl (fun s p => s.setByte (k + p.1) p.2) s
  if l.length = 8 then (store s).setMark k 0
  else if s.mark k = 2 then
    ((s.applyHeld t (.spdErr b true 3 word)).reportTile 1 t 2 k).setBytes k (List.replicate 8 0xFF#8)
  else if s.mark k = 1 then store ((s.applyHeld t (.spdErr b false 3 word)).setMark k 0)
  else store s

/-- Poison reaches a word: a write of the whole word stores the poison code; a partial one would merge, so an uncorrectable word refuses it (R216). -/
def State.spdPoisonPart (s : State) (t : Nat) (b : BankId) (word n : Nat) : State :=
  let k := spdAddr t b (8 * word)
  if n < 8 ∧ s.mark k = 2 then ((s.applyHeld t (.spdErr b true 3 word)).reportTile 1 t 2 k).setBytes k (List.replicate 8 0xFF#8)
  else s.spdPoisonWord t b word

/-- Writes a span of a bank, word by word; `poison` writes every word it touches as poison. A write to an SB line that a committing slot
still holds goes into the shadow line, a poison one removes its shadow bytes (R157). -/
def State.spdWrite (s : State) (t : Nat) (b : BankId) (off : Nat) (bs : List Byte) (poison : Bool := false) : State :=
  (wordParts off bs.length).foldl (fun s p =>
    let piece := (bs.drop (p.1 - off)).take p.2
    match if b = .sb then (s.tile t).shadowLine p.1 else none with
    | some i =>
      if poison then (s.shadowPut t i (p.1 / 8 * 8) (List.replicate 8 none)).spdPoisonWord t b (p.1 / 8)
      else s.shadowPut t i p.1 (piece.map some)
    | none =>
      if poison then s.spdPoisonPart t b (p.1 / 8) p.2
      else s.spdWordMerge t b (p.1 / 8) (((List.range p.2).map (· + p.1 % 8)).zip piece)) s

/-- Lines of 64 bytes that a span touches. -/
def linesOf (off n : Nat) : Nat := if n = 0 then 0 else (off + n - 1) / 64 + 1 - off / 64

/-- Counts granted accesses of a bank (R214). -/
def State.bankCount (s : State) (t : Nat) (b : BankId) (master : Bool) (n : Nat) : State :=
  if n = 0 then s
  else (s.cnt (if master then .spdAccMaster else .spdAccOther) t (bankIdx b) n).activity t 6 n

/-- The same for engine work that a branch may hold (R155). -/
def State.effBankCount (s : State) (t : Nat) (slot : Option Nat) (b : BankId) (master : Bool) (n : Nat) : State :=
  if n = 0 then s
  else (s.effCnt t slot (if master then .spdAccMaster else .spdAccOther) (bankIdx b) n).activity t 6 n

/-- A byte of a bank as a reader sees it: shadow lines first (R153, R157). -/
def State.spdByte (s : State) (t : Nat) (b : BankId) (off : Nat) (slot : Option Nat := none) : Byte :=
  (s.shadowByte t b off slot).getD (s.byte (spdAddr t b off))

/-- Reads a span of a bank: the state after the ECC effects, the bytes, and whether a word is poisoned. -/
def State.spdRead (s : State) (t : Nat) (b : BankId) (source off n : Nat) (slot : Option Nat := none) :
    State × List Byte × Bool :=
  let r := s.spdWordsRead t b source off n slot
  (r.1, (List.range n).map (fun i => s.spdByte t b (off + i) slot), r.2)

/-! ### HBM lines (R227 to R231) -/

/-- Records the first error of a controller while VALID is 0 (R236). -/
def State.hbmRecord (s : State) (c : Nat) (ue : Bool) (source symbols line : Nat) : State :=
  if s.on .hbmErrInfoValid c then s
  else
    let s := s.wr .hbmErrInfoUe c 0 (b2n ue)
    let s := s.wr .hbmErrInfoSource c 0 source
    let s := s.wr .hbmErrInfoSymbols c 0 symbols
    let s := s.wr .hbmErrLine c 0 line
    (s.wr .hbmErrInfoValid c 0 1).irq (328 + c)

/-- A controller's report to the RAS agent. -/
def State.reportHbm (s : State) (cls c code detail : Nat) : State :=
  s.report cls .hbmc c code (s.rd .hbmGen c) detail

/-- A line is read by its controller (R230, R231): a correctable line is delivered, written back, counted and reported; an
uncorrectable or poisoned one is counted and delivered as poison. Mark 1 is one bad symbol, mark 5 two (R220). -/
def State.hbmLineRead (s : State) (stack loc source : Nat) : State × Bool :=
  let c := hbmcOf stack loc
  let k := (Place.hbm stack (loc / 64 * 64)).key
  let m := s.mark k
  if m = 0 then (s, false)
  else if m = 1 ∨ m = 5 then
    let s := (s.cnt .hbmCe c 0 1).hbmRecord c false source (if m = 1 then 1 else 2) (loc / 64)
    ((s.reportHbm 0 c 1 k).setMark k 0, false)
  else
    let s := if m = 3 then s.cnt .hbmPoisonRd c 0 1 else s
    ((((s.cnt .hbmUe c 0 1).hbmRecord c true source 0xFF (loc / 64)).reportHbm 1 c 2 k), true)

/-- Writes bytes within one line (R227, R231): a full line replaces everything; a partial one is a read-modify-write that is
not merged into an uncorrectable line. Mark 3 is the poison pattern. -/
def State.hbmLineWrite (s : State) (stack loc : Nat) (bs : List Byte) (poison : Bool) : State :=
  let c := hbmcOf stack loc
  let k := (Place.hbm stack (loc / 64 * 64)).key
  let s := (s.cnt .hbmWrLines c 0 1).activity (280 + c) 9 1
  let asPoison (s : State) : State := ((s.setBytes k (List.replicate 64 0xFF#8)).setMark k 3).cnt .hbmPoisonWr c 0 1
  if bs.length = 64 then (if poison then asPoison s else (s.setBytes k bs).setMark k 0)
  else
    let s := (s.cnt .hbmRmw c 0 1).activity (280 + c) 9 1
    if s.mark k = 2 ∨ s.mark k = 3 then
      (((s.cnt .hbmUe c 0 1).hbmRecord c true 2 0xFF (loc / 64)).reportHbm 1 c 2 k).setMark k 3
    else
      let r := s.hbmLineRead stack loc 2
      if poison then asPoison r.1 else r.1.setBytes (Place.hbm stack loc).key bs

/-! ### Registers of a controller that serves accesses -/

/-- A controller that performs accesses: trained (R233). -/
def State.hbmReady (s : State) (c : Nat) : Bool := (sget {} c s.hbmcs).trained

/-- Changes controller c. -/
def State.onHbmc (s : State) (c : Nat) (f : Hbmc → Hbmc) : State := { s with hbmcs := sput {} c (f (sget {} c s.hbmcs)) s.hbmcs }

/-- The line of a read at a controller: counted, with its ECC effects (R227, R230). -/
def State.hbmLineFetch (s : State) (stack loc source : Nat) : State × Bool :=
  let c := hbmcOf stack loc
  ((s.cnt .hbmRdLines c 0 1).activity (280 + c) 9 1).hbmLineRead stack loc source

/-! ### Agents that access registers (R18, R63) -/

/-- Number of an agent: the host, headframe cores 0 to 3, the debug port, the sideband. -/
def agentIdx : Agent → Nat
  | .host => 0
  | .hf c => 1 + c.val
  | .dbg => 5
  | .sideband => 6

/-- What a register read answers to an agent. -/
def State.answer (s : State) (a : Agent) (v : Nat) : State := { s with answers := sput 0 (agentIdx a) v s.answers }

/-! ### Restoring (R16, R443) -/

/-- The field that a register key belongs to. -/
def keyField (k : Nat) : Option Field := Field.all[k / 2 ^ 28]?

/-- Instance of a register key. -/
def keyInst (k : Nat) : Nat := k / 4096 % 65536

/-- Restores the field instances that a test names to their reset values. -/
def State.restore (s : State) (p : Field → Nat → Bool) : State :=
  { s with regs := sdrop (fun k => (keyField k).any (fun f => p f (keyInst k))) s.regs }

/-- Memory whose contents are lost or not guaranteed: each byte that something has written becomes a free value. -/
def freeMem (n : Nat) (l : List Host.Cell) : List Host.Cell :=
  (((List.range l.length).zip l).foldl (fun acc e => sput 0#8 e.2.1 (BitVec.ofNat 8 (Config.freeValue (n + e.1))) acc) [])

/-- What a cold reset or a loss of main power leaves (R16, R443, R503 to R505): the flash, the counter device, the module's own latches, among
them the sensor of a trip; every field at its reset value; memory contents free. -/
def State.coldState (s : State) : State :=
  let keep (f : Field) : Bool :=
    f == .hfModStatusTripCause || f == .hfModStatusStartCause
  { pending := s.pending, variant := s.variant, time := s.time, free := s.free + s.mem.length, flash := s.flash, mono := s.mono, mod := s.mod,
    answers := s.answers, uart := s.uart, mem := freeMem s.free s.mem, rasw := { flashNext := s.rasw.flashNext },
    regs := s.regs.filter (fun e => (keyField e.1).any keep) }

end Sys2Proof.Machine
end

