-- ==== Sys2Proof/Machine/Flags.lean ====
section
/-! DEFINITION. The sticky flags of the numeric engines (R87) and the numeric-health counters (R90, R91), set at once or held
by a branch slot (R155). -/
namespace Sys2Proof.Machine

/-- The flags of an engine as the register shows them. -/
def State.flagsOf (s : State) (e : NumEngine) (t : Nat) : Nat :=
  (e.flagFields.zip [4, 3, 2, 1, 0]).foldl (fun acc p => acc + s.rd p.1 t * 2 ^ p.2) 0

/-- Health increments of one stored value of format code f: counter (0 total, 1 overflow, 2 vanished, 3 NaN) keys as
code * 4 + counter (R90). -/
def healthKeys (f : Fmt) (st : Stored) : List Nat :=
  [f.code * 4] ++ (if st.hOvf then [f.code * 4 + 1] else []) ++ (if st.hVanish then [f.code * 4 + 2] else []) ++
    (if st.hNan then [f.code * 4 + 3] else [])

/-- The health counter field of a key's second part. -/
def healthField : Nat → Field
  | 0 => .tileNhTotal
  | 1 => .tileNhOvf
  | 2 => .tileNhVanish
  | _ => .tileNhNan

/-- Raises numeric flags of the OPE or VE, at once or held. -/
def State.effFlags (s : State) (t : Nat) (slot : Option Nat) (ve : Bool) (f : NumFlags) : State :=
  if f = {} then s else s.eff t slot (.flags ve f.toBits)

/-- Counts one stored value in the health counters (R90), at once or held. -/
def State.effHealth (s : State) (t : Nat) (slot : Option Nat) (f : Fmt) (st : Stored) : State :=
  (healthKeys f st).foldl (fun s k => s.effCnt t slot (healthField (k % 4)) (k / 4) 1) s

/-- Counts one stored value of the hoist or the seam engine, whose work is never speculative (R153). -/
def State.health (s : State) (t : Nat) (f : Fmt) (st : Stored) : State := s.effHealth t none f st

end Sys2Proof.Machine
end

