-- ==== Sys2Proof/Machine/Components.lean ====
section
/-! DEFINITION. Mailbox requests and responses (R357, R362), and the faults and resets of firmware components (R349 to R352), which an
access of a headframe core can cause (R51, R218). -/
namespace Sys2Proof.Machine

/-! ### Requests and responses (R357, R362) -/

/-- Little-endian value in a channel's request, header included. -/
def State.reqNat (s : State) (c off n : Nat) : Nat := leNat (s.bytes (mbxKey c (0x40 + off)) n)

/-- Little-endian value in a channel's request payload. -/
def State.pay (s : State) (c off n : Nat) : Nat := s.reqNat c (32 + off) n

/-- Bytes of a channel's request payload. -/
def State.payBytes (s : State) (c off n : Nat) : List Byte := s.bytes (mbxKey c (0x60 + off)) n

/-- Firmware answers a channel (R358, R362): response, DONE, the count of a failing status, then vector c. Before any HELLO the
response's version pair is a free value. -/
def State.respond (s : State) (c comp stamp status : Nat) (payload : List Byte) : State :=
  let r := match s.mbx.pair with
    | some p => (p, s)
    | none => (s.takeFree.1 % 2 ^ 16, s.takeFree.2)
  let s := r.2
  let head := fieldBytes [(s.reqNat c 0 2, 2), (r.1, 2), (s.reqNat c 4 4, 4), (payload.length, 2), (status, 2), (comp, 1),
    (s.rd .hfCompStatusGen 0 comp, 1), (0, 2), (stamp, 8), (s.tally, 8)]
  let s := s.setBytes (mbxKey c 0x2000) (head ++ payload)
  let s := s.wr .mbxState c 0 2
  let s := if status = 0 then s else s.cnt .mbxErrStatus c 0 1
  s.msix c

/-- Events whose data the manual does not lay out carry free data bytes. -/
def State.postEventFree (s : State) (code comp : Nat) : State :=
  let r := s.takeFree
  r.2.postEvent code comp (natLe 48 r.1)

/-- An event of a class whose code the manual does not number, with the data that it lays down. -/
def State.postClassWith (s : State) (cls comp : Nat) (data : List Byte) : State :=
  let r := s.takeFree
  r.2.postEvent (cls * 256 + r.1 % 256) comp data

/-- An event of a class whose code the manual does not number has a free low byte. -/
def State.postClass (s : State) (cls comp : Nat) : State :=
  let r := s.takeFree
  r.2.postEventFree (cls * 256 + r.1 % 256) comp

/-! ### Components (R349 to R352) -/

/-- Core that a component runs on (R349). -/
def compCore (k : Nat) : Nat := [0, 1, 2, 3, 0, 2].getD k 0

/-- Who watches a component: the RAS agent, and the mailbox service for the RAS agent. -/
def watcher (k : Nat) : Nat := if k = 3 then 0 else 3

/-- Component that handles a source delivered to a core: on HF2 the CRC unit, the flash interface and the snapshot belong to the
CRC/snapshot service (assumption log). -/
def srcComp (core n : Nat) : Nat :=
  if core = 2 then (if n = 437 ∨ n = 439 ∨ n = 440 then 5 else 2) else core

/-- Stack of a core, top first. -/
def State.icStackOf (s : State) (n : Nat) : List (Nat × Nat) := sget [] n s.ic.stack

/-- Replaces a core's stack. -/
def State.icSetStack (s : State) (n : Nat) (l : List (Nat × Nat)) : State := { s with ic := { s.ic with stack := sput [] n l s.ic.stack } }

/-- Clears ACTIVE of a source. -/
def State.icInactive (s : State) (n : Nat) : State := { s with ic := { s.ic with active := sput false n false s.ic.active } }

/-- A core's return stack of 16 save banks, top first (R375). -/
def State.icBanks (s : State) (n : Nat) : List (Nat × Nat) := sget [] n s.ic.banks

/-- Replaces a core's return stack. -/
def State.icSetBanks (s : State) (n : Nat) (l : List (Nat × Nat)) : State := { s with ic := { s.ic with banks := sput [] n l s.ic.banks } }

/-- The core saves what it interrupts, whose program counter and status are free values: no command shows them (R375, log 57). -/
def State.icSave (s : State) (core n : Nat) : State :=
  s.takeFree.2.icSetBanks core (((n, s.takeFree.1) :: s.icBanks core).take 16)

/-- The bank that was pushed for a source is popped: the table has no row for a core's return instruction, so a handler returns when its entry
leaves the controller's stack (DESIGN CHOICE, log 57). -/
def State.icReturn (s : State) (core n : Nat) : State := s.icSetBanks core ((s.icBanks core).filter (fun b => b.1 != n))

/-- Removes the entries of a component's sources before it restarts (R378). -/
def State.icForget (s : State) (k : Nat) : State :=
  let core := compCore k
  let mine := (s.icStackOf core).filter (fun e => srcComp core e.1 == k)
  let s := mine.foldl (fun s e => (s.icInactive e.1).icReturn core e.1) s
  s.icSetStack core ((s.icStackOf core).filter (fun e => srcComp core e.1 != k))

/-- Re-initialises a component's data area (R350): what the image puts there is a free value. -/
def State.areaInit (s : State) (k : Nat) : State :=
  match s.boot.areas.find? (fun a => a.1 == k) with
  | none => s
  | some a => { s with free := s.free + a.2.2 }.setBytes a.2.1 ((List.range a.2.2).map (fun i => BitVec.ofNat 8 (Config.freeValue (s.free + i))))

/-- A component reset begins (R350): stopped, its data area and with it its working data re-initialised, its generation incremented, its
outstanding requests forgotten (R448). It is counted when it completes, so that a larger reset that absorbs it leaves it uncounted (R445). -/
def State.compReset (s : State) (k : Nat) : State :=
  let x := s.comp k
  let s := ((s.setComp k { x with mode := .restarting, resetAt := s.tally }).icForget k).areaInit k
  let s := s.cnt .hfCompStatusGen 0 k 1
  let s := { s with hfOut := s.hfOut.filter (fun e => e.2 != k) }
  if k = 1 then { s with demand := [] }
  else if k = 3 then
    let w := s.rasw
    { s with rasLog := [], rasw := { flashNext := w.flashNext, flashAt := w.flashAt, ceAt := w.ceAt, scanAt := w.scanAt, warmPlan := w.warmPlan } }
  else if k = 5 then { s with nhLast := none, nhWait := none }
  else s

/-- The command in progress at a component that faults completes with 0x0009 (R352). -/
def State.compAbandon (s : State) (k : Nat) : State :=
  match s.mbx.run.find? (fun r => r.comp == k) with
  | none => s
  | some r => ({ s with mbx := { s.mbx with run := s.mbx.run.filter (fun q => q.chan != r.chan) } }).respond r.chan k r.stamp 9 []

/-- Does a component run, with the headframe's clock running (R382)? -/
def State.compRuns (s : State) (k : Nat) : Bool := (s.comp k).mode == .running && !s.ic.asleep

/-- A component faults (R350, R351): the third fault within 60 s leaves it FAILED; any other starts a component reset. The reset of a component whose
handler caused a stack fault is `left` to the RAS agent, which repairs the stack first (R377, R384): it resets the component when it takes the
report, whose code is then 1. -/
def State.compFault (s : State) (k : Nat) (left : Bool := false) : State :=
  let x := s.comp k
  match x.mode with
  | .restarting => s.bump .rasResetSuppress
  | .running =>
    let recent := x.faults.filter (fun a => decide (s.tally < a + 60000000000)) ++ [s.tally]
    let s := ((s.cnt .hfCompFaults 0 k 1).setComp k { x with faults := recent }).compAbandon k
    let s := s.report 2 .component k (b2n (left && decide (recent.length < 3))) (s.rd .hfCompStatusGen 0 k) s.tally
    if recent.length ≥ 3 then
      let s := (s.setComp k { x with faults := recent, mode := .failed }).postClass 0 (watcher k)
      if k = 0 ∨ k = 3 then s.report 3 .component k 0 (s.rd .hfCompStatusGen 0 k) s.tally else s
    else if left then s else s.compReset k
  | _ => s

/-- A component meets an MPU or bus fault: while the RAS agent restarts, one of HF3 is device-fatal (R438). -/
def State.accessFault (s : State) (k : Nat) : State :=
  if k = 3 ∧ (s.comp 3).mode = .restarting then s.report 3 .headframe 3 2 (s.rd .hfCompStatusGen 0 3) s.tally else s.compFault k

/-- Components that can make an access from a core: those of it that run, or, when none does, those that restart (R349). -/
def State.coreComps (s : State) (core : Nat) : List Nat :=
  let on (m : CompMode) : List Nat := (List.range 6).filter (fun k => compCore k == core && (s.comp k).mode == m)
  if (on .running).isEmpty then on .restarting else on .running

/-- The component that acts on a core: of several that share it, which one is a free value. -/
def State.actingComp (s : State) (core : Nat) : Option (Nat × State) :=
  match s.coreComps core with
  | [] => none
  | [k] => some (k, s)
  | k :: l => let r := s.takeFree; some ((k :: l).getD (r.1 % (l.length + 1)) k, r.2)

/-! ### Memory protection (R348) -/

/-- The regions of a core's MPU: what the image's component table has set, and region 15, which the ROM fixes. -/
def State.mpuOf (s : State) (core : Nat) : List MpuRegion :=
  ⟨core, 15, 0x100000000, 0x40000, 5⟩ :: s.boot.mpu.filter (fun r => r.core == core && decide (r.region < 15))

/-- Does some region of the core permit an access of n bytes (permission bit 0 read, 1 write, 2 execute)? -/
def State.mpuMay (s : State) (core addr n bit : Nat) : Bool :=
  (s.mpuOf core).any (fun r => bitOf r.perms bit && decide (r.base ≤ addr ∧ addr + n ≤ r.base + r.size))

/-- A bus or MPU fault on a headframe core (R51, R60, R218, R348): its fault source is raised and the component that made the access
faults. -/
def State.busFault (s : State) (core : Nat) : State :=
  let s := s.irq (428 + core)
  match s.actingComp core with
  | none => s
  | some r => r.2.accessFault r.1

end Sys2Proof.Machine
end

