-- ==== Sys2Proof/Machine/TileOps.lean ====
section
/-! DEFINITION. What the tile's units share: semaphores and stream endpoints (R180, R181, R203), queues (R175 to R178), the
event unit (R173), sending packets, and decode errors of each agent (R51, R221). -/
namespace Sys2Proof.Machine

/-! ### Packets -/

/-- Header values every injected packet of a tile carries: source, generation (R274, R447). -/
def State.tilePacket (s : State) (t : Nat) (p : Packet) : Packet :=
  { p with srcDev := s.rd .fabDevIdId, srcTile := t, gen := s.rd .tileGen t }

/-- Hands a packet to injection; PACKET_INJECT takes it. -/
def State.send (s : State) (p : Packet) : State := { s with outbox := s.outbox ++ [p] }

/-- Does a target word in the layout of R177 name this tile? (bit 35 names this device.) -/
def State.targetHere (s : State) (target : Nat) : Bool :=
  bitOf target 35 || (s.on .fabDevIdValid && bitsOf target 34 15 == s.rd .fabDevIdId)

/-- Tile, device and queue fields of a target word (R177). -/
def targetTile (target : Nat) : Nat := bitsOf target 14 7
def targetDev (target : Nat) : Nat := bitsOf target 34 15
def targetQueue (target : Nat) : Nat := bitsOf target 6 0

/-- VC of a signal that a tile core sends to semaphore k of a target: the VC of the enabled endpoint whose peer and PEER_SEM the target is (R201),
VC2 for every other (R180). The two rules differ where an endpoint names another VC than VC2 (DEDUCED, log 90). -/
def State.signalVc (s : State) (t k target : Nat) : Nat :=
  let peer (e : Nat) : Bool :=
    if s.on .tileEpPeerLocal t e then s.targetHere target
    else !bitOf target 35 && s.rd .tileEpPeerDevice t e == targetDev target
  match (List.range 16).find? (fun e => s.on .tileEpEn t e && s.rd .tileEpPeerSem t e == k && s.rd .tileEpPeerTile t e == targetTile target && peer e) with
  | some e => s.rd .tileEpVc t e
  | none => 2

/-! ### Semaphores -/

/-- Enabled endpoints of a tile whose LOCAL_SEM is semaphore k (R203). -/
def State.endpointsOn (s : State) (t k : Nat) : List Nat :=
  (List.range 16).filter (fun e => s.on .tileEpEn t e && s.rd .tileEpLocalSem t e == k)

/-- The count of an endpoint changes by n (R203, R204). -/
def State.strmCount (s : State) (t e n : Nat) (f : Field) : State :=
  if n = 0 then s
  else ((s.cnt f t e n).wr .tileStrmLastAt t e s.tally).progress t 1

/-- A signal reaches semaphore k: saturating addition (R181), counted at the endpoints by what it raised (R203). -/
def State.semAdd (s : State) (t k amount : Nat) : State :=
  let old := s.rd .tileSem t k
  let new := min (old + amount % 2 ^ 32) 0xFFFFFFFF
  let s1 := if old + amount % 2 ^ 32 > 0xFFFFFFFF then s.cnt .tileSemSat t 0 1 else s
  let s2 := s1.wr .tileSem t k new
  (s.endpointsOn t k).foldl (fun s e => s.strmCount t e (new - old) .tileStrmArrived) s2

/-- Semaphore k holds at least the amount. -/
def State.semHas (s : State) (t k amount : Nat) : Bool := s.rd .tileSem t k ≥ amount % 2 ^ 32

/-- The amount is taken from semaphore k (R180, R203). -/
def State.semTake (s : State) (t k amount : Nat) : State :=
  let a := amount % 2 ^ 32
  let s1 := s.wr .tileSem t k (s.rd .tileSem t k - a)
  (s.endpointsOn t k).foldl (fun s e => s.strmCount t e a .tileStrmTaken) s1

/-- A signal from a tile to semaphore k of a target (R180): its own semaphore directly, any other by a SIGNAL packet. -/
def State.signal (s : State) (t k amount target vc : Nat) : State :=
  if s.targetHere target && targetTile target == t then s.semAdd t k amount
  else s.send (s.tilePacket t { ty := 3, vc := vc, dstDev := targetDev target, dstTile := targetTile target, sem := k,
                                addr := amount % 2 ^ 32, onDie := bitOf target 35 })

/-! ### Queues -/

/-- Instance of queue q of tile t. -/
def qInst (t q : Nat) : Nat := t * 128 + q

/-- Storage bank of a queue (R175). -/
def qBank (q : Nat) : BankId := if q < 96 then .cb else .sb

/-- Depth of a queue. -/
def State.qDepth (s : State) (t q : Nat) : Nat := 2 ^ s.rd .tileQcfgLog2Depth (qInst t q)

/-- A queue that is enabled and whose ring is legal (R176). -/
def State.qEnabled (s : State) (t q : Nat) : Bool :=
  let i := qInst t q
  let l := s.rd .tileQcfgLog2Depth i
  s.on .tileQcfgEn i && decide (1 ≤ l) && decide (l ≤ 8) &&
    decide (s.rd .tileQcfgBase i + 2 ^ l ≤ (if q < 96 then 8192 else 4096))

/-- Entries held: the difference of the pointers, whose bit 8 is a wrap bit (R192). -/
def State.qOcc (s : State) (t q : Nat) : Nat :=
  let h := s.rd .tileQHead (qInst t q)
  let l := s.rd .tileQTail (qInst t q)
  if l / 256 = h / 256 then l % 256 - h % 256 else s.qDepth t q + l % 256 - h % 256

/-- The pointer after this one: index modulo the depth, wrap bit flipped at the end. -/
def qNext (depth p : Nat) : Nat :=
  if p % 256 + 1 < depth then p + 1 else (if p / 256 = 0 then 256 else 0)

/-- Byte offset in the storage bank of the ring line that a pointer names. -/
def State.qLine (s : State) (t q p : Nat) : Nat := (s.rd .tileQcfgBase (qInst t q) + p % 256) * 64

/-- Admits a 64-byte entry (R178): written at TAIL as a non-master access, counted in TILE_Q_POSTS. -/
def State.qAdmit (s : State) (t q : Nat) (entry : List Byte) (poison : List Nat) (master : Bool) : State :=
  let i := qInst t q
  let off := s.qLine t q (s.rd .tileQTail i)
  let s1 := (s.bankCount t (qBank q) master 1).spdWrite t (qBank q) off entry
  let s2 := poison.foldl (fun s w => s.spdPoisonWord t (qBank q) (off / 8 + w % 8)) s1
  ((s2.wr .tileQTail i 0 (qNext (s.qDepth t q) (s.rd .tileQTail i))).cnt .tileQPosts i 0 1)

/-- Removes the head entry. -/
def State.qDropHead (s : State) (t q : Nat) : State :=
  let i := qInst t q
  s.wr .tileQHead i 0 (qNext (s.qDepth t q) (s.rd .tileQHead i))

/-- TILE_EVQ: command queues that hold an entry (R173). -/
def State.evq (s : State) (t : Nat) : Nat :=
  (List.range 64).foldl (fun acc q => if s.qEnabled t q && s.qOcc t q != 0 then acc + 2 ^ q else acc) 0

/-- EV0: sticky bits, WAKE, and the watched semaphores (R173). -/
def State.ev0 (s : State) (t : Nat) : Nat :=
  let x := s.tile t
  let wake := s.rd .tileWakeAt t != 0 && decide (s.tally ≥ s.rd .tileWakeAt t)
  let semw := (List.range 8).foldl (fun acc k =>
    if s.rd .tileSem t (s.rd .tileSemWatchSem t k) ≥ s.rd .tileSemWatchThresh t k then acc + 2 ^ (8 + k) else acc) 0
  x.core.ev0 + (if wake then 16 else 0) + semw

/-- Sets a sticky event bit (R173). -/
def State.event (s : State) (t b : Nat) : State := s.applyHeld t (.event b)

/-! ### Register writes to a stopped tile (R426) -/

/-- Debug access is open with STATE_WRITE (R431). -/
def State.stateWriteOpen (s : State) : Bool := s.on .dbgLockOpen && bitOf (s.rd .dbgLockPerms) 1

/-- A write of a tile's register: at once, or held until resume while the tile is stopped (R426). -/
def State.islandWrite (s : State) (off t q v : Nat) (f : State → State) : State :=
  if (s.tile t).stopped && !s.stateWriteOpen then { s with dbg := { s.dbg with heldWrites := s.dbg.heldWrites ++ [⟨off, t, q, v⟩] } }
  else f s

/-! ### Decode errors and gated banks (R51, R221) -/

/-- The count of an access that reached no memory, and the contained error to the RAS agent (R51). -/
def State.decodeCount (s : State) (r : Requester) (a : Nat) : State :=
  match r with
  | .core t => (s.cnt .tileDecodeErr t 0 1).reportTile 1 t 0x302 a
  | .hoist t => (s.cnt .hstDecodeErr t 0 1).reportTile 1 t 0x311 a
  | .unit t => s.reportTile 1 t 0x313 a
  | .seam t => (s.cnt .tileSeamDecodeErr t 0 1).reportTile 1 t 0x312 a
  | .bar2 => (s.bump .adtBar2DecodeErr).report 1 .hostPort 0 1 0 a
  | .hf n => (s.bump .hfDecodeErr).report 1 .headframe n 1 0 a
  | .dbg => (s.bump .dbgDecodeErr).report 1 .device 0 1 0 a

/-- An access reached no memory (R51): counted and reported; a headframe core takes a bus fault, the debug port an error response. -/
def State.decodeError (s : State) (r : Requester) (a : Nat) : State :=
  match r with
  | .hf n => (s.decodeCount r a).busFault n
  | .dbg => let s := s.decodeCount r a; { s with mod := { s.mod with jtagErr := true } }
  | _ => s.decodeCount r a

/-- What an address is for a requester that reaches scratchpads and HBM (R50): its place, or undecoded, with SPD_GATED_ACC
counted for a bank of a gated tile (R221). -/
def State.reach (s : State) (a : Nat) : State × Place :=
  match s.place a with
  | .spd t b off => if (s.tile t).gated then (s.bump .spdGatedAcc, .undecoded) else (s, .spd t b off)
  | .hbm st l => (s, .hbm st l)
  | _ => (s, .undecoded)

end Sys2Proof.Machine
end

