-- ==== Sys2Proof/Machine/Live.lean ====
section
/-! DEFINITION. The live fields of the register tables: what a read of each computes from the state (R15). -/
namespace Sys2Proof.Machine

/-- STATE of TILE_CORE_STATUS: 0 held, 1 running, 2 faulted, 3 halted (R191). -/
def Tile.coreState (x : Tile) : Nat :=
  match x.core.mode with
  | .held => 0
  | .faulted => 2
  | .broken => 3
  | .running => if x.stopped then 3 else 1

/-- WAIT_KIND of TILE_CORE_STATUS (R191). -/
def Wait.kind : Wait → Nat
  | .running => 0 | .event .. => 1 | .sem .. => 2 | .post .. => 3 | .ope .. => 4 | .ve .. => 5 | .spec .. => 6 | .fence => 7

/-- State of an output tile (R120): 0 idle, 1 filling, 2 complete and awaiting drain, 3 draining. -/
def Ope.tileState (o : Ope) (blk : Nat) (cur : Option Nat) : Nat :=
  match o.drains.find? (fun d => d.blk == blk) with
  | some d => if d.started then 3 else 2
  | none => if cur = some blk then 1 else 0

/-- Accumulator block that the running instruction fills: its output tile (R105), or the slot's shadow block (R153). -/
def OpeRun.blk (r : OpeRun) : Nat :=
  match r.ins.slot with
  | some i => 2 + i
  | none =>
    let n := bitsOf r.ins.w0 32 21 + 1
    let b := (r.bm / 128) * ceilDiv n 128 + r.bn / 128
    (bitsOf r.ins.w0 0 0 + b) % 2

/-- Code of a slot's mode in TILE_SPEC_STATUS (R160). -/
def SlotMode.code : SlotMode → Nat
  | .free => 0 | .opened => 1 | .committing => 2 | .cancelling => 3

/-- Sum of a per-index value shifted into fields of w bits. -/
def packFields (n w : Nat) (f : Nat → Nat) : Nat := (List.range n).foldl (fun acc i => acc + f i % 2 ^ w * 2 ^ (w * i)) 0

/-- The OPE is executing or has a drain pending (R120): so it is until the completion of what it has begun (R113). -/
def Ope.busy (o : Ope) : Bool := o.run.isSome || !o.drains.isEmpty || !o.fins.isEmpty

end Sys2Proof.Machine
end

