-- ==== Sys2Proof/Machine/Views.lean ====
section
/-! DEFINITION. Reading a field: live fields computed from the state, write-only fields as zero, all others as stored. -/
namespace Sys2Proof.Machine

/-- The instances of the select registers in force for an access (R17, R18, R167). -/
structure Sel where
  tile : Nat := 0
  q : Nat := 0
  port : Nat := 0
  hbmc : Nat := 0
  group : Nat := 0
  cnt : Nat := 0
  agent : Nat := 0
deriving DecidableEq, Repr

/-- Live fields of a tile (R34, R120, R160, R191 to R193, R235, R249). -/
def State.liveTile (s : State) (f : Field) (t sub : Nat) : Nat :=
  let x := s.tile t
  match f with
  | .tileTlyGated => b2n x.gated
  | .tileTlyTallyValid => b2n x.tallyValid
  | .opeStatusQdepth => x.ope.queue.length
  | .opeStatusT1State => x.ope.tileState 1 (x.ope.run.map OpeRun.blk)
  | .opeStatusT0State => x.ope.tileState 0 (x.ope.run.map OpeRun.blk)
  | .opeStatusBusy => b2n x.ope.busy
  | .tileSpecStatus => packFields 4 2 (fun i => (s.slot t i).mode.code)
  | .tileSpecWin => packFields 4 4 (fun i => if (s.slot t i).mode = .free then 0 else (s.slot t i).win)
  | .tileCoreStatusWaitKind => x.core.wait.kind
  | .tileCoreStatusState => x.coreState
  | .tileCorePc => x.core.pc
  | .tileEvq => s.evq t
  | .veStatusQdepth => x.ve.queue.length
  | .veStatusBusy => b2n (!x.ve.fins.isEmpty)
  | .spdBankClearing => b2n (sget {} sub x.banks).clearing.isSome
  | .hstStatusOutstanding => x.hoist.reads.length
  | .hstStatusActive => x.hoist.active.length
  | _ => s.rd f t sub

/-! ### What live fields of ports, tables, power and debug are computed from -/

/-- Port p. -/
def State.port (s : State) (p : Nat) : Port := sget {} p s.ports

/-- STATE code (R272). -/
def PortMode.code : PortMode → Nat
  | .disabled => 0 | .training => 1 | .aligning => 2 | .init => 3 | .up => 4 | .down => 5 | .loopback => 6

/-- Packets of an epoch that the device holds for a port, on the rings and at the port (RT_DRAIN). -/
def State.drainHeld (s : State) (p e : Nat) : Nat :=
  let x := s.port p
  (s.ring.filter (fun r => r.pkt.epoch == e && r.out == some p)).length + (x.txq.filter (fun q => q.pkt.epoch == e)).length + (if (x.cur.map (fun c => c.pkt.epoch)) = some e then 1 else 0) +
    (x.sent.filter (fun f => f.last && f.epoch == e)).length

/-- Packets of an epoch that a port's receiver holds: arriving, or accepted whole. -/
def State.inHeld (s : State) (p e : Nat) : Nat :=
  let x := s.port p
  (x.opens.filter (fun o => decide (o.need ≠ 0) && bitsOf (leNat (o.bytes.take 8)) 56 56 == e)).length +
    (x.rxq.filter (fun r => r.pkt.epoch == e)).length

/-- RT_HELD of an epoch (R288). -/
def State.rtHeld (s : State) (e : Nat) : Nat :=
  (List.range 8).foldl (fun acc p => acc + s.drainHeld p e + s.inHeld p e) 0 + (s.ring.filter (fun r => r.pkt.epoch == e && r.out.isNone)).length +
    (s.dieNet.filter (fun a => a.pkt.epoch == e)).length

/-- A 7-bit issue fraction as it acts (R396). -/
def issueActs (n : Nat) : Nat := if n = 0 then 1 else min n 64

/-- Is a block gated? Its tiles are gated together. -/
def State.pbGated (s : State) (k : Nat) : Bool := (s.tile (64 * (k / 4) + 4 * (k % 4))).gated

/-- VSET_EFF of a block (R397). -/
def State.vsetEff (s : State) (k : Nat) : Nat :=
  let v := s.rd .pwrPbCtrlVset k
  let v := if s.on .pwrPbStatusHot k then 0 else v
  if s.pwr.safeClamp then min v (s.rd .pwrLimitSafeVset) else v

/-- An issue fraction of a block under the limits in force (R397). -/
def State.issueOf (s : State) (k n : Nat) : Nat :=
  let n := if s.on .pwrPbStatusDroop k then min n (issueActs (s.rd .pwrDroopCfgDroopFrac)) else n
  let n := if s.on .pwrPbStatusHot k then min n 16 else n
  if s.on .pwrStatusFastActive then min n (issueActs (s.rd .pwrLimitFastFrac)) else n

/-- ISSUE_EFF of a block (R396, R397). -/
def State.issueEff (s : State) (k : Nat) : Nat := s.issueOf k (issueActs (s.rd .pwrPbCtrlIssue k))

/-- Safe mode: the power/thermal loop is not running (R393). -/
def State.safeMode (s : State) : Bool := (s.comp 1).mode != .running

/-- PACE of a block (R404). -/
def State.pbPace (s : State) (k : Nat) : Nat :=
  if s.pbGated k then 0 else min 0xFFFF (4096 * s.rd .pwrPbRate k * s.issueEff k / (64 * 3994))

/-- The device is in a stop, or on its way into one. -/
def State.inStop (s : State) : Bool := s.on .dbgHaltStatusHalted || s.on .dbgHaltStatusStopping

/-- Both directions of a port's link are recorded whole: everything up to the peer's marker has been accepted, and everything sent here has
been acknowledged (R424). -/
def Port.linkDone (x : Port) : Bool := x.linkShut || (x.past && x.sent.isEmpty)

/-- Every link record is closed. -/
def State.linksClosed (s : State) : Bool := (List.range 8).all (fun p => (s.port p).linkDone)

/-- LINKS_COMPLETE. -/
def State.linksComplete (s : State) : Bool := s.inStop && s.linksClosed && s.rd .dbgHaltStatusLinkLost == 0

/-- Is the block powered (DBG_BLOCK.POWERED)? -/
def State.blockPowered (s : State) (k : Nat) : Bool := decide (k ≥ 256) || !(s.tile k).gated

/-- What a code's running value reads as. -/
def crcFinal (poly c : Nat) : Nat := if poly % 4 < 2 then c ^^^ 0xFFFFFFFF else c

/-- What CRC_RESULT reads as. -/
def State.crcResult (s : State) : Nat := crcFinal (s.rd .crcCtrlPoly) s.crc.value

/-! ### Fields -/

/-- STATE of HF_COMP_STATUS (R369). -/
def CompMode.code : CompMode → Nat
  | .running => 0 | .restarting => 1 | .failed => 2 | .notStarted => 3

/-- Does INDEX of a select register name a present instance (R7, R59, R412)? -/
def indexOk (v : Variant) (f : Field) (i : Nat) : Bool :=
  match f with
  | .portSelIndex => decide (i < v.ports)
  | .tileSelIndex => decide (i < 256)
  | .qselIndex => decide (i < 128)
  | .hbmSelIndex => decide (i < v.hbmcs)
  | .groupSelIndex => decide (i < 64)
  | .cntSelIndex =>
    if 272 ≤ i ∧ i < 280 then decide (i - 272 < v.ports)
    else if 280 ≤ i ∧ i < 296 then decide (i - 280 < v.hbmcs)
    else decide (i ≤ 365)
  | _ => true

/-- SEL_ABSENT of the select register that holds an INDEX field, for an agent (R59). -/
def State.selAbsent (s : State) (f : Field) (agent : Nat) : Nat := b2n (!indexOk s.variant f (s.rd f agent))

/-- Entry j of a core's stack, counted from the bottom (R377). -/
def State.icEntry (s : State) (core j : Nat) : Nat × Nat := ((sget [] core s.ic.stack).reverse[j]?).getD (0, 0)

/-- Live fields of controllers, ports, groups, power blocks and cores (R236, R272, R330, R386, R409). -/
def State.liveUnit (s : State) (f : Field) (i sub : Nat) : Nat :=
  match f with
  | .hbmStatusTrained => b2n (sget {} i s.hbmcs).trained
  | .hbmStatusSelfRefresh => b2n (sget {} i s.hbmcs).selfRefresh
  | .hbmStatusRef2x => b2n (decide ((sget {} i s.hbmcs).temp > 85))
  | .hbmStatusTemp => (sget {} i s.hbmcs).temp
  | .portStatusLanesLocked => (s.port i).lanes
  | .portStatusHalfUpper => b2n (s.port i).halfUpper
  | .portStatusWidthHalf => b2n (s.port i).half
  | .portStatusState => (s.port i).mode.code
  | .collStatusState => match slook i s.colls with
    | none => 0
    | some x => if x.committed then 2 else 1
  | .collStatusStep => ((slook i s.colls).map (fun x => max 1 x.step)).getD 0
  | .pwrPbStatusGated => b2n (s.pbGated i)
  | .pwrPbStatusVsetEff => s.vsetEff i
  | .pwrPbStatusIssueEff => s.issueEff i
  | .pwrPbPace => s.pbPace i
  | .dbgBlockPowered => b2n (s.blockPowered i)
  | .icCur => sget 0 i s.ic.cur - 1
  | .icCoreStateDepth => (sget [] i s.ic.stack).length
  | .icStackPrio => (s.icEntry i sub).2
  | .icStackSource => (s.icEntry i sub).1
  | .portSelAbsent => s.selAbsent .portSelIndex i
  | .tileSelAbsent => s.selAbsent .tileSelIndex i
  | .qselAbsent => s.selAbsent .qselIndex i
  | .hbmSelAbsent => s.selAbsent .hbmSelIndex i
  | .groupSelAbsent => s.selAbsent .groupSelIndex i
  | .cntSelAbsent => s.selAbsent .cntSelIndex i
  | _ => s.rd f i sub

/-- Live fields of the device. Supply voltage and current are free at each read. -/
def State.liveDevice (s : State) (f : Field) (sub : Nat) : Nat :=
  match f with
  | .tlyNow => s.tally
  | .rtHeld0 => s.rtHeld 0
  | .rtHeld1 => s.rtHeld 1
  | .rtDrainEpoch1 => s.drainHeld sub 1
  | .rtDrainEpoch0 => s.drainHeld sub 0
  | .adtStatusFwReady => b2n s.adit.fwReady
  | .adtStatusBootFail => b2n s.adit.bootFail
  | .adtStatusLinkWidth => s.adit.width
  | .adtStatusLinkSpeed => s.adit.speed
  | .adtStatusBar2Size => s.adit.bar2Size
  | .hfCompStatusState => (s.comp sub).mode.code
  | .icSrcCfgPending => b2n (sget false sub s.ic.pending)
  | .icSrcCfgActive => b2n (sget false sub s.ic.active)
  | .icLampCtrlAsleep => b2n s.ic.asleep
  | .pwrStatusSafe => b2n s.safeMode
  | .dbgHaltStatusLinksComplete => b2n s.linksComplete
  | .crcCtrlBusy => b2n (decide (s.tally < s.crc.busyTill))
  | .crcCtrlScanBusy => b2n ((s.mbx.run.find? (fun r => r.comp == 5)).any (fun r => r.op == 0x0602) || s.rd .skpStatusState == 2 || s.rd .skpStatusState == 3)
  | .hfModStatusPwrgd => b2n s.mod.pwrgd
  | .hfModStatusAlert => b2n s.mod.warned
  | .hfModVin => Config.freeValue s.free
  | .hfModIin => Config.freeValue (s.free + 1)
  | _ => s.rd f 0 sub

/-- A live field (R15). -/
def State.live (s : State) (f : Field) (inst sub : Nat) : Nat :=
  match f.info.space with
  | .tile => s.liveTile f inst sub
  | .queue => s.qOcc (inst / 128) (inst % 128)
  | .none => s.liveDevice f sub
  | _ => s.liveUnit f inst sub

/-- What a read of a field returns: the live value, the stored value, or zero for a write-only field. Channel 63 is the event channel (R370). -/
def State.val (s : State) (f : Field) (inst sub : Nat) : Nat :=
  if f.info.acc = .wo then 0
  else if f.info.dom = .live then s.live f inst sub % 2 ^ f.info.width
  else if f = .crcResult then s.crcResult
  else if f = .mbxState ∧ inst = 63 then 3
  else s.rd f inst sub

end Sys2Proof.Machine
end

