-- ==== Sys2Proof/Machine/Regs.lean ====
section
/-! DEFINITION. The register space (R55 to R64): finding the fields at an offset, reading 4 and 8 bytes, and what a write
stores or clears. -/
namespace Sys2Proof.Machine

/-- Where an access meets a field: instance, array position, and which half of a 64-bit field. -/
structure Hit where
  f : Field
  inst : Nat
  sub : Nat
  half : Nat
deriving DecidableEq, Repr

/-- Array position and half of a field whose first element starts rel bytes before the access. -/
def FieldInfo.elem (i : FieldInfo) (rel : Nat) : Option (Nat × Nat) :=
  let sub := if i.cnt = 1 then 0 else rel / i.stride
  let rem := if i.cnt = 1 then rel else rel % i.stride
  if sub < i.cnt then
    if rem = 0 then some (sub, 0) else if i.wide && rem = 4 then some (sub, 1) else none
  else none

/-- Does the 4-byte word at a register-space offset hold (part of) a field, and of which instance (R57, R58)? -/
def Field.hit (f : Field) (off : Nat) (sel : Sel) : Option Hit :=
  let i := f.info
  if i.cr || off < i.off then none
  else
    let rel := off - i.off
    let mk (inst rel : Nat) : Option Hit := (i.elem rel).map (fun e => ⟨f, inst, e.1, e.2⟩)
    match i.space with
    | .none => mk 0 rel
    | .tile => mk sel.tile rel
    | .queue => mk (qInst sel.tile sel.q) rel
    | .port => mk sel.port rel
    | .hbmc => mk sel.hbmc rel
    | .group => mk sel.group rel
    | .block => mk sel.cnt rel
    | .agent => mk sel.agent rel
    | .chan => if rel / 0x4000 < 64 then mk (rel / 0x4000) (rel % 0x4000) else none
    | .pb => if rel / 0x40 < 16 then mk (rel / 0x40) (rel % 0x40) else none
    | .core => if rel / 0x80 < 4 then mk (rel / 0x80) (rel % 0x80) else none

/-- Every field of the word at an offset. -/
def hitsAt (off : Nat) (sel : Sel) : List Hit := Field.all.filterMap (fun f => f.hit off sel)

/-- Counter blocks the variant has (R412). -/
def State.blockPresent (s : State) (k : Nat) : Bool := indexOk s.variant .cntSelIndex k

/-- Is the instance that the governing selects name present (R7, R59)? A slot's own select register and the global page are not
governed; QSEL, and the tile's registers below the queues, are behind TILE_SEL alone (R57). -/
def State.selPresent (s : State) (off : Nat) (sel : Sel) : Bool :=
  if off % 0x100000 ≥ 0xF0000 ∨ off % 0x100000 = 0 then true
  else match off / 0x1000000 with
  | 5 => decide (sel.port < s.variant.ports)
  | 6 => decide (sel.tile < 256) && (off % 0x100000 < 0x50004 || off % 0x100000 ≥ 0x60000 || decide (sel.q < 128))
  | 7 => decide (sel.hbmc < s.variant.hbmcs)
  | 8 => decide (sel.group < 64)
  | 9 => s.blockPresent sel.cnt
  | _ => true

/-- The register-space offset and selects of the counter whose shadow a block shows at shadow offset o' (R412, R413). -/
def shadowSource (blk o' : Nat) : Option (Nat × Sel) :=
  let plain := decide (o' < 0x50000) || decide (0x80000 ≤ o' ∧ o' < 0xC0000)
  let o := if 0xC0000 ≤ o' then o' + 0x30000 else o'
  if !plain ∧ o' < 0xC0000 then
    if blk < 256 ∧ 0x60000 ≤ o' ∧ o' < 0x60000 + 0x40 * 128 then
      some (0x06000000 + 0x50004 + (o' - 0x60000) % 0x40, { tile := blk, q := (o' - 0x60000) / 0x40 })
    else none
  else if blk < 256 then (if o < 0xF0000 then some (0x06000000 + o, { tile := blk }) else none)
  else if blk < 272 then (if o' = 0x100 ∨ o' = 0x104 ∨ o' = 0x108 ∨ o' = 0x10C then some (0x09000000 + o', { cnt := blk }) else none)
  else if blk < 280 then some (0x05000000 + o, { port := blk - 272 })
  else if blk < 296 then (if o < 0xF0000 then some (0x07000000 + o, { hbmc := blk - 280 }) else none)
  else if blk < 360 then some (0x08000000 + o, { group := blk - 296 })
  else if blk = 360 then some (0x03000000 + o, {})
  else if blk = 361 then some (0x04000000 + o, {})
  else if blk = 362 then some (0x02000000 + o, {})
  else if blk = 363 then (if o < 0x20000 then some (o, {}) else none)
  else if blk = 364 then (if o = 0xF0000 ∨ o = 0xF0004 then some (0x06000000 + o, {}) else none)
  else if blk = 365 then (if o ≥ 0xF0000 then some (0x09000000 + o, {}) else none)
  else none

/-- The part of a field's value that shows in the 4-byte word of a hit. -/
def Hit.word (h : Hit) (v : Nat) : Nat :=
  if h.f.info.wide then (v >>> (32 * h.half)) % 2 ^ 32 else (v % 2 ^ h.f.info.width) <<< h.f.info.lo

/-- Mailbox buffers are held as bytes of memory: the word at their register-space offset (R357). -/
def isMbxBuffer (off : Nat) : Bool :=
  decide (0x01000000 ≤ off ∧ off < 0x01100000) && decide (off % 0x4000 ≥ 0x40)

/-- The 4-byte word of the register space at an offset, for given selects; offsets that name no register, and absent
instances, read zero (R7, R56). -/
def State.word (s : State) (off : Nat) (sel : Sel) : Nat :=
  if off / 0x100000 % 16 ≠ 0 then 0
  else if isMbxBuffer off then leNat (s.bytes (0x200000000 + off) 4)
  else if !s.selPresent off sel then 0
  else if 0x09010000 ≤ off ∧ off < 0x09100000 - 0x10000 then
    match shadowSource sel.cnt (off - 0x09010000) with
    | none => 0
    | some (o, sl) =>
      (hitsAt o sl).foldl (fun acc h =>
        if h.f.info.counter then acc + h.word (sget 0 (fkey h.f h.inst h.sub) s.shadows) else acc) 0
  else (hitsAt off sel).foldl (fun acc h => acc + h.word (s.val h.f h.inst h.sub)) 0

/-- A written value without the reserved bits inside a field: the low 20 bits of a window base (R338), bit 4p+3 of FAB_PORT_DIM for
each port p (R293). -/
def Hit.unreserved (h : Hit) (v : Nat) : Nat :=
  if h.f = .adtWinBase ∧ h.half = 0 then v / 0x100000 * 0x100000
  else if h.f = .fabPortDim then v &&& 0x77777777
  else v

/-- What a 4-byte write stores in one field (access codes before R12): RW takes the bits, W1C clears the bits written 1,
RO and WO store nothing. -/
def State.writeHit (s : State) (h : Hit) (v : Nat) : State :=
  let i := h.f.info
  let v := h.unreserved v
  match i.acc with
  | .rw =>
    if i.wide then
      let old := s.rd h.f h.inst h.sub
      s.wr h.f h.inst h.sub (if h.half = 0 then old / 2 ^ 32 * 2 ^ 32 + v % 2 ^ 32 else old % 2 ^ 32 + v % 2 ^ 32 * 2 ^ 32)
    else s.wr h.f h.inst h.sub (v >>> i.lo)
  | .w1c => if bitOf v i.lo then s.wr h.f h.inst h.sub 0 else s
  | _ => s

/-- A 4-byte write of plain storage at an offset. -/
def State.storeWord (s : State) (off : Nat) (sel : Sel) (v : Nat) : State :=
  if isMbxBuffer off then s.setBytes (0x200000000 + off) (natLe 4 v)
  else (hitsAt off sel).foldl (fun s h => s.writeHit h v) s

/-- The fields that an error record under a VALID bit holds (R99, R169, R189, R220, R236, R242). -/
def recordOf : Field → List Field
  | .opeErrInfoValid => [.opeErrInfoReason, .opeErrWord0, .opeErrWord1]
  | .veErrInfoValid => [.veErrInfoReason, .veErrWord]
  | .spdErrInfoValid => [.spdErrInfoUe, .spdErrInfoBank, .spdErrInfoSource, .spdErrInfoWord, .spdErrSyndSyndrome]
  | .hbmErrInfoValid => [.hbmErrInfoUe, .hbmErrInfoSource, .hbmErrInfoSymbols, .hbmErrLine]
  | .hstErrInfoValid => [.hstErrInfoQueue, .hstErrInfoStatus, .hstErrTag, .hstErrAddr]
  | .tileFaultInfoValid => [.tileFaultInfoCause, .tileFaultPc]
  | .portDownInfoValid => [.portDownInfoReason, .portDownAt]
  | .collAbortInfoValid => [.collAbortInfoReason, .collAbortInfoMember, .collAbortTag]
  | .icStackInfoValid => [.icStackInfoEmpty, .icStackInfoCore, .icStackInfoWritten, .icStackInfoTop]
  | .rasPmStatusValid => [.rasPmStatusIncomplete, .rasPmStatusLength, .rasPmAt]
  | .rasHangInfoValid => [.rasHangInfoKind, .rasHangInfoTile, .rasHangInfoStage, .rasHangInfoWaiters, .rasHangInfoPeerDevice,
      .rasHangInfoPeerTile, .rasHangAt]
  | _ => []

/-- A VALID bit that sets raises the source of its tile or controller (R371). -/
def State.validIrq (s : State) (f : Field) (inst : Nat) : State :=
  match f with
  | .opeErrInfoValid => s.irq inst
  | .veErrInfoValid => s.irq inst
  | .hstErrInfoValid => s.irq inst
  | .spdErrInfoValid => s.irq inst
  | .hbmErrInfoValid => s.irq (328 + inst)
  | _ => s

/-- Hardware sets W1C bits of a word in the same access that writes it: after the write, each reads 1 (R12). A bit that the write
cleared, or that was clear, takes its record's new values (R99); one that was set and stays so keeps its record. -/
def State.setW1c (s : State) (off : Nat) (sel : Sel) (sets : Nat) (info : List Nat) : State :=
  (hitsAt off sel).foldl (fun s h =>
    if h.f.info.acc = .w1c ∧ bitOf sets h.f.info.lo ∧ !s.on h.f h.inst h.sub then
      (((recordOf h.f).zip info).foldl (fun s p => s.wr p.1 h.inst 0 p.2) (s.wr h.f h.inst h.sub 1)).validIrq h.f h.inst
    else s) s

/-! ### The latch of 64-bit read-only registers -/

/-- The select values that govern an offset (R63). -/
def governing (off : Nat) (sel : Sel) : List Nat :=
  if off % 0x100000 ≥ 0xF0000 ∨ off % 0x1000000 = 0 then []
  else match off / 0x1000000 with
  | 5 => [sel.port]
  | 6 => if 0x50000 ≤ off % 0x100000 ∧ off % 0x100000 < 0x60000 then [sel.tile, sel.q] else [sel.tile]
  | 7 => [sel.hbmc]
  | 8 => [sel.group]
  | 9 => [sel.cnt]
  | _ => []

/-- Which half of a 64-bit RO register the word at an offset is (R14); counter shadows are such registers. -/
def roHalf (off : Nat) (sel : Sel) : Option Nat :=
  let hits :=
    if 0x09010000 ≤ off ∧ off < 0x090F0000 then
      match shadowSource sel.cnt (off - 0x09010000) with
      | none => []
      | some (o, sl) => (hitsAt o sl).filter (fun h => h.f.info.counter)
    else if isMbxBuffer off then [] else hitsAt off sel
  (hits.find? (fun h => h.f.info.wide && h.f.info.acc == .ro)).map (fun h => h.half)

/-- A 4-byte read by a requester (R14, R63): the low half of a 64-bit RO register latches its high half; a high half answers the latch that
matches its tag, or its live value, which counts. Requesters are the agents, and 16 + t for tile t's core. -/
def State.latchRead (s : State) (i off : Nat) (sel : Sel) (live : Nat) : State × Nat :=
  match roHalf off sel with
  | none => (s, live)
  | some 0 => ({ s with latches := sset i (some ⟨off, governing off sel, s.word (off + 4) sel⟩) s.latches }, live)
  | some _ =>
    match slook i s.latches with
    | some l => if l.off = off - 4 ∧ l.sel = governing (off - 4) sel then (s, l.hi) else (s.bump .hfLatchMiss, live)
    | none => (s.bump .hfLatchMiss, live)

end Sys2Proof.Machine
end

