-- ==== Sys2Proof/Machine/TileCore.lean ====
section
/-! DEFINITION. The tile core (R161 to R174, R177 to R182): fetch and decode from bank CB, the integer, memory, branch,
control-register, queue, semaphore, issue and event instructions, and the returns from their waits. -/
namespace Sys2Proof.Machine

/-! ### The instruction word -/

/-- The operations of a tile-core instruction word, one for each row of the opcode table that retires from CB. -/
inductive CoreOp where
  | add | sub | and | or | xor | sll | srl | sra | slt | sltu | mul | mulh | mulhu | min | max | minu | maxu | lui
  | load | store | beq | bne | blt | bge | bltu | bgeu | jal | jalr | crd | cwr
  | post | postNb | pop | semSig | semSigr | semWait | semTry | semRd | opeIssue | veIssue | wait | waitc
  | specOpen | specBegin | specEnd | specWait | specResolve | fenceMem | brk
deriving DecidableEq, Repr

/-- Fields of a word (R162). -/
structure CoreWord where
  cls : Nat
  rd : Nat
  rs1 : Nat
  rs2 : Nat
  imm : Nat
deriving DecidableEq, Repr

/-- Splits a word into its fields (R162). -/
def coreFields (w : Nat) : CoreWord :=
  ⟨bitsOf w 31 28, bitsOf w 27 23, bitsOf w 22 18, bitsOf w 17 13, bitsOf w 12 0⟩

/-- FUNC and IMM8 (R162). -/
def CoreWord.func (c : CoreWord) : Nat := bitsOf c.imm 12 8
def CoreWord.imm8 (c : CoreWord) : Nat := bitsOf c.imm 7 0

/-- The signed immediate IMM13. -/
def CoreWord.simm (c : CoreWord) : Int := toSigned 13 c.imm

/-- Integer operation of a code (R164). -/
def aluOf : Nat → Option CoreOp
  | 0x00 => some .add | 0x01 => some .sub | 0x02 => some .and | 0x03 => some .or | 0x04 => some .xor
  | 0x05 => some .sll | 0x06 => some .srl | 0x07 => some .sra | 0x08 => some .slt | 0x09 => some .sltu
  | 0x0A => some .mul | 0x0B => some .mulh | 0x0C => some .mulhu | 0x0D => some .min | 0x0E => some .max
  | 0x0F => some .minu | 0x10 => some .maxu | _ => none

/-- Operation that a word names; none is an illegal CLASS or FUNC (R162 to R166). -/
def coreDecode (c : CoreWord) : Option CoreOp :=
  match c.cls with
  | 0 => aluOf (bitsOf c.imm 5 0)
  | 1 => if c.rs2 = 0x1F then some .lui else if c.rs2 = 0x01 then none else aluOf c.rs2
  | 2 => some .load
  | 3 => some .store
  | 4 =>
    if bitsOf c.rd 4 3 ≠ 0 then none
    else match c.rd with
      | 0 => some .beq | 1 => some .bne | 2 => some .blt | 3 => some .bge
      | 4 => some .bltu | 5 => some .bgeu | 6 => some .jal | _ => some .jalr
  | 5 => if c.rd = 0 then some .cwr else some .crd
  | 6 => match c.func with
      | 0 => some .post | 1 => some .postNb | 2 => some .pop | 3 => some .semSig | 4 => some .semSigr
      | 5 => some .semWait | 6 => some .semTry | 7 => some .semRd | _ => none
  | 7 => match c.func with
      | 0 => some .opeIssue | 1 => some .veIssue | _ => none
  | 8 => match c.func with
      | 0 => some .wait | 1 => some .waitc | _ => none
  | 9 => match c.func with
      | 1 => some .specOpen | 2 => some .specBegin | 3 => some .specEnd | 4 => some .specWait | 5 => some .specResolve
      | 6 => some .fenceMem | 7 => some .brk | _ => none
  | _ => none

/-! ### Registers, retirement and faults -/

/-- x[i]; x0 reads zero, and every register holds 64 bits (R161). -/
def Core.get (c : Core) (i : Nat) : Nat := if i = 0 then 0 else sget 0 i c.x % 2 ^ 64

/-- Writes x[i], modulo 2^64; a write to x0 is ignored (R161). -/
def Core.set (c : Core) (i v : Nat) : Core := if i = 0 then c else { c with x := sput 0 i (v % 2 ^ 64) c.x }

/-- Changes the tile core of tile t. -/
def State.onCore (s : State) (t : Nat) (f : Core → Core) : State := s.onTile t (fun x => { x with core := f x.core })

/-- x[i] of tile t. -/
def State.xr (s : State) (t i : Nat) : Nat := (s.tile t).core.get i

/-- Writes x[i] of tile t. -/
def State.xw (s : State) (t i v : Nat) : State := s.onCore t (fun c => c.set i v)

/-- An instruction retires (TILE_INSTR) and the next one is at pc. -/
def State.retireTo (s : State) (t pc : Nat) : State :=
  (s.onCore t (fun c => { c with pc := pc % 2 ^ 32, wait := .running })).cnt .tileInstr t 0 1 |>.activity t 7 1

/-- An instruction retires and the core goes on at pc + 4. -/
def State.retire (s : State) (t : Nat) : State := s.retireTo t ((s.tile t).core.pc + 4)

/-- The instruction does not retire yet: the core waits (R174, R191). -/
def State.park (s : State) (t : Nat) (w : Wait) : State := s.onCore t (fun c => { c with wait := w })

/-- A precise fault (R169): the core stops at the instruction, the first cause is recorded, TILE_FAULTS counts, and the RAS
agent receives an error. R169 calls the error contained, while R438 lists a tile-core fault among the examples of class 2: the model's
choice is class 2 (log 68). -/
def State.coreFault (s : State) (t cause : Nat) : State :=
  let pc := (s.tile t).core.pc
  let s := s.onCore t (fun c => { c with mode := .faulted, wait := .running })
  let s := if s.on .tileFaultInfoValid t then s
    else ((s.wr .tileFaultInfoCause t 0 cause).wr .tileFaultPc t 0 pc).wr .tileFaultInfoValid t 0 1
  ((s.cnt .tileFaults t 0 1).reportTile 2 t (0x300 + cause) pc).irq t

/-- Mark of an access of a kind that bank b of tile u holds. -/
def holdKey (kind u : Nat) (b : BankId) : Nat := 1000 + (kind * 256 + u) * 8 + bankIdx b

/-- Is a mark one of a kind? -/
def holdOf (kind key : Nat) : Bool := decide (1000 + kind * 2048 ≤ key ∧ key < 1000 + (kind + 1) * 2048)

/-- Does a clearing bank hold an access of a kind? -/
def Tile.holds (x : Tile) (kind : Nat) : Bool := x.held.any (holdOf kind)

/-- Marks the first time that a unit's access is held by a clearing bank, once for each bank that it meets (R223); kinds: 0 core, 1 OPE operands,
2 VE, 4 seam, 5 OPE drain, 6 OPE bias, 7 commit write-back; hoist queue q is 16 + q. `n` is how many accesses it holds. A branch holds the count of its own work (R155). -/
def State.holdAccess (s : State) (t : Nat) (b : BankId) (kind : Nat) (slot : Option Nat := none) (n : Nat := 1) : State :=
  let key := holdKey kind t b
  if (s.tile t).held.contains key then s
  else (s.onTile t (fun x => { x with held := key :: x.held })).effCnt t slot .spdClearHold (bankIdx b) n

/-- Counts the deferral of a non-master access once (R214); kinds: 8 commit write-back, 9 core load or store. -/
def State.deferOnce (s : State) (t : Nat) (b : BankId) (kind : Nat) : State :=
  if (s.tile t).held.contains kind then s
  else (s.onTile t (fun x => { x with held := kind :: x.held })).cnt .spdDefer t (bankIdx b) 1

/-- The held or deferred access of a unit is performed. -/
def State.unhold (s : State) (t kind : Nat) : State :=
  s.onTile t (fun x => { x with held := x.held.filter (fun k => k != kind && !holdOf kind k) })

/-- The core can execute: running, not waiting, its tile active. -/
def Tile.coreReady (x : Tile) : Bool := x.active && x.core.mode == .running && x.core.wait == .running

/-- One tile-core instruction. The core fetches the word at its program counter from CB (as CB's master); a program counter
outside CB, a poisoned word or an illegal word faults. When the word is the operation the command names, `exec` gives its
effect; when it is another, or the core cannot execute, nothing changes (assumption log 5). -/
def State.coreRow (s : State) (t : Nat) (op : CoreOp) (exec : State → CoreWord → State) : State :=
  let x := s.tile t
  let pc := x.core.pc
  if !x.coreReady then s
  else if pc + 4 > bankSize .cb then s.coreFault t 4
  else if s.clearing t .cb then s.holdAccess t .cb 0
  else
    let r := s.spdRead t .cb 0 pc 4
    let c := coreFields (leNat r.2.1)
    if r.2.2 then (r.1.bankCount t .cb true 1).coreFault t 5
    else match coreDecode c with
      | none => (r.1.bankCount t .cb true 1).coreFault t 1
      | some o => if o = op then exec ((r.1.unhold t 0).bankCount t .cb true 1) c else s

/-! ### Integer operations (R164) -/

/-- Second operand: x[RS2] in class 0; in class 1 the immediate, extended as R164 says for the operation. -/
def aluB (s : State) (t : Nat) (op : CoreOp) (c : CoreWord) : Nat :=
  if c.cls = 0 then s.xr t c.rs2
  else match op with
    | .and | .or | .xor => c.imm
    | .sll | .srl | .sra => bitsOf c.imm 5 0
    | _ => ofSigned 64 c.simm

/-- Result of an integer operation on 64-bit values (R164). -/
def aluResult (op : CoreOp) (a b : Nat) : Nat :=
  let sa := toSigned 64 a
  let sb := toSigned 64 b
  match op with
  | .add => (a + b) % 2 ^ 64
  | .sub => (2 ^ 64 + a - b % 2 ^ 64) % 2 ^ 64
  | .and => a &&& b
  | .or => a ||| b
  | .xor => a ^^^ b
  | .sll => (a <<< (b % 64)) % 2 ^ 64
  | .srl => a >>> (b % 64)
  | .sra => ofSigned 64 (sa / (2 ^ (b % 64) : Int))
  | .slt => b2n (decide (sa < sb))
  | .sltu => b2n (decide (a < b))
  | .mul => (a * b) % 2 ^ 64
  | .mulh => ofSigned 64 (sa * sb / (2 ^ 64 : Int))
  | .mulhu => a * b / 2 ^ 64
  | .min => if sa ≤ sb then a else b
  | .max => if sa ≤ sb then b else a
  | .minu => Nat.min a b
  | .maxu => Nat.max a b
  | _ => 0

/-- An integer instruction of class 0 or 1. -/
def State.alu (s : State) (t : Nat) (op : CoreOp) : State :=
  s.coreRow t op (fun s c => (s.xw t c.rd (aluResult op (s.xr t c.rs1) (aluB s t op c))).retire t)

/-- LUI: {RS1 field, IMM13} sign-extended and multiplied by 2^13 (R164). -/
def State.lui (s : State) (t : Nat) : State :=
  s.coreRow t .lui (fun s c => (s.xw t c.rd (ofSigned 64 (toSigned 18 (c.rs1 * 2 ^ 13 + c.imm) * 2 ^ 13))).retire t)

/-! ### Loads and stores (R162, R168) -/

/-- Where a load or store of n bytes at an address goes: a bank and offset of the core's own tile, or a fault cause: 2 for an
address outside its five banks (R50, R51), 3 for a misaligned one, which is judged first (assumption log 12). -/
def coreAddr (t a n : Nat) : Except Nat (BankId × Nat) :=
  if a % n ≠ 0 then .error 3
  else if a / 0x800000 ≠ t then .error 2
  else match bankAt (a % 0x800000) with
    | none => .error 2
    | some b => .ok (b, a % 0x800000 - bankBase b)

/-- A fault of a load or store; a decode fault also counts TILE_DECODE_ERR (R51, R169). -/
def State.memFault (s : State) (t cause a : Nat) : State :=
  (if cause = 2 then s.decodeError (.core t) a else s).coreFault t cause

/-- LOAD (R162): x[RD] gets 1, 2, 4 or 8 bytes, sign-extended when RS2 bit 2 is set. A clearing bank holds the load; one with
requests that wait ahead defers it (R214). -/
def State.load (s0 : State) (t : Nat) : State :=
  s0.coreRow t .load (fun s c =>
    let n := 2 ^ (c.rs2 % 4)
    let a := ofSigned 64 ((s.xr t c.rs1 : Int) + c.simm)
    match coreAddr t a n with
    | .error e => s.memFault t e a
    | .ok (b, off) =>
      if s.clearing t b then s0.holdAccess t b 0
      else if b ≠ .cb ∧ !(s.bank t b).waiting.isEmpty then s0.deferOnce t b 9
      else
        let s := s.unhold t 9
        let r := s.spdRead t b (b2n (b ≠ .cb)) off n
        let s1 := r.1.bankCount t b (b = .cb) 1
        if r.2.2 then s1.coreFault t 5
        else
          let v := leNat r.2.1
          (s1.xw t c.rd (if bitOf c.rs2 2 then ofSigned 64 (toSigned (8 * n) v) else v)).retire t)

/-- STORE (R162, R168): 1, 2, 4 or 8 bytes of x[RS2]. CB accepts it at once; another bank accepts it at once when nothing
waits there. Otherwise a store of a whole word waits in the bank's queue at priority 3 and the core goes on, while a store that must merge with its
word keeps the core at the instruction until its bank can take it: only then is it known whether the merge meets poison, which is a precise fault
(R169, R218; DEDUCED, log 91). -/
def State.store (s0 : State) (t : Nat) : State :=
  s0.coreRow t .store (fun s c =>
    let n := 2 ^ (c.rd % 4)
    let a := ofSigned 64 ((s.xr t c.rs1 : Int) + c.simm)
    let bs := natLe n (s.xr t c.rs2)
    match coreAddr t a n with
    | .error e => s.memFault t e a
    | .ok (b, off) =>
      if (b = .cb ∨ n < 8) ∧ s.clearing t b then s0.holdAccess t b 0
      else if b ≠ .cb ∧ n < 8 ∧ !(s.bank t b).waiting.isEmpty then s0.deferOnce t b 9
      else if n < 8 ∧ s.mark (spdAddr t b (off / 8 * 8)) = 2 ∧ (b ≠ .sb ∨ ((s.tile t).shadowLine off).isNone) then
        (((s.unhold t 9).bankCount t b (b = .cb) 1).spdWrite t b off bs).coreFault t 5
      else if b = .cb ∨ (!(s.clearing t b) ∧ (s.bank t b).waiting.isEmpty) then
        (((s.unhold t 9).bankCount t b (b = .cb) 1).spdWrite t b off bs).retire t
      else
        let s1 := if s.clearing t b then s.cnt .spdClearHold t (bankIdx b) 1 else s
        let bk := s1.bank t b
        (s1.setBank t b { bk with waiting := bk.waiting ++ [{ req := { cls := 3, write := true, off := off, len := n, data := bs, who := .core t } }] }).retire t)

/-! ### Branches (R165) -/

/-- Condition of a conditional branch. -/
def branchTaken (op : CoreOp) (a b : Nat) : Bool :=
  match op with
  | .beq => a == b
  | .bne => a != b
  | .blt => decide (toSigned 64 a < toSigned 64 b)
  | .bge => decide (toSigned 64 b ≤ toSigned 64 a)
  | .bltu => decide (a < b)
  | .bgeu => decide (b ≤ a)
  | _ => false

/-- Program counter plus a signed displacement, modulo 2^32. -/
def pcPlus (pc : Nat) (d : Int) : Nat := ofSigned 32 ((pc : Int) + d)

/-- A conditional branch: PC + IMM13 * 4 when the condition holds, PC + 4 otherwise. -/
def State.branch (s : State) (t : Nat) (op : CoreOp) : State :=
  s.coreRow t op (fun s c =>
    if branchTaken op (s.xr t c.rs1) (s.xr t c.rs2) then s.retireTo t (pcPlus (s.tile t).core.pc (c.simm * 4))
    else s.retire t)

/-- JAL: the link to x[RS2], then a relative jump by {RS1 field, IMM13} * 4. -/
def State.jal (s : State) (t : Nat) : State :=
  s.coreRow t .jal (fun s c =>
    let pc := (s.tile t).core.pc
    (s.xw t c.rs2 (pc + 4)).retireTo t (pcPlus pc (toSigned 18 (c.rs1 * 2 ^ 13 + c.imm) * 4)))

/-- JALR: the target from x[RS1] before the link is written to x[RS2]; bits 1:0 cleared. A target beyond 32 bits lies outside
CB whatever its low bits, so the program counter keeps every bit of it up to 2^64. -/
def State.jalr (s : State) (t : Nat) : State :=
  s.coreRow t .jalr (fun s c =>
    let pc := (s.tile t).core.pc
    let target := ofSigned 64 ((s.xr t c.rs1 : Int) + c.simm) / 4 * 4
    let s := ((s.xw t c.rs2 (pc + 4)).cnt .tileInstr t 0 1).activity t 7 1
    s.onCore t (fun k => { k with pc := target }))

/-! ### Control registers (R167) -/

/-- Register-space offset and selects of a tile core's control-register address: the TILE_ slot of its own tile, with the
queue registers at 0x6_0000 + 0x40 q + m. Slot offsets 0x5_0000 to 0x5_FFFF, which QSEL would govern, name nothing here, nor does
offset 0, TILE_SEL: a CRD of them reads zero, a CWR is discarded (log 67). -/
def crPlace (t a : Nat) : Nat × Sel :=
  if 0x60000 ≤ a ∧ a < 0x62000 then (0x06050004 + a % 0x40, { tile := t, q := (a - 0x60000) / 0x40 })
  else if 0x50000 ≤ a ∧ a < 0x60000 then (0x060E0000, { tile := t })
  else (0x06000000 + a, { tile := t })

/-- CRD: a 32-bit register, zero-extended into x[RD], with the core's own latch for the halves of a 64-bit read-only one (R14); an
offset that names no register reads zero. -/
def State.crd (s : State) (t : Nat) : State :=
  s.coreRow t .crd (fun s c =>
    let a := ofSigned 64 ((s.xr t c.rs1 : Int) + c.simm)
    if a % 4 ≠ 0 then s.coreFault t 3
    else if a < 4 ∨ a ≥ 0x100000 then (s.xw t c.rd 0).retire t
    else
      let p := crPlace t a
      let r := s.latchRead (16 + t) p.1 p.2 (s.word p.1 p.2)
      (r.1.xw t c.rd r.2).retire t)

/-- The registers a tile core may write (R167). -/
def cwrAllowed (f : Field) : Bool :=
  [Field.tileSrKey, .tileSrTag, .veFmodeFlush, .tilePhasePhase, .tileWakeAt, .tileSemWatchSem, .tileSemWatchThresh,
   .tileSpecLimitNs, .opeErrInfoValid, .veErrInfoValid].contains f ||
  (NumEngine.ope.flagFields ++ NumEngine.ve.flagFields ++ NumEngine.hst.flagFields ++ NumEngine.seam.flagFields).contains f

/-- A write of the phase marker: a changed value is stamped and counted (R182); a tile without a valid replica stamps no event (R42). -/
def State.phaseWrite (s : State) (t v : Nat) : State :=
  let old := s.rd .tilePhasePhase t
  let s := (s.phaseMark t).wr .tilePhasePhase t 0 v
  if s.rd .tilePhasePhase t = old ∨ !(s.tile t).tallyValid then s
  else (s.wr .tilePhaseAt t 0 s.tally).cnt .tilePhaseChg t 0 1

/-- CWR: writes the register when R167 allows it; any other write is discarded and counted. W1C bits that the engines set in the same
access win (R12). -/
def State.cwr (s : State) (t sets : Nat) (info : List Nat) : State :=
  s.coreRow t .cwr (fun s c =>
    let a := ofSigned 64 ((s.xr t c.rs1 : Int) + c.simm)
    if a % 4 ≠ 0 then s.coreFault t 3
    else
      let v := s.xr t c.rs2 % 2 ^ 32
      let hs := if a < 4 ∨ a ≥ 0x100000 then [] else (hitsAt (crPlace t a).1 (crPlace t a).2).filter (fun h => cwrAllowed h.f)
      if hs.isEmpty then (s.cnt .tileCrWrDeny t 0 1).retire t
      else if a = 0x8510 then (s.phaseWrite t v).retire t
      else ((hs.foldl (fun s h => s.writeHit h v) s).setW1c (crPlace t a).1 (crPlace t a).2 sets info).retire t)

/-! ### Queues (R177 to R179, R510) -/

/-- Words of a span of CB that hold poison. -/
def State.poisonWords (s : State) (t : Nat) (b : BankId) (off n : Nat) : List Nat :=
  (List.range (n / 8)).filter (fun i => s.mark (spdAddr t b ((off / 8 + i) * 8)) == 2)

/-- A local post to a queue that is disabled (3), has room (0), or is full (1). -/
def State.postLocal (s : State) (t q : Nat) (entry : Nat) : State × Nat :=
  if !s.qEnabled t q then (s.cnt .tileQDropDisabled (qInst t q) 0 1, 3)
  else if s.qOcc t q ≥ s.qDepth t q then (s, 1)
  else
    let r := s.spdRead t .cb 0 entry 64
    ((r.1.bankCount t .cb true 1).qAdmit t q r.2.1 (s.poisonWords t .cb entry 64) (q < 96), 0)

/-- A remote post: a POST packet on VC2 (R177). -/
def State.postRemote (s : State) (t entry target : Nat) : State :=
  let r := s.spdRead t .cb 0 entry 64
  (r.1.bankCount t .cb true 1).send (s.tilePacket t
    { ty := 2, vc := 2, dstDev := targetDev target, dstTile := targetTile target, dstQueue := targetQueue target, len := 64,
      payload := r.2.1, poison := s.poisonWords t .cb entry 64, onDie := bitOf target 35 })

/-- POST and POST.NB (R177): a local POST waits while the queue is full. A clearing bank holds a local post to its queues (R223). -/
def State.postOp (s0 : State) (t : Nat) (nb : Bool) : State :=
  s0.coreRow t (if nb then .postNb else .post) (fun s c =>
    let e := s.xr t c.rs1
    let target := s.xr t c.rs2
    if e + 64 > bankSize .cb then s.memFault t 2 e
    else if e % 64 ≠ 0 then s.coreFault t 3
    else if s.targetHere target && targetTile target == t then
      if s.clearing t (qBank (targetQueue target)) then s0.holdAccess t (qBank (targetQueue target)) 0 else
      let r := s.postLocal t (targetQueue target) e
      if r.2 = 1 ∧ !nb then s.park t (.post c.rd e target)
      else (r.1.xw t c.rd r.2).retire t
    else ((s.postRemote t e target).xw t c.rd 2).retire t)

/-- A blocked local POST goes on once its queue has room or is disabled (R177, R178). -/
def State.postUnblock (s : State) (t : Nat) : State :=
  match (s.tile t).core.wait with
  | .post rd e target =>
    if !(s.tile t).active ∨ s.clearing t (qBank (targetQueue target)) ∨ s.clearing t .cb then s
    else
      let r := s.postLocal t (targetQueue target) e
      if r.2 = 1 then s else (r.1.xw t rd r.2).retire t
  | _ => s

/-- POP (R179, R510): the head entry of a command queue moves to a CB offset, poison with it; an empty queue writes 0. Where the rule is silent, the
model's choice (log 12): an entry that would reach beyond CB raises cause 0x02, and an offset that is not aligned is taken as it is, the poison of the
entry's word w then going to word d / 8 + w. -/
def State.popOp (s : State) (t : Nat) : State :=
  s.coreRow t .pop (fun s c =>
    let q := c.imm8 % 64
    let d := s.xr t c.rs1
    if !s.qEnabled t q || s.qOcc t q = 0 then (s.xw t c.rd 0).retire t
    else if d + 64 > bankSize .cb then s.memFault t 2 d
    else
      let src := s.qLine t q (s.rd .tileQHead (qInst t q))
      let bad := s.poisonWords t .cb src 64
      let r := s.spdRead t .cb 0 src 64
      let s1 := (r.1.bankCount t .cb true 2).spdWrite t .cb d r.2.1
      let s2 := bad.foldl (fun s w => s.spdPoisonWord t .cb (d / 8 + w)) s1
      ((s2.qDropHead t q).xw t c.rd 1).retire t)

/-! ### Semaphores (R180) -/

/-- SEM.SIG. -/
def State.semSig (s : State) (t : Nat) : State :=
  s.coreRow t .semSig (fun s c => (s.semAdd t (c.imm8 % 64) (s.xr t c.rs1)).retire t)

/-- SEM.SIGR: to another tile on VC2 or on its stream's VC (State.signalVc), directly to its own. -/
def State.semSigr (s : State) (t : Nat) : State :=
  s.coreRow t .semSigr (fun s c => (s.signal t (c.imm8 % 64) (s.xr t c.rs1) (s.xr t c.rs2) (s.signalVc t (c.imm8 % 64) (s.xr t c.rs2))).retire t)

/-- SEM.WAIT: takes the amount at once when the semaphore holds it, and waits otherwise. -/
def State.semWait (s : State) (t : Nat) : State :=
  s.coreRow t .semWait (fun s c =>
    let k := c.imm8 % 64
    let a := s.xr t c.rs1 % 2 ^ 32
    if s.semHas t k a then (s.semTake t k a).retire t else s.park t (.sem k a))

/-- A waiting SEM.WAIT is satisfied. -/
def State.semWaitDone (s : State) (t : Nat) : State :=
  match (s.tile t).core.wait with
  | .sem k a => if (s.tile t).active && s.semHas t k a then (s.semTake t k a).retire t else s
  | _ => s

/-- SEM.TRY. -/
def State.semTry (s : State) (t : Nat) : State :=
  s.coreRow t .semTry (fun s c =>
    let k := c.imm8 % 64
    let a := s.xr t c.rs1
    if s.semHas t k a then ((s.semTake t k a).xw t c.rd 1).retire t else (s.xw t c.rd 0).retire t)

/-- SEM.RD. -/
def State.semRd (s : State) (t : Nat) : State :=
  s.coreRow t .semRd (fun s c => (s.xw t c.rd (s.rd .tileSem t (c.imm8 % 64))).retire t)

/-! ### Engine issue (R171, R96, R188) -/

/-- The slot that tags the next engine instruction, if any (R152). -/
def State.tag (s : State) (t : Nat) : Option Nat := (s.tile t).core.tagSlot

/-- Accounts for a tagged instruction at issue: discarded when its slot is not open (R158), else accepted. -/
def State.tagged (s : State) (t : Nat) : State × Bool :=
  match s.tag t with
  | none => (s, true)
  | some i =>
    let x := s.slot t i
    if x.mode = .opened then ((s.setSlot t i { x with live := x.live + 1 }).cnt .specInstr t 0 1, true)
    else (s.cnt .specStale t 0 1, false)

/-- The OPE accepts an instruction with the key and tag in force (R79, R156). -/
def State.opeAccept (s : State) (t w0 w1 : Nat) : State :=
  let r := s.tagged t
  if r.2 then
    let o := (s.tile t).ope
    let i : OpeInstr := { w0 := w0, w1 := w1, key := s.rd .tileSrKey t (bitsOf w0 4 2), tag := s.rd .tileSrTag t, slot := s.tag t,
                          cold := o.queue.isEmpty && o.run.isNone }
    r.1.onTile t (fun x => { x with ope := { x.ope with queue := x.ope.queue ++ [i] } })
  else r.1

/-- The VE accepts an instruction with the x registers its word names, read now (R171, R184). -/
def State.veAccept (s : State) (t w : Nat) : State :=
  let r := s.tagged t
  if r.2 then
    let i : VeInstr := { word := w, d := s.xr t (bitsOf w 43 39), a := s.xr t (bitsOf w 38 34), b := s.xr t (bitsOf w 33 29),
                         c := s.xr t (bitsOf w 28 24), n := s.xr t (bitsOf w 23 19) % 2 ^ 20, flush := s.on .veFmodeFlush t,
                         key := s.rd .tileSrKey t (bitsOf w 46 44), tag := s.rd .tileSrTag t, slot := s.tag t }
    r.1.onTile t (fun x => { x with ve := { x.ve with queue := x.ve.queue ++ [i] } })
  else r.1

/-- OPE.ISSUE: waits while the queue holds 8 (R96). -/
def State.opeIssue (s : State) (t : Nat) : State :=
  s.coreRow t .opeIssue (fun s c =>
    if (s.tile t).ope.queue.length ≥ 8 then s.park t (.ope (s.xr t c.rs1) (s.xr t c.rs2))
    else (s.opeAccept t (s.xr t c.rs1) (s.xr t c.rs2)).retire t)

/-- Instructions that the VE holds: issued and not yet completed (R188). -/
def Ve.count (v : Ve) : Nat := v.queue.length + v.fins.length

/-- VE.ISSUE: waits while the VE holds 4 (R188). -/
def State.veIssue (s : State) (t : Nat) : State :=
  s.coreRow t .veIssue (fun s c =>
    if (s.tile t).ve.count ≥ 4 then s.park t (.ve (s.xr t c.rs1))
    else (s.veAccept t (s.xr t c.rs1)).retire t)

/-- A blocked issue goes on once its queue has room (R171). -/
def State.issueUnblock (s : State) (t : Nat) : State :=
  let x := s.tile t
  if !x.active then s
  else match x.core.wait with
    | .ope w0 w1 => if x.ope.queue.length < 8 then (s.opeAccept t w0 w1).retire t else s
    | .ve w => if x.ve.count < 4 then (s.veAccept t w).retire t else s
    | _ => s

/-! ### The event unit (R174) -/

/-- The bits that a WAITC returns and clears: sticky bits only (R173). -/
def stickyMask : Nat := 0x2F

/-- Completes a WAIT or WAITC whose condition holds: EV0 under the mask to x[RD]; WAITC clears the sticky bits it returns. -/
def State.eventReturn (s : State) (t rd m0 : Nat) (clear : Bool) : State :=
  let v := s.ev0 t &&& m0
  let s := s.xw t rd v
  let s := if clear then s.onCore t (fun c => { c with ev0 := c.ev0 ^^^ (c.ev0 &&& v &&& stickyMask) }) else s
  s.retire t

/-- The condition of WAIT: a bit of EV0 or EV1 under the masks, or both masks zero (R174). -/
def State.eventReady (s : State) (t m0 m1 : Nat) : Bool :=
  (s.ev0 t &&& m0) != 0 || (s.evq t &&& m1) != 0 || (m0 == 0 && m1 == 0)

/-- WAIT and WAITC. -/
def State.waitOp (s : State) (t : Nat) (clear : Bool) : State :=
  s.coreRow t (if clear then .waitc else .wait) (fun s c =>
    let m0 := s.xr t c.rs1
    let m1 := s.xr t c.rs2
    if s.eventReady t m0 m1 then s.eventReturn t c.rd m0 clear else s.park t (.event c.rd m0 m1 clear))

/-- A WAIT or WAITC that sleeps returns once its condition holds. -/
def State.waitReturn (s : State) (t : Nat) : State :=
  match (s.tile t).core.wait with
  | .event rd m0 m1 clear => if (s.tile t).active && s.eventReady t m0 m1 then s.eventReturn t rd m0 clear else s
  | _ => s

/-! ### System operations of the core (R163) -/

/-- Stores of the core that wait in a bank. -/
def State.storesPending (s : State) (t : Nat) : Bool :=
  [BankId.ma, .mb, .vb, .cb, .sb].any (fun b => (s.bank t b).waiting.any (fun w => w.req.cls == 3 && w.req.write))

/-- FENCE.MEM: waits until every earlier store has been accepted by its bank (R168). -/
def State.fenceMem (s : State) (t : Nat) : State :=
  s.coreRow t .fenceMem (fun s _ => if s.storesPending t then s.park t .fence else s.retire t)

/-- A waiting FENCE.MEM completes. -/
def State.fenceDone (s : State) (t : Nat) : State :=
  match (s.tile t).core.wait with
  | .fence => if (s.tile t).active && !s.storesPending t then s.retire t else s
  | _ => s

/-! ### The commands -/

def execAdd (t : TileId) (s : State) : Result := .next (s.alu t .add)
def execSub (t : TileId) (s : State) : Result := .next (s.alu t .sub)
def execAnd (t : TileId) (s : State) : Result := .next (s.alu t .and)
def execOr (t : TileId) (s : State) : Result := .next (s.alu t .or)
def execXor (t : TileId) (s : State) : Result := .next (s.alu t .xor)
def execSll (t : TileId) (s : State) : Result := .next (s.alu t .sll)
def execSrl (t : TileId) (s : State) : Result := .next (s.alu t .srl)
def execSra (t : TileId) (s : State) : Result := .next (s.alu t .sra)
def execSlt (t : TileId) (s : State) : Result := .next (s.alu t .slt)
def execSltu (t : TileId) (s : State) : Result := .next (s.alu t .sltu)
def execMul (t : TileId) (s : State) : Result := .next (s.alu t .mul)
def execMulh (t : TileId) (s : State) : Result := .next (s.alu t .mulh)
def execMulhu (t : TileId) (s : State) : Result := .next (s.alu t .mulhu)
def execMin (t : TileId) (s : State) : Result := .next (s.alu t .min)
def execMax (t : TileId) (s : State) : Result := .next (s.alu t .max)
def execMinu (t : TileId) (s : State) : Result := .next (s.alu t .minu)
def execMaxu (t : TileId) (s : State) : Result := .next (s.alu t .maxu)
def execLui (t : TileId) (s : State) : Result := .next (s.lui t)
def execLoad (t : TileId) (s : State) : Result := .next (s.load t)
def execStore (t : TileId) (s : State) : Result := .next (s.store t)
def execBeq (t : TileId) (s : State) : Result := .next (s.branch t .beq)
def execBne (t : TileId) (s : State) : Result := .next (s.branch t .bne)
def execBlt (t : TileId) (s : State) : Result := .next (s.branch t .blt)
def execBge (t : TileId) (s : State) : Result := .next (s.branch t .bge)
def execBltu (t : TileId) (s : State) : Result := .next (s.branch t .bltu)
def execBgeu (t : TileId) (s : State) : Result := .next (s.branch t .bgeu)
def execJal (t : TileId) (s : State) : Result := .next (s.jal t)
def execJalr (t : TileId) (s : State) : Result := .next (s.jalr t)
def execCrd (t : TileId) (s : State) : Result := .next (s.crd t)
def execCwr (w : CoreWrite) (s : State) : Result := .next (s.cwr w.tile w.sets w.info)
def execPost (t : TileId) (s : State) : Result := .next (s.postOp t false)
def execPostNb (t : TileId) (s : State) : Result := .next (s.postOp t true)
def execPostUnblock (t : TileId) (s : State) : Result := .next (s.postUnblock t)
def execPop (t : TileId) (s : State) : Result := .next (s.popOp t)
def execSemSig (t : TileId) (s : State) : Result := .next (s.semSig t)
def execSemSigr (t : TileId) (s : State) : Result := .next (s.semSigr t)
def execSemWait (t : TileId) (s : State) : Result := .next (s.semWait t)
def execSemWaitSatisfied (t : TileId) (s : State) : Result := .next (s.semWaitDone t)
def execSemTry (t : TileId) (s : State) : Result := .next (s.semTry t)
def execSemRd (t : TileId) (s : State) : Result := .next (s.semRd t)
def execOpeIssue (t : TileId) (s : State) : Result := .next (s.opeIssue t)
def execVeIssue (t : TileId) (s : State) : Result := .next (s.veIssue t)
def execIssueUnblock (t : TileId) (s : State) : Result := .next (s.issueUnblock t)
def execWait (t : TileId) (s : State) : Result := .next (s.waitOp t false)
def execWaitc (t : TileId) (s : State) : Result := .next (s.waitOp t true)
def execEventWaitReturn (t : TileId) (s : State) : Result := .next (s.waitReturn t)
def execFenceMem (t : TileId) (s : State) : Result := .next (s.fenceMem t)
def execFenceMemComplete (t : TileId) (s : State) : Result := .next (s.fenceDone t)

end Sys2Proof.Machine
end

