-- ==== Sys2Proof/Machine/Ope.lean ====
section
/-! DEFINITION. The outer-product engine and the last (chapters 5, 6 and 7): legality, operand layouts, folding, steps,
drains, completion and aborts, with the effects that a branch holds (R155). -/
namespace Sys2Proof.Machine

/-! ### The instruction (R97, R98) -/

/-- The fields of an OPE instruction. -/
structure OpeF where
  opcode : Nat
  fa : Option Fmt
  fb : Option Fmt
  accInt : Bool
  fo : Option Fmt
  m : Nat
  n : Nat
  k : Nat
  round : Nat
  sat : Bool
  acc : Bool
  tsel : Nat
  drain : Nat
  sparse : Nat
  biasEn : Bool
  aOff : Nat
  bOff : Nat
  out : Nat
  bias : Nat
deriving DecidableEq, Repr

/-- Reads the fields of the two words. -/
def opeFields (i : OpeInstr) : OpeF :=
  { opcode := bitsOf i.w0 63 58, fa := Fmt.ofCode (bitsOf i.w0 57 54), fb := Fmt.ofCode (bitsOf i.w0 53 50),
    accInt := bitOf i.w0 49, fo := Fmt.ofCode (bitsOf i.w0 48 45), m := bitsOf i.w0 44 33 + 1, n := bitsOf i.w0 32 21 + 1,
    k := bitsOf i.w0 20 8, round := bitsOf i.w0 7 6, sat := bitOf i.w0 5, acc := bitOf i.w0 1, tsel := bitsOf i.w0 0 0,
    drain := bitsOf i.w1 63 62, sparse := bitsOf i.w1 61 59, biasEn := bitOf i.w1 58, aOff := bitsOf i.w1 57 43 * 64,
    bOff := bitsOf i.w1 42 28 * 64, out := bitsOf i.w1 27 13, bias := bitsOf i.w1 12 0 * 64 }

/-- Formats of operand A and B, FP32 where reserved (a legal instruction has none reserved). -/
def OpeF.a (f : OpeF) : Fmt := f.fa.getD .fp32
def OpeF.b (f : OpeF) : Fmt := f.fb.getD .fp32
def OpeF.o (f : OpeF) : Fmt := f.fo.getD .fp32

/-- Six-bit and four-bit element types of the narrow block-scaled row of R94. -/
def isNarrowMx (f : Fmt) : Bool := f == .e2m1 || f == .e3m2 || f == .e2m3

/-- kd and passes of a legal pair under its opcode and ACC_INT (R94). -/
def opePair (opcode : Nat) (a b : Fmt) (accInt : Bool) : Option (Nat × Nat) :=
  if opcode = 2 then
    if (a == .fp32 || a == .f19) && (b == .fp32 || b == .f19) && !accInt then some (1, 1) else none
  else if accInt then
    if a == .int4 && b == .int4 then some (4, 1)
    else if (a == .int8 && (b == .int8 || b == .int4)) || (a == .int4 && b == .int8) then some (2, 1)
    else none
  else if a.isMx && b.isMx then
    if isNarrowMx a && isNarrowMx b then some (4, 1) else some (2, 1)
  else if a == b && (a == .bf16 || a == .fp16 || a == .f19) then some (1, 1)
  else if a == .fp32 && b == .fp32 then some (1, 3)
  else none

/-- kd of an instruction. -/
def OpeF.kd (f : OpeF) : Nat := ((opePair f.opcode f.a f.b f.accInt).getD (1, 1)).1
/-- Passes of an instruction. -/
def OpeF.np (f : OpeF) : Nat := ((opePair f.opcode f.a f.b f.accInt).getD (1, 1)).2

/-- Output formats that the accumulators allow (R95). -/
def opeOutOk (accInt : Bool) (o : Fmt) : Bool :=
  if accInt then o == .fp32 || o.isInt else !o.isInt

/-- Is operand A (side false) or B (side true) held in a given sparse layout (R138)? 0 dense, 1 2:4, 2 compressed, 3 row-indexed. -/
def OpeF.layout (f : OpeF) (side : Bool) : Nat :=
  match f.sparse, side with
  | 1, false => 1 | 2, true => 1
  | 3, false => 2 | 4, true => 2 | 5, _ => 2
  | 6, false => 3
  | _, _ => 0

/-- Stored elements of a 2:4 row of K positions (R140). -/
def stored24 (k : Nat) : Nat := 2 * ceilDiv k 4

/-- Parts of a 2:4 row: element bytes, metadata bytes, scale bytes, each rounded up to 64 (R140). -/
def parts24 (f : Fmt) (k : Nat) : Nat × Nat × Nat :=
  (roundUp (elemBytes f (stored24 k)) 64, roundUp (ceilDiv (ceilDiv k 4) 2) 64, if f.isMx then roundUp (ceilDiv k 32) 64 else 0)

/-- Pitch of a 2:4 row. -/
def pitch24 (f : Fmt) (k : Nat) : Nat := (parts24 f k).1 + (parts24 f k).2.1 + (parts24 f k).2.2

/-- Operand bytes that legality checks (R100, R139). -/
def opeExtent (layout : Nat) (f : Fmt) (rows k : Nat) : Nat :=
  match layout with
  | 1 => pitch24 f k * rows
  | 2 | 3 => roundUp (2 * rows) 64
  | _ => rowPitch f k * rows

/-- The reason an instruction is illegal, lowest code first (R99, R138, R153); none when it is legal. -/
def State.opeIllegal (s : State) (t : Nat) (i : OpeInstr) : Option Nat :=
  let f := opeFields i
  let tagged := i.slot.isSome
  let lim := if tagged then 64 else 128
  let outLo := 0x400000 + f.out * 64
  let outHi := outLo + rowPitch f.o f.n * f.m
  let win := ((i.slot.map (fun k => (s.slot t k).win)).getD 0) * 0x4000 + 0x5C0000
  let outOk := match bankAt outLo with
    | some b => b ≠ .ma && b ≠ .mb && decide (outHi ≤ bankBase b + bankSize b) &&
        (!tagged || (decide (win ≤ outLo) && decide (outHi ≤ win + 0x4000)))
    | none => false
  if f.opcode ≠ 1 ∧ f.opcode ≠ 2 then some 0x01
  else if f.fa.isNone || f.fb.isNone || (f.drain ≠ 0 && f.fo.isNone) then some 0x02
  else if (opePair f.opcode f.a f.b f.accInt).isNone || (f.drain ≠ 0 && !opeOutOk f.accInt f.o) then some 0x03
  else if f.k > 4096 then some 0x04
  else if f.k > 0 ∧ (f.aOff + opeExtent (f.layout false) f.a f.m f.k > bankSize .ma ∨
      f.bOff + opeExtent (f.layout true) f.b f.n f.k > bankSize .mb) then some 0x05
  else if (f.drain = 1 && !outOk) || (f.drain = 2 && (tagged || bitsOf f.out 14 5 ≠ 0)) then some 0x06
  else if (f.m > lim ∨ f.n > lim) ∧ (f.acc = true ∨ f.drain = 0 ∨ tagged = true) then some 0x07
  else if f.biasEn && (f.acc || decide (f.bias + 4 * f.n > bankSize .cb)) then some 0x08
  else if f.drain = 3 ∨ f.sparse = 7 ∨ (1 ≤ f.sparse ∧ f.sparse ≤ 5 ∧ f.opcode = 1 ∧ f.a = .fp32) then some 0x09
  else none

/-! ### Completion effects -/

/-- A tagged instruction of a slot has completed or been discarded (R152). -/
def State.tagOver (s : State) (t : Nat) (slot : Option Nat) : State :=
  match slot with
  | none => s
  | some i => let x := s.slot t i; s.setSlot t i { x with live := x.live - 1 }

/-- An illegal instruction completes (R99): counted, recorded, completion signalled. -/
def State.opeRefuse (s : State) (t : Nat) (i : OpeInstr) (reason : Nat) : State :=
  let s := (s.effCnt t i.slot .opeIllegal 0 1).effCnt t i.slot .opeDone 0 1
  ((s.eff t i.slot (.opeErr reason i.w0 i.w1)).eff t i.slot (.event 0)).tagOver t i.slot

/-- An illegal instruction leaves the queue: it completes at once, or behind the earlier instructions that have not (R96). -/
def State.opeDiscard (s : State) (t : Nat) (i : OpeInstr) (reason : Nat) : State :=
  let behind := !(s.tile t).ope.fins.isEmpty
  let s := s.onTile t (fun x => { x with ope := { x.ope with
    queue := x.ope.queue.tail
    fins := if behind then x.ope.fins ++ [{ ins := i, steps := 0, drains := 0, reason := reason }] else x.ope.fins } })
  if behind then s else s.opeRefuse t i reason

/-! ### Reading operands (R67, R100, R140 to R146) -/

/-- Bank of operand A or B. -/
def sideBank (side : Bool) : BankId := if side then .mb else .ma

/-- A little-endian number in a bank. -/
def State.bankNat (s : State) (t : Nat) (b : BankId) (off n : Nat) : Nat :=
  leNat ((List.range n).map (fun i => s.byte (spdAddr t b (off + i))))

/-- Encoding of packed element j of a row that starts at a bank offset. -/
def State.elemAt (s : State) (t : Nat) (b : BankId) (f : Fmt) (base j : Nat) : Nat :=
  let p := elemBitPos f j
  let v := s.bankNat t b (base + p.1 / 8) ((p.1 % 8 + p.2 + 7) / 8)
  ofContainer f ((v >>> (p.1 % 8)) % 2 ^ p.2)

/-- Where row r of a compressed operand starts, and the end of the parts whose size its mask gives (R143). -/
def State.compRow (s : State) (t : Nat) (side : Bool) (f : Fmt) (base r k : Nat) : Nat × Nat × Nat :=
  let b := sideBank side
  let start := base + 64 * s.bankNat t b (base + 2 * r) 2
  let maskBytes := ceilDiv k 8
  let vals := start + roundUp maskBytes 64
  let count := (List.range (8 * maskBytes)).foldl (fun acc p =>
    if bitOf (s.bankNat t b (start + p / 8) 1) (p % 8) then acc + 1 else acc) 0
  let scales := vals + roundUp (elemBytes f count) 64
  (start, vals, scales + (if f.isMx then roundUp (ceilDiv k 32) 64 else 0))

/-- Scales of a compressed row follow its values. -/
def State.compScales (s : State) (t : Nat) (side : Bool) (f : Fmt) (base r k : Nat) : Nat :=
  let c := s.compRow t side f base r k
  c.2.2 - (if f.isMx then roundUp (ceilDiv k 32) 64 else 0)

/-- A compressed row that runs beyond its bank has no present position (R144); the end of a row cannot be known before its
mask lies in the bank. -/
def State.compOut (s : State) (t : Nat) (side : Bool) (f : Fmt) (base r k : Nat) : Bool :=
  let size := bankSize (sideBank side)
  let start := base + 64 * s.bankNat t (sideBank side) (base + 2 * r) 2
  decide (start + roundUp (ceilDiv k 8) 64 > size) || decide ((s.compRow t side f base r k).2.2 > size)

/-- Start of the indexed row of operand A (R146), or none for a null row or one beyond MA. -/
def State.indexedRow (s : State) (t : Nat) (f : Fmt) (base m r k : Nat) : Option Nat :=
  let e := s.bankNat t .ma (base + 2 * r) 2
  let start := base + roundUp (2 * m) 64 + e * rowPitch f k
  if e = 0xFFFF ∨ start + rowPitch f k > bankSize .ma then none else some start

/-- An element of an operand with the scale byte of its block (127 where the format has none). -/
structure OpeElem where
  bits : Nat
  scale : Nat := 127
deriving DecidableEq, Repr

/-- Is position k of a compressed row present (R143, R144)? -/
def State.compPresent (s : State) (t : Nat) (side : Bool) (f : Fmt) (base r kk k : Nat) : Bool :=
  let start := base + 64 * s.bankNat t (sideBank side) (base + 2 * r) 2
  decide (k < kk) && !s.compOut t side f base r kk && bitOf (s.bankNat t (sideBank side) (start + k / 8) 1) (k % 8)

/-- The element of row (or column) r at logical position k in its layout; none where it is absent or inert. For a 2:4
layout, `e` is the stored element and k its kept position. -/
def State.opeElem (s : State) (t : Nat) (f : OpeF) (side : Bool) (r k e : Nat) : Option OpeElem :=
  let b := sideBank side
  let fm := if side then f.b else f.a
  let base := if side then f.bOff else f.aOff
  let sc (off : Nat) : Nat := if fm.isMx then s.bankNat t b (off + k / 32) 1 else 127
  if k ≥ f.k then none
  else match f.layout side with
    | 1 =>
      let row := base + r * pitch24 fm f.k
      let p := parts24 fm f.k
      some ⟨s.elemAt t b fm row e, sc (row + p.1 + p.2.1)⟩
    | 2 =>
      if s.compPresent t side fm base r f.k k then
        let c := s.compRow t side fm base r f.k
        let idx := (List.range k).foldl (fun acc p => if bitOf (s.bankNat t b (c.1 + p / 8) 1) (p % 8) then acc + 1 else acc) 0
        some ⟨s.elemAt t b fm c.2.1 idx, sc (s.compScales t side fm base r f.k)⟩
      else none
    | 3 => (s.indexedRow t fm base f.m r f.k).map (fun row => ⟨s.elemAt t b fm row k, sc (row + rowScaleOff fm f.k)⟩)
    | _ =>
      let row := base + r * rowPitch fm f.k
      some ⟨s.elemAt t b fm row k, sc (row + rowScaleOff fm f.k)⟩

/-- Kept position of stored element e of row r of a 2:4 operand; none where the element is inert (R141). -/
def State.kept24 (s : State) (t : Nat) (f : OpeF) (side : Bool) (r e : Nat) : Option Nat :=
  let b := sideBank side
  let fm := if side then f.b else f.a
  let row := (if side then f.bOff else f.aOff) + r * pitch24 fm f.k
  let g := e / 2
  let nib := (s.bankNat t b (row + (parts24 fm f.k).1 + g / 2) 1) / 16 ^ (g % 2) % 16
  let i0 := nib % 4
  let i1 := nib / 4
  let pos := 4 * g + (if e % 2 = 0 then i0 else i1)
  if (e % 2 = 1 ∧ i0 = i1) ∨ pos ≥ f.k then none else some pos

/-! ### Products and updates (R73, R74, R81, R122 to R125, R147) -/

/-- An operand element as a number for one pass, with the flags of its entry. Sides: A false, B true; `idx` is its
stochastic index (R79). -/
def opeEnter (f : OpeF) (ins : OpeInstr) (side : Bool) (pass : Nat) (e : OpeElem) (idx : Nat) : Num × NumFlags :=
  let fm := if side then f.b else f.a
  let r := Round.ofField f.round (srDraw ins.key ins.tag (if side then 2 else 1) idx)
  if f.opcode = 2 then enterF19 r f.sat fm e.bits
  else if fm == .f19 then enterF19 .rne f.sat .f19 e.bits
  else if fm == .fp32 then
    let sp := splitFp32 e.bits
    let hi := if side then pass ≠ 1 else pass ≠ 0
    (if hi then sp.1 else sp.2.1, sp.2.2)
  else if fm.isMx ∧ e.scale = 255 then (.nan false, { inv := true })
  else
    let n := unpack fm e.bits
    (if fm.isMx then n.scale ((e.scale : Int) - 127) else n, {})

/-- The products of accumulator (i, j) in one step: group starting at k, in one pass. Each is a number with its INV and the
flags of its operands. Empty when no position is present. -/
def State.opeTerms (s : State) (t : Nat) (f : OpeF) (ins : OpeInstr) (i j k pass : Nat) : List (Num × Bool × NumFlags) :=
  let one (pos eA eB : Nat) : Option (Num × Bool × NumFlags) :=
    match s.opeElem t f false i pos eA, s.opeElem t f true j pos eB with
    | some a, some b =>
      let special := f.np == 3 && ((unpack f.a a.bits).isSpecial || (unpack f.b b.bits).isSpecial)
      if special && pass != 2 then none
      else
        let ea := opeEnter f ins false pass a (i * f.k + pos)
        let eb := opeEnter f ins true pass b (pos * f.n + j)
        let p := ea.1.mul eb.1
        some (p.1, p.2, ea.2.or eb.2)
    | _, _ => none
  (List.range f.kd).filterMap (fun d =>
    if f.layout false = 1 then (s.kept24 t f false i (k + d)).bind (fun pos => if k + d < stored24 f.k then one pos (k + d) 0 else none)
    else if f.layout true = 1 then (s.kept24 t f true j (k + d)).bind (fun pos => if k + d < stored24 f.k then one pos 0 (k + d) else none)
    else one (k + d) 0 0)

/-- Key of an accumulator: block (0, 1 output tiles; 2 to 5 shadow blocks), row, column. -/
def accKey (blk i j : Nat) : Nat := blk * 16384 + i * 128 + j

/-- Accumulator value. -/
def State.accGet (s : State) (t blk i j : Nat) : Nat := sget 0 (accKey blk i j) (s.tile t).ope.acc

/-- Key of the exact sum of an accumulator of a kind. -/
def exactKey (accInt : Bool) (blk i j : Nat) : Nat := accKey blk i j + b2n accInt * 2 ^ 20

/-- An accumulator's value as a number. -/
def accNum (accInt : Bool) (v : Nat) : Num := unpack (if accInt then .int32 else .fp32) v

/-- The exact sum of an accumulator, where the accumulator no longer holds it (R90). -/
def State.accExact (s : State) (t : Nat) (accInt : Bool) (blk i j : Nat) : Option Num := slook (exactKey accInt blk i j) (s.tile t).ope.exact

/-- Sets an accumulator, with the exact sum that it stands for: one that it holds, or that is not finite, is not listed. -/
def State.accPut (s : State) (t : Nat) (accInt : Bool) (blk i j v : Nat) (exact : Num) : State :=
  let e := if exact.isSpecial || exact.eqv (accNum accInt v) then none else some exact
  s.onTile t (fun x => { x with ope := { x.ope with
    acc := sput 0 (accKey blk i j) v x.ope.acc
    exact := sset (exactKey accInt blk i j) e (sset (exactKey (!accInt) blk i j) none x.ope.exact) } })

/-- Sets an accumulator to a value that is its exact sum. -/
def State.accSet (s : State) (t blk i j v : Nat) : State := s.accPut t false blk i j v (.nan false)

/-- One accumulator's update in a step (R122, R123): the group sum is exact, and an update is made when the group is not empty
(R147; a dense group is never empty). -/
def State.opeCell (s : State) (t : Nat) (f : OpeF) (ins : OpeInstr) (blk bm bn i j k pass : Nat) : State × NumFlags :=
  let terms := s.opeTerms t f ins (bm + i) (bn + j) k pass
  if terms.isEmpty then (s, {})
  else
    let entry := terms.foldl (fun acc x => acc.or (x.2.2.or { inv := x.2.1 })) ({} : NumFlags)
    let old := s.accGet t blk i j
    if f.accInt then
      let g : Int := terms.foldl (fun acc x => acc + x.1.toInt) 0
      let u := int32Acc f.sat old g
      let was := (s.accExact t true blk i j).getD (accNum true old)
      (s.accPut t true blk i j u.1 (was.add (.fin (decide (g < 0)) g.natAbs 0)).1, u.2.or entry)
    else
      let g := Num.sum (terms.map (·.1))
      let u := fp32Acc f.sat old g.1 g.2
      let was := (s.accExact t false blk i j).getD (accNum false old)
      (s.accPut t false blk i j u.1 (was.add g.1).1, u.2.or entry)

/-! ### Folding (R103, R142, R145) -/

/-- Steps of a panel for one sub-block: 16 with 32-bit elements, else 32 (R103). -/
def OpeF.psteps (f : OpeF) : Nat := if f.a == .fp32 || f.a == .f19 then 16 else 32

/-- K positions (or stored elements of a 2:4 operand) that the folding walks (R142). -/
def OpeF.span (f : OpeF) : Nat := if f.sparse = 1 ∨ f.sparse = 2 then stored24 f.k else f.k

/-- Rows and columns of the block at (bm, bn), and of the sub-block at (sm, sn) in it. -/
def OpeF.blockDims (f : OpeF) (bm bn : Nat) : Nat × Nat := (min 128 (f.m - bm), min 128 (f.n - bn))
def OpeF.subDims (f : OpeF) (bm bn sm sn : Nat) : Nat × Nat :=
  (min 64 ((f.blockDims bm bn).1 - sm), min 64 ((f.blockDims bm bn).2 - sn))

/-- Is any position of group q present in some row of a sub-block's side (R145)? A dense side is present below K. -/
def State.sidePresent (s : State) (t : Nat) (f : OpeF) (side : Bool) (first count k : Nat) : Bool :=
  let fm := if side then f.b else f.a
  let base := if side then f.bOff else f.aOff
  if f.layout side ≠ 2 then decide (k < f.k)
  else (List.range count).any (fun r => (List.range f.kd).any (fun d => s.compPresent t side fm base (first + r) f.k (k + d)))

/-- Is a step taken for a sub-block at group start k (R145)? -/
def State.groupTaken (s : State) (t : Nat) (f : OpeF) (bm bn sm sn k : Nat) : Bool :=
  if f.sparse = 3 ∨ f.sparse = 4 ∨ f.sparse = 5 then
    let d := f.subDims bm bn sm sn
    s.sidePresent t f false (bm + sm) d.1 k && s.sidePresent t f true (bn + sn) d.2 k
  else true

/-- The steps of the segment at (k0, sm, sn): positions by pass, and the scan steps that the last panel adds (R103, R145). -/
def State.opeSegment (s : State) (t : Nat) (f : OpeF) (bm bn k0 sm sn : Nat) : List (Nat × Nat) × Nat :=
  let kp := f.psteps * f.kd
  let ks := ((List.range f.psteps).map (fun i => k0 + i * f.kd)).filter (fun k => k < f.span && s.groupTaken t f bm bn sm sn k)
  let steps := (List.range f.np).flatMap (fun p => ks.map (fun k => (k, p)))
  let scans :=
    if (f.sparse = 3 ∨ f.sparse = 4 ∨ f.sparse = 5) ∧ k0 + kp ≥ f.span then
      let groups := ceilDiv f.k f.kd
      let o := ((List.range groups).filter (fun q => s.groupTaken t f bm bn sm sn (q * f.kd))).length
      ceilDiv groups 16 - o
    else 0
  (steps, scans)

/-- The next segment after (k0, sm, sn) in the block: sub-blocks first, then panels (R103); none at the block's end. -/
def OpeF.nextSegment (f : OpeF) (bm bn k0 sm sn : Nat) : Option (Nat × Nat × Nat) :=
  let d := f.blockDims bm bn
  if sn + 64 < d.2 then some (k0, sm, sn + 64)
  else if sm + 64 < d.1 then some (k0, sm + 64, 0)
  else if k0 + f.psteps * f.kd < f.span then some (k0 + f.psteps * f.kd, 0, 0)
  else none

/-- The next output block in row-major order (R105). -/
def OpeF.nextBlock (f : OpeF) (bm bn : Nat) : Option (Nat × Nat) :=
  if bn + 128 < f.n then some (bm, bn + 128)
  else if bm + 128 < f.m then some (bm + 128, 0)
  else none

/-- Sets every accumulator of the block to its initial value: zero or the bias (R108). -/
def State.opeInit (s : State) (t : Nat) (f : OpeF) (blk bn mb nb : Nat) : State :=
  (List.range mb).foldl (fun s i => (List.range nb).foldl (fun s j =>
    s.accSet t blk i j (if f.biasEn then s.bankNat t .cb (f.bias + 4 * (bn + j)) 4 else 0)) s) s

/-- Replaces the running instruction. -/
def State.setRun (s : State) (t : Nat) (r : Option OpeRun) : State :=
  s.onTile t (fun x => { x with ope := { x.ope with run := r } })

/-- Is a drain at its last row piece? -/
def OpeDrain.atLast (d : OpeDrain) : Bool := decide (d.col + 64 ≥ d.nb) && decide (d.row + 1 ≥ d.mb)

/-- The output tile a block fills still waits for a drain to read its last accumulator (R111). A drain whose last row stands offered to the
seam engine has read it. A drain into the scratchpad reads a row when its write is granted: while its last write is deferred or held, the output tile
stays pending. The spec does not say whether such a drain has read its last accumulators (DESIGN CHOICE, log 70). -/
def Tile.drainPending (x : Tile) (blk : Nat) : Bool :=
  x.ope.drains.any (fun d => d.blk == blk && !(d.started && d.atLast && !x.items.isEmpty))

/-- Must the next block of an instruction wait for its output tile's drain: does it update an accumulator (R109, R111)? -/
def Tile.drainBlocks (x : Tile) (r : OpeRun) : Bool :=
  let f := opeFields r.ins
  x.drainPending r.blk && !(f.acc && f.k == 0)

/-- The OPE's running instruction waits for the output tile's drain (R111). -/
def Tile.drainStalled (x : Tile) : Bool := x.ope.run.any (fun r => !r.begun && x.drainBlocks r)

/-- The array waits for a staged panel (R115): the first one of an instruction that an idle OPE accepted, from its acceptance on, or one that a
clearing bank keeps from being staged. The staging of an instruction issued behind another is hidden by its predecessor's steps. -/
def Tile.operandWaits (x : Tile) : Bool :=
  let off (b : BankId) : Bool := (sget {} (bankIdx b) x.banks).clearing.isSome
  (x.ope.run.isNone && (x.ope.queue.head?).any (fun i => i.cold && bitsOf i.w0 20 8 != 0)) ||
  x.ope.run.any (fun r => r.begun && !r.staged && !(r.seg.isEmpty && r.scans == 0) && ((r.ins.cold && r.steps == 0) || off .ma || off .mb))

/-- The running instruction could issue an operand vector, if the governor or the droop response let it (R119). -/
def Tile.mayIssue (x : Tile) : Bool := x.ope.run.any (fun r => r.begun && r.staged && !(r.seg.isEmpty && r.scans == 0))

/-- Accumulators of an aborted block are undefined: free values (R116). -/
def State.accScramble (s : State) (t blk : Nat) : State :=
  let base := s.free
  (List.range 16384).foldl (fun s i =>
    s.onTile t (fun x => { x with ope := { x.ope with
      acc := sput 0 (blk * 16384 + i) (Config.freeValue (base + i) % 2 ^ 32) x.ope.acc } }))
    ({ s with free := base + 16384 }.onTile t (fun x => { x with ope := { x.ope with
      exact := sdrop (fun k => k % 2 ^ 20 / 16384 == blk) x.ope.exact } }))

/-- The running instruction meets an uncorrectable error (R116): it stops, its drains not yet complete are dropped with the item one of
them has offered, its output tile is undefined, and it completes with reason 0x10. -/
def State.opeAbort (s : State) (t : Nat) (r : OpeRun) : State :=
  let s := s.onTile t (fun x =>
    let kept := x.ope.drains.take (x.ope.drains.length - r.drains)
    { x with
      items := if kept.isEmpty then [] else x.items
      ope := { x.ope with
        run := none, drains := kept, fins := x.ope.fins ++ [{ ins := r.ins, steps := r.steps, drains := 0, reason := 0x10 }] } })
  s.accScramble t r.blk

/-- Moves the last on as far as it goes without a step: begins blocks (R108, R111), skips empty segments, queues drains of
complete blocks and ends the instruction. A block whose bias bank is being cleared waits; OPE_STEP tries again. `fuel` bounds the moves. -/
def State.opeAdvance (s : State) (t : Nat) : Nat → State
  | 0 => s
  | fuel + 1 =>
    match (s.tile t).ope.run with
    | none => s
    | some r =>
      let f := opeFields r.ins
      let d := f.blockDims r.bm r.bn
      if !r.begun then
        if (s.tile t).drainBlocks r then s
        else if f.biasEn ∧ s.clearing t .cb then s.holdAccess t .cb 6 r.ins.slot
        else
          let s := s.unhold t 6
          let rb := if f.biasEn then s.spdRead t .cb 1 (f.bias + 4 * r.bn) (4 * d.2) r.ins.slot else (s, [], false)
          let s := if f.biasEn then rb.1.effBankCount t r.ins.slot .cb false (linesOf (f.bias + 4 * r.bn) (4 * d.2)) else s
          if rb.2.2 then s.opeAbort t r
          else
            let s := if f.acc then s else s.opeInit t f r.blk r.bn d.1 d.2
            let sg := if f.k = 0 then ([], 0) else s.opeSegment t f r.bm r.bn 0 0 0
            (s.setRun t (some { r with begun := true, k0 := 0, sm := 0, sn := 0, seg := sg.1, scans := sg.2, staged := false, lines := 0 })).opeAdvance t fuel
      else if !r.seg.isEmpty ∨ r.scans > 0 then s
      else
        match (if f.k = 0 then none else f.nextSegment r.bm r.bn r.k0 r.sm r.sn) with
        | some (k0, sm, sn) =>
          let sg := s.opeSegment t f r.bm r.bn k0 sm sn
          (s.setRun t (some { r with k0 := k0, sm := sm, sn := sn, seg := sg.1, scans := sg.2,
                                     staged := r.staged && k0 == r.k0 })).opeAdvance t fuel
        | none =>
          let drains := if f.drain = 0 then r.drains else r.drains + 1
          let s := if f.drain = 0 then s else s.onTile t (fun x => { x with ope := { x.ope with
            drains := x.ope.drains ++ [{ ins := r.ins, blk := r.blk, bm := r.bm, bn := r.bn, mb := d.1, nb := d.2 }] } })
          match f.nextBlock r.bm r.bn with
          | some (bm, bn) =>
            (s.setRun t (some { r with bm := bm, bn := bn, begun := false, staged := false, drains := drains })).opeAdvance t fuel
          | none =>
            s.onTile t (fun x => { x with ope := { x.ope with
              run := none, fins := x.ope.fins ++ [{ ins := r.ins, steps := r.steps, drains := drains }] } })

/-- Enough fuel for the segments of two blocks. -/
def opeFuel : Nat := 2200

/-- OPE_MMA (opcode 0x01, and opcodes that are illegal) and OPE_MMA1 (0x02): the head of the queue leaves it when no instruction
is being folded; it is checked for legality (R96, R99) and begun (R103). -/
def State.opeStart (s : State) (t : Nat) (mma1 : Bool) : State :=
  let x := s.tile t
  match x.ope.run, x.ope.queue with
  | none, i :: rest =>
    if !x.active ∨ (bitsOf i.w0 63 58 == 2) ≠ mma1 then s
    else match s.opeIllegal t i with
      | some reason => s.opeDiscard t i reason
      | none =>
        (s.onTile t (fun x => { x with ope := { x.ope with queue := rest, run := some { ins := i } } })).opeAdvance t opeFuel
  | _, _ => s

/-! ### A step -/

/-- Logical positions that a panel from k0 on covers: twice the stored elements of a 2:4 operand (R140, R142). -/
def OpeF.panel (f : OpeF) (k0 : Nat) : Nat × Nat :=
  let m := if f.sparse = 1 ∨ f.sparse = 2 then 2 else 1
  (m * k0, min (m * (k0 + f.psteps * f.kd)) f.k)

/-- The bank spans that staging panel k0 reads for one side: rows of the block over the panel's positions, with the scale line of each
2,048 positions when a panel in them is first staged (R103). A 2:4 or compressed operand is read whole with the block's first staged panel, not panel by
panel: when its parts are read, and so how many steps precede an abort, the spec leaves open (R139; DESIGN CHOICE, log 92). `lines` is the running
block's. -/
def State.stageSpans (s : State) (t : Nat) (f : OpeF) (side : Bool) (first count k0 lines : Nat) : List (Nat × Nat) :=
  let fm := if side then f.b else f.a
  let base := if side then f.bOff else f.aOff
  let k := f.panel k0
  let dense (row : Nat) : List (Nat × Nat) :=
    let lo := (elemBitPos fm k.1).1 / 8
    let hi := ((elemBitPos fm (k.2 - 1)).1 + (elemBitPos fm 0).2 + 7) / 8
    let line := k.1 / 2048 * 64
    (row + lo, hi - lo) ::
      (if fm.isMx ∧ lines ≠ k.1 / 2048 + 1 then [(row + rowScaleOff fm f.k + line, min 64 (ceilDiv f.k 32 - line))] else [])
  let rows := List.range count
  match f.layout side with
  | 1 => if lines = 0 then rows.map (fun r => (base + (first + r) * pitch24 fm f.k, pitch24 fm f.k)) else []
  | 2 =>
    if lines = 0 then
      (base + 2 * first, 2 * count) :: rows.filterMap (fun r =>
        if s.compOut t side fm base (first + r) f.k then none
        else
          let c := s.compRow t side fm base (first + r) f.k
          some (c.1, c.2.2 - c.1))
    else []
  | 3 =>
    (if lines = 0 then [(base + 2 * first, 2 * count)] else []) ++
      rows.flatMap (fun r => match s.indexedRow t fm base f.m (first + r) f.k with
        | some row => dense row
        | none => [])
  | _ => rows.flatMap (fun r => dense (base + (first + r) * rowPitch fm f.k))

/-- Lines newly touched by a span, as the operand port reads them (R103). -/
def spanLines (sp : Nat × Nat) : Nat := if sp.2 = 0 then 0 else ceilDiv (sp.1 + sp.2) 64 - ceilDiv sp.1 64

/-- Reads the staged panel of both operands: counts master accesses, ECC effects, vectors out of range once per instruction
(R144, R146); answers whether an uncorrectable error was met (R116). The rest of both operands' panel is still read, and its errors and accesses
counted, once a word of it is poisoned: what else is read then the spec leaves open (DESIGN CHOICE, log 92). -/
def State.opeStage (s : State) (t : Nat) (f : OpeF) (r : OpeRun) : State × Bool :=
  let d := f.blockDims r.bm r.bn
  let side (s : State) (sd : Bool) (first count : Nat) : State × Bool :=
    (s.stageSpans t f sd first count r.k0 r.lines).foldl (fun acc sp =>
      let q := acc.1.spdWordsRead t (sideBank sd) 0 sp.1 sp.2 r.ins.slot
      (q.1.effBankCount t r.ins.slot (sideBank sd) true (spanLines sp), acc.2 || q.2)) (s, false)
  let a := side s false r.bm d.1
  let b := side a.1 true r.bn d.2
  (b.1, a.2 || b.2)

/-- Rows and columns of the block that are out of range, as keys (side * 4096 + index), for R144 and R146. Two offset-table entries that
name one vector count each: the model's choice (log 69). -/
def State.opeOor (s : State) (t : Nat) (f : OpeF) (bm bn : Nat) : List Nat :=
  let d := f.blockDims bm bn
  let comp (sd : Bool) (first count : Nat) : List Nat :=
    if f.layout sd ≠ 2 then []
    else ((List.range count).filter (fun r => s.compOut t sd (if sd then f.b else f.a) (if sd then f.bOff else f.aOff) (first + r) f.k)).map
      (fun r => b2n sd * 4096 + first + r)
  let idx :=
    if f.layout false ≠ 3 then []
    else ((List.range d.1).filter (fun r =>
      s.bankNat t .ma (f.aOff + 2 * (bm + r)) 2 ≠ 0xFFFF && (s.indexedRow t f.a f.aOff f.m (bm + r) f.k).isNone)).map (fun r => bm + r)
  comp false bm d.1 ++ comp true bn d.2 ++ idx

/-- Power class of a step (R389): by kd, then by format. -/
def OpeF.stepClass (f : OpeF) : Nat :=
  if f.kd = 4 then 0 else if f.kd = 2 then 1 else if f.a == .bf16 || f.a == .fp16 then 2 else 3

/-- Steps of a tile in the window that holds their stamp, for TILE_STEP_RATE (R34): untagged ones as they are taken, a branch's when it commits
(R155). -/
def State.stepNoted (s : State) (t n : Nat) : State :=
  let k := s.windowNow * 256 + t
  if n = 0 then s else { s with pwr := { s.pwr with stepsAt := sput 0 k (sget 0 k s.pwr.stepsAt + n) s.pwr.stepsAt } }

/-- One step taken: TILE_STEP_COUNT and TILE_STEP_RATE (held for tagged work), progress, power activity and SPEC_STEPS (R93, R155, R204). -/
def State.stepTaken (s : State) (t : Nat) (f : OpeF) (slot : Option Nat) : State :=
  let s := ((s.effCnt t slot .tileStepCount 0 1).progress t 1).activity t f.stepClass 1
  match slot with
  | none => s.stepNoted t 1
  | some i =>
    let x := s.slot t i
    (s.setSlot t i { x with steps := x.steps + 1 }).cnt .specSteps t 0 1

/-- All active cells of the sub-block take one step at position k, pass p (R93). -/
def State.opeCells (s : State) (t : Nat) (f : OpeF) (r : OpeRun) (k p : Nat) : State × NumFlags :=
  let d := f.subDims r.bm r.bn r.sm r.sn
  (List.range d.1).foldl (fun acc i => (List.range d.2).foldl (fun acc j =>
    let c := acc.1.opeCell t f r.ins r.blk r.bm r.bn (r.sm + i) (r.sn + j) k p
    (c.1, acc.2.or c.2)) acc) (s, {})

/-- Is the instruction's slot one whose engines must stop (R156)? -/
def State.cancelled (s : State) (t : Nat) (slot : Option Nat) : Bool :=
  match slot with
  | some i => (s.slot t i).mode == .cancelling
  | none => false

/-- Does the issue governor let a tile issue an operand vector in its next step period (R396)? The periods are counted while the array has a vector
to issue (log 56). -/
def State.govLets (s : State) (t : Nat) : Bool :=
  let n := s.issueEff (tilePb t)
  let j := (s.tile t).period
  decide ((j + 1) * n / 64 > j * n / 64)

/-- A step period passes. One that the governor or the droop response holds counts, once in a tally ns (R119, R396). -/
def State.periodPass (s : State) (t : Nat) (held : Bool) : State :=
  let count := held && (s.tile t).govAt != s.tally + 1
  let s := s.onTile t (fun x => { x with period := (x.period + 1) % 64, govAt := if held then s.tally + 1 else x.govAt })
  if count then s.cnt .opeGovHoldNs t 0 1 else s

/-- OPE_STEP (R93): the array takes one step of the running instruction, staging its panel first. A block that could not begin tries to. A step that
issues an operand vector does so only in a period that the governor leaves to it (R396); scan steps issue none. -/
def State.opeStep (s : State) (t : Nat) : State :=
  let x := s.tile t
  match x.ope.run with
  | none => s
  | some r =>
    let f := opeFields r.ins
    if !x.active ∨ s.cancelled t r.ins.slot then s
    else if !r.begun then s.opeAdvance t opeFuel
    else if r.seg.isEmpty ∧ r.scans = 0 then s
    else if !r.seg.isEmpty ∧ !s.govLets t then s.periodPass t true
    else if !r.staged ∧ s.clearing t .ma then s.holdAccess t .ma 1 r.ins.slot
    else if !r.staged ∧ s.clearing t .mb then s.holdAccess t .mb 1 r.ins.slot
    else
      let s := s.unhold t 1
      let newOor := if r.staged then [] else (s.opeOor t f r.bm r.bn).filter (fun k => !r.oor.contains k)
      let st := if r.staged then (s, false) else s.opeStage t f r
      let s := st.1.effCnt t r.ins.slot .opeOperandOor 0 newOor.length
      let r := { r with staged := true, lines := (f.panel r.k0).1 / 2048 + 1, oor := r.oor ++ newOor }
      if st.2 then s.opeAbort t r
      else
        match r.seg with
        | (k, p) :: rest =>
          let c := (s.periodPass t false).opeCells t f r k p
          let s := (c.1.effFlags t r.ins.slot false c.2).stepTaken t f r.ins.slot
          (s.setRun t (some { r with seg := rest, steps := r.steps + 1 })).opeAdvance t opeFuel
        | [] =>
          let s := s.stepTaken t f r.ins.slot
          (s.setRun t (some { r with scans := r.scans - 1, steps := r.steps + 1 })).opeAdvance t opeFuel

/-! ### Drains (R102, R110 to R113) -/

/-- OPE_DRAIN_BLOCK (R110): the drain unit starts the oldest complete block when no other drains. -/
def State.drainStart (s : State) (t : Nat) : State :=
  let x := s.tile t
  match x.ope.drains with
  | d :: rest =>
    if !x.active ∨ d.started ∨ s.cancelled t d.ins.slot then s
    else s.onTile t (fun x => { x with ope := { x.ope with drains := { d with started := true } :: rest } })
  | [] => s

/-- One more drain of the oldest instruction with drains outstanding has ended; the last may go on (R111). -/
def State.drainEnd (s : State) (t : Nat) : State :=
  let s := s.onTile t (fun x =>
    let fins := x.ope.fins
    match fins.findIdx? (fun f => f.drains != 0) with
    | some i => { x with ope := { x.ope with
        drains := x.ope.drains.tail, fins := fins.modify i (fun f => { f with drains := f.drains - 1 }) } }
    | none => { x with ope := { x.ope with
        drains := x.ope.drains.tail, run := x.ope.run.map (fun r => { r with drains := r.drains - 1 }) } })
  s.opeAdvance t opeFuel

/-- Accumulator (i, j) of a drain as a number with the flags of its flush (R81: FP32 subnormals never occur, but flush). -/
def State.drainValue (s : State) (t : Nat) (f : OpeF) (d : OpeDrain) (i j : Nat) : Num × NumFlags :=
  let v := s.accGet t d.blk i j
  if f.accInt then (unpack .int32 v, {}) else unpackFlush true .fp32 v

/-- Round mode of element (i, j) of a drain, with its draw at a site (R79, R110). -/
def drainRound (f : OpeF) (d : OpeDrain) (site i j : Nat) : Round :=
  Round.ofField f.round (srDraw d.ins.key d.ins.tag site ((d.bm + i) * f.n + (d.bn + j)))

/-- The stored values of columns [j0, j0 + n) of row i, and the scale bytes by block (block-scaled outputs quantize each group
of 32 columns; R72, R102), judged by their exact sums (R90). -/
def State.drainRow (s : State) (t : Nat) (f : OpeF) (d : OpeDrain) (i j0 n : Nat) : List Stored × List Nat :=
  let judge (j : Nat) (st : Stored) : Stored :=
    match s.accExact t f.accInt d.blk i j with
    | some e => st.drained f.o f.accInt (accNum f.accInt (s.accGet t d.blk i j)) e
    | none => st
  let cols := List.range n
  if f.o.isMx then
    let blocks := List.range (ceilDiv n 32)
    let q := blocks.map (fun b =>
      let js := (List.range (min 32 (n - 32 * b))).map (fun c => j0 + 32 * b + c)
      let vs := js.map (fun j => s.drainValue t f d i j)
      let r := quantBlock f.o f.sat ((vs.zip js).map (fun p => (p.1.1, drainRound f d 0 i p.2)))
      (r.1, (r.2.zip (vs.zip js)).map (fun p => judge p.2.2 { p.1 with fl := p.1.fl.or p.2.1.2 })))
    (q.flatMap (·.2), q.map (·.1))
  else
    (cols.map (fun c =>
      let v := s.drainValue t f d i (j0 + c)
      let st := narrow f.o (drainRound f d 0 i (j0 + c)) f.sat (f.o == .fp32 || f.o == .f19) v.1
      judge (j0 + c) { st with fl := st.fl.or v.2 }), [])

/-- Packs element encodings into bytes, element 0 lowest (R67, R68). -/
def packElems (f : Fmt) (l : List Nat) : List Byte :=
  let w := (elemBitPos f 0).2
  natLe (ceilDiv (w * l.length) 8) (l.foldr (fun v acc => toContainer f v + acc * 2 ^ w) 0)

/-- Writes bytes of a tagged or untagged result: untagged to its bank, tagged to the slot's shadow store (R154). `addr` is a
stride offset. -/
def State.engineWrite (s : State) (t : Nat) (slot : Option Nat) (addr : Nat) (bs : List Byte) : State :=
  match slot with
  | none =>
    match bankAt addr with
    | some b => s.spdWrite t b (addr - bankBase b) bs
    | none => s
  | some i =>
    let base := 0x5C0000 + (s.slot t i).win * 0x4000
    (List.range bs.length).foldl (fun s k =>
      s.onTile t (fun x => { x with shadow := sput 0 (i * 16384 + (addr + k - base) % 16384) ((bs.getD k 0#8).toNat + 1) x.shadow })) s

/-- The piece of a row that a drain write covers, its bytes and its stride offset; then its scale bytes and their stride offset.
The unused elements of a row's last block are +0 (R70). The last piece of a row reaches to the end of the row's pitch (R100, R102, and
the example before R116, in which a drain writes every byte of its rows); what the bytes beyond the elements and scales hold the
manual does not say, and `pad` and `pad'` are free (log 19). -/
def State.drainBytes (f : OpeF) (d : OpeDrain) (vals : List Stored) (scales : List Nat) (pad pad' : Nat) : List (Nat × List Byte) :=
  let row := 0x400000 + f.out * 64 + (d.bm + d.row) * rowPitch f.o f.n
  let j := d.bn + d.col
  let n := vals.length
  let bits := vals.map (·.bits) ++ (if f.o.isMx then List.replicate (roundUp n 32 - n) 0 else [])
  let w := (elemBitPos f.o 0).2
  let at_ := (elemBitPos f.o j).1 / 8
  let v := bits.foldr (fun v acc => toContainer f.o v + acc * 2 ^ w) 0
  let main := if j + n < f.n then (row + at_, packElems f.o bits)
    else (row + at_, natLe (roundUp (rowElemBytes f.o f.n) 64 - at_) (v + pad * 2 ^ (w * bits.length)))
  let sc := scales.map (BitVec.ofNat 8)
  if f.o.isMx then
    [main, (row + rowScaleOff f.o f.n + j / 32,
      if j + n < f.n then sc else sc ++ natLe (roundUp (ceilDiv f.n 32) 64 - (j / 32 + sc.length)) pad')]
  else [main]

/-- The drain moves on from the row piece that its bank or the seam engine has accepted: along the columns of a row, then to the next row,
an order that the manual leaves open (log 70). -/
def State.drainAdvance (s : State) (t : Nat) : State :=
  match (s.tile t).ope.drains with
  | [] => s
  | d :: rest =>
    if d.atLast then s.drainEnd t
    else
      let d := { d with todo := [] }
      let d' := if d.col + 64 < d.nb then { d with col := d.col + 64 } else { d with col := 0, row := d.row + 1 }
      s.onTile t (fun x => { x with ope := { x.ope with drains := d' :: rest } })

/-- The part of each 64-byte line of a span: (line, stride offset, bytes). -/
def linePieces (addr : Nat) (bs : List Byte) : List (Nat × Nat × List Byte) :=
  (List.range (linesOf addr bs.length)).map (fun i =>
    let l := addr / 64 + i
    let lo := max addr (64 * l)
    (l, lo, (bs.drop (lo - addr)).take (min (addr + bs.length) (64 * (l + 1)) - lo)))

/-- The grants of the lines that wait, in order: a line beyond the list is granted. -/
def lineGrants (todo : List (Nat × Bool)) (granted : List Bool) : List ((Nat × Bool) × Bool) :=
  todo.zip (granted ++ List.replicate todo.length true)

/-- The lines of a row piece that its bank has no idle slot for are deferred; each counts once (R112, R121, R214). -/
def State.drainDefer (s : State) (t : Nat) (b : BankId) (l : List (Nat × Bool)) : State :=
  let n := (l.filter (fun e => !e.2)).length
  (s.cnt .spdDefer t (bankIdx b) n).cnt .opeDrainRetry t 0 n

/-- Flags and health counts of drained values, at once or held (R87, R90, R155). -/
def State.drainCount (s : State) (t : Nat) (slot : Option Nat) (f : OpeF) (vals : List Stored) : State :=
  let s := (s.effFlags t slot false (vals.foldl (fun a st => a.or st.fl) ({} : NumFlags))).activity t 4 1
  vals.foldl (fun s st => s.effHealth t slot f.o st) s

/-- A row piece goes to the scratchpad, or to the slot's shadow store (R110, R112, R154). In a scratchpad each of its 64-byte lines takes a slot of its
own (R212): those that get one are written, the others are deferred; with its last line the piece is accepted. A clearing bank holds them all
(R223). The padding of a row's last piece takes free values (`drainBytes`). -/
def State.drainStore (s : State) (t : Nat) (f : OpeF) (d : OpeDrain) (vals : List Stored) (scales : List Nat) (granted : List Bool) : State :=
  let parts := State.drainBytes f d vals scales s.takeFree.1 s.takeFree.2.takeFree.1
  let s := s.takeFree.2.takeFree.2
  match d.ins.slot, bankAt (0x400000 + f.out * 64) with
  | none, some b =>
    let pieces := parts.flatMap (fun p => linePieces p.1 p.2)
    let todo := if d.todo.isEmpty then pieces.map (fun p => (p.1, false)) else d.todo
    if s.clearing t b then s.holdAccess t b 5 none todo.length
    else
      let g := lineGrants todo granted
      let mine := (g.filter (fun e => e.2)).map (fun e => e.1.1)
      let late := (g.filter (fun e => !e.2)).map (fun e => e.1)
      let s := (pieces.filter (fun p => mine.contains p.1)).foldl (fun s p => s.engineWrite t none p.2.1 p.2.2) (s.unhold t 5)
      let s := (s.bankCount t b false mine.length).drainDefer t b late
      if late.isEmpty then (s.drainCount t none f vals).drainAdvance t
      else s.onTile t (fun x => { x with ope := { x.ope with
        drains := { d with todo := late.map (fun e => (e.1, true)) } :: x.ope.drains.tail } })
  | slot, _ => ((parts.foldl (fun s p => s.engineWrite t slot p.1 p.2) s).drainCount t slot f vals).drainAdvance t

/-- A row piece is offered to the seam engine as one item; an output tile whose last accumulator has been read is free (R111, R112). -/
def State.drainOffer (s : State) (t : Nat) (f : OpeF) (d : OpeDrain) (vals : List Stored) : State :=
  let item : SeamItem := ⟨f.out % 32, d.bm + d.row, d.bn + d.col, f.o.code, vals.map (·.bits),
    (vals.foldl (fun a st => a.or st.fl) ({} : NumFlags)).toBits, vals.flatMap (healthKeys f.o)⟩
  (s.onTile t (fun x => { x with items := x.items ++ [item] })).opeAdvance t opeFuel

/-- The seam engine accepts the item that a drain offers (R112): its values count, and the drain moves on. -/
def State.itemAccepted (s : State) (t : Nat) (item : SeamItem) : State :=
  let s := s.onTile t (fun x => { x with items := [] })
  let s := (s.setFlags .ope t item.flags).activity t 4 1
  (item.health.foldl (fun s k => s.cnt (healthField (k % 4)) t (k / 4) 1) s).drainAdvance t

/-- OPE_DRAIN_ROW_WRITE (R110, R112): the drain unit reads one row of one 64-column sub-block, converts it, and writes it to the
scratchpad, line by line as the bank has idle slots (`granted`), or offers it to the seam engine as one item, which waits until the engine
accepts it. -/
def State.drainWrite (s : State) (t : Nat) (granted : List Bool) : State :=
  let x := s.tile t
  match x.ope.drains with
  | [] => s
  | d :: _ =>
    let f := opeFields d.ins
    if !x.active ∨ !d.started ∨ s.cancelled t d.ins.slot ∨ !x.items.isEmpty then s
    else
      let r := s.drainRow t f d d.row d.col (min 64 (d.nb - d.col))
      if f.drain = 2 then s.drainOffer t f d r.1 else s.drainStore t f d r.1 r.2 granted

/-! ### Completion (R104, R113, R116) -/

/-- Dense step count of R104. -/
def OpeF.denseSteps (f : OpeF) : Nat := ceilDiv f.m 64 * ceilDiv f.n 64 * ceilDiv f.k f.kd * f.np

/-- MACs of an instruction: logical M N K; inert indexed rows do not count (R101, R104, R142, R145, R146). -/
def State.opeMacsOf (s : State) (t : Nat) (f : OpeF) : Nat :=
  if f.sparse = 6 then
    ((List.range f.m).filter (fun r => (s.indexedRow t f.a f.aOff f.m r f.k).isSome)).length * f.n * f.k
  else f.m * f.n * f.k

/-- OPE_COMPLETION (R113): the oldest instruction whose steps and drains are over completes: counters, the event, and for an
abort its record (R116); an illegal instruction that waited for it as R99 says. -/
def State.opeComplete (s : State) (t : Nat) : State :=
  let x := s.tile t
  match x.ope.fins with
  | [] => s
  | n :: rest =>
    let f := opeFields n.ins
    let sl := n.ins.slot
    if n.drains ≠ 0 ∨ !x.active ∨ s.cancelled t sl then s
    else
      let s := s.onTile t (fun x => { x with ope := { x.ope with fins := rest } })
      if n.reason ≠ 0 ∧ n.reason ≠ 0x10 then s.opeRefuse t n.ins n.reason
      else
      let s := s.effCnt t sl .opeInstr 0 1
      let s := if f.k = 0 then s.effCnt t sl .opeK0 0 1 else s
      let s := if n.reason ≠ 0 then
          (s.effCnt t sl .opeAbort 0 1).eff t sl (.opeErr n.reason n.ins.w0 n.ins.w1)
        else
          let s := s.effCnt t sl .opeMacs f.a.code (s.opeMacsOf t f)
          if f.sparse = 3 ∨ f.sparse = 4 ∨ f.sparse = 5 then s.effCnt t sl .opeSkipSteps 0 (f.denseSteps - n.steps) else s
      ((s.effCnt t sl .opeDone 0 1).eff t sl (.event 0)).tagOver t sl

/-! ### The commands -/

def execOpeMma (t : TileId) (s : State) : Result := .next (s.opeStart t false)
def execOpeMma1 (t : TileId) (s : State) : Result := .next (s.opeStart t true)
def execOpeStep (t : TileId) (s : State) : Result := .next (s.opeStep t)
def execOpeDrainBlock (t : TileId) (s : State) : Result := .next (s.drainStart t)
def execOpeDrainRowWrite (t : RowWrite) (s : State) : Result := .next (s.drainWrite t.tile t.granted)
def execOpeCompletion (t : TileId) (s : State) : Result := .next (s.opeComplete t)

end Sys2Proof.Machine
end

