-- ==== Sys2Proof/Machine/Spec.lean ====
section
/-! DEFINITION. Speculative branches (R152 to R159): opening, tagging, waiting, resolving, committing, write-back, cancelling and
the resolution limit. -/
namespace Sys2Proof.Machine

/-- Key range of a slot's shadow block in the accumulators. -/
def State.shadowAccDrop (s : State) (t i : Nat) : State :=
  s.onTile t (fun x => { x with ope := { x.ope with
    acc := sdrop (fun k => k / 16384 == 2 + i) x.ope.acc, exact := sdrop (fun k => k % 2 ^ 20 / 16384 == 2 + i) x.ope.exact } })

/-- A slot's shadow store is emptied. -/
def State.shadowDrop (s : State) (t i : Nat) : State :=
  s.onTile t (fun x => { x with shadow := sdrop (fun k => k / 16384 == i) x.shadow })

/-- A slot becomes free: SPEC_FREE (R173). -/
def State.slotFree (s : State) (t i : Nat) : State :=
  ((s.shadowDrop t i).setSlot t i {}).event t 5

/-- SPEC.OPEN (R152): the lowest free slot with a window that no other slot holds, or 0xFFFF_FFFF. -/
def State.specOpen (s : State) (t : Nat) : State :=
  s.coreRow t .specOpen (fun s c =>
    let w := c.imm8 % 16
    let taken := [0, 1, 2, 3].any (fun i => (s.slot t i).mode != .free && (s.slot t i).win == w)
    match [0, 1, 2, 3].find? (fun i => (s.slot t i).mode == .free) with
    | some i =>
      if taken then ((s.cnt .specOpenRefused t 0 1).xw t c.rd 0xFFFFFFFF).retire t
      else
        let s := (s.shadowAccDrop t i).shadowDrop t i
        let s := s.setSlot t i { mode := .opened, win := w, openedAt := s.tally, limit := s.rd .tileSpecLimitNs t }
        ((s.cnt .specOpen t 0 1).xw t c.rd i).retire t
    | none => ((s.cnt .specOpenRefused t 0 1).xw t c.rd 0xFFFFFFFF).retire t)

/-- SPEC.BEGIN: later OPE and VE instructions carry the slot's tag. -/
def State.specBegin (s : State) (t : Nat) : State :=
  s.coreRow t .specBegin (fun s c => (s.onCore t (fun k => { k with tagSlot := some (c.imm8 % 4) })).retire t)

/-- SPEC.END: tagging stops. -/
def State.specEnd (s : State) (t : Nat) : State :=
  s.coreRow t .specEnd (fun s _ => (s.onCore t (fun k => { k with tagSlot := none })).retire t)

/-- Every tagged instruction of the slots in a mask has completed or been discarded (R152). -/
def State.specQuiet (s : State) (t mask : Nat) : Bool :=
  [0, 1, 2, 3].all (fun i => !(bitOf mask i) || (s.slot t i).live == 0)

/-- SPEC.WAIT. -/
def State.specWait (s : State) (t : Nat) : State :=
  s.coreRow t .specWait (fun s c => if s.specQuiet t (c.imm8 % 16) then s.retire t else s.park t (.spec (c.imm8 % 16)))

/-- A waiting SPEC.WAIT returns. -/
def State.specWaitReturn (s : State) (t : Nat) : State :=
  match (s.tile t).core.wait with
  | .spec mask => if (s.tile t).active && s.specQuiet t mask then s.retire t else s
  | _ => s

/-- How many held flag sets and exceptions a drop discards (R155): each engine's held flag bits, a bit that several instructions raised once, and each
error record. What one unit of SPEC_HELD_DROP is the spec leaves open (DESIGN CHOICE, log 26). -/
def heldDrops (l : List Held) : Nat :=
  let bits (ve : Bool) : Nat := l.foldl (fun acc h => match h with
    | .flags v b => if v == ve then acc ||| b else acc
    | _ => acc) 0
  let pop (n : Nat) : Nat := (List.range 5).foldl (fun a k => a + b2n (bitOf n k)) 0
  pop (bits false) + pop (bits true) + (l.filter (fun h => match h with
    | .opeErr .. => true
    | .veErr .. => true
    | _ => false)).length

/-- A branch is dropped (R156): held effects are discarded, queued tagged instructions too; the slot cancels until its engines
have stopped. -/
def State.dropSlot (s : State) (t i : Nat) : State :=
  let x := s.tile t
  let q1 := x.ope.queue.filter (fun n => n.slot != some i)
  let q2 := x.ve.queue.filter (fun n => n.slot != some i)
  let dropped := (x.ope.queue.length - q1.length) + (x.ve.queue.length - q2.length)
  let sl := s.slot t i
  let s := s.onTile t (fun x => { x with ope := { x.ope with queue := q1 }, ve := { x.ve with queue := q2 } })
  let s := s.setSlot t i { sl with mode := .cancelling, held := [], live := sl.live - dropped }
  ((s.cnt .specInstrDropped t 0 dropped).cnt .specStepsDropped t 0 sl.steps).cnt .specHeldDrop t 0 (heldDrops sl.held)

/-- A branch not yet resolved has reached its limit (R158, R44: the deadline itself is too late). -/
def State.specExpired (s : State) (t i : Nat) : Bool :=
  let x := s.slot t i
  x.mode == .opened && !x.confirmed && x.limit != 0 && decide (s.tally ≥ x.openedAt + x.limit)

/-- SPEC_TIMEOUT (R158): the branch is dropped as by SPEC.RESOLVE. -/
def State.specTimeout (s : State) (t i : Nat) : State :=
  if (s.tile t).active && s.specExpired t i then (s.cnt .specTimeout t 0 1).dropSlot t i else s

/-- One slot of a SPEC.RESOLVE (R156, R158). A RESOLVE that names several stale slots counts SPEC_STALE once for each: R158 says what one of them counts
(DESIGN CHOICE, log 26). -/
def State.resolveSlot (s : State) (t i : Nat) (confirm drop : Bool) : State :=
  if !confirm && !drop then s
  else
    let s := s.specTimeout t i
    let x := s.slot t i
    if x.mode != .opened || x.confirmed then s.cnt .specStale t 0 1
    else if drop then (s.cnt .specDrop t 0 1).dropSlot t i
    else (s.setSlot t i { x with confirmed := true }).cnt .specConfirm t 0 1

/-- SPEC.RESOLVE: a slot named in both masks is dropped. -/
def State.specResolve (s : State) (t : Nat) : State :=
  s.coreRow t .specResolve (fun s c =>
    ([0, 1, 2, 3].foldl (fun s i => s.resolveSlot t i (bitOf c.imm8 i) (bitOf c.imm8 (4 + i))) s).retire t)

/-- SPEC_COMMIT (R155, R156): once a confirmed branch's last tagged instruction has completed, its held effects all take place,
its shadow block is discarded, and its window's shadow lines become the content; with no line to write back it is free. -/
def State.specCommit (s : State) (t i : Nat) : State :=
  let x := s.slot t i
  if x.mode == .opened && x.confirmed && x.live == 0 && (s.tile t).active then
    let s := x.held.foldl (fun s h => s.applyHeld t h) ((s.shadowAccDrop t i).stepNoted t x.steps)
    let s := s.setSlot t i { x with mode := .committing, held := [] }
    if (s.tile t).shadow.any (fun e => e.1 / 16384 == i) then s else s.slotFree t i
  else s

/-- SPEC_WRITEBACK_LINE (R157): the lowest shadow line goes back into SB through an idle slot, word by word: a word that the branch wrote
whole replaces the old one (R216). A clearing SB holds it (R223); without an idle slot (`granted`) it is deferred, which counts SPD_DEFER and not
OPE_DRAIN_RETRY: no drain of the OPE waits (R112, R214; DESIGN CHOICE, log 70). -/
def State.specWriteback (s : State) (t i : Nat) (granted : Bool) : State :=
  let x := s.slot t i
  if x.mode != .committing || !(s.tile t).active then s
  else match (s.tile t).shadow.find? (fun e => e.1 / 16384 == i) with
    | none => s.slotFree t i
    | some e =>
      if s.clearing t .sb then s.holdAccess t .sb 7
      else if !granted then s.deferOnce t .sb 8
      else
      let s := (s.unhold t 7).unhold t 8
      let line := e.1 / 64
      let mine := (s.tile t).shadow.filter (fun e => e.1 / 64 == line)
      let s1 := s.onTile t (fun y => { y with shadow := sdrop (fun k => k / 64 == line) y.shadow })
      let words := (mine.map (fun e => e.1 / 8)).eraseDups
      let s2 := words.foldl (fun s w => s.spdWordMerge t .sb (x.win * 0x800 + w % 2048)
        ((mine.filter (fun e => e.1 / 8 == w)).map (fun e => (e.1 % 8, BitVec.ofNat 8 (e.2 - 1))))) s1
      let s3 := (s2.bankCount t .sb false 1).cnt .specCommitLines t 0 1
      if (s3.tile t).shadow.any (fun e => e.1 / 16384 == i) then s3 else s3.slotFree t i

/-- SPEC_CANCEL_DONE (R156): the engines stop the slot's executing instructions, and the slot becomes free. -/
def State.specCancelDone (s : State) (t i : Nat) : State :=
  let x := s.slot t i
  if x.mode != .cancelling || !(s.tile t).active then s
  else
    let s := s.onTile t (fun y => { y with
      ope := { y.ope with
        run := y.ope.run.filter (fun r => r.ins.slot != some i)
        drains := y.ope.drains.filter (fun d => d.ins.slot != some i)
        fins := y.ope.fins.filter (fun n => n.ins.slot != some i) }
      ve := { y.ve with fins := y.ve.fins.filter (fun n => n.ins.slot != some i) } })
    let s := s.cnt .specInstrDropped t 0 x.live
    ((s.shadowAccDrop t i).slotFree t i).opeAdvance t opeFuel

/-! ### The commands -/

def execSpecOpen (t : TileId) (s : State) : Result := .next (s.specOpen t)
def execSpecBegin (t : TileId) (s : State) : Result := .next (s.specBegin t)
def execSpecEnd (t : TileId) (s : State) : Result := .next (s.specEnd t)
def execSpecWait (t : TileId) (s : State) : Result := .next (s.specWait t)
def execSpecWaitReturn (t : TileId) (s : State) : Result := .next (s.specWaitReturn t)
def execSpecResolve (t : TileId) (s : State) : Result := .next (s.specResolve t)
def execSpecCommit (t : TileId) (slot : Fin 4) (s : State) : Result := .next (s.specCommit t slot)
def execSpecWritebackLine (t : TileId) (slot : Asked (Fin 4)) (s : State) : Result :=
  .next (s.specWriteback t slot.what slot.granted)
def execSpecCancelDone (t : TileId) (slot : Fin 4) (s : State) : Result := .next (s.specCancelDone t slot)
def execSpecTimeout (t : TileId) (slot : Fin 4) (s : State) : Result := .next (s.specTimeout t slot)

end Sys2Proof.Machine
end

