-- ==== Sys2Proof/Machine/Ve.lean ====
section
/-! DEFINITION. The vector engine (R183 to R190): legality, element-wise arithmetic, correctly rounded transcendental
operations, compare and select, reductions, conversions, permutes, and completion in issue order. -/
namespace Sys2Proof.Machine

/-! ### The instruction (R184) -/

/-- The operations of R185. -/
inductive VeOp where
  | add | sub | mul | fma | min | max | abs | neg | exp2 | log2 | rcp | rsqrt | sqrt | cmp | sel
  | rsum | rmax | rmin | cvt | perm | transp
deriving DecidableEq, Repr

/-- Operation of an opcode: class in bits 5:3, operation in bits 2:0. -/
def veOpOf (opcode : Nat) : Option VeOp :=
  match opcode / 8, opcode % 8 with
  | 0, 0 => some .add | 0, 1 => some .sub | 0, 2 => some .mul | 0, 3 => some .fma
  | 0, 4 => some .min | 0, 5 => some .max | 0, 6 => some .abs | 0, 7 => some .neg
  | 1, 0 => some .exp2 | 1, 1 => some .log2 | 1, 2 => some .rcp | 1, 3 => some .rsqrt | 1, 4 => some .sqrt
  | 2, 0 => some .cmp | 2, 1 => some .sel
  | 3, 0 => some .rsum | 3, 1 => some .rmax | 3, 2 => some .rmin
  | 4, 0 => some .cvt
  | 5, 0 => some .perm | 5, 1 => some .transp
  | _, _ => none

/-- Fields of a VE word that are not register numbers. -/
structure VeF where
  op : Option VeOp
  fs : Option Fmt
  fd : Option Fmt
  round : Nat
  sat : Bool
  bA : Bool
  bB : Bool
  bC : Bool
  imm : Nat
deriving DecidableEq, Repr

/-- Reads the fields. -/
def veFields (w : Nat) : VeF :=
  { op := veOpOf (bitsOf w 63 58), fs := Fmt.ofCode (bitsOf w 57 54), fd := Fmt.ofCode (bitsOf w 53 50),
    round := bitsOf w 49 48, sat := bitOf w 47, bA := bitOf w 18, bB := bitOf w 17, bC := bitOf w 16, imm := bitsOf w 15 0 }

/-- Source and destination formats (FP32 where reserved; a legal instruction has neither reserved). -/
def VeF.s (f : VeF) : Fmt := f.fs.getD .fp32
def VeF.d (f : VeF) : Fmt := f.fd.getD .fp32

/-- The four float formats of arithmetic (R185). -/
def isArithFloat (f : Fmt) : Bool := f == .fp32 || f == .f19 || f == .bf16 || f == .fp16

/-- The two integer formats of arithmetic (R185). -/
def isArithInt (f : Fmt) : Bool := f == .int32 || f == .int8

/-- Formats that an operation permits (R183, R185). -/
def veFormatsOk (op : VeOp) (a d : Fmt) : Bool :=
  match op with
  | .add | .sub | .mul | .fma | .min | .max | .abs | .neg | .rsum | .rmax | .rmin =>
    (isArithFloat a && isArithFloat d) || (isArithInt a && isArithInt d)
  | .exp2 | .log2 | .rcp | .rsqrt | .sqrt => isArithFloat a && isArithFloat d
  | .cmp => isArithFloat a || isArithInt a
  | .sel => (isArithFloat a || isArithInt a) && a == d
  | .cvt => true
  | .perm | .transp => (isArithFloat a || isArithInt a || a == .e4m3 || a == .e5m2) && a == d

/-- Elements of a pass (R183). -/
def veLanes1 (f : Fmt) : Nat :=
  match f with
  | .fp32 | .f19 | .int32 => 64
  | .bf16 | .fp16 => 128
  | _ => 256

/-- Elements of a pass of an instruction; a conversion takes the L of the wider side. In other classes, when FMT and FMT_D differ, L is
that of FMT: the model's choice, since R183 does not say which format counts (log 71). -/
def VeF.lanes (f : VeF) : Nat := if f.op = some .cvt then Nat.min (veLanes1 f.s) (veLanes1 f.d) else veLanes1 f.s

/-- Bytes of a vector of n elements: MX layout with scales in a conversion (R70), packed elements elsewhere. -/
def veBytes (f : Fmt) (cvt : Bool) (n : Nat) : Nat :=
  if cvt && f.isMx then (if n = 0 then 0 else rowScaleOff f n + ceilDiv n 32) else elemBytes f n

/-- Results of a reduction (R185). -/
def VeF.results (f : VeF) (n : Nat) : Nat :=
  match f.op with
  | some .rsum | some .rmax | some .rmin => ceilDiv n (Nat.max 1 f.imm)
  | _ => n

/-- Source extents that an operation reads: (offset, bytes). -/
def VeF.sources (f : VeF) (i : VeInstr) : List (Nat × Nat) :=
  let cvt := f.op = some .cvt
  let len (sc : Bool) : Nat := if sc then Nat.min 1 i.n else i.n
  let a := (i.a, veBytes f.s cvt (len f.bA))
  let b := (i.b, veBytes f.s cvt (len f.bB))
  let c := (i.c, veBytes f.s cvt (len f.bC))
  match f.op with
  | some .add | some .sub | some .mul | some .min | some .max | some .cmp => [a, b]
  | some .fma => [a, b, c]
  | some .sel => [a, b, (i.c, ceilDiv (len f.bC) 8)]
  | some .perm => [a, (i.c, 2 * len f.bC)]
  | _ => [a]

/-- Destination extent. -/
def VeF.dest (f : VeF) (i : VeInstr) : Nat × Nat :=
  match f.op with
  | some .cmp => (i.d, ceilDiv i.n 8)
  | _ => (i.d, veBytes f.d (f.op = some .cvt) (f.results i.n))

/-- An extent that is 64-byte aligned and lies within one bank (R187). -/
def extentOk (e : Nat × Nat) : Bool :=
  e.1 % 64 == 0 && match bankAt e.1 with
    | some b => decide (e.1 + e.2 ≤ bankBase b + bankSize b)
    | none => false

/-- The destination overlaps a source without being identical to it (R187). -/
def partOverlap (d s : Nat × Nat) : Bool :=
  d != s && decide (d.1 < s.1 + s.2) && decide (s.1 < d.1 + d.2) && d.2 != 0 && s.2 != 0

/-- The reason an instruction is illegal, lowest code first (R187, R189). -/
def State.veIllegal (s : State) (t : Nat) (i : VeInstr) : Option Nat :=
  let f := veFields i.word
  match f.op with
  | none => some 0x01
  | some op =>
    let win := ((i.slot.map (fun k => (s.slot t k).win)).getD 0) * 0x4000 + 0x5C0000
    let d := f.dest i
    if f.fs.isNone || (op != .cmp && f.fd.isNone) || !veFormatsOk op f.s f.d then some 0x02
    else if !((d :: f.sources i).all extentOk) then some 0x03
    else if i.slot.isSome && !(decide (win ≤ d.1) && decide (d.1 + d.2 ≤ win + 0x4000) && decide (d.1 < win + 0x4000)) then some 0x04
    else if (f.sources i).any (partOverlap d) then some 0x05
    else match op with
      | .rsum | .rmax | .rmin => if f.imm = 0 ∨ f.imm > 4096 then some 0x06 else none
      | .transp => if i.n % 4096 ≠ 0 then some 0x06 else none
      | _ => none

/-! ### Correctly rounded transcendental operations (R185, R186) -/

/-- Integer square root by bits, from bit `b` down. -/
def isqrtBits : Nat → Nat → Nat → Nat
  | 0, r, _ => r
  | b + 1, r, n => if (r + 2 ^ b) * (r + 2 ^ b) ≤ n then isqrtBits b (r + 2 ^ b) n else isqrtBits b r n

/-- Floor of the square root. -/
def isqrt (n : Nat) : Nat := isqrtBits (Nat.log2 n / 2 + 1) 0 n

/-- An exact result, or one with a non-zero remainder below its last bit (`sticky`), or a special one; with INV and OVF. -/
structure TransRes where
  n : Num
  sticky : Bool := false
  inv : Bool := false
  ovf : Bool := false
deriving DecidableEq, Repr

/-- 1 / x: an exact division by zero sets OVF (R186). -/
def transRcp : Num → TransRes
  | .nan sg => { n := .nan false, inv := sg }
  | .inf s => { n := .fin s 0 0 }
  | .fin s m e =>
    if m = 0 then { n := .inf s, ovf := true }
    else
      let p := Nat.log2 m + 100
      { n := .fin s (2 ^ p / m) (-(p : Int) - e), sticky := 2 ^ p % m != 0 }

/-- Square root: of a negative number a NaN with INV; sqrt(-0) is -0. -/
def transSqrt : Num → TransRes
  | .nan sg => { n := .nan false, inv := sg }
  | .inf true => { n := .nan false, inv := true }
  | .inf false => { n := .inf false }
  | .fin s m e =>
    if m = 0 then { n := .fin s 0 0 }
    else if s then { n := .nan false, inv := true }
    else
      let sh := 200 + (e % 2).toNat
      let r := isqrt (m <<< sh)
      { n := .fin false r ((e - (sh : Int)) / 2), sticky := r * r != m <<< sh }

/-- 1 / sqrt(x): of zero an infinity with its sign and OVF; of a negative number a NaN with INV. -/
def transRsqrt : Num → TransRes
  | .nan sg => { n := .nan false, inv := sg }
  | .inf true => { n := .nan false, inv := true }
  | .inf false => { n := .fin false 0 0 }
  | .fin s m e =>
    if m = 0 then { n := .inf s, ovf := true }
    else if s then { n := .nan false, inv := true }
    else
      let p := 2 * Nat.log2 m + 200
      let p := p + ((p : Int) + e).natAbs % 2
      let q := 2 ^ p / m
      let r := isqrt q
      { n := .fin false r ((-e - (p : Int)) / 2), sticky := r * r * m != 2 ^ p }

/-- The largest c in [r, r + 2^b) with c^d ≤ bound, by bits. -/
def rootBits (d bound : Nat) : Nat → Nat → Nat
  | 0, r => r
  | b + 1, r => if (r + 2 ^ b) ^ d ≤ bound then rootBits d bound b (r + 2 ^ b) else rootBits d bound b r

/-- 2^x: the integer part of x scales 2^f, and the 64 leading fraction bits of 2^f, with f = k / 2^j, are the largest c with
c^(2^j) ≤ 2^(k + 64 * 2^j); the rest is irrational unless f is zero. -/
def transExp2 : Num → TransRes
  | .nan sg => { n := .nan false, inv := sg }
  | .inf true => { n := .fin false 0 0 }
  | .inf false => { n := .inf false }
  | .fin s m e =>
    let v : Int := if s then -(m : Int) else m
    if m = 0 then { n := .fin false 1 0 }
    else if e ≥ 0 then { n := .fin false 1 (v * (2 ^ e.toNat : Int)) }
    else
      let j := (-e).toNat
      let ip := v / (2 ^ j : Int)
      let k := (v % (2 ^ j : Int)).toNat
      if k = 0 then { n := .fin false 1 ip }
      else
        let c := rootBits (2 ^ j) (2 ^ (k + 64 * 2 ^ j)) 64 (2 ^ 64)
        { n := .fin false c (ip - 64), sticky := true }

/-- log2(x): of zero minus infinity; of a negative number a NaN with INV; of m * 2^e with m not a power of two, the first 128
fraction bits come from the leading bit of m^(2^128). -/
def transLog2 : Num → TransRes
  | .nan sg => { n := .nan false, inv := sg }
  | .inf true => { n := .nan false, inv := true }
  | .inf false => { n := .inf false }
  | .fin s m e =>
    if m = 0 then { n := .inf true }
    else if s then { n := .nan false, inv := true }
    else
      let l := Nat.log2 m
      if m = 2 ^ l then
        let v : Int := e + l
        { n := .fin (v < 0) v.natAbs 0 }
      else
        let t : Int := (e + l) * (2 ^ 128 : Int) + ((Nat.log2 (m ^ 2 ^ 128) : Nat) - l * 2 ^ 128 : Nat)
        if t ≥ 0 then { n := .fin false t.natAbs (-128), sticky := true }
        else { n := .fin true (t.natAbs - 1) (-128), sticky := true }

/-! ### Element operations -/

/-- A source element as a number: subnormals of FP32 and F19 flushed when FLUSH is set (R81, R82). -/
def veIn (f : Fmt) (flush : Bool) (bits : Nat) : Num × NumFlags := unpackFlush (flush && (f == .fp32 || f == .f19)) f bits

/-- A result narrowed to the destination format (R186): one rounding, FLUSH for FP32 and F19 results. -/
def veOut (f : Fmt) (r : Round) (sat flush : Bool) (n : Num) (sticky : Bool := false) : Stored :=
  narrow f r sat (flush && (f == .fp32 || f == .f19)) n sticky

/-- Adds flags to a stored value. -/
def Stored.with (st : Stored) (fl : NumFlags) : Stored := { st with fl := st.fl.or fl }

/-- One result of the arithmetic and transcendental classes, from the elements of A, B and C. -/
def veElem (f : VeF) (flush : Bool) (r : Round) (a b c : Nat) : Stored :=
  let ua := veIn f.s flush a
  let ub := veIn f.s flush b
  let uc := veIn f.s flush c
  let out (n : Num) (inv : Bool) (fl : NumFlags) : Stored := (veOut f.d r f.sat flush n).with (fl.or { inv := inv })
  let tr (x : TransRes) : Stored := (veOut f.d r f.sat flush x.n x.sticky).with (ua.2.or { inv := x.inv, ovf := x.ovf })
  match f.op with
  | some .add => let q := ua.1.add ub.1; out q.1 q.2 (ua.2.or ub.2)
  | some .sub => let q := ua.1.add ub.1.neg; out q.1 q.2 (ua.2.or ub.2)
  | some .mul => let q := ua.1.mul ub.1; out q.1 q.2 (ua.2.or ub.2)
  | some .fma =>
    let p := ua.1.mul ub.1
    let q := p.1.add uc.1
    out q.1 (p.2 || q.2) ((ua.2.or ub.2).or uc.2)
  | some .min => let q := ua.1.minN ub.1; out q.1 q.2 (ua.2.or ub.2)
  | some .max => let q := ua.1.maxN ub.1; out q.1 q.2 (ua.2.or ub.2)
  | some .abs => out ua.1.abs false ua.2
  | some .neg => out ua.1.neg false ua.2
  | some .exp2 => tr (transExp2 ua.1)
  | some .log2 => tr (transLog2 ua.1)
  | some .rcp => tr (transRcp ua.1)
  | some .rsqrt => tr (transRsqrt ua.1)
  | some .sqrt => tr (transSqrt ua.1)
  | _ => { bits := 0 }

/-- Predicate of CMP (R185, R186): NaN compares false but for NE and UNORD; -0 equals +0. -/
def vePred (p : Nat) (a b : Num) : Bool :=
  let un := a.isNan || b.isNan
  match p % 8 with
  | 0 => a.eqv b
  | 1 => !a.eqv b
  | 2 => !un && a.lt b
  | 3 => !un && (a.lt b || a.eqv b)
  | 4 => !un && b.lt a
  | 5 => !un && (b.lt a || a.eqv b)
  | 6 => !un
  | _ => un

/-! ### Whole instructions -/

/-- Bank and offset of a stride offset. -/
def strideBank (off : Nat) : BankId × Nat :=
  match bankAt off with
  | some b => (b, off - bankBase b)
  | none => (.vb, 0)

/-- A little-endian number at a stride offset, as the instruction sees it: a tagged one sees its own shadow (R153). -/
def State.veNat (s : State) (t : Nat) (slot : Option Nat) (off n : Nat) : Nat :=
  let p := strideBank off
  leNat ((List.range n).map (fun i => s.spdByte t p.1 (p.2 + i) slot))

/-- Packed element j of a vector at a stride offset. -/
def State.veElemAt (s : State) (t : Nat) (slot : Option Nat) (f : Fmt) (base j : Nat) : Nat :=
  let p := elemBitPos f j
  let v := s.veNat t slot (base + p.1 / 8) ((p.1 % 8 + p.2 + 7) / 8)
  ofContainer f ((v >>> (p.1 % 8)) % 2 ^ p.2)

/-- Element j of a source of a conversion as a number with flags: block-scaled elements carry their block's scale (R69). -/
def State.cvtIn (s : State) (t : Nat) (i : VeInstr) (f : VeF) (j : Nat) : Num × NumFlags :=
  let j := if f.bA then 0 else j
  let n := if f.bA then 1 else i.n
  let bits := s.veElemAt t i.slot f.s i.a j
  if f.s.isMx then
    let x := s.veNat t i.slot (i.a + rowScaleOff f.s n + j / 32) 1
    if x = 255 then (.nan false, { inv := true }) else ((unpack f.s bits).scale ((x : Int) - 127), {})
  else veIn f.s i.flush bits

/-- What an instruction writes: element results, the scale bytes of a block-scaled destination, and the elements of a PERM whose
index is out of range. -/
structure VeResult where
  vals : List Stored
  scales : List Nat := []
  oor : List Nat := []
deriving DecidableEq, Repr

/-- The first k results. -/
def VeResult.first (r : VeResult) (k : Nat) : VeResult :=
  { vals := r.vals.take k, scales := r.scales.take (ceilDiv k 32), oor := r.oor.filter (fun j => decide (j < k)) }

/-- Round mode of destination element j (site 3, R186). -/
def veRound (f : VeF) (i : VeInstr) (j : Nat) : Round := Round.ofField f.round (srDraw i.key i.tag 3 j)

/-- One group of a reduction (R133, R186): the tree with add_c in FP32 or INT32, or maximum or minimum; then one narrowing. -/
def veReduce (f : VeF) (flush : Bool) (r : Round) (l : List Nat) : Stored :=
  if f.op = some .rsum then
    if f.s.isInt then
      let w := l.map (fun b => ofSigned 32 (toSigned f.s.width b))
      let q := treeSum (addC .int32 f.sat false) l.length w
      ((narrowInt f.d f.sat (toSigned 32 q.1)).with q.2).reduced f.d (Num.sum (w.map (unpack .int32))).1 q.2.ovf
    else
      let w := l.map (fun b => let u := veIn f.s flush b; (narrow .fp32 .rne true false u.1).with u.2)
      let fl := w.foldl (fun a st => a.or st.fl) ({} : NumFlags)
      let q := treeSum (addC .fp32 f.sat flush) l.length (w.map (·.bits))
      ((veOut f.d r f.sat flush (unpack .fp32 q.1)).with (fl.or q.2)).reduced f.d
        (Num.sum (w.map (fun st => unpack .fp32 st.bits))).1 q.2.ovf
  else
    let w := l.map (veIn f.s flush)
    let pick (a b : Num × NumFlags) : Num × NumFlags :=
      let q := if f.op = some .rmax then a.1.maxN b.1 else a.1.minN b.1
      (q.1, (a.2.or b.2).or { inv := q.2 })
    match w with
    | [] => { bits := 0 }
    | x :: xs =>
      let q := xs.foldl pick x
      (veOut f.d r f.sat flush q.1).with q.2

/-- The results of a legal instruction. -/
def State.veCompute (s : State) (t : Nat) (i : VeInstr) : VeResult :=
  let f := veFields i.word
  let get (sc : Bool) (base j : Nat) : Nat := s.veElemAt t i.slot f.s base (if sc then 0 else j)
  match f.op with
  | some .cmp | some .sel =>
    { vals := (List.range i.n).map (fun j =>
        let a := get f.bA i.a j
        let b := get f.bB i.b j
        if f.op = some .cmp then
          let ua := veIn f.s i.flush a
          let ub := veIn f.s i.flush b
          { bits := b2n (vePred f.imm ua.1 ub.1), fl := (ua.2.or ub.2).or { inv := ua.1.isSnan || ub.1.isSnan } }
        else
          let k := if f.bC then 0 else j
          { bits := if bitOf (s.veNat t i.slot (i.c + k / 8) 1) (k % 8) then a else b }) }
  | some .rsum | some .rmax | some .rmin =>
    { vals := (List.range (f.results i.n)).map (fun g =>
        let js := (List.range (Nat.min f.imm (i.n - g * f.imm))).map (fun k => g * f.imm + k)
        veReduce f i.flush (veRound f i g) (js.map (get f.bA i.a))) }
  | some .cvt =>
    let ins := (List.range i.n).map (fun j => s.cvtIn t i f j)
    if f.d.isMx then
      let q := (List.range (ceilDiv i.n 32)).map (fun b =>
        let js := (List.range (Nat.min 32 (i.n - 32 * b))).map (fun c => 32 * b + c)
        let vs := js.map (fun j => (ins.getD j (.fin false 0 0, {}), j))
        let r := quantBlock f.d f.sat (vs.map (fun p => (p.1.1, veRound f i p.2)))
        (r.1, (r.2.zip vs).map (fun p => p.1.with p.2.1.2)))
      { vals := q.flatMap (·.2), scales := q.map (·.1) }
    else
      { vals := (ins.zip (List.range i.n)).map (fun p => (veOut f.d (veRound f i p.2) f.sat i.flush p.1.1).with p.1.2) }
  | some .perm =>
    let idx (j : Nat) : Nat := s.veNat t i.slot (i.c + 2 * (if f.bC then 0 else j)) 2
    { vals := (List.range i.n).map (fun j => { bits := if idx j ≥ i.n then 0 else get f.bA i.a (idx j) }),
      oor := (List.range i.n).filter (fun j => decide (idx j ≥ i.n)) }
  | some .transp =>
    { vals := (List.range i.n).map (fun j =>
        { bits := get f.bA i.a (j / 4096 * 4096 + (j % 64) * 64 + j % 4096 / 64) }) }
  | _ =>
    { vals := (List.range i.n).map (fun j => veElem f i.flush (veRound f i j) (get f.bA i.a j) (get f.bB i.b j) (get f.bC i.c j)) }

/-- Bytes that the first results make: one bit per element for CMP (the bits of a last byte beyond them keep their value), packed
elements with zeros in the unused part of a last block, then scale bytes, placed for the instruction's n (R70, R185). -/
def State.veParts (s : State) (t : Nat) (i : VeInstr) (f : VeF) (r : VeResult) : List (Nat × List Byte) :=
  let k := r.vals.length
  if k = 0 then []
  else if f.op = some .cmp then
    let nb := ceilDiv k 8
    let old := s.veNat t i.slot i.d nb / 2 ^ k * 2 ^ k
    [(i.d, natLe nb (old + r.vals.foldr (fun st acc => st.bits % 2 + 2 * acc) 0))]
  else if f.op = some .cvt ∧ f.d.isMx then
    [(i.d, packElems f.d (r.vals.map (·.bits) ++ List.replicate (roundUp k 32 - k) 0)),
     (i.d + rowScaleOff f.d i.n, r.scales.map (BitVec.ofNat 8))]
  else
    let w := (elemBitPos f.d 0).2
    let bits := w * k
    let nb := ceilDiv bits 8
    let keep := s.veNat t i.slot (i.d + bits / 8) 1 / 2 ^ (bits % 8) * 2 ^ bits
    [(i.d, natLe nb (leNat (packElems f.d (r.vals.map (·.bits))) % 2 ^ bits + (if bits % 8 = 0 then 0 else keep)))]

/-- The oldest instruction leaves the queue. -/
def State.veTake (s : State) (t : Nat) : State :=
  s.onTile t (fun x => { x with ve := { x.ve with queue := x.ve.queue.tail } })

/-- Puts an instruction among those whose passes are over. -/
def State.veOver (s : State) (t : Nat) (n : VeFin) : State :=
  s.onTile t (fun x => { x with ve := { x.ve with fins := x.ve.fins ++ [n] } })

/-- Reads an extent: ECC effects, and whether a word of it is poisoned. VB is the VE's own bank (R187); a tagged instruction sees its own
window's shadow (R153). -/
def State.veAccess (s : State) (t : Nat) (slot : Option Nat) (e : Nat × Nat) : State × Bool :=
  let p := strideBank e.1
  let r := s.spdWordsRead t p.1 (b2n (p.1 ≠ .vb)) p.2 e.2 slot
  (r.1.effBankCount t slot p.1 (p.1 = .vb) (linesOf p.2 e.2), r.2)

/-- The reading of source extents. -/
def State.veReads (s : State) (t : Nat) (slot : Option Nat) (l : List (Nat × Nat)) : State × Bool :=
  l.foldl (fun acc e => let r := acc.1.veAccess t slot e; (r.1, acc.2 || r.2)) (s, false)

/-- A byte span of the tile in which the instruction would read a poisoned word. -/
def State.spanBad (s : State) (t : Nat) (slot : Option Nat) (off n : Nat) : Bool :=
  let p := strideBank off
  s.spdBad t p.1 p.2 n slot

/-- The extents that an instruction reads: whole sources, but of PERM's source only the words that hold an element some index names. -/
def State.veExtents (s : State) (t : Nat) (i : VeInstr) (f : VeF) : List (Nat × Nat) :=
  if f.op = some .perm then
    let w := (elemBitPos f.s 0).2 / 8
    let named := (List.range i.n).filterMap (fun j =>
      let k := s.veNat t i.slot (i.c + 2 * (if f.bC then 0 else j)) 2
      if k < i.n then some ((i.a + (if f.bA then 0 else k) * w) / 8 * 8) else none)
    (f.sources i).drop 1 ++ named.eraseDups.map (fun a => (a, 8))
  else f.sources i

/-- Do the operands of pass p hold a poisoned word? PERM reads the elements that its indices name, TRANSP those it moves. -/
def State.vePassBad (s : State) (t : Nat) (i : VeInstr) (f : VeF) (p : Nat) : Bool :=
  let lo := p * f.lanes
  let cnt := Nat.min f.lanes (i.n - lo)
  let cvt := f.op = some .cvt
  let elems (sc : Bool) (base lo cnt : Nat) : Bool :=
    let lo := if sc then 0 else lo
    let cnt := if sc then Nat.min 1 cnt else cnt
    let w := (elemBitPos f.s 0).2
    s.spanBad t i.slot (base + lo * w / 8) (if cnt = 0 then 0 else ((lo + cnt) * w + 7) / 8 - lo * w / 8) ||
      (cvt && f.s.isMx && s.spanBad t i.slot (base + rowScaleOff f.s (if sc then 1 else i.n) + lo / 32) (ceilDiv cnt 32))
  let bits : Bool := let l := if f.bC then 0 else lo
    s.spanBad t i.slot (i.c + l / 8) (if cnt = 0 then 0 else if f.bC then 1 else (l + cnt + 7) / 8 - l / 8)
  match f.op with
  | some .add | some .sub | some .mul | some .min | some .max | some .cmp => elems f.bA i.a lo cnt || elems f.bB i.b lo cnt
  | some .fma => elems f.bA i.a lo cnt || elems f.bB i.b lo cnt || elems f.bC i.c lo cnt
  | some .sel => elems f.bA i.a lo cnt || elems f.bB i.b lo cnt || bits
  | some .perm =>
    s.spanBad t i.slot (i.c + 2 * (if f.bC then 0 else lo)) (if f.bC then Nat.min 2 cnt else 2 * cnt) ||
      (List.range cnt).any (fun j =>
        let k := s.veNat t i.slot (i.c + 2 * (if f.bC then 0 else lo + j)) 2
        decide (k < i.n) && elems f.bA i.a k 1)
  | some .transp => (List.range cnt).any (fun c => let j := lo + c; elems f.bA i.a (j / 4096 * 4096 + (j % 64) * 64 + j % 4096 / 64) 1)
  | _ => elems f.bA i.a lo cnt

/-- Whole passes before the first whose operands are poisoned (R189). -/
def State.vePassesBefore (s : State) (t : Nat) (i : VeInstr) (f : VeF) : Nat :=
  let ps := List.range (ceilDiv i.n f.lanes)
  (ps.find? (s.vePassBad t i f)).getD ps.length

/-- Results that count in the numeric-health counters: not permutes, compares or selects (R186). -/
def VeF.counted (f : VeF) : Bool :=
  match f.op with
  | some .cmp | some .sel | some .perm | some .transp => false
  | _ => true

/-- Results that the elements of whole passes give: whole groups of a reduction. -/
def VeF.resultsOf (f : VeF) (n : Nat) : Nat :=
  match f.op with
  | some .rsum | some .rmax | some .rmin => n / Nat.max 1 f.imm
  | _ => n

/-- The passes of a legal instruction: results of `passes` passes are written; `reason` is 0 or 0x10. -/
def State.veExecute (s : State) (t : Nat) (i : VeInstr) (f : VeF) (passes reason : Nat) : State :=
  let full := s.veCompute t i
  let r := if reason = 0 then full else full.first (f.resultsOf (passes * f.lanes))
  let parts := s.veParts t i f r
  let s := parts.foldl (fun s p => s.engineWrite t i.slot p.1 p.2) s
  let s := if i.slot.isSome then s else
    parts.foldl (fun s p => let q := strideBank p.1; s.bankCount t q.1 (q.1 = .vb) (linesOf q.2 p.2.length)) s
  let s := (s.progress t passes).activity t 5 passes
  (s.veTake t).veOver t {
    ins := i
    reason := reason
    passes := passes
    flags := (r.vals.foldl (fun a st => a.or st.fl) ({} : NumFlags)).toBits
    permOor := r.oor.length
    health := if f.counted then r.vals.flatMap (fun st => (healthKeys f.d st).map (fun k => (k, 1))) else [] }

/-- A VE row (R185): when the head of the queue is this operation, it is checked and executed; its results are written, and it
waits for VE_COMPLETION. A clearing bank holds it. An operand with an uncorrectable error ends it with reason 0x10: the passes
before the first poisoned element have written (R189). -/
def State.veRow (s : State) (t : Nat) (op : VeOp) : State :=
  let x := s.tile t
  match x.ve.queue with
  | [] => s
  | i :: _ =>
    let f := veFields i.word
    if !x.active ∨ f.op ≠ some op then s
    else match s.veIllegal t i with
      | some reason => (s.veTake t).veOver t { ins := i, reason := reason }
      | none =>
        let used := if i.slot.isSome then f.sources i else f.dest i :: f.sources i
        match used.find? (fun e => s.clearing t (strideBank e.1).1 && e.2 != 0) with
        | some e => s.holdAccess t (strideBank e.1).1 2 i.slot
        | none =>
          let rd := (s.unhold t 2).veReads t i.slot (s.veExtents t i f)
          if rd.2 then rd.1.veExecute t i f (rd.1.vePassesBefore t i f) 0x10
          else rd.1.veExecute t i f (ceilDiv i.n f.lanes) 0

/-- VE_COMPLETION (R188, R189): the oldest instruction whose passes are over completes: counts, flags, health, the event, and for
reason other than 0 its record. A queue head whose OPCODE is not defined belongs to no operation row and is discarded here. -/
def State.veComplete (s : State) (t : Nat) : State :=
  let x := s.tile t
  match x.ve.fins with
  | [] =>
    match x.ve.queue with
    | [] => s
    | i :: _ =>
      if !x.active ∨ (veFields i.word).op.isSome then s
      else
        let s := (((s.veTake t).effCnt t i.slot .veIllegal 0 1).eff t i.slot (.veErr 0x01 i.word)).effCnt t i.slot .veDone 0 1
        (s.eff t i.slot (.event 1)).tagOver t i.slot
  | n :: rest =>
    let f := veFields n.ins.word
    let sl := n.ins.slot
    if !x.active ∨ s.cancelled t sl then s
    else
      let s := s.onTile t (fun x => { x with ve := { x.ve with fins := rest } })
      let s :=
        if n.reason ≠ 0 ∧ n.reason ≠ 0x10 then (s.effCnt t sl .veIllegal 0 1).eff t sl (.veErr n.reason n.ins.word)
        else
          let s := (s.effCnt t sl .veInstr 0 1).effCnt t sl .vePasses 0 n.passes
          let s := s.effCnt t sl .veElems f.s.code (Nat.min n.ins.n (n.passes * f.lanes))
          let s := s.effCnt t sl .vePermOor 0 n.permOor
          let s := if n.flags = 0 then s else s.eff t sl (.flags true n.flags)
          let s := n.health.foldl (fun s k => s.effCnt t sl (healthField (k.1 % 4)) (k.1 / 4) k.2) s
          if n.reason = 0 then s else (s.effCnt t sl .veAbort 0 1).eff t sl (.veErr n.reason n.ins.word)
      ((s.effCnt t sl .veDone 0 1).eff t sl (.event 1)).tagOver t sl

/-! ### The commands -/

def execVeAdd (t : TileId) (s : State) : Result := .next (s.veRow t .add)
def execVeSub (t : TileId) (s : State) : Result := .next (s.veRow t .sub)
def execVeMul (t : TileId) (s : State) : Result := .next (s.veRow t .mul)
def execVeFma (t : TileId) (s : State) : Result := .next (s.veRow t .fma)
def execVeMin (t : TileId) (s : State) : Result := .next (s.veRow t .min)
def execVeMax (t : TileId) (s : State) : Result := .next (s.veRow t .max)
def execVeAbs (t : TileId) (s : State) : Result := .next (s.veRow t .abs)
def execVeNeg (t : TileId) (s : State) : Result := .next (s.veRow t .neg)
def execVeExp2 (t : TileId) (s : State) : Result := .next (s.veRow t .exp2)
def execVeLog2 (t : TileId) (s : State) : Result := .next (s.veRow t .log2)
def execVeRcp (t : TileId) (s : State) : Result := .next (s.veRow t .rcp)
def execVeRsqrt (t : TileId) (s : State) : Result := .next (s.veRow t .rsqrt)
def execVeSqrt (t : TileId) (s : State) : Result := .next (s.veRow t .sqrt)
def execVeCmp (t : TileId) (s : State) : Result := .next (s.veRow t .cmp)
def execVeSel (t : TileId) (s : State) : Result := .next (s.veRow t .sel)
def execVeRsum (t : TileId) (s : State) : Result := .next (s.veRow t .rsum)
def execVeRmax (t : TileId) (s : State) : Result := .next (s.veRow t .rmax)
def execVeRmin (t : TileId) (s : State) : Result := .next (s.veRow t .rmin)
def execVeCvt (t : TileId) (s : State) : Result := .next (s.veRow t .cvt)
def execVePerm (t : TileId) (s : State) : Result := .next (s.veRow t .perm)
def execVeTransp (t : TileId) (s : State) : Result := .next (s.veRow t .transp)
def execVeCompletion (t : TileId) (s : State) : Result := .next (s.veComplete t)

end Sys2Proof.Machine
end

