-- ==== Sys2Proof/Machine/Memory.lean ====
section
/-! DEFINITION. The commands of the scratchpad banks and the HBM controllers (R212 to R236), and the reads and writes that other
units make at a device address. -/
namespace Sys2Proof.Machine

/-! ### Banks -/

/-- Access slots of a bank per step period (R212). -/
def bankSlots (b : BankId) : Nat := if b = .vb then 16 else 4

/-- Tally ns that clearing a bank takes (R222). -/
def clearNs : BankId → Nat
  | .ma => 2200 | .mb => 2200 | .vb => 1375 | .cb => 550 | .sb => 275

/-- A well-formed bank request: within the bank and one line, with as many bytes as it writes. -/
def bankReqOk (b : BankId) (r : BankReq) : Bool :=
  decide (1 ≤ r.len) && decide (r.off % 64 + r.len ≤ 64) && decide (r.off + r.len ≤ bankSize b) &&
    (!r.write || r.data.length == r.len)

/-- The branch slot whose work a request is, if any (R155). -/
def reqSlot (r : BankReq) : Option Nat := r.slot.map Fin.val

/-- A deferral is counted once for the access: in SPD_DEFER and in the requester's own counter (R214); a branch holds the counts of its
own work (R155). -/
def State.deferred (s : State) (t : Nat) (b : BankId) (r : BankReq) : State :=
  let s := s.effCnt t (reqSlot r) .spdDefer (bankIdx b) 1
  match r.cls.val with
  | 1 => s.effCnt t (reqSlot r) .opeDrainRetry 0 1
  | 2 => s.effCnt t (reqSlot r) .veSlotRetry 0 1
  | 5 => s.cnt .hstSlotRetry t 0 1
  | _ => match r.who with
    | .hoist u => s.cnt .hstSlotRetry u 0 1
    | _ => s

/-- The non-master requesters that wait at a bank, by class, with how often each has been passed over: its oldest request tells. -/
def classWaits (l : List WaitingReq) : List (Nat × Nat) :=
  [1, 2, 3, 4, 5, 6, 7].filterMap (fun c => (l.find? (fun w => w.req.cls.val == c)).map (fun w => (c, w.passed)))

/-- Must a requester that has been passed over go next, so that none of those ranked together waits for more than 16 grants (R32)? One that has been
passed over 15 times must (R213), or k + 1 that have been 15 - k times, since they can only go one after the other. -/
def starved (passed : List Nat) : Bool :=
  (List.range passed.length).any (fun k => decide ((passed.filter (fun p => decide (p + k ≥ 15))).length ≥ k + 1))

/-- Which request takes the next slot (R32, R213): the master's; when it leaves the slot idle, the oldest of the requester that has been passed over
most when one is starved, else the oldest of the highest priority. Answers its position. -/
def pickNext (l : List WaitingReq) : Option Nat :=
  let best := l.foldl (fun m w => min m w.req.cls.val) 8
  let ws := classWaits l
  let worst := ws.foldl (fun a b => if b.2 > a.2 then b else a) (best, 0)
  let cls := if best = 0 then 0 else if starved (ws.map Prod.snd) then worst.1 else best
  l.findIdx? (fun w => w.req.cls.val == cls)

/-- Grants up to n slots: (granted in order of grant, the rest). The bound of R32 is each requester's: a grant of one of its requests starts the count
of its others anew, and the other non-masters remember that they have been passed over. A slot that the master takes passes nobody over. -/
def grants : Nat → List WaitingReq → List WaitingReq × List WaitingReq
  | 0, l => ([], l)
  | n + 1, l =>
    match pickNext l with
    | none => ([], l)
    | some i =>
      let c := ((l[i]?).map (fun w => w.req.cls)).getD 0
      let r := grants n ((l.eraseIdx i).map (fun w =>
        if w.req.cls = 0 ∨ c = 0 then w else { w with passed := if w.req.cls = c then 0 else w.passed + 1 }))
      ((l[i]?).toList ++ r.1, r.2)

/-- What a read that meets poison does beside its data (R218): a headframe core takes a bus fault, the debug port an error response. -/
def State.poisonAnswer (s : State) (who : Requester) : State :=
  match who with
  | .hf n => s.busFault n
  | .dbg => { s with mod := { s.mod with jtagErr := true } }
  | _ => s

/-- A granted read (R215, R217, R218): the data, as it stood before the period, is answered under the request's tag. -/
def State.bankReadDone (s : State) (t : Nat) (b : BankId) (r : BankReq) (data : List Byte) : State :=
  let rd := s.spdWordsRead t b (b2n (r.cls != 0)) r.off r.len (reqSlot r)
  let s := rd.1.onTile t (fun x => { x with reads := x.reads ++ [⟨r.tag, leNat data, rd.2, false⟩] })
  if rd.2 then s.poisonAnswer r.who else s

/-- A request that reaches a bank of a gated tile fails at once (R221): counted, handled for its requester as an undecoded access, and
completed with error status. -/
def State.bankFail (s : State) (t : Nat) (b : BankId) (r : BankReq) : State :=
  ((s.bump .spdGatedAcc).decodeError r.who (spdAddr t b r.off)).onTile t (fun x => { x with reads := x.reads ++ [⟨r.tag, 0, false, true⟩] })

/-- A granted write: untagged to the bank, tagged to its branch's shadow store, which holds only bytes of the branch's own window (R153, R154). -/
def State.bankStore (s : State) (t : Nat) (b : BankId) (r : BankReq) : State :=
  match reqSlot r with
  | none => s.spdWrite t b r.off r.data r.poison
  | some i =>
    let lo := (s.slot t i).win * 0x4000
    if b = .sb ∧ (s.slot t i).mode = .opened ∧ lo ≤ r.off ∧ r.off + r.data.length ≤ lo + 0x4000 then s.shadowPut t i r.off (r.data.map some) else s

/-- The granted writes of a period in the order in which they take effect: those of a requester that ranks lower first, so that the higher grant
priority stores a byte that two writes cover (R215), and one requester's in the order in which it made them (R168). -/
def writeOrder (l : List WaitingReq) : List BankReq :=
  let ws := (l.filter (fun w => w.req.write)).map (fun w => w.req)
  ((ws.map (fun r => (r.cls, r.who))).eraseDups.reverse).flatMap (fun k => ws.filter (fun r => (r.cls, r.who) == k))

/-- One step period of a bank (R213 to R216): grants, counts, reads of the old content, then the writes. Every request asks for the period's first slot, so a non-master that another is granted
before is deferred even when it takes a later slot of the same period (R214; log 72). -/
def State.bankPeriod (s : State) (t : Nat) (b : BankId) (all : List WaitingReq) : State :=
  let g := grants (bankSlots b) all
  let late := (g.1.drop 1 ++ g.2).filter (fun w => w.req.cls != 0 && !w.counted)
  let s := late.foldl (fun s w => s.deferred t b w.req) s
  let bk := s.bank t b
  let s := s.setBank t b { bk with waiting := g.2.map (fun w => { w with counted := true }) }
  let s := g.1.foldl (fun s w => s.effBankCount t (reqSlot w.req) b (w.req.cls == 0) 1) s
  let rs := (g.1.filter (fun w => !w.req.write)).map (fun w =>
    (w.req, (List.range w.req.len).map (fun i => s.spdByte t b (w.req.off + i) (reqSlot w.req))))
  let s := rs.foldl (fun s p => s.bankReadDone t b p.1 p.2) s
  (writeOrder g.1).foldl (fun s r => s.bankStore t b r) s

/-- What the environment brings to a stored word (R217): a single-bit error, or an uncorrectable one. -/
def State.upsetWord (s : State) (k : Nat) : Upset → State
  | .none => s
  | .correctable => if s.mark k = 0 then s.setMark k 1 else s.setMark k 2
  | .uncorrectable => s.setMark k 2

/-- Does the MPU of the headframe core that makes an access block it (R348)? -/
def State.mpuStops (s : State) (who : Requester) (a n : Nat) (write : Bool) : Bool :=
  match who with
  | .hf c => !s.mpuMay c a n (b2n write)
  | _ => false

/-- A blocked access: an MPU fault on its core; a write changes nothing, a read returns zero (R348). -/
def State.bankBlocked (s : State) (t : Nat) (r : BankReq) : State :=
  (match r.who with
    | .hf c => s.busFault c
    | _ => s).onTile t (fun x => { x with reads := if r.write then x.reads else x.reads ++ [(⟨r.tag, 0, false, false⟩ : ReadDone)] })

/-- BANK_ACCESS (R213): requests reach a bank of a tile. Those that the MPU of a headframe core blocks never do (R348). A gated bank fails them at once (R221); a clearing bank holds them
(R223); they wait at a stopped tile's bank (R212), and at a woken tile's until its replica is valid and the clear has followed (R42, R222). -/
def State.bankAccess (s0 : State) (t : Nat) (b : BankId) (all : List BankReq) (u : Upset) : State :=
  let stops (r : BankReq) : Bool := s0.mpuStops r.who (spdAddr t b r.off) r.len r.write
  let s := (all.filter stops).foldl (fun s r => s.bankBlocked t r) s0
  let reqs := all.filter (fun r => !stops r)
  let x := s.tile t
  if x.gated then reqs.foldl (fun s r => s.bankFail t b r) s
  else
    let new := reqs.map (fun r => ({ req := r } : WaitingReq))
    let bk := s.bank t b
    if bk.clearing.isSome then
      reqs.foldl (fun s r => s.effCnt t (reqSlot r) .spdClearHold (bankIdx b) 1) (s.setBank t b { bk with waiting := bk.waiting ++ new })
    else if x.stopped ∨ !x.tallyValid then s.setBank t b { bk with waiting := bk.waiting ++ new }
    else
      let s := match reqs with
        | r :: _ => s.upsetWord (spdAddr t b (r.off / 8 * 8)) u
        | [] => s
      s.bankPeriod t b (bk.waiting ++ new)

/-- A bank that offers slots: its tile powered, its replica valid, not stopped, and the bank not clearing. -/
def State.bankOpen (s : State) (t : Nat) (b : BankId) : Bool :=
  !(s.tile t).gated && (s.tile t).tallyValid && !(s.tile t).stopped && !s.clearing t b

/-- ECC_WRITEBACK (R217): the oldest corrected word is written back in an idle slot; without one (`granted`) it is deferred (R214). -/
def State.eccWriteback (s : State) (t : Nat) (b : BankId) (granted : Bool) : State :=
  let bk := s.bank t b
  match bk.writeback with
  | [] => s
  | w :: rest =>
    if !s.bankOpen t b then s
    else if !granted then
      if bk.fixLate then s else (s.setBank t b { bk with fixLate := true }).cnt .spdDefer t (bankIdx b) 1
    else
      let s := (s.setBank t b { bk with writeback := rest, fixLate := false }).bankCount t b false 1
      let k := spdAddr t b (8 * w)
      if s.mark k = 1 then s.setMark k 0 else s

/-- SCRUB_LINE_READ (R219): once the interval has passed, the next line of a bank is read; corrections are written back. Without an idle
slot (`granted`) the read is deferred (R214). -/
def State.scrubLine (s : State) (t : Nat) (b : BankId) (u : Upset) (granted : Bool) : State :=
  let bk := s.bank t b
  let iv := max 1 (s.rd .spdScrubCfgInterval t) * 64
  if !s.on .spdScrubCfgEn t ∨ !s.bankOpen t b ∨ s.tally < bk.scrubAt + iv then s
  else if !granted then
    if bk.scrubLate then s else (s.setBank t b { bk with scrubLate := true }).cnt .spdDefer t (bankIdx b) 1
  else
    let off := bk.scrubLine * 64
    let s := s.upsetWord (spdAddr t b off) u
    let s := (s.spdWordsRead t b 2 off 64).1
    let bk := s.bank t b
    let s := s.setBank t b { bk with scrubLine := (bk.scrubLine + 1) % (bankSize b / 64), scrubAt := s.tally, scrubLate := false }
    (s.bankCount t b false 1).cnt .spdScrubLines t (bankIdx b) 1

/-- A bank begins to clear (R222, R224); a clear in progress is left as it is. -/
def State.startClear (s : State) (t : Nat) (b : BankId) : State :=
  let bk := s.bank t b
  if bk.clearing.isSome then s
  else (s.setBank t b { bk with clearing := some s.tally, writeback := [] }).cnt .spdClears t (bankIdx b) 1

/-- The five banks. -/
def allBanks : List BankId := [.ma, .mb, .vb, .cb, .sb]

/-- SPD_CLEAR_WRITE (R224): a write of 1 to a bank's CLEAR bit. A gated tile's bank holds nothing to clear, and a woken tile accepts no work before its
replica is valid, when its banks are cleared in any case (R42, R222). -/
def State.spdClear (s : State) (t : Nat) (b : BankId) : State :=
  if (s.tile t).gated ∨ !(s.tile t).tallyValid then s else s.startClear t b

/-- Every word of a bank becomes zero with valid check bits. -/
def State.zeroBank (s : State) (t : Nat) (b : BankId) : State :=
  let lo := spdAddr t b 0
  let inside (k : Nat) : Bool := decide (lo ≤ k) && decide (k < lo + bankSize b)
  { s with mem := sdrop inside s.mem, ecc := sdrop inside s.ecc }

/-- BANK_CLEAR_COMPLETE (R222, R223): the time of the clear has passed; held accesses then take slots. A stop of the tile pauses the clear (R426): its
end moves by the time stopped when the tile resumes. -/
def State.clearDone (s : State) (t : Nat) (b : BankId) : State :=
  let bk := s.bank t b
  match bk.clearing with
  | none => s
  | some at0 =>
    if s.tally < at0 + clearNs b ∨ (s.tile t).stopped then s
    else (s.zeroBank t b).setBank t b { bk with clearing := none, writeback := [] }

/-! ### HBM controllers -/

/-- Band of an HBM device address (R52). -/
def State.bandOf (s : State) (a : Nat) : Nat := (a - 0x10000000000) / (s.variant.stacks * 0x40000000)

/-- Are accesses to an address held for a mode change (R54)? -/
def State.bandHolds (s : State) (a : Nat) : Bool :=
  decide (0x10000000000 ≤ a) && s.bandNext.any (fun p => p.1 == s.bandOf a)

/-- A well-formed HBM request: within one line, with as many bytes as it writes. -/
def hbmReqOk (r : HbmReq) : Bool :=
  decide (1 ≤ r.len) && decide (r.addr % 64 + r.len ≤ 64) && (!r.write || r.data.length == r.len)

/-- What the environment brings to a line (R230). -/
def State.upsetLine (s : State) (c k : Nat) : HbmUpset → State
  | .none => s
  | .one => s.setMark k (match s.mark k with | 0 => 1 | 1 => 5 | m => if m = 3 then 3 else 2)
  | .two => s.setMark k (match s.mark k with | 0 => 5 | m => if m = 3 then 3 else 2)
  | .uncorrectable => if s.mark k = 3 then s else s.setMark k 2
  | .onDie => (s.cnt .hbmOndieCe c 0 1).reportHbm 0 c 3 k
  | .caParity => (s.cnt .hbmCaParRetry c 0 1).reportHbm 0 c 4 k

/-- An access at its controller (R227, R230, R231, R233): a controller that is not ready discards it, which completes with error
status. -/
def State.hbmPerform (s : State) (r : HbmReq) (u : HbmUpset) (wait : Nat) : State :=
  match s.place r.addr with
  | .hbm st l =>
    let c := hbmcOf st l
    if !s.hbmReady c then { s.cnt .hbmResetDiscard c 0 1 with hbmReads := s.hbmReads ++ [⟨r.tag, 0, false, true⟩] }
    else
      let s := (s.cnt .hbmRefWaitNs c 0 wait).upsetLine c (Place.hbm st (l / 64 * 64)).key u
      if r.write then s.hbmLineWrite st l r.data r.poison
      else
        let q := s.hbmLineFetch st l 0
        let s := { q.1 with hbmReads := q.1.hbmReads ++ [⟨r.tag, leNat (q.1.bytes (Place.hbm st l).key r.len), q.2, false⟩] }
        if q.2 then s.poisonAnswer r.who else s
  | _ => { s.decodeError r.who r.addr with hbmReads := s.hbmReads ++ [⟨r.tag, 0, false, true⟩] }

/-- HBM_ACCESS (R227): `wait` is how long the access met a refresh (R229). An access to a band whose mode is changing is held
(R54). One that the MPU of a headframe core blocks is not made (R348). -/
def State.hbmAccess (s : State) (r : HbmReq) (u : HbmUpset) (wait : Nat) : State :=
  if s.mpuStops r.who r.addr r.len r.write then
    let s := match r.who with
      | .hf c => s.busFault c
      | _ => s
    { s with hbmReads := if r.write then s.hbmReads else s.hbmReads ++ [(⟨r.tag, 0, false, false⟩ : ReadDone)] }
  else if s.bandHolds r.addr then { s with bandHeld := s.bandHeld ++ [r] } else s.hbmPerform r u wait

/-- Is the controller present and trained, and not in self-refresh? -/
def State.hbmRuns (s : State) (c : Nat) : Bool := decide (c < s.variant.hbmcs) && s.hbmReady c && !(sget {} c s.hbmcs).selfRefresh

/-- HBM_REFRESH (R229). -/
def State.hbmRefresh (s : State) (c : Nat) : State := if s.hbmRuns c then s.cnt .hbmRefresh c 0 1 else s

/-- Local address of the n-th line of a controller in ascending order: bit 8 of the local address names the controller (R226). -/
def hbmcLine (c n : Nat) : Nat := (n / 4) * 512 + c % 2 * 256 + n % 4 * 64

/-- HBM_SCRUB_LINE_READ (R232): one line per interval over the controller's 18 GiB. -/
def State.hbmScrub (s : State) (c : Nat) (u : HbmUpset) : State :=
  let h := sget {} c s.hbmcs
  if !s.hbmRuns c ∨ !s.on .hbmScrubCfgEn c ∨ s.tally < h.scrubAt + max 1 (s.rd .hbmScrubCfgIntervalNs c) then s
  else
    let l := hbmcLine c h.scrubLine
    let s := s.upsetLine c (Place.hbm (c / 2) l).key u
    let s := ((s.activity (280 + c) 9 1).hbmLineRead (c / 2) l 1).1
    (s.onHbmc c (fun h => { h with scrubLine := (h.scrubLine + 1) % 301989888, scrubAt := s.tally })).cnt .hbmScrubLines c 0 1

/-- HBM_TRAINED (R233): a controller that the variant has, in a module whose tally runs, becomes ready. -/
def State.hbmTrain (s : State) (c : Nat) : State :=
  if c < s.variant.hbmcs ∧ s.on .tlyStatusDevValid then
    let s := if s.hbmReady c then s else s.irq (328 + c)
    s.onHbmc c (fun h => { h with trained := true, selfRefresh := false })
  else s

/-! ### Band modes (R53, R54) -/

/-- Fields that hold the band modes, and the band's place in its field. -/
def bandField (band : Nat) : Field :=
  if band < 16 then .hbmBandMode0 else if band < 32 then .hbmBandMode1 else .hbmBandMode2

/-- Writes the two bits of a band's mode. -/
def State.bandStore (s : State) (band m : Nat) : State :=
  let f := bandField band
  let w := s.rd f
  let k := 4 ^ (band % 16)
  s.wr f 0 0 (w - w / k % 4 * k + m % 4 * k)

/-- A band no longer waits: the value written is in force, and the accesses held for the band are decoded under it and performed. -/
def State.bandRelease (s : State) (band : Nat) : State :=
  let mine := s.bandHeld.filter (fun r => s.bandOf r.addr == band)
  let other := s.bandHeld.filter (fun r => s.bandOf r.addr != band)
  let s := { s with bandNext := s.bandNext.filter (fun p => p.1 != band), bandHeld := other }
  mine.foldl (fun s r => s.hbmPerform r .none 0) s

/-- A value is written for a band. One that differs from the value in force waits until earlier accesses have completed. The spec does not
say what a second write does while the first still waits: in this model the later value replaces the waiting one, and one that restores
the value in force ends the wait without a change (DESIGN CHOICE, log 73). -/
def State.bandRequest (s : State) (band m : Nat) : State :=
  let old := (slook band s.bandNext).getD (s.bandValue band)
  let s := s.bandStore band m
  if m % 4 = old then s.bandRelease band
  else if s.bandNext.any (fun p => p.1 == band) then s
  else { s with bandNext := s.bandNext ++ [(band, old)] }

/-- HBM_BAND_MODE_WRITE (R53, R54): a write of one of the three mode registers, which read the last value written. -/
def State.bandModeWrite (s : State) (reg v : Nat) : State :=
  (List.range (if reg = 2 then 4 else 16)).foldl (fun s k => s.bandRequest (16 * reg + k) (v / 4 ^ k % 4)) s

/-- BAND_MODE_SWITCH (R54): the oldest change that waits takes effect; held accesses to the band are decoded under it. -/
def State.bandSwitch (s : State) : State :=
  match s.bandNext with
  | [] => s
  | (band, _) :: _ => (s.bump .hbmBandRemap).bandRelease band

/-! ### Accesses of other units at a device address -/

/-- What stops an access of a unit at a place: nothing, a hold (it is performed later), or a failure. -/
inductive Access where
  | ok | held | undecoded | discarded (c : Nat)
deriving DecidableEq, Repr

/-- How a scratchpad or HBM address answers now (R42, R50, R54, R212, R221, R223, R233). -/
def State.accessAt (s : State) (a : Nat) : Access :=
  match s.place a with
  | .spd t b _ =>
    if (s.tile t).gated then .undecoded
    else if s.clearing t b ∨ (s.tile t).stopped ∨ !(s.tile t).tallyValid then .held else .ok
  | .hbm st l => if s.bandHolds a then .held else if s.hbmReady (hbmcOf st l) then .ok else .discarded (hbmcOf st l)
  | _ => .undecoded

/-- End of the unit (word of a scratchpad, line of HBM) that holds an address. -/
def unitEnd (a : Nat) : Nat := if a ≥ 0x10000000000 then (a / 64 + 1) * 64 else (a / 8 + 1) * 8

/-- The units of a span: (address, bytes). Fuel bounds their number. -/
def unitsOf : Nat → Nat → Nat → List (Nat × Nat)
  | 0, _, _ => []
  | fuel + 1, a, n => if n = 0 then [] else
    let k := min n (unitEnd a - a)
    (a, k) :: unitsOf fuel (a + k) (n - k)

/-- The units of n bytes at a. -/
def spanUnits (a n : Nat) : List (Nat × Nat) := unitsOf (n + 1) a n

/-- Bytes that precede the first unit in a list of a span's units that a test stops at. -/
def prefixOk (ok : Nat → Bool) : List (Nat × Nat) → Nat
  | [] => 0
  | (a, k) :: rest => if ok a then k + prefixOk ok rest else 0

/-- A byte at a device address, as an untagged reader sees it (R153, R157); zero where nothing decodes. -/
def State.memByte (s : State) (a : Nat) : Byte :=
  match s.place a with
  | .spd t b off => s.spdByte t b off
  | .undecoded => 0#8
  | p => s.byte p.key

/-- Bytes at a device address. -/
def State.memBytes (s : State) (a n : Nat) : List Byte := (List.range n).map (fun i => s.memByte (a + i))

/-- Would a read of the byte at an address meet poison: is its word or line uncorrectable or poisoned, and no shadow byte over it? -/
def State.memBad (s : State) (a : Nat) : Bool :=
  match s.place a with
  | .spd t b off => s.spdBad t b off 1
  | .hbm st l => let m := s.mark (Place.hbm st (l / 64 * 64)).key; m == 2 || m == 3
  | _ => false

/-- Reads n bytes of one unit (ECC effects, counts) for a requester that is a bank's master where `master` says so: the state, and
whether it is bad. -/
def State.unitRead (s : State) (a n : Nat) (master : BankId → Nat → Bool := fun _ _ => false) : State × Bool :=
  match s.place a with
  | .spd t b off => s.spdWordsRead t b (b2n (!master b t)) off n
  | .hbm st l => s.hbmLineFetch st l 0
  | _ => (s, false)

/-- Writes bytes within one unit, as poison if asked. -/
def State.unitWrite (s : State) (a : Nat) (bs : List Byte) (poison : Bool) : State :=
  match s.place a with
  | .spd t b off => s.spdWrite t b off bs poison
  | .hbm st l => s.hbmLineWrite st l bs poison
  | _ => s

/-- Granted accesses of the banks that a span of lines meets (R214): one for each 64-byte line in a scratchpad. -/
def State.spanCount (s : State) (a n : Nat) (master : BankId → Nat → Bool := fun _ _ => false) : State :=
  if n = 0 ∨ a ≥ 0x80000000 then s
  else (List.range ((a + n - 1) / 64 + 1 - a / 64)).foldl (fun s i =>
    let l := (a / 64 + i) * 64
    match s.place l with
    | .spd t b _ => s.bankCount t b (master b t) 1
    | _ => s) s

/-- Lines of a non-master's span that meet a bank where a request of a higher rank waits are deferred: the bank counts each once, and so does the
hoist whose line it is (R214, R245). `rank` is the requester's class at a tile's bank. The span moves in one step of the model, in which the line is
then served (log 72). -/
def State.lineDefer (s : State) (a n : Nat) (rank : Nat → Nat) (hoist : Option Nat) : State :=
  if n = 0 ∨ a ≥ 0x80000000 then s
  else (List.range (linesOf a n)).foldl (fun s i =>
    match s.place ((a / 64 + i) * 64) with
    | .spd u b _ =>
      if (s.bank u b).waiting.any (fun w => decide (w.req.cls.val < rank u)) then
        let s := s.cnt .spdDefer u (bankIdx b) 1
        match hoist with
        | some t => s.cnt .hstSlotRetry t 0 1
        | none => s
      else s
    | _ => s) s

/-- Reads a span: ECC effects by unit, the bytes, and for each unit whether it is bad. -/
def State.spanRead (s : State) (a n : Nat) (master : BankId → Nat → Bool := fun _ _ => false) :
    State × List Byte × List (Nat × Bool) :=
  let data := s.memBytes a n
  let r := (spanUnits a n).foldl (fun acc u =>
    let q := acc.1.unitRead u.1 u.2 master
    (q.1, acc.2 ++ [(u.1, q.2)])) ((s, []) : State × List (Nat × Bool))
  (r.1.spanCount a n master, data, r.2)

/-- Writes a span; `bad` says which of its bytes are poison: a unit with a poisoned byte is written as poison (R218). -/
def State.spanWrite (s : State) (a : Nat) (bs : List Byte) (bad : Nat → Bool)
    (master : BankId → Nat → Bool := fun _ _ => false) : State :=
  ((spanUnits a bs.length).foldl (fun s u =>
    let piece := (bs.drop (u.1 - a)).take u.2
    s.unitWrite u.1 piece ((List.range u.2).any (fun i => bad (u.1 - a + i)))) s).spanCount a bs.length master

/-! ### The commands -/

def execBankAccess (t : TileId) (b : BankId) (reqs : List BankReq) (u : Upset) (s : State) : Result :=
  if reqs.all (bankReqOk b) then .next (s.bankAccess t b reqs u) else .refused (.illFormed "BANK_ACCESS")
def execEccWriteback (t : TileId) (b : Asked BankId) (s : State) : Result := .next (s.eccWriteback t b.what b.granted)
def execScrubLineRead (t : TileId) (b : BankId) (u : Asked Upset) (s : State) : Result := .next (s.scrubLine t b u.what u.granted)
def execSpdClearWrite (t : TileId) (b : BankId) (s : State) : Result :=
  .next (s.islandWrite (0x06040100 + 64 * bankIdx b) t 0 2 (fun s => s.spdClear t b))
def execBankClearComplete (t : TileId) (b : BankId) (s : State) : Result := .next (s.clearDone t b)
def execHbmAccess (r : HbmReq) (u : HbmUpset) (wait : Fin 191) (s : State) : Result :=
  if hbmReqOk r then .next (s.hbmAccess r u wait) else .refused (.illFormed "HBM_ACCESS")
def execHbmRefresh (c : HbmcId) (s : State) : Result := .next (s.hbmRefresh c)
def execHbmScrubLineRead (c : HbmcId) (u : HbmUpset) (s : State) : Result := .next (s.hbmScrub c u)
def execHbmBandModeWrite (reg : Fin 3) (v : Nat) (s : State) : Result := .next (s.bandModeWrite reg v)
def execBandModeSwitch (s : State) : Result := .next s.bandSwitch

end Sys2Proof.Machine
end

