-- ==== Sys2Proof/Machine/Rings.lean ====
section
/-! DEFINITION. The rings of the compute die: the paths that packets and lines take (R282, R283), and what each ring stop counts (R389,
R416). -/
namespace Sys2Proof.Machine

/-! ### Paths on the die (R282) -/

/-- What a path on the die begins or ends at. -/
inductive RingEnd where
  | tile (t : Nat) | headframe | ioDie (d : Nat) | hc (k : Nat)
deriving DecidableEq, Repr

/-- Tile stops entered on row ring r from column c to column c'. -/
def rowRun (r c c' : Nat) : List Nat :=
  if c ≤ c' then (List.range (c' - c)).map (fun i => 16 * r + c + 1 + i)
  else (List.range (c - c')).map (fun i => 16 * r + (c - 1 - i))

/-- Tile stops entered on column ring c from row r to row r'. -/
def colRun (c r r' : Nat) : List Nat :=
  if r ≤ r' then (List.range (r' - r)).map (fun i => 16 * (r + 1 + i) + c)
  else (List.range (r - r')).map (fun i => 16 * (r - 1 - i) + c)

/-- Row of an I/O die at which a row's traffic enters or leaves. -/
def dieRow (d r : Nat) : Nat := 8 * (d % 2) + r % 8

/-- Column at an I/O die's end of the row rings: west for dies 0 and 1. -/
def dieCol (d : Nat) : Nat := if d < 2 then 0 else 15

/-- Home row of the headframe for a row. -/
def homeRow (r : Nat) : Nat := if r < 8 then 7 else 8

/-- Column ring by which a column reaches controller k: the nearer of its two. -/
def hcCol (k c : Nat) : Nat := if c ≤ 2 * (k % 8) then 2 * (k % 8) else 2 * (k % 8) + 1

/-- Row at a controller's end of the column rings: north for the first eight. -/
def hcRow (k : Nat) : Nat := if k < 8 then 0 else 15

/-- The tile stops that a packet enters on its path (R282). Paths that stay off the rings enter none. -/
def ringPath : RingEnd → RingEnd → List Nat
  | .tile a, .tile b => rowRun (a / 16) (a % 16) (b % 16) ++ colRun (b % 16) (a / 16) (b / 16)
  | .tile a, .hc k => rowRun (a / 16) (a % 16) (hcCol k (a % 16)) ++ colRun (hcCol k (a % 16)) (a / 16) (hcRow k)
  | .tile a, .ioDie d =>
    colRun (a % 16) (a / 16) (dieRow d (a / 16)) ++ rowRun (dieRow d (a / 16)) (a % 16) (dieCol d)
  | .tile a, .headframe => colRun (a % 16) (a / 16) (homeRow (a / 16)) ++ rowRun (homeRow (a / 16)) (a % 16) 0
  | .hc k, .tile b =>
    let c := hcCol k (b % 16)
    (16 * hcRow k + c) :: colRun c (hcRow k) (b / 16) ++ rowRun (b / 16) c (b % 16)
  | .ioDie d, .tile b =>
    let r := dieRow d (b / 16)
    (16 * r + dieCol d) :: rowRun r (dieCol d) (b % 16) ++ colRun (b % 16) r (b / 16)
  | .headframe, .tile b =>
    let r := homeRow (b / 16)
    (16 * r) :: rowRun r 0 (b % 16) ++ colRun (b % 16) r (b / 16)
  | .ioDie d, .hc k =>
    let r := 8 * (d % 2) + (if k < 8 then 0 else 7)
    let c := if d < 2 then 2 * (k % 8) else 2 * (k % 8) + 1
    (16 * r + dieCol d) :: rowRun r (dieCol d) c ++ colRun c r (hcRow k)
  | .hc k, .ioDie d =>
    let r := 8 * (d % 2) + (if k < 8 then 0 else 7)
    let c := if d < 2 then 2 * (k % 8) else 2 * (k % 8) + 1
    (16 * hcRow k + c) :: colRun c (hcRow k) r ++ rowRun r c (dieCol d)
  | .headframe, .hc k =>
    let r := if k < 8 then 7 else 8
    (16 * r) :: rowRun r 0 (2 * (k % 8)) ++ colRun (2 * (k % 8)) r (hcRow k)
  | .hc k, .headframe =>
    let r := if k < 8 then 7 else 8
    (16 * hcRow k + 2 * (k % 8)) :: colRun (2 * (k % 8)) (hcRow k) r ++ rowRun r (2 * (k % 8)) 0
  | _, _ => []

/-! ### Ends of a packet's path -/

/-- Does the headframe or one of its agents send and take this packet (R275, R278)? -/
def atHeadframe (p : Packet) : Bool := p.ty == 8 || p.ty == 9 || p.ty == 0xA

/-- Where a packet of this device enters the die. -/
def packetFrom (p : Packet) : RingEnd :=
  match p.agent with
  | some k => if k < 16 then .hc k else .headframe
  | none => if atHeadframe p then .headframe else .tile p.srcTile

/-- Where a packet leaves the rings of this device. An ACK to tile 0xFF whose TAG a headframe agent has outstanding is the headframe's (log 24). -/
def State.ringTo (s : State) (p : Packet) : RingEnd :=
  if atHeadframe p then .headframe
  else if p.ty = 0 ∨ p.ty = 4 then
    match s.place p.addr with
    | .spd t _ _ => .tile t
    | .hbm st l => .hc (hbmcOf st l)
    | _ => .headframe
  else if p.ty = 1 ∧ p.dstTile = 0xFF ∧ s.hfOut.any (fun e => e.1 == p.tag) then .headframe
  else .tile p.dstTile

/-- Place of the end station by which an attachment reaches a ring stop; the headframe shares those of I/O dies 0 and 1 (R23). A tile enters
at its own stop. -/
def entryPlace (e : RingEnd) (stop : Nat) : Nat :=
  match e with
  | .tile t => t
  | .headframe => 256 + stop / 16
  | .ioDie d => (if d < 2 then 256 else 272) + stop / 16
  | .hc k => (if k < 8 then 288 else 304) + stop % 16

/-- Place of an attachment as the end of a path. -/
def exitPlace : RingEnd → Nat
  | .tile t => 512 + t
  | .hc k => 768 + k
  | .ioDie d => 784 + d
  | .headframe => 788

/-! ### Channels (R31) -/

/-- The channel in which an arrived packet waits: its source, its VC and where it left the rings. -/
def State.netChan (s : State) (a : Arrival) : Nat × Nat × Option Nat × Nat × Nat :=
  (a.pkt.srcDev, a.pkt.srcTile, a.pkt.agent, a.pkt.vc, exitPlace (s.ringTo a.pkt))

/-- Is an arrival the oldest of its channel? A crossing reorders nothing (R31). -/
def State.netFirst (s : State) (i : Nat) (a : Arrival) : Bool := !(s.dieNet.take i).any (fun b => s.netChan b == s.netChan a)

/-! ### Flits at the ring stops (R389, R416) -/

/-- Flits that a packet occupies (R256). -/
def packetFlits (len : Nat) : Nat := ceilDiv (32 + len) 248

/-- Flits that pass a ring stop count for that stop's ring island. -/
def State.stopFlits (s : State) (t n : Nat) : State := (s.activity (256 + tilePb t) 8 n).cnt .dbgRingFlits (256 + tilePb t) 0 n

/-- Where the rings reach a place. -/
def placeEnd : Place → RingEnd
  | .spd t _ _ => .tile t
  | .hbm st l => .hc (hbmcOf st l)
  | _ => .headframe

/-- The lines of a span that an agent reads or writes pass the rings between it and their places, each as one packet of 64 bytes. In a stop the ring
islands stand still and count nothing (R43, R421): what the headframe writes to HBM then, the dump among it, goes by a way that the spec does not
name (DESIGN CHOICE, log 75). -/
def State.lineFlits (s : State) (who : RingEnd) (a n : Nat) (read : Bool) : State :=
  if n = 0 ∨ s.inStop then s
  else (List.range ((a + n - 1) / 64 + 1 - a / 64)).foldl (fun s i =>
    let e := placeEnd (s.place ((a / 64 + i) * 64))
    (if read then ringPath e who else ringPath who e).foldl (fun s t => s.stopFlits t (packetFlits 64)) s) s

end Sys2Proof.Machine
end

