-- ==== Sys2Proof/Machine/Hoist.lean ====
section
/-! DEFINITION. The hoist (R237 to R245, R149 to R151): taking a descriptor, moving its bytes in element order, segmented
reductions, remote writes, completion and the remote timeout. -/
namespace Sys2Proof.Machine

/-! ### The descriptor (R238) -/

/-- Fields of a descriptor. -/
structure HoistF where
  kind : Nat
  redOp : Nat
  acc : Bool
  fmt : Nat
  round : Nat
  sat : Bool
  srKey : Nat
  sigEn : Bool
  sem : Nat
  remote : Bool
  vc : Nat
  src : Nat
  dst : Nat
  count : Nat
  rowBytes : Nat
  dstStride : Nat
  srcStride : Nat
  idx : Nat
  sigTarget : Nat
  tag : Nat
  dstDevice : Nat
deriving DecidableEq, Repr

/-- Reads the eight words. -/
def hoistFields (d : List Nat) : HoistF :=
  let w (i : Nat) : Nat := d.getD i 0
  { kind := bitsOf (w 0) 63 60, redOp := bitsOf (w 0) 59 58, acc := bitOf (w 0) 57, fmt := bitsOf (w 0) 56 53,
    round := bitsOf (w 0) 52 51, sat := bitOf (w 0) 50, srKey := bitsOf (w 0) 49 47, sigEn := bitOf (w 0) 46,
    sem := bitsOf (w 0) 45 40, remote := bitOf (w 0) 39, vc := bitsOf (w 0) 38 36, src := bitsOf (w 1) 47 0,
    dst := bitsOf (w 2) 47 0, count := bitsOf (w 3) 63 32, rowBytes := bitsOf (w 3) 31 0,
    dstStride := bitsOf (w 4) 63 32, srcStride := bitsOf (w 4) 31 0, idx := bitsOf (w 5) 47 0,
    sigTarget := bitsOf (w 6) 35 0, tag := bitsOf (w 7) 63 32, dstDevice := bitsOf (w 7) 19 0 }

/-- Formats that a reduction accepts (R150). -/
def redFmtOk : Option Fmt → Bool
  | some .fp32 | some .f19 | some .bf16 | some .fp16 | some .int32 | some .int8 => true
  | _ => false

/-- Status that the checks before any byte moves give, lowest code first (R242, R243). -/
def HoistF.illegal (f : HoistF) : Option Nat :=
  if f.kind ≥ 4 then some 0x01
  else if f.redOp ≠ 0 ∧ (f.kind ≠ 3 ∨ !redFmtOk (Fmt.ofCode f.fmt)) then some 0x02
  else if f.kind ≥ 2 ∧ f.rowBytes % 64 ≠ 0 then some 0x03
  else if f.remote ∧ (f.kind ≥ 2 ∨ f.vc < 2) then some 0x04
  else none

/-! ### Moving bytes -/

/-- A descriptor's movement so far: the state, the address that stopped it, the address of the first element copied as poison. -/
structure Move where
  s : State
  stop : Option Nat := none
  bad : Option Nat := none

/-- Records the first poisoned element. -/
def Move.poison (m : Move) (a : Nat) : Move := { m with bad := m.bad.or (some a) }

/-- The movement stops at an address that does not decode (R51, R239), at a gated tile's bank (R221), or at a line that an untrained
controller discards with error status (R233). -/
def Move.halt (m : Move) (t a : Nat) : Move :=
  let s := match m.s.accessAt a with
    | .discarded c => m.s.cnt .hbmResetDiscard c 0 1
    | _ => (m.s.reach a).1.decodeError (.hoist t) a
  { m with s := s, stop := some a }

/-- Bytes at the start of a span whose units an access reaches. -/
def State.okBytes (s : State) (a n : Nat) : Nat := prefixOk (fun u => s.accessAt u == .ok) (spanUnits a n)

/-- Deferrals of the lines of the hoist of tile t (R214, R245). -/
def State.hoistDefer (s : State) (t a n : Nat) : State := s.lineDefer a n (fun u => if u = t then 5 else 6) (some t)

/-- A read of a span for the hoist: deferrals, ECC effects, bank grants, lines and activity. -/
def State.hoistRead (s : State) (t a n : Nat) : State :=
  ((((s.hoistDefer t a n).spanRead a n).1).lineFlits (.tile t) a n true).cnt .hstLinesRd t 0 (linesOf a n)

/-- Lines of a span that hold a poisoned unit. -/
def badLines (units : List (Nat × Nat)) (bad : Nat → Bool) : Nat :=
  ((units.filter (fun u => bad u.1)).map (fun u => u.1 / 64)).eraseDups.length

/-- Writes n bytes at dst, given the bytes and which of them are poison: lines, progress (R204), HST_POISON_COPY. -/
def State.hoistWrite (s : State) (t dst : Nat) (bs : List Byte) (bad : Nat → Bool) : State :=
  let n := bs.length
  let units := spanUnits dst n
  let isBad (u : Nat × Nat) : Bool := (List.range u.2).any (fun i => bad (u.1 - dst + i))
  let s := ((s.hoistDefer t dst n).spanWrite dst bs bad).lineFlits (.tile t) dst n false
  let s := s.cnt .hstPoisonCopy t 0 (badLines (units.filter isBad) (fun _ => true))
  (s.cnt .hstLinesWr t 0 (linesOf dst n)).progress t (linesOf dst n)

/-- A row that a descriptor writes: its source, or none for a row of zeros, which may be poison; its destination and bytes. -/
structure HoistRow where
  src : Option Nat
  dst : Nat
  n : Nat
  bad : Bool := false
deriving DecidableEq, Repr

/-- The rows that a descriptor writes. -/
abbrev Rows := List HoistRow

/-- Does a byte lie in a row's destination? -/
def HoistRow.covers (r : HoistRow) (a : Nat) : Bool := decide (r.dst ≤ a) && decide (a < r.dst + r.n)

/-- The rows, and the part of the last one, that a descriptor moves before the first byte that cannot be moved (R239). -/
def State.movable (s : State) : Rows → Rows
  | [] => []
  | r :: rest =>
    let k := min ((r.src.map (fun a => s.okBytes a r.n)).getD r.n) (s.okBytes r.dst r.n)
    if k = r.n then r :: s.movable rest else [{ r with n := k }]

/-- The byte that a descriptor leaves at an address, and whether it is poison. Where source and destination extents overlap, each destination word
holds the old or the new value of its source, and which is not defined (R241): bit w of the free value `pick` chooses for word w. `s0` is the
state in which the descriptor began. -/
def State.leaves (s0 : State) (rows : Rows) (pick : Nat) : Nat → Nat → Byte × Bool
  | 0, a => (s0.memByte a, s0.memBad a)
  | fuel + 1, a =>
    match rows.reverse.find? (fun r => r.covers a) with
    | none => (s0.memByte a, s0.memBad a)
    | some r =>
      match r.src with
      | none => (0#8, r.bad)
      | some b =>
        let b := b + (a - r.dst)
        if bitOf pick (a / 8) then s0.leaves rows pick fuel b else (s0.memByte b, s0.memBad b)

/-- The bytes that a copy of n bytes stores, each with whether it is poison. -/
def State.copyBytes (s0 : State) (rows : Rows) (pick src dst n : Nat) : List (Byte × Bool) :=
  (List.range n).map (fun i =>
    if bitOf pick ((dst + i) / 8) && rows.any (fun r => r.covers (src + i)) then s0.leaves rows pick ((rows.map (fun r => r.n)).foldl (· + ·) 0) (src + i)
    else (s0.memByte (src + i), s0.memBad (src + i)))

/-- Copies n bytes from src to dst on this device, up to the first byte that cannot be moved. `s0` is the state in which the
descriptor began, `rows` what it writes in all, `pick` the choices of R241. -/
def Move.copy (m : Move) (s0 : State) (rows : Rows) (pick t src dst n : Nat) : Move :=
  if m.stop.isSome then m
  else
    let ps := m.s.okBytes src n
    let pd := m.s.okBytes dst n
    let k := min ps pd
    let bs := s0.copyBytes rows pick src dst k
    let s := m.s.hoistRead t src k
    let bad (i : Nat) : Bool := (bs[i]?).any Prod.snd
    let m := { m with s := s.hoistWrite t dst (bs.map Prod.fst) bad }
    let m := match (List.range k).find? bad with
      | some i => m.poison (src + i)
      | none => m
    if k = n then m else m.halt t (if ps = k then src + k else dst + k)

/-- Writes a row of zeros, or of poison. -/
def Move.fill (m : Move) (t dst n : Nat) (poison : Option Nat) : Move :=
  if m.stop.isSome then m
  else
    let k := m.s.okBytes dst n
    let m := { m with s := m.s.hoistWrite t dst (List.replicate k 0#8) (fun _ => poison.isSome) }
    let m := match poison with
      | some a => m.poison a
      | none => m
    if k = n then m else m.halt t (dst + k)

/-- Sends n bytes from src as WRITE packets of at most 8,192 payload bytes to dst on another device (R240); answers the tags whose
acknowledgements are outstanding. -/
def Move.sendChunks (t : Nat) (f : HoistF) : Nat → Move × List Nat → Nat → Nat → Nat → Move × List Nat
  | 0, r, _, _, _ => r
  | fuel + 1, (m, tags), src, dst, n =>
    if n = 0 ∨ m.stop.isSome then (m, tags)
    else
      let want := min n 8192
      let k := m.s.okBytes src want
      let s := m.s.hoistRead t src k
      let bad := (List.range ((k + 7) / 8)).filter (fun w => (List.range (min 8 (k - 8 * w))).any (fun i => m.s.memBad (src + 8 * w + i)))
      let tag := (s.tile t).hoist.nextTag
      let s := s.onTile t (fun x => { x with hoist := { x.hoist with nextTag := (tag + 1) % 2 ^ 32 } })
      let p : Packet := s.tilePacket t
        { ty := 0, vc := f.vc, dstDev := f.dstDevice, dstTile := dst / 0x800000 % 256, len := k, addr := dst, tag := tag,
          payload := m.s.memBytes src k, poison := bad }
      let s := if k = 0 then s else
        (((s.send p).cnt .hstLinesWr t 0 (linesOf dst k)).progress t (linesOf dst k)).cnt .hstPoisonCopy t 0
          ((bad.map (fun w => (dst + 8 * w) / 64)).eraseDups.length)
      let m := { m with s := s }
      let m := match bad with
        | w :: _ => m.poison (src + 8 * w)
        | [] => m
      let m := if k = want then m else m.halt t (src + k)
      Move.sendChunks t f fuel (m, if k = 0 then tags else tags ++ [tag]) (src + k) (dst + k) (if k = want then n - k else 0)

/-- Linear and strided copies: one row, or COUNT rows (R239). -/
def hoistCopy (s : State) (t : Nat) (f : HoistF) : Move × List Nat :=
  let rows := (List.range (if f.kind = 0 then 1 else f.count)).map (fun r =>
    if f.kind = 0 then (f.src, f.dst) else (f.src + r * f.srcStride, f.dst + r * f.dstStride))
  let moved := s.movable (rows.map (fun r => { src := some r.1, dst := r.2, n := f.rowBytes }))
  let fr := s.takeFree
  rows.foldl (fun (acc : Move × List Nat) r =>
    if f.remote then Move.sendChunks t f (f.rowBytes / 8192 + 1) acc r.1 r.2 f.rowBytes
    else (acc.1.copy s moved fr.1 t r.1 r.2 f.rowBytes, acc.2)) ({ s := if f.remote then s else fr.2 }, [])

/-! ### Index lists, gather and scatter (R149 to R151) -/

/-- An entry of an index list. -/
inductive IdxEntry where
  | row (n : Nat) | null | outOfRange | poisoned
deriving DecidableEq, Repr

/-- Reads the index list of a gather or scatter: the state after the reads and the entries up to the first whose bytes do not
decode. Out-of-range entries are counted in HST_IDX_OOR when they are reached. -/
def State.indexList (s : State) (t : Nat) (f : HoistF) : State × List IdxEntry :=
  let n := s.okBytes f.idx (4 * f.count) / 4
  let entry (r : Nat) : IdxEntry :=
    let a := f.idx + 4 * r
    if s.memBad a || s.memBad (a + 3) then .poisoned
    else
      let v := leNat (s.memBytes a 4)
      if v = 0xFFFFFFFF then .null else if v ≥ f.srcStride then .outOfRange else .row v
  (s.hoistRead t f.idx (4 * n), (List.range n).map entry)

/-- The rows that a gather or scatter writes. -/
def HoistF.rows (f : HoistF) (ix : List IdxEntry) : Rows :=
  (ix.zip (List.range ix.length)).filterMap (fun e =>
    match e.1 with
    | .row n =>
      if f.kind = 2 then some { src := some (f.src + n * f.rowBytes), dst := f.dst + e.2 * f.rowBytes, n := f.rowBytes }
      else some { src := some (f.src + e.2 * f.rowBytes), dst := f.dst + n * f.rowBytes, n := f.rowBytes }
    | i => if f.kind = 2 then some { src := none, dst := f.dst + e.2 * f.rowBytes, n := f.rowBytes, bad := i == .poisoned } else none)

/-- The movement stops at the first byte of the index list that does not decode. -/
def Move.indexEnd (m : Move) (s : State) (t : Nat) (f : HoistF) : Move :=
  let p := s.okBytes f.idx (4 * f.count)
  if m.stop.isSome ∨ p = 4 * f.count then m else m.halt t (f.idx + p)

/-- Counts an out-of-range entry. -/
def Move.oor (m : Move) (t : Nat) : Move := if m.stop.isSome then m else { m with s := m.s.cnt .hstIdxOor t 0 1 }

/-- Gather: destination row r receives table row idx[r]; null and out-of-range rows are zeros, rows of poisoned entries poison. -/
def hoistGather (s : State) (t : Nat) (f : HoistF) : Move :=
  let ix := s.indexList t f
  let moved := s.movable (f.rows ix.2)
  let fr := ix.1.takeFree
  let m := (ix.2.zip (List.range ix.2.length)).foldl (fun (m : Move) e =>
    let dst := f.dst + e.2 * f.rowBytes
    match e.1 with
    | .row n => m.copy s moved fr.1 t (f.src + n * f.rowBytes) dst f.rowBytes
    | .null => m.fill t dst f.rowBytes none
    | .outOfRange => (m.oor t).fill t dst f.rowBytes none
    | .poisoned => m.fill t dst f.rowBytes (some (f.idx + 4 * e.2))) ({ s := fr.2 } : Move)
  if f.rowBytes = 0 then { s := s } else m.indexEnd s t f

/-- Counts a destination that the descriptor has used before (R151). -/
def Move.repeated (m : Move) (t : Nat) (seen : List Nat) (n : Nat) : Move :=
  if seen.contains n ∧ m.stop.isNone then { m with s := m.s.cnt .hstSegRepeat t 0 1 } else m

/-- Scatter without reduction: source row r goes to table row idx[r]. -/
def hoistScatterPlain (s : State) (t : Nat) (f : HoistF) (ix : State × List IdxEntry) : Move :=
  let moved := s.movable (f.rows ix.2)
  let fr := ix.1.takeFree
  ((ix.2.zip (List.range ix.2.length)).foldl (fun (acc : Move × List Nat) e =>
    match e.1 with
    | .row n => (((acc.1.repeated t acc.2 n).copy s moved fr.1 t (f.src + e.2 * f.rowBytes) (f.dst + n * f.rowBytes) f.rowBytes), n :: acc.2)
    | .null => acc
    | .outOfRange => (acc.1.oor t, acc.2)
    | .poisoned => (acc.1.poison (f.idx + 4 * e.2), acc.2)) (({ s := fr.2 } : Move), [])).1

/-- Segments of an index list (R150): (destination row, first source row, source rows), and the other entries in their place. -/
def segments : List IdxEntry → Nat → List (IdxEntry × Nat × Nat)
  | [], _ => []
  | e :: rest, r =>
    match e, segments rest (r + 1) with
    | .row n, (.row n', _, k) :: tail => if n = n' then (.row n, r, k + 1) :: tail else (.row n, r, 1) :: (.row n', r + 1, k) :: tail
    | e, l => (e, r, 1) :: l

/-- Element e of a row at an address. -/
def State.rowElem (s : State) (fmt : Fmt) (base e : Nat) : Nat :=
  let w := (elemBitPos fmt 0).2 / 8
  ofContainer fmt (leNat (s.memBytes (base + e * w) w))

/-- The reduction of the elements of a segment, oldest row first, with the old destination in accumulate mode (R150): the working
value is FP32, or INT32 for integer formats; what enters FP32 as a subnormal is flushed (R81, R128), and the result is narrowed once. -/
def redElem (f : HoistF) (fmt : Fmt) (r : Round) (old : Option Nat) (vals : List Nat) : Stored :=
  let work : Fmt := if fmt.isInt then .int32 else .fp32
  let enter (v : Nat) : Stored :=
    if fmt.isInt then { bits := ofSigned 32 (toSigned fmt.width v) }
    else let u := unpackFlush fmt.fp32Range fmt v
      let st := narrow .fp32 .rne true false u.1
      { st with fl := st.fl.or u.2 }
  let ins := vals.map enter
  let flIn := ins.foldl (fun a st => a.or st.fl) ({} : NumFlags)
  let o := old.map enter
  let combine (a b : Nat) : Stored :=
    if f.redOp = 1 then addC work f.sat true a b
    else
      let q := if f.redOp = 2 then (unpack work a).maxN (unpack work b) else (unpack work a).minN (unpack work b)
      let st := narrow work .rne true false q.1
      { st with fl := { inv := q.2 } }
  let seg := chainSum combine (ins.map (·.bits))
  let all : Nat × NumFlags := match o with
    | none => (seg.1, flIn.or seg.2)
    | some x => let st := combine x.bits seg.1; (st.bits, ((flIn.or seg.2).or x.fl).or st.fl)
  let nums := (o.toList ++ ins).map (fun st => unpack work st.bits)
  let exact : Num := if f.redOp = 1 then (Num.sum nums).1
    else (nums.drop 1).foldl (fun a b => if f.redOp = 2 then (a.maxN b).1 else (a.minN b).1) (nums.headD (.fin false 0 0))
  let st := convert work fmt r f.sat (!fmt.isInt) (fmt == .fp32 || fmt == .f19) all.1
  { st with fl := st.fl.or all.2 }.reduced fmt exact all.2.ovf

/-- The first byte, in element order, of a segment's rows that cannot be moved (R239): the row's place in the segment, the offset in the
row, the undecoded address. -/
def State.segmentStop (s : State) (srcs : List Nat) (dst n : Nat) : Option (Nat × Nat × Nat) :=
  let pd := s.okBytes dst n
  ((List.range srcs.length).zip srcs).findSome? (fun p =>
    let ps := s.okBytes p.2 n
    if min ps pd = n then none else some (p.1, min ps pd, if ps ≤ pd then p.2 + ps else dst + pd))

/-- One segment of a reducing scatter into a destination row. Up to the first byte that cannot be moved, each source row is taken in as far
as it decodes: the elements before that byte combine one row more than those after it, and an element that no row reaches is not written
(R239). Where the descriptor itself writes a source row, each destination word combines the old or the new rows (R241). A descriptor of
the hoist is no instruction that issues (R79): the key and tag are those in force as its bytes move (DESIGN CHOICE, log 74). -/
def Move.segment (m : Move) (s0 : State) (rows : Rows) (t : Nat) (f : HoistF) (n r k : Nat) : Move :=
  if m.stop.isSome then m
  else
    let s := m.s
    let fmt := (Fmt.ofCode f.fmt).getD .fp32
    let w := (elemBitPos fmt 0).2 / 8
    let dst := f.dst + n * f.rowBytes
    let srcs := (List.range k).map (fun i => f.src + (r + i) * f.rowBytes)
    let stop := s.segmentStop srcs dst f.rowBytes
    let taken (e : Nat) : Nat := match stop with
      | none => k
      | some p => if (e + 1) * w ≤ p.2.1 then p.1 + 1 else p.1
    let per := ((List.range (f.rowBytes / w)).filter (fun e => taken e != 0)).length
    let s1 := ((List.range k).zip srcs).foldl (fun s p =>
      s.hoistRead t p.2 (match stop with | none => f.rowBytes | some q => if p.1 < q.1 then f.rowBytes else if p.1 = q.1 then q.2.1 else 0)) s
    let s2 := if f.acc then s1.hoistRead t dst (per * w) else s1
    let key := s.rd .tileSrKey t f.srKey
    let mixed := srcs.any (fun a => (List.range f.rowBytes).any (fun i => rows.any (fun r => r.covers (a + i))))
    let pick (e : Nat) : State := if mixed && Config.freeValue (s.free + e * w / 8) % 2 == 1 then s0 else s
    let res := (List.range per).map (fun e =>
      redElem f fmt (Round.ofField f.round (srDraw key (s.rd .tileSrTag t) 4 (n * (f.rowBytes / w) + e)))
        (if f.acc then some (s.rowElem fmt dst e) else none) ((srcs.take (taken e)).map (fun a => (pick e).rowElem fmt a e)))
    let poisoned (st : State) (a e : Nat) : Bool := (List.range w).any (fun i => st.memBad (a + e * w + i))
    let badOld (e : Nat) : Bool := f.acc && poisoned s dst e
    let badElem (e : Nat) : Bool := (srcs.take (taken e)).any (fun a => poisoned (pick e) a e) || badOld e
    let firstBad : Option Nat := ((List.range k).zip srcs).findSome? (fun p => (List.range per).findSome? (fun e =>
      if p.1 ≥ taken e then none
      else if poisoned (pick e) p.2 e then some (p.2 + e * w)
      else if p.1 = 0 ∧ badOld e = true then some (dst + e * w) else none))
    let s2 := if mixed then { s2 with free := s2.free + f.rowBytes / 8 } else s2
    let s3 := s2.hoistWrite t dst (res.flatMap (fun st => natLe w (toContainer fmt st.bits))) (fun i => badElem (i / w))
    let good := (res.zip (List.range per)).filter (fun p => !badElem p.2)
    let s4 := s3.setFlags .hst t (good.foldl (fun a p => a.or p.1.fl) ({} : NumFlags)).toBits
    let m := { m with s := good.foldl (fun s p => s.health t fmt p.1) s4 }
    let m := match firstBad with
      | some a => m.poison a
      | none => m
    match stop with
    | none => m
    | some p => m.halt t p.2.2

/-- Scatter with reduction. -/
def hoistScatterRed (s0 : State) (t : Nat) (f : HoistF) (ix : State × List IdxEntry) : Move :=
  ((segments ix.2 0).foldl (fun (acc : Move × List Nat) e =>
    match e.1 with
    | .row n => ((acc.1.repeated t acc.2 n).segment s0 (f.rows ix.2) t f n e.2.1 e.2.2, n :: acc.2)
    | .null => acc
    | .outOfRange => (acc.1.oor t, acc.2)
    | .poisoned => (acc.1.poison (f.idx + 4 * e.2.1), acc.2)) (({ s := ix.1 } : Move), [])).1

/-- Scatter. -/
def hoistScatter (s : State) (t : Nat) (f : HoistF) : Move :=
  let ix := s.indexList t f
  let m := if f.redOp = 0 then hoistScatterPlain s t f ix else hoistScatterRed s t f ix
  if f.rowBytes = 0 then { s := s } else m.indexEnd s t f

/-! ### Taking a descriptor (R237, R510) -/

/-- Device spans that a legal descriptor touches: (address, bytes). -/
def State.hoistSpans (s : State) (f : HoistF) : List (Nat × Nat) :=
  match f.kind with
  | 0 => (f.src, f.rowBytes) :: (if f.remote then [] else [(f.dst, f.rowBytes)])
  | 1 => (List.range f.count).flatMap (fun r => (f.src + r * f.srcStride, f.rowBytes) ::
      (if f.remote then [] else [(f.dst + r * f.dstStride, f.rowBytes)]))
  | _ =>
    (f.idx, 4 * f.count) :: (List.range f.count).flatMap (fun r =>
      let n := leNat (s.memBytes (f.idx + 4 * r) 4)
      if n ≥ f.srcStride then (if f.kind = 2 then [(f.dst + r * f.rowBytes, f.rowBytes)] else [])
      else if f.kind = 2 then [(f.src + n * f.rowBytes, f.rowBytes), (f.dst + r * f.rowBytes, f.rowBytes)]
      else [(f.src + r * f.rowBytes, f.rowBytes), (f.dst + n * f.rowBytes, f.rowBytes)])

/-- First line of the spans that a clearing bank, a stopped tile or a changing band holds (R54, R212, R223). -/
def State.heldAt (s : State) (spans : List (Nat × Nat)) : Option Nat :=
  spans.findSome? (fun p =>
    if p.2 = 0 then none
    else ((List.range ((p.1 + p.2 - 1) / 64 + 1 - p.1 / 64)).map (fun i => (p.1 / 64 + i) * 64)).find? (fun a => s.accessAt a == .held))

/-- A held access of a unit (kinds as in holdAccess) at a device address: counted once at the clearing bank. -/
def State.holdAt (s : State) (t a kind : Nat) : State :=
  match s.place a with
  | .spd u b _ =>
    let key := holdKey kind u b
    if (s.tile t).held.contains key ∨ !s.clearing u b then s
    else (s.onTile t (fun x => { x with held := key :: x.held })).cnt .spdClearHold u (bankIdx b) 1
  | _ => s

/-- The banks of a device's tiles that spans meet, each by the address of a line in it. -/
def State.spanBanks (s : State) (spans : List (Nat × Nat)) : List Nat :=
  (spans.foldl (fun (acc : List (Nat × BankId) × List Nat) p =>
    if p.2 = 0 ∨ p.1 ≥ 0x80000000 then acc
    else (List.range (linesOf p.1 p.2)).foldl (fun acc i =>
      match s.place ((p.1 / 64 + i) * 64) with
      | .spd u b _ => if acc.1.contains (u, b) then acc else ((u, b) :: acc.1, acc.2 ++ [(p.1 / 64 + i) * 64])
      | _ => acc) acc) ([], [])).2

/-- The held accesses of a unit's spans: each clearing bank that they meet counts them once (R223). -/
def State.holdSpans (s : State) (t : Nat) (spans : List (Nat × Nat)) (kind : Nat) : State :=
  (s.spanBanks spans).foldl (fun s a => s.holdAt t a kind) s

/-- The hoist queue to serve next: the next non-empty one in round-robin order that has no descriptor executing. -/
def State.hoistNext (s : State) (t : Nat) : Option Nat :=
  let h := (s.tile t).hoist
  ((List.range 32).map (fun i => (h.rr + i) % 32)).find? (fun q =>
    s.qEnabled t (64 + q) && s.qOcc t (64 + q) != 0 && !h.active.any (fun r => r.queue == q))

/-- Begins a descriptor: it leaves its queue and executes. -/
def State.hoistBegin (s : State) (t : Nat) (r : HoistRun) : State :=
  (s.qDropHead t (64 + r.queue)).onTile t (fun x => { x with hoist :=
    { x.hoist with active := x.hoist.active ++ [r], rr := (r.queue + 1) % 32 } })

/-- The end of a movement as an executing descriptor: status 0x11, 0x10 or 0x00, in that order (R243). -/
def Move.run (m : Move) (q : Nat) (d : List Nat) (tags : List Nat) : HoistRun :=
  { queue := q, desc := d, acks := tags, lastSent := m.s.tally,
    status := if m.stop.isSome then 0x11 else if m.bad.isSome then 0x10 else 0,
    errAddr := (m.stop.or m.bad).getD 0 }

/-- Moves the bytes of a descriptor (R239): the movement and the tags whose acknowledgements it awaits. -/
def State.hoistMove (s : State) (t : Nat) (f : HoistF) : Move × List Nat :=
  if f.kind < 2 then hoistCopy s t f else (if f.kind = 2 then hoistGather s t f else hoistScatter s t f, [])

/-- Does a descriptor wait for the reads of its lines: are 1,024 line reads outstanding already (R245)? -/
def State.readsFull (s : State) (t : Nat) (f : HoistF) : Bool :=
  decide ((s.tile t).hoist.reads.length ≥ 1024) && (s.hoistSpans f).any (fun p => p.2 != 0)

/-- An executing descriptor of this kind that a hold kept from moving its bytes, and that nothing holds any more. -/
def State.hoistHeld (s : State) (t kind : Nat) : Option HoistRun :=
  (s.tile t).hoist.active.find? (fun r => r.waits && (hoistFields r.desc).kind == kind && (s.heldAt (s.hoistSpans (hoistFields r.desc))).isNone &&
    !s.readsFull t (hoistFields r.desc))

/-- Replaces the executing descriptor of a queue. -/
def State.hoistSet (s : State) (t : Nat) (r : HoistRun) : State :=
  s.onTile t (fun x => { x with hoist := { x.hoist with active := x.hoist.active.map (fun a => if a.queue = r.queue then r else a) } })

/-- The hoist takes the descriptor at the head of the next queue when it is of this kind (an illegal KIND belongs to HOIST_LINEAR, an
entry with a poisoned word to every kind), checks it and moves its bytes. One that meets a hold executes all the same, and its bytes move
when the hold has ended; descriptors of other queues go on (R237). So does one that finds the limit of outstanding reads reached (R245): while its
bytes move, in one step, its own reads pass within the limit (DESIGN CHOICE, log 72). -/
def State.hoistTake (s : State) (t kind q : Nat) : State :=
  if s.clearing t .cb then s.holdAccess t .cb (16 + q)
  else
    let off := s.qLine t (64 + q) (s.rd .tileQHead (qInst t (64 + q)))
    let bad := s.poisonWords t .cb off 64
    let rd := s.spdRead t .cb 1 off 64
    let d := (List.range 8).map (fun i => leNat ((rd.2.1.drop (8 * i)).take 8))
    let f := hoistFields d
    let s1 := (rd.1.bankCount t .cb false 1).unhold t (16 + q)
    if !bad.isEmpty then s1.hoistBegin t { queue := q, desc := d, status := 0x13 }
    else if !(f.kind == kind || (kind == 0 && decide (f.kind ≥ 4))) then s
    else match f.illegal with
      | some st => s1.hoistBegin t { queue := q, desc := d, status := st }
      | none =>
        match s.heldAt (s.hoistSpans f) with
        | some _ => (s1.holdSpans t (s.hoistSpans f) (16 + q)).hoistBegin t { queue := q, desc := d, waits := true }
        | none =>
          if s.readsFull t f then s1.hoistBegin t { queue := q, desc := d, waits := true }
          else
          let r := s1.hoistMove t f
          r.1.s.hoistBegin t (r.1.run q d r.2)

/-- A hoist row: an executing descriptor of this kind whose hold has ended moves its bytes; otherwise the hoist takes the next
descriptor, while it executes fewer than four. -/
def State.hoistRow (s : State) (t kind : Nat) : State :=
  let x := s.tile t
  if !x.active then s
  else match s.hoistHeld t kind with
    | some r =>
      let m := (s.unhold t (16 + r.queue)).hoistMove t (hoistFields r.desc)
      m.1.s.hoistSet t (m.1.run r.queue r.desc m.2)
    | none =>
      if x.hoist.active.length ≥ 4 then s
      else match s.hoistNext t with
        | none => s
        | some q => s.hoistTake t kind q

/-! ### Completion (R242 to R244) -/

/-- Records the first error while VALID is 0 (R243): the address is 0 but for statuses 0x10 and 0x11, the tag 0 for 0x13. -/
def State.hoistRecord (s : State) (t : Nat) (r : HoistRun) : State :=
  let f := hoistFields r.desc
  let s := if r.status = 0x11 then s else s.reportTile 1 t (0x400 + r.status) r.errAddr
  if s.on .hstErrInfoValid t then s
  else
    let s := (s.wr .hstErrInfoQueue t 0 r.queue).wr .hstErrInfoStatus t 0 r.status
    let s := s.wr .hstErrTag t 0 (if r.status = 0x13 then 0 else f.tag)
    let s := s.wr .hstErrAddr t 0 (if r.status = 0x10 ∨ r.status = 0x11 then r.errAddr else 0)
    (s.wr .hstErrInfoValid t 0 1).irq t

/-- A descriptor completes: the event, the counts, the record, and the signal sent or withheld. -/
def State.hoistFinish (s : State) (t : Nat) (r : HoistRun) : State :=
  let f := hoistFields r.desc
  let s := s.onTile t (fun x => { x with hoist := { x.hoist with active := x.hoist.active.filter (fun a => a.queue != r.queue) } })
  let s := (s.event t 2).cnt .hstDescDone t 0 1
  let s := if r.status = 0 then s
    else if r.status < 0x10 then s.cnt .hstDescIllegal t 0 1 else s.cnt .hstDescErr t 0 1
  let s := if r.status = 0x12 then s.cnt .hstRemoteTimeout t 0 1 else s
  let s := if r.status = 0 then s else s.hoistRecord t r
  if !f.sigEn then s
  else if r.status = 0 ∨ r.status = 0x10 then s.signal t f.sem 1 f.sigTarget (if f.vc < 2 then 2 else f.vc)
  else s.cnt .hstSigWithheld t 0 1

/-- The executing descriptor of a queue. -/
def State.hoistOf (s : State) (t q : Nat) : Option HoistRun := (s.tile t).hoist.active.find? (fun r => r.queue == q)

/-- HOIST_COMPLETION (R242): every byte has moved, every write has been accepted, and every acknowledgement has arrived. -/
def State.hoistComplete (s : State) (t q : Nat) : State :=
  match s.hoistOf t q with
  | none => s
  | some r => if !(s.tile t).active ∨ r.waits ∨ !r.acks.isEmpty then s else s.hoistFinish t r

/-- HOIST_REMOTE_TIMEOUT (R244): the wait for acknowledgements has expired; a decode error found earlier is reported first. -/
def State.hoistTimeout (s : State) (t q : Nat) : State :=
  let limit := s.rd .hstRemoteTimeoutNs t
  match s.hoistOf t q with
  | none => s
  | some r =>
    if !(s.tile t).active ∨ r.acks.isEmpty ∨ limit = 0 ∨ s.tally < r.lastSent + limit then s
    else s.hoistFinish t { r with acks := [], status := if r.status = 0x11 then 0x11 else 0x12 }

/-! ### The commands -/

def execHoistLinear (t : TileId) (s : State) : Result := .next (s.hoistRow t 0)
def execHoistStrided (t : TileId) (s : State) : Result := .next (s.hoistRow t 1)
def execHoistGather (t : TileId) (s : State) : Result := .next (s.hoistRow t 2)
def execHoistScatter (t : TileId) (s : State) : Result := .next (s.hoistRow t 3)
def execHoistCompletion (t : TileId) (q : Fin 32) (s : State) : Result := .next (s.hoistComplete t q)
def execHoistRemoteTimeout (t : TileId) (q : Fin 32) (s : State) : Result := .next (s.hoistTimeout t q)

end Sys2Proof.Machine
end

