-- ==== Sys2Proof/Machine/Packets.lean ====
section
/-! DEFINITION. Packets that reach this die (R275, R448, R449): POST, SIGNAL, WRITE, ACK, READ and READ_DATA, and the firmware writes
of tile queues, semaphores and phase markers (R176, R181, R182). -/
namespace Sys2Proof.Machine

/-- The n-th waiting arrival of a packet type, when it is the oldest of its channel, and the state without it. -/
def State.netTake (s : State) (ty n : Nat) (p : Packet → Bool := fun _ => true) : Option (Arrival × State) :=
  let mine := ((List.range s.dieNet.length).zip s.dieNet).filter (fun e => e.2.pkt.ty == ty && p e.2.pkt)
  match mine[n]? with
  | some (i, a) => if s.netFirst i a then some (a, { s with dieNet := s.dieNet.eraseIdx i }) else none
  | none => none

/-- The n-th waiting arrival of a packet type is held at an address, or at a bank of its tile: a clearing bank counts it once (R223). -/
def State.netHold (s : State) (ty n t : Nat) (b : BankId) : State :=
  let mine := ((List.range s.dieNet.length).zip s.dieNet).filter (fun e => e.2.pkt.ty == ty)
  match mine[n]? with
  | some (i, a) =>
    if a.held ∨ !s.clearing t b then s
    else { s with dieNet := s.dieNet.set i { a with held := true } }.cnt .spdClearHold t (bankIdx b) 1
  | none => s

/-- The same at a span of device addresses: every clearing bank that it meets counts it once. -/
def State.netHoldAt (s : State) (ty n a len : Nat) : State :=
  let mine := ((List.range s.dieNet.length).zip s.dieNet).filter (fun e => e.2.pkt.ty == ty)
  match mine[n]? with
  | some (i, p) =>
    let banks := (s.spanBanks [(a, len)]).filterMap (fun l => match s.place l with
      | .spd t b _ => if s.clearing t b then some (t, b) else none
      | _ => none)
    if p.held ∨ banks.isEmpty then s
    else banks.foldl (fun s b => s.cnt .spdClearHold b.1 (bankIdx b.2) 1) { s with dieNet := s.dieNet.set i { p with held := true } }
  | none => s

/-- Is a stamp earlier than another, modulo 2^32 (R449)? -/
def earlier32 (a b : Nat) : Bool :=
  let d := (2 ^ 32 + b % 2 ^ 32 - a % 2 ^ 32) % 2 ^ 32
  decide (0 < d ∧ d < 2 ^ 31)

/-- The generation fence of a tile drops this packet (R449). -/
def State.fenced (s : State) (t injAt : Nat) : Bool :=
  let g := s.rd .tileGenAt t
  decide (s.tally < g + s.rd .rasFenceMs * 1000000) && earlier32 injAt (g + 64)

/-- POST_PACKET_RECEIVE (R178): admitted to an enabled queue with room, or dropped and counted. A tile that takes no step, and a
clearing queue bank, leave the packet waiting. -/
def State.postReceive (s0 : State) (n : Nat) : State :=
  match s0.netTake 2 n with
  | none => s0
  | some (a, s) =>
    let p := a.pkt
    let t := p.dstTile
    let q := p.dstQueue
    if !(s.tile t).active ∨ s.clearing t (qBank q) then s0.netHold 2 n t (qBank q)
    else if s.fenced t p.injAt then s.cnt .tileGenDrop t 0 1
    else if !s.qEnabled t q then s.cnt .tileQDropDisabled (qInst t q) 0 1
    else if s.qOcc t q ≥ s.qDepth t q then s.cnt .tileQDropFull (qInst t q) 0 1
    else s.qAdmit t q (padTo 64 p.payload) p.poison false

/-- SIGNAL_PACKET_RECEIVE (R180, R181). -/
def State.signalReceive (s0 : State) (n : Nat) : State :=
  match s0.netTake 3 n with
  | none => s0
  | some (a, s) =>
    let p := a.pkt
    if !(s.tile p.dstTile).active then s0
    else if s.fenced p.dstTile p.injAt then s.cnt .tileGenDrop p.dstTile 0 1
    else s.semAdd p.dstTile p.sem p.addr

/-- A reply to a request, back to the request's source with its GEN and TAG (R448). -/
def State.reply (s : State) (p : Packet) (r : Packet) : State :=
  s.send { r with vc := p.vc, dstDev := p.srcDev, dstTile := p.srcTile, srcDev := s.rd .fabDevIdId,
                  gen := p.gen, tag := p.tag, onDie := p.onDie }

/-- The tile or controller that answers for an address, as the sender of a packet. -/
def State.answerFrom (s : State) (a : Nat) (r : Packet) : Packet :=
  match s.place a with
  | .spd t _ _ => { r with srcTile := t }
  | .hbm st l => { r with srcTile := 0xFF, agent := some (hbmcOf st l) }
  | _ => { r with srcTile := 0xFF, agent := some 16 }

/-- The tile whose scratchpad an address lies in. -/
def State.tileAt (s : State) (a : Nat) : Option Nat :=
  match s.place a with
  | .spd t _ _ => some t
  | _ => none

/-- A WRITE of a hoist of this device completes with error status: its descriptor ends with decode-error status at that address (R51, R233). -/
def State.writeError (s : State) (p : Packet) (a : Nat) : State :=
  if p.agent.isSome ∨ !s.on .fabDevIdValid ∨ p.srcDev ≠ s.rd .fabDevIdId ∨ p.gen ≠ s.rd .tileGen p.srcTile then s
  else s.onTile p.srcTile (fun x => { x with hoist := { x.hoist with active := x.hoist.active.map (fun r =>
    if r.acks.contains p.tag then
      { r with acks := r.acks.filter (· != p.tag), status := 0x11, errAddr := if r.status = 0x11 then r.errAddr else a }
    else r) } })

/-- A line of a WRITE packet that reaches no memory (R51, R221, R233): handled for the requester when it is on this device; of another
device's requester only the report is made here, and it meets the missing acknowledgement (R244). -/
def State.writeFail (s : State) (p : Packet) (a : Nat) : State :=
  match s.accessAt a with
  | .discarded c => (s.cnt .hbmResetDiscard c 0 1).writeError p a
  | _ =>
    let s := s.writeError p a
    let s := (s.reach a).1
    if !s.on .fabDevIdValid ∨ p.srcDev ≠ s.rd .fabDevIdId then s.report 1 .device 0 1 0 a
    else if p.agent = some 16 then s.decodeError (.hf 2) a
    else s.decodeError (.hoist p.srcTile) a

/-- WRITE_PACKET_RECEIVE (R240): each line is written at priority 6, then the packet is acknowledged. When some byte reaches no
memory, the bytes that do are written and no acknowledgement is sent (assumption log 24). -/
def State.writeReceive (s0 : State) (n : Nat) : State :=
  match s0.netTake 0 n with
  | none => s0
  | some (a, s) =>
    let p := a.pkt
    let fence := match s.tileAt p.addr with
      | some t => s.fenced t p.injAt
      | none => false
    if fence then s.cnt .tileGenDrop ((s.tileAt p.addr).getD 0) 0 1
    else match s.heldAt [(p.addr, p.len)] with
      | some _ => s0.netHoldAt 0 n p.addr p.len
      | none =>
        let units := spanUnits p.addr p.len
        let s1 := (units.filter (fun u => s.accessAt u.1 == .ok)).foldl (fun s u =>
          let off := u.1 - p.addr
          s.unitWrite u.1 ((p.payload.drop off).take u.2) ((List.range u.2).any (fun i => p.poison.contains ((off + i) / 8)))) s
        let lost := ((units.filter (fun u => s.accessAt u.1 != .ok)).map (fun u => u.1 / 64)).eraseDups
        let s2 := lost.foldl (fun s l => s.writeFail p (max p.addr (64 * l))) ((s1.lineDefer p.addr p.len (fun _ => 6) none).spanCount p.addr p.len)
        if units.all (fun u => s.accessAt u.1 == .ok) then s2.reply p (s.answerFrom p.addr { ty := 1 }) else s2

/-- ACK_PACKET_RECEIVE (R448): accepted when GEN is current and TAG is outstanding at the tile's hoist, or at a headframe agent;
dropped and counted otherwise. A stopped tile's waits (R421). -/
def State.ackReceive (s0 : State) (n : Nat) : State :=
  match s0.netTake 1 n with
  | none => s0
  | some (a, s) =>
    let p := a.pkt
    let t := p.dstTile
    let h := (s.tile t).hoist
    if p.gen = s.rd .tileGen t ∧ h.active.any (fun r => r.acks.contains p.tag) then
      if (s.tile t).stopped then s0 else s.onTile t (fun x => { x with hoist := { x.hoist with
        active := x.hoist.active.map (fun r => { r with acks := r.acks.filter (· != p.tag) }) } })
    else if t = 0xFF ∧ s.hfOut.any (fun e => e.1 == p.tag && s.rd .hfCompStatusGen 0 e.2 == p.gen) then
      { s with hfOut := s.hfOut.filter (fun e => e.1 != p.tag)
               skip := { s.skip with chunks := s.skip.chunks.map (fun k => { k with tags := k.tags.filter (· != p.tag) }) } }
    else if t = 0xFF then s.bump .rasLateDrop
    else if (s.tile t).stopped then s0 else s.cnt .tileGenDrop t 0 1

/-- A read of a tile's hoist is over: its lines are no longer outstanding, and what it brought is answered under its tag. -/
def State.readOver (s : State) (t tag v : Nat) (bad err : Bool) : State :=
  s.onTile t (fun x => { x with
    hoist := { x.hoist with reads := x.hoist.reads.filter (· != tag) }
    reads := x.reads ++ [⟨tag, v, bad, err⟩] })

/-- READ_PACKET_RECEIVE (R275): the target reads LEN bytes and answers with READ_DATA; an address that does not decode is a decode
error of the requesting hoist (R51), a line that an untrained controller discards completes with error status (R233). -/
def State.readReceive (s0 : State) (n : Nat) : State :=
  match s0.netTake 4 n with
  | none => s0
  | some (a, s) =>
    let p := a.pkt
    match s.heldAt [(p.addr, p.len)] with
    | some _ => s0.netHoldAt 4 n p.addr p.len
    | none =>
      let a := p.addr + s.okBytes p.addr p.len
      if a < p.addr + p.len then
        let s := match s.accessAt a with
          | .discarded c => s.cnt .hbmResetDiscard c 0 1
          | _ => (s.reach a).1.decodeError (.hoist p.srcTile) a
        s.readOver p.srcTile p.tag 0 false true
      else
        let r := (s.lineDefer p.addr p.len (fun _ => 6) (if p.onDie then some p.srcTile else none)).spanRead p.addr p.len
        let bad := ((List.range p.len).filter (fun i => s.memBad (p.addr + i))).map (· / 8)
        r.1.reply p (s.answerFrom p.addr { ty := 5, len := p.len, payload := r.2.1, poison := bad.eraseDups })

/-- READ_DATA_RECEIVE (R448): accepted when GEN is current and TAG is outstanding at the tile's hoist. -/
def State.readDataReceive (s0 : State) (n : Nat) : State :=
  match s0.netTake 5 n with
  | none => s0
  | some (a, s) =>
    let p := a.pkt
    let t := p.dstTile
    if (s.tile t).stopped then s0
    else if p.gen = s.rd .tileGen t ∧ (s.tile t).hoist.reads.contains p.tag then s.readOver t p.tag (leNat p.payload) (!p.poison.isEmpty) false
    else s.cnt .tileGenDrop t 0 1

/-! ### Firmware writes -/

/-- TILE_QCFG_WRITE (R176): a write that keeps EN at 1 is ignored; one that clears EN discards every entry and resets HEAD and TAIL. -/
def State.qcfgWrite (s : State) (t q v : Nat) : State :=
  let i := qInst t q
  let store (s : State) : State :=
    ((s.wr .tileQcfgEn i 0 (v / 2 ^ 31)).wr .tileQcfgLog2Depth i 0 (v / 2 ^ 24)).wr .tileQcfgBase i 0 v
  if s.on .tileQcfgEn i then
    if bitOf v 31 then s
    else store (((s.cnt .tileQDropDisabled i 0 (if s.qEnabled t q then s.qOcc t q else 0)).wr .tileQHead i 0 0).wr .tileQTail i 0 0)
  else store s

/-- TILE_SEM_WRITE (R181): the semaphore takes the written value; signals of the same instant are applied after it. -/
def State.semWrite (s : State) (t k v : Nat) : State := s.wr .tileSem t k v

/-! ### The commands -/

def execTileQcfgWrite (t : TileId) (q : Fin 128) (v : Nat) (s : State) : Result := .next (s.islandWrite 0x06050004 t q v (fun s => s.qcfgWrite t q v))
def execTileSemWrite (t : TileId) (k : Fin 64) (v : Nat) (s : State) : Result := .next (s.islandWrite (0x06008600 + 4 * k) t 0 v (fun s => s.semWrite t k v))
def execTilePhaseWrite (t : TileId) (v : Nat) (s : State) : Result := .next (s.islandWrite 0x06008510 t 0 v (fun s => s.phaseWrite t (v % 2 ^ 16)))
def execPostPacketReceive (n : Nat) (s : State) : Result := .next (s.postReceive n)
def execSignalPacketReceive (n : Nat) (s : State) : Result := .next (s.signalReceive n)
def execWritePacketReceive (n : Nat) (s : State) : Result := .next (s.writeReceive n)
def execAckPacketReceive (n : Nat) (s : State) : Result := .next (s.ackReceive n)
def execReadPacketReceive (n : Nat) (s : State) : Result := .next (s.readReceive n)
def execReadDataReceive (n : Nat) (s : State) : Result := .next (s.readDataReceive n)

end Sys2Proof.Machine
end

