-- ==== Sys2Proof/Machine/Ports.lean ====
section
/-! DEFINITION. The fabric ports and the link layer (R250 to R273): flits and welts, credits, retry, link down and bring-up. -/
namespace Sys2Proof.Machine

/-! ### Access -/

/-- Replaces port p. -/
def State.setPort (s : State) (p : Nat) (x : Port) : State := { s with ports := sput {} p x s.ports }

/-- Changes port p. -/
def State.onPort (s : State) (p : Nat) (f : Port → Port) : State := s.setPort p (f (s.port p))

/-- Does the variant have the port (R268)? -/
def State.portPresent (s : State) (p : Nat) : Bool := decide (p < s.variant.ports)

/-- Moves a port to a state and stamps the entry; entering or leaving UP raises the port's link-state source (R371). -/
def State.portMode (s : State) (p : Nat) (m : PortMode) : State :=
  let was := (s.port p).mode
  let s := s.onPort p (fun x => { x with mode := m, since := s.tally })
  if (was = .up) ≠ (m = .up) then s.irq (320 + p) else s

/-! ### Packet headers and flits (R254 to R256, R274) -/

/-- The 32 header bytes of a packet (R274). -/
def packetHeader (p : Packet) : List Byte :=
  let w0 := p.ty % 16 * 2 ^ 60 + p.vc % 8 * 2 ^ 57 + p.epoch % 2 * 2 ^ 56 + p.hops % 256 * 2 ^ 48 + p.dstDev % 2 ^ 20 * 2 ^ 28 +
    p.dstTile % 256 * 2 ^ 20 + p.dstQueue % 128 * 2 ^ 13
  let w1 := p.srcDev % 2 ^ 20 * 2 ^ 44 + p.srcTile % 256 * 2 ^ 36 + p.gen % 256 * 2 ^ 28 + p.len % 2 ^ 14 * 2 ^ 14 + p.sem % 64 * 2 ^ 8
  let w3 := p.tag % 2 ^ 32 * 2 ^ 32 + p.injAt % 2 ^ 32
  fieldBytes [(w0, 8), (w1, 8), (p.addr % 2 ^ 48, 8), (w3, 8)]

/-- The packet that header and payload bytes make. -/
def packetOfBytes (bs : List Byte) (poison : List Nat) : Packet :=
  let w (i : Nat) : Nat := leNat ((bs.drop (8 * i)).take 8)
  let len := bitsOf (w 1) 27 14
  { ty := bitsOf (w 0) 63 60, vc := bitsOf (w 0) 59 57, epoch := bitsOf (w 0) 56 56, hops := bitsOf (w 0) 55 48,
    dstDev := bitsOf (w 0) 47 28, dstTile := bitsOf (w 0) 27 20, dstQueue := bitsOf (w 0) 19 13, srcDev := bitsOf (w 1) 63 44,
    srcTile := bitsOf (w 1) 43 36, gen := bitsOf (w 1) 35 28, len := len, sem := bitsOf (w 1) 13 8, addr := bitsOf (w 2) 47 0,
    tag := bitsOf (w 3) 63 32, injAt := bitsOf (w 3) 31 0, payload := (bs.drop 32).take len, poison := poison }

/-- Cuts bytes into flit bodies of 248, the last padded with zeros. -/
def bodiesOf : Nat → List Byte → List (List Byte)
  | 0, _ => []
  | fuel + 1, bs => if bs.isEmpty then [] else padTo 248 bs :: bodiesOf fuel (bs.drop 248)

/-- The flit bodies of a packet. -/
def packetBodies (p : Packet) : List (List Byte) :=
  let bs := packetHeader p ++ p.payload
  bodiesOf (bs.length / 248 + 1) bs

/-- One bit step of the reflected IEEE CRC-32. -/
def crc32Step (c : Nat) : Nat := if c % 2 = 1 then (c / 2) ^^^ 0xEDB88320 else c / 2

/-- Feeds one byte. -/
def crc32Byte (c : Nat) (b : Byte) : Nat := (List.range 8).foldl (fun c _ => crc32Step c) (c ^^^ b.toNat)

/-- CRC-32 of a byte string (R255). -/
def crc32 (bs : List Byte) : Nat := bs.foldl crc32Byte 0xFFFFFFFF ^^^ 0xFFFFFFFF

/-- The welt below its CRC (R254). -/
def weltLow (seq ack kind vc cvc cred : Nat) : Nat :=
  seq % 1024 * 2 ^ 22 + ack % 1024 * 2 ^ 12 + kind % 4 * 2 ^ 10 + vc % 8 * 2 ^ 7 + cvc % 8 * 2 ^ 4 + cred % 16

/-- The whole welt: CRC over the body, then welt bytes 0 to 3 (R255). -/
def welt (body : List Byte) (low : Nat) : Nat := crc32 (body ++ natLe 4 low) * 2 ^ 32 + low

/-! ### Routing data that the link needs (R279 to R281) -/

/-- Dimension of a port (FAB_PORT_DIM.DIM). -/
def State.portDim (s : State) (p : Nat) : Nat := s.rd .fabPortDim / 16 ^ p % 4

/-- Credits of a VC at a port. -/
def Port.creditOf (x : Port) (v : Nat) : Nat := sget 0 v x.credit

/-- May the next packet of a port enter now (R257, R280, R281)? A data packet that enters a dimension needs n + 34 credits, one that
continues needs n; a management packet needs one for its first flit. -/
def State.txEligible (s : State) (p : Nat) (q : TxPkt) : Bool :=
  let c := (s.port p).creditOf q.vc
  let n := packetFlits q.pkt.len
  if q.vc < 2 then decide (c ≥ 1)
  else match q.arrival with
    | some a => if s.portDim a = s.portDim p then decide (c ≥ n) else decide (c ≥ n + 34)
    | none => decide (c ≥ n + 34)

/-- Age order modulo 2^32 (R279): the position of the oldest eligible packet of a VC. -/
def State.txOldest (s : State) (p v : Nat) : Option Nat :=
  let x := s.port p
  ((List.range x.txq.length).zip x.txq).foldl (fun best e =>
    if e.2.vc = v ∧ s.txEligible p e.2 then
      match best with
      | none => some e.1
      | some b => if earlier32 e.2.pkt.injAt (((x.txq[b]?).map (fun q => q.pkt.injAt)).getD 0) then some e.1 else best
    else best) none

/-- Weight of a VC in a weight register; 0 is treated as 1 (R279). -/
def vcWeightOf (w v : Nat) : Nat := max 1 (w / 16 ^ v % 16)

/-- Deficit round robin from a VC on (R279): `pick` gives the position of a VC's oldest eligible packet and its flits. Answers the packet to
send with its VC and the deficits, after at most one round. `fresh` says whether the VC under the pointer takes a new quantum now. -/
def drrChoose (pick : Nat → Option (Nat × Nat)) (weights : Nat) : Nat → Bool → Nat → List (Nat × Nat) → Option (Nat × Nat × List (Nat × Nat))
  | 0, _, _, _ => none
  | fuel + 1, fresh, v, defs =>
    match pick v with
    | none => drrChoose pick weights fuel true ((v + 1) % 8) (sput 0 v 0 defs)
    | some (i, n) =>
      let d := sget 0 v defs + (if fresh then 34 * vcWeightOf weights v else 0)
      if d ≥ n then some (i, v, sput 0 v (d - n) defs) else drrChoose pick weights fuel true ((v + 1) % 8) (sput 0 v d defs)

/-- The packet that a port sends next, its VC, and the deficits. -/
def State.txChoose (s : State) (p : Nat) : Option (Nat × Nat × List (Nat × Nat)) :=
  let x := s.port p
  let flits (i : Nat) : Nat := packetFlits (((x.txq[i]?).map (fun q => q.pkt.len)).getD 0)
  drrChoose (fun v => (s.txOldest p v).map (fun i => (i, flits i))) (s.rd .vcWeight p) 17 false x.rr x.deficit

/-! ### Transmission (R253 to R257, R259) -/

/-- The first VC with credits to return: (CVC, CRED) (R257). -/
def Port.returns (x : Port) : Nat × Nat :=
  match x.owed with
  | (v, n) :: _ => (v, min 15 n)
  | [] => (0, 0)

/-- A stamp of a TALIGN packet is written at the crossing of its first flit (R39): t1 of a REQUEST, t3 of a RESPONSE. -/
def stampTalign (p : Packet) (now : Nat) : Packet :=
  if p.ty ≠ 0xA then p
  else
    let w0 := leNat (p.payload.take 8)
    let k := if w0 / 2 ^ 56 = 0 then 8 else 24
    { p with payload := p.payload.take k ++ natLe 8 now ++ p.payload.drop (k + 8) }

/-- Sends one sequenced flit: it takes the next SEQ and the credits to return, and enters the retry buffer. -/
def State.sendSeq (s : State) (p : Nat) (body : List Byte) (kind vc : Nat) (last : Bool) (epoch : Nat) (poison : List Nat) : State :=
  let x := s.port p
  let r := x.returns
  let seq := (x.seq + 1) % 1024
  let f : TxFlit := { body := body, kind := kind, vc := vc, cvc := r.1, cred := r.2, seq := seq, last := last, epoch := epoch,
                      poison := poison }
  let w := welt body (weltLow seq x.got kind (if kind = 0 then 0 else vc) r.1 r.2)
  (s.setPort p { x with
    seq := seq
    sent := x.sent ++ [f]
    ackAt := if x.sent.isEmpty then s.tally else x.ackAt
    owed := sput 0 r.1 (sget 0 r.1 x.owed - r.2) x.owed
    sendAt := if kind = 0 then x.sendAt else (s.tally + 1, vc)
    out := some (.seq f w) }).activity (272 + p) 10 1

/-- The body of a control flit (R256, R423): its type in byte 0, then the bytes that the type defines. The manual does not place the
fields of FRAMING (R253), INIT and DOWN_NOTICE: their other bytes are a free value (log 29). -/
def ctrlBody (free : Nat) : Ctrl → List Byte
  | .framing => 0#8 :: natLe 247 free
  | .retryReq seq => padTo 248 (fieldBytes [(1, 1), (0, 1), (seq % 1024, 2)])
  | .init _ => 2#8 :: natLe 247 free
  | .downNotice _ => 3#8 :: natLe 247 free
  | .halt action lastSeq id origin stamp =>
    padTo 248 (fieldBytes [(4, 1), (action, 1), (0, 2), (lastSeq % 1024, 2), (0, 2), (id, 8), (origin % 2 ^ 20, 3), (0, 5), (stamp, 8)])

/-- A control flit leaves (R254, R256), with the next SEQ, the ACK and no credits in its welt: counted unless it is FRAMING, a RETRY_REQ in
PORT_RX_RETRY_REQ too (R258), all in the port's activity (R389). -/
def State.sendCtrl (s : State) (p : Nat) (c : Ctrl) : State :=
  let fr := match c with
    | .framing | .init _ | .downNotice _ => s.takeFree
    | _ => (0, s)
  let body := ctrlBody fr.1 c
  let s := fr.2.onPort p (fun x => { x with out := some (.ctrl c body (welt body (weltLow (x.seq + 1) x.got 3 0 0 0))) })
  let s := match c with
    | .retryReq _ => s.cnt .portRxRetryReq p 0 1
    | _ => s
  let s := s.activity (272 + p) 10 1
  if c = .framing then s else s.cnt .portCtrlFlits p 0 1

/-- The next flit of the packet being sent. -/
def State.sendNext (s : State) (p : Nat) (c : TxCur) (kind : Nat) : State :=
  match c.bodies with
  | [] => s.onPort p (fun x => { x with cur := none })
  | b :: rest =>
    let s := s.onPort p (fun x => { x with
      cur := if rest.isEmpty then none else some { c with bodies := rest }
      credit := sput 0 c.vc (x.creditOf c.vc - 1) x.credit })
    let s := s.sendSeq p b kind c.vc rest.isEmpty c.pkt.epoch (if kind = 1 then c.pkt.poison else [])
    let s := (s.cnt .portTxFlits p 0 1).cnt .vcTxFlits p c.vc 1
    if rest.isEmpty then (s.cnt .portTxFrames p 0 1).cnt .vcTxPkts p c.vc 1 else s

/-- What an UP port does in a flit slot that carries no framing and no waiting control flit. A flit that is resent is the one of the retry buffer: a
TALIGN packet keeps the stamp of its first transmission, since R39 does not say which crossing counts then (DESIGN CHOICE, log 29). -/
def State.sendUp (s : State) (p : Nat) : State :=
  let x := s.port p
  match x.resend.bind (fun i => (x.sent[i]?).map (fun f => (i, f))) with
  | some (i, f) =>
    let w := welt f.body (weltLow f.seq x.got f.kind (if f.kind = 0 then 0 else f.vc) f.cvc f.cred)
    ((s.setPort p { x with out := some (.seq f w), sendAt := if f.kind = 0 then x.sendAt else (s.tally + 1, f.vc), resend := if i + 1 < x.sent.length then some (i + 1) else none }).cnt
      .portTxRetryFlits p 0 1).activity (272 + p) 10 1
  | none =>
    let s := s.onPort p (fun x => { x with resend := none })
    if x.halted ∨ x.sent.length ≥ 768 then s
    else match x.cur with
      | some c => if x.creditOf c.vc = 0 then s else s.sendNext p c 2
      | none =>
        match s.txChoose p with
        | some (i, v, defs) =>
          match x.txq[i]? with
          | some q =>
            let pk := stampTalign q.pkt s.tally
            let s := s.onPort p (fun x => { x with txq := x.txq.eraseIdx i, rr := v, deficit := defs })
            s.sendNext p { pkt := { pk with vc := q.vc }, vc := q.vc, bodies := packetBodies { pk with vc := q.vc } } 1
          | none => s
        | none => (s.sendSeq p (List.replicate 248 0#8) 0 0 false 0 []).cnt .portTxIdleFlits p 0 1

/-- The port enters UP: SEQ and ACK at 0, credits at the peer's buffers (R257, R264). -/
def State.enterUp (s : State) (p : Nat) (i : InitInfo) : State :=
  let s := s.onPort p (fun x => { x with
    seq := 0, got := 0, sent := [], resend := none, tries := 0, reqSent := false, opens := [], tail := none, owed := [], deficit := [], rr := 0,
    credit := ((List.range 8).zip i.bufs).foldl (fun l e => sput 0 e.1 e.2 l) [], crcAt := s.tally, ackAt := s.tally })
  s.portMode p .up

/-- INIT is over once each end has the other's INIT and has seen its own acknowledged (R264); at 8 lanes the peer's INIT must allow the
half width too, or the port does not come up (R252). -/
def State.initOver (s : State) (p : Nat) : State :=
  let x := s.port p
  match x.peer with
  | some i => if x.mode = .init ∧ x.acked ∧ x.told ∧ (!x.half ∨ i.half) then s.enterUp p i else s
  | none => s

/-- FLIT_TRANSMIT: one flit slot of a port. Every 256th slot carries FRAMING; waiting control flits come first, then resends, the
packet in hand, a new packet, and an idle flit. A port in INIT sends INIT flits. A halted port
sends control flits and resends only (R271, R421, R424). -/
def State.flitTransmit (s : State) (p : Nat) : State :=
  let x := s.port p
  if !s.portPresent p then s
  else if x.mode ≠ .up ∧ x.mode ≠ .init then s
  else
    let s := s.onPort p (fun x => { x with slot := (x.slot + 1) % 256 })
    if x.slot = 255 then s.sendCtrl p .framing
    else match x.ctrl with
      | c :: rest => (s.onPort p (fun x => { x with ctrl := rest })).sendCtrl p c
      | [] =>
        if x.mode = .init then
          s.sendCtrl p (.init { dev := if s.on .fabDevIdValid then s.rd .fabDevIdId else 0xFFFFF, port := p,
                                half := s.on .portCtrlAllowHalf p, bufs := (List.range 8).map (fun v => s.rd .portRxbufVc p v),
                                seen := x.peer.isSome }) |>.onPort p (fun y => { y with told := y.told || x.peer.isSome }) |>.initOver p
        else s.sendUp p

/-! ### Packets that are received (R256, R257, R263, R276) -/

/-- Buffers of a VC that are free again, to be returned as credits (R257). -/
def State.owe (s : State) (p v n : Nat) : State := s.onPort p (fun x => { x with owed := sput 0 v (sget 0 v x.owed + n) x.owed })

/-- Replaces the open packet of a VC. -/
def Port.setOpen (x : Port) (v : Nat) (o : Option RxOpen) : Port :=
  { x with opens := o.toList ++ x.opens.filter (fun q => q.vc != v) }

/-- A flit's body joins the open packet; the last one makes it whole. -/
def State.growOpen (s : State) (p : Nat) (o : RxOpen) (body : List Byte) : State :=
  let bytes := o.bytes ++ body
  let need := if o.got = 0 then packetFlits (bitsOf (leNat ((bytes.drop 8).take 8)) 27 14) else o.need
  let o := { o with bytes := bytes, got := o.got + 1, need := need }
  if o.got ≥ need then
    let pk := packetOfBytes bytes o.poison
    let s := s.onPort p (fun x => { x.setOpen o.vc none with rxq := x.rxq ++ [⟨pk, o.vc, o.got, o.stamp⟩], tail := some o.vc })
    (s.cnt .portRxFrames p 0 1).cnt .vcRxPkts p o.vc 1
  else s.onPort p (fun x => x.setOpen o.vc (some o))

/-- A packet's flits come without others between them (R256): a sequenced flit that is not the open packet's ends it short of the flits that
its LEN needs, and it is dropped (R276). -/
def State.dropShort (s : State) (p : Nat) (vc : Option Nat) : State :=
  ((s.port p).opens.filter (fun o => decide (o.need ≠ 0) && some o.vc != vc)).foldl (fun s o =>
    ((s.bump .fabDropBadhdr).onPort p (fun x => x.setOpen o.vc none)).owe p o.vc o.got) s

/-- The last packet that a port accepted on a VC turns out to occupy more flits than its LEN needs: it is dropped (R276). -/
def State.dropLong (s : State) (p vc : Nat) : State :=
  match (s.port p).rxq.getLast? with
  | some r => ((s.bump .fabDropBadhdr).onPort p (fun x => { x with rxq := x.rxq.dropLast })).owe p vc r.flits
  | none => s

/-- An accepted start or continuation flit (R263). A continuation of a packet that is whole makes it longer than its LEN says. The rest of such a
packet, and of a malformed one, is discarded silently. -/
def State.acceptFlit (s : State) (p kind vc : Nat) (body : List Byte) (poison : List Nat) : State :=
  let tail := (s.port p).tail
  let s := (s.dropShort p (some vc)).onPort p (fun x => { x with tail := none })
  let skip : RxOpen := { vc := vc, bytes := [], got := 0, need := 0, poison := [], stamp := 0 }
  match (s.port p).opens.find? (fun o => o.vc == vc), kind with
  | none, 1 => s.growOpen p { vc := vc, bytes := [], got := 0, need := 1, poison := poison, stamp := s.tally } body
  | none, _ =>
    if tail = some vc then ((s.dropLong p vc).onPort p (fun x => x.setOpen vc (some skip))).owe p vc 1 else
    ((s.cnt .portDropMalformed p 0 1).onPort p (fun x => x.setOpen vc (some skip))).owe p vc 1
  | some o, 1 =>
    if o.need = 0 then s.growOpen p { vc := vc, bytes := [], got := 0, need := 1, poison := poison, stamp := s.tally } body
    else ((s.cnt .portDropMalformed p 0 2).onPort p (fun x => x.setOpen vc (some skip))).owe p vc (o.got + 1)
  | some o, _ => if o.need = 0 then s.owe p vc 1 else s.growOpen p o body

/-! ### Link down (R261, R262) -/

/-- Records the first link-down while VALID is 0. -/
def State.downRecord (s : State) (p reason : Nat) : State :=
  if s.on .portDownInfoValid p then s
  else ((s.wr .portDownInfoReason p 0 reason).wr .portDownAt p 0 s.tally).wr .portDownInfoValid p 0 1

/-- The flits that a port's link record holds are received, in their order (R429), and so are those behind them. -/
def State.recordTake (s : State) (p : Nat) : State :=
  let x := s.port p
  (x.record ++ x.late).foldl (fun s f => s.acceptFlit p f.1 f.2.1 f.2.2.1 f.2.2.2) (s.setPort p { x with record := [], late := [] })

/-- What the transmitter and the receiver discard (R262). Packets that the receiver has accepted whole stay, those of a link record among them. -/
def State.portDiscard (s : State) (p : Nat) : State :=
  let s := s.recordTake p
  let x := s.port p
  let lost := x.txq.length + (if x.cur.isSome then 1 else 0) + (x.sent.filter (fun f => f.last)).length
  let part := (x.opens.filter (fun o => decide (o.need ≠ 0))).length
  ((s.setPort p { x with
    txq := [], cur := none, sent := [], resend := none, ctrl := [], credit := [], owed := [], deficit := [], rr := 0,
    opens := [], tail := none, reqSent := false, tries := 0 }).cnt .portDropLinkDown p 0 lost).cnt .portDropPartial p 0 part

/-- In a stop, a link that goes down has its record closed incomplete (R424). -/
def State.linkLost (s : State) (p : Nat) : State :=
  let x := s.port p
  if !x.halted ∨ x.linkShut then s
  else (s.setPort p { x with linkShut := true }).wr .dbgHaltStatusLinkLost 0 0 (s.rd .dbgHaltStatusLinkLost ||| 2 ^ p)

/-- Would the replay timeout take the port down now (R259, R261 reason 3)? -/
def State.replayDue (s : State) (p : Nat) : Bool :=
  let x := s.port p
  !x.sent.isEmpty && decide (s.tally ≥ x.ackAt + s.rd .portRetryCfgReplayNs p) && decide (x.tries + 1 ≥ s.rd .portRetryCfgLimit p)

/-- LINK_DOWN (R261): a port leaves UP, or fails in training, for DOWN. When the replay limit is reached in the same instant as a condition of a
higher code, its reason is the one recorded. The next SEQ to use is then 1, and nothing has been accepted (R254, R264). -/
def State.linkDown (s : State) (p reason : Nat) : State :=
  let up := (s.port p).mode = .up
  let reason := if up ∧ 3 < reason ∧ s.replayDue p then 3 else reason
  let s := (s.downRecord p reason).cnt .portLinkDown p 0 1
  let s := (s.portDiscard p).linkLost p
  let s := (if up then s.sendCtrl p (.downNotice reason) else s).onPort p (fun x => { x with seq := 0, got := 0 })
  (s.portMode p .down).report 2 .port p reason (s.rd .portGen p) s.tally

/-- A condition that takes an UP port down (R261). A condition of the same instant as the transition, with a lower code than the one
recorded then, takes its place. -/
def State.portFail (s : State) (p reason : Nat) : State :=
  let x := s.port p
  if x.mode = .up then s.linkDown p reason
  else if x.mode = .down ∧ x.since = s.tally ∧ s.on .portDownInfoValid p ∧ s.rd .portDownAt p = s.tally ∧ reason < s.rd .portDownInfoReason p then
    s.wr .portDownInfoReason p 0 reason
  else s

/-! ### Reception (R257 to R260, R263) -/

/-- Releases acknowledged flits (R258, R259): ACK names the last flit accepted in order. -/
def State.takeAck (s : State) (p ack : Nat) : State :=
  let x := s.port p
  match x.sent.findIdx? (fun f => f.seq == ack) with
  | none => s
  | some i => s.setPort p { x with
      sent := x.sent.drop (i + 1)
      resend := match x.resend with
        | some r => if r ≤ i + 1 then (if i + 1 < x.sent.length then some 0 else none) else some (r - (i + 1))
        | none => none
      tries := 0
      ackAt := s.tally }

/-- A discarded flit: the first after an accepted one sends RETRY_REQ with the expected SEQ (R258). -/
def State.discardFlit (s : State) (p : Nat) : State :=
  let x := s.port p
  if x.reqSent then s
  else s.setPort p { x with reqSent := true, ctrl := x.ctrl ++ [.retryReq ((x.got + 1) % 1024)] }

/-- What the FEC reports is counted (R260). -/
def State.fecCount (s : State) (p : Nat) (f : FecReport) : State :=
  let s := (s.cnt .portFecCw p 0 f.cw).cnt .portFecCorrCw p 0 f.corrected
  let s := s.cnt .portFecUncorrCw p 0 f.uncorrectable
  let s := if f.corrected = 0 then s else s.report 0 .port p 1 (s.rd .portGen p) f.corrected
  f.symbols.foldl (fun s e => s.cnt .portFecSym p e.1 e.2) s

/-- Does a flit pass (R258, R260)? Its CRC checks and no codeword that it lies in was uncorrectable. -/
def flitGood (f : Flit) : Bool := !f.fec.bad && f.fec.uncorrectable == 0 && welt f.body (f.welt % 2 ^ 32) == f.welt

/-- KIND of a flit (R254). -/
def flitKind (f : Flit) : Nat := bitsOf (f.welt % 2 ^ 32) 11 10

/-- A sequenced flit whose CRC checks: accepted when its SEQ is the next one. After the device's own halt wave the link record keeps the start
and continuation flits up to the peer's LAST_SEQ; those after it wait behind them (R424). -/
def State.seqReceive (s : State) (p : Nat) (f : Flit) : State :=
  let low := f.welt % 2 ^ 32
  if bitsOf low 31 22 ≠ ((s.port p).got + 1) % 1024 then (s.cnt .portRxSeqErr p 0 1).discardFlit p
  else
    let cvc := bitsOf low 6 4
    let s := s.onPort p (fun x => { x with
      got := (x.got + 1) % 1024
      reqSent := false
      credit := sput 0 cvc (x.creditOf cvc + bitsOf low 3 0) x.credit })
    let s := s.activity (272 + p) 10 1
    let item := (flitKind f, bitsOf low 9 7, f.body, f.poison)
    if (s.port p).halted then
      let s := if flitKind f = 0 then s
        else (s.cnt .portRxFlits p 0 1).onPort p (fun x => if x.past then { x with late := x.late ++ [item] } else { x with record := x.record ++ [item] })
      s.onPort p (fun x => { x with past := x.past || x.marker == some x.got })
    else if flitKind f = 0 then (s.dropShort p none).onPort p (fun x => { x with tail := none })
    else (s.cnt .portRxFlits p 0 1).acceptFlit p (flitKind f) (bitsOf low 9 7) f.body f.poison

/-- A resend begins at a position of the retry buffer (R259, R261): LIMIT resends in a row without ACK progress take the port down. -/
def State.beginResend (s : State) (p i : Nat) (ctr : Field) : State :=
  let s := s.cnt ctr p 0 1
  let x := s.port p
  if x.tries + 1 ≥ s.rd .portRetryCfgLimit p then s.portFail p 3
  else s.setPort p { x with tries := x.tries + 1, resend := some i }

/-- RETRY_REQ_RECEIVE (R259): the transmitter resends from the named SEQ, unless it lies after the current resend point. -/
def State.retryReq (s : State) (p seq ack : Nat) : State :=
  let x := s.port p
  if x.mode ≠ .up then s
  else
    let s := (s.onPort p (fun x => { x with crcAt := s.tally })).takeAck p ack
    let x := s.port p
    match x.sent.findIdx? (fun f => f.seq == seq % 1024) with
    | none => s
    | some i => if (x.resend.map (fun r => decide (i > r))).getD false then s else s.beginResend p i .portTxRetry

/-- REPLAY_TIMEOUT (R259): no ACK progress for REPLAY_NS. The interval then runs anew, so that each one that passes without progress
resends once. -/
def State.replayTimeout (s : State) (p : Nat) : State :=
  let x := s.port p
  if x.mode ≠ .up ∨ x.sent.isEmpty ∨ s.tally < x.ackAt + s.rd .portRetryCfgReplayNs p then s
  else (s.setPort p { x with ackAt := s.tally }).beginResend p 0 .portTxReplayTimeout

/-- DOWN_NOTICE_RECEIVE (R261). -/
def State.downNotice (s : State) (p : Nat) : State := s.portFail p 5

/-- FLIT_RECEIVE (R258, R260): every flit brings its codewords, counted once the FEC locks, and a CRC failure counts from INIT on; one that passes
brings an UP port its ACK; a sequenced
one is then accepted or discarded by its SEQ, a RETRY_REQ and a DOWN_NOTICE have their effect. FRAMING brings nothing else. The content of
an INIT comes by its own row, since the manual does not place its fields; a HALT is read where halt waves are (flitArrive). -/
def State.flitReceive (s : State) (p : Nat) (f : Flit) : State :=
  let m := (s.port p).mode
  if m ≠ .up ∧ m ≠ .init ∧ m ≠ .aligning then s
  else
    let s := s.fecCount p f.fec
    if m = .aligning then s
    else if m = .init then (if flitGood f then s else s.cnt .portRxCrcErr p 0 1)
    else if !flitGood f then (s.cnt .portRxCrcErr p 0 1).discardFlit p
    else
      let ack := bitsOf (f.welt % 2 ^ 32) 21 12
      let s := (s.onPort p (fun x => { x with crcAt := s.tally })).takeAck p ack
      if flitKind f ≠ 3 then s.seqReceive p f
      else if f.body.headD 0#8 = 1#8 then s.retryReq p (leNat ((f.body.drop 2).take 2)) ack
      else if f.body.headD 0#8 = 3#8 then s.downNotice p
      else s

/-! ### Bring-up (R264 to R268) -/

/-- INIT_FLIT_RECEIVE (R265): the peer's values show in PORT_PEER. -/
def State.initReceive (s : State) (p : Nat) (i : InitInfo) : State :=
  let x := s.port p
  if x.mode ≠ .init then s
  else
    let s := ((s.wr .portPeerPeerDevice p 0 i.dev).wr .portPeerPeerPort p 0 i.port).wr .portPeerValid p 0 1
    (s.onPort p (fun x => { x with peer := some i, acked := x.acked || i.seen })).initOver p

/-- Lanes that a port uses (R252). -/
def Port.lanesUsed (x : Port) : Nat := if x.half then (if x.halfUpper then 0xFF00 else 0xFF) else 0xFFFF

/-- LANE_LOCK_LOSS (R261): the named lanes lose lock, or the alignment of the lanes is lost; a lane in use, or the alignment, takes an UP
port down. -/
def State.laneLoss (s : State) (p lanes : Nat) (misaligned : Bool) : State :=
  let x := s.port p
  let s := s.setPort p { x with lanes := x.lanes - (x.lanes &&& lanes) }
  if misaligned ∨ (x.lanesUsed &&& lanes) ≠ 0 then s.portFail p 2 else s

/-- CRC_SILENCE_TIMEOUT (R261): no flit has passed its CRC for 2 µs. -/
def State.crcSilence (s : State) (p : Nat) : State :=
  let x := s.port p
  if s.tally ≥ x.crcAt + 2000 then s.portFail p 4 else s

/-- A port begins training; not in its reset, nor while the boundary-scan hold keeps ports DISABLED (R501). -/
def State.train (s : State) (p : Nat) : State :=
  if s.mod.scanHold ∨ (s.port p).resetAt.isSome then s
  else (s.onPort p (fun x => { x with lanes := 0, half := false, halfUpper := false, peer := none, acked := false, told := false, ctrl := [], seq := 0, got := 0 })).portMode p .training

/-- R267: the receive buffers that an enable needs. -/
def State.rxbufOk (s : State) (p : Nat) : Bool :=
  let b (v : Nat) : Nat := s.rd .portRxbufVc p v
  decide ((List.range 8).foldl (fun a v => a + b v) 0 ≤ 2048) && decide (b 0 ≥ 16) && decide (b 1 ≥ 16)

/-- The fields of PORT_CTRL that a write stores; MEDIA and ALLOW_HALF only while DISABLED (R266). -/
def State.portCtrlStore (s : State) (p v : Nat) : State :=
  let s := (s.wr .portCtrlAutoRetrain p 0 (v / 2 ^ 29)).wr .portCtrlLoopback p 0 (v / 2 ^ 24)
  if (s.port p).mode = .disabled then (s.wr .portCtrlAllowHalf p 0 (v / 2 ^ 28)).wr .portCtrlMedia p 0 (v / 2 ^ 26) else s

/-- PORT_RETRAIN_WRITE (R264). -/
def State.portRetrain (s : State) (p : Nat) : State :=
  match (s.port p).mode with
  | .disabled => s
  | .up => (s.linkDown p 1).train p
  | _ => (s.portFail p 1).train p

/-- PORT_ENABLE_WRITE (R264, R267): a write of PORT_CTRL. EN = 1 moves DISABLED to TRAINING, or LOOPBACK when LOOPBACK names one,
or is refused with reason 7; clearing EN takes an UP port DOWN and returns one that is coming up to DISABLED. RETRAIN = 1 in the same value
then acts on the state so reached. -/
def State.portEnable (s : State) (p v : Nat) : State :=
  if !s.portPresent p then s.bump .hfSelAbsentWr
  else
    let s := s.portCtrlStore p v
    let m := (s.port p).mode
    let lb := s.rd .portCtrlLoopback p
    let s := if bitOf v 31 then
      if m ≠ .disabled then s.wr .portCtrlEn p 0 1
      else if !s.rxbufOk p then (s.wr .portCtrlEn p 0 0).downRecord p 7
      else if (lb = 1 ∨ lb = 2) ∧ !s.mod.scanHold then (s.wr .portCtrlEn p 0 1).portMode p .loopback
      else (s.wr .portCtrlEn p 0 1).train p
    else
      let s := s.wr .portCtrlEn p 0 0
      match m with
      | .up | .down => s.portFail p 1
      | .training | .aligning | .init | .loopback => s.portMode p .disabled
      | _ => s
    if bitOf v 30 then s.portRetrain p else s

/-- TRAINING_COMPLETE (R264). -/
def State.trainingDone (s : State) (p : Nat) : State := if (s.port p).mode = .training then s.portMode p .aligning else s

/-- TRAINING_TIMEOUT (R261 reason 6). -/
def State.trainingLate (s : State) (p : Nat) : State :=
  let x := s.port p
  if x.mode = .training ∧ s.tally ≥ x.since + s.rd .portTrainCfgTimeoutMs p * 1000000 then s.linkDown p 6 else s

/-- ALIGNMENT_COMPLETE (R252, R264): the lanes that lock at both ends decide the width; any other lane failure keeps the port from coming up.
Whether the peer allows the half width its INIT says. -/
def State.aligned (s : State) (p lanes peerLanes : Nat) : State :=
  let x := s.port p
  if x.mode ≠ .aligning then s
  else
    let both := lanes &&& peerLanes
    let lower := decide (both &&& 0xFF = 0xFF)
    let upper := decide (both &&& 0xFF00 = 0xFF00)
    let s := s.setPort p { x with lanes := lanes % 2 ^ 16 }
    if lower && upper then (s.onPort p (fun x => { x with half := false, halfUpper := false })).portMode p .init
    else if s.on .portCtrlAllowHalf p && (lower || upper) then
      (s.onPort p (fun x => { x with half := true, halfUpper := upper })).portMode p .init
    else s

/-- AUTO_RETRAIN_TIMER (R263): 1 ms after the transition a DOWN port with AUTO_RETRAIN starts training again. -/
def State.autoRetrain (s : State) (p : Nat) : State :=
  let x := s.port p
  if x.mode = .down ∧ s.on .portCtrlAutoRetrain p ∧ s.tally ≥ x.since + 1000000 then s.train p else s

/-! ### The commands -/

def execFlitTransmit (p : PortId) (s : State) : Result := .next (s.flitTransmit p)
def execRetryReqReceive (p : PortId) (seq ack : Nat) (s : State) : Result := .next (s.retryReq p seq ack)
def execReplayTimeout (p : PortId) (s : State) : Result := .next (s.replayTimeout p)
def execInitFlitReceive (p : PortId) (i : InitInfo) (s : State) : Result := .next (s.initReceive p i)
def execDownNoticeReceive (p : PortId) (s : State) : Result := .next (s.downNotice p)
def execLaneLockLoss (p : PortId) (l : LaneLoss) (s : State) : Result := .next (s.laneLoss p l.lanes l.misaligned)
def execCrcSilenceTimeout (p : PortId) (s : State) : Result := .next (s.crcSilence p)
def execPortEnableWrite (p : PortId) (v : Nat) (s : State) : Result := .next (s.portEnable p v)
def execPortRetrainWrite (p : PortId) (s : State) : Result := .next (if s.portPresent p then s.portRetrain p else s.bump .hfSelAbsentWr)
def execTrainingComplete (p : PortId) (s : State) : Result := .next (s.trainingDone p)
def execTrainingTimeout (p : PortId) (s : State) : Result := .next (s.trainingLate p)
def execAlignmentComplete (p : PortId) (lanes peerLanes : Nat) (s : State) : Result := .next (s.aligned p lanes peerLanes)
def execAutoRetrainTimer (p : PortId) (s : State) : Result := .next (s.autoRetrain p)

end Sys2Proof.Machine
end

