-- ==== Sys2Proof/Machine/Routing.lean ====
section
/-! DEFINITION. Injection, on-die paths, routing tables, epochs and packets that arrive on ports (R274 to R295). -/
namespace Sys2Proof.Machine

/-! ### Routing tables (R284, R285) -/

/-- Entry of a routing table. -/
def State.rtEntry (s : State) (bank level index : Nat) : Nat := sget 0 (bank * 2 ^ 20 + level * 2 ^ 18 + index) s.rt

/-- The two-level lookup: the output port, if an entry routes (R284). -/
def State.route (s : State) (dev e : Nat) : Option Nat :=
  let u := s.rtEntry e 0 (dev / 256)
  if !bitOf u 31 then none
  else if bitOf u 30 then some (bitsOf u 29 27)
  else
    let l := s.rtEntry e 1 (u % 1024 * 256 + dev % 256)
    if bitOf l 15 then some (bitsOf l 14 12) else none

/-- Output VC of a packet at port p (R279, R281); `arr` is the port it arrived on, if any. A TALIGN exchange travels on VC0 (R38, R39),
which names that one type; the date line of R281 is for management packets that go on from hop to hop. -/
def State.outVc (s : State) (pk : Packet) (p : Nat) (arr : Option Nat) : Nat :=
  if pk.vc ≥ 2 then pk.vc
  else if pk.ty = 0xA then 0
  else if s.rd .fabPortDim / 2 ^ (4 * p + 2) % 2 = 1 then 1
  else match arr with
    | some a => if s.portDim a = s.portDim p then pk.vc else 0
    | none => 0

/-- Queues a packet at a port, or drops it there when the port is not UP (R263). -/
def State.portQueue (s : State) (pk : Packet) (p : Nat) (arr : Option Nat) : State :=
  if (s.port p).mode ≠ .up then s.cnt .portDropPortDown p 0 1
  else s.onPort p (fun x => { x with txq := x.txq ++ [{ pkt := pk, vc := s.outVc pk p arr, arrival := arr }] })

/-- A packet has left the rings, or does not enter them: it reaches its port, or waits here to be received. -/
def State.ringLeave (s : State) (pk : Packet) (out arr : Option Nat) (stamp : Nat) : State :=
  match out with
  | some p => s.portQueue pk p arr
  | none => { s with dieNet := s.dieNet ++ [{ pkt := pk, port := arr, stamp := stamp }] }

/-- A packet sets out from one end of its path on the die to the other. A path that meets no ring stop stays off the rings. -/
def State.ringEnter (s : State) (pk : Packet) (a b : RingEnd) (out arr : Option Nat) (stamp : Nat) : State :=
  match ringPath a b with
  | [] => s.ringLeave pk out arr stamp
  | x :: l => { s with ring := s.ring ++ [{ pkt := pk, path := x :: l ++ [exitPlace b], place := entryPlace a x, out := out, arr := arr,
                                            last := exitPlace a, stamp := stamp }] }

/-- Sends a packet to a port, or drops it when the port is not UP (R263): an injected one over the rings, one in transit over the interposer
(R283). -/
def State.toPort (s : State) (pk : Packet) (p : Nat) (arr : Option Nat) : State :=
  if (s.port p).mode ≠ .up then s.cnt .portDropPortDown p 0 1
  else match arr with
    | none => (s.bump .fabInjPkts).ringEnter pk (packetFrom pk) (.ioDie (p / 2)) (some p) none s.tally
    | some _ => (s.bump .fabTransitPkts).portQueue pk p arr

/-- Routes a packet by the table, with the drops of R285 in their order. HOPS rises when the packet is forwarded from a port. -/
def State.routePacket (s : State) (pk : Packet) (arr : Option Nat) : State :=
  match s.route pk.dstDev pk.epoch with
  | none => s.bump .fabDropNoRoute
  | some p =>
    let hops := if arr.isSome then pk.hops + 1 else pk.hops
    if !s.portPresent p then s.bump .fabDropAbsentPort
    else if arr = some p then s.bump .fabDropUturn
    else if hops > s.rd .fabHopLimit then s.bump .fabDropHops
    else s.toPort { pk with hops := hops } p arr

/-- Delivers a packet on this die. -/
def State.deliver (s : State) (pk : Packet) (a : RingEnd) (port : Option Nat) (stamp : Nat) : State :=
  s.ringEnter pk a (s.ringTo pk) none port stamp

/-! ### The rings (R24, R279 to R281, R421) -/

/-- Dimension of a hop: 1 along a row ring, 2 along a column ring, 3 into an attachment, which is a dimension of its own (R280). -/
def hopDim (a b : Nat) : Nat :=
  if b ≥ 512 then 3
  else if a < 256 then (if a / 16 = b / 16 then 1 else 2)
  else if a < 288 then 1 else 2

/-- The place that a packet enters next. -/
def RingPkt.next (r : RingPkt) : Nat := r.path.headD 512

/-- Flits of a packet on the rings. -/
def RingPkt.flits (r : RingPkt) : Nat := packetFlits r.pkt.len

/-- Buffer flits of a VC that are free at a ring stop, which holds 80 per data VC and 20 per management VC (R281). -/
def State.ringRoom (s : State) (stop vc : Nat) : Nat :=
  (if vc < 2 then 20 else 80) -
    ((s.ring.filter (fun r => r.place == stop && r.dim != 0 && r.pkt.vc == vc)).map RingPkt.flits).foldl (· + ·) 0

/-- Does a packet's next hop enter a ring: does it come from an attachment, or turn? -/
def RingPkt.enters (r : RingPkt) : Bool := hopDim r.place r.next != r.dim && decide (r.next < 512)

/-- A packet at a ring stop that the full buffer of the next stop keeps there (R416). -/
def State.ringBlocked (s : State) (r : RingPkt) : Bool :=
  r.dim != 0 && decide (r.next < 512) &&
    decide (s.ringRoom r.next r.pkt.vc < (if r.pkt.vc < 2 then min 20 r.flits else r.flits))

/-- May a packet hop (R280, R281)? One that enters a dimension needs n + 34 flits at the next stop, one that continues n; management is
exempt from the first, and one longer than its buffer passes through an empty one. -/
def State.ringEligible (s : State) (r : RingPkt) : Bool :=
  let room := s.ringRoom r.next r.pkt.vc
  decide (r.next ≥ 512) || (if r.pkt.vc < 2 then decide (room ≥ min 20 r.flits)
    else if r.enters then decide (room ≥ r.flits + 34) else decide (room ≥ r.flits))

/-- Position of the oldest of the packets that a test takes: by INJ_AT modulo 2^32, then by arrival. -/
def State.ringOldest (s : State) (ok : RingPkt → Bool) : Option Nat :=
  ((List.range s.ring.length).zip s.ring).foldl (fun best e =>
    if ok e.2 then
      match best.bind (fun b => s.ring[b]?) with
      | none => some e.1
      | some q => if earlier32 e.2.pkt.injAt q.pkt.injAt then some e.1 else best
    else best) none

/-- Is a packet the oldest of those that go from its source to its end on its VC and are where it is? A crossing reorders nothing (R31). -/
def State.ringFirst (s : State) (r : RingPkt) : Bool :=
  let same (q : RingPkt) : Bool := q.place == r.place && q.pkt.vc == r.pkt.vc && packetFrom q.pkt == packetFrom r.pkt && q.pkt.srcDev == r.pkt.srcDev &&
    q.arr == r.arr && q.path.getLast? == r.path.getLast? && q.out == r.out
  s.ring.find? same == some r

/-- Packets that a link could take now: those of one standing with r, that is, travelling on or entering as r does (R24). -/
def State.ringHere (s : State) (a b : Nat) (r : RingPkt) : Bool :=
  r.place == a && r.next == b && r.movedAt != s.tally + 1 && s.ringEligible r && s.ringFirst r

/-- The requesters of a standing at a link, each the place its packets came from, with how often each has been passed over. -/
def State.ringWaits (s : State) (a b : Nat) (enter : Bool) : List (Nat × Nat) :=
  let l := s.ring.filter (fun r => s.ringHere a b r && r.enters == enter)
  ((l.map RingPkt.last).eraseDups).map (fun k => (k, ((l.filter (fun r => r.last == k)).map RingPkt.passed).foldl max 0))

/-- The packet that a link takes, with the arbiter's new state. Those that travel on along the ring go before those that enter it, outside the bound
of R32; among the requesters of one standing one that must go next for none to wait more than 16 grants does, else all may; of those, deficit round
robin over the VCs with the end stations' weights, then the oldest (R24, R32, R279). Off the end stations the spec names no weight register for a
ring link: the model takes the same (DESIGN CHOICE, log 75). -/
def State.ringGrant (s : State) (a b : Nat) : Option (Nat × Nat × List (Nat × Nat)) :=
  let arb := sget (0, []) (a * 1024 + b) s.ringArb
  let enter := !s.ring.any (fun r => s.ringHere a b r && !r.enters)
  let ws := s.ringWaits a b enter
  let worst := ws.foldl (fun x y => if y.2 > x.2 then y else x) (ws.headD (0, 0))
  let only := starved (ws.map Prod.snd)
  let pick (v : Nat) : Option (Nat × Nat) :=
    (s.ringOldest (fun r => s.ringHere a b r && r.pkt.vc == v && r.enters == enter && (!only || r.last == worst.1))).bind (fun i =>
      (s.ring[i]?).map (fun r => (i, r.flits)))
  drrChoose pick (s.rd .fabEndstnWeight) 17 false arb.1 arb.2

/-- One grant of a link: the packet hops; of the others that could have, those of its standing are passed over, its own requester's start anew. -/
def State.ringHop (s : State) (a b : Nat) : State :=
  match s.ringGrant a b with
  | none => s
  | some (i, arb) =>
    match s.ring[i]? with
    | none => s
    | some r =>
      let s := { s with
        ringArb := sput (0, []) (a * 1024 + b) arb s.ringArb
        ring := ((List.range s.ring.length).zip s.ring).map (fun (e : Nat × RingPkt) =>
          if e.1 = i then { e.2 with place := b, path := e.2.path.tail, dim := hopDim a b, last := a, passed := 0, movedAt := s.tally + 1 }
          else if e.2.place == a && e.2.next == b && e.2.enters == r.enters then
            if e.2.last = r.last then { e.2 with passed := 0 } else if s.ringHere a b e.2 then { e.2 with passed := e.2.passed + 1 } else e.2
          else e.2) }
      if b < 512 then s.stopFlits b r.flits
      else { s with ring := s.ring.eraseIdx i }.ringLeave r.pkt r.out r.arr r.stamp

/-- One tally nanosecond of the rings, in which each link carries at most one packet on by one hop (DESIGN CHOICE, log 75); in a stop the
ring islands stand still (R43, R421). FAB_RING_INJ_WAIT_NS counts each place at which a packet ready to enter a ring was held, and
DBG_RING_HOLD_NS of an island the nanoseconds in which one of its stops holds a packet for want of room (R416). -/
def State.ringStep (s : State) : State :=
  if s.ring.isEmpty ∨ s.inStop then s
  else
    let links := (s.ring.map (fun r => (r.place, r.next))).eraseDups
    let s := links.foldl (fun s l => s.ringHop l.1 l.2) s
    let kept := s.ring.filter (fun r => r.movedAt != s.tally + 1)
    let s := s.cnt .fabRingInjWaitNs 0 0 (((kept.filter RingPkt.enters).map RingPkt.place).eraseDups).length
    (((kept.filter s.ringBlocked).map (fun r => tilePb r.place)).eraseDups).foldl (fun s k => s.cnt .dbgRingHoldNs (256 + k) 0 1) s

/-- Injects a packet (R277, R287): stamped with the epoch, the source and the instant, then delivered or routed. -/
def State.inject (s : State) (p : Packet) : State :=
  let pk := { p with epoch := s.rd .fabEpochInj, hops := 0, injAt := s.tally % 2 ^ 32, srcDev := s.rd .fabDevIdId }
  if pk.onDie then s.deliver pk (packetFrom pk) none s.tally
  else if pk.dstDev = 0xFFFFF then
    match pk.via with
    | some q => if s.portPresent q then s.toPort pk q none else s.bump .fabDropAbsentPort
    | none => s.bump .fabDropNoRoute
  else if !s.on .fabDevIdValid then s.bump .fabDropUnassigned
  else if pk.dstDev = s.rd .fabDevIdId then s.deliver pk (packetFrom pk) none s.tally
  else s.routePacket pk none

/-- Group ID of a SEAM packet, from its preamble (R308). -/
def seamGid (p : Packet) : Nat := bitsOf (leNat ((p.payload.drop 8).take 8)) 63 48

/-- The waiting packets that may be injected: of the packets of a source on a VC the oldest (R31); of the SEAM packets of a tile, whose collectives
take turns, the oldest of each collective that may go next: the first after the one that went last (R325). -/
def State.mayInject (s : State) (n : Nat) (p : Packet) : Bool :=
  let own (q : Packet) : Bool := packetFrom q == packetFrom p
  if p.ty = 6 then
    let mine := s.outbox.filter (fun q => q.ty == 6 && own q)
    let turn := (s.tile p.srcTile).seamTurn
    let dist (q : Packet) : Nat := (seamGid q + 65535 - turn) % 65536
    !(s.outbox.take n).any (fun q => q.ty == 6 && own q && seamGid q == seamGid p && q.vc == p.vc) && mine.all (fun q => decide (dist p ≤ dist q))
  else !(s.outbox.take n).any (fun q => q.ty != 6 && own q && q.vc == p.vc)

/-- PACKET_INJECT (R275, R287): a waiting packet whose turn it is, or a read of a tile's hoist, which takes a fresh tag while no more than 1,024
lines are outstanding (R238, R245). A stopped tile injects nothing (R421). -/
def State.packetInject (s : State) : InjectSrc → State
  | .queued n =>
    match s.outbox[n]? with
    | none => s
    | some p =>
      if !s.mayInject n p ∨ (packetFrom p = .tile p.srcTile ∧ (s.tile p.srcTile).stopped) then s
      else
        let s := if p.ty = 6 then s.onTile p.srcTile (fun x => { x with seamTurn := seamGid p }) else s
        { s with outbox := s.outbox.eraseIdx n }.inject p
  | .read t addr len =>
    let x := s.tile t
    let lines := max 1 (linesOf addr len)
    if !x.active ∨ x.hoist.reads.length + lines > 1024 ∨ len > 8192 then s
    else
      let tag := x.hoist.nextTag
      let s := s.onTile t (fun x => { x with hoist := { x.hoist with nextTag := (tag + 1) % 2 ^ 32, reads := x.hoist.reads ++ List.replicate lines tag } })
      s.inject (s.tilePacket t { ty := 4, addr := addr, len := len, tag := tag, onDie := true })

/-! ### Packets from ports (R276, R277) -/

/-- Is the header good (R276)? The counter of the first cause that holds. -/
def badHeader (pk : Packet) (weltVc : Nat) : Option Field :=
  let mgmt := decide (8 ≤ pk.ty)
  if pk.ty = 7 ∨ pk.ty ≥ 0xC ∨ pk.len > 8192 ∨ pk.ty = 4 ∨ pk.ty = 5 ∨ pk.vc ≠ weltVc then some .fabDropBadhdr
  else if mgmt ≠ decide (pk.vc < 2) then some .fabDropBadvc
  else none

/-- PACKET_RECEIVE_PORT: the oldest packet that a port accepted whole is dropped, delivered or forwarded; its receive buffers are
returned as credits (R257). A link-local packet goes to the headframe, which has a use for management types alone: the manual gives the
others no effect there (log 76). In a stop the link's packets stay where they are (R424). While the sequenced flit after a packet's last has not come,
the port cannot tell that the packet has no more flits than its LEN says, and it waits (R276). -/
def State.packetReceive (s : State) (p : Nat) : State :=
  match (s.port p).rxq with
  | [] => s
  | r :: rest =>
    let x := s.port p
    if x.halted ∨ (x.mode = .up ∧ rest = [] ∧ x.tail = some r.vc) then s else
    let s := (s.onPort p (fun x => { x with rxq := rest })).owe p r.vc r.flits
    let pk := r.pkt
    match badHeader pk r.vc with
    | some f => s.bump f
    | none =>
      if pk.dstDev = 0xFFFFF then
        if pk.ty ≥ 8 then (s.bump .fabEjectPkts).ringEnter pk (.ioDie (p / 2)) .headframe none (some p) r.stamp else s.bump .fabEjectPkts
      else if !s.on .fabDevIdValid then s.bump .fabDropUnassigned
      else if pk.dstDev = s.rd .fabDevIdId then (s.bump .fabEjectPkts).deliver pk (.ioDie (p / 2)) (some p) r.stamp
      else s.routePacket pk (some p)

/-! ### Held packets and the tables' registers (R288, R289, R294) -/

/-- Entries that a level has. -/
def rtDepth (level : Nat) : Nat := if level = 0 then 4096 else 262144

/-- Bits of an entry that are not reserved. -/
def rtMask (level v : Nat) : Nat := if level = 0 then v &&& 0xF80003FF else v &&& 0xF000

/-- After an access of RT_ACC_DATA. -/
def State.rtAdvance (s : State) : State :=
  if s.on .rtAccAddrAutoinc then s.wr .rtAccAddrIndex 0 0 (s.rd .rtAccAddrIndex + 1) else s

/-- Writes a table entry of a bank, subject to R289. -/
def State.rtStore (s : State) (bank level index v : Nat) : State :=
  if s.rd .fabEpochInj = bank ∨ s.rtHeld bank ≠ 0 then s.bump .rtWrDeny
  else if index < rtDepth level then
    { s with rt := sput 0 (bank * 2 ^ 20 + level * 2 ^ 18 + index) (rtMask level v) s.rt }
  else s

/-- RT_ACC_DATA_WRITE. -/
def State.rtWrite (s : State) (v : Nat) : State :=
  (s.rtStore (s.rd .rtAccAddrBank) (s.rd .rtAccAddrLevel) (s.rd .rtAccAddrIndex) v).rtAdvance

/-- The entry at RT_ACC_ADDR; an index beyond the level reads zero. -/
def State.rtRead (s : State) : Nat :=
  let l := s.rd .rtAccAddrLevel
  if s.rd .rtAccAddrIndex < rtDepth l then s.rtEntry (s.rd .rtAccAddrBank) l (s.rd .rtAccAddrIndex) else 0

/-- FAB_EPOCH_WRITE (R287, R289): each change of INJ counts. -/
def State.epochWrite (s : State) (v : Nat) : State :=
  let s' := s.wr .fabEpochInj 0 0 v
  if s.rd .fabEpochInj ≠ v % 2 then s'.bump .rtFlips else s'

/-! ### The commands -/

def execPacketInject (src : InjectSrc) (s : State) : Result := .next (s.packetInject src)
def execPacketReceivePort (p : PortId) (s : State) : Result := .next (s.packetReceive p)
def execRtAccDataWrite (v : Nat) (s : State) : Result := .next (s.rtWrite v)
def execRtAccDataRead (a : Agent) (s : State) : Result := .next (s.rtAdvance.answer a s.rtRead)
def execFabEpochWrite (v : Nat) (s : State) : Result := .next (s.epochWrite v)

end Sys2Proof.Machine
end

