-- ==== Sys2Proof/Machine/Time.lean ====
section
/-! DEFINITION. The tally: alignment across devices, replica resynchronisation and tally snapshots (R35 to R46). -/
namespace Sys2Proof.Machine

/-! ### The copy of a snapshot (R44, R46) -/

/-- Does the instance of a field belong to a counter block that has no power? Only tiles can be gated. -/
def State.unpowered (s : State) (f : Field) (inst : Nat) : Bool :=
  match f.info.space with
  | .tile => (s.tile inst).gated
  | .queue => (s.tile (inst / 128)).gated
  | _ => false

/-- The shadows after a copy: counters as they stand in powered blocks, old shadows in the others. -/
def State.shadowCopy (s : State) : List (Nat × Nat) :=
  let isCounter (k : Nat) : Bool := (keyField k).any (fun f => f.info.counter)
  let off (k : Nat) : Bool := (keyField k).any (fun f => s.unpowered f (keyInst k))
  let old := s.shadows.filter (fun e => off e.1)
  (s.regs.filter (fun e => isCounter e.1 && !off e.1)).foldl (fun l e => sput 0 e.1 e.2 l) old

/-- The counters are copied for the armed snapshot once the tally has reached it (R46), before an event of that instant counts (R44). -/
def State.snapCopy (s : State) : State :=
  if !s.on .tlyStatusSnapPending ∨ s.snapCopied ∨ s.tally < s.snapArmed then s
  else
    let seq := (s.rd .tlySnapSeq + 1) % 2 ^ 32
    let s' := { s with shadows := s.shadowCopy, snapCopied := true }
    (List.range 366).foldl (fun s k =>
      if s.blockPresent k ∧ s.blockPowered k then (s.wr .dbgShadowSeq k 0 seq).wr .dbgShadowAt k 0 s.snapArmed else s) s'

/-! ### Alignment (R38 to R40) -/

/-- A running master tally. -/
def State.devValid (s : State) : Bool := s.on .tlyStatusDevValid

/-- The device is a follower (ROLE 1). -/
def State.follower (s : State) : Bool := s.rd .tlyCtrlRole == 1

/-- Payload of a TALIGN packet (R39). -/
def talignPayload (kind seq t1 t2 t3 : Nat) : List Byte :=
  fieldBytes [(kind * 2 ^ 56 + seq % 2 ^ 32, 8), (t1, 8), (t2, 8), (t3, 8)] ++ List.replicate 32 0#8

/-- A link-local TALIGN packet for a port. -/
def talignPacket (port seq : Nat) (payload : List Byte) : Packet :=
  { ty := 0xA, vc := 0, dstDev := 0xFFFFF, dstTile := 0xFF, srcTile := 0xFF, len := 64, tag := seq, payload := payload, via := some port }

/-- 64-bit word i of a payload. -/
def payWord (p : Packet) (i : Nat) : Nat := leNat ((p.payload.drop (8 * i)).take 8)

/-- TALIGN_REQUEST_SEND: 125 µs after the last one. An exchange that is still outstanding then is given up: its RESPONSE would be late. -/
def State.talignSend (s : State) : State :=
  if !s.devValid ∨ !s.follower ∨ (s.talign.sentAt ≠ 0 ∧ s.tally + 1 < s.talign.sentAt + 125000) then s
  else
    let seq := s.talign.next
    let s := { s with talign := { s.talign with out := some seq, next := (seq + 1) % 2 ^ 32, sentAt := s.tally + 1 } }
    s.send (talignPacket (s.rd .tlyCtrlUpstreamPort) seq (talignPayload 0 seq s.tally 0 0))

/-- KIND of a TALIGN packet. -/
def talignKind (p : Packet) : Nat := bitsOf (payWord p 0) 63 56

/-- TALIGN_REQUEST_RECEIVE: the n-th waiting TALIGN packet that is no RESPONSE is answered, whatever the ROLE, while DEV_VALID is 1. A KIND
other than 0 and 1 is discarded and counted. -/
def State.talignRequest (s0 : State) (n : Nat) : State :=
  match s0.netTake 0xA n (fun p => talignKind p != 1) with
  | none => s0
  | some (a, s) =>
    if talignKind a.pkt ≠ 0 then s.bump .tlyAlignDiscard
    else if !s.devValid then s
    else
      let seq := payWord a.pkt 0 % 2 ^ 32
      s.send (talignPacket (a.port.getD 0) seq (talignPayload 1 seq (payWord a.pkt 1) a.stamp 0))

/-- The offset that an exchange measures; the halving drops the fraction (R38). -/
def talignOffset (t1 t2 t3 t4 : Nat) : Int := (((t2 : Int) - t1) - ((t4 : Int) - t3)).tdiv 2

/-- A signed value in 64 bits. -/
def toBits64 (x : Int) : Nat := (x % 2 ^ 64).toNat

/-- Sets XDEV_LOCKED; a change raises source 436. -/
def State.xdev (s : State) (v : Bool) : State :=
  if s.on .tlyStatusXdevLocked = v then s else (s.wr .tlyStatusXdevLocked 0 0 (b2n v)).irq 436

/-- The offset has first come within 4 µs, which starts the settling time (R40). -/
def State.settle (s : State) : State := { s.wr .tlyStatusCoarseSlew 0 0 0 with talign := { s.talign with settle := s.tally + 1 } }

/-- The master steps forward (R40). An armed snapshot that the step passes is taken; estimation windows that it passes over have no
estimate (log 79). -/
def State.stepForward (s : State) (n : Nat) : State :=
  let now := (s.tally + n) % 2 ^ 64
  ({ s with tally := now, talign := { s.talign with slew := 0, lastAt := now },
            pwr := { s.pwr with window := max s.pwr.window (now / 2048), tileE := [], windows := 0 } }).snapCopy

/-- An exchange has completed with an offset (R38, R40): the first one after a reset steps a master that is far behind and sets
COARSE_SLEW for one far ahead, whose owed correction is then made at half rate; any other correction is slewed. -/
def State.talignDone (s : State) (off : Int) : State :=
  let first := !s.talign.done
  let s := s.wr .tlyOffset 0 0 (toBits64 off)
  let near := decide (off.natAbs ≤ 20)
  let since := if near then (if s.talign.inSince = 0 then s.tally + 1 else s.talign.inSince) else 0
  let s := { s with talign := { s.talign with out := none, done := true, lastAt := s.tally, holdover := false, inSince := since } }
  let s := if near then s else s.xdev false
  if first && decide (off > 4000) then (s.stepForward off.toNat).settle
  else
    let coarse := (first || s.on .tlyStatusCoarseSlew) && decide (off < -4000)
    let s' := { s with talign := { s.talign with slew := off } }
    if coarse then s'.wr .tlyStatusCoarseSlew 0 0 1
    else if first || s.on .tlyStatusCoarseSlew then s'.settle
    else s'

/-- TALIGN_RESPONSE_RECEIVE: the n-th waiting RESPONSE; one with another SEQ, or more than 100 µs after its REQUEST, is discarded and
counted. -/
def State.talignResponse (s0 : State) (n : Nat) : State :=
  match s0.netTake 0xA n (fun p => talignKind p == 1) with
  | none => s0
  | some (a, s) =>
    let t1 := payWord a.pkt 1
    if s.talign.out ≠ some (payWord a.pkt 0 % 2 ^ 32) ∨ a.stamp > t1 + 100000 then s.bump .tlyAlignDiscard
    else s.talignDone (talignOffset t1 (payWord a.pkt 2) (payWord a.pkt 3) a.stamp)

/-- HOLDOVER_ENTRY (R40): no exchange has completed for 1 ms. -/
def State.holdover (s : State) : State :=
  if !s.follower ∨ !s.devValid ∨ s.talign.holdover ∨ s.tally < s.talign.lastAt + 1000000 then s
  else
    let s := (s.wr .tlyStatusXdevLocked 0 0 0).wr .tlyStatusCoarseSlew 0 0 0
    ({ s.bump .tlyHoldover with talign := { s.talign with holdover := true, inSince := 0, settle := 0, slew := 0 } }).irq 436

/-- XDEV_LOCK (R40): 10 ms after the offset first came within 4 µs, with the offset then within 20 ns; later, once the offset has stayed
within 20 ns for 10 ms. -/
def State.xdevLock (s : State) : State :=
  let since := if s.talign.settle = 0 then s.talign.inSince else s.talign.settle
  if s.follower ∧ !s.on .tlyStatusXdevLocked ∧ s.talign.inSince ≠ 0 ∧ s.tally + 1 ≥ since + 10000000 then
    { s.xdev true with talign := { s.talign with settle := 0 } }
  else s

/-- A write of TLY_CTRL: a role chosen anew starts its exchanges afresh. Of COARSE_SLEW, XDEV_LOCKED, an owed correction and the holdover
the spec does not say what becomes of them when the role leaves follower; they stay as they are (DESIGN CHOICE, log 79). -/
def State.tlyCtrlWrite (s : State) (v : Nat) : State :=
  let s' := (s.wr .tlyCtrlUpstreamPort 0 0 (v / 16)).wr .tlyCtrlRole 0 0 v
  if s.rd .tlyCtrlRole = v % 4 then s' else { s' with talign := { s'.talign with out := none, sentAt := 0, lastAt := s.tally, inSince := 0 } }

/-! ### Replicas (R42) -/

/-- A tile's replica is reloaded and checked, and its banks begin to clear (R222). -/
def State.tileAlign (s : State) (t : Nat) : State :=
  allBanks.foldl (fun s b => s.startClear t b) (s.onTile t (fun x => { x with tallyValid := true }))

/-- REPLICA_RESYNC: the replicas of a power block that has been woken, counted once for each tile. -/
def State.replicaResync (s : State) (k : Nat) : State :=
  if !s.devValid then s
  else (pbTiles k).foldl (fun s t =>
    if (s.tile t).gated ∨ (s.tile t).tallyValid then s else (s.bump .tlyResync).tileAlign t) s

/-! ### Snapshots (R45, R46) -/

/-- An arm of the snapshot (R45): TLY_SNAP_BUSY goes before TLY_SNAP_LATE. Answers whether it succeeds. -/
def State.snapArm (s : State) : State × Bool :=
  if s.on .tlyStatusSnapPending then (s.bump .tlySnapBusy, false)
  else if s.rd .tlySnapAt < s.tally + 2000 then (s.bump .tlySnapLate, false)
  else ({ s.wr .tlyStatusSnapPending 0 0 1 with snapArmed := s.rd .tlySnapAt, snapCopied := false }, true)

/-- TLY_SNAP_ARM_WRITE. -/
def State.snapArmWrite (s : State) (v : Nat) : State := if v % 2 = 1 then s.snapArm.1 else s

/-- TALLY_SNAPSHOT (R46): every powered block has copied, at the instant the replicas reached TLY_SNAP_AT. -/
def State.snapshot (s : State) : State :=
  if !s.on .tlyStatusSnapPending ∨ s.tally < s.snapArmed then s
  else
    let at0 := s.snapArmed
    let seq := (s.rd .tlySnapSeq + 1) % 2 ^ 32
    let s := s.snapCopy
    (((({ s with snapCopied := false }).wr .tlySnapSeq 0 0 seq).wr .tlySnapTakenAt 0 0 at0).wr .tlyStatusSnapPending 0 0 0).irq 437

/-! ### The commands -/

def execTalignRequestSend (s : State) : Result := .next s.talignSend
def execTalignRequestReceive (n : Nat) (s : State) : Result := .next (s.talignRequest n)
def execTalignResponseReceive (n : Nat) (s : State) : Result := .next (s.talignResponse n)
def execHoldoverEntry (s : State) : Result := .next s.holdover
def execXdevLock (s : State) : Result := .next s.xdevLock
def execReplicaResync (k : PbId) (s : State) : Result := .next (s.replicaResync k)
def execTlySnapArmWrite (v : Nat) (s : State) : Result := .next (s.snapArmWrite v)
def execTallySnapshot (s : State) : Result := .next s.snapshot

end Sys2Proof.Machine
end

