-- ==== Sys2Proof/Machine/Mailbox.lean ====
section
/-! DEFINITION. Mailbox channels, dispatch and responses (R357 to R365), and the firmware components' faults and restarts (R349 to
R352). -/
namespace Sys2Proof.Machine

/-! ### Commands of YCP -/

/-- Component and feature bit of each command code (R363). -/
def ycpTable : List (Nat × Nat × Nat) :=
  [(0x0001, 0, 0), (0x0002, 0, 0), (0x0003, 0, 1), (0x0004, 0, 0), (0x0101, 0, 0), (0x0102, 0, 0), (0x0103, 0, 0), (0x0104, 0, 0),
   (0x0105, 0, 0), (0x0106, 0, 0), (0x0107, 0, 0), (0x0108, 5, 0), (0x0109, 2, 0), (0x010A, 0, 10), (0x010B, 0, 0)] ++
  [(0x0201, 2, 0), (0x0202, 2, 0), (0x0203, 2, 0), (0x0204, 2, 0), (0x0205, 2, 0), (0x0206, 2, 0), (0x0207, 2, 0), (0x0208, 2, 0),
   (0x0209, 2, 0), (0x020A, 2, 9), (0x0301, 1, 0), (0x0302, 1, 0), (0x0303, 1, 7), (0x0304, 1, 0)] ++
  [(0x0401, 3, 0), (0x0402, 3, 0), (0x0403, 3, 0), (0x0404, 3, 0), (0x0405, 3, 0), (0x0501, 4, 4), (0x0502, 4, 4), (0x0503, 4, 0),
   (0x0504, 4, 0), (0x0505, 4, 0), (0x0506, 4, 0)] ++
  [(0x0601, 5, 5), (0x0602, 5, 0), (0x0603, 2, 6), (0x0701, 0, 2), (0x0702, 0, 2), (0x0703, 5, 3), (0x0704, 5, 0)]

/-- Component and feature bit of a code, if it is one of R363. -/
def ycpOf (op : Nat) : Option (Nat × Nat) := (ycpTable.find? (fun e => e.1 == op)).map (fun e => e.2)

/-- The LEN that a command's payload layout fixes; codes whose chapters give no layout take any LEN of R362. `nr` is what byte 46 of
the payload holds, the region count of SKIP_START. -/
def ycpLenOk (op len nr : Nat) : Bool :=
  match op with
  | 0x0001 => len == 36
  | 0x0301 => len == 8
  | 0x0302 => len == 0
  | 0x010B => decide (8 ≤ len ∧ len ≤ 2048) && len % 8 == 0
  | 0x0401 => len == 4
  | 0x0402 => len == 8
  | 0x0404 => decide (8 ≤ len ∧ len ≤ 512) && len % 8 == 0
  | 0x0405 => len == 4
  | 0x0501 => len == 0
  | 0x0502 => len == 0 || len == 256
  | 0x0503 => len == 25
  | 0x0504 => len == 10
  | 0x0505 => len == 48
  | 0x0506 => len == 4
  | 0x0601 => len == 56 + 16 * nr
  | 0x0602 => len == 17
  | 0x0603 => len == 12
  | 0x0703 => len == 32
  | 0x0704 => len == 4097
  | _ => true

/-! ### Doorbells and dispatch (R358, R359, R364) -/

/-- MBX_DOORBELL_WRITE (R336, R358, R360). -/
def State.doorbell (s : State) (c v : Nat) : State :=
  if v % 2 = 0 then s
  else if !s.adit.fwReady then s.bump .adtEarlyDoorbell
  else if c = 63 ∨ s.rd .mbxState c = 1 then s.cnt .mbxDoorbellReject c 0 1
  else
    let s := (s.wr .mbxState c 0 1).cnt .mbxCmds c 0 1
    (({ s with mbx := { s.mbx with latched := s.mbx.latched ++ [(c, s.tally)] } }).irq (360 + c)).irq 447

/-- MBX_REQ_WRITE: a host write of one word, or an aligned pair of words, of a request buffer (R60, R358). -/
def State.mbxReqWrite (s : State) (c word : Nat) (wide : Bool) (v : Nat) : State :=
  if wide ∧ (word % 2 = 1 ∨ word + 1 ≥ 2032) then s.bump .adtRegSizeErr
  else if s.rd .mbxState c = 1 then s.cnt .mbxWrBusy c 0 1
  else s.setBytes (mbxKey c (0x40 + 4 * word)) (natLe (if wide then 8 else 4) v)

/-- The first failing check of the header (R364), or none. -/
def State.mbxCheck (s : State) (c : Nat) : Option Nat :=
  let op := s.reqNat c 0 2
  let len := s.reqNat c 8 2
  match ycpOf op with
  | none => some 1
  | some (_, feat) =>
    if len > 8096 ∨ !ycpLenOk op len (s.pay c 46 2) then some 2
    else match s.mbx.pair with
      | none => if op = 1 ∨ op = 2 ∨ op = 4 then none else some 4
      | some p => if p ≠ s.reqNat c 2 2 then some 3 else if bitOf s.mbx.features feat then none else some 5

/-- The latched doorbell to dispatch next: the oldest, of those of one instant the lowest channel (R359). -/
def nextDoorbell : List (Nat × Nat) → Option Nat
  | [] => none
  | e :: rest => some ((rest.filter (fun x => x.2 == e.2)).foldl (fun c x => min c x.1) e.1)

/-- The doorbells that are dispatched now: all, or, once the mailbox service has FAILED, those of its own commands, which complete with 0x000F (R351). -/
def State.doorbells (s : State) : List (Nat × Nat) :=
  if (s.comp 0).mode = .failed then s.mbx.latched.filter (fun e => (ycpOf (s.reqNat e.1 0 2)).any (fun k => k.1 == 0)) else s.mbx.latched

/-- MBX_DISPATCH: the mailbox service, while the headframe's clock runs (R382), takes the next latched doorbell, answers a bad header, or hands the command to its component. -/
def State.dispatch (s : State) : State :=
  match nextDoorbell s.doorbells with
  | none => s
  | some c =>
    let failed := (s.comp 0).mode == .failed
    if ((s.comp 0).mode ≠ .running ∧ !failed) ∨ s.ic.asleep then s
    else
      let s := { s with mbx := { s.mbx with latched := s.mbx.latched.filter (fun e => e.1 != c) } }
      if failed then s.respond c 0 s.tally 0xF [] else
      match s.mbxCheck c with
      | some st => s.respond c 0 s.tally st []
      | none =>
        let op := s.reqNat c 0 2
        let k := ((ycpOf op).map (fun e => e.1)).getD 0
        { s with mbx := { s.mbx with run := s.mbx.run ++ [⟨c, op, k, s.tally, false⟩] } }

/-- Runs a command of channel c when it is first at its component and the headframe's clock runs (R382). `f` answers the new state with a status and a response payload, or
with none while the command still waits. A FAILED component's commands complete with 0x000F (R351); a restarting one holds them. -/
def State.ycp (s : State) (c op : Nat) (f : State → MbxCmd → State × Option (Nat × List Byte)) : State :=
  match ycpOf op with
  | none => s
  | some (k, _) =>
    match s.mbx.run.find? (fun r => r.comp == k) with
    | none => s
    | some r =>
      if r.chan ≠ c ∨ r.op ≠ op ∨ s.ic.asleep then s
      else
        let drop (s : State) : State := { s with mbx := { s.mbx with run := s.mbx.run.filter (fun q => q.chan != c) } }
        match (s.comp k).mode with
        | .failed => (drop s).respond c 0 r.stamp 0xF []
        | .running =>
          match f s r with
          | (s', some (st, p)) => (drop s').respond c k r.stamp st p
          | (s', none) =>
            { s' with mbx := { s'.mbx with run := s'.mbx.run.map (fun q => if q.chan = c then { q with began := true } else q) } }
        | _ => s

/-- A status without a payload. -/
def done (s : State) (st : Nat) : State × Option (Nat × List Byte) := (s, some (st, []))

/-! ### Components (R349 to R352) -/

/-- COMPONENT_FAULT: an MPU or bus fault raises the core's fault source; a bus fault counts as the decode error of R51. A component
that has not started or has FAILED makes no access, nor does one while the headframe's clock is stopped (R382). -/
def State.compCause (s : State) (k : Nat) (cause : CompCause) : State :=
  let m := (s.comp k).mode
  if m = .notStarted ∨ m = .failed ∨ s.ic.asleep then s
  else
    let core := compCore k
    let s := match cause with
      | .mpu => s
      | .bus a => s.decodeCount (.hf core) a
    (s.irq (428 + core)).accessFault k

/-- HEARTBEAT_MISS: no heartbeat has come for 10 ms, and the component that watches runs. While the headframe's clock is stopped, heartbeats and their
watch wait for a wake (R382). -/
def State.beatMiss (s : State) (k : Nat) : State :=
  let x := s.comp k
  if x.mode = .running ∧ s.compRuns (watcher k) = true ∧ s.tally ≥ x.beatAt + 10000000 then s.compFault k else s

/-- COMPONENT_RESTART_COMPLETE: the restart and the component reset are counted (R350, R443). -/
def State.compRestarted (s : State) (k : Nat) : State :=
  let x := s.comp k
  if x.mode = .restarting ∧ s.warmAt = 0 then
    ((s.setComp k { x with mode := .running, beatAt := s.tally }).cnt .hfCompRestarts 0 k 1).cnt .rasResets 0 3 1
  else s

/-! ### The commands -/

def execMbxDoorbellWrite (c : ChanId) (v : Nat) (s : State) : Result := .next (s.doorbell c v)
def execMbxReqWrite (c : ChanId) (word : Fin 2032) (wide : Bool) (v : Nat) (s : State) : Result := .next (s.mbxReqWrite c word wide v)
def execMbxDispatch (s : State) : Result := .next s.dispatch
def execComponentFault (k : CompId) (cause : CompCause) (s : State) : Result := .next (s.compCause k cause)
def execHeartbeatMiss (k : CompId) (s : State) : Result := .next (s.beatMiss k)
def execComponentRestartComplete (k : CompId) (s : State) : Result := .next (s.compRestarted k)

end Sys2Proof.Machine
end

