-- ==== Sys2Proof/Machine/Interrupts.lean ====
section
/-! DEFINITION. The interrupt controller and the lamp (R371 to R386). -/
namespace Sys2Proof.Machine

/-- Running priority of a core (R374). -/
def State.icRunning (s : State) (core : Nat) : Nat :=
  match s.icStackOf core with
  | [] => 16
  | e :: _ => e.2

/-- IC_PMR of a core; values above 16 act as 16. -/
def State.icPmrOf (s : State) (core : Nat) : Nat := min 16 (s.rd .icPmr core)

/-- May source n be delivered to a core (R374)? A source that woke the headframe is delivered in spite of MASK (R382); with `late`, one
inside its mask window is delivered in spite of the write that holds it (R379). -/
def State.icDeliverable (s : State) (core : Nat) (late : Bool) (n : Nat) : Bool :=
  let inWindow := late && (let m := sget 0 n s.ic.maskAt; decide (m ≠ 0 ∧ s.tally + 1 < m + 64))
  sget false n s.ic.pending && s.rd .icSrcCfgTarget 0 n == core && decide (s.rd .icSrcCfgPrio 0 n < s.icRunning core) &&
    (inWindow || (s.on .icSrcCfgEn 0 n && (!s.on .icSrcCfgMask 0 n || s.ic.lampFree.contains n) &&
      decide (s.rd .icSrcCfgPrio 0 n < s.icPmrOf core)))

/-- The winner among the deliverable sources of a core: lowest PRIO, then lowest number. -/
def State.icWinner (s : State) (core : Nat) (late : Bool) : Option Nat :=
  (s.ic.pending.map (fun e => e.1)).foldl (fun best n =>
    if s.icDeliverable core late n then
      match best with
      | none => some n
      | some b => if s.rd .icSrcCfgPrio 0 n < s.rd .icSrcCfgPrio 0 b then some n else some b
    else best) none

/-- INTERRUPT_DELIVERY (R372, R375): the winner's PENDING clears, ACTIVE sets, its entry is pushed, and the core is handed its number and
the address of its handler, and saves what it interrupts. A delivery inside the mask window
happens once and counts IC_LATE_DELIVER. -/
def State.icDeliver (s : State) (core : Nat) (late : Bool) : State :=
  if s.ic.asleep ∨ s.warmAt ≠ 0 then s
  else match s.icWinner core late with
  | none => s
  | some n =>
    let s := if s.icDeliverable core false n then s
      else (s.cnt .icLateDeliver core 0 1)
    let i := s.ic
    let s := { s with ic := { i with
      pending := sput false n false i.pending
      active := sput false n true i.active
      cur := sput 0 core (n + 1) i.cur
      vector := sput 0 core (0x100000000 + 2 ^ 14 * s.rd .icVbase core + 16 * n) i.vector
      maskAt := if s.icDeliverable core false n then i.maskAt else sput 0 n 0 i.maskAt
      lampFree := i.lampFree.filter (· != n) } }
    ((s.icSetStack core ((n, s.rd .icSrcCfgPrio 0 n) :: s.icStackOf core)).icSave core n).cnt .icDelivered core 0 1

/-- Notes the instant at which a write has masked a source, or that it no longer is (R379). -/
def State.icMaskStamp (s : State) (n : Nat) (masked : Bool) : State :=
  { s with ic := { s.ic with maskAt := sput 0 n (if masked then s.tally + 1 else 0) s.ic.maskAt } }

/-- Is delivery of a source held by its configuration or its target's IC_PMR? -/
def State.icHeld (s : State) (n : Nat) : Bool :=
  !s.on .icSrcCfgEn 0 n || s.on .icSrcCfgMask 0 n || decide (s.rd .icSrcCfgPrio 0 n ≥ s.icPmrOf (s.rd .icSrcCfgTarget 0 n))

/-- Stamps the sources that a change of configuration has begun or ceased to hold. -/
def State.icRestamp (s before : State) (l : List Nat) : State :=
  l.foldl (fun s n =>
    if s.icHeld n = before.icHeld n then s else s.icMaskStamp n (s.icHeld n)) s

/-- IC_SRC_CFG_WRITE (R371, R373): a reserved source's write is ignored; one that changes TARGET or PRIO while EN is 1, or points a stack or
core-fault source at its own core, is ignored in full and counted. -/
def State.icSrcCfg (s : State) (n v : Nat) : State :=
  let target := bitsOf v 5 4
  let own := decide (424 ≤ n ∧ n < 432) && target == (n - 424) % 4
  let change := s.on .icSrcCfgEn 0 n && (target != s.rd .icSrcCfgTarget 0 n || v % 16 != s.rd .icSrcCfgPrio 0 n)
  if !srcOk n then s
  else if own ∨ change then s.bump .icCfgDeny
  else
    let t := (((s.wr .icSrcCfgEn 0 n (v / 2 ^ 31)).wr .icSrcCfgMask 0 n (v / 2 ^ 30)).wr .icSrcCfgFwd 0 n (v / 2 ^ 29))
    ((t.wr .icSrcCfgTarget 0 n target).wr .icSrcCfgPrio 0 n v).icRestamp s [n]

/-- A write of IC_PMR of a core (R379). -/
def State.icPmrWrite (s : State) (core v : Nat) : State :=
  (s.wr .icPmr core 0 v).icRestamp s ((List.range 1024).filter (fun n => s.rd .icSrcCfgTarget 0 n == core))

/-- Counts and records a stack fault (R377, R99). -/
def State.icEoiFault (s : State) (core written : Nat) (empty : Bool) (top : Nat) : State :=
  let s := s.cnt .icStackFaults core 0 1
  if s.on .icStackInfoValid then s
  else
    let s := (s.wr .icStackInfoEmpty 0 0 (b2n empty)).wr .icStackInfoCore 0 0 core
    ((s.wr .icStackInfoWritten 0 0 written).wr .icStackInfoTop 0 0 top).wr .icStackInfoValid 0 0 1

/-- IC_EOI_WRITE (R377): completion by a component's handler. A number that is not on top changes nothing but is counted, recorded and
raised, and faults the component. The stack and every ACTIVE bit stand until the component reset: the RAS agent begins it, once it has taken the
fault's report (R384's example; log 57), and the mailbox service that of the RAS agent itself at once. A core whose clock is stopped writes nothing
(R382). -/
def State.icEoi (s : State) (k v : Nat) : State :=
  let core := compCore k
  let n := v % 1024
  if s.ic.asleep then s
  else match s.icStackOf core with
  | e :: rest =>
    if e.1 = n then ((s.icSetStack core rest).icInactive n).icReturn core n
    else (((s.icEoiFault core n false e.1)).irq (424 + core)).compFault k (k != 3)
  | [] => ((s.icEoiFault core n true 0).irq (424 + core)).compFault k (k != 3)

/-- IC_STACK_FIX_WRITE (R378). -/
def State.icFix (s : State) (v : Nat) : State :=
  let core := bitsOf v 29 28
  let n := v % 1024
  if s.ic.asleep then s
  else if (s.icStackOf core).any (fun e => e.1 == n) then
    ((s.icSetStack core ((s.icStackOf core).filter (fun e => e.1 != n))).icInactive n).icReturn core n
  else s.bump .icFixMiss

/-- IC_SIGNAL_WRITE (R380). -/
def State.icSignal (s : State) (v : Nat) : State :=
  let n := v % 1024
  if s.ic.asleep then s else if (432 ≤ n ∧ n < 436) ∨ 960 ≤ n then s.irq n else s.bump .icCfgDeny

/-- IC_TIMER_EXPIRY (R381): due once the tally has reached a timer that is not zero. -/
def State.icTimer (s : State) (core i : Nat) : State :=
  let at0 := s.rd .icTimerAt core i
  if at0 = 0 ∨ s.tally < at0 then s else (s.wr .icTimerAt core i 0).irq (448 + 4 * core + i)

/-- HEADFRAME_STANDBY (R382): every core waits, with nothing deliverable to it. -/
def State.standby (s : State) : State :=
  if s.on .icLampCtrlStandbyEn ∧ !s.ic.asleep ∧ [0, 1, 2, 3].all (fun c => (s.icWinner c false).isNone) then
    { s with ic := { s.ic with asleep := true, lampHit := false } }
  else s

/-- LAMP_WAKE (R382). Heartbeats waited for the wake: the time of the next one runs from it. -/
def State.lampWake (s : State) : State :=
  if s.ic.asleep ∧ s.ic.lampHit then
    let s := { s.bump .icLampWakes with ic := { s.ic with asleep := false, lampHit := false } }
    (List.range 6).foldl (fun s k => if (s.comp k).mode = .running then s.setComp k { s.comp k with beatAt := s.tally } else s) s
  else s

/-! ### The commands -/

def execInterruptEvent (n : SrcId) (s : State) : Result := .next (s.irq n)
def execInterruptDelivery (core : CoreId) (late : Bool) (s : State) : Result := .next (s.icDeliver core late)
def execIcSrcCfgWrite (n : SrcId) (v : Nat) (s : State) : Result := .next (s.icSrcCfg n v)
def execIcEoiWrite (k : CompId) (v : Nat) (s : State) : Result := .next (s.icEoi k v)
def execIcStackFixWrite (v : Nat) (s : State) : Result := .next (s.icFix v)
def execIcSignalWrite (_core : CoreId) (v : Nat) (s : State) : Result := .next (s.icSignal v)
def execIcTimerExpiry (core : CoreId) (i : Fin 4) (s : State) : Result := .next (s.icTimer core i)
def execHeadframeStandby (s : State) : Result := .next s.standby
def execLampWake (s : State) : Result := .next s.lampWake

end Sys2Proof.Machine
end

