-- ==== Sys2Proof/Machine/Power.lean ====
section
/-! DEFINITION. Power estimation, the cap and its hardware limits, actuators, the firmware loop, droop, thermal limits and pace (R387 to
R411). Energies are in fJ and powers in µW inside; 1 µW for 1 ns is 1 fJ. -/
namespace Sys2Proof.Machine

/-! ### Levels and settings in force (R390, R395 to R397) -/

/-- Block voltage of a level in mV. -/
def vsetMv (v : Nat) : Nat := [650, 700, 750, 820].getD v 750

/-- Leakage of a level at 85 °C in µW. -/
def vsetLeak (v : Nat) : Nat := [3200000, 4000000, 5000000, 6600000].getD v 5000000

/-- Least step rate of a level in M steps/s at Tj up to 85 °C, and up to 105 °C (R33). -/
def vsetRate (v tj : Nat) : Nat :=
  if tj ≤ 85 then [1250, 1580, 1950, 2300].getD v 1950 else [1200, 1510, 1860, 2190].getD v 1860

/-- Greatest n of at most `bits` bits whose twentieth power does not exceed x. -/
def root20 : Nat → Nat → Nat → Nat
  | 0, acc, _ => acc
  | b + 1, acc, x => root20 b (if (acc + 2 ^ b) ^ 20 ≤ x then acc + 2 ^ b else acc) x

/-- Leakage in µW of a block at a level and a junction temperature: times 2^((Tj - 85) / 20), the fraction dropped. -/
def leakUw (v tj : Nat) : Nat :=
  let a := vsetLeak v ^ 20
  root20 40 0 (if tj ≥ 85 then a * 2 ^ (tj - 85) else a / 2 ^ (85 - tj))

/-- Junction temperature last read of a block. -/
def State.pbTj (s : State) (k : Nat) : Nat := s.rd .pwrPbStatusTj k

/-! ### Trips (R403, R505) -/

/-- A trip: THERMTRIP# asserts, every rail but VDD_HK goes, and the first cause is latched. Codes of HF_MOD_STATUS.TRIP_CAUSE; `sensor`
is the code of PWR_TRIP_INFO, 0 for a power-stage trip. -/
def State.tripNow (s : State) (cause sensor : Nat) : State :=
  if s.mod.tripped ∨ !s.mod.pwrgd then s
  else
    let s := s.coldState
    let s := if sensor = 0 then s else s.wr .pwrTripInfo 0 0 sensor
    let s := s.wr .hfModStatusTripCause 0 0 cause
    { s with mod := { s.mod with tripped := true, pwrgd := false, running := false, warned := false, tripToLog := cause, tripInfo := sensor } }

/-! ### Estimation windows (R388 to R393, R403) -/

/-- Weighted sum in pJ of a unit's events of some classes in the running window; events stamped at or after its end stand under later
windows (R44). -/
def State.unitEnergy (s : State) (unit : Nat) (classes : List Nat) : Nat :=
  classes.foldl (fun acc c => acc + s.rd .pwrCoef 0 c * sget 0 (s.pwr.window * 65536 + unit * 16 + c) s.act) 0

/-- Energy in pJ of a tile in the running window at its block's voltage. -/
def State.tileEnergy (s : State) (t : Nat) : Nat :=
  s.unitEnergy t [0, 1, 2, 3, 4, 5, 6, 7] * vsetMv (s.vsetEff (tilePb t)) ^ 2 / 562500

/-- Energy in fJ of a block in the running window, leakage included (R390). -/
def State.pbEnergy (s : State) (k : Nat) : Nat :=
  let dyn := (pbTiles k).foldl (fun acc t => acc + s.unitEnergy t [0, 1, 2, 3, 4, 5, 6, 7]) (s.unitEnergy (256 + k) [8])
  dyn * 1000 * vsetMv (s.vsetEff k) ^ 2 / 562500 + (if s.pbGated k then 0 else leakUw (s.vsetEff k) (s.pbTj k) * 2048)

/-- Ports that are UP. -/
def State.upPorts (s : State) : List Nat := (List.range s.variant.ports).filter (fun p => (s.port p).mode == .up)

/-- Uncore power in µW of the running window (R390). -/
def State.uncoreUw (s : State) : Nat :=
  let moved := (List.range 24).foldl (fun acc i => acc + s.unitEnergy (272 + i) [9, 10]) 0
  moved * 1000 / 2048 + (s.rd .pwrStaticStackMw * s.variant.stacks + s.rd .pwrPortMw * s.upPorts.length + s.rd .pwrFixedMw) * 1000

/-- P_module in W from block and uncore powers in µW; GAIN and EFF are Q2.14 and Q0.16. An EFF of zero leaves a free value. -/
def State.moduleWatts (s : State) (uw : Nat) : Nat × State :=
  if s.rd .pwrCalEff = 0 then (s.takeFree.1 % 65536, s.takeFree.2)
  else (min 0xFFFF (uw * s.rd .pwrCalGain * 4 / s.rd .pwrCalEff / 1000000), s)

/-- Mean of the most recent estimates, of as many windows as there have been. -/
def meanOf (l : List Nat) : Nat := if l.isEmpty then 0 else l.foldl (· + ·) 0 / l.length

/-- The readings of a block (R403): hot from HOT on, until it falls below HOT − 5. Entry raises source 344 + k. -/
def State.blockTj (s : State) (k tj : Nat) : State :=
  let s := s.wr .pwrPbStatusTj k 0 tj
  let hot := s.rd .pwrTjHot
  if s.on .pwrPbStatusHot k then (if tj + 5 < hot then s.wr .pwrPbStatusHot k 0 0 else s)
  else if tj ≥ hot then (s.wr .pwrPbStatusHot k 0 1).irq (344 + k)
  else s

/-- The trip of a set of readings, the lowest code first: junctions at the TRIP temperature, stacks at 110 °C. -/
def State.tripCheck (s : State) (w : WindowIn) : State :=
  let hotIn (l : List Nat) (limit : Nat) : Option Nat := l.findIdx? (fun x => decide (x ≥ limit))
  match hotIn w.block (s.rd .pwrTjTrip) with
  | some i => s.tripNow 1 (i + 1)
  | none => match hotIn w.io (s.rd .pwrTjTrip) with
    | some i => s.tripNow 1 (17 + i)
    | none =>
      if w.hf ≥ s.rd .pwrTjTrip then s.tripNow 1 21
      else match hotIn w.stack 110 with
        | some i => s.tripNow 2 (32 + i)
        | none => s

/-- Sensor readings of a window. -/
def State.readSensors (s : State) (w : WindowIn) : State :=
  let s := ((List.range 16).zip w.block).foldl (fun s e => s.blockTj e.1 e.2) s
  let s := ((List.range s.variant.stacks).zip w.stack).foldl (fun s e =>
    (s.onHbmc (2 * e.1) (fun c => { c with temp := e.2 })).onHbmc (2 * e.1 + 1) (fun c => { c with temp := e.2 })) s
  s.tripCheck w

/-- TILE_STEP_RATE of every tile (R34): its steps in the window that closes. -/
def State.stepRates (s : State) : State :=
  (List.range 256).foldl (fun s t => s.wr .tileStepRate t 0 (sget 0 (s.pwr.window * 256 + t) s.pwr.stepsAt)) s

/-- The window that closes is done with: its events are dropped, and the next one runs. -/
def State.windowNext (s : State) : State :=
  let w := s.pwr.window + 1
  { s with act := sdrop (fun k => decide (k < w * 65536)) s.act,
           pwr := { s.pwr with window := w, stepsAt := sdrop (fun k => decide (k < w * 256)) s.pwr.stepsAt } }

/-- The limits that the hardware applies at a close (R392, R393); a peak clamp counts once, however many windows it lasts. -/
def State.hwLimits (s : State) : State :=
  let peak := decide (s.rd .pwrStatusEstW > s.rd .pwrPeakW)
  let safe := s.safeMode && decide (s.rd .pwrAvgAvgW > s.pwr.cap.getD s.variant.tdp)
  let s := if peak ∧ !s.pwr.peak then s.bump .pwrFastTrips else s
  let s := s.wr .pwrStatusFastActive 0 0 (b2n (peak || safe))
  { s with pwr := { s.pwr with peak := peak, safeClamp := s.safeMode, cap := some s.capNow } }

/-- The energies that the firmware loop averages are those of the windows of one interval (R400): the first window of an interval starts them anew. -/
def State.intervalStart (s : State) : State :=
  if s.pwr.window % 8 = 0 then { s with pwr := { s.pwr with tileE := [], windows := 1 } }
  else { s with pwr := { s.pwr with windows := s.pwr.windows + 1 } }

/-- ESTIMATION_WINDOW_CLOSE: due at the end of the running window. -/
def State.windowClose (s : State) (w : WindowIn) : State :=
  if !s.devValid ∨ s.tally < 2048 * (s.pwr.window + 1) then s
  else
    let s := s.stepRates.intervalStart
    let s := (List.range 256).foldl (fun s t =>
      let e := s.tileEnergy t
      if e = 0 ∧ s.rd .tilePwrE t = 0 then s
      else { s.wr .tilePwrE t 0 e with pwr := { s.pwr with tileE := sput 0 t (sget 0 t s.pwr.tileE + e) s.pwr.tileE } }) s
    let blocks := (List.range 16).map (fun k => s.pbEnergy k)
    let s := ((List.range 16).zip blocks).foldl (fun s e => s.wr .pwrPbE e.1 0 (e.2 / 1000000)) s
    let s := ((List.range 16).zip w.rate).foldl (fun s e => s.wr .pwrPbRate e.1 0 e.2) s
    let un := s.uncoreUw
    let r := s.moduleWatts (blocks.foldl (· + ·) 0 / 2048 + un)
    let s := r.2.wr .pwrStatusEstW 0 0 r.1
    let hist := (r.1 :: s.pwr.hist).take 32768
    let s := s.wr .pwrAvgAvgW 0 0 (meanOf (hist.take (2 ^ s.rd .pwrAvgAvgLog2)))
    let s := ({ s with pwr := { s.pwr with hist := hist, uncore := un } }).windowNext.readSensors w
    if s.mod.tripped then s else s.hwLimits

/-! ### Droop (R402) -/

/-- DROOP_TRIP: a new trip counts and raises source 344 + k; one during the hold extends it. -/
def State.droopTrip (s : State) (k : Nat) : State :=
  let s' := { s with pwr := { s.pwr with droopAt := sput 0 k (s.tally + 1) s.pwr.droopAt } }
  if s.on .pwrPbStatusDroop k then s'
  else ((s'.wr .pwrPbStatusDroop k 0 1).cnt .pwrDroopTrips k 0 1).irq (344 + k)

/-- DROOP_HOLD_END: not before HOLD_NS have passed since the last trip. -/
def State.droopEnd (s : State) (k : Nat) : State :=
  if s.on .pwrPbStatusDroop k ∧ s.tally + 1 ≥ sget 0 k s.pwr.droopAt + s.rd .pwrDroopCfgHoldNs then s.wr .pwrPbStatusDroop k 0 0 else s

/-! ### The firmware loop (R394, R398, R400, R401, R408) -/

/-- Demand of one tile at full F4 load in µW, where a phase starts (R400). -/
def phaseStart : Nat := 4687500

/-- Learned demand of a phase. -/
def State.demandOf (s : State) (p : Nat) : Nat := ((s.demand.find? (fun r => r.phase == p)).map (fun r => r.demand)).getD phaseStart

/-- Sets the demand of a phase; a new phase in a full table replaces the least recently seen one (R400). -/
def State.setDemand (s : State) (p d : Nat) : State :=
  let r : PhaseRec := ⟨p, d, s.tally⟩
  if s.demand.any (fun e => e.phase == p) then { s with demand := s.demand.map (fun e => if e.phase = p then r else e) }
  else
    let others := s.demand.filter (fun e => e.phase != 0)
    if p = 0 ∨ others.length < 64 then { s with demand := s.demand ++ [r] }
    else
      let oldest := others.foldl (fun m e => min m e.seen) s.tally
      match others.find? (fun e => e.seen == oldest) with
      | some v => { s.bump .pwrPhaseEvict with demand := s.demand.filter (fun e => e.phase != v.phase) ++ [r] }
      | none => s

/-- One tile's sample (R400), for the phase in force when the running window began (R182): its mean power over the windows of the interval that closed.
A TILE_PHASE_AT of 0 is its reset value, and no change. -/
def State.learnTile (s : State) (from_ t : Nat) : State :=
  let k := tilePb t
  let p := (s.phaseInForce t).1
  let at0 := (s.phaseInForce t).2
  if !(s.tile t).active ∨ (at0 ≥ from_ ∧ at0 ≠ 0) ∨ s.pwr.windows = 0 then s
  else
    let mv := vsetMv (s.vsetEff k)
    let uw := sget 0 t s.pwr.tileE * 1000 / (2048 * s.pwr.windows)
    let sample := uw * 562500 * 64 / (mv * mv * s.issueEff k)
    let d := s.demandOf p
    s.setDemand p (((d : Int) + (((sample : Int) - d) / 8)).toNat)

/-- Learns from every tile whose phase has not changed in the interval. -/
def State.learn (s : State) : State :=
  let from_ := 16384 * (s.tally / 16384 - 1)
  let s := (List.range 256).foldl (fun s t => s.learnTile from_ t) s
  { s with pwr := { s.pwr with tileE := [], windows := 0 } }

/-- Demand of a block in µW, by the phases in force when the running window began (R182). -/
def State.dynUw (s : State) (k : Nat) : Nat := (pbTiles k).foldl (fun acc t => acc + s.demandOf (s.phaseInForce t).1) 0

/-- Power in µW of block k at level v and issue n, with `rate` its step rate there in M steps/s (R401). -/
def State.pointUw (s : State) (k v n rate : Nat) : Nat :=
  leakUw v (s.pbTj k) + s.dynUw k * vsetMv v ^ 2 * rate * n / (562500 * 1950 * 64)

/-- Step rate of block k at a level: as measured, or the least of R33 where no measurement is given. -/
def State.rateAt (s : State) (rates : List Nat) (k v : Nat) : Nat := (rates[4 * k + v]?).getD (vsetRate v (s.pbTj k))

/-- Operating points within one level of the present one and within an allocation. -/
def State.points (s : State) (rates : List Nat) (k alloc : Nat) : List (Nat × Nat) :=
  let v0 := s.rd .pwrPbCtrlVset k
  ((List.range 4).filter (fun v => decide (v ≤ v0 + 1 ∧ v0 ≤ v + 1))).flatMap (fun v =>
    ((List.range 64).map (· + 1)).filterMap (fun n => if s.pointUw k v n (s.rateAt rates k v) ≤ alloc then some (v, n) else none))

/-- The best of some operating points by a measure; the first among equals. -/
def bestBy (f : Nat × Nat → Nat) (l : List (Nat × Nat)) : Option (Nat × Nat) :=
  l.foldl (fun b p => match b with
    | none => some p
    | some q => if f p > f q then some p else some q) none

/-- Pace of a point. -/
def State.pointPace (s : State) (rates : List Nat) (k : Nat) (p : Nat × Nat) : Nat := 4096 * s.rateAt rates k p.1 * p.2 / (64 * 1950)

/-- The greatest ISSUE up to n, and at least 1, whose power at a level of block k does not pass an allocation. -/
def State.issueFits (s : State) (rates : List Nat) (k v alloc n : Nat) : Nat :=
  (((List.range n).map (· + 1)).reverse.find? (fun i => decide (s.pointUw k v i (s.rateAt rates k v) ≤ alloc))).getD 1

/-- Writes an operating point in the order of R398: before VSET the ISSUE, up to the present one, that fits the allocation at the level which the
rail leaves, and a higher one when the slew of the rail ends, so that no power passes the allocation on the way (R408's example; DEDUCED, log 66). -/
def State.setPoint (s : State) (rates : List Nat) (k alloc : Nat) (p : Nat × Nat) : State :=
  let v0 := s.rd .pwrPbCtrlVset k
  let step := if p.1 ≥ v0 then vsetMv p.1 - vsetMv v0 else vsetMv v0 - vsetMv p.1
  if p.1 = v0 then s.wr .pwrPbCtrlIssue k 0 p.2
  else
    let first := s.issueFits rates k v0 alloc (min p.2 (issueActs (s.rd .pwrPbCtrlIssue k)))
    let s := (s.wr .pwrPbCtrlIssue k 0 first).wr .pwrPbCtrlVset k 0 p.1
    if p.2 ≤ first then s
    else { s with pwr := { s.pwr with slews := sput (0, 0) k (s.tally + 100 * step + 1, p.2) s.pwr.slews } }

/-- Lowest pace that the matching set reports (R408). -/
def State.matchTarget (s : State) : Option Nat :=
  let devs := ((List.range 16).filter (fun i => s.on .pwrPaceDestValid 0 i && s.on .pwrPaceDestMatch 0 i)).map (fun i => s.rd .pwrPaceDestDevice 0 i)
  let ok := (List.range 64).filter (fun j => s.on .pwrPaceTblValid 0 j && devs.contains (s.rd .pwrPaceTblDevice 0 j) &&
    decide (s.tally ≤ s.rd .pwrPaceTblStamp 0 j + 3000 * s.rd .pwrPaceCfgPeriodUs))
  ok.foldl (fun m j => some (match m with
    | none => s.rd .pwrPaceTblPace 0 j
    | some x => min x (s.rd .pwrPaceTblPace 0 j))) none

/-- One block's choice within its allocation (R401, R408): most steps, or with matching the least power that reaches the target. -/
def State.chooseBlock (s : State) (rates : List Nat) (k alloc : Nat) : State :=
  let pts := s.points rates k alloc
  match bestBy (fun p => s.rateAt rates k p.1 * p.2) pts with
  | none => s.setPoint rates k alloc (s.rd .pwrPbCtrlVset k - 1, 1)
  | some p =>
    let q := if s.on .pwrPaceCfgMatchEn then
        match s.matchTarget with
        | some t =>
          (bestBy (fun p => 2 ^ 40 - s.pointUw k p.1 p.2 (s.rateAt rates k p.1)) (pts.filter (fun p => decide (s.pointPace rates k p ≥ t)))).getD p
        | none => p
      else p
    let s := { s with pwr := { s.pwr with unmatched := sput 0 k (s.pointPace rates k p + 1) s.pwr.unmatched,
                                          chosen := sput 0 k (s.pointPace rates k q + 1) s.pwr.chosen,
                                          alone := sput (0, 0, 0) k (s.rateAt rates k p.1, p.1, p.2) s.pwr.alone } }
    s.setPoint rates k alloc q

/-- Minimum of some paces; none gives 0. -/
def minPace : List Nat → Nat
  | [] => 0
  | x :: xs => xs.foldl min x

/-- Device pace from a pace of each block (R404). -/
def State.devicePaceBy (s : State) (f : Nat → Nat) : Nat :=
  let stages := (List.range 10).filter (fun e => s.rd .pwrPaceStageStage 0 e != 0)
  if stages.isEmpty then minPace (((List.range 16).filter (fun k => !s.pbGated k)).map f)
  else minPace (stages.map (fun e => minPace (((List.range 16).filter (fun k => bitOf (s.rd .pwrPaceStagePbMask 0 e) k)).map f)))

/-- MATCHING (R408): the points chosen give a lower device pace than those chosen without matching. -/
def State.matchStatus (s : State) : State :=
  let pace (l : List (Nat × Nat)) (k : Nat) : Nat := if s.pbGated k then 0 else sget 0 k l - 1
  s.wr .pwrStatusMatching 0 0 (b2n (decide (s.devicePaceBy (pace s.pwr.chosen) < s.devicePaceBy (pace s.pwr.unmatched))))

/-- Allocation of a block above the firmware's target temperature is lowered by an amount that the manual leaves open (R401). -/
def State.coolAlloc (s : State) (k alloc : Nat) : Nat × State :=
  if s.pbTj k > s.rd .pwrTjTarget then (alloc - s.takeFree.1 % (alloc + 1), s.takeFree.2) else (alloc, s)

/-- A block that a limit holds below its demand (R401), as its beacons say. -/
def State.heldBelow (s : State) (k want share alloc : Nat) : State :=
  { s with pwr := { s.pwr with
      capped := if share < want then s.pwr.capped ++ [k] else s.pwr.capped
      cooled := if alloc < share ∧ alloc < want then s.pwr.cooled ++ [k] else s.pwr.cooled } }

/-- POWER_LOOP_INTERVAL: due at the next multiple of 16,384 ns while component 1 runs and the headframe's clock does (R382). -/
def State.powerLoop (s : State) (rates : List Nat) : State :=
  if !s.devValid ∨ !s.compRuns 1 ∨ s.tally < 16384 * (s.pwr.interval + 1) then s
  else
    let s := s.learn
    let s := { s.wr .pwrStatusMatching 0 0 0 with pwr := { s.pwr with
      interval := s.tally / 16384, slews := [], unmatched := [], chosen := [], alone := [], capped := [], cooled := [] } }
    let gain := max 1 (s.rd .pwrCalGain)
    let out : Nat := s.capNow * 1000000 * s.rd .pwrCalEff / (4 * gain)
    let budget : Int := (out : Int) - s.pwr.uncore
    let live := (List.range 16).filter (fun k => !s.pbGated k)
    let want (k : Nat) : Nat := s.dynUw k + leakUw (s.rd .pwrPbCtrlVset k) (s.pbTj k)
    let floor (k : Nat) : Nat := s.pointUw k 0 8 (s.rateAt rates k 0)
    let need := live.foldl (fun acc k => acc + want k) 0
    if budget < (live.foldl (fun acc k => acc + floor k) 0 : Nat) then
      let s := live.foldl (fun s k => ((s.wr .pwrPbCtrlIssue k 0 8).wr .pwrPbCtrlVset k 0 0).heldBelow k 1 0 0) s
      if s.on .pwrStatusCapUnmet then s else (s.wr .pwrStatusCapUnmet 0 0 1).postClass 2 1
    else
      let s := s.wr .pwrStatusCapUnmet 0 0 0
      let budget := budget.toNat
      let s := live.foldl (fun s k =>
        let share := if need = 0 then budget else want k * budget / need
        let share := if need ≤ budget then share else max (floor k) share
        let r := s.coolAlloc k share
        (r.2.heldBelow k (want k) share r.1).chooseBlock rates k r.1) s
      s.matchStatus

/-- VSET_SLEW_COMPLETE (R398): firmware writes the ISSUE that waits for it. -/
def State.slewDone (s : State) (k : Nat) : State :=
  let r := sget (0, 0) k s.pwr.slews
  if r.1 = 0 ∨ s.tally + 1 < r.1 ∨ !s.compRuns 1 then s
  else { s.wr .pwrPbCtrlIssue k 0 r.2 with pwr := { s.pwr with slews := sput (0, 0) k (0, 0) s.pwr.slews } }

/-- GAIN_CALIBRATION (R391): due every 1 ms; the measured input power is in W. One update changes GAIN by at most 2 %. Where the mean
estimate is zero the update is a free value within that bound. -/
def State.calibrate (s : State) (measured : Nat) : State :=
  if !s.compRuns 1 ∨ s.tally < s.pwr.gainAt + 1000000 then s
  else
    let g := s.rd .pwrCalGain
    let est := meanOf (s.pwr.hist.take 488)
    let lo := g - g * 2 / 100
    let hi := min 0xFFFF (g + g * 2 / 100)
    let r := if est = 0 then (lo + s.takeFree.1 % (hi - lo + 1), s.takeFree.2) else (max lo (min hi (g * measured / est)), s)
    { r.2.wr .pwrCalGain 0 0 r.1 with pwr := { s.pwr with gainAt := s.tally } }

/-! ### Pace (R405 to R407) -/

/-- Pace of a block at the point that the loop would have written without matching, under the limits in force (R397): where they hold VSET below that
point's level, the block's step rate is the measured one. -/
def State.alonePace (s : State) (k : Nat) : Nat :=
  let u := sget (0, 0, 0) k s.pwr.alone
  let n := s.issueOf k (issueActs u.2.2)
  let limit := min (if s.on .pwrPbStatusHot k then 0 else 3) (if s.pwr.safeClamp then s.rd .pwrLimitSafeVset else 3)
  if u.1 = 0 then 0
  else if limit < u.2.1 then min 0xFFFF (4096 * s.rd .pwrPbRate k * n / (64 * 3994)) else min 0xFFFF (4096 * u.1 * n / (64 * 1950))

/-- Pace of a block as beacons report it: without matching (R405). -/
def State.beaconPace (s : State) (k : Nat) : Nat :=
  if s.on .pwrStatusMatching ∧ !s.pbGated k then max (s.pbPace k) (s.alonePace k) else s.pbPace k

/-- REASON of a beacon (R405). CAP and THERMAL: a block is held below its demand by the cap, or by its temperature (R401). -/
def State.paceReason (s : State) : Nat :=
  let ks := List.range 16
  let capped := ks.any (fun k => !s.pbGated k && s.pwr.capped.contains k)
  let cool := ks.any (fun k => !s.pbGated k && (s.on .pwrPbStatusHot k || s.pwr.cooled.contains k))
  let hbm := (List.range s.variant.stacks).any (fun i => decide ((sget {} (2 * i) s.hbmcs).temp ≥ s.rd .pwrHbmHot))
  b2n capped + 2 * b2n (decide (s.rd .pwrStatusEstW > s.rd .pwrPeakW)) + 4 * b2n s.safeMode +
    8 * b2n (ks.any (fun k => s.on .pwrPbStatusDroop k)) + 16 * b2n cool + 32 * b2n hbm + 64 * s.rd .pwrStatusMatching +
    128 * b2n (ks.any (fun k => s.pbGated k)) + 256 * s.rd .pwrStatusCapUnmet

/-- Payload of a beacon (R405). -/
def State.beaconPayload (s : State) (start pace reason : Nat) : List Byte :=
  let ks := List.range 16
  let low := ks.foldl (fun a k => if s.issueEff k < 64 ∨ s.vsetEff k < s.rd .pwrPbCtrlVset k then a + 2 ^ k else a) 0
  let gated := ks.foldl (fun a k => if s.pbGated k then a + 2 ^ k else a) 0
  let entry (e : Nat) : Nat :=
    let st := s.rd .pwrPaceStageStage 0 e
    if st = 0 then 0
    else st * 65536 + minPace ((ks.filter (fun k => bitOf (s.rd .pwrPaceStagePbMask 0 e) k)).map s.beaconPace)
  let w0 := pace * 2 ^ 48 + reason * 2 ^ 32 + s.rd .pwrCapCapW * 2 ^ 16 + s.rd .pwrAvgAvgW
  fieldBytes ([(w0, 8), (start, 8), (low * 2 ^ 48 + gated * 2 ^ 32, 8)] ++
    (List.range 5).map (fun i => (entry (2 * i) * 2 ^ 32 + entry (2 * i + 1), 8)))

/-- A management packet of the headframe to a device, or link-local by a port. -/
def mgmtPacket (ty dev : Nat) (via : Option Nat) (tag queue : Nat) (payload : List Byte) : Packet :=
  { ty := ty, vc := 0, dstDev := dev, dstTile := 0xFF, dstQueue := queue, srcTile := 0xFF, len := payload.length, tag := tag,
    payload := payload, via := via }

/-- PACE_BEACON_SEND (R406): 200 ns after a window close at which the period has elapsed, or the reason or the pace has changed and 10 µs
have passed. -/
def State.beaconSend (s : State) : State :=
  let w := 2048 * s.pwr.window
  let b := s.pwr.beacon
  let pace := s.devicePaceBy s.beaconPace
  let reason := s.paceReason
  let first := b.sentAt = 0
  let period := first ∨ w + 1 ≥ b.sentAt + 1000 * s.rd .pwrPaceCfgPeriodUs
  let changed := (reason ≠ b.reason ∨ pace ≥ b.pace + 256 ∨ b.pace ≥ pace + 256) ∧ (first ∨ w + 1 ≥ b.sentAt + 10000)
  if !s.on .pwrPaceCfgEn ∨ s.pwr.window = 0 ∨ w + 1 = b.closeAt ∨ s.tally < w + 200 ∨ !(decide period || decide changed) then s
  else
    let payload := s.beaconPayload (w - 2048) pace reason
    let s := s.upPorts.foldl (fun s p => s.send { mgmtPacket 9 0xFFFFF (some p) b.seq 0 payload with gen := s.rd .hfCompStatusGen 0 1 }) s
    let s := ((List.range 16).filter (fun i => s.on .pwrPaceDestValid 0 i)).foldl (fun s i =>
      s.send { mgmtPacket 9 (s.rd .pwrPaceDestDevice 0 i) none b.seq 0 payload with gen := s.rd .hfCompStatusGen 0 1 }) s
    { s.bump .pwrPaceTx with pwr := { s.pwr with
        beacon := { closeAt := w + 1, sentAt := s.tally + 1, reason := reason, pace := pace, seq := (b.seq + 1) % 2 ^ 32 } } }

/-- Entry of the pace table for a device (R407): its own, a free one, or the one with the oldest stamp. -/
def State.paceSlot (s : State) (dev : Nat) : Nat × Bool :=
  let js := List.range 64
  match js.find? (fun j => s.on .pwrPaceTblValid 0 j && s.rd .pwrPaceTblDevice 0 j == dev) with
  | some j => (j, false)
  | none => match js.find? (fun j => !s.on .pwrPaceTblValid 0 j) with
    | some j => (j, false)
    | none =>
      (js.foldl (fun b j => if s.rd .pwrPaceTblStamp 0 j < s.rd .pwrPaceTblStamp 0 b then j else b) 0, true)

/-- PACE_BEACON_RECEIVE (R407). -/
def State.beaconReceive (s0 : State) (n : Nat) : State :=
  match s0.netTake 9 n with
  | none => s0
  | some (a, s) =>
    let w0 := payWord a.pkt 0
    let r := s.paceSlot a.pkt.srcDev
    let s := s.bump .pwrPaceRx
    let s := if r.2 then s.bump .pwrPaceEvict else s
    let s := (s.wr .pwrPaceTblValid 0 r.1 1).wr .pwrPaceTblDevice 0 r.1 a.pkt.srcDev
    let s := ((s.wr .pwrPaceTblReason 0 r.1 (w0 / 2 ^ 32)).wr .pwrPaceTblPace 0 r.1 (w0 / 2 ^ 48)).wr .pwrPaceTblStamp 0 r.1 (payWord a.pkt 1)
    if w0 / 2 ^ 48 < s.rd .pwrPaceAlert then s.postClass 2 1 else s

/-! ### The commands -/

def execEstimationWindowClose (w : WindowIn) (s : State) : Result := .next (s.windowClose w)
def execPowerLoopInterval (rates : List Nat) (s : State) : Result := .next (s.powerLoop rates)
def execVsetSlewComplete (k : PbId) (s : State) : Result := .next (s.slewDone k)
def execGainCalibration (measured : Nat) (s : State) : Result := .next (s.calibrate measured)
def execDroopTrip (k : PbId) (s : State) : Result := .next (s.droopTrip k)
def execDroopHoldEnd (k : PbId) (s : State) : Result := .next (s.droopEnd k)
def execPaceBeaconSend (s : State) : Result := .next s.beaconSend
def execPaceBeaconReceive (n : Nat) (s : State) : Result := .next (s.beaconReceive n)

end Sys2Proof.Machine
end

