-- ==== Sys2Proof/Machine/Collectives.lean ====
section
/-! DEFINITION. The seam engine (R296 to R329): groups and member maps, descriptors, schedules, SEAM packets, steps, replay, commit,
completion and aborts. -/
namespace Sys2Proof.Machine

/-! ### Groups (R296 to R299, R131) -/

/-- Effective order of n members under a MODE (R131): 1 tree, 2 chain. -/
def orderOf (mode n : Nat) : Nat := if mode = 1 then 1 else if mode = 2 then 2 else if n ≤ 1024 then 1 else 2

/-- Members of a group. -/
def State.groupN (s : State) (g : Nat) : Nat := s.rd .collNM1 g + 1

/-- The valid group of a tile with a group ID (R308). -/
def State.findGroup (s : State) (gid t : Nat) : Option Nat :=
  (List.range 64).find? (fun g => s.on .collCfgValid g && s.rd .collCfgGid g == gid && s.rd .collCfgTile g == t)

/-- VC of a group's SEAM packets (R299). -/
def State.groupVc (s : State) (g : Nat) : Nat :=
  if s.rd .collCfgVc g < 2 then 3 + s.rd .collCfgGid g % 4 else s.rd .collCfgVc g

/-! ### Schedules (R303 to R307) -/

/-- ⌈log₂ n⌉. -/
def log2Up (n : Nat) : Nat := if n ≤ 1 then 0 else Nat.log2 (n - 1) + 1

/-- Number of steps of an operation (R303); none for one member. -/
def collSteps (op n order : Nat) : Nat :=
  if n ≤ 1 then 0
  else
    let h := if order = 1 then log2Up n else n - 1
    match op with
    | 0 | 6 => 2 * h
    | 3 | 4 => h + 1
    | 5 => n - 1
    | _ => h

/-- Holder of a node of a chunk's tree (R305). -/
def nodeHolder (lo sz c parent : Nat) : Nat := if lo ≤ parent ∧ parent < lo + sz then parent else lo + c % sz

/-- Transfers of a chunk's tree: (height, sender, receiver) of every inner node over members lo to lo + sz - 1. -/
def treeXfers : Nat → Nat → Nat → Nat → Nat → List (Nat × Nat × Nat)
  | 0, _, _, _, _ => []
  | fuel + 1, lo, sz, c, hold =>
    if sz ≤ 1 then []
    else
      let p := 2 ^ Nat.log2 (sz - 1)
      let l := nodeHolder lo p c hold
      let r := nodeHolder (lo + p) (sz - p) c hold
      (log2Up sz, if l = hold then r else l, hold) :: treeXfers fuel lo p c l ++ treeXfers fuel (lo + p) (sz - p) c r

/-- Final holder of a chunk (R305, R306). -/
def finalHolder (order n c : Nat) : Nat := if order = 1 then c else (c + n - 1) % n

/-- Own chunk of a member (R303). -/
def ownChunk (order n i : Nat) : Nat := if order = 1 then i else (i + 1) % n

/-- Combining steps of an operation. -/
def reduceSteps (op n order : Nat) : Nat :=
  if n ≤ 1 ∨ op = 2 ∨ op = 4 ∨ op = 5 then 0 else if order = 1 then log2Up n else n - 1

/-- Transfers of the reduce phase. -/
def reduceXfers (n order : Nat) : List Xfer :=
  if order = 1 then
    (List.range n).flatMap (fun c => (treeXfers n 0 n c c).map (fun x => ⟨x.1, x.2.1, x.2.2, c, c⟩))
  else
    (List.range (n - 1)).flatMap (fun k => (List.range n).map (fun i =>
      let c := (i + n - k) % n
      ⟨k + 1, i, (i + 1) % n, c, c⟩))

/-- Transfers of the gather phase, whose first step is `first`. -/
def gatherXfers (n order first : Nat) : List Xfer :=
  if order = 1 then
    (List.range n).flatMap (fun c => (treeXfers n 0 n c c).map (fun x => ⟨first + log2Up n - x.1, x.2.2, x.2.1, c, c⟩))
  else
    (List.range (n - 1)).flatMap (fun k => (List.range n).map (fun i =>
      let c := (i + n + 1 - k) % n
      ⟨first + k, i, (i + 1) % n, c, c⟩))

/-- Every transfer of an operation (R305 to R307). -/
def collXfers (op n order root : Nat) : List Xfer :=
  if n ≤ 1 then []
  else
    let red := reduceSteps op n order
    let l : List Xfer := match op with
      | 0 | 6 => reduceXfers n order ++ gatherXfers n order (red + 1)
      | 1 => reduceXfers n order
      | 2 => gatherXfers n order 1
      | 3 => reduceXfers n order ++ (List.range n).map (fun c => ⟨red + 1, finalHolder order n c, root, c, c⟩)
      | 4 => (List.range n).map (fun c => ⟨1, root, finalHolder order n c, c, c⟩) ++ gatherXfers n order 2
      | 5 => (List.range (n - 1)).flatMap (fun k => (List.range n).map (fun i => ⟨k + 1, i, (i + k + 1) % n, (i + k + 1) % n, i⟩))
      | _ => []
    l.filter (fun x => x.src != x.dst)

/-- The other members of transfers that involve a member. -/
def peersOf (i : Nat) (l : List Xfer) : List Nat :=
  ((l.filter (fun x => x.src == i)).map (fun x => x.dst) ++ (l.filter (fun x => x.dst == i)).map (fun x => x.src)).eraseDups

/-- Peers that the reduce and gather schedules name (R296). -/
def schedulePeers (n order i : Nat) : List Nat := if n ≤ 1 then [] else peersOf i (collXfers 0 n order 0)

/-! ### Descriptors (R300 to R304) -/

/-- Fields of a seam descriptor. -/
structure SeamF where
  op : Nat
  red : Nat
  fin : Nat
  fc : Nat
  fo : Nat
  round : Nat
  sat : Bool
  sigEn : Bool
  sem : Nat
  ope : Bool
  group : Nat
  inA : Nat
  outA : Nat
  work : Nat
  elems : Nat
  root : Nat
  rowLen : Nat
  key : Nat
  srTag : Nat
  userTag : Nat
  target : Nat
deriving DecidableEq, Repr

/-- Reads the eight words. -/
def seamFields (d : List Nat) : SeamF :=
  let w (i : Nat) : Nat := d.getD i 0
  { op := bitsOf (w 0) 63 60, red := bitsOf (w 0) 59 58, fin := bitsOf (w 0) 57 54, fc := bitsOf (w 0) 53 50, fo := bitsOf (w 0) 49 46,
    round := bitsOf (w 0) 45 44, sat := bitOf (w 0) 43, sigEn := bitOf (w 0) 42, sem := bitsOf (w 0) 41 36, ope := bitOf (w 0) 35,
    group := bitsOf (w 0) 34 29, inA := bitsOf (w 1) 47 0, outA := bitsOf (w 2) 47 0, work := bitsOf (w 3) 47 0,
    elems := bitsOf (w 4) 63 32, root := bitsOf (w 4) 31 12, rowLen := bitsOf (w 4) 11 0 + 1, key := w 5, srTag := bitsOf (w 6) 63 32,
    userTag := bitsOf (w 6) 31 0, target := bitsOf (w 7) 35 0 }

/-- Does the operation combine values of a vector? -/
def SeamF.reducing (f : SeamF) : Bool := f.op == 0 || f.op == 1 || f.op == 3

/-- Formats that the codes of a descriptor name. -/
def SeamF.inF (f : SeamF) : Fmt := (Fmt.ofCode f.fin).getD .fp32
def SeamF.carry (f : SeamF) : Fmt := (Fmt.ofCode f.fc).getD .fp32
def SeamF.outF (f : SeamF) : Fmt := (Fmt.ofCode f.fo).getD .fp32

/-- Format in which partials, or the moved values, travel. -/
def SeamF.vf (f : SeamF) : Fmt := if f.reducing then f.carry else f.inF

/-- Is the format combination one of R302? -/
def SeamF.formatsOk (f : SeamF) : Bool :=
  let wide (c : Nat) : Bool := c == 0 || c == 1 || c == 2 || c == 3
  if f.op = 6 then true
  else if f.reducing then
    (f.fc == 0 && wide f.fin && wide f.fo) || (f.fc == 2 && f.fin == 2 && f.fo == 2) ||
      (f.fc == 9 && (f.fin == 9 || f.fin == 10) && (f.fo == 9 || f.fo == 10))
  else (wide f.fin || f.fin == 9 || f.fin == 10 || f.fin == 11) && f.fo == f.fin

/-- Elements of the whole vector; a BARRIER has none. -/
def SeamF.count (f : SeamF) : Nat := if f.op = 6 then 0 else f.elems

/-- Is the descriptor illegal (R314)? Reserved bits that are not zero are not among its cases. -/
def State.seamIllegal (s : State) (t : Nat) (f : SeamF) : Bool :=
  let n := s.groupN f.group
  decide (f.op ≥ 7) || f.red == 3 || !f.formatsOk || s.rd .collCfgTile f.group != t ||
    ((f.op == 3 || f.op == 4) && decide (f.root ≥ n)) || (f.op == 5 && f.elems % n != 0) || (f.ope && !f.reducing)

/-- Elements from one chunk's nominal start to the next (R304). -/
def SeamF.unit (f : SeamF) (n : Nat) : Nat := if f.op = 5 then f.count / n else 32 * ceilDiv f.count (32 * n)

/-- First element and end of chunk (or block) c. -/
def SeamF.range (f : SeamF) (n c : Nat) : Nat × Nat := (min (c * f.unit n) f.count, min ((c + 1) * f.unit n) f.count)

/-- The signature of R316. -/
def collMix (x : Nat) : Nat :=
  let m := 2 ^ 64
  let x := (x + 0x9E3779B97F4A7C15) % m
  let x := x ^^^ (x >>> 30)
  let x := (x * 0xBF58476D1CE4E5B9) % m
  let x := x ^^^ (x >>> 27)
  let x := (x * 0x94D049BB133111EB) % m
  x ^^^ (x >>> 31)

def collSig (gid seq w0 order n elems root : Nat) : Nat :=
  let op := (((w0 >>> 43) <<< 2) ||| order) % 2 ^ 64
  let h := collMix ((gid <<< 32) ||| seq)
  let h := collMix (h ^^^ (((op <<< 32) ||| root) % 2 ^ 64))
  collMix (h ^^^ (((n - 1) <<< 32) ||| elems))

/-! ### Values -/

/-- Element j of packed bytes. -/
def elemOf (f : Fmt) (bs : List Byte) (j : Nat) : Nat :=
  let p := elemBitPos f j
  let part := (bs.drop (p.1 / 8)).take ((p.1 % 8 + p.2 + 7) / 8)
  ofContainer f ((leNat part >>> (p.1 % 8)) % 2 ^ p.2)

/-- Exact entry of an input value into the carry format (R302): its bits and flags. -/
def enterCarry (src carry : Fmt) (v : Nat) : Stored :=
  if src = carry then { bits := v }
  else if carry.isInt then { bits := ofSigned carry.width (toSigned src.width v) }
  else narrow carry .rne true false (unpack src v)

/-- Two partials combined (R302): add_c, or max or min under the comparison rules of R150. -/
def combineCarry (f : SeamF) (a b : Nat) : Stored :=
  if f.red = 0 then addC f.carry f.sat true a b
  else
    let q := if f.red = 1 then (unpack f.carry a).maxN (unpack f.carry b) else (unpack f.carry a).minN (unpack f.carry b)
    let st := narrow f.carry .rne true false q.1
    { st with fl := { inv := q.2 } }

/-- The final narrowing of element e at site 5 (R135, R81): FP32 carries flush subnormal inputs, FP32 and F19 results too. A BF16
carry holds its result already: it is narrowed to itself, which makes a NaN canonical (R86). -/
def narrowOut (f : SeamF) (e v : Nat) : Stored :=
  if f.carry == .bf16 then convert .bf16 .bf16 .rne f.sat false false v
  else
    convert f.carry f.outF (Round.ofField f.round (srDraw f.key f.srTag 5 e)) f.sat (f.carry == .fp32)
      (f.outF == .fp32 || f.outF == .f19) v

/-- The stored result of element e of a running collective, its health classes judged by the last combination that made it (R90): the
earlier partials come from other members (log 81). -/
def Coll.result (x : Coll) (e v : Nat) : Stored :=
  let f := seamFields x.desc
  let st := narrowOut f e v
  match sget (0, 0) e x.last with
  | (0, _) => st
  | (a + 1, b) =>
    let na := unpack f.carry a
    let nb := unpack f.carry b
    let exact := (if f.red = 0 then Num.add na nb else if f.red = 1 then na.maxN nb else na.minN nb).1
    st.reduced f.outF exact (combineCarry f a b).hOvf

/-- The value of an element, once present. -/
def Coll.val (x : Coll) (e : Nat) : Option Nat :=
  match sget 0 e x.vals with
  | 0 => none
  | v + 1 => some v

/-- Fields of a running collective's descriptor. -/
def Coll.f (x : Coll) : SeamF := seamFields x.desc

/-- Operation, steps and transfers of a running collective. -/
def Coll.steps (x : Coll) : Nat := collSteps x.f.op x.n x.order
def Coll.xfers (x : Coll) : List Xfer := collXfers x.f.op x.n x.order x.f.root
def Coll.peers (x : Coll) : List Nat := peersOf x.me x.xfers
def Coll.reds (x : Coll) : Nat := reduceSteps x.f.op x.n x.order

/-- Transfers that a step brings to this member, and that it sends. -/
def Coll.recvs (x : Coll) (k : Nat) : List Xfer := x.xfers.filter (fun a => a.step == k && a.dst == x.me)
def Coll.sends (x : Coll) (k : Nat) : List Xfer := x.xfers.filter (fun a => a.step == k && a.src == x.me)

/-- Is every element of a chunk present? -/
def Coll.present (x : Coll) (c : Nat) : Bool :=
  let r := x.f.range x.n c
  (List.range (r.2 - r.1)).all (fun j => (x.val (r.1 + j)).isSome)

/-- Are all inputs of a collective that takes OPE items present? Any other reads its input when it starts. -/
def Coll.inputs (x : Coll) : Bool := !x.f.ope || (List.range x.n).all x.present

/-- Replaces the run of a group. -/
def State.setColl (s : State) (g : Nat) (x : Coll) : State := { s with colls := sset g (some x) s.colls }

/-- The run of a group. -/
def State.coll (s : State) (g : Nat) : Option Coll := slook g s.colls

/-! ### The work area (R301) -/

/-- Format in which the values of a step travel: partials, or results. -/
def Coll.fmtOf (x : Coll) (k : Nat) : Fmt := if k ≤ x.reds ∨ !x.f.reducing then x.f.vf else x.f.outF

/-- Elements of a packet of a format. -/
def perPacket (f : Fmt) : Nat := 8128 * 8 / (elemBitPos f 0).2

/-- Packets of a transfer of n elements (R309). -/
def packetsOf (f : Fmt) (n : Nat) : Nat := max 1 (ceilDiv n (perPacket f))

/-- Packets of one chunk's transfer. -/
def Coll.chunkPackets (x : Coll) (a : Xfer) : Nat :=
  let r := x.f.range x.n a.inp
  packetsOf (x.fmtOf a.step) (r.2 - r.1)

/-- P_max of R301: packets of the largest step transfer that the member sends to, or receives from, one peer, all its chunks (R315). -/
def Coll.packetsMax (x : Coll) : Nat :=
  let mine := x.xfers.filter (fun a => a.src == x.me || a.dst == x.me)
  mine.foldl (fun m a =>
    max m (((mine.filter (fun b => b.step == a.step && b.src == a.src && b.dst == a.dst)).map x.chunkPackets).foldl (· + ·) 0)) 0

/-- Bytes of the extent that the seam engine may write. -/
def Coll.workLen (x : Coll) : Nat :=
  let f := x.f
  let bc := if f.reducing then (elemBitPos f.carry 0).2 else 0
  ceilDiv (f.count * (bc + (if f.op = 6 then 0 else (elemBitPos f.outF 0).2))) 8 + 128 * ceilDiv x.packetsMax 512

/-- The accesses that a collective made to its work area (R214): how many each line took is left open with the area's layout (R301), so
each line of a bank counts a free number. The seam engine is the master of its tile's SB. -/
def State.workCount (s : State) (t a n : Nat) : State :=
  if n = 0 ∨ a ≥ 0x80000000 then s
  else (List.range ((a + n - 1) / 64 + 1 - a / 64)).foldl (fun s i =>
    match s.place ((a / 64 + i) * 64) with
    | .spd u b _ => let v := s.takeFree; v.2.bankCount u b (b == .sb && u == t) (v.1 % 2 ^ 32)
    | _ => s) s

/-- The contents of the work area are not defined while a descriptor runs, nor after it: every byte of the extent, and every error mark of a
unit within it, becomes a free value. A unit that does not decode, or that an untrained controller discards, is not written. -/
def State.scramble (s : State) (a n : Nat) : State :=
  (spanUnits a n).foldl (fun s u =>
    let gone := match s.accessAt u.1 with
      | .undecoded | .discarded _ => true
      | _ => false
    if gone then s else
    let k := (s.place u.1).key
    let v := s.takeFree
    let s := v.2.setBytes k (natLe u.2 v.1)
    let z := s.takeFree
    if z.1 % 2 = 0 then z.2 else z.2.setMark (k / (s.place u.1).unit * (s.place u.1).unit) 0) s

/-! ### Completion and aborts (R312, R313, R318) -/

/-- A descriptor completes (R312, R313): event, counts, sequence number, signal. Only an illegal descriptor leaves COLL_SEQ. -/
def State.collFinish (s : State) (t g status : Nat) (f : SeamF) : State :=
  let s := (s.event t 3).cnt .collOps g 0 1
  let s := if status = 1 then s else s.cnt .collSeq g 0 1
  let s := if status = 1 ∨ status = 2 ∨ status = 0x11 then s.cnt .collIllegal g 0 1
    else if status = 0x10 then s.cnt .collAborts g 0 1 else s
  let s := if status = 0 ∨ status = 0x11 then s else s.reportTile 1 t (0x500 + status) g
  if f.sigEn ∧ (status = 0 ∨ status = 3) then s.signal t f.sem 1 f.target 2 else s

/-- A run ends: its work area is left undefined. -/
def State.collEnd (s : State) (g status : Nat) (x : Coll) : State :=
  let s := { s with colls := sset g none s.colls }
  ((s.scramble x.f.work x.workLen).workCount x.tile x.f.work x.workLen).collFinish x.tile g status x.f

/-- A packet of the seam engine to a member, if its map entry is known. -/
def State.seamSend (s : State) (g : Nat) (x : Coll) (m : Nat) (p : Packet) : State :=
  match x.members.find? (fun e => e.1 == m) with
  | none => s
  | some (_, dev, tile) =>
    s.send (s.tilePacket x.tile { p with vc := if p.ty = 6 then s.groupVc g else 0, dstDev := dev, dstTile := tile, tag := x.seq })

/-- Records an abort in the group's registers, while VALID is 0 (R318, R99). -/
def State.abortRecord (s : State) (g reason member tag sig remote : Nat) : State :=
  if s.on .collAbortInfoValid g then s
  else
    let s := (s.wr .collAbortInfoReason g 0 reason).wr .collAbortInfoMember g 0 member
    let s := (s.wr .collAbortTag g 0 tag).wr .collSigLocal g 0 sig
    (s.wr .collSigRemote g 0 remote).wr .collAbortInfoValid g 0 1

/-- A collective aborts (R318, R319): what it has not yet sent is not sent. `shown` is the reason recorded and sent on, `from` the member concerned, `words` the first two
words of the payload and the originating member. -/
def State.collAbort (s : State) (g : Nat) (x : Coll) (reason shown member remote : Nat) (words : Nat × Nat × Nat) : State :=
  let s := s.abortRecord g shown member x.f.userTag x.sig remote
  let s := if reason = 1 then (s.wr .collStatusMismatch g 0 1).cnt .collMismatch g 0 1 else s
  let s := s.wr .collStatusAborted g 0 1
  let s := { s with outbox := s.outbox.filter (fun p => !(p.ty == 6 && packetFrom p == RingEnd.tile x.tile && seamGid p == s.rd .collCfgGid g && p.tag == x.seq)) }
  let w2 := s.rd .collCfgGid g * 2 ^ 48 + words.2.2 % 2 ^ 20 * 2 ^ 28 + shown % 16 * 2 ^ 24
  let s := x.peers.foldl (fun s m =>
    s.seamSend g x m { ty := 0xB, len := 64, payload := padTo 64 (fieldBytes [(words.1, 8), (words.2.1, 8), (w2, 8)]) }) s
  (s.irq (256 + g)).collEnd g (if reason = 7 then 0x11 else 0x10) x

/-- An abort that begins here. -/
def State.collAbortHere (s : State) (g : Nat) (x : Coll) (reason member remote : Nat) : State :=
  s.collAbort g x reason reason member remote (x.sig, remote, x.me)

/-- A decode error on IN, OUT, WORK or the map (R313). A line that an untrained controller discards with error status (R233) ends the descriptor in
the same way, and is no decode error of R51 (DEDUCED, log 24). -/
def State.collDecode (s : State) (g : Nat) (x : Coll) (a : Nat) : State :=
  let s := match s.accessAt a with
    | .discarded c => s.cnt .hbmResetDiscard c 0 1
    | _ => (s.reach a).1.decodeError (.seam x.tile) a
  s.collAbortHere g x 7 x.me 0

/-! ### SEAM packets (R308, R309) -/

/-- A SEAM packet with its preamble. -/
def State.seamPacket (s : State) (g : Nat) (x : Coll) (kind step pkt pkts off : Nat) (data : List Byte) : Packet :=
  let w1 := s.rd .collCfgGid g * 2 ^ 48 + x.me * 2 ^ 28 + step * 2 ^ 8 + kind * 2 ^ 4
  let pre := fieldBytes [(x.sig, 8), (w1, 8), (pkt * 2 ^ 32 + pkts, 8), (off * 2 ^ 24, 8)]
  { ty := 6, dstQueue := 96, len := 64 + data.length, payload := padTo 64 pre ++ data }

/-- A control packet of the seam engine: READY (1), REPLAY (2), ACK (3). -/
def State.seamControl (s : State) (g : Nat) (x : Coll) (m kind step : Nat) : State :=
  s.seamSend g x m (s.seamPacket g x kind step 0 0 0 [])

/-- Format, values and poisoned elements that step k sends from: partials or input, and the output image after the narrowing and in
every gather step. -/
def Coll.source (x : Coll) (k : Nat) : Fmt × (Nat → Nat) × List Nat :=
  let f := x.f
  let fromVals := if f.op = 0 ∨ f.op = 1 ∨ f.op = 3 then decide (k ≤ x.reds) else f.op == 5 || (f.op == 4 && k == 1)
  if fromVals then (f.vf, fun e => (x.val e).getD 0, x.badV)
  else (f.outF, fun e => sget 0 e x.image - 1, x.badO)

/-- Position at the receiver of a transfer's first element (R308). -/
def Coll.xferOff (x : Coll) (a : Xfer) : Nat := a.out * x.f.unit x.n

/-- The DATA packets of a transfer. -/
def State.dataPackets (s : State) (g : Nat) (x : Coll) (a : Xfer) : List Packet :=
  let src := x.source a.step
  let r := x.f.range x.n a.inp
  let n := r.2 - r.1
  let per := perPacket src.1
  let ps := packetsOf src.1 n
  (List.range ps).map (fun j =>
    let vals := (List.range (min per (n - j * per))).map (fun i => src.2.1 (r.1 + j * per + i))
    s.seamPacket g x 0 a.step j ps (x.xferOff a + j * per) (packElems src.1 vals))

/-- Sends a transfer (R311): its packets leave, are counted and kept. Poison that would be sent aborts (R314). -/
def State.collSendXfer (s : State) (g : Nat) (a : Xfer) : State :=
  match s.coll g with
  | none => s
  | some x =>
    let r := x.f.range x.n a.inp
    if (x.source a.step).2.2.any (fun e => decide (r.1 ≤ e ∧ e < r.2)) then s.collAbortHere g x 4 x.me 0
    else
      let ps := s.dataPackets g x a
      let old := x.kept.find? (fun k => k.step == a.step && k.peer == a.dst)
      let k : Kept := { step := a.step, peer := a.dst, packets := ((old.map (fun k => k.packets)).getD []) ++ ps, sentAt := s.tally, acked := false }
      let x := { x with
        kept := x.kept.filter (fun k => !(k.step == a.step && k.peer == a.dst)) ++ [k]
        tx := x.tx.filter (fun b => b != a) }
      (ps.foldl (fun s p => s.seamSend g x a.dst p) (s.setColl g x)).cnt .collTxPkts g 0 ps.length

/-- Sends every waiting transfer whose receiver is ready and whose elements are present, oldest first (R311, R315). -/
def State.collSend (s : State) (g : Nat) : State :=
  match s.coll g with
  | none => s
  | some x =>
    (x.tx.filter (fun a => x.ready.contains a.dst && (decide (a.step > x.reds) || x.present a.inp))).foldl
      (fun s a => s.collSendXfer g a) s

/-! ### Steps (R311, R312) -/

/-- ACK of a step to a peer: it copies the GEN of the DATA it answers (R448). -/
def State.seamAckTo (s : State) (g : Nat) (x : Coll) (m k : Nat) : State :=
  match x.members.find? (fun e => e.1 == m) with
  | none => s
  | some (_, dev, tile) =>
    let p := s.tilePacket x.tile (s.seamPacket g x 3 k 0 0 0 [])
    s.send { p with vc := s.groupVc g, dstDev := dev, dstTile := tile, tag := x.seq, gen := sget 0 (m * 2 ^ 32 + k) x.gens }

/-- Flags of the seam engine. -/
def State.seamFlags (s : State) (t : Nat) (fl : NumFlags) : State := s.setFlags .seam t fl.toBits

/-- The final narrowing of this member's own chunk (R135, R302). A poisoned element stays poisoned and is not counted. -/
def State.collNarrow (s : State) (g : Nat) (x : Coll) : State × Coll :=
  let f := x.f
  if x.narrowed ∨ !f.reducing then (s, { x with narrowed := true })
  else
    let r := f.range x.n (ownChunk x.order x.n x.me)
    let es := (List.range (r.2 - r.1)).map (fun j => r.1 + j)
    let res := es.map (fun e => (e, x.result e ((x.val e).getD 0)))
    let good := res.filter (fun p => !x.badV.contains p.1)
    let s := s.seamFlags x.tile (good.foldl (fun a p => a.or p.2.fl) ({} : NumFlags))
    let s := good.foldl (fun s p => s.health x.tile f.outF p.2) s
    let x := { x with
      narrowed := true
      image := res.foldl (fun im p => sput 0 p.1 (p.2.bits + 1) im) x.image
      badO := x.badO ++ es.filter (fun e => x.badV.contains e) }
    (s.setColl g x, x)

/-- Has every packet of a transfer arrived? -/
def Coll.gotAll (x : Coll) (a : Xfer) : Bool :=
  match x.rx.find? (fun r => r.xfer == a) with
  | none => false
  | some r =>
    let e := x.f.range x.n a.out
    decide (r.got.length = packetsOf (x.fmtOf a.step) (e.2 - e.1))

/-- Values of a transfer that has arrived, in order. -/
def Coll.xferVals (x : Coll) (a : Xfer) : List Nat :=
  match x.rx.find? (fun r => r.xfer == a) with
  | none => []
  | some r => (List.range r.got.length).flatMap (fun j => (slook j r.got).getD [])

/-- Takes in an arrived transfer: combined with this member's partials, or stored in the image. Answers none when a poisoned partial
would be combined (R314). -/
def Coll.takeXfer (x : Coll) (a : Xfer) : Option (Coll × NumFlags) :=
  let f := x.f
  let base := x.xferOff a
  let vals := x.xferVals a
  let es := (List.range vals.length).zip vals
  if a.step ≤ x.reds then
    if es.any (fun p => x.badV.contains (base + p.1)) then none
    else
      let own (e : Nat) : Nat := (x.val (base + e)).getD 0
      let r := es.foldl (fun (acc : List (Nat × Nat) × NumFlags) p =>
        let st := combineCarry f p.2 (own p.1)
        (sput 0 (base + p.1) (st.bits + 1) acc.1, acc.2.or st.fl)) (x.vals, ({} : NumFlags))
      some ({ x with vals := r.1, last := es.foldl (fun l p => sput (0, 0) (base + p.1) (p.2 + 1, own p.1) l) x.last }, r.2)
  else
    some ({ x with
      image := es.foldl (fun im p => sput 0 (base + p.1) (p.2 + 1) im) x.image
      badO := x.badO.filter (fun e => !(decide (base ≤ e ∧ e < base + vals.length))) }, {})

/-- A step that is received and whose sends are all acknowledged is complete (R311): counted once, progress; what the steps before
it kept is released. -/
def State.collStepOver (s : State) (g k : Nat) : State :=
  match s.coll g with
  | none => s
  | some x =>
    if x.ended.contains k ∨ !x.rcvd.contains k ∨ x.tx.any (fun a => a.step == k) ∨ x.kept.any (fun e => e.step == k && !e.acked) then s
    else
      (s.setColl g { x with
        ended := x.ended ++ [k], progressAt := s.tally
        kept := x.kept.filter (fun e => decide (k ≤ e.step) || !e.acked) }).cnt .collSteps g 0 1

/-- The current step is received once all its packets have arrived and this member's own partials for them are present: they are
combined or stored, and acknowledged (R311). -/
def State.collReceived (s : State) (g : Nat) : State :=
  match s.coll g with
  | none => s
  | some x =>
    let k := x.step
    let rs := x.recvs k
    if x.began < k ∨ k = 0 ∨ x.rcvd.contains k ∨ !rs.all x.gotAll ∨ (decide (k ≤ x.reds) && !rs.all (fun a => x.present a.out)) then s
    else
      match rs.foldl (fun (acc : Option (Coll × NumFlags)) a => acc.bind (fun r => (r.1.takeXfer a).map (fun q => (q.1, r.2.or q.2))))
          (some (x, {})) with
      | none => s.collAbortHere g x 4 x.me 0
      | some (x', fl) =>
        let x' := { x' with rcvd := x'.rcvd ++ [k] }
        let s := (s.setColl g x').seamFlags x.tile fl
        let ms := (rs.map (fun a => a.src)).eraseDups
        let s := ms.foldl (fun s m => s.seamAckTo g x' m k) s
        s.collStepOver g k

/-- COLL_STEP_BEGIN (R311): begins step 1, or enters the next step when the current one is received and combined, narrowing this member's
chunk when the combining steps are over; then sends what can be sent. -/
def State.collStepBegin (s : State) (g : Nat) : State :=
  match s.coll g with
  | none => s
  | some x =>
    if !(s.tile x.tile).active then s
    else
      let s :=
        if x.began < x.step then s.setColl g { x with began := x.step, tx := x.tx ++ x.sends x.step }
        else if x.step < x.steps ∧ x.rcvd.contains x.step then
          let r := if x.step = x.reds then s.collNarrow g x else (s, x)
          let k := x.step + 1
          r.1.setColl g { r.2 with step := k, began := k, tx := r.2.tx ++ r.2.sends k, rxAt := s.tally }
        else s
      (s.collSend g).collReceived g

/-! ### Starting a descriptor (R297, R310, R317) -/

/-- An entry of the member map: (device, tile), undecoded, or poisoned. -/
inductive MapEntry where
  | undecoded (a : Nat) | poisoned | entry (dev tile : Nat)
deriving DecidableEq, Repr

/-- Reads an entry of a member map (R297) that nothing holds (`heldAt`); its line passes the rings. The seam engine is the master of its tile's SB. -/
def State.mapEntry (s : State) (t base m : Nat) : State × MapEntry :=
  let a := base + 4 * m
  let ok := s.okBytes a 4
  if ok < 4 then (s, .undecoded (a + ok))
  else
    let r := s.spanRead a 4 (fun b u => b == .sb && u == t)
    let r := (r.1.lineFlits (.tile t) a 4 true, r.2)
    if (List.range 4).any (fun i => s.memBad (a + i)) then (r.1, .poisoned)
    else (r.1, .entry (bitsOf (leNat r.2.1) 27 8) (bitsOf (leNat r.2.1) 7 0))

/-- Reads the entries of a list of members: those read, and the first that failed. -/
def State.mapEntries (s : State) (t base : Nat) (ms : List Nat) : State × List (Nat × Nat × Nat) × Option MapEntry :=
  ms.foldl (fun acc m =>
    if acc.2.2.isSome then acc
    else
      let r := acc.1.mapEntry t base m
      match r.2 with
      | .entry d u => (r.1, acc.2.1 ++ [(m, d, u)], none)
      | e => (r.1, acc.2.1, some e)) ((s, [], none) : State × List (Nat × Nat × Nat) × Option MapEntry)

/-- Elements that a member reads from IN (R303): how many, and the index of the first. -/
def Coll.input (x : Coll) : Nat × Nat :=
  let f := x.f
  if f.ope ∨ f.op = 6 then (0, 0)
  else if f.op = 2 then
    let r := f.range x.n (ownChunk x.order x.n x.me)
    (r.2 - r.1, r.1)
  else if f.op = 4 ∧ x.me ≠ f.root then (0, 0)
  else (f.count, 0)

/-- Elements that a member writes to OUT: first and end. -/
def Coll.output (x : Coll) : Nat × Nat :=
  let f := x.f
  if f.op = 6 ∨ (f.op = 3 ∧ x.me ≠ f.root) then (0, 0)
  else if f.op = 1 then f.range x.n (ownChunk x.order x.n x.me)
  else (0, f.count)

/-- Spans of IN, OUT and WORK. -/
def Coll.spans (x : Coll) : List (Nat × Nat) :=
  let f := x.f
  let o := x.output
  [(f.inA, elemBytes f.inF x.input.1), (f.outA, elemBytes f.outF (o.2 - o.1)), (f.work, x.workLen)]

/-- Peers whose map entries are not cached (R297). -/
def Coll.missing (x : Coll) : List Nat := x.peers.filter (fun m => !x.members.any (fun e => e.1 == m))

/-- Elements of n packed at a whose bytes meet a poisoned unit. -/
def State.badElems (s : State) (f : Fmt) (a n : Nat) : List Nat :=
  (List.range n).filter (fun j =>
    let p := elemBitPos f j
    s.memBad (a + p.1 / 8) || s.memBad (a + (p.1 + p.2 - 1) / 8))

/-- Enters values into the carry format from element e on. -/
def Coll.enter (x : Coll) (e : Nat) (vals : List Nat) : Coll × NumFlags :=
  let f := x.f
  let st := vals.map (fun v => if f.reducing then enterCarry f.inF f.carry v else { bits := v })
  ({ x with vals := ((List.range st.length).zip st).foldl (fun l p => sput 0 (e + p.1) (p.2.bits + 1) l) x.vals },
    st.foldl (fun a p => a.or p.fl) ({} : NumFlags))

/-- Chunks that this member copies at commit from its own input (R307), as (input chunk, output chunk). -/
def Coll.ownCopies (x : Coll) : List (Nat × Nat) :=
  match x.f.op with
  | 2 => let c := ownChunk x.order x.n x.me; [(c, c)]
  | 4 => if x.me = x.f.root then ((List.range x.n).filter (fun c => finalHolder x.order x.n c == x.me)).map (fun c => (c, c)) else []
  | 5 => [(x.me, x.me)]
  | _ => []

/-- Puts those chunks into the image. -/
def Coll.copyOwn (x : Coll) : Coll :=
  x.ownCopies.foldl (fun x c =>
    let r := x.f.range x.n c.1
    let es := (List.range (r.2 - r.1)).map (fun j => r.1 + j)
    { x with
      image := es.foldl (fun im e => sput 0 e ((x.val e).getD 0 + 1) im) x.image
      badO := x.badO ++ es.filter (fun e => x.badV.contains e) }) x

/-- READY records held for this collective are compared (R317). -/
def State.collPending (s : State) (g : Nat) : State :=
  let recs := sget [] g s.collPend
  recs.foldl (fun s r =>
    match s.coll g with
    | none => s
    | some x =>
      if r.2.2 ≠ x.seq then s.cnt .collSeqDrop g 0 1
      else if r.2.1 ≠ x.sig then s.collAbortHere g x 1 r.1 r.2.1
      else if r.1 ≥ x.n then s.cnt .collSeqDrop g 0 1
      else s.setColl g { x with ready := if x.ready.contains r.1 then x.ready else x.ready ++ [r.1] })
    { s with collPend := sput [] g [] s.collPend }

/-- A legal descriptor of a usable group starts (R310): the member entries it still needs are read (R297), IN, OUT and WORK are checked and the
input read, then READY goes to every member that will send to this one, and it is RUNNING at step 1. MODE is sampled here, for the
signature that READY carries names the order; R132 says when the first step begins (DEDUCED, log 82). -/
def State.collRun (s : State) (t q : Nat) (d : List Nat) (f : SeamF) : State :=
  let g := f.group
  let n := s.groupN g
  let me := s.rd .collIndex g
  let order := orderOf (s.rd .collOrderMode g) n
  let seq := s.rd .collSeq g
  let sig := collSig (s.rd .collCfgGid g) seq (d.getD 0 0) order n f.elems f.root
  let x : Coll := { tile := t, queue := q, desc := d, seq := seq, sig := sig, order := order, n := n, me := me,
                    members := sget [] g s.collMap, progressAt := s.tally, rxAt := s.tally }
  let x := { x with step := min 1 x.steps }
  let s := s.wr .collOrderEffective g 0 order
  let more := s.mapEntries t (s.rd .collMap g) x.missing
  let s := more.1
  let x := { x with members := x.members ++ more.2.1 }
  match more.2.2 with
  | some (.undecoded a) => s.collDecode g x a
  | some _ => s.collAbortHere g x 4 me 0
  | none =>
    match x.spans.find? (fun p => s.okBytes p.1 p.2 < p.2) with
    | some p => s.collDecode g x (p.1 + s.okBytes p.1 p.2)
    | none =>
      let inp := x.input
      let nb := elemBytes f.inF inp.1
      let bad := s.badElems f.inF f.inA inp.1
      let bs := s.memBytes f.inA nb
      let s := (s.spanRead f.inA nb (fun b u => b == .sb && u == t)).1
      let r := x.enter inp.2 ((List.range inp.1).map (fun j => elemOf f.inF bs j))
      let x := { r.1 with badV := bad.map (fun j => inp.2 + j) }.copyOwn
      let s := (s.seamFlags t r.2).scramble f.work x.workLen
      let s := s.setColl g x
      let senders := ((x.xfers.filter (fun a => a.dst == me)).map (fun a => a.src)).eraseDups
      (senders.foldl (fun s m => s.seamControl g x m 1 0) s).collPending g

/-- Seam queues from the round-robin pointer on that hold a descriptor which may start: none runs from the queue, and the group of the
descriptor at its head runs none (R310). -/
def State.seamNext (s : State) (t : Nat) : Option Nat :=
  let mine := s.colls.filter (fun e => e.2.tile == t)
  ((List.range 32).map (fun i => ((s.tile t).seamRr + i) % 32)).find? (fun q =>
    s.qEnabled t (96 + q) && s.qOcc t (96 + q) != 0 && !mine.any (fun e => e.2.queue == q) &&
      (let off := s.qLine t (96 + q) (s.rd .tileQHead (qInst t (96 + q)))
       let w0 := leNat ((List.range 8).map (fun i => s.spdByte t .sb (off + i)))
       !(s.poisonWords t .sb off 64).isEmpty || (slook (bitsOf w0 34 29) s.colls).isNone))

/-- A collective row: the seam engine takes the descriptor that is next when it is of this operation (codes 7 to 15 belong to ALLREDUCE, an
entry with a poisoned word to every operation). -/
def State.seamRow (s : State) (t op : Nat) : State :=
  if !(s.tile t).active ∨ (s.colls.filter (fun e => e.2.tile == t)).length ≥ 4 then s
  else match s.seamNext t with
    | none => s
    | some q =>
      if s.clearing t .sb then s.holdAccess t .sb 4
      else
        let off := s.qLine t (96 + q) (s.rd .tileQHead (qInst t (96 + q)))
        let rd := s.spdRead t .sb 0 off 64
        let d := (List.range 8).map (fun i => leNat ((rd.2.1.drop (8 * i)).take 8))
        let f := seamFields d
        let take (s : State) : State := (s.qDropHead t (96 + q)).onTile t (fun x => { x with seamRr := (q + 1) % 32 })
        let s1 := rd.1.bankCount t .sb true 1
        if !(s.poisonWords t .sb off 64).isEmpty then
          (((take s1).event t 3).cnt .tileSeamDescPoison t 0 1).reportTile 1 t 0x520 q
        else if !(f.op == op || (op == 0 && decide (f.op ≥ 7))) then s
        else if s.seamIllegal t f then (take s1).collFinish t f.group 1 f
        else if !s.on .collCfgValid f.group ∨ s.on .collStatusAborted f.group then (take s1).collFinish t f.group 2 f
        else
          let n := s.groupN f.group
          let probe : Coll := { tile := t, queue := q, desc := d, seq := 0, sig := 0, order := orderOf (s.rd .collOrderMode f.group) n,
                                n := n, me := s.rd .collIndex f.group, members := sget [] f.group s.collMap }
          match s.heldAt (probe.spans ++ probe.missing.map (fun m => (s.rd .collMap f.group + 4 * m, 4))) with
          | some _ => s.holdSpans t (probe.spans ++ probe.missing.map (fun m => (s.rd .collMap f.group + 4 * m, 4))) 4
          | none => ((take s1).unhold t 4).collRun t q d f

/-! ### Receiving (R308, R309, R317, R322, R323) -/

/-- Preamble of a SEAM packet. -/
structure SeamHead where
  sig : Nat
  gid : Nat
  member : Nat
  step : Nat
  kind : Nat
  pkt : Nat
  pkts : Nat
  off : Nat
deriving DecidableEq, Repr

/-- Reads the preamble (R308). -/
def seamHead (p : Packet) : SeamHead :=
  let w (i : Nat) : Nat := leNat ((p.payload.drop (8 * i)).take 8)
  { sig := w 0, gid := bitsOf (w 1) 63 48, member := bitsOf (w 1) 47 28, step := bitsOf (w 1) 27 8, kind := bitsOf (w 1) 7 4,
    pkt := bitsOf (w 2) 63 32, pkts := bitsOf (w 2) 31 0, off := bitsOf (w 3) 63 24 }

/-- Is a SEAM packet of a kind well formed: whole, of a kind in use, and with data in DATA only (R309)? -/
def seamOk (p : Packet) : Bool :=
  let h := seamHead p
  decide (64 ≤ p.len ∧ p.payload.length = p.len ∧ h.kind < 4) && (h.kind == 0 || p.len == 64)

/-- The kinds of a row: malformed packets belong to the DATA row. -/
def seamKind (p : Packet) : Nat := if seamOk p then (seamHead p).kind else 0

/-- A SEAM ACK that is dropped is a late reply and counts as one (R448). -/
def State.ackDrop (s : State) (p : Packet) : State := if (seamHead p).kind = 3 then s.cnt .tileGenDrop p.dstTile 0 1 else s

/-- Takes the n-th waiting SEAM packet of a kind through what every kind meets: the fence (R449), the group (R308), malformed packets, sequence
numbers (R317) and, for the current collective, the signature. What the fence drops counts in this chapter's counters too (R449). `f` sees a packet of the current collective, `idle` one of none. -/
def State.seamReceive (s0 : State) (kind n : Nat) (f : State → Nat → Coll → Packet → State)
    (other : State → Nat → Packet → State) : State :=
  match s0.netTake 6 n (fun p => seamKind p == kind) with
  | none => s0
  | some (a, s) =>
    let p := a.pkt
    let t := p.dstTile
    let h := seamHead p
    if !(s.tile t).active then s0
    else if s.fenced t p.injAt then
      let s := s.cnt .tileGenDrop t 0 1
      match s.findGroup h.gid t with
      | none => s.cnt .tileSeamNogroup t 0 1
      | some g => s.cnt .collSeqDrop g 0 1
    else match s.findGroup h.gid t with
      | none => (s.cnt .tileSeamNogroup t 0 1).ackDrop p
      | some g =>
        if !seamOk p then (s.cnt .collSeqDrop g 0 1).ackDrop p
        else match s.coll g with
          | none => other s g p
          | some x =>
            if p.tag ≠ x.seq then other s g p
            else if kind = 3 ∧ p.gen ≠ s.rd .tileGen t then s.cnt .tileGenDrop t 0 1
            else if h.sig ≠ x.sig then s.collAbortHere g x 1 h.member h.sig
            else if h.member ≥ x.n then (s.cnt .collSeqDrop g 0 1).ackDrop p
            else f s g x p

/-- A packet of another sequence number (R317). -/
def State.seqDrop (s : State) (g : Nat) (_ : Packet) : State := s.cnt .collSeqDrop g 0 1

/-- Adds a member whose READY has come. -/
def Coll.addReady (x : Coll) (m : Nat) : Coll := { x with ready := if x.ready.contains m then x.ready else x.ready ++ [m] }

/-- A READY of an idle group's next collective is held while a record is free (R317); one that is held already needs no second record. -/
def State.pendReady (s : State) (g : Nat) (p : Packet) : State :=
  let recs := sget [] g s.collPend
  let r := ((seamHead p).member, (seamHead p).sig, p.tag)
  if recs.contains r then s
  else if recs.length ≥ 64 then s.cnt .collReadyDrop g 0 1
  else { s with collPend := sput [] g (recs ++ [r]) s.collPend }

/-- SEAM_READY_RECEIVE (R317): noted for the current collective; held for the next one of an idle group while a record is free. -/
def State.seamReady (s : State) (n : Nat) : State :=
  s.seamReceive 1 n (fun s g x p => s.setColl g (x.addReady (seamHead p).member)) (fun s g p =>
    if (s.coll g).isSome ∨ p.tag ≠ s.rd .collSeq g then s.cnt .collSeqDrop g 0 1 else s.pendReady g p)

/-- The expected transfer that a DATA packet belongs to: one that lacks the packet, or else one that has it. -/
def Coll.matchData (x : Coll) (h : SeamHead) (n : Nat) (data : List Byte) : Option (Xfer × List Nat × Bool) :=
  let ok := (x.recvs h.step).filter (fun a =>
    let f := x.fmtOf a.step
    let r := x.f.range x.n a.out
    let len := r.2 - r.1
    let per := perPacket f
    a.src == h.member && decide (h.pkt < h.pkts) && h.pkts == packetsOf f len && h.off == x.xferOff a + h.pkt * per &&
      n == elemBytes f (min per (len - h.pkt * per)))
  let vals (a : Xfer) : List Nat :=
    let f := x.fmtOf a.step
    let r := x.f.range x.n a.out
    (List.range (min (perPacket f) (r.2 - r.1 - h.pkt * perPacket f))).map (fun j => elemOf f data j)
  let has (a : Xfer) : Bool := x.rx.any (fun r => r.xfer == a && r.got.any (fun q => q.1 == h.pkt))
  match ok.find? (fun a => !has a) with
  | some a => some (a, vals a, false)
  | none => (ok.head?).map (fun a => (a, vals a, true))

/-- SEAM_DATA_RECEIVE (R311, R323): a packet that no step expects is dropped; a duplicate is dropped, and acknowledged when its step has been
received; any other is accepted, and may complete the current step's receipt. -/
def State.seamData (s : State) (n : Nat) : State :=
  s.seamReceive 0 n (fun s g x p =>
    let h := seamHead p
    let key := h.member * 2 ^ 32 + h.step
    match x.matchData h (p.len - 64) (p.payload.drop 64) with
    | none => s.cnt .collSeqDrop g 0 1
    | some (a, vals, dup) =>
      let x := { x with gens := sput 0 key p.gen x.gens }
      if dup then
        let s := (s.setColl g x).cnt .collDupDrop g 0 1
        if x.rcvd.contains h.step then s.seamAckTo g x h.member h.step else s
      else
        let old := (x.rx.find? (fun r => r.xfer == a)).map (fun r => r.got)
        let x := { x with
          rx := x.rx.filter (fun r => r.xfer != a) ++ [⟨a, sset h.pkt (some vals) (old.getD [])⟩]
          tries := sput 0 key 0 x.tries, progressAt := s.tally
          rxAt := if h.step = x.step then s.tally else x.rxAt }
        (((s.setColl g x).cnt .collRxPkts g 0 1).progress x.tile 1).collReceived g) State.seqDrop

/-- SEAM_ACK_RECEIVE (R311, R448). -/
def State.seamAck (s : State) (n : Nat) : State :=
  s.seamReceive 3 n (fun s g x p =>
    let h := seamHead p
    if x.kept.any (fun k => k.step == h.step && k.peer == h.member && !k.acked) && !x.tx.any (fun a => a.step == h.step && a.dst == h.member) then
      let x := { x with
        kept := x.kept.map (fun k => if k.step = h.step ∧ k.peer = h.member then { k with acked := true } else k)
        tries := sput 0 (h.member * 2 ^ 32 + h.step) 0 x.tries }
      (s.setColl g x).collStepOver g h.step
    else s.cnt .tileGenDrop x.tile 0 1) (fun s g p => (s.cnt .collSeqDrop g 0 1).cnt .tileGenDrop p.dstTile 0 1)

/-- Resends a step to a peer from the kept bytes (R322 to R324). -/
def State.collResend (s : State) (g : Nat) (x : Coll) (k : Kept) : State :=
  let x := { x with kept := x.kept.map (fun e => if e.step = k.step ∧ e.peer = k.peer then { e with sentAt := s.tally } else e) }
  (k.packets.foldl (fun s p => s.seamSend g x k.peer p) (s.setColl g x)).cnt .collReplayPkts g 0 k.packets.length

/-- SEAM_REPLAY_RECEIVE (R322). An idle group has not reached any step of its next collective: the request is a READY. -/
def State.seamReplay (s : State) (n : Nat) : State :=
  s.seamReceive 2 n (fun s g x p =>
    let h := seamHead p
    let s := s.cnt .collReplayReqRx g 0 1
    let x := if h.step = 1 then x.addReady h.member else x
    match x.kept.find? (fun k => k.step == h.step && k.peer == h.member) with
    | some k => (s.setColl g x).collResend g x k
    | none =>
      if h.step > x.began ∨ x.tx.any (fun a => a.step == h.step && a.dst == h.member) then
        (s.setColl g (x.addReady h.member)).cnt .collReplayEarly g 0 1
      else s.setColl g x) (fun s g p =>
    if (s.coll g).isSome ∨ p.tag ≠ s.rd .collSeq g then s.cnt .collSeqDrop g 0 1
    else ((s.cnt .collReplayReqRx g 0 1).cnt .collReplayEarly g 0 1).pendReady g p)

/-- COLL_ABORT_RECEIVE (R319). -/
def State.collAbortReceive (s0 : State) (n : Nat) : State :=
  match s0.netTake 0xB n with
  | none => s0
  | some (a, s) =>
    let p := a.pkt
    let w (i : Nat) : Nat := leNat ((p.payload.drop (8 * i)).take 8)
    if !(s.tile p.dstTile).active then s0
    else match s.findGroup (bitsOf (w 2) 63 48) p.dstTile with
      | none => s
      | some g =>
        let m := bitsOf (w 2) 47 28
        match s.coll g with
        | some x => if p.tag = x.seq then s.collAbort g x 2 (bitsOf (w 2) 27 24) m (w 1) (w 0, w 1, m) else s
        | none => if p.tag = s.rd .collSeq g then s.wr .collStatusAborted g 0 1 else s

/-! ### Items, commit and completion (R312, R315) -/

/-- SEAM_ITEM_ACCEPT (R315): a waiting OPE item is accepted while its queue's descriptor takes OPE items and runs. -/
def State.seamItem (s : State) (t : Nat) : State :=
  match (s.tile t).items with
  | [] => s
  | it :: _ =>
    match s.colls.find? (fun e => e.2.tile == t && e.2.queue == it.queue && e.2.f.ope && !e.2.committed) with
    | none => s
    | some (g, x) =>
      if !(s.tile t).active then s
      else
        let f := x.f
        let s := s.itemAccepted t it
        if it.fmt ≠ f.fin then s.collAbortHere g x 4 x.me 0
        else
          let e := it.row * f.rowLen + it.col
          let keep := it.vals.take (f.count - e)
          let r := x.enter e keep
          let s := (s.setColl g r.1).seamFlags t r.2
          let s := if keep.length = it.vals.length then s else s.cnt .collItemOor g 0 (it.vals.length - keep.length)
          s.progress t 1

/-- COLL_COMMIT (R312): after the last step's receipt the output is narrowed, if it is not yet, and copied to OUT. -/
def State.collCommit (s : State) (g : Nat) : State :=
  match s.coll g with
  | none => s
  | some x =>
    if x.committed ∨ x.step ≠ x.steps ∨ (x.step ≠ 0 ∧ !x.rcvd.contains x.step) ∨ !x.inputs ∨ !(s.tile x.tile).active then s
    else
      let f := x.f
      let o := x.output
      let nb := elemBytes f.outF (o.2 - o.1)
      match s.heldAt [(f.outA, nb)] with
      | some _ => s.holdSpans x.tile [(f.outA, nb)] 4
      | none =>
        let s := s.unhold x.tile 4
        let r := s.collNarrow g x
        let s := r.1
        let x := r.2
        if s.okBytes f.outA nb < nb then s.collDecode g x (f.outA + s.okBytes f.outA nb)
        else
          let w := (elemBitPos f.outF 0).2
          let bits := (List.range (o.2 - o.1)).map (fun j => sget 0 (o.1 + j) x.image - 1)
          let raw := packElems f.outF bits
          let tail := (o.2 - o.1) * w % 8
          let raw := if tail = 0 then raw
            else raw.dropLast ++ [BitVec.ofNat 8 ((raw.getLastD 0#8).toNat % 2 ^ tail + (s.memByte (f.outA + nb - 1)).toNat / 2 ^ tail * 2 ^ tail)]
          let bad (i : Nat) : Bool := x.badO.any (fun e => decide (o.1 ≤ e ∧ e < o.2 ∧ (e - o.1) * w < 8 * i + 8 ∧ 8 * i < (e - o.1) * w + w))
          let s := if nb = 0 then s else s.spanWrite f.outA raw bad (fun b u => b == .sb && u == x.tile)
          s.setColl g { x with committed := true, poisoned := (List.range nb).any bad }

/-- COLL_COMPLETE (R312): the commit copy is done and every step is complete. -/
def State.collComplete (s : State) (g : Nat) : State :=
  match s.coll g with
  | none => s
  | some x =>
    if !x.committed ∨ x.ended.length < x.steps ∨ !(s.tile x.tile).active then s
    else s.collEnd g (if x.poisoned then 3 else 0) x

/-! ### Timers (R321 to R323) -/

/-- One more try for a peer and step: the state, or none when the limit is spent (R323). -/
def State.collTry (s : State) (g : Nat) (x : Coll) (m k : Nat) : Option (State × Coll) :=
  let key := m * 2 ^ 32 + k
  let n := sget 0 key x.tries + 1
  if n > s.rd .collCfgReplayLimit g then none
  else
    let x := { x with tries := sput 0 key n x.tries }
    some (s.setColl g x, x)

/-- COLL_STEP_TIMEOUT (R322): REPLAY goes to each sender of the current step whose packets are incomplete. -/
def State.collStepTimeout (s : State) (g : Nat) : State :=
  match s.coll g with
  | none => s
  | some x =>
    let lim := s.rd .collStepTimeoutNs g
    let late := (((x.recvs x.step).filter (fun a => !x.gotAll a)).map (fun a => a.src)).eraseDups
    if lim = 0 ∨ s.tally < x.rxAt + lim ∨ late.isEmpty ∨ !(s.tile x.tile).active then s
    else
      late.foldl (fun s m =>
        match s.coll g with
        | none => s
        | some x =>
          match s.collTry g x m x.step with
          | none => s.collAbortHere g x 3 m 0
          | some (s, x) =>
            let x := { x with rxAt := s.tally }
            ((s.setColl g x).seamControl g x m 2 x.step).cnt .collReplayReqTx g 0 1) s

/-- COLL_ACK_TIMEOUT (R323): every step whose ACK is late is resent. -/
def State.collAckTimeout (s : State) (g : Nat) : State :=
  match s.coll g with
  | none => s
  | some x =>
    let lim := s.rd .collStepTimeoutNs g
    if lim = 0 ∨ !(s.tile x.tile).active then s
    else
      (x.kept.filter (fun k => !k.acked && decide (s.tally ≥ k.sentAt + lim) &&
          !x.tx.any (fun a => a.step == k.step && a.dst == k.peer))).foldl (fun s k =>
        match s.coll g with
        | none => s
        | some x =>
          match s.collTry g x k.peer k.step with
          | none => s.collAbortHere g x 3 k.peer 0
          | some (s, x) => s.collResend g x k) s

/-- COLL_STALL (R321): a full interval has passed without a DATA packet accepted or a step completed. -/
def State.collStall (s : State) (g : Nat) : State :=
  match s.coll g with
  | none => s
  | some x =>
    let lim := s.rd .collProgressTimeoutNs g
    if lim = 0 ∨ s.tally < x.progressAt + lim ∨ !(s.tile x.tile).active then s
    else
      ((((s.setColl g { x with progressAt := x.progressAt + lim }).wr .collStatusStall g 0 1).cnt .collStall g 0 1).irq (256 + g))

/-- Can a step of a collective not begin (R320), for want of a peer's READY, or of an item of the step before it? -/
def Coll.waiting (x : Coll) : Bool :=
  !x.committed &&
    ((x.tx ++ (if x.began < x.step then x.sends x.step else [])).any (fun a => !x.ready.contains a.dst) ||
      (decide (x.began = x.step ∧ x.step < x.steps) && (x.recvs x.step).any (fun a => !x.gotAll a)))

/-- Running collectives of a tile abort with reason 5 (R329), and the READY records held for its groups are gone (R443). -/
def State.collTileReset (s : State) (t : Nat) : State :=
  let s := (s.colls.filter (fun e => e.2.tile == t)).foldl (fun s e => s.collAbortHere e.1 e.2 5 e.2.me 0) s
  { s with collPend := s.collPend.filter (fun e => s.rd .collCfgTile e.1 != t) }

/-! ### The commands -/

def execAllreduce (t : TileId) (s : State) : Result := .next (s.seamRow t 0)
def execReduceScatter (t : TileId) (s : State) : Result := .next (s.seamRow t 1)
def execAllgather (t : TileId) (s : State) : Result := .next (s.seamRow t 2)
def execReduce (t : TileId) (s : State) : Result := .next (s.seamRow t 3)
def execBroadcast (t : TileId) (s : State) : Result := .next (s.seamRow t 4)
def execAlltoall (t : TileId) (s : State) : Result := .next (s.seamRow t 5)
def execBarrier (t : TileId) (s : State) : Result := .next (s.seamRow t 6)
def execSeamReadyReceive (n : Nat) (s : State) : Result := .next (s.seamReady n)
def execSeamDataReceive (n : Nat) (s : State) : Result := .next (s.seamData n)
def execSeamAckReceive (n : Nat) (s : State) : Result := .next (s.seamAck n)
def execSeamReplayReceive (n : Nat) (s : State) : Result := .next (s.seamReplay n)
def execCollAbortReceive (n : Nat) (s : State) : Result := .next (s.collAbortReceive n)
def execCollStepBegin (g : GroupId) (s : State) : Result := .next (s.collStepBegin g)
def execSeamItemAccept (t : TileId) (s : State) : Result := .next (s.seamItem t)
def execCollCommit (g : GroupId) (s : State) : Result := .next (s.collCommit g)
def execCollComplete (g : GroupId) (s : State) : Result := .next (s.collComplete g)
def execCollStepTimeout (g : GroupId) (s : State) : Result := .next (s.collStepTimeout g)
def execCollAckTimeout (g : GroupId) (s : State) : Result := .next (s.collAckTimeout g)
def execCollStall (g : GroupId) (s : State) : Result := .next (s.collStall g)

end Sys2Proof.Machine
end

