-- ==== Sys2Proof/Machine/Security.lean ====
section
/-! DEFINITION. Configuration flash, images, signed records, identity, the counter device and attestation (R353 to R355, R481 to R493). -/
namespace Sys2Proof.Machine

/-! ### Checksums -/

/-- One bit step of the reflected Castagnoli CRC-32C. -/
def crc32cStep (c : Nat) : Nat := if c % 2 = 1 then (c / 2) ^^^ 0x82F63B78 else c / 2

/-- Feeds one byte. -/
def crc32cByte (c : Nat) (b : Byte) : Nat := (List.range 8).foldl (fun c _ => crc32cStep c) (c ^^^ b.toNat)

/-- CRC-32C of a byte string. -/
def crc32c (bs : List Byte) : Nat := bs.foldl crc32cByte 0xFFFFFFFF ^^^ 0xFFFFFFFF

/-- SHA-384 as the 48 bytes it is. -/
def hash48 (bs : List Byte) : List Byte := padTo 48 (Config.sha384 bs)

/-- Is every byte zero? -/
def allZero (bs : List Byte) : Bool := bs.all (fun b => b == 0#8)

/-! ### Flash (R353) -/

/-- A byte of configuration flash; an erased byte reads 0xFF. -/
def State.flashByte (s : State) (a : Nat) : Byte := sget 0xFF#8 a s.flash

/-- Bytes of configuration flash. -/
def State.flashBytes (s : State) (a n : Nat) : List Byte := (List.range n).map (fun i => s.flashByte (a + i))

/-- Writes bytes of configuration flash; the end of the operation raises the flash interface's source (R371). -/
def State.flashWrite (s : State) (a : Nat) (bs : List Byte) : State :=
  if bs.isEmpty then s
  else
    let l := ((List.range bs.length).zip bs).foldl (fun l e => sput 0xFF#8 (a + e.1) e.2 l) s.flash
    { s with flash := l }.irq 440

/-! ### Signatures (R482) -/

/-- Order n of the base point of brainpoolP384r1 (PRESUMED, from RFC 5639: log 3). -/
def curveOrder : Nat := 0x8CB91E82A3386D280F5D6F7E50E641DF152F7109ED5456B31F166E6CAC0425A7CF3AB6AF6B7FC3103B883202E9046565

/-- A big-endian number. -/
def beNat (bs : List Byte) : Nat := leNat bs.reverse

/-- Does a signature value lie in [1, n − 1]? -/
def sigRange (v : Nat) : Bool := decide (1 ≤ v) && decide (v < curveOrder)

/-- Is a signature of a message by a key valid (R482): both values in their range, and the equation of ECDSA, which is Config's? -/
def sigOk (key msg sig : List Byte) : Bool :=
  sigRange (beNat (sig.take 48)) && sigRange (beNat ((sig.drop 48).take 48)) && Config.ecdsaVerify key msg sig

/-! ### Images (R354, R355) -/

/-- Start of an image partition. -/
def imageBase (img : Nat) : Nat := img * 0x1000000

/-- A little-endian value of an image's header. -/
def State.imgNat (s : State) (img off n : Nat) : Nat := leNat (s.flashBytes (imageBase img + off) n)

/-- Step 2 of R355: MAGIC, HDR_VERSION, SIZE and the reserved fields. -/
def State.imgHeaderOk (s : State) (img : Nat) : Bool :=
  let z (off n : Nat) : Bool := allZero (s.flashBytes (imageBase img + off) n)
  s.imgNat img 0 4 == 0x31584C46 && s.imgNat img 4 2 == 1 && decide (1 ≤ s.imgNat img 16 4 ∧ s.imgNat img 16 4 ≤ 1572864) &&
    z 6 2 && z 24 8 && z 80 80

/-- Body of an image. -/
def State.imgBody (s : State) (img : Nat) : List Byte := s.flashBytes (imageBase img + 256) (s.imgNat img 16 4)

/-- Value of a counter of the counter device (R489). -/
def State.counter (s : State) (i : Nat) : Nat := sget 0 i s.mono

/-- Steps 2 to 5 of R355: 0, or the result code of the first that fails (R369). -/
def State.imgCheck (s : State) (img : Nat) (ctrOk : Bool) : Nat :=
  let b := imageBase img
  if !s.imgHeaderOk img then 3
  else if !sigOk Config.firmwareKey (s.flashBytes b 160) (s.flashBytes (b + 160) 96) then 4
  else if s.flashBytes (b + 32) 48 ≠ hash48 (s.imgBody img) then 5
  else if !ctrOk ∨ s.imgNat img 12 4 < s.counter 0 then 6
  else 0

/-! ### Signed records (R484 to R486) -/

/-- Hash of the identity public key (R482). -/
def identityHash : List Byte := hash48 Config.identityKey

/-- The PCI Express Device Serial Number (R482). -/
def deviceSerial : Nat := leNat (identityHash.take 8)

/-- First byte of a record slot. -/
def slotBase (k : Nat) : Nat := 0x2000000 + 4096 * k

/-- The 4 KiB of a slot. -/
def State.slotBytes (s : State) (k : Nat) : List Byte := s.flashBytes (slotBase k) 4096

/-- A little-endian value of a record. -/
def recNat (r : List Byte) (off n : Nat) : Nat := leNat ((r.drop off).take n)

/-- TYPE, BODY_LEN and VERSION of a record. -/
def recType (r : List Byte) : Nat := recNat r 4 2
def recBodyLen (r : List Byte) : Nat := recNat r 6 2
def recVersion (r : List Byte) : Nat := recNat r 8 8

/-- Body of a record. -/
def recBody (r : List Byte) : List Byte := (r.drop 112).take (recBodyLen r)

/-- The record without padding: header, body and signature. -/
def recWhole (r : List Byte) : List Byte := r.take (112 + recBodyLen r + 96)

/-- Body length that a type has (R485). -/
def bodyLenOf : Nat → Option Nat
  | 1 => some 97 | 2 => some 2048 | 3 => some 1 | 4 => some 97 | 5 => some 97 | 6 => some 97 | 7 => some 33 | _ => none

/-- Rollback counter of a type (R485). -/
def ctrOf : Nat → Option Nat
  | 4 => some 1 | 5 => some 2 | 6 => some 2 | 7 => some 2 | _ => none

/-- Does a signature by a key verify over the record, and does SIGNER_HASH name the key (R484, R486)? -/
def recSigned (r key signer : List Byte) : Bool :=
  (r.drop 64).take 48 == signer &&
    sigOk key (r.take (112 + recBodyLen r)) ((r.drop (112 + recBodyLen r)).take 96)

/-- Is a record valid (R486), given the owner key in force and whether the identity key is held? -/
def State.recValid (s : State) (owner : Option (List Byte)) (idOk : Bool) (r : List Byte) : Bool :=
  let ty := recType r
  let ident := (r.drop 16).take 48
  recNat r 0 4 == 0x31434552 && bodyLenOf ty == some (recBodyLen r) &&
    (ident == identityHash || (ty == 4 && allZero ident)) &&
    (match ctrOf ty with
     | some c => decide (s.counter c ≤ recVersion r)
     | none => true) &&
    (match ty with
     | 1 | 4 | 5 => recSigned r Config.vendorKey (hash48 Config.vendorKey)
     | 2 => true
     | 3 => idOk && recSigned r Config.identityKey (List.replicate 48 0#8)
     | 6 | 7 => owner.any (fun k => recSigned r k (hash48 k))
     | _ => false)

/-- The slot of a type's valid record of highest VERSION, the lowest slot among equals. -/
def State.pickRecord (s : State) (owner : Option (List Byte)) (idOk : Bool) (ty : Nat) : Option Nat :=
  (List.range 4096).foldl (fun best k =>
    let r := s.slotBytes k
    if recType r = ty ∧ s.recValid owner idOk r then
      match best with
      | none => some k
      | some b => if recVersion (s.slotBytes b) < recVersion r then some k else some b
    else best) none

/-- The slot of the record in force of a type. -/
def State.recSlot (s : State) (ty : Nat) : Option Nat :=
  match sget 0 ty s.records with
  | 0 => none
  | k + 1 => some k

/-- Body of the record in force of a type. -/
def State.recInForce (s : State) (ty : Nat) : Option (List Byte) := (s.recSlot ty).map (fun k => recBody (s.slotBytes k))

/-- Selection of records (R486), and the bits of SEC_STATUS that follow from it. -/
def State.selectRecords (s : State) : State :=
  let idOk := s.on .secStatusIdValid
  let owner := (s.pickRecord none idOk 5).map (fun k => recBody (s.slotBytes k))
  let l := [1, 2, 3, 4, 5, 6, 7].foldl (fun l ty => sput 0 ty (((s.pickRecord owner idOk ty).map (· + 1)).getD 0) l) []
  let s := { s with records := l }
  (s.wr .secStatusOwner 0 0 (b2n (s.recSlot 5).isSome)).wr .secStatusSettings 0 0 (b2n (s.recSlot 7).isSome)

/-- Reconstruction of the identity key (R481, R482): it is held when helper data is present and yields the key of a certificate that
verifies. -/
def State.identityOk (s : State) : Bool :=
  match s.pickRecord none false 1, s.pickRecord none false 2 with
  | some c, some h => Config.pufKey (recBody (s.slotBytes h)) == recBody (s.slotBytes c)
  | _, _ => false

/-! ### The counter device (R489 to R491) -/

/-- Field that mirrors a counter is SEC_CTR at the counter's position. One increment, and its mirror. -/
def State.counterUp (s : State) (i : Nat) : State :=
  let v := s.counter i + 1
  ({ s with mono := sput 0 i v s.mono }.wr .secCtr 0 i v).bump .secCtrAdv

/-- Raises a counter to a value by single increments. -/
def State.counterRaise (s : State) (i v : Nat) : State :=
  (List.range (min v 0xFFFFFFFF - s.counter i)).foldl (fun s _ => s.counterUp i) s

/-- ROLLBACK_ADVANCE (R491): due once the image has been ready for SEC_ADV_DELAY_S; an increment that fails is retried 1 s later. -/
def State.rollbackAdvance (s : State) (good : Bool) : State :=
  let b := s.boot
  if b.image.isNone ∨ b.readyAt = 0 ∨ !s.compRuns 5 ∨ s.tally < b.readyAt - 1 + s.rd .secAdvDelayS * 1000000000 ∨
      b.rollback ≤ s.counter 0 ∨ s.tally < b.advAt then s
  else if good then s.counterUp 0
  else { s.bump .secCtrErr with boot := { s.boot with advAt := s.tally + 1000000000 } }

/-! ### Writing records (R488) -/

/-- Is a slot erased? -/
def State.slotErased (s : State) (k : Nat) : Bool := (s.slotBytes k).all (fun b => b == 0xFF#8)

/-- Is a slot's record selected? -/
def State.slotSelected (s : State) (k : Nat) : Bool := s.records.any (fun e => e.2 == k + 1)

/-- Makes room when no slot is erased: the 64 KiB sector with the most records no longer selected keeps only its selected ones. -/
def State.reclaim (s : State) : State :=
  let stale (q : Nat) : Nat := ((List.range 16).filter (fun i => !s.slotSelected (16 * q + i))).length
  let best := (List.range 256).foldl (fun b q => if stale q > stale b then q else b) 0
  let keep := ((List.range 16).filter (fun i => s.slotSelected (16 * best + i))).map (fun i => s.slotBytes (16 * best + i))
  let s := s.flashWrite (slotBase (16 * best)) (List.replicate 65536 0xFF#8)
  ((List.range keep.length).zip keep).foldl (fun s e => s.flashWrite (slotBase (16 * best + e.1)) e.2) s

/-- Writes a record into the lowest erased slot, then selects anew. -/
def State.writeRecord (s : State) (r : List Byte) : State :=
  let s := if (List.range 4096).any s.slotErased then s else s.reclaim
  match (List.range 4096).find? s.slotErased with
  | none => s
  | some k => ((s.flashWrite (slotBase k) r).bump .secRecWr).selectRecords

/-- CFG_RECORD_WRITE (R488). -/
def State.cfgRecordWrite (s : State) (c : Nat) : State :=
  s.ycp c 0x0704 (fun s r =>
    let rec_ := s.payBytes r.chan 0 4096
    let adv := bitOf (s.pay r.chan 4096 1) 0
    if recType rec_ = 3 then done s 8
    else if !s.recValid (s.recInForce 5) (s.on .secStatusIdValid) rec_ then done (s.bump .secRecReject) 0xC
    else
      let s := s.writeRecord rec_
      match adv, ctrOf (recType rec_) with
      | true, some i => done (s.counterRaise i (recVersion rec_)).selectRecords 0
      | _, _ => done s 0)

/-! ### Firmware images by command (R356) -/

/-- FW_WRITE: bytes into the image that is not booted. -/
def State.fwWrite (s : State) (c img off : Nat) (data : List Byte) : State :=
  s.ycp c 0x0701 (fun s _ =>
    if off + data.length > 0x1000000 then done s 6
    else if s.boot.image = some img then done s 8
    else done (s.flashWrite (imageBase img + off) data) 0)

/-- The boot-preference record that names an image (R485, R488): one VERSION above the one in force. -/
def State.prefRecord (s : State) (img : Nat) : List Byte :=
  let v := ((s.recSlot 3).map (fun k => recVersion (s.slotBytes k) + 1)).getD 1
  let body := fieldBytes [(0x31434552, 4), (3, 2), (1, 2), (v, 8)] ++ identityHash ++ List.replicate 48 0#8 ++ [BitVec.ofNat 8 img]
  padTo 4096 (body ++ padTo 96 (Config.ecdsaSign body))

/-- FW_ACTIVATE (R356): the mailbox service verifies the image that is not booted; the CRC/snapshot service then signs and writes a preference
record for it, if it holds an identity key (log 54). The request waits while that service restarts, and completes with 0x000F once it has FAILED
(R351). -/
def State.fwActivate (s : State) (c : Nat) : State :=
  s.ycp c 0x0702 (fun s _ =>
    let img := if s.boot.image = some 0 then 1 else 0
    if !s.on .secStatusIdValid then done s 8
    else if s.imgCheck img true ≠ 0 then done s 0xC
    else if (s.comp 5).mode = .failed then done s 0xF
    else if (s.comp 5).mode ≠ .running then (s, none)
    else done (s.writeRecord (s.prefRecord img)) 0)

/-! ### Attestation (R492, R493) -/

/-- SHA-384 of what a record type in force gives, or zeros. -/
def hashOr : Option (List Byte) → List Byte
  | some b => hash48 b
  | none => List.replicate 48 0#8

/-- Bytes 0 to 351 of the report. -/
def State.attestBody (s : State) (nonce : List Byte) : List Byte :=
  let op := s.on .dbgLockOpen
  let other := if s.boot.image = some 0 then 1 else 0
  let flags := b2n op + 2 * b2n (s.recSlot 5).isSome + 4 * b2n (s.recSlot 7).isSome
  fieldBytes [(0x31545441, 4), (1, 2), (flags, 2), (s.tally, 8)] ++ identityHash ++ nonce ++
    fieldBytes [(s.rd .hfFwVersion, 4), (s.boot.rollback, 4)] ++ padTo 48 s.boot.digest ++
    (if s.imgHeaderOk other then s.flashBytes (imageBase other + 32) 48 else List.replicate 48 0#8) ++
    fieldBytes [(s.counter 0, 4), (s.counter 1, 4), (s.counter 2, 4), (s.counter 3, 4), (s.word 0x40 {}, 4), (s.word 0x100 {}, 4)] ++
    hashOr (s.recInForce 5) ++ hashOr ((s.recSlot 7).map (fun k => recWhole (s.slotBytes k))) ++
    fieldBytes [(s.rd .hfBoots, 8), (s.rd .dbgUnlocks, 8), (if op then s.rd .dbgOpenUntil else 0, 8),
      (s.rd .dbgLockPerms, 2), (0, 6)]

/-- ATTEST. -/
def State.attest (s : State) (c : Nat) : State :=
  s.ycp c 0x0703 (fun s r =>
    if !s.on .secStatusIdValid then done s 8
    else
      let body := s.attestBody (s.payBytes r.chan 0 32)
      let cert := ((s.recSlot 1).map (fun k => recWhole (s.slotBytes k))).getD []
      (s.bump .secAttest, some (0, body ++ padTo 96 (Config.ecdsaSign body) ++ cert)))

/-! ### The commands -/

def execCfgRecordWrite (c : ChanId) (s : State) : Result := .next (s.cfgRecordWrite c)
def execFwWrite (c : ChanId) (image : Fin 2) (off : Nat) (data : List Byte) (s : State) : Result := .next (s.fwWrite c image off data)
def execFwActivate (c : ChanId) (s : State) : Result := .next (s.fwActivate c)
def execAttest (c : ChanId) (s : State) : Result := .next (s.attest c)
def execRollbackAdvance (good : Bool) (s : State) : Result := .next (s.rollbackAdvance good)

end Sys2Proof.Machine
end

