-- ==== Sys2Proof/Machine/Dump.lean ====
section
/-! DEFINITION. The records of a scan-out (R425 to R428): what the cut holds of each island, ring stop, channel and link. R427 says what each record
carries and lays out only its header: the order of the words and lines in a payload, that of R427's table, is the model's (log 43). -/
namespace Sys2Proof.Machine

/-! ### Bytes -/

/-- 8-byte words. -/
def dumpWords (l : List Nat) : List Byte := l.flatMap (natLe 8)

/-- A list of words, its length first. -/
def dumpList (l : List Nat) : List Byte := dumpWords (l.length :: l)

/-- A record of the dump: TYPE, FLAGS, domain, index, payload (R427). -/
def dumpRecord (ty flags dom idx : Nat) (payload : List Byte) : List Byte :=
  fieldBytes [(ty, 2), (flags, 2), (payload.length, 4), (dom, 4), (idx, 4)] ++ payload ++ List.replicate (roundUp payload.length 64 - payload.length) 0#8

/-- A 64-byte line with its metadata: address, length and direction, tag, poison. -/
def dumpLine (addr len : Nat) (write : Bool) (tag : Nat) (poison : Bool) (data : List Byte) : List Byte :=
  padTo 64 data ++ dumpWords [addr, len + 256 * b2n write + 512 * b2n poison, tag]

/-- Poisoned words of a packet's flit j, one bit each of the 31 words of its body. -/
def flitPoison (p : Packet) (j : Nat) : Nat :=
  ((p.poison.filter (fun i => (i + 4) / 31 == j)).map (fun i => 2 ^ ((i + 4) % 31))).foldl (· ||| ·) 0

/-- A packet as 256-byte flits: each body of 248 bytes, and a word that says whether it is the packet's first, its VC and its poisoned words. -/
def dumpFlits (p : Packet) : List Byte :=
  let bs := packetBodies p
  ((List.range bs.length).zip bs).flatMap (fun e => e.2 ++ natLe 8 (b2n (e.1 == 0) + 2 * (p.vc % 8) + 16 * flitPoison p e.1))

/-- An OPE or VE instruction's branch slot: 0 untagged, else the slot plus one. -/
def slotCode (x : Option Nat) : Nat := (x.map (· + 1)).getD 0

/-! ### Tiles -/

/-- TILE_CORE: x1 to x31, PC, STATE, WAIT_KIND, EV0, EV1, the word of an instruction in progress. -/
def State.dumpCore (s : State) (t : Nat) : List Byte :=
  let c := (s.tile t).core
  dumpWords ((List.range 31).map (fun i => c.get (i + 1)) ++ [c.pc, (s.tile t).coreState, c.wait.kind, s.ev0 t, s.evq t,
    if c.wait = .running then 0 else leNat (s.bytes (spdAddr t .cb c.pc) 4)])

/-- Accumulators of n rows and columns of a block. -/
def Ope.dumpAcc (o : Ope) (blk n : Nat) : List Byte :=
  (List.range n).flatMap (fun r => (List.range n).flatMap (fun c => natLe 4 (sget 0 (blk * 16384 + r * 128 + c) o.acc)))

/-- The panels that the running instruction has staged, as its operands' banks hold them. -/
def State.dumpPanels (s : State) (t : Nat) (r : OpeRun) : List Byte :=
  let f := opeFields r.ins
  let d := f.blockDims r.bm r.bn
  let side (sd : Bool) (first count : Nat) : List Byte :=
    (s.stageSpans t f sd first count r.k0 r.lines).flatMap (fun sp => (List.range sp.2).map (fun i => s.spdByte t (sideBank sd) (sp.1 + i) r.ins.slot))
  if r.staged then side false r.bm d.1 ++ side true r.bn d.2 else []

/-- OPE: the queue, the position of the last, T0_STATE and T1_STATE, staged panels, both output tiles. -/
def State.dumpOpe (s : State) (t : Nat) : List Byte :=
  let o := (s.tile t).ope
  let pos := match o.run with
    | some r => [1, r.ins.w0, r.ins.w1, slotCode r.ins.slot, r.bm, r.bn, r.k0, r.sm, r.sn, (r.seg.headD (0, 0)).2, (r.seg.headD (0, 0)).1]
    | none => [0]
  let panels := (o.run.map (s.dumpPanels t)).getD []
  dumpList (o.queue.flatMap (fun i => [i.w0, i.w1, slotCode i.slot])) ++ dumpList pos ++
    dumpWords [o.tileState 0 (o.run.map OpeRun.blk), o.tileState 1 (o.run.map OpeRun.blk), panels.length] ++ panels ++ o.dumpAcc 0 128 ++ o.dumpAcc 1 128

/-- VE: queued words, the pass index of the executing instruction. -/
def State.dumpVe (s : State) (t : Nat) : List Byte :=
  let v := (s.tile t).ve
  dumpList (v.queue.flatMap (fun i => [i.word, i.d, i.a, i.b, i.c, i.n, slotCode i.slot])) ++ dumpList (v.fins.map (fun f => f.passes))

/-- HOIST: active descriptors with their progress, outstanding requests by tag. -/
def State.dumpHoist (s : State) (t : Nat) : List Byte :=
  let h := (s.tile t).hoist
  dumpWords [h.active.length] ++ h.active.flatMap (fun r => dumpList ([r.queue, r.status, r.errAddr, b2n r.waits] ++ r.desc ++ r.acks)) ++ dumpList h.reads

/-- SEAM: active descriptors, group step and state, receive bitmaps, pending READY records, and the drain items on offer to it. -/
def State.dumpSeam (s : State) (t : Nat) : List Byte :=
  let mine := s.colls.filter (fun e => e.2.tile == t)
  let pend := s.collPend.filter (fun e => s.rd .collCfgTile e.1 == t)
  dumpWords [mine.length] ++ mine.flatMap (fun e =>
    dumpList ([e.1, e.2.queue, e.2.seq, e.2.sig, e.2.step, if e.2.committed then 2 else 1] ++ e.2.desc) ++ dumpList e.2.ready ++
      dumpList (e.2.rx.flatMap (fun r => [r.xfer.step, r.xfer.src, r.xfer.inp, r.got.foldl (fun a g => a ||| 2 ^ (g.1 % 64)) 0])) ++ dumpList e.2.rcvd) ++
    dumpWords [pend.length] ++ pend.flatMap (fun e => dumpList (e.1 :: e.2.flatMap (fun r => [r.1, r.2.1, r.2.2]))) ++
    dumpList ((s.tile t).items.flatMap (fun i => [i.queue, i.row, i.col, i.vals.length] ++ i.vals))

/-- SPEC: TILE_SPEC_STATUS, TILE_SPEC_WIN, the four shadow blocks, the shadow store and which of its bytes are held. -/
def State.dumpSpec (s : State) (t : Nat) : List Byte :=
  let x := s.tile t
  dumpWords [s.liveTile .tileSpecStatus t 0, s.liveTile .tileSpecWin t 0] ++ (List.range 4).flatMap (fun i => x.ope.dumpAcc (2 + i) 64) ++
    (List.range 65536).map (fun k => BitVec.ofNat 8 (sget 0 k x.shadow - 1)) ++
    (List.range 8192).map (fun j => BitVec.ofNat 8 (packFields 8 1 (fun b => b2n (sget 0 (8 * j + b) x.shadow != 0))))

/-! ### Rings and channels -/

/-- Timing domain of an end of a path (R30). -/
def RingEnd.domain : RingEnd → Nat
  | .tile t => t % 256
  | .hc k => 281 + k % 16
  | _ => 297

/-- Timing domain of the ring island by which an end enters the rings. -/
def RingEnd.island : RingEnd → Nat
  | .tile t => 256 + tilePb (t % 256)
  | .hc k => 256 + tilePb (16 * hcRow (k % 16) + 2 * (k % 8))
  | .ioDie d => 256 + tilePb (16 * (8 * (d % 2)) + dieCol d)
  | .headframe => 256 + tilePb 112

/-- Timing domain of a requester; which of the housekeeping domains 299 to 311 the debug port is, R30 does not say: the model takes the first (log 43). -/
def whoDomain : Requester → Nat
  | .core t => t % 256
  | .hoist t => t % 256
  | .seam t => t % 256
  | .unit t => t % 256
  | .bar2 => 272
  | .hf _ => 297
  | .dbg => 299

/-- RING: the packets buffered at a stop, each with its direction and VC before its flits. -/
def State.dumpRing (s : State) (stop : Nat) : List Byte :=
  (s.ring.filter (fun r => r.place == stop)).flatMap (fun r =>
    dumpWords [r.dim, r.last, r.path.headD 512, r.pkt.vc, packetFlits r.pkt.len] ++ dumpFlits r.pkt)

/-- Items on their way between two domains, in order of sending: ((source, destination), bytes). Packets that wait to enter the rings or at a port's
transmitter, those that a port has accepted, whole or in part, those that have left the rings, and the lines that wait at banks, controllers and the
host and debug ports. The packet that a port is sending is held by its remaining flits. -/
def State.dumpItems (s : State) : List ((Nat × Nat) × List Byte) :=
  let die (p : Nat) : Nat := (RingEnd.ioDie (p / 2)).island
  let at_ (a : Nat) : Nat := (placeEnd (s.place a)).domain
  s.outbox.map (fun p => (((packetFrom p).domain, (packetFrom p).island), dumpFlits p)) ++
  (s.ring.filter (fun r => decide (256 ≤ r.place))).map (fun r =>
    (match r.arr with
      | some p => (273 + p % 8, die p)
      | none => ((packetFrom r.pkt).domain, (packetFrom r.pkt).island), dumpFlits r.pkt)) ++
  (List.range 8).flatMap (fun p =>
    let x := s.port p
    (x.cur.toList).map (fun c => ((die p, 273 + p), c.bodies.flatMap (fun b => b ++ natLe 8 (2 * (c.vc % 8))))) ++
    x.txq.map (fun q => ((die p, 273 + p), dumpFlits q.pkt)) ++
    x.rxq.map (fun r => ((273 + p, die p), dumpFlits r.pkt)) ++
    (x.opens.filter (fun o => decide (o.need ≠ 0))).map (fun o => ((273 + p, die p), (bodiesOf (o.got + 1) o.bytes).flatMap (fun b => b ++ natLe 8 (2 * (o.vc % 8)))))) ++
  s.dieNet.map (fun a => (((s.ringTo a.pkt).island, (s.ringTo a.pkt).domain), dumpFlits a.pkt)) ++
  (List.range 256).flatMap (fun t => allBanks.flatMap (fun b => (s.bank t b).waiting.map (fun w =>
    ((whoDomain w.req.who, t), dumpLine (spdAddr t b w.req.off) w.req.len w.req.write w.req.tag w.req.poison w.req.data)))) ++
  s.bandHeld.map (fun r => ((whoDomain r.who, at_ r.addr), dumpLine r.addr r.len r.write r.tag r.poison r.data)) ++
  s.adit.writes.map (fun w => ((272, at_ w.addr), dumpLine w.addr w.data.length true w.id w.poison w.data)) ++
  s.adit.reads.flatMap (fun r => r.lines.map (fun l => ((272, at_ l.1), dumpLine l.1 l.2 false 0 false []))) ++
  s.mod.jtagWait.filterMap (fun i => match i with
    | .debugRead a n => some ((299, at_ a), dumpLine a n false 0 false [])
    | .debugWrite a bs => some ((299, at_ a), dumpLine a bs.length true 0 false bs)
    | _ => none)

/-- CHANNEL records: one for each pair of domains that has items. -/
def State.dumpChannels (s : State) : List (Nat × Nat × Nat × Nat × List Byte) :=
  let items := s.dumpItems
  ((items.map Prod.fst).eraseDups).map (fun k => (0x30, 1, k.1 + 65536 * k.2, 0, (items.filter (fun e => e.1 == k)).flatMap Prod.snd))

/-- LINK: LAST_SEQ, then the recorded flits, each with KIND, VC and poisoned words. -/
def Port.dumpLink (x : Port) : List Byte :=
  dumpWords [x.marker.getD 0, x.record.length] ++ x.record.flatMap (fun f =>
    padTo 248 f.2.2.1 ++ natLe 8 (f.1 + 4 * f.2.1 + 32 * (f.2.2.2.foldl (fun a i => a ||| 2 ^ (i % 31)) 0)))

/-! ### The dump (R427, R428) -/

/-- The records that follow the DEVICE record: (TYPE, FLAGS, domain, index, payload). A tile or port reset in the stop left it, and its records are
not VALID (R426). -/
def State.dumpHeads (s : State) : List (Nat × Nat × Nat × Nat × List Byte) :=
  let flags (t : Nat) : Nat := b2n (s.tile t).stopped
  let tiles := (List.range 256).flatMap (fun t =>
    [(0x10, flags t, t, t, s.dumpCore t), (0x11, flags t, t, t, s.dumpOpe t), (0x12, flags t, t, t, s.dumpVe t), (0x13, flags t, t, t, s.dumpHoist t),
      (0x14, flags t, t, t, s.dumpSeam t), (0x15, flags t + 2, t, t, s.dumpSpec t)])
  let rings := (List.range 256).map (fun r => (0x20, 1, 256 + tilePb r, r, s.dumpRing r))
  let links := ((List.range s.variant.ports).filter (fun p =>
      (s.port p).marker.isSome || bitOf (s.rd .dbgHaltStatusLinkLost) p || !(s.port p).halted)).map (fun p =>
    (0x31, b2n (s.port p).halted + (if bitOf (s.rd .dbgHaltStatusLinkLost) p then 4 else 0), 273 + p, p, (s.port p).dumpLink))
  tiles ++ rings ++ s.dumpChannels ++ links

/-- Bytes of a dump at most: 72 MiB (R428). -/
def dumpMax : Nat := 75497472

/-- Builds the dump, record after record, until one does not fit: the bytes, the record count and whether all fit. A payload that would take the dump
beyond 72 MiB is cut there: the device holds no more, a state of the model may. -/
def dumpBuild (cap : Nat) : List (Nat × Nat × Nat × Nat × List Byte) → List Byte → Nat → List Byte × Nat × Bool
  | [], acc, n => (acc, n, true)
  | h :: rest, acc, n =>
    let room := dumpMax - 80 - (16 * rest.length + 16) - acc.length
    let r := dumpRecord h.1 h.2.1 h.2.2.1 h.2.2.2.1 (h.2.2.2.2.take (room / 64 * 64))
    if acc.length + r.length + 80 > cap then (acc, n, false) else dumpBuild cap rest (acc ++ r) (n + 1)

/-- The whole dump as bytes, whether it is complete, and the CRC that END holds: DEVICE, the rest, END. The layout of DEVICE and END, in 8-byte words,
is the model's, and so is the domain number 0 of their headers, for which R427 names no domain of R30 (DESIGN CHOICE, log 43). -/
def State.dump (s : State) (cap : Nat) : List Byte × Bool × Nat :=
  let dev := dumpRecord 1 1 0 0 (fieldBytes [(s.rd .dbgHaltId, 8), (s.rd .dbgHaltAt, 8), (s.rd .dbgHaltOrigin, 8), (s.dbg.originAt, 8),
    (s.rd .fabDevIdId, 8), (s.word 0x40 {}, 8), (s.rd .hfFwVersion, 8)])
  let r := if dev.length + 80 > cap then ([], 0, false) else dumpBuild cap s.dumpHeads dev 1
  let body := r.1
  let fin := dumpRecord 0xFFFF (1 + (if r.2.2 then 0 else 4)) 0 0 (fieldBytes [(r.2.1 + 1, 8), (body.length + 80, 8), (crc32c body, 8)])
  (if cap < 80 then [] else body ++ fin, r.2.2, crc32c body)

end Sys2Proof.Machine
end

