-- ==== Sys2Proof/Machine/Debug.lean ====
section
/-! DEFINITION. Global stop, scan-out, resume, the program-counter sampler and debug access (R417 to R434). -/
namespace Sys2Proof.Machine

/-! ### Register writes of a tile -/

/-- What a write does at an offset of a tile's register set, at once: registers with an effect of their own, or plain storage. -/
def State.tileRegStore (s : State) (off t q v : Nat) : State :=
  if off = 0x06050004 then s.qcfgWrite t q v
  else if off = 0x06008510 then s.phaseWrite t (v % 2 ^ 16)
  else if 0x06008600 ≤ off ∧ off < 0x06008700 ∧ off % 4 = 0 then s.semWrite t ((off - 0x06008600) / 4) v
  else if 0x06040100 ≤ off ∧ off < 0x06040240 ∧ (off - 0x06040100) % 64 = 0 then
    match allBanks[(off - 0x06040100) / 64]? with
    | some b => if bitOf v 1 then s.spdClear t b else s
    | none => s
  else s.storeWord off { tile := t, q := q } v

/-- A register write that reaches a tile: held while the tile is stopped (R426). -/
def State.tileWrite (s : State) (off t q v : Nat) : State := s.islandWrite off t q v (fun s => s.tileRegStore off t q v)

/-! ### The halt wave (R421 to R424) -/

/-- A HALT flit that this device sends on a port. -/
def State.haltFlit (s : State) (p action : Nat) : Ctrl :=
  .halt action (s.port p).seq (s.rd .dbgHaltId) (s.rd .dbgHaltOrigin) s.dbg.originAt

/-- Sends HALT on every UP port in PROPAGATE (R423, R429). -/
def State.haltSend (s : State) (action : Nat) : State :=
  (List.range 8).foldl (fun s p =>
    if (s.port p).mode = .up ∧ bitOf (s.rd .dbgHaltCtrlPropagate) p then
      s.onPort p (fun x => { x with ctrl := x.ctrl ++ [s.haltFlit p action] })
    else s) s

/-- A halt wave begins (R421): all islands stop, transmitters halt, links of UP ports are recorded. -/
def State.haltBegin (s : State) (id origin stamp : Nat) : State :=
  let s := ((s.wr .dbgHaltId 0 0 id).wr .dbgHaltAt 0 0 s.tally).wr .dbgHaltOrigin 0 0 origin
  let s := (s.wr .dbgHaltStatusStopping 0 0 1).wr .dbgHaltStatusLinkLost 0 0 0
  let s := { s with dbg := { s.dbg with wave := s.tally, originAt := stamp, dumped := false } }
  let s := (List.range 256).foldl (fun s t => s.onTile t (fun x => { x with stopped := true })) s
  let s := (List.range 8).foldl (fun s p => s.onPort p (fun x =>
    { x with halted := true, marker := none, linkShut := x.mode != .up, record := [], late := [], past := false })) s
  s.haltSend 0

/-- DBG_HALT_GO_WRITE: the debug broker writes DBG_HALT_CTRL. HALT_ID 0 begins no wave, nor does GO during a stop (R423, R426). A stop that no
command names a dump address for leaves no dump (R427). -/
def State.haltGo (s : State) (v id : Nat) : State :=
  let s := (s.wr .dbgHaltCtrlAccept 0 0 (v / 2 ^ 29)).wr .dbgHaltCtrlPropagate 0 0 (v / 2 ^ 16)
  if !bitOf v 31 ∨ id % 2 ^ 64 = 0 ∨ s.inStop then s
  else { s with dbg := { s.dbg with dumpAt := 0, purpose := 0 } }.haltBegin id (s.rd .fabDevIdId) s.tally

/-- The ports of the variant whose links are not UP, one bit each. -/
def State.portsNotUp (s : State) : Nat := packFields s.variant.ports 1 (fun p => b2n ((s.port p).mode != .up))

/-- HALT_COMPLETE (R421): every island has stopped. The event's data are HALT_ID, DBG_HALT_AT and the ports whose links are not UP (log 43). -/
def State.haltComplete (s : State) : State :=
  if !s.on .dbgHaltStatusStopping then s
  else (((s.wr .dbgHaltStatusStopping 0 0 0).wr .dbgHaltStatusHalted 0 0 1).bump .dbgHalts).postEvent 0x0501 4
    (fieldBytes [(s.rd .dbgHaltId, 8), (s.rd .dbgHaltAt, 8), (s.portsNotUp, 8)])

/-- A link's marker has come (R423): the peer's LAST_SEQ, up to which everything may have come already (R424). -/
def State.linkMark (s : State) (p lastSeq : Nat) : State :=
  s.onPort p (fun x => if x.halted ∧ x.marker.isNone then { x with marker := some (lastSeq % 1024), past := x.past || x.got == lastSeq % 1024 } else x)

/-- HALT_FLIT_RECEIVE (R423). -/
def State.haltReceive (s : State) (p lastSeq id origin stamp : Nat) : State :=
  if (s.port p).mode ≠ .up then s
  else
    let id := id % 2 ^ 64
    if id = 0 ∨ !s.on .dbgHaltCtrlAccept then s.bump .dbgHaltReject
    else if s.inStop then
      let s := s.linkMark p lastSeq
      if id = s.rd .dbgHaltId then s else s.bump .dbgHaltMerged
    else if id = s.rd .dbgHaltId then s
    else ({ s with dbg := { s.dbg with dumpAt := 0, purpose := 0 } }.haltBegin id origin stamp).linkMark p lastSeq

/-- LINK_RECORD_TIMEOUT (R424): a link whose peer has sent no marker within 1 ms is closed incomplete. -/
def State.linkTimeout (s : State) (p : Nat) : State :=
  if s.inStop ∧ (s.port p).marker.isNone ∧ s.tally ≥ s.dbg.wave + 1000000 then s.linkLost p else s

/-! ### Scan-out (R427, R428) -/

/-- A headframe core writes bytes of one unit (R49 to R51, R233, R348): whether its program goes on. What its MPU blocks and what reaches nothing
faults it; a line that its controller discards is counted, and the core goes on (log 24). A write of registers stores their fields; one that is no
whole words faults as an access of another size does (R60). -/
def State.hfUnit (s : State) (core a : Nat) (bs : List Byte) : State × Bool :=
  if !s.mpuMay core a bs.length 1 then (s.busFault core, false)
  else match s.place a with
  | .sram _ => (s.setBytes a bs, true)
  | .reg off =>
    if off % 4 ≠ 0 ∨ bs.length % 4 ≠ 0 then (s.busFault core, false)
    else ((List.range (bs.length / 4)).foldl (fun s i => s.storeWord (off + 4 * i) {} (leNat ((bs.drop (4 * i)).take 4))) s, true)
  | _ => match s.accessAt a with
    | .ok => (s.unitWrite a bs false, true)
    | .discarded c => (s.cnt .hbmResetDiscard c 0 1, true)
    | _ => ((s.reach a).1.decodeError (.hf core) a, false)

/-- Writes bytes at a device address as a headframe core does, unit after unit until one faults; their lines pass the rings (R282, R416). -/
def State.hfWrite (s : State) (core a : Nat) (bs : List Byte) : State :=
  let r := (spanUnits a bs.length).foldl (fun (acc : State × Bool × Nat) u =>
    if acc.2.1 then
      let q := acc.1.hfUnit core u.1 ((bs.drop (u.1 - a)).take u.2)
      (q.1, q.2, if q.2 then acc.2.2 + u.2 else acc.2.2)
    else acc) (s, true, 0)
  (r.1.spanCount a r.2.2).lineFlits .headframe a r.2.2 false

/-- SCAN_OUT (R427, R428): due once the device is halted and every link record is closed, when a dump address was named. The event of a complete dump
carries its length and the CRC-32C that its END record holds (log 43). -/
def State.scanOut (s : State) : State :=
  let d := s.dbg
  if !s.on .dbgHaltStatusHalted ∨ !s.linksClosed ∨ (d.dumpAt = 0 ∧ d.purpose ≠ 2) ∨ d.dumped then s
  else
    let r := s.dump d.dumpCap
    if (s.heldAt [(d.dumpAt, r.1.length)]).isSome then s else
    let s := s.hfWrite 0 d.dumpAt r.1
    let s := { s with dbg := { s.dbg with dumped := true, dumpLen := r.1.length, short := !r.2.1 } }
    if d.purpose = 2 then s
    else if r.2.1 then s.postEvent 0x0502 4 (fieldBytes [(r.1.length, 8), (r.2.2, 4)])
    else s.postEventFree 0x0503 4

/-! ### Resume (R426, R429) -/

/-- Moves the deadlines that islands and the skip engine derive from tally intervals by the time that they were halted, d ns or, for what began in the
stop, the time since (R426, R469). -/
def State.shiftDeadlines (s : State) (d : Nat) : State :=
  let on (stamp : Nat) : Nat := stamp + min d (s.tally - stamp)
  let tile (x : Tile) : Tile :=
    { x with
      hoist := { x.hoist with active := x.hoist.active.map (fun r => if r.lastSent = 0 then r else { r with lastSent := on r.lastSent }) }
      slots := x.slots.map (fun e => (e.1, { e.2 with openedAt := if e.2.mode = .free then e.2.openedAt else on e.2.openedAt }))
      banks := x.banks.map (fun e => (e.1, { e.2 with clearing := e.2.clearing.map on })) }
  let coll (x : Coll) : Coll :=
    { x with rxAt := on x.rxAt, progressAt := on x.progressAt, kept := x.kept.map (fun k => { k with sentAt := on k.sentAt }) }
  { s with tiles := s.tiles.map (fun e => (e.1, tile e.2)), colls := s.colls.map (fun e => (e.1, coll e.2)),
           skip := { s.skip with chunks := s.skip.chunks.map (fun k => { k with sentAt := on k.sentAt }) } }

/-- Delivers a port's link record in its order and lets the port go on (R429). -/
def State.linkRelease (s : State) (p : Nat) : State :=
  (s.recordTake p).onPort p (fun x => { x with halted := false, marker := none, linkShut := false, past := false })

/-- Tiles go on: the hang detector judges them from now on (R450). -/
def State.unstop (s : State) (t : Nat) : State :=
  { s.onTile t (fun x => { x with stopped := false }) with quietFrom := sput 0 t s.tally s.quietFrom }

/-- The device resumes (R429): resume flits, islands, link records, held register writes. -/
def State.haltResume (s : State) : State :=
  if !s.inStop then s
  else
    let s := s.haltSend 1
    let s := s.shiftDeadlines (s.tally - s.rd .dbgHaltAt)
    let s := (List.range 256).foldl (fun s t => if (s.tile t).stopped then s.unstop t else s) s
    let s := (s.wr .dbgHaltStatusHalted 0 0 0).wr .dbgHaltStatusStopping 0 0 0
    let s := (List.range 8).foldl State.linkRelease s
    let held := s.dbg.heldWrites
    held.foldl (fun s w => s.tileRegStore w.off w.tile w.q w.v) { s with dbg := { s.dbg with heldWrites := [] } }

/-- DBG_HALT_RESUME_WRITE. -/
def State.resumeWrite (s : State) (v : Nat) : State :=
  let s := (s.wr .dbgHaltCtrlAccept 0 0 (v / 2 ^ 29)).wr .dbgHaltCtrlPropagate 0 0 (v / 2 ^ 16)
  if bitOf v 30 then s.haltResume else s

/-- RESUME_FLIT_RECEIVE (R423, R429): the first resume flit of the device's HALT_ID. -/
def State.resumeReceive (s : State) (p id : Nat) : State :=
  if (s.port p).mode ≠ .up then s
  else if id % 2 ^ 64 = 0 ∨ !s.on .dbgHaltCtrlAccept then s.bump .dbgHaltReject
  else if s.inStop ∧ id % 2 ^ 64 = s.rd .dbgHaltId then s.haltResume else s

/-- FLIT_RECEIVE with the halt and resume flits read as R423 lays them out. -/
def State.flitArrive (s : State) (p : Nat) (f : Flit) : State :=
  let at_ (i n : Nat) : Nat := leNat ((f.body.drop i).take n)
  let s' := s.flitReceive p f
  if (s.port p).mode = .up ∧ flitGood f ∧ flitKind f = 3 ∧ at_ 0 1 = 4 then
    if at_ 1 1 = 0 then s'.haltReceive p (at_ 4 2 % 1024) (at_ 8 8) (at_ 16 3 % 2 ^ 20) (at_ 24 8)
    else if at_ 1 1 = 1 then s'.resumeReceive p (at_ 8 8) else s'
  else s'

/-! ### The sampler (R417 to R420) -/

/-- The OPE field of a sample (R418). Several of its codes may hold at once; the model gives the first in the order seam, drain stall,
operands, hold, scanning, stepping. Whether an instant in which the governor or the droop response holds steps back falls in a held step is
the free value h (log 56). -/
def State.pcsOpe (s : State) (t h : Nat) : Nat :=
  let x := s.tile t
  match x.ope.run with
  | some r =>
    if !x.items.isEmpty then 4
    else if x.drainStalled then 3
    else if x.operandWaits || x.holds 1 then 2
    else if x.mayIssue ∧ s.issueEff (tilePb t) < 64 ∧ Config.freeValue (h + t) % 2 = 1 then 5
    else if r.seg.isEmpty && r.scans != 0 then 6
    else 1
  | none => if !x.items.isEmpty then 4 else if x.ope.drains.isEmpty then 0 else 7

/-- A tile's record (R418); free values from h on. -/
def State.pcsRecord (s : State) (h t : Nat) : Nat :=
  let x := s.tile t
  let spec := (List.range 4).foldl (fun a i => a + (if (s.slot t i).mode = .free then 0 else 2 ^ i)) 0
  t * 2 ^ 56 + x.coreState * 2 ^ 54 + x.core.wait.kind * 2 ^ 50 + s.pcsOpe t h * 2 ^ 47 + b2n (!x.ve.fins.isEmpty) * 2 ^ 46 +
    x.hoist.active.length * 2 ^ 43 + (s.colls.filter (fun e => e.2.tile == t)).length * 2 ^ 40 + spec * 2 ^ 36 + x.core.pc

/-- Tiles that a sample captures. -/
def State.pcsTiles (s : State) : List Nat :=
  (List.range 256).filter (fun t => bitOf (s.rd .dbgPcsTiles 0 (t / 32)) (t % 32) && (s.tile t).tallyValid && !(s.tile t).gated)

/-- Writes bytes for an engine of the headframe: units that answer are written, and their lines pass the rings (R416). A line of a band whose mode is
changing waits there (R54). -/
def State.enginePut (s : State) (a : Nat) (bs : List Byte) : State :=
  (spanUnits a bs.length).foldl (fun s u =>
    let piece := (bs.drop (u.1 - a)).take u.2
    match s.accessAt u.1 with
    | .ok => (s.unitWrite u.1 piece false).lineFlits .headframe u.1 u.2 false
    | .discarded c => (s.cnt .hbmResetDiscard c 0 1).lineFlits .headframe u.1 u.2 false
    | .held => { s with bandHeld := s.bandHeld ++ [(⟨u.1, true, u.2, piece, false, 0, .hf 2⟩ : HbmReq)] }.lineFlits .headframe u.1 u.2 false
    | _ => s) s

/-- Writes bytes into the sampler's ring from a free-running offset on. -/
def State.pcsWrite (s : State) (base size off : Nat) (bs : List Byte) : State :=
  let o := off % size
  let n := min bs.length (size - o)
  (s.enginePut (base + o) (bs.take n)).enginePut base (bs.drop n)

/-- PCS_SAMPLE (R417): due at a tally instant that is a multiple of the interval, once. While the tally slews, a nanosecond of the model moves it by two
(R35): a multiple that it has just passed is sampled then. -/
def State.pcsSample (s : State) : State :=
  let iv := max 1000 (s.rd .dbgPcsIntervalNs)
  let due := s.tally / iv * iv
  let base := s.rd .dbgPcsBase
  let lg := s.rd .dbgPcsCfgLog2Bytes
  let inHbm := match s.place base with
    | .hbm _ _ => true
    | _ => false
  if !s.on .dbgPcsCfgEn ∨ s.tally > due + 1 ∨ due < s.dbg.pcsNext ∨ !inHbm ∨ lg < 12 ∨ lg > 30 then s
  else
    let recs := s.pcsTiles.map (s.pcsRecord s.free)
    let s := { s with free := s.free + 256 }
    let seq := s.dbg.pcsSeq
    let bs := fieldBytes ([(due, 8), (seq * 2 ^ 32 + recs.length * 2 ^ 16 + 0x5C5C, 8)] ++ recs.map (fun r => (r, 8)))
    let head := s.rd .dbgPcsHead
    let used := (2 ^ 32 + head - s.rd .dbgPcsTail) % 2 ^ 32
    let s := { s with dbg := { s.dbg with pcsNext := due + 1, pcsSeq := (seq + 1) % 2 ^ 32 } }
    if used + bs.length > 2 ^ lg then s.bump .dbgPcsDrop
    else ((s.pcsWrite base (2 ^ lg) head bs).wr .dbgPcsHead 0 0 (head + bs.length)).bump .dbgPcsSamples

/-- PCS_CFG (R420). -/
def State.pcsCfg (s : State) (c : Nat) : State :=
  s.ycp c 0x0505 (fun s r =>
    let base := s.pay r.chan 0 8 % 2 ^ 48
    let lg := s.pay r.chan 8 1 % 32
    let moved := base ≠ s.rd .dbgPcsBase ∨ lg ≠ s.rd .dbgPcsCfgLog2Bytes
    if moved ∧ s.on .dbgPcsCfgEn then done s 8
    else
      let s := if moved then ((s.wr .dbgPcsBase 0 0 base).wr .dbgPcsCfgLog2Bytes 0 0 lg).wr .dbgPcsTail 0 0 (s.rd .dbgPcsHead) else s
      let s := s.wr .dbgPcsIntervalNs 0 0 (s.pay r.chan 12 4)
      let s := (List.range 8).foldl (fun s i => s.wr .dbgPcsTiles 0 i (s.pay r.chan (16 + 4 * i) 4)) s
      let s := if s.on .dbgPcsCfgEn then s else { s with dbg := { s.dbg with pcsNext := max s.dbg.pcsNext s.tally } }
      done (s.wr .dbgPcsCfgEn 0 0 (s.pay r.chan 9 1)) 0)

/-- How far a 32-bit ring index a lies ahead of b. -/
def ahead32 (a b : Nat) : Nat := (2 ^ 32 + a - b) % 2 ^ 32

/-- PCS_TAIL (R420): a TAIL beyond HEAD or behind the current one is refused. -/
def State.pcsTail (s : State) (c : Nat) : State :=
  s.ycp c 0x0506 (fun s r =>
    let new := s.pay r.chan 0 4
    if ahead32 new (s.rd .dbgPcsTail) > ahead32 (s.rd .dbgPcsHead) (s.rd .dbgPcsTail) then done s 6
    else done (s.wr .dbgPcsTail 0 0 new) 0)

/-! ### Debug access (R430 to R434) -/

/-- BREAK (R430): stops its own tile core while access is open; otherwise it retires and is counted. -/
def State.break_ (s : State) (t : Nat) : State :=
  s.coreRow t .brk (fun s _ =>
    let s := s.retire t
    if s.on .dbgLockOpen then s.onCore t (fun c => { c with mode := .broken }) else s.bump .dbgBreakIgnored)

/-- A tile core stopped by BREAK goes on. -/
def State.unbreak (s : State) (t : Nat) : State :=
  if (s.tile t).core.mode = .broken then s.onCore t (fun c => { c with mode := .running }) else s

/-- Debug access closes (R431, R434): cores stopped by BREAK resume, and accesses of the debug port that still wait reach nothing. -/
def State.debugClose (s : State) : State :=
  let s := (s.wr .dbgLockOpen 0 0 0).wr .dbgLockPerms 0 0 0
  let s := { s with mod := { s.mod with jtagWait := [] } }
  (List.range 256).foldl State.unbreak s

/-- DEBUG_ACCESS_EXPIRY (R434). -/
def State.debugExpiry (s : State) : State := if s.on .dbgLockOpen ∧ s.tally ≥ s.rd .dbgOpenUntil then s.debugClose else s

/-- NONCE_EXPIRY (R432): 300 s after its issue a nonce is no longer valid. -/
def State.nonceExpiry (s : State) : State :=
  if s.dbg.nonce.isSome ∧ s.tally ≥ s.dbg.nonceAt + 300000000000 then { s with dbg := { s.dbg with nonce := none } } else s

/-- DBG_CHALLENGE (R432, R482). -/
def State.dbgChallenge (s : State) (c : Nat) : State :=
  s.ycp c 0x0501 (fun s _ =>
    if !s.on .secStatusIdValid then done s 8
    else
      let r := s.takeFree
      let nonce := natLe 32 r.1
      let s := { r.2 with dbg := { r.2.dbg with nonce := some nonce, nonceAt := s.tally } }
      (s, some (0, nonce ++ identityHash ++ natLe 8 s.tally)))

/-- Does an awl token open access (R433, R434)? The nonce in the state is the one to match; `now` judges its age. -/
def State.tokenOk (s : State) (tok : List Byte) : Bool :=
  let n (off len : Nat) : Nat := leNat ((tok.drop off).take len)
  let key := if n 100 4 = 0 then s.recInForce 4 else if n 100 4 = 1 then s.recInForce 6 else none
  n 0 4 == 0x4C574B41 && n 4 2 == 1 && decide (n 6 2 < 8) && allZero ((tok.drop 8).take 8) && allZero ((tok.drop 104).take 56) &&
    (tok.drop 16).take 48 == identityHash && s.dbg.nonce == some ((tok.drop 64).take 32) &&
    decide (s.tally < s.dbg.nonceAt + 300000000000) && decide (1 ≤ n 96 4 ∧ n 96 4 ≤ 604800) &&
    key.any (fun k => sigOk k (tok.take 160) (tok.drop 160))

/-- DBG_UNLOCK (R434): LEN 0 closes access. -/
def State.dbgUnlock (s : State) (c : Nat) : State :=
  s.ycp c 0x0502 (fun s r =>
    let answer (s : State) : State × Option (Nat × List Byte) :=
      (s, some (0, fieldBytes [(s.rd .dbgOpenUntil, 8), (s.rd .dbgLockPerms, 2)]))
    if s.reqNat r.chan 8 2 = 0 then answer s.debugClose
    else
      let tok := s.payBytes r.chan 0 256
      let good := s.tokenOk tok
      let s := { s with dbg := { s.dbg with nonce := none } }
      if good then
        let s := s.wr .dbgOpenUntil 0 0 (s.tally + leNat ((tok.drop 96).take 4) * 1000000000)
        let s := (s.wr .dbgLockPerms 0 0 (leNat ((tok.drop 6).take 2))).wr .dbgLockOpen 0 0 1
        answer ((s.bump .dbgUnlocks).postEventFree 0x0504 4)
      else done ((s.bump .dbgUnlockFail).postEventFree 0x0505 4) 0xC)

/-- GLOBAL_STOP (R421, R423, R426, R430). -/
def State.globalStop (s : State) (c : Nat) : State :=
  s.ycp c 0x0503 (fun s r =>
    let id := s.pay r.chan 0 8
    if id = 0 ∨ bitOf id 63 then done s 6
    else if s.inStop then done s 8
    else
      let s := s.wr .dbgHaltCtrlPropagate 0 0 (s.pay r.chan 24 1)
      let s := { s with dbg := { s.dbg with dumpAt := s.pay r.chan 8 8, dumpCap := s.pay r.chan 16 8, purpose := 1 } }
      let s := s.haltBegin id (s.rd .fabDevIdId) s.tally
      (s, some (0, natLe 8 (s.rd .dbgHaltAt))))

/-- RESUME (R429, R430): scope 0 resumes the device whose HALT_ID is named, scope 1 a tile core stopped by BREAK. -/
def State.resumeCmd (s : State) (c : Nat) : State :=
  s.ycp c 0x0504 (fun s r =>
    let scope := s.pay r.chan 8 1
    if scope = 0 then
      if s.pay r.chan 0 8 ≠ s.rd .dbgHaltId then done s 6 else done s.haltResume 0
    else if scope = 1 then
      if !s.on .dbgLockOpen ∨ !bitOf (s.rd .dbgLockPerms) 1 then done s 0xD else done (s.unbreak (s.pay r.chan 9 1)) 0
    else done s 6)

/-! ### The commands -/

def execBrk (t : TileId) (s : State) : Result := .next (s.break_ t)
def execDbgHaltGoWrite (v id : Nat) (s : State) : Result := .next (s.haltGo v id)
def execDbgHaltResumeWrite (v : Nat) (s : State) : Result := .next (s.resumeWrite v)
def execHaltComplete (s : State) : Result := .next s.haltComplete
def execFlitReceive (p : PortId) (f : Flit) (s : State) : Result :=
  if f.body.length = 248 then .next (s.flitArrive p f) else .refused (.illFormed "FLIT_RECEIVE")
def execHaltFlitReceive (p : PortId) (lastSeq id origin stamp : Nat) (s : State) : Result :=
  .next (s.haltReceive p lastSeq id origin stamp)
def execResumeFlitReceive (p : PortId) (id : Nat) (s : State) : Result := .next (s.resumeReceive p id)
def execLinkRecordTimeout (p : PortId) (s : State) : Result := .next (s.linkTimeout p)
def execScanOut (s : State) : Result := .next s.scanOut
def execPcsSample (s : State) : Result := .next s.pcsSample
def execDebugAccessExpiry (s : State) : Result := .next s.debugExpiry
def execNonceExpiry (s : State) : Result := .next s.nonceExpiry
def execDbgChallenge (c : ChanId) (s : State) : Result := .next (s.dbgChallenge c)
def execDbgUnlock (c : ChanId) (s : State) : Result := .next (s.dbgUnlock c)
def execGlobalStop (c : ChanId) (s : State) : Result := .next (s.globalStop c)
def execResume (c : ChanId) (s : State) : Result := .next (s.resumeCmd c)
def execPcsCfg (c : ChanId) (s : State) : Result := .next (s.pcsCfg c)
def execPcsTail (c : ChanId) (s : State) : Result := .next (s.pcsTail c)

end Sys2Proof.Machine
end

