-- ==== Sys2Proof/Machine/Long.lean ====
section
/-! DEFINITION. Support for long runs: skip snapshots, the CRC unit, numeric-health samples and backfill (R461 to R475). -/
namespace Sys2Proof.Machine

/-! ### CRC codes (R470) -/

/-- One bit step of a non-reflected code of w bits. -/
def crcMsbStep (w poly c : Nat) : Nat := if bitOf c (w - 1) then (2 * c % 2 ^ w) ^^^ poly else 2 * c % 2 ^ w

/-- Feeds one byte to a non-reflected code. -/
def crcMsbByte (w poly c : Nat) (b : Byte) : Nat :=
  (List.range 8).foldl (fun c _ => crcMsbStep w poly c) (c ^^^ (b.toNat * 2 ^ (w - 8)))

/-- Initial value of a code. -/
def crcInit (poly : Nat) : Nat := [0xFFFFFFFF, 0xFFFFFFFF, 0, 0xFFFF].getD (poly % 4) 0

/-- Feeds one byte to a code. -/
def crcFeed (poly c : Nat) (b : Byte) : Nat :=
  match poly % 4 with
  | 0 => crc32Byte c b
  | 1 => crc32cByte c b
  | 2 => crcMsbByte 64 0x42F0E1EBA9EA3693 c b
  | _ => crcMsbByte 16 0x1021 c b

/-- A code of a byte string. -/
def crcOf (poly : Nat) (bs : List Byte) : Nat := crcFinal poly (bs.foldl (crcFeed poly) (crcInit poly))

/-! ### The register feed (R471) -/

/-- An access of the feed holds its core until the feed is free: each cycle of the hold counts. Answers when it goes on. -/
def State.crcHold (s : State) : Nat × State :=
  (max s.tally s.crc.busyTill, s.cnt .crcRegStallNs 0 0 (s.crc.busyTill - s.tally))

/-- A write by a headframe core takes place while the headframe's clock runs (R382). -/
def State.hfAwake (s : State) (f : State → State) : State := if s.ic.asleep then s else f s

/-- CRC_CTRL_WRITE. -/
def State.crcCtrl (s : State) (v : Nat) : State :=
  let s := s.crcHold.2.wr .crcCtrlPoly 0 0 v
  { s with crc := { s.crc with value := crcInit (v % 4) } }

/-- Feeds n bytes, least significant first. -/
def State.crcData (s : State) (n v : Nat) : State :=
  let h := s.crcHold
  let s := h.2.cnt .crcRegBytes 0 0 n
  { s with crc := { value := (natLe n v).foldl (crcFeed (s.rd .crcCtrlPoly)) s.crc.value, busyTill := h.1 + n } }

/-- CRC_RESULT_READ. -/
def State.crcRead (s : State) (a : Agent) : State := s.crcHold.2.answer a s.crcResult

/-! ### Memory as the headframe's engines see it -/

/-- How an address answers to an engine at the headframe end stations: as to other units, and SRAM and the ROM decode. -/
def State.hfAccess (s : State) (a : Nat) : Access :=
  match s.place a with
  | .sram _ => .ok
  | .rom _ => .ok
  | _ => s.accessAt a

/-- Range of R47 that an address lies in. -/
def rangeOf (a : Nat) : Nat :=
  if a < 0x80000000 then 0 else if a < 0x100400000 then 1 else if a < 0x200000000 then 2 else if a < 0x10000000000 then 3 else 4

/-- Do n bytes decode wholly? Within a 64-byte line an address decodes as its line does. -/
def State.decodes (s : State) (a n : Nat) : Bool :=
  (List.range (linesOf a n)).all (fun i =>
    match s.place ((a / 64 + i) * 64) with
    | .undecoded => false
    | .reg _ => false
    | _ => true)

/-- Bytes of a span ahead of the first unit that does not answer an engine of the headframe. -/
def State.hfOk (s : State) (a n : Nat) : Nat := prefixOk (fun u => s.hfAccess u == .ok) (spanUnits a n)

/-- What a read meets at a line that stops it: a gated tile's bank counts it (R221), and so does the controller that discards it (R233). -/
def State.lineStop (s : State) (a : Nat) : State :=
  match s.hfAccess a with
  | .discarded c => s.cnt .hbmResetDiscard c 0 1
  | _ => (s.reach a).1

/-- Clearing banks that spans meet count the access that they hold (R223), once: not when it is tried `again`. -/
def State.lineHold (s : State) (spans : List (Nat × Nat)) (again : Bool) : State :=
  if again then s
  else (s.spanBanks spans).foldl (fun s l =>
    match s.place l with
    | .spd t b _ => if s.clearing t b then s.cnt .spdClearHold t (bankIdx b) 1 else s
    | _ => s) s

/-- A read of a span by an engine at the headframe end stations, of priority 6 at a bank (R213, R463): deferrals, ECC effects, grants, and the flits that
pass the rings (R416). -/
def State.engineRead (s : State) (a n : Nat) : State :=
  ((s.lineDefer a n (fun _ => 6) none).spanRead a n).1.lineFlits .headframe a n true

/-! ### CRC_SCAN (R472) -/

/-- The bytes of a span with every poisoned word as ones, the poisoned words, and the state after the reads. -/
def State.scanRead (s : State) (a n : Nat) : State × List Byte × Nat :=
  let bad (i : Nat) : Bool := s.memBad (a + i)
  let data := (List.range n).map (fun i => if bad i then 0xFF#8 else s.memByte (a + i))
  let words := (((List.range n).filter bad).map (fun i => (a + i) / 8)).eraseDups.length
  (s.engineRead a n, data, words)

/-- CRC_SCAN (R472). Parameters are checked before STATE (R364). A line that waits for its bank holds the command; the first that lies in a gated
tile's bank, or that a controller discards, fails it as one that does not decode (log 24). -/
def State.crcScan (s : State) (c : Nat) : State :=
  s.ycp c 0x0602 (fun s r =>
    let a := s.pay r.chan 0 8
    let n := s.pay r.chan 8 8
    let poly := s.pay r.chan 16 1
    let st := s.rd .skpStatusState
    let m := s.hfOk a n
    if n = 0 ∨ n > 2 ^ 36 ∨ poly > 3 ∨ !s.decodes a n then done s 6
    else if st = 2 ∨ st = 3 then done s 8
    else if m < n then
      if s.hfAccess (a + m) = .held then (s.lineHold [(a, n)] r.began, none) else done (s.lineStop (a + m)) 6
    else
        let d := s.scanRead a n
        let s := (d.1.cnt .crcScanBytes 0 0 n).irq 439
        (s, some (0, fieldBytes [(crcOf poly d.2.1, 8), (d.2.2, 4)])))

/-! ### The skip engine (R461 to R469) -/

/-- The chunk list of a command: marker, the regions' data chunks, end. -/
def skipChunks (log2 : Nat) (regions : List (Nat × Nat)) : List Chunk × Nat :=
  let c := 2 ^ log2
  let add (acc : List Chunk × Nat) (kind src len : Nat) : List Chunk × Nat :=
    (acc.1 ++ [{ index := acc.1.length, kind := kind, src := src, off := acc.2, len := len }], acc.2 + 64 + roundUp len 64)
  let acc := add ([], 0) 0 0 (64 + 16 * regions.length)
  let acc := regions.foldl (fun acc g =>
    (List.range (ceilDiv g.2 c)).foldl (fun acc i => add acc 1 (g.1 + i * c) (min c (g.2 - i * c))) acc) acc
  add acc 3 0 16

/-- A region that can be staged (R461). -/
def State.regionOk (s : State) (base cap : Nat) (g : Nat × Nat) : Bool :=
  decide (g.2 ≠ 0) && g.1 % 64 == 0 && g.2 % 64 == 0 && rangeOf g.1 == rangeOf (g.1 + g.2 - 1) && s.decodes g.1 g.2 &&
    !(decide (g.1 < base + cap) && decide (base < g.1 + g.2))

/-- Is a skip active? -/
def State.skipActive (s : State) : Bool := s.rd .skpStatusState != 0

/-- A skip is over: its state, its result, and the requests it leaves behind. -/
def State.skipEnd (s : State) (result : Nat) : State :=
  let tags := s.skip.chunks.flatMap (fun k => k.tags)
  let s := (s.wr .skpStatusState 0 0 0).wr .skpStatusResult 0 0 result
  { s with hfOut := s.hfOut.filter (fun e => e.2 != 5 || !tags.contains e.1), skip := { s.skip with chunks := [] } }

/-- SKIP_ABORT (R469). -/
def State.skipAbort (s : State) (result : Nat) : State :=
  if s.skipActive then ((s.skipEnd result).bump .skpAborts).postEventFree 0x0603 5 else s

/-- SKIP_START (R461): parameters are checked before STATE (R364). The response to an abort carries free values. -/
def State.skipStart (s : State) (c : Nat) : State :=
  s.ycp c 0x0601 (fun s r =>
    let p (off n : Nat) : Nat := s.pay r.chan off n
    let nr := p 46 2
    if p 0 8 = 0 ∧ nr = 0 then
      let f := s.takeFree
      (f.2.skipAbort 5, some (0, natLe 12 f.1))
    else
      let base := p 16 8
      let cap := p 24 8
      let lg := p 44 1
      let regions := (List.range nr).map (fun j => (p (56 + 16 * j) 6, p (64 + 16 * j) 8))
      let inHbm := rangeOf base == 4 && base % 64 == 0 && s.decodes base cap
      if p 0 8 = 0 ∨ nr = 0 ∨ nr > 64 ∨ p 8 8 < r.stamp + 10000 ∨ lg < 16 ∨ lg > 23 ∨ !inHbm ∨
          !regions.all (s.regionOk base cap) then done s 6
      else
        let l := skipChunks lg regions
        if cap < l.2 + 64 then done s 6
        else if s.skipActive then done s 8
        else
          let s := { s with skip := { base := base, dest := p 32 8, destDev := p 40 4 % 2 ^ 20, host := bitOf (p 40 4) 31, sigEn := bitOf (p 45 1) 7,
                                      sem := p 45 1 % 64, target := p 48 8, log2 := lg, regions := regions, size := l.2, chunks := l.1 } }
          let s := ((s.wr .skpId 0 0 (p 0 8)).wr .skpQuiesceAt 0 0 (p 8 8)).wr .skpStatusState 0 0 1
          (s, some (0, fieldBytes [(l.2, 8), (l.1.length, 4)])))

/-- The next ALIVE (R465). -/
def State.skipAlive (s : State) : State :=
  let n := (s.skip.alive + 1) % 2 ^ 32
  { s with skip := { s.skip with alive := n } }.wr .skpAlive 0 0 n

/-- A header that carries the current ALIVE (R464). -/
def State.skipHeader (s : State) (kind flags index src off : Nat) (payload : List Byte) : List Byte :=
  let head := fieldBytes [(0x31504B53, 4), (kind, 2), (flags, 2), (s.rd .skpId, 8), (index, 4), (s.skip.alive, 4), (s.rd .fabDevIdId, 4),
    (payload.length, 4), (src, 8), (off, 8), (0, 8)]
  head ++ natLe 8 (crcOf 2 (head ++ payload))

/-- Stages one chunk: its header, payload and padding; the memory-scan feed takes header and payload. -/
def State.skipWrite (s : State) (k : Chunk) (payload : List Byte) : State :=
  let s := s.skipAlive
  let bs := s.skipHeader k.kind k.flags k.index (if k.kind = 1 then k.src else 0) k.off payload
  (s.enginePut (s.skip.base + k.off) (bs ++ padTo (roundUp k.len 64) payload)).cnt .crcScanBytes 0 0 (56 + k.len)

/-- Payload of the marker and of the end chunk (R463). -/
def State.skipMarker (s : State) : List Byte :=
  fieldBytes [(s.rd .skpQuiesceAt, 8), (s.word 0x04000000 {}, 8), (s.word 0x40 {}, 8), (s.rd .hfFwVersion, 8)] ++ List.replicate 32 0#8 ++
    s.skip.regions.flatMap (fun g => fieldBytes [(g.1, 8), (g.2, 8)])
def State.skipFinal (s : State) : List Byte := fieldBytes [(s.skip.chunks.length, 8), (s.skip.size, 8)]

/-- Lines of a chunk's source that hold a poisoned word. -/
def State.badSource (s : State) (k : Chunk) : List Nat :=
  (List.range (k.len / 64)).filter (fun i => (List.range 8).any (fun j => s.memBad (k.src + 64 * i + 8 * j)))

/-- Stages a data chunk: poisoned lines enter as zero lines (R466). -/
def State.skipData (s : State) (k : Chunk) : State :=
  let bad := s.badSource k
  let data := (List.range k.len).map (fun i => if bad.contains (i / 64) then 0#8 else s.memByte (k.src + i))
  let s := (s.engineRead k.src k.len).cnt .skpPoisonLines 0 0 bad.length
  s.skipWrite { k with flags := if bad.isEmpty then 0 else 1 } data

/-- What stages the next chunk: done, wait, or the result of an abort. -/
inductive StageNext where
  | step (s : State) | wait | stop
deriving DecidableEq, Repr

/-- The next chunk has been written to the staging area. -/
def State.chunkStaged (s : State) (k : Chunk) (flags : Nat) : State :=
  { s with skip := { s.skip with staged := s.skip.staged + 1
                                 chunks := s.skip.chunks.map (fun q => if q.index = k.index then { q with flags := flags } else q) } }

/-- The next chunk of the image: it waits while its place in the staging area, or a line of its source, is held (R54, R212); a line of its source that
reaches nothing stops the skip there (R466). -/
def State.skipNext (s : State) (k : Chunk) : StageNext :=
  if (s.heldAt [(s.skip.base + k.off, 64 + roundUp k.len 64)]).isSome then .wait
  else if k.kind = 0 then .step ((s.skipWrite k s.skipMarker).chunkStaged k 0)
  else if k.kind = 3 then .step ((s.skipWrite k s.skipFinal).chunkStaged k 0)
  else
    let m := s.hfOk k.src k.len
    if m < k.len then (if s.hfAccess (k.src + m) = .held then .wait else .stop)
    else .step ((s.skipData k).chunkStaged k (if (s.badSource k).isEmpty then 0 else 1))

/-- A chunk whose source waits: the clearing banks that hold it count it once. -/
def State.skipHeld (s : State) (k : Chunk) : State :=
  if k.kind ≠ 1 then s
  else { s.lineHold [(k.src, k.len)] k.held with skip := { s.skip with chunks := s.skip.chunks.map (fun q => if q.index = k.index then { q with held := true } else q) } }

/-- The lines of a chunk's source ahead of one that reaches nothing have been read, their poisoned ones counted (R466). -/
def State.skipCut (s : State) (k : Chunk) : State :=
  let m := s.hfOk k.src k.len
  ((s.engineRead k.src m).cnt .skpPoisonLines 0 0 ((s.badSource k).filter (fun i => decide (64 * i < m))).length).lineStop (k.src + m)

/-- Stages chunks until one waits or aborts the skip with result 2. -/
def State.skipStage : Nat → State → State
  | 0, s => s
  | fuel + 1, s =>
    match s.skip.chunks[s.skip.staged]? with
    | none => s
    | some k =>
      match s.skipNext k with
      | .step s' => State.skipStage fuel s'
      | .wait => s.skipHeld k
      | .stop => (s.skipCut k).skipAbort 2

/-- SKIP_STAGING_START (R463): due at or after T_Q. -/
def State.skipBegin (s : State) : State :=
  if s.rd .skpStatusState ≠ 1 ∨ s.tally < s.rd .skpQuiesceAt then s
  else
    let s := { s.wr .skpStatusState 0 0 2 with skip := { s.skip with beatAt := s.tally } }
    s.skipStage (s.skip.chunks.length + 1)

/-- A WRITE packet of the skip engine on VC7, and its tag. -/
def State.skipPacket (s : State) (addr : Nat) (bs : List Byte) (poison : List Nat) : State × Nat :=
  let tag := s.skip.nextTag
  let s := { s with skip := { s.skip with nextTag := (tag + 1) % 2 ^ 32 }, hfOut := s.hfOut ++ [(tag, 5)] }
  (s.send { ty := 0, vc := 7, dstDev := s.skip.destDev, dstTile := 0xFF, srcTile := 0xFF, agent := some 16, gen := s.rd .hfCompStatusGen 0 5, len := bs.length,
            addr := addr, tag := tag, payload := bs, poison := poison }, tag)

/-- Ships a chunk: its image as WRITE packets of at most 8,192 bytes. -/
def State.skipShip (s : State) (k : Chunk) : State :=
  let n := 64 + roundUp k.len 64
  let a := s.skip.base + k.off
  let bad := ((List.range n).filter (fun i => s.memBad (a + i)))
  let data := s.memBytes a n
  let out := (List.range (ceilDiv n 8192)).foldl (fun (acc : State × List Nat) i =>
    let here := (bad.filter (fun j => j / 8192 == i)).map (fun j => (j - 8192 * i) / 8)
    let p := acc.1.skipPacket (s.skip.dest + k.off + 8192 * i) ((data.drop (8192 * i)).take 8192) here.eraseDups
    (p.1, acc.2 ++ [p.2])) (s.engineRead a n, [])
  { out.1 with skip := { out.1.skip with chunks := out.1.skip.chunks.map (fun q =>
      if q.index = k.index then { k with tags := out.2, begun := true, sentAt := s.tally } else q) } }

/-- Ships chunks in order while fewer than 16 are outstanding (R467). -/
def State.skipPump : Nat → State → State
  | 0, s => s
  | fuel + 1, s =>
    let open_ := (s.skip.chunks.filter (fun k => k.begun && !k.shipped)).length
    match s.skip.chunks.find? (fun k => !k.begun) with
    | none => s
    | some k => if open_ ≥ 16 then s else State.skipPump fuel (s.skipShip k)

/-- A skip is done (R469). -/
def State.skipDone (s : State) : State := (s.skipEnd 1).postEventFree 0x0602 5

/-- The signal of a staged image (R180). -/
def State.skipSignal (s : State) : State :=
  let g := s.skip.target
  if !s.skip.sigEn then s
  else s.send { ty := 3, vc := 2, dstDev := targetDev g, dstTile := targetTile g, srcTile := 0xFF, agent := some 16, gen := s.rd .hfCompStatusGen 0 5,
                sem := s.skip.sem, addr := 1, onDie := bitOf g 35 }

/-- SKIP_STAGED (R463): staging goes on, and once every chunk is staged it ends. -/
def State.skipStaged (s : State) : State :=
  if s.rd .skpStatusState ≠ 2 then s
  else
    let s := s.skipStage (s.skip.chunks.length + 1)
    if s.rd .skpStatusState ≠ 2 ∨ s.skip.staged < s.skip.chunks.length then s
    else
      let s := (s.wr .skpStagedAt 0 0 s.tally).cnt .skpChunksStaged 0 0 s.skip.chunks.length
      let s := (s.postEventFree 0x0601 5).skipSignal
      if s.skip.host then s.skipDone else (s.wr .skpStatusState 0 0 3).skipPump 16

/-- Is every packet of a chunk acknowledged? An ACK takes its tag out of the chunk; a reset of the service that forgets its requests does not. -/
def chunkAcked (k : Chunk) : Bool := k.begun && !k.shipped && k.tags.isEmpty

/-- SKIP_CHUNK_SHIPPED (R467). -/
def State.skipShipped (s : State) : State :=
  if s.rd .skpStatusState ≠ 3 then s
  else match s.skip.chunks.find? chunkAcked with
    | none => s
    | some k =>
      let s := { s with skip := { s.skip with chunks := s.skip.chunks.map (fun (q : Chunk) => if q.index = k.index then { q with shipped := true, tags := [] } else q) } }
      let s := s.bump .skpChunksShipped
      if s.skip.chunks.all (fun q => q.shipped) then s.skipDone else s.skipPump 16

/-- A chunk is rewritten and sent again (R467). -/
def State.skipResend (s : State) (k : Chunk) : State :=
  let s := { s with hfOut := s.hfOut.filter (fun e => e.2 != 5 || !k.tags.contains e.1) }
  let k := { k with flags := k.flags % 2 + 2, resends := k.resends + 1 }
  let data := (s.memBytes (s.skip.base + k.off + 64) k.len)
  (((s.engineRead (s.skip.base + k.off + 64) k.len).skipWrite k data).skipShip k).bump .skpChunkResend

/-- SKIP_CHUNK_TIMEOUT (R467): not while the device is halted (R469). -/
def State.skipTimeout (s : State) : State :=
  if s.rd .skpStatusState ≠ 3 ∨ s.on .dbgHaltStatusHalted then s
  else match s.skip.chunks.find? (fun k => k.begun && !k.shipped && !chunkAcked k && decide (s.tally ≥ k.sentAt + s.rd .skpShipTimeoutNs)) with
    | none => s
    | some k => if k.resends ≥ 8 then s.skipAbort 3 else s.skipResend k

/-- SKIP_HEARTBEAT (R465): the alive slot; a heartbeat's INDEX is a free value. -/
def State.skipBeat (s : State) : State :=
  let st := s.rd .skpStatusState
  if (st ≠ 2 ∧ st ≠ 3) ∨ s.tally < s.skip.beatAt then s
  else
    let f := s.takeFree
    let s := { f.2 with skip := { f.2.skip with beatAt := s.skip.beatAt + 1000000 } }.skipAlive
    let s := s.cnt .crcScanBytes 0 0 56
    let bs := s.skipHeader 2 0 f.1 0 s.skip.size []
    if s.skip.host then s.enginePut (s.skip.base + s.skip.size) bs else (s.skipPacket (s.skip.dest + s.skip.size) bs []).1

/-! ### Numeric health (R473, R474) -/

/-- Counters that a sample reads of a tile and format, as they stand in a table of shadows. -/
def nhValue (l : List (Nat × Nat)) (f : Field) (t fmt : Nat) : Nat := sget 0 (fkey f t fmt) l

/-- Tiles that took part in the last snapshot. -/
def State.nhTiles (s : State) : List Nat := (List.range 256).filter (fun t => s.rd .dbgShadowSeq t == s.rd .tlySnapSeq)

/-- Increase of a counter since the previous sample over some tiles. -/
def State.nhDelta (s : State) (old : NhSample) (tiles : List Nat) (f : Field) (fmt : Nat) : Nat :=
  tiles.foldl (fun acc t => acc + (2 ^ 64 + nhValue s.shadows f t fmt - nhValue old.shadows f t fmt) % 2 ^ 64) 0

/-- Writes a format's shares, and posts an alert, whose data are the format, the three shares, the total and both instants (R474; log 43). -/
def State.nhFormat (s : State) (old : NhSample) (tiles : List Nat) (fmt : Nat) : State :=
  let total := s.nhDelta old tiles .tileNhTotal fmt
  let share (f : Field) : Nat := if total = 0 then 0 else 1000000 * s.nhDelta old tiles f fmt / total
  let o := share .tileNhOvf
  let v := share .tileNhVanish
  let n := share .tileNhNan
  let s := (((s.wr .skpNhShareOvf 0 fmt o).wr .skpNhShareVanish 0 fmt v).wr .skpNhShareNan 0 fmt n).wr .skpNhShareTotal 0 fmt total
  if o > s.rd .skpNhOvfPpm ∨ v > s.rd .skpNhVanishPpm then (s.postEvent 0x0610 5 (fieldBytes [(fmt, 4), (o, 4), (v, 4), (n, 4), (total, 8), (old.stamp, 8), (s.rd .tlySnapTakenAt, 8)])).bump .skpNhAlerts
  else s

/-- The snapshot has landed: the shares of each format in FMT_MASK. With no previous sample, no tile matches. -/
def State.nhTake (s : State) : State :=
  let now := s.nhTiles
  let old := s.nhLast.getD ⟨0, 0, [], []⟩
  let tiles := now.filter (fun t => old.tiles.contains t)
  let s := s.cnt .skpNhStale 0 0 (256 - tiles.length)
  let s := (List.range 12).foldl (fun s f => if bitOf (s.rd .skpNhCfgFmtMask) f then s.nhFormat old tiles f else s) s
  { s with nhLast := some ⟨s.rd .tlySnapSeq, s.rd .tlySnapTakenAt, now, s.shadows⟩, nhWait := none }

/-- NH_SAMPLE: every PERIOD_MS the service arms a snapshot 10 µs ahead; once a snapshot lands it takes the sample. -/
def State.nhSample (s : State) : State :=
  if !s.compRuns 5 then s
  else match s.nhWait with
    | some seq => if s.rd .tlySnapSeq = seq then s else s.nhTake
    | none =>
      let period := max 1 (s.rd .skpNhCfgPeriodMs) * 1000000
      if !s.on .skpNhCfgEn ∨ s.tally < s.nhAt then s
      else
        let s := { s with nhAt := s.tally + period, nhWait := some (s.rd .tlySnapSeq) }
        let a := (s.wr .tlySnapAt 0 0 (s.tally + 10000)).snapArm
        if a.2 then a.1 else a.1.bump .skpNhSkipped

/-! ### Backfill (R475) -/

/-- Is any endpoint of any tile enabled, or any group valid? -/
def State.anyBound (s : State) : Bool :=
  (List.range 64).any (fun g => s.on .collCfgValid g) || (List.range 256).any (fun t => (List.range 16).any (fun e => s.on .tileEpEn t e))

/-- The event of a backfill that succeeded: its action, the ID and the stamp (R475; log 43). -/
def State.backfillDone (s : State) (action id : Nat) : State := s.postClassWith 1 2 (fieldBytes [(action, 4), (id, 4), (s.tally, 8)])

/-- BACKFILL. -/
def State.backfill (s : State) (c : Nat) : State :=
  s.ycp c 0x0603 (fun s r =>
    let p (off n : Nat) : Nat := s.pay r.chan off n
    let id := p 4 4 % 2 ^ 20
    match p 0 1 with
    | 0 =>
      if !s.portPresent (p 2 1) then done s 7
      else if s.anyBound then done s 8
      else
        let s := { (s.wr .fabDevIdValid 0 0 0).tlyCtrlWrite (p 2 1 * 16 + 1) with spare := true }
        done (s.backfillDone 0 id) 0
    | 1 =>
      if id = 0xFFFFF then done s 8
      else if !s.spare ∨ !s.on .tlyStatusXdevLocked ∨ s.word 0x40 {} ≠ p 8 4 ∨
          s.upPorts.any (fun q => s.on .portPeerValid q && s.rd .portPeerPeerDevice q == id) then done s 8
      else
        let s := ((s.wr .fabDevIdId 0 0 id).wr .fabDevIdValid 0 0 1).epochWrite (p 1 1 % 2)
        done ({ s with spare := false }.backfillDone 1 id) 0
    | 2 => done ((s.wr .fabDevIdValid 0 0 0).backfillDone 2 id) 0
    | _ => done s 6)

/-! ### The commands -/

def execCrcCtrlWrite (v : Nat) (s : State) : Result := .next (s.hfAwake (fun s => s.crcCtrl v))
def execCrcData8Write (v : Nat) (s : State) : Result := .next (s.hfAwake (fun s => s.crcData 1 v))
def execCrcData16Write (v : Nat) (s : State) : Result := .next (s.hfAwake (fun s => s.crcData 2 v))
def execCrcData32Write (v : Nat) (s : State) : Result := .next (s.hfAwake (fun s => s.crcData 4 v))
def execCrcResultRead (a : Agent) (s : State) : Result := .next (s.crcRead a)
def execCrcScan (c : ChanId) (s : State) : Result := .next (s.crcScan c)
def execSkipStart (c : ChanId) (s : State) : Result := .next (s.skipStart c)
def execSkipStagingStart (s : State) : Result := .next s.skipBegin
def execSkipStaged (s : State) : Result := .next s.skipStaged
def execSkipChunkShipped (s : State) : Result := .next s.skipShipped
def execSkipChunkTimeout (s : State) : Result := .next s.skipTimeout
def execSkipHeartbeat (s : State) : Result := .next s.skipBeat
def execNhSample (s : State) : Result := .next s.nhSample
def execBackfill (c : ChanId) (s : State) : Result := .next (s.backfill c)

end Sys2Proof.Machine
end

