-- ==== Sys2Proof/Machine/Ras.lean ====
section
/-! DEFINITION. Reset domains, the RAS agent's log and notices, hang detection and post-mortem records (R438 to R458). -/
namespace Sys2Proof.Machine

/-! ### Notices and events (R442) -/

/-- KIND of a log record (R441). -/
def RasKind.code : RasKind → Nat
  | .tile => 0 | .port => 1 | .hbmc => 2 | .ring => 3 | .component => 4 | .hostPort => 5 | .headframe => 6 | .device => 7

/-- RAS_NOTICE_SEND: one MGMT packet on every UP port and one to every valid destination. TAG and the payload behind word 1 are free values. -/
def State.notice (s : State) (cls kind inst gen stamp : Nat) : State :=
  let a := s.takeFree
  let b := a.2.takeFree
  let w0 := 0x0300 * 2 ^ 48 + cls % 256 * 2 ^ 40 + kind % 256 * 2 ^ 32 + inst % 65536 * 65536 + gen % 256
  let payload := fieldBytes [(w0, 8), (stamp, 8)] ++ natLe 48 a.1
  let packet (dev : Nat) (via : Option Nat) : Packet :=
    { mgmtPacket 8 dev via (b.1 % 2 ^ 32) 3 payload with gen := s.rd .hfCompStatusGen 0 2 }
  let s := b.2
  let s := s.upPorts.foldl (fun s p => (s.send (packet 0xFFFFF (some p))).bump .rasNoticeTx) s
  ((List.range 16).filter (fun i => s.on .rasNotifyDestValid 0 i)).foldl (fun s i =>
    (s.send (packet (s.rd .rasNotifyDestDevice 0 i) none)).bump .rasNoticeTx) s

/-- RAS_NOTICE_RECEIVE (R361, R442): the n-th waiting MGMT packet. The event carries the first 48 bytes of the notice. While the headframe's clock is
stopped the packet waits (R382). -/
def State.noticeReceive (s0 : State) (n : Nat) : State :=
  if s0.ic.asleep then s0 else
  match s0.netTake 8 n with
  | none => s0
  | some (a, s) =>
    let p := a.pkt
    if payWord p 0 / 2 ^ 48 ≠ 0x0300 ∨ p.len ≠ 64 ∨ p.dstQueue ≠ 3 ∨ (s.comp 3).mode ≠ .running then s.bump .hfMgmtDrop
    else ((s.bump .hfMgmtRx).bump .rasNoticeRx).postEvent 0x0330 3 (padTo 48 p.payload)

/-! ### The log (R441) -/

/-- A log record as bytes. -/
def LogRec.bytes (r : LogRec) : List Byte :=
  fieldBytes [(r.stamp, 8), (r.cls, 1), (r.kind, 1), (r.inst, 2), (r.code, 2), (r.gen, 1), (r.action, 1), (r.detail, 16)]

/-- The entry of the flash log: at most one per 10 ms (R441). -/
def State.logFlash (s : State) (r : LogRec) : State :=
  let w := s.rasw
  if w.flashAt ≠ 0 ∧ s.tally + 1 < w.flashAt + 10000000 then s.bump .rasFlashLogDrop
  else
    let e := r.bytes ++ fieldBytes [(s.rd .hfBoots, 8), (0, 20)]
    let s := s.flashWrite (0x3000000 + 64 * (w.flashNext % 262144)) (e ++ natLe 4 (crc32c e))
    { s with rasw := { w with flashNext := (w.flashNext + 1) % 262144, flashAt := s.tally + 1 } }

/-- Appends a record; the 4,097th overwrites the oldest. Those of classes 2 and 3 go to flash too; a trip's the ROM has written there (R441). -/
def State.logAppend (s : State) (r : LogRec) : State :=
  let r := { r with seq := s.rasw.seq }
  let s := { s with rasw := { s.rasw with seq := s.rasw.seq + 1 } }
  let full := decide (s.rasLog.length ≥ 4096)
  let s := { s with rasLog := (if full then s.rasLog.drop 1 else s.rasLog) ++ [r] }
  let s := if full then s.bump .rasLogOverwrite else s
  if 2 ≤ r.cls ∧ r.cls < 4 then s.logFlash r else s

/-! ### Resets (R443, R447) -/

/-- Generation of a resource: 0 tile, 1 port, 2 hbmc, 3 component. -/
def State.genOf (s : State) (dom inst : Nat) : Nat :=
  match dom with
  | 0 => s.rd .tileGen inst
  | 1 => s.rd .portGen inst
  | 2 => s.rd .hbmGen inst
  | _ => s.rd .hfCompStatusGen 0 inst

/-- A reset of a domain has completed: counted, event 0x0320. -/
def State.resetDone (s : State) (dom : Nat) : State := (s.cnt .rasResets 0 dom 1).postEventFree 0x0320 3

/-- Is a bank request one of tile t's own units? -/
def ofTile (t : Nat) : Requester → Bool
  | .core u => u == t
  | .hoist u => u == t
  | .seam u => u == t
  | .unit u => u == t
  | _ => false

/-- What a tile's reset leaves of it: replica, power and banks; its next request tag, so that late replies still fail the tag check. -/
def Tile.cleared (x : Tile) (t : Nat) : Tile :=
  { gated := x.gated, tallyValid := x.tallyValid, resetAt := x.resetAt, hoist := { nextTag := x.hoist.nextTag },
    banks := (x.banks.map (fun b => (b.1, { b.2 with waiting := b.2.waiting.filter (fun w => !ofTile t w.req.who) }))).filter (fun b => b.2 ≠ {}) }

/-- The fields of a tile's domain. -/
def tileDomain (t : Nat) (f : Field) (inst : Nat) : Bool :=
  f.info.dom == .tile && ((f.info.space == .tile && inst == t) || (f.info.space == .queue && inst / 128 == t))

/-- A tile's reset discards its work and restores its fields. Register writes that a stop held for it go with it. -/
def State.tileClear (s : State) (t : Nat) : State :=
  let s := s.onTile t (fun x => x.cleared t)
  let s := { s with dbg := { s.dbg with heldWrites := s.dbg.heldWrites.filter (fun w => w.tile != t) },
                    pwr := { s.pwr with stepsAt := sdrop (fun k => k % 256 == t) s.pwr.stepsAt } }
  ({ s.phaseMark t with latches := s.latches.filter (fun e => e.1 != 16 + t) }).restore (tileDomain t)

/-- A tile reset begins, unless one is in progress (R445). -/
def State.tileResetBegin (s : State) (t : Nat) : State :=
  if (s.tile t).resetAt.isSome then s
  else ((s.onTile t (fun x => { x with resetAt := some (s.tally + 2000) })).collTileReset t).tileClear t

/-- TILE_RESET: begins a reset of the tile, joins one in progress, or, 2 µs after its start, completes it. -/
def State.tileReset (s : State) (t : Nat) : State :=
  match (s.tile t).resetAt with
  | none => s.tileResetBegin t
  | some e =>
    if s.tally < e then s
    else
      let s := s.onTile t (fun x => { x with resetAt := none })
      let s := (s.cnt .tileGen t 0 1).wr .tileGenAt t 0 s.tally
      { s with quietFrom := sput 0 t s.tally s.quietFrom }.resetDone 0

/-- The fields of a port's domain. -/
def portDomain (p : Nat) (f : Field) (inst : Nat) : Bool := f.info.dom == .port && f.info.space == .port && inst == p

/-- A port reset begins: transmitter and receiver discard as at link-down, and the port is DISABLED. -/
def State.portResetBegin (s : State) (p : Nat) : State :=
  if (s.port p).resetAt.isSome ∨ !s.portPresent p then s
  else
    let s := ((s.portDiscard p).linkLost p).portMode p .disabled
    (s.setPort p { since := s.tally, linkShut := (s.port p).linkShut, rxq := (s.port p).rxq, halted := (s.port p).halted, resetAt := some (s.tally + 10000) }).restore (portDomain p)

/-- PORT_RESET: begins, joins, or after 10 µs completes; the port then trains if it is enabled. -/
def State.portReset (s : State) (p : Nat) : State :=
  match (s.port p).resetAt with
  | none => s.portResetBegin p
  | some e =>
    if s.tally < e then s
    else
      let s := ((s.onPort p (fun x => { x with resetAt := none })).cnt .portGen p 0 1).resetDone 1
      if s.on .portCtrlEn p ∧ (s.port p).mode = .disabled then s.train p else s

/-- The fields of a controller's domain. -/
def hbmcDomain (c : Nat) (f : Field) (inst : Nat) : Bool := f.info.dom == .hbmc && f.info.space == .hbmc && inst == c

/-- Does an access waiting for a band's mode go to a controller? -/
def State.reqTo (s : State) (c : Nat) (r : HbmReq) : Bool :=
  match s.place r.addr with
  | .hbm st l => hbmcOf st l == c
  | _ => false

/-- HBMC_RESET (R233): self-refresh; accesses accepted and not performed are discarded, and complete with error status. HBM_TRAINED ends it. -/
def State.hbmcReset (s : State) (c : Nat) : State :=
  if (sget {} c s.hbmcs).resetAt.isSome ∨ c ≥ s.variant.hbmcs then s
  else
    let lost := s.bandHeld.filter (s.reqTo c)
    let late (r : HbmReq) : ReadDone := ⟨r.tag, 0, false, true⟩
    let s := { s with bandHeld := s.bandHeld.filter (fun r => !s.reqTo c r), hbmReads := s.hbmReads ++ lost.map late }
    let s := s.cnt .hbmResetDiscard c 0 lost.length
    let s := if s.hbmReady c then s.irq (328 + c) else s
    (s.onHbmc c (fun h => { h with trained := false, selfRefresh := true, resetAt := some s.tally })).restore (hbmcDomain c)

/-- HBM_TRAINED (R233): the controller is ready; an hbmc reset in progress completes. -/
def State.hbmTrained (s : State) (c : Nat) : State :=
  let was := (sget {} c s.hbmcs).resetAt
  let s' := s.hbmTrain c
  if was.isNone ∨ !s'.hbmReady c then s'
  else ((s'.onHbmc c (fun h => { h with resetAt := none })).cnt .hbmGen c 0 1).resetDone 2

/-- HBM_TRAINING_LOSS (R455): a controller leaves TRAINED of itself. -/
def State.trainingLoss (s : State) (c : Nat) : State :=
  if !s.hbmReady c then s
  else ((s.onHbmc c (fun h => { h with trained := false })).irq (328 + c)).reportHbm 2 c 5 s.tally

/-- The fields that a warm reset restores. -/
def warmDomain (f : Field) (_ : Nat) : Bool :=
  match f.info.dom with
  | .warm => true
  | .tile => true
  | .port => true
  | .hbmc => true
  | _ => false

/-- A warm reset begins (R384, R443): it absorbs smaller resets in progress; memory, the lamp, cold fields, replicas and gated blocks
stay; HF0 restarts in ROM. -/
def State.warmBegin (s : State) : State :=
  let s := s.skipAbort 4
  let now := s.tally
  let s := (List.range 256).foldl (fun s t =>
    let s := s.onTile t (fun x => { x.cleared t with resetAt := none })
    s.cnt .tileGen t 0 1) s
  let s := (List.range s.variant.ports).foldl (fun s p => s.cnt .portGen p 0 1) s
  let s := (List.range s.variant.hbmcs).foldl (fun s c =>
    (s.onHbmc c (fun h => { h with trained := false, selfRefresh := true, resetAt := none })).cnt .hbmGen c 0 1) s
  let s := (List.range 6).foldl (fun s k => (s.setComp k {}).cnt .hfCompStatusGen 0 k 1) s
  let s := s.restore warmDomain
  let s := ((s.wr .dbgHaltStatusHalted 0 0 0).wr .dbgHaltStatusStopping 0 0 0).wr .pwrStatusMatching 0 0 0
  let s := (List.range 256).foldl (fun s t => s.wr .tileGenAt t 0 now) s
  let s := { s with
    mem := sdrop (fun k => decide (0x201000000 ≤ k ∧ k < 0x201100000)) s.mem, bandHeld := [], hbmReads := [], outbox := [], ring := [], ringArb := [], dieNet := [],
    hfOut := [], mod := { s.mod with jtagWait := [] }, ports := [], rt := [], ras := [], colls := [], collMap := [], collPend := [], ic := {}, mbx := {},
    adit := { s.adit with fwReady := false, bootFail := false }, talign := {},
    pwr := { s.pwr with stepsAt := [], tileE := [], windows := 0, alone := [], capped := [], cooled := [], slews := [], unmatched := [], chosen := [], phases := [], capWas := (0, 0), beacon := {} }, demand := [], dbg := {}, rasLog := [],
    rasw := { flashNext := s.rasw.flashNext, flashAt := s.rasw.flashAt }, skip := {}, crc := {}, nhLast := none, nhWait := none, nhAt := 0, snapCopied := false,
    spare := false, records := [], boot := { rom := true }, quietFrom := (List.range 256).foldl (fun l t => sput 0 t now l) [], latches := [], warmAt := now + 1 }
  s.cnt .rasResets 0 4 1

/-- A warm reset is called for from a stamp on; one that is planned or in progress is joined (R445). -/
def State.warmCall (s : State) (at_ : Nat) : State :=
  if s.warmAt ≠ 0 then s
  else if s.rasw.warmPlan ≠ 0 ∧ s.rasw.warmPlan ≤ at_ + 1 then s
  else { s with rasw := { s.rasw with warmPlan := at_ + 1 } }

/-- WARM_RESET: due once one has been called for. -/
def State.warmReset (s : State) : State :=
  if s.rasw.warmPlan = 0 ∨ s.tally + 1 < s.rasw.warmPlan then s else s.warmBegin

/-- COLD_RESET (R504): COLD_RST# held low for the given time in ns; ignored below 10 µs, while MOD_PWR_EN or MOD_PWRGD is low and while a trip
is latched. The start proceeds from the rise of MOD_PWRGD. -/
def State.coldReset (s : State) (lowNs : Nat) : State :=
  if lowNs < 10000 ∨ !s.mod.pwrgd ∨ !s.mod.pwrEn ∨ s.mod.tripped then s
  else
    let s := s.coldState
    let s := { s with mod := { s.mod with pgAt := s.time, running := false, warned := false, refOk := true, scanHold := false } }
    (s.wr .hfModStatusStartCause 0 0 2).cnt .rasResets 0 5 1

/-- Begins a reset of a domain in the encoding of R444. -/
def State.resetBegin (s : State) (dom inst : Nat) : State :=
  match dom with
  | 0 => s.tileResetBegin inst
  | 1 => s.portResetBegin inst
  | 2 => s.hbmcReset inst
  | 3 => if (s.comp inst).mode = .running then s.compReset inst else s
  | _ => s.warmCall s.tally

/-! ### Post-mortem records (R453, R454) -/

/-- HALT_ID of a post-mortem stop. -/
def State.pmId (s : State) : Nat :=
  2 ^ 63 + (if s.on .fabDevIdValid then s.rd .fabDevIdId else 0xFFFFF) * 2 ^ 32 + s.rd .rasPmTaken % 2 ^ 32

/-- The dump of a GLOBAL_STOP that is still to be written (R427). -/
def State.dumpDue (s : State) : Bool := s.dbg.purpose == 1 && s.dbg.dumpAt != 0 && !s.dbg.dumped

/-- The next dump is a post-mortem record's. -/
def State.pmArm (s : State) : State :=
  { s with dbg := { s.dbg with dumpAt := s.rd .rasPmBase, dumpCap := s.rd .rasPmCap * 2 ^ 20, purpose := 2, dumped := false } }

/-- POSTMORTEM_COLLECT (R454): a record is collected, and resets follow it. While one is being collected the request joins; while VALID is 1 no record
is taken and the resets begin at once. While another stop is in force the record is taken under it, after that stop's own dump (log 49). -/
def State.pmCollect (s : State) (trigger : List Nat) (resets : List (Nat × Nat)) : State :=
  if s.rasw.collecting.isSome then { s with rasw := { s.rasw with then_ := s.rasw.then_ ++ resets } }
  else if s.on .rasPmStatusValid then resets.foldl (fun s r => s.resetBegin r.1 r.2) s
  else
    let s := { s with rasw := { s.rasw with collecting := some trigger, then_ := resets } }
    if s.inStop then (if s.dumpDue then s else s.pmArm)
    else
      let s := (s.wr .dbgHaltCtrlPropagate 0 0 (s.rd .rasCfgPmPropagate)).pmArm
      s.haltBegin s.pmId (s.rd .fabDevIdId) s.tally

/-- Little-endian words of the register space at ascending offsets. -/
def State.regWords (s : State) (off n : Nat) (sel : Sel) : List Byte := (List.range n).flatMap (fun i => natLe 4 (s.word (off + 4 * i) sel))

/-- PM_HEADER: reason, trigger stamp, hang report, generations (the packing is the model's). -/
def State.pmHeader (s : State) (trigger : List Nat) : List Byte :=
  trigger.flatMap (natLe 8) ++ s.regWords 0x0A000030 6 {} ++ (List.range 256).flatMap (fun t => natLe 1 (s.rd .tileGen t)) ++
    (List.range 8).flatMap (fun p => natLe 1 (s.rd .portGen p)) ++ (List.range 16).flatMap (fun c => natLe 1 (s.rd .hbmGen c)) ++
    (List.range 6).flatMap (fun k => natLe 1 (s.rd .hfCompStatusGen 0 k))

/-- The records that the RAS agent adds (R453): each type over its index. -/
def State.pmRecords (s : State) (trigger : List Nat) : List (List Byte) :=
  let tiles := (List.range 256).filter (fun t => (s.tile t).stopped)
  let rec_ (ty idx : Nat) (p : List Byte) : List Byte := dumpRecord ty 1 0 idx p
  [rec_ 0x100 0 (s.pmHeader trigger)] ++
  tiles.map (fun t => rec_ 0x101 t (s.regWords 0x06008600 64 { tile := t } ++ s.regWords 0x06008530 8 { tile := t })) ++
  tiles.map (fun t => rec_ 0x102 t ((List.range 128).flatMap (fun q => s.regWords 0x06050004 3 { tile := t, q := q }))) ++
  tiles.map (fun t => rec_ 0x103 t (s.regWords 0x06008800 256 { tile := t } ++ s.regWords 0x06008C08 2 { tile := t })) ++
  tiles.map (fun t => rec_ 0x104 t (s.regWords 0x06008508 2 { tile := t } ++ s.regWords 0x06010010 6 { tile := t } ++
    s.regWords 0x06020010 4 { tile := t } ++ s.regWords 0x06030010 4 { tile := t } ++ s.regWords 0x06040008 2 { tile := t })) ++
  (List.range 64).map (fun g => rec_ 0x105 g (s.regWords 0x08000004 15 { group := g })) ++
  [rec_ 0x106 0 ((s.rasLog.drop (s.rasLog.length - 64)).flatMap LogRec.bytes)]

/-- Records that fit before a limit, n already taken: their bytes, their count, and whether all do. -/
def takeRecords (limit : Nat) : List (List Byte) → List Byte → Nat → List Byte × Nat × Bool
  | [], acc, n => (acc, n, true)
  | r :: rest, acc, n => if acc.length + r.length > limit then (acc, n, false) else takeRecords limit rest (acc ++ r) (n + 1)

/-- The collection is over: the resets that wait for it begin. -/
def State.pmEnd (s : State) : State :=
  let resets := s.rasw.then_
  let s := { s with rasw := { s.rasw with collecting := none, then_ := [] }, dbg := { s.dbg with purpose := 0 } }
  resets.foldl (fun s r => s.resetBegin r.1 r.2) s

/-- POSTMORTEM_COMPLETE: due once the cut is written; the added types replace END, and a new END follows, which counts the cut's records and
the added ones. A stop that was ended before its cut was written leaves no record; one that another dump has kept waiting is written next. -/
def State.pmComplete (s : State) : State :=
  match s.rasw.collecting with
  | none => s
  | some trigger =>
    if s.dbg.purpose ≠ 2 ∧ s.inStop then (if s.dumpDue then s else s.pmArm)
    else if s.dbg.purpose ≠ 2 ∨ !s.dbg.dumped then (if s.inStop then s else s.pmEnd)
    else
      let base := s.rd .rasPmBase
      let cap := s.rd .rasPmCap * 2 ^ 20
      let body := s.memBytes base (s.dbg.dumpLen - 80)
      let r := takeRecords (cap - 80 - body.length) (s.pmRecords trigger) [] 0
      let whole := body ++ r.1
      let bad := s.dbg.short || !r.2.2 || s.rd .dbgHaltStatusLinkLost != 0
      let count := leNat (s.memBytes (base + body.length + 16) 8) + r.2.1
      let fin := dumpRecord 0xFFFF (1 + (if bad then 4 else 0)) 0 0 (fieldBytes [(count, 8), (whole.length + 80, 8), (crc32c whole, 8)])
      let s := if cap < 80 then s else s.hfWrite 3 (base + body.length) (r.1 ++ fin)
      let s := ((s.wr .rasPmStatusValid 0 0 1).wr .rasPmStatusIncomplete 0 0 (b2n bad)).wr .rasPmStatusLength 0 0 (if cap < 80 then 0 else ceilDiv (whole.length + 80) 64)
      ((s.wr .rasPmAt 0 0 (s.rd .dbgHaltAt)).bump .rasPmTaken).postEventFree 0x0311 3 |>.pmEnd

/-! ### Reports (R438, R439, R455) -/

/-- Counter of a class (R438). -/
def classCounter : Nat → Option Field
  | 0 => some .rasCe
  | 1 => some .rasUeContained
  | 2 => some .rasUeResource
  | 3 => some .rasUeDevice
  | _ => none

/-- HANG_ACTION; 3 is treated as 2 (R458). -/
def State.hangAction (s : State) : Nat := min 2 (s.rd .rasCfgHangAction)

/-- What the RAS agent resets for a report (R455): the domain in the encoding of R444, if any. A component's report of code 1 is that of a stack fault,
whose reset is left to the agent (R377, R384). -/
def State.reportReset (s : State) (r : RasReport) : Option Nat :=
  if r.cls = 2 ∧ r.kind = .component ∧ r.code = 1 then some 3
  else if r.cls = 2 ∧ r.kind = .tile ∧ r.code / 256 = 3 ∧ s.hangAction = 2 then some 0
  else if r.cls = 2 ∧ r.kind = .hbmc then some 2
  else if r.cls = 3 ∧ s.on .rasCfgAutoWarm then some 4
  else none

/-- Has the resource of a report been reset for it, or will it be, by other than this report (R441): a component that faults, and a tile that a hang
report names when HANG_ACTION is 2? -/
def State.resetElse (s : State) (r : RasReport) : Bool :=
  r.cls == 2 && ((r.kind == .component && (s.comp r.inst).mode != .failed) || (r.kind == .tile && r.code / 256 == 6 && s.hangAction == 2))

/-- RAS_ERROR_REPORT: the oldest report is counted, logged, posted, noticed and acted on. A trip's counts nowhere but in the flash log, where the ROM
has written it (R438, R441). -/
def State.rasReport (s : State) : State :=
  match s.ras with
  | [] => s
  | r :: rest =>
    if !s.compRuns 3 then s
    else
      let act := s.reportReset r
      let action := match act with
        | some 4 => 3
        | some _ => 2
        | none => if r.cls = 0 then 0 else if s.resetElse r then 2 else 1
      let s := { s with ras := rest }
      let s := match classCounter r.cls with
        | some f => s.bump f
        | none => s
      let s := s.logAppend ⟨0, s.tally, r.cls, r.kind.code, r.inst, r.code, r.gen, action, r.detail⟩
      let s := if r.cls = 0 then s else (s.postClass 3 3).irq 445
      let s := if r.cls = 2 ∨ r.cls = 3 then s.notice r.cls r.kind.code r.inst r.gen s.tally else s
      match act with
      | some 4 => s.pmCollect [r.cls, r.kind.code, r.inst, r.code, s.tally] [(4, 0)]
      | some d => s.resetBegin d r.inst
      | none => s

/-- Is a field a class-0 counter (R438, R440), and which resource does an instance name (tiles, then controllers, then ports)? -/
def ceResource (f : Field) (inst : Nat) : Option Nat :=
  match f with
  | .spdCe => some inst
  | .hbmCe => some (256 + inst)
  | .hbmOndieCe => some (256 + inst)
  | .hbmCaParRetry => some (256 + inst)
  | .portFecCorrCw => some (512 + inst)
  | _ => none

/-- KIND and instance of a resource as ceResource numbers it. -/
def ceName (r : Nat) : Nat × Nat := if r < 256 then (0, r) else if r < 512 then (2, r - 256) else (1, r - 512)

/-- CE_THRESHOLD_POLL (R440): every 1 ms. The history begins with its first poll. The event's data are KIND and INSTANCE of the resource (log 43). -/
def State.cePoll (s : State) : State :=
  let w := s.rasw
  if !s.compRuns 3 ∨ s.tally < w.ceAt + 1000000 then s
  else
    let now := s.regs.filter (fun e => (keyField e.1).any (fun f => (ceResource f (keyInst e.1)).isSome))
    let hist := (w.ceHist.filter (fun h => decide (s.tally ≤ h.1 + 1000000000))) ++ [(s.tally, now)]
    let base := (hist.head?.map (fun h => h.2)).getD []
    let above := now.filter (fun e => decide (e.2 > sget 0 e.1 base + s.rd .rasCfgCeThresh))
    let res := (above.filterMap (fun e => (keyField e.1).bind (fun f => ceResource f (keyInst e.1)))).eraseDups
    let due := res.filter (fun r => !(w.cePosted.any (fun p => p.1 == r && decide (s.tally < p.2 + 1000000000))))
    let s := { s with rasw := { w with ceAt := s.tally, ceHist := hist,
                                       cePosted := (w.cePosted.filter (fun p => !due.contains p.1)) ++ due.map (fun r => (r, s.tally)) } }
    due.foldl (fun s r => s.postEvent 0x0301 3 (fieldBytes [((ceName r).1, 8), ((ceName r).2, 8)])) s

/-! ### Hang detection (R450 to R452) -/

/-- Is a tile quiet? -/
def State.quiet (s : State) (t : Nat) : Bool :=
  decide (s.tally ≥ max (s.rd .tileProgressAt t) (sget 0 t s.quietFrom) + s.rd .rasHangThreshNs)

/-- Does the detector evaluate a tile? -/
def State.hangEval (s : State) (t : Nat) : Bool :=
  s.rd .tileStage t != 0 && (s.tile t).coreState == 1 && (s.tile t).tallyValid

/-- The endpoint that a tile waits on. -/
def State.waitedEp (s : State) (t : Nat) : Option Nat :=
  match (s.tile t).core.mode, (s.tile t).core.wait with
  | .running, .sem k _ => (List.range 16).find? (fun e => s.on .tileEpEn t e && s.rd .tileEpLocalSem t e == k)
  | _, _ => none

/-- Is an endpoint's peer on this device? -/
def State.peerLocal (s : State) (t e : Nat) : Bool :=
  s.on .tileEpPeerLocal t e || (s.on .fabDevIdValid && s.rd .tileEpPeerDevice t e == s.rd .fabDevIdId)

/-- Faulted, gated or in reset. -/
def State.dead (s : State) (t : Nat) : Bool := (s.tile t).core.mode == .faulted || (s.tile t).gated || (s.tile t).resetAt.isSome

/-- How a chain ends: kind of RAS_HANG_INFO, the tile where it ends, the peer's device and tile. None while it waits. -/
structure HangEnd where
  kind : Nat
  tile : Nat
  dev : Nat
  peer : Nat
deriving DecidableEq, Repr

/-- The end of a cycle: reported at its lowest tile, whose peer is the tile it waits on. -/
def State.cycleEnd (s : State) (cycle : List Nat) (t : Nat) : HangEnd :=
  let low := cycle.foldl min t
  ⟨2, low, s.rd .fabDevIdId, ((s.waitedEp low).map (fun e => s.rd .tileEpPeerTile low e)).getD 0⟩

/-- The chain of R451 from a tile on; `seen` holds the tiles that it has left. The peer's device, of a tile of this device, is this one. -/
def State.chain (s : State) : Nat → Nat → List Nat → Option HangEnd
  | 0, t, seen => some (s.cycleEnd (seen.filter (fun u => decide (u ≤ t))) t)
  | fuel + 1, t, seen =>
    if !s.quiet t then none
    else match s.waitedEp t with
      | none => some ⟨1, t, 0, 0⟩
      | some e =>
        let peer := s.rd .tileEpPeerTile t e
        if !s.peerLocal t e then
          if s.tally ≥ s.rd .tileProgressAt t + s.rd .rasHangRemoteNs then some ⟨3, t, s.rd .tileEpPeerDevice t e, peer⟩ else none
        else if s.dead peer then some ⟨4, peer, s.rd .fabDevIdId, t⟩
        else
          let seen := t :: seen
          if seen.contains peer then
            let cycle := (seen.take ((seen.findIdx (· == peer)) + 1))
            some (s.cycleEnd cycle peer)
          else State.chain s fuel peer seen

/-- Reports one end of chains; `waiters` other tiles lead to it. Each report fills RAS_HANG_INFO anew (R452). The detector's report reaches its own
agent whatever the tile's source is set to. -/
def State.hangReport (s : State) (h : HangEnd) (waiters : Nat) : State :=
  let s := { s with rasw := { s.rasw with reported := sput 0 h.tile (s.rd .tileProgress h.tile + 1) s.rasw.reported } }
  let s := ((s.wr .rasHangInfoValid 0 0 1).wr .rasHangInfoKind 0 0 h.kind).wr .rasHangInfoTile 0 0 h.tile
  let s := ((s.wr .rasHangInfoStage 0 0 (s.rd .tileStage h.tile)).wr .rasHangInfoWaiters 0 0 waiters).wr .rasHangAt 0 0 s.tally
  let s := (s.wr .rasHangInfoPeerDevice 0 0 h.dev).wr .rasHangInfoPeerTile 0 0 h.peer
  let s := ((s.bump .rasHangReports).irq 446).postEventFree 0x0310 3
  let code := 0x600 + h.kind
  let s := s.rasQueue 2 .tile h.tile code (s.rd .tileGen h.tile) (s.rd .tileStage h.tile)
  let trigger := [2, 0, h.tile, code, s.tally]
  match s.hangAction with
  | 0 => s
  | 1 => s.pmCollect trigger []
  | _ => s.pmCollect trigger [(0, h.tile)]

/-- HANG_SCAN: due every RAS_HANG_SCAN_US. -/
def State.hangScan (s : State) : State :=
  if !s.on .rasCfgHangEn ∨ !s.compRuns 3 ∨ s.on .dbgHaltStatusHalted ∨
      s.tally < s.rasw.scanAt + 1000 * max 1 (s.rd .rasHangScanUs) then s
  else
    let ends := ((List.range 256).filter s.hangEval).filterMap (fun t => (s.chain 256 t []).map (fun h => (t, h)))
    let heads := (ends.map (fun e => e.2)).eraseDups
    let once := (heads.map (fun h => (h.kind, h.tile))).eraseDups
    let firsts := once.filterMap (fun k => heads.find? (fun h => (h.kind, h.tile) == k))
    let due := firsts.filter (fun h => sget 0 h.tile s.rasw.reported != s.rd .tileProgress h.tile + 1)
    due.foldl (fun s h => s.hangReport h ((ends.filter (fun e => (e.2.kind, e.2.tile) == (h.kind, h.tile) && e.1 != h.tile)).length))
      { s with rasw := { s.rasw with scanAt := s.tally } }

/-! ### YCP commands (R441, R444, R454, R457) -/

/-- Checks of RESET: a failing status, or none. -/
def State.resetCheck (s : State) (dom inst : Nat) : Option Nat :=
  match dom with
  | 0 => if inst < 256 then none else some 6
  | 1 => if inst ≥ 8 then some 6 else if inst < s.variant.ports then none else some 7
  | 2 => if inst ≥ 16 then some 6 else if inst < s.variant.hbmcs then none else some 7
  | 3 => if inst ≥ 6 then some 6 else if (s.comp inst).mode = .failed ∨ (s.comp inst).mode = .notStarted then some 8 else none
  | 4 => none
  | _ => some 6

/-- Is a reset of a resource over that found generation g? -/
def State.resetOver (s : State) (dom inst g : Nat) : Bool :=
  if dom = 3 then (s.comp inst).mode == .running else s.genOf dom inst != g

/-- The answer to RESET: generation, completion stamp; a notice if asked for, whose CLASS is a free value. -/
def State.resetAnswer (s : State) (dom inst flags : Nat) (stamp : Nat) : State × Option (Nat × List Byte) :=
  let s := { s with rasw := { s.rasw with cmdGen := none } }
  let g := if dom = 4 then 0 else s.genOf dom inst
  let kind := [0, 1, 2, 4, 7].getD dom 7
  let s := if bitOf flags 1 then s.takeFree.2.notice (s.takeFree.1 % 256) kind inst g s.tally else s
  (s, some (0, fieldBytes [(g, 1), (0, 7), (stamp, 8)]))

/-- A warm reset of R444: called for 1 ms ahead, or joined to one that is planned; the response holds the planned start stamp. -/
def State.resetWarm (s : State) (inst flags : Nat) : State × Option (Nat × List Byte) :=
  let s := s.warmCall (s.tally + 1000000)
  s.resetAnswer 4 inst flags (s.rasw.warmPlan - 1)

/-- A record asked for while one is valid: its trigger is logged only (R454). No error caused it: its CLASS is 0 (log 49). -/
def State.triggerLog (s : State) (dom inst : Nat) : State :=
  if s.on .rasPmStatusValid ∧ s.rasw.collecting.isNone then
    s.logAppend ⟨0, s.tally, 0, [0, 1, 2, 4, 7].getD dom 7, inst, 0, if dom = 4 then 0 else s.genOf dom inst, if dom = 4 then 3 else 2, 0⟩
  else s

/-- RESET (R444): a record first if asked for; then the reset begins or is joined, and the response follows its completion. A reset of the RAS agent
itself takes its working data with it (R350): the command, which has begun, is answered when the agent runs again. -/
def State.resetCmd (s : State) (c : Nat) : State :=
  s.ycp c 0x0401 (fun s r =>
    let dom := s.pay r.chan 0 1
    let flags := s.pay r.chan 1 1
    let inst := s.pay r.chan 2 2
    match s.rasw.cmdGen with
    | some g =>
      if s.rasw.collecting.isSome then (s, none)
      else if dom = 4 then s.resetWarm inst flags
      else if s.resetOver dom inst g then s.resetAnswer dom inst flags s.tally else (s, none)
    | none =>
      if r.began ∧ dom = 3 ∧ inst = 3 then s.resetAnswer 3 3 flags s.tally else
      match s.resetCheck dom inst with
      | some st => done s st
      | none =>
        let s := { s with rasw := { s.rasw with cmdGen := some (s.genOf dom inst) } }
        if bitOf flags 0 then ((s.triggerLog dom inst).pmCollect [0, dom, inst, 0, s.tally] (if dom = 4 then [] else [(dom, inst)]), none)
        else if dom = 4 then s.resetWarm inst flags
        else (s.resetBegin dom inst, none))

/-- GET_ERRORS (R441). -/
def State.getErrors (s : State) (c : Nat) : State :=
  s.ycp c 0x0402 (fun s r =>
    let n := s.pay r.chan 0 8
    let l := ((s.rasLog.filter (fun x => decide (x.seq ≥ n))).take 254).flatMap LogRec.bytes
    (s, some (0, natLe 8 n ++ l)))

/-- POSTMORTEM_READ (R454): 8 KiB, or what a response holds of it, at an offset. Without a valid record, or beyond its end, it is refused. The RAS agent
reads it as its core: an address that its MPU blocks or that reaches nothing, and poison, fault it, a line that is held makes it wait, and bytes that a controller
discards are free values (log 24). -/
def State.pmRead (s : State) (c off : Nat) : State :=
  s.ycp c 0x0403 (fun s r =>
    let len := 64 * s.rd .rasPmStatusLength
    if !s.on .rasPmStatusValid then done s 8
    else if off ≥ len then done s 6
    else
      let n := min 8160 (len - off)
      let a := s.rd .rasPmBase + off
      let m := s.hfOk a n
      if !s.mpuMay 3 a n 0 then (s.busFault 3, none)
      else if m = n then
        if (List.range n).any (fun i => s.memBad (a + i)) then ((s.engineRead a n).busFault 3, none) else (s.engineRead a n, some (0, s.memBytes a n))
      else match s.hfAccess (a + m) with
        | .held => (s.lineHold [(a, n)] r.began, none)
        | .discarded _ => ((s.lineStop (a + m)).takeFree.2, some (0, natLe n s.takeFree.1))
        | _ => ((s.lineStop (a + m)).decodeError (.hf 3) (a + m), none))

/-- Registers that RAS_SET may write. -/
def rasSettable (off : Nat) : Bool :=
  [0x0A000000, 0x0A000004, 0x0A000008, 0x0A00000C, 0x0A000010, 0x0A000018, 0x0A00001C, 0x0A000020].contains off ||
    decide (0x0A000080 ≤ off ∧ off < 0x0A0000C0 ∧ off % 4 = 0)

/-- RAS_SET (R457). -/
def State.rasSet (s : State) (c : Nat) : State :=
  s.ycp c 0x0404 (fun s r =>
    let entries := (List.range (s.reqNat r.chan 8 2 / 8)).map (fun i => (s.pay r.chan (8 * i) 4, s.pay r.chan (8 * i + 4) 4))
    if entries.any (fun e => !rasSettable e.1) then done s 6
    else if entries.any (fun e => [0x0A000018, 0x0A00001C, 0x0A000020].contains e.1) ∧ (s.rasw.collecting.isSome ∨ s.on .rasPmStatusValid) then done s 8
    else done (entries.foldl (fun s e => s.storeWord e.1 {} e.2) s) 0)

/-- RAS_CLEAR (R457). -/
def State.rasClear (s : State) (c : Nat) : State :=
  s.ycp c 0x0405 (fun s r =>
    let b := s.pay r.chan 0 4
    if b ≥ 4 then done s 6
    else
    let s := if bitOf b 0 then s.wr .rasPmStatusValid 0 0 0 else s
    done (if bitOf b 1 then s.wr .rasHangInfoValid 0 0 0 else s) 0)

/-! ### The commands -/

def execRasNoticeReceive (n : Nat) (s : State) : Result := .next (s.noticeReceive n)
def execRasErrorReport (s : State) : Result := .next s.rasReport
def execCeThresholdPoll (s : State) : Result := .next s.cePoll
def execHangScan (s : State) : Result := .next s.hangScan
def execPostmortemComplete (s : State) : Result := .next s.pmComplete
def execTileReset (t : TileId) (s : State) : Result := .next (s.tileReset t)
def execPortReset (p : PortId) (s : State) : Result := .next (s.portReset p)
def execHbmcReset (c : HbmcId) (s : State) : Result := .next (s.hbmcReset c)
def execHbmTrained (c : HbmcId) (s : State) : Result := .next (s.hbmTrained c)
def execHbmTrainingLoss (c : HbmcId) (s : State) : Result := .next (s.trainingLoss c)
def execWarmReset (s : State) : Result := .next s.warmReset
def execColdReset (lowNs : Nat) (s : State) : Result := .next (s.coldReset lowNs)
def execReset (c : ChanId) (s : State) : Result := .next (s.resetCmd c)
def execGetErrors (c : ChanId) (s : State) : Result := .next (s.getErrors c)
def execPostmortemRead (c : ChanId) (off : Nat) (s : State) : Result := .next (s.pmRead c off)
def execRasSet (c : ChanId) (s : State) : Result := .next (s.rasSet c)
def execRasClear (c : ChanId) (s : State) : Result := .next (s.rasClear c)

end Sys2Proof.Machine
end

