-- ==== Sys2Proof/Machine/Host.lean ====
section
/-! DEFINITION. The host port: BAR2 accesses, MSI-X, configuration writes, link and host-side resets (R247, R248, R332 to R346). -/
namespace Sys2Proof.Machine

/-! ### BAR2 (R247, R248, R337, R338) -/

/-- Size of BAR2 and of one of its windows. -/
def State.bar2Bytes (s : State) : Nat := 2 ^ (36 + s.adit.bar2Size)
def State.winBytes (s : State) : Nat := s.bar2Bytes / 4

/-- Device address that a BAR2 offset reaches (R338). -/
def State.bar2Addr (s : State) (x : Nat) : Nat := s.rd .adtWinBase 0 (x / s.winBytes) + x % s.winBytes

/-- The 64-byte lines of a span of BAR2: device address and bytes. Fuel bounds their number. -/
def State.bar2Lines (s : State) : Nat → Nat → Nat → List (Nat × Nat)
  | 0, _, _ => []
  | fuel + 1, x, n =>
    if n = 0 then []
    else
      let k := min n (64 - x % 64)
      (s.bar2Addr x, k) :: State.bar2Lines s fuel (x + k) (n - k)

/-- One line of a BAR2 write at its destination: each counts (R247), and one that reaches memory has passed the rings from I/O die 0 (R26) and takes its
slot at priority 6 (R213). -/
def State.bar2Put (s0 : State) (w : HostWrite) : State :=
  let s := s0.bump .adtBar2WrLines
  if !s.adit.fwReady then s.decodeError .bar2 w.addr
  else match s.accessAt w.addr with
    | .ok => ((s.lineDefer w.addr w.data.length (fun _ => 6) none).spanWrite w.addr w.data (fun _ => w.poison)).lineFlits (.ioDie 0) w.addr w.data.length false
    | .discarded c => s.cnt .hbmResetDiscard c 0 1
    | _ => (s.reach w.addr).1.decodeError .bar2 w.addr

/-- Is a line held? In a stop the rings stand still, and what must pass them waits in its channel (R43, R344). -/
def State.bar2Held (s : State) (a : Nat) : Bool :=
  s.accessAt a == .held || (s.inStop && (match s.place a with
    | .spd .. => true
    | .hbm .. => true
    | _ => false))

/-- Does a line wait: for its place, or behind an earlier write of the same line? -/
def State.bar2Waits (s : State) (earlier : List HostWrite) (w : HostWrite) : Bool :=
  s.adit.fwReady && (s.bar2Held w.addr || earlier.any (fun e => e.addr / 64 == w.addr / 64))

/-- Takes lines in arrival order: those that need not wait are performed, the others stay. -/
def State.bar2Take (s : State) (l : List HostWrite) : State :=
  let r := l.foldl (fun (acc : State × List HostWrite) w =>
    if acc.1.bar2Waits acc.2 w then (acc.1, acc.2 ++ [w]) else (acc.1.bar2Put w, acc.2)) (s, [])
  { r.1 with adit := { r.1.adit with writes := r.2 } }

/-- Performs the lines that no longer wait. -/
def State.bar2Drain (s : State) : State := s.bar2Take s.adit.writes

/-- A line that meets a clearing bank is counted there once, when it arrives (R223). -/
def State.bar2Hold (s : State) (a : Nat) : State :=
  match s.place a with
  | .spd t b _ => if s.adit.fwReady && s.clearing t b then s.cnt .spdClearHold t (bankIdx b) 1 else s
  | _ => s

/-- An uncorrectable error of Advanced Error Reporting (R334): its status bit sets, and unless it is masked it is reported and counted (R346). The
places of the bits are those of PCI Express (PRESUMED, log 89). -/
def State.aerUncorrectable (s : State) (bit : Nat) : State :=
  let s := { s with adit := { s.adit with uncSts := s.adit.uncSts ||| 2 ^ bit } }
  if bitOf s.adit.uncMask bit then s else s.bump .adtUncorrErr

/-- UNSUPPORTED_REQUEST (R337). -/
def State.unsupported (s : State) : State := (s.bump .adtUr).aerUncorrectable 20

/-- A write TLP of BAR2 in lines. A poisoned one is counted and writes poison (R218). A function in D3hot accepts no memory request (PRESUMED, log 89). -/
def State.bar2Tlp (s : State) (off : Nat) (data : List Byte) (poison : Bool) : State :=
  if s.adit.d3 ∨ off + data.length > s.bar2Bytes then s.unsupported
  else
    let s := if poison then (s.bump .adtPoisonRx).aerUncorrectable 12 else s
    let id := s.adit.nextId
    let s := { s with adit := { s.adit with nextId := id + 1 } }
    let lines := s.bar2Lines (data.length + 1) off data.length
    let ws := lines.foldl (fun (acc : List HostWrite × Nat) l => (acc.1 ++ [⟨id, l.1, (data.drop acc.2).take l.2, poison⟩], acc.2 + l.2)) ([], 0)
    let s := ws.1.foldl (fun s w => s.bar2Hold w.addr) s
    s.bar2Take (s.adit.writes ++ ws.1)

/-- Max_Payload_Size in bytes (R332). -/
def State.maxPayload (s : State) : Nat := 128 * 2 ^ s.adit.payload

/-- BAR2_WRITE: a write of the host, in TLPs of at most Max_Payload_Size bytes each (R332, log 83). -/
def State.bar2Write (s : State) (off : Nat) (data : List Byte) (poison : Bool) : State :=
  if !s.adit.linkUp then s
  else
    let k := s.maxPayload
    (List.range (max 1 (ceilDiv data.length k))).foldl (fun s i => s.bar2Tlp (off + k * i) ((data.drop (k * i)).take k) poison) s

/-- BAR2_READ: a read of at most 4,096 bytes (R332) waits behind the writes that came before it. -/
def State.bar2Read (s : State) (off len : Nat) : State :=
  if !s.adit.linkUp then s
  else if s.adit.d3 ∨ off + len > s.bar2Bytes ∨ len > 4096 then s.unsupported
  else
    let s := s.bar2Drain
    let r : HostRead := ⟨s.bar2Lines (len + 1) off len, (s.adit.writes.map (fun w => w.id)).eraseDups⟩
    let s := r.lines.foldl (fun s l => s.bar2Hold l.1) s
    { s with adit := { s.adit with reads := s.adit.reads ++ [r] } }

/-- One line of a read, counted and over the rings as a write's: the state, its bytes, whether it is poisoned. -/
def State.bar2Get (s0 : State) (l : Nat × Nat) : State × List Byte × Bool :=
  let s := s0.bump .adtBar2RdLines
  let ones := List.replicate l.2 0xFF#8
  if !s.adit.fwReady then (s.decodeError .bar2 l.1, ones, false)
  else match s.accessAt l.1 with
    | .ok =>
      let r := (s.lineDefer l.1 l.2 (fun _ => 6) none).spanRead l.1 l.2
      (r.1.lineFlits (.ioDie 0) l.1 l.2 true, r.2.1, r.2.2.any (fun u => u.2))
    | .discarded c => (s.cnt .hbmResetDiscard c 0 1, ones, false)
    | _ => ((s.reach l.1).1.decodeError .bar2 l.1, ones, false)

/-- BAR2_READ_COMPLETE: the oldest read, once its earlier writes are accepted and none of its lines is held. A completion with poisoned data
carries EP (R218). -/
def State.bar2Complete (s : State) : State :=
  let s := s.bar2Drain
  match s.adit.reads with
  | [] => s
  | r :: rest =>
    if s.adit.writes.any (fun w => r.after.contains w.id) ∨ (s.adit.fwReady ∧ r.lines.any (fun l => s.bar2Held l.1)) then s
    else
      let s := { s with adit := { s.adit with reads := rest } }
      let g := r.lines.foldl (fun (acc : State × List Byte × Bool) l =>
        let q := acc.1.bar2Get l
        (q.1, acc.2.1 ++ q.2.1, acc.2.2 || q.2.2)) (s, [], false)
      let s := if g.2.2 then g.1.bump .adtPoisonTx else g.1
      let s := { s with adit := { s.adit with ep := g.2.2 } }
      s.answer .host (leNat g.2.1)

/-! ### MSI-X (R341) -/

/-- Sends the message of a pending vector that nothing masks any more. -/
def State.msixFlush (s : State) (v : Nat) : State :=
  let a := s.adit
  if sget false v a.pba && sget false v a.unmasked && a.msixEn && !a.fnMask && a.busMaster && !a.d3 then s.msixSend v else s

/-- MSIX_UNMASK: the host writes a vector's mask; a message that waits for it goes out. -/
def State.msixMask (s : State) (v : Nat) (mask : Bool) : State :=
  { s with adit := { s.adit with unmasked := sput false v (!mask) s.adit.unmasked } }.msixFlush v

/-- Bits of a word that another does not clear. -/
def clearBits (w bits : Nat) : Nat := w - (w &&& bits)

/-- PCI_CONFIG_WRITE (R332, R334, R338, R341): a resize leaves the window bases unchanged; a return from D3hot keeps the function's state (PRESUMED, log
89); messages that nothing masks any more go out. -/
def State.pciWrite (s : State) (w : PciWrite) : State :=
  if !s.adit.linkUp then s
  else
    let s := match w with
      | .bar2Size c => { s with adit := { s.adit with bar2Size := c.val } }
      | .msix en mask => { s with adit := { s.adit with msixEn := en, fnMask := mask } }
      | .busMaster b => { s with adit := { s.adit with busMaster := b } }
      | .power d3 => { s with adit := { s.adit with d3 := d3 } }
      | .maxPayload c => { s with adit := { s.adit with payload := c.val } }
      | .aerClear true bits => { s with adit := { s.adit with uncSts := clearBits s.adit.uncSts bits } }
      | .aerClear false bits => { s with adit := { s.adit with corSts := clearBits s.adit.corSts bits } }
      | .aerMask true bits => { s with adit := { s.adit with uncMask := bits % 2 ^ 32 } }
      | .aerMask false bits => { s with adit := { s.adit with corMask := bits % 2 ^ 32 } }
    (s.adit.pba.map (fun e => e.1)).foldl State.msixFlush s

/-! ### Configuration space and BAR4 (R334, R337) -/

/-- Is a capability among those of the adit (R334)? -/
def pciPresent (c : PciCap) : Bool :=
  [PciCap.pciExpress, .powerManagement, .msix, .aer, .resizableBar, .deviceSerial, .dataLinkFeature, .physicalLayer, .laneMargining, .flr].contains c

/-- What the host reads in configuration space. -/
def State.pciRead (s : State) (r : PciReg) : Nat :=
  let a := s.adit
  match r with
  | .capability c => b2n (pciPresent c)
  | .interruptPin => 0
  | .serialNumber => deviceSerial
  | .powerState => if a.d3 then 3 else 0
  | .maxPayload => a.payload
  | .bar2Size => a.bar2Size
  | .busMaster => b2n a.busMaster
  | .msixControl => b2n a.msixEn * 2 ^ 15 + b2n a.fnMask * 2 ^ 14 + 2047
  | .aerUncorrectable => a.uncSts
  | .aerCorrectable => a.corSts
  | .linkStatus => a.width * 16 + a.speed

/-- A 4-byte word of BAR4: the MSI-X table, whose fourth words hold the mask bits, and the pending bits. -/
def State.bar4Word (s : State) (off : Nat) : Nat :=
  if off < 0x8000 then (if off % 16 = 12 then b2n (!sget false (off / 16) s.adit.unmasked) else sget 0 (off / 4) s.adit.table)
  else if off < 0x8100 then packFields 32 1 (fun i => b2n (sget false ((off - 0x8000) / 4 * 32 + i) s.adit.pba))
  else 0

/-- A write of a word of BAR4: a vector's mask bit, or its message's address, aligned, and data; the pending bits are read only. -/
def State.bar4Put (s : State) (off v : Nat) : State :=
  if off ≥ 0x8000 then s
  else if off % 16 = 12 then s.msixMask (off / 16) (bitOf v 0)
  else { s with adit := { s.adit with table := sput 0 (off / 4) (if off % 16 = 0 then v / 4 * 4 else v) s.adit.table } }

/-- Does an access of BAR4 take effect: within its 64 KiB, of 4 or 8 bytes and aligned? Any other is an Unsupported Request (log 89). -/
def bar4Ok (off size : Nat) : Bool := decide (off < 0x10000) && ((size == 4 && off % 4 == 0) || (size == 8 && off % 8 == 0))

/-- A write of BAR4. -/
def State.bar4Write (s : State) (off size v : Nat) : State :=
  if !s.adit.linkUp then s
  else if s.adit.d3 ∨ !bar4Ok off size then s.unsupported
  else if size = 8 then (s.bar4Put off (v % 2 ^ 32)).bar4Put (off + 4) (v / 2 ^ 32 % 2 ^ 32)
  else s.bar4Put off (v % 2 ^ 32)

/-- A read of BAR4; one that is not accepted answers ones. -/
def State.bar4Read (s : State) (off size : Nat) : State :=
  if !s.adit.linkUp then s
  else if s.adit.d3 ∨ !bar4Ok off size then s.unsupported.answer .host (2 ^ (8 * size) - 1)
  else s.answer .host (s.bar4Word off + if size = 8 then s.bar4Word (off + 4) * 2 ^ 32 else 0)

/-! ### Link and host-side resets (R335, R343, R344) -/

/-- ADIT_LINK_UP: training completes at a width of 2^width lanes and a speed code of speed + 1. -/
def State.aditUp (s : State) (width speed : Nat) : State :=
  if !s.mod.running ∨ !s.mod.refOk ∨ s.mod.perst ∨ s.mod.scanHold ∨ s.adit.linkUp then s
  else { s with adit := { s.adit with linkUp := true, width := 2 ^ width, speed := speed + 1 } }.irq 438

/-- The adit's link goes down. -/
def State.aditDown (s : State) : State :=
  if !s.adit.linkUp then s
  else { s with adit := { s.adit with linkUp := false, width := 0, speed := 0 } }.bump .adtLinkDown

/-- The adit resets: TLPs not performed and completions not sent are counted and gone, and so is the PCI Express state. -/
def State.aditReset (s : State) : State :=
  let a := s.adit
  let lost := ((a.writes.map (fun w => w.id)).eraseDups).length + a.reads.length
  let s := s.cnt .adtResetDiscard 0 0 lost
  { s with adit := { linkUp := a.linkUp, width := a.width, speed := a.speed, fwReady := a.fwReady, bootFail := a.bootFail } }

/-- PERST_SCOPE: 2 and 3 are treated as 0. -/
def State.perstWarm (s : State) : Bool := s.rd .adtCfgPerstScope != 1

/-- HOST_SIDE_RESET (R343): the adit, and with PERST_SCOPE 0 a warm reset, which one in progress absorbs. A Function Level Reset leaves the link up. -/
def State.hostReset (s : State) (k : HostReset) : State :=
  if !s.mod.running then (if k = .perst then { s with mod := { s.mod with perst := true } } else s)
  else
    let s := s.aditReset
    let s := if k = .flr then s else s.aditDown
    let s := (if k = .perst then { s with mod := { s.mod with perst := true } } else s).irq 438
    if s.perstWarm then s.warmCall s.tally else s

/-! ### The commands -/

def execBar2Write (off : Nat) (data : List Byte) (poison : Bool) (s : State) : Result := .next (s.bar2Write off data poison)
def execBar2Read (off len : Nat) (s : State) : Result := .next (s.bar2Read off len)
def execBar2ReadComplete (s : State) : Result := .next s.bar2Complete
def execHostSideReset (k : HostReset) (s : State) : Result := .next (s.hostReset k)
def execUnsupportedRequest (s : State) : Result := .next s.unsupported
def execMsixEvent (v : Fin 2048) (s : State) : Result := .next (s.msix v)
def execMsixUnmask (v : Fin 2048) (mask : Bool) (s : State) : Result := .next (s.msixMask v mask)
def execAditLinkUp (width : Fin 5) (speed : Fin 6) (s : State) : Result := .next (s.aditUp width speed)
def execPciConfigWrite (w : PciWrite) (s : State) : Result := .next (s.pciWrite w)

end Sys2Proof.Machine
end

