-- ==== Sys2Proof/Machine/Module.lean ====
section
/-! DEFINITION. The module's supplies, pins, trips and test port, and the boot chain (R348, R355, R356, R481, R490, R495 to R508). -/
namespace Sys2Proof.Machine

/-! ### Start-up and power (R502, R503, R505) -/

/-- AUX_POWER_ON: housekeeping domains run. -/
def State.auxOn (s : State) : State :=
  if s.mod.aux then s else { s with mod := { s.mod with aux := true } }

/-- MOD_PWR_EN_RISE: honoured once MOD_PWR_EN has been low for 100 ms since it last fell. -/
def State.enRise (s : State) : State :=
  if !s.mod.aux ∨ s.mod.pwrEn ∨ (s.mod.enFellAt ≠ 0 ∧ s.time + 1 < s.mod.enFellAt + 100000000) then s
  else { s with mod := { s.mod with pwrEn := true } }

/-- RAILS_GOOD: MOD_PWRGD rises; every field is at its reset value. START_CAUSE is 0 at the first start since auxiliary power came, else 1. -/
def State.railsGood (s : State) : State :=
  if !s.mod.pwrEn ∨ s.mod.pwrgd ∨ s.mod.tripped then s
  else
    let s' := s.coldState
    { s' with mod := { s.mod with pwrgd := true, pgAt := s.time, running := false, started := true, refOk := true, scanHold := s.mod.scanHold && s.mod.started } }.wr
      .hfModStatusStartCause 0 0 (b2n s.mod.started)

/-- The main rails go down: contents are lost. -/
def State.railsDown (s : State) : State :=
  let s' := s.coldState
  { s' with mod := { s.mod with pwrgd := false, running := false, warned := false } }

/-- MOD_PWR_EN_FALL (R503): the stamp is held plus one. -/
def State.enFall (s : State) : State :=
  if !s.mod.pwrEn then s
  else { s.railsDown with mod := { s.railsDown.mod with pwrEn := false, enFellAt := s.time + 1 } }

/-- AUX_POWER_LOSS (R505): the latches are lost with everything but the flash and the counter device. -/
def State.auxLoss (s : State) : State :=
  if !s.mod.aux then s
  else { s.coldState with mod := {}, regs := [], uart := [] }

/-- The effective PERST# deassertion (R502): PERST# is high and MOD_PWRGD rose 100 ms ago. A device that waits for it starts: DEV_VALID sets, the tally
runs from zero, every replica aligns and every bank clears, and HF0 will run in ROM. -/
def State.perstStart (s : State) : State :=
  if !s.mod.pwrgd ∨ s.mod.running ∨ s.mod.perst ∨ !s.mod.refOk ∨ s.time < s.mod.pgAt + 100000000 then s
  else
    let s := { s with tally := 0, mod := { s.mod with running := true }, boot := { rom := true, cold := true } }
    (List.range 256).foldl State.tileAlign (s.wr .tlyStatusDevValid 0 0 1)

/-- PERST_DEASSERT: PERST# goes high. -/
def State.perstDeassert (s : State) : State := { s with mod := { s.mod with perst := false } }.perstStart

/-! ### Warnings and trips (R497, R505) -/

/-- POWER_STAGE_WARNING: MOD_ALERT# asserts while any warning holds. -/
def State.stageWarn (s : State) : State :=
  if !s.mod.pwrgd ∨ s.mod.warned then s
  else ({ s with mod := { s.mod with warned := true } }.bump .hfModAlerts).irq 443

/-- POWER_STAGE_WARNING_CLEAR. -/
def State.stageClear (s : State) : State := { s with mod := { s.mod with warned := false } }

/-- Codes of TRIP_CAUSE and PWR_TRIP_INFO of a cause (R403, R508). -/
def tripCode : TripCause → Nat × Nat
  | .block k => (1, k.val + 1)
  | .io i => (1, 17 + i.val)
  | .headframe => (1, 21)
  | .stack i => (2, 32 + i.val)
  | .inputHigh => (3, 0)
  | .inputLow => (4, 0)
  | .overcurrent => (5, 0)
  | .auxLow => (6, 0)
  | .stageHot => (7, 0)

/-- TRIP: causes that arise in one instant; the lowest TRIP_CAUSE code is latched, and the first of it named. -/
def State.trip (s : State) (l : List TripCause) : State :=
  match (l.map tripCode).foldl (fun best c =>
      match best with
      | none => some c
      | some b => if c.1 < b.1 then some c else some b) (none : Option (Nat × Nat)) with
  | none => s
  | some c => s.tripNow c.1 c.2

/-- TRIP_LATCH_RELEASE: MOD_PWR_EN has been low for 100 ms. -/
def State.tripRelease (s : State) : State :=
  if s.mod.tripped ∧ !s.mod.pwrEn ∧ s.time + 1 ≥ s.mod.enFellAt + 100000000 then { s with mod := { s.mod with tripped := false } } else s

/-! ### The reference (R498) -/

/-- REF_CLOCK_LOSS: DEV_VALID clears, a class-3 error; ports and the adit lose lock. -/
def State.refLoss (s : State) : State :=
  if !s.mod.running ∨ !s.mod.refOk then s
  else
    let s := ({ s with mod := { s.mod with refOk := false } }.wr .tlyStatusDevValid 0 0 0).report 3 .device 0 2 0 s.tally
    let s := (List.range 8).foldl (fun s p =>
      match (s.port p).mode with
      | .up => s.linkDown p 2
      | .aligning => s.onPort p (fun x => { x with lanes := 0 })
      | _ => s) s
    s.hostReset .linkDown

/-! ### The test port (R431, R501) -/

/-- What stops a debug-port access of memory, which reaches scratchpads, SRAM, the ROM and HBM (R50): the first address that reaches none,
then the first whose controller discards it, then the first that is held. -/
def State.dbgStop (s : State) (a n : Nat) : Option (Nat × Access) :=
  let l := (spanUnits a n).map (fun u => (u.1, s.hfAccess u.1))
  (l.find? (fun x => x.2 == .undecoded)).or ((l.find? (fun x => x.2 != .ok && x.2 != .held)).or (l.find? (fun x => x.2 == .held)))

/-- The answer of the debug port: what it shifts out, and whether it is an error response (R51, R218). -/
def State.jtagAnswer (s : State) (v : Nat) (err : Bool) : State := { s with mod := { s.mod with jtag := v, jtagErr := err } }

/-- A debug-port access of memory that does not go on: one that is held waits (R50, R54, R212, R223), counted once at a clearing bank; one that
a controller discards, or that reaches nothing, answers an error. -/
def State.jtagStop (s : State) (i : JtagInstr) (again : Bool) (x : Nat × Access) : State :=
  match x.2 with
  | .held =>
    let s := { s with mod := { s.mod with jtagWait := s.mod.jtagWait ++ [i] } }
    match s.place x.1 with
    | .spd t b _ => if s.clearing t b && !again then s.cnt .spdClearHold t (bankIdx b) 1 else s
    | _ => s
  | .discarded c => (s.cnt .hbmResetDiscard c 0 1).jtagAnswer 0 true
  | _ => ((s.reach x.1).1.decodeError .dbg x.1).jtagAnswer 0 true

/-- A read of memory by the debug port; poison answers an error (R218). -/
def State.jtagRead (s : State) (a n : Nat) (again : Bool) : State :=
  match s.dbgStop a n with
  | some x => s.jtagStop (.debugRead a n) again x
  | none =>
    let r := s.spanRead a n
    if r.2.2.any (fun u => u.2) then r.1.jtagAnswer 0 true else r.1.jtagAnswer (leNat r.2.1) false

/-- A write of memory by the debug port; what falls on the ROM is discarded and counted as a decode error (R49): one for each 8 bytes, for the spec gives
the port's accesses no width (DESIGN CHOICE, log 32), while an access that reaches nothing counts once. Its lines in scratchpads take slots (R214). -/
def State.jtagWrite (s : State) (a : Nat) (bs : List Byte) (again : Bool) : State :=
  match s.dbgStop a bs.length with
  | some x => s.jtagStop (.debugWrite a bs) again x
  | none => ((spanUnits a bs.length).foldl (fun s u =>
    let piece := (bs.drop (u.1 - a)).take u.2
    match s.place u.1 with
    | .sram _ => s.setBytes (s.place u.1).key piece
    | .rom _ => s.decodeError .dbg u.1
    | _ => s.unitWrite u.1 piece false) (s.jtagAnswer 0 false)).spanCount a bs.length

/-- A debug-port access of memory: while debug access is closed every address is undecoded (R50). -/
def State.jtagMem (s : State) (open_ : Bool) (i : JtagInstr) (again : Bool) : State :=
  match i with
  | .debugRead a n => if open_ then s.jtagRead a n again else (s.decodeError .dbg a).jtagAnswer 0 true
  | .debugWrite a bs => if open_ then s.jtagWrite a bs again else (s.decodeError .dbg a).jtagAnswer 0 true
  | _ => s

/-- The access that a token opened grants a permission (R431). -/
def State.dbgGrant (s : State) (bit : Nat) : Bool := s.on .dbgLockOpen && bitOf (s.rd .dbgLockPerms) bit

/-- Debug-port accesses that waited are made, in order, those that nothing holds any more; once access has closed they reach nothing (R431). -/
def State.jtagRetry (s : State) : State :=
  s.mod.jtagWait.foldl (fun s i => s.jtagMem (s.dbgGrant 0) i true) { s with mod := { s.mod with jtagWait := [] } }

/-- JTAG_INSTRUCTION: boundary scan runs with auxiliary power alone; an instruction that drives pins while MOD_PWR_EN is high holds the host
port and the fabric ports DISABLED until the next cold reset; private instructions return zero while locked. What IDCODE, the boundary
register and private scans shift out is a free value. -/
def State.jtagRun (s : State) (i : JtagInstr) : State :=
  let shift (s : State) (v : Nat) : State := { s with mod := { s.mod with jtag := v } }
  if !s.mod.aux then s
  else match i with
    | .bypass => shift s 0
    | .sample => shift s.takeFree.2 s.takeFree.1
    | .preload => shift s.takeFree.2 s.takeFree.1
    | .idcode => shift s.takeFree.2 s.takeFree.1
    | .drive =>
      let s := shift s.takeFree.2 s.takeFree.1
      if !s.mod.pwrEn then s
      else
        let s := { s with mod := { s.mod with scanHold := true } }
        let s := if s.adit.linkUp then s.hostReset .linkDown else s
        (List.range 8).foldl (fun s p => if (s.port p).mode = .disabled then s else (s.portDiscard p).portMode p .disabled) s
    | .debugRead .. | .debugWrite .. => s.jtagRetry.jtagMem (s.dbgGrant 0) i false
    | .scan => if s.dbgGrant 2 then shift s.takeFree.2 s.takeFree.1 else shift s 0

/-! ### Boot (R353 to R356) -/

/-- Field that holds an image's result. -/
def resultField (img : Nat) : Field := if img = 0 then .hfBootStatusAResult else .hfBootStatusBResult

/-- Bytes of SRAM that an image's text takes (R349). -/
def State.textSize (s : State) (img : Nat) : Nat := ceilDiv (256 + min (s.imgNat img 16 4) 1572864) 4096 * 4096

/-- The components' data areas at an image's start (R349): they follow the image text, in the order of the components; their sizes, within the
table's, are free. -/
def State.dataAreas (s : State) (img : Nat) : List (Nat × Nat × Nat) :=
  let text := 0x100400000 + s.textSize img
  ((List.range 6).foldl (fun (acc : List (Nat × Nat × Nat) × Nat) k =>
    let size := Config.freeValue (s.free + 180 + k) % ([128, 64, 192, 128, 32, 64].getD k 0 + 1) * 4096
    (acc.1 ++ [(k, acc.2, size)], acc.2 + size)) ([], text)).1

/-- What R349 says of a core's regions: all register space, whose slots the component table divides further (compMayWrite), the image's text, read and
execute only, the inter-core message area at the end of SRAM, and the data areas of the core's components. As (base, size, permissions). -/
def State.mpuFixed (s : State) (img core : Nat) : List (Nat × Nat × Nat) :=
  [(0x200000000, 0x10000000, 3), (0x100400000, s.textSize img, 5), (0x1007F0000, 0x10000, 3)] ++
    ((s.dataAreas img).filter (fun a => compCore a.1 == core)).map (fun a => (a.2.1, a.2.2, 3))

/-- The MPU regions 0 to 14 at an image's start (R348): those of R349, and others that the image's component table sets, which are free values; none of
these opens SRAM for writing. Region 15 is the ROM's own (State.mpuOf; DEDUCED, log 53). -/
def mpuRegions (s : State) (img : Nat) : List MpuRegion :=
  (List.range 4).flatMap (fun c =>
    let fixed := s.mpuFixed img c
    (List.range 15).map (fun r =>
      let v (i : Nat) : Nat := Config.freeValue (s.free + 45 * c + 3 * r + i)
      let base := v 0 % 2 ^ 36 * 4096
      let size := v 1 % 2 ^ 36 * 4096
      let sram := decide (base < 0x100800000 ∧ 0x100400000 < base + size)
      match fixed[r]? with
      | some x => ⟨c, r, x.1, x.2.1, x.2.2⟩
      | none => ⟨c, r, base, size, if sram then v 2 % 8 &&& 5 else v 2 % 8⟩))

/-- The ROM starts an image: its components run. The ROM writes each core's IC_VBASE, with a value that the spec does not give (R385). -/
def State.imageStart (s : State) (img : Nat) : State :=
  let s := ((s.wr (resultField img) 0 0 1).wr .hfBootStatusBooted 0 0 (img + 1)).wr .hfFwVersion 0 0 (s.imgNat img 8 4)
  let s := (List.range 6).foldl (fun s k => s.setComp k { mode := .running, beatAt := s.tally }) (s.bump .hfBoots)
  let s := (List.range 4).foldl (fun s c => s.wr .icVbase c 0 (Config.freeValue (s.free + 186 + c))) s
  { s with free := s.free + 190,
           boot := { s.boot with rom := false, image := some img, tried := img :: s.boot.tried, startedAt := s.tally, readyAt := 0,
                                 rollback := s.imgNat img 12 4, protoMin := s.imgNat img 20 2, protoMax := s.imgNat img 22 2,
                                 digest := s.flashBytes (imageBase img + 32) 48, mpu := mpuRegions s img,
                                 areas := s.dataAreas img } }

/-- The ROM's line on the UART for an image attempt (R500). -/
def State.uartImage (s : State) (img : Nat) : State := { s with uart := s.uart ++ [.image img (s.rd (resultField img))] }

/-- The ROM tries an image (R355): the copy into SRAM, then the checks. -/
def State.imageTry (s : State) (img : Nat) (flashErr ctrOk : Bool) : State × Bool :=
  if flashErr then ({ s.wr (resultField img) 0 0 7 with boot := { s.boot with tried := img :: s.boot.tried } }, false)
  else
    let n := 256 + min (s.imgNat img 16 4) 1572864
    let s := s.setBytes 0x100400000 (s.flashBytes (imageBase img) n)
    let r := s.imgCheck img ctrOk
    if r = 0 then (s.imageStart img, true)
    else ({ s.wr (resultField img) 0 0 r with boot := { s.boot with tried := img :: s.boot.tried } }, false)

/-- The record of a trip that the ROM writes to flash at the next start (R441, R505); the RAS agent takes the trip's report once it runs (R439). -/
def State.tripRecord (s : State) : State :=
  if s.mod.tripToLog = 0 then s
  else
    let s := (s.logFlash ⟨0, s.tally, 4, 7, 0, s.mod.tripToLog, 0, 1, s.mod.tripInfo⟩).report 4 .device 0 s.mod.tripToLog 0 s.mod.tripInfo
    { s.wr .hfModStatusTripCause 0 0 0 with mod := { s.mod with tripToLog := 0, tripInfo := 0 } }

/-- What the ROM does before it tries images: the trip record, the identity key, the counters, the records, and after a cold reset the
settings record's PERST_SCOPE (R481, R486, R487, R490). -/
def State.romBegin (s : State) (ctrErr : Bool) : State :=
  let s := s.tripRecord
  let s := s.wr .secStatusIdValid 0 0 (b2n s.identityOk)
  let s := if ctrErr then (s.wr .secStatusCtrErr 0 0 1).cnt .secCtrErr 0 0 4
    else (List.range 4).foldl (fun s i => s.wr .secCtr 0 i (s.counter i)) (s.wr .secStatusCtrErr 0 0 0)
  let s := s.selectRecords
  let s := match s.boot.cold, s.recInForce 7 with
    | true, some b => s.wr .adtCfgPerstScope 0 0 (leNat ((b.drop 32).take 1))
    | _, _ => s
  let pref := match s.recInForce 3 with
    | some b => if s.on .secStatusIdValid then leNat b % 2 else 0
    | none => 0
  { s.wr .hfBootStatusPref 0 0 pref with boot := { s.boot with cold := false } }

/-- Images left to try, the preferred one first. -/
def State.imagesLeft (s : State) : List Nat :=
  let p := s.rd .hfBootStatusPref
  [p, 1 - p].filter (fun i => !s.boot.tried.contains i)

/-- ROM_BOOT: the images that are left, one after the other; with none left BOOT_FAIL sets (R335, R356). -/
def State.romBoot (s : State) (errA errB ctrErr : Bool) : State :=
  if !s.boot.rom ∨ s.mod.perst ∨ !s.mod.running then s
  else
    let s := if s.boot.tried.isEmpty then s.romBegin ctrErr else s
    let r := s.imagesLeft.foldl (fun (acc : State × Bool) i =>
      if acc.2 then acc
      else
        let t := acc.1.imageTry i (if i = 0 then errA else errB) (!ctrErr)
        (t.1.uartImage i, t.2)) (s, false)
    if r.2 then r.1
    else { r.1 with boot := { r.1.boot with rom := false }, adit := { r.1.adit with bootFail := true }, warmAt := 0 }

/-- HF_BOOT_READY_WRITE (R356): FW_READY sets; a warm reset in progress is over. -/
def State.bootReady (s : State) (v : Nat) : State :=
  if s.boot.image.isNone then s
  else if v % 2 = 0 then s.wr .hfBootCtrlReady 0 0 0
  else
    let s := s.wr .hfBootCtrlReady 0 0 1
    { s with adit := { s.adit with fwReady := true }, warmAt := 0,
             boot := { s.boot with readyAt := if s.boot.readyAt = 0 then s.tally + 1 else s.boot.readyAt } }

/-- BOOT_WATCHDOG_EXPIRY (R356): 1,600 ms after the start without READY the ROM resets the headframe and will try the other image. -/
def State.bootWatchdog (s : State) : State :=
  match s.boot.image with
  | none => s
  | some img =>
    if s.boot.readyAt ≠ 0 ∨ s.tally < s.boot.startedAt + 1600000000 then s
    else
      let s := (s.wr (resultField img) 0 0 2).wr .hfBootStatusBooted 0 0 0
      { s with comps := [], ic := {}, mbx := {}, boot := { s.boot with rom := true, image := none } }

/-! ### The commands -/

def execAuxPowerOn (s : State) : Result := .next s.auxOn
def execModPwrEnRise (s : State) : Result := .next s.enRise
def execRailsGood (s : State) : Result := .next s.railsGood
def execModPwrEnFall (s : State) : Result := .next s.enFall
def execAuxPowerLoss (s : State) : Result := .next s.auxLoss
def execPerstDeassert (s : State) : Result := .next s.perstDeassert
def execPowerStageWarning (s : State) : Result := .next s.stageWarn
def execPowerStageWarningClear (s : State) : Result := .next s.stageClear
def execTrip (causes : List TripCause) (s : State) : Result := .next (s.trip causes)
def execTripLatchRelease (s : State) : Result := .next s.tripRelease
def execRefClockLoss (s : State) : Result := .next s.refLoss
def execUartRxChar (_c : Byte) (s : State) : Result := .next s
def execRomBoot (flashErrA flashErrB ctrErr : Bool) (s : State) : Result := .next (s.romBoot flashErrA flashErrB ctrErr)
def execHfBootReadyWrite (v : Nat) (s : State) : Result := .next (s.hfAwake (fun s => s.bootReady v))
def execBootWatchdogExpiry (s : State) : Result := .next s.bootWatchdog

end Sys2Proof.Machine
end

