-- ==== Sys2Proof/Machine/Commands.lean ====
section
/-! DEFINITION. The commands of YCP that set up tiles, ports, routing, groups and power (R363 to R367 and the rules that each cites). A
command whose payload the manual does not lay out carries its payload's fields as operands (assumption log 6). A failing status leaves
the state as it was, but for the counts that its checks make (R365). -/
namespace Sys2Proof.Machine

/-! ### The mailbox service's own commands -/

/-- The firmware's feature map (R367), less what a settings record in force withdraws (R487). BASE is always 1. -/
def State.firmwareMap (s : State) : Nat :=
  let own := if s.variant = .m8i2 then 0x7BF else 0x7FF
  match s.recInForce 7 with
  | some body => own &&& (leNat (body.take 32) ||| 1)
  | none => own

/-- HELLO (R366): the highest pair of both ranges, and the AND of both maps. -/
def State.hello (s : State) (c : Nat) : State :=
  s.ycp c 0x0001 (fun s r =>
    let lo := max (s.pay r.chan 0 2) s.boot.protoMin
    let hi := min (s.pay r.chan 2 2) s.boot.protoMax
    if lo > hi then (s, some (3, fieldBytes [(s.boot.protoMin, 2), (s.boot.protoMax, 2)]))
    else if (List.range 63).any (fun d => d != r.chan && s.rd .mbxState d == 1) then done s 0xA
    else
      let agreed := s.pay r.chan 4 32 &&& s.firmwareMap
      ({ s with mbx := { s.mbx with pair := some hi, features := agreed } },
       some (0, fieldBytes [(hi, 4), (s.rd .hfFwVersion, 4), (s.firmwareMap, 32), (agreed, 32)])))

/-- GET_INFO: the manual names device information without laying it out; its length and bytes are free values. -/
def State.getInfo (s : State) (c : Nat) : State :=
  s.ycp c 0x0002 (fun s _ =>
    let n := s.takeFree
    let v := n.2.takeFree
    (v.2, some (0, natLe (n.1 % 8161) v.1)))

/-- EVT_SUBSCRIBE (R340, R360, R383): each named class raises the vector given, one of the notification vectors; FWD of each named source
sets. -/
def State.evtSubscribe (s : State) (c : Nat) (classes : List (Nat × Nat)) (sources : List Nat) : State :=
  s.ycp c 0x0003 (fun s _ =>
    if classes.any (fun e => decide (e.1 > 6 ∨ e.2 < 1088 ∨ e.2 > 2047)) || sources.any (fun n => !srcOk n) then done s 6
    else
      let vec := classes.foldl (fun l e => sput 1088 e.1 e.2 l) s.mbx.classVec
      let s := { s with mbx := { s.mbx with classVec := vec } }
      done (sources.foldl (fun s n => s.wr .icSrcCfgFwd 0 n 1) s) 0)

/-- ECHO: the response payload is the request's. -/
def State.echo (s : State) (c : Nat) : State :=
  s.ycp c 0x0004 (fun s r => (s, some (0, s.payBytes r.chan 0 (s.reqNat r.chan 8 2))))

/-- SET_WINDOW (R338, R339): bases are multiples of 1 MiB; lower bits are reserved. -/
def State.setWindow (s : State) (c w base : Nat) : State :=
  s.ycp c 0x0101 (fun s _ =>
    if w > 3 ∨ base ≥ 2 ^ 48 then done s 6 else done (s.wr .adtWinBase 0 w (base / 0x100000 * 0x100000)) 0)

/-- SET_BAND_MODE (R53, R54, R363): stack-local mode needs feature bit 8. -/
def State.setBandMode (s : State) (c : Nat) (bands : List (Nat × Nat)) : State :=
  s.ycp c 0x0102 (fun s _ =>
    if bands.any (fun e => e.2 == 2) && !bitOf s.mbx.features 8 then done s 5
    else if bands.any (fun e => decide (e.1 ≥ 36 ∨ e.2 > 3)) then done s 6
    else done (bands.foldl (fun s e => s.bandRequest e.1 e.2) s) 0)

/-- BANK_CLEAR (R224): a write of 1 to CLEAR; the command completes when the clear does. -/
def State.bankClear (s : State) (c t : Nat) (b : BankId) : State :=
  s.ycp c 0x0103 (fun s r =>
    if r.began then (if (s.tile t).stopped || s.clearing t b then (s, none) else done s 0)
    else if t ≥ 256 then done s 6
    else (s.tileWrite (0x06040100 + 64 * bankIdx b) t 0 2, none))

/-- QUEUE_CFG (R176): writes of TILE_QCFG, as (tile, queue, value). -/
def State.queueCfg (s : State) (c : Nat) (entries : List (Nat × Nat × Nat)) : State :=
  s.ycp c 0x0104 (fun s _ =>
    if entries.any (fun e => decide (e.1 ≥ 256 ∨ e.2.1 ≥ 128)) then done s 6
    else done (entries.foldl (fun s e => s.tileWrite 0x06050004 e.1 e.2.1 e.2.2) s) 0)

/-- Writes of the four configuration words of endpoint e (R210). SIZE 0 stands for 32,768. -/
def State.endWrite (s : State) (enable : Bool) (role : Nat) (e : StreamEnd) : State :=
  if !e.here then s
  else
    let at0 := 0x06008800 + 0x40 * e.ep
    if enable then
      let cfg := 2 ^ 31 + role * 2 ^ 30 + e.vc * 2 ^ 27 + e.slots * 2 ^ 12 + e.peerSem * 2 ^ 6 + e.localSem
      let s := s.tileWrite (at0 + 4) e.tile 0 (b2n e.peerLocal * 2 ^ 28 + e.peerDev * 2 ^ 8 + e.peerTile)
      let s := (s.tileWrite (at0 + 8) e.tile 0 e.base).tileWrite (at0 + 12) e.tile 0 (e.size % 32768)
      let s := s.tileWrite (0x06008600 + 4 * e.localSem) e.tile 0 (if role = 0 then e.slots else 0)
      s.tileWrite at0 e.tile 0 cfg
    else s.tileWrite at0 e.tile 0 (s.word at0 { tile := e.tile } % 2 ^ 31)

/-- Do the fields of an end fit the registers that hold them? -/
def endFits (e : StreamEnd) : Bool :=
  decide (e.tile < 256 ∧ e.ep < 16 ∧ e.vc < 8 ∧ e.localSem < 64 ∧ e.peerSem < 64) &&
    decide (e.peerDev < 2 ^ 20 ∧ e.peerTile < 256 ∧ e.base < 2 ^ 17 ∧ e.dev < 2 ^ 20)

/-- Does end a name end b as its peer (R196)? -/
def State.names (s : State) (a b : StreamEnd) : Bool :=
  let there := if a.peerLocal then a.here && b.here
    else if b.here then s.on .fabDevIdValid && a.peerDev == s.rd .fabDevIdId else a.peerDev == b.dev
  a.peerTile == b.tile && a.peerSem == b.localSem && there

/-- Is an end's LOCAL_SEM free of its tile's other enabled endpoints (R196)? -/
def State.semFree (s : State) (e : StreamEnd) : Bool :=
  !e.here || (List.range 16).all (fun i => i == e.ep || !s.on .tileEpEn e.tile i || s.rd .tileEpLocalSem e.tile i != e.localSem)

/-- What R196 asks of a pair. -/
def State.bindOk (s : State) (p q : StreamEnd) : Bool :=
  let lo := 64 * q.base
  let hi := lo + 64 * q.slots * q.size
  let sizes (e : StreamEnd) : Bool := decide (1 ≤ e.slots ∧ e.slots ≤ 255 ∧ 1 ≤ e.size ∧ e.size ≤ 32768)
  let ring := match bankAt lo with
    | some b => decide (hi ≤ bankBase b + bankSize b)
    | none => false
  let apart := !(p.here && q.here && p.tile == q.tile && (p.ep == q.ep || p.localSem == q.localSem))
  sizes p && sizes q && p.base == q.base && p.size == q.size && p.slots == q.slots && ring && apart && s.semFree p && s.semFree q && s.names p q && s.names q p && p.vc == q.vc && decide (2 ≤ p.vc)

/-- STREAM_BIND (R194 to R196): enables a checked pair and initialises its semaphores, or disables a pair. An end on another device is
written by that device's firmware. -/
def State.streamBind (s : State) (c : Nat) (enable : Bool) (p q : StreamEnd) : State :=
  s.ycp c 0x0105 (fun s _ =>
    if !endFits p || !endFits q then done s 6
    else if enable && !s.bindOk p q then done s 8
    else done ((s.endWrite enable 0 p).endWrite enable 1 q) 0)

/-- Stage of a tile after some entries of a STAGE_SET. -/
def State.stageOf (s : State) (entries : List (Nat × Nat)) (t : Nat) : Nat :=
  ((entries.reverse.find? (fun e => e.1 == t)).map Prod.snd).getD (s.rd .tileStage t)

/-- The blocks of each stage, as firmware lists them in PWR_PACE_STAGE (R209, R404). Of more than ten stages the lowest ten identifiers are
listed (log 78). -/
def State.paceStages (s : State) (entries : List (Nat × Nat)) : State :=
  let of (t : Nat) : Nat := s.stageOf entries t
  let ids := ((List.range 256).map of).foldl (fun l e => if e = 0 then l else sput 0 e 1 l) []
  (List.range 10).foldl (fun s i =>
    let e := ((ids[i]?).map Prod.fst).getD 0
    let mask := (List.range 16).foldl (fun m k => if e ≠ 0 ∧ (pbTiles k).any (fun t => of t == e) then m + 2 ^ k else m) 0
    (s.wr .pwrPaceStageStage 0 i e).wr .pwrPaceStagePbMask 0 i mask) s

/-- STAGE_SET (R194, R209): stage identifiers, as (tile, stage). -/
def State.stageSet (s : State) (c : Nat) (entries : List (Nat × Nat)) : State :=
  s.ycp c 0x0106 (fun s _ =>
    if entries.any (fun e => decide (e.1 ≥ 256 ∨ e.2 ≥ 2 ^ 16)) then done s 6
    else done (entries.foldl (fun s e => s.tileWrite 0x06008C10 e.1 0 e.2) (s.paceStages entries)) 0)

/-- Both halves of a 64-bit register of a tile. -/
def State.tileWrite64 (s : State) (off t v : Nat) : State := (s.tileWrite off t 0 (v % 2 ^ 32)).tileWrite (off + 4) t 0 (v / 2 ^ 32 % 2 ^ 32)

/-- SR_KEYS (R80): for each tile the keys given, as (k, value), and the tag. -/
def State.srKeys (s : State) (c : Nat) (entries : List (Nat × List (Nat × Nat) × Option Nat)) : State :=
  s.ycp c 0x0107 (fun s _ =>
    if entries.any (fun e => decide (e.1 ≥ 256) || e.2.1.any (fun k => decide (k.1 ≥ 8))) then done s 6
    else
      let one (s : State) (e : Nat × List (Nat × Nat) × Option Nat) : State :=
        let s := e.2.1.foldl (fun s k => s.tileWrite64 (0x06008100 + 8 * k.1) e.1 k.2) s
        match e.2.2 with
        | some tag => s.tileWrite 0x06008140 e.1 0 tag
        | none => s
      done (entries.foldl one s) 0)

/-- SET_PERST_SCOPE (R343). -/
def State.setPerstScope (s : State) (c scope : Nat) : State :=
  s.ycp c 0x010A (fun s _ => if scope > 3 then done s 6 else done (s.wr .adtCfgPerstScope 0 0 scope) 0)

/-- TILE_START (R170): every entry is checked before any tile starts. -/
def State.tileStart (s : State) (c : Nat) : State :=
  s.ycp c 0x010B (fun s r =>
    let entries := (List.range (s.reqNat r.chan 8 2 / 8)).map (fun i => (s.pay r.chan (8 * i) 2, s.pay r.chan (8 * i + 2) 2, s.pay r.chan (8 * i + 4) 4))
    if entries.any (fun e => decide (e.1 ≥ 256 ∨ e.2.1 ≠ 0 ∨ e.2.2 % 4 ≠ 0 ∨ e.2.2 ≥ 0x80000)) then done s 6
    else if entries.any (fun e => (s.tile e.1).coreState != 0 || !(s.tile e.1).tallyValid) then done s 8
    else done (entries.foldl (fun s e => s.onCore e.1 (fun x => { x with mode := .running, pc := e.2.2 })) s) 0)

/-! ### Time -/

/-- SNAPSHOT_ARM (R45): writes TLY_SNAP_AT and arms; a rejected arm counts as R45 says and leaves TLY_SNAP_AT. -/
def State.snapshotArm (s : State) (c at_ : Nat) : State :=
  s.ycp c 0x0108 (fun s _ =>
    let old := s.rd .tlySnapAt
    let a := (s.wr .tlySnapAt 0 0 at_).snapArm
    if a.2 then done a.1 0 else done (a.1.wr .tlySnapAt 0 0 old) 8)

/-- TALLY_ROLE (R38). -/
def State.tallyRole (s : State) (c role port : Nat) : State :=
  s.ycp c 0x0109 (fun s _ =>
    if role > 3 ∨ port ≥ 8 then done s 6
    else if !s.portPresent port then done s 7
    else done (s.tlyCtrlWrite (16 * port + role)) 0)

/-! ### Ports and routing -/

/-- A port named by a command: the failing status, if any (R7, R364). -/
def State.portStatus (s : State) (p : Nat) : Option Nat := if p ≥ 8 then some 6 else if s.portPresent p then none else some 7

/-- Receive buffers are written only while the port is DISABLED (R266). -/
def State.rxbufWrite (s : State) (p : Nat) (bufs : List Nat) : State :=
  if (s.port p).mode = .disabled then ((List.range 8).zip bufs).foldl (fun s e => s.wr .portRxbufVc p e.1 e.2) s else s

/-- PORT_CFG (R264, R266, R267): an enable that R267 refuses records reason 7 and changes nothing else. -/
def State.portCfg (s : State) (c p : Nat) (f : PortCfg) : State :=
  s.ycp c 0x0201 (fun s _ =>
    match s.portStatus p with
    | some st => done s st
    | none =>
      let t := s.rxbufWrite p f.bufs
      let t := match f.timeoutMs with
        | some v => t.wr .portTrainCfgTimeoutMs p 0 v
        | none => t
      let t := match f.retry with
        | some v => (t.wr .portRetryCfgReplayNs p 0 (v / 65536)).wr .portRetryCfgLimit p 0 v
        | none => t
      match f.ctrl with
      | none => done t 0
      | some v =>
        if bitOf v 31 ∧ (s.port p).mode = .disabled ∧ !t.rxbufOk p then done (s.downRecord p 7) 8
        else done (t.portEnable p v) 0)

/-- PORT_RETRAIN (R264). -/
def State.portRetrainCmd (s : State) (c p : Nat) : State :=
  s.ycp c 0x0202 (fun s _ =>
    match s.portStatus p with
    | some st => done s st
    | none => done (s.portRetrain p) 0)

/-- SET_DEV_ID (R277): assigns an ID, or clears it. 0xF_FFFF is refused. -/
def State.setDevId (s : State) (c : Nat) (id : Option Nat) : State :=
  s.ycp c 0x0203 (fun s _ =>
    match id with
    | none => done (s.wr .fabDevIdValid 0 0 0) 0
    | some v =>
      if v ≥ 2 ^ 20 then done s 6
      else if v = 0xFFFFF then done s 8
      else done ((s.wr .fabDevIdId 0 0 v).wr .fabDevIdValid 0 0 1) 0)

/-- One entry of RT_LOAD, through RT_ACC_ADDR and RT_ACC_DATA (R284). -/
def State.rtLoadOne (s : State) (bank : Nat) (e : Nat × Nat × Nat) : State :=
  let s := (s.wr .rtAccAddrAutoinc 0 0 0).wr .rtAccAddrBank 0 0 bank
  ((s.wr .rtAccAddrLevel 0 0 e.1).wr .rtAccAddrIndex 0 0 e.2.1).rtWrite e.2.2

/-- RT_LOAD (R284, R289): entries as (level, index, value); a bank in use is refused and counted once. -/
def State.rtLoad (s : State) (c bank : Nat) (entries : List (Nat × Nat × Nat)) : State :=
  s.ycp c 0x0204 (fun s _ =>
    if bank > 1 ∨ entries.any (fun e => decide (e.1 > 1 ∨ e.2.1 ≥ rtDepth e.1)) then done s 6
    else if s.rd .fabEpochInj = bank ∨ s.rtHeld bank ≠ 0 then done (s.bump .rtWrDeny) 8
    else done (entries.foldl (fun s e => s.rtLoadOne bank e) s) 0)

/-- EPOCH_SET (R287, R289). -/
def State.epochSet (s : State) (c e : Nat) : State :=
  s.ycp c 0x0205 (fun s _ => if e > 1 then done s 6 else done (s.epochWrite e) 0)

/-- VC_WEIGHT (R279): weights of ports, as (port, value), and of the end stations. A port number that no variant has fails before one that this variant
lacks (R364). -/
def State.vcWeightCmd (s : State) (c : Nat) (ports : List (Nat × Nat)) (endStation : Option Nat) : State :=
  s.ycp c 0x0206 (fun s _ =>
    if ports.any (fun e => s.portStatus e.1 == some 6) then done s 6
    else if ports.any (fun e => s.portStatus e.1 == some 7) then done s 7
    else
      let s := ports.foldl (fun s e => s.wr .vcWeight e.1 0 e.2) s
      match endStation with
      | some v => done (s.wr .fabEndstnWeight 0 0 v) 0
      | none => done s 0)

/-! ### Groups -/

/-- A configuration's fields that name no group member, tile or address (R296, R297). -/
def groupBad (f : GroupIn) : Bool :=
  decide (f.vc > 7 ∨ f.replayLimit > 15 ∨ f.tile ≥ 256 ∨ f.gid ≥ 2 ^ 16 ∨ f.n = 0 ∨ f.n > 1048576) ||
    decide (f.index ≥ f.n ∨ f.map ≥ 2 ^ 48 ∨ f.stepNs ≥ 2 ^ 32 ∨ f.progressNs ≥ 2 ^ 32 ∨ f.seq ≥ 2 ^ 32)

/-- Writes the COLL_ registers of a group (R298). -/
def State.groupStore (s : State) (g : Nat) (f : GroupIn) : State :=
  let s := ((s.wr .collCfgVc g 0 f.vc).wr .collCfgReplayLimit g 0 f.replayLimit).wr .collCfgTile g 0 f.tile
  let s := ((s.wr .collCfgGid g 0 f.gid).wr .collNM1 g 0 (f.n - 1)).wr .collIndex g 0 f.index
  let s := ((s.wr .collMap g 0 f.map).wr .collStepTimeoutNs g 0 f.stepNs).wr .collProgressTimeoutNs g 0 f.progressNs
  (s.wr .collSeq g 0 f.seq).wr .collCfgValid g 0 (b2n f.valid)

/-- The places of map entries. -/
def mapSpans (base : Nat) (ms : List Nat) : List (Nat × Nat) := ms.map (fun m => (base + 4 * m, 4))

/-- Is the memory that holds map entries held at the moment (R54, R223)? -/
def State.mapHeld (s : State) (base : Nat) (ms : List Nat) : Bool := (s.heldAt (mapSpans base ms)).isSome

/-- A map entry that a configuration could not read counts at what refused it (R221, R233). -/
def State.mapFailed (s : State) : MapEntry → State
  | .undecoded a => s.lineStop a
  | _ => s

/-- GROUP_CFG (R296 to R298): an entry that cannot be read fails, and then a second group of a GID and TILE, or more than 64 peers, is refused (R364).
Without VALID no entry is read. -/
def State.groupCfg (s : State) (c g : Nat) (f : GroupIn) : State :=
  s.ycp c 0x0207 (fun s r =>
    if g ≥ 64 ∨ groupBad f then done s 6
    else
      let twin := (List.range 64).any (fun h => h != g && s.on .collCfgValid h && s.rd .collCfgGid h == f.gid && s.rd .collCfgTile h == f.tile)
      let ms := schedulePeers f.n (orderOf (s.rd .collOrderMode g) f.n) f.index
      let refused := twin || decide (ms.length > 64)
      if !f.valid then
        if refused then done s 8 else done { s.groupStore g f with collMap := sput [] g [] s.collMap } 0
      else if s.mapHeld f.map ms then (s.lineHold (mapSpans f.map ms) r.began, none)
      else
        let r := s.mapEntries f.tile f.map ms
        match r.2.2 with
        | some e => done (r.1.mapFailed e) 6
        | none => if refused then done r.1 8 else done { r.1.groupStore g f with collMap := sput [] g r.2.1 s.collMap } 0)

/-- GROUP_RESET (R319). -/
def State.groupReset (s : State) (c g seq : Nat) : State :=
  s.ycp c 0x0208 (fun s _ =>
    if g ≥ 64 ∨ seq ≥ 2 ^ 32 then done s 6 else done ((s.wr .collStatusAborted g 0 0).wr .collSeq g 0 seq) 0)

/-- GROUP_ABORT (R318, reason 6): a running collective aborts; an idle group is ABORTED. A group that is not VALID has nothing to abort. -/
def State.groupAbort (s : State) (c g : Nat) : State :=
  s.ycp c 0x0209 (fun s _ =>
    if g ≥ 64 then done s 6
    else if !s.on .collCfgValid g then done s 8
    else match s.coll g with
      | some x => done (s.collAbortHere g x 6 x.me 0) 0
      | none => done (((s.abortRecord g 6 (s.rd .collIndex g) 0 0 0).wr .collStatusAborted g 0 1).irq (256 + g)) 0)

/-- GROUP_ORDER (R131, R132, R296): the peers that the new order adds to a VALID group are read as GROUP_CFG reads them, before their number is judged
(R364). -/
def State.groupOrder (s : State) (c g mode : Nat) : State :=
  s.ycp c 0x020A (fun s r =>
    if g ≥ 64 ∨ mode > 3 then done s 6
    else
      let n := s.groupN g
      let ms := schedulePeers n (orderOf mode n) (s.rd .collIndex g)
      let have_ := sget [] g s.collMap
      let new := if s.on .collCfgValid g then ms.filter (fun m => !have_.any (fun e => e.1 == m)) else []
      if s.mapHeld (s.rd .collMap g) new then (s.lineHold (mapSpans (s.rd .collMap g) new) r.began, none)
      else
        let r := s.mapEntries (s.rd .collCfgTile g) (s.rd .collMap g) new
        match r.2.2 with
        | some e => done (r.1.mapFailed e) 6
        | none => if ms.length > 64 then done r.1 8 else done { r.1.wr .collOrderMode g 0 mode with collMap := sput [] g (have_ ++ r.2.1) s.collMap } 0)

/-! ### Power -/

/-- SET_CAP (R4, R392). -/
def State.setCap (s : State) (c watts : Nat) : State :=
  s.ycp c 0x0301 (fun s _ => if watts < 600 then done s 6 else done (s.capMark.wr .pwrCapCapW 0 0 (min watts s.variant.tdp)) 0)

/-- GET_POWER (R407): 64 response bytes (the example of R368) whose layout the manual does not give. -/
def State.getPower (s : State) (c : Nat) : State :=
  s.ycp c 0x0302 (fun s _ => (s.takeFree.2, some (0, natLe 64 s.takeFree.1)))

/-- PACE_MODE (R408). -/
def State.paceMode (s : State) (c : Nat) (on : Bool) : State :=
  s.ycp c 0x0303 (fun s _ => done (s.wr .pwrPaceCfgMatchEn 0 0 (b2n on)) 0)

/-- What a gated tile keeps: its next hoist tag, and a reset in progress. Replica, work and scratchpad contents are lost (R42, R399). -/
def State.gateTile (s : State) (t : Nat) : State :=
  let x := s.tile t
  let s := s.setTile t { gated := true, resetAt := x.resetAt, hoist := { nextTag := x.hoist.nextTag }, reads := x.reads }
  let s := allBanks.foldl (fun s b => (sget {} (bankIdx b) x.banks).waiting.foldl (fun s w => s.bankFail t b w.req) s) s
  allBanks.foldl (fun s b => s.zeroBank t b) s

/-- A tile whose rail is up again: its replica waits for REPLICA_RESYNC; the hang detector judges it from now on (R450). -/
def State.wakeTile (s : State) (t : Nat) : State :=
  { s.onTile t (fun x => { x with gated := false }) with quietFrom := sput 0 t s.tally s.quietFrom }

/-- Does a block hold an enabled stream endpoint or queue (R208)? -/
def State.pbBound (s : State) (k : Nat) : Bool :=
  (pbTiles k).any (fun t => (List.range 16).any (fun e => s.on .tileEpEn t e) || (List.range 128).any (fun q => s.on .tileQcfgEn (qInst t q)))

/-- PB_GATE (R399, R426): off at once, or on, which completes when every replica of the block is valid. -/
def State.pbGate (s : State) (c k : Nat) (on : Bool) : State :=
  s.ycp c 0x0304 (fun s r =>
    if r.began then (if (pbTiles k).all (fun t => (s.tile t).tallyValid) then done s 0 else (s, none))
    else if k ≥ 16 then done s 6
    else if s.inStop then done s 8
    else if on then
      if s.pbGated k then ((pbTiles k).foldl State.wakeTile s, none) else done s 0
    else if s.pbGated k then done s 0
    else if s.pbBound k then done (s.bump .pwrGateRefused) 8
    else done ((pbTiles k).foldl State.gateTile s) 0)

/-! ### The commands -/

def execHello (c : ChanId) (s : State) : Result := .next (s.hello c)
def execGetInfo (c : ChanId) (s : State) : Result := .next (s.getInfo c)
def execEvtSubscribe (c : ChanId) (classes : List (Nat × Nat)) (sources : List Nat) (s : State) : Result := .next (s.evtSubscribe c classes sources)
def execEcho (c : ChanId) (s : State) : Result := .next (s.echo c)
def execSetWindow (c : ChanId) (w base : Nat) (s : State) : Result := .next (s.setWindow c w base)
def execSetBandMode (c : ChanId) (bands : List (Nat × Nat)) (s : State) : Result := .next (s.setBandMode c bands)
def execBankClear (c : ChanId) (t : Nat) (b : BankId) (s : State) : Result := .next (s.bankClear c t b)
def execQueueCfg (c : ChanId) (entries : List (Nat × Nat × Nat)) (s : State) : Result := .next (s.queueCfg c entries)
def execStreamBind (c : ChanId) (enable : Bool) (prod cons : StreamEnd) (s : State) : Result := .next (s.streamBind c enable prod cons)
def execStageSet (c : ChanId) (entries : List (Nat × Nat)) (s : State) : Result := .next (s.stageSet c entries)
def execSrKeys (c : ChanId) (entries : List (Nat × List (Nat × Nat) × Option Nat)) (s : State) : Result := .next (s.srKeys c entries)
def execSnapshotArm (c : ChanId) (at_ : Nat) (s : State) : Result := .next (s.snapshotArm c at_)
def execTallyRole (c : ChanId) (role port : Nat) (s : State) : Result := .next (s.tallyRole c role port)
def execSetPerstScope (c : ChanId) (scope : Nat) (s : State) : Result := .next (s.setPerstScope c scope)
def execTileStart (c : ChanId) (s : State) : Result := .next (s.tileStart c)
def execPortCfg (c : ChanId) (p : Nat) (cfg : PortCfg) (s : State) : Result := .next (s.portCfg c p cfg)
def execPortRetrain (c : ChanId) (p : Nat) (s : State) : Result := .next (s.portRetrainCmd c p)
def execSetDevId (c : ChanId) (id : Option Nat) (s : State) : Result := .next (s.setDevId c id)
def execRtLoad (c : ChanId) (bank : Nat) (entries : List (Nat × Nat × Nat)) (s : State) : Result := .next (s.rtLoad c bank entries)
def execEpochSet (c : ChanId) (e : Nat) (s : State) : Result := .next (s.epochSet c e)
def execVcWeight (c : ChanId) (ports : List (Nat × Nat)) (endStation : Option Nat) (s : State) : Result := .next (s.vcWeightCmd c ports endStation)
def execGroupCfg (c : ChanId) (g : Nat) (cfg : GroupIn) (s : State) : Result := .next (s.groupCfg c g cfg)
def execGroupReset (c : ChanId) (g seq : Nat) (s : State) : Result := .next (s.groupReset c g seq)
def execGroupAbort (c : ChanId) (g : Nat) (s : State) : Result := .next (s.groupAbort c g)
def execGroupOrder (c : ChanId) (g mode : Nat) (s : State) : Result := .next (s.groupOrder c g mode)
def execSetCap (c : ChanId) (watts : Nat) (s : State) : Result := .next (s.setCap c watts)
def execGetPower (c : ChanId) (s : State) : Result := .next (s.getPower c)
def execPaceMode (c : ChanId) (on : Bool) (s : State) : Result := .next (s.paceMode c on)
def execPbGate (c : ChanId) (k : Nat) (on : Bool) (s : State) : Result := .next (s.pbGate c k on)

end Sys2Proof.Machine
end

