-- ==== Sys2Proof/Machine/RegWrite.lean ====
section
/-! DEFINITION. Register accesses of the agents (R7, R12 to R18, R55 to R64, R426, R499): select registers, sizes, the high-half latch,
and what a write at each offset does. -/
namespace Sys2Proof.Machine

/-! ### Agents and their selects -/

/-- The select values in force for an agent (R18, R62). -/
def State.selOf (s : State) (a : Nat) : Sel :=
  { tile := s.rd .tileSelIndex a, q := s.rd .qselIndex a, port := s.rd .portSelIndex a, hbmc := s.rd .hbmSelIndex a,
    group := s.rd .groupSelIndex a, cnt := s.rd .cntSelIndex a, agent := a }

/-- INDEX field of a select register. -/
def selField : SelKind → Field
  | .port => .portSelIndex
  | .tile => .tileSelIndex
  | .queue => .qselIndex
  | .hbm => .hbmSelIndex
  | .group => .groupSelIndex
  | .counter => .cntSelIndex

/-- The select register at an offset (R57, R58). -/
def selAt (off : Nat) : Option SelKind :=
  match off with
  | 0x05000000 => some .port
  | 0x06000000 => some .tile
  | 0x06050000 => some .queue
  | 0x07000000 => some .hbm
  | 0x08000000 => some .group
  | 0x09000000 => some .counter
  | _ => none

/-- 4 bytes at an aligned offset or 8 bytes at an 8-byte-aligned one (R60). -/
def sizeOk (off size : Nat) : Bool := (size == 4 && off % 4 == 0) || (size == 8 && off % 8 == 0)

/-- Offsets of the first MiB of a slot decode (R55). -/
def regDecodes (off : Nat) : Bool := decide (off < 0x10000000) && off / 0x100000 % 16 == 0

/-- REGISTER_SIZE_ERROR (R60). -/
def State.sizeError (s : State) : Agent → State
  | .host => s.bump .adtRegSizeErr
  | .hf c => s.busFault c
  | _ => s

/-- May the agent reach register space, and does the offset decode for it (R50, R55, R431)? BAR0 has no undecoded offset (R56), but answers in D0
only (PRESUMED, log 89). -/
def State.regReach (s : State) (a : Agent) (off : Nat) : Bool :=
  match a with
  | .host => !s.adit.d3
  | .hf _ => regDecodes off
  | .dbg => s.dbgGrant 0 && regDecodes off
  | .sideband => true

/-- An access of an agent that reaches no register: a decode error (R51), or the host's access of a function in D3hot. -/
def State.regUndecoded (s : State) (a : Agent) (off : Nat) : State :=
  match a with
  | .host => s.unsupported
  | .hf c => s.decodeError (.hf c) (0x200000000 + off)
  | .dbg => s.decodeError .dbg (0x200000000 + off)
  | _ => s

/-! ### Memory protection of a headframe core in register space (R348, R349) -/

/-- May a component write an offset (R349)? The slots of its table, and the select registers, without which it could not read all register space. The reset
controls that the RAS agent may write in every slot are named nowhere, so it writes none by a register (DEDUCED, log 84). -/
def compMayWrite (k off : Nat) : Bool :=
  let slot := off / 2 ^ 24
  let page (lo hi : Nat) : Bool := decide (lo ≤ off ∧ off < hi)
  let snap := off == 0x2028 || off == 0x202C || off == 0x2030
  (selAt off).isSome || (match k with
    | 0 => page 0 0x1000 || [1, 2, 6, 7].contains slot
    | 1 => slot == 3
    | 2 => (page 0x2000 0x3000 && !snap) || [4, 5, 8].contains slot
    | 3 => page 0 0x1000 || page 0x10000 0x12000 || slot == 10
    | 4 => slot == 9
    | _ => page 0x20000 0x21000 || page 0x30000 0x31000 || snap || slot == 11)

/-- Does some region of the core's MPU permit the access of an agent (permission bit 0 read, 1 write)? Only headframe cores have an MPU. -/
def State.regMay (s : State) (a : Agent) (off size bit : Nat) : Bool :=
  match a with
  | .hf c => s.mpuMay c (0x200000000 + off) size bit
  | _ => true

/-- Does a component that acts on the writing core write the offset? -/
def State.slotMay (s : State) (a : Agent) (off : Nat) : Bool :=
  match a with
  | .hf c => (s.coreComps c).any (fun k => compMayWrite k off)
  | _ => true

/-- A blocked access changes nothing and raises an MPU fault on the core. -/
def State.mpuFault (s : State) : Agent → State
  | .hf c => s.busFault c
  | _ => s

/-- Is the agent a core whose clock is stopped (R382)? It makes no access. -/
def State.dormant (s : State) : Agent → Bool
  | .hf _ => s.ic.asleep
  | _ => false

/-! ### Writes -/

/-- A write of one of a group's or the device's registers with an effect of its own, or plain storage (slots 0 to 5 and 7 to 11). -/
def State.regStore (s : State) (off : Nat) (sel : Sel) (v : Nat) : State :=
  if off = 0x200C then s.tlyCtrlWrite v
  else if off = 0x2030 then s.snapArmWrite v
  else if 0x10000 ≤ off ∧ off < 0x11000 then s.icSrcCfg ((off - 0x10000) / 4) v
  else if off = 0x11104 then s.icFix v
  else if off = 0x20000 then s.crcCtrl v
  else if off = 0x20004 then s.crcData 1 v
  else if off = 0x20008 then s.crcData 2 v
  else if off = 0x2000C then s.crcData 4 v
  else if off = 0x03000000 then s.capMark.storeWord off sel v
  else if off = 0x04000004 then s.epochWrite v
  else if off = 0x04010004 then s.rtWrite v
  else if off = 0x05000004 then s.portEnable sel.port v
  else if 0x05000040 ≤ off ∧ off < 0x05000060 ∧ (s.port sel.port).mode ≠ .disabled then s
  else if 0x070F0000 ≤ off ∧ off < 0x070F000C then s.bandModeWrite ((off - 0x070F0000) / 4) v
  else if off = 0x090F0010 then
    let t := if bitOf v 31 then s.haltGo v (s.rd .dbgHaltId) else s
    t.resumeWrite (if bitOf v 31 then v % 2 ^ 30 else v)
  else s.storeWord off sel v

/-- A write in the mailbox slot (R336, R358, R370): doorbells, request buffers and the tail of the event ring; response buffers are read
only. The BUSY rule is for the host. -/
def State.mbxStore (s : State) (a : Agent) (off : Nat) (wide : Bool) (v : Nat) : State :=
  let c := (off - 0x01000000) / 0x4000
  let o := off % 0x4000
  if o = 0 then s.doorbell c v
  else if o = 0x24 then (if c = 63 then s.wr .mbxEvtTail 63 0 v else s)
  else if 0x40 ≤ o ∧ o < 0x2000 then
    if a = .host then s.mbxReqWrite c ((o - 0x40) / 4) wide v
    else s.setBytes (0x200000000 + off) (natLe (if wide then 8 else 4) v)
  else s

/-- Is an agent a headframe core? -/
def agentIsCore : Agent → Bool
  | .hf _ => true
  | _ => false

/-- One 4-byte word of a write that has passed every check. READY is the headframe's alone (R369). -/
def State.wordStore (s : State) (a : Agent) (off v : Nat) : State :=
  let sel := s.selOf (agentIdx a)
  match selAt off with
  | some k => s.wr (selField k) (agentIdx a) 0 v
  | none =>
    if 0x01000000 ≤ off ∧ off < 0x01100000 then s.mbxStore a off false v
    else if off = 0x108 then (if agentIsCore a then s.bootReady v else s)
    else if 0x06000000 ≤ off ∧ off < 0x060F0000 then s.tileWrite off sel.tile sel.q v
    else s.regStore off sel v

/-- May the host write an offset (R61): select registers and the mailbox slot. -/
def hostMay (off : Nat) : Bool := (selAt off).isSome || decide (0x01000000 ≤ off ∧ off < 0x01100000)

/-- The words of a write: (offset, value). -/
def regWords32 (off size v : Nat) : List (Nat × Nat) :=
  if size = 8 then [(off, v % 2 ^ 32), (off + 4, v / 2 ^ 32 % 2 ^ 32)] else [(off, v % 2 ^ 32)]

/-- Is an offset in the request buffer of a channel? -/
def inReqBuffer (off : Nat) : Bool := decide (0x01000000 ≤ off ∧ off < 0x01100000) && decide (0x40 ≤ off % 0x4000 ∧ off % 0x4000 < 0x2000)

/-- What the host may not write is denied (R61). -/
def wordDenied (a : Agent) (off : Nat) : Bool := decide (a = .host) && !hostMay off

/-- What lies behind an absent select is ignored (R7). A host write that is both denied and ignored counts in ADT_REG_WR_DENY alone: the manual does
not say (DESIGN CHOICE, log 77). -/
def State.wordIgnored (s : State) (a : Agent) (off : Nat) : Bool := !wordDenied a off && !s.selPresent off (s.selOf (agentIdx a))

/-- One 4-byte word of a write. -/
def State.wordWrite (s : State) (a : Agent) (off v : Nat) : State :=
  if wordDenied a off ∨ s.wordIgnored a off then s else s.wordStore a off v

/-- The words of a write in their order, and whether one of them was ignored. -/
def State.wordsWrite (s : State) (a : Agent) (ws : List (Nat × Nat)) : State × Bool :=
  ws.foldl (fun (r : State × Bool) w => (r.1.wordWrite a w.1 w.2, r.2 || r.1.wordIgnored a w.1)) (s, false)

/-- A register write of an agent (R7, R17, R60 to R62, R348). The low word of an 8-byte write goes first: where it is a select register, the
second word is governed by the instance just named (DESIGN CHOICE, log 77). A write that is denied or ignored counts once, whatever its size. -/
def State.regWrite (s : State) (a : Agent) (off size v : Nat) : State :=
  if a = .sideband ∨ s.dormant a then s
  else if !s.regMay a off size 1 then s.mpuFault a
  else if !s.regReach a off then s.regUndecoded a off
  else if !sizeOk off size then s.sizeError a
  else if !s.slotMay a off then s.mpuFault a
  else if size = 8 ∧ inReqBuffer off then s.mbxStore a off true (v % 2 ^ 64)
  else
    let ws := regWords32 off size v
    let r := s.wordsWrite a ws
    let t := if r.2 then r.1.bump .hfSelAbsentWr else r.1
    if ws.any (fun w => wordDenied a w.1) then t.bump .adtRegWrDeny else t

/-- Hardware sets W1C bits of the words in the same access (R12): `sets` names them as the value written does, `info` the values of the
record that a VALID bit is set with. -/
def State.regSets (s : State) (sel : Sel) (off size sets : Nat) (info : List Nat) : State :=
  (regWords32 off size sets).foldl (fun s w => s.setW1c w.1 sel w.2 info) s

/-- A write of one of its own control registers by a headframe core (R374 to R381). The component whose handler completes a source is the one that
handles the entry on top of the stack; where it is empty, the one that runs on the core. -/
def State.crStore (s : State) (core off v : Nat) : State :=
  if off = 4 then
    match s.icStackOf core with
    | [] => match s.actingComp core with
      | some r => r.2.icEoi r.1 v
      | none => s
    | e :: _ => s.icEoi (srcComp core e.1) v
  else if off = 8 then s.icPmrWrite core v
  else if off = 0xC then s.wr .icVbase core 0 (v / 2 ^ 14)
  else if off = 0x10 then s.icSignal v
  else if 0x20 ≤ off ∧ off < 0x40 ∧ off % 4 = 0 then
    let i := (off - 0x20) / 8
    let old := s.rd .icTimerAt core i
    s.wr .icTimerAt core i (if off % 8 = 0 then old / 2 ^ 32 * 2 ^ 32 + v % 2 ^ 32 else old % 2 ^ 32 + v % 2 ^ 32 * 2 ^ 32)
  else s

/-- Timers of a core that a write of some words leaves at a value already reached fire at once (R381). -/
def State.crTimers (s : State) (core : Nat) (offs : List Nat) : State :=
  [0, 1, 2, 3].foldl (fun s i => if offs.any (fun o => o / 8 * 8 == 0x20 + 8 * i) then s.icTimer core i else s) s

/-- The register-space offset that an agent's offset names: the host's is an offset of BAR0, whose bits 23:20 select the slot (R56). -/
def agentOff (a : Agent) (off : Nat) : Nat := if a = .host then off / 2 ^ 20 % 16 * 2 ^ 24 + off % 2 ^ 20 else off

/-- REGISTER_WRITE: control registers belong to the core that writes them, BAR4 to the host, and configuration space is written by PCI_CONFIG_WRITE.
W1C bits that hardware sets in the same access win (R12). -/
def State.registerWrite (s : State) (a : Agent) (t : RegTarget) (size v sets : Nat) (info : List Nat) : State :=
  match t with
  | .space off => (s.regWrite a (agentOff a off) size v).regSets (s.selOf (agentIdx a)) (agentOff a off) size sets info
  | .control core off =>
    if a ≠ .hf core ∨ s.ic.asleep then s
    else if !sizeOk off size then s.busFault core
    else
      let ws := regWords32 off size v
      (ws.foldl (fun s w => s.crStore core w.1 w.2) s).crTimers core (ws.map Prod.fst)
  | .bar4 off => if a = .host then s.bar4Write off size v else s
  | .config _ => s

/-- SELECT_REGISTER_WRITE (R17, R18): the writer's own copy is re-pointed; the sideband writes no select register. QSEL itself lies behind
TILE_SEL (R57). -/
def State.selectWrite (s : State) (a : Agent) (k : SelKind) (v : Nat) : State := s.regWrite a (selField k).info.off 4 v

/-! ### Reads -/

/-- What reading a word does beside answering it: RT_ACC_DATA advances, CRC_RESULT waits for the feed, and supply readings are free at each
read (R294, R471, R508). -/
def State.readEffect (s : State) (off : Nat) : State :=
  if off = 0x04010004 then s.rtAdvance
  else if off = 0x20010 ∨ off = 0x20014 then s.crcHold.2
  else if off = 0x304 then { s with free := s.free + 2 }
  else s

/-- The word that a read of an offset answers. -/
def State.wordRead (s : State) (off : Nat) (sel : Sel) : Nat := if off = 0x04010004 then s.rtRead else s.word off sel

/-- A 4-byte read (R14, R63). -/
def State.read4 (s : State) (a : Agent) (off : Nat) : State :=
  let sel := s.selOf (agentIdx a)
  let r := s.latchRead (agentIdx a) off sel (s.wordRead off sel)
  (r.1.readEffect off).answer a r.2

/-- An 8-byte read: both halves from one instant; the latch is left alone (R60). It waits for the feed once (R471). -/
def State.read8 (s : State) (a : Agent) (off : Nat) : State :=
  let sel := s.selOf (agentIdx a)
  (if off = 0x20010 then s.readEffect off else (s.readEffect off).readEffect (off + 4)).answer a (s.wordRead off sel + s.wordRead (off + 4) sel * 2 ^ 32)

/-- A read by the sideband (R499): slot 0 only; without the main stage only HF_VARIANT and the HF_MOD_ registers. -/
def State.sidebandRead (s : State) (off : Nat) : State :=
  if !s.mod.aux then s
  else if off ≥ 0x100000 ∨ off % 4 ≠ 0 ∨ (!s.mod.pwrgd ∧ off ≠ 0x40 ∧ !(0x300 ≤ off ∧ off < 0x310)) then s.answer .sideband 0
  else s.read4 .sideband off

/-- What an access that reaches no register answers: ones to the host, whose function is in D3hot, zero to the others. -/
def missAnswer (a : Agent) (size : Nat) : Nat := if a = .host then 2 ^ (8 * size) - 1 else 0

/-- A register read of an agent (R60). One that the MPU of a headframe core blocks returns zero (R348). -/
def State.regRead (s : State) (a : Agent) (off size : Nat) : State :=
  if a = .sideband then s.sidebandRead off
  else if s.dormant a then s
  else if !s.regMay a off size 0 then (s.mpuFault a).answer a 0
  else if !s.regReach a off then (s.regUndecoded a off).answer a (missAnswer a size)
  else if !sizeOk off size then (s.sizeError a).answer a (2 ^ (8 * size) - 1)
  else if size = 8 then s.read8 a off
  else s.read4 a off

/-- A word of a core's control registers (R385): write-only and reserved bits read zero. -/
def State.crWord (s : State) (core off : Nat) : Nat :=
  if off = 0 then sget 0 core s.ic.cur - 1
  else if off = 8 then s.rd .icPmr core
  else if off = 0xC then s.rd .icVbase core * 2 ^ 14
  else if 0x20 ≤ off ∧ off < 0x40 ∧ off % 4 = 0 then s.rd .icTimerAt core ((off - 0x20) / 8) / 2 ^ (8 * (off % 8)) % 2 ^ 32
  else 0

/-- A read of one of its own control registers by a headframe core. -/
def State.crRead (s : State) (core : CoreId) (off size : Nat) : State :=
  if s.ic.asleep then s
  else if !sizeOk off size then (s.busFault core).answer (.hf core) (2 ^ (8 * size) - 1)
  else s.answer (.hf core) (s.crWord core off + if size = 8 then s.crWord core (off + 4) * 2 ^ 32 else 0)

/-- LOW_HALF_READ, and every other read without a row of its own: of register space, of a core's own control registers, of BAR4 and of configuration space. -/
def State.targetRead (s : State) (a : Agent) (t : RegTarget) (size : Nat) : State :=
  match t with
  | .space off => s.regRead a (agentOff a off) size
  | .control core off => if a = .hf core then s.crRead core off size else s
  | .bar4 off => if a = .host then s.bar4Read off size else s
  | .config r => if a = .host ∧ s.adit.linkUp then s.answer .host (s.pciRead r) else s

/-- RC fields among those of a word. -/
def rcHits (off : Nat) (sel : Sel) : List Hit := (hitsAt off sel).filter (fun h => h.f.info.acc == .rc)

/-- Clears the RC fields of a word, leaving an increment of the same access in them (R13, R15): a 64-bit one with its high half. -/
def State.rcClear (s : State) (off inc : Nat) (sel : Sel) (all : Bool) : State :=
  (rcHits off sel).foldl (fun s h => if h.f.info.wide && h.half = 0 && !all then s.cnt h.f h.inst h.sub inc else s.wr h.f h.inst h.sub inc) s

/-- RC_COUNTER_READ: the read, then the clearing. No register table of the manual gives a field the code RC (assumption log 7). -/
def State.rcRead (s : State) (a : Agent) (off inc : Nat) : State :=
  (s.regRead a off 4).rcClear off inc (s.selOf (agentIdx a)) false

/-! ### The debug port in register space -/

/-- A debug-port access of register space is a register access of the debug agent (R50, R60); other accesses are of memory. -/
def State.jtag (s : State) (i : JtagInstr) : State :=
  match i with
  | .debugRead a n =>
    if s.mod.aux && s.dbgGrant 0 && decide (0x200000000 ≤ a ∧ a < 0x210000000) then
      let s := (s.jtagAnswer 0 false).regRead .dbg (a - 0x200000000) n
      { s with mod := { s.mod with jtag := sget 0 5 s.answers } }
    else s.jtagRun i
  | .debugWrite a bs =>
    if s.mod.aux && s.dbgGrant 0 && decide (0x200000000 ≤ a ∧ a < 0x210000000) then
      (s.jtagAnswer 0 false).regWrite .dbg (a - 0x200000000) bs.length (leNat bs)
    else s.jtagRun i
  | _ => s.jtagRun i

/-! ### The commands -/

def execSelectRegisterWrite (a : Agent) (k : SelKind) (v : Nat) (s : State) : Result := .next (s.selectWrite a k v)
def execRegisterWrite (a : Agent) (target : RegTarget) (size : Nat) (v : RegData) (s : State) : Result :=
  .next (s.registerWrite a target size v.value v.sets v.info)
def execLowHalfRead (a : Agent) (target : RegTarget) (size : Nat) (s : State) : Result := .next (s.targetRead a target size)
def execHighHalfRead (a : Agent) (off size : Nat) (s : State) : Result := .next (s.regRead a (agentOff a off) size)
def execRcCounterRead (a : Agent) (off inc : Nat) (s : State) : Result := .next (s.rcRead a (agentOff a off) inc)
def execSidebandI2cRead (off : Nat) (s : State) : Result := .next (s.sidebandRead off)
def execJtagInstruction (i : JtagInstr) (s : State) : Result := .next (s.jtag i)

end Sys2Proof.Machine
end

