-- ==== Sys2Proof/Machine/Dispatch.lean ====
section
/-! DEFINITION. Dispatch: one arm for each command. -/
namespace Sys2Proof.Machine

/-- The effect of a command on everything but the queue. -/
def exec (i : Instr) (s : State) : Host.Outcome State Fault Refusal :=
  match i with
  | .selectRegisterWrite a k v => Sys2Proof.Machine.execSelectRegisterWrite a k v s
  | .registerWrite a target size v => Sys2Proof.Machine.execRegisterWrite a target size v s
  | .lowHalfRead a target size => Sys2Proof.Machine.execLowHalfRead a target size s
  | .highHalfRead a off size => Sys2Proof.Machine.execHighHalfRead a off size s
  | .rcCounterRead a off inc => Sys2Proof.Machine.execRcCounterRead a off inc s
  | .talignRequestSend => Sys2Proof.Machine.execTalignRequestSend s
  | .talignRequestReceive n => Sys2Proof.Machine.execTalignRequestReceive n s
  | .talignResponseReceive n => Sys2Proof.Machine.execTalignResponseReceive n s
  | .holdoverEntry => Sys2Proof.Machine.execHoldoverEntry s
  | .xdevLock => Sys2Proof.Machine.execXdevLock s
  | .replicaResync k => Sys2Proof.Machine.execReplicaResync k s
  | .tlySnapArmWrite v => Sys2Proof.Machine.execTlySnapArmWrite v s
  | .tallySnapshot => Sys2Proof.Machine.execTallySnapshot s
  | .hbmBandModeWrite reg v => Sys2Proof.Machine.execHbmBandModeWrite reg v s
  | .bandModeSwitch => Sys2Proof.Machine.execBandModeSwitch s
  | .add t => Sys2Proof.Machine.execAdd t s
  | .sub t => Sys2Proof.Machine.execSub t s
  | .and t => Sys2Proof.Machine.execAnd t s
  | .or t => Sys2Proof.Machine.execOr t s
  | .xor t => Sys2Proof.Machine.execXor t s
  | .sll t => Sys2Proof.Machine.execSll t s
  | .srl t => Sys2Proof.Machine.execSrl t s
  | .sra t => Sys2Proof.Machine.execSra t s
  | .slt t => Sys2Proof.Machine.execSlt t s
  | .sltu t => Sys2Proof.Machine.execSltu t s
  | .mul t => Sys2Proof.Machine.execMul t s
  | .mulh t => Sys2Proof.Machine.execMulh t s
  | .mulhu t => Sys2Proof.Machine.execMulhu t s
  | .min t => Sys2Proof.Machine.execMin t s
  | .max t => Sys2Proof.Machine.execMax t s
  | .minu t => Sys2Proof.Machine.execMinu t s
  | .maxu t => Sys2Proof.Machine.execMaxu t s
  | .lui t => Sys2Proof.Machine.execLui t s
  | .load t => Sys2Proof.Machine.execLoad t s
  | .store t => Sys2Proof.Machine.execStore t s
  | .beq t => Sys2Proof.Machine.execBeq t s
  | .bne t => Sys2Proof.Machine.execBne t s
  | .blt t => Sys2Proof.Machine.execBlt t s
  | .bge t => Sys2Proof.Machine.execBge t s
  | .bltu t => Sys2Proof.Machine.execBltu t s
  | .bgeu t => Sys2Proof.Machine.execBgeu t s
  | .jal t => Sys2Proof.Machine.execJal t s
  | .jalr t => Sys2Proof.Machine.execJalr t s
  | .crd t => Sys2Proof.Machine.execCrd t s
  | .cwr t => Sys2Proof.Machine.execCwr t s
  | .post t => Sys2Proof.Machine.execPost t s
  | .postNb t => Sys2Proof.Machine.execPostNb t s
  | .postUnblock t => Sys2Proof.Machine.execPostUnblock t s
  | .pop t => Sys2Proof.Machine.execPop t s
  | .semSig t => Sys2Proof.Machine.execSemSig t s
  | .semSigr t => Sys2Proof.Machine.execSemSigr t s
  | .semWait t => Sys2Proof.Machine.execSemWait t s
  | .semWaitSatisfied t => Sys2Proof.Machine.execSemWaitSatisfied t s
  | .semTry t => Sys2Proof.Machine.execSemTry t s
  | .semRd t => Sys2Proof.Machine.execSemRd t s
  | .opeIssue t => Sys2Proof.Machine.execOpeIssue t s
  | .veIssue t => Sys2Proof.Machine.execVeIssue t s
  | .issueUnblock t => Sys2Proof.Machine.execIssueUnblock t s
  | .wait t => Sys2Proof.Machine.execWait t s
  | .waitc t => Sys2Proof.Machine.execWaitc t s
  | .eventWaitReturn t => Sys2Proof.Machine.execEventWaitReturn t s
  | .specOpen t => Sys2Proof.Machine.execSpecOpen t s
  | .specBegin t => Sys2Proof.Machine.execSpecBegin t s
  | .specEnd t => Sys2Proof.Machine.execSpecEnd t s
  | .specWait t => Sys2Proof.Machine.execSpecWait t s
  | .specWaitReturn t => Sys2Proof.Machine.execSpecWaitReturn t s
  | .specResolve t => Sys2Proof.Machine.execSpecResolve t s
  | .specCommit t slot => Sys2Proof.Machine.execSpecCommit t slot s
  | .specWritebackLine t slot => Sys2Proof.Machine.execSpecWritebackLine t slot s
  | .specCancelDone t slot => Sys2Proof.Machine.execSpecCancelDone t slot s
  | .specTimeout t slot => Sys2Proof.Machine.execSpecTimeout t slot s
  | .fenceMem t => Sys2Proof.Machine.execFenceMem t s
  | .fenceMemComplete t => Sys2Proof.Machine.execFenceMemComplete t s
  | .brk t => Sys2Proof.Machine.execBrk t s
  | .opeMma t => Sys2Proof.Machine.execOpeMma t s
  | .opeMma1 t => Sys2Proof.Machine.execOpeMma1 t s
  | .opeStep t => Sys2Proof.Machine.execOpeStep t s
  | .opeDrainBlock t => Sys2Proof.Machine.execOpeDrainBlock t s
  | .opeDrainRowWrite t => Sys2Proof.Machine.execOpeDrainRowWrite t s
  | .opeCompletion t => Sys2Proof.Machine.execOpeCompletion t s
  | .veAdd t => Sys2Proof.Machine.execVeAdd t s
  | .veSub t => Sys2Proof.Machine.execVeSub t s
  | .veMul t => Sys2Proof.Machine.execVeMul t s
  | .veFma t => Sys2Proof.Machine.execVeFma t s
  | .veMin t => Sys2Proof.Machine.execVeMin t s
  | .veMax t => Sys2Proof.Machine.execVeMax t s
  | .veAbs t => Sys2Proof.Machine.execVeAbs t s
  | .veNeg t => Sys2Proof.Machine.execVeNeg t s
  | .veExp2 t => Sys2Proof.Machine.execVeExp2 t s
  | .veLog2 t => Sys2Proof.Machine.execVeLog2 t s
  | .veRcp t => Sys2Proof.Machine.execVeRcp t s
  | .veRsqrt t => Sys2Proof.Machine.execVeRsqrt t s
  | .veSqrt t => Sys2Proof.Machine.execVeSqrt t s
  | .veCmp t => Sys2Proof.Machine.execVeCmp t s
  | .veSel t => Sys2Proof.Machine.execVeSel t s
  | .veRsum t => Sys2Proof.Machine.execVeRsum t s
  | .veRmax t => Sys2Proof.Machine.execVeRmax t s
  | .veRmin t => Sys2Proof.Machine.execVeRmin t s
  | .veCvt t => Sys2Proof.Machine.execVeCvt t s
  | .vePerm t => Sys2Proof.Machine.execVePerm t s
  | .veTransp t => Sys2Proof.Machine.execVeTransp t s
  | .veCompletion t => Sys2Proof.Machine.execVeCompletion t s
  | .tileQcfgWrite t q v => Sys2Proof.Machine.execTileQcfgWrite t q v s
  | .tileSemWrite t k v => Sys2Proof.Machine.execTileSemWrite t k v s
  | .tilePhaseWrite t v => Sys2Proof.Machine.execTilePhaseWrite t v s
  | .postPacketReceive n => Sys2Proof.Machine.execPostPacketReceive n s
  | .signalPacketReceive n => Sys2Proof.Machine.execSignalPacketReceive n s
  | .writePacketReceive n => Sys2Proof.Machine.execWritePacketReceive n s
  | .ackPacketReceive n => Sys2Proof.Machine.execAckPacketReceive n s
  | .readPacketReceive n => Sys2Proof.Machine.execReadPacketReceive n s
  | .readDataReceive n => Sys2Proof.Machine.execReadDataReceive n s
  | .bankAccess t b reqs upset => Sys2Proof.Machine.execBankAccess t b reqs upset s
  | .eccWriteback t b => Sys2Proof.Machine.execEccWriteback t b s
  | .scrubLineRead t b upset => Sys2Proof.Machine.execScrubLineRead t b upset s
  | .spdClearWrite t b => Sys2Proof.Machine.execSpdClearWrite t b s
  | .bankClearComplete t b => Sys2Proof.Machine.execBankClearComplete t b s
  | .hbmAccess req upset wait => Sys2Proof.Machine.execHbmAccess req upset wait s
  | .hbmRefresh c => Sys2Proof.Machine.execHbmRefresh c s
  | .hbmScrubLineRead c upset => Sys2Proof.Machine.execHbmScrubLineRead c upset s
  | .hbmTrained c => Sys2Proof.Machine.execHbmTrained c s
  | .hoistLinear t => Sys2Proof.Machine.execHoistLinear t s
  | .hoistStrided t => Sys2Proof.Machine.execHoistStrided t s
  | .hoistGather t => Sys2Proof.Machine.execHoistGather t s
  | .hoistScatter t => Sys2Proof.Machine.execHoistScatter t s
  | .hoistCompletion t q => Sys2Proof.Machine.execHoistCompletion t q s
  | .hoistRemoteTimeout t q => Sys2Proof.Machine.execHoistRemoteTimeout t q s
  | .bar2Write off data poison => Sys2Proof.Machine.execBar2Write off data poison s
  | .bar2Read off len => Sys2Proof.Machine.execBar2Read off len s
  | .bar2ReadComplete => Sys2Proof.Machine.execBar2ReadComplete s
  | .flitTransmit p => Sys2Proof.Machine.execFlitTransmit p s
  | .flitReceive p f => Sys2Proof.Machine.execFlitReceive p f s
  | .retryReqReceive p seq ack => Sys2Proof.Machine.execRetryReqReceive p seq ack s
  | .replayTimeout p => Sys2Proof.Machine.execReplayTimeout p s
  | .initFlitReceive p info => Sys2Proof.Machine.execInitFlitReceive p info s
  | .downNoticeReceive p => Sys2Proof.Machine.execDownNoticeReceive p s
  | .laneLockLoss p lanes => Sys2Proof.Machine.execLaneLockLoss p lanes s
  | .crcSilenceTimeout p => Sys2Proof.Machine.execCrcSilenceTimeout p s
  | .portEnableWrite p v => Sys2Proof.Machine.execPortEnableWrite p v s
  | .portRetrainWrite p => Sys2Proof.Machine.execPortRetrainWrite p s
  | .trainingComplete p => Sys2Proof.Machine.execTrainingComplete p s
  | .trainingTimeout p => Sys2Proof.Machine.execTrainingTimeout p s
  | .alignmentComplete p lanes peerLanes => Sys2Proof.Machine.execAlignmentComplete p lanes peerLanes s
  | .autoRetrainTimer p => Sys2Proof.Machine.execAutoRetrainTimer p s
  | .packetInject src => Sys2Proof.Machine.execPacketInject src s
  | .packetReceivePort p => Sys2Proof.Machine.execPacketReceivePort p s
  | .rtAccDataWrite v => Sys2Proof.Machine.execRtAccDataWrite v s
  | .rtAccDataRead a => Sys2Proof.Machine.execRtAccDataRead a s
  | .fabEpochWrite v => Sys2Proof.Machine.execFabEpochWrite v s
  | .allreduce t => Sys2Proof.Machine.execAllreduce t s
  | .reduceScatter t => Sys2Proof.Machine.execReduceScatter t s
  | .allgather t => Sys2Proof.Machine.execAllgather t s
  | .reduce t => Sys2Proof.Machine.execReduce t s
  | .broadcast t => Sys2Proof.Machine.execBroadcast t s
  | .alltoall t => Sys2Proof.Machine.execAlltoall t s
  | .barrier t => Sys2Proof.Machine.execBarrier t s
  | .seamReadyReceive n => Sys2Proof.Machine.execSeamReadyReceive n s
  | .seamDataReceive n => Sys2Proof.Machine.execSeamDataReceive n s
  | .seamAckReceive n => Sys2Proof.Machine.execSeamAckReceive n s
  | .seamReplayReceive n => Sys2Proof.Machine.execSeamReplayReceive n s
  | .collAbortReceive n => Sys2Proof.Machine.execCollAbortReceive n s
  | .collStepBegin g => Sys2Proof.Machine.execCollStepBegin g s
  | .seamItemAccept t => Sys2Proof.Machine.execSeamItemAccept t s
  | .collCommit g => Sys2Proof.Machine.execCollCommit g s
  | .collComplete g => Sys2Proof.Machine.execCollComplete g s
  | .collStepTimeout g => Sys2Proof.Machine.execCollStepTimeout g s
  | .collAckTimeout g => Sys2Proof.Machine.execCollAckTimeout g s
  | .collStall g => Sys2Proof.Machine.execCollStall g s
  | .hostSideReset k => Sys2Proof.Machine.execHostSideReset k s
  | .unsupportedRequest => Sys2Proof.Machine.execUnsupportedRequest s
  | .msixEvent v => Sys2Proof.Machine.execMsixEvent v s
  | .msixUnmask v mask => Sys2Proof.Machine.execMsixUnmask v mask s
  | .mbxDoorbellWrite c v => Sys2Proof.Machine.execMbxDoorbellWrite c v s
  | .mbxReqWrite c word wide v => Sys2Proof.Machine.execMbxReqWrite c word wide v s
  | .mbxDispatch => Sys2Proof.Machine.execMbxDispatch s
  | .hello c => Sys2Proof.Machine.execHello c s
  | .getInfo c => Sys2Proof.Machine.execGetInfo c s
  | .evtSubscribe c classes sources => Sys2Proof.Machine.execEvtSubscribe c classes sources s
  | .echo c => Sys2Proof.Machine.execEcho c s
  | .setWindow c w base => Sys2Proof.Machine.execSetWindow c w base s
  | .setBandMode c bands => Sys2Proof.Machine.execSetBandMode c bands s
  | .bankClear c t b => Sys2Proof.Machine.execBankClear c t b s
  | .queueCfg c entries => Sys2Proof.Machine.execQueueCfg c entries s
  | .streamBind c enable prod cons => Sys2Proof.Machine.execStreamBind c enable prod cons s
  | .stageSet c entries => Sys2Proof.Machine.execStageSet c entries s
  | .srKeys c entries => Sys2Proof.Machine.execSrKeys c entries s
  | .snapshotArm c at_ => Sys2Proof.Machine.execSnapshotArm c at_ s
  | .tallyRole c role port => Sys2Proof.Machine.execTallyRole c role port s
  | .setPerstScope c scope => Sys2Proof.Machine.execSetPerstScope c scope s
  | .tileStart c => Sys2Proof.Machine.execTileStart c s
  | .portCfg c p cfg => Sys2Proof.Machine.execPortCfg c p cfg s
  | .portRetrain c p => Sys2Proof.Machine.execPortRetrain c p s
  | .setDevId c id => Sys2Proof.Machine.execSetDevId c id s
  | .rtLoad c bank entries => Sys2Proof.Machine.execRtLoad c bank entries s
  | .epochSet c e => Sys2Proof.Machine.execEpochSet c e s
  | .vcWeight c ports endStation => Sys2Proof.Machine.execVcWeight c ports endStation s
  | .groupCfg c g cfg => Sys2Proof.Machine.execGroupCfg c g cfg s
  | .groupReset c g seq => Sys2Proof.Machine.execGroupReset c g seq s
  | .groupAbort c g => Sys2Proof.Machine.execGroupAbort c g s
  | .groupOrder c g mode => Sys2Proof.Machine.execGroupOrder c g mode s
  | .setCap c watts => Sys2Proof.Machine.execSetCap c watts s
  | .getPower c => Sys2Proof.Machine.execGetPower c s
  | .paceMode c on => Sys2Proof.Machine.execPaceMode c on s
  | .pbGate c k on => Sys2Proof.Machine.execPbGate c k on s
  | .reset c => Sys2Proof.Machine.execReset c s
  | .getErrors c => Sys2Proof.Machine.execGetErrors c s
  | .postmortemRead c off => Sys2Proof.Machine.execPostmortemRead c off s
  | .rasSet c => Sys2Proof.Machine.execRasSet c s
  | .rasClear c => Sys2Proof.Machine.execRasClear c s
  | .dbgChallenge c => Sys2Proof.Machine.execDbgChallenge c s
  | .dbgUnlock c => Sys2Proof.Machine.execDbgUnlock c s
  | .globalStop c => Sys2Proof.Machine.execGlobalStop c s
  | .resume c => Sys2Proof.Machine.execResume c s
  | .pcsCfg c => Sys2Proof.Machine.execPcsCfg c s
  | .pcsTail c => Sys2Proof.Machine.execPcsTail c s
  | .skipStart c => Sys2Proof.Machine.execSkipStart c s
  | .crcScan c => Sys2Proof.Machine.execCrcScan c s
  | .backfill c => Sys2Proof.Machine.execBackfill c s
  | .fwWrite c image off data => Sys2Proof.Machine.execFwWrite c image off data s
  | .fwActivate c => Sys2Proof.Machine.execFwActivate c s
  | .attest c => Sys2Proof.Machine.execAttest c s
  | .cfgRecordWrite c => Sys2Proof.Machine.execCfgRecordWrite c s
  | .rasNoticeReceive n => Sys2Proof.Machine.execRasNoticeReceive n s
  | .componentFault k cause => Sys2Proof.Machine.execComponentFault k cause s
  | .heartbeatMiss k => Sys2Proof.Machine.execHeartbeatMiss k s
  | .componentRestartComplete k => Sys2Proof.Machine.execComponentRestartComplete k s
  | .romBoot flashErrA flashErrB ctrErr => Sys2Proof.Machine.execRomBoot flashErrA flashErrB ctrErr s
  | .hfBootReadyWrite v => Sys2Proof.Machine.execHfBootReadyWrite v s
  | .bootWatchdogExpiry => Sys2Proof.Machine.execBootWatchdogExpiry s
  | .interruptEvent n => Sys2Proof.Machine.execInterruptEvent n s
  | .interruptDelivery core late => Sys2Proof.Machine.execInterruptDelivery core late s
  | .icSrcCfgWrite n v => Sys2Proof.Machine.execIcSrcCfgWrite n v s
  | .icEoiWrite k v => Sys2Proof.Machine.execIcEoiWrite k v s
  | .icStackFixWrite v => Sys2Proof.Machine.execIcStackFixWrite v s
  | .icSignalWrite core v => Sys2Proof.Machine.execIcSignalWrite core v s
  | .icTimerExpiry core info => Sys2Proof.Machine.execIcTimerExpiry core info s
  | .headframeStandby => Sys2Proof.Machine.execHeadframeStandby s
  | .lampWake => Sys2Proof.Machine.execLampWake s
  | .estimationWindowClose w => Sys2Proof.Machine.execEstimationWindowClose w s
  | .powerLoopInterval rates => Sys2Proof.Machine.execPowerLoopInterval rates s
  | .vsetSlewComplete k => Sys2Proof.Machine.execVsetSlewComplete k s
  | .gainCalibration measured => Sys2Proof.Machine.execGainCalibration measured s
  | .droopTrip k => Sys2Proof.Machine.execDroopTrip k s
  | .droopHoldEnd k => Sys2Proof.Machine.execDroopHoldEnd k s
  | .paceBeaconSend => Sys2Proof.Machine.execPaceBeaconSend s
  | .paceBeaconReceive n => Sys2Proof.Machine.execPaceBeaconReceive n s
  | .dbgHaltGoWrite v id => Sys2Proof.Machine.execDbgHaltGoWrite v id s
  | .dbgHaltResumeWrite v => Sys2Proof.Machine.execDbgHaltResumeWrite v s
  | .haltComplete => Sys2Proof.Machine.execHaltComplete s
  | .haltFlitReceive p lastSeq id origin stamp => Sys2Proof.Machine.execHaltFlitReceive p lastSeq id origin stamp s
  | .resumeFlitReceive p id => Sys2Proof.Machine.execResumeFlitReceive p id s
  | .linkRecordTimeout p => Sys2Proof.Machine.execLinkRecordTimeout p s
  | .scanOut => Sys2Proof.Machine.execScanOut s
  | .pcsSample => Sys2Proof.Machine.execPcsSample s
  | .debugAccessExpiry => Sys2Proof.Machine.execDebugAccessExpiry s
  | .nonceExpiry => Sys2Proof.Machine.execNonceExpiry s
  | .rasErrorReport => Sys2Proof.Machine.execRasErrorReport s
  | .ceThresholdPoll => Sys2Proof.Machine.execCeThresholdPoll s
  | .hangScan => Sys2Proof.Machine.execHangScan s
  | .postmortemComplete => Sys2Proof.Machine.execPostmortemComplete s
  | .tileReset t => Sys2Proof.Machine.execTileReset t s
  | .portReset p => Sys2Proof.Machine.execPortReset p s
  | .hbmcReset c => Sys2Proof.Machine.execHbmcReset c s
  | .warmReset => Sys2Proof.Machine.execWarmReset s
  | .coldReset lowNs => Sys2Proof.Machine.execColdReset lowNs s
  | .skipStagingStart => Sys2Proof.Machine.execSkipStagingStart s
  | .skipStaged => Sys2Proof.Machine.execSkipStaged s
  | .skipChunkShipped => Sys2Proof.Machine.execSkipChunkShipped s
  | .skipChunkTimeout => Sys2Proof.Machine.execSkipChunkTimeout s
  | .skipHeartbeat => Sys2Proof.Machine.execSkipHeartbeat s
  | .crcCtrlWrite v => Sys2Proof.Machine.execCrcCtrlWrite v s
  | .crcData8Write v => Sys2Proof.Machine.execCrcData8Write v s
  | .crcData16Write v => Sys2Proof.Machine.execCrcData16Write v s
  | .crcData32Write v => Sys2Proof.Machine.execCrcData32Write v s
  | .crcResultRead a => Sys2Proof.Machine.execCrcResultRead a s
  | .nhSample => Sys2Proof.Machine.execNhSample s
  | .rollbackAdvance good => Sys2Proof.Machine.execRollbackAdvance good s
  | .auxPowerOn => Sys2Proof.Machine.execAuxPowerOn s
  | .modPwrEnRise => Sys2Proof.Machine.execModPwrEnRise s
  | .railsGood => Sys2Proof.Machine.execRailsGood s
  | .modPwrEnFall => Sys2Proof.Machine.execModPwrEnFall s
  | .perstDeassert => Sys2Proof.Machine.execPerstDeassert s
  | .powerStageWarning => Sys2Proof.Machine.execPowerStageWarning s
  | .trip causes => Sys2Proof.Machine.execTrip causes s
  | .refClockLoss => Sys2Proof.Machine.execRefClockLoss s
  | .sidebandI2cRead off => Sys2Proof.Machine.execSidebandI2cRead off s
  | .uartRxChar c => Sys2Proof.Machine.execUartRxChar c s
  | .jtagInstruction info => Sys2Proof.Machine.execJtagInstruction info s
  | .hbmTrainingLoss c => Sys2Proof.Machine.execHbmTrainingLoss c s
  | .powerStageWarningClear => Sys2Proof.Machine.execPowerStageWarningClear s
  | .tripLatchRelease => Sys2Proof.Machine.execTripLatchRelease s
  | .auxPowerLoss => Sys2Proof.Machine.execAuxPowerLoss s
  | .aditLinkUp width speed => Sys2Proof.Machine.execAditLinkUp width speed s
  | .pciConfigWrite w => Sys2Proof.Machine.execPciConfigWrite w s

end Sys2Proof.Machine
end

