-- ==== Sys2Proof/Machine/Tick.lean ====
section
/-! DEFINITION. What one nanosecond of module time does when no command waits (assumption log 4): the tally and its slewing (R35, R38),
BAR2 lines that no longer wait, the packets on the rings, and the counters of waiting time. -/
namespace Sys2Proof.Machine

/-! ### The tally (R35, R38) -/

/-- How far the tally moves in one nanosecond of module time: one as a rule; every second one under COARSE_SLEW; one more or one
less once in 2,000 while a correction is slewed (500 ppm). Each nanosecond that a half-rate master skips is one of its correction made (R40). -/
def State.tallyStep (s : State) : Nat × Int :=
  if !s.devValid ∨ !s.mod.refOk then (0, s.talign.slew)
  else if s.on .tlyStatusCoarseSlew then (s.time % 2, if s.time % 2 = 0 ∧ s.talign.slew < 0 then s.talign.slew + 1 else s.talign.slew)
  else if s.time % 2000 ≠ 0 ∨ s.talign.slew = 0 then (1, s.talign.slew)
  else if s.talign.slew > 0 then (2, s.talign.slew - 1)
  else (0, s.talign.slew + 1)

/-! ### Conditions that counters of time watch -/

/-- The tile core waits in one of the waits of R174. -/
def Wait.timed : Wait → Bool
  | .event .. => true | .sem .. => true | .post .. => true | .spec .. => true | .fence => true
  | .running => false | .ope .. => false | .ve .. => false

/-- Branch slot of the running instruction. -/
def Tile.runSlot (x : Tile) : Option Nat := x.ope.run.bind (fun r => r.ins.slot)

/-- A request of some kind waits for a slot of a bank of the tile (R214). -/
def Tile.slotWaits (x : Tile) (p : WaitingReq → Bool) : Bool := x.banks.any (fun b => b.2.clearing.isNone && b.2.waiting.any p)

/-- A VE pass waits for operands (R188): at a clearing bank, or for a slot. -/
def Tile.veWaits (x : Tile) : Bool := x.holds 2 || x.slotWaits (fun w => w.req.cls == 2 && !w.req.write)

/-- A line of a tile's hoist is ready and holds no slot (R245): at a bank of the tile, or of another one. -/
def State.hoistWaits (s : State) (t : Nat) : Bool :=
  (s.tile t).slotWaits (fun w => w.req.cls == 5) || s.tiles.any (fun e => e.2.slotWaits (fun w => w.req.cls == 6 && w.req.who == .hoist t))

/-- Ports at their packet's next flit: the VCs of packets that are ready to send (R257). -/
def Port.readyVcs (x : Port) : List Nat := (x.cur.map (fun c => c.vc)).toList ++ x.txq.map (fun q => q.vc)

/-- VC v has a flit ready and no credit (R257). -/
def Port.starved (x : Port) (v : Nat) : Bool := x.mode == .up && x.readyVcs.contains v && x.creditOf v == 0

/-- VC v holds a packet that only the bubble rule holds (R280). -/
def State.bubbled (s : State) (p v : Nat) : Bool :=
  let x := s.port p
  x.mode == .up && !x.halted && x.cur.isNone && x.resend.isNone && decide (x.sent.length < 768) &&
    x.txq.any (fun q => q.vc == v && decide (x.creditOf v ≥ 1) && !s.txEligible p q)

/-- VC v is eligible while another VC's packet is sent (R279): the d nanoseconds that have passed began with a packet flit of another VC. -/
def State.outvoted (s : State) (p v d : Nat) : Bool :=
  let x := s.port p
  decide (x.sendAt.1 + d = s.tally + 1) && x.sendAt.2 != v && x.txq.any (fun q => q.vc == v && s.txEligible p q)

/-- A packet of the skip engine's image (R467). -/
def skipWrites (p : Packet) : Bool := p.ty == 0 && p.vc == 7 && p.agent == some 16

/-- The skip engine holds a line that obtains no slot or credit (R469): staging waits for a place or a source, or a packet of a chunk has
not entered a ring yet. -/
def State.skipWaiting (s : State) : Bool :=
  match s.rd .skpStatusState with
  | 2 => (match s.skip.chunks[s.skip.staged]? with
    | some k => (s.heldAt [(s.skip.base + k.off, 64 + roundUp k.len 64)]).isSome ||
        ((k.kind == 1) && (spanUnits k.src k.len).any (fun u => s.hfAccess u.1 == .held))
    | none => false)
  | 3 => s.outbox.any skipWrites || s.ring.any (fun r => r.dim == 0 && skipWrites r.pkt)
  | _ => false

/-! ### Counting -/

/-- Adds n to a counter when a condition holds. -/
def State.cntIf (s : State) (b : Bool) (f : Field) (inst sub n : Nat) : State := if b then s.cnt f inst sub n else s

/-- Time counters of a tile (R111, R112, R115, R171, R172, R174, R188, R245 and chapter 9); a branch holds those of its own work (R155). -/
def State.tileTime (s : State) (d t : Nat) : State :=
  let x := s.tile t
  let w := x.core.wait
  let s := s.cntIf (!x.ope.busy && x.ope.queue.isEmpty && !x.stopped && !x.gated) .tileOpeStarveNs t 0 d
  if !x.active then s
  else
    let s := s.cntIf w.timed .tileWaitNs t 0 d
    let s := s.cntIf (match w with | .ope .. => true | _ => false) .tileOpeQfullNs t 0 d
    let s := s.cntIf (match w with | .ve .. => true | _ => false) .tileVeQfullNs t 0 d
    let s := match w with
      | .sem k _ => (List.range 16).foldl (fun (s : State) e =>
          s.cntIf (s.on .tileEpEn t e && s.rd .tileEpLocalSem t e == k) .tileStrmWaitNs t e d) s
      | _ => s
    let s := if x.drainStalled then s.effCnt t x.runSlot .opeDrainStallNs 0 d else s
    let s := if x.operandWaits then s.effCnt t x.runSlot .opeOperandWaitNs 0 d else s
    let s := if x.veWaits then s.effCnt t (x.ve.queue.head?.bind (fun i => i.slot)) .veOperandWaitNs 0 d else s
    let s := s.cntIf (s.hoistWaits t) .hstSlotWaitNs t 0 d
    let s := s.cntIf (!x.items.isEmpty) .opeSeamWaitNs t 0 d
    s.cntIf (decide (x.hoist.reads.length ≥ 1024)) .hstOutstandingFullNs t 0 d

/-- Time counters of a port (R257, R259, R279, R280). -/
def State.portTime (s : State) (d p : Nat) : State :=
  let x := s.port p
  let s := s.cntIf ((List.range 8).any x.starved) .portTxCreditWaitNs p 0 d
  let s := s.cntIf (x.mode == .up && decide (x.sent.length ≥ 768)) .portTxWindowFullNs p 0 d
  (List.range 8).foldl (fun s v =>
    ((s.cntIf (x.starved v) .vcCreditWaitNs p v d).cntIf (s.bubbled p v) .vcBubbleWaitNs p v d).cntIf (s.outvoted p v d) .vcArbWaitNs p v d) s

/-- Time counters of the power blocks and the device (R248, R320, R393, R394, R402, R403, R408). -/
def State.deviceTime (s : State) (d : Nat) : State :=
  let s := (List.range 16).foldl (fun s k =>
    (s.cntIf (s.on .pwrPbStatusDroop k) .pwrDroopHoldNs k 0 d).cntIf (s.on .pwrPbStatusHot k) .pwrThermHoldNs k 0 d) s
  let hot := ((List.range s.variant.stacks).filter (fun i => decide ((sget {} (2 * i) s.hbmcs).temp ≥ s.rd .pwrHbmHot))).length
  let s := s.cnt .pwrHbmHotNs 0 0 (d * hot)
  let s := s.cntIf s.safeMode .pwrSafeNs 0 0 d
  let s := s.cntIf (s.on .pwrStatusCapUnmet) .pwrCapUnmetNs 0 0 d
  let s := s.cntIf (s.on .pwrStatusMatching) .pwrPaceMatchNs 0 0 d
  let waits := (s.adit.reads.filter (fun r => s.adit.writes.any (fun w => r.after.contains w.id))).length
  let s := s.cnt .adtBar2FlushWaitNs 0 0 (d * waits)
  let s := s.cntIf s.skipWaiting .skpStageWaitNs 0 0 d
  s.colls.foldl (fun s e => s.cntIf (e.2.waiting && (s.tile e.2.tile).active) .collWaitNs e.1 0 d) s

/-- The counters of time for a tally movement of d ns. -/
def State.timeCounters (s : State) (d : Nat) : State :=
  if d = 0 then s
  else ((List.range s.variant.ports).foldl (fun s p => s.portTime d p) ((List.range 256).foldl (fun s t => s.tileTime d t) s)).deviceTime d

/-- One nanosecond of module time. Every replica then has exactly the master's value, which R36's bound of 2 ns allows (DESIGN CHOICE, log 4). The time that has passed is counted, and a snapshot due now taken, before what happens now (R44); a start that waits for
its instant comes last (R502). -/
def State.tick (s : State) : State :=
  let m := s.tallyStep
  let s := { s with time := s.time + 1, tally := (s.tally + m.1) % 2 ^ 64, talign := { s.talign with slew := m.2 } }
  let s := if s.on .tlyStatusCoarseSlew ∧ m.2 ≥ -4000 then s.settle else s
  let s := (s.timeCounters m.1).snapCopy.bar2Drain.jtagRetry
  (if m.1 = 0 then s else s.ringStep).perstStart

end Sys2Proof.Machine
end

