-- ==== Sys2Proof/Safety.lean ====
section
/-! DEFINITION. What a sound state and a safe run are, in the terms that claims use. -/
namespace Sys2Proof.Machine

/-- The canonical form of memory: addresses strictly rise, and no listed byte is the zero that an unlisted one reads as. -/
def Memory.wf (m : List Host.Cell) : Bool := swf (fun _ => 0#8) m

/-- The canonical form of the flash: an erased byte reads 0xFF and is not listed. -/
def Memory.flashWf (m : List Host.Cell) : Bool := swf (fun _ => 0xFF#8) m

/-- A sound state: memory and flash are in canonical form, every register is listed once at most, and the tally fits its 64 bits (R35). -/
structure State.Sound (s : State) : Prop where
  mem : Memory.wf s.mem = true
  flash : Memory.flashWf s.flash = true
  regs : ssorted s.regs = true
  tally : s.tally < 2 ^ 64

/-- A run of n steps ends neither in a fault nor in a refusal. -/
def State.runs (n : Nat) (s : State) : Bool :=
  match Sys2Proof.core.run n s with
  | .next _ => true
  | _ => false

/-! ### The vocabulary of statements -/

/-- An agent's access of n bytes at an offset of register space gets there (permission bit 0 read, 1 write): the host's function is in D0; a headframe
core's clock runs and a region of its MPU permits the access, which for a write a component acting on it may make; the debug port has access to memory. -/
def State.Reaches (s : State) (a : Agent) (off n bit : Nat) : Prop :=
  match a with
  | .host => s.adit.d3 = false
  | .hf c => s.ic.asleep = false ∧ s.mpuMay c (0x200000000 + off) n bit = true ∧ (bit = 1 → ∃ k ∈ s.coreComps c, compMayWrite k off = true)
  | .dbg => s.dbgGrant 0 = true
  | .sideband => True

/-- The command answers a next state, and that state satisfies P. -/
def Completes (c : Instr) (s : State) (P : State → Prop) : Prop := ∃ s', exec c s = .next s' ∧ P s'

/-- The parts of the state: one for each of its fields. -/
inductive Part where
  | pending | variant | time | tally | regs | mem | ecc | tiles | hbmcs | bandNext | bandHeld | hbmReads | free
  | outbox | ring | ringArb | dieNet | hfOut | ports | rt | ras | act | shadows | colls | collMap | collPend | ic
  | adit | mbx | comps | talign | pwr | demand | dbg | rasLog | rasw | skip | crc | nhLast | nhWait | nhAt | snapArmed
  | snapCopied | uart | spare | flash | mono | records | boot | mod | quietFrom | warmAt | answers | latches
deriving DecidableEq, Repr

/-- A part is the same in both states. -/
def State.same (s s' : State) : Part → Prop
  | .pending => s'.pending = s.pending
  | .variant => s'.variant = s.variant
  | .time => s'.time = s.time
  | .tally => s'.tally = s.tally
  | .regs => s'.regs = s.regs
  | .mem => s'.mem = s.mem
  | .ecc => s'.ecc = s.ecc
  | .tiles => s'.tiles = s.tiles
  | .hbmcs => s'.hbmcs = s.hbmcs
  | .bandNext => s'.bandNext = s.bandNext
  | .bandHeld => s'.bandHeld = s.bandHeld
  | .hbmReads => s'.hbmReads = s.hbmReads
  | .free => s'.free = s.free
  | .outbox => s'.outbox = s.outbox
  | .ring => s'.ring = s.ring
  | .ringArb => s'.ringArb = s.ringArb
  | .dieNet => s'.dieNet = s.dieNet
  | .hfOut => s'.hfOut = s.hfOut
  | .ports => s'.ports = s.ports
  | .rt => s'.rt = s.rt
  | .ras => s'.ras = s.ras
  | .act => s'.act = s.act
  | .shadows => s'.shadows = s.shadows
  | .colls => s'.colls = s.colls
  | .collMap => s'.collMap = s.collMap
  | .collPend => s'.collPend = s.collPend
  | .ic => s'.ic = s.ic
  | .adit => s'.adit = s.adit
  | .mbx => s'.mbx = s.mbx
  | .comps => s'.comps = s.comps
  | .talign => s'.talign = s.talign
  | .pwr => s'.pwr = s.pwr
  | .demand => s'.demand = s.demand
  | .dbg => s'.dbg = s.dbg
  | .rasLog => s'.rasLog = s.rasLog
  | .rasw => s'.rasw = s.rasw
  | .skip => s'.skip = s.skip
  | .crc => s'.crc = s.crc
  | .nhLast => s'.nhLast = s.nhLast
  | .nhWait => s'.nhWait = s.nhWait
  | .nhAt => s'.nhAt = s.nhAt
  | .snapArmed => s'.snapArmed = s.snapArmed
  | .snapCopied => s'.snapCopied = s.snapCopied
  | .uart => s'.uart = s.uart
  | .spare => s'.spare = s.spare
  | .flash => s'.flash = s.flash
  | .mono => s'.mono = s.mono
  | .records => s'.records = s.records
  | .boot => s'.boot = s.boot
  | .mod => s'.mod = s.mod
  | .quietFrom => s'.quietFrom = s.quietFrom
  | .warmAt => s'.warmAt = s.warmAt
  | .answers => s'.answers = s.answers
  | .latches => s'.latches = s.latches

/-- Every part but the listed ones is the same in both states. -/
def State.Only (s s' : State) (l : List Part) : Prop := ∀ p, p ∉ l → s.same s' p

/-- Every register field instance but the listed ones (field, instance, array position) reads after as before. -/
def State.FieldsBut (s s' : State) (l : List (Field × Nat × Nat)) : Prop :=
  ∀ f i j, (f, i % 65536, j % 4096) ∉ l → s'.rd f i j = s.rd f i j

/-- The command answers a next state that differs only in the listed parts and, among the registers, only in the listed field
instances, and that satisfies P. -/
def Runs (c : Instr) (s : State) (parts : List Part) (fields : List (Field × Nat × Nat)) (P : State → Prop) : Prop :=
  Completes c s (fun s' => s.Only s' parts ∧ s.FieldsBut s' fields ∧ P s')

/-- Every tile but t is as before. -/
def State.TilesBut (s s' : State) (t : Nat) : Prop := ∀ u, u ≠ t → s'.tile u = s.tile u

/-- Every byte of memory but the n from key k on is as before. -/
def State.BytesBut (s s' : State) (k n : Nat) : Prop := ∀ a, ¬ (k ≤ a ∧ a < k + n) → s'.byte a = s.byte a

/-- Tile t's core fetches the word c from CB at its program counter, without an error, and c is the operation op (R162). -/
structure State.Fetches (s : State) (t : Nat) (op : CoreOp) (c : CoreWord) : Prop where
  ready : (s.tile t).coreReady = true
  aligned : (s.tile t).core.pc % 4 = 0
  inCb : (s.tile t).core.pc + 4 ≤ bankSize .cb
  clear : s.clearing t .cb = false
  good : s.mark (spdAddr t .cb ((s.tile t).core.pc / 8 * 8)) = 0
  word : coreFields (leNat (s.bytes (spdAddr t .cb (s.tile t).core.pc) 4)) = c
  op : coreDecode c = some op

/-- The state after tile t's core has fetched the word at its program counter (R214): the access counted, and no longer held. -/
def State.fetched (s : State) (t : Nat) : State := (s.unhold t 0).bankCount t .cb true 1

/-- What a 4-byte write of v leaves in a field whose value was old, by its access code, while hardware sets the bits `sets` (R12). -/
def Hit.after (h : Hit) (old v sets : Nat) : Nat :=
  match h.f.info.acc with
  | .rw =>
    if h.f.info.wide then (if h.half = 0 then old / 2 ^ 32 * 2 ^ 32 + v % 2 ^ 32 else old % 2 ^ 32 + v % 2 ^ 32 * 2 ^ 32)
    else v / 2 ^ h.f.info.lo % 2 ^ h.f.info.width
  | .w1c => if sets.testBit h.f.info.lo then 1 else if v.testBit h.f.info.lo then 0 else old
  | _ => old

/-- The address of a load, a store or a control-register access: x[RS1] + IMM13, modulo 2^64 (R162). -/
def State.effAddr (s : State) (t : Nat) (w : CoreWord) : Nat := ofSigned 64 ((s.xr t w.rs1 : Int) + w.simm)

/-- What an instruction of tile t's core that retires leaves alone: it may write x[rd] and the listed fields; the program counter
becomes pc; TILE_INSTR counts; the rest of the core, of its tile (but for `held`, a note that an access is held) and every other
tile stay. -/
structure State.Retired (s s' : State) (t rd pc : Nat) (fields : List (Field × Nat × Nat)) : Prop where
  core : ∃ x, (s'.tile t).core = { (s.tile t).core with x := x, pc := pc }
  xs : ∀ i, i ≠ rd → s'.xr t i = s.xr t i
  tile : s'.tile t = { s.tile t with core := (s'.tile t).core, held := (s'.tile t).held }
  tiles : s.TilesBut s' t
  instr : s'.rd .tileInstr t = (s.rd .tileInstr t + 1) % 2 ^ 64
  fields : s.FieldsBut s' ([(.tileInstr, t, 0), (.spdAccMaster, t, 3)] ++ fields)

/-- An engine instruction issued at tile t: untagged, or tagged with an open slot, whose work it joins and which counts it (R155, R158). -/
structure State.Issued (s s' : State) (t : Nat) : Prop where
  plain : (s.tile t).core.tagSlot = none → (s'.tile t).slots = (s.tile t).slots ∧ s'.rd .specInstr t = s.rd .specInstr t
  tagged : ∀ i, (s.tile t).core.tagSlot = some i → s'.slot t i = { s.slot t i with live := (s.slot t i).live + 1 } ∧
    (∀ j, j ≠ i → s'.slot t j = s.slot t j) ∧ s'.rd .specInstr t = (s.rd .specInstr t + 1) % 2 ^ 64
  core : (s'.tile t).core = { (s.tile t).core with pc := ((s.tile t).core.pc + 4) % 2 ^ 32, wait := .running }
  tiles : s.TilesBut s' t
  fields : s.FieldsBut s' [(.tileInstr, t, 0), (.spdAccMaster, t, 3), (.specInstr, t, 0)]
  only : s.Only s' [.regs, .tiles, .act]

/-- The tag in force at tile t names a slot that is not open (R158). -/
def State.tagStale (s : State) (t : Nat) : Prop := ∃ i, (s.tile t).core.tagSlot = some i ∧ (s.slot t i).mode ≠ .opened

/-- The counters that an event of an interrupt source or a message to the host may add to (R341, R372). -/
def eventFields : List (Field × Nat × Nat) :=
  [(.icDisabledDrop, 0, 0), (.icMerged, 0, 0), (.icRaised, 0, 0), (.adtMsixDisabledDrop, 0, 0), (.adtMsixMerged, 0, 0),
   (.adtMsixMasked, 0, 0), (.adtMsixSent, 0, 0)]

/-- The operations of the vector engine with their commands (R185). -/
def veRows : List (VeOp × (TileId → Instr)) :=
  [(.add, .veAdd), (.sub, .veSub), (.mul, .veMul), (.fma, .veFma), (.min, .veMin), (.max, .veMax), (.abs, .veAbs), (.neg, .veNeg),
   (.exp2, .veExp2), (.log2, .veLog2), (.rcp, .veRcp), (.rsqrt, .veRsqrt), (.sqrt, .veSqrt), (.cmp, .veCmp), (.sel, .veSel),
   (.rsum, .veRsum), (.rmax, .veRmax), (.rmin, .veRmin), (.cvt, .veCvt), (.perm, .vePerm), (.transp, .veTransp)]

/-- The fields that a signal to semaphore k of tile t, or a take from it, may change: the semaphore, the saturation counter, and the counts of the
stream endpoints (R180, R181, R203). -/
def semFields (t k : Nat) : List (Field × Nat × Nat) :=
  [(.tileSem, t, k), (.tileSemSat, t, 0), (.tileProgress, t, 0), (.tileProgressAt, t, 0)] ++
    (List.range 16).flatMap (fun e => [(.tileStrmArrived, t, e), (.tileStrmTaken, t, e), (.tileStrmLastAt, t, e)])

/-- The fields that a unit's reads and writes of memory count in, with the hoist's own, the queue pointer, and the ring stops' flits (R204, R214, R227, R245, R416). -/
def moveFields : List Field :=
  [.spdAccMaster, .spdAccOther, .hbmRdLines, .hbmWrLines, .hbmRmw, .hstLinesRd, .hstLinesWr, .hstPoisonCopy, .hstIdxOor,
   .hstSegRepeat, .hstFlagsFlushed, .hstFlagsInv, .hstFlagsInx, .hstFlagsUnf, .hstFlagsOvf, .tileNhTotal, .tileNhOvf, .tileNhVanish, .tileNhNan, .tileProgress, .tileProgressAt, .tileQHead,
   .dbgRingFlits, .spdDefer, .hstSlotRetry]

/-- The hoist of tile t takes next the descriptor d, at the head of its queue q; no executing descriptor waits for a hold to end, the limit of outstanding
reads is not reached (R245), no word of memory is in error, and no branch commits. -/
structure State.HoistTakes (s : State) (t q : Nat) (d : List Nat) : Prop where
  active : (s.tile t).active = true
  room : (s.tile t).hoist.active.length < 4
  lines : (s.tile t).hoist.reads.length < 1024
  moving : ∀ r ∈ (s.tile t).hoist.active, r.waits = false
  next : s.hoistNext t = some q
  clear : s.clearing t .cb = false
  good : ∀ k, s.mark k = 0
  steady : ∀ u i, (s.slot u i).mode ≠ .committing
  words : d = (List.range 8).map (fun i =>
    leNat (s.bytes (spdAddr t .cb (s.qLine t (64 + q) (s.rd .tileQHead (qInst t (64 + q)))) + 8 * i) 8))

/-- The hoist of tile t has taken a descriptor: it executes as r, its queue has lost its head entry, and nothing else of any tile
changes but a note that an access is held. -/
structure State.HoistBegun (s s' : State) (t : Nat) (r : HoistRun) : Prop where
  tile : s'.tile t = { s.tile t with held := (s'.tile t).held, hoist := { (s.tile t).hoist with
    active := (s.tile t).hoist.active ++ [r], rr := (r.queue + 1) % 32, nextTag := (s'.tile t).hoist.nextTag } }
  tiles : s.TilesBut s' t
  head : s'.rd .tileQHead (qInst t (64 + r.queue)) =
    qNext (s.qDepth t (64 + r.queue)) (s.rd .tileQHead (qInst t (64 + r.queue))) % 2 ^ 9
  marks : ∀ k, s'.mark k = s.mark k
  fields : ∀ f i j, f ∉ moveFields → s'.rd f i j = s.rd f i j

/-- The n-th waiting arrival of a packet type is a, and s1 is the state without it. -/
def State.Arrives (s : State) (ty n : Nat) (a : Arrival) (s1 : State) : Prop := s.netTake ty n = some (a, s1)

/-- The seam engine of tile t takes next the descriptor d, at the head of its queue q; no word of memory is in error, and no branch commits. -/
structure State.SeamTakes (s : State) (t q : Nat) (d : List Nat) : Prop where
  active : (s.tile t).active = true
  room : (s.colls.filter (fun e => e.2.tile == t)).length < 4
  next : s.seamNext t = some q
  clear : s.clearing t .sb = false
  good : ∀ k, s.mark k = 0
  steady : ∀ u i, (s.slot u i).mode ≠ .committing
  words : d = (List.range 8).map (fun i =>
    leNat (s.bytes (spdAddr t .sb (s.qLine t (96 + q) (s.rd .tileQHead (qInst t (96 + q)))) + 8 * i) 8))

/-- The n-th waiting SEAM packet of a kind is a; it belongs to the running collective x of group g, whose signature it carries (R308, R317), and
s1 is the state without it. -/
structure State.SeamArrives (s : State) (kind n : Nat) (a : Arrival) (s1 : State) (g : Nat) (x : Coll) : Prop where
  taken : s.netTake 6 n (fun p => seamKind p == kind) = some (a, s1)
  active : (s.tile a.pkt.dstTile).active = true
  fresh : s.fenced a.pkt.dstTile a.pkt.injAt = false
  group : s.findGroup (seamHead a.pkt).gid a.pkt.dstTile = some g
  ok : seamOk a.pkt = true
  coll : s.coll g = some x
  seq : a.pkt.tag = x.seq
  member : (seamHead a.pkt).member < x.n
  sig : (seamHead a.pkt).sig = x.sig
  gen : kind = 3 → a.pkt.gen = s.rd .tileGen a.pkt.dstTile

/-- Firmware has answered channel c (R357, R362): the response at 0x2000 of the channel holds the request's opcode and TAG, LEN, the status, component
k, both stamps and the payload; MBX_STATE reads DONE; a failing status counts. -/
structure State.Responded (s s' : State) (c k stamp status : Nat) (payload : List Byte) : Prop where
  done : s'.rd .mbxState c = 2
  opcode : leNat (s'.bytes (mbxKey c 0x2000) 2) = s.reqNat c 0 2
  tag : leNat (s'.bytes (mbxKey c 0x2004) 4) = s.reqNat c 4 4
  len : leNat (s'.bytes (mbxKey c 0x2008) 2) = payload.length % 2 ^ 16
  result : leNat (s'.bytes (mbxKey c 0x200A) 2) = status
  comp : leNat (s'.bytes (mbxKey c 0x200C) 1) = k
  started : leNat (s'.bytes (mbxKey c 0x2010) 8) = stamp % 2 ^ 64
  finished : leNat (s'.bytes (mbxKey c 0x2018) 8) = s.tally % 2 ^ 64
  data : s'.bytes (mbxKey c 0x2020) payload.length = payload
  count : s'.rd .mbxErrStatus c = if status = 0 then s.rd .mbxErrStatus c else (s.rd .mbxErrStatus c + 1) % 2 ^ 64

/-- Channel c's command of code op is first at its component k, which runs, and the headframe does not sleep (R359, R382); r is its record. -/
structure State.YcpRuns (s : State) (c op k : Nat) (r : MbxCmd) : Prop where
  row : (ycpOf op).map (fun e => e.1) = some k
  first : s.mbx.run.find? (fun q => q.comp == k) = some r
  chan : r.chan = c
  code : r.op = op
  running : (s.comp k).mode = .running
  awake : s.ic.asleep = false

/-- Two states of the adit differ only in what messages they have sent or hold back (R341). -/
def Adit.ButMessages (a b : Adit) : Prop :=
  ∃ pba last addr data at_ vecs, b = { a with pba := pba, lastMsg := last, msgAddr := addr, msgData := data, sentAt := at_, sentVecs := vecs }

/-- The command of record r is answered with a status and a payload: the response, the record gone, and nothing else but the named parts and
fields, for what the payload and the commands' own effects name. -/
structure State.Answers (s s' : State) (r : MbxCmd) (status : Nat) (payload : List Byte) (parts : List Part)
    (fields : List (Field × Nat × Nat)) : Prop where
  response : s.Responded s' r.chan r.comp r.stamp status payload
  mbx : Part.mbx ∉ parts → s'.mbx = { s.mbx with run := s.mbx.run.filter (fun q => q.chan != r.chan) }
  mem : Part.mem ∉ parts → s.BytesBut s' (mbxKey r.chan 0x2000) (32 + payload.length)
  free : s.mbx.pair ≠ none → Part.free ∉ parts → s'.free = s.free
  adit : s.adit.ButMessages s'.adit
  fields : s.FieldsBut s' ([(.mbxState, r.chan, 0), (.mbxErrStatus, r.chan, 0)] ++ eventFields ++ fields)
  only : s.Only s' ([.regs, .mem, .mbx, .adit, .free] ++ parts)

end Sys2Proof.Machine
end

