-- ==== Sys2Proof/WellFormed.lean ====
section
/-! DEFINITION. Well-formed commands: a command that carries data has as much of it as its lengths say. Every command without
variable data is well formed. -/
namespace Sys2Proof

/-- Does a command's data agree with the lengths it names? -/
def Instr.wellFormed : Instr → Bool
  | .bankAccess _ b reqs _ => reqs.all (Machine.bankReqOk b)
  | .hbmAccess r _ _ => Machine.hbmReqOk r
  | .flitReceive _ f => f.body.length == 248
  | _ => true

end Sys2Proof
end

