-- ==== Sys2Proof/Certificates/Slice0/Obligations.lean ====
section
/-! DEFINITION. The statements about the model, for the provers. Each says which rules of the manual it rests on. -/
open Sys2Proof Sys2Proof.Machine

/-! ### The block: its queue, its step and its idle time -/

/-- O1. A step takes the command at the front of the queue and is that command's meaning on the state with the rest of the queue. -/
def Obligations.StepRunsTheFrontCommand : Prop :=
  ∀ (c : Instr) (rest : List Instr) (s : State), s.pending = c :: rest → step s = exec c { s with pending := rest }

/-- O2. With no command waiting, one nanosecond passes (the model's choice, assumption log 4): module time advances by one; a tally
that DEV_VALID and the reference keep running, and that no correction slews, advances by one modulo 2^64; without DEV_VALID or the
reference it stands still. A device that has only waited for the end of the 100 ms after MOD_PWRGD, with PERST# high, starts at that instant (R502). Said of a block in which no BAR2 line, no access of the debug port and no packet on a ring waits; EveryStepKeepsSoundness
and MonotonicCountersNeverFall speak of every idle step, and PacketsRouted of the rings. -/
def Obligations.IdleStepIsOneNanosecond : Prop :=
  ∀ s : State, s.pending = [] → s.adit.writes = [] → s.ring = [] → s.mod.jtagWait = [] →
    ∃ s', step s = .next s' ∧ s'.time = s.time + 1 ∧ s'.pending = [] ∧
      (s.mod.running = true ∨ s.mod.perst = true → s.devValid = true → s.mod.refOk = true → s.on .tlyStatusCoarseSlew = false → s.talign.slew = 0 →
        s'.tally = (s.tally + 1) % 2 ^ 64) ∧
      (s.mod.running = true ∨ s.mod.perst = true → s.tally < 2 ^ 64 → s.devValid = false ∨ s.mod.refOk = false → s'.tally = s.tally) ∧
      (s.mod.pwrgd = true → s.mod.running = false → s.mod.perst = false → s.mod.refOk = true →
        (s.mod.pgAt + 100000000 ≤ s.time + 1 → s'.mod.running = true ∧ s'.tally = 0 ∧ s'.devValid = true ∧ s'.boot = { rom := true, cold := true }) ∧
        (s.time + 1 < s.mod.pgAt + 100000000 → s'.mod.running = false ∧ s'.devValid = s.devValid))

/-- O3. Whatever a command does, it does not touch the queue, the assembly variant or module time. -/
def Obligations.CommandsLeaveTheQueue : Prop :=
  ∀ (c : Instr) (s s' : State), exec c s = .next s' → s'.pending = s.pending ∧ s'.variant = s.variant ∧ s'.time = s.time

/-- O4. Every step keeps a sound state sound: memory and flash stay in canonical form, every register stays listed once at most, and the
tally stays a 64-bit number (R35). -/
def Obligations.EveryStepKeepsSoundness : Prop :=
  ∀ s s' : State, s.Sound → step s = .next s' → s'.Sound

/-- O5. No step lowers one of the four counters of the counter device. -/
def Obligations.MonotonicCountersNeverFall : Prop :=
  ∀ (s s' : State) (i : Nat), step s = .next s' → s.counter i ≤ s'.counter i

/-- O6. The state at reset is sound, and holds the reset values of the register tables: the power cap is the variant's TDP and the peak limit 115 % of it; the
temperatures of PWR_TJ, the droop settings, GAIN and EFF, hop limit, receive buffers, link timers, time-outs, scrub and halt settings at their tables' numbers; every field at its reset value; tile
cores held at PC 0, ports DISABLED, and nothing waiting. That RAM reads 0 is the model's choice (assumption log 2). -/
def Obligations.ResetState : Prop :=
  State.reset.Sound ∧ State.reset.pending = [] ∧ State.reset.tally = 0 ∧ State.reset.mem = [] ∧
  (∀ f i j, State.reset.rd f i j = f.reset State.reset.variant i j) ∧
  (∀ v : Variant, ({ State.reset with variant := v } : State).rd .pwrCapCapW = v.tdp ∧
    ({ State.reset with variant := v } : State).rd .pwrPeakW = v.tdp * 115 / 100) ∧
  State.reset.rd .pwrTjTrip = 115 ∧ State.reset.rd .pwrTjHot = 105 ∧ State.reset.rd .pwrTjTarget = 95 ∧ State.reset.rd .pwrHbmHot = 100 ∧
  State.reset.rd .pwrDroopCfgDroopMv = 40 ∧ State.reset.rd .pwrDroopCfgDroopFrac = 16 ∧ State.reset.rd .pwrDroopCfgHoldNs = 200 ∧
  State.reset.rd .pwrCalGain = 0x4000 ∧ State.reset.rd .pwrCalEff = 0xF540 ∧ State.reset.rd .fabHopLimit = 0x80 ∧
  State.reset.rd .rasHangThreshNs = 100000000 ∧ State.reset.rd .rasPmCap = 73 ∧ State.reset.rd .skpShipTimeoutNs = 10000000 ∧
  State.reset.rd .dbgHaltCtrlAccept = 1 ∧ State.reset.rd .dbgHaltCtrlPropagate = 0xFF ∧
  (∀ k : PbId, State.reset.rd .pwrPbCtrlVset k = 2 ∧ State.reset.rd .pwrPbCtrlIssue k = 64) ∧
  (∀ c : HbmcId, State.reset.rd .hbmScrubCfgEn c = 1 ∧ State.reset.rd .hbmScrubCfgIntervalNs c = 256) ∧
  (∀ t : TileId, (State.reset.tile t).core.mode = .held ∧ State.reset.rd .tileCorePc t = 0 ∧ State.reset.rd .hstRemoteTimeoutNs t = 1000000 ∧
    State.reset.rd .tileSpecLimitNs t = 100000) ∧
  (∀ p : PortId, (State.reset.port p).mode = .disabled ∧ State.reset.rd .portCtrlEn p = 0 ∧ State.reset.rd .portRetryCfgLimit p = 16 ∧
    State.reset.rd .portRxbufVc p 0 = 0x40 ∧ State.reset.rd .portRxbufVc p 1 = 0x40 ∧ ∀ v, 2 ≤ v → v < 8 → State.reset.rd .portRxbufVc p v = 0x140)

/-- O7. The only command that is turned away is one whose data is not well formed; no command faults, and every well-formed one answers a
next state. -/
def Obligations.OnlyIllFormedCommandsStop : Prop :=
  ∀ (c : Instr) (s : State),
    (c.wellFormed = true → ∃ s', exec c s = .next s') ∧
    (c.wellFormed = false → ∃ m, exec c s = .refused (.illFormed m))

/-! ### Register space -/

/-- O8. A write of a select register re-points the writer's own copy and no other agent's (R17, R18); the sideband writes none. QSEL lies
behind TILE_SEL: where that names an absent tile, the write is ignored and counted (R7, R57). `Reaches` says that the agent's access gets to its register
space: the debug port has access, a headframe core's MPU permits it (R348), and the host's function is not in D3hot (the model's choice, assumption
log 89). -/
def Obligations.SelectRegistersAreEachAgentsOwn : Prop :=
  (∀ (a : Agent) (k : SelKind) (v : Nat) (s : State), a ≠ .sideband → s.Reaches a (selField k).info.off 4 1 →
    (k = .queue → s.rd .tileSelIndex (agentIdx a) < 256) →
    Runs (.selectRegisterWrite a k v) s [.regs] [(selField k, agentIdx a, 0)] (fun s' =>
      s'.rd (selField k) (agentIdx a) = v % 2 ^ (selField k).info.width ∧
      ∀ b, b ≠ a → s'.selOf (agentIdx b) = s.selOf (agentIdx b))) ∧
  (∀ (a : Agent) (v : Nat) (s : State), a ≠ .sideband → s.Reaches a 0x06050000 4 1 → s.rd .tileSelIndex (agentIdx a) ≥ 256 →
    Runs (.selectRegisterWrite a .queue v) s [.regs] [(.hfSelAbsentWr, 0, 0)] (fun s' =>
      s'.rd .hfSelAbsentWr = (s.rd .hfSelAbsentWr + 1) % 2 ^ 64)) ∧
  (∀ (k : SelKind) (v : Nat) (s : State), Runs (.selectRegisterWrite .sideband k v) s [] [] (fun s' => s' = s))

/-- O9. What a register write does by the access code, size and place of the register, on registers of each kind: RW fields take the bits
written (PWR_TJ, TJ_TRIP of which is RO), from each core that R348 and R349 let write them; a W1C bit clears when 1 is written, and one that hardware sets
in the same access stays set, with the record that hardware sets with it (R12, on RAS_HANG_INFO); RO is discarded (TLY_SNAP_SEQ). A write that no region of the
core's MPU permits, or to a slot that the component acting on it may not write, changes nothing and raises an MPU fault, which faults that component. A
host write, whose offset is one of BAR0 (R56), outside the select registers and the mailbox slot is discarded and counted once, of 4 bytes or of 8 (R60, R61), one of
a wrong size or alignment too (R60); a write behind a select register that names an absent port is ignored and counted once (R7); the sideband writes
nothing. In D3hot the host's write is an Unsupported Request (the model's choice, assumption log 89). -/
def Obligations.RegisterWrites : Prop :=
  (∀ (k : CoreId) (v : Nat) (s : State), s.Reaches (.hf k) 0x03000060 4 1 →
    Runs (.registerWrite (.hf k) (.space 0x03000060) 4 ⟨v, 0, []⟩) s [.regs] [(.pwrTjHot, 0, 0), (.pwrTjTarget, 0, 0), (.pwrHbmHot, 0, 0)]
      (fun s' => s'.rd .pwrTjHot = v / 2 ^ 16 % 2 ^ 8 ∧ s'.rd .pwrTjTarget = v / 2 ^ 8 % 2 ^ 8 ∧ s'.rd .pwrHbmHot = v % 2 ^ 8)) ∧
  (∀ (k : CoreId) (off q v : Nat) (s : State), s.ic.asleep = false → regDecodes off = true → off % 4 = 0 → s.coreComps k.val = [q] →
    s.mpuMay k.val (0x200000000 + off) 4 1 = false ∨ compMayWrite q off = false →
    Completes (.registerWrite (.hf k) (.space off) 4 ⟨v, 0, []⟩) s (fun s' => s' = (s.irq (428 + k.val)).accessFault q)) ∧
  (∀ (v sets kind : Nat) (info : List Nat) (s : State), s.Reaches (.hf 3) 0x0A000030 4 1 →
    Completes (.registerWrite (.hf 3) (.space 0x0A000030) 4 ⟨v, sets, kind :: info⟩) s (fun s' => s.Only s' [.regs] ∧
      s'.rd .rasHangInfoValid = (if sets.testBit 31 then 1 else if v.testBit 31 then 0 else s.rd .rasHangInfoValid) ∧
      (sets.testBit 31 = true → s.rd .rasHangInfoValid = 0 ∨ v.testBit 31 = true →
        s'.rd .rasHangInfoKind = kind % 2 ^ Field.rasHangInfoKind.info.width) ∧
      (sets.testBit 31 = false → s.FieldsBut s' [(.rasHangInfoValid, 0, 0)]))) ∧
  (∀ (v : Nat) (s : State), s.Reaches (.hf 2) 0x2034 4 1 →
    Runs (.registerWrite (.hf 2) (.space 0x2034) 4 ⟨v, 0, []⟩) s [] [] (fun s' => s' = s)) ∧
  (∀ (off size v : Nat) (s : State), s.adit.d3 = false → sizeOk (agentOff .host off) size = true → hostMay (agentOff .host off) = false →
    Runs (.registerWrite .host (.space off) size ⟨v, 0, []⟩) s [.regs] [(.adtRegWrDeny, 0, 0)]
      (fun s' => s'.rd .adtRegWrDeny = (s.rd .adtRegWrDeny + 1) % 2 ^ 64)) ∧
  (∀ (off size v : Nat) (s : State), s.adit.d3 = false → sizeOk (agentOff .host off) size = false →
    Runs (.registerWrite .host (.space off) size ⟨v, 0, []⟩) s [.regs] [(.adtRegSizeErr, 0, 0)]
      (fun s' => s'.rd .adtRegSizeErr = (s.rd .adtRegSizeErr + 1) % 2 ^ 64)) ∧
  (∀ (off size v : Nat) (s : State), s.adit.d3 = true →
    Completes (.registerWrite .host (.space off) size ⟨v, 0, []⟩) s (fun s' => s' = s.unsupported)) ∧
  (∀ (k : CoreId) (off size v : Nat) (s : State), (off = 0x05000004 ∧ size = 4) ∨ (off = 0x05000020 ∧ size = 8) → s.Reaches (.hf k) off size 1 →
    s.rd .portSelIndex (agentIdx (.hf k)) ≥ s.variant.ports →
    Runs (.registerWrite (.hf k) (.space off) size ⟨v, 0, []⟩) s [.regs] [(.hfSelAbsentWr, 0, 0)]
      (fun s' => s'.rd .hfSelAbsentWr = (s.rd .hfSelAbsentWr + 1) % 2 ^ 64)) ∧
  (∀ (off size v : Nat) (s : State), Runs (.registerWrite .sideband (.space off) size ⟨v, 0, []⟩) s [] [] (fun s' => s' = s))

/-- O10. Reading a 64-bit RO register in halves (R14, R63): the low half of TLY_NOW answers its low 32 bits and latches its high half for
the reader; the high half then answers the latched value, and one that matches no latch answers the live value and counts
HF_LATCH_MISS. An 8-byte read answers both halves and leaves the latch alone (R60). A read of an RC register answers as any read of its offset does (no table of
the manual gives a field that code, assumption log 7). A headframe core reads its own control registers (R385, on IC_PMR, IC_VBASE and the two halves
of a timer instant); the host reads the function's configuration (R334). A read that no region of the core's MPU permits answers zero and raises an MPU fault
(R348). -/
def Obligations.RegisterReads : Prop :=
  (∀ (a : Agent) (s : State), s.tally < 2 ^ 64 → a ≠ .sideband → s.Reaches a 0x2000 4 0 → s.Reaches a 0x2004 4 0 → s.Reaches a 0x2000 8 0 →
    Runs (.lowHalfRead a (.space 0x2000) 4) s [.answers, .latches] [] (fun s' =>
      sget 0 (agentIdx a) s'.answers = s.tally % 2 ^ 32 ∧
      slook (agentIdx a) s'.latches = some ⟨0x2000, [], s.tally / 2 ^ 32⟩) ∧
    Runs (.lowHalfRead a (.space 0x2000) 8) s [.answers] [] (fun s' => sget 0 (agentIdx a) s'.answers = s.tally) ∧
    (∀ hi, slook (agentIdx a) s.latches = some ⟨0x2000, [], hi⟩ →
      Runs (.highHalfRead a 0x2004 4) s [.answers] [] (fun s' => sget 0 (agentIdx a) s'.answers = hi)) ∧
    (slook (agentIdx a) s.latches = none →
      Runs (.highHalfRead a 0x2004 4) s [.answers, .regs] [(.hfLatchMiss, 0, 0)] (fun s' =>
        sget 0 (agentIdx a) s'.answers = s.tally / 2 ^ 32 ∧ s'.rd .hfLatchMiss = (s.rd .hfLatchMiss + 1) % 2 ^ 64))) ∧
  (∀ (k : CoreId) (s : State) (inc : Nat), s.Reaches (.hf k) 0x03000060 4 0 →
    Runs (.rcCounterRead (.hf k) 0x03000060 inc) s [.answers] [] (fun s' =>
      sget 0 (agentIdx (.hf k)) s'.answers = s.rd .pwrTjTrip % 2 ^ 8 * 2 ^ 24 + s.rd .pwrTjHot % 2 ^ 8 * 2 ^ 16 +
        s.rd .pwrTjTarget % 2 ^ 8 * 2 ^ 8 + s.rd .pwrHbmHot % 2 ^ 8)) ∧
  (∀ (k : CoreId) (s : State), s.ic.asleep = false →
    Runs (.lowHalfRead (.hf k) (.control k 8) 4) s [.answers] [] (fun s' => sget 0 (agentIdx (.hf k)) s'.answers = s.rd .icPmr k) ∧
    Runs (.lowHalfRead (.hf k) (.control k 0xC) 4) s [.answers] [] (fun s' => sget 0 (agentIdx (.hf k)) s'.answers = s.rd .icVbase k * 2 ^ 14) ∧
    ∀ i, i < 4 → Runs (.lowHalfRead (.hf k) (.control k (0x20 + 8 * i)) 8) s [.answers] []
      (fun s' => sget 0 (agentIdx (.hf k)) s'.answers = s.rd .icTimerAt k i % 2 ^ 64)) ∧
  (∀ (r : PciReg) (size : Nat) (s : State), s.adit.linkUp = true →
    Runs (.lowHalfRead .host (.config r) size) s [.answers] [] (fun s' => sget 0 (agentIdx .host) s'.answers = s.pciRead r)) ∧
  (∀ (k : CoreId) (off q : Nat) (s : State), s.ic.asleep = false → s.coreComps k.val = [q] → s.mpuMay k.val (0x200000000 + off) 4 0 = false →
    Completes (.lowHalfRead (.hf k) (.space off) 4) s (fun s' => s' = ((s.irq (428 + k.val)).accessFault q).answer (.hf k) 0))

/-! ### The tile core -/

/-- O11. The integer operations of R164, on 64-bit values: x[RD] takes the operation's result (a write to x0 is ignored, R161), the core goes
on at PC + 4, and nothing else changes but counts. In class 1 the second operand is IMM13: zero-extended for AND, OR and XOR, bits 5:0 for
the shifts, sign-extended for the others. LUI writes {RS1 field, IMM13}, sign-extended, times 2^13. A code
that the table does not list for its class is illegal, with cause 0x01. -/
def Obligations.IntegerOperations : Prop :=
  (∀ (op : CoreOp) (c : TileId → Instr) (f : BitVec 64 → BitVec 64 → BitVec 64), (op, c, f) ∈ ([
      (.add, .add, (· + ·)), (.sub, .sub, (· - ·)), (.and, .and, (· &&& ·)), (.or, .or, (· ||| ·)), (.xor, .xor, (· ^^^ ·)),
      (.sll, .sll, fun a b => a <<< (b.toNat % 64)), (.srl, .srl, fun a b => a >>> (b.toNat % 64)),
      (.sra, .sra, fun a b => a.sshiftRight (b.toNat % 64)),
      (.slt, .slt, fun a b => if a.toInt < b.toInt then 1 else 0), (.sltu, .sltu, fun a b => if a.toNat < b.toNat then 1 else 0),
      (.mul, .mul, (· * ·)), (.mulh, .mulh, fun a b => ((a.signExtend 128 * b.signExtend 128) >>> 64).setWidth 64),
      (.mulhu, .mulhu, fun a b => ((a.setWidth 128 * b.setWidth 128) >>> 64).setWidth 64),
      (.min, .min, fun a b => if a.toInt ≤ b.toInt then a else b), (.max, .max, fun a b => if a.toInt ≤ b.toInt then b else a),
      (.minu, .minu, fun a b => if a.toNat ≤ b.toNat then a else b), (.maxu, .maxu, fun a b => if a.toNat ≤ b.toNat then b else a)]
      : List (CoreOp × (TileId → Instr) × (BitVec 64 → BitVec 64 → BitVec 64))) →
    ∀ (t : TileId) (w : CoreWord) (s : State), s.Fetches t op w →
      Completes (c t) s (fun s' =>
        s'.xr t w.rd = (if w.rd = 0 then 0 else
          (f (BitVec.ofNat 64 (s.xr t w.rs1))
             (if w.cls = 0 then BitVec.ofNat 64 (s.xr t w.rs2)
              else if op = .and ∨ op = .or ∨ op = .xor then BitVec.ofNat 64 w.imm
              else if op = .sll ∨ op = .srl ∨ op = .sra then BitVec.ofNat 64 (w.imm % 64)
              else (BitVec.ofNat 13 w.imm).signExtend 64)).toNat) ∧
        s.Retired s' t w.rd ((s.tile t).core.pc + 4) [] ∧ s.Only s' [.regs, .tiles, .act])) ∧
  (∀ (t : TileId) (w : CoreWord) (s : State), s.Fetches t .lui w →
    Completes (.lui t) s (fun s' =>
      s'.xr t w.rd = (if w.rd = 0 then 0 else ((BitVec.ofNat 5 w.rs1 ++ BitVec.ofNat 13 w.imm).signExtend 64 * 8192#64).toNat) ∧
      s.Retired s' t w.rd ((s.tile t).core.pc + 4) [] ∧ s.Only s' [.regs, .tiles, .act])) ∧
  (∀ (t : TileId) (s : State),
    let w := coreFields (leNat (s.bytes (spdAddr t .cb (s.tile t).core.pc) 4))
    (s.tile t).coreReady = true → (s.tile t).core.pc % 4 = 0 → (s.tile t).core.pc + 4 ≤ bankSize .cb → s.clearing t .cb = false →
    s.mark (spdAddr t .cb ((s.tile t).core.pc / 8 * 8)) = 0 →
    (w.cls = 0 ∧ w.imm % 64 > 0x10) ∨ (w.cls = 1 ∧ (w.rs2 = 0x01 ∨ (w.rs2 > 0x10 ∧ w.rs2 ≠ 0x1F))) → Completes (.add t) s (fun s' =>
      (s'.tile t).core.mode = .faulted ∧ (∀ i, s'.xr t i = s.xr t i) ∧
      (s.rd .tileFaultInfoValid t = 0 → s'.rd .tileFaultInfoCause t = 1)))

/-- O12. LOAD: x[RD] takes the 1, 2, 4 or 8 little-endian bytes at x[RS1] + IMM13 in the tile's own banks, sign-extended when RS2 bit 2 is
set (R162), SB through the shadow lines of a committing branch (R157); memory is unchanged. -/
def Obligations.Loads : Prop :=
  ∀ (t : TileId) (w : CoreWord) (s : State) (b : BankId) (off : Nat), s.Fetches t .load w →
    coreAddr t (s.effAddr t w) (2 ^ (w.rs2 % 4)) = .ok (b, off) →
    s.clearing t b = false → (b = .cb ∨ (s.bank t b).waiting = []) → s.mark (spdAddr t b (off / 8 * 8)) = 0 →
    Completes (.load t) s (fun s' =>
      s'.xr t w.rd = (if w.rd = 0 then 0 else
        let v := leNat ((List.range (2 ^ (w.rs2 % 4))).map (fun i => s.spdByte t b (off + i)))
        if w.rs2.testBit 2 then ofSigned 64 (toSigned (8 * 2 ^ (w.rs2 % 4)) v) else v) ∧
      s.Retired s' t w.rd ((s.tile t).core.pc + 4) [(.spdAccOther, t, bankIdx b)] ∧ s.Only s' [.regs, .tiles, .act])

/-- O13. STORE: the 1, 2, 4 or 8 bytes of x[RS2] go to x[RS1] + IMM13 in the tile's own banks (R162), at once when the bank is idle, and no
other byte, no error mark and no other tile changes. When the bank is clearing or requests wait there, a store of 8 bytes waits in the bank's queue at
priority 3 with exactly those bytes, memory is unchanged, and the core goes on (R168, R213); a narrower one, which must merge with its word, keeps the core at the
instruction until the bank can take it, for the merge may fault (R169; the model's reading, assumption log 91). -/
def Obligations.Stores : Prop :=
  ∀ (t : TileId) (w : CoreWord) (s : State) (b : BankId) (off : Nat), s.Fetches t .store w →
    coreAddr t (s.effAddr t w) (2 ^ (w.rd % 4)) = .ok (b, off) → s.mark (spdAddr t b (off / 8 * 8)) = 0 →
    (s.clearing t b = false → (b = .cb ∨ (s.bank t b).waiting = []) → (b = .sb → ∀ i, (s.slot t i).mode ≠ .committing) →
      Completes (.store t) s (fun s' =>
        (∀ i, i < 2 ^ (w.rd % 4) → s'.byte (spdAddr t b off + i) = BitVec.ofNat 8 (s.xr t w.rs2 / 256 ^ i)) ∧
        s.BytesBut s' (spdAddr t b off) (2 ^ (w.rd % 4)) ∧ (∀ k, s'.mark k = s.mark k) ∧
        s.Retired s' t 0 ((s.tile t).core.pc + 4) [(.spdAccOther, t, bankIdx b)] ∧ s.Only s' [.regs, .tiles, .act, .mem, .ecc])) ∧
    (b ≠ .cb → w.rd % 4 ≠ 3 → s.clearing t b = true ∨ (s.bank t b).waiting ≠ [] →
      Completes (.store t) s (fun s' =>
        (s'.tile t).core = (s.tile t).core ∧ (∀ u v, s'.bank u v = s.bank u v) ∧ s.TilesBut s' t ∧
        s.FieldsBut s' [(.spdClearHold, t, bankIdx b), (.spdDefer, t, bankIdx b)] ∧ s.Only s' [.regs, .tiles])) ∧
    (b ≠ .cb → w.rd % 4 = 3 → s.clearing t b = true ∨ (s.bank t b).waiting ≠ [] →
      Completes (.store t) s (fun s' =>
        (s'.bank t b).waiting = (s.bank t b).waiting ++
          [{ req := { cls := 3, write := true, off := off, len := 8, data := natLe 8 (s.xr t w.rs2), who := .core t } }] ∧
        (∀ i, s'.xr t i = s.xr t i) ∧ (s'.tile t).core = { (s.tile t).core with pc := (s.tile t).core.pc + 4 } ∧ s.TilesBut s' t ∧
        s.FieldsBut s' [(.tileInstr, t, 0), (.spdAccMaster, t, 3), (.spdClearHold, t, bankIdx b)] ∧ s.Only s' [.regs, .tiles, .act]))

/-- O14. The precise faults of the tile core (R169): an illegal word (0x01), an address outside the five banks (0x02, which counts in
TILE_DECODE_ERR too), a misaligned one (0x03), a program counter outside CB (0x04), poison on fetch (0x05). The core stops at the instruction,
TILE_FAULTS counts, the first cause and its program counter are recorded, and the RAS agent gets a report with the tile's generation, of class 2
(the model's choice, assumption log 68), unless the tile's interrupt source has EN 0 (R372, R439). -/
def Obligations.CoreFaults : Prop :=
  ∀ (t : TileId) (s : State) (w : CoreWord) (c : TileId → Instr) (cause : Nat),
    (cause = 4 ∧ c = .add ∧ (s.tile t).coreReady = true ∧ (s.tile t).core.pc + 4 > bankSize .cb) ∨
    (cause = 3 ∧ c = .load ∧ s.Fetches t .load w ∧ s.effAddr t w % 2 ^ (w.rs2 % 4) ≠ 0) ∨
    (cause = 3 ∧ c = .store ∧ s.Fetches t .store w ∧ s.effAddr t w % 2 ^ (w.rd % 4) ≠ 0) ∨
    (cause = 3 ∧ c = .crd ∧ s.Fetches t .crd w ∧ s.effAddr t w % 4 ≠ 0) ∨
    (cause = 2 ∧ c = .load ∧ s.Fetches t .load w ∧ s.effAddr t w % 2 ^ (w.rs2 % 4) = 0 ∧
      (s.effAddr t w / 0x800000 ≠ t ∨ bankAt (s.effAddr t w % 0x800000) = none)) ∨
    (cause = 1 ∧ c = .add ∧ (s.tile t).coreReady = true ∧ (s.tile t).core.pc % 4 = 0 ∧ (s.tile t).core.pc + 4 ≤ bankSize .cb ∧
      s.clearing t .cb = false ∧ s.mark (spdAddr t .cb ((s.tile t).core.pc / 8 * 8)) = 0 ∧
      coreDecode (coreFields (leNat (s.bytes (spdAddr t .cb (s.tile t).core.pc) 4))) = none) →
    Completes (c t) s (fun s' =>
      (s'.tile t).core.mode = .faulted ∧ (s'.tile t).core.pc = (s.tile t).core.pc ∧ (∀ i, s'.xr t i = s.xr t i) ∧
      s'.rd .tileFaults t = (s.rd .tileFaults t + 1) % 2 ^ 64 ∧
      (s.rd .tileFaultInfoValid t = 0 → s'.rd .tileFaultInfoValid t = 1 ∧ s'.rd .tileFaultInfoCause t = cause ∧
        s'.rd .tileFaultPc t = (s.tile t).core.pc % 2 ^ 32) ∧
      (s.rd .tileFaultInfoValid t ≠ 0 → s'.rd .tileFaultInfoCause t = s.rd .tileFaultInfoCause t ∧
        s'.rd .tileFaultPc t = s.rd .tileFaultPc t) ∧
      (cause = 2 → s'.rd .tileDecodeErr t = (s.rd .tileDecodeErr t + 1) % 2 ^ 64) ∧
      s'.ras = s.ras ++ (if s.on .icSrcCfgEn 0 t then [⟨2, .tile, t, 0x300 + cause, s.rd .tileGen t, (s.tile t).core.pc⟩] else []) ∧
      (∀ k, s'.byte k = s.byte k) ∧ s.TilesBut s' t)

/-- O15. Branches and jumps (R165). -/
def Obligations.BranchesAndJumps : Prop :=
  (∀ (op : CoreOp) (c : TileId → Instr) (taken : BitVec 64 → BitVec 64 → Bool), (op, c, taken) ∈ ([
      (.beq, .beq, fun a b => decide (a = b)), (.bne, .bne, fun a b => decide (a ≠ b)),
      (.blt, .blt, fun a b => decide (a.toInt < b.toInt)), (.bge, .bge, fun a b => decide (a.toInt ≥ b.toInt)),
      (.bltu, .bltu, fun a b => decide (a.toNat < b.toNat)), (.bgeu, .bgeu, fun a b => decide (a.toNat ≥ b.toNat))]
      : List (CoreOp × (TileId → Instr) × (BitVec 64 → BitVec 64 → Bool))) →
    ∀ (t : TileId) (w : CoreWord) (s : State), s.Fetches t op w →
      Completes (c t) s (fun s' =>
        s.Retired s' t 0 (if taken (BitVec.ofNat 64 (s.xr t w.rs1)) (BitVec.ofNat 64 (s.xr t w.rs2))
          then ((((s.tile t).core.pc : Int) + toSigned 13 w.imm * 4) % 2 ^ 32).toNat else (s.tile t).core.pc + 4) [] ∧
        s.Only s' [.regs, .tiles, .act])) ∧
  (∀ (t : TileId) (w : CoreWord) (s : State), s.Fetches t .jal w →
    Completes (.jal t) s (fun s' =>
      s'.xr t w.rs2 = (if w.rs2 = 0 then 0 else (s.tile t).core.pc + 4) ∧
      s.Retired s' t w.rs2 ((((s.tile t).core.pc : Int) + toSigned 18 (w.rs1 * 2 ^ 13 + w.imm) * 4) % 2 ^ 32).toNat [] ∧
      s.Only s' [.regs, .tiles, .act])) ∧
  (∀ (t : TileId) (w : CoreWord) (s : State), s.Fetches t .jalr w →
    Completes (.jalr t) s (fun s' =>
      s'.xr t w.rs2 = (if w.rs2 = 0 then 0 else (s.tile t).core.pc + 4) ∧
      s.Retired s' t w.rs2 (s.effAddr t w / 4 * 4) [] ∧ s.Only s' [.regs, .tiles, .act]))

/-- O16. Control registers (R167): CRD answers, zero-extended, the word that the 32-bit register at the slot offset of the core's own tile reads at
that moment, or the latched high half of a 64-bit read-only one (R14), and zero outside the slot; TILE_PHASE for one. CWR gives every field
at the offset that R167 lets it write the bits written, by its access code, a W1C flag that an engine sets in the same access staying set (R12), and a
VALID bit of a record that so sets raising the tile's source (R371); a
changed TILE_PHASE is stamped and counted (R182). A write of anything else is discarded and counted. Both are of any aligned address. -/
def Obligations.ControlRegisters : Prop :=
  (∀ (t : TileId) (w : CoreWord) (s : State), s.Fetches t .crd w → s.effAddr t w % 4 = 0 →
    let p := crPlace t (s.effAddr t w)
    Completes (.crd t) s (fun s' =>
      s'.xr t w.rd = (if s.effAddr t w < 4 ∨ s.effAddr t w ≥ 0x100000 then 0
        else ((s.fetched t).latchRead (16 + t) p.1 p.2 ((s.fetched t).word p.1 p.2)).2 % 2 ^ 64) ∧
      (s.effAddr t w = 0x8510 → s'.xr t w.rd = s.rd .tilePhasePhase t % 2 ^ 16) ∧
      s.Retired s' t w.rd ((s.tile t).core.pc + 4) [(.hfLatchMiss, 0, 0)] ∧ s.Only s' [.regs, .tiles, .act, .latches])) ∧
  (∀ (t : TileId) (w : CoreWord) (sets : Nat) (info : List Nat) (s : State), s.Fetches t .cwr w → s.effAddr t w % 4 = 0 →
    let p := crPlace t (s.effAddr t w)
    let hs := if s.effAddr t w < 4 ∨ s.effAddr t w ≥ 0x100000 then [] else (hitsAt p.1 p.2).filter (fun h => cwrAllowed h.f)
    (hs = [] → Completes (.cwr ⟨t, sets, info⟩) s (fun s' =>
      s'.rd .tileCrWrDeny t = (s.rd .tileCrWrDeny t + 1) % 2 ^ 64 ∧
      s.Retired s' t 0 ((s.tile t).core.pc + 4) [(.tileCrWrDeny, t, 0)] ∧ s.Only s' [.regs, .tiles, .act])) ∧
    (hs ≠ [] → s.effAddr t w ≠ 0x8510 → Completes (.cwr ⟨t, sets, info⟩) s (fun s' =>
      (∀ h ∈ hs, s'.rd h.f h.inst h.sub = h.after (s.rd h.f h.inst h.sub) (s.xr t w.rs2 % 2 ^ 32) sets) ∧
      s.Retired s' t 0 ((s.tile t).core.pc + 4)
        (hs.flatMap (fun h => (h.f, h.inst, h.sub) :: (recordOf h.f).map (fun f => (f, h.inst, 0))) ++ eventFields) ∧
      s.Only s' [.regs, .tiles, .act, .ic, .adit] ∧ (sets = 0 → s.Only s' [.regs, .tiles, .act]))) ∧
    (s.effAddr t w = 0x8510 → Completes (.cwr ⟨t, sets, info⟩) s (fun s' =>
      s'.rd .tilePhasePhase t = s.xr t w.rs2 % 2 ^ 16 ∧
      (s.xr t w.rs2 % 2 ^ 16 ≠ s.rd .tilePhasePhase t → s'.rd .tilePhaseAt t = s.tally % 2 ^ 64 ∧
        s'.rd .tilePhaseChg t = (s.rd .tilePhaseChg t + 1) % 2 ^ 64) ∧
      s.Retired s' t 0 ((s.tile t).core.pc + 4) [(.tilePhasePhase, t, 0), (.tilePhaseAt, t, 0), (.tilePhaseChg, t, 0)] ∧
      s.Only s' [.regs, .tiles, .act, .pwr])))

/-- O17. POST of an entry of CB (64-byte aligned, its words good) to a queue of the posting tile itself (R177, R178), a ring of CB, or of SB for the
seam queues, whose bank is not being cleared: with room, the 64 bytes stand at the queue's TAIL line, TAIL moves on, TILE_Q_POSTS counts, x[RD] is 0, and no other byte of memory changes; a full queue makes POST
wait, posting nothing, and POST.NB answer 1; a disabled queue makes both answer 3 and counts. A post to another tile is a POST packet on VC2 with
those bytes, and x[RD] is 2. -/
def Obligations.Posts : Prop :=
  ∀ (nb : Bool) (t : TileId) (w : CoreWord) (s : State),
    s.Fetches t (if nb then .postNb else .post) w → s.xr t w.rs1 + 64 ≤ bankSize .cb → s.xr t w.rs1 % 64 = 0 →
    (∀ i, i < 8 → s.mark (spdAddr t .cb (s.xr t w.rs1) + 8 * i) = 0) →
    ∀ q, q = targetQueue (s.xr t w.rs2) →
    let here := s.targetHere (s.xr t w.rs2) = true ∧ targetTile (s.xr t w.rs2) = t
    let line := spdAddr t (qBank q) (s.qLine t q (s.rd .tileQTail (qInst t q)))
    (here → s.clearing t (qBank q) = false → s.qEnabled t q = true → s.qOcc t q < s.qDepth t q → (∀ i, (s.slot t i).mode ≠ .committing) →
      Completes (if nb then .postNb t else .post t) s (fun s' =>
        s'.xr t w.rd = 0 ∧
        (∀ i, i < 64 → s'.byte (line + i) = s.byte (spdAddr t .cb (s.xr t w.rs1) + i)) ∧
        s.BytesBut s' (line) 64 ∧
        s'.rd .tileQTail (qInst t q) = qNext (s.qDepth t q) (s.rd .tileQTail (qInst t q)) % 2 ^ 9 ∧
        s'.rd .tileQPosts (qInst t q) = (s.rd .tileQPosts (qInst t q) + 1) % 2 ^ 64 ∧
        s.Retired s' t w.rd ((s.tile t).core.pc + 4) [(.tileQTail, qInst t q, 0), (.tileQPosts, qInst t q, 0), (.spdAccOther, t, 4)] ∧
        s.Only s' [.regs, .tiles, .act, .mem, .ecc])) ∧
    (here → s.clearing t (qBank q) = false → s.qEnabled t q = true → s.qOcc t q ≥ s.qDepth t q →
      (nb = true → Completes (.postNb t) s (fun s' =>
        s'.xr t w.rd = (if w.rd = 0 then 0 else 1) ∧ s.Retired s' t w.rd ((s.tile t).core.pc + 4) [] ∧ s.Only s' [.regs, .tiles, .act])) ∧
      (nb = false → Completes (.post t) s (fun s' =>
        (s'.tile t).core = { (s.tile t).core with wait := .post w.rd (s.xr t w.rs1) (s.xr t w.rs2) } ∧ s.TilesBut s' t ∧
        s.FieldsBut s' [(.spdAccMaster, t, 3)] ∧ s.Only s' [.regs, .tiles, .act]))) ∧
    (here → s.clearing t (qBank q) = false → s.qEnabled t q = false →
      Completes (if nb then .postNb t else .post t) s (fun s' =>
        s'.xr t w.rd = (if w.rd = 0 then 0 else 3) ∧
        s'.rd .tileQDropDisabled (qInst t q) = (s.rd .tileQDropDisabled (qInst t q) + 1) % 2 ^ 64 ∧
        s.Retired s' t w.rd ((s.tile t).core.pc + 4) [(.tileQDropDisabled, qInst t q, 0)] ∧ s.Only s' [.regs, .tiles, .act])) ∧
    (¬ here →
      Completes (if nb then .postNb t else .post t) s (fun s' =>
        s'.xr t w.rd = (if w.rd = 0 then 0 else 2) ∧
        (∃ p, s'.outbox = s.outbox ++ [p] ∧ p.ty = 2 ∧ p.vc = 2 ∧ p.dstTile = targetTile (s.xr t w.rs2) ∧ p.dstQueue = q ∧
          p.dstDev = targetDev (s.xr t w.rs2) ∧ p.srcTile = t.val ∧ p.gen = s.rd .tileGen t ∧ p.len = 64 ∧
          p.payload = s.bytes (spdAddr t .cb (s.xr t w.rs1)) 64) ∧
        s.Retired s' t w.rd ((s.tile t).core.pc + 4) [] ∧ s.Only s' [.regs, .tiles, .act, .outbox]))

/-- O18. A POST that waits on a full queue stays as it is while the queue is full, and is admitted once it has room: x[RD] becomes 0, TILE_Q_POSTS
counts, the entry stands at the TAIL line and the core goes on; where the queue has been disabled x[RD] becomes 3 (R177). POP moves the head entry of
an enabled command queue to the CB offset x[RS1], answers 1 and frees the head; an empty queue answers 0 and moves nothing (R179). -/
def Obligations.QueueWaitAndPop : Prop :=
  (∀ (t : TileId) (rd entry target q : Nat) (s : State), (s.tile t).active = true → (s.tile t).core.wait = .post rd entry target →
    q = targetQueue target → s.clearing t .cb = false → s.clearing t (qBank q) = false →
    let line := spdAddr t (qBank q) (s.qLine t q (s.rd .tileQTail (qInst t q)))
    (s.qEnabled t q = true → s.qOcc t q ≥ s.qDepth t q → Completes (.postUnblock t) s (fun s' => s' = s)) ∧
    (s.qEnabled t q = true → s.qOcc t q < s.qDepth t q → entry % 64 = 0 → (∀ i, i < 8 → s.mark (spdAddr t .cb entry + 8 * i) = 0) →
      (∀ i, (s.slot t i).mode ≠ .committing) →
      Completes (.postUnblock t) s (fun s' =>
        s'.xr t rd = 0 ∧ (s'.tile t).core.wait = .running ∧ (s'.tile t).core.pc = ((s.tile t).core.pc + 4) % 2 ^ 32 ∧
        s'.rd .tileQTail (qInst t q) = qNext (s.qDepth t q) (s.rd .tileQTail (qInst t q)) % 2 ^ 9 ∧
        s'.rd .tileQPosts (qInst t q) = (s.rd .tileQPosts (qInst t q) + 1) % 2 ^ 64 ∧
        (∀ i, i < 64 → s'.byte (line + i) = s.byte (spdAddr t .cb entry + i)) ∧ s.BytesBut s' line 64 ∧ s.TilesBut s' t ∧
        s.FieldsBut s' [(.tileQTail, qInst t q, 0), (.tileQPosts, qInst t q, 0), (.tileInstr, t, 0), (.spdAccMaster, t, 3), (.spdAccOther, t, 4)] ∧
        s.Only s' [.regs, .tiles, .act, .mem, .ecc])) ∧
    (s.qEnabled t q = false → Completes (.postUnblock t) s (fun s' =>
      s'.xr t rd = (if rd = 0 then 0 else 3) ∧ (s'.tile t).core.wait = .running ∧ (s'.tile t).core.pc = ((s.tile t).core.pc + 4) % 2 ^ 32 ∧
      s'.rd .tileQDropDisabled (qInst t q) = (s.rd .tileQDropDisabled (qInst t q) + 1) % 2 ^ 64 ∧ s.TilesBut s' t ∧
      s.FieldsBut s' [(.tileQDropDisabled, qInst t q, 0), (.tileInstr, t, 0)] ∧ s.Only s' [.regs, .tiles, .act]))) ∧
  (∀ (t : TileId) (w : CoreWord) (s : State) (q : Nat), s.Fetches t .pop w → q = w.imm8 % 64 →
    (s.qEnabled t q = false ∨ s.qOcc t q = 0 → Completes (.pop t) s (fun s' =>
      s'.xr t w.rd = 0 ∧ s.Retired s' t w.rd ((s.tile t).core.pc + 4) [] ∧ s.Only s' [.regs, .tiles, .act])) ∧
    (s.qEnabled t q = true → s.qOcc t q ≠ 0 → s.xr t w.rs1 + 64 ≤ bankSize .cb →
      (∀ i, i < 9 → s.mark (spdAddr t .cb (s.xr t w.rs1 / 8 * 8) + 8 * i) = 0) →
      (∀ i, i < 8 → s.mark (spdAddr t .cb (s.qLine t q (s.rd .tileQHead (qInst t q))) + 8 * i) = 0) →
      Completes (.pop t) s (fun s' =>
        s'.xr t w.rd = (if w.rd = 0 then 0 else 1) ∧
        (∀ i, i < 64 → s'.byte (spdAddr t .cb (s.xr t w.rs1) + i) =
          s.byte (spdAddr t .cb (s.qLine t q (s.rd .tileQHead (qInst t q))) + i)) ∧
        s.BytesBut s' (spdAddr t .cb (s.xr t w.rs1)) 64 ∧
        s'.rd .tileQHead (qInst t q) = qNext (s.qDepth t q) (s.rd .tileQHead (qInst t q)) % 2 ^ 9 ∧
        s.Retired s' t w.rd ((s.tile t).core.pc + 4) [(.tileQHead, qInst t q, 0)] ∧ s.Only s' [.regs, .tiles, .act, .mem, .ecc])))

/-- O19. The semaphore operations (R180, R181). SEM.SIG adds x[RS1] bits 31:0, saturating at 0xFFFF_FFFF (which counts); SEM.SIGR does so to the
tile's own semaphore, or sends a SIGNAL packet on VC2, or on the VC of the enabled stream endpoint whose peer and peer's semaphore it names (R201; the
model's reading, assumption log 90); SEM.WAIT takes the amount at once when the value holds it, and otherwise waits without
retiring; a waiting one takes it as soon as it does; SEM.TRY answers 1 and takes, or 0; SEM.RD answers the value. -/
def Obligations.Semaphores : Prop :=
  (∀ (t : TileId) (w : CoreWord) (s : State) (k : Nat), k = w.imm8 % 64 →
    (s.Fetches t .semSig w → Completes (.semSig t) s (fun s' =>
      s'.rd .tileSem t k = min (s.rd .tileSem t k + s.xr t w.rs1 % 2 ^ 32) 0xFFFFFFFF ∧
      s'.rd .tileSemSat t = (if s.rd .tileSem t k + s.xr t w.rs1 % 2 ^ 32 > 0xFFFFFFFF then (s.rd .tileSemSat t + 1) % 2 ^ 64 else s.rd .tileSemSat t) ∧
      s.Retired s' t 0 ((s.tile t).core.pc + 4) (semFields t k) ∧ s.Only s' [.regs, .tiles, .act])) ∧
    (s.Fetches t .semSigr w → s.targetHere (s.xr t w.rs2) = true → targetTile (s.xr t w.rs2) = t → Completes (.semSigr t) s (fun s' =>
      s'.rd .tileSem t k = min (s.rd .tileSem t k + s.xr t w.rs1 % 2 ^ 32) 0xFFFFFFFF ∧
      s'.rd .tileSemSat t = (if s.rd .tileSem t k + s.xr t w.rs1 % 2 ^ 32 > 0xFFFFFFFF then (s.rd .tileSemSat t + 1) % 2 ^ 64 else s.rd .tileSemSat t) ∧
      s.Retired s' t 0 ((s.tile t).core.pc + 4) (semFields t k) ∧ s.Only s' [.regs, .tiles, .act])) ∧
    (s.Fetches t .semSigr w → ¬ (s.targetHere (s.xr t w.rs2) = true ∧ targetTile (s.xr t w.rs2) = t) → Completes (.semSigr t) s (fun s' =>
      (∃ p, s'.outbox = s.outbox ++ [p] ∧ p.ty = 3 ∧ p.vc = s.signalVc t k (s.xr t w.rs2) ∧
        ((∀ e, e < 16 → s.on .tileEpEn t e = false) → p.vc = 2) ∧ p.sem = k ∧ p.addr = s.xr t w.rs1 % 2 ^ 32 ∧
        p.dstTile = targetTile (s.xr t w.rs2) ∧ p.dstDev = targetDev (s.xr t w.rs2) ∧ p.srcTile = t.val) ∧
      s.Retired s' t 0 ((s.tile t).core.pc + 4) [] ∧ s.Only s' [.regs, .tiles, .act, .outbox])) ∧
    (s.Fetches t .semWait w → s.rd .tileSem t k < 2 ^ 32 → s.rd .tileSem t k ≥ s.xr t w.rs1 % 2 ^ 32 → Completes (.semWait t) s (fun s' =>
      s'.rd .tileSem t k = s.rd .tileSem t k - s.xr t w.rs1 % 2 ^ 32 ∧
      s.Retired s' t 0 ((s.tile t).core.pc + 4) (semFields t k) ∧ s.Only s' [.regs, .tiles, .act])) ∧
    (s.Fetches t .semWait w → s.rd .tileSem t k < s.xr t w.rs1 % 2 ^ 32 → Completes (.semWait t) s (fun s' =>
      (s'.tile t).core = { (s.tile t).core with wait := .sem k (s.xr t w.rs1 % 2 ^ 32) } ∧ s.TilesBut s' t ∧
      s.FieldsBut s' [(.spdAccMaster, t, 3)] ∧ s.Only s' [.regs, .tiles, .act])) ∧
    (s.Fetches t .semTry w → s.rd .tileSem t k < 2 ^ 32 → Completes (.semTry t) s (fun s' =>
      (s.rd .tileSem t k ≥ s.xr t w.rs1 % 2 ^ 32 → s'.xr t w.rd = (if w.rd = 0 then 0 else 1) ∧
        s'.rd .tileSem t k = s.rd .tileSem t k - s.xr t w.rs1 % 2 ^ 32) ∧
      (s.rd .tileSem t k < s.xr t w.rs1 % 2 ^ 32 → s'.xr t w.rd = 0 ∧ s'.rd .tileSem t k = s.rd .tileSem t k) ∧
      s.Retired s' t w.rd ((s.tile t).core.pc + 4) (semFields t k) ∧ s.Only s' [.regs, .tiles, .act])) ∧
    (s.Fetches t .semRd w → Completes (.semRd t) s (fun s' =>
      s'.xr t w.rd = (if w.rd = 0 then 0 else s.rd .tileSem t k % 2 ^ 64) ∧
      s.Retired s' t w.rd ((s.tile t).core.pc + 4) [] ∧ s.Only s' [.regs, .tiles, .act]))) ∧
  (∀ (t : TileId) (k a : Nat) (s : State), (s.tile t).core.wait = .sem k a → (s.tile t).active = true → k < 64 → a < 2 ^ 32 →
    s.rd .tileSem t k < 2 ^ 32 →
    (a ≤ s.rd .tileSem t k → Completes (.semWaitSatisfied t) s (fun s' =>
      s'.rd .tileSem t k = s.rd .tileSem t k - a ∧
      (s'.tile t).core = { (s.tile t).core with wait := .running, pc := ((s.tile t).core.pc + 4) % 2 ^ 32 } ∧ s.TilesBut s' t ∧
      s.FieldsBut s' ((.tileInstr, t.val, 0) :: semFields t k) ∧ s.Only s' [.regs, .tiles, .act])) ∧
    (a > s.rd .tileSem t k → Completes (.semWaitSatisfied t) s (fun s' => s' = s)))

/-- O20. OPE.ISSUE and VE.ISSUE (R171): with room (8 instructions wait at the OPE, R96; the VE holds 4, those in execution among them, R188) the
words, and for the VE the x registers that the word names, join the queue at its end with the stochastic-rounding key and tag in force (for the VE,
FLUSH too) and the tag of the branch, and the core goes on; a branch's slot counts its work. Work tagged with a slot that is not open is discarded
and counted, and the core goes on (R158). A full engine makes the core wait; a blocked issue goes on once an entry frees, and stays as it is until then. -/
def Obligations.EngineIssue : Prop :=
  (∀ (t : TileId) (w : CoreWord) (s : State),
    (s.Fetches t .opeIssue w →
      ((s.tile t).ope.queue.length < 8 → ¬ s.tagStale t → Completes (.opeIssue t) s (fun s' => s.Issued s' t ∧
        (s'.tile t).ope = { (s.tile t).ope with queue := (s.tile t).ope.queue ++
          [{ w0 := s.xr t w.rs1, w1 := s.xr t w.rs2, key := s.rd .tileSrKey t (bitsOf (s.xr t w.rs1) 4 2), tag := s.rd .tileSrTag t,
             slot := (s.tile t).core.tagSlot, cold := (s.tile t).ope.queue.isEmpty && (s.tile t).ope.run.isNone }] } ∧ (s'.tile t).ve = (s.tile t).ve)) ∧
      ((s.tile t).ope.queue.length < 8 → s.tagStale t → Completes (.opeIssue t) s (fun s' =>
        s'.rd .specStale t = (s.rd .specStale t + 1) % 2 ^ 64 ∧ s.Retired s' t 0 ((s.tile t).core.pc + 4) [(.specStale, t, 0)] ∧
        s.Only s' [.regs, .tiles, .act])) ∧
      ((s.tile t).ope.queue.length ≥ 8 → Completes (.opeIssue t) s (fun s' =>
        (s'.tile t).core = { (s.tile t).core with wait := .ope (s.xr t w.rs1) (s.xr t w.rs2) } ∧ (s'.tile t).ope = (s.tile t).ope ∧
        s.TilesBut s' t ∧ s.FieldsBut s' [(.spdAccMaster, t, 3)] ∧ s.Only s' [.regs, .tiles, .act]))) ∧
    (s.Fetches t .veIssue w →
      let n := (s.tile t).ve.queue.length + (s.tile t).ve.fins.length
      (n < 4 → ¬ s.tagStale t → Completes (.veIssue t) s (fun s' => s.Issued s' t ∧
        (s'.tile t).ve = { (s.tile t).ve with queue := (s.tile t).ve.queue ++
          [{ word := s.xr t w.rs1, d := s.xr t (bitsOf (s.xr t w.rs1) 43 39), a := s.xr t (bitsOf (s.xr t w.rs1) 38 34),
             b := s.xr t (bitsOf (s.xr t w.rs1) 33 29), c := s.xr t (bitsOf (s.xr t w.rs1) 28 24),
             n := s.xr t (bitsOf (s.xr t w.rs1) 23 19) % 2 ^ 20, flush := s.on .veFmodeFlush t,
             key := s.rd .tileSrKey t (bitsOf (s.xr t w.rs1) 46 44), tag := s.rd .tileSrTag t, slot := (s.tile t).core.tagSlot }] } ∧
        (s'.tile t).ope = (s.tile t).ope)) ∧
      (n < 4 → s.tagStale t → Completes (.veIssue t) s (fun s' =>
        s'.rd .specStale t = (s.rd .specStale t + 1) % 2 ^ 64 ∧ s.Retired s' t 0 ((s.tile t).core.pc + 4) [(.specStale, t, 0)] ∧
        s.Only s' [.regs, .tiles, .act])) ∧
      (n ≥ 4 → Completes (.veIssue t) s (fun s' =>
        (s'.tile t).core = { (s.tile t).core with wait := .ve (s.xr t w.rs1) } ∧ (s'.tile t).ve = (s.tile t).ve ∧
        s.TilesBut s' t ∧ s.FieldsBut s' [(.spdAccMaster, t, 3)] ∧ s.Only s' [.regs, .tiles, .act])))) ∧
  (∀ (t : TileId) (s : State), (s.tile t).active = true →
    (∀ w0 w1, (s.tile t).core.wait = .ope w0 w1 →
      ((s.tile t).ope.queue.length < 8 → ¬ s.tagStale t → Completes (.issueUnblock t) s (fun s' => s.Issued s' t ∧
        (s'.tile t).ope.queue = (s.tile t).ope.queue ++
          [{ w0 := w0, w1 := w1, key := s.rd .tileSrKey t (bitsOf w0 4 2), tag := s.rd .tileSrTag t, slot := (s.tile t).core.tagSlot,
             cold := (s.tile t).ope.queue.isEmpty && (s.tile t).ope.run.isNone }])) ∧
      ((s.tile t).ope.queue.length ≥ 8 → Completes (.issueUnblock t) s (fun s' => s' = s))) ∧
    (∀ w, (s.tile t).core.wait = .ve w →
      let n := (s.tile t).ve.queue.length + (s.tile t).ve.fins.length
      (n < 4 → ¬ s.tagStale t → Completes (.issueUnblock t) s (fun s' => s.Issued s' t ∧
        ∃ e : VeInstr, (s'.tile t).ve.queue = (s.tile t).ve.queue ++ [e] ∧ e.word = w ∧ e.slot = (s.tile t).core.tagSlot)) ∧
      (n ≥ 4 → Completes (.issueUnblock t) s (fun s' => s' = s))))

/-- O21. WAIT and WAITC (R174): when a bit of EV0 or EV1 under the masks is set, or both masks are zero, they return EV0 under the mask at once, and
WAITC clears the sticky bits it returns; otherwise the core sleeps; a sleeping one returns once the condition holds. FENCE.MEM (R168) retires
when no store waits at a bank, and waits otherwise. BREAK (R430) stops its own core while debug access is open, and otherwise counts
DBG_BREAK_IGNORED. -/
def Obligations.EventsFencesAndBreak : Prop :=
  (∀ (clear : Bool) (t : TileId) (w : CoreWord) (s : State), s.Fetches t (if clear then .waitc else .wait) w →
    (((s.ev0 t &&& s.xr t w.rs1) ≠ 0 ∨ (s.evq t &&& s.xr t w.rs2) ≠ 0 ∨ (s.xr t w.rs1 = 0 ∧ s.xr t w.rs2 = 0)) →
      Completes (if clear then .waitc t else .wait t) s (fun s' =>
        s'.xr t w.rd = (if w.rd = 0 then 0 else (s.ev0 t &&& s.xr t w.rs1) % 2 ^ 64) ∧
        (∀ i, i ≠ w.rd → s'.xr t i = s.xr t i) ∧ (s'.tile t).core.pc = (s.tile t).core.pc + 4 ∧
        (∀ b, (s'.tile t).core.ev0.testBit b =
          ((s.tile t).core.ev0.testBit b && !(clear && (s.ev0 t &&& s.xr t w.rs1 &&& stickyMask).testBit b))) ∧
        s.TilesBut s' t ∧ s.FieldsBut s' [(.tileInstr, t, 0), (.spdAccMaster, t, 3)] ∧ s.Only s' [.regs, .tiles, .act])) ∧
    (¬ ((s.ev0 t &&& s.xr t w.rs1) ≠ 0 ∨ (s.evq t &&& s.xr t w.rs2) ≠ 0 ∨ (s.xr t w.rs1 = 0 ∧ s.xr t w.rs2 = 0)) →
      Completes (if clear then .waitc t else .wait t) s (fun s' =>
        (s'.tile t).core = { (s.tile t).core with wait := .event w.rd (s.xr t w.rs1) (s.xr t w.rs2) clear } ∧ s.TilesBut s' t ∧
        s.FieldsBut s' [(.spdAccMaster, t, 3)] ∧ s.Only s' [.regs, .tiles, .act]))) ∧
  (∀ (t : TileId) (rd m0 m1 : Nat) (clear : Bool) (s : State), (s.tile t).core.wait = .event rd m0 m1 clear → (s.tile t).active = true →
    (s.eventReady t m0 m1 = true → Completes (.eventWaitReturn t) s (fun s' =>
      s'.xr t rd = (if rd = 0 then 0 else (s.ev0 t &&& m0) % 2 ^ 64) ∧ (∀ i, i ≠ rd → s'.xr t i = s.xr t i) ∧
      (∀ b, (s'.tile t).core.ev0.testBit b = ((s.tile t).core.ev0.testBit b && !(clear && (s.ev0 t &&& m0 &&& stickyMask).testBit b))) ∧ (s'.tile t).core.wait = .running ∧
      (s'.tile t).core.pc = ((s.tile t).core.pc + 4) % 2 ^ 32 ∧ s.TilesBut s' t ∧
      s.FieldsBut s' [(.tileInstr, t, 0)] ∧ s.Only s' [.regs, .tiles, .act])) ∧
    (s.eventReady t m0 m1 = false → Completes (.eventWaitReturn t) s (fun s' => s' = s))) ∧
  (∀ (t : TileId) (w : CoreWord) (s : State), s.Fetches t .fenceMem w →
    (s.storesPending t = false → Completes (.fenceMem t) s (fun s' =>
      s.Retired s' t 0 ((s.tile t).core.pc + 4) [] ∧ s.Only s' [.regs, .tiles, .act])) ∧
    (s.storesPending t = true → Completes (.fenceMem t) s (fun s' =>
      (s'.tile t).core = { (s.tile t).core with wait := .fence } ∧ s.TilesBut s' t ∧ s.FieldsBut s' [(.spdAccMaster, t, 3)] ∧
      s.Only s' [.regs, .tiles, .act]))) ∧
  (∀ (t : TileId) (s : State), (s.tile t).core.wait = .fence → (s.tile t).active = true → s.storesPending t = false →
    Completes (.fenceMemComplete t) s (fun s' =>
      (s'.tile t).core = { (s.tile t).core with wait := .running, pc := ((s.tile t).core.pc + 4) % 2 ^ 32 } ∧ s.TilesBut s' t ∧
      s.FieldsBut s' [(.tileInstr, t, 0)] ∧ s.Only s' [.regs, .tiles, .act])) ∧
  (∀ (t : TileId) (w : CoreWord) (s : State), s.Fetches t .brk w →
    (s.rd .dbgLockOpen ≠ 0 → Completes (.brk t) s (fun s' =>
      (s'.tile t).core = { (s.tile t).core with mode := .broken, pc := (s.tile t).core.pc + 4 } ∧ (s'.tile t).ope = (s.tile t).ope ∧
      (s'.tile t).ve = (s.tile t).ve ∧ s.TilesBut s' t ∧
      s.FieldsBut s' [(.tileInstr, t, 0), (.spdAccMaster, t, 3)] ∧ s.Only s' [.regs, .tiles, .act])) ∧
    (s.rd .dbgLockOpen = 0 → Completes (.brk t) s (fun s' =>
      s'.rd .dbgBreakIgnored = (s.rd .dbgBreakIgnored + 1) % 2 ^ 64 ∧
      s.Retired s' t 0 ((s.tile t).core.pc + 4) [(.dbgBreakIgnored, 0, 0)] ∧ s.Only s' [.regs, .tiles, .act])))

/-- O22. Speculative branches (R152, R155 to R158). SPEC.OPEN claims the lowest-numbered free slot when no other slot holds the window, stamps it
with the tally and the limit in force, and answers its number; otherwise, with no slot free or the window held, it answers 0xFFFF_FFFF and counts.
SPEC.BEGIN and SPEC.END start and stop tagging. SPEC.WAIT retires once the slots' tagged work is over, and waits until then. SPEC.RESOLVE confirms the open
slots of its first mask and drops those of its second, which prevails, and counts each slot that is stale or past its limit. A branch past its limit is
dropped; a dropped one is freed when its engines have stopped; a confirmed one whose work is over commits: its held effects take place, its steps join TILE_STEP_RATE, and it is
free once no shadow line is left. A write-back stores the line's shadow bytes in SB and no other byte; without an idle slot it is deferred (R214). -/
def Obligations.SpeculativeBranches : Prop :=
  (∀ (t : TileId) (w : CoreWord) (s : State), s.Fetches t .specOpen w →
    (∀ i, i < 4 → (∀ j, j < i → (s.slot t j).mode ≠ .free) → (s.slot t i).mode = .free →
      (∀ j, j < 4 → (s.slot t j).mode ≠ .free → (s.slot t j).win ≠ w.imm8 % 16) → Completes (.specOpen t) s (fun s' =>
        s'.xr t w.rd = (if w.rd = 0 then 0 else i) ∧
        s'.slot t i = { mode := .opened, win := w.imm8 % 16, openedAt := s.tally, limit := s.rd .tileSpecLimitNs t } ∧
        (∀ j, j ≠ i → s'.slot t j = s.slot t j) ∧ s'.rd .specOpen t = (s.rd .specOpen t + 1) % 2 ^ 64 ∧ s.TilesBut s' t ∧
        s.FieldsBut s' [(.specOpen, t, 0), (.tileInstr, t, 0), (.spdAccMaster, t, 3)] ∧ s.Only s' [.regs, .tiles, .act])) ∧
    ((∀ j, j < 4 → (s.slot t j).mode ≠ .free) ∨ (∃ j, j < 4 ∧ (s.slot t j).mode ≠ .free ∧ (s.slot t j).win = w.imm8 % 16) →
      Completes (.specOpen t) s (fun s' =>
        s'.xr t w.rd = (if w.rd = 0 then 0 else 0xFFFFFFFF) ∧ s'.rd .specOpenRefused t = (s.rd .specOpenRefused t + 1) % 2 ^ 64 ∧
        s.Retired s' t w.rd ((s.tile t).core.pc + 4) [(.specOpenRefused, t, 0)] ∧ s.Only s' [.regs, .tiles, .act]))) ∧
  (∀ (t : TileId) (w : CoreWord) (s : State),
    (s.Fetches t .specBegin w → Completes (.specBegin t) s (fun s' =>
      (s'.tile t).core = { (s.tile t).core with pc := (s.tile t).core.pc + 4, tagSlot := some (w.imm8 % 4) } ∧ s.TilesBut s' t ∧
      s.FieldsBut s' [(.tileInstr, t, 0), (.spdAccMaster, t, 3)] ∧ s.Only s' [.regs, .tiles, .act])) ∧
    (s.Fetches t .specEnd w → Completes (.specEnd t) s (fun s' =>
      (s'.tile t).core = { (s.tile t).core with pc := (s.tile t).core.pc + 4, tagSlot := none } ∧ s.TilesBut s' t ∧
      s.FieldsBut s' [(.tileInstr, t, 0), (.spdAccMaster, t, 3)] ∧ s.Only s' [.regs, .tiles, .act])) ∧
    (s.Fetches t .specWait w → (∀ i, i < 4 → w.imm8.testBit i → (s.slot t i).live = 0) → Completes (.specWait t) s (fun s' =>
      s.Retired s' t 0 ((s.tile t).core.pc + 4) [] ∧ s.Only s' [.regs, .tiles, .act])) ∧
    (s.Fetches t .specWait w → (∃ i, i < 4 ∧ w.imm8.testBit i ∧ (s.slot t i).live ≠ 0) → Completes (.specWait t) s (fun s' =>
      (s'.tile t).core = { (s.tile t).core with wait := .spec (w.imm8 % 16) } ∧ s.TilesBut s' t ∧ s.FieldsBut s' [(.spdAccMaster, t, 3)] ∧
      s.Only s' [.regs, .tiles, .act])) ∧
    (s.Fetches t .specResolve w →
      let named (i : Nat) : Bool := w.imm8.testBit i || w.imm8.testBit (4 + i)
      let live (i : Nat) : Bool := (s.slot t i).mode == .opened && !(s.slot t i).confirmed
      let count (p : Nat → Bool) : Nat := ((List.range 4).filter p).length
      Completes (.specResolve t) s (fun s' =>
        (∀ i, i < 4 → named i = false ∨ live i = false → s'.slot t i = s.slot t i) ∧
        (∀ i, i < 4 → named i = true → live i = true → w.imm8.testBit (4 + i) = true ∨ s.specExpired t i = true →
          (s'.slot t i).mode = .cancelling ∧ (s'.slot t i).held = [] ∧ (s'.slot t i).win = (s.slot t i).win ∧
          (∀ e ∈ (s'.tile t).ope.queue, e.slot ≠ some i) ∧ (∀ e ∈ (s'.tile t).ve.queue, e.slot ≠ some i)) ∧
        (∀ i, i < 4 → w.imm8.testBit i = true → w.imm8.testBit (4 + i) = false → live i = true → s.specExpired t i = false →
          s'.slot t i = { s.slot t i with confirmed := true }) ∧
        s'.rd .specConfirm t = (s.rd .specConfirm t +
          count (fun i => w.imm8.testBit i && !w.imm8.testBit (4 + i) && live i && !s.specExpired t i)) % 2 ^ 64 ∧
        s'.rd .specDrop t = (s.rd .specDrop t + count (fun i => w.imm8.testBit (4 + i) && live i && !s.specExpired t i)) % 2 ^ 64 ∧
        s'.rd .specTimeout t = (s.rd .specTimeout t + count (fun i => named i && s.specExpired t i)) % 2 ^ 64 ∧
        s'.rd .specStale t = (s.rd .specStale t + count (fun i => named i && (!live i || s.specExpired t i))) % 2 ^ 64 ∧
        (s'.tile t).core = { (s.tile t).core with pc := (s.tile t).core.pc + 4 } ∧ s.TilesBut s' t ∧
        s.FieldsBut s' [(.specConfirm, t, 0), (.specDrop, t, 0), (.specTimeout, t, 0), (.specStale, t, 0), (.specInstrDropped, t, 0),
          (.specStepsDropped, t, 0), (.specHeldDrop, t, 0), (.tileInstr, t, 0), (.spdAccMaster, t, 3)] ∧
        s.Only s' [.regs, .tiles, .act]))) ∧
  (∀ (t : TileId) (s : State) (mask : Nat), (s.tile t).active = true → (s.tile t).core.wait = .spec mask → s.specQuiet t mask = true →
    Completes (.specWaitReturn t) s (fun s' =>
      (s'.tile t).core = { (s.tile t).core with wait := .running, pc := ((s.tile t).core.pc + 4) % 2 ^ 32 } ∧ s.TilesBut s' t ∧
      s.FieldsBut s' [(.tileInstr, t, 0)] ∧ s.Only s' [.regs, .tiles, .act])) ∧
  (∀ (t : TileId) (i : Fin 4) (s : State), (s.tile t).active = true →
    ((s.slot t i).mode = .opened → (s.slot t i).confirmed = true → (s.slot t i).live = 0 →
      let f := (s.slot t i).held.foldl (fun s h => s.applyHeld t h) s
      Completes (.specCommit t i) s (fun s' =>
        ((∀ e ∈ (s.tile t).shadow, e.1 / 16384 ≠ i) → s'.slot t i = {} ∧ (s'.tile t).core.ev0.testBit 5 = true) ∧
        ((∃ e ∈ (s.tile t).shadow, e.1 / 16384 = i) → s'.slot t i = { s.slot t i with mode := .committing, held := [] }) ∧
        (∀ j, j ≠ i.val → s'.slot t j = s.slot t j) ∧ s.TilesBut s' t ∧
        s'.pwr = (s.stepNoted t (s.slot t i).steps).pwr ∧ f.Only s' [.tiles, .pwr])) ∧
    ((s.slot t i).mode = .opened → (s.slot t i).confirmed = false → (s.slot t i).limit ≠ 0 →
      s.tally ≥ (s.slot t i).openedAt + (s.slot t i).limit → Completes (.specTimeout t i) s (fun s' =>
        (s'.slot t i).mode = .cancelling ∧ (s'.slot t i).held = [] ∧ (∀ j, j ≠ i.val → s'.slot t j = s.slot t j) ∧
        (∀ e ∈ (s'.tile t).ope.queue, e.slot ≠ some i.val) ∧ (∀ e ∈ (s'.tile t).ve.queue, e.slot ≠ some i.val) ∧
        s'.rd .specTimeout t = (s.rd .specTimeout t + 1) % 2 ^ 64 ∧ s.TilesBut s' t ∧
        s.FieldsBut s' [(.specTimeout, t, 0), (.specInstrDropped, t, 0), (.specStepsDropped, t, 0), (.specHeldDrop, t, 0)] ∧
        s.Only s' [.regs, .tiles])) ∧
    ((s.slot t i).mode = .cancelling → (∀ r, (s.tile t).ope.run = some r → r.ins.slot = some i.val ∨ (r.begun = true ∧ r.seg ≠ [])) →
      Completes (.specCancelDone t i) s (fun s' =>
        s'.slot t i = {} ∧ (∀ j, j ≠ i.val → s'.slot t j = s.slot t j) ∧ (s'.tile t).core.ev0.testBit 5 = true ∧
        (∀ r, (s'.tile t).ope.run = some r ↔ (s.tile t).ope.run = some r ∧ r.ins.slot ≠ some i.val) ∧
        (∀ d, d ∈ (s'.tile t).ope.drains ↔ d ∈ (s.tile t).ope.drains ∧ d.ins.slot ≠ some i.val) ∧
        (∀ n, n ∈ (s'.tile t).ope.fins ↔ n ∈ (s.tile t).ope.fins ∧ n.ins.slot ≠ some i.val) ∧
        (∀ n, n ∈ (s'.tile t).ve.fins ↔ n ∈ (s.tile t).ve.fins ∧ n.ins.slot ≠ some i.val) ∧
        s'.rd .specInstrDropped t = (s.rd .specInstrDropped t + (s.slot t i).live) % 2 ^ 64 ∧ s.TilesBut s' t ∧
        s.FieldsBut s' [(.specInstrDropped, t, 0)] ∧ s.Only s' [.regs, .tiles])) ∧
    ((s.slot t i).mode = .committing → (∀ e ∈ (s.tile t).shadow, e.1 / 16384 ≠ i) → ∀ g,
      Completes (.specWritebackLine t ⟨i, g⟩) s (fun s' =>
        s'.slot t i = {} ∧ (∀ j, j ≠ i.val → s'.slot t j = s.slot t j) ∧ (s'.tile t).core.ev0.testBit 5 = true ∧ s.TilesBut s' t ∧
        s.Only s' [.tiles])) ∧
    (∀ e0, (s.slot t i).mode = .committing → s.clearing t .sb = false → ssorted (s.tile t).shadow = true →
      (s.tile t).shadow.find? (fun e => e.1 / 16384 == i.val) = some e0 →
      let place (e : Nat × Nat) : Nat := spdAddr t .sb ((s.slot t i).win * 0x4000 + e.1 % 16384)
      (Completes (.specWritebackLine t ⟨i, false⟩) s (fun s' =>
        s'.rd .spdDefer t 4 = (if (s.tile t).held.contains 8 then s.rd .spdDefer t 4 else (s.rd .spdDefer t 4 + 1) % 2 ^ 64) ∧
        (s'.tile t).shadow = (s.tile t).shadow ∧ (s'.tile t).slots = (s.tile t).slots ∧ s.TilesBut s' t ∧
        s.FieldsBut s' [(.spdDefer, t, 4)] ∧ s.Only s' [.regs, .tiles])) ∧
      ((∀ e ∈ (s.tile t).shadow, e.1 / 64 = e0.1 / 64 → s.mark (place e / 8 * 8) = 0) → Completes (.specWritebackLine t ⟨i, true⟩) s (fun s' =>
        (∀ e ∈ (s.tile t).shadow, e.1 / 64 = e0.1 / 64 → s'.byte (place e) = BitVec.ofNat 8 (e.2 - 1)) ∧
        (∀ k, (∀ e ∈ (s.tile t).shadow, e.1 / 64 = e0.1 / 64 → k ≠ place e) → s'.byte k = s.byte k) ∧
        (s'.tile t).shadow = (s.tile t).shadow.filter (fun e => e.1 / 64 != e0.1 / 64) ∧
        ((∀ e ∈ (s.tile t).shadow, e.1 / 16384 = i → e.1 / 64 = e0.1 / 64) → s'.slot t i = {}) ∧
        ((∃ e ∈ (s.tile t).shadow, e.1 / 16384 = i ∧ e.1 / 64 ≠ e0.1 / 64) → s'.slot t i = s.slot t i) ∧
        s'.rd .specCommitLines t = (s.rd .specCommitLines t + 1) % 2 ^ 64 ∧ s.TilesBut s' t ∧
        s.FieldsBut s' [(.specCommitLines, t, 0), (.spdAccOther, t, 4)] ∧ s.Only s' [.regs, .tiles, .act, .mem, .ecc]))))

/-! ### The engines -/

/-- O23. An OPE instruction leaves the queue when no other is being folded. An illegal one (R99) is not executed: where no earlier one is yet to complete,
OPE_ILLEGAL and OPE_DONE count, the completion is signalled, and the first reason and words are recorded; otherwise it waits to do so behind them
(R96). A legal one runs, or is over at once and waits to complete. A dense one whose output tile no drain holds begins its first block (R103, R108): with
ACC = 0 every accumulator of the block is zero, or its column's bias word, and the array's first steps are the positions of panel 0, pass by pass.
(Untagged instructions; R155 holds the counts of tagged ones.) -/
def Obligations.OpeInstructionsStart : Prop :=
  ∀ (mma1 : Bool) (t : TileId) (s : State) (i : OpeInstr) (rest : List OpeInstr), (s.tile t).active = true →
    (s.tile t).ope.run = none → (s.tile t).ope.queue = i :: rest → i.slot = none → (bitsOf i.w0 63 58 == 2) = mma1 →
    (∀ reason, s.opeIllegal t i = some reason → (s.tile t).ope.fins = [] →
      Completes (if mma1 then .opeMma1 t else .opeMma t) s (fun s' =>
        (s'.tile t).ope = { (s.tile t).ope with queue := rest } ∧ (s'.tile t).core.ev0.testBit 0 = true ∧
        s'.rd .opeIllegal t = (s.rd .opeIllegal t + 1) % 2 ^ 64 ∧ s'.rd .opeDone t = (s.rd .opeDone t + 1) % 2 ^ 64 ∧
        (s.rd .opeErrInfoValid t = 0 → s'.rd .opeErrInfoValid t = 1 ∧ s'.rd .opeErrInfoReason t = reason % 256 ∧
          s'.rd .opeErrWord0 t = i.w0 % 2 ^ 64 ∧ s'.rd .opeErrWord1 t = i.w1 % 2 ^ 64) ∧
        s.TilesBut s' t ∧ (∀ k, s'.byte k = s.byte k))) ∧
    (∀ reason, s.opeIllegal t i = some reason → (s.tile t).ope.fins ≠ [] →
      Completes (if mma1 then .opeMma1 t else .opeMma t) s (fun s' =>
        s'.tile t = { s.tile t with ope := { (s.tile t).ope with queue := rest, fins := (s.tile t).ope.fins ++
          [{ ins := i, steps := 0, drains := 0, reason := reason }] } } ∧ s.TilesBut s' t ∧ s.Only s' [.tiles])) ∧
    (s.opeIllegal t i = none → Completes (if mma1 then .opeMma1 t else .opeMma t) s (fun s' =>
      (s'.tile t).ope.queue = rest ∧
      ((∃ r, (s'.tile t).ope.run = some r ∧ r.ins = i) ∨ ((s'.tile t).ope.run = none ∧ ∃ n ∈ (s'.tile t).ope.fins, n.ins = i)) ∧
      s.TilesBut s' t)) ∧
    (s.opeIllegal t i = none → (opeFields i).sparse = 0 → 0 < (opeFields i).k → (s.tile t).ope.drains = [] →
      ((opeFields i).biasEn = true → s.clearing t .cb = false ∧ ∀ k, s.mark k = 0) →
      Completes (if mma1 then .opeMma1 t else .opeMma t) s (fun s' =>
        let f := opeFields i
        (∃ r, (s'.tile t).ope.run = some r ∧ r.ins = i ∧ r.begun = true ∧ r.bm = 0 ∧ r.bn = 0 ∧ r.k0 = 0 ∧ r.steps = 0 ∧
          r.seg = (List.range f.np).flatMap (fun p =>
            (((List.range f.psteps).map (fun q => 0 + q * f.kd)).filter (fun k => decide (k < f.k))).map (fun k => (k, p)))) ∧
        (s'.tile t).ope.queue = rest ∧
        (f.acc = false → ∀ a b, a < min 128 f.m → b < min 128 f.n → s'.accGet t (f.tsel % 2) a b =
          if f.biasEn then leNat (s.bytes (spdAddr t .cb (f.bias + 4 * b)) 4) else 0) ∧
        (f.acc = true → (s'.tile t).ope.acc = (s.tile t).ope.acc) ∧
        s'.tile t = { s.tile t with ope := (s'.tile t).ope, held := (s'.tile t).held } ∧ s.TilesBut s' t ∧
        s.FieldsBut s' [(.spdAccOther, t, 3)] ∧ s.Only s' [.regs, .tiles, .act]))

/-- O24. The array, its drains and its completions. A step of a panel, staged already or staged now from good banks, updates every active cell with its
group's exact sum and takes one step off the segment (R93, R122 to R124), in a step period that the issue governor leaves to it; in one that it holds the
array does nothing, and OPE_GOV_HOLD_NS counts the tally ns once (R119, R396; the periods counted as the model chooses, assumption log 56); a complete block starts to drain when no other drains (R110); a drained
piece of a row is written at its place in the output bank and nowhere else, but that the last piece of a row also reaches the padding up to its pitch
(R100; model's choice, log 19), and the drain moves on, along the row and then to the next (R112; the order is the model's choice, log 70); without idle
slots each of its 64-byte lines is deferred and counted (R112, R212, R214); with DRAIN = 2 the piece is offered to the seam engine as one item (R112). An instruction whose
steps and drains are over completes: OPE_INSTR and OPE_DONE count, M N K MACs count under FMT_A (R104), the steps that a sparse one skipped in
OPE_SKIP_STEPS, and the event unit is signalled (R113); an aborted one counts OPE_ABORT and leaves its record (R116). (Untagged instructions.) -/
def Obligations.OpeStepsDrainsAndCompletes : Prop :=
  (∀ (t : TileId) (s : State) (r : OpeRun) (k p : Nat) (rest : List (Nat × Nat)), (s.tile t).active = true →
    (s.tile t).ope.run = some r → r.begun = true → r.ins.slot = none → r.seg = (k, p) :: rest →
    (r.staged = true ∨ ((opeFields r.ins).sparse = 0 ∧ s.clearing t .ma = false ∧ s.clearing t .mb = false ∧ ∀ k, s.mark k = 0)) →
    (s.issueEff (tilePb t) = 64 → s.govLets t = true) ∧
    (s.govLets t = false → Completes (.opeStep t) s (fun s' =>
      s'.tile t = { s.tile t with period := ((s.tile t).period + 1) % 64, govAt := s.tally + 1 } ∧ s.TilesBut s' t ∧
      s'.rd .opeGovHoldNs t = (if (s.tile t).govAt = s.tally + 1 then s.rd .opeGovHoldNs t else (s.rd .opeGovHoldNs t + 1) % 2 ^ 64) ∧
      s.FieldsBut s' [(.opeGovHoldNs, t, 0)] ∧ s.Only s' [.regs, .tiles])) ∧
    (s.govLets t = true → rest ≠ [] → r.sm + 64 ≤ 128 → r.sn + 64 ≤ 128 → Completes (.opeStep t) s (fun s' =>
      let f := opeFields r.ins
      (∃ l, (s'.tile t).ope.run = some { r with seg := rest, steps := r.steps + 1, staged := true, lines := l }) ∧
      (∀ i j, i < (f.subDims r.bm r.bn r.sm r.sn).1 → j < (f.subDims r.bm r.bn r.sm r.sn).2 →
        let terms := s.opeTerms t f r.ins (r.bm + (r.sm + i)) (r.bn + (r.sn + j)) k p
        let old := s.accGet t r.blk (r.sm + i) (r.sn + j)
        s'.accGet t r.blk (r.sm + i) (r.sn + j) =
          (if terms = [] then old
           else if f.accInt then (int32Acc f.sat old (terms.foldl (fun a x => a + x.1.toInt) 0)).1
           else (fp32Acc f.sat old (Num.sum (terms.map (·.1))).1 (Num.sum (terms.map (·.1))).2).1)) ∧
      s'.rd .tileStepCount t = (s.rd .tileStepCount t + 1) % 2 ^ 64 ∧
      (s'.tile t).ope.queue = (s.tile t).ope.queue ∧ (s'.tile t).ope.drains = (s.tile t).ope.drains ∧ s.TilesBut s' t ∧
      s.FieldsBut s' [(.tileStepCount, t, 0), (.tileProgress, t, 0), (.tileProgressAt, t, 0), (.opeFlagsFlushed, t, 0), (.opeFlagsInv, t, 0),
        (.opeFlagsInx, t, 0), (.opeFlagsUnf, t, 0), (.opeFlagsOvf, t, 0), (.spdAccMaster, t, 0), (.spdAccMaster, t, 1)] ∧
      s.Only s' [.regs, .tiles, .act, .pwr])) ∧
    (s.govLets t = true → Completes (.opeStep t) s (fun s' => s'.rd .tileStepCount t = (s.rd .tileStepCount t + 1) % 2 ^ 64 ∧
      (s'.tile t).ope.queue = (s.tile t).ope.queue ∧ s.TilesBut s' t))) ∧
  (∀ (t : TileId) (s : State) (d : OpeDrain) (rest : List OpeDrain), (s.tile t).active = true → (s.tile t).ope.drains = d :: rest →
    d.started = false → d.ins.slot = none →
    Completes (.opeDrainBlock t) s (fun s' =>
      s'.tile t = { s.tile t with ope := { (s.tile t).ope with drains := { d with started := true } :: rest } } ∧ s.TilesBut s' t ∧
      s.Only s' [.tiles])) ∧
  (∀ (t : TileId) (s : State) (d : OpeDrain) (rest : List OpeDrain) (b : BankId) (off : Nat), (s.tile t).active = true →
    (s.tile t).ope.drains = d :: rest → d.started = true → d.ins.slot = none → d.todo = [] → (s.tile t).items = [] →
    ((opeFields d.ins).drain = 1 → (opeFields d.ins).o.isMx = false → d.bn + d.nb ≤ (opeFields d.ins).n →
      bankAt (0x400000 + (opeFields d.ins).out * 64) = some b →
      bankBase b + off = 0x400000 + (opeFields d.ins).out * 64 + (d.bm + d.row) * rowPitch (opeFields d.ins).o (opeFields d.ins).n +
        (elemBitPos (opeFields d.ins).o (d.bn + d.col)).1 / 8 → off + 256 ≤ bankSize b → s.clearing t b = false →
      ((∀ i, (s.slot t i).mode ≠ .committing) → (∀ k, s.mark k = 0) → Completes (.opeDrainRowWrite ⟨t, []⟩) s (fun s' =>
        let f := opeFields d.ins
        let n := min 64 (d.nb - d.col)
        let bits := (elemBitPos f.o n).1
        let bytes := packElems f.o ((s.drainRow t f d d.row d.col n).1.map (·.bits))
        (∀ i, i < bits / 8 → s'.byte (spdAddr t b off + i) = bytes.getD i 0#8) ∧
        (s'.byte (spdAddr t b off + bits / 8)).toNat % 2 ^ (bits % 8) = (bytes.getD (bits / 8) 0#8).toNat % 2 ^ (bits % 8) ∧
        s.BytesBut s' (spdAddr t b off) (if d.bn + d.col + n < f.n then bytes.length
          else roundUp (rowElemBytes f.o f.n) 64 - (elemBitPos f.o (d.bn + d.col)).1 / 8) ∧
        (d.col + 64 < d.nb → (s'.tile t).ope.drains = { d with col := d.col + 64 } :: rest) ∧
        (d.col + 64 ≥ d.nb → d.row + 1 < d.mb → (s'.tile t).ope.drains = { d with col := 0, row := d.row + 1 } :: rest) ∧
        (d.col + 64 ≥ d.nb → d.row + 1 ≥ d.mb → ∃ more, (s'.tile t).ope.drains = rest ++ more) ∧
        (d.col + 64 < d.nb ∨ d.row + 1 < d.mb → (s'.tile t).ope.acc = (s.tile t).ope.acc) ∧ s.TilesBut s' t ∧
        s.Only s' [.regs, .tiles, .act, .mem, .ecc, .free])) ∧
      (∀ granted : List Bool, granted.length ≥ 8 → (∀ g ∈ granted, g = false) → Completes (.opeDrainRowWrite ⟨t, granted⟩) s (fun s' =>
        let f := opeFields d.ins
        let n := min 64 (d.nb - d.col)
        let lines := linesOf off (if d.bn + d.col + n < f.n
          then (packElems f.o ((s.drainRow t f d d.row d.col n).1.map (·.bits))).length
          else roundUp (rowElemBytes f.o f.n) 64 - (elemBitPos f.o (d.bn + d.col)).1 / 8)
        (∃ l, (s'.tile t).ope = { (s.tile t).ope with drains := { d with todo := l } :: rest } ∧ l.length = lines ∧ ∀ e ∈ l, e.2 = true) ∧
        s'.rd .spdDefer t (bankIdx b) = (s.rd .spdDefer t (bankIdx b) + lines) % 2 ^ 64 ∧
        s'.rd .opeDrainRetry t = (s.rd .opeDrainRetry t + lines) % 2 ^ 64 ∧ s.TilesBut s' t ∧
        s.FieldsBut s' [(.spdDefer, t, bankIdx b), (.opeDrainRetry, t, 0)] ∧ s.Only s' [.regs, .tiles, .free]))) ∧
    ((opeFields d.ins).drain = 2 → ∀ g, Completes (.opeDrainRowWrite ⟨t, g⟩) s (fun s' =>
      let f := opeFields d.ins
      (∃ e : SeamItem, (s'.tile t).items = [e] ∧ e.queue = f.out % 32 ∧ e.row = d.bm + d.row ∧ e.col = d.bn + d.col ∧ e.fmt = f.o.code ∧
        e.vals = (s.drainRow t f d d.row d.col (min 64 (d.nb - d.col))).1.map (·.bits)) ∧
      (∀ k, s'.byte k = s.byte k) ∧ s.TilesBut s' t))) ∧
  (∀ (t : TileId) (s : State) (n : OpeFin) (rest : List OpeFin), (s.tile t).active = true → (s.tile t).ope.fins = n :: rest →
    n.drains = 0 → n.ins.slot = none →
    (n.reason = 0 → (opeFields n.ins).sparse ≠ 6 → Completes (.opeCompletion t) s (fun s' =>
      let f := opeFields n.ins
      (s'.tile t).ope = { (s.tile t).ope with fins := rest } ∧ (s'.tile t).core.ev0.testBit 0 = true ∧
      s'.rd .opeInstr t = (s.rd .opeInstr t + 1) % 2 ^ 64 ∧ s'.rd .opeDone t = (s.rd .opeDone t + 1) % 2 ^ 64 ∧
      (0 < f.m * f.n * f.k → s'.rd .opeMacs t f.a.code = (s.rd .opeMacs t f.a.code + f.m * f.n * f.k) % 2 ^ 64) ∧
      (f.sparse = 3 ∨ f.sparse = 4 ∨ f.sparse = 5 → n.steps < f.denseSteps →
        s'.rd .opeSkipSteps t = (s.rd .opeSkipSteps t + (f.denseSteps - n.steps)) % 2 ^ 64) ∧
      s.TilesBut s' t ∧
      s.FieldsBut s' [(.opeInstr, t, 0), (.opeK0, t, 0), (.opeDone, t, 0), (.opeMacs, t, f.a.code), (.opeSkipSteps, t, 0)] ∧
      s.Only s' [.regs, .tiles])) ∧
    (n.reason = 0x10 → Completes (.opeCompletion t) s (fun s' =>
      (s'.tile t).ope = { (s.tile t).ope with fins := rest } ∧ (s'.tile t).core.ev0.testBit 0 = true ∧
      s'.rd .opeInstr t = (s.rd .opeInstr t + 1) % 2 ^ 64 ∧ s'.rd .opeDone t = (s.rd .opeDone t + 1) % 2 ^ 64 ∧
      s'.rd .opeAbort t = (s.rd .opeAbort t + 1) % 2 ^ 64 ∧
      (s.rd .opeErrInfoValid t = 0 → s'.rd .opeErrInfoValid t = 1 ∧ s'.rd .opeErrInfoReason t = 0x10 ∧
        s'.rd .opeErrWord0 t = n.ins.w0 % 2 ^ 64 ∧ s'.rd .opeErrWord1 t = n.ins.w1 % 2 ^ 64) ∧
      s.TilesBut s' t ∧ (∀ k, s'.byte k = s.byte k))))

/-- O25. Every operation of the vector engine (R185, R187 to R189), when it heads the queue: an illegal instruction is not executed and waits to complete
with the lowest reason that applies; a legal one whose banks are free and whose operands are good writes its results into its destination, changes no
other byte of memory, and waits to complete with its passes, P = ⌈n / L⌉, in issue order. (Untagged instructions; no branch committing.) -/
def Obligations.VectorOperationsRun : Prop :=
  ∀ (op : VeOp) (c : TileId → Instr), (op, c) ∈ veRows →
  ∀ (t : TileId) (s : State) (i : VeInstr) (rest : List VeInstr), (s.tile t).active = true → (s.tile t).ve.queue = i :: rest → i.slot = none →
    (veFields i.word).op = some op →
    (∀ reason, s.veIllegal t i = some reason → Completes (c t) s (fun s' =>
      s'.tile t = { s.tile t with ve := { (s.tile t).ve with queue := rest, fins := (s.tile t).ve.fins ++ [{ ins := i, reason := reason }] } } ∧
      s.TilesBut s' t ∧ s.Only s' [.tiles])) ∧
    (s.veIllegal t i = none → (∀ b, s.clearing t b = false) → (∀ b w, s.mark (spdAddr t b (8 * w)) = 0) →
      (∀ k, (s.slot t k).mode ≠ .committing) → Completes (c t) s (fun s' =>
        let f := veFields i.word
        (∃ e : VeFin, (s'.tile t).ve = { (s.tile t).ve with queue := rest, fins := (s.tile t).ve.fins ++ [e] } ∧ e.ins = i ∧ e.reason = 0 ∧
          e.passes = ceilDiv i.n f.lanes) ∧
        (∀ part ∈ s.veParts t i f (s.veCompute t i), ∀ j, j < part.2.length → s'.byte (t * 0x800000 + part.1 + j) = part.2.getD j 0#8) ∧
        s.BytesBut s' (t * 0x800000 + i.d) (f.dest i).2 ∧
        s'.tile t = { s.tile t with ve := (s'.tile t).ve, held := (s'.tile t).held } ∧ s.TilesBut s' t ∧
        s.FieldsBut s' [(.tileProgress, t, 0), (.tileProgressAt, t, 0), (.spdAccMaster, t, 2), (.spdAccOther, t, 0), (.spdAccOther, t, 1),
          (.spdAccOther, t, 2), (.spdAccOther, t, 3), (.spdAccOther, t, 4)] ∧
        s.Only s' [.regs, .tiles, .act, .mem, .ecc]))

/-- O26. What some operations of the vector engine write, element by element, on 32-bit formats (R185, R186): ABS and NEG of a finite FP32 number clear and flip the
sign bit; INT32 ADD wraps without SAT; SEL picks A or B by the mask bit; PERM gathers by index and writes zero beyond n; TRANSP transposes a
64 × 64 block. (Untagged instructions without broadcast or FLUSH, under the conditions of the statement before.) -/
def Obligations.VectorResults : Prop :=
  ∀ (op : VeOp) (c : TileId → Instr), (op, c) ∈ veRows →
  ∀ (t : TileId) (s : State) (i : VeInstr) (rest : List VeInstr) (j : Nat), (s.tile t).active = true → (s.tile t).ve.queue = i :: rest →
    i.slot = none → i.flush = false → (veFields i.word).op = some op → (veFields i.word).bA = false → (veFields i.word).bB = false →
    (veFields i.word).bC = false → s.veIllegal t i = none → (∀ b, s.clearing t b = false) → (∀ b w, s.mark (spdAddr t b (8 * w)) = 0) →
    (∀ k, (s.slot t k).mode ≠ .committing) → j < i.n → (veFields i.word).d = (veFields i.word).s →
    let f := veFields i.word
    let word (s : State) (base k : Nat) : Nat := leNat (s.bytes (t * 0x800000 + base + 4 * k) 4)
    ((op = .abs → f.s = .fp32 → (unpack .fp32 (word s i.a j)).isSpecial = false →
        Completes (c t) s (fun s' => word s' i.d j = word s i.a j % 2 ^ 31)) ∧
     (op = .neg → f.s = .fp32 → (unpack .fp32 (word s i.a j)).isSpecial = false →
        Completes (c t) s (fun s' => word s' i.d j = (word s i.a j + 2 ^ 31) % 2 ^ 32)) ∧
     (op = .add → f.s = .int32 → f.sat = false →
        Completes (c t) s (fun s' => word s' i.d j = (word s i.a j + word s i.b j) % 2 ^ 32)) ∧
     (op = .sel → f.s = .fp32 ∨ f.s = .int32 →
        Completes (c t) s (fun s' => word s' i.d j =
          if (s.byte (t * 0x800000 + i.c + j / 8)).toNat.testBit (j % 8) then word s i.a j else word s i.b j)) ∧
     (op = .perm → f.s = .fp32 ∨ f.s = .int32 →
        Completes (c t) s (fun s' =>
          let k := leNat (s.bytes (t * 0x800000 + i.c + 2 * j) 2)
          word s' i.d j = if k ≥ i.n then 0 else word s i.a k)) ∧
     (op = .transp → f.s = .fp32 ∨ f.s = .int32 →
        Completes (c t) s (fun s' => word s' i.d j = word s i.a (j / 4096 * 4096 + (j % 64) * 64 + j % 4096 / 64))))

/-- O27. A vector instruction whose passes are over completes in issue order (R188, R189): VE_DONE, VE_INSTR, VE_PASSES, VE_ELEMS and VE_PERM_OOR count, its
flags and the numeric-health counts of its results are entered, and the event unit is signalled; one that an operand's error ended counts VE_ABORT too
and leaves its record; an illegal one counts VE_ILLEGAL and VE_DONE, and its reason and word are recorded while VALID is 0. An instruction whose OPCODE is
not defined completes so from the head of the queue, with reason 0x01. -/
def Obligations.VectorCompletion : Prop :=
  (∀ (t : TileId) (s : State) (n : VeFin) (rest : List VeFin), (s.tile t).active = true → (s.tile t).ve.fins = n :: rest → n.ins.slot = none →
    (n.reason = 0 ∨ n.reason = 0x10 → (∀ e ∈ n.health, e.1 / 4 < 4096) → Completes (.veCompletion t) s (fun s' =>
      let f := veFields n.ins.word
      let flags : List Field := [.veFlagsOvf, .veFlagsUnf, .veFlagsInx, .veFlagsInv, .veFlagsFlushed]
      let health (key : Nat) : Nat := ((n.health.filter (fun e => e.1 == key)).map (·.2)).foldl (· + ·) 0
      (s'.tile t).ve = { (s.tile t).ve with fins := rest } ∧ (s'.tile t).core.ev0.testBit 1 = true ∧
      s'.rd .veDone t = (s.rd .veDone t + 1) % 2 ^ 64 ∧ s'.rd .veInstr t = (s.rd .veInstr t + 1) % 2 ^ 64 ∧
      (0 < n.passes → s'.rd .vePasses t = (s.rd .vePasses t + n.passes) % 2 ^ 64) ∧
      (0 < min n.ins.n (n.passes * f.lanes) →
        s'.rd .veElems t f.s.code = (s.rd .veElems t f.s.code + min n.ins.n (n.passes * f.lanes)) % 2 ^ 64) ∧
      (0 < n.permOor → s'.rd .vePermOor t = (s.rd .vePermOor t + n.permOor) % 2 ^ 64) ∧
      (∀ k, k < 5 → n.flags.testBit k = true → s'.rd (flags.getD k .veFlagsOvf) t = 1) ∧
      (∀ key, 0 < health key → s'.rd (healthField (key % 4)) t (key / 4) =
        (s.rd (healthField (key % 4)) t (key / 4) + health key) % 2 ^ 64) ∧
      (n.reason = 0x10 → s'.rd .veAbort t = (s.rd .veAbort t + 1) % 2 ^ 64 ∧
        (s.rd .veErrInfoValid t = 0 → s'.rd .veErrInfoValid t = 1 ∧ s'.rd .veErrInfoReason t = 0x10 ∧
          s'.rd .veErrWord t = n.ins.word % 2 ^ 64)) ∧
      s.TilesBut s' t ∧ (∀ k, s'.byte k = s.byte k) ∧
      (n.reason = 0 → s.Only s' [.regs, .tiles] ∧ ∀ g i j, g ∉ [Field.veInstr, Field.vePasses, Field.veElems, Field.vePermOor, Field.veDone, Field.tileNhTotal, Field.tileNhOvf,
        Field.tileNhVanish, Field.tileNhNan] ++ flags → s'.rd g i j = s.rd g i j))) ∧
    (n.reason ≠ 0 → n.reason ≠ 0x10 → Completes (.veCompletion t) s (fun s' =>
      (s'.tile t).ve = { (s.tile t).ve with fins := rest } ∧ (s'.tile t).core.ev0.testBit 1 = true ∧
      s'.rd .veIllegal t = (s.rd .veIllegal t + 1) % 2 ^ 64 ∧ s'.rd .veDone t = (s.rd .veDone t + 1) % 2 ^ 64 ∧
      (s.rd .veErrInfoValid t = 0 → s'.rd .veErrInfoValid t = 1 ∧ s'.rd .veErrInfoReason t = n.reason % 256 ∧
        s'.rd .veErrWord t = n.ins.word % 2 ^ 64) ∧ s.TilesBut s' t ∧ (∀ k, s'.byte k = s.byte k)))) ∧
  (∀ (t : TileId) (s : State) (i : VeInstr) (rest : List VeInstr), (s.tile t).active = true → (s.tile t).ve.fins = [] →
    (s.tile t).ve.queue = i :: rest → i.slot = none → (veFields i.word).op = none → Completes (.veCompletion t) s (fun s' =>
      (s'.tile t).ve = { (s.tile t).ve with queue := rest } ∧ (s'.tile t).core.ev0.testBit 1 = true ∧
      s'.rd .veIllegal t = (s.rd .veIllegal t + 1) % 2 ^ 64 ∧ s'.rd .veDone t = (s.rd .veDone t + 1) % 2 ^ 64 ∧
      (s.rd .veErrInfoValid t = 0 → s'.rd .veErrInfoValid t = 1 ∧ s'.rd .veErrInfoReason t = 1 ∧ s'.rd .veErrWord t = i.word % 2 ^ 64) ∧
      s.TilesBut s' t ∧ (∀ k, s'.byte k = s.byte k)))

/-! ### Scratchpad banks and memory controllers -/

/-- O28. Accesses of a bank (R42, R212 to R218, R221, R223). A gated tile's bank fails every request: it counts, and completes with error status; a clearing
bank holds requests, in order, and counts each; at the bank of a stopped tile, or of one whose replica is not valid, they wait. A lone request of an idle, good bank is granted: a read answers its bytes under its tag, a write changes exactly its bytes. A period
grants at most the bank's slots and the rest wait. Of two writes of one period to the same bytes, the one of the higher priority stands. A word that
is uncorrectable is answered as poison, counted, and recorded while VALID is 0. A headframe core's access that its MPU blocks does not reach the bank: a read
answers zero, a write changes nothing (R348). (Untagged requests where their own effect is stated.) -/
def Obligations.BankAccesses : Prop :=
  ∀ (t : TileId) (b : BankId) (s : State),
    let may (r : BankReq) : Prop := bankReqOk b r = true ∧ s.mpuStops r.who (spdAddr t b r.off) r.len r.write = false
    (∀ (r : BankReq) (c : CoreId) (u : Upset), bankReqOk b r = true → r.who = .hf c → s.mpuMay c (spdAddr t b r.off) r.len (b2n r.write) = false →
      s.coreComps c = [] → (s.bank t b).waiting = [] → Completes (.bankAccess t b [r] u) s (fun s' =>
        (s'.tile t).reads = (s.tile t).reads ++ (if r.write then [] else [⟨r.tag, 0, false, false⟩]) ∧
        (∀ k, s'.byte k = s.byte k) ∧ (∀ k, s'.mark k = s.mark k) ∧ s.FieldsBut s' eventFields)) ∧
    (∀ reqs u, reqs ≠ [] → (∀ r ∈ reqs, may r) → (s.tile t).gated = true → Completes (.bankAccess t b reqs u) s (fun s' =>
      s'.rd .spdGatedAcc = (s.rd .spdGatedAcc + reqs.length) % 2 ^ 64 ∧
      (s'.tile t).reads = (s.tile t).reads ++ reqs.map (fun r => ⟨r.tag, 0, false, true⟩) ∧
      ((∀ r ∈ reqs, ∀ n, r.who ≠ .hf n) → s.Only s' [.regs, .tiles, .ras, .mod]))) ∧
    (∀ reqs u, (∀ r ∈ reqs, may r) → (s.tile t).gated = false → s.clearing t b = false →
      (s.tile t).stopped = true ∨ (s.tile t).tallyValid = false → Completes (.bankAccess t b reqs u) s (fun s' =>
        s'.bank t b = { s.bank t b with waiting := (s.bank t b).waiting ++ reqs.map (fun r => { req := r }) } ∧
        (∀ c, c ≠ b → s'.bank t c = s.bank t c) ∧ s'.tile t = { s.tile t with banks := (s'.tile t).banks } ∧ s.TilesBut s' t ∧
        s.Only s' [.tiles])) ∧
    (∀ reqs u, reqs ≠ [] → (∀ r ∈ reqs, may r ∧ r.slot = none) → (s.tile t).gated = false → s.clearing t b = true →
      Completes (.bankAccess t b reqs u) s (fun s' =>
        s'.bank t b = { s.bank t b with waiting := (s.bank t b).waiting ++ reqs.map (fun r => { req := r }) } ∧
        s'.rd .spdClearHold t (bankIdx b) = (s.rd .spdClearHold t (bankIdx b) + reqs.length) % 2 ^ 64 ∧
        (∀ c, c ≠ b → s'.bank t c = s.bank t c) ∧ s'.tile t = { s.tile t with banks := (s'.tile t).banks } ∧ s.TilesBut s' t ∧
        s.FieldsBut s' [(.spdClearHold, t, bankIdx b)] ∧ s.Only s' [.regs, .tiles])) ∧
    (∀ r : BankReq, may r → r.slot = none → s.bankOpen t b = true → (s.bank t b).waiting = [] →
      (∀ w, s.mark (spdAddr t b (8 * w)) = 0) → (∀ i, (s.slot t i).mode ≠ .committing) →
      (r.write = false → Completes (.bankAccess t b [r] .none) s (fun s' =>
        s'.tile t = { s.tile t with banks := (s'.tile t).banks, reads := (s.tile t).reads ++
          [⟨r.tag, leNat ((List.range r.len).map (fun i => s.byte (spdAddr t b r.off + i))), false, false⟩] } ∧
        (∀ c, s'.bank t c = s.bank t c) ∧ s.TilesBut s' t ∧
        s.FieldsBut s' [(if r.cls = 0 then .spdAccMaster else .spdAccOther, t, bankIdx b)] ∧ s.Only s' [.regs, .tiles, .act])) ∧
      (r.write = true → r.poison = false → Completes (.bankAccess t b [r] .none) s (fun s' =>
        (∀ i, i < r.len → s'.byte (spdAddr t b r.off + i) = r.data.getD i 0#8) ∧ s.BytesBut s' (spdAddr t b r.off) r.len ∧
        (∀ k, s'.mark k = s.mark k) ∧ (∀ c, s'.bank t c = s.bank t c) ∧ s'.tile t = { s.tile t with banks := (s'.tile t).banks } ∧
        s.TilesBut s' t ∧ s.FieldsBut s' [(if r.cls = 0 then .spdAccMaster else .spdAccOther, t, bankIdx b)] ∧
        s.Only s' [.regs, .tiles, .act, .mem, .ecc])) ∧
      (r.write = true → r.poison = false → ∀ q : BankReq, may q → q.write = true → q.poison = false → q.off = r.off →
        q.len = r.len → r.cls.val < q.cls.val → Completes (.bankAccess t b [q, r] .none) s (fun s' =>
          (∀ i, i < r.len → s'.byte (spdAddr t b r.off + i) = r.data.getD i 0#8) ∧ s.BytesBut s' (spdAddr t b r.off) r.len)) ∧
      (r.write = false → (∀ n, r.who ≠ .hf n) → r.who ≠ .dbg → Completes (.bankAccess t b [r] .uncorrectable) s (fun s' =>
        (s'.tile t).reads = (s.tile t).reads ++
          [⟨r.tag, leNat ((List.range r.len).map (fun i => s.byte (spdAddr t b r.off + i))), true, false⟩] ∧
        s'.rd .spdUe t (bankIdx b) = (s.rd .spdUe t (bankIdx b) + 1) % 2 ^ 64 ∧
        (s.rd .spdErrInfoValid t = 0 → s'.rd .spdErrInfoValid t = 1 ∧ s'.rd .spdErrInfoUe t = 1 ∧
          s'.rd .spdErrInfoBank t = bankIdx b ∧ s'.rd .spdErrInfoWord t = r.off / 8) ∧
        (∀ k, s'.byte k = s.byte k) ∧ s.TilesBut s' t ∧ s.Only s' [.regs, .tiles, .act, .ecc, .ras, .ic, .adit]))) ∧
    (∀ reqs : List BankReq, (∀ r ∈ reqs, may r) → s.bankOpen t b = true → Completes (.bankAccess t b reqs .none) s (fun s' =>
      (s'.bank t b).waiting.length = (s.bank t b).waiting.length + reqs.length - (if b = .vb then 16 else 4)))

/-- O29. The upkeep of a bank. A corrected word is written back: its mark clears (R217). Patrol scrub reads the next line once its interval has passed, and
not before (R219). Either is deferred, which counts once, while the bank has no idle slot (R214). A write of 1 to CLEAR begins a clear (R222, R224), which is left alone while in progress, but not in a tile whose
replica is not valid (R42); after the bank's time every byte is zero with valid check bits and no other byte changes, and not before, nor while a stop of the
tile pauses the clear (R426). -/
def Obligations.BankUpkeep : Prop :=
  ∀ (t : TileId) (b : BankId) (s : State),
    (∀ w rest, (s.bank t b).writeback = w :: rest → s.bankOpen t b = true →
      (s.mark (spdAddr t b (8 * w)) = 1 → Completes (.eccWriteback t ⟨b, true⟩) s (fun s' =>
        s'.mark (spdAddr t b (8 * w)) = 0 ∧ (∀ k, k ≠ spdAddr t b (8 * w) → s'.mark k = s.mark k) ∧
        s'.bank t b = { s.bank t b with writeback := rest, fixLate := false } ∧ s.TilesBut s' t ∧
        s.FieldsBut s' [(.spdAccOther, t, bankIdx b)] ∧ s.Only s' [.regs, .tiles, .act, .ecc])) ∧
      ((s.bank t b).fixLate = false → Completes (.eccWriteback t ⟨b, false⟩) s (fun s' =>
        s'.bank t b = { s.bank t b with fixLate := true } ∧ s'.rd .spdDefer t (bankIdx b) = (s.rd .spdDefer t (bankIdx b) + 1) % 2 ^ 64 ∧
        s.TilesBut s' t ∧ s.FieldsBut s' [(.spdDefer, t, bankIdx b)] ∧ s.Only s' [.regs, .tiles])) ∧
      ((s.bank t b).fixLate = true → Completes (.eccWriteback t ⟨b, false⟩) s (fun s' => s' = s))) ∧
    (s.rd .spdScrubCfgEn t ≠ 0 → s.bankOpen t b = true → (∀ w, s.mark (spdAddr t b (8 * w)) = 0) →
      (s.tally ≥ (s.bank t b).scrubAt + max 1 (s.rd .spdScrubCfgInterval t) * 64 →
        Completes (.scrubLineRead t b ⟨.none, true⟩) s (fun s' =>
          s'.bank t b = { s.bank t b with
            scrubLine := ((s.bank t b).scrubLine + 1) % (bankSize b / 64), scrubAt := s.tally, scrubLate := false } ∧
          s'.rd .spdScrubLines t (bankIdx b) = (s.rd .spdScrubLines t (bankIdx b) + 1) % 2 ^ 64 ∧ s.TilesBut s' t ∧
          s.FieldsBut s' [(.spdScrubLines, t, bankIdx b), (.spdAccOther, t, bankIdx b)] ∧ s.Only s' [.regs, .tiles, .act]) ∧
        ((s.bank t b).scrubLate = false → Completes (.scrubLineRead t b ⟨.none, false⟩) s (fun s' =>
          s'.bank t b = { s.bank t b with scrubLate := true } ∧ s'.rd .spdDefer t (bankIdx b) = (s.rd .spdDefer t (bankIdx b) + 1) % 2 ^ 64 ∧
          s.TilesBut s' t ∧ s.FieldsBut s' [(.spdDefer, t, bankIdx b)] ∧ s.Only s' [.regs, .tiles])) ∧
        ((s.bank t b).scrubLate = true → Completes (.scrubLineRead t b ⟨.none, false⟩) s (fun s' => s' = s))) ∧
      (s.tally < (s.bank t b).scrubAt + max 1 (s.rd .spdScrubCfgInterval t) * 64 → ∀ g, Completes (.scrubLineRead t b ⟨.none, g⟩) s (fun s' => s' = s))) ∧
    ((s.tile t).gated = false → (s.tile t).stopped = false →
      ((s.tile t).tallyValid = false → Completes (.spdClearWrite t b) s (fun s' => s' = s)) ∧
      ((s.tile t).tallyValid = true → s.clearing t b = false → Completes (.spdClearWrite t b) s (fun s' =>
        s'.bank t b = { s.bank t b with clearing := some s.tally, writeback := [] } ∧
        s'.rd .spdClears t (bankIdx b) = (s.rd .spdClears t (bankIdx b) + 1) % 2 ^ 64 ∧ s.TilesBut s' t ∧
        s.FieldsBut s' [(.spdClears, t, bankIdx b)] ∧ s.Only s' [.regs, .tiles])) ∧
      (s.clearing t b = true → Completes (.spdClearWrite t b) s (fun s' => s' = s))) ∧
    (∀ at0, (s.bank t b).clearing = some at0 →
      ((s.tile t).stopped = true → Completes (.bankClearComplete t b) s (fun s' => s' = s)) ∧
      ((s.tile t).stopped = false → s.tally ≥ at0 + (match b with | .ma => 2200 | .mb => 2200 | .vb => 1375 | .cb => 550 | .sb => 275) →
        Completes (.bankClearComplete t b) s (fun s' =>
          (∀ o, o < bankSize b → s'.byte (spdAddr t b o) = 0#8 ∧ s'.mark (spdAddr t b o) = 0) ∧
          (∀ k, k < spdAddr t b 0 ∨ spdAddr t b 0 + bankSize b ≤ k → s'.byte k = s.byte k ∧ s'.mark k = s.mark k) ∧
          s'.bank t b = { s.bank t b with clearing := none, writeback := [] } ∧ s.TilesBut s' t ∧
          s.Only s' [.mem, .ecc, .tiles])) ∧
      (s.tally < at0 + (match b with | .ma => 2200 | .mb => 2200 | .vb => 1375 | .cb => 550 | .sb => 275) →
        Completes (.bankClearComplete t b) s (fun s' => s' = s)))

/-- O30. Accesses of HBM (R52, R54, R227, R231, R233). An access to a trained controller answers its bytes or writes exactly them, and counts; one to an
untrained controller is discarded and counted, and completes with error status; one to a band whose mode changes is held; one that the MPU of its headframe core
blocks is not made, and a read of it answers zero (R348). The bytes lie where R52 puts the address. -/
def Obligations.HbmAccesses : Prop :=
  ∀ (r : HbmReq) (s : State) (st l : Nat), hbmReqOk r = true → s.place r.addr = .hbm st l →
    (∀ c : CoreId, r.who = .hf c → s.mpuMay c r.addr r.len (b2n r.write) = false → s.coreComps c = [] →
      Completes (.hbmAccess r .none 0) s (fun s' =>
        s'.hbmReads = s.hbmReads ++ (if r.write then [] else [⟨r.tag, 0, false, false⟩]) ∧ s'.mem = s.mem ∧ s.FieldsBut s' eventFields)) ∧
    (s.mpuStops r.who r.addr r.len r.write = false →
    (s.bandHolds r.addr = true → Completes (.hbmAccess r .none 0) s (fun s' => s' = { s with bandHeld := s.bandHeld ++ [r] })) ∧
    (s.bandHolds r.addr = false → s.hbmReady (2 * st + l / 256 % 2) = false → Completes (.hbmAccess r .none 0) s (fun s' =>
      s'.rd .hbmResetDiscard (2 * st + l / 256 % 2) = (s.rd .hbmResetDiscard (2 * st + l / 256 % 2) + 1) % 2 ^ 64 ∧
      s'.hbmReads = s.hbmReads ++ [⟨r.tag, 0, false, true⟩] ∧
      s.FieldsBut s' [(.hbmResetDiscard, 2 * st + l / 256 % 2, 0)] ∧ s.Only s' [.regs, .hbmReads])) ∧
    (s.bandHolds r.addr = false → s.hbmReady (2 * st + l / 256 % 2) = true → s.mark (Place.hbm st (l / 64 * 64)).key = 0 →
      (r.write = false → ∀ wait, Completes (.hbmAccess r .none wait) s (fun s' =>
        s'.hbmReads = s.hbmReads ++ [⟨r.tag, leNat ((List.range r.len).map (fun i => s.byte ((Place.hbm st l).key + i))), false, false⟩] ∧
        s'.rd .hbmRdLines (2 * st + l / 256 % 2) = (s.rd .hbmRdLines (2 * st + l / 256 % 2) + 1) % 2 ^ 64 ∧
        s'.rd .hbmRefWaitNs (2 * st + l / 256 % 2) = (s.rd .hbmRefWaitNs (2 * st + l / 256 % 2) + wait) % 2 ^ 64 ∧
        s.FieldsBut s' [(.hbmRdLines, 2 * st + l / 256 % 2, 0), (.hbmRefWaitNs, 2 * st + l / 256 % 2, 0)] ∧
        s.Only s' [.regs, .act, .hbmReads])) ∧
      (r.write = true → r.poison = false → ∀ wait, Completes (.hbmAccess r .none wait) s (fun s' =>
        (∀ i, i < r.len → s'.byte ((Place.hbm st l).key + i) = r.data.getD i 0#8) ∧ s.BytesBut s' (Place.hbm st l).key r.len ∧
        (∀ k, s'.mark k = s.mark k) ∧
        s'.rd .hbmWrLines (2 * st + l / 256 % 2) = (s.rd .hbmWrLines (2 * st + l / 256 % 2) + 1) % 2 ^ 64 ∧
        (r.len < 64 → s'.rd .hbmRmw (2 * st + l / 256 % 2) = (s.rd .hbmRmw (2 * st + l / 256 % 2) + 1) % 2 ^ 64) ∧
        s.FieldsBut s' [(.hbmWrLines, 2 * st + l / 256 % 2, 0), (.hbmRmw, 2 * st + l / 256 % 2, 0), (.hbmRefWaitNs, 2 * st + l / 256 % 2, 0)] ∧
        s.Only s' [.regs, .act, .mem, .ecc])) ∧
      (r.write = true → r.poison = true → Completes (.hbmAccess r .none 0) s (fun s' =>
        s'.mark (Place.hbm st (l / 64 * 64)).key = 3 ∧ s.BytesBut s' (Place.hbm st (l / 64 * 64)).key 64 ∧
        (∀ k, k ≠ (Place.hbm st (l / 64 * 64)).key → s'.mark k = s.mark k))) ∧
      (r.write = false → (∀ n, r.who ≠ .hf n) → Completes (.hbmAccess r .uncorrectable 0) s (fun s' =>
        s'.hbmReads = s.hbmReads ++ [⟨r.tag, leNat ((List.range r.len).map (fun i => s.byte ((Place.hbm st l).key + i))), true, false⟩] ∧
        s'.rd .hbmUe (2 * st + l / 256 % 2) = (s.rd .hbmUe (2 * st + l / 256 % 2) + 1) % 2 ^ 64 ∧ (∀ k, s'.byte k = s.byte k)))))

/-- O31. Controllers and band modes (R54, R229, R232, R233, R443). A trained controller out of self-refresh counts its refreshes and scrubs a line when its
interval has passed; HBM_TRAINED makes a present controller ready while DEV_VALID is set; a loss of training, and the controller's own reset, end that,
and the reset puts the PHY in self-refresh and completes with error status the held accesses that it discards. A band's mode field holds the value
written at once; one that differs from the mode in force waits, one that restores it ends the wait (the model's choice, log 73), and a switch puts the
oldest waiting value in force, counts it, and lets the band's held accesses go. -/
def Obligations.HbmUpkeep : Prop :=
  (∀ (c : HbmcId) (s : State), s.hbmRuns c = true →
    Runs (.hbmRefresh c) s [.regs] [(.hbmRefresh, c, 0)] (fun s' => s'.rd .hbmRefresh c = (s.rd .hbmRefresh c + 1) % 2 ^ 64) ∧
    (s.rd .hbmScrubCfgEn c ≠ 0 → s.tally ≥ (sget {} c.val s.hbmcs).scrubAt + max 1 (s.rd .hbmScrubCfgIntervalNs c) →
      (∀ k, s.mark k = 0) → Runs (.hbmScrubLineRead c .none) s [.regs, .hbmcs, .act] [(.hbmScrubLines, c, 0)] (fun s' =>
        sget {} c.val s'.hbmcs = { sget {} c.val s.hbmcs with
          scrubLine := ((sget {} c.val s.hbmcs).scrubLine + 1) % 301989888, scrubAt := s.tally } ∧
        s'.rd .hbmScrubLines c = (s.rd .hbmScrubLines c + 1) % 2 ^ 64))) ∧
  (∀ (c : HbmcId) (s : State), c.val < s.variant.hbmcs →
    (s.rd .tlyStatusDevValid ≠ 0 → (sget {} c.val s.hbmcs).resetAt = none → Completes (.hbmTrained c) s (fun s' =>
      sget {} c.val s'.hbmcs = { sget {} c.val s.hbmcs with trained := true, selfRefresh := false } ∧
      (∀ d, d ≠ c.val → sget {} d s'.hbmcs = sget {} d s.hbmcs) ∧ s.FieldsBut s' eventFields ∧ s.Only s' [.regs, .hbmcs, .ic, .adit])) ∧
    (s.rd .tlyStatusDevValid = 0 → (sget {} c.val s.hbmcs).resetAt = none → Completes (.hbmTrained c) s (fun s' => s' = s)) ∧
    ((sget {} c.val s.hbmcs).resetAt = none → Completes (.hbmcReset c) s (fun s' =>
      sget {} c.val s'.hbmcs = { sget {} c.val s.hbmcs with trained := false, selfRefresh := true, resetAt := some s.tally } ∧
      (∀ d, d ≠ c.val → sget {} d s'.hbmcs = sget {} d s.hbmcs) ∧
      (∀ f i j, f.info.space ≠ .hbmc → (f, 0, 0) ∉ eventFields → s'.rd f i j = s.rd f i j) ∧
      s'.bandHeld = s.bandHeld.filter (fun r => !s.reqTo c r) ∧
      s'.hbmReads = s.hbmReads ++ (s.bandHeld.filter (s.reqTo c)).map (fun r => ⟨r.tag, 0, false, true⟩) ∧
      s.Only s' [.regs, .hbmcs, .bandHeld, .hbmReads, .ic, .adit])) ∧
    (s.hbmReady c = true → (sget {} c.val s.hbmcs).resetAt = none → Completes (.hbmTrainingLoss c) s (fun s' =>
      sget {} c.val s'.hbmcs = { sget {} c.val s.hbmcs with trained := false } ∧
      (∀ d, d ≠ c.val → sget {} d s'.hbmcs = sget {} d s.hbmcs) ∧ s.FieldsBut s' eventFields ∧
      s.Only s' [.regs, .hbmcs, .ic, .adit, .ras]))) ∧
  (∀ (reg : Fin 3) (v : Nat) (s : State), s.bandHeld = [] →
    Runs (.hbmBandModeWrite reg v) s [.regs, .bandNext] [(bandField (16 * reg.val), 0, 0)] (fun s' =>
      ∀ band, reg.val * 16 ≤ band → band < min (reg.val * 16 + 16) 36 →
        let old := (slook band s.bandNext).getD (s.bandValue band)
        let new := v / 4 ^ (band % 16) % 4
        s'.rd (bandField band) / 4 ^ (band % 16) % 4 = new ∧
        (new = old → ∀ m, (band, m) ∉ s'.bandNext) ∧ (new ≠ old → (band, old) ∈ s'.bandNext))) ∧
  (∀ (band m : Nat) (rest : List (Nat × Nat)) (s : State), s.bandNext = (band, m) :: rest →
    Completes .bandModeSwitch s (fun s' => s'.bandNext = rest.filter (fun e => e.1 != band) ∧
      s'.bandHeld = s.bandHeld.filter (fun r => s.bandOf r.addr != band)) ∧
    (s.bandHeld = [] → Runs .bandModeSwitch s [.regs, .bandNext] [(.hbmBandRemap, 0, 0)] (fun s' =>
      s'.rd .hbmBandRemap = (s.rd .hbmBandRemap + 1) % 2 ^ 64)))

/-! ### The hoist and the packets that reach a tile -/

/-- O32. Descriptors of the hoist that move bytes (R149, R237 to R240). When every span decodes, is open and is held by nothing: a linear copy puts
SRC's bytes at DST, the two not overlapping, and to another device sends them in a WRITE packet (up to 8,192 bytes); a strided copy moves COUNT rows; gather fills row r from table row idx[r], with zeros for an
index that names no row, its sources apart from its destination; scatter likewise puts row r at table row idx[r] (the last of equal indices is not stated here), and a reducing scatter of one INT32 row
adds it to the table row. No other byte changes. The descriptor executes with status 0 and its queue's head entry is gone. -/
def Obligations.HoistMoves : Prop :=
  ∀ (t : TileId) (s : State) (q : Nat) (d : List Nat), s.HoistTakes t q d →
    let f := hoistFields d
    f.illegal = none → s.heldAt (s.hoistSpans f) = none → (∀ p ∈ s.hoistSpans f, s.okBytes p.1 p.2 = p.2) →
    (f.kind = 0 → f.remote = false → f.src + f.rowBytes ≤ f.dst ∨ f.dst + f.rowBytes ≤ f.src → Completes (.hoistLinear t) s (fun s' =>
      (∀ i, i < f.rowBytes → s'.memByte (f.dst + i) = s.memByte (f.src + i)) ∧
      (∀ a, ¬ (f.dst ≤ a ∧ a < f.dst + f.rowBytes) → s'.memByte a = s.memByte a) ∧
      s.HoistBegun s' t { queue := q, desc := d, lastSent := s.tally } ∧ s.Only s' [.regs, .tiles, .act, .mem, .ecc, .free])) ∧
    (f.kind = 0 → f.remote = true → 0 < f.rowBytes → f.rowBytes ≤ 8192 → Completes (.hoistLinear t) s (fun s' =>
      (∃ p : Packet, s'.outbox = s.outbox ++ [p] ∧ p.ty = 0 ∧ p.vc = f.vc ∧ p.dstDev = f.dstDevice ∧ p.addr = f.dst ∧ p.len = f.rowBytes ∧
        p.payload = s.memBytes f.src f.rowBytes ∧ p.srcTile = t.val ∧ p.gen = s.rd .tileGen t ∧ p.tag = (s.tile t).hoist.nextTag ∧ p.poison = []) ∧
      s.HoistBegun s' t { queue := q, desc := d, lastSent := s.tally, acks := [(s.tile t).hoist.nextTag] } ∧
      s.Only s' [.regs, .tiles, .act, .outbox])) ∧
    (f.kind = 1 → f.remote = false →
      (∀ r i r' i', r < f.count → i < f.rowBytes → r' < f.count → i' < f.rowBytes →
        f.src + r * f.srcStride + i ≠ f.dst + r' * f.dstStride + i' ∧
        (f.dst + r * f.dstStride + i = f.dst + r' * f.dstStride + i' → r = r')) →
      Completes (.hoistStrided t) s (fun s' =>
        (∀ r i, r < f.count → i < f.rowBytes → s'.memByte (f.dst + r * f.dstStride + i) = s.memByte (f.src + r * f.srcStride + i)) ∧
        (∀ a, (∀ r i, r < f.count → i < f.rowBytes → a ≠ f.dst + r * f.dstStride + i) → s'.memByte a = s.memByte a) ∧
        s.HoistBegun s' t { queue := q, desc := d, lastSent := s.tally } ∧ s.Only s' [.regs, .tiles, .act, .mem, .ecc, .free])) ∧
    (let idx (r : Nat) : Nat := leNat (s.memBytes (f.idx + 4 * r) 4)
     (f.kind = 2 → (∀ r i j, r < f.count → idx r < f.srcStride → i < f.rowBytes → j < f.count * f.rowBytes →
          f.src + idx r * f.rowBytes + i ≠ f.dst + j) →
        Completes (.hoistGather t) s (fun s' =>
          (∀ r i, r < f.count → i < f.rowBytes → s'.memByte (f.dst + r * f.rowBytes + i) =
            if idx r < f.srcStride then s.memByte (f.src + idx r * f.rowBytes + i) else 0#8) ∧
          (∀ a, ¬ (f.dst ≤ a ∧ a < f.dst + f.count * f.rowBytes) → s'.memByte a = s.memByte a) ∧
          s.HoistBegun s' t { queue := q, desc := d, lastSent := s.tally } ∧ s.Only s' [.regs, .tiles, .act, .mem, .ecc, .free])) ∧
     (f.kind = 3 → f.redOp = 0 → (∀ r i j, r < f.count → idx r < f.srcStride → i < f.rowBytes → j < f.count * f.rowBytes →
          f.dst + idx r * f.rowBytes + i ≠ f.src + j) →
        Completes (.hoistScatter t) s (fun s' =>
          (∀ r i, r < f.count → i < f.rowBytes → idx r < f.srcStride → (∀ r', r' < f.count → idx r' = idx r → r' = r) →
            s'.memByte (f.dst + idx r * f.rowBytes + i) = s.memByte (f.src + r * f.rowBytes + i)) ∧
          (∀ a, (∀ r i, r < f.count → idx r < f.srcStride → i < f.rowBytes → a ≠ f.dst + idx r * f.rowBytes + i) → s'.memByte a = s.memByte a) ∧
          s.HoistBegun s' t { queue := q, desc := d, lastSent := s.tally } ∧ s.Only s' [.regs, .tiles, .act, .mem, .ecc, .free])) ∧
     (f.kind = 3 → f.redOp = 1 → f.fmt = 9 → f.acc = true → f.sat = false → f.count = 1 → idx 0 < f.srcStride →
        Completes (.hoistScatter t) s (fun s' =>
          (∀ e, 4 * e < f.rowBytes → leNat (s'.memBytes (f.dst + idx 0 * f.rowBytes + 4 * e) 4) =
            (leNat (s.memBytes (f.dst + idx 0 * f.rowBytes + 4 * e) 4) + leNat (s.memBytes (f.src + 4 * e) 4)) % 2 ^ 32) ∧
          (∀ a, ¬ (f.dst + idx 0 * f.rowBytes ≤ a ∧ a < f.dst + idx 0 * f.rowBytes + f.rowBytes) → s'.memByte a = s.memByte a))))

/-- O33. A descriptor that the checks of R243 refuse moves nothing and executes with the lowest status that applies. One whose bytes have moved completes
when its acknowledgements have arrived (R242): HST_DONE, HST_DESC_DONE, and a signal to this tile or another when SIG_EN is set; an illegal one counts, is recorded
while VALID is 0 and withholds its signal. The remote timeout completes it with status 0x12, and not before its time (R244). -/
def Obligations.HoistCompletes : Prop :=
  (∀ (t : TileId) (s : State) (q : Nat) (d : List Nat), s.HoistTakes t q d → ∀ st, (hoistFields d).illegal = some st →
    Completes (match (hoistFields d).kind with | 1 => .hoistStrided t | 2 => .hoistGather t | 3 => .hoistScatter t | _ => .hoistLinear t) s
      (fun s' => s.HoistBegun s' t { queue := q, desc := d, status := st } ∧ s.Only s' [.regs, .tiles, .act])) ∧
  (∀ (t : TileId) (q : Fin 32) (s : State) (r : HoistRun), s.hoistOf t q = some r → (s.tile t).active = true → r.queue = q.val → r.waits = false →
    let f := hoistFields r.desc
    let rest := (s.tile t).hoist.active.filter (fun a => a.queue != q.val)
    (r.acks = [] → r.status = 0 → f.sigEn = false → Completes (.hoistCompletion t q) s (fun s' =>
      (s'.tile t).hoist = { (s.tile t).hoist with active := rest } ∧ (s'.tile t).core.ev0.testBit 2 = true ∧
      s'.rd .hstDescDone t = (s.rd .hstDescDone t + 1) % 2 ^ 64 ∧ s.TilesBut s' t ∧ s.FieldsBut s' [(.hstDescDone, t, 0)] ∧
      s.Only s' [.regs, .tiles])) ∧
    (r.acks = [] → r.status = 0 → f.sigEn = true → s.targetHere f.sigTarget = true → targetTile f.sigTarget = t →
      Completes (.hoistCompletion t q) s (fun s' =>
        (s'.tile t).hoist = { (s.tile t).hoist with active := rest } ∧ s'.rd .hstDescDone t = (s.rd .hstDescDone t + 1) % 2 ^ 64 ∧
        s'.rd .tileSem t f.sem = min (s.rd .tileSem t f.sem + 1) 0xFFFFFFFF ∧ s.TilesBut s' t ∧
        s.FieldsBut s' ((.hstDescDone, t.val, 0) :: semFields t f.sem) ∧ s.Only s' [.regs, .tiles])) ∧
    (r.acks = [] → r.status = 0 → f.sigEn = true → ¬ (s.targetHere f.sigTarget = true ∧ targetTile f.sigTarget = t) →
      Completes (.hoistCompletion t q) s (fun s' =>
        (s'.tile t).hoist = { (s.tile t).hoist with active := rest } ∧ s'.rd .hstDescDone t = (s.rd .hstDescDone t + 1) % 2 ^ 64 ∧
        (∃ p, s'.outbox = s.outbox ++ [p] ∧ p.ty = 3 ∧ p.vc = (if f.vc < 2 then 2 else f.vc) ∧ p.sem = f.sem ∧ p.addr = 1 ∧
          p.dstTile = targetTile f.sigTarget ∧ p.dstDev = targetDev f.sigTarget ∧ p.srcTile = t.val) ∧ s.TilesBut s' t ∧
        s.FieldsBut s' [(.hstDescDone, t, 0)] ∧ s.Only s' [.regs, .tiles, .outbox])) ∧
    (r.acks = [] → 0 < r.status → r.status < 0x10 → f.sigEn = true → Completes (.hoistCompletion t q) s (fun s' =>
      s'.rd .hstDescDone t = (s.rd .hstDescDone t + 1) % 2 ^ 64 ∧ s'.rd .hstDescIllegal t = (s.rd .hstDescIllegal t + 1) % 2 ^ 64 ∧
      s'.rd .hstSigWithheld t = (s.rd .hstSigWithheld t + 1) % 2 ^ 64 ∧
      (s.rd .hstErrInfoValid t = 0 → s'.rd .hstErrInfoValid t = 1 ∧ s'.rd .hstErrInfoStatus t = r.status ∧
        s'.rd .hstErrInfoQueue t = q ∧ s'.rd .hstErrTag t = f.tag % 2 ^ 32) ∧
      (∀ k, s'.rd .tileSem t k = s.rd .tileSem t k) ∧ s.TilesBut s' t ∧ s.Only s' [.regs, .tiles, .ras, .ic, .adit])) ∧
    (r.acks ≠ [] → Completes (.hoistCompletion t q) s (fun s' => s' = s)) ∧
    (r.acks ≠ [] → s.rd .hstRemoteTimeoutNs t ≠ 0 →
      (s.tally ≥ r.lastSent + s.rd .hstRemoteTimeoutNs t → r.status = 0 → f.sigEn = true → Completes (.hoistRemoteTimeout t q) s (fun s' =>
        (s'.tile t).hoist = { (s.tile t).hoist with active := rest } ∧
        s'.rd .hstRemoteTimeout t = (s.rd .hstRemoteTimeout t + 1) % 2 ^ 64 ∧ s'.rd .hstDescErr t = (s.rd .hstDescErr t + 1) % 2 ^ 64 ∧
        s'.rd .hstSigWithheld t = (s.rd .hstSigWithheld t + 1) % 2 ^ 64 ∧
        (s.rd .hstErrInfoValid t = 0 → s'.rd .hstErrInfoStatus t = 0x12) ∧ s.TilesBut s' t ∧
        s.Only s' [.regs, .tiles, .ras, .ic, .adit])) ∧
      (s.tally < r.lastSent + s.rd .hstRemoteTimeoutNs t → Completes (.hoistRemoteTimeout t q) s (fun s' => s' = s))))

/-- O34. Packets that reach this die (R178, R180, R240, R275, R448, R449). A POST is admitted to an enabled queue with room, and dropped and counted
otherwise; one from before the tile's generation fence is dropped. A SIGNAL adds to its semaphore. A WRITE puts its payload at its address and is
acknowledged with its GEN and TAG. A READ is answered with the bytes it names. An ACK or READ_DATA is accepted while its GEN is current and its TAG
outstanding, at the tile's hoist or, of an ACK, at the headframe, and counted as stale otherwise; at a stopped tile it waits (R421). -/
def Obligations.PacketsReceived : Prop :=
  (∀ (ty n : Nat) (a : Arrival) (s s1 : State), s.Arrives ty n a s1 →
    ∃ i, s.dieNet[i]? = some a ∧ a.pkt.ty = ty ∧ s1 = { s with dieNet := s.dieNet.eraseIdx i }) ∧
  (∀ (n : Nat) (a : Arrival) (s s1 : State), s.Arrives 2 n a s1 → (s.tile a.pkt.dstTile).active = true → a.pkt.dstQueue < 128 →
    a.pkt.dstTile < 256 → s.clearing a.pkt.dstTile (qBank a.pkt.dstQueue) = false →
    let t := a.pkt.dstTile
    let q := a.pkt.dstQueue
    (s.fenced t a.pkt.injAt = true → Completes (.postPacketReceive n) s (fun s' =>
      s'.rd .tileGenDrop t = (s.rd .tileGenDrop t + 1) % 2 ^ 64 ∧ s1.FieldsBut s' [(.tileGenDrop, t, 0)] ∧ s1.Only s' [.regs])) ∧
    (s.fenced t a.pkt.injAt = false → s.qEnabled t q = false → Completes (.postPacketReceive n) s (fun s' =>
      s'.rd .tileQDropDisabled (qInst t q) = (s.rd .tileQDropDisabled (qInst t q) + 1) % 2 ^ 64 ∧
      s1.FieldsBut s' [(.tileQDropDisabled, qInst t q, 0)] ∧ s1.Only s' [.regs])) ∧
    (s.fenced t a.pkt.injAt = false → s.qEnabled t q = true → s.qOcc t q ≥ s.qDepth t q → Completes (.postPacketReceive n) s (fun s' =>
      s'.rd .tileQDropFull (qInst t q) = (s.rd .tileQDropFull (qInst t q) + 1) % 2 ^ 64 ∧
      s1.FieldsBut s' [(.tileQDropFull, qInst t q, 0)] ∧ s1.Only s' [.regs])) ∧
    (s.fenced t a.pkt.injAt = false → s.qEnabled t q = true → s.qOcc t q < s.qDepth t q → a.pkt.payload.length = 64 → a.pkt.poison = [] →
      (∀ i, (s.slot t i).mode ≠ .committing) → Completes (.postPacketReceive n) s (fun s' =>
        let line := spdAddr t (qBank q) (s.qLine t q (s.rd .tileQTail (qInst t q)))
        (∀ i, i < 64 → s'.byte (line + i) = a.pkt.payload.getD i 0#8) ∧ s.BytesBut s' line 64 ∧
        s'.rd .tileQTail (qInst t q) = qNext (s.qDepth t q) (s.rd .tileQTail (qInst t q)) % 2 ^ 9 ∧
        s'.rd .tileQPosts (qInst t q) = (s.rd .tileQPosts (qInst t q) + 1) % 2 ^ 64 ∧
        s.FieldsBut s' [(.tileQTail, qInst t q, 0), (.tileQPosts, qInst t q, 0), (.spdAccOther, t, bankIdx (qBank q))] ∧
        s1.Only s' [.regs, .act, .mem, .ecc]))) ∧
  (∀ (n : Nat) (a : Arrival) (s s1 : State), s.Arrives 3 n a s1 → (s.tile a.pkt.dstTile).active = true → a.pkt.dstTile < 256 → a.pkt.sem < 64 →
    s.fenced a.pkt.dstTile a.pkt.injAt = false → Completes (.signalPacketReceive n) s (fun s' =>
      s'.rd .tileSem a.pkt.dstTile a.pkt.sem = min (s.rd .tileSem a.pkt.dstTile a.pkt.sem + a.pkt.addr % 2 ^ 32) 0xFFFFFFFF ∧
      s1.FieldsBut s' (semFields a.pkt.dstTile a.pkt.sem) ∧ s1.Only s' [.regs])) ∧
  (∀ (n : Nat) (a : Arrival) (s s1 : State), (∀ k, s.mark k = 0) → (∀ u i, (s.slot u i).mode ≠ .committing) →
    s.heldAt [(a.pkt.addr, a.pkt.len)] = none → s.okBytes a.pkt.addr a.pkt.len = a.pkt.len →
    (s.Arrives 0 n a s1 → a.pkt.payload.length = a.pkt.len → a.pkt.poison = [] →
      (∀ t, s.tileAt a.pkt.addr = some t → s.fenced t a.pkt.injAt = false) → Completes (.writePacketReceive n) s (fun s' =>
        (∀ i, i < a.pkt.len → s'.memByte (a.pkt.addr + i) = a.pkt.payload.getD i 0#8) ∧
        (∀ k, ¬ (a.pkt.addr ≤ k ∧ k < a.pkt.addr + a.pkt.len) → s'.memByte k = s.memByte k) ∧
        (∃ p : Packet, s'.outbox = s.outbox ++ [p] ∧ p.ty = 1 ∧ p.len = 0 ∧ p.dstDev = a.pkt.srcDev ∧ p.dstTile = a.pkt.srcTile ∧
          p.gen = a.pkt.gen ∧ p.tag = a.pkt.tag) ∧
        s1.Only s' [.regs, .act, .mem, .ecc, .outbox])) ∧
    (s.Arrives 4 n a s1 → Completes (.readPacketReceive n) s (fun s' =>
      (∃ p : Packet, s'.outbox = s.outbox ++ [p] ∧ p.ty = 5 ∧ p.len = a.pkt.len ∧ p.payload = s.memBytes a.pkt.addr a.pkt.len ∧
        p.dstDev = a.pkt.srcDev ∧ p.dstTile = a.pkt.srcTile ∧ p.gen = a.pkt.gen ∧ p.tag = a.pkt.tag ∧ p.poison = []) ∧
      s1.Only s' [.regs, .act, .outbox]))) ∧
  (∀ (n : Nat) (a : Arrival) (s s1 : State), s.Arrives 1 n a s1 → a.pkt.dstTile < 255 →
    ((s.tile a.pkt.dstTile).stopped = true → Completes (.ackPacketReceive n) s (fun s' => s' = s)) ∧
    ((s.tile a.pkt.dstTile).stopped = false → a.pkt.gen = s.rd .tileGen a.pkt.dstTile → (s.tile a.pkt.dstTile).hoist.active.any (fun r => r.acks.contains a.pkt.tag) = true →
      Completes (.ackPacketReceive n) s (fun s' =>
        (∀ r ∈ (s'.tile a.pkt.dstTile).hoist.active, a.pkt.tag ∉ r.acks) ∧
        (s'.tile a.pkt.dstTile).hoist.active.length = (s.tile a.pkt.dstTile).hoist.active.length ∧
        s.TilesBut s' a.pkt.dstTile ∧ s1.Only s' [.tiles])) ∧
    ((s.tile a.pkt.dstTile).stopped = false →
      a.pkt.gen ≠ s.rd .tileGen a.pkt.dstTile ∨ (s.tile a.pkt.dstTile).hoist.active.any (fun r => r.acks.contains a.pkt.tag) = false →
      Completes (.ackPacketReceive n) s (fun s' =>
        s'.rd .tileGenDrop a.pkt.dstTile = (s.rd .tileGenDrop a.pkt.dstTile + 1) % 2 ^ 64 ∧
        s1.FieldsBut s' [(.tileGenDrop, a.pkt.dstTile, 0)] ∧ s1.Only s' [.regs]))) ∧
  (∀ (n : Nat) (a : Arrival) (s s1 : State), s.Arrives 1 n a s1 → a.pkt.dstTile = 255 →
    ¬ (a.pkt.gen = s.rd .tileGen 255 ∧ (s.tile 255).hoist.active.any (fun r => r.acks.contains a.pkt.tag) = true) →
    ((∃ e ∈ s.hfOut, e.1 = a.pkt.tag ∧ s.rd .hfCompStatusGen 0 e.2 = a.pkt.gen) → Completes (.ackPacketReceive n) s (fun s' =>
      s'.hfOut = s.hfOut.filter (fun e => e.1 != a.pkt.tag) ∧
      (∀ k ∈ s'.skip.chunks, a.pkt.tag ∉ k.tags) ∧ s1.Only s' [.hfOut, .skip])) ∧
    ((∀ e ∈ s.hfOut, e.1 = a.pkt.tag → s.rd .hfCompStatusGen 0 e.2 ≠ a.pkt.gen) → Completes (.ackPacketReceive n) s (fun s' =>
      s'.rd .rasLateDrop = (s.rd .rasLateDrop + 1) % 2 ^ 64 ∧ s1.FieldsBut s' [(.rasLateDrop, 0, 0)] ∧ s1.Only s' [.regs]))) ∧
  (∀ (n : Nat) (a : Arrival) (s s1 : State), s.Arrives 5 n a s1 → a.pkt.dstTile < 256 →
    ((s.tile a.pkt.dstTile).stopped = true → Completes (.readDataReceive n) s (fun s' => s' = s)) ∧
    ((s.tile a.pkt.dstTile).stopped = false → a.pkt.gen = s.rd .tileGen a.pkt.dstTile → (s.tile a.pkt.dstTile).hoist.reads.contains a.pkt.tag = true →
      Completes (.readDataReceive n) s (fun s' =>
        (s'.tile a.pkt.dstTile).reads = (s.tile a.pkt.dstTile).reads ++ [⟨a.pkt.tag, leNat a.pkt.payload, !a.pkt.poison.isEmpty, false⟩] ∧
        a.pkt.tag ∉ (s'.tile a.pkt.dstTile).hoist.reads ∧ s.TilesBut s' a.pkt.dstTile ∧ s1.Only s' [.tiles])) ∧
    ((s.tile a.pkt.dstTile).stopped = false →
      a.pkt.gen ≠ s.rd .tileGen a.pkt.dstTile ∨ (s.tile a.pkt.dstTile).hoist.reads.contains a.pkt.tag = false →
      Completes (.readDataReceive n) s (fun s' =>
        s'.rd .tileGenDrop a.pkt.dstTile = (s.rd .tileGenDrop a.pkt.dstTile + 1) % 2 ^ 64 ∧
        s1.FieldsBut s' [(.tileGenDrop, a.pkt.dstTile, 0)] ∧ s1.Only s' [.regs])))

/-- O35. Firmware writes of a tile (R176, R181, R182, R426): TILE_QCFG takes its three fields while EN is 0, ignores a write that keeps EN at 1, and
discards and counts every entry when EN is cleared; TILE_SEM takes the value; TILE_PHASE takes its 16 bits, and a change is stamped and counted at a tile
whose replica is valid (R42). A write to a stopped tile without debug STATE_WRITE is held. -/
def Obligations.TileRegisterWrites : Prop :=
  ∀ (t : TileId) (v : Nat) (s : State),
    ((s.tile t).stopped = true → s.stateWriteOpen = false →
      let held (w : HeldWrite) : State := { s with dbg := { s.dbg with heldWrites := s.dbg.heldWrites ++ [w] } }
      (∀ k : Fin 64, Completes (.tileSemWrite t k v) s (fun s' => s' = held ⟨0x06008600 + 4 * k.val, t.val, 0, v⟩)) ∧
      (∀ q : Fin 128, Completes (.tileQcfgWrite t q v) s (fun s' => s' = held ⟨0x06050004, t.val, q.val, v⟩)) ∧
      Completes (.tilePhaseWrite t v) s (fun s' => s' = held ⟨0x06008510, t.val, 0, v⟩)) ∧
    ((s.tile t).stopped = false →
      (∀ q : Fin 128, s.rd .tileQcfgEn (qInst t q) = 0 →
        Runs (.tileQcfgWrite t q v) s [.regs]
          [(.tileQcfgEn, qInst t q, 0), (.tileQcfgLog2Depth, qInst t q, 0), (.tileQcfgBase, qInst t q, 0)] (fun s' =>
          s'.rd .tileQcfgEn (qInst t q) = v / 2 ^ 31 % 2 ∧
          s'.rd .tileQcfgBase (qInst t q) = v % 2 ^ Field.tileQcfgBase.info.width ∧
          s'.rd .tileQcfgLog2Depth (qInst t q) = v / 2 ^ 24 % 2 ^ Field.tileQcfgLog2Depth.info.width)) ∧
      (∀ q : Fin 128, s.rd .tileQcfgEn (qInst t q) ≠ 0 → v.testBit 31 = true → Completes (.tileQcfgWrite t q v) s (fun s' => s' = s)) ∧
      (∀ q : Fin 128, s.rd .tileQcfgEn (qInst t q) ≠ 0 → v.testBit 31 = false → s.qEnabled t q = true →
        Completes (.tileQcfgWrite t q v) s (fun s' =>
          s'.rd .tileQcfgEn (qInst t q) = 0 ∧ s'.rd .tileQHead (qInst t q) = 0 ∧ s'.rd .tileQTail (qInst t q) = 0 ∧
          s'.rd .tileQDropDisabled (qInst t q) = (s.rd .tileQDropDisabled (qInst t q) + s.qOcc t q) % 2 ^ 64 ∧ s.Only s' [.regs])) ∧
      (∀ k : Fin 64, Runs (.tileSemWrite t k v) s [.regs] [(.tileSem, t, k)] (fun s' => s'.rd .tileSem t k = v % 2 ^ 32)) ∧
      Runs (.tilePhaseWrite t v) s [.regs, .pwr] [(.tilePhasePhase, t, 0), (.tilePhaseAt, t, 0), (.tilePhaseChg, t, 0)] (fun s' =>
        s'.rd .tilePhasePhase t = v % 2 ^ 16 ∧
        ((s.tile t).tallyValid = true → v % 2 ^ 16 ≠ s.rd .tilePhasePhase t → s'.rd .tilePhaseAt t = s.tally % 2 ^ 64 ∧
          s'.rd .tilePhaseChg t = (s.rd .tilePhaseChg t + 1) % 2 ^ 64) ∧
        ((s.tile t).tallyValid = false ∨ v % 2 ^ 16 = s.rd .tilePhasePhase t → s'.rd .tilePhaseAt t = s.rd .tilePhaseAt t ∧ s'.rd .tilePhaseChg t = s.rd .tilePhaseChg t)))

/-! ### The host port -/

/-- O36. BAR2 (R247, R248, R337, R338). With the link up, a write within one line of an open place stores exactly its bytes there and counts; a read is taken,
and completes with the bytes of its line once no earlier write waits and the line is not held; an access beyond BAR2, or a read of more than 4,096 bytes,
is an unsupported request, one for each TLP of at most Max_Payload_Size bytes in which a write comes (R332), which Advanced Error Reporting records and, unless it is
masked, reports (R346; the places of the status bits are the model's, assumption log 89); before the firmware is ready, a write reaches nothing and counts as a decode error and as a line. The device address is the
window's base plus the offset. An access with the link down does nothing. Said of a function in D0 and outside a stop. -/
def Obligations.Bar2Accesses : Prop :=
  (∀ (off len : Nat) (data : List Byte) (poison : Bool) (s : State), s.adit.linkUp = false →
    Completes (.bar2Write off data poison) s (fun s' => s' = s) ∧ Completes (.bar2Read off len) s (fun s' => s' = s)) ∧
  (∀ (off : Nat) (data : List Byte) (poison : Bool) (s : State), s.adit.linkUp = true → s.adit.d3 = false → s.inStop = false →
    (off ≥ 2 ^ (36 + s.adit.bar2Size) → 0 < data.length → Completes (.bar2Write off data poison) s (fun s' =>
      let n := ceilDiv data.length (128 * 2 ^ s.adit.payload)
      s'.rd .adtUr = (s.rd .adtUr + n) % 2 ^ 64 ∧ s'.adit = { s.adit with uncSts := s.adit.uncSts ||| 2 ^ 20 } ∧
      s'.rd .adtUncorrErr = (if s.adit.uncMask.testBit 20 then s.rd .adtUncorrErr else (s.rd .adtUncorrErr + n) % 2 ^ 64) ∧
      s.FieldsBut s' [(.adtUr, 0, 0), (.adtUncorrErr, 0, 0)] ∧ s.Only s' [.regs, .adit])) ∧
    (∀ a, a = s.rd .adtWinBase 0 (off / 2 ^ (34 + s.adit.bar2Size)) + off % 2 ^ (34 + s.adit.bar2Size) →
      off + data.length ≤ 2 ^ (36 + s.adit.bar2Size) → 0 < data.length → off % 64 + data.length ≤ 64 → s.adit.writes = [] →
      (s.adit.fwReady = true → poison = false → (∀ k, s.mark k = 0) → (∀ u i, (s.slot u i).mode ≠ .committing) →
        s.okBytes a data.length = data.length → Completes (.bar2Write off data poison) s (fun s' =>
          (∀ i, i < data.length → s'.memByte (a + i) = data.getD i 0#8) ∧
          (∀ k, ¬ (a ≤ k ∧ k < a + data.length) → s'.memByte k = s.memByte k) ∧
          s'.rd .adtBar2WrLines = (s.rd .adtBar2WrLines + 1) % 2 ^ 64 ∧
          s'.adit = { s.adit with nextId := s.adit.nextId + 1 } ∧ s'.tiles = s.tiles ∧
          s.Only s' [.regs, .act, .mem, .ecc, .adit])) ∧
      (s.adit.fwReady = false → poison = false → Completes (.bar2Write off data poison) s (fun s' =>
        s'.rd .adtBar2DecodeErr = (s.rd .adtBar2DecodeErr + 1) % 2 ^ 64 ∧ s'.rd .adtBar2WrLines = (s.rd .adtBar2WrLines + 1) % 2 ^ 64 ∧
        s'.adit = { s.adit with nextId := s.adit.nextId + 1 } ∧ s.Only s' [.regs, .ras, .adit])))) ∧
  (∀ (off len : Nat) (s : State), s.adit.linkUp = true → s.adit.d3 = false →
    (off + len > 2 ^ (36 + s.adit.bar2Size) ∨ len > 4096 →
      Runs (.bar2Read off len) s [.regs, .adit] [(.adtUr, 0, 0), (.adtUncorrErr, 0, 0)] (fun s' =>
        s'.rd .adtUr = (s.rd .adtUr + 1) % 2 ^ 64 ∧ s'.adit = { s.adit with uncSts := s.adit.uncSts ||| 2 ^ 20 })) ∧
    (s.adit.writes = [] → 0 < len → off % 64 + len ≤ 64 → off + len ≤ 2 ^ (36 + s.adit.bar2Size) → Completes (.bar2Read off len) s (fun s' =>
      s'.adit = { s.adit with reads := s.adit.reads ++
        [⟨[(s.rd .adtWinBase 0 (off / 2 ^ (34 + s.adit.bar2Size)) + off % 2 ^ (34 + s.adit.bar2Size), len)], []⟩] } ∧
      (∀ f i j, f ≠ .spdClearHold → s'.rd f i j = s.rd f i j) ∧ s.Only s' [.regs, .adit]))) ∧
  (∀ (a len : Nat) (rest : List HostRead) (s : State), s.adit.reads = ⟨[(a, len)], []⟩ :: rest → s.adit.writes = [] → s.adit.fwReady = true → s.inStop = false →
    a % 64 + len ≤ 64 → s.accessAt a = .ok → (∀ u i, (s.slot u i).mode ≠ .committing) → (∀ k, s.mark k = 0) → Completes .bar2ReadComplete s (fun s' =>
      sget 0 0 s'.answers = leNat (s.memBytes a len) ∧ s'.adit = { s.adit with reads := rest, ep := false } ∧
      s'.rd .adtBar2RdLines = (s.rd .adtBar2RdLines + 1) % 2 ^ 64 ∧ s.Only s' [.regs, .act, .adit, .answers])) ∧
  (∀ s : State, Runs .unsupportedRequest s [.regs, .adit] [(.adtUr, 0, 0), (.adtUncorrErr, 0, 0)] (fun s' =>
    s'.rd .adtUr = (s.rd .adtUr + 1) % 2 ^ 64 ∧ s'.adit = { s.adit with uncSts := s.adit.uncSts ||| 2 ^ 20 } ∧
    s'.rd .adtUncorrErr = (if s.adit.uncMask.testBit 20 then s.rd .adtUncorrErr else (s.rd .adtUncorrErr + 1) % 2 ^ 64)))

/-- O37. An event on a vector of MSI-X (R341): discarded without MSI-X Enable or Bus Master Enable (or in D3hot, the model's choice, assumption log 89), merged
into a pending one or one of the same instant, made pending while the vector or the function is masked, and otherwise sent with the address and data of its
table entry; each case counts in its own counter and in no other. A message that waits goes out when its mask clears, or when a configuration write lifts
what held it. A configuration write sets what it names (R332, R334, R338); a write of BAR4 sets a word of a table entry, which a read of BAR4 answers, as it
does the pending bits (R337). -/
def Obligations.MsixVectors : Prop :=
  ∀ (v : Fin 2048) (s : State),
    (s.adit.msixEn = false ∨ s.adit.busMaster = false ∨ s.adit.d3 = true → Runs (.msixEvent v) s [.regs] [(.adtMsixDisabledDrop, 0, 0)] (fun s' =>
      s'.rd .adtMsixDisabledDrop = (s.rd .adtMsixDisabledDrop + 1) % 2 ^ 64)) ∧
    (s.adit.msixEn = true → s.adit.busMaster = true → s.adit.d3 = false →
      (sget false v.val s.adit.pba = true ∨ s.msixNow v = true → Runs (.msixEvent v) s [.regs] [(.adtMsixMerged, 0, 0)] (fun s' =>
        s'.rd .adtMsixMerged = (s.rd .adtMsixMerged + 1) % 2 ^ 64)) ∧
      (sget false v.val s.adit.pba = false → s.msixNow v = false →
        (sget false v.val s.adit.unmasked = false ∨ s.adit.fnMask = true →
          Runs (.msixEvent v) s [.regs, .adit] [(.adtMsixMasked, 0, 0)] (fun s' =>
            sget false v.val s'.adit.pba = true ∧ s'.adit.lastMsg = s.adit.lastMsg ∧
            (∀ u, u ≠ v.val → sget false u s'.adit.pba = sget false u s.adit.pba) ∧
            s'.rd .adtMsixMasked = (s.rd .adtMsixMasked + 1) % 2 ^ 64)) ∧
        (sget false v.val s.adit.unmasked = true → s.adit.fnMask = false →
          Runs (.msixEvent v) s [.regs, .adit] [(.adtMsixSent, 0, 0)] (fun s' =>
            s'.adit.lastMsg = some v.val ∧ s'.adit.msgAddr = sget 0 (4 * v.val) s.adit.table + sget 0 (4 * v.val + 1) s.adit.table * 2 ^ 32 ∧
            s'.adit.msgData = sget 0 (4 * v.val + 2) s.adit.table ∧ s'.msixNow v = true ∧ s.adit.ButMessages s'.adit ∧
            (∀ u, sget false u s'.adit.pba = sget false u s.adit.pba) ∧ s'.rd .adtMsixSent = (s.rd .adtMsixSent + 1) % 2 ^ 64))) ∧
      (sget false v.val s.adit.pba = true → s.adit.fnMask = false → Runs (.msixUnmask v false) s [.regs, .adit] [(.adtMsixSent, 0, 0)] (fun s' =>
        s'.adit.lastMsg = some v.val ∧ sget false v.val s'.adit.pba = false ∧ sget false v.val s'.adit.unmasked = true ∧
        s'.rd .adtMsixSent = (s.rd .adtMsixSent + 1) % 2 ^ 64))) ∧
    (Runs (.msixUnmask v true) s [.adit] [] (fun s' =>
      sget false v.val s'.adit.unmasked = false ∧ s'.adit.pba = s.adit.pba ∧ s'.adit.lastMsg = s.adit.lastMsg)) ∧
    (s.adit.linkUp = true → s.adit.pba = [] →
      (∀ c : Fin 4, Runs (.pciConfigWrite (.bar2Size c)) s [.adit] [] (fun s' => s'.adit = { s.adit with bar2Size := c.val })) ∧
      (∀ en mask, Runs (.pciConfigWrite (.msix en mask)) s [.adit] [] (fun s' => s'.adit = { s.adit with msixEn := en, fnMask := mask })) ∧
      (∀ b, Runs (.pciConfigWrite (.busMaster b)) s [.adit] [] (fun s' => s'.adit = { s.adit with busMaster := b })) ∧
      (∀ d, Runs (.pciConfigWrite (.power d)) s [.adit] [] (fun s' => s'.adit = { s.adit with d3 := d })) ∧
      (∀ c : Fin 3, Runs (.pciConfigWrite (.maxPayload c)) s [.adit] [] (fun s' => s'.adit = { s.adit with payload := c.val })) ∧
      (∀ bits, Runs (.pciConfigWrite (.aerMask true bits)) s [.adit] [] (fun s' => s'.adit = { s.adit with uncMask := bits % 2 ^ 32 })) ∧
      (∀ bits, Runs (.pciConfigWrite (.aerClear true bits)) s [.adit] [] (fun s' => ∀ i,
        s'.adit.uncSts.testBit i = (s.adit.uncSts.testBit i && !bits.testBit i)))) ∧
    (s.adit.linkUp = true → s.adit.d3 = false →
      (∀ (k : Fin 3) (x : Nat), k.val = 1 ∨ k.val = 2 →
        Runs (.registerWrite .host (.bar4 (16 * v.val + 4 * k.val)) 4 ⟨x, 0, []⟩) s [.adit] [] (fun s' =>
          sget 0 (4 * v.val + k.val) s'.adit.table = x % 2 ^ 32 ∧
          ∀ u, u ≠ 4 * v.val + k.val → sget 0 u s'.adit.table = sget 0 u s.adit.table)) ∧
      (∀ k : Fin 3, Runs (.lowHalfRead .host (.bar4 (16 * v.val + 4 * k.val)) 4) s [.answers] [] (fun s' =>
        sget 0 (agentIdx .host) s'.answers = sget 0 (4 * v.val + k.val) s.adit.table)) ∧
      Completes (.lowHalfRead .host (.bar4 (0x8000 + v.val / 32 * 4)) 4) s (fun s' =>
        (sget 0 (agentIdx .host) s'.answers).testBit (v.val % 32) = sget false v.val s.adit.pba)) ∧
    (s.adit.linkUp = true → s.adit.pba = [(v.val, true)] → sget false v.val s.adit.unmasked = true → s.adit.busMaster = true → s.adit.d3 = false →
      Runs (.pciConfigWrite (.msix true false)) s [.regs, .adit] [(.adtMsixSent, 0, 0)] (fun s' =>
        s'.adit.lastMsg = some v.val ∧ s'.adit.pba = []))

/-- O38. The adit's link and the host-side resets (R335, R343). The link comes up at the named width and speed when the module runs, its reference is
good and PERST# is high. A host-side reset of a running module discards what the adit holds and its PCI Express state, keeps FW_READY, and takes the
link down unless it is a Function Level Reset; with PERST_SCOPE 1 nothing else of the device changes but the event of source 438, and otherwise a warm
reset is called for. A module that does not run has only the level of PERST#. -/
def Obligations.HostLinkAndResets : Prop :=
  (∀ (width : Fin 5) (speed : Fin 6) (s : State),
    s.mod.running = true → s.mod.refOk = true → s.mod.perst = false → s.mod.scanHold = false → s.adit.linkUp = false →
    Completes (.aditLinkUp width speed) s (fun s' =>
      s'.adit.linkUp = true ∧ s'.adit.width = 2 ^ width.val ∧ s'.adit.speed = speed.val + 1 ∧ s.FieldsBut s' eventFields ∧
      s.Only s' [.regs, .adit, .ic])) ∧
  (∀ (k : HostReset) (s : State), s.mod.running = true →
    (s.rd .adtCfgPerstScope = 1 → Completes (.hostSideReset k) s (fun s' =>
      s'.adit.writes = [] ∧ s'.adit.reads = [] ∧ s'.adit.msixEn = false ∧ s'.adit.fnMask = false ∧ s'.adit.busMaster = false ∧
      s'.adit.unmasked = [] ∧ s'.adit.pba = [] ∧ s'.adit.bar2Size = 0 ∧ s'.adit.table = [] ∧ s'.adit.d3 = false ∧ s'.adit.fwReady = s.adit.fwReady ∧
      s'.adit.linkUp = (decide (k = .flr) && s.adit.linkUp) ∧
      s'.rd .adtResetDiscard = (s.rd .adtResetDiscard + ((s.adit.writes.map (fun w => w.id)).eraseDups).length + s.adit.reads.length) % 2 ^ 64 ∧
      s.FieldsBut s' ([(Field.adtResetDiscard, 0, 0), (Field.adtLinkDown, 0, 0)] ++ eventFields) ∧ s.Only s' [.regs, .adit, .ic, .mod])) ∧
    (s.rd .adtCfgPerstScope ≠ 1 → s.warmAt = 0 → s.rasw.warmPlan = 0 → Completes (.hostSideReset k) s (fun s' =>
      s'.rasw = { s.rasw with warmPlan := s.tally + 1 } ∧ s'.adit.reads = [] ∧ s'.adit.linkUp = (decide (k = .flr) && s.adit.linkUp) ∧
      s.Only s' [.regs, .adit, .ic, .mod, .rasw])) ∧
    (s.rd .adtCfgPerstScope ≠ 1 → s.warmAt ≠ 0 → Completes (.hostSideReset k) s (fun s' => s'.rasw = s.rasw ∧ s'.warmAt = s.warmAt))) ∧
  (∀ (k : HostReset) (s : State), s.mod.running = false → Completes (.hostSideReset k) s (fun s' =>
    s' = { s with mod := { s.mod with perst := decide (k = .perst) || s.mod.perst } }))

/-! ### The tally -/

/-- O39. Alignment (R38 to R40). A follower with DEV_VALID sends a REQUEST with a new SEQ on its upstream port when 125 µs have passed, and not before. A
REQUEST is answered with its SEQ, its t1 and the stamp of its arrival. A RESPONSE of another exchange, or later than 100 µs, is discarded and
counted. A RESPONSE completes its exchange: TLY_OFFSET is ((t2 − t1) − (t4 − t3)) / 2; the first one after a reset steps a master that is more than 4 µs
behind and sets COARSE_SLEW on one more than 4 µs ahead, and otherwise the offset is what the slew has to make good. Without an exchange for 1 ms a
follower enters holdover. XDEV_LOCKED comes 10 ms after the offset came within 4 µs, with the offset then within 20 ns, and otherwise once it has been
within 20 ns for 10 ms. -/
def Obligations.TallyAlignment : Prop :=
  (∀ s : State, s.devValid = true → s.rd .tlyCtrlRole = 1 →
    (s.talign.sentAt = 0 ∨ s.tally + 1 ≥ s.talign.sentAt + 125000 → Completes .talignRequestSend s (fun s' =>
      s'.talign = { s.talign with out := some s.talign.next, next := (s.talign.next + 1) % 2 ^ 32, sentAt := s.tally + 1 } ∧
      (∃ p : Packet, s'.outbox = s.outbox ++ [p] ∧ p.ty = 0xA ∧ p.vc = 0 ∧ p.len = 64 ∧ p.tag = s.talign.next ∧
        p.via = some (s.rd .tlyCtrlUpstreamPort) ∧ p.payload = talignPayload 0 s.talign.next s.tally 0 0) ∧
      s.Only s' [.talign, .outbox])) ∧
    (s.talign.sentAt ≠ 0 → s.tally + 1 < s.talign.sentAt + 125000 → Completes .talignRequestSend s (fun s' => s' = s))) ∧
  (∀ (a : Arrival) (rest : List Arrival) (s : State), s.dieNet = a :: rest → a.pkt.ty = 0xA →
    (talignKind a.pkt = 0 → s.devValid = true → Completes (.talignRequestReceive 0) s (fun s' =>
      (∃ p : Packet, s'.outbox = s.outbox ++ [p] ∧ p.ty = 0xA ∧ p.vc = 0 ∧ p.len = 64 ∧ p.tag = payWord a.pkt 0 % 2 ^ 32 ∧ p.via = some (a.port.getD 0) ∧
        p.payload = talignPayload 1 (payWord a.pkt 0 % 2 ^ 32) (payWord a.pkt 1) a.stamp 0) ∧
      s'.dieNet = rest ∧ s.Only s' [.dieNet, .outbox])) ∧
    (talignKind a.pkt > 1 → Completes (.talignRequestReceive 0) s (fun s' =>
      s'.rd .tlyAlignDiscard = (s.rd .tlyAlignDiscard + 1) % 2 ^ 64 ∧ s'.dieNet = rest ∧ s.FieldsBut s' [(.tlyAlignDiscard, 0, 0)] ∧
      s.Only s' [.dieNet, .regs])) ∧
    (talignKind a.pkt = 1 → ∀ off : Int,
      off = (((payWord a.pkt 2 : Int) - payWord a.pkt 1) - ((a.stamp : Int) - payWord a.pkt 3)).tdiv 2 →
      (s.talign.out ≠ some (payWord a.pkt 0 % 2 ^ 32) ∨ a.stamp > payWord a.pkt 1 + 100000 →
        Completes (.talignResponseReceive 0) s (fun s' =>
          s'.rd .tlyAlignDiscard = (s.rd .tlyAlignDiscard + 1) % 2 ^ 64 ∧ s'.talign = s.talign ∧ s'.tally = s.tally)) ∧
      (s.talign.out = some (payWord a.pkt 0 % 2 ^ 32) → a.stamp ≤ payWord a.pkt 1 + 100000 →
        Completes (.talignResponseReceive 0) s (fun s' =>
          s'.rd .tlyOffset = (off % 2 ^ 64).toNat ∧ s'.talign.out = none ∧ s'.talign.done = true ∧ s'.talign.holdover = false ∧
          (s.talign.done = false → off > 4000 → s'.tally = (s.tally + off.toNat) % 2 ^ 64 ∧ s'.talign.slew = 0) ∧
          (s.talign.done = false → off < -4000 → s'.tally = s.tally ∧ s'.rd .tlyStatusCoarseSlew = 1) ∧
          (-4000 ≤ off → off ≤ 4000 → s'.tally = s.tally ∧ s'.talign.slew = off ∧ s'.rd .tlyStatusCoarseSlew = 0) ∧
          (s.talign.done = true → s'.tally = s.tally) ∧
          (s.talign.done = true ∨ off ≤ 4000 → s'.talign.slew = off) ∧
          s.Only s' [.regs, .talign, .tally, .dieNet, .ic, .adit, .pwr, .shadows, .snapCopied])))) ∧
  (∀ s : State, s.rd .tlyCtrlRole = 1 →
    (s.devValid = true → s.talign.holdover = false → s.tally ≥ s.talign.lastAt + 1000000 → Completes .holdoverEntry s (fun s' =>
      s'.rd .tlyStatusXdevLocked = 0 ∧ s'.rd .tlyHoldover = (s.rd .tlyHoldover + 1) % 2 ^ 64 ∧ s'.talign.holdover = true ∧ s'.talign.slew = 0 ∧
      s.FieldsBut s' ([(Field.tlyStatusXdevLocked, 0, 0), (Field.tlyStatusCoarseSlew, 0, 0), (Field.tlyHoldover, 0, 0)] ++ eventFields) ∧
      s.Only s' [.regs, .talign, .ic, .adit])) ∧
    (s.tally < s.talign.lastAt + 1000000 → Completes .holdoverEntry s (fun s' => s' = s)) ∧
    (s.rd .tlyStatusXdevLocked = 0 → s.talign.inSince ≠ 0 → ∀ since, since = (if s.talign.settle = 0 then s.talign.inSince else s.talign.settle) →
      (s.tally + 1 ≥ since + 10000000 → Completes .xdevLock s (fun s' =>
        s'.rd .tlyStatusXdevLocked = 1 ∧ s'.talign = { s.talign with settle := 0 } ∧
        s.FieldsBut s' ((.tlyStatusXdevLocked, 0, 0) :: eventFields) ∧ s.Only s' [.regs, .ic, .adit, .talign])) ∧
      (s.tally + 1 < since + 10000000 → Completes .xdevLock s (fun s' => s' = s))) ∧
    (s.talign.inSince = 0 → Completes .xdevLock s (fun s' => s' = s)))

/-- O40. Replicas and snapshots (R42, R45, R46, R222). A woken power block's tiles that are not gated and have no valid replica get one, count TLY_RESYNC
each, and their banks begin to clear. An arm succeeds when nothing is pending and TLY_SNAP_AT lies at least 2 µs ahead; TLY_SNAP_BUSY goes before
TLY_SNAP_LATE. A snapshot that is due, and not copied yet at its instant, copies every powered block's counters into their shadows and leaves the shadows of gated
blocks; then TLY_SNAP_SEQ moves on and SNAP_PENDING clears. -/
def Obligations.ReplicasAndSnapshots : Prop :=
  (∀ (k : PbId) (s : State), s.devValid = true → Completes (.replicaResync k) s (fun s' =>
    (∀ t, t < 256 → tilePb t = k → (s.tile t).gated = false → (s'.tile t).tallyValid = true) ∧
    (∀ t, t < 256 → tilePb t = k → (s.tile t).gated = false → (s.tile t).tallyValid = false → ∀ b, s'.clearing t b = true) ∧
    (∀ t, tilePb t ≠ k ∨ t ≥ 256 ∨ (s.tile t).gated = true ∨ (s.tile t).tallyValid = true → s'.tile t = s.tile t) ∧
    s'.rd .tlyResync % 2 ^ 64 =
      (s.rd .tlyResync + ((pbTiles k).filter (fun t => !(s.tile t).gated && !(s.tile t).tallyValid)).length) % 2 ^ 64 ∧
    s.Only s' [.regs, .tiles])) ∧
  (∀ (v : Nat) (s : State), v % 2 = 1 →
    (s.rd .tlyStatusSnapPending ≠ 0 → Runs (.tlySnapArmWrite v) s [.regs] [(.tlySnapBusy, 0, 0)] (fun s' =>
      s'.rd .tlySnapBusy = (s.rd .tlySnapBusy + 1) % 2 ^ 64)) ∧
    (s.rd .tlyStatusSnapPending = 0 → s.rd .tlySnapAt < s.tally + 2000 → Runs (.tlySnapArmWrite v) s [.regs] [(.tlySnapLate, 0, 0)] (fun s' =>
      s'.rd .tlySnapLate = (s.rd .tlySnapLate + 1) % 2 ^ 64)) ∧
    (s.rd .tlyStatusSnapPending = 0 → s.rd .tlySnapAt ≥ s.tally + 2000 →
      Runs (.tlySnapArmWrite v) s [.regs, .snapArmed] [(.tlyStatusSnapPending, 0, 0)] (fun s' =>
        s'.rd .tlyStatusSnapPending = 1 ∧ s'.snapArmed = s.rd .tlySnapAt))) ∧
  (∀ s : State, s.rd .tlyStatusSnapPending ≠ 0 →
    (s.tally < s.snapArmed → Completes .tallySnapshot s (fun s' => s' = s)) ∧
    (s.tally ≥ s.snapArmed → ssorted s.regs = true → Completes .tallySnapshot s (fun s' =>
      s'.rd .tlyStatusSnapPending = 0 ∧ s'.rd .tlySnapSeq = (s.rd .tlySnapSeq + 1) % 2 ^ 32 ∧ s'.rd .tlySnapTakenAt = s.snapArmed % 2 ^ 64 ∧
      (s.snapCopied = true → s'.shadows = s.shadows) ∧
      (s.snapCopied = false → ∀ f i j, f.info.counter = true → i < 65536 → j < 4096 →
        sget 0 (fkey f i j) s'.shadows = if s.unpowered f i then sget 0 (fkey f i j) s.shadows else s.rd f i j) ∧
      (∀ f i, s.unpowered f i = true ↔ (f.info.space = .tile ∧ (s.tile i).gated = true) ∨ (f.info.space = .queue ∧ (s.tile (i / 128)).gated = true)) ∧
      s'.snapCopied = false ∧ s.Only s' [.regs, .shadows, .ic, .adit, .snapCopied])))

/-! ### Fabric ports -/

/-- O41. What a flit slot of a port carries (R253 to R259, R264, R271). Every 256th slot carries FRAMING, which is not counted; a waiting control flit goes
next, with the next SEQ, KIND 3 and no credits in its welt; then a resend; with nothing to send, an idle flit with the next SEQ; a queued packet whose VC
has credits for it starts, its first flit carries the packet's bytes and takes a credit. A port in INIT sends INIT flits. A port that is absent, or
neither in UP nor INIT, sends nothing. -/
def Obligations.FlitsSent : Prop :=
  ∀ (p : PortId) (s : State),
    let low (kind vc cvc cred seq : Nat) : Nat := weltLow seq (s.port p).got kind vc cvc cred
    let ctrlOut (c : Ctrl) (o : Option OutFlit) : Prop :=
      ∃ b : List Byte, b.length = 248 ∧ o = some (.ctrl c b (welt b (low 3 0 0 0 ((s.port p).seq + 1)))) ∧
        (∀ q, c = .retryReq q → b = padTo 248 (fieldBytes [(1, 1), (0, 1), (q % 1024, 2)])) ∧ (c = .framing → b.head? = some 0#8) ∧
        (∀ i, c = .init i → b.head? = some 2#8) ∧ (∀ r, c = .downNotice r → b.head? = some 3#8)
    (s.variant.ports ≤ p.val ∨ ((s.port p).mode ≠ .up ∧ (s.port p).mode ≠ .init) → Completes (.flitTransmit p) s (fun s' => s' = s)) ∧
    (p.val < s.variant.ports → (s.port p).mode = .up ∨ (s.port p).mode = .init →
      ((s.port p).slot = 255 → Completes (.flitTransmit p) s (fun s' =>
        ctrlOut .framing (s'.port p).out ∧ s'.port p = { s.port p with slot := 0, out := (s'.port p).out } ∧
        (∀ q, q ≠ p.val → s'.port q = s.port q) ∧ s.Only s' [.ports, .act, .free])) ∧
      (∀ c rest, (s.port p).slot < 255 → (s.port p).ctrl = c :: rest → c ≠ .framing → Completes (.flitTransmit p) s (fun s' =>
        ctrlOut c (s'.port p).out ∧ s'.port p = { s.port p with slot := (s.port p).slot + 1, ctrl := rest, out := (s'.port p).out } ∧
        s'.rd .portCtrlFlits p = (s.rd .portCtrlFlits p + 1) % 2 ^ 64 ∧
        (∀ q, c = .retryReq q → s'.rd .portRxRetryReq p = (s.rd .portRxRetryReq p + 1) % 2 ^ 64) ∧
        s.FieldsBut s' [(.portCtrlFlits, p, 0), (.portRxRetryReq, p, 0)] ∧ s.Only s' [.regs, .ports, .act, .free]))) ∧
    (p.val < s.variant.ports → (s.port p).mode = .init → (s.port p).slot < 255 → (s.port p).ctrl = [] → (s.port p).peer = none →
      Completes (.flitTransmit p) s (fun s' =>
        ctrlOut (.init { dev := if s.rd .fabDevIdValid ≠ 0 then s.rd .fabDevIdId else 0xFFFFF, port := p.val, half := decide (s.rd .portCtrlAllowHalf p ≠ 0),
                         bufs := (List.range 8).map (fun v => s.rd .portRxbufVc p v), seen := false }) (s'.port p).out ∧
        s'.port p = { s.port p with slot := (s.port p).slot + 1, out := (s'.port p).out } ∧
        s'.rd .portCtrlFlits p = (s.rd .portCtrlFlits p + 1) % 2 ^ 64 ∧ s.FieldsBut s' [(.portCtrlFlits, p, 0)] ∧ s.Only s' [.regs, .ports, .act, .free])) ∧
    (p.val < s.variant.ports → (s.port p).mode = .up → (s.port p).slot < 255 → (s.port p).ctrl = [] →
      (∀ i f, (s.port p).resend = some i → (s.port p).sent[i]? = some f →
        Completes (.flitTransmit p) s (fun s' =>
          (s'.port p).out = some (.seq f (welt f.body (low f.kind (if f.kind = 0 then 0 else f.vc) f.cvc f.cred f.seq))) ∧
          (s'.port p).sent = (s.port p).sent ∧ (s'.port p).resend = (if i + 1 < (s.port p).sent.length then some (i + 1) else none) ∧
          s'.rd .portTxRetryFlits p = (s.rd .portTxRetryFlits p + 1) % 2 ^ 64 ∧ s.FieldsBut s' [(.portTxRetryFlits, p, 0)] ∧
          s.Only s' [.regs, .ports, .act])) ∧
      ((s.port p).resend = none → (s.port p).halted = false → (s.port p).sent.length < 768 → (s.port p).cur = none →
        ((s.port p).txq = [] → Completes (.flitTransmit p) s (fun s' =>
          (∃ f, (s'.port p).sent = (s.port p).sent ++ [f] ∧ f.kind = 0 ∧ f.body = List.replicate 248 0#8 ∧ f.seq = ((s.port p).seq + 1) % 1024 ∧
            (s'.port p).out = some (.seq f (welt f.body (low 0 0 f.cvc f.cred f.seq)))) ∧
          (s'.port p).seq = ((s.port p).seq + 1) % 1024 ∧
          s'.rd .portTxIdleFlits p = (s.rd .portTxIdleFlits p + 1) % 2 ^ 64 ∧ s.FieldsBut s' [(.portTxIdleFlits, p, 0)] ∧
          s.Only s' [.regs, .ports, .act])) ∧
        (∀ q : TxPkt, (s.port p).txq = [q] → q.vc < 8 → q.pkt.len ≤ 8192 → s.txEligible p q = true → ∀ bs : List Byte,
          bs = packetHeader { q.pkt with vc := q.vc } ++ (stampTalign q.pkt s.tally).payload → Completes (.flitTransmit p) s (fun s' =>
            (∃ f, (s'.port p).sent = (s.port p).sent ++ [f] ∧ f.kind = 1 ∧ f.vc = q.vc ∧ f.seq = ((s.port p).seq + 1) % 1024 ∧
              f.body = padTo 248 (bs.take 248) ∧ f.last = decide (bs.length ≤ 248) ∧
              (s'.port p).out = some (.seq f (welt f.body (low 1 q.vc f.cvc f.cred f.seq)))) ∧
            (s'.port p).txq = [] ∧ (s'.port p).creditOf q.vc = (s.port p).creditOf q.vc - 1 ∧
            s'.rd .portTxFlits p = (s.rd .portTxFlits p + 1) % 2 ^ 64 ∧ s'.rd .vcTxFlits p q.vc = (s.rd .vcTxFlits p q.vc + 1) % 2 ^ 64 ∧
            s.FieldsBut s' [(.portTxFlits, p, 0), (.vcTxFlits, p, q.vc), (.portTxFrames, p, 0), (.vcTxPkts, p, q.vc)] ∧
            s.Only s' [.regs, .ports, .act]))))

/-- O42. What a port does with a flit it receives (R255, R257 to R260). A flit whose CRC is wrong, or that lies in an uncorrectable codeword, is discarded and
counted, and the first one after an accepted flit has RETRY_REQ sent with the SEQ expected; so is one out of sequence. A good one in sequence moves the
expected SEQ on and returns its credits; the flits of a packet join, and the last makes it whole. A good sequenced flit releases the flits that its ACK
names. The codewords of a flit are counted from ALIGNING on, a CRC failure from INIT on. A port in another mode takes none. -/
def Obligations.FlitsReceived : Prop :=
  ∀ (p : PortId) (f : Flit) (s : State), f.body.length = 248 →
    let good : Prop := f.fec.bad = false ∧ f.fec.uncorrectable = 0 ∧ welt f.body (f.welt % 2 ^ 32) = f.welt
    let kind := bitsOf f.welt 11 10
    let inSeq : Prop := bitsOf f.welt 31 22 = ((s.port p).got + 1) % 1024
    ((s.port p).mode ≠ .up → (s.port p).mode ≠ .init → (s.port p).mode ≠ .aligning → Completes (.flitReceive p f) s (fun s' => s' = s)) ∧
    ((s.port p).mode = .init ∨ (s.port p).mode = .aligning → Completes (.flitReceive p f) s (fun s' => s'.rd .portFecCw p = (s.rd .portFecCw p + f.fec.cw) % 2 ^ 64 ∧
      s'.rd .portFecCorrCw p = (s.rd .portFecCorrCw p + f.fec.corrected) % 2 ^ 64 ∧
      s'.rd .portFecUncorrCw p = (s.rd .portFecUncorrCw p + f.fec.uncorrectable) % 2 ^ 64 ∧
      s'.rd .portRxCrcErr p = (if (s.port p).mode = .aligning then s.rd .portRxCrcErr p else
        if f.fec.bad = false ∧ f.fec.uncorrectable = 0 ∧ welt f.body (f.welt % 2 ^ 32) = f.welt then s.rd .portRxCrcErr p else (s.rd .portRxCrcErr p + 1) % 2 ^ 64) ∧
      s.Only s' [.regs, .ras])) ∧
    ((s.port p).mode = .up →
      (¬ good → Completes (.flitReceive p f) s (fun s' =>
        s'.port p = { s.port p with reqSent := true, ctrl := if (s.port p).reqSent then (s.port p).ctrl else
          (s.port p).ctrl ++ [.retryReq (((s.port p).got + 1) % 1024)] } ∧
        s'.rd .portRxCrcErr p = (s.rd .portRxCrcErr p + 1) % 2 ^ 64 ∧ s'.rd .portFecUncorrCw p = (s.rd .portFecUncorrCw p + f.fec.uncorrectable) % 2 ^ 64 ∧
        (∀ q, q ≠ p.val → s'.port q = s.port q) ∧ s.Only s' [.regs, .ports, .ras])) ∧
      (good → kind ≠ 3 → (s.port p).sent = [] →
        (¬ inSeq → Completes (.flitReceive p f) s (fun s' =>
          s'.port p = { s.port p with reqSent := true, crcAt := s.tally, ctrl := if (s.port p).reqSent then (s.port p).ctrl else
            (s.port p).ctrl ++ [.retryReq (((s.port p).got + 1) % 1024)] } ∧
          s'.rd .portRxSeqErr p = (s.rd .portRxSeqErr p + 1) % 2 ^ 64 ∧ s.Only s' [.regs, .ports, .ras])) ∧
        (inSeq → (s.port p).opens = [] → (s.port p).halted = false → (s.port p).tail = none →
          (kind = 0 → Completes (.flitReceive p f) s (fun s' =>
            (s'.port p).got = ((s.port p).got + 1) % 1024 ∧ (s'.port p).reqSent = false ∧
            (s'.port p).creditOf (bitsOf f.welt 6 4) = (s.port p).creditOf (bitsOf f.welt 6 4) + bitsOf f.welt 3 0 ∧
            (s'.port p).rxq = (s.port p).rxq ∧ (∀ q, q ≠ p.val → s'.port q = s.port q) ∧ s.Only s' [.regs, .ports, .act, .ras])) ∧
          (kind = 1 → bitsOf (leNat ((f.body.drop 8).take 8)) 27 14 ≤ 216 → Completes (.flitReceive p f) s (fun s' =>
            (s'.port p).rxq = (s.port p).rxq ++ [⟨packetOfBytes f.body f.poison, bitsOf f.welt 9 7, 1, s.tally⟩] ∧ (s'.port p).opens = [] ∧ (s'.port p).tail = some (bitsOf f.welt 9 7) ∧
            (s'.port p).got = ((s.port p).got + 1) % 1024 ∧
            (s'.port p).creditOf (bitsOf f.welt 6 4) = (s.port p).creditOf (bitsOf f.welt 6 4) + bitsOf f.welt 3 0 ∧
            s'.rd .portRxFlits p = (s.rd .portRxFlits p + 1) % 2 ^ 64 ∧ s'.rd .portRxFrames p = (s.rd .portRxFrames p + 1) % 2 ^ 64 ∧
            s.Only s' [.regs, .ports, .act, .ras])))) ∧
      (∀ i, good → kind ≠ 3 → (s.port p).sent.findIdx? (fun g => g.seq == bitsOf f.welt 21 12) = some i → Completes (.flitReceive p f) s (fun s' =>
        (s'.port p).sent = (s.port p).sent.drop (i + 1) ∧ (s'.port p).ackAt = s.tally ∧ (s'.port p).tries = 0)))

/-- O43. Retry, link down and its causes (R259, R261, R262). RETRY_REQ resends from the named flit and REPLAY_NS without progress from the oldest, until the
LIMIT-th resend in a row takes the port down. A link that goes down leaves UP for DOWN, discards and counts the packets it held, records the first reason
while VALID is 0, counts, reports an error of class 2 and tells its peer. DOWN_NOTICE is reason 5, a lost lane in use or a lost alignment 2, 2 µs
without a good flit 4; where the replay limit is reached in the same instant as reason 4 or 5, the reason is 3. -/
def Obligations.RetryAndLinkDown : Prop :=
  ∀ (p : PortId) (s : State), (s.port p).mode = .up →
    let down (reason : Nat) (s' : State) : Prop :=
      (s'.port p).mode = .down ∧ (s'.port p).since = s.tally ∧ (s'.port p).seq = 0 ∧ (s'.port p).got = 0 ∧ (s'.port p).txq = [] ∧ (s'.port p).cur = none ∧ (s'.port p).sent = [] ∧
      (s'.port p).credit = [] ∧ s'.rd .portLinkDown p = (s.rd .portLinkDown p + 1) % 2 ^ 64 ∧
      s'.rd .portDropLinkDown p = (s.rd .portDropLinkDown p + ((s.port p).txq.length + (if (s.port p).cur.isSome then 1 else 0) +
        ((s.port p).sent.filter (fun f => f.last)).length)) % 2 ^ 64 ∧
      (s.rd .portDownInfoValid p = 0 → s'.rd .portDownInfoValid p = 1 ∧ s'.rd .portDownInfoReason p = reason ∧ s'.rd .portDownAt p = s.tally % 2 ^ 64) ∧
      (s.rd .portDownInfoValid p ≠ 0 → s'.rd .portDownInfoReason p = s.rd .portDownInfoReason p) ∧
      (∃ b w, (s'.port p).out = some (.ctrl (.downNotice reason) b w)) ∧
      s'.ras = (if s.on .icSrcCfgEn 0 (320 + p) then s.ras ++ [⟨2, .port, p.val, reason, s.rd .portGen p, s.tally⟩] else s.ras) ∧
      (∀ q, q ≠ p.val → s'.port q = s.port q) ∧ s.Only s' [.regs, .ports, .ras, .ic, .adit, .act, .free]
    let late (reason : Nat) : Nat := if (s.port p).sent ≠ [] ∧ s.tally ≥ (s.port p).ackAt + s.rd .portRetryCfgReplayNs p ∧
      (s.port p).tries + 1 ≥ s.rd .portRetryCfgLimit p then 3 else reason
    (s.port p).resetAt = none → (s.port p).record = [] → (s.port p).late = [] →
    (∀ seq i, (s.port p).sent.findIdx? (fun f => f.seq == seq % 1024) = some i → (s.port p).resend = none →
      (∀ ack, (s.port p).sent.findIdx? (fun f => f.seq == ack) = none →
        ((s.port p).tries + 1 < s.rd .portRetryCfgLimit p → Completes (.retryReqReceive p seq ack) s (fun s' =>
          s'.port p = { s.port p with tries := (s.port p).tries + 1, resend := some i, crcAt := s.tally } ∧
          s'.rd .portTxRetry p = (s.rd .portTxRetry p + 1) % 2 ^ 64 ∧ s.FieldsBut s' [(.portTxRetry, p, 0)] ∧ s.Only s' [.regs, .ports])) ∧
        ((s.port p).tries + 1 ≥ s.rd .portRetryCfgLimit p → Completes (.retryReqReceive p seq ack) s (down 3)))) ∧
    ((s.port p).sent ≠ [] → s.tally ≥ (s.port p).ackAt + s.rd .portRetryCfgReplayNs p → (s.port p).tries + 1 < s.rd .portRetryCfgLimit p →
      Completes (.replayTimeout p) s (fun s' =>
        s'.port p = { s.port p with tries := (s.port p).tries + 1, resend := some 0, ackAt := s.tally } ∧
        s'.rd .portTxReplayTimeout p = (s.rd .portTxReplayTimeout p + 1) % 2 ^ 64 ∧ s.FieldsBut s' [(.portTxReplayTimeout, p, 0)] ∧
        s.Only s' [.regs, .ports])) ∧
    ((s.port p).sent ≠ [] → s.tally ≥ (s.port p).ackAt + s.rd .portRetryCfgReplayNs p → (s.port p).tries + 1 ≥ s.rd .portRetryCfgLimit p →
      Completes (.replayTimeout p) s (down 3)) ∧
    (s.tally < (s.port p).ackAt + s.rd .portRetryCfgReplayNs p → Completes (.replayTimeout p) s (fun s' => s' = s)) ∧
    Completes (.downNoticeReceive p) s (down (late 5)) ∧
    (∀ lanes lost, lost = true ∨ (s.port p).lanesUsed &&& lanes ≠ 0 → Completes (.laneLockLoss p ⟨lanes, lost⟩) s (down 2)) ∧
    (∀ lanes, (s.port p).lanesUsed &&& lanes = 0 → Completes (.laneLockLoss p ⟨lanes, false⟩) s (fun s' =>
      s'.port p = { s.port p with lanes := (s.port p).lanes - ((s.port p).lanes &&& lanes) } ∧ s.Only s' [.ports])) ∧
    (s.tally ≥ (s.port p).crcAt + 2000 → Completes (.crcSilenceTimeout p) s (down (late 4))) ∧
    (s.tally < (s.port p).crcAt + 2000 → Completes (.crcSilenceTimeout p) s (fun s' => s' = s))

/-- O44. Bring-up (R252, R264 to R267). EN = 1 moves DISABLED to TRAINING, or to LOOPBACK when LOOPBACK names one, or is refused with reason 7 when the receive
buffers break R267; training gives way to ALIGNING, or to DOWN with reason 6 at its timeout; alignment to INIT on all lanes, or on one half with ALLOW_HALF,
and to nothing otherwise; an INIT flit shows the peer's device and port, and brings the port UP once each end has said that it has seen the other's
and, on one half, the peer's INIT allows it, with credits at the peer's buffers. Clearing EN takes a port that is coming up to DISABLED. RETRAIN starts
a port that is not DISABLED again, as 1 ms in DOWN does with AUTO_RETRAIN. A write to an absent port is ignored and counted. -/
def Obligations.PortBringUp : Prop :=
  (∀ (p : PortId) (v : Nat) (s : State), s.variant.ports ≤ p.val →
    Runs (.portEnableWrite p v) s [.regs] [(.hfSelAbsentWr, 0, 0)] (fun s' => s'.rd .hfSelAbsentWr = (s.rd .hfSelAbsentWr + 1) % 2 ^ 64) ∧
    Runs (.portRetrainWrite p) s [.regs] [(.hfSelAbsentWr, 0, 0)] (fun s' => s'.rd .hfSelAbsentWr = (s.rd .hfSelAbsentWr + 1) % 2 ^ 64)) ∧
  ∀ (p : PortId) (s : State), p.val < s.variant.ports → s.mod.scanHold = false → (s.port p).resetAt = none →
    let moved (m : PortMode) (s' : State) : Prop :=
      (s'.port p).mode = m ∧ (s'.port p).since = s.tally ∧ (∀ q, q ≠ p.val → s'.port q = s.port q)
    ((s.port p).mode = .disabled → ∀ v : Nat, v.testBit 31 = true →
      (s.rxbufOk p = true →
        (v / 2 ^ 24 % 4 ≠ 1 → v / 2 ^ 24 % 4 ≠ 2 → Completes (.portEnableWrite p v) s (fun s' =>
          moved .training s' ∧ s'.rd .portCtrlEn p = 1 ∧ s'.rd .portCtrlAllowHalf p = v / 2 ^ 28 % 2 ∧ s'.rd .portCtrlMedia p = v / 2 ^ 26 % 4 ∧
          s.Only s' [.regs, .ports])) ∧
        (v / 2 ^ 24 % 4 = 1 ∨ v / 2 ^ 24 % 4 = 2 → v.testBit 30 = false → Completes (.portEnableWrite p v) s (fun s' =>
          moved .loopback s' ∧ s'.rd .portCtrlEn p = 1 ∧ s.Only s' [.regs, .ports]))) ∧
      (s.rxbufOk p = false → Completes (.portEnableWrite p v) s (fun s' =>
        s'.port p = s.port p ∧ s'.rd .portCtrlEn p = 0 ∧ (s.rd .portDownInfoValid p = 0 → s'.rd .portDownInfoReason p = 7) ∧ s.Only s' [.regs]))) ∧
    (∀ v : Nat, v.testBit 31 = false → (s.port p).mode = .training ∨ (s.port p).mode = .aligning ∨ (s.port p).mode = .init →
      Completes (.portEnableWrite p v) s (fun s' => moved .disabled s' ∧ s'.rd .portCtrlEn p = 0 ∧ s.Only s' [.regs, .ports])) ∧
    ((s.port p).mode ≠ .disabled → Completes (.portRetrainWrite p) s (fun s' => moved .training s' ∧
      ((s.port p).mode = .up → s'.rd .portLinkDown p = (s.rd .portLinkDown p + 1) % 2 ^ 64 ∧
        (s.rd .portDownInfoValid p = 0 → s'.rd .portDownInfoReason p = 1)) ∧
      ((s.port p).mode ≠ .up → s.Only s' [.regs, .ports]))) ∧
    ((s.port p).mode = .disabled → Completes (.portRetrainWrite p) s (fun s' => s' = s)) ∧
    ((s.port p).mode = .down → s.rd .portCtrlAutoRetrain p ≠ 0 →
      (s.tally ≥ (s.port p).since + 1000000 → Completes (.autoRetrainTimer p) s (fun s' => moved .training s' ∧ s.Only s' [.ports])) ∧
      (s.tally < (s.port p).since + 1000000 → Completes (.autoRetrainTimer p) s (fun s' => s' = s))) ∧
    ((s.port p).mode = .training →
      Completes (.trainingComplete p) s (fun s' => s'.port p = { s.port p with mode := .aligning, since := s.tally } ∧ s.Only s' [.ports]) ∧
      (s.tally ≥ (s.port p).since + s.rd .portTrainCfgTimeoutMs p * 1000000 → Completes (.trainingTimeout p) s (fun s' =>
        moved .down s' ∧ s'.rd .portLinkDown p = (s.rd .portLinkDown p + 1) % 2 ^ 64 ∧ (s.rd .portDownInfoValid p = 0 → s'.rd .portDownInfoReason p = 6) ∧
        s.Only s' [.regs, .ports, .ras])) ∧
      (s.tally < (s.port p).since + s.rd .portTrainCfgTimeoutMs p * 1000000 → Completes (.trainingTimeout p) s (fun s' => s' = s))) ∧
    ((s.port p).mode = .aligning → ∀ lanes peerLanes both : Nat, both = lanes &&& peerLanes → Completes (.alignmentComplete p lanes peerLanes) s (fun s' =>
      ((s'.port p).mode = .init ↔ ((both &&& 0xFF = 0xFF ∧ both &&& 0xFF00 = 0xFF00) ∨
        (s.rd .portCtrlAllowHalf p ≠ 0 ∧ (both &&& 0xFF = 0xFF ∨ both &&& 0xFF00 = 0xFF00)))) ∧
      ((s'.port p).mode = .init → ((s'.port p).half = true ↔ ¬ (both &&& 0xFF = 0xFF ∧ both &&& 0xFF00 = 0xFF00))) ∧
      ((s'.port p).mode ≠ .init → (s'.port p).mode = .aligning) ∧ s.Only s' [.ports])) ∧
    ((s.port p).mode = .init → ∀ i : InitInfo, Completes (.initFlitReceive p i) s (fun s' =>
      s'.rd .portPeerPeerDevice p = i.dev % 2 ^ 20 ∧ s'.rd .portPeerPeerPort p = i.port % 2 ^ Field.portPeerPeerPort.info.width ∧
      s'.rd .portPeerValid p = 1 ∧
      (if ((s.port p).acked = true ∨ i.seen = true) ∧ (s.port p).told = true ∧ ((s.port p).half = false ∨ i.half = true)
        then moved .up s' ∧ (s'.port p).seq = 0 ∧ (s'.port p).got = 0 ∧ (s'.port p).sent = [] ∧
          ∀ v, v < 8 → i.bufs.length = 8 → (s'.port p).creditOf v = i.bufs.getD v 0
        else s'.port p = { s.port p with peer := some i, acked := (s.port p).acked || i.seen }) ∧
      s.FieldsBut s' ([(Field.portPeerPeerDevice, p.val, 0), (Field.portPeerPeerPort, p.val, 0), (Field.portPeerValid, p.val, 0)] ++ eventFields) ∧
      s.Only s' [.regs, .ports, .ic, .adit]))

/-! ### Routing and collectives -/

/-- O45. Injection, reception from ports, routing and the rings: every PACKET_INJECT and PACKET_RECEIVE_PORT completes (R24, R31, R32, R275 to R277, R279 to
R282, R284, R285, R287, R325, R421). A waiting packet goes when no older one of its source waits on its VC, the SEAM packets of a tile's collectives in
turns, and none from a stopped tile; else nothing changes. It is stamped with the epoch in force, HOPS 0 and the instant; one for this device, or for this
die, is delivered here, one for another device follows the routing table, and each drop counts once under the first case that holds. It leaves by the
rings on R282's path, or at once where that path meets no ring stop. A read of a hoist takes a fresh TAG while its lines keep those outstanding within
1,024. The oldest packet that a port accepted whole is dropped for its header, delivered here, or forwarded with HOPS one higher; it waits in a stop, and
while its port, in UP, may yet bring more of its flits (the model's choice, log 94). A ring link grants a packet that waits at it, is the oldest of its
channel there, and has room ahead, one that travels on before one that enters the ring; of one standing, a requester passed over by 15 grants goes before
any that is not. -/
def Obligations.PacketsRouted : Prop :=
  let sent (s s' : State) (pk : Packet) (a b : RingEnd) (out arr : Option Nat) (stamp : Nat) : Prop :=
    ∀ x l, ringPath a b = x :: l → s'.dieNet = s.dieNet ∧ s'.ports = s.ports ∧
      s'.ring = s.ring ++ [{ pkt := pk, path := x :: l ++ [exitPlace b], place := entryPlace a x, last := exitPlace a, out := out, arr := arr, stamp := stamp }]
  let here (s s' : State) (pk : Packet) (a : RingEnd) (arr : Option Nat) (stamp : Nat) : Prop :=
    sent s s' pk a (s.ringTo pk) none arr stamp ∧
    (ringPath a (s.ringTo pk) = [] → s'.ring = s.ring ∧ s'.dieNet = s.dieNet ++ [{ pkt := pk, port := arr, stamp := stamp }])
  (∀ (n : Nat) (s : State), s.outbox.length ≤ n → Completes (.packetInject (.queued n)) s (fun s' => s' = s)) ∧
  (∀ (n : Nat) (p : Packet) (s : State), s.outbox[n]? = some p →
    let after (q : Packet) : Nat := (seamGid q + 65535 - (s.tile p.srcTile).seamTurn) % 65536
    let may : Prop := if p.ty = 6
      then (∀ m q, m < n → s.outbox[m]? = some q → q.ty = 6 → packetFrom q = packetFrom p → seamGid q = seamGid p → q.vc ≠ p.vc) ∧
        (∀ q ∈ s.outbox, q.ty = 6 → packetFrom q = packetFrom p → after p ≤ after q)
      else ∀ m q, m < n → s.outbox[m]? = some q → q.ty ≠ 6 → packetFrom q = packetFrom p → q.vc ≠ p.vc
    let held : Prop := packetFrom p = .tile p.srcTile ∧ (s.tile p.srcTile).stopped = true
    (¬ may ∨ held → Completes (.packetInject (.queued n)) s (fun s' => s' = s)) ∧
    (may → ¬ held →
    let pk := { p with epoch := s.rd .fabEpochInj, hops := 0, injAt := s.tally % 2 ^ 32, srcDev := s.rd .fabDevIdId }
    let s1 := { (if p.ty = 6 then s.onTile p.srcTile (fun x => { x with seamTurn := seamGid p }) else s) with outbox := s.outbox.eraseIdx n }
    let toPort (q : Nat) : Prop :=
      ((s.port q).mode = .up → Completes (.packetInject (.queued n)) s (fun s' =>
        sent s1 s' pk (packetFrom pk) (.ioDie (q / 2)) (some q) none s.tally ∧
        (ringPath (packetFrom pk) (.ioDie (q / 2)) = [] → s'.ring = s.ring ∧
          (∃ v, (s'.port q).txq = (s.port q).txq ++ [{ pkt := pk, vc := v, arrival := none }] ∧ (p.vc ≥ 2 → v = p.vc)) ∧
          (∀ r, r ≠ q → s'.port r = s.port r)) ∧
        s'.rd .fabInjPkts = (s.rd .fabInjPkts + 1) % 2 ^ 64 ∧ s.FieldsBut s' [(.fabInjPkts, 0, 0)] ∧ s1.Only s' [.regs, .ring, .ports])) ∧
      ((s.port q).mode ≠ .up → Completes (.packetInject (.queued n)) s (fun s' =>
        s'.rd .portDropPortDown q = (s.rd .portDropPortDown q + 1) % 2 ^ 64 ∧ s1.Only s' [.regs]))
    let dropped (f : Field) : Prop := Completes (.packetInject (.queued n)) s (fun s' =>
      s'.rd f = (s.rd f + 1) % 2 ^ 64 ∧ s.FieldsBut s' [(f, 0, 0)] ∧ s1.Only s' [.regs])
    (p.onDie = true ∨ (p.dstDev ≠ 0xFFFFF ∧ s.rd .fabDevIdValid ≠ 0 ∧ p.dstDev = s.rd .fabDevIdId) → Completes (.packetInject (.queued n)) s (fun s' =>
      here s1 s' pk (packetFrom pk) none s.tally ∧ s1.Only s' [.ring, .dieNet])) ∧
    (p.onDie = false → p.dstDev = 0xFFFFF →
      (p.via = none → dropped .fabDropNoRoute) ∧
      (∀ q, p.via = some q → (q ≥ s.variant.ports → dropped .fabDropAbsentPort) ∧ (q < s.variant.ports → toPort q))) ∧
    (p.onDie = false → p.dstDev ≠ 0xFFFFF →
      (s.rd .fabDevIdValid = 0 → dropped .fabDropUnassigned) ∧
      (s.rd .fabDevIdValid ≠ 0 → p.dstDev ≠ s.rd .fabDevIdId →
        (s.route p.dstDev (s.rd .fabEpochInj) = none → dropped .fabDropNoRoute) ∧
        (∀ q, s.route p.dstDev (s.rd .fabEpochInj) = some q →
          (q ≥ s.variant.ports → dropped .fabDropAbsentPort) ∧ (q < s.variant.ports → toPort q)))))) ∧
  (∀ (t : TileId) (addr len : Nat) (s : State),
    let lines := max 1 (linesOf addr len)
    ((s.tile t).active = true → (s.tile t).hoist.reads.length + lines ≤ 1024 → len ≤ 8192 → Completes (.packetInject (.read t addr len)) s (fun s' =>
      (s'.tile t).hoist =
        { (s.tile t).hoist with nextTag := ((s.tile t).hoist.nextTag + 1) % 2 ^ 32, reads := (s.tile t).hoist.reads ++ List.replicate lines (s.tile t).hoist.nextTag } ∧
      (∃ pk : Packet, here s s' pk (.tile t) none s.tally ∧ pk.ty = 4 ∧ pk.addr = addr ∧ pk.len = len ∧
        pk.tag = (s.tile t).hoist.nextTag ∧ pk.srcTile = t.val ∧ pk.gen = s.rd .tileGen t) ∧
      s.TilesBut s' t ∧ s.Only s' [.tiles, .ring, .dieNet])) ∧
    ((s.tile t).active = false ∨ (s.tile t).hoist.reads.length + lines > 1024 ∨ len > 8192 →
      Completes (.packetInject (.read t addr len)) s (fun s' => s' = s))) ∧
  (∀ (p : PortId) (s : State), (s.port p).rxq = [] ∨ (s.port p).halted = true → Completes (.packetReceivePort p) s (fun s' => s' = s)) ∧
  (∀ (p : PortId) (r : RxPkt) (rest : List RxPkt) (s : State), (s.port p).rxq = r :: rest → (s.port p).halted = false →
    let more : Prop := (s.port p).mode = .up ∧ rest = [] ∧ (s.port p).tail = some r.vc
    (more → Completes (.packetReceivePort p) s (fun s' => s' = s)) ∧
    (¬ more →
    let dropped (f : Field) : Prop := Completes (.packetReceivePort p) s (fun s' =>
      s'.rd f = (s.rd f + 1) % 2 ^ 64 ∧ (s'.port p).rxq = rest ∧ sget 0 r.vc (s'.port p).owed = sget 0 r.vc (s.port p).owed + r.flits ∧
      s.FieldsBut s' [(f, 0, 0)] ∧ s.Only s' [.regs, .ports])
    let bad := r.pkt.len > 8192 ∨ r.pkt.ty = 4 ∨ r.pkt.ty = 5 ∨ r.pkt.ty = 7 ∨ r.pkt.ty ≥ 0xC ∨ r.pkt.vc ≠ r.vc
    (bad → dropped .fabDropBadhdr) ∧
    (¬ bad → ¬ (8 ≤ r.pkt.ty ↔ r.vc < 2) → dropped .fabDropBadvc) ∧
    (¬ bad → (8 ≤ r.pkt.ty ↔ r.vc < 2) → r.pkt.dstDev = 0xFFFFF → Completes (.packetReceivePort p) s (fun s' =>
      (s'.port p).rxq = rest ∧ s'.rd .fabEjectPkts = (s.rd .fabEjectPkts + 1) % 2 ^ 64 ∧
      (r.pkt.ty ≥ 8 → ringPath (.ioDie (p / 2)) .headframe = [] →
        s'.dieNet = s.dieNet ++ [{ pkt := r.pkt, port := some p.val, stamp := r.stamp }]) ∧
      s.Only s' [.regs, .ports, .ring, .dieNet])) ∧
    (¬ bad → (8 ≤ r.pkt.ty ↔ r.vc < 2) → r.pkt.dstDev ≠ 0xFFFFF →
      (s.rd .fabDevIdValid = 0 → dropped .fabDropUnassigned) ∧
      (s.rd .fabDevIdValid ≠ 0 → r.pkt.dstDev = s.rd .fabDevIdId → Completes (.packetReceivePort p) s (fun s' =>
        sent { s with ports := s'.ports } s' r.pkt (.ioDie (p / 2)) (s.ringTo r.pkt) none (some p.val) r.stamp ∧
        (ringPath (.ioDie (p / 2)) (s.ringTo r.pkt) = [] → s'.ring = s.ring ∧
          s'.dieNet = s.dieNet ++ [{ pkt := r.pkt, port := some p.val, stamp := r.stamp }]) ∧
        (s'.port p).rxq = rest ∧ s'.rd .fabEjectPkts = (s.rd .fabEjectPkts + 1) % 2 ^ 64 ∧
        sget 0 r.vc (s'.port p).owed = sget 0 r.vc (s.port p).owed + r.flits ∧ s.Only s' [.regs, .ports, .ring, .dieNet])) ∧
      (s.rd .fabDevIdValid ≠ 0 → r.pkt.dstDev ≠ s.rd .fabDevIdId →
        (s.route r.pkt.dstDev r.pkt.epoch = none → dropped .fabDropNoRoute) ∧
        (∀ q, s.route r.pkt.dstDev r.pkt.epoch = some q →
          (q ≥ s.variant.ports → dropped .fabDropAbsentPort) ∧
          (q < s.variant.ports → q = p → dropped .fabDropUturn) ∧
          (q < s.variant.ports → q ≠ p → r.pkt.hops + 1 > s.rd .fabHopLimit → dropped .fabDropHops) ∧
          (q < s.variant.ports → q ≠ p → r.pkt.hops + 1 ≤ s.rd .fabHopLimit → (s.port q).mode ≠ .up → Completes (.packetReceivePort p) s (fun s' =>
            s'.rd .portDropPortDown q = (s.rd .portDropPortDown q + 1) % 2 ^ 64 ∧ (s'.port p).rxq = rest ∧
            s.FieldsBut s' [(.portDropPortDown, q, 0)] ∧ s.Only s' [.regs, .ports])) ∧
          (q < s.variant.ports → q ≠ p → r.pkt.hops + 1 ≤ s.rd .fabHopLimit → (s.port q).mode = .up → Completes (.packetReceivePort p) s (fun s' =>
            (∃ v, (s'.port q).txq = (s.port q).txq ++ [{ pkt := { r.pkt with hops := r.pkt.hops + 1 }, vc := v, arrival := some p.val }]) ∧
            (s'.port p).rxq = rest ∧ s'.rd .fabTransitPkts = (s.rd .fabTransitPkts + 1) % 2 ^ 64 ∧
            s.FieldsBut s' [(.fabTransitPkts, 0, 0)] ∧ s.Only s' [.regs, .ports]))))))) ∧
  (∀ (a b i : Nat) (arb : Nat × List (Nat × Nat)) (s : State), s.ringGrant a b = some (i, arb) →
    let ready (r : RingPkt) : Prop :=
      r ∈ s.ring ∧ r.place = a ∧ r.next = b ∧ r.movedAt ≠ s.tally + 1 ∧ s.ringEligible r = true ∧ s.ringFirst r = true
    ∃ r, s.ring[i]? = some r ∧ ready r ∧ ((∃ q, ready q ∧ q.enters = false) → r.enters = false) ∧
      ((∃ q, ready q ∧ q.enters = r.enters ∧ 15 ≤ q.passed) → ∃ q, ready q ∧ q.enters = r.enters ∧ q.last = r.last ∧ 15 ≤ q.passed))

/-- O46. The routing tables and the epoch (R284, R287 to R289, R294). A write of the entry at RT_ACC_ADDR stores its bits that are not reserved and moves the index on under
AUTOINC; into the bank in force, or one that holds packets, it is refused and counted. A read answers the entry. A write of FAB_EPOCH takes bit 0, and
a change counts in RT_FLIPS. An entry that the level does not have ignores a write and reads zero. -/
def Obligations.RoutingTables : Prop :=
  (∀ (v : Nat) (s : State), s.rd .rtAccAddrLevel < 2 → s.rd .rtAccAddrBank < 2 →
    (s.rd .fabEpochInj = s.rd .rtAccAddrBank → Completes (.rtAccDataWrite v) s (fun s' =>
      s'.rt = s.rt ∧ s'.rd .rtWrDeny = (s.rd .rtWrDeny + 1) % 2 ^ 64 ∧ s.FieldsBut s' [(.rtWrDeny, 0, 0), (.rtAccAddrIndex, 0, 0)] ∧
      s.Only s' [.regs])) ∧
    (s.rd .fabEpochInj ≠ s.rd .rtAccAddrBank → s.rtHeld (s.rd .rtAccAddrBank) = 0 →
      s.rd .rtAccAddrIndex < (if s.rd .rtAccAddrLevel = 0 then 4096 else 262144) → Completes (.rtAccDataWrite v) s (fun s' =>
        s'.rtEntry (s.rd .rtAccAddrBank) (s.rd .rtAccAddrLevel) (s.rd .rtAccAddrIndex) =
          (if s.rd .rtAccAddrLevel = 0 then v &&& 0xF80003FF else v &&& 0xF000) ∧
        (∀ b l i, l < 2 → i < 262144 → (b, l, i) ≠ (s.rd .rtAccAddrBank, s.rd .rtAccAddrLevel, s.rd .rtAccAddrIndex) →
          s'.rtEntry b l i = s.rtEntry b l i) ∧
        (s.rd .rtAccAddrAutoinc ≠ 0 →
          s'.rd .rtAccAddrIndex = (s.rd .rtAccAddrIndex + 1) % 2 ^ Field.rtAccAddrIndex.info.width) ∧
        (s.rd .rtAccAddrAutoinc = 0 → s'.rd .rtAccAddrIndex = s.rd .rtAccAddrIndex) ∧
        s.FieldsBut s' [(.rtAccAddrIndex, 0, 0)] ∧ s.Only s' [.regs, .rt])) ∧
    (s.rd .rtAccAddrIndex ≥ (if s.rd .rtAccAddrLevel = 0 then 4096 else 262144) → Completes (.rtAccDataWrite v) s (fun s' => s'.rt = s.rt))) ∧
  (∀ (a : Agent) (s : State), Runs (.rtAccDataRead a) s [.answers, .regs] [(.rtAccAddrIndex, 0, 0)] (fun s' =>
      sget 0 (agentIdx a) s'.answers = if s.rd .rtAccAddrIndex < (if s.rd .rtAccAddrLevel = 0 then 4096 else 262144)
        then s.rtEntry (s.rd .rtAccAddrBank) (s.rd .rtAccAddrLevel) (s.rd .rtAccAddrIndex) else 0)) ∧
  (∀ (v : Nat) (s : State), Runs (.fabEpochWrite v) s [.regs] [(.fabEpochInj, 0, 0), (.rtFlips, 0, 0)] (fun s' =>
    s'.rd .fabEpochInj = v % 2 ∧
    s'.rd .rtFlips = if s.rd .fabEpochInj = v % 2 then s.rd .rtFlips else (s.rd .rtFlips + 1) % 2 ^ 64))

/-- O47. A seam descriptor at its start (R297, R310, R312 to R314, R316). An illegal one completes with status 0x01: the event, COLL_OPS and COLL_ILLEGAL, while
COLL_SEQ stays; one of a group that is not VALID, or is ABORTED, with status 0x02, and COLL_SEQ moves on. A legal one of a usable group whose member entries
are cached and whose spans decode runs, at step 1 where it has a step: its signature is R316's, READY goes to every member that will send to it, an INT32 input enters unchanged, and memory changes
only within the work area. -/
def Obligations.CollectivesStart : Prop :=
  ∀ (op : Nat) (c : TileId → Instr), (op, c) ∈ ([(0, .allreduce), (1, .reduceScatter), (2, .allgather), (3, .reduce), (4, .broadcast), (5, .alltoall),
    (6, .barrier)] : List (Nat × (TileId → Instr))) →
  ∀ (t : TileId) (s : State) (q : Nat) (d : List Nat), s.SeamTakes t q d →
    let f := seamFields d
    let g := f.group
    let n := s.rd .collNM1 g + 1
    f.op = op →
    (s.seamIllegal t f = true → Completes (c t) s (fun s' =>
      (s'.tile t).core.ev0.testBit 3 = true ∧ s'.rd .collOps g = (s.rd .collOps g + 1) % 2 ^ 64 ∧
      s'.rd .collIllegal g = (s.rd .collIllegal g + 1) % 2 ^ 64 ∧ s'.rd .collSeq g = s.rd .collSeq g ∧
      s'.rd .tileQHead (qInst t (96 + q)) = qNext (s.qDepth t (96 + q)) (s.rd .tileQHead (qInst t (96 + q))) % 2 ^ 9 ∧
      s.TilesBut s' t ∧ s.Only s' [.regs, .tiles, .act, .ras])) ∧
    (s.seamIllegal t f = false → s.rd .collCfgValid g = 0 ∨ s.rd .collStatusAborted g ≠ 0 → Completes (c t) s (fun s' =>
      s'.rd .collOps g = (s.rd .collOps g + 1) % 2 ^ 64 ∧ s'.rd .collIllegal g = (s.rd .collIllegal g + 1) % 2 ^ 64 ∧
      s'.rd .collSeq g = (s.rd .collSeq g + 1) % 2 ^ 32 ∧ s.TilesBut s' t ∧ s.Only s' [.regs, .tiles, .act, .ras])) ∧
    (s.seamIllegal t f = false → s.rd .collCfgValid g ≠ 0 → s.rd .collStatusAborted g = 0 → sget [] g s.collPend = [] →
      let order := orderOf (s.rd .collOrderMode g) n
      let sig := collSig (s.rd .collCfgGid g) (s.rd .collSeq g) (d.getD 0 0) order n f.elems f.root
      let x0 : Coll := { tile := t, queue := q, desc := d, seq := s.rd .collSeq g, sig := sig, order := order, n := n, me := s.rd .collIndex g,
                         members := sget [] g s.collMap }
      (∀ m ∈ x0.peers, ∃ e ∈ x0.members, e.1 = m) → s.heldAt x0.spans = none → (∀ p ∈ x0.spans, s.okBytes p.1 p.2 = p.2) →
      Completes (c t) s (fun s' =>
        (∃ x, s'.coll g = some x ∧ x.tile = t.val ∧ x.queue = q ∧ x.desc = d ∧ x.seq = x0.seq ∧ x.sig = x0.sig ∧ x.order = x0.order ∧ x.n = n ∧
          x.me = x0.me ∧ x.step = min 1 x0.steps ∧ x.began = 0 ∧ x.committed = false ∧ x.badV = [] ∧
          (f.ope = false → f.fin = 9 → f.fc = 9 → f.op ≤ 1 → ∀ j, j < f.elems → x.val j = some (leNat (s.memBytes (f.inA + 4 * j) 4)))) ∧
        (∀ h, h ≠ g → s'.coll h = s.coll h) ∧
        (∃ l : List Packet, s'.outbox = s.outbox ++ l ∧
          l.length = (((x0.xfers.filter (fun a => a.dst == x0.me)).map (fun a => a.src)).eraseDups).length ∧
          ∀ p ∈ l, p.ty = 6 ∧ p.tag = x0.seq ∧ p.srcTile = t.val ∧ p.len = 64 ∧ leNat (p.payload.take 8) = x0.sig) ∧
        (∀ a, ¬ (f.work ≤ a ∧ a < f.work + x0.workLen) → s'.memByte a = s.memByte a) ∧
        s.TilesBut s' t ∧ s.Only s' [.regs, .tiles, .act, .mem, .ecc, .free, .outbox, .colls, .collPend]))

/-- O48. Packets of a running collective (R308, R309, R311, R317 to R319, R322, R323, R448). READY notes its sender; one for an idle group's next sequence number is held, in one record, while a record is free, and so is a REPLAY's. A
signature that differs aborts with reason 1. DATA that no step expects is dropped and counted, a duplicate is dropped and counted, and the packet that
makes a combining step whole is added in and acknowledged. An ACK ends the wait for it; a stale one counts. REPLAY is answered with the kept packets, or counts
as early. COLL_ABORT ends the collective with reason 2 and keeps the originator's reason and member. A packet of another generation that comes late is
dropped at the fence and counted there and in its group's or tile's drop counter. -/
def Obligations.SeamPackets : Prop :=
  (∀ (k : Nat) (c : Nat → Instr), (k, c) ∈ ([(0, .seamDataReceive), (1, .seamReadyReceive), (2, .seamReplayReceive), (3, .seamAckReceive)] :
      List (Nat × (Nat → Instr))) →
    ∀ (n : Nat) (a : Arrival) (s s1 : State), s.netTake 6 n (fun p => seamKind p == k) = some (a, s1) →
    (s.tile a.pkt.dstTile).active = true → s.fenced a.pkt.dstTile a.pkt.injAt = true → Completes (c n) s (fun s' =>
      s'.rd .tileGenDrop a.pkt.dstTile = (s.rd .tileGenDrop a.pkt.dstTile + 1) % 2 ^ 64 ∧
      (s.findGroup (seamHead a.pkt).gid a.pkt.dstTile = none →
        s'.rd .tileSeamNogroup a.pkt.dstTile = (s.rd .tileSeamNogroup a.pkt.dstTile + 1) % 2 ^ 64) ∧
      (∀ g, s.findGroup (seamHead a.pkt).gid a.pkt.dstTile = some g → s'.rd .collSeqDrop g = (s.rd .collSeqDrop g + 1) % 2 ^ 64) ∧ s1.Only s' [.regs])) ∧
  (∀ (n : Nat) (a : Arrival) (s s1 : State) (g : Nat) (x : Coll), s.SeamArrives 1 n a s1 g x →
    Completes (.seamReadyReceive n) s (fun s' =>
      s'.coll g = some (x.addReady (seamHead a.pkt).member) ∧ (∀ h, h ≠ g → s'.coll h = s.coll h) ∧ s1.Only s' [.colls])) ∧
  (∀ (n : Nat) (a : Arrival) (s s1 : State) (g : Nat), s.netTake 6 n (fun p => seamKind p == 1) = some (a, s1) →
    (s.tile a.pkt.dstTile).active = true → s.fenced a.pkt.dstTile a.pkt.injAt = false → seamOk a.pkt = true →
    s.findGroup (seamHead a.pkt).gid a.pkt.dstTile = some g → s.coll g = none →
    let r := ((seamHead a.pkt).member, (seamHead a.pkt).sig, a.pkt.tag)
    (a.pkt.tag = s.rd .collSeq g → r ∈ sget [] g s.collPend → Completes (.seamReadyReceive n) s (fun s' => s' = s1)) ∧
    (a.pkt.tag = s.rd .collSeq g → r ∉ sget [] g s.collPend → (sget [] g s.collPend).length < 64 → Completes (.seamReadyReceive n) s (fun s' =>
      sget [] g s'.collPend = sget [] g s.collPend ++ [r] ∧ s1.Only s' [.collPend])) ∧
    (a.pkt.tag = s.rd .collSeq g → r ∉ sget [] g s.collPend → (sget [] g s.collPend).length ≥ 64 → Completes (.seamReadyReceive n) s (fun s' =>
      s'.rd .collReadyDrop g = (s.rd .collReadyDrop g + 1) % 2 ^ 64 ∧ s1.Only s' [.regs])) ∧
    (a.pkt.tag ≠ s.rd .collSeq g → Completes (.seamReadyReceive n) s (fun s' =>
      s'.rd .collSeqDrop g = (s.rd .collSeqDrop g + 1) % 2 ^ 64 ∧ s1.Only s' [.regs]))) ∧
  (∀ (n : Nat) (a : Arrival) (s s1 : State) (g : Nat) (x : Coll), s.netTake 6 n (fun p => seamKind p == 1) = some (a, s1) →
    (s.tile a.pkt.dstTile).active = true → s.fenced a.pkt.dstTile a.pkt.injAt = false → seamOk a.pkt = true → g < 64 →
    s.findGroup (seamHead a.pkt).gid a.pkt.dstTile = some g → s.coll g = some x → a.pkt.tag = x.seq →
    (seamHead a.pkt).sig ≠ x.sig → Completes (.seamReadyReceive n) s (fun s' =>
      s'.coll g = none ∧ s'.rd .collMismatch g = (s.rd .collMismatch g + 1) % 2 ^ 64 ∧ s'.rd .collStatusMismatch g = 1 ∧
      s'.rd .collStatusAborted g = 1 ∧ s'.rd .collAborts g = (s.rd .collAborts g + 1) % 2 ^ 64 ∧
      (s.rd .collAbortInfoValid g = 0 → s'.rd .collAbortInfoReason g = 1 ∧ s'.rd .collSigLocal g = x.sig % 2 ^ 64 ∧
        s'.rd .collSigRemote g = (seamHead a.pkt).sig % 2 ^ 64))) ∧
  (∀ (n : Nat) (a : Arrival) (s s1 : State) (g : Nat) (x : Coll), s.SeamArrives 0 n a s1 g x →
    let h := seamHead a.pkt
    (x.matchData h (a.pkt.len - 64) (a.pkt.payload.drop 64) = none → Completes (.seamDataReceive n) s (fun s' =>
      s'.rd .collSeqDrop g = (s.rd .collSeqDrop g + 1) % 2 ^ 64 ∧ s'.coll g = some x ∧ s1.Only s' [.regs])) ∧
    (∀ tr vals, x.matchData h (a.pkt.len - 64) (a.pkt.payload.drop 64) = some (tr, vals, true) → Completes (.seamDataReceive n) s (fun s' =>
      s'.rd .collDupDrop g = (s.rd .collDupDrop g + 1) % 2 ^ 64 ∧
      (h.step ∉ x.rcvd → s'.outbox = s.outbox) ∧
      (h.step ∈ x.rcvd → (∃ e ∈ x.members, e.1 = h.member) → ∃ p : Packet, s'.outbox = s.outbox ++ [p] ∧ p.ty = 6 ∧ p.tag = x.seq ∧ p.gen = a.pkt.gen) ∧
      s1.Only s' [.regs, .colls, .outbox])) ∧
    (∀ tr vals, x.matchData h (a.pkt.len - 64) (a.pkt.payload.drop 64) = some (tr, vals, false) → x.rx = [] → x.recvs x.step = [tr] →
      h.step = x.step → x.began = x.step → 0 < x.step → x.step ≤ x.reds → x.step ∉ x.rcvd → h.pkts = 1 → x.present tr.out = true → x.badV = [] →
      x.f.fc = 9 → x.f.red = 0 → x.f.sat = false → Completes (.seamDataReceive n) s (fun s' =>
        (∃ x', s'.coll g = some x' ∧ x.step ∈ x'.rcvd ∧
          ∀ j, j < vals.length → x'.val (x.xferOff tr + j) = some ((vals.getD j 0 + (x.val (x.xferOff tr + j)).getD 0) % 2 ^ 32)) ∧
        s'.rd .collRxPkts g = (s.rd .collRxPkts g + 1) % 2 ^ 64 ∧
        ((∃ e ∈ x.members, e.1 = h.member) → ∃ p : Packet, s'.outbox = s.outbox ++ [p] ∧ p.ty = 6 ∧ p.tag = x.seq ∧ p.gen = a.pkt.gen) ∧
        s1.Only s' [.regs, .colls, .outbox]))) ∧
  (∀ (n : Nat) (a : Arrival) (s s1 : State) (g : Nat) (x : Coll), s.SeamArrives 3 n a s1 g x →
    let h := seamHead a.pkt
    (∀ k, x.kept = [k] → k.step = h.step → k.peer = h.member → k.acked = false → x.tx = [] → h.step ∉ x.rcvd →
      Completes (.seamAckReceive n) s (fun s' =>
        (∃ x', s'.coll g = some x' ∧ x'.kept = [{ k with acked := true }] ∧ sget 0 (h.member * 2 ^ 32 + h.step) x'.tries = 0) ∧
        s1.Only s' [.colls])) ∧
    (x.kept = [] → Completes (.seamAckReceive n) s (fun s' =>
      s'.rd .tileGenDrop x.tile = (s.rd .tileGenDrop x.tile + 1) % 2 ^ 64 ∧ s'.coll g = some x ∧ s1.Only s' [.regs]))) ∧
  (∀ (n : Nat) (a : Arrival) (s s1 : State) (g : Nat) (x : Coll), s.SeamArrives 2 n a s1 g x →
    let h := seamHead a.pkt
    (∀ k, x.kept = [k] → k.step = h.step → k.peer = h.member → (∃ e ∈ x.members, e.1 = h.member) → 0 < k.packets.length →
      Completes (.seamReplayReceive n) s (fun s' =>
        s'.rd .collReplayReqRx g = (s.rd .collReplayReqRx g + 1) % 2 ^ 64 ∧
        s'.rd .collReplayPkts g = (s.rd .collReplayPkts g + k.packets.length) % 2 ^ 64 ∧
        (∃ l : List Packet, s'.outbox = s.outbox ++ l ∧ l.map (fun p => p.payload) = k.packets.map (fun p => p.payload)) ∧
        s1.Only s' [.regs, .colls, .outbox])) ∧
    (x.kept = [] → h.step > x.began → Completes (.seamReplayReceive n) s (fun s' =>
      s'.rd .collReplayEarly g = (s.rd .collReplayEarly g + 1) % 2 ^ 64 ∧ s'.outbox = s.outbox ∧ s'.coll g = some (x.addReady h.member) ∧
      s1.Only s' [.regs, .colls]))) ∧
  (∀ (n : Nat) (a : Arrival) (s s1 : State) (g : Nat), s.netTake 6 n (fun p => seamKind p == 2) = some (a, s1) →
    (s.tile a.pkt.dstTile).active = true → s.fenced a.pkt.dstTile a.pkt.injAt = false → seamOk a.pkt = true →
    s.findGroup (seamHead a.pkt).gid a.pkt.dstTile = some g → s.coll g = none →
    (a.pkt.tag = s.rd .collSeq g → sget [] g s.collPend = [] → Completes (.seamReplayReceive n) s (fun s' =>
      s'.rd .collReplayReqRx g = (s.rd .collReplayReqRx g + 1) % 2 ^ 64 ∧ s'.rd .collReplayEarly g = (s.rd .collReplayEarly g + 1) % 2 ^ 64 ∧
      sget [] g s'.collPend = [((seamHead a.pkt).member, (seamHead a.pkt).sig, a.pkt.tag)] ∧ s1.Only s' [.regs, .collPend]))) ∧
  (∀ (n : Nat) (a : Arrival) (s s1 : State) (g : Nat) (x : Coll), s.netTake 0xB n = some (a, s1) → (s.tile a.pkt.dstTile).active = true → g < 64 →
    s.findGroup (bitsOf (payWord a.pkt 2) 63 48) a.pkt.dstTile = some g → s.coll g = some x → a.pkt.tag = x.seq →
    Completes (.collAbortReceive n) s (fun s' =>
      s'.coll g = none ∧ s'.rd .collStatusAborted g = 1 ∧ s'.rd .collAborts g = (s.rd .collAborts g + 1) % 2 ^ 64 ∧
      s'.rd .collSeq g = (s.rd .collSeq g + 1) % 2 ^ 32 ∧
      (s.rd .collAbortInfoValid g = 0 → s'.rd .collAbortInfoValid g = 1 ∧ s'.rd .collAbortInfoReason g = bitsOf (payWord a.pkt 2) 27 24 ∧
        s'.rd .collAbortInfoMember g = bitsOf (payWord a.pkt 2) 47 28)))

/-- O49. The steps of a collective (R310 to R312, R315, R321 to R323). A step begins by taking its sends up: the first when the collective has started, each later one when the step before it is
received; a transfer whose receiver is
ready and whose elements are present leaves as DATA packets. An OPE item enters at its elements. After the last step the output is copied to OUT, and nowhere else;
when every step is complete too, the descriptor completes: COLL_OPS, COLL_SEQ and SEAM_DONE. A step that waits too long sends REPLAY, one whose ACK is
late is sent again, until the replay limit aborts with reason 3. A stall counts and raises its source, and the collective goes on. -/
def Obligations.CollectiveSteps : Prop :=
  ∀ (g : GroupId) (s : State) (x : Coll), s.coll g = some x → (s.tile x.tile).active = true → x.tile < 256 →
    (x.began < x.step → x.ready = [] → x.rx = [] → x.recvs x.step ≠ [] → Completes (.collStepBegin g) s (fun s' =>
      s'.coll g = some { x with began := x.step, tx := x.tx ++ x.sends x.step } ∧ (∀ h, h ≠ g.val → s'.coll h = s.coll h) ∧ s.Only s' [.colls])) ∧
    (x.began = x.step → x.step < x.steps → x.step ∈ x.rcvd → x.step ≠ x.reds → x.ready = [] → x.recvs (x.step + 1) ≠ [] →
      (∀ a ∈ x.recvs (x.step + 1), x.gotAll a = false) → Completes (.collStepBegin g) s (fun s' =>
        s'.coll g = some { x with step := x.step + 1, began := x.step + 1, tx := x.tx ++ x.sends (x.step + 1), rxAt := s.tally } ∧
        (∀ h, h ≠ g.val → s'.coll h = s.coll h) ∧ s.Only s' [.colls])) ∧
    (∀ tr, x.step = x.steps → x.began = x.step → x.step ∈ x.rcvd → x.tx = [tr] → tr.dst ∈ x.ready → x.present tr.inp = true → x.badV = [] → x.badO = [] → x.kept = [] →
      (∃ e ∈ x.members, e.1 = tr.dst) → Completes (.collStepBegin g) s (fun s' =>
        (∃ l : List Packet, s'.outbox = s.outbox ++ l ∧ l.map (fun p => p.payload) = (s.dataPackets g x tr).map (fun p => p.payload) ∧
          ∀ p ∈ l, p.ty = 6 ∧ p.vc = s.groupVc g ∧ p.tag = x.seq ∧ p.srcTile = x.tile) ∧
        (∃ x', s'.coll g = some x' ∧ x'.tx = [] ∧ x'.kept.length = 1) ∧
        s'.rd .collTxPkts g = (s.rd .collTxPkts g + (s.dataPackets g x tr).length) % 2 ^ 64 ∧ s.Only s' [.regs, .colls, .outbox])) ∧
    (∀ nb, nb = 4 * (x.output.2 - x.output.1) → x.committed = false → x.step = x.steps → (x.step = 0 ∨ x.step ∈ x.rcvd) → x.inputs = true → x.narrowed = true →
      x.f.fo = 9 → x.badO = [] → s.heldAt [(x.f.outA, nb)] = none → s.okBytes x.f.outA nb = nb →
      (∀ k, s.mark k = 0) → (∀ u i, (s.slot u i).mode ≠ .committing) → Completes (.collCommit g) s (fun s' =>
        (∀ j, j < x.output.2 - x.output.1 → leNat (s'.memBytes (x.f.outA + 4 * j) 4) = (sget 0 (x.output.1 + j) x.image - 1) % 2 ^ 32) ∧
        (∀ a, ¬ (x.f.outA ≤ a ∧ a < x.f.outA + nb) → s'.memByte a = s.memByte a) ∧
        (∃ x', s'.coll g = some x' ∧ x'.committed = true ∧ x'.poisoned = false) ∧ s.TilesBut s' x.tile ∧
        s.Only s' [.regs, .act, .mem, .ecc, .colls, .tiles])) ∧
    (x.committed = true → x.steps ≤ x.ended.length → x.poisoned = false → Completes (.collComplete g) s (fun s' =>
      s'.coll g = none ∧ s'.rd .collOps g = (s.rd .collOps g + 1) % 2 ^ 64 ∧ s'.rd .collSeq g = (s.rd .collSeq g + 1) % 2 ^ 32 ∧
      (s'.tile x.tile).core.ev0.testBit 3 = true ∧ (∀ h, h ≠ g.val → s'.coll h = s.coll h) ∧
      (∀ a, ¬ (x.f.work ≤ a ∧ a < x.f.work + x.workLen) → s'.memByte a = s.memByte a) ∧ (x.f.sigEn = false → s.TilesBut s' x.tile ∧
      (∀ f i j, f ∉ [Field.collOps, .collSeq, .spdAccMaster, .spdAccOther] → s'.rd f i j = s.rd f i j) ∧
      s.Only s' [.regs, .tiles, .act, .mem, .ecc, .free, .colls]))) ∧
    (x.committed = false → Completes (.collComplete g) s (fun s' => s' = s)) ∧
    (∀ tr, x.recvs x.step = [tr] → x.rx = [] → s.rd .collStepTimeoutNs g ≠ 0 → s.tally ≥ x.rxAt + s.rd .collStepTimeoutNs g →
      (sget 0 (tr.src * 2 ^ 32 + x.step) x.tries < s.rd .collCfgReplayLimit g → (∃ e ∈ x.members, e.1 = tr.src) → Completes (.collStepTimeout g) s (fun s' =>
        (∃ p : Packet, s'.outbox = s.outbox ++ [p] ∧ p.ty = 6 ∧ p.tag = x.seq ∧ p.len = 64) ∧
        s'.rd .collReplayReqTx g = (s.rd .collReplayReqTx g + 1) % 2 ^ 64 ∧
        (∃ x', s'.coll g = some x' ∧ x'.step = x.step ∧ x'.rxAt = s.tally) ∧ s.Only s' [.regs, .colls, .outbox])) ∧
      (sget 0 (tr.src * 2 ^ 32 + x.step) x.tries ≥ s.rd .collCfgReplayLimit g → Completes (.collStepTimeout g) s (fun s' =>
        s'.coll g = none ∧ s'.rd .collStatusAborted g = 1 ∧ s'.rd .collAborts g = (s.rd .collAborts g + 1) % 2 ^ 64 ∧
        (s.rd .collAbortInfoValid g = 0 → s'.rd .collAbortInfoReason g = 3)))) ∧
    (s.rd .collStepTimeoutNs g = 0 → Completes (.collStepTimeout g) s (fun s' => s' = s)) ∧
    (∀ k, x.kept = [k] → k.acked = false → x.tx = [] → s.rd .collStepTimeoutNs g ≠ 0 → s.tally ≥ k.sentAt + s.rd .collStepTimeoutNs g →
      sget 0 (k.peer * 2 ^ 32 + k.step) x.tries < s.rd .collCfgReplayLimit g → (∃ e ∈ x.members, e.1 = k.peer) → Completes (.collAckTimeout g) s (fun s' =>
        (∃ l : List Packet, s'.outbox = s.outbox ++ l ∧ l.map (fun p => p.payload) = k.packets.map (fun p => p.payload)) ∧
        (∃ x', s'.coll g = some x' ∧ x'.kept = [{ k with sentAt := s.tally }]) ∧ s.Only s' [.regs, .colls, .outbox])) ∧
    (s.rd .collProgressTimeoutNs g ≠ 0 →
      (s.tally ≥ x.progressAt + s.rd .collProgressTimeoutNs g → Completes (.collStall g) s (fun s' =>
        s'.rd .collStatusStall g = 1 ∧ s'.rd .collStall g = (s.rd .collStall g + 1) % 2 ^ 64 ∧
        s'.coll g = some { x with progressAt := x.progressAt + s.rd .collProgressTimeoutNs g } ∧
        s.FieldsBut s' ([(Field.collStatusStall, g.val, 0), (Field.collStall, g.val, 0)] ++ eventFields) ∧ s.Only s' [.regs, .colls, .ic, .adit])) ∧
      (s.tally < x.progressAt + s.rd .collProgressTimeoutNs g → Completes (.collStall g) s (fun s' => s' = s))) ∧
    (∀ (t : TileId) (it : SeamItem), x.tile = t.val → (s.tile t).items = [it] → s.colls = [(g.val, x)] → it.queue = x.queue →
      x.f.ope = true → x.committed = false → it.fmt = x.f.fin → x.f.fin = 9 → x.f.fc = 9 → x.f.red ≤ 2 → x.f.op ≤ 1 →
      it.row * x.f.rowLen + it.col + it.vals.length ≤ x.f.elems → (∀ d dr, (s.tile t).ope.drains = d :: dr → d.atLast = false) →
      Completes (.seamItemAccept t) s (fun s' =>
        (s'.tile t).items = [] ∧
        (∃ x', s'.coll g = some x' ∧ ∀ j, j < it.vals.length → x'.val (it.row * x.f.rowLen + it.col + j) = some (it.vals.getD j 0)) ∧
        s'.rd .tileProgress t = (s.rd .tileProgress t + 1) % 2 ^ 64 ∧ s.TilesBut s' t ∧ s.Only s' [.regs, .tiles, .act, .colls]))

/-- O50. Mailbox channels (R60, R336, R357 to R359, R362, R364). A doorbell of 1 in IDLE or DONE moves the channel to BUSY, counts and latches; before FW_READY
it counts as early; in BUSY, and on the event channel, it is rejected and counted. A request-buffer write is stored, or counted in BUSY. The
mailbox service, while the headframe does not sleep, takes the oldest latched doorbell, of those latched at one instant that of the lowest channel, answers
the first check that fails, and hands any other command to its component; once it has FAILED, its own commands are answered with status 15. -/
def Obligations.MailboxChannels : Prop :=
  (∀ (c : ChanId) (v : Nat) (s : State),
    (v % 2 = 0 → Completes (.mbxDoorbellWrite c v) s (fun s' => s' = s)) ∧
    (v % 2 = 1 → s.adit.fwReady = false → Runs (.mbxDoorbellWrite c v) s [.regs] [(.adtEarlyDoorbell, 0, 0)] (fun s' =>
      s'.rd .adtEarlyDoorbell = (s.rd .adtEarlyDoorbell + 1) % 2 ^ 64)) ∧
    (v % 2 = 1 → s.adit.fwReady = true → (c.val = 63 ∨ s.rd .mbxState c = 1) →
      Runs (.mbxDoorbellWrite c v) s [.regs] [(.mbxDoorbellReject, c.val, 0)] (fun s' =>
        s'.rd .mbxDoorbellReject c = (s.rd .mbxDoorbellReject c + 1) % 2 ^ 64)) ∧
    (v % 2 = 1 → s.adit.fwReady = true → c.val ≠ 63 → s.rd .mbxState c ≠ 1 →
      Runs (.mbxDoorbellWrite c v) s [.regs, .mbx, .ic, .adit] ([(Field.mbxState, c.val, 0), (Field.mbxCmds, c.val, 0)] ++ eventFields) (fun s' =>
        s'.rd .mbxState c = 1 ∧ s'.rd .mbxCmds c = (s.rd .mbxCmds c + 1) % 2 ^ 64 ∧
        s'.mbx = { s.mbx with latched := s.mbx.latched ++ [(c.val, s.tally)] } ∧
        (s.warmAt = 0 → s.on .icSrcCfgEn 0 (360 + c) = true → sget false (360 + c.val) s'.ic.pending = true)))) ∧
  (∀ (c : ChanId) (word : Fin 2032) (wide : Bool) (v : Nat) (s : State),
    (wide = true → word.val % 2 = 1 → Runs (.mbxReqWrite c word wide v) s [.regs] [(.adtRegSizeErr, 0, 0)] (fun s' =>
      s'.rd .adtRegSizeErr = (s.rd .adtRegSizeErr + 1) % 2 ^ 64)) ∧
    (wide = false ∨ word.val % 2 = 0 → s.rd .mbxState c = 1 → Runs (.mbxReqWrite c word wide v) s [.regs] [(.mbxWrBusy, c.val, 0)] (fun s' =>
      s'.rd .mbxWrBusy c = (s.rd .mbxWrBusy c + 1) % 2 ^ 64)) ∧
    (wide = false ∨ word.val % 2 = 0 → s.rd .mbxState c ≠ 1 → Completes (.mbxReqWrite c word wide v) s (fun s' =>
      ∀ n, n = (if wide then 8 else 4) →
        leNat (s'.bytes (mbxKey c (0x40 + 4 * word)) n) = v % 2 ^ (8 * n) ∧ s.BytesBut s' (mbxKey c (0x40 + 4 * word)) n ∧ s.Only s' [.mem]))) ∧
  (∀ s : State, (s.mbx.latched = [] ∨ ((s.comp 0).mode ≠ .running ∧ (s.comp 0).mode ≠ .failed) ∨ s.ic.asleep = true →
      Completes .mbxDispatch s (fun s' => s' = s)) ∧
    (∀ c t : Nat, (s.comp 0).mode = .failed → s.ic.asleep = false → s.mbx.latched = [(c, t)] → c < 64 → (ycpOf (s.reqNat c 0 2)).map (fun k => k.1) = some 0 →
      Completes .mbxDispatch s (fun s' => s.Responded s' c 0 s.tally 15 [] ∧ s'.mbx = { s.mbx with latched := [] })) ∧
    (∀ (c : Nat) (first : Nat × Nat) (rest : List (Nat × Nat)), s.mbx.latched = first :: rest → (c, first.2) ∈ s.mbx.latched →
      (∀ e ∈ s.mbx.latched, e.2 = first.2 → c ≤ e.1) → c < 64 → (s.comp 0).mode = .running → s.ic.asleep = false →
      let op := s.reqNat c 0 2
      let len := s.reqNat c 8 2
      let taken := { s.mbx with latched := s.mbx.latched.filter (fun e => e.1 != c) }
      let fails (st : Nat) : Prop := Completes .mbxDispatch s (fun s' =>
        s.Responded s' c 0 s.tally st [] ∧ s'.mbx = taken ∧ s.BytesBut s' (mbxKey c 0x2000) 32 ∧
        s.FieldsBut s' ([(Field.mbxState, c, 0), (Field.mbxErrStatus, c, 0)] ++ eventFields) ∧ s.Only s' [.regs, .mem, .mbx, .adit, .free])
      (ycpOf op = none → fails 1) ∧
      (∀ k feat, ycpOf op = some (k, feat) →
        (len > 8096 ∨ ycpLenOk op len (s.pay c 46 2) = false → fails 2) ∧
        (len ≤ 8096 → ycpLenOk op len (s.pay c 46 2) = true →
          (s.mbx.pair = none → op ≠ 1 → op ≠ 2 → op ≠ 4 → fails 4) ∧
          (∀ p, s.mbx.pair = some p →
            (p ≠ s.reqNat c 2 2 → fails 3) ∧
            (p = s.reqNat c 2 2 → s.mbx.features.testBit feat = false → fails 5)) ∧
          ((s.mbx.pair = none ∧ (op = 1 ∨ op = 2 ∨ op = 4)) ∨ (s.mbx.pair = some (s.reqNat c 2 2) ∧ s.mbx.features.testBit feat = true) →
            Completes .mbxDispatch s (fun s' => s' = { s with mbx := { taken with run := s.mbx.run ++ [⟨c, op, k, s.tally, false⟩] } }))))))

/-- O51. Firmware components (R349 to R352). A fault, or a heartbeat that has not come for 10 ms, counts, answers the component's command in progress with status
9, and starts a component reset with the next generation; the third fault within 60 s leaves the component FAILED. A fault during the restart is
suppressed and counted, but for the RAS agent's, which is device-fatal. A restart that completes counts, and so does the reset. A component that has
not started, or has FAILED, meets no fault, nor does any while the headframe sleeps; a heartbeat is missed where the component that watches runs. A
command for a FAILED component completes with status 15. -/
def Obligations.FirmwareComponents : Prop :=
  (∀ (k : CompId) (s : State), (s.comp k).mode = .running → s.ic.asleep = false →
    let recent := (s.comp k).faults.filter (fun a => decide (s.tally < a + 60000000000)) ++ [s.tally]
    let faulted (s' : State) : Prop :=
      s'.rd .hfCompFaults 0 k = (s.rd .hfCompFaults 0 k + 1) % 2 ^ 64 ∧ (∀ j, j ≠ k.val → s'.comp j = s.comp j) ∧
      (∀ r, s.mbx.run.find? (fun q => q.comp == k.val) = some r → r.chan < 63 → (∀ a ∈ s.boot.areas, a.2.1 + a.2.2 ≤ mbxKey 0 0) →
        leNat (s'.bytes (mbxKey r.chan 0x200A) 2) = 9 ∧ s'.rd .mbxState r.chan = 2 ∧ s'.mbx.run = s.mbx.run.filter (fun q => q.chan != r.chan)) ∧
      (recent.length < 3 → (s'.comp k).mode = .restarting ∧ (s'.comp k).resetAt = s.tally ∧ (s'.comp k).faults = recent ∧
        s'.rd .hfCompStatusGen 0 k = (s.rd .hfCompStatusGen 0 k + 1) % 2 ^ 8 ∧
        (∀ e ∈ s'.hfOut, e.2 ≠ k.val)) ∧
      (recent.length ≥ 3 → (s'.comp k).mode = .failed ∧ s'.rd .hfCompStatusGen 0 k = s.rd .hfCompStatusGen 0 k) ∧
      s.Only s' [.regs, .comps, .mbx, .mem, .ic, .adit, .ras, .hfOut, .free, .demand, .rasLog, .rasw, .nhLast, .uart]
    Completes (.componentFault k .mpu) s faulted ∧
    (∀ a, Completes (.componentFault k (.bus a)) s (fun s' => faulted s' ∧ s'.rd .hfDecodeErr = (s.rd .hfDecodeErr + 1) % 2 ^ 64)) ∧
    ((s.comp (if k.val = 3 then 0 else 3)).mode = .running → s.tally ≥ (s.comp k).beatAt + 10000000 → Completes (.heartbeatMiss k) s faulted) ∧
    ((s.comp (if k.val = 3 then 0 else 3)).mode ≠ .running → Completes (.heartbeatMiss k) s (fun s' => s' = s)) ∧
    (s.tally < (s.comp k).beatAt + 10000000 → Completes (.heartbeatMiss k) s (fun s' => s' = s))) ∧
  (∀ (k : CompId) (s : State), (s.comp k).mode = .restarting → s.ic.asleep = false →
    (k.val ≠ 3 → Runs (.componentFault k .mpu) s [.regs, .ic, .adit] ((.rasResetSuppress, 0, 0) :: eventFields) (fun s' =>
      s'.rd .rasResetSuppress = (s.rd .rasResetSuppress + 1) % 2 ^ 64)) ∧
    (k.val = 3 → s.on .icSrcCfgEn 0 431 = true → Runs (.componentFault k .mpu) s [.regs, .ras, .ic, .adit] eventFields (fun s' =>
      s'.ras = s.ras ++ [⟨3, .headframe, 3, 2, s.rd .hfCompStatusGen 0 3, s.tally⟩])) ∧
    (s.warmAt = 0 → Runs (.componentRestartComplete k) s [.regs, .comps] [(.hfCompRestarts, 0, k.val), (.rasResets, 0, 3)] (fun s' =>
      s'.rd .hfCompRestarts 0 k = (s.rd .hfCompRestarts 0 k + 1) % 2 ^ 64 ∧
      s'.rd .rasResets 0 3 = (s.rd .rasResets 0 3 + 1) % 2 ^ 64 ∧ s'.comp k = { s.comp k with mode := .running, beatAt := s.tally } ∧
      (∀ j, j ≠ k.val → s'.comp j = s.comp j)))) ∧
  (∀ (k : CompId) (cause : CompCause) (s : State), (s.comp k).mode = .notStarted ∨ (s.comp k).mode = .failed ∨ s.ic.asleep = true →
    Completes (.componentFault k cause) s (fun s' => s' = s)) ∧
  (∀ (k : CompId) (s : State), (s.comp k).mode ≠ .restarting → Completes (.componentRestartComplete k) s (fun s' => s' = s)) ∧
  (∀ (c : ChanId) (s : State) (r : MbxCmd), s.mbx.run.find? (fun q => q.comp == 5) = some r → r.chan = c.val → r.op = 0x0703 →
    (s.comp 5).mode = .failed → s.ic.asleep = false → Completes (.attest c) s (fun s' => s.Responded s' c 0 r.stamp 15 []))

/-- O52. Commands of the mailbox service (R42, R53, R80, R170, R176, R181, R194 to R196, R209, R224, R338, R339, R343, R360, R364 to R367). Each is answered once, with
its status; a failing one changes nothing else. HELLO selects the highest common pair and the AND of the maps. ECHO answers its payload. BANK_CLEAR
begins the clear and is answered after it. STREAM_BIND enables a pair that R196 allows and initialises its semaphores. STAGE_SET lists each stage's blocks for the governor. TILE_START starts every named
core, or none. The fields of payloads that no rule lays out are operands (log 6); GET_INFO's content is free. -/
def Obligations.ServiceCommands : Prop :=
  ∀ (c : ChanId) (s : State) (r : MbxCmd),
    (s.YcpRuns c 0x0001 0 r → ∀ lo hi map, lo = max (s.pay c 0 2) s.boot.protoMin → hi = min (s.pay c 2 2) s.boot.protoMax → map = s.firmwareMap →
      (hi < lo → Completes (.hello c) s (fun s' => s.Answers s' r 3 (fieldBytes [(s.boot.protoMin, 2), (s.boot.protoMax, 2)]) [] [])) ∧
      (lo ≤ hi → (∃ d, d < 63 ∧ d ≠ c.val ∧ s.rd .mbxState d = 1) → Completes (.hello c) s (fun s' => s.Answers s' r 10 [] [] [])) ∧
      (lo ≤ hi → (∀ d, d < 63 → d ≠ c.val → s.rd .mbxState d ≠ 1) → Completes (.hello c) s (fun s' =>
        s.Answers s' r 0 (fieldBytes [(hi, 4), (s.rd .hfFwVersion, 4), (map, 32), (s.pay c 4 32 &&& map, 32)]) [.mbx] [] ∧
        s'.mbx = { s.mbx with run := s.mbx.run.filter (fun q => q.chan != r.chan), pair := some hi, features := s.pay c 4 32 &&& map }))) ∧
    (s.YcpRuns c 0x0002 0 r → Completes (.getInfo c) s (fun s' => ∃ p : List Byte, p.length ≤ 8160 ∧ s.Answers s' r 0 p [.free] [])) ∧
    (s.YcpRuns c 0x0003 0 r → ∀ (classes : List (Nat × Nat)) (sources : List Nat),
      ((∀ e ∈ classes, e.1 ≤ 6 ∧ 1088 ≤ e.2 ∧ e.2 ≤ 2047) → (∀ n ∈ sources, n < 464 ∨ (960 ≤ n ∧ n < 1024)) →
        Completes (.evtSubscribe c classes sources) s (fun s' =>
          s.Answers s' r 0 [] [.mbx] (sources.map (fun n => (Field.icSrcCfgFwd, 0, n))) ∧ (∀ n ∈ sources, s'.rd .icSrcCfgFwd 0 n = 1) ∧
          (∀ k, sget 1088 k s'.mbx.classVec = ((classes.reverse.find? (fun e => e.1 == k)).map (fun e => e.2)).getD (sget 1088 k s.mbx.classVec)) ∧
          s'.mbx = { s.mbx with run := s.mbx.run.filter (fun q => q.chan != r.chan), classVec := s'.mbx.classVec })) ∧
      ((∃ e ∈ classes, e.1 > 6 ∨ e.2 < 1088 ∨ e.2 > 2047) ∨ (∃ n ∈ sources, ¬ (n < 464 ∨ (960 ≤ n ∧ n < 1024))) → Completes (.evtSubscribe c classes sources) s (fun s' => s.Answers s' r 6 [] [] []))) ∧
    (s.YcpRuns c 0x0004 0 r → Completes (.echo c) s (fun s' => s.Answers s' r 0 (s.payBytes c 0 (s.reqNat c 8 2)) [] [])) ∧
    (s.YcpRuns c 0x0101 0 r → ∀ w base : Nat,
      (w ≤ 3 → base < 2 ^ 48 → Completes (.setWindow c w base) s (fun s' =>
        s.Answers s' r 0 [] [] [(.adtWinBase, 0, w)] ∧ s'.rd .adtWinBase 0 w = base / 2 ^ 20 * 2 ^ 20)) ∧
      (w > 3 ∨ base ≥ 2 ^ 48 → Completes (.setWindow c w base) s (fun s' => s.Answers s' r 6 [] [] []))) ∧
    (s.YcpRuns c 0x0102 0 r → ∀ (band m : Nat) (rest : List (Nat × Nat)),
      (m = 2 → s.mbx.features.testBit 8 = false → Completes (.setBandMode c ((band, m) :: rest)) s (fun s' => s.Answers s' r 5 [] [] [])) ∧
      (band ≥ 36 ∨ m > 3 → (∀ e ∈ rest, e.2 ≠ 2) → m ≠ 2 → Completes (.setBandMode c ((band, m) :: rest)) s (fun s' => s.Answers s' r 6 [] [] [])) ∧
      (∀ entries : List (Nat × Nat), s.mbx.features.testBit 8 = true ∨ (∀ e ∈ entries, e.2 ≠ 2) → (∀ e ∈ entries, e.1 < 36 ∧ e.2 ≤ 3) → s.bandHeld = [] →
        let last (b : Nat) : Option Nat := (entries.reverse.find? (fun e => e.1 == b)).map (fun e => e.2)
        let now (x : State) (b : Nat) : Nat := x.rd (bandField b) / 4 ^ (b % 16) % 4
        let old (b : Nat) : Nat := (slook b s.bandNext).getD (now s b)
        Completes (.setBandMode c entries) s (fun s' =>
          (∀ b, b < 36 → now s' b = (last b).getD (now s b) ∧
            slook b s'.bandNext = match last b with
              | none => slook b s.bandNext
              | some m => if m = old b then none else some (old b)) ∧
          s.Answers s' r 0 [] [.bandNext] [(.hbmBandMode0, 0, 0), (.hbmBandMode1, 0, 0), (.hbmBandMode2, 0, 0)]))) ∧
    (s.YcpRuns c 0x0103 0 r → ∀ (t : Nat) (b : BankId),
      (t ≥ 256 → r.began = false → Completes (.bankClear c t b) s (fun s' => s.Answers s' r 6 [] [] [])) ∧
      (t < 256 → r.began = false → (s.tile t).stopped = false → (s.tile t).gated = false → (s.tile t).tallyValid = true → s.clearing t b = false →
        Completes (.bankClear c t b) s (fun s' => s'.clearing t b = true ∧ s'.rd .spdClears t (bankIdx b) = (s.rd .spdClears t (bankIdx b) + 1) % 2 ^ 64 ∧
          s'.mbx = { s.mbx with run := s.mbx.run.map (fun q => if q.chan = c.val then { q with began := true } else q) } ∧
          s.FieldsBut s' [(.spdClears, t, bankIdx b)] ∧ s.TilesBut s' t ∧ s.Only s' [.regs, .tiles, .mbx])) ∧
      (r.began = true → (s.tile t).stopped = false → s.clearing t b = false → Completes (.bankClear c t b) s (fun s' => s.Answers s' r 0 [] [] []))) ∧
    (s.YcpRuns c 0x0104 0 r → ∀ entries : List (Nat × Nat × Nat),
      ((∃ e ∈ entries, e.1 ≥ 256 ∨ e.2.1 ≥ 128) → Completes (.queueCfg c entries) s (fun s' => s.Answers s' r 6 [] [] [])) ∧
      ((∀ e ∈ entries, e.1 < 256 ∧ e.2.1 < 128 ∧ (s.tile e.1).stopped = false) → Completes (.queueCfg c entries) s (fun s' =>
        s.Answers s' r 0 [] [] (entries.flatMap (fun e => [(Field.tileQcfgEn, qInst e.1 e.2.1, 0), (.tileQcfgLog2Depth, qInst e.1 e.2.1, 0),
          (.tileQcfgBase, qInst e.1 e.2.1, 0), (.tileQHead, qInst e.1 e.2.1, 0), (.tileQTail, qInst e.1 e.2.1, 0),
          (.tileQDropDisabled, qInst e.1 e.2.1, 0)])))) ∧
      (∀ (t : TileId) (q : Fin 128) (v : Nat) (rest : List (Nat × Nat × Nat)) (s1 : State), (∀ e ∈ rest, e.1 < 256 ∧ e.2.1 < 128) →
        exec (.tileQcfgWrite t q v) s = .next s1 → exec (.queueCfg c ((t.val, q.val, v) :: rest)) s = exec (.queueCfg c rest) s1)) ∧
    (s.YcpRuns c 0x0105 0 r → ∀ p q : StreamEnd,
      (endFits p = false ∨ endFits q = false → ∀ on, Completes (.streamBind c on p q) s (fun s' => s.Answers s' r 6 [] [] [])) ∧
      (endFits p = true → endFits q = true →
        (p.vc ≠ q.vc ∨ p.vc < 2 ∨ p.base ≠ q.base ∨ p.size ≠ q.size ∨ p.slots ≠ q.slots ∨ p.slots = 0 ∨ p.slots > 255 ∨ q.size = 0 ∨ q.size > 32768 ∨ bankAt (64 * q.base) = none ∨
            p.peerSem ≠ q.localSem ∨ q.peerTile ≠ p.tile ∨
            (p.here = true ∧ ∃ e, e < 16 ∧ e ≠ p.ep ∧ s.rd .tileEpEn p.tile e = 1 ∧ s.rd .tileEpLocalSem p.tile e = p.localSem) →
          Completes (.streamBind c true p q) s (fun s' => s.Answers s' r 8 [] [] []))) ∧
      (endFits p = true → endFits q = true → s.bindOk p q = true → (p.here = true → (s.tile p.tile).stopped = false) →
        (q.here = true → (s.tile q.tile).stopped = false) → Completes (.streamBind c true p q) s (fun s' =>
          (∀ e ∈ [(p, 0), (q, 1)], e.1.here = true →
            s'.rd .tileSem e.1.tile e.1.localSem = (if e.2 = 0 then e.1.slots else 0) ∧
            s'.rd .tileEpEn e.1.tile e.1.ep = 1 ∧ s'.rd .tileEpRole e.1.tile e.1.ep = e.2 ∧
            s'.rd .tileEpVc e.1.tile e.1.ep = e.1.vc ∧ s'.rd .tileEpSlots e.1.tile e.1.ep = e.1.slots ∧
            s'.rd .tileEpPeerSem e.1.tile e.1.ep = e.1.peerSem ∧ s'.rd .tileEpLocalSem e.1.tile e.1.ep = e.1.localSem ∧
            s'.rd .tileEpPeerLocal e.1.tile e.1.ep = (if e.1.peerLocal then 1 else 0) ∧ s'.rd .tileEpPeerDevice e.1.tile e.1.ep = e.1.peerDev ∧
            s'.rd .tileEpPeerTile e.1.tile e.1.ep = e.1.peerTile ∧ s'.rd .tileEpBase e.1.tile e.1.ep = e.1.base ∧
            s'.rd .tileEpSize e.1.tile e.1.ep = e.1.size % 32768) ∧
          s.Answers s' r 0 [] [] (([p, q].filter (fun e => e.here)).flatMap (fun e => [(Field.tileSem, e.tile, e.localSem), (.tileEpEn, e.tile, e.ep), (.tileEpRole, e.tile, e.ep),
            (.tileEpVc, e.tile, e.ep), (.tileEpSlots, e.tile, e.ep), (.tileEpPeerSem, e.tile, e.ep), (.tileEpLocalSem, e.tile, e.ep),
            (.tileEpPeerLocal, e.tile, e.ep), (.tileEpPeerDevice, e.tile, e.ep), (.tileEpPeerTile, e.tile, e.ep), (.tileEpBase, e.tile, e.ep),
            (.tileEpSize, e.tile, e.ep)])))) ∧
      (endFits p = true → endFits q = true → (p.here = true → (s.tile p.tile).stopped = false) → (q.here = true → (s.tile q.tile).stopped = false) →
        (∀ e ∈ [p, q], ∀ f ∈ [Field.tileEpRole, .tileEpVc, .tileEpSlots, .tileEpPeerSem, .tileEpLocalSem], s.rd f e.tile e.ep < 2 ^ f.info.width) →
        Completes (.streamBind c false p q) s (fun s' =>
          (∀ e ∈ [p, q], e.here = true → s'.rd .tileEpEn e.tile e.ep = 0) ∧
          s.Answers s' r 0 [] [] (([p, q].filter (fun e => e.here)).map (fun e => (Field.tileEpEn, e.tile, e.ep)))))) ∧
    (s.YcpRuns c 0x0106 0 r → ∀ entries : List (Nat × Nat),
      ((∃ e ∈ entries, e.1 ≥ 256 ∨ e.2 ≥ 2 ^ 16) → Completes (.stageSet c entries) s (fun s' => s.Answers s' r 6 [] [] [])) ∧
      ((∀ e ∈ entries, e.1 < 256 ∧ e.2 < 2 ^ 16 ∧ (s.tile e.1).stopped = false) → Completes (.stageSet c entries) s (fun s' =>
        (∀ t, s'.rd .tileStage t = ((entries.reverse.find? (fun e => e.1 == t % 65536)).map (fun e => e.2)).getD (s.rd .tileStage t)) ∧
        ((∀ t, t < 256 → s.rd .tileStage t < 2 ^ 16) → ∀ i k, i < 10 → k < 16 → ((s'.rd .pwrPaceStagePbMask 0 i).testBit k = true ↔
          s'.rd .pwrPaceStageStage 0 i ≠ 0 ∧ ∃ t, t < 256 ∧ tilePb t = k ∧ s'.rd .tileStage t = s'.rd .pwrPaceStageStage 0 i)) ∧
        s.Answers s' r 0 [] [] (entries.map (fun e => (Field.tileStage, e.1, 0)) ++
          (List.range 10).flatMap (fun i => [(Field.pwrPaceStageStage, 0, i), (.pwrPaceStagePbMask, 0, i)]))))) ∧
    (s.YcpRuns c 0x0107 0 r → ∀ entries : List (Nat × List (Nat × Nat) × Option Nat),
      let keys := entries.flatMap (fun e => e.2.1.map (fun x => (e.1, x.1, x.2)))
      let tags := entries.filterMap (fun e => e.2.2.map (fun g => (e.1, g)))
      ((∃ e ∈ entries, e.1 ≥ 256 ∨ ∃ x ∈ e.2.1, x.1 ≥ 8) → Completes (.srKeys c entries) s (fun s' => s.Answers s' r 6 [] [] [])) ∧
      ((∀ e ∈ entries, e.1 < 256 ∧ (s.tile e.1).stopped = false ∧ ∀ x ∈ e.2.1, x.1 < 8) → Completes (.srKeys c entries) s (fun s' =>
        (∀ t k, t < 256 → k < 8 → s'.rd .tileSrKey t k =
          ((keys.reverse.find? (fun x => x.1 == t && x.2.1 == k)).map (fun x => x.2.2 % 2 ^ 64)).getD (s.rd .tileSrKey t k)) ∧
        (∀ t, t < 256 → s'.rd .tileSrTag t = ((tags.reverse.find? (fun x => x.1 == t)).map (fun x => x.2 % 2 ^ 32)).getD (s.rd .tileSrTag t)) ∧
        s.Answers s' r 0 [] [] (keys.map (fun x => (Field.tileSrKey, x.1, x.2.1)) ++ tags.map (fun x => (Field.tileSrTag, x.1, 0)))))) ∧
    (s.YcpRuns c 0x010A 0 r → ∀ scope : Nat,
      (scope ≤ 3 → Completes (.setPerstScope c scope) s (fun s' =>
        s'.rd .adtCfgPerstScope = scope ∧ s.Answers s' r 0 [] [] [(.adtCfgPerstScope, 0, 0)])) ∧
      (scope > 3 → Completes (.setPerstScope c scope) s (fun s' => s.Answers s' r 6 [] [] []))) ∧
    (s.YcpRuns c 0x010B 0 r → ∀ n, n = s.reqNat c 8 2 / 8 →
      let tile (i : Nat) : Nat := s.pay c (8 * i) 2
      let pc (i : Nat) : Nat := s.pay c (8 * i + 4) 4
      let fits (i : Nat) : Prop := tile i < 256 ∧ s.pay c (8 * i + 2) 2 = 0 ∧ pc i % 4 = 0 ∧ pc i < 0x80000
      let idle (i : Nat) : Prop := (s.tile (tile i)).core.mode = .held ∧ (s.tile (tile i)).tallyValid = true
      ((∃ i, i < n ∧ ¬ fits i) → Completes (.tileStart c) s (fun s' => s.Answers s' r 6 [] [] [])) ∧
      ((∀ i, i < n → fits i) → (∃ i, i < n ∧ ((s.tile (tile i)).core.mode ≠ .held ∨ (s.tile (tile i)).tallyValid = false)) → Completes (.tileStart c) s (fun s' => s.Answers s' r 8 [] [] [])) ∧
      ((∀ i, i < n → fits i ∧ idle i) → Completes (.tileStart c) s (fun s' =>
        (∀ i, i < n → (∀ j, j < n → tile j = tile i → pc j = pc i) → (s'.tile (tile i)) =
          { s.tile (tile i) with core := { (s.tile (tile i)).core with mode := .running, pc := pc i } }) ∧
        (∀ t, (∀ i, i < n → tile i ≠ t) → s'.tile t = s.tile t) ∧ s.Answers s' r 0 [] [.tiles] [])))

/-- O53. Commands of time, ports, routing, groups and power (R4, R7, R38, R45, R131, R264, R266, R267, R277, R279, R284, R287, R289, R296 to R299, R318,
R319, R343, R392, R399, R407, R408). Each is answered once with its status; a command for which the device has a register write of its own does what that
write does. PORT_CFG refuses what R267 refuses, SET_DEV_ID the ID 0xF_FFFF, RT_LOAD the bank in force, GROUP_CFG a second group of a GID and tile, it and GROUP_ORDER more
than 64 peers, once the entries that they read are read.
PB_GATE of a block with nothing bound loses what its tiles hold; one back on is answered once its replicas are valid. Payload fields are operands (log 6). -/
def Obligations.ConfigurationCommands : Prop :=
  ∀ (c : ChanId) (s : State) (r : MbxCmd),
    (s.YcpRuns c 0x0108 5 r → ∀ a, a < 2 ^ 64 →
      (s.rd .tlyStatusSnapPending = 0 → a ≥ s.tally + 2000 → Completes (.snapshotArm c a) s (fun s' =>
        s'.snapArmed = a ∧ s'.rd .tlySnapAt = a ∧ s'.rd .tlyStatusSnapPending = 1 ∧
        s.Answers s' r 0 [] [.snapArmed] [(.tlySnapAt, 0, 0), (.tlyStatusSnapPending, 0, 0)])) ∧
      (s.rd .tlyStatusSnapPending ≠ 0 → Completes (.snapshotArm c a) s (fun s' =>
        s'.rd .tlySnapBusy = (s.rd .tlySnapBusy + 1) % 2 ^ 64 ∧ s.Answers s' r 8 [] [] [(.tlySnapBusy, 0, 0), (.tlySnapAt, 0, 0)])) ∧
      (s.rd .tlyStatusSnapPending = 0 → a < s.tally + 2000 → Completes (.snapshotArm c a) s (fun s' =>
        s'.rd .tlySnapLate = (s.rd .tlySnapLate + 1) % 2 ^ 64 ∧ s.Answers s' r 8 [] [] [(.tlySnapLate, 0, 0), (.tlySnapAt, 0, 0)]))) ∧
    (s.YcpRuns c 0x0109 2 r → ∀ role port : Nat,
      (role > 3 ∨ port ≥ 8 → Completes (.tallyRole c role port) s (fun s' => s.Answers s' r 6 [] [] [])) ∧
      (role ≤ 3 → port < 8 → s.variant.ports ≤ port → Completes (.tallyRole c role port) s (fun s' => s.Answers s' r 7 [] [] [])) ∧
      (role ≤ 3 → port < s.variant.ports → Completes (.tallyRole c role port) s (fun s' =>
        s'.rd .tlyCtrlRole = role ∧ s'.rd .tlyCtrlUpstreamPort = port ∧
        s.Answers s' r 0 [] [.talign] [(.tlyCtrlRole, 0, 0), (.tlyCtrlUpstreamPort, 0, 0)]))) ∧
    (s.YcpRuns c 0x0201 2 r → ∀ (p : PortId) (f : PortCfg),
      (s.variant.ports ≤ p.val → Completes (.portCfg c p f) s (fun s' => s.Answers s' r 7 [] [] [])) ∧
      (p.val < s.variant.ports → f.ctrl = none → f.bufs.length ≤ 8 → Completes (.portCfg c p f) s (fun s' =>
        (∀ x, f.timeoutMs = some x → s'.rd .portTrainCfgTimeoutMs p = x % 2 ^ Field.portTrainCfgTimeoutMs.info.width) ∧
        (∀ x, f.retry = some x → s'.rd .portRetryCfgReplayNs p = x / 65536 % 2 ^ Field.portRetryCfgReplayNs.info.width ∧
          s'.rd .portRetryCfgLimit p = x % 2 ^ Field.portRetryCfgLimit.info.width) ∧
        ((s.port p).mode = .disabled → ∀ v, v < f.bufs.length → s'.rd .portRxbufVc p v = f.bufs.getD v 0 % 2 ^ Field.portRxbufVc.info.width) ∧
        ((s.port p).mode ≠ .disabled → ∀ v, s'.rd .portRxbufVc p v = s.rd .portRxbufVc p v) ∧
        s.Answers s' r 0 [] [] ([(Field.portTrainCfgTimeoutMs, p.val, 0), (Field.portRetryCfgReplayNs, p.val, 0), (Field.portRetryCfgLimit, p.val, 0)] ++
          (List.range 8).map (fun v => (Field.portRxbufVc, p.val, v))))) ∧
      (p.val < s.variant.ports → ∀ v, f.ctrl = some v →
        let t0 := s.rxbufWrite p f.bufs
        let t1 := (f.timeoutMs.map (fun x => t0.wr .portTrainCfgTimeoutMs p 0 x)).getD t0
        let t := (f.retry.map (fun x => (t1.wr .portRetryCfgReplayNs p 0 (x / 65536)).wr .portRetryCfgLimit p 0 x)).getD t1
        (v.testBit 31 = true → (s.port p).mode = .disabled → t.rxbufOk p = false → Completes (.portCfg c p f) s (fun s' =>
          (s.rd .portDownInfoValid p = 0 → s'.rd .portDownInfoReason p = 7) ∧
          s.Answers s' r 8 [] [] [(.portDownInfoReason, p.val, 0), (.portDownAt, p.val, 0), (.portDownInfoValid, p.val, 0)])) ∧
        (v.testBit 31 = false ∨ (s.port p).mode ≠ .disabled ∨ t.rxbufOk p = true → ∀ s1 : State, s1 = t.portEnable p v →
          Completes (.portCfg c p f) s (fun s' => s1.Answers s' r 0 [] [] [])))) ∧
    (s.YcpRuns c 0x0202 2 r → ∀ p : PortId,
      (s.variant.ports ≤ p.val → Completes (.portRetrain c p) s (fun s' => s.Answers s' r 7 [] [] [])) ∧
      (p.val < s.variant.ports → ∀ s1 : State, s1 = s.portRetrain p →
        Completes (.portRetrain c p) s (fun s' => s1.Answers s' r 0 [] [] []))) ∧
    (s.YcpRuns c 0x0203 2 r →
      (Completes (.setDevId c none) s (fun s' => s'.rd .fabDevIdValid = 0 ∧ s.Answers s' r 0 [] [] [(.fabDevIdValid, 0, 0)])) ∧
      (∀ v, v < 0xFFFFF → Completes (.setDevId c (some v)) s (fun s' => s'.rd .fabDevIdId = v ∧ s'.rd .fabDevIdValid = 1 ∧
        s.Answers s' r 0 [] [] [(.fabDevIdId, 0, 0), (.fabDevIdValid, 0, 0)])) ∧
      (Completes (.setDevId c (some 0xFFFFF)) s (fun s' => s.Answers s' r 8 [] [] [])) ∧
      (∀ v, v ≥ 2 ^ 20 → Completes (.setDevId c (some v)) s (fun s' => s.Answers s' r 6 [] [] []))) ∧
    (s.YcpRuns c 0x0204 2 r → ∀ bank, bank < 2 →
      (∀ entries : List (Nat × Nat × Nat), (∀ e ∈ entries, e.1 < 2 ∧ e.2.1 < (if e.1 = 0 then 4096 else 262144)) →
        (s.rd .fabEpochInj = bank ∨ s.rtHeld bank ≠ 0 → Completes (.rtLoad c bank entries) s (fun s' =>
          s'.rd .rtWrDeny = (s.rd .rtWrDeny + 1) % 2 ^ 64 ∧ s.Answers s' r 8 [] [] [(.rtWrDeny, 0, 0)])) ∧
        (s.rd .fabEpochInj ≠ bank → s.rtHeld bank = 0 →
          Completes (.rtLoad c bank entries) s (fun s' =>
            (∀ l i, l < 2 → i < 262144 → s'.rtEntry bank l i = ((entries.reverse.find? (fun e => e.1 == l && e.2.1 == i)).map (fun e =>
              if l = 0 then e.2.2 &&& 0xF80003FF else e.2.2 &&& 0xF000)).getD (s.rtEntry bank l i)) ∧
            (∀ b l i, b < 2 → b ≠ bank → l < 2 → i < 262144 → s'.rtEntry b l i = s.rtEntry b l i) ∧
            s.Answers s' r 0 [] [.rt] [(.rtAccAddrAutoinc, 0, 0), (.rtAccAddrBank, 0, 0), (.rtAccAddrLevel, 0, 0), (.rtAccAddrIndex, 0, 0)])))) ∧
    (s.YcpRuns c 0x0205 2 r →
      (∀ e, e ≤ 1 → ∀ s1 : State, s1 = s.epochWrite e → Completes (.epochSet c e) s (fun s' => s1.Answers s' r 0 [] [] [])) ∧
      (∀ e, e > 1 → Completes (.epochSet c e) s (fun s' => s.Answers s' r 6 [] [] []))) ∧
    (s.YcpRuns c 0x0206 2 r → ∀ (ports : List (Nat × Nat)) (w : Nat),
      ((∀ e ∈ ports, e.1 < s.variant.ports) → Completes (.vcWeight c ports (some w)) s (fun s' =>
        s'.rd .fabEndstnWeight = w % 2 ^ 32 ∧
        (∀ p, p < 8 → s'.rd .vcWeight p = ((ports.reverse.find? (fun e => e.1 == p)).map (fun e => e.2 % 2 ^ 32)).getD (s.rd .vcWeight p)) ∧
        s.Answers s' r 0 [] [] ((.fabEndstnWeight, 0, 0) :: ports.map (fun e => (Field.vcWeight, e.1, 0))))) ∧
      ((∀ e ∈ ports, e.1 < s.variant.ports) → Completes (.vcWeight c ports none) s (fun s' =>
        s.Answers s' r 0 [] [] (ports.map (fun e => (Field.vcWeight, e.1, 0))))) ∧
      ((∀ e ∈ ports, e.1 < 8) → (∃ e ∈ ports, s.variant.ports ≤ e.1) → Completes (.vcWeight c ports (some w)) s (fun s' => s.Answers s' r 7 [] [] []))) ∧
    (s.YcpRuns c 0x0207 2 r → ∀ (g : GroupId) (f : GroupIn), groupBad f = false →
      let fields : List (Field × Nat × Nat) := [(.collCfgVc, g.val, 0), (.collCfgReplayLimit, g.val, 0), (.collCfgTile, g.val, 0), (.collCfgGid, g.val, 0),
        (.collNM1, g.val, 0), (.collIndex, g.val, 0), (.collMap, g.val, 0), (.collStepTimeoutNs, g.val, 0), (.collProgressTimeoutNs, g.val, 0),
        (.collSeq, g.val, 0), (.collCfgValid, g.val, 0)]
      let stored (s' : State) : Prop :=
        s'.rd .collCfgVc g = f.vc ∧ s'.rd .collCfgReplayLimit g = f.replayLimit ∧ s'.rd .collCfgTile g = f.tile ∧ s'.rd .collCfgGid g = f.gid ∧
        s'.rd .collNM1 g + 1 = f.n ∧ s'.rd .collIndex g = f.index ∧ s'.rd .collMap g = f.map ∧ s'.rd .collStepTimeoutNs g = f.stepNs ∧
        s'.rd .collProgressTimeoutNs g = f.progressNs ∧ s'.rd .collSeq g = f.seq ∧ s'.rd .collCfgValid g = (if f.valid then 1 else 0)
      let twin (h : Nat) : Prop := h < 64 ∧ h ≠ g.val ∧ s.rd .collCfgValid h ≠ 0 ∧ s.rd .collCfgGid h = f.gid ∧ s.rd .collCfgTile h = f.tile
      ((∃ h, twin h) → f.valid = false → Completes (.groupCfg c g f) s (fun s' => s.Answers s' r 8 [] [] [])) ∧
      (∀ peers, peers = schedulePeers f.n (orderOf (s.rd .collOrderMode g) f.n) f.index → f.valid = true → (∃ h, twin h) ∨ 64 < peers.length →
        (∀ m ∈ peers, s.okBytes (f.map + 4 * m) 4 = 4) → (∀ k, s.mark k = 0) → (∀ u i, (s.slot u i).mode ≠ .committing) →
        Completes (.groupCfg c g f) s (fun s' => s.Responded s' c 2 r.stamp 8 [] ∧
          (∀ k i j, k ∉ moveFields ++ eventFields.map (fun e => e.1) ++ [Field.mbxState, .mbxErrStatus] → s'.rd k i j = s.rd k i j) ∧
          s.Only s' [.regs, .mem, .mbx, .adit, .free, .act, .ecc, .tiles])) ∧
      ((∀ h, ¬ twin h) → ∀ peers, peers = schedulePeers f.n (orderOf (s.rd .collOrderMode g) f.n) f.index →
        (f.valid = false → 64 < peers.length → Completes (.groupCfg c g f) s (fun s' => s.Answers s' r 8 [] [] [])) ∧
        (f.valid = false → peers.length ≤ 64 → Completes (.groupCfg c g f) s (fun s' =>
          stored s' ∧ sget [] g.val s'.collMap = [] ∧ s.Answers s' r 0 [] [.collMap] fields)) ∧
        (f.valid = true → peers.length ≤ 64 → (∀ m ∈ peers, s.okBytes (f.map + 4 * m) 4 = 4) → (∀ k, s.mark k = 0) →
          (∀ u i, (s.slot u i).mode ≠ .committing) → Completes (.groupCfg c g f) s (fun s' =>
            stored s' ∧ sget [] g.val s'.collMap = peers.map (fun m =>
              (m, leNat (s.memBytes (f.map + 4 * m) 4) / 256 % 2 ^ 20, leNat (s.memBytes (f.map + 4 * m) 4) % 256)) ∧
            s.Responded s' c 2 r.stamp 0 [] ∧ (∀ k i j, k ∉ moveFields ++ fields.map (fun e => e.1) ++ eventFields.map (fun e => e.1) ++ [Field.mbxState] →
              s'.rd k i j = s.rd k i j) ∧ s.Only s' [.regs, .mem, .mbx, .adit, .free, .collMap, .act, .ecc, .tiles])))) ∧
    (s.YcpRuns c 0x0208 2 r → ∀ g seq : Nat,
      (g < 64 → seq < 2 ^ 32 → Completes (.groupReset c g seq) s (fun s' => s'.rd .collStatusAborted g = 0 ∧ s'.rd .collSeq g = seq ∧
        s.Answers s' r 0 [] [] [(.collStatusAborted, g, 0), (.collSeq, g, 0)])) ∧
      (g ≥ 64 → Completes (.groupReset c g seq) s (fun s' => s.Answers s' r 6 [] [] []))) ∧
    (s.YcpRuns c 0x0209 2 r → ∀ g, g < 64 →
      (s.rd .collCfgValid g = 0 → Completes (.groupAbort c g) s (fun s' => s.Answers s' r 8 [] [] [])) ∧
      (s.rd .collCfgValid g ≠ 0 →
        (s.coll g = none → Completes (.groupAbort c g) s (fun s' =>
          s'.rd .collStatusAborted g = 1 ∧ (s.rd .collAbortInfoValid g = 0 → s'.rd .collAbortInfoReason g = 6 ∧ s'.rd .collAbortInfoValid g = 1) ∧
          s.Answers s' r 0 [] [.ic] [(.collStatusAborted, g, 0), (.collAbortInfoReason, g, 0), (.collAbortInfoMember, g, 0), (.collAbortTag, g, 0),
            (.collSigLocal, g, 0), (.collSigRemote, g, 0), (.collAbortInfoValid, g, 0)])) ∧
        (∀ x, s.coll g = some x → Completes (.groupAbort c g) s (fun s' =>
          s'.coll g = none ∧ s'.rd .collStatusAborted g = 1 ∧ s'.rd .collAborts g = (s.rd .collAborts g + 1) % 2 ^ 64 ∧
          (s.rd .collAbortInfoValid g = 0 → s'.rd .collAbortInfoReason g = 6) ∧ (∀ h, h ≠ g → s'.coll h = s.coll h) ∧
          s'.rd .mbxState c = 2)))) ∧
    (s.YcpRuns c 0x020A 2 r → ∀ g mode : Nat,
      (g ≥ 64 ∨ mode > 3 → Completes (.groupOrder c g mode) s (fun s' => s.Answers s' r 6 [] [] [])) ∧
      (g < 64 → mode ≤ 3 → ∀ peers, peers = schedulePeers (s.rd .collNM1 g + 1) (orderOf mode (s.rd .collNM1 g + 1)) (s.rd .collIndex g) →
        (64 < peers.length → s.rd .collCfgValid g = 0 ∨ (∀ m ∈ peers, ∃ e ∈ sget [] g s.collMap, e.1 = m) →
          Completes (.groupOrder c g mode) s (fun s' => s.Answers s' r 8 [] [] [])) ∧
        (peers.length ≤ 64 → s.rd .collCfgValid g = 0 ∨ (∀ m ∈ peers, ∃ e ∈ sget [] g s.collMap, e.1 = m) →
          Completes (.groupOrder c g mode) s (fun s' => s'.rd .collOrderMode g = mode ∧ sget [] g s'.collMap = sget [] g s.collMap ∧
            s.Answers s' r 0 [] [.collMap] [(.collOrderMode, g, 0)])))) ∧
    (s.YcpRuns c 0x0301 1 r → ∀ watts,
      (watts < 600 → Completes (.setCap c watts) s (fun s' => s.Answers s' r 6 [] [] [])) ∧
      (600 ≤ watts → Completes (.setCap c watts) s (fun s' =>
        s'.rd .pwrCapCapW = min watts s.variant.tdp ∧ s'.pwr = { s.pwr with capWas := s'.pwr.capWas } ∧ s.Answers s' r 0 [] [.pwr] [(.pwrCapCapW, 0, 0)]))) ∧
    (s.YcpRuns c 0x0302 1 r → Completes (.getPower c) s (fun s' => ∃ p : List Byte, p.length = 64 ∧ s.Answers s' r 0 p [.free] [])) ∧
    (s.YcpRuns c 0x0303 1 r → ∀ on : Bool, Completes (.paceMode c on) s (fun s' =>
      s'.rd .pwrPaceCfgMatchEn = (if on then 1 else 0) ∧ s.Answers s' r 0 [] [] [(.pwrPaceCfgMatchEn, 0, 0)])) ∧
    (s.YcpRuns c 0x0304 1 r → ∀ (k : PbId) (on : Bool),
      (r.began = false → s.inStop = true → Completes (.pbGate c k on) s (fun s' => s.Answers s' r 8 [] [] [])) ∧
      (r.began = false → s.inStop = false → s.pbGated k = !on → Completes (.pbGate c k on) s (fun s' => s.Answers s' r 0 [] [] [])) ∧
      (r.began = false → s.inStop = false → on = false → s.pbGated k = false →
        (s.pbBound k = true → Completes (.pbGate c k on) s (fun s' =>
          s'.rd .pwrGateRefused = (s.rd .pwrGateRefused + 1) % 2 ^ 64 ∧ s.Answers s' r 8 [] [] [(.pwrGateRefused, 0, 0)])) ∧
        (s.pbBound k = false → (∀ t b, t < 256 → tilePb t = k.val → (s.bank t b).waiting = []) → Completes (.pbGate c k on) s (fun s' =>
          (∀ t, t < 256 → tilePb t = k.val → (s'.tile t).gated = true ∧ (s'.tile t).tallyValid = false ∧ (s'.tile t).core.mode = .held ∧
            (s'.tile t).hoist.nextTag = (s.tile t).hoist.nextTag ∧ ∀ b off, off < bankSize b → s'.byte (spdAddr t b off) = 0#8) ∧
          (∀ a, (∀ t b off, t < 256 → tilePb t = k.val → off < bankSize b → a ≠ spdAddr t b off) →
            ¬ (mbxKey c 0x2000 ≤ a ∧ a < mbxKey c 0x2020) → s'.byte a = s.byte a) ∧
          (∀ t, ¬ (t < 256 ∧ tilePb t = k.val) → s'.tile t = s.tile t) ∧ s.Answers s' r 0 [] [.tiles, .mem, .ecc] []))) ∧
      (r.began = false → s.inStop = false → on = true → s.pbGated k = true → Completes (.pbGate c k on) s (fun s' =>
        (∀ t, t < 256 → tilePb t = k.val → s'.tile t = { s.tile t with gated := false }) ∧
        (∀ t, ¬ (t < 256 ∧ tilePb t = k.val) → s'.tile t = s.tile t) ∧
        s'.mbx = { s.mbx with run := s.mbx.run.map (fun q => if q.chan = c.val then { q with began := true } else q) } ∧
        s.Only s' [.tiles, .mbx, .quietFrom])) ∧
      (r.began = true → (∀ t, t < 256 → tilePb t = k.val → (s.tile t).tallyValid = true) → Completes (.pbGate c k on) s (fun s' =>
        s.Answers s' r 0 [] [] [])))

/-- O54. Commands of the RAS agent, the debug broker, the CRC/snapshot service and the security functions (R354 to R356, R420, R421, R429, R432, R434, R441, R444,
R454, R457, R461, R463, R469, R472, R475, R488, R492, R493). RESET begins or joins the reset that the reset rows perform and is answered after it. RAS_SET writes
every entry or none. DBG_UNLOCK opens access for a good token and consumes the nonce. GLOBAL_STOP stops the device; RESUME ends the stop. SKIP_START takes a
plan; CRC_SCAN answers the code of the bytes. BACKFILL retires, parks and assumes. Images and records are written and verified; ATTEST answers a report that
is signed. Payload fields that no rule lays out are operands (log 6). -/
def Obligations.ManagementCommands : Prop :=
  ∀ (c : ChanId) (s : State) (r : MbxCmd),
    let waits (s' : State) : Prop := s'.mbx = { s.mbx with run := s.mbx.run.map (fun q => if q.chan = c.val then { q with began := true } else q) }
    (s.YcpRuns c 0x0401 3 r → ∀ dom inst, dom = s.pay c 0 1 → inst = s.pay c 2 2 →
      (s.rasw.cmdGen = none → r.began = true → dom = 3 → inst = 3 → s.pay c 1 1 = 0 → Completes (.reset c) s (fun s' =>
        s'.rasw = s.rasw ∧ s.Answers s' r 0 (fieldBytes [(s.rd .hfCompStatusGen 0 3, 1), (0, 7), (s.tally, 8)]) [.rasw] [])) ∧
      (s.rasw.cmdGen = none → r.began = false →
        (dom > 4 → Completes (.reset c) s (fun s' => s.Answers s' r 6 [] [] [])) ∧
        (dom = 1 → inst < 8 → s.variant.ports ≤ inst → Completes (.reset c) s (fun s' => s.Answers s' r 7 [] [] [])) ∧
        (s.pay c 1 1 = 0 →
          (∀ (t : TileId) (s1 : State), dom = 0 → inst = t.val → (∀ e, (s.tile t).resetAt = some e → s.tally < e) → s1 = s.tileResetBegin t →
            Completes (.reset c) s (fun s' => waits s' ∧ s' = { s1 with mbx := s'.mbx, rasw := { s1.rasw with cmdGen := some (s.rd .tileGen t) } })) ∧
          (∀ (p : PortId) (s1 : State), dom = 1 → inst = p.val → p.val < s.variant.ports → (∀ e, (s.port p).resetAt = some e → s.tally < e) →
            s1 = s.portResetBegin p →
            Completes (.reset c) s (fun s' => waits s' ∧ s' = { s1 with mbx := s'.mbx, rasw := { s1.rasw with cmdGen := some (s.rd .portGen p) } })) ∧
          (∀ (h : HbmcId) (s1 : State), dom = 2 → inst = h.val → h.val < s.variant.hbmcs → s1 = s.hbmcReset h →
            Completes (.reset c) s (fun s' => waits s' ∧ s' = { s1 with mbx := s'.mbx, rasw := { s1.rasw with cmdGen := some (s.rd .hbmGen h) } })) ∧
          (∀ k : CompId, dom = 3 → inst = k.val → (s.comp k).mode = .running → Completes (.reset c) s (fun s' =>
            waits s' ∧ (s'.comp k).mode = .restarting ∧ s'.rd .hfCompStatusGen 0 k = (s.rd .hfCompStatusGen 0 k + 1) % 2 ^ 8 ∧
            (∀ j, j ≠ k.val → s'.comp j = s.comp j) ∧ s.Only s' [.regs, .comps, .mbx, .mem, .free, .ic, .hfOut, .demand, .rasLog, .rasw, .nhLast, .nhWait])) ∧
          (dom = 4 → s.warmAt = 0 → s.rasw.warmPlan = 0 → Completes (.reset c) s (fun s' =>
            s'.rasw = { s.rasw with warmPlan := s.tally + 1000001 } ∧
            s.Answers s' r 0 (fieldBytes [(0, 1), (0, 7), (s.tally + 1000000, 8)]) [.rasw] []))) ∧
        (s.pay c 1 1 = 1 → dom ≤ 2 → s.resetCheck dom inst = none → s.rasw.collecting = none → s.rd .rasPmStatusValid = 0 → s.inStop = false →
          Completes (.reset c) s (fun s' => waits s' ∧ s'.rasw.collecting = some [0, dom, inst, 0, s.tally] ∧ s'.rasw.then_ = [(dom, inst)] ∧
            s'.rd .dbgHaltStatusStopping = 1 ∧ s'.rd .dbgHaltId = s.pmId % 2 ^ 64 ∧ (∀ t, t < 256 → (s'.tile t).stopped = true)))) ∧
      (∀ g, s.rasw.cmdGen = some g → s.rasw.collecting = none →
        (dom ≤ 2 → s.pay c 1 1 = 0 → s.genOf dom inst ≠ g → Completes (.reset c) s (fun s' => s'.rasw = { s.rasw with cmdGen := none } ∧
          s.Answers s' r 0 (fieldBytes [(s.genOf dom inst, 1), (0, 7), (s.tally, 8)]) [.rasw] [])) ∧
        (dom ≤ 2 → s.genOf dom inst = g → Completes (.reset c) s (fun s' => waits s' ∧ s.Only s' [.mbx])))) ∧
    (s.YcpRuns c 0x0402 3 r → Completes (.getErrors c) s (fun s' => s.Answers s' r 0
      (natLe 8 (s.pay c 0 8) ++ ((s.rasLog.filter (fun x => decide (s.pay c 0 8 ≤ x.seq))).take 254).flatMap LogRec.bytes) [] [])) ∧
    (s.YcpRuns c 0x0403 3 r → ∀ off len, len = 64 * s.rd .rasPmStatusLength →
      (s.rd .rasPmStatusValid = 0 → Completes (.postmortemRead c off) s (fun s' => s.Answers s' r 8 [] [] [])) ∧
      (s.rd .rasPmStatusValid ≠ 0 → len ≤ off → Completes (.postmortemRead c off) s (fun s' => s.Answers s' r 6 [] [] [])) ∧
      (s.rd .rasPmStatusValid ≠ 0 → off < len → ∀ a n, a = s.rd .rasPmBase + off → n = min 8160 (len - off) → s.mpuMay 3 a n 0 = true →
        (∀ u ∈ spanUnits a n, s.hfAccess u.1 = .ok) → (∀ k, s.mark k = 0) → Completes (.postmortemRead c off) s (fun s' =>
        s.Responded s' c 3 r.stamp 0 (s.memBytes a n) ∧
        s.Only s' [.regs, .mem, .mbx, .adit, .free, .ic, .act, .ecc, .ras, .tiles, .hbmcs]))) ∧
    (s.YcpRuns c 0x0404 3 r → ∀ n, n = s.reqNat c 8 2 / 8 →
      let off (i : Nat) : Nat := s.pay c (8 * i) 4
      let v (i : Nat) : Nat := s.pay c (8 * i + 4) 4
      let pm (o : Nat) : Prop := o = 0x0A000018 ∨ o = 0x0A00001C ∨ o = 0x0A000020
      let ok (o : Nat) : Prop := o ∈ [0x0A000000, 0x0A000004, 0x0A000008, 0x0A00000C, 0x0A000010] ∨ pm o ∨ ∃ j, j < 16 ∧ o = 0x0A000080 + 4 * j
      ((∃ i, i < n ∧ ¬ ok (off i)) → Completes (.rasSet c) s (fun s' => s.Answers s' r 6 [] [] [])) ∧
      ((∀ i, i < n → ok (off i)) → (∃ i, i < n ∧ pm (off i)) → s.rasw.collecting ≠ none ∨ s.rd .rasPmStatusValid ≠ 0 →
        Completes (.rasSet c) s (fun s' => s.Answers s' r 8 [] [] [])) ∧
      ((∀ i, i < n → ok (off i)) → (∀ i, i < n → ¬ pm (off i)) ∨ (s.rasw.collecting = none ∧ s.rd .rasPmStatusValid = 0) →
        Completes (.rasSet c) s (fun s' =>
          (∀ i, i < n → (∀ j, i < j → j < n → off j ≠ off i) →
            (∀ (f : Field) (j : Nat), j < f.info.cnt → f.info.wide = false → f.info.off + f.info.stride * j = off i →
              s'.rd f 0 j = v i / 2 ^ f.info.lo % 2 ^ f.info.width) ∧
            (off i = 0x0A000018 → s'.rd .rasPmBase % 2 ^ 32 = v i) ∧ (off i = 0x0A00001C → s'.rd .rasPmBase / 2 ^ 32 = v i % 2 ^ 16)) ∧
          s.Answers s' r 0 [] [] ([(Field.rasCfgHangEn, 0, 0), (Field.rasCfgHangAction, 0, 0), (Field.rasCfgAutoWarm, 0, 0), (Field.rasCfgPmPropagate, 0, 0),
            (Field.rasCfgCeThresh, 0, 0), (Field.rasHangThreshNs, 0, 0), (Field.rasHangRemoteNs, 0, 0), (Field.rasHangScanUs, 0, 0), (Field.rasFenceMs, 0, 0), (Field.rasPmBase, 0, 0),
            (Field.rasPmCap, 0, 0)] ++ (List.range 16).flatMap (fun i => [(Field.rasNotifyDestValid, 0, i), (Field.rasNotifyDestDevice, 0, i)]))))) ∧
    (s.YcpRuns c 0x0405 3 r → ∀ b, b = s.pay c 0 4 →
      (b < 4 → Completes (.rasClear c) s (fun s' =>
        s'.rd .rasPmStatusValid = (if b % 2 = 1 then 0 else s.rd .rasPmStatusValid) ∧
        s'.rd .rasHangInfoValid = (if b / 2 = 1 then 0 else s.rd .rasHangInfoValid) ∧
        s.Answers s' r 0 [] [] [(.rasPmStatusValid, 0, 0), (.rasHangInfoValid, 0, 0)])) ∧
      (4 ≤ b → Completes (.rasClear c) s (fun s' => s.Answers s' r 6 [] [] []))) ∧
    (s.YcpRuns c 0x0501 4 r →
      (s.rd .secStatusIdValid = 0 → Completes (.dbgChallenge c) s (fun s' => s.Answers s' r 8 [] [] [])) ∧
      (s.rd .secStatusIdValid ≠ 0 → Completes (.dbgChallenge c) s (fun s' => ∃ nonce : List Byte, nonce.length = 32 ∧
        s'.dbg = { s.dbg with nonce := some nonce, nonceAt := s.tally } ∧
        s.Answers s' r 0 (nonce ++ identityHash ++ natLe 8 s.tally) [.dbg, .free] []))) ∧
    (s.YcpRuns c 0x0502 4 r → ∀ tok, tok = s.payBytes c 0 256 →
      let posted : List (Field × Nat × Nat) := [(.mbxEvtHead, 63, 0), (.mbxEvtDrop, 63, 0)]
      (s.reqNat c 8 2 = 0 → Completes (.dbgUnlock c) s (fun s' =>
        s'.rd .dbgLockOpen = 0 ∧ s'.rd .dbgLockPerms = 0 ∧ (∀ t, t < 256 → (s'.tile t).core.mode = (if (s.tile t).core.mode = .broken then .running else (s.tile t).core.mode)) ∧
        s'.mod = { s.mod with jtagWait := [] } ∧
        s.Answers s' r 0 (fieldBytes [(s.rd .dbgOpenUntil, 8), (0, 2)]) [.tiles, .mod] [(.dbgLockOpen, 0, 0), (.dbgLockPerms, 0, 0)])) ∧
      (s.reqNat c 8 2 ≠ 0 → s.dbg.nonce ≠ some ((tok.drop 64).take 32) ∨ s.tally ≥ s.dbg.nonceAt + 300000000000 ∨ (tok.drop 16).take 48 ≠ identityHash ∨
          leNat ((tok.drop 96).take 4) = 0 ∨ leNat ((tok.drop 96).take 4) > 604800 ∨
          (∀ key, sigOk key (tok.take 160) (tok.drop 160) = false) → Completes (.dbgUnlock c) s (fun s' =>
        s'.dbg = { s.dbg with nonce := none } ∧ s'.rd .dbgUnlockFail = (s.rd .dbgUnlockFail + 1) % 2 ^ 64 ∧
        s.Answers s' r 12 [] [.dbg, .mbx, .mem, .free, .uart] ((.dbgUnlockFail, 0, 0) :: posted))) ∧
      (s.reqNat c 8 2 ≠ 0 → s.tokenOk tok = true → Completes (.dbgUnlock c) s (fun s' =>
        s'.dbg = { s.dbg with nonce := none } ∧ s'.rd .dbgLockOpen = 1 ∧ s'.rd .dbgLockPerms = leNat ((tok.drop 6).take 2) ∧
        s'.rd .dbgOpenUntil = (s.tally + leNat ((tok.drop 96).take 4) * 1000000000) % 2 ^ 64 ∧
        s'.rd .dbgUnlocks = (s.rd .dbgUnlocks + 1) % 2 ^ 64 ∧
        s.Answers s' r 0 (fieldBytes [(s'.rd .dbgOpenUntil, 8), (s'.rd .dbgLockPerms, 2)]) [.dbg, .mbx, .mem, .free, .uart]
          ([(Field.dbgLockOpen, 0, 0), (Field.dbgLockPerms, 0, 0), (Field.dbgOpenUntil, 0, 0), (Field.dbgUnlocks, 0, 0)] ++ posted)))) ∧
    (s.YcpRuns c 0x0503 4 r → ∀ id, id = s.pay c 0 8 →
      (id = 0 ∨ 2 ^ 63 ≤ id → Completes (.globalStop c) s (fun s' => s.Answers s' r 6 [] [] [])) ∧
      (0 < id → id < 2 ^ 63 → s.inStop = true → Completes (.globalStop c) s (fun s' => s.Answers s' r 8 [] [] [])) ∧
      (0 < id → id < 2 ^ 63 → s.inStop = false → Completes (.globalStop c) s (fun s' =>
        s'.rd .dbgHaltStatusStopping = 1 ∧ s'.rd .dbgHaltId = id ∧ s'.rd .dbgHaltAt = s.tally % 2 ^ 64 ∧
        (∀ t, t < 256 → s'.tile t = { s.tile t with stopped := true }) ∧ (∀ p, p < 8 → (s'.port p).halted = true) ∧
        s'.dbg.dumpAt = s.pay c 8 8 ∧ s'.dbg.dumpCap = s.pay c 16 8 ∧
        s.Answers s' r 0 (natLe 8 s.tally) [.dbg, .tiles, .ports] [(.dbgHaltCtrlPropagate, 0, 0), (.dbgHaltId, 0, 0), (.dbgHaltAt, 0, 0),
          (.dbgHaltOrigin, 0, 0), (.dbgHaltStatusStopping, 0, 0), (.dbgHaltStatusLinkLost, 0, 0)]))) ∧
    (s.YcpRuns c 0x0504 4 r →
      (s.pay c 8 1 = 0 → s.pay c 0 8 ≠ s.rd .dbgHaltId → Completes (.resume c) s (fun s' => s.Answers s' r 6 [] [] [])) ∧
      (s.pay c 8 1 = 0 → s.pay c 0 8 = s.rd .dbgHaltId → s.inStop = true → s.dbg.heldWrites = [] →
        Completes (.resume c) s (fun s' => s'.inStop = false ∧ (∀ t, t < 256 → (s'.tile t).stopped = false) ∧ (∀ p, p < 8 → s'.port p = { s'.port p with halted := false, marker := none, linkShut := false, past := false, record := [], late := [] }) ∧
          ((∀ p, (s.port p).record = [] ∧ (s.port p).late = []) →
            s.Answers s' r 0 [] [.tiles, .colls, .skip, .ports, .quietFrom] [(.dbgHaltStatusHalted, 0, 0), (.dbgHaltStatusStopping, 0, 0)]) ∧
          s'.rd .mbxState c = 2)) ∧
      (s.pay c 8 1 = 1 → s.rd .dbgLockOpen = 0 ∨ (s.rd .dbgLockPerms).testBit 1 = false → Completes (.resume c) s (fun s' => s.Answers s' r 13 [] [] [])) ∧
      (s.pay c 8 1 = 1 → s.rd .dbgLockOpen ≠ 0 → (s.rd .dbgLockPerms).testBit 1 = true → Completes (.resume c) s (fun s' =>
        (∀ t, (s'.tile t).core.mode = (if t = s.pay c 9 1 ∧ (s.tile t).core.mode = .broken then .running else (s.tile t).core.mode)) ∧
        s.Answers s' r 0 [] [.tiles] []))) ∧
    (s.YcpRuns c 0x0505 4 r → ∀ base lg, base = s.pay c 0 8 % 2 ^ 48 → lg = s.pay c 8 1 % 32 →
      ((base ≠ s.rd .dbgPcsBase ∨ lg ≠ s.rd .dbgPcsCfgLog2Bytes) → s.rd .dbgPcsCfgEn ≠ 0 → Completes (.pcsCfg c) s (fun s' => s.Answers s' r 8 [] [] [])) ∧
      ((base = s.rd .dbgPcsBase ∧ lg = s.rd .dbgPcsCfgLog2Bytes) ∨ s.rd .dbgPcsCfgEn = 0 → Completes (.pcsCfg c) s (fun s' =>
        s'.rd .dbgPcsBase = base ∧ s'.rd .dbgPcsCfgLog2Bytes = lg ∧ s'.rd .dbgPcsIntervalNs = s.pay c 12 4 ∧ s'.rd .dbgPcsCfgEn = s.pay c 9 1 % 2 ∧
        (∀ i, i < 8 → s'.rd .dbgPcsTiles 0 i = s.pay c (16 + 4 * i) 4) ∧
        s.Answers s' r 0 [] [.dbg] ([(Field.dbgPcsBase, 0, 0), (Field.dbgPcsCfgLog2Bytes, 0, 0), (Field.dbgPcsTail, 0, 0), (Field.dbgPcsIntervalNs, 0, 0), (Field.dbgPcsCfgEn, 0, 0)] ++
          (List.range 8).map (fun i => (Field.dbgPcsTiles, 0, i)))))) ∧
    (s.YcpRuns c 0x0506 4 r → ∀ a h, a = ahead32 (s.pay c 0 4) (s.rd .dbgPcsTail) → h = ahead32 (s.rd .dbgPcsHead) (s.rd .dbgPcsTail) →
      (h < a → Completes (.pcsTail c) s (fun s' => s.Answers s' r 6 [] [] [])) ∧
      (a ≤ h → Completes (.pcsTail c) s (fun s' => s'.rd .dbgPcsTail = s.pay c 0 4 ∧ s.Answers s' r 0 [] [] [(.dbgPcsTail, 0, 0)]))) ∧
    (s.YcpRuns c 0x0601 5 r → ∀ nr base cap lg regions l, nr = s.pay c 46 2 → base = s.pay c 16 8 → cap = s.pay c 24 8 → lg = s.pay c 44 1 →
      regions = (List.range nr).map (fun j => (s.pay c (56 + 16 * j) 6, s.pay c (64 + 16 * j) 8)) → l = skipChunks lg regions →
      (s.pay c 0 8 = 0 → nr = 0 → s.rd .skpStatusState = 0 → Completes (.skipStart c) s (fun s' => ∃ p : List Byte, p.length = 12 ∧
        s.Answers s' r 0 p [.free] [])) ∧
      (s.pay c 0 8 = 0 → nr = 0 → s.rd .skpStatusState ≠ 0 → Completes (.skipStart c) s (fun s' =>
        s'.rd .skpStatusState = 0 ∧ s'.rd .skpStatusResult = 5 ∧ s'.rd .skpAborts = (s.rd .skpAborts + 1) % 2 ^ 64 ∧ s'.skip.chunks = [] ∧ s'.rd .mbxState c = 2)) ∧
      (s.pay c 0 8 ≠ 0 → nr = 0 ∨ 64 < nr ∨ s.pay c 8 8 < r.stamp + 10000 ∨ lg < 16 ∨ 23 < lg ∨ base % 64 ≠ 0 ∨ base < 0x10000000000 →
        Completes (.skipStart c) s (fun s' => s.Answers s' r 6 [] [] [])) ∧
      (s.pay c 0 8 ≠ 0 → 0 < nr → nr ≤ 64 → s.pay c 8 8 ≥ r.stamp + 10000 → 16 ≤ lg → lg ≤ 23 → base % 64 = 0 → base ≥ 0x10000000000 →
        s.decodes base cap = true → (∀ g ∈ regions, s.regionOk base cap g = true) → l.2 + 64 ≤ cap →
        (s.rd .skpStatusState ≠ 0 → Completes (.skipStart c) s (fun s' => s.Answers s' r 8 [] [] [])) ∧
        (s.rd .skpStatusState = 0 → Completes (.skipStart c) s (fun s' =>
          s'.rd .skpId = s.pay c 0 8 ∧ s'.rd .skpQuiesceAt = s.pay c 8 8 ∧ s'.rd .skpStatusState = 1 ∧ s'.skip.chunks = l.1 ∧
          l.1.length = 2 + (regions.map (fun g => ceilDiv g.2 (2 ^ lg))).foldl (· + ·) 0 ∧
          s.Answers s' r 0 (fieldBytes [(l.2, 8), (l.1.length, 4)]) [.skip] [(.skpId, 0, 0), (.skpQuiesceAt, 0, 0), (.skpStatusState, 0, 0)])))) ∧
    (s.YcpRuns c 0x0602 5 r → ∀ a n poly, a = s.pay c 0 8 → n = s.pay c 8 8 → poly = s.pay c 16 1 →
      (n = 0 ∨ 2 ^ 36 < n ∨ 3 < poly ∨ s.decodes a n = false → Completes (.crcScan c) s (fun s' => s.Answers s' r 6 [] [] [])) ∧
      (0 < n → n ≤ 2 ^ 36 → poly ≤ 3 → s.decodes a n = true → s.rd .skpStatusState = 2 ∨ s.rd .skpStatusState = 3 → Completes (.crcScan c) s (fun s' =>
        s.Answers s' r 8 [] [] [])) ∧
      (s.rd .skpStatusState ≠ 2 → s.rd .skpStatusState ≠ 3 → 0 < n → n ≤ 2 ^ 36 → poly ≤ 3 → s.decodes a n = true →
        (∀ u ∈ spanUnits a n, s.hfAccess u.1 = .ok) → (∀ k, s.mark k = 0) → Completes (.crcScan c) s (fun s' =>
          s.Responded s' c 5 r.stamp 0 (fieldBytes [(crcOf poly (s.memBytes a n), 8), (0, 4)]) ∧
          s'.rd .crcScanBytes = (s.rd .crcScanBytes + n) % 2 ^ 64 ∧
          s.Only s' [.regs, .mem, .mbx, .adit, .free, .ic, .act, .ecc, .ras, .tiles, .hbmcs]))) ∧
    (s.YcpRuns c 0x0603 2 r → ∀ id, id = s.pay c 4 4 % 2 ^ 20 →
      let posted : List (Field × Nat × Nat) := [(.mbxEvtHead, 63, 0), (.mbxEvtDrop, 63, 0)]
      (s.pay c 0 1 = 0 → s.pay c 2 1 < s.variant.ports → s.anyBound = true → Completes (.backfill c) s (fun s' => s.Answers s' r 8 [] [] [])) ∧
      (s.pay c 0 1 = 0 → s.pay c 2 1 < s.variant.ports → s.anyBound = false → Completes (.backfill c) s (fun s' =>
        s'.spare = true ∧ s'.rd .fabDevIdValid = 0 ∧ s'.rd .tlyCtrlRole = 1 ∧ s'.rd .tlyCtrlUpstreamPort = s.pay c 2 1 ∧
        s.Answers s' r 0 [] [.talign, .spare, .mbx, .mem, .free, .uart] ([(Field.fabDevIdValid, 0, 0), (Field.tlyCtrlRole, 0, 0), (Field.tlyCtrlUpstreamPort, 0, 0)] ++ posted))) ∧
      (s.pay c 0 1 = 1 → s.spare = false ∨ id = 0xFFFFF ∨ s.rd .tlyStatusXdevLocked = 0 → Completes (.backfill c) s (fun s' => s.Answers s' r 8 [] [] [])) ∧
      (s.pay c 0 1 = 1 → s.spare = true → id ≠ 0xFFFFF → s.rd .tlyStatusXdevLocked ≠ 0 → s.word 0x40 {} = s.pay c 8 4 →
        (∀ p, p < s.variant.ports → (s.port p).mode = .up → s.rd .portPeerValid p = 0 ∨ s.rd .portPeerPeerDevice p ≠ id) → Completes (.backfill c) s (fun s' =>
          s'.spare = false ∧ s'.rd .fabDevIdId = id ∧ s'.rd .fabDevIdValid = 1 ∧ s'.rd .fabEpochInj = s.pay c 1 1 % 2 ∧
          s.Answers s' r 0 [] [.spare, .mbx, .mem, .free, .uart] ([(Field.fabDevIdId, 0, 0), (Field.fabDevIdValid, 0, 0), (Field.fabEpochInj, 0, 0), (Field.rtFlips, 0, 0)] ++ posted))) ∧
      (s.pay c 0 1 = 2 → Completes (.backfill c) s (fun s' => s'.rd .fabDevIdValid = 0 ∧
        s.Answers s' r 0 [] [.mbx, .mem, .free, .uart] ((.fabDevIdValid, 0, 0) :: posted))) ∧
      (s.pay c 0 1 > 2 → Completes (.backfill c) s (fun s' => s.Answers s' r 6 [] [] []))) ∧
    (s.YcpRuns c 0x0701 0 r → ∀ (img : Fin 2) (off : Nat) (data : List Byte),
      (off + data.length > 0x1000000 → Completes (.fwWrite c img off data) s (fun s' => s.Answers s' r 6 [] [] [])) ∧
      (off + data.length ≤ 0x1000000 → s.boot.image = some img.val → Completes (.fwWrite c img off data) s (fun s' => s.Answers s' r 8 [] [] [])) ∧
      (off + data.length ≤ 0x1000000 → s.boot.image ≠ some img.val → Completes (.fwWrite c img off data) s (fun s' =>
        (∀ i, i < data.length → s'.flashByte (imageBase img + off + i) = data.getD i 0#8) ∧
        (∀ a, ¬ (imageBase img + off ≤ a ∧ a < imageBase img + off + data.length) → s'.flashByte a = s.flashByte a) ∧
        s.Answers s' r 0 [] [.flash, .ic] []))) ∧
    (s.YcpRuns c 0x0702 0 r → ∀ img, img = (if s.boot.image = some 0 then 1 else 0) →
      (s.rd .secStatusIdValid = 0 → Completes (.fwActivate c) s (fun s' => s.Answers s' r 8 [] [] [])) ∧
      (s.rd .secStatusIdValid ≠ 0 → s.imgCheck img true ≠ 0 → Completes (.fwActivate c) s (fun s' => s.Answers s' r 12 [] [] [])) ∧
      (s.rd .secStatusIdValid ≠ 0 → s.imgCheck img true = 0 → (s.comp 5).mode = .failed → Completes (.fwActivate c) s (fun s' => s.Answers s' r 15 [] [] [])) ∧
      ((s.comp 5).mode = .running → s.imgCheck img true = 0 → s.rd .secStatusIdValid ≠ 0 → ∀ k, k < 4096 → s.slotErased k = true →
        (∀ j, j < k → s.slotErased j = false) → Completes (.fwActivate c) s (fun s' =>
          s'.slotBytes k = s.prefRecord img ∧ (∀ a, ¬ (slotBase k ≤ a ∧ a < slotBase k + 4096) → s'.flashByte a = s.flashByte a) ∧
          s'.rd .secRecWr = (s.rd .secRecWr + 1) % 2 ^ 64 ∧
          s.Answers s' r 0 [] [.flash, .records, .ic] [(.secRecWr, 0, 0), (.secStatusOwner, 0, 0), (.secStatusSettings, 0, 0)]))) ∧
    (s.YcpRuns c 0x0703 5 r →
      (s.rd .secStatusIdValid = 0 → Completes (.attest c) s (fun s' => s.Answers s' r 8 [] [] [])) ∧
      (s.rd .secStatusIdValid ≠ 0 → Completes (.attest c) s (fun s' => ∃ p : List Byte,
        s.Answers s' r 0 p [] [(.secAttest, 0, 0)] ∧ s'.rd .secAttest = (s.rd .secAttest + 1) % 2 ^ 64 ∧
        p.take 4 = natLe 4 0x31545441 ∧ (p.drop 8).take 8 = natLe 8 s.tally ∧ (p.drop 16).take 48 = identityHash ∧
        (p.drop 64).take 32 = s.payBytes c 0 32 ∧ (p.drop 352).take 96 = padTo 96 (Config.ecdsaSign (p.take 352)) ∧
        p.drop 448 = ((s.recSlot 1).map (fun k => recWhole (s.slotBytes k))).getD []))) ∧
    (s.YcpRuns c 0x0704 5 r → ∀ x, x = s.payBytes c 0 4096 →
      (recType x = 3 → Completes (.cfgRecordWrite c) s (fun s' => s.Answers s' r 8 [] [] [])) ∧
      (recType x ≠ 3 → s.recValid (s.recInForce 5) (s.on .secStatusIdValid) x = false → Completes (.cfgRecordWrite c) s (fun s' =>
        s'.rd .secRecReject = (s.rd .secRecReject + 1) % 2 ^ 64 ∧ s.Answers s' r 12 [] [] [(.secRecReject, 0, 0)])) ∧
      (recType x ≠ 3 → s.recValid (s.recInForce 5) (s.on .secStatusIdValid) x = true → ∀ k, k < 4096 → s.slotErased k = true →
        (∀ j, j < k → s.slotErased j = false) → Completes (.cfgRecordWrite c) s (fun s' =>
          s'.slotBytes k = x ∧ (∀ a, ¬ (slotBase k ≤ a ∧ a < slotBase k + 4096) → s'.flashByte a = s.flashByte a) ∧
          s'.rd .secRecWr = (s.rd .secRecWr + 1) % 2 ^ 64 ∧
          (s.pay c 4096 1 % 2 = 1 → ∀ i, ctrOf (recType x) = some i → recVersion x ≤ 0xFFFFFFFF → s'.counter i = max (s.counter i) (recVersion x)) ∧
          s.Answers s' r 0 [] [.flash, .records, .mono, .ic] ([(Field.secRecWr, 0, 0), (Field.secStatusOwner, 0, 0), (Field.secStatusSettings, 0, 0), (Field.secCtrAdv, 0, 0)] ++
            (List.range 4).map (fun i => (Field.secCtr, 0, i))))))

/-- O55. The module and the boot chain (R356, R403, R481, R490, R491, R497 to R503, R505, R508). Power comes and goes in R502's order: MOD_PWRGD rises after
MOD_PWR_EN with every field at reset, and the start comes once MOD_PWRGD has been high for 100 ms and PERST# is high; then the tally runs from zero, every replica is valid and every bank clears. A trip
latches the lowest cause and removes the rails until MOD_PWR_EN has been low for 100 ms. Loss of the main or the auxiliary supply keeps the flash and the counter
device only. The sideband reads slot 0. The ROM starts the first image that passes, or sets BOOT_FAIL; READY sets FW_READY; a watchdog that expires records result 2. -/
def Obligations.ModuleAndBoot : Prop :=
  ∀ s : State,
    let lost (s' : State) (keep : List Field) : Prop :=
      (∀ f i j, f ∉ keep → s'.rd f i j = f.reset s.variant i j) ∧ s'.flash = s.flash ∧ s'.mono = s.mono ∧ s'.time = s.time ∧
      s'.tally = 0 ∧ s'.tiles = [] ∧ s'.ports = [] ∧ s'.hbmcs = [] ∧ s'.comps = [] ∧ s'.colls = [] ∧ s'.mbx = {} ∧ s'.ic = {} ∧ s'.adit = {} ∧ s'.ecc = [] ∧
      s'.boot = {} ∧ (∀ k, slook k s.mem = none → s'.byte k = 0#8)
    let kept : List Field := [.hfModStatusTripCause, .hfModStatusStartCause, .pwrTripInfo]
    (s.mod.aux = false → Completes .auxPowerOn s (fun s' => s' = { s with mod := { s.mod with aux := true } })) ∧
    (s.mod.aux = true → s.mod.pwrEn = false →
      (s.mod.enFellAt = 0 ∨ s.mod.enFellAt + 100000000 ≤ s.time + 1 → Completes .modPwrEnRise s (fun s' => s' = { s with mod := { s.mod with pwrEn := true } })) ∧
      (s.mod.enFellAt ≠ 0 → s.time + 1 < s.mod.enFellAt + 100000000 → Completes .modPwrEnRise s (fun s' => s' = s))) ∧
    (s.mod.pwrEn = true → s.mod.pwrgd = false → s.mod.tripped = false → Completes .railsGood s (fun s' =>
      lost s' kept ∧ s'.rd .hfModStatusStartCause = (if s.mod.started then 1 else 0) ∧ s'.rd .hfModStatusTripCause = s.rd .hfModStatusTripCause ∧
      s'.mod.pwrgd = true ∧ s'.mod.pgAt = s.time ∧ s'.mod.running = false ∧ s'.mod.started = true ∧ s'.mod.aux = s.mod.aux)) ∧
    (s.mod.pwrEn = true → Completes .modPwrEnFall s (fun s' => lost s' kept ∧ s'.mod.pwrEn = false ∧ s'.mod.pwrgd = false ∧ s'.mod.running = false ∧
      s'.mod.enFellAt = s.time + 1 ∧ s'.mod.tripped = s.mod.tripped)) ∧
    (s.mod.aux = true → Completes .auxPowerLoss s (fun s' => lost s' [] ∧ s'.mod = {})) ∧
    (s.mod.pwrgd = false → Completes .perstDeassert s (fun s' => s' = { s with mod := { s.mod with perst := false } })) ∧
    (s.mod.pwrgd = true → s.mod.running = false → s.mod.refOk = true →
      (s.time < s.mod.pgAt + 100000000 → Completes .perstDeassert s (fun s' => s' = { s with mod := { s.mod with perst := false } })) ∧
      (s.mod.pgAt + 100000000 ≤ s.time → Completes .perstDeassert s (fun s' =>
        s'.tally = 0 ∧ s'.mod = { s.mod with perst := false, running := true } ∧ s'.boot = { rom := true, cold := true } ∧ s'.rd .tlyStatusDevValid = 1 ∧
        (∀ t, t < 256 → (s'.tile t).tallyValid = true ∧ ∀ b, s'.clearing t b = true) ∧ s.Only s' [.tally, .mod, .boot, .regs, .tiles]))) ∧
    (s.mod.pwrgd = true → s.mod.running = true → Completes .perstDeassert s (fun s' => s' = { s with mod := { s.mod with perst := false } })) ∧
    (s.mod.pwrgd = true → s.mod.warned = false → Runs .powerStageWarning s [.regs, .mod, .ic, .adit] ((.hfModAlerts, 0, 0) :: eventFields) (fun s' =>
      s'.mod = { s.mod with warned := true } ∧ s'.rd .hfModAlerts = (s.rd .hfModAlerts + 1) % 2 ^ 64)) ∧
    (s.mod.warned = true → Completes .powerStageWarning s (fun s' => s' = s)) ∧
    (Completes .powerStageWarningClear s (fun s' => s' = { s with mod := { s.mod with warned := false } })) ∧
    (∀ l : List TripCause, l ≠ [] → s.mod.pwrgd = true → s.mod.tripped = false → Completes (.trip l) s (fun s' =>
      lost s' kept ∧ s'.mod.tripped = true ∧ s'.mod.pwrgd = false ∧ s'.mod.running = false ∧
      (∀ k ∈ l, s'.rd .hfModStatusTripCause ≤ (tripCode k).1) ∧ (∃ k ∈ l, s'.rd .hfModStatusTripCause = (tripCode k).1))) ∧
    (∀ l : List TripCause, s.mod.tripped = true → Completes (.trip l) s (fun s' => s' = s)) ∧
    (s.mod.tripped = true →
      (s.mod.pwrEn = false → s.mod.enFellAt + 100000000 ≤ s.time + 1 → Completes .tripLatchRelease s (fun s' =>
        s' = { s with mod := { s.mod with tripped := false } })) ∧
      (s.mod.pwrEn = true ∨ s.time + 1 < s.mod.enFellAt + 100000000 → Completes .tripLatchRelease s (fun s' => s' = s))) ∧
    (s.mod.running = true → s.mod.refOk = true → Completes .refClockLoss s (fun s' =>
      s'.mod.refOk = false ∧ s'.rd .tlyStatusDevValid = 0 ∧ (∀ p, p < 8 → (s'.port p).mode ≠ .up) ∧ s'.adit.linkUp = false ∧
      (∃ e ∈ s'.ras, e.cls = 3 ∧ e.kind = .device) ∧ s'.tiles = s.tiles ∧ s'.mem = s.mem)) ∧
    (∀ x : Byte, Completes (.uartRxChar x) s (fun s' => s' = s)) ∧
    (s.mod.aux = true → ∀ off : Nat,
      (off ≥ 0x100000 ∨ off % 4 ≠ 0 ∨ (s.mod.pwrgd = false ∧ off ≠ 0x40 ∧ ¬ (0x300 ≤ off ∧ off < 0x310)) →
        Runs (.sidebandI2cRead off) s [.answers] [] (fun s' => sget 0 (agentIdx .sideband) s'.answers = 0)) ∧
      (Runs (.sidebandI2cRead 0x40) s [.answers] [] (fun s' => sget 0 (agentIdx .sideband) s'.answers = s.word 0x40 {})) ∧
      (Runs (.sidebandI2cRead 0x300) s [.answers] [] (fun s' => sget 0 (agentIdx .sideband) s'.answers =
        (if s.mod.pwrgd then 2 ^ 31 else 0) + (if s.mod.warned then 2 ^ 30 else 0) + s.rd .hfModStatusTripCause % 16 * 16 + s.rd .hfModStatusStartCause % 16))) ∧
    (s.mod.aux = true →
      (Completes (.jtagInstruction .bypass) s (fun s' => s' = { s with mod := { s.mod with jtag := 0 } })) ∧
      (∀ i ∈ [JtagInstr.sample, .preload, .idcode], Completes (.jtagInstruction i) s (fun s' => s'.mod = { s.mod with jtag := s'.mod.jtag } ∧ s.Only s' [.mod, .free])) ∧
      (s.mod.pwrEn = true → Completes (.jtagInstruction .drive) s (fun s' =>
        s'.mod = { s.mod with jtag := s'.mod.jtag, scanHold := true } ∧
        (s.mod.running = true ∨ s.adit.linkUp = false → s'.adit.linkUp = false) ∧ (∀ p, p < 8 → (s'.port p).mode = .disabled))) ∧
      (s.mod.pwrEn = false → Completes (.jtagInstruction .drive) s (fun s' => s'.mod = { s.mod with jtag := s'.mod.jtag } ∧ s.Only s' [.mod, .free])) ∧
      ((s.rd .dbgLockOpen = 0 ∨ (s.rd .dbgLockPerms).testBit 2 = false) → Completes (.jtagInstruction .scan) s (fun s' => s' = { s with mod := { s.mod with jtag := 0 } })) ∧
      (s.rd .dbgLockOpen ≠ 0 → (s.rd .dbgLockPerms).testBit 2 = true → Completes (.jtagInstruction .scan) s (fun s' =>
        s'.mod = { s.mod with jtag := s'.mod.jtag } ∧ s.Only s' [.mod, .free])) ∧
      (∀ (a : Nat) (i : JtagInstr), s.mod.jtagWait = [] → (∃ n, i = .debugRead a n) ∨ (∃ d, i = .debugWrite a d) →
        (s.rd .dbgLockOpen = 0 ∨ (s.rd .dbgLockPerms).testBit 0 = false → Completes (.jtagInstruction i) s (fun s' =>
          s'.mod = { s.mod with jtag := 0, jtagErr := true } ∧ s'.rd .dbgDecodeErr = (s.rd .dbgDecodeErr + 1) % 2 ^ 64 ∧ s'.mem = s.mem)) ∧
        (s.rd .dbgLockOpen ≠ 0 → (s.rd .dbgLockPerms).testBit 0 = true →
          (∀ n, i = .debugRead a n → s.dbgStop a n = none → (∀ k, s.mark k = 0) → Completes (.jtagInstruction i) s (fun s' =>
            s'.mod = { s.mod with jtag := leNat (s.memBytes a n), jtagErr := false } ∧ s'.mem = s.mem)) ∧
          (∀ d, i = .debugWrite a d → a + d.length ≤ 0x80000000 → s.dbgStop a d.length = none → (∀ k, s.mark k = 0) →
            Completes (.jtagInstruction i) s (fun s' => s'.mod = { s.mod with jtag := 0, jtagErr := false } ∧
              ∀ j, j < d.length → s'.memByte (a + j) = d.getD j 0#8)) ∧
          (∀ n b, (i = .debugRead a n ∨ ∃ d, i = .debugWrite a d ∧ d.length = n) → s.dbgStop a n = some (b, .undecoded) → Completes (.jtagInstruction i) s (fun s' =>
            s'.mod = { s.mod with jtag := 0, jtagErr := true } ∧ s'.rd .dbgDecodeErr = (s.rd .dbgDecodeErr + 1) % 2 ^ 64 ∧ s'.mem = s.mem)) ∧
          (∀ n b, (i = .debugRead a n ∨ ∃ d, i = .debugWrite a d ∧ d.length = n) → s.dbgStop a n = some (b, .held) → Completes (.jtagInstruction i) s (fun s' =>
            s'.mod = { s.mod with jtagWait := [i] } ∧ s.Only s' [.regs, .mod] ∧ s'.rd .dbgDecodeErr = s.rd .dbgDecodeErr))))) ∧
    (s.mod.aux = false → ∀ i, Completes (.jtagInstruction i) s (fun s' => s' = s)) ∧
    (s.boot.rom = true → s.mod.perst = false → s.mod.running = true →
      (s.boot.tried = [] → (∀ a b, Completes (.romBoot a b true) s (fun s' => s'.rd .secStatusCtrErr = 1 ∧ s'.adit.bootFail = true ∧ s'.boot.rom = false)) ∧
        Completes (.romBoot true true false) s (fun s' => s'.rd .hfBootStatusAResult = 7 ∧ s'.rd .hfBootStatusBResult = 7 ∧ s'.adit.bootFail = true ∧
          s'.rd .secStatusCtrErr = 0 ∧ ∀ i, i < 4 → s'.rd .secCtr 0 i = s.counter i % 2 ^ 32)) ∧
      (s.rd .hfBootStatusPref ≤ 1 →
        (∀ a b e, s.boot.tried = [0, 1] → Completes (.romBoot a b e) s (fun s' =>
          s'.adit = { s.adit with bootFail := true } ∧ s'.boot = { s.boot with rom := false } ∧ s'.warmAt = 0 ∧ s.Only s' [.adit, .boot, .warmAt])) ∧
        (∀ i : Fin 2, s.boot.tried = [1 - i.val] →
          (s.imgCheck i true = 0 → Completes (.romBoot false false false) s (fun s' =>
            s'.boot.image = some i.val ∧ s'.boot.rom = false ∧ s'.rd (if i.val = 0 then .hfBootStatusAResult else .hfBootStatusBResult) = 1 ∧
            s'.rd .hfBootStatusBooted = i.val + 1 ∧ s'.rd .hfFwVersion = leNat (s.flashBytes (imageBase i + 8) 4) % 2 ^ 32 ∧
            s'.rd .hfBoots = (s.rd .hfBoots + 1) % 2 ^ 64 ∧ (∀ k, k < 6 → (s'.comp k).mode = .running))) ∧
          (s.imgCheck i true ≠ 0 → Completes (.romBoot false false false) s (fun s' =>
            s'.rd (if i.val = 0 then .hfBootStatusAResult else .hfBootStatusBResult) = s.imgCheck i true ∧ s'.adit.bootFail = true ∧
            s'.boot.image = s.boot.image))))) ∧
    (s.boot.rom = false → ∀ a b e, Completes (.romBoot a b e) s (fun s' => s' = s)) ∧
    (∀ v : Nat, s.ic.asleep = true → Completes (.hfBootReadyWrite v) s (fun s' => s' = s)) ∧
    (∀ img v : Nat, s.boot.image = some img → s.ic.asleep = false →
      (v % 2 = 1 → Completes (.hfBootReadyWrite v) s (fun s' => s'.rd .hfBootCtrlReady = 1 ∧ s'.adit = { s.adit with fwReady := true } ∧ s'.warmAt = 0 ∧
        s'.boot = { s.boot with readyAt := s'.boot.readyAt } ∧ (s.boot.readyAt = 0 → s'.boot.readyAt = s.tally + 1) ∧
        (s.boot.readyAt ≠ 0 → s'.boot.readyAt = s.boot.readyAt) ∧ s.FieldsBut s' [(.hfBootCtrlReady, 0, 0)] ∧ s.Only s' [.regs, .adit, .warmAt, .boot])) ∧
      (v % 2 = 0 → Runs (.hfBootReadyWrite v) s [.regs] [(.hfBootCtrlReady, 0, 0)] (fun s' => s'.rd .hfBootCtrlReady = 0)) ∧
      (s.boot.readyAt = 0 → s.boot.startedAt + 1600000000 ≤ s.tally → Completes .bootWatchdogExpiry s (fun s' =>
        s'.rd (if img = 0 then .hfBootStatusAResult else .hfBootStatusBResult) = 2 ∧ s'.boot = { s.boot with rom := true, image := none } ∧
        s'.comps = [] ∧ s.Only s' [.regs, .comps, .ic, .mbx, .boot])) ∧
      (s.boot.readyAt ≠ 0 ∨ s.tally < s.boot.startedAt + 1600000000 → Completes .bootWatchdogExpiry s (fun s' => s' = s)) ∧
      (s.boot.readyAt ≠ 0 → (s.comp 5).mode = .running → s.boot.readyAt - 1 + s.rd .secAdvDelayS * 1000000000 ≤ s.tally → s.counter 0 < s.boot.rollback →
        s.boot.advAt ≤ s.tally →
        (Completes (.rollbackAdvance true) s (fun s' => s'.counter 0 = s.counter 0 + 1 ∧ s'.rd .secCtrAdv = (s.rd .secCtrAdv + 1) % 2 ^ 64 ∧
          s.FieldsBut s' [(.secCtr, 0, 0), (.secCtrAdv, 0, 0)] ∧ s.Only s' [.regs, .mono])) ∧
        (Runs (.rollbackAdvance false) s [.regs, .boot] [(.secCtrErr, 0, 0)] (fun s' => s'.rd .secCtrErr = (s.rd .secCtrErr + 1) % 2 ^ 64 ∧
          s'.boot = { s.boot with advAt := s.tally + 1000000000 }))) ∧
      (s.boot.rollback ≤ s.counter 0 → ∀ good, Completes (.rollbackAdvance good) s (fun s' => s' = s)))

/-- O56. The interrupt controller and the lamp (R371 to R375, R377 to R383). An event of a source in force pends, or merges, and is forwarded under FWD; without EN it
is dropped and counted; a reserved source raises nothing. Delivery takes the deliverable source of lowest PRIO, then lowest number, moves it from
PENDING to ACTIVE, stacks it, hands the core its handler's address and pushes a save bank; one inside the mask window counts as late. A configuration
write that changes TARGET or PRIO under EN is denied. A completion of the top entry pops it and its bank; any other is a stack fault of the core and of
the component, whose stack stands until its reset. The headframe sleeps with nothing deliverable, when its cores write nothing, and wakes at a watched
event. -/
def Obligations.Interrupts : Prop :=
  (∀ (n : SrcId) (s : State),
    (s.warmAt ≠ 0 ∨ (464 ≤ n.val ∧ n.val < 960) → Completes (.interruptEvent n) s (fun s' => s' = s)) ∧
    (s.warmAt = 0 → (n.val < 464 ∨ 960 ≤ n.val) →
      (s.rd .icSrcCfgEn 0 n = 0 → s.ic.asleep = false → Runs (.interruptEvent n) s [.regs] [(.icDisabledDrop, 0, 0)] (fun s' =>
        s'.rd .icDisabledDrop = (s.rd .icDisabledDrop + 1) % 2 ^ 64)) ∧
      (s.rd .icSrcCfgEn 0 n ≠ 0 → Runs (.interruptEvent n) s [.regs, .ic, .adit] eventFields (fun s' =>
        sget false n.val s'.ic.pending = true ∧ (∀ m, m ≠ n.val → sget false m s'.ic.pending = sget false m s.ic.pending) ∧
        s'.ic.active = s.ic.active ∧ s'.ic.stack = s.ic.stack ∧ s'.ic.asleep = s.ic.asleep ∧
        (sget false n.val s.ic.pending = false → s'.rd .icRaised = (s.rd .icRaised + 1) % 2 ^ 64 ∧ s'.rd .icMerged = s.rd .icMerged) ∧
        (sget false n.val s.ic.pending = true → s'.rd .icMerged = (s.rd .icMerged + 1) % 2 ^ 64 ∧ s'.rd .icRaised = s.rd .icRaised) ∧
        (s.rd .icSrcCfgFwd 0 n = 0 → s'.adit = s.adit) ∧
        (s.rd .icSrcCfgFwd 0 n ≠ 0 → s.adit.msixEn = true → s.adit.busMaster = true → sget false (64 + n.val) s.adit.pba = false →
          sget false (64 + n.val) s.adit.unmasked = true → s.adit.fnMask = false → s.adit.d3 = false → s.msixNow (64 + n.val) = false →
          s'.adit.lastMsg = some (64 + n.val) ∧ s'.adit.msgData = sget 0 (4 * (64 + n.val) + 2) s.adit.table ∧ s.adit.ButMessages s'.adit))) ∧
      (s.ic.asleep = true → (∃ i, i < 32 ∧ s.rd .icLampSrcEn 0 i ≠ 0 ∧ s.rd .icLampSrcSource 0 i = n.val) → Completes (.interruptEvent n) s (fun s' =>
        s'.ic.lampHit = true ∧ s'.ic.asleep = true)))) ∧
  (∀ (core : CoreId) (late : Bool) (s : State), s.ic.asleep = true ∨ s.warmAt ≠ 0 → Completes (.interruptDelivery core late) s (fun s' => s' = s)) ∧
  (∀ (core : CoreId) (s : State), s.ic.asleep = false → s.warmAt = 0 → ssorted s.ic.pending = true →
    let running := (((sget [] core.val s.ic.stack).head?).map (fun e => e.2)).getD 16
    let pmr := min 16 (s.rd .icPmr core)
    let aimed (m : Nat) : Prop := sget false m s.ic.pending = true ∧ s.rd .icSrcCfgTarget 0 m = core.val ∧ s.rd .icSrcCfgPrio 0 m < running
    let can (m : Nat) : Prop := aimed m ∧ s.rd .icSrcCfgEn 0 m ≠ 0 ∧ (s.rd .icSrcCfgMask 0 m = 0 ∨ m ∈ s.ic.lampFree) ∧ s.rd .icSrcCfgPrio 0 m < pmr
    ((∀ m, ¬ can m) → Completes (.interruptDelivery core false) s (fun s' => s' = s)) ∧
    (∀ n, can n → (∀ m, can m → m ≠ n → s.rd .icSrcCfgPrio 0 n < s.rd .icSrcCfgPrio 0 m ∨ (s.rd .icSrcCfgPrio 0 n = s.rd .icSrcCfgPrio 0 m ∧ n < m)) →
      Runs (.interruptDelivery core false) s [.regs, .ic, .free] [(.icDelivered, core.val, 0)] (fun s' =>
        (∃ v, sget [] core.val s'.ic.banks = ((n, v) :: sget [] core.val s.ic.banks).take 16) ∧
        sget false n s'.ic.pending = false ∧ sget false n s'.ic.active = true ∧ sget 0 core.val s'.ic.cur = n + 1 ∧
        sget 0 core.val s'.ic.vector = 0x100000000 + 2 ^ 14 * s.rd .icVbase core + 16 * n ∧
        sget [] core.val s'.ic.stack = (n, s.rd .icSrcCfgPrio 0 n) :: sget [] core.val s.ic.stack ∧
        (∀ m, m ≠ n → sget false m s'.ic.pending = sget false m s.ic.pending ∧ sget false m s'.ic.active = sget false m s.ic.active) ∧
        (∀ k, k ≠ core.val → sget [] k s'.ic.stack = sget [] k s.ic.stack) ∧
        s'.rd .icDelivered core = (s.rd .icDelivered core + 1) % 2 ^ 64)) ∧
    (∀ n, aimed n → (∀ m, aimed m → m = n) → s.rd .icSrcCfgMask 0 n ≠ 0 → n ∉ s.ic.lampFree →
      (sget 0 n s.ic.maskAt ≠ 0 → s.tally + 1 < sget 0 n s.ic.maskAt + 64 →
        Runs (.interruptDelivery core true) s [.regs, .ic, .free] [(.icDelivered, core.val, 0), (.icLateDeliver, core.val, 0)] (fun s' =>
          sget false n s'.ic.pending = false ∧ sget false n s'.ic.active = true ∧ sget 0 n s'.ic.maskAt = 0 ∧
          s'.rd .icLateDeliver core = (s.rd .icLateDeliver core + 1) % 2 ^ 64)) ∧
      (sget 0 n s.ic.maskAt = 0 ∨ sget 0 n s.ic.maskAt + 64 ≤ s.tally + 1 → Completes (.interruptDelivery core true) s (fun s' => s' = s)))) ∧
  (∀ (n : SrcId) (v : Nat) (s : State),
    let own := 424 ≤ n.val ∧ n.val < 432 ∧ v / 16 % 4 = (n.val - 424) % 4
    let change := s.rd .icSrcCfgEn 0 n ≠ 0 ∧ (v / 16 % 4 ≠ s.rd .icSrcCfgTarget 0 n ∨ v % 16 ≠ s.rd .icSrcCfgPrio 0 n)
    (464 ≤ n.val → n.val < 960 → Completes (.icSrcCfgWrite n v) s (fun s' => s' = s)) ∧
    ((n.val < 464 ∨ 960 ≤ n.val) →
      (own ∨ change → Runs (.icSrcCfgWrite n v) s [.regs] [(.icCfgDeny, 0, 0)] (fun s' => s'.rd .icCfgDeny = (s.rd .icCfgDeny + 1) % 2 ^ 64)) ∧
      (¬ own → ¬ change → Runs (.icSrcCfgWrite n v) s [.regs, .ic]
        [(.icSrcCfgEn, 0, n.val), (.icSrcCfgMask, 0, n.val), (.icSrcCfgFwd, 0, n.val), (.icSrcCfgTarget, 0, n.val), (.icSrcCfgPrio, 0, n.val)] (fun s' =>
          s'.rd .icSrcCfgEn 0 n = v / 2 ^ 31 % 2 ∧ s'.rd .icSrcCfgMask 0 n = v / 2 ^ 30 % 2 ∧ s'.rd .icSrcCfgFwd 0 n = v / 2 ^ 29 % 2 ∧
          s'.rd .icSrcCfgTarget 0 n = v / 16 % 4 ∧ s'.rd .icSrcCfgPrio 0 n = v % 16 ∧ s'.ic = { s.ic with maskAt := s'.ic.maskAt })))) ∧
  (∀ (k : CompId) (core : CoreId) (v : Nat) (s : State), s.ic.asleep = true → Completes (.icEoiWrite k v) s (fun s' => s' = s) ∧
    Completes (.icStackFixWrite v) s (fun s' => s' = s) ∧ Completes (.icSignalWrite core v) s (fun s' => s' = s)) ∧
  (∀ (k : CompId) (v : Nat) (s : State), s.ic.asleep = false →
    let core := [0, 1, 2, 3, 0, 2].getD k.val 0
    (∀ p rest, sget [] core s.ic.stack = (v % 1024, p) :: rest → Completes (.icEoiWrite k v) s (fun s' =>
      sget [] core s'.ic.stack = rest ∧ sget false (v % 1024) s'.ic.active = false ∧ (∀ m, m ≠ v % 1024 → sget false m s'.ic.active = sget false m s.ic.active) ∧
      (∀ j, j ≠ core → sget [] j s'.ic.stack = sget [] j s.ic.stack) ∧ sget [] core s'.ic.banks = (sget [] core s.ic.banks).filter (fun b => b.1 != v % 1024) ∧
      s'.ic = { s.ic with stack := s'.ic.stack, active := s'.ic.active, banks := s'.ic.banks } ∧ s.Only s' [.ic])) ∧
    ((∀ e ∈ (sget [] core s.ic.stack).head?, e.1 ≠ v % 1024) → (s.comp k).mode ≠ .running → Completes (.icEoiWrite k v) s (fun s' =>
      s'.rd .icStackFaults core = (s.rd .icStackFaults core + 1) % 2 ^ 64 ∧ s'.comps = s.comps)) ∧
    ((∀ e ∈ (sget [] core s.ic.stack).head?, e.1 ≠ v % 1024) → (s.comp k).mode = .running → Completes (.icEoiWrite k v) s (fun s' =>
      s'.rd .icStackFaults core = (s.rd .icStackFaults core + 1) % 2 ^ 64 ∧ s'.rd .hfCompFaults 0 k = (s.rd .hfCompFaults 0 k + 1) % 2 ^ 64 ∧
      (k.val = 3 → (s'.comp k).mode = .restarting ∨ (s'.comp k).mode = .failed) ∧
      (k.val ≠ 3 → ((s'.comp k).mode = .running ∨ (s'.comp k).mode = .failed) ∧ s'.ic.stack = s.ic.stack ∧ s'.ic.active = s.ic.active ∧
        s'.ic.banks = s.ic.banks ∧ ∃ e ∈ s'.ras, e.kind = .component ∧ e.inst = k.val ∧ ((s'.comp k).mode = .running → e.code = 1)) ∧ (∀ j, j ≠ k.val → s'.comp j = s.comp j) ∧
      (s.rd .icStackInfoValid = 0 → s'.rd .icStackInfoValid = 1 ∧ s'.rd .icStackInfoCore = core ∧ s'.rd .icStackInfoWritten = v % 1024 ∧
        s'.rd .icStackInfoEmpty = (if sget [] core s.ic.stack = [] then 1 else 0))))) ∧
  (∀ (v : Nat) (s : State), s.ic.asleep = false →
    let core := v / 2 ^ 28 % 4
    ((∃ e ∈ sget [] core s.ic.stack, e.1 = v % 1024) → Completes (.icStackFixWrite v) s (fun s' =>
      sget [] core s'.ic.stack = (sget [] core s.ic.stack).filter (fun e => e.1 != v % 1024) ∧ sget false (v % 1024) s'.ic.active = false ∧
      (∀ j, j ≠ core → sget [] j s'.ic.stack = sget [] j s.ic.stack) ∧ s.Only s' [.ic])) ∧
    ((∀ e ∈ sget [] core s.ic.stack, e.1 ≠ v % 1024) → Runs (.icStackFixWrite v) s [.regs] [(.icFixMiss, 0, 0)] (fun s' =>
      s'.rd .icFixMiss = (s.rd .icFixMiss + 1) % 2 ^ 64))) ∧
  (∀ (core : CoreId) (v : Nat) (s : State), s.ic.asleep = false →
    (∀ n : SrcId, n.val = v % 1024 → (432 ≤ n.val ∧ n.val < 436) ∨ 960 ≤ n.val →
      (s.warmAt = 0 → s.rd .icSrcCfgEn 0 n ≠ 0 → Completes (.icSignalWrite core v) s (fun s' => sget false n.val s'.ic.pending = true)) ∧
      exec (.icSignalWrite core v) s = exec (.interruptEvent n) s) ∧
    (¬ ((432 ≤ v % 1024 ∧ v % 1024 < 436) ∨ 960 ≤ v % 1024) → Runs (.icSignalWrite core v) s [.regs] [(.icCfgDeny, 0, 0)] (fun s' =>
      s'.rd .icCfgDeny = (s.rd .icCfgDeny + 1) % 2 ^ 64))) ∧
  (∀ (core : CoreId) (i : Fin 4) (s : State),
    (s.rd .icTimerAt core i ≠ 0 → s.rd .icTimerAt core i ≤ s.tally →
      Runs (.icTimerExpiry core i) s [.regs, .ic, .adit] ((.icTimerAt, core.val, i.val) :: eventFields) (fun s' => s'.rd .icTimerAt core i = 0 ∧
        (s.warmAt = 0 → s.rd .icSrcCfgEn 0 (448 + 4 * core.val + i.val) ≠ 0 → sget false (448 + 4 * core.val + i.val) s'.ic.pending = true))) ∧
    (s.rd .icTimerAt core i = 0 ∨ s.tally < s.rd .icTimerAt core i → Completes (.icTimerExpiry core i) s (fun s' => s' = s))) ∧
  (∀ s : State,
    (s.rd .icLampCtrlStandbyEn ≠ 0 → s.ic.asleep = false → (∀ c n, c < 4 → s.icDeliverable c false n = false) → Completes .headframeStandby s (fun s' =>
      s' = { s with ic := { s.ic with asleep := true, lampHit := false } })) ∧
    ((∃ c n, c < 4 ∧ s.icDeliverable c false n = true) → Completes .headframeStandby s (fun s' => s' = s)) ∧
    (s.rd .icLampCtrlStandbyEn = 0 ∨ s.ic.asleep = true → Completes .headframeStandby s (fun s' => s' = s)) ∧
    (s.ic.asleep = true → s.ic.lampHit = true → Runs .lampWake s [.regs, .ic, .comps] [(.icLampWakes, 0, 0)] (fun s' =>
      (∀ k, k < 6 → s'.comp k = if (s.comp k).mode = .running then { s.comp k with beatAt := s.tally } else s.comp k) ∧
      s'.ic = { s.ic with asleep := false, lampHit := false } ∧ s'.rd .icLampWakes = (s.rd .icLampWakes + 1) % 2 ^ 64)) ∧
    (s.ic.asleep = false ∨ s.ic.lampHit = false → Completes .lampWake s (fun s' => s' = s)))

/-! ### Power -/

/-- O57. Power, heat and pace (R388 to R393, R398, R400 to R408). A window close publishes the estimates of the window, their mean, the
step rates and the sensor readings, and applies the peak and safe-mode limits; a junction or a stack at its limit trips the device. A loop interval
writes the floor and CAP_UNMET where the floors exceed the budget, and elsewhere for every live block a point, within its allocation and one level of the present one, that
takes most steps, or with matching the least power that meets the matched pace, in the order of R398, while component 1 and the headframe's clock run. Droop, gain, beacons and the pace table follow their rules. -/
def Obligations.Power : Prop :=
  (∀ (w : WindowIn) (s : State),
    (s.devValid = false ∨ s.tally < 2048 * (s.pwr.window + 1) → Completes (.estimationWindowClose w) s (fun s' => s' = s)) ∧
    (s.devValid = true → 2048 * (s.pwr.window + 1) ≤ s.tally → s.mod.tripped = false →
      ((∀ x ∈ w.block ++ w.io ++ [w.hf], x < s.rd .pwrTjTrip) → (∀ x ∈ w.stack, x < 110) → s.rd .pwrCalEff ≠ 0 →
        let blocks := ((List.range 16).map (fun k => s.pbEnergy k)).foldl (· + ·) 0
        let est := min 0xFFFF ((blocks / 2048 + s.uncoreUw) * s.rd .pwrCalGain * 4 / s.rd .pwrCalEff / 1000000)
        let avg := meanOf (((est :: s.pwr.hist).take 32768).take (2 ^ s.rd .pwrAvgAvgLog2)) % 2 ^ 16
        Completes (.estimationWindowClose w) s (fun s' =>
          s'.rd .pwrStatusEstW = est ∧ s'.rd .pwrAvgAvgW = avg ∧
          (∀ k, sget 0 k s'.act = if k < (s.pwr.window + 1) * 65536 then 0 else sget 0 k s.act) ∧
          s'.pwr.window = s.pwr.window + 1 ∧ s'.pwr.uncore = s.uncoreUw ∧ s'.pwr.cap = some s.capNow ∧ s'.pwr.peak = decide (s.rd .pwrPeakW < est) ∧ s'.pwr.safeClamp = s.safeMode ∧
          (∀ t, t < 256 → s'.rd .tilePwrE t = s.tileEnergy t % 2 ^ 32 ∧
            s'.rd .tileStepRate t = sget 0 (s.pwr.window * 256 + t) s.pwr.stepsAt % 2 ^ 16) ∧
          (∀ k, k < 16 → s'.rd .pwrPbE k = s.pbEnergy k / 1000000 % 2 ^ 32 ∧
            (∀ r, w.rate[k]? = some r → s'.rd .pwrPbRate k = r % 2 ^ 16) ∧
            (∀ tj, w.block[k]? = some tj → s'.rd .pwrPbStatusTj k = tj % 2 ^ 8 ∧ s'.rd .pwrPbStatusHot k =
              if s.rd .pwrPbStatusHot k ≠ 0 then (if tj + 5 < s.rd .pwrTjHot then 0 else s.rd .pwrPbStatusHot k)
              else if s.rd .pwrTjHot ≤ tj then 1 else 0)) ∧
          (∀ i x, w.stack[i]? = some x → i < s.variant.stacks →
            (sget {} (2 * i) s'.hbmcs).temp = x ∧ (sget {} (2 * i + 1) s'.hbmcs).temp = x) ∧
          s'.rd .pwrStatusFastActive =
            (if est > s.rd .pwrPeakW ∨ (s.safeMode = true ∧ avg > s.pwr.cap.getD s.variant.tdp) then 1 else 0) ∧
          s'.rd .pwrFastTrips = (if est > s.rd .pwrPeakW ∧ s.pwr.peak = false then (s.rd .pwrFastTrips + 1) % 2 ^ 64 else s.rd .pwrFastTrips) ∧
          (∀ f i j, f ∉ [Field.pwrStatusEstW, .pwrAvgAvgW, .tilePwrE, .tileStepRate, .pwrPbE, .pwrPbRate, .pwrPbStatusTj, .pwrPbStatusHot,
            .pwrStatusFastActive, .pwrFastTrips] ++ eventFields.map (fun e => e.1) → s'.rd f i j = s.rd f i j) ∧
          s.Only s' [.regs, .act, .pwr, .hbmcs, .ic, .adit])) ∧
      (∀ i, w.block.findIdx? (fun x => decide (s.rd .pwrTjTrip ≤ x)) = some i → s.mod.pwrgd = true → Completes (.estimationWindowClose w) s (fun s' =>
        s'.mod.tripped = true ∧ s'.mod.pwrgd = false ∧ s'.mod.running = false ∧ s'.rd .hfModStatusTripCause = 1 ∧ s'.rd .pwrTripInfo = (i + 1) % 2 ^ 8)) ∧
      (∀ i, (∀ x ∈ w.block, x < s.rd .pwrTjTrip) → w.io.findIdx? (fun x => decide (s.rd .pwrTjTrip ≤ x)) = some i → s.mod.pwrgd = true →
        Completes (.estimationWindowClose w) s (fun s' =>
          s'.mod.tripped = true ∧ s'.mod.pwrgd = false ∧ s'.rd .hfModStatusTripCause = 1 ∧ s'.rd .pwrTripInfo = (17 + i) % 2 ^ 8)) ∧
      ((∀ x ∈ w.block ++ w.io, x < s.rd .pwrTjTrip) → s.rd .pwrTjTrip ≤ w.hf → s.mod.pwrgd = true → Completes (.estimationWindowClose w) s (fun s' =>
        s'.mod.tripped = true ∧ s'.mod.pwrgd = false ∧ s'.rd .hfModStatusTripCause = 1 ∧ s'.rd .pwrTripInfo = 21)) ∧
      (∀ i, (∀ x ∈ w.block ++ w.io ++ [w.hf], x < s.rd .pwrTjTrip) → w.stack.findIdx? (fun x => decide (110 ≤ x)) = some i → s.mod.pwrgd = true →
        Completes (.estimationWindowClose w) s (fun s' =>
          s'.mod.tripped = true ∧ s'.mod.pwrgd = false ∧ s'.rd .hfModStatusTripCause = 2 ∧ s'.rd .pwrTripInfo = (32 + i) % 2 ^ 8)))) ∧
  (∀ (rates : List Nat) (s : State),
    (s.devValid = false ∨ (s.comp 1).mode ≠ .running ∨ s.ic.asleep = true ∨ s.tally < 16384 * (s.pwr.interval + 1) →
      Completes (.powerLoopInterval rates) s (fun s' => s' = s)) ∧
    (s.devValid = true → (s.comp 1).mode = .running → s.ic.asleep = false → 16384 * (s.pwr.interval + 1) ≤ s.tally →
      let s0 := s.learn
      let live := (List.range 16).filter (fun k => !s.pbGated k)
      let want (k : Nat) : Nat := s0.dynUw k + leakUw (s.rd .pwrPbCtrlVset k) (s.pbTj k)
      let floor (k : Nat) : Nat := s0.pointUw k 0 8 (s0.rateAt rates k 0)
      let need : Nat := (live.map want).foldl (· + ·) 0
      let floors : Nat := (live.map floor).foldl (· + ·) 0
      let out : Nat := s.capNow * 1000000 * s.rd .pwrCalEff / (4 * max 1 (s.rd .pwrCalGain))
      let left : Int := (out : Int) - s.pwr.uncore
      let budget : Nat := left.toNat
      (∀ t : TileId, (s.tile t).active = true → (∀ u, u < 256 → u ≠ t.val → (s.tile u).active = false) → s.demand.length < 64 →
        (s.phaseInForce t).2 < 16384 * (s.tally / 16384 - 1) ∨ (s.phaseInForce t).2 = 0 → s.pwr.windows ≠ 0 →
        let p := (s.phaseInForce t).1
        let mv := vsetMv (s.vsetEff (tilePb t))
        let sample := sget 0 t.val s.pwr.tileE * 1000 / (2048 * s.pwr.windows) * 562500 * 64 / (mv * mv * s.issueEff (tilePb t))
        Completes (.powerLoopInterval rates) s (fun s' =>
          s'.demandOf p = ((s.demandOf p : Int) + (((sample : Int) - s.demandOf p) / 8)).toNat ∧ (∀ q, q ≠ p → s'.demandOf q = s.demandOf q))) ∧
      (left < (floors : Int) → Completes (.powerLoopInterval rates) s (fun s' =>
        (∀ k ∈ live, s'.rd .pwrPbCtrlIssue k = 8 ∧ s'.rd .pwrPbCtrlVset k = 0) ∧ s'.rd .pwrStatusCapUnmet ≠ 0 ∧ s'.pwr.interval = s.tally / 16384 ∧
        (∀ k, k < 16 → k ∉ live → s'.rd .pwrPbCtrlIssue k = s.rd .pwrPbCtrlIssue k ∧ s'.rd .pwrPbCtrlVset k = s.rd .pwrPbCtrlVset k) ∧
        s.Only s' [.regs, .pwr, .demand, .mbx, .mem, .free, .adit, .uart])) ∧
      ((floors : Int) ≤ left → (∀ k, k < 16 → s.rd .pwrPbCtrlVset k < 4) →
        let alloc (k : Nat) : Nat :=
          let share := if need = 0 then budget else want k * budget / need
          if need ≤ budget then share else max (floor k) share
        let uw (k v n : Nat) : Nat := s0.pointUw k v n (s0.rateAt rates k v)
        Completes (.powerLoopInterval rates) s (fun s' => ∃ a : Nat → Nat,
          (∀ k ∈ live, a k ≤ alloc k ∧ (s.pbTj k ≤ s.rd .pwrTjTarget → a k = alloc k)) ∧
          let can (k v n : Nat) : Prop := v < 4 ∧ v ≤ s.rd .pwrPbCtrlVset k + 1 ∧ s.rd .pwrPbCtrlVset k ≤ v + 1 ∧ 1 ≤ n ∧ n ≤ 64 ∧ uw k v n ≤ a k
          let most (k v n : Nat) : Prop := ∀ v' n', can k v' n' → s0.rateAt rates k v' * n' ≤ s0.rateAt rates k v * n
          let meets (k v n t : Nat) : Prop := can k v n ∧ t ≤ s0.pointPace rates k (v, n)
          s'.rd .pwrStatusCapUnmet = 0 ∧ (s.rd .pwrPaceCfgMatchEn = 0 → s'.rd .pwrStatusMatching = 0) ∧ s'.pwr.interval = s.tally / 16384 ∧
          (∀ k ∈ live, (∃ v n, can k v n) → ∃ v n, can k v n ∧
            (s.rd .pwrPaceCfgMatchEn = 0 ∨ s.matchTarget = none → most k v n) ∧
            (∀ t, s.rd .pwrPaceCfgMatchEn ≠ 0 → s.matchTarget = some t → (∀ v' n', can k v' n' → uw k v' n' < 2 ^ 40) →
              ((∃ v' n', meets k v' n' t) → meets k v n t ∧ ∀ v' n', meets k v' n' t → uw k v n ≤ uw k v' n') ∧
              ((∀ v' n', ¬ meets k v' n' t) → most k v n)) ∧
            s'.rd .pwrPbCtrlVset k = v ∧
            (v = s.rd .pwrPbCtrlVset k → s'.rd .pwrPbCtrlIssue k = n) ∧
            (v ≠ s.rd .pwrPbCtrlVset k → ∃ i, s'.rd .pwrPbCtrlIssue k = i ∧ 1 ≤ i ∧ i ≤ min n (issueActs (s.rd .pwrPbCtrlIssue k)) ∧
              (uw k (s.rd .pwrPbCtrlVset k) i ≤ a k ∨ i = 1) ∧
              (∀ j, j ≤ min n (issueActs (s.rd .pwrPbCtrlIssue k)) → uw k (s.rd .pwrPbCtrlVset k) j ≤ a k → j ≤ i) ∧
              (i < n → sget (0, 0) k s'.pwr.slews =
                (s.tally + 100 * (vsetMv v - vsetMv (s.rd .pwrPbCtrlVset k) + (vsetMv (s.rd .pwrPbCtrlVset k) - vsetMv v)) + 1, n)))) ∧
          (∀ k ∈ live, (∀ v n, ¬ can k v n) → s'.rd .pwrPbCtrlVset k = s.rd .pwrPbCtrlVset k - 1) ∧
          (∀ k, k < 16 → k ∉ live → s'.rd .pwrPbCtrlIssue k = s.rd .pwrPbCtrlIssue k ∧ s'.rd .pwrPbCtrlVset k = s.rd .pwrPbCtrlVset k) ∧
          (∀ f i j, f ∉ [Field.pwrStatusCapUnmet, .pwrStatusMatching, .pwrPbCtrlIssue, .pwrPbCtrlVset, .pwrPhaseEvict] → s'.rd f i j = s.rd f i j) ∧
          s.Only s' [.regs, .pwr, .demand, .free])))) ∧
  (∀ (k : PbId) (s : State),
    let r := sget (0, 0) k.val s.pwr.slews
    (r.1 = 0 ∨ s.tally + 1 < r.1 ∨ (s.comp 1).mode ≠ .running ∨ s.ic.asleep = true → Completes (.vsetSlewComplete k) s (fun s' => s' = s)) ∧
    (r.1 ≠ 0 → r.1 ≤ s.tally + 1 → (s.comp 1).mode = .running → s.ic.asleep = false → Runs (.vsetSlewComplete k) s [.regs, .pwr] [(.pwrPbCtrlIssue, k.val, 0)] (fun s' =>
      s'.rd .pwrPbCtrlIssue k = r.2 % 2 ^ 7 ∧ sget (0, 0) k.val s'.pwr.slews = (0, 0) ∧ s'.pwr = { s.pwr with slews := s'.pwr.slews })) ∧
    (s.rd .pwrPbStatusDroop k ≠ 0 → Completes (.droopTrip k) s (fun s' =>
      sget 0 k.val s'.pwr.droopAt = s.tally + 1 ∧ s'.pwr = { s.pwr with droopAt := s'.pwr.droopAt } ∧ s.Only s' [.pwr])) ∧
    (s.rd .pwrPbStatusDroop k = 0 → Runs (.droopTrip k) s [.regs, .pwr, .ic, .adit] ([(Field.pwrPbStatusDroop, k.val, 0), (Field.pwrDroopTrips, k.val, 0)] ++ eventFields)
      (fun s' => s'.rd .pwrPbStatusDroop k = 1 ∧ s'.rd .pwrDroopTrips k = (s.rd .pwrDroopTrips k + 1) % 2 ^ 64 ∧ sget 0 k.val s'.pwr.droopAt = s.tally + 1 ∧
        (s.warmAt = 0 → s.rd .icSrcCfgEn 0 (344 + k.val) ≠ 0 → sget false (344 + k.val) s'.ic.pending = true))) ∧
    (s.rd .pwrPbStatusDroop k ≠ 0 → sget 0 k.val s.pwr.droopAt + s.rd .pwrDroopCfgHoldNs ≤ s.tally + 1 →
      Runs (.droopHoldEnd k) s [.regs] [(.pwrPbStatusDroop, k.val, 0)] (fun s' => s'.rd .pwrPbStatusDroop k = 0)) ∧
    (s.rd .pwrPbStatusDroop k = 0 ∨ s.tally + 1 < sget 0 k.val s.pwr.droopAt + s.rd .pwrDroopCfgHoldNs →
      Completes (.droopHoldEnd k) s (fun s' => s' = s))) ∧
  (∀ (measured : Nat) (s : State),
    let g := s.rd .pwrCalGain
    let est := meanOf (s.pwr.hist.take 488)
    let hi := min 0xFFFF (g + g * 2 / 100)
    ((s.comp 1).mode ≠ .running ∨ s.ic.asleep = true ∨ s.tally < s.pwr.gainAt + 1000000 → Completes (.gainCalibration measured) s (fun s' => s' = s)) ∧
    ((s.comp 1).mode = .running → s.ic.asleep = false → s.pwr.gainAt + 1000000 ≤ s.tally → g < 2 ^ 16 →
      Runs (.gainCalibration measured) s [.regs, .pwr, .free] [(.pwrCalGain, 0, 0)] (fun s' =>
        g - g * 2 / 100 ≤ s'.rd .pwrCalGain ∧ s'.rd .pwrCalGain ≤ hi ∧ s'.pwr = { s.pwr with gainAt := s.tally } ∧
        (est ≠ 0 → s'.rd .pwrCalGain = max (g - g * 2 / 100) (min hi (g * measured / est)) ∧ s'.free = s.free)))) ∧
  (∀ s : State,
    let w := 2048 * s.pwr.window
    let b := s.pwr.beacon
    let pace := s.devicePaceBy s.beaconPace
    let reason := s.paceReason
    let period := b.sentAt = 0 ∨ b.sentAt + 1000 * s.rd .pwrPaceCfgPeriodUs ≤ w + 1
    let change := (reason ≠ b.reason ∨ b.pace + 256 ≤ pace ∨ pace + 256 ≤ b.pace) ∧ (b.sentAt = 0 ∨ b.sentAt + 10000 ≤ w + 1)
    let due := s.rd .pwrPaceCfgEn ≠ 0 ∧ s.pwr.window ≠ 0 ∧ w + 1 ≠ b.closeAt ∧ w + 200 ≤ s.tally ∧ (period ∨ change)
    let ports := (List.range s.variant.ports).filter (fun p => (s.port p).mode == .up)
    let dests := (List.range 16).filter (fun i => s.rd .pwrPaceDestValid 0 i != 0)
    (¬ due → Completes .paceBeaconSend s (fun s' => s' = s)) ∧
    (due → Runs .paceBeaconSend s [.regs, .outbox, .pwr] [(.pwrPaceTx, 0, 0)] (fun s' =>
      s'.rd .pwrPaceTx = (s.rd .pwrPaceTx + 1) % 2 ^ 64 ∧
      s'.pwr = { s.pwr with beacon := { closeAt := w + 1, sentAt := s.tally + 1, reason := reason, pace := pace, seq := (b.seq + 1) % 2 ^ 32 } } ∧
      ∃ l, s'.outbox = s.outbox ++ l ∧
        l.map (fun p => (p.via, p.dstDev)) =
          ports.map (fun p => (some p, 0xFFFFF)) ++ dests.map (fun i => (none, s.rd .pwrPaceDestDevice 0 i)) ∧
        (∀ p ∈ l, p.ty = 9 ∧ p.vc = 0 ∧ p.len = 64 ∧ p.payload.length = 64 ∧ p.addr = 0 ∧ p.tag = b.seq ∧
          payWord p 0 = (pace * 2 ^ 48 + reason * 2 ^ 32 + s.rd .pwrCapCapW * 2 ^ 16 + s.rd .pwrAvgAvgW) % 2 ^ 64 ∧
          payWord p 1 = (w - 2048) % 2 ^ 64 ∧
          (∀ k, k < 16 → (payWord p 2 / 2 ^ (48 + k) % 2 = 1 ↔ (s.issueEff k < 64 ∨ s.vsetEff k < s.rd .pwrPbCtrlVset k)) ∧
            (payWord p 2 / 2 ^ (32 + k) % 2 = 1 ↔ s.pbGated k = true)) ∧ payWord p 2 % 2 ^ 32 = 0 ∧
          (s.rd .pwrStatusMatching = 0 → (∀ e, e < 10 → s.rd .pwrPaceStageStage 0 e < 2 ^ 16) → ∀ e, e < 10 →
            let st := s.rd .pwrPaceStageStage 0 e
            let mask := (List.range 16).filter (fun k => s.rd .pwrPaceStagePbMask 0 e / 2 ^ k % 2 == 1)
            payWord p (3 + e / 2) / 2 ^ (32 * (1 - e % 2)) % 2 ^ 32 =
              if st = 0 then 0 else st * 2 ^ 16 + minPace (mask.map (fun k => s.pbPace k))))))) ∧
  (∀ (n : Nat) (s : State),
    (s.netTake 9 n = none → Completes (.paceBeaconReceive n) s (fun s' => s' = s)) ∧
    (∀ a s1, s.Arrives 9 n a s1 →
      let own (j : Nat) : Prop := s.rd .pwrPaceTblValid 0 j ≠ 0 ∧ s.rd .pwrPaceTblDevice 0 j = a.pkt.srcDev
      Completes (.paceBeaconReceive n) s (fun s' => s'.rd .pwrPaceRx = (s.rd .pwrPaceRx + 1) % 2 ^ 64 ∧
        ∃ j, j < 64 ∧
          (own j ∨ ((∀ i, i < 64 → ¬ own i) ∧ (s.rd .pwrPaceTblValid 0 j = 0 ∨
            (∀ i, i < 64 → s.rd .pwrPaceTblValid 0 i ≠ 0 ∧ s.rd .pwrPaceTblStamp 0 j ≤ s.rd .pwrPaceTblStamp 0 i)))) ∧
          s'.rd .pwrPaceTblValid 0 j = 1 ∧ s'.rd .pwrPaceTblDevice 0 j = a.pkt.srcDev % 2 ^ 20 ∧
          s'.rd .pwrPaceTblPace 0 j = payWord a.pkt 0 / 2 ^ 48 % 2 ^ 16 ∧ s'.rd .pwrPaceTblReason 0 j = payWord a.pkt 0 / 2 ^ 32 % 2 ^ 16 ∧
          s'.rd .pwrPaceTblStamp 0 j = payWord a.pkt 1 % 2 ^ 64 ∧
          s'.rd .pwrPaceEvict = (if (∀ i, i < 64 → ¬ own i) ∧ s.rd .pwrPaceTblValid 0 j ≠ 0 then (s.rd .pwrPaceEvict + 1) % 2 ^ 64
            else s.rd .pwrPaceEvict) ∧
          (s.rd .pwrPaceAlert ≤ payWord a.pkt 0 / 2 ^ 48 → s1.Only s' [.regs] ∧
            s.FieldsBut s' [(.pwrPaceRx, 0, 0), (.pwrPaceEvict, 0, 0), (.pwrPaceTblValid, 0, j), (.pwrPaceTblDevice, 0, j), (.pwrPaceTblPace, 0, j),
              (.pwrPaceTblReason, 0, j), (.pwrPaceTblStamp, 0, j)]) ∧
          (payWord a.pkt 0 / 2 ^ 48 < s.rd .pwrPaceAlert → s1.Only s' [.regs, .mbx, .mem, .free, .adit, .uart] ∧
            (s'.rd .mbxEvtHead 63 ≠ s.rd .mbxEvtHead 63 ∨ s'.rd .mbxEvtDrop 63 = (s.rd .mbxEvtDrop 63 + 1) % 2 ^ 64)))))

/-! ### Debug -/

/-- O58. Stops, scan-out, sampling and debug access (R418 to R424, R426, R427, R429, R432, R434). GO, or a HALT flit with a new HALT_ID on a device that accepts it, begins
a halt wave: every tile and every transmitter stops, links of ports in UP are recorded, and HALT goes out on the ports of PROPAGATE; a HALT flit of the held HALT_ID
closes the link's record. The stop completes with event 0x0501, which names HALT_ID, its instant and the links not UP (their places in it are the
model's choice, log 43). RESUME, by write or by flit, undoes all this, delivers the link records and lets the held register writes take effect. A link without a marker for 1 ms is lost. A due sample is written, or dropped whole; access and nonces expire. -/
def Obligations.StopsAndSampling : Prop :=
  let waves (id origin stamp : Nat) (s s' : State) : Prop :=
    s'.rd .dbgHaltId = id % 2 ^ 64 ∧ s'.rd .dbgHaltAt = s.tally % 2 ^ 64 ∧ s'.rd .dbgHaltOrigin = origin % 2 ^ 20 ∧
    s'.rd .dbgHaltStatusStopping = 1 ∧ s'.rd .dbgHaltStatusHalted = s.rd .dbgHaltStatusHalted ∧ s'.rd .dbgHaltStatusLinkLost = 0 ∧
    s'.dbg.wave = s.tally ∧ s'.dbg.originAt = stamp ∧
    (∀ t, t < 256 → s'.tile t = { s.tile t with stopped := true }) ∧ s.Only s' [.regs, .dbg, .tiles, .ports]
  let wavePort (id origin stamp : Nat) (s s' : State) (p : Nat) (marker : Option Nat) : Prop :=
    s'.port p = { s.port p with halted := true, marker := marker, linkShut := (s.port p).mode != .up, record := [], late := [], past := marker == some (s.port p).got, ctrl := (s.port p).ctrl ++
      (if (s.port p).mode = .up ∧ bitOf (s'.rd .dbgHaltCtrlPropagate) p = true then
        [.halt 0 (s.port p).seq (id % 2 ^ 64) (origin % 2 ^ 20) stamp] else []) }
  let resumed (s s' : State) : Prop :=
    s'.rd .dbgHaltStatusHalted = 0 ∧ s'.rd .dbgHaltStatusStopping = 0 ∧ s'.dbg.heldWrites = [] ∧
    (∀ t, t < 256 → (s'.tile t).stopped = false ∧ ((s.tile t).stopped = true → sget 0 t s'.quietFrom = s.tally)) ∧
    (∀ p, p < 8 → (s'.port p).halted = false ∧ (s'.port p).marker = none ∧ (s'.port p).linkShut = false ∧ (s'.port p).record = [] ∧ (s'.port p).late = []) ∧
    ((∀ w ∈ s.dbg.heldWrites, w.off / 2 ^ 24 = 6) →
      (∀ p, p < 8 → s'.port p = { (s.recordTake p).port p with halted := false, marker := none, linkShut := false, past := false, ctrl := (s.port p).ctrl ++
        (if (s.port p).mode = .up ∧ bitOf (s'.rd .dbgHaltCtrlPropagate) p = true then
          [.halt 1 (s.port p).seq (s.rd .dbgHaltId) (s.rd .dbgHaltOrigin) s.dbg.originAt] else []) }) ∧
      (s.dbg.heldWrites = [] → (∀ p, (s.port p).record = [] ∧ (s.port p).late = []) → s.Only s' [.regs, .dbg, .tiles, .colls, .ports, .skip, .quietFrom] ∧
        (∀ f i j, f ∉ [Field.dbgHaltCtrlAccept, .dbgHaltCtrlPropagate, .dbgHaltStatusHalted, .dbgHaltStatusStopping] → s'.rd f i j = s.rd f i j)) ∧
      (∀ t v, t < 256 → s.dbg.heldWrites = [⟨0x06008510, t, 0, v⟩] → s'.rd .tilePhasePhase t = v % 2 ^ 16) ∧
      (∀ g x, s.coll g = some x → s.colls = [(g, x)] → s'.coll g = some { x with
        rxAt := x.rxAt + min (s.tally - s.rd .dbgHaltAt) (s.tally - x.rxAt),
        progressAt := x.progressAt + min (s.tally - s.rd .dbgHaltAt) (s.tally - x.progressAt),
        kept := x.kept.map (fun k => { k with sentAt := k.sentAt + min (s.tally - s.rd .dbgHaltAt) (s.tally - k.sentAt) }) }))
  let evt (s s' : State) (code : Nat) : Prop :=
    (s.rd .mbxEvtHead 63 + 256 - s.rd .mbxEvtTail 63) % 256 ≠ 128 →
      leNat (s'.bytes (mbxKey 63 (0x2000 + 64 * (s.rd .mbxEvtHead 63 % 128))) 2) = code ∧ s'.rd .mbxEvtHead 63 = (s.rd .mbxEvtHead 63 + 1) % 256
  (∀ (v id : Nat) (s : State),
    (v.testBit 31 = false ∨ id % 2 ^ 64 = 0 ∨ s.inStop = true →
      Runs (.dbgHaltGoWrite v id) s [.regs] [(.dbgHaltCtrlAccept, 0, 0), (.dbgHaltCtrlPropagate, 0, 0)] (fun s' =>
        s'.rd .dbgHaltCtrlAccept = v / 2 ^ 29 % 2 ∧ s'.rd .dbgHaltCtrlPropagate = v / 2 ^ 16 % 2 ^ 8)) ∧
    (v.testBit 31 = true → id % 2 ^ 64 ≠ 0 → s.inStop = false → Completes (.dbgHaltGoWrite v id) s (fun s' =>
      s'.rd .dbgHaltCtrlAccept = v / 2 ^ 29 % 2 ∧ s'.rd .dbgHaltCtrlPropagate = v / 2 ^ 16 % 2 ^ 8 ∧
      waves id (s.rd .fabDevIdId) s.tally s s' ∧ s'.dbg.dumpAt = 0 ∧ ∀ p, p < 8 → wavePort id (s.rd .fabDevIdId) s.tally s s' p none))) ∧
  (∀ (v : Nat) (s : State),
    (v.testBit 30 = false ∨ s.inStop = false →
      Runs (.dbgHaltResumeWrite v) s [.regs] [(.dbgHaltCtrlAccept, 0, 0), (.dbgHaltCtrlPropagate, 0, 0)] (fun s' =>
        s'.rd .dbgHaltCtrlAccept = v / 2 ^ 29 % 2 ∧ s'.rd .dbgHaltCtrlPropagate = v / 2 ^ 16 % 2 ^ 8)) ∧
    (v.testBit 30 = true → s.inStop = true → Completes (.dbgHaltResumeWrite v) s (fun s' =>
      resumed s s' ∧ (s.dbg.heldWrites = [] → s'.rd .dbgHaltCtrlPropagate = v / 2 ^ 16 % 2 ^ 8)))) ∧
  (∀ s : State,
    (s.rd .dbgHaltStatusStopping = 0 → Completes .haltComplete s (fun s' => s' = s)) ∧
    (s.rd .dbgHaltStatusStopping ≠ 0 → Runs .haltComplete s [.regs, .mbx, .mem, .free, .adit, .uart]
      ([(Field.dbgHaltStatusStopping, 0, 0), (Field.dbgHaltStatusHalted, 0, 0), (Field.dbgHalts, 0, 0), (Field.mbxEvtHead, 63, 0), (Field.mbxEvtDrop, 63, 0)] ++ eventFields) (fun s' =>
        s'.rd .dbgHaltStatusStopping = 0 ∧ s'.rd .dbgHaltStatusHalted = 1 ∧ s'.rd .dbgHalts = (s.rd .dbgHalts + 1) % 2 ^ 64 ∧ evt s s' 0x0501 ∧
        ((s.rd .mbxEvtHead 63 + 256 - s.rd .mbxEvtTail 63) % 256 ≠ 128 → ∃ n,
          s'.bytes (mbxKey 63 (0x2000 + 64 * (s.rd .mbxEvtHead 63 % 128)) + 16) 24 = natLe 8 (s.rd .dbgHaltId) ++ natLe 8 (s.rd .dbgHaltAt) ++ natLe 8 n ∧
          ∀ q, q < s.variant.ports → (n.testBit q = true ↔ (s.port q).mode ≠ .up))))) ∧
  (∀ (p : PortId) (last id origin stamp : Nat) (s : State),
    ((s.port p).mode ≠ .up → Completes (.haltFlitReceive p last id origin stamp) s (fun s' => s' = s)) ∧
    ((s.port p).mode = .up →
      (id % 2 ^ 64 = 0 ∨ s.rd .dbgHaltCtrlAccept = 0 → Runs (.haltFlitReceive p last id origin stamp) s [.regs] [(.dbgHaltReject, 0, 0)] (fun s' =>
        s'.rd .dbgHaltReject = (s.rd .dbgHaltReject + 1) % 2 ^ 64)) ∧
      (id % 2 ^ 64 ≠ 0 → s.rd .dbgHaltCtrlAccept ≠ 0 →
        (s.inStop = true → Runs (.haltFlitReceive p last id origin stamp) s [.regs, .ports] [(.dbgHaltMerged, 0, 0)] (fun s' =>
          s'.rd .dbgHaltMerged = (if id % 2 ^ 64 = s.rd .dbgHaltId then s.rd .dbgHaltMerged else (s.rd .dbgHaltMerged + 1) % 2 ^ 64) ∧
          (∀ q, q ≠ p.val → s'.port q = s.port q) ∧
          s'.port p = (if (s.port p).halted = true ∧ (s.port p).marker = none then { s.port p with marker := some (last % 1024), past := (s.port p).past || (s.port p).got == last % 1024 } else s.port p))) ∧
        (s.inStop = false → id % 2 ^ 64 = s.rd .dbgHaltId → Completes (.haltFlitReceive p last id origin stamp) s (fun s' => s' = s)) ∧
        (s.inStop = false → id % 2 ^ 64 ≠ s.rd .dbgHaltId → Completes (.haltFlitReceive p last id origin stamp) s (fun s' =>
          waves (id % 2 ^ 64) origin stamp s s' ∧ s'.dbg.dumpAt = 0 ∧ s'.rd .dbgHaltCtrlPropagate = s.rd .dbgHaltCtrlPropagate ∧
          ∀ q, q < 8 → wavePort id origin stamp s s' q (if q = p.val then some (last % 1024) else none)))))) ∧
  (∀ (p : PortId) (id : Nat) (s : State),
    ((s.port p).mode ≠ .up → Completes (.resumeFlitReceive p id) s (fun s' => s' = s)) ∧
    ((s.port p).mode = .up →
      (id % 2 ^ 64 = 0 ∨ s.rd .dbgHaltCtrlAccept = 0 → Runs (.resumeFlitReceive p id) s [.regs] [(.dbgHaltReject, 0, 0)] (fun s' =>
        s'.rd .dbgHaltReject = (s.rd .dbgHaltReject + 1) % 2 ^ 64)) ∧
      (id % 2 ^ 64 ≠ 0 → s.rd .dbgHaltCtrlAccept ≠ 0 →
        (s.inStop = true → id % 2 ^ 64 = s.rd .dbgHaltId → Completes (.resumeFlitReceive p id) s (fun s' => resumed s s')) ∧
        (s.inStop = false ∨ id % 2 ^ 64 ≠ s.rd .dbgHaltId → Completes (.resumeFlitReceive p id) s (fun s' => s' = s))))) ∧
  (∀ (p : PortId) (s : State),
    let open_ := s.inStop = true ∧ (s.port p).marker = none ∧ (s.port p).halted = true ∧ (s.port p).linkShut = false ∧ s.dbg.wave + 1000000 ≤ s.tally
    (open_ → Runs (.linkRecordTimeout p) s [.regs, .ports] [(.dbgHaltStatusLinkLost, 0, 0)] (fun s' =>
      s'.port p = { s.port p with linkShut := true } ∧ (∀ q, q ≠ p.val → s'.port q = s.port q) ∧
      ∀ q, q < 8 → (bitOf (s'.rd .dbgHaltStatusLinkLost) q = true ↔ q = p.val ∨ bitOf (s.rd .dbgHaltStatusLinkLost) q = true))) ∧
    (¬ open_ → Completes (.linkRecordTimeout p) s (fun s' => s' = s))) ∧
  (∀ s : State,
    let due := s.rd .dbgHaltStatusHalted ≠ 0 ∧ s.linksClosed = true ∧ (s.dbg.dumpAt ≠ 0 ∨ s.dbg.purpose = 2) ∧ s.dbg.dumped = false ∧
      s.heldAt [(s.dbg.dumpAt, (s.dump s.dbg.dumpCap).1.length)] = none
    (¬ due → Completes .scanOut s (fun s' => s' = s)) ∧
    (due → Completes .scanOut s (fun s' => s'.dbg.dumped = true ∧ s'.dbg.dumpLen ≤ s.dbg.dumpCap ∧ (dumpMax ≤ s.dbg.dumpCap → s'.dbg.short = false) ∧
      (s.dbg.dumpCap < 80 → s'.dbg.dumpLen = 0 ∧ s'.dbg.short = true) ∧
      s'.dbg = { s.dbg with dumped := true, dumpLen := s'.dbg.dumpLen, short := s'.dbg.short } ∧
      (s.dbg.dumpCap < 80 → s.dbg.purpose ≠ 2 → evt s s' 0x0503)))) ∧
  (∀ s : State,
    let iv := max 1000 (s.rd .dbgPcsIntervalNs)
    let base := s.rd .dbgPcsBase
    let lg := s.rd .dbgPcsCfgLog2Bytes
    let head := s.rd .dbgPcsHead
    let size := 16 + 8 * s.pcsTiles.length
    let mark := s.tally / iv * iv
    let due := s.rd .dbgPcsCfgEn ≠ 0 ∧ s.tally ≤ mark + 1 ∧ s.dbg.pcsNext ≤ mark ∧ (∃ st l, s.place base = .hbm st l) ∧ 12 ≤ lg ∧ lg ≤ 30
    let next := { s.dbg with pcsNext := mark + 1, pcsSeq := (s.dbg.pcsSeq + 1) % 2 ^ 32 }
    (¬ due → Completes .pcsSample s (fun s' => s' = s)) ∧
    (due → head < 2 ^ 32 → s.rd .dbgPcsTail < 2 ^ 32 →
      let used := (2 ^ 32 + head - s.rd .dbgPcsTail) % 2 ^ 32
      (2 ^ lg < used + size → Runs .pcsSample s [.regs, .dbg, .free] [(.dbgPcsDrop, 0, 0)] (fun s' =>
        s'.dbg = next ∧ s'.rd .dbgPcsDrop = (s.rd .dbgPcsDrop + 1) % 2 ^ 64)) ∧
      (used + size ≤ 2 ^ lg → Completes .pcsSample s (fun s' =>
        s'.dbg = next ∧ s'.rd .dbgPcsHead = (head + size) % 2 ^ 32 ∧ s'.rd .dbgPcsSamples = (s.rd .dbgPcsSamples + 1) % 2 ^ 64 ∧
        s'.rd .dbgPcsTail = s.rd .dbgPcsTail ∧ s'.rd .dbgPcsDrop = s.rd .dbgPcsDrop ∧ s'.tiles = s.tiles ∧ s'.ports = s.ports ∧
        (∀ st l, s.place (base + head % 2 ^ lg) = .hbm st l → s.pcsTiles = [] → head % 2 ^ lg + size ≤ 2 ^ lg →
          (base + head % 2 ^ lg) % 64 = 0 → s.hbmReady (hbmcOf st l) = true → s.bandHolds (base + head % 2 ^ lg) = false →
          s.mark (Place.hbm st l).key = 0 →
          s'.bytes (Place.hbm st l).key 16 = natLe 8 mark ++ natLe 8 (s.dbg.pcsSeq * 2 ^ 32 + 0x5C5C) ∧
          s.BytesBut s' (Place.hbm st l).key 16))))) ∧
  (∀ s : State,
    (s.rd .dbgLockOpen ≠ 0 → s.rd .dbgOpenUntil ≤ s.tally → Runs .debugAccessExpiry s [.regs, .tiles, .mod] [(.dbgLockOpen, 0, 0), (.dbgLockPerms, 0, 0)] (fun s' =>
      s'.mod = { s.mod with jtagWait := [] } ∧ s'.rd .dbgLockOpen = 0 ∧ s'.rd .dbgLockPerms = 0 ∧
      ∀ t, t < 256 → s'.tile t = (if (s.tile t).core.mode = .broken then { s.tile t with core := { (s.tile t).core with mode := .running } }
        else s.tile t))) ∧
    (s.rd .dbgLockOpen = 0 ∨ s.tally < s.rd .dbgOpenUntil → Completes .debugAccessExpiry s (fun s' => s' = s)) ∧
    (s.dbg.nonce ≠ none → s.dbg.nonceAt + 300000000000 ≤ s.tally → Completes .nonceExpiry s (fun s' => s' = { s with dbg := { s.dbg with nonce := none } })) ∧
    (s.dbg.nonce = none ∨ s.tally < s.dbg.nonceAt + 300000000000 → Completes .nonceExpiry s (fun s' => s' = s)))

/-! ### Errors and resets -/

/-- O59. Errors, hangs and resets (R438 to R443, R445, R447, R450 to R454). While the headframe's clock runs, the RAS agent takes the oldest report: it counts it under its
class, logs it, raises source 445 and an event for classes from 1 on, sends a notice for classes 2 and 3, and resets a controller that left TRAINED. Corrected errors that rise by more than the
threshold within 1 s post event 0x0301 once. A tile that makes no progress is reported with the kind that its chain ends in, once. A record that has been written becomes
valid. A tile or port reset begins, joins one in progress, or completes with a new generation; a warm reset keeps memory and cold fields; a cold reset keeps the flash. -/
def Obligations.ErrorsAndResets : Prop :=
  (∀ s : State,
    (s.ras = [] ∨ (s.comp 3).mode ≠ .running ∨ s.ic.asleep = true → Completes .rasErrorReport s (fun s' => s' = s)) ∧
    (∀ r rest, s.ras = r :: rest → (s.comp 3).mode = .running → s.ic.asleep = false →
      let old := if s.rasLog.length < 4096 then s.rasLog else s.rasLog.drop 1
      let spilt := if s.rasLog.length < 4096 then s.rd .rasLogOverwrite else (s.rd .rasLogOverwrite + 1) % 2 ^ 64
      let entry (action : Nat) : LogRec := ⟨s.rasw.seq, s.tally, r.cls, r.kind.code, r.inst, r.code, r.gen, action, r.detail⟩
      (r.cls = 0 → Runs .rasErrorReport s [.regs, .ras, .rasLog, .rasw] [(.rasCe, 0, 0), (.rasLogOverwrite, 0, 0)] (fun s' =>
        s'.ras = rest ∧ s'.rd .rasCe = (s.rd .rasCe + 1) % 2 ^ 64 ∧ s'.rasLog = old ++ [entry 0] ∧ s'.rd .rasLogOverwrite = spilt ∧
        s'.rasw = { s.rasw with seq := s.rasw.seq + 1 })) ∧
      (r.cls = 1 → Runs .rasErrorReport s [.regs, .ras, .rasLog, .rasw, .mbx, .mem, .free, .ic, .adit, .uart]
        ([(Field.rasUeContained, 0, 0), (Field.rasLogOverwrite, 0, 0), (Field.mbxEvtHead, 63, 0), (Field.mbxEvtDrop, 63, 0)] ++ eventFields) (fun s' =>
          s'.ras = rest ∧ s'.rd .rasUeContained = (s.rd .rasUeContained + 1) % 2 ^ 64 ∧ s'.rasLog = old ++ [entry 1] ∧ s'.rd .rasLogOverwrite = spilt ∧
          (s.warmAt = 0 → s.rd .icSrcCfgEn 0 445 ≠ 0 → sget false 445 s'.ic.pending = true) ∧
          ((s.rd .mbxEvtHead 63 + 256 - s.rd .mbxEvtTail 63) % 256 ≠ 128 →
            leNat (s'.bytes (mbxKey 63 (0x2000 + 64 * (s.rd .mbxEvtHead 63 % 128))) 2) / 256 = 3))) ∧
      (r.cls = 4 → Runs .rasErrorReport s [.regs, .ras, .rasLog, .rasw, .mbx, .mem, .free, .ic, .adit, .uart]
        ([(Field.rasLogOverwrite, 0, 0), (Field.mbxEvtHead, 63, 0), (Field.mbxEvtDrop, 63, 0)] ++ eventFields) (fun s' =>
          s'.ras = rest ∧ s'.rasLog = old ++ [entry 1] ∧ s'.rd .rasLogOverwrite = spilt ∧
          (s.warmAt = 0 → s.rd .icSrcCfgEn 0 445 ≠ 0 → sget false 445 s'.ic.pending = true) ∧
          ((s.rd .mbxEvtHead 63 + 256 - s.rd .mbxEvtTail 63) % 256 ≠ 128 →
            leNat (s'.bytes (mbxKey 63 (0x2000 + 64 * (s.rd .mbxEvtHead 63 % 128))) 2) / 256 = 3))) ∧
      (r.cls = 2 ∨ r.cls = 3 → s.reportReset r = none → Completes .rasErrorReport s (fun s' =>
          let ports := (List.range s.variant.ports).filter (fun p => (s.port p).mode == .up)
          let dests := (List.range 16).filter (fun i => s.rd .rasNotifyDestValid 0 i != 0)
          let count : Field := if r.cls = 2 then .rasUeResource else .rasUeDevice
          let action : Nat := if r.cls = 2 ∧ ((r.kind = .component ∧ (s.comp r.inst).mode ≠ .failed) ∨
            (r.kind = .tile ∧ r.code / 256 = 6 ∧ 2 ≤ s.rd .rasCfgHangAction)) then 2 else 1
          s'.ras = rest ∧ s'.rd count = (s.rd count + 1) % 2 ^ 64 ∧ s'.rasLog = old ++ [entry action] ∧ s'.rd .rasLogOverwrite = spilt ∧
          (s.rd .rasNoticeTx < 2 ^ 64 → s'.rd .rasNoticeTx = (s.rd .rasNoticeTx + (ports.length + dests.length)) % 2 ^ 64) ∧
          (s.rasw.flashAt ≠ 0 → s.tally + 1 < s.rasw.flashAt + 10000000 → s'.flash = s.flash ∧
            s'.rd .rasFlashLogDrop = (s.rd .rasFlashLogDrop + 1) % 2 ^ 64) ∧
          (s.rasw.flashAt = 0 ∨ s.rasw.flashAt + 10000000 ≤ s.tally + 1 → s'.rasw.flashAt = s.tally + 1 ∧
            s'.rasw.flashNext = (s.rasw.flashNext + 1) % 262144 ∧
            s'.flashBytes (0x3000000 + 64 * (s.rasw.flashNext % 262144)) 32 = (entry action).bytes) ∧
          (∃ l, s'.outbox = s.outbox ++ l ∧ l.map (fun p => (p.via, p.dstDev)) =
              ports.map (fun p => (some p, 0xFFFFF)) ++ dests.map (fun i => (none, s.rd .rasNotifyDestDevice 0 i)) ∧
            ∀ p ∈ l, p.ty = 8 ∧ p.len = 64 ∧ p.dstQueue = 3 ∧ payWord p 1 = s.tally % 2 ^ 64 ∧
              payWord p 0 = 0x0300 * 2 ^ 48 + r.cls * 2 ^ 40 + r.kind.code * 2 ^ 32 + r.inst % 2 ^ 16 * 2 ^ 16 + r.gen % 2 ^ 8) ∧
          s.Only s' [.regs, .ras, .rasLog, .rasw, .mbx, .mem, .free, .ic, .adit, .outbox, .flash, .uart])) ∧
      (∀ k : CompId, r.cls = 2 → r.kind = .component → r.inst = k.val → r.code = 1 → (s.comp k).mode = .running →
        Completes .rasErrorReport s (fun s' => s'.ras = rest ∧ (s'.comp k).mode = .restarting)) ∧
      (∀ t : TileId, r.cls = 2 → r.kind = .tile → r.inst = t.val → r.code / 256 = 3 → 2 ≤ s.rd .rasCfgHangAction → (s.tile t).resetAt = none →
        Completes .rasErrorReport s (fun s' => s'.ras = rest ∧ (s'.tile t).resetAt = some (s.tally + 2000))) ∧
      (∀ c : HbmcId, r.cls = 2 → r.kind = .hbmc → r.inst = c.val → c.val < s.variant.hbmcs → (sget {} c.val s.hbmcs).resetAt = none →
        Completes .rasErrorReport s (fun s' => s'.ras = rest ∧ (sget {} c.val s'.hbmcs).resetAt = some s.tally ∧
          (sget {} c.val s'.hbmcs).trained = false)) ∧
      (r.cls = 3 → s.rd .rasCfgAutoWarm ≠ 0 → s.rasw.collecting = none → s.warmAt = 0 → s.rasw.warmPlan = 0 →
        (s.rd .rasPmStatusValid ≠ 0 → Completes .rasErrorReport s (fun s' => s'.ras = rest ∧ s'.rasw.warmPlan = s.tally + 1 ∧
          s'.rd .rasUeDevice = (s.rd .rasUeDevice + 1) % 2 ^ 64)) ∧
        (s.rd .rasPmStatusValid = 0 → s.inStop = false → Completes .rasErrorReport s (fun s' => s'.ras = rest ∧
          s'.rasw.collecting ≠ none ∧ s'.rasw.then_ = [(4, 0)] ∧ s'.rd .dbgHaltStatusStopping = 1 ∧ s'.rd .dbgHaltAt = s.tally % 2 ^ 64 ∧
          s'.rd .dbgHaltId = (2 ^ 63 + (if s.rd .fabDevIdValid ≠ 0 then s.rd .fabDevIdId else 0xFFFFF) * 2 ^ 32 + s.rd .rasPmTaken % 2 ^ 32) % 2 ^ 64))))) ∧
  (∀ s : State,
    ((s.comp 3).mode ≠ .running ∨ s.ic.asleep = true ∨ s.tally < s.rasw.ceAt + 1000000 → Completes .ceThresholdPoll s (fun s' => s' = s)) ∧
    ((s.comp 3).mode = .running → s.ic.asleep = false → s.rasw.ceAt + 1000000 ≤ s.tally →
      (s.rasw.ceHist = [] → ssorted s.regs = true → Completes .ceThresholdPoll s (fun s' => s'.rasw.ceAt = s.tally ∧ s.Only s' [.rasw])) ∧
      (∀ t0 base, ∀ t : TileId, s.rasw.ceHist = [(t0, base)] → s.tally ≤ t0 + 1000000000 → (∃ e ∈ s.regs, keyField e.1 = some .spdCe ∧ keyInst e.1 = t.val) →
        (∀ e ∈ s.regs, ∀ f r, keyField e.1 = some f → ceResource f (keyInst e.1) = some r →
          (sget 0 e.1 base + s.rd .rasCfgCeThresh < e.2 ↔ r = t.val)) →
        (s.rasw.cePosted = [] → Completes .ceThresholdPoll s (fun s' => s'.rasw.cePosted = [(t.val, s.tally)] ∧
          s.Only s' [.rasw, .regs, .mbx, .mem, .free, .adit, .uart] ∧
          ((s.rd .mbxEvtHead 63 + 256 - s.rd .mbxEvtTail 63) % 256 ≠ 128 →
            leNat (s'.bytes (mbxKey 63 (0x2000 + 64 * (s.rd .mbxEvtHead 63 % 128))) 2) = 0x0301 ∧
            s'.bytes (mbxKey 63 (0x2000 + 64 * (s.rd .mbxEvtHead 63 % 128)) + 16) 16 = natLe 8 0 ++ natLe 8 t.val))) ∧
        (∀ p, s.rasw.cePosted = [(t.val, p)] → s.tally < p + 1000000000 → Completes .ceThresholdPoll s (fun s' =>
          s'.rasw.cePosted = s.rasw.cePosted ∧ s.Only s' [.rasw]))))) ∧
  (∀ s : State,
    (s.rd .rasCfgHangEn = 0 ∨ (s.comp 3).mode ≠ .running ∨ s.ic.asleep = true ∨ s.rd .dbgHaltStatusHalted ≠ 0 ∨
      s.tally < s.rasw.scanAt + 1000 * max 1 (s.rd .rasHangScanUs) → Completes .hangScan s (fun s' => s' = s)) ∧
    (s.rd .rasCfgHangEn ≠ 0 → (s.comp 3).mode = .running → s.ic.asleep = false → s.rd .dbgHaltStatusHalted = 0 →
      s.rasw.scanAt + 1000 * max 1 (s.rd .rasHangScanUs) ≤ s.tally →
      let quiet (t : Nat) : Prop := max (s.rd .tileProgressAt t) (sget 0 t s.quietFrom) + s.rd .rasHangThreshNs ≤ s.tally
      let judged (t : Nat) : Prop := t < 256 ∧ s.rd .tileStage t ≠ 0 ∧ (s.tile t).coreState = 1 ∧ (s.tile t).tallyValid = true
      ((∀ t, judged t → ¬ quiet t) → Completes .hangScan s (fun s' => s'.rasw = { s.rasw with scanAt := s.tally } ∧ s.Only s' [.rasw])) ∧
      (∀ t, judged t → quiet t → (∀ u, judged u → quiet u → u = t) → ∀ kind tile dev peer,
        ((s.waitedEp t = none ∧ kind = 1 ∧ tile = t ∧ dev = 0 ∧ peer = 0) ∨
         (∃ e, s.waitedEp t = some e ∧
           ((s.peerLocal t e = false ∧ s.rd .tileProgressAt t + s.rd .rasHangRemoteNs ≤ s.tally ∧ kind = 3 ∧ tile = t ∧
              dev = s.rd .tileEpPeerDevice t e ∧ peer = s.rd .tileEpPeerTile t e) ∨
            (s.peerLocal t e = true ∧ s.dead (s.rd .tileEpPeerTile t e) = true ∧ kind = 4 ∧ tile = s.rd .tileEpPeerTile t e ∧ dev = s.rd .fabDevIdId ∧ peer = t) ∨
            (s.peerLocal t e = true ∧ s.dead t = false ∧ s.rd .tileEpPeerTile t e = t ∧ kind = 2 ∧ tile = t ∧ dev = s.rd .fabDevIdId ∧ peer = t)))) →
        (sget 0 tile s.rasw.reported = s.rd .tileProgress tile + 1 → Completes .hangScan s (fun s' =>
          s'.rasw = { s.rasw with scanAt := s.tally } ∧ s.Only s' [.rasw])) ∧
        (sget 0 tile s.rasw.reported ≠ s.rd .tileProgress tile + 1 → s.rd .rasCfgHangAction = 0 → (s.tile tile).resetAt = none →
          Completes .hangScan s (fun s' =>
            s'.rd .rasHangReports = (s.rd .rasHangReports + 1) % 2 ^ 64 ∧ sget 0 tile s'.rasw.reported = s.rd .tileProgress tile + 1 ∧
            s'.ras = s.ras ++ [⟨2, .tile, tile, 0x600 + kind, s.rd .tileGen tile, s.rd .tileStage tile⟩] ∧
            (s'.rd .rasHangInfoValid = 1 ∧ s'.rd .rasHangInfoKind = kind ∧ s'.rd .rasHangInfoTile = tile % 2 ^ 8 ∧
              s'.rd .rasHangInfoStage = s.rd .tileStage tile % 2 ^ 16 ∧ s'.rd .rasHangInfoWaiters = (if tile = t then 0 else 1) ∧
              s'.rd .rasHangInfoPeerDevice = dev % 2 ^ 20 ∧ s'.rd .rasHangInfoPeerTile = peer % 2 ^ 8 ∧ s'.rd .rasHangAt = s.tally % 2 ^ 64) ∧
            (s.warmAt = 0 → s.rd .icSrcCfgEn 0 446 ≠ 0 → sget false 446 s'.ic.pending = true) ∧
            s.Only s' [.regs, .rasw, .ras, .mbx, .mem, .free, .ic, .adit, .uart])) ∧
        (sget 0 tile s.rasw.reported ≠ s.rd .tileProgress tile + 1 → s.rd .rasCfgHangAction ≠ 0 → s.rasw.collecting = none → s.rd .rasPmStatusValid = 0 →
          s.inStop = false → Completes .hangScan s (fun s' =>
            s'.rd .rasHangReports = (s.rd .rasHangReports + 1) % 2 ^ 64 ∧ s'.rasw.collecting = some [2, 0, tile, 0x600 + kind, s.tally] ∧
            s'.rasw.then_ = (if s.rd .rasCfgHangAction = 1 then [] else [(0, tile)]) ∧ s'.rd .dbgHaltStatusStopping = 1))))) ∧
  (∀ s : State,
    let cap := s.rd .rasPmCap * 2 ^ 20
    let base := s.rd .rasPmBase
    let own := s.dbg.purpose = 1 ∧ s.dbg.dumpAt ≠ 0 ∧ s.dbg.dumped = false
    let fits := s.dbg.dumpLen ≤ cap ∧ (∀ a, base ≤ a → a < base + cap → s.accessAt a = .ok) ∧
      (∀ a n, base ≤ a → a + n ≤ base + cap → s.mpuMay 3 a n 1 = true)
    (s.rasw.collecting = none ∨ (s.dbg.dumped = false ∧ s.inStop = true ∧ (s.dbg.purpose = 2 ∨ own)) →
      Completes .postmortemComplete s (fun s' => s' = s)) ∧
    (s.rasw.collecting ≠ none → s.inStop = true → s.dbg.purpose ≠ 2 → ¬ own → Completes .postmortemComplete s (fun s' =>
      s'.dbg = { s.dbg with dumpAt := base, dumpCap := cap, purpose := 2, dumped := false } ∧ s.Only s' [.dbg])) ∧
    (s.rasw.collecting ≠ none → s.dbg.purpose = 2 → s.dbg.dumped = true → fits →
      (∀ t : TileId, s.rasw.then_ = [(0, t.val)] → (s.tile t).resetAt = none → Completes .postmortemComplete s (fun s' =>
        s'.rasw.collecting = none ∧ s'.rd .rasPmStatusValid = 1 ∧ (s'.tile t).resetAt = some (s.tally + 2000))) ∧
      (s.rasw.then_ = [(4, 0)] → s.warmAt = 0 → s.rasw.warmPlan = 0 → Completes .postmortemComplete s (fun s' =>
        s'.rasw.collecting = none ∧ s'.rd .rasPmStatusValid = 1 ∧ s'.rasw.warmPlan = s.tally + 1))) ∧
    (s.rasw.collecting ≠ none → s.rasw.then_ = [] →
      (s.dbg.dumped = false → s.inStop = false → Completes .postmortemComplete s (fun s' =>
        s'.rasw = { s.rasw with collecting := none } ∧ s'.dbg = { s.dbg with purpose := 0 } ∧ s.Only s' [.rasw, .dbg])) ∧
      (s.dbg.purpose = 2 → s.dbg.dumped = true → Completes .postmortemComplete s (fun s' =>
        s'.rasw.collecting = none ∧ s'.dbg = { s.dbg with purpose := 0 } ∧ s'.rd .rasPmStatusValid = 1 ∧
        (fits → s'.rasw = { s.rasw with collecting := none }) ∧
        s'.rd .rasPmAt = s.rd .dbgHaltAt % 2 ^ 64 ∧ s'.rd .rasPmTaken = (s.rd .rasPmTaken + 1) % 2 ^ 64 ∧
        (s.rd .dbgHaltStatusLinkLost ≠ 0 ∨ s.dbg.short = true → s'.rd .rasPmStatusIncomplete = 1) ∧
        (0 < s.rd .rasPmCap → s.dbg.dumpLen ≤ s.rd .rasPmCap * 2 ^ 20 → 64 * s'.rd .rasPmStatusLength ≤ s.rd .rasPmCap * 2 ^ 20) ∧
        (s.rd .rasPmCap = 0 → s'.rd .rasPmStatusLength = 0))))) ∧
  (∀ (n : Nat) (s : State),
    (s.netTake 8 n = none ∨ s.ic.asleep = true → Completes (.rasNoticeReceive n) s (fun s' => s' = s)) ∧
    (∀ a s1, s.Arrives 8 n a s1 → s.ic.asleep = false →
      let good := payWord a.pkt 0 / 2 ^ 48 = 0x0300 ∧ a.pkt.len = 64 ∧ a.pkt.dstQueue = 3 ∧ (s.comp 3).mode = .running
      (¬ good → Completes (.rasNoticeReceive n) s (fun s' =>
        s'.rd .hfMgmtDrop = (s.rd .hfMgmtDrop + 1) % 2 ^ 64 ∧ s.FieldsBut s' [(.hfMgmtDrop, 0, 0)] ∧ s1.Only s' [.regs])) ∧
      (good → Completes (.rasNoticeReceive n) s (fun s' =>
        s'.rd .hfMgmtRx = (s.rd .hfMgmtRx + 1) % 2 ^ 64 ∧ s'.rd .rasNoticeRx = (s.rd .rasNoticeRx + 1) % 2 ^ 64 ∧
        s.FieldsBut s' ([(Field.hfMgmtRx, 0, 0), (Field.rasNoticeRx, 0, 0), (Field.mbxEvtHead, 63, 0), (Field.mbxEvtDrop, 63, 0)] ++ eventFields) ∧
        ((s.rd .mbxEvtHead 63 + 256 - s.rd .mbxEvtTail 63) % 256 ≠ 128 → 48 ≤ a.pkt.payload.length →
          let k := 0x2000 + 64 * (s.rd .mbxEvtHead 63 % 128)
          leNat (s'.bytes (mbxKey 63 k) 2) = 0x0330 ∧ s'.bytes (mbxKey 63 (k + 16)) 48 = a.pkt.payload.take 48) ∧
        s1.Only s' [.regs, .mbx, .mem, .adit, .uart])))) ∧
  (∀ (t : TileId) (s : State),
    let mine (f : Field) (i : Nat) : Prop := f.info.dom = .tile ∧ ((f.info.space = .tile ∧ i = t.val) ∨ (f.info.space = .queue ∧ i / 128 = t.val))
    ((s.tile t).resetAt = none → (∀ e ∈ s.colls, e.2.tile ≠ t.val) → Completes (.tileReset t) s (fun s' =>
      (s'.tile t).resetAt = some (s.tally + 2000) ∧ (s'.tile t).core = {} ∧ (s'.tile t).ope = {} ∧ (s'.tile t).ve = {} ∧
      (s'.tile t).hoist = { nextTag := (s.tile t).hoist.nextTag } ∧ (s'.tile t).slots = [] ∧ (s'.tile t).items = [] ∧ (s'.tile t).stopped = false ∧
      (s'.tile t).gated = (s.tile t).gated ∧ (s'.tile t).tallyValid = (s.tile t).tallyValid ∧ s.TilesBut s' t ∧
      (∀ f i j, i < 65536 → mine f i → s'.rd f i j = f.reset s.variant i j) ∧ (∀ f i j, i < 65536 → ¬ mine f i → s'.rd f i j = s.rd f i j) ∧
      s'.collPend = s.collPend.filter (fun e => s.rd .collCfgTile e.1 != t.val) ∧ s.Only s' [.regs, .tiles, .dbg, .pwr, .latches, .collPend])) ∧
    (∀ g x, (s.tile t).resetAt = none → s.colls = [(g, x)] → x.tile = t.val → s.rd .collAbortInfoValid g = 0 → g < 64 → Completes (.tileReset t) s (fun s' =>
      s'.colls = [] ∧ s'.rd .collStatusAborted g = 1 ∧ s'.rd .collAbortInfoValid g = 1 ∧ s'.rd .collAbortInfoReason g = 5)) ∧
    (∀ e, (s.tile t).resetAt = some e →
      (s.tally < e → Completes (.tileReset t) s (fun s' => s' = s)) ∧
      (e ≤ s.tally → Runs (.tileReset t) s [.regs, .tiles, .quietFrom, .mbx, .mem, .free, .adit, .uart]
        ([(Field.tileGen, t.val, 0), (Field.tileGenAt, t.val, 0), (Field.rasResets, 0, 0), (Field.mbxEvtHead, 63, 0), (Field.mbxEvtDrop, 63, 0)] ++ eventFields) (fun s' =>
          s'.tile t = { s.tile t with resetAt := none } ∧ s.TilesBut s' t ∧ s'.rd .tileGen t = (s.rd .tileGen t + 1) % 2 ^ 8 ∧
          s'.rd .tileGenAt t = s.tally % 2 ^ 64 ∧ s'.rd .rasResets 0 0 = (s.rd .rasResets 0 0 + 1) % 2 ^ 64 ∧ sget 0 t.val s'.quietFrom = s.tally)))) ∧
  (∀ (p : PortId) (s : State), p.val < s.variant.ports →
    ((s.port p).resetAt = none → Completes (.portReset p) s (fun s' =>
      (s'.port p).mode = .disabled ∧ (s'.port p).resetAt = some (s.tally + 10000) ∧ (s'.port p).txq = [] ∧ (s'.port p).cur = none ∧ (s'.port p).sent = [] ∧
      (s'.port p).rxq = ((s.recordTake p).port p).rxq ∧ (s'.port p).credit = [] ∧ (∀ q, q ≠ p.val → s'.port q = s.port q) ∧
      s'.rd .portDropLinkDown p = (s.rd .portDropLinkDown p + ((s.port p).txq.length + (if (s.port p).cur.isSome then 1 else 0) +
        ((s.port p).sent.filter (fun f => f.last)).length)) % 2 ^ 64 ∧
      (∀ f j, f.info.dom = .port → f.info.space = .port → s'.rd f p j = f.reset s.variant p j) ∧ s.Only s' [.regs, .ports, .ic, .adit])) ∧
    (∀ e, (s.port p).resetAt = some e →
      (s.tally < e → Completes (.portReset p) s (fun s' => s' = s)) ∧
      (e ≤ s.tally → s.mod.scanHold = false → (s.port p).mode = .disabled → Completes (.portReset p) s (fun s' =>
        (s'.port p).resetAt = none ∧ (s'.port p).mode = (if s.rd .portCtrlEn p ≠ 0 then .training else .disabled) ∧
        s'.rd .portGen p = (s.rd .portGen p + 1) % 2 ^ 8 ∧ s'.rd .rasResets 0 1 = (s.rd .rasResets 0 1 + 1) % 2 ^ 64 ∧
        s.Only s' [.regs, .ports, .mbx, .mem, .free, .adit, .uart])))) ∧
  (∀ (c : HbmcId) (s : State) (e : Nat), c.val < s.variant.hbmcs → s.rd .tlyStatusDevValid ≠ 0 → (sget {} c.val s.hbmcs).resetAt = some e →
    Completes (.hbmTrained c) s (fun s' =>
      sget {} c.val s'.hbmcs = { sget {} c.val s.hbmcs with trained := true, selfRefresh := false, resetAt := none } ∧
      s'.rd .hbmGen c = (s.rd .hbmGen c + 1) % 2 ^ 8 ∧ s'.rd .rasResets 0 2 = (s.rd .rasResets 0 2 + 1) % 2 ^ 64)) ∧
  (∀ s : State,
    let sram (k : Nat) : Prop := 0x201000000 ≤ k ∧ k < 0x201100000
    (s.rasw.warmPlan = 0 ∨ s.tally + 1 < s.rasw.warmPlan → Completes .warmReset s (fun s' => s' = s)) ∧
    (s.rasw.warmPlan ≠ 0 → s.rasw.warmPlan ≤ s.tally + 1 → s.skipActive = false → Completes .warmReset s (fun s' =>
      (∀ k, ¬ sram k → s'.byte k = s.byte k) ∧ (∀ k, sram k → s'.byte k = 0#8) ∧ s'.flash = s.flash ∧ s'.ecc = s.ecc ∧
      (∀ t, t < 256 → (s'.tile t).core = {} ∧ (s'.tile t).ope = {} ∧ (s'.tile t).resetAt = none ∧ (s'.tile t).stopped = false ∧
        (s'.tile t).gated = (s.tile t).gated ∧ (s'.tile t).tallyValid = (s.tile t).tallyValid ∧
        s'.rd .tileGen t = (s.rd .tileGen t + 1) % 2 ^ 8 ∧ s'.rd .tileGenAt t = s.tally % 2 ^ 64) ∧
      (∀ p, (s'.port p).mode = .disabled ∧ (p < s.variant.ports → s'.rd .portGen p = (s.rd .portGen p + 1) % 2 ^ 8)) ∧
      (∀ c, c < s.variant.hbmcs → (sget {} c s'.hbmcs).trained = false ∧ (sget {} c s'.hbmcs).selfRefresh = true ∧
        s'.rd .hbmGen c = (s.rd .hbmGen c + 1) % 2 ^ 8) ∧
      (∀ k, k < 6 → (s'.comp k).mode = .notStarted ∧ s'.rd .hfCompStatusGen 0 k = (s.rd .hfCompStatusGen 0 k + 1) % 2 ^ 8) ∧
      s'.adit.fwReady = false ∧ s'.boot.rom = true ∧ s'.rasLog = [] ∧ s'.outbox = [] ∧ s'.ring = [] ∧ s'.dieNet = [] ∧ s'.colls = [] ∧ s'.rt = [] ∧
      s'.inStop = false ∧ s'.warmAt = s.tally + 1 ∧ s'.rasw.warmPlan = 0 ∧ s'.rd .rasResets 0 4 = (s.rd .rasResets 0 4 + 1) % 2 ^ 64 ∧
      (∀ f i j, f.info.dom = .warm ∨ f.info.dom = .tile ∨ f.info.dom = .port ∨ f.info.dom = .hbmc → s'.rd f i j = f.reset s.variant i j) ∧
      (∀ f i j, f.info.dom = .cold → f ∉ [Field.tileGen, .tileGenAt, .portGen, .hbmGen, .hfCompStatusGen, .rasResets] → s'.rd f i j = s.rd f i j)))) ∧
  (∀ (low : Nat) (s : State),
    (low < 10000 ∨ s.mod.pwrgd = false ∨ s.mod.pwrEn = false ∨ s.mod.tripped = true → Completes (.coldReset low) s (fun s' => s' = s)) ∧
    (10000 ≤ low → s.mod.pwrgd = true → s.mod.pwrEn = true → s.mod.tripped = false → Completes (.coldReset low) s (fun s' =>
      s'.flash = s.flash ∧ s'.mono = s.mono ∧ s'.time = s.time ∧ s'.tally = 0 ∧ s'.tiles = [] ∧ s'.ports = [] ∧ s'.comps = [] ∧ s'.hbmcs = [] ∧
      s'.rasLog = [] ∧ s'.mod.pgAt = s.time ∧ s'.mod.running = false ∧ s'.mod.pwrgd = true ∧
      s'.rd .hfModStatusStartCause = 2 ∧ s'.rd .rasResets 0 5 = 1 ∧
      (∀ f i j, f ≠ .hfModStatusStartCause → f ≠ .hfModStatusTripCause → (f, i % 65536, j % 4096) ≠ (Field.rasResets, 0, 5) → s'.rd f i j = f.reset s.variant i j) ∧
      (∀ k, (∀ b, (k, b) ∉ s.mem) → s'.byte k = 0#8))))

/-! ### Support for long runs -/

/-- O60. Skip snapshots, the CRC unit and numeric health (R463 to R471, R473, R474). While the headframe's clock runs, the register feed computes the four codes, whose check
values are R470's; CRC_CTRL selects a code, CRC_DATA feeds 1, 2 or 4 bytes, CRC_RESULT reads the code so far, and an access that finds the feed busy counts its wait. Staging begins at T_Q, writes
every chunk with a new ALIVE, waits at a held place, or aborts with result 2 at a source that does not decode; a staged skip is done in host mode and ships at most
16 chunks otherwise; an acknowledged chunk is shipped, a late one is sent again, and the eighth resend was the last. A heartbeat is a header of kind 2. A numeric-health sample arms a
snapshot, and once it has landed gives each format's shares. -/
def Obligations.LongRuns : Prop :=
  let digits : List Byte := [0x31, 0x32, 0x33, 0x34, 0x35, 0x36, 0x37, 0x38, 0x39]
  let hold (s : State) : Nat := (s.rd .crcRegStallNs + (s.crc.busyTill - s.tally)) % 2 ^ 64
  let evt (s s' : State) (code : Nat) : Prop :=
    (s.rd .mbxEvtHead 63 + 256 - s.rd .mbxEvtTail 63) % 256 ≠ 128 →
      leNat (s'.bytes (mbxKey 63 (0x2000 + 64 * (s.rd .mbxEvtHead 63 % 128))) 2) = code
  (crcOf 0 digits = 0xCBF43926 ∧ crcOf 1 digits = 0xE3069283 ∧ crcOf 2 digits = 0x6C40DF5F0B497347 ∧ crcOf 3 digits = 0x29B1) ∧
  (∀ (v : Nat) (s : State),
    (s.ic.asleep = true → ∀ c ∈ [Instr.crcCtrlWrite v, Instr.crcData8Write v, Instr.crcData16Write v, Instr.crcData32Write v], Completes c s (fun s' => s' = s)) ∧
    (s.ic.asleep = false → Runs (.crcCtrlWrite v) s [.regs, .crc] [(.crcCtrlPoly, 0, 0), (.crcRegStallNs, 0, 0)] (fun s' =>
      s'.rd .crcCtrlPoly = v % 4 ∧ s'.rd .crcRegStallNs = hold s ∧ s'.crc.busyTill = s.crc.busyTill ∧
      s'.crc.value = (if v % 4 = 2 then 0 else if v % 4 = 3 then 0xFFFF else 0xFFFFFFFF))) ∧
    ∀ c n, s.ic.asleep = false → (c, n) ∈ [(Instr.crcData8Write v, 1), (Instr.crcData16Write v, 2), (Instr.crcData32Write v, 4)] →
      Runs c s [.regs, .crc] [(.crcRegBytes, 0, 0), (.crcRegStallNs, 0, 0)] (fun s' =>
        s'.rd .crcRegBytes = (s.rd .crcRegBytes + n) % 2 ^ 64 ∧ s'.rd .crcRegStallNs = hold s ∧
        s'.crc.busyTill = max s.tally s.crc.busyTill + n ∧
        ∀ bs, s.crc.value = bs.foldl (crcFeed (s.rd .crcCtrlPoly)) (crcInit (s.rd .crcCtrlPoly)) →
          s'.crc.value = (bs ++ natLe n v).foldl (crcFeed (s.rd .crcCtrlPoly)) (crcInit (s.rd .crcCtrlPoly)))) ∧
  (∀ (a : Agent) (bs : List Byte) (s : State),
    s.crc.value = bs.foldl (crcFeed (s.rd .crcCtrlPoly)) (crcInit (s.rd .crcCtrlPoly)) →
      Runs (.crcResultRead a) s [.regs, .answers] [(.crcRegStallNs, 0, 0)] (fun s' =>
        sget 0 (agentIdx a) s'.answers = crcOf (s.rd .crcCtrlPoly) bs ∧ s'.rd .crcRegStallNs = hold s)) ∧
  (∀ s : State,
    let place (k : Chunk) : Option Nat := s.heldAt [(s.skip.base + k.off, 64 + roundUp k.len 64)]
    let answers (k : Chunk) : Prop := place k = none ∧ (k.kind = 0 ∨ k.kind = 3 ∨ ∀ u ∈ spanUnits k.src k.len, s.hfAccess u.1 = .ok)
    (s.rd .skpStatusState ≠ 1 ∨ s.tally < s.rd .skpQuiesceAt → Completes .skipStagingStart s (fun s' => s' = s)) ∧
    (s.rd .skpStatusState = 1 → s.rd .skpQuiesceAt ≤ s.tally →
      ((∀ k ∈ s.skip.chunks, answers k) → s.skip.staged = 0 → s.skip.alive < 2 ^ 32 → Completes .skipStagingStart s (fun s' =>
        s'.rd .skpStatusState = 2 ∧ s'.skip.staged = s.skip.chunks.length ∧ s'.skip.beatAt = s.tally ∧
        s'.skip.alive = (s.skip.alive + s.skip.chunks.length) % 2 ^ 32 ∧ s'.skip.chunks.length = s.skip.chunks.length ∧
        s'.skip = { s.skip with chunks := s'.skip.chunks, staged := s'.skip.staged, beatAt := s.tally, alive := s'.skip.alive })) ∧
      (∀ k, s.skip.chunks[s.skip.staged]? = some k → k.kind = 1 → place k = none →
        (∀ u ∈ spanUnits k.src k.len, s.hfAccess u.1 ≠ .held) → (∃ u ∈ spanUnits k.src k.len, s.hfAccess u.1 ≠ .ok) →
        Completes .skipStagingStart s (fun s' =>
          s'.rd .skpStatusState = 0 ∧ s'.rd .skpStatusResult = 2 ∧ s'.rd .skpAborts = (s.rd .skpAborts + 1) % 2 ^ 64 ∧ s'.skip.chunks = [] ∧
          s'.rd .skpPoisonLines = (s.rd .skpPoisonLines + ((s.badSource k).filter (fun i => decide (64 * i < s.hfOk k.src k.len))).length) % 2 ^ 64 ∧
          evt s s' 0x0603 ∧
          s.Only s' [.regs, .skip, .hfOut, .mbx, .mem, .free, .adit, .uart, .act, .ecc, .tiles, .ic, .ras, .hbmcs])) ∧
      (∀ k, s.skip.chunks[s.skip.staged]? = some k → (place k).isSome = true → Completes .skipStagingStart s (fun s' =>
        s'.rd .skpStatusState = 2 ∧ s.Only s' [.regs, .skip] ∧
        s'.skip = { s.skip with
          beatAt := s.tally
          chunks := s.skip.chunks.map (fun q => if k.kind = 1 ∧ q.index = k.index then { q with held := true } else q) } ∧
        (∀ f i j, f ∉ [Field.skpStatusState, Field.spdClearHold] → s'.rd f i j = s.rd f i j))))) ∧
  (∀ s : State,
    (s.rd .skpStatusState ≠ 2 → Completes .skipStaged s (fun s' => s' = s)) ∧
    (s.rd .skpStatusState = 2 → s.skip.staged = s.skip.chunks.length →
      (s.skip.host = true → Completes .skipStaged s (fun s' =>
        s'.rd .skpStagedAt = s.tally % 2 ^ 64 ∧ s'.rd .skpChunksStaged = (s.rd .skpChunksStaged + s.skip.chunks.length) % 2 ^ 64 ∧
        s'.rd .skpStatusState = 0 ∧ s'.rd .skpStatusResult = 1 ∧ s'.skip.chunks = [] ∧ evt s s' 0x0601 ∧
        (s.skip.sigEn = false → s'.outbox = s.outbox) ∧
        (s.skip.sigEn = true → ∃ p, s'.outbox = s.outbox ++ [p] ∧ p.ty = 3 ∧ p.vc = 2 ∧ p.sem = s.skip.sem ∧ p.dstTile = targetTile s.skip.target ∧
          p.dstDev = targetDev s.skip.target) ∧
        s.Only s' [.regs, .skip, .hfOut, .outbox, .mbx, .mem, .free, .adit, .uart])) ∧
      (s.skip.host = false → s.skip.chunks.map (fun k => k.index) = List.range s.skip.chunks.length →
        (∀ k ∈ s.skip.chunks, k.begun = false ∧ k.shipped = false) → Completes .skipStaged s (fun s' =>
          s'.rd .skpStagedAt = s.tally % 2 ^ 64 ∧ s'.rd .skpStatusState = 3 ∧
          (s'.skip.chunks.filter (fun k => k.begun)).length = min 16 s.skip.chunks.length ∧
          (∀ k ∈ s'.skip.chunks, k.begun = true → k.index < 16 ∧ k.sentAt = s.tally) ∧
          ∃ l, s'.outbox = s.outbox ++ l ∧ ∀ p ∈ l, p.ty ≠ 3 → p.ty = 0 ∧ p.vc = 7 ∧ p.dstDev = s.skip.destDev ∧ p.len ≤ 8192)))) ∧
  (∀ s : State,
    (s.rd .skpStatusState ≠ 3 ∨ s.skip.chunks.find? chunkAcked = none → Completes .skipChunkShipped s (fun s' => s' = s)) ∧
    (∀ k, s.rd .skpStatusState = 3 → s.skip.chunks.find? chunkAcked = some k →
      ((∀ q ∈ s.skip.chunks, q.index ≠ k.index → q.shipped = true) → Completes .skipChunkShipped s (fun s' =>
        s'.rd .skpChunksShipped = (s.rd .skpChunksShipped + 1) % 2 ^ 64 ∧ s'.rd .skpStatusState = 0 ∧ s'.rd .skpStatusResult = 1 ∧
        s'.skip.chunks = [] ∧ evt s s' 0x0602 ∧ s.Only s' [.regs, .skip, .hfOut, .mbx, .mem, .free, .adit, .uart])) ∧
      ((∃ q ∈ s.skip.chunks, q.index ≠ k.index ∧ q.shipped = false) → (∀ q ∈ s.skip.chunks, q.begun = true) → Completes .skipChunkShipped s (fun s' =>
        s'.rd .skpChunksShipped = (s.rd .skpChunksShipped + 1) % 2 ^ 64 ∧ s'.rd .skpStatusState = 3 ∧ (∀ q ∈ s'.skip.chunks, q.index = k.index → q.shipped = true) ∧
        s.FieldsBut s' [(.skpChunksShipped, 0, 0)] ∧ s.Only s' [.regs, .skip])))) ∧
  (∀ s : State,
    let late (k : Chunk) : Bool := k.begun && !k.shipped && !chunkAcked k && decide (s.tally ≥ k.sentAt + s.rd .skpShipTimeoutNs)
    (s.rd .skpStatusState ≠ 3 ∨ s.rd .dbgHaltStatusHalted ≠ 0 ∨ s.skip.chunks.find? late = none → Completes .skipChunkTimeout s (fun s' => s' = s)) ∧
    (∀ k, s.rd .skpStatusState = 3 → s.rd .dbgHaltStatusHalted = 0 → s.skip.chunks.find? late = some k →
      (8 ≤ k.resends → Completes .skipChunkTimeout s (fun s' =>
        s'.rd .skpStatusState = 0 ∧ s'.rd .skpStatusResult = 3 ∧ s'.rd .skpAborts = (s.rd .skpAborts + 1) % 2 ^ 64 ∧ s'.outbox = s.outbox ∧ evt s s' 0x0603)) ∧
      (k.resends < 8 → Completes .skipChunkTimeout s (fun s' =>
        s'.rd .skpChunkResend = (s.rd .skpChunkResend + 1) % 2 ^ 64 ∧ s'.rd .skpStatusState = 3 ∧ s'.skip.alive = (s.skip.alive + 1) % 2 ^ 32 ∧
        s'.rd .skpAlive = (s.skip.alive + 1) % 2 ^ 32 ∧
        (∀ q ∈ s'.skip.chunks, q.index = k.index → q.resends = k.resends + 1 ∧ q.flags / 2 = 1 ∧ q.flags % 2 = k.flags % 2 ∧ q.sentAt = s.tally) ∧
        ∃ l, s'.outbox = s.outbox ++ l ∧ ∀ p ∈ l, p.ty = 0 ∧ p.vc = 7 ∧ p.dstDev = s.skip.destDev)))) ∧
  (∀ s : State,
    let active := s.rd .skpStatusState = 2 ∨ s.rd .skpStatusState = 3
    (¬ active ∨ s.tally < s.skip.beatAt → Completes .skipHeartbeat s (fun s' => s' = s)) ∧
    (active → s.skip.beatAt ≤ s.tally → s.skip.host = false → Runs .skipHeartbeat s [.regs, .skip, .free, .hfOut, .outbox] [(.skpAlive, 0, 0), (.crcScanBytes, 0, 0)] (fun s' =>
      s'.rd .crcScanBytes = (s.rd .crcScanBytes + 56) % 2 ^ 64 ∧
      s'.rd .skpAlive = (s.skip.alive + 1) % 2 ^ 32 ∧ s'.skip.alive = (s.skip.alive + 1) % 2 ^ 32 ∧ s'.skip.beatAt = s.skip.beatAt + 1000000 ∧
      ∃ p, s'.outbox = s.outbox ++ [p] ∧ p.ty = 0 ∧ p.vc = 7 ∧ p.dstDev = s.skip.destDev ∧ p.addr = s.skip.dest + s.skip.size ∧ p.len = 64 ∧
        p.payload.length = 64 ∧ leNat (p.payload.take 4) = 0x31504B53 ∧ leNat ((p.payload.drop 4).take 2) = 2 ∧
        leNat ((p.payload.drop 8).take 8) = s.rd .skpId % 2 ^ 64 ∧ leNat ((p.payload.drop 20).take 4) = (s.skip.alive + 1) % 2 ^ 32 ∧
        leNat ((p.payload.drop 28).take 4) = 0 ∧ leNat ((p.payload.drop 40).take 8) = s.skip.size % 2 ^ 64 ∧
        leNat (p.payload.drop 56) = crcOf 2 (p.payload.take 56) % 2 ^ 64)) ∧
    (∀ st l, active → s.skip.beatAt ≤ s.tally → s.skip.host = true → s.place (s.skip.base + s.skip.size) = .hbm st l →
      (s.skip.base + s.skip.size) % 64 = 0 → s.hbmReady (hbmcOf st l) = true → s.bandHolds (s.skip.base + s.skip.size) = false →
      s.mark (Place.hbm st l).key = 0 → Completes .skipHeartbeat s (fun s' =>
        leNat (s'.bytes (Place.hbm st l).key 4) = 0x31504B53 ∧ leNat (s'.bytes ((Place.hbm st l).key + 20) 4) = (s.skip.alive + 1) % 2 ^ 32 ∧
        s.BytesBut s' (Place.hbm st l).key 64 ∧ s'.outbox = s.outbox))) ∧
  (∀ s : State,
    ((s.comp 5).mode ≠ .running ∨ s.ic.asleep = true → Completes .nhSample s (fun s' => s' = s)) ∧
    ((s.comp 5).mode = .running → s.ic.asleep = false →
      (s.nhWait = none → s.rd .skpNhCfgEn = 0 ∨ s.tally < s.nhAt → Completes .nhSample s (fun s' => s' = s)) ∧
      (s.nhWait = none → s.rd .skpNhCfgEn ≠ 0 → s.nhAt ≤ s.tally → s.tally + 10000 < 2 ^ 64 →
        (s.rd .tlyStatusSnapPending = 0 → Runs .nhSample s [.regs, .nhAt, .nhWait, .snapArmed, .snapCopied] [(.tlySnapAt, 0, 0), (.tlyStatusSnapPending, 0, 0)] (fun s' =>
          s'.rd .tlySnapAt = s.tally + 10000 ∧ s'.rd .tlyStatusSnapPending = 1 ∧ s'.snapArmed = s.tally + 10000 ∧
          s'.nhWait = some (s.rd .tlySnapSeq) ∧ s'.nhAt = s.tally + max 1 (s.rd .skpNhCfgPeriodMs) * 1000000)) ∧
        (s.rd .tlyStatusSnapPending ≠ 0 → Runs .nhSample s [.regs, .nhAt, .nhWait] [(.tlySnapAt, 0, 0), (.tlySnapBusy, 0, 0), (.skpNhSkipped, 0, 0)] (fun s' =>
          s'.rd .skpNhSkipped = (s.rd .skpNhSkipped + 1) % 2 ^ 64 ∧ s'.nhWait = some (s.rd .tlySnapSeq)))) ∧
      (∀ seq, s.nhWait = some seq → s.rd .tlySnapSeq = seq → Completes .nhSample s (fun s' => s' = s)) ∧
      (∀ seq, s.nhWait = some seq → s.rd .tlySnapSeq ≠ seq →
        let old : NhSample := s.nhLast.getD ⟨0, 0, [], []⟩
        let now := (List.range 256).filter (fun t => s.rd .dbgShadowSeq t == s.rd .tlySnapSeq)
        let tiles := now.filter (fun t => old.tiles.contains t)
        let rise (f : Field) (fmt : Nat) : Nat := (tiles.map (fun t =>
          (2 ^ 64 + sget 0 (fkey f t fmt) s.shadows - sget 0 (fkey f t fmt) old.shadows) % 2 ^ 64)).foldl (· + ·) 0
        let share (f : Field) (fmt : Nat) : Nat := if rise .tileNhTotal fmt = 0 then 0 else 1000000 * rise f fmt / rise .tileNhTotal fmt
        let above (fmt : Nat) : Bool := decide (s.rd .skpNhOvfPpm < share .tileNhOvf fmt) || decide (s.rd .skpNhVanishPpm < share .tileNhVanish fmt)
        let named (fmt : Nat) : Bool := bitOf (s.rd .skpNhCfgFmtMask) fmt
        Completes .nhSample s (fun s' =>
          (∀ fmt, fmt < 12 → named fmt = true →
            s'.rd .skpNhShareOvf 0 fmt = share .tileNhOvf fmt % 2 ^ 32 ∧ s'.rd .skpNhShareVanish 0 fmt = share .tileNhVanish fmt % 2 ^ 32 ∧
            s'.rd .skpNhShareNan 0 fmt = share .tileNhNan fmt % 2 ^ 32 ∧ s'.rd .skpNhShareTotal 0 fmt = rise .tileNhTotal fmt % 2 ^ 32) ∧
          (∀ fmt, fmt < 12 → named fmt = false → s'.rd .skpNhShareOvf 0 fmt = s.rd .skpNhShareOvf 0 fmt) ∧
          s'.rd .skpNhStale = (s.rd .skpNhStale + (256 - tiles.length)) % 2 ^ 64 ∧
          (s.rd .skpNhAlerts < 2 ^ 64 → s'.rd .skpNhAlerts =
            (s.rd .skpNhAlerts + ((List.range 12).filter (fun fmt => named fmt && above fmt)).length) % 2 ^ 64) ∧
          (∀ fmt, s.rd .skpNhAlerts < 2 ^ 64 → (List.range 12).filter (fun g => named g && above g) = [fmt] →
            (s.rd .mbxEvtHead 63 + 256 - s.rd .mbxEvtTail 63) % 256 ≠ 128 →
            evt s s' 0x0610 ∧ s'.bytes (mbxKey 63 (0x2000 + 64 * (s.rd .mbxEvtHead 63 % 128)) + 16) 40 =
              fieldBytes [(fmt, 4), (share .tileNhOvf fmt, 4), (share .tileNhVanish fmt, 4), (share .tileNhNan fmt, 4), (rise .tileNhTotal fmt, 8),
                (old.stamp, 8), (s.rd .tlySnapTakenAt, 8)]) ∧
          s'.nhWait = none ∧ s'.nhLast = some ⟨s.rd .tlySnapSeq, s.rd .tlySnapTakenAt, now, s.shadows⟩ ∧
          ((∀ fmt, fmt < 12 → named fmt = true → above fmt = false) → s.Only s' [.regs, .nhLast, .nhWait])))))
end

