-- ==== Sys2Proof/Laws/Sparse.lean ====
section
/-! SUPPORT. The laws of sparse tables: reading after a write, and that every operation keeps the canonical form. -/
namespace Sys2Proof.Machine
variable {α : Type}

/-! ### Lookup after a set -/

theorem slook_sins_same (k : Nat) (x : α) (l : List (Nat × α)) : slook k (sins k x l) = some x := by
  induction l with
  | nil => simp [sins, slook]
  | cons e l ih =>
    simp only [sins]
    split
    · simp [slook]
    · split
      · simp [slook]
      · rename_i h _
        simp [slook, h, ih]

theorem slook_sins_ne {k j : Nat} (h : j ≠ k) (x : α) (l : List (Nat × α)) : slook j (sins k x l) = slook j l := by
  induction l with
  | nil => simp [sins, slook, h]
  | cons e l ih =>
    simp only [sins]
    split
    · subst_vars
      simp [slook, h]
    · split
      · simp [slook, h]
      · simp [slook, ih]

theorem slook_drop_same (k : Nat) (l : List (Nat × α)) : slook k (l.filter (fun e => e.1 != k)) = none := by
  induction l with
  | nil => rfl
  | cons e l ih =>
    by_cases h : e.1 = k
    · simp [h, ih]
    · simp [h, slook, Ne.symm h, ih]

theorem slook_drop_ne {k j : Nat} (h : j ≠ k) (l : List (Nat × α)) : slook j (l.filter (fun e => e.1 != k)) = slook j l := by
  induction l with
  | nil => rfl
  | cons e l ih =>
    by_cases he : e.1 = k
    · simp [he, slook, h, ih]
    · simp [he, slook, ih]

/-- Reading the key just set. -/
theorem slook_sset_same (k : Nat) (v : Option α) (l : List (Nat × α)) : slook k (sset k v l) = v := by
  cases v with
  | none => exact slook_drop_same k l
  | some x => exact slook_sins_same k x l

/-- A set leaves every other key alone. -/
theorem slook_sset_ne {k j : Nat} (h : j ≠ k) (v : Option α) (l : List (Nat × α)) : slook j (sset k v l) = slook j l := by
  cases v with
  | none => exact slook_drop_ne h l
  | some x => exact slook_sins_ne h x l

/-! ### Order -/

theorem sabove_trans {i j : Nat} (h : i < j) : ∀ {l : List (Nat × α)}, sabove j l = true → sabove i l = true
  | [], _ => rfl
  | (k, _) :: l, hl => by
    simp only [sabove, Bool.and_eq_true, decide_eq_true_eq] at hl ⊢
    exact ⟨by omega, sabove_trans h hl.2⟩

theorem sabove_sins {i k : Nat} (h : i < k) (x : α) : ∀ {l : List (Nat × α)}, sabove i l = true → sabove i (sins k x l) = true
  | [], _ => by simp [sins, sabove, h]
  | (j, y) :: l, hl => by
    simp only [sabove, Bool.and_eq_true, decide_eq_true_eq] at hl
    simp only [sins]
    split
    · simp [sabove, h, hl.2]
    · split
      · simp [sabove, h, hl.1, hl.2]
      · simp [sabove, hl.1, sabove_sins h x hl.2]

theorem ssorted_sins (k : Nat) (x : α) : ∀ {l : List (Nat × α)}, ssorted l = true → ssorted (sins k x l) = true
  | [], _ => by simp [sins, ssorted, sabove]
  | (j, y) :: l, hl => by
    simp only [ssorted, Bool.and_eq_true] at hl
    simp only [sins]
    split
    · subst_vars
      simp [ssorted, hl.1, hl.2]
    · split
      · rename_i h1 h2
        simp [ssorted, sabove, h2, hl.1, hl.2, sabove_trans h2 hl.1]
      · simp [ssorted, sabove_sins (by omega : j < k) x hl.1, ssorted_sins k x hl.2]

theorem sabove_filter (p : Nat × α → Bool) {k : Nat} : ∀ {l : List (Nat × α)}, sabove k l = true → sabove k (l.filter p) = true
  | [], _ => rfl
  | (j, y) :: l, hl => by
    simp only [sabove, Bool.and_eq_true, decide_eq_true_eq] at hl
    simp only [List.filter_cons]
    split
    · simp [sabove, hl.1, sabove_filter p hl.2]
    · exact sabove_filter p hl.2

theorem ssorted_filter (p : Nat × α → Bool) : ∀ {l : List (Nat × α)}, ssorted l = true → ssorted (l.filter p) = true
  | [], _ => rfl
  | (j, y) :: l, hl => by
    simp only [ssorted, Bool.and_eq_true] at hl
    simp only [List.filter_cons]
    split
    · simp [ssorted, sabove_filter p hl.1, ssorted_filter p hl.2]
    · exact ssorted_filter p hl.2

theorem ssorted_sset (k : Nat) (v : Option α) {l : List (Nat × α)} (h : ssorted l = true) : ssorted (sset k v l) = true := by
  cases v with
  | none => exact ssorted_filter _ h
  | some x => exact ssorted_sins k x h

/-! ### Values with a default -/

variable [DecidableEq α]

/-- Reading the value just written. -/
theorem sget_sput_same (d : α) (k : Nat) (v : α) (l : List (Nat × α)) : sget d k (sput d k v l) = v := by
  unfold sget sput
  rw [slook_sset_same]
  split <;> simp_all

/-- A write leaves every other key alone. -/
theorem sget_sput_ne (d : α) {k j : Nat} (h : j ≠ k) (v : α) (l : List (Nat × α)) : sget d j (sput d k v l) = sget d j l := by
  unfold sget sput
  split <;> rw [slook_sset_ne h]

theorem ssorted_sput (d : α) (k : Nat) (v : α) {l : List (Nat × α)} (h : ssorted l = true) : ssorted (sput d k v l) = true :=
  ssorted_sset _ _ h

theorem snodef_sins {d : Nat → α} {k : Nat} {x : α} (hx : x ≠ d k) :
    ∀ {l : List (Nat × α)}, snodef d l = true → snodef d (sins k x l) = true
  | [], _ => by simpa [sins, snodef] using hx
  | (j, y) :: l, hl => by
    have hl' := hl
    simp only [snodef, List.all_cons, Bool.and_eq_true] at hl
    simp only [sins]
    split
    · subst_vars
      simpa [snodef, hx] using hl.2
    · split
      · simpa [snodef, hx] using hl'
      · have := snodef_sins hx (l := l) hl.2
        simp only [snodef, List.all_cons, Bool.and_eq_true]
        exact ⟨hl.1, this⟩

theorem snodef_filter {d : Nat → α} (p : Nat × α → Bool) {l : List (Nat × α)} (h : snodef d l = true) : snodef d (l.filter p) = true := by
  simp only [snodef, List.all_eq_true] at h ⊢
  exact fun e he => h e (List.mem_filter.mp he).1

/-- A write keeps the canonical form. -/
theorem swf_sput (d : α) (k : Nat) (v : α) {l : List (Nat × α)} (h : swf (fun _ => d) l = true) :
    swf (fun _ => d) (sput d k v l) = true := by
  simp only [swf, Bool.and_eq_true] at h ⊢
  refine ⟨ssorted_sput d k v h.1, ?_⟩
  unfold sput
  split
  · exact snodef_filter _ h.2
  · rename_i hv
    exact snodef_sins hv h.2

theorem swf_filter (d : Nat → α) (p : Nat × α → Bool) {l : List (Nat × α)} (h : swf d l = true) : swf d (l.filter p) = true := by
  simp only [swf, Bool.and_eq_true] at h ⊢
  exact ⟨ssorted_filter p h.1, snodef_filter p h.2⟩

/-- Removing entries keeps the canonical form. -/
theorem swf_sdrop (d : Nat → α) (p : Nat → Bool) {l : List (Nat × α)} (h : swf d l = true) : swf d (sdrop p l) = true := swf_filter d _ h

end Sys2Proof.Machine
end

