-- ==== Sys2Proof/Laws/State.lean ====
section
/-! SUPPORT. The plain updates of the state: what each leaves as it is, and reading back what was written. -/
namespace Sys2Proof.Machine

/-! ### What each update leaves -/

@[simp] theorem State.wr_pending (s : State) (f i j v) : (s.wr f i j v).pending = s.pending := rfl
@[simp] theorem State.wr_variant (s : State) (f i j v) : (s.wr f i j v).variant = s.variant := rfl
@[simp] theorem State.wr_time (s : State) (f i j v) : (s.wr f i j v).time = s.time := rfl
@[simp] theorem State.wr_tally (s : State) (f i j v) : (s.wr f i j v).tally = s.tally := rfl
@[simp] theorem State.wr_mem (s : State) (f i j v) : (s.wr f i j v).mem = s.mem := rfl
@[simp] theorem State.wr_ecc (s : State) (f i j v) : (s.wr f i j v).ecc = s.ecc := rfl
@[simp] theorem State.wr_tiles (s : State) (f i j v) : (s.wr f i j v).tiles = s.tiles := rfl
@[simp] theorem State.wr_hbmcs (s : State) (f i j v) : (s.wr f i j v).hbmcs = s.hbmcs := rfl
@[simp] theorem State.wr_bandNext (s : State) (f i j v) : (s.wr f i j v).bandNext = s.bandNext := rfl
@[simp] theorem State.wr_bandHeld (s : State) (f i j v) : (s.wr f i j v).bandHeld = s.bandHeld := rfl
@[simp] theorem State.wr_hbmReads (s : State) (f i j v) : (s.wr f i j v).hbmReads = s.hbmReads := rfl
@[simp] theorem State.wr_free (s : State) (f i j v) : (s.wr f i j v).free = s.free := rfl
@[simp] theorem State.wr_outbox (s : State) (f i j v) : (s.wr f i j v).outbox = s.outbox := rfl
@[simp] theorem State.wr_ring (s : State) (f i j v) : (s.wr f i j v).ring = s.ring := rfl
@[simp] theorem State.wr_ringArb (s : State) (f i j v) : (s.wr f i j v).ringArb = s.ringArb := rfl
@[simp] theorem State.wr_dieNet (s : State) (f i j v) : (s.wr f i j v).dieNet = s.dieNet := rfl
@[simp] theorem State.wr_hfOut (s : State) (f i j v) : (s.wr f i j v).hfOut = s.hfOut := rfl
@[simp] theorem State.wr_ports (s : State) (f i j v) : (s.wr f i j v).ports = s.ports := rfl
@[simp] theorem State.wr_rt (s : State) (f i j v) : (s.wr f i j v).rt = s.rt := rfl
@[simp] theorem State.wr_ras (s : State) (f i j v) : (s.wr f i j v).ras = s.ras := rfl
@[simp] theorem State.wr_act (s : State) (f i j v) : (s.wr f i j v).act = s.act := rfl
@[simp] theorem State.wr_shadows (s : State) (f i j v) : (s.wr f i j v).shadows = s.shadows := rfl
@[simp] theorem State.wr_colls (s : State) (f i j v) : (s.wr f i j v).colls = s.colls := rfl
@[simp] theorem State.wr_collMap (s : State) (f i j v) : (s.wr f i j v).collMap = s.collMap := rfl
@[simp] theorem State.wr_collPend (s : State) (f i j v) : (s.wr f i j v).collPend = s.collPend := rfl
@[simp] theorem State.wr_ic (s : State) (f i j v) : (s.wr f i j v).ic = s.ic := rfl
@[simp] theorem State.wr_adit (s : State) (f i j v) : (s.wr f i j v).adit = s.adit := rfl
@[simp] theorem State.wr_mbx (s : State) (f i j v) : (s.wr f i j v).mbx = s.mbx := rfl
@[simp] theorem State.wr_comps (s : State) (f i j v) : (s.wr f i j v).comps = s.comps := rfl
@[simp] theorem State.wr_talign (s : State) (f i j v) : (s.wr f i j v).talign = s.talign := rfl
@[simp] theorem State.wr_pwr (s : State) (f i j v) : (s.wr f i j v).pwr = s.pwr := rfl
@[simp] theorem State.wr_demand (s : State) (f i j v) : (s.wr f i j v).demand = s.demand := rfl
@[simp] theorem State.wr_dbg (s : State) (f i j v) : (s.wr f i j v).dbg = s.dbg := rfl
@[simp] theorem State.wr_rasLog (s : State) (f i j v) : (s.wr f i j v).rasLog = s.rasLog := rfl
@[simp] theorem State.wr_rasw (s : State) (f i j v) : (s.wr f i j v).rasw = s.rasw := rfl
@[simp] theorem State.wr_skip (s : State) (f i j v) : (s.wr f i j v).skip = s.skip := rfl
@[simp] theorem State.wr_crc (s : State) (f i j v) : (s.wr f i j v).crc = s.crc := rfl
@[simp] theorem State.wr_nhLast (s : State) (f i j v) : (s.wr f i j v).nhLast = s.nhLast := rfl
@[simp] theorem State.wr_nhWait (s : State) (f i j v) : (s.wr f i j v).nhWait = s.nhWait := rfl
@[simp] theorem State.wr_nhAt (s : State) (f i j v) : (s.wr f i j v).nhAt = s.nhAt := rfl
@[simp] theorem State.wr_snapArmed (s : State) (f i j v) : (s.wr f i j v).snapArmed = s.snapArmed := rfl
@[simp] theorem State.wr_snapCopied (s : State) (f i j v) : (s.wr f i j v).snapCopied = s.snapCopied := rfl
@[simp] theorem State.wr_uart (s : State) (f i j v) : (s.wr f i j v).uart = s.uart := rfl
@[simp] theorem State.wr_spare (s : State) (f i j v) : (s.wr f i j v).spare = s.spare := rfl
@[simp] theorem State.wr_flash (s : State) (f i j v) : (s.wr f i j v).flash = s.flash := rfl
@[simp] theorem State.wr_mono (s : State) (f i j v) : (s.wr f i j v).mono = s.mono := rfl
@[simp] theorem State.wr_records (s : State) (f i j v) : (s.wr f i j v).records = s.records := rfl
@[simp] theorem State.wr_boot (s : State) (f i j v) : (s.wr f i j v).boot = s.boot := rfl
@[simp] theorem State.wr_mod (s : State) (f i j v) : (s.wr f i j v).mod = s.mod := rfl
@[simp] theorem State.wr_quietFrom (s : State) (f i j v) : (s.wr f i j v).quietFrom = s.quietFrom := rfl
@[simp] theorem State.wr_warmAt (s : State) (f i j v) : (s.wr f i j v).warmAt = s.warmAt := rfl
@[simp] theorem State.wr_answers (s : State) (f i j v) : (s.wr f i j v).answers = s.answers := rfl
@[simp] theorem State.wr_latches (s : State) (f i j v) : (s.wr f i j v).latches = s.latches := rfl

@[simp] theorem State.cnt_pending (s : State) (f i j n) : (s.cnt f i j n).pending = s.pending := rfl
@[simp] theorem State.cnt_variant (s : State) (f i j n) : (s.cnt f i j n).variant = s.variant := rfl
@[simp] theorem State.cnt_time (s : State) (f i j n) : (s.cnt f i j n).time = s.time := rfl
@[simp] theorem State.cnt_tally (s : State) (f i j n) : (s.cnt f i j n).tally = s.tally := rfl
@[simp] theorem State.cnt_mem (s : State) (f i j n) : (s.cnt f i j n).mem = s.mem := rfl
@[simp] theorem State.cnt_ecc (s : State) (f i j n) : (s.cnt f i j n).ecc = s.ecc := rfl
@[simp] theorem State.cnt_tiles (s : State) (f i j n) : (s.cnt f i j n).tiles = s.tiles := rfl
@[simp] theorem State.cnt_hbmcs (s : State) (f i j n) : (s.cnt f i j n).hbmcs = s.hbmcs := rfl
@[simp] theorem State.cnt_bandNext (s : State) (f i j n) : (s.cnt f i j n).bandNext = s.bandNext := rfl
@[simp] theorem State.cnt_bandHeld (s : State) (f i j n) : (s.cnt f i j n).bandHeld = s.bandHeld := rfl
@[simp] theorem State.cnt_hbmReads (s : State) (f i j n) : (s.cnt f i j n).hbmReads = s.hbmReads := rfl
@[simp] theorem State.cnt_free (s : State) (f i j n) : (s.cnt f i j n).free = s.free := rfl
@[simp] theorem State.cnt_outbox (s : State) (f i j n) : (s.cnt f i j n).outbox = s.outbox := rfl
@[simp] theorem State.cnt_ring (s : State) (f i j n) : (s.cnt f i j n).ring = s.ring := rfl
@[simp] theorem State.cnt_ringArb (s : State) (f i j n) : (s.cnt f i j n).ringArb = s.ringArb := rfl
@[simp] theorem State.cnt_dieNet (s : State) (f i j n) : (s.cnt f i j n).dieNet = s.dieNet := rfl
@[simp] theorem State.cnt_hfOut (s : State) (f i j n) : (s.cnt f i j n).hfOut = s.hfOut := rfl
@[simp] theorem State.cnt_ports (s : State) (f i j n) : (s.cnt f i j n).ports = s.ports := rfl
@[simp] theorem State.cnt_rt (s : State) (f i j n) : (s.cnt f i j n).rt = s.rt := rfl
@[simp] theorem State.cnt_ras (s : State) (f i j n) : (s.cnt f i j n).ras = s.ras := rfl
@[simp] theorem State.cnt_act (s : State) (f i j n) : (s.cnt f i j n).act = s.act := rfl
@[simp] theorem State.cnt_shadows (s : State) (f i j n) : (s.cnt f i j n).shadows = s.shadows := rfl
@[simp] theorem State.cnt_colls (s : State) (f i j n) : (s.cnt f i j n).colls = s.colls := rfl
@[simp] theorem State.cnt_collMap (s : State) (f i j n) : (s.cnt f i j n).collMap = s.collMap := rfl
@[simp] theorem State.cnt_collPend (s : State) (f i j n) : (s.cnt f i j n).collPend = s.collPend := rfl
@[simp] theorem State.cnt_ic (s : State) (f i j n) : (s.cnt f i j n).ic = s.ic := rfl
@[simp] theorem State.cnt_adit (s : State) (f i j n) : (s.cnt f i j n).adit = s.adit := rfl
@[simp] theorem State.cnt_mbx (s : State) (f i j n) : (s.cnt f i j n).mbx = s.mbx := rfl
@[simp] theorem State.cnt_comps (s : State) (f i j n) : (s.cnt f i j n).comps = s.comps := rfl
@[simp] theorem State.cnt_talign (s : State) (f i j n) : (s.cnt f i j n).talign = s.talign := rfl
@[simp] theorem State.cnt_pwr (s : State) (f i j n) : (s.cnt f i j n).pwr = s.pwr := rfl
@[simp] theorem State.cnt_demand (s : State) (f i j n) : (s.cnt f i j n).demand = s.demand := rfl
@[simp] theorem State.cnt_dbg (s : State) (f i j n) : (s.cnt f i j n).dbg = s.dbg := rfl
@[simp] theorem State.cnt_rasLog (s : State) (f i j n) : (s.cnt f i j n).rasLog = s.rasLog := rfl
@[simp] theorem State.cnt_rasw (s : State) (f i j n) : (s.cnt f i j n).rasw = s.rasw := rfl
@[simp] theorem State.cnt_skip (s : State) (f i j n) : (s.cnt f i j n).skip = s.skip := rfl
@[simp] theorem State.cnt_crc (s : State) (f i j n) : (s.cnt f i j n).crc = s.crc := rfl
@[simp] theorem State.cnt_nhLast (s : State) (f i j n) : (s.cnt f i j n).nhLast = s.nhLast := rfl
@[simp] theorem State.cnt_nhWait (s : State) (f i j n) : (s.cnt f i j n).nhWait = s.nhWait := rfl
@[simp] theorem State.cnt_nhAt (s : State) (f i j n) : (s.cnt f i j n).nhAt = s.nhAt := rfl
@[simp] theorem State.cnt_snapArmed (s : State) (f i j n) : (s.cnt f i j n).snapArmed = s.snapArmed := rfl
@[simp] theorem State.cnt_snapCopied (s : State) (f i j n) : (s.cnt f i j n).snapCopied = s.snapCopied := rfl
@[simp] theorem State.cnt_uart (s : State) (f i j n) : (s.cnt f i j n).uart = s.uart := rfl
@[simp] theorem State.cnt_spare (s : State) (f i j n) : (s.cnt f i j n).spare = s.spare := rfl
@[simp] theorem State.cnt_flash (s : State) (f i j n) : (s.cnt f i j n).flash = s.flash := rfl
@[simp] theorem State.cnt_mono (s : State) (f i j n) : (s.cnt f i j n).mono = s.mono := rfl
@[simp] theorem State.cnt_records (s : State) (f i j n) : (s.cnt f i j n).records = s.records := rfl
@[simp] theorem State.cnt_boot (s : State) (f i j n) : (s.cnt f i j n).boot = s.boot := rfl
@[simp] theorem State.cnt_mod (s : State) (f i j n) : (s.cnt f i j n).mod = s.mod := rfl
@[simp] theorem State.cnt_quietFrom (s : State) (f i j n) : (s.cnt f i j n).quietFrom = s.quietFrom := rfl
@[simp] theorem State.cnt_warmAt (s : State) (f i j n) : (s.cnt f i j n).warmAt = s.warmAt := rfl
@[simp] theorem State.cnt_answers (s : State) (f i j n) : (s.cnt f i j n).answers = s.answers := rfl
@[simp] theorem State.cnt_latches (s : State) (f i j n) : (s.cnt f i j n).latches = s.latches := rfl

@[simp] theorem State.bump_pending (s : State) (f) : (s.bump f).pending = s.pending := rfl
@[simp] theorem State.bump_variant (s : State) (f) : (s.bump f).variant = s.variant := rfl
@[simp] theorem State.bump_time (s : State) (f) : (s.bump f).time = s.time := rfl
@[simp] theorem State.bump_tally (s : State) (f) : (s.bump f).tally = s.tally := rfl
@[simp] theorem State.bump_mem (s : State) (f) : (s.bump f).mem = s.mem := rfl
@[simp] theorem State.bump_ecc (s : State) (f) : (s.bump f).ecc = s.ecc := rfl
@[simp] theorem State.bump_tiles (s : State) (f) : (s.bump f).tiles = s.tiles := rfl
@[simp] theorem State.bump_hbmcs (s : State) (f) : (s.bump f).hbmcs = s.hbmcs := rfl
@[simp] theorem State.bump_bandNext (s : State) (f) : (s.bump f).bandNext = s.bandNext := rfl
@[simp] theorem State.bump_bandHeld (s : State) (f) : (s.bump f).bandHeld = s.bandHeld := rfl
@[simp] theorem State.bump_hbmReads (s : State) (f) : (s.bump f).hbmReads = s.hbmReads := rfl
@[simp] theorem State.bump_free (s : State) (f) : (s.bump f).free = s.free := rfl
@[simp] theorem State.bump_outbox (s : State) (f) : (s.bump f).outbox = s.outbox := rfl
@[simp] theorem State.bump_ring (s : State) (f) : (s.bump f).ring = s.ring := rfl
@[simp] theorem State.bump_ringArb (s : State) (f) : (s.bump f).ringArb = s.ringArb := rfl
@[simp] theorem State.bump_dieNet (s : State) (f) : (s.bump f).dieNet = s.dieNet := rfl
@[simp] theorem State.bump_hfOut (s : State) (f) : (s.bump f).hfOut = s.hfOut := rfl
@[simp] theorem State.bump_ports (s : State) (f) : (s.bump f).ports = s.ports := rfl
@[simp] theorem State.bump_rt (s : State) (f) : (s.bump f).rt = s.rt := rfl
@[simp] theorem State.bump_ras (s : State) (f) : (s.bump f).ras = s.ras := rfl
@[simp] theorem State.bump_act (s : State) (f) : (s.bump f).act = s.act := rfl
@[simp] theorem State.bump_shadows (s : State) (f) : (s.bump f).shadows = s.shadows := rfl
@[simp] theorem State.bump_colls (s : State) (f) : (s.bump f).colls = s.colls := rfl
@[simp] theorem State.bump_collMap (s : State) (f) : (s.bump f).collMap = s.collMap := rfl
@[simp] theorem State.bump_collPend (s : State) (f) : (s.bump f).collPend = s.collPend := rfl
@[simp] theorem State.bump_ic (s : State) (f) : (s.bump f).ic = s.ic := rfl
@[simp] theorem State.bump_adit (s : State) (f) : (s.bump f).adit = s.adit := rfl
@[simp] theorem State.bump_mbx (s : State) (f) : (s.bump f).mbx = s.mbx := rfl
@[simp] theorem State.bump_comps (s : State) (f) : (s.bump f).comps = s.comps := rfl
@[simp] theorem State.bump_talign (s : State) (f) : (s.bump f).talign = s.talign := rfl
@[simp] theorem State.bump_pwr (s : State) (f) : (s.bump f).pwr = s.pwr := rfl
@[simp] theorem State.bump_demand (s : State) (f) : (s.bump f).demand = s.demand := rfl
@[simp] theorem State.bump_dbg (s : State) (f) : (s.bump f).dbg = s.dbg := rfl
@[simp] theorem State.bump_rasLog (s : State) (f) : (s.bump f).rasLog = s.rasLog := rfl
@[simp] theorem State.bump_rasw (s : State) (f) : (s.bump f).rasw = s.rasw := rfl
@[simp] theorem State.bump_skip (s : State) (f) : (s.bump f).skip = s.skip := rfl
@[simp] theorem State.bump_crc (s : State) (f) : (s.bump f).crc = s.crc := rfl
@[simp] theorem State.bump_nhLast (s : State) (f) : (s.bump f).nhLast = s.nhLast := rfl
@[simp] theorem State.bump_nhWait (s : State) (f) : (s.bump f).nhWait = s.nhWait := rfl
@[simp] theorem State.bump_nhAt (s : State) (f) : (s.bump f).nhAt = s.nhAt := rfl
@[simp] theorem State.bump_snapArmed (s : State) (f) : (s.bump f).snapArmed = s.snapArmed := rfl
@[simp] theorem State.bump_snapCopied (s : State) (f) : (s.bump f).snapCopied = s.snapCopied := rfl
@[simp] theorem State.bump_uart (s : State) (f) : (s.bump f).uart = s.uart := rfl
@[simp] theorem State.bump_spare (s : State) (f) : (s.bump f).spare = s.spare := rfl
@[simp] theorem State.bump_flash (s : State) (f) : (s.bump f).flash = s.flash := rfl
@[simp] theorem State.bump_mono (s : State) (f) : (s.bump f).mono = s.mono := rfl
@[simp] theorem State.bump_records (s : State) (f) : (s.bump f).records = s.records := rfl
@[simp] theorem State.bump_boot (s : State) (f) : (s.bump f).boot = s.boot := rfl
@[simp] theorem State.bump_mod (s : State) (f) : (s.bump f).mod = s.mod := rfl
@[simp] theorem State.bump_quietFrom (s : State) (f) : (s.bump f).quietFrom = s.quietFrom := rfl
@[simp] theorem State.bump_warmAt (s : State) (f) : (s.bump f).warmAt = s.warmAt := rfl
@[simp] theorem State.bump_answers (s : State) (f) : (s.bump f).answers = s.answers := rfl
@[simp] theorem State.bump_latches (s : State) (f) : (s.bump f).latches = s.latches := rfl

@[simp] theorem State.setTile_pending (s : State) (t x) : (s.setTile t x).pending = s.pending := rfl
@[simp] theorem State.setTile_variant (s : State) (t x) : (s.setTile t x).variant = s.variant := rfl
@[simp] theorem State.setTile_time (s : State) (t x) : (s.setTile t x).time = s.time := rfl
@[simp] theorem State.setTile_tally (s : State) (t x) : (s.setTile t x).tally = s.tally := rfl
@[simp] theorem State.setTile_regs (s : State) (t x) : (s.setTile t x).regs = s.regs := rfl
@[simp] theorem State.setTile_mem (s : State) (t x) : (s.setTile t x).mem = s.mem := rfl
@[simp] theorem State.setTile_ecc (s : State) (t x) : (s.setTile t x).ecc = s.ecc := rfl
@[simp] theorem State.setTile_hbmcs (s : State) (t x) : (s.setTile t x).hbmcs = s.hbmcs := rfl
@[simp] theorem State.setTile_bandNext (s : State) (t x) : (s.setTile t x).bandNext = s.bandNext := rfl
@[simp] theorem State.setTile_bandHeld (s : State) (t x) : (s.setTile t x).bandHeld = s.bandHeld := rfl
@[simp] theorem State.setTile_hbmReads (s : State) (t x) : (s.setTile t x).hbmReads = s.hbmReads := rfl
@[simp] theorem State.setTile_free (s : State) (t x) : (s.setTile t x).free = s.free := rfl
@[simp] theorem State.setTile_outbox (s : State) (t x) : (s.setTile t x).outbox = s.outbox := rfl
@[simp] theorem State.setTile_ring (s : State) (t x) : (s.setTile t x).ring = s.ring := rfl
@[simp] theorem State.setTile_ringArb (s : State) (t x) : (s.setTile t x).ringArb = s.ringArb := rfl
@[simp] theorem State.setTile_dieNet (s : State) (t x) : (s.setTile t x).dieNet = s.dieNet := rfl
@[simp] theorem State.setTile_hfOut (s : State) (t x) : (s.setTile t x).hfOut = s.hfOut := rfl
@[simp] theorem State.setTile_ports (s : State) (t x) : (s.setTile t x).ports = s.ports := rfl
@[simp] theorem State.setTile_rt (s : State) (t x) : (s.setTile t x).rt = s.rt := rfl
@[simp] theorem State.setTile_ras (s : State) (t x) : (s.setTile t x).ras = s.ras := rfl
@[simp] theorem State.setTile_act (s : State) (t x) : (s.setTile t x).act = s.act := rfl
@[simp] theorem State.setTile_shadows (s : State) (t x) : (s.setTile t x).shadows = s.shadows := rfl
@[simp] theorem State.setTile_colls (s : State) (t x) : (s.setTile t x).colls = s.colls := rfl
@[simp] theorem State.setTile_collMap (s : State) (t x) : (s.setTile t x).collMap = s.collMap := rfl
@[simp] theorem State.setTile_collPend (s : State) (t x) : (s.setTile t x).collPend = s.collPend := rfl
@[simp] theorem State.setTile_ic (s : State) (t x) : (s.setTile t x).ic = s.ic := rfl
@[simp] theorem State.setTile_adit (s : State) (t x) : (s.setTile t x).adit = s.adit := rfl
@[simp] theorem State.setTile_mbx (s : State) (t x) : (s.setTile t x).mbx = s.mbx := rfl
@[simp] theorem State.setTile_comps (s : State) (t x) : (s.setTile t x).comps = s.comps := rfl
@[simp] theorem State.setTile_talign (s : State) (t x) : (s.setTile t x).talign = s.talign := rfl
@[simp] theorem State.setTile_pwr (s : State) (t x) : (s.setTile t x).pwr = s.pwr := rfl
@[simp] theorem State.setTile_demand (s : State) (t x) : (s.setTile t x).demand = s.demand := rfl
@[simp] theorem State.setTile_dbg (s : State) (t x) : (s.setTile t x).dbg = s.dbg := rfl
@[simp] theorem State.setTile_rasLog (s : State) (t x) : (s.setTile t x).rasLog = s.rasLog := rfl
@[simp] theorem State.setTile_rasw (s : State) (t x) : (s.setTile t x).rasw = s.rasw := rfl
@[simp] theorem State.setTile_skip (s : State) (t x) : (s.setTile t x).skip = s.skip := rfl
@[simp] theorem State.setTile_crc (s : State) (t x) : (s.setTile t x).crc = s.crc := rfl
@[simp] theorem State.setTile_nhLast (s : State) (t x) : (s.setTile t x).nhLast = s.nhLast := rfl
@[simp] theorem State.setTile_nhWait (s : State) (t x) : (s.setTile t x).nhWait = s.nhWait := rfl
@[simp] theorem State.setTile_nhAt (s : State) (t x) : (s.setTile t x).nhAt = s.nhAt := rfl
@[simp] theorem State.setTile_snapArmed (s : State) (t x) : (s.setTile t x).snapArmed = s.snapArmed := rfl
@[simp] theorem State.setTile_snapCopied (s : State) (t x) : (s.setTile t x).snapCopied = s.snapCopied := rfl
@[simp] theorem State.setTile_uart (s : State) (t x) : (s.setTile t x).uart = s.uart := rfl
@[simp] theorem State.setTile_spare (s : State) (t x) : (s.setTile t x).spare = s.spare := rfl
@[simp] theorem State.setTile_flash (s : State) (t x) : (s.setTile t x).flash = s.flash := rfl
@[simp] theorem State.setTile_mono (s : State) (t x) : (s.setTile t x).mono = s.mono := rfl
@[simp] theorem State.setTile_records (s : State) (t x) : (s.setTile t x).records = s.records := rfl
@[simp] theorem State.setTile_boot (s : State) (t x) : (s.setTile t x).boot = s.boot := rfl
@[simp] theorem State.setTile_mod (s : State) (t x) : (s.setTile t x).mod = s.mod := rfl
@[simp] theorem State.setTile_quietFrom (s : State) (t x) : (s.setTile t x).quietFrom = s.quietFrom := rfl
@[simp] theorem State.setTile_warmAt (s : State) (t x) : (s.setTile t x).warmAt = s.warmAt := rfl
@[simp] theorem State.setTile_answers (s : State) (t x) : (s.setTile t x).answers = s.answers := rfl
@[simp] theorem State.setTile_latches (s : State) (t x) : (s.setTile t x).latches = s.latches := rfl

@[simp] theorem State.onTile_pending (s : State) (t g) : (s.onTile t g).pending = s.pending := rfl
@[simp] theorem State.onTile_variant (s : State) (t g) : (s.onTile t g).variant = s.variant := rfl
@[simp] theorem State.onTile_time (s : State) (t g) : (s.onTile t g).time = s.time := rfl
@[simp] theorem State.onTile_tally (s : State) (t g) : (s.onTile t g).tally = s.tally := rfl
@[simp] theorem State.onTile_regs (s : State) (t g) : (s.onTile t g).regs = s.regs := rfl
@[simp] theorem State.onTile_mem (s : State) (t g) : (s.onTile t g).mem = s.mem := rfl
@[simp] theorem State.onTile_ecc (s : State) (t g) : (s.onTile t g).ecc = s.ecc := rfl
@[simp] theorem State.onTile_hbmcs (s : State) (t g) : (s.onTile t g).hbmcs = s.hbmcs := rfl
@[simp] theorem State.onTile_bandNext (s : State) (t g) : (s.onTile t g).bandNext = s.bandNext := rfl
@[simp] theorem State.onTile_bandHeld (s : State) (t g) : (s.onTile t g).bandHeld = s.bandHeld := rfl
@[simp] theorem State.onTile_hbmReads (s : State) (t g) : (s.onTile t g).hbmReads = s.hbmReads := rfl
@[simp] theorem State.onTile_free (s : State) (t g) : (s.onTile t g).free = s.free := rfl
@[simp] theorem State.onTile_outbox (s : State) (t g) : (s.onTile t g).outbox = s.outbox := rfl
@[simp] theorem State.onTile_ring (s : State) (t g) : (s.onTile t g).ring = s.ring := rfl
@[simp] theorem State.onTile_ringArb (s : State) (t g) : (s.onTile t g).ringArb = s.ringArb := rfl
@[simp] theorem State.onTile_dieNet (s : State) (t g) : (s.onTile t g).dieNet = s.dieNet := rfl
@[simp] theorem State.onTile_hfOut (s : State) (t g) : (s.onTile t g).hfOut = s.hfOut := rfl
@[simp] theorem State.onTile_ports (s : State) (t g) : (s.onTile t g).ports = s.ports := rfl
@[simp] theorem State.onTile_rt (s : State) (t g) : (s.onTile t g).rt = s.rt := rfl
@[simp] theorem State.onTile_ras (s : State) (t g) : (s.onTile t g).ras = s.ras := rfl
@[simp] theorem State.onTile_act (s : State) (t g) : (s.onTile t g).act = s.act := rfl
@[simp] theorem State.onTile_shadows (s : State) (t g) : (s.onTile t g).shadows = s.shadows := rfl
@[simp] theorem State.onTile_colls (s : State) (t g) : (s.onTile t g).colls = s.colls := rfl
@[simp] theorem State.onTile_collMap (s : State) (t g) : (s.onTile t g).collMap = s.collMap := rfl
@[simp] theorem State.onTile_collPend (s : State) (t g) : (s.onTile t g).collPend = s.collPend := rfl
@[simp] theorem State.onTile_ic (s : State) (t g) : (s.onTile t g).ic = s.ic := rfl
@[simp] theorem State.onTile_adit (s : State) (t g) : (s.onTile t g).adit = s.adit := rfl
@[simp] theorem State.onTile_mbx (s : State) (t g) : (s.onTile t g).mbx = s.mbx := rfl
@[simp] theorem State.onTile_comps (s : State) (t g) : (s.onTile t g).comps = s.comps := rfl
@[simp] theorem State.onTile_talign (s : State) (t g) : (s.onTile t g).talign = s.talign := rfl
@[simp] theorem State.onTile_pwr (s : State) (t g) : (s.onTile t g).pwr = s.pwr := rfl
@[simp] theorem State.onTile_demand (s : State) (t g) : (s.onTile t g).demand = s.demand := rfl
@[simp] theorem State.onTile_dbg (s : State) (t g) : (s.onTile t g).dbg = s.dbg := rfl
@[simp] theorem State.onTile_rasLog (s : State) (t g) : (s.onTile t g).rasLog = s.rasLog := rfl
@[simp] theorem State.onTile_rasw (s : State) (t g) : (s.onTile t g).rasw = s.rasw := rfl
@[simp] theorem State.onTile_skip (s : State) (t g) : (s.onTile t g).skip = s.skip := rfl
@[simp] theorem State.onTile_crc (s : State) (t g) : (s.onTile t g).crc = s.crc := rfl
@[simp] theorem State.onTile_nhLast (s : State) (t g) : (s.onTile t g).nhLast = s.nhLast := rfl
@[simp] theorem State.onTile_nhWait (s : State) (t g) : (s.onTile t g).nhWait = s.nhWait := rfl
@[simp] theorem State.onTile_nhAt (s : State) (t g) : (s.onTile t g).nhAt = s.nhAt := rfl
@[simp] theorem State.onTile_snapArmed (s : State) (t g) : (s.onTile t g).snapArmed = s.snapArmed := rfl
@[simp] theorem State.onTile_snapCopied (s : State) (t g) : (s.onTile t g).snapCopied = s.snapCopied := rfl
@[simp] theorem State.onTile_uart (s : State) (t g) : (s.onTile t g).uart = s.uart := rfl
@[simp] theorem State.onTile_spare (s : State) (t g) : (s.onTile t g).spare = s.spare := rfl
@[simp] theorem State.onTile_flash (s : State) (t g) : (s.onTile t g).flash = s.flash := rfl
@[simp] theorem State.onTile_mono (s : State) (t g) : (s.onTile t g).mono = s.mono := rfl
@[simp] theorem State.onTile_records (s : State) (t g) : (s.onTile t g).records = s.records := rfl
@[simp] theorem State.onTile_boot (s : State) (t g) : (s.onTile t g).boot = s.boot := rfl
@[simp] theorem State.onTile_mod (s : State) (t g) : (s.onTile t g).mod = s.mod := rfl
@[simp] theorem State.onTile_quietFrom (s : State) (t g) : (s.onTile t g).quietFrom = s.quietFrom := rfl
@[simp] theorem State.onTile_warmAt (s : State) (t g) : (s.onTile t g).warmAt = s.warmAt := rfl
@[simp] theorem State.onTile_answers (s : State) (t g) : (s.onTile t g).answers = s.answers := rfl
@[simp] theorem State.onTile_latches (s : State) (t g) : (s.onTile t g).latches = s.latches := rfl

@[simp] theorem State.setByte_pending (s : State) (k v) : (s.setByte k v).pending = s.pending := rfl
@[simp] theorem State.setByte_variant (s : State) (k v) : (s.setByte k v).variant = s.variant := rfl
@[simp] theorem State.setByte_time (s : State) (k v) : (s.setByte k v).time = s.time := rfl
@[simp] theorem State.setByte_tally (s : State) (k v) : (s.setByte k v).tally = s.tally := rfl
@[simp] theorem State.setByte_regs (s : State) (k v) : (s.setByte k v).regs = s.regs := rfl
@[simp] theorem State.setByte_ecc (s : State) (k v) : (s.setByte k v).ecc = s.ecc := rfl
@[simp] theorem State.setByte_tiles (s : State) (k v) : (s.setByte k v).tiles = s.tiles := rfl
@[simp] theorem State.setByte_hbmcs (s : State) (k v) : (s.setByte k v).hbmcs = s.hbmcs := rfl
@[simp] theorem State.setByte_bandNext (s : State) (k v) : (s.setByte k v).bandNext = s.bandNext := rfl
@[simp] theorem State.setByte_bandHeld (s : State) (k v) : (s.setByte k v).bandHeld = s.bandHeld := rfl
@[simp] theorem State.setByte_hbmReads (s : State) (k v) : (s.setByte k v).hbmReads = s.hbmReads := rfl
@[simp] theorem State.setByte_free (s : State) (k v) : (s.setByte k v).free = s.free := rfl
@[simp] theorem State.setByte_outbox (s : State) (k v) : (s.setByte k v).outbox = s.outbox := rfl
@[simp] theorem State.setByte_ring (s : State) (k v) : (s.setByte k v).ring = s.ring := rfl
@[simp] theorem State.setByte_ringArb (s : State) (k v) : (s.setByte k v).ringArb = s.ringArb := rfl
@[simp] theorem State.setByte_dieNet (s : State) (k v) : (s.setByte k v).dieNet = s.dieNet := rfl
@[simp] theorem State.setByte_hfOut (s : State) (k v) : (s.setByte k v).hfOut = s.hfOut := rfl
@[simp] theorem State.setByte_ports (s : State) (k v) : (s.setByte k v).ports = s.ports := rfl
@[simp] theorem State.setByte_rt (s : State) (k v) : (s.setByte k v).rt = s.rt := rfl
@[simp] theorem State.setByte_ras (s : State) (k v) : (s.setByte k v).ras = s.ras := rfl
@[simp] theorem State.setByte_act (s : State) (k v) : (s.setByte k v).act = s.act := rfl
@[simp] theorem State.setByte_shadows (s : State) (k v) : (s.setByte k v).shadows = s.shadows := rfl
@[simp] theorem State.setByte_colls (s : State) (k v) : (s.setByte k v).colls = s.colls := rfl
@[simp] theorem State.setByte_collMap (s : State) (k v) : (s.setByte k v).collMap = s.collMap := rfl
@[simp] theorem State.setByte_collPend (s : State) (k v) : (s.setByte k v).collPend = s.collPend := rfl
@[simp] theorem State.setByte_ic (s : State) (k v) : (s.setByte k v).ic = s.ic := rfl
@[simp] theorem State.setByte_adit (s : State) (k v) : (s.setByte k v).adit = s.adit := rfl
@[simp] theorem State.setByte_mbx (s : State) (k v) : (s.setByte k v).mbx = s.mbx := rfl
@[simp] theorem State.setByte_comps (s : State) (k v) : (s.setByte k v).comps = s.comps := rfl
@[simp] theorem State.setByte_talign (s : State) (k v) : (s.setByte k v).talign = s.talign := rfl
@[simp] theorem State.setByte_pwr (s : State) (k v) : (s.setByte k v).pwr = s.pwr := rfl
@[simp] theorem State.setByte_demand (s : State) (k v) : (s.setByte k v).demand = s.demand := rfl
@[simp] theorem State.setByte_dbg (s : State) (k v) : (s.setByte k v).dbg = s.dbg := rfl
@[simp] theorem State.setByte_rasLog (s : State) (k v) : (s.setByte k v).rasLog = s.rasLog := rfl
@[simp] theorem State.setByte_rasw (s : State) (k v) : (s.setByte k v).rasw = s.rasw := rfl
@[simp] theorem State.setByte_skip (s : State) (k v) : (s.setByte k v).skip = s.skip := rfl
@[simp] theorem State.setByte_crc (s : State) (k v) : (s.setByte k v).crc = s.crc := rfl
@[simp] theorem State.setByte_nhLast (s : State) (k v) : (s.setByte k v).nhLast = s.nhLast := rfl
@[simp] theorem State.setByte_nhWait (s : State) (k v) : (s.setByte k v).nhWait = s.nhWait := rfl
@[simp] theorem State.setByte_nhAt (s : State) (k v) : (s.setByte k v).nhAt = s.nhAt := rfl
@[simp] theorem State.setByte_snapArmed (s : State) (k v) : (s.setByte k v).snapArmed = s.snapArmed := rfl
@[simp] theorem State.setByte_snapCopied (s : State) (k v) : (s.setByte k v).snapCopied = s.snapCopied := rfl
@[simp] theorem State.setByte_uart (s : State) (k v) : (s.setByte k v).uart = s.uart := rfl
@[simp] theorem State.setByte_spare (s : State) (k v) : (s.setByte k v).spare = s.spare := rfl
@[simp] theorem State.setByte_flash (s : State) (k v) : (s.setByte k v).flash = s.flash := rfl
@[simp] theorem State.setByte_mono (s : State) (k v) : (s.setByte k v).mono = s.mono := rfl
@[simp] theorem State.setByte_records (s : State) (k v) : (s.setByte k v).records = s.records := rfl
@[simp] theorem State.setByte_boot (s : State) (k v) : (s.setByte k v).boot = s.boot := rfl
@[simp] theorem State.setByte_mod (s : State) (k v) : (s.setByte k v).mod = s.mod := rfl
@[simp] theorem State.setByte_quietFrom (s : State) (k v) : (s.setByte k v).quietFrom = s.quietFrom := rfl
@[simp] theorem State.setByte_warmAt (s : State) (k v) : (s.setByte k v).warmAt = s.warmAt := rfl
@[simp] theorem State.setByte_answers (s : State) (k v) : (s.setByte k v).answers = s.answers := rfl
@[simp] theorem State.setByte_latches (s : State) (k v) : (s.setByte k v).latches = s.latches := rfl

@[simp] theorem State.setMark_pending (s : State) (k v) : (s.setMark k v).pending = s.pending := rfl
@[simp] theorem State.setMark_variant (s : State) (k v) : (s.setMark k v).variant = s.variant := rfl
@[simp] theorem State.setMark_time (s : State) (k v) : (s.setMark k v).time = s.time := rfl
@[simp] theorem State.setMark_tally (s : State) (k v) : (s.setMark k v).tally = s.tally := rfl
@[simp] theorem State.setMark_regs (s : State) (k v) : (s.setMark k v).regs = s.regs := rfl
@[simp] theorem State.setMark_mem (s : State) (k v) : (s.setMark k v).mem = s.mem := rfl
@[simp] theorem State.setMark_tiles (s : State) (k v) : (s.setMark k v).tiles = s.tiles := rfl
@[simp] theorem State.setMark_hbmcs (s : State) (k v) : (s.setMark k v).hbmcs = s.hbmcs := rfl
@[simp] theorem State.setMark_bandNext (s : State) (k v) : (s.setMark k v).bandNext = s.bandNext := rfl
@[simp] theorem State.setMark_bandHeld (s : State) (k v) : (s.setMark k v).bandHeld = s.bandHeld := rfl
@[simp] theorem State.setMark_hbmReads (s : State) (k v) : (s.setMark k v).hbmReads = s.hbmReads := rfl
@[simp] theorem State.setMark_free (s : State) (k v) : (s.setMark k v).free = s.free := rfl
@[simp] theorem State.setMark_outbox (s : State) (k v) : (s.setMark k v).outbox = s.outbox := rfl
@[simp] theorem State.setMark_ring (s : State) (k v) : (s.setMark k v).ring = s.ring := rfl
@[simp] theorem State.setMark_ringArb (s : State) (k v) : (s.setMark k v).ringArb = s.ringArb := rfl
@[simp] theorem State.setMark_dieNet (s : State) (k v) : (s.setMark k v).dieNet = s.dieNet := rfl
@[simp] theorem State.setMark_hfOut (s : State) (k v) : (s.setMark k v).hfOut = s.hfOut := rfl
@[simp] theorem State.setMark_ports (s : State) (k v) : (s.setMark k v).ports = s.ports := rfl
@[simp] theorem State.setMark_rt (s : State) (k v) : (s.setMark k v).rt = s.rt := rfl
@[simp] theorem State.setMark_ras (s : State) (k v) : (s.setMark k v).ras = s.ras := rfl
@[simp] theorem State.setMark_act (s : State) (k v) : (s.setMark k v).act = s.act := rfl
@[simp] theorem State.setMark_shadows (s : State) (k v) : (s.setMark k v).shadows = s.shadows := rfl
@[simp] theorem State.setMark_colls (s : State) (k v) : (s.setMark k v).colls = s.colls := rfl
@[simp] theorem State.setMark_collMap (s : State) (k v) : (s.setMark k v).collMap = s.collMap := rfl
@[simp] theorem State.setMark_collPend (s : State) (k v) : (s.setMark k v).collPend = s.collPend := rfl
@[simp] theorem State.setMark_ic (s : State) (k v) : (s.setMark k v).ic = s.ic := rfl
@[simp] theorem State.setMark_adit (s : State) (k v) : (s.setMark k v).adit = s.adit := rfl
@[simp] theorem State.setMark_mbx (s : State) (k v) : (s.setMark k v).mbx = s.mbx := rfl
@[simp] theorem State.setMark_comps (s : State) (k v) : (s.setMark k v).comps = s.comps := rfl
@[simp] theorem State.setMark_talign (s : State) (k v) : (s.setMark k v).talign = s.talign := rfl
@[simp] theorem State.setMark_pwr (s : State) (k v) : (s.setMark k v).pwr = s.pwr := rfl
@[simp] theorem State.setMark_demand (s : State) (k v) : (s.setMark k v).demand = s.demand := rfl
@[simp] theorem State.setMark_dbg (s : State) (k v) : (s.setMark k v).dbg = s.dbg := rfl
@[simp] theorem State.setMark_rasLog (s : State) (k v) : (s.setMark k v).rasLog = s.rasLog := rfl
@[simp] theorem State.setMark_rasw (s : State) (k v) : (s.setMark k v).rasw = s.rasw := rfl
@[simp] theorem State.setMark_skip (s : State) (k v) : (s.setMark k v).skip = s.skip := rfl
@[simp] theorem State.setMark_crc (s : State) (k v) : (s.setMark k v).crc = s.crc := rfl
@[simp] theorem State.setMark_nhLast (s : State) (k v) : (s.setMark k v).nhLast = s.nhLast := rfl
@[simp] theorem State.setMark_nhWait (s : State) (k v) : (s.setMark k v).nhWait = s.nhWait := rfl
@[simp] theorem State.setMark_nhAt (s : State) (k v) : (s.setMark k v).nhAt = s.nhAt := rfl
@[simp] theorem State.setMark_snapArmed (s : State) (k v) : (s.setMark k v).snapArmed = s.snapArmed := rfl
@[simp] theorem State.setMark_snapCopied (s : State) (k v) : (s.setMark k v).snapCopied = s.snapCopied := rfl
@[simp] theorem State.setMark_uart (s : State) (k v) : (s.setMark k v).uart = s.uart := rfl
@[simp] theorem State.setMark_spare (s : State) (k v) : (s.setMark k v).spare = s.spare := rfl
@[simp] theorem State.setMark_flash (s : State) (k v) : (s.setMark k v).flash = s.flash := rfl
@[simp] theorem State.setMark_mono (s : State) (k v) : (s.setMark k v).mono = s.mono := rfl
@[simp] theorem State.setMark_records (s : State) (k v) : (s.setMark k v).records = s.records := rfl
@[simp] theorem State.setMark_boot (s : State) (k v) : (s.setMark k v).boot = s.boot := rfl
@[simp] theorem State.setMark_mod (s : State) (k v) : (s.setMark k v).mod = s.mod := rfl
@[simp] theorem State.setMark_quietFrom (s : State) (k v) : (s.setMark k v).quietFrom = s.quietFrom := rfl
@[simp] theorem State.setMark_warmAt (s : State) (k v) : (s.setMark k v).warmAt = s.warmAt := rfl
@[simp] theorem State.setMark_answers (s : State) (k v) : (s.setMark k v).answers = s.answers := rfl
@[simp] theorem State.setMark_latches (s : State) (k v) : (s.setMark k v).latches = s.latches := rfl

@[simp] theorem State.setComp_pending (s : State) (k c) : (s.setComp k c).pending = s.pending := rfl
@[simp] theorem State.setComp_variant (s : State) (k c) : (s.setComp k c).variant = s.variant := rfl
@[simp] theorem State.setComp_time (s : State) (k c) : (s.setComp k c).time = s.time := rfl
@[simp] theorem State.setComp_tally (s : State) (k c) : (s.setComp k c).tally = s.tally := rfl
@[simp] theorem State.setComp_regs (s : State) (k c) : (s.setComp k c).regs = s.regs := rfl
@[simp] theorem State.setComp_mem (s : State) (k c) : (s.setComp k c).mem = s.mem := rfl
@[simp] theorem State.setComp_ecc (s : State) (k c) : (s.setComp k c).ecc = s.ecc := rfl
@[simp] theorem State.setComp_tiles (s : State) (k c) : (s.setComp k c).tiles = s.tiles := rfl
@[simp] theorem State.setComp_hbmcs (s : State) (k c) : (s.setComp k c).hbmcs = s.hbmcs := rfl
@[simp] theorem State.setComp_bandNext (s : State) (k c) : (s.setComp k c).bandNext = s.bandNext := rfl
@[simp] theorem State.setComp_bandHeld (s : State) (k c) : (s.setComp k c).bandHeld = s.bandHeld := rfl
@[simp] theorem State.setComp_hbmReads (s : State) (k c) : (s.setComp k c).hbmReads = s.hbmReads := rfl
@[simp] theorem State.setComp_free (s : State) (k c) : (s.setComp k c).free = s.free := rfl
@[simp] theorem State.setComp_outbox (s : State) (k c) : (s.setComp k c).outbox = s.outbox := rfl
@[simp] theorem State.setComp_ring (s : State) (k c) : (s.setComp k c).ring = s.ring := rfl
@[simp] theorem State.setComp_ringArb (s : State) (k c) : (s.setComp k c).ringArb = s.ringArb := rfl
@[simp] theorem State.setComp_dieNet (s : State) (k c) : (s.setComp k c).dieNet = s.dieNet := rfl
@[simp] theorem State.setComp_hfOut (s : State) (k c) : (s.setComp k c).hfOut = s.hfOut := rfl
@[simp] theorem State.setComp_ports (s : State) (k c) : (s.setComp k c).ports = s.ports := rfl
@[simp] theorem State.setComp_rt (s : State) (k c) : (s.setComp k c).rt = s.rt := rfl
@[simp] theorem State.setComp_ras (s : State) (k c) : (s.setComp k c).ras = s.ras := rfl
@[simp] theorem State.setComp_act (s : State) (k c) : (s.setComp k c).act = s.act := rfl
@[simp] theorem State.setComp_shadows (s : State) (k c) : (s.setComp k c).shadows = s.shadows := rfl
@[simp] theorem State.setComp_colls (s : State) (k c) : (s.setComp k c).colls = s.colls := rfl
@[simp] theorem State.setComp_collMap (s : State) (k c) : (s.setComp k c).collMap = s.collMap := rfl
@[simp] theorem State.setComp_collPend (s : State) (k c) : (s.setComp k c).collPend = s.collPend := rfl
@[simp] theorem State.setComp_ic (s : State) (k c) : (s.setComp k c).ic = s.ic := rfl
@[simp] theorem State.setComp_adit (s : State) (k c) : (s.setComp k c).adit = s.adit := rfl
@[simp] theorem State.setComp_mbx (s : State) (k c) : (s.setComp k c).mbx = s.mbx := rfl
@[simp] theorem State.setComp_talign (s : State) (k c) : (s.setComp k c).talign = s.talign := rfl
@[simp] theorem State.setComp_pwr (s : State) (k c) : (s.setComp k c).pwr = s.pwr := rfl
@[simp] theorem State.setComp_demand (s : State) (k c) : (s.setComp k c).demand = s.demand := rfl
@[simp] theorem State.setComp_dbg (s : State) (k c) : (s.setComp k c).dbg = s.dbg := rfl
@[simp] theorem State.setComp_rasLog (s : State) (k c) : (s.setComp k c).rasLog = s.rasLog := rfl
@[simp] theorem State.setComp_rasw (s : State) (k c) : (s.setComp k c).rasw = s.rasw := rfl
@[simp] theorem State.setComp_skip (s : State) (k c) : (s.setComp k c).skip = s.skip := rfl
@[simp] theorem State.setComp_crc (s : State) (k c) : (s.setComp k c).crc = s.crc := rfl
@[simp] theorem State.setComp_nhLast (s : State) (k c) : (s.setComp k c).nhLast = s.nhLast := rfl
@[simp] theorem State.setComp_nhWait (s : State) (k c) : (s.setComp k c).nhWait = s.nhWait := rfl
@[simp] theorem State.setComp_nhAt (s : State) (k c) : (s.setComp k c).nhAt = s.nhAt := rfl
@[simp] theorem State.setComp_snapArmed (s : State) (k c) : (s.setComp k c).snapArmed = s.snapArmed := rfl
@[simp] theorem State.setComp_snapCopied (s : State) (k c) : (s.setComp k c).snapCopied = s.snapCopied := rfl
@[simp] theorem State.setComp_uart (s : State) (k c) : (s.setComp k c).uart = s.uart := rfl
@[simp] theorem State.setComp_spare (s : State) (k c) : (s.setComp k c).spare = s.spare := rfl
@[simp] theorem State.setComp_flash (s : State) (k c) : (s.setComp k c).flash = s.flash := rfl
@[simp] theorem State.setComp_mono (s : State) (k c) : (s.setComp k c).mono = s.mono := rfl
@[simp] theorem State.setComp_records (s : State) (k c) : (s.setComp k c).records = s.records := rfl
@[simp] theorem State.setComp_boot (s : State) (k c) : (s.setComp k c).boot = s.boot := rfl
@[simp] theorem State.setComp_mod (s : State) (k c) : (s.setComp k c).mod = s.mod := rfl
@[simp] theorem State.setComp_quietFrom (s : State) (k c) : (s.setComp k c).quietFrom = s.quietFrom := rfl
@[simp] theorem State.setComp_warmAt (s : State) (k c) : (s.setComp k c).warmAt = s.warmAt := rfl
@[simp] theorem State.setComp_answers (s : State) (k c) : (s.setComp k c).answers = s.answers := rfl
@[simp] theorem State.setComp_latches (s : State) (k c) : (s.setComp k c).latches = s.latches := rfl

@[simp] theorem State.onHbmc_pending (s : State) (c g) : (s.onHbmc c g).pending = s.pending := rfl
@[simp] theorem State.onHbmc_variant (s : State) (c g) : (s.onHbmc c g).variant = s.variant := rfl
@[simp] theorem State.onHbmc_time (s : State) (c g) : (s.onHbmc c g).time = s.time := rfl
@[simp] theorem State.onHbmc_tally (s : State) (c g) : (s.onHbmc c g).tally = s.tally := rfl
@[simp] theorem State.onHbmc_regs (s : State) (c g) : (s.onHbmc c g).regs = s.regs := rfl
@[simp] theorem State.onHbmc_mem (s : State) (c g) : (s.onHbmc c g).mem = s.mem := rfl
@[simp] theorem State.onHbmc_ecc (s : State) (c g) : (s.onHbmc c g).ecc = s.ecc := rfl
@[simp] theorem State.onHbmc_tiles (s : State) (c g) : (s.onHbmc c g).tiles = s.tiles := rfl
@[simp] theorem State.onHbmc_bandNext (s : State) (c g) : (s.onHbmc c g).bandNext = s.bandNext := rfl
@[simp] theorem State.onHbmc_bandHeld (s : State) (c g) : (s.onHbmc c g).bandHeld = s.bandHeld := rfl
@[simp] theorem State.onHbmc_hbmReads (s : State) (c g) : (s.onHbmc c g).hbmReads = s.hbmReads := rfl
@[simp] theorem State.onHbmc_free (s : State) (c g) : (s.onHbmc c g).free = s.free := rfl
@[simp] theorem State.onHbmc_outbox (s : State) (c g) : (s.onHbmc c g).outbox = s.outbox := rfl
@[simp] theorem State.onHbmc_ring (s : State) (c g) : (s.onHbmc c g).ring = s.ring := rfl
@[simp] theorem State.onHbmc_ringArb (s : State) (c g) : (s.onHbmc c g).ringArb = s.ringArb := rfl
@[simp] theorem State.onHbmc_dieNet (s : State) (c g) : (s.onHbmc c g).dieNet = s.dieNet := rfl
@[simp] theorem State.onHbmc_hfOut (s : State) (c g) : (s.onHbmc c g).hfOut = s.hfOut := rfl
@[simp] theorem State.onHbmc_ports (s : State) (c g) : (s.onHbmc c g).ports = s.ports := rfl
@[simp] theorem State.onHbmc_rt (s : State) (c g) : (s.onHbmc c g).rt = s.rt := rfl
@[simp] theorem State.onHbmc_ras (s : State) (c g) : (s.onHbmc c g).ras = s.ras := rfl
@[simp] theorem State.onHbmc_act (s : State) (c g) : (s.onHbmc c g).act = s.act := rfl
@[simp] theorem State.onHbmc_shadows (s : State) (c g) : (s.onHbmc c g).shadows = s.shadows := rfl
@[simp] theorem State.onHbmc_colls (s : State) (c g) : (s.onHbmc c g).colls = s.colls := rfl
@[simp] theorem State.onHbmc_collMap (s : State) (c g) : (s.onHbmc c g).collMap = s.collMap := rfl
@[simp] theorem State.onHbmc_collPend (s : State) (c g) : (s.onHbmc c g).collPend = s.collPend := rfl
@[simp] theorem State.onHbmc_ic (s : State) (c g) : (s.onHbmc c g).ic = s.ic := rfl
@[simp] theorem State.onHbmc_adit (s : State) (c g) : (s.onHbmc c g).adit = s.adit := rfl
@[simp] theorem State.onHbmc_mbx (s : State) (c g) : (s.onHbmc c g).mbx = s.mbx := rfl
@[simp] theorem State.onHbmc_comps (s : State) (c g) : (s.onHbmc c g).comps = s.comps := rfl
@[simp] theorem State.onHbmc_talign (s : State) (c g) : (s.onHbmc c g).talign = s.talign := rfl
@[simp] theorem State.onHbmc_pwr (s : State) (c g) : (s.onHbmc c g).pwr = s.pwr := rfl
@[simp] theorem State.onHbmc_demand (s : State) (c g) : (s.onHbmc c g).demand = s.demand := rfl
@[simp] theorem State.onHbmc_dbg (s : State) (c g) : (s.onHbmc c g).dbg = s.dbg := rfl
@[simp] theorem State.onHbmc_rasLog (s : State) (c g) : (s.onHbmc c g).rasLog = s.rasLog := rfl
@[simp] theorem State.onHbmc_rasw (s : State) (c g) : (s.onHbmc c g).rasw = s.rasw := rfl
@[simp] theorem State.onHbmc_skip (s : State) (c g) : (s.onHbmc c g).skip = s.skip := rfl
@[simp] theorem State.onHbmc_crc (s : State) (c g) : (s.onHbmc c g).crc = s.crc := rfl
@[simp] theorem State.onHbmc_nhLast (s : State) (c g) : (s.onHbmc c g).nhLast = s.nhLast := rfl
@[simp] theorem State.onHbmc_nhWait (s : State) (c g) : (s.onHbmc c g).nhWait = s.nhWait := rfl
@[simp] theorem State.onHbmc_nhAt (s : State) (c g) : (s.onHbmc c g).nhAt = s.nhAt := rfl
@[simp] theorem State.onHbmc_snapArmed (s : State) (c g) : (s.onHbmc c g).snapArmed = s.snapArmed := rfl
@[simp] theorem State.onHbmc_snapCopied (s : State) (c g) : (s.onHbmc c g).snapCopied = s.snapCopied := rfl
@[simp] theorem State.onHbmc_uart (s : State) (c g) : (s.onHbmc c g).uart = s.uart := rfl
@[simp] theorem State.onHbmc_spare (s : State) (c g) : (s.onHbmc c g).spare = s.spare := rfl
@[simp] theorem State.onHbmc_flash (s : State) (c g) : (s.onHbmc c g).flash = s.flash := rfl
@[simp] theorem State.onHbmc_mono (s : State) (c g) : (s.onHbmc c g).mono = s.mono := rfl
@[simp] theorem State.onHbmc_records (s : State) (c g) : (s.onHbmc c g).records = s.records := rfl
@[simp] theorem State.onHbmc_boot (s : State) (c g) : (s.onHbmc c g).boot = s.boot := rfl
@[simp] theorem State.onHbmc_mod (s : State) (c g) : (s.onHbmc c g).mod = s.mod := rfl
@[simp] theorem State.onHbmc_quietFrom (s : State) (c g) : (s.onHbmc c g).quietFrom = s.quietFrom := rfl
@[simp] theorem State.onHbmc_warmAt (s : State) (c g) : (s.onHbmc c g).warmAt = s.warmAt := rfl
@[simp] theorem State.onHbmc_answers (s : State) (c g) : (s.onHbmc c g).answers = s.answers := rfl
@[simp] theorem State.onHbmc_latches (s : State) (c g) : (s.onHbmc c g).latches = s.latches := rfl

@[simp] theorem State.answer_pending (s : State) (a v) : (s.answer a v).pending = s.pending := rfl
@[simp] theorem State.answer_variant (s : State) (a v) : (s.answer a v).variant = s.variant := rfl
@[simp] theorem State.answer_time (s : State) (a v) : (s.answer a v).time = s.time := rfl
@[simp] theorem State.answer_tally (s : State) (a v) : (s.answer a v).tally = s.tally := rfl
@[simp] theorem State.answer_regs (s : State) (a v) : (s.answer a v).regs = s.regs := rfl
@[simp] theorem State.answer_mem (s : State) (a v) : (s.answer a v).mem = s.mem := rfl
@[simp] theorem State.answer_ecc (s : State) (a v) : (s.answer a v).ecc = s.ecc := rfl
@[simp] theorem State.answer_tiles (s : State) (a v) : (s.answer a v).tiles = s.tiles := rfl
@[simp] theorem State.answer_hbmcs (s : State) (a v) : (s.answer a v).hbmcs = s.hbmcs := rfl
@[simp] theorem State.answer_bandNext (s : State) (a v) : (s.answer a v).bandNext = s.bandNext := rfl
@[simp] theorem State.answer_bandHeld (s : State) (a v) : (s.answer a v).bandHeld = s.bandHeld := rfl
@[simp] theorem State.answer_hbmReads (s : State) (a v) : (s.answer a v).hbmReads = s.hbmReads := rfl
@[simp] theorem State.answer_free (s : State) (a v) : (s.answer a v).free = s.free := rfl
@[simp] theorem State.answer_outbox (s : State) (a v) : (s.answer a v).outbox = s.outbox := rfl
@[simp] theorem State.answer_ring (s : State) (a v) : (s.answer a v).ring = s.ring := rfl
@[simp] theorem State.answer_ringArb (s : State) (a v) : (s.answer a v).ringArb = s.ringArb := rfl
@[simp] theorem State.answer_dieNet (s : State) (a v) : (s.answer a v).dieNet = s.dieNet := rfl
@[simp] theorem State.answer_hfOut (s : State) (a v) : (s.answer a v).hfOut = s.hfOut := rfl
@[simp] theorem State.answer_ports (s : State) (a v) : (s.answer a v).ports = s.ports := rfl
@[simp] theorem State.answer_rt (s : State) (a v) : (s.answer a v).rt = s.rt := rfl
@[simp] theorem State.answer_ras (s : State) (a v) : (s.answer a v).ras = s.ras := rfl
@[simp] theorem State.answer_act (s : State) (a v) : (s.answer a v).act = s.act := rfl
@[simp] theorem State.answer_shadows (s : State) (a v) : (s.answer a v).shadows = s.shadows := rfl
@[simp] theorem State.answer_colls (s : State) (a v) : (s.answer a v).colls = s.colls := rfl
@[simp] theorem State.answer_collMap (s : State) (a v) : (s.answer a v).collMap = s.collMap := rfl
@[simp] theorem State.answer_collPend (s : State) (a v) : (s.answer a v).collPend = s.collPend := rfl
@[simp] theorem State.answer_ic (s : State) (a v) : (s.answer a v).ic = s.ic := rfl
@[simp] theorem State.answer_adit (s : State) (a v) : (s.answer a v).adit = s.adit := rfl
@[simp] theorem State.answer_mbx (s : State) (a v) : (s.answer a v).mbx = s.mbx := rfl
@[simp] theorem State.answer_comps (s : State) (a v) : (s.answer a v).comps = s.comps := rfl
@[simp] theorem State.answer_talign (s : State) (a v) : (s.answer a v).talign = s.talign := rfl
@[simp] theorem State.answer_pwr (s : State) (a v) : (s.answer a v).pwr = s.pwr := rfl
@[simp] theorem State.answer_demand (s : State) (a v) : (s.answer a v).demand = s.demand := rfl
@[simp] theorem State.answer_dbg (s : State) (a v) : (s.answer a v).dbg = s.dbg := rfl
@[simp] theorem State.answer_rasLog (s : State) (a v) : (s.answer a v).rasLog = s.rasLog := rfl
@[simp] theorem State.answer_rasw (s : State) (a v) : (s.answer a v).rasw = s.rasw := rfl
@[simp] theorem State.answer_skip (s : State) (a v) : (s.answer a v).skip = s.skip := rfl
@[simp] theorem State.answer_crc (s : State) (a v) : (s.answer a v).crc = s.crc := rfl
@[simp] theorem State.answer_nhLast (s : State) (a v) : (s.answer a v).nhLast = s.nhLast := rfl
@[simp] theorem State.answer_nhWait (s : State) (a v) : (s.answer a v).nhWait = s.nhWait := rfl
@[simp] theorem State.answer_nhAt (s : State) (a v) : (s.answer a v).nhAt = s.nhAt := rfl
@[simp] theorem State.answer_snapArmed (s : State) (a v) : (s.answer a v).snapArmed = s.snapArmed := rfl
@[simp] theorem State.answer_snapCopied (s : State) (a v) : (s.answer a v).snapCopied = s.snapCopied := rfl
@[simp] theorem State.answer_uart (s : State) (a v) : (s.answer a v).uart = s.uart := rfl
@[simp] theorem State.answer_spare (s : State) (a v) : (s.answer a v).spare = s.spare := rfl
@[simp] theorem State.answer_flash (s : State) (a v) : (s.answer a v).flash = s.flash := rfl
@[simp] theorem State.answer_mono (s : State) (a v) : (s.answer a v).mono = s.mono := rfl
@[simp] theorem State.answer_records (s : State) (a v) : (s.answer a v).records = s.records := rfl
@[simp] theorem State.answer_boot (s : State) (a v) : (s.answer a v).boot = s.boot := rfl
@[simp] theorem State.answer_mod (s : State) (a v) : (s.answer a v).mod = s.mod := rfl
@[simp] theorem State.answer_quietFrom (s : State) (a v) : (s.answer a v).quietFrom = s.quietFrom := rfl
@[simp] theorem State.answer_warmAt (s : State) (a v) : (s.answer a v).warmAt = s.warmAt := rfl
@[simp] theorem State.answer_latches (s : State) (a v) : (s.answer a v).latches = s.latches := rfl

@[simp] theorem State.setBank_pending (s : State) (t b x) : (s.setBank t b x).pending = s.pending := rfl
@[simp] theorem State.setBank_variant (s : State) (t b x) : (s.setBank t b x).variant = s.variant := rfl
@[simp] theorem State.setBank_time (s : State) (t b x) : (s.setBank t b x).time = s.time := rfl
@[simp] theorem State.setBank_tally (s : State) (t b x) : (s.setBank t b x).tally = s.tally := rfl
@[simp] theorem State.setBank_regs (s : State) (t b x) : (s.setBank t b x).regs = s.regs := rfl
@[simp] theorem State.setBank_mem (s : State) (t b x) : (s.setBank t b x).mem = s.mem := rfl
@[simp] theorem State.setBank_ecc (s : State) (t b x) : (s.setBank t b x).ecc = s.ecc := rfl
@[simp] theorem State.setBank_hbmcs (s : State) (t b x) : (s.setBank t b x).hbmcs = s.hbmcs := rfl
@[simp] theorem State.setBank_bandNext (s : State) (t b x) : (s.setBank t b x).bandNext = s.bandNext := rfl
@[simp] theorem State.setBank_bandHeld (s : State) (t b x) : (s.setBank t b x).bandHeld = s.bandHeld := rfl
@[simp] theorem State.setBank_hbmReads (s : State) (t b x) : (s.setBank t b x).hbmReads = s.hbmReads := rfl
@[simp] theorem State.setBank_free (s : State) (t b x) : (s.setBank t b x).free = s.free := rfl
@[simp] theorem State.setBank_outbox (s : State) (t b x) : (s.setBank t b x).outbox = s.outbox := rfl
@[simp] theorem State.setBank_ring (s : State) (t b x) : (s.setBank t b x).ring = s.ring := rfl
@[simp] theorem State.setBank_ringArb (s : State) (t b x) : (s.setBank t b x).ringArb = s.ringArb := rfl
@[simp] theorem State.setBank_dieNet (s : State) (t b x) : (s.setBank t b x).dieNet = s.dieNet := rfl
@[simp] theorem State.setBank_hfOut (s : State) (t b x) : (s.setBank t b x).hfOut = s.hfOut := rfl
@[simp] theorem State.setBank_ports (s : State) (t b x) : (s.setBank t b x).ports = s.ports := rfl
@[simp] theorem State.setBank_rt (s : State) (t b x) : (s.setBank t b x).rt = s.rt := rfl
@[simp] theorem State.setBank_ras (s : State) (t b x) : (s.setBank t b x).ras = s.ras := rfl
@[simp] theorem State.setBank_act (s : State) (t b x) : (s.setBank t b x).act = s.act := rfl
@[simp] theorem State.setBank_shadows (s : State) (t b x) : (s.setBank t b x).shadows = s.shadows := rfl
@[simp] theorem State.setBank_colls (s : State) (t b x) : (s.setBank t b x).colls = s.colls := rfl
@[simp] theorem State.setBank_collMap (s : State) (t b x) : (s.setBank t b x).collMap = s.collMap := rfl
@[simp] theorem State.setBank_collPend (s : State) (t b x) : (s.setBank t b x).collPend = s.collPend := rfl
@[simp] theorem State.setBank_ic (s : State) (t b x) : (s.setBank t b x).ic = s.ic := rfl
@[simp] theorem State.setBank_adit (s : State) (t b x) : (s.setBank t b x).adit = s.adit := rfl
@[simp] theorem State.setBank_mbx (s : State) (t b x) : (s.setBank t b x).mbx = s.mbx := rfl
@[simp] theorem State.setBank_comps (s : State) (t b x) : (s.setBank t b x).comps = s.comps := rfl
@[simp] theorem State.setBank_talign (s : State) (t b x) : (s.setBank t b x).talign = s.talign := rfl
@[simp] theorem State.setBank_pwr (s : State) (t b x) : (s.setBank t b x).pwr = s.pwr := rfl
@[simp] theorem State.setBank_demand (s : State) (t b x) : (s.setBank t b x).demand = s.demand := rfl
@[simp] theorem State.setBank_dbg (s : State) (t b x) : (s.setBank t b x).dbg = s.dbg := rfl
@[simp] theorem State.setBank_rasLog (s : State) (t b x) : (s.setBank t b x).rasLog = s.rasLog := rfl
@[simp] theorem State.setBank_rasw (s : State) (t b x) : (s.setBank t b x).rasw = s.rasw := rfl
@[simp] theorem State.setBank_skip (s : State) (t b x) : (s.setBank t b x).skip = s.skip := rfl
@[simp] theorem State.setBank_crc (s : State) (t b x) : (s.setBank t b x).crc = s.crc := rfl
@[simp] theorem State.setBank_nhLast (s : State) (t b x) : (s.setBank t b x).nhLast = s.nhLast := rfl
@[simp] theorem State.setBank_nhWait (s : State) (t b x) : (s.setBank t b x).nhWait = s.nhWait := rfl
@[simp] theorem State.setBank_nhAt (s : State) (t b x) : (s.setBank t b x).nhAt = s.nhAt := rfl
@[simp] theorem State.setBank_snapArmed (s : State) (t b x) : (s.setBank t b x).snapArmed = s.snapArmed := rfl
@[simp] theorem State.setBank_snapCopied (s : State) (t b x) : (s.setBank t b x).snapCopied = s.snapCopied := rfl
@[simp] theorem State.setBank_uart (s : State) (t b x) : (s.setBank t b x).uart = s.uart := rfl
@[simp] theorem State.setBank_spare (s : State) (t b x) : (s.setBank t b x).spare = s.spare := rfl
@[simp] theorem State.setBank_flash (s : State) (t b x) : (s.setBank t b x).flash = s.flash := rfl
@[simp] theorem State.setBank_mono (s : State) (t b x) : (s.setBank t b x).mono = s.mono := rfl
@[simp] theorem State.setBank_records (s : State) (t b x) : (s.setBank t b x).records = s.records := rfl
@[simp] theorem State.setBank_boot (s : State) (t b x) : (s.setBank t b x).boot = s.boot := rfl
@[simp] theorem State.setBank_mod (s : State) (t b x) : (s.setBank t b x).mod = s.mod := rfl
@[simp] theorem State.setBank_quietFrom (s : State) (t b x) : (s.setBank t b x).quietFrom = s.quietFrom := rfl
@[simp] theorem State.setBank_warmAt (s : State) (t b x) : (s.setBank t b x).warmAt = s.warmAt := rfl
@[simp] theorem State.setBank_answers (s : State) (t b x) : (s.setBank t b x).answers = s.answers := rfl
@[simp] theorem State.setBank_latches (s : State) (t b x) : (s.setBank t b x).latches = s.latches := rfl

@[simp] theorem State.setPort_pending (s : State) (p x) : (s.setPort p x).pending = s.pending := rfl
@[simp] theorem State.setPort_variant (s : State) (p x) : (s.setPort p x).variant = s.variant := rfl
@[simp] theorem State.setPort_time (s : State) (p x) : (s.setPort p x).time = s.time := rfl
@[simp] theorem State.setPort_tally (s : State) (p x) : (s.setPort p x).tally = s.tally := rfl
@[simp] theorem State.setPort_regs (s : State) (p x) : (s.setPort p x).regs = s.regs := rfl
@[simp] theorem State.setPort_mem (s : State) (p x) : (s.setPort p x).mem = s.mem := rfl
@[simp] theorem State.setPort_ecc (s : State) (p x) : (s.setPort p x).ecc = s.ecc := rfl
@[simp] theorem State.setPort_tiles (s : State) (p x) : (s.setPort p x).tiles = s.tiles := rfl
@[simp] theorem State.setPort_hbmcs (s : State) (p x) : (s.setPort p x).hbmcs = s.hbmcs := rfl
@[simp] theorem State.setPort_bandNext (s : State) (p x) : (s.setPort p x).bandNext = s.bandNext := rfl
@[simp] theorem State.setPort_bandHeld (s : State) (p x) : (s.setPort p x).bandHeld = s.bandHeld := rfl
@[simp] theorem State.setPort_hbmReads (s : State) (p x) : (s.setPort p x).hbmReads = s.hbmReads := rfl
@[simp] theorem State.setPort_free (s : State) (p x) : (s.setPort p x).free = s.free := rfl
@[simp] theorem State.setPort_outbox (s : State) (p x) : (s.setPort p x).outbox = s.outbox := rfl
@[simp] theorem State.setPort_ring (s : State) (p x) : (s.setPort p x).ring = s.ring := rfl
@[simp] theorem State.setPort_ringArb (s : State) (p x) : (s.setPort p x).ringArb = s.ringArb := rfl
@[simp] theorem State.setPort_dieNet (s : State) (p x) : (s.setPort p x).dieNet = s.dieNet := rfl
@[simp] theorem State.setPort_hfOut (s : State) (p x) : (s.setPort p x).hfOut = s.hfOut := rfl
@[simp] theorem State.setPort_rt (s : State) (p x) : (s.setPort p x).rt = s.rt := rfl
@[simp] theorem State.setPort_ras (s : State) (p x) : (s.setPort p x).ras = s.ras := rfl
@[simp] theorem State.setPort_act (s : State) (p x) : (s.setPort p x).act = s.act := rfl
@[simp] theorem State.setPort_shadows (s : State) (p x) : (s.setPort p x).shadows = s.shadows := rfl
@[simp] theorem State.setPort_colls (s : State) (p x) : (s.setPort p x).colls = s.colls := rfl
@[simp] theorem State.setPort_collMap (s : State) (p x) : (s.setPort p x).collMap = s.collMap := rfl
@[simp] theorem State.setPort_collPend (s : State) (p x) : (s.setPort p x).collPend = s.collPend := rfl
@[simp] theorem State.setPort_ic (s : State) (p x) : (s.setPort p x).ic = s.ic := rfl
@[simp] theorem State.setPort_adit (s : State) (p x) : (s.setPort p x).adit = s.adit := rfl
@[simp] theorem State.setPort_mbx (s : State) (p x) : (s.setPort p x).mbx = s.mbx := rfl
@[simp] theorem State.setPort_comps (s : State) (p x) : (s.setPort p x).comps = s.comps := rfl
@[simp] theorem State.setPort_talign (s : State) (p x) : (s.setPort p x).talign = s.talign := rfl
@[simp] theorem State.setPort_pwr (s : State) (p x) : (s.setPort p x).pwr = s.pwr := rfl
@[simp] theorem State.setPort_demand (s : State) (p x) : (s.setPort p x).demand = s.demand := rfl
@[simp] theorem State.setPort_dbg (s : State) (p x) : (s.setPort p x).dbg = s.dbg := rfl
@[simp] theorem State.setPort_rasLog (s : State) (p x) : (s.setPort p x).rasLog = s.rasLog := rfl
@[simp] theorem State.setPort_rasw (s : State) (p x) : (s.setPort p x).rasw = s.rasw := rfl
@[simp] theorem State.setPort_skip (s : State) (p x) : (s.setPort p x).skip = s.skip := rfl
@[simp] theorem State.setPort_crc (s : State) (p x) : (s.setPort p x).crc = s.crc := rfl
@[simp] theorem State.setPort_nhLast (s : State) (p x) : (s.setPort p x).nhLast = s.nhLast := rfl
@[simp] theorem State.setPort_nhWait (s : State) (p x) : (s.setPort p x).nhWait = s.nhWait := rfl
@[simp] theorem State.setPort_nhAt (s : State) (p x) : (s.setPort p x).nhAt = s.nhAt := rfl
@[simp] theorem State.setPort_snapArmed (s : State) (p x) : (s.setPort p x).snapArmed = s.snapArmed := rfl
@[simp] theorem State.setPort_snapCopied (s : State) (p x) : (s.setPort p x).snapCopied = s.snapCopied := rfl
@[simp] theorem State.setPort_uart (s : State) (p x) : (s.setPort p x).uart = s.uart := rfl
@[simp] theorem State.setPort_spare (s : State) (p x) : (s.setPort p x).spare = s.spare := rfl
@[simp] theorem State.setPort_flash (s : State) (p x) : (s.setPort p x).flash = s.flash := rfl
@[simp] theorem State.setPort_mono (s : State) (p x) : (s.setPort p x).mono = s.mono := rfl
@[simp] theorem State.setPort_records (s : State) (p x) : (s.setPort p x).records = s.records := rfl
@[simp] theorem State.setPort_boot (s : State) (p x) : (s.setPort p x).boot = s.boot := rfl
@[simp] theorem State.setPort_mod (s : State) (p x) : (s.setPort p x).mod = s.mod := rfl
@[simp] theorem State.setPort_quietFrom (s : State) (p x) : (s.setPort p x).quietFrom = s.quietFrom := rfl
@[simp] theorem State.setPort_warmAt (s : State) (p x) : (s.setPort p x).warmAt = s.warmAt := rfl
@[simp] theorem State.setPort_answers (s : State) (p x) : (s.setPort p x).answers = s.answers := rfl
@[simp] theorem State.setPort_latches (s : State) (p x) : (s.setPort p x).latches = s.latches := rfl

@[simp] theorem State.onPort_pending (s : State) (p g) : (s.onPort p g).pending = s.pending := rfl
@[simp] theorem State.onPort_variant (s : State) (p g) : (s.onPort p g).variant = s.variant := rfl
@[simp] theorem State.onPort_time (s : State) (p g) : (s.onPort p g).time = s.time := rfl
@[simp] theorem State.onPort_tally (s : State) (p g) : (s.onPort p g).tally = s.tally := rfl
@[simp] theorem State.onPort_regs (s : State) (p g) : (s.onPort p g).regs = s.regs := rfl
@[simp] theorem State.onPort_mem (s : State) (p g) : (s.onPort p g).mem = s.mem := rfl
@[simp] theorem State.onPort_ecc (s : State) (p g) : (s.onPort p g).ecc = s.ecc := rfl
@[simp] theorem State.onPort_tiles (s : State) (p g) : (s.onPort p g).tiles = s.tiles := rfl
@[simp] theorem State.onPort_hbmcs (s : State) (p g) : (s.onPort p g).hbmcs = s.hbmcs := rfl
@[simp] theorem State.onPort_bandNext (s : State) (p g) : (s.onPort p g).bandNext = s.bandNext := rfl
@[simp] theorem State.onPort_bandHeld (s : State) (p g) : (s.onPort p g).bandHeld = s.bandHeld := rfl
@[simp] theorem State.onPort_hbmReads (s : State) (p g) : (s.onPort p g).hbmReads = s.hbmReads := rfl
@[simp] theorem State.onPort_free (s : State) (p g) : (s.onPort p g).free = s.free := rfl
@[simp] theorem State.onPort_outbox (s : State) (p g) : (s.onPort p g).outbox = s.outbox := rfl
@[simp] theorem State.onPort_ring (s : State) (p g) : (s.onPort p g).ring = s.ring := rfl
@[simp] theorem State.onPort_ringArb (s : State) (p g) : (s.onPort p g).ringArb = s.ringArb := rfl
@[simp] theorem State.onPort_dieNet (s : State) (p g) : (s.onPort p g).dieNet = s.dieNet := rfl
@[simp] theorem State.onPort_hfOut (s : State) (p g) : (s.onPort p g).hfOut = s.hfOut := rfl
@[simp] theorem State.onPort_rt (s : State) (p g) : (s.onPort p g).rt = s.rt := rfl
@[simp] theorem State.onPort_ras (s : State) (p g) : (s.onPort p g).ras = s.ras := rfl
@[simp] theorem State.onPort_act (s : State) (p g) : (s.onPort p g).act = s.act := rfl
@[simp] theorem State.onPort_shadows (s : State) (p g) : (s.onPort p g).shadows = s.shadows := rfl
@[simp] theorem State.onPort_colls (s : State) (p g) : (s.onPort p g).colls = s.colls := rfl
@[simp] theorem State.onPort_collMap (s : State) (p g) : (s.onPort p g).collMap = s.collMap := rfl
@[simp] theorem State.onPort_collPend (s : State) (p g) : (s.onPort p g).collPend = s.collPend := rfl
@[simp] theorem State.onPort_ic (s : State) (p g) : (s.onPort p g).ic = s.ic := rfl
@[simp] theorem State.onPort_adit (s : State) (p g) : (s.onPort p g).adit = s.adit := rfl
@[simp] theorem State.onPort_mbx (s : State) (p g) : (s.onPort p g).mbx = s.mbx := rfl
@[simp] theorem State.onPort_comps (s : State) (p g) : (s.onPort p g).comps = s.comps := rfl
@[simp] theorem State.onPort_talign (s : State) (p g) : (s.onPort p g).talign = s.talign := rfl
@[simp] theorem State.onPort_pwr (s : State) (p g) : (s.onPort p g).pwr = s.pwr := rfl
@[simp] theorem State.onPort_demand (s : State) (p g) : (s.onPort p g).demand = s.demand := rfl
@[simp] theorem State.onPort_dbg (s : State) (p g) : (s.onPort p g).dbg = s.dbg := rfl
@[simp] theorem State.onPort_rasLog (s : State) (p g) : (s.onPort p g).rasLog = s.rasLog := rfl
@[simp] theorem State.onPort_rasw (s : State) (p g) : (s.onPort p g).rasw = s.rasw := rfl
@[simp] theorem State.onPort_skip (s : State) (p g) : (s.onPort p g).skip = s.skip := rfl
@[simp] theorem State.onPort_crc (s : State) (p g) : (s.onPort p g).crc = s.crc := rfl
@[simp] theorem State.onPort_nhLast (s : State) (p g) : (s.onPort p g).nhLast = s.nhLast := rfl
@[simp] theorem State.onPort_nhWait (s : State) (p g) : (s.onPort p g).nhWait = s.nhWait := rfl
@[simp] theorem State.onPort_nhAt (s : State) (p g) : (s.onPort p g).nhAt = s.nhAt := rfl
@[simp] theorem State.onPort_snapArmed (s : State) (p g) : (s.onPort p g).snapArmed = s.snapArmed := rfl
@[simp] theorem State.onPort_snapCopied (s : State) (p g) : (s.onPort p g).snapCopied = s.snapCopied := rfl
@[simp] theorem State.onPort_uart (s : State) (p g) : (s.onPort p g).uart = s.uart := rfl
@[simp] theorem State.onPort_spare (s : State) (p g) : (s.onPort p g).spare = s.spare := rfl
@[simp] theorem State.onPort_flash (s : State) (p g) : (s.onPort p g).flash = s.flash := rfl
@[simp] theorem State.onPort_mono (s : State) (p g) : (s.onPort p g).mono = s.mono := rfl
@[simp] theorem State.onPort_records (s : State) (p g) : (s.onPort p g).records = s.records := rfl
@[simp] theorem State.onPort_boot (s : State) (p g) : (s.onPort p g).boot = s.boot := rfl
@[simp] theorem State.onPort_mod (s : State) (p g) : (s.onPort p g).mod = s.mod := rfl
@[simp] theorem State.onPort_quietFrom (s : State) (p g) : (s.onPort p g).quietFrom = s.quietFrom := rfl
@[simp] theorem State.onPort_warmAt (s : State) (p g) : (s.onPort p g).warmAt = s.warmAt := rfl
@[simp] theorem State.onPort_answers (s : State) (p g) : (s.onPort p g).answers = s.answers := rfl
@[simp] theorem State.onPort_latches (s : State) (p g) : (s.onPort p g).latches = s.latches := rfl

/-! ### Register fields -/

theorem Field.idx_injective {f g : Field} (h : f.idx = g.idx) : f = g := by
  have := congrArg Field.ofNat h
  simpa [Field.idx, Field.ofNat_ctorIdx] using this

theorem fkey_ne {f g : Field} (h : f ≠ g) (i j i' j' : Nat) : fkey f i j ≠ fkey g i' j' := by
  intro e
  apply h
  apply Field.idx_injective
  unfold fkey at e
  omega

theorem fkey_inst_ne {f : Field} {i i' : Nat} (h : i % 65536 ≠ i' % 65536) (j j' : Nat) : fkey f i j ≠ fkey f i' j' := by
  unfold fkey
  omega

theorem fkey_sub_ne {f : Field} {j j' : Nat} (h : j % 4096 ≠ j' % 4096) (i i' : Nat) : fkey f i j ≠ fkey f i' j' := by
  unfold fkey
  omega

/-- A field reads as last written, cut to its width. -/
@[simp] theorem State.rd_wr_same (s : State) (f : Field) (i j v : Nat) : (s.wr f i j v).rd f i j = v % 2 ^ f.info.width := by
  simp only [State.rd, State.wr, slook_sset_same]
  split <;> simp_all

/-- A write leaves every other field alone. -/
theorem State.rd_wr_ne (s : State) {f g : Field} (h : g ≠ f) (i j v i' j' : Nat) : (s.wr f i j v).rd g i' j' = s.rd g i' j' := by
  simp only [State.rd, State.wr, slook_sset_ne (fkey_ne h i' j' i j)]

/-- A write leaves other instances of its field alone. -/
theorem State.rd_wr_inst (s : State) {f : Field} {i i' : Nat} (h : i' % 65536 ≠ i % 65536) (j v j' : Nat) :
    (s.wr f i j v).rd f i' j' = s.rd f i' j' := by
  simp only [State.rd, State.wr, slook_sset_ne (fkey_inst_ne h j' j)]

/-- A write leaves other positions of its field's array alone. -/
theorem State.rd_wr_sub (s : State) {f : Field} {j j' : Nat} (h : j' % 4096 ≠ j % 4096) (i v i' : Nat) :
    (s.wr f i j v).rd f i' j' = s.rd f i' j' := by
  simp only [State.rd, State.wr, slook_sset_ne (fkey_sub_ne h i' i)]

/-- A counter that counts n. -/
@[simp] theorem State.rd_cnt_same (s : State) (f : Field) (i j n : Nat) : (s.cnt f i j n).rd f i j = (s.rd f i j + n) % 2 ^ f.info.width :=
  s.rd_wr_same f i j _

theorem State.rd_cnt_ne (s : State) {f g : Field} (h : g ≠ f) (i j n i' j' : Nat) : (s.cnt f i j n).rd g i' j' = s.rd g i' j' :=
  s.rd_wr_ne h i j _ i' j'

theorem State.rd_bump_ne (s : State) {f g : Field} (h : g ≠ f) (i' j' : Nat) : (s.bump f).rd g i' j' = s.rd g i' j' :=
  s.rd_wr_ne h 0 0 _ i' j'

/-- What a field reads depends on the registers and the variant alone. -/
theorem State.rd_congr {s t : State} (hr : s.regs = t.regs) (hv : s.variant = t.variant) (f : Field) (i j : Nat) : s.rd f i j = t.rd f i j := by
  simp only [State.rd, hr, hv]

/-! ### Tiles, memory and error marks -/

@[simp] theorem State.tile_setTile_same (s : State) (t : Nat) (x : Tile) : (s.setTile t x).tile t = x := sget_sput_same _ _ _ _

theorem State.tile_setTile_ne (s : State) {t u : Nat} (h : u ≠ t) (x : Tile) : (s.setTile t x).tile u = s.tile u := sget_sput_ne _ h _ _

@[simp] theorem State.tile_onTile_same (s : State) (t : Nat) (g : Tile → Tile) : (s.onTile t g).tile t = g (s.tile t) := s.tile_setTile_same t _

theorem State.tile_onTile_ne (s : State) {t u : Nat} (h : u ≠ t) (g : Tile → Tile) : (s.onTile t g).tile u = s.tile u := s.tile_setTile_ne h _

@[simp] theorem State.tile_wr (s : State) (f i j v t) : (s.wr f i j v).tile t = s.tile t := rfl
@[simp] theorem State.tile_cnt (s : State) (f i j n t) : (s.cnt f i j n).tile t = s.tile t := rfl
@[simp] theorem State.tile_bump (s : State) (f t) : (s.bump f).tile t = s.tile t := rfl
@[simp] theorem State.rd_setTile (s : State) (t x f i j) : (s.setTile t x).rd f i j = s.rd f i j := rfl
@[simp] theorem State.rd_onTile (s : State) (t g f i j) : (s.onTile t g).rd f i j = s.rd f i j := rfl
@[simp] theorem State.rd_setByte (s : State) (k v f i j) : (s.setByte k v).rd f i j = s.rd f i j := rfl
@[simp] theorem State.rd_setMark (s : State) (k v f i j) : (s.setMark k v).rd f i j = s.rd f i j := rfl
@[simp] theorem State.rd_setPort (s : State) (p x f i j) : (s.setPort p x).rd f i j = s.rd f i j := rfl
@[simp] theorem State.rd_onPort (s : State) (p g f i j) : (s.onPort p g).rd f i j = s.rd f i j := rfl
@[simp] theorem State.rd_setComp (s : State) (k c f i j) : (s.setComp k c).rd f i j = s.rd f i j := rfl
@[simp] theorem State.rd_onHbmc (s : State) (c g f i j) : (s.onHbmc c g).rd f i j = s.rd f i j := rfl
@[simp] theorem State.rd_answer (s : State) (a v f i j) : (s.answer a v).rd f i j = s.rd f i j := rfl

/-- A byte reads as last written. -/
@[simp] theorem State.byte_setByte_same (s : State) (k : Nat) (v : Byte) : (s.setByte k v).byte k = v := sget_sput_same _ _ _ _

/-- A write leaves every other byte alone. -/
theorem State.byte_setByte_ne (s : State) {k j : Nat} (h : j ≠ k) (v : Byte) : (s.setByte k v).byte j = s.byte j := sget_sput_ne _ h _ _

@[simp] theorem State.byte_wr (s : State) (f i j v k) : (s.wr f i j v).byte k = s.byte k := rfl
@[simp] theorem State.byte_cnt (s : State) (f i j n k) : (s.cnt f i j n).byte k = s.byte k := rfl
@[simp] theorem State.byte_bump (s : State) (f k) : (s.bump f).byte k = s.byte k := rfl
@[simp] theorem State.byte_onTile (s : State) (t g k) : (s.onTile t g).byte k = s.byte k := rfl
@[simp] theorem State.byte_setMark (s : State) (j v k) : (s.setMark j v).byte k = s.byte k := rfl

@[simp] theorem State.mark_setMark_same (s : State) (k v : Nat) : (s.setMark k v).mark k = v := sget_sput_same _ _ _ _

theorem State.mark_setMark_ne (s : State) {k j : Nat} (h : j ≠ k) (v : Nat) : (s.setMark k v).mark j = s.mark j := sget_sput_ne _ h _ _

@[simp] theorem State.comp_setComp_same (s : State) (k : Nat) (c : Comp) : (s.setComp k c).comp k = c := sget_sput_same _ _ _ _

theorem State.comp_setComp_ne (s : State) {k j : Nat} (h : j ≠ k) (c : Comp) : (s.setComp k c).comp j = s.comp j := sget_sput_ne _ h _ _

@[simp] theorem State.port_setPort_same (s : State) (p : Nat) (x : Port) : (s.setPort p x).port p = x := sget_sput_same _ _ _ _

theorem State.port_setPort_ne (s : State) {p q : Nat} (h : q ≠ p) (x : Port) : (s.setPort p x).port q = s.port q := sget_sput_ne _ h _ _

/-- Bytes written at ascending keys: inside, the list's; outside, unchanged. -/
theorem State.byte_setBytes (s : State) (k : Nat) (l : List Byte) (j : Nat) :
    (s.setBytes k l).byte j = if k ≤ j then (l[j - k]?).getD (s.byte j) else s.byte j := by
  induction l generalizing s k with
  | nil => simp [State.setBytes]
  | cons v l ih =>
    simp only [State.setBytes, ih]
    by_cases h : j = k
    · subst h
      simp only [Nat.le_refl, if_true, Nat.sub_self, List.getElem?_cons_zero, Option.getD_some]
      rw [if_neg (by omega), State.byte_setByte_same]
    · rw [State.byte_setByte_ne s h]
      by_cases h2 : k ≤ j
      · have e : j - k = (j - (k + 1)) + 1 := by omega
        simp [h2, (by omega : k + 1 ≤ j), e]
      · rw [if_neg (by omega), if_neg h2]

/-- Bytes written do not change the registers. -/
@[simp] theorem State.regs_setBytes (s : State) (k : Nat) (l : List Byte) : (s.setBytes k l).regs = s.regs := by
  induction l generalizing s k with
  | nil => rfl
  | cons v l ih => exact ih _ _

/-- The soundness of the state after reset. -/
theorem State.reset_sound : State.reset.Sound := ⟨rfl, rfl, rfl, by decide⟩

end Sys2Proof.Machine
end

