-- ==== Sys2Proof/Laws/Core.lean ====
section
/-! SUPPORT. The tile core: what fetching a word and retiring an instruction do, each said once. -/
namespace Sys2Proof.Machine

/-- A read within one good word answers the bytes and changes nothing. -/
theorem State.spdRead_good (s : State) {t : Nat} {b : BankId} {off n : Nat} (source : Nat) (hb : b ≠ .sb) (hn : 0 < n)
    (hw : off % 8 + n ≤ 8) (hm : s.mark (spdAddr t b (off / 8 * 8)) = 0) :
    s.spdRead t b source off n = (s, s.bytes (spdAddr t b off) n, false) := by
  have e : (off + n - 1) / 8 + 1 - off / 8 = 1 := by omega
  have hp : wordParts off n = [(max off (8 * (off / 8)), min (off + n) (8 * (off / 8 + 1)) - max off (8 * (off / 8)))] := by
    unfold wordParts
    rw [if_neg (by omega), e]
    rfl
  have hr : s.spdWordsRead t b source off n = (s, false) := by
    have ho : max off (8 * (off / 8)) = off := by omega
    unfold State.spdWordsRead
    rw [hp, ho]
    simp [State.shadowed, hb, State.spdWordRead, Nat.mul_comm 8 (off / 8), hm]
  have hs : ∀ i, s.spdByte t b i none = s.byte (spdAddr t b i) := by
    intro i
    simp [State.spdByte, State.shadowByte, hb]
  simp only [State.spdRead, hr, hs, State.bytes, spdAddr, Nat.add_assoc]

/-- A core instruction whose word is fetched runs on the state after the fetch. -/
theorem State.Fetches.coreRow {s : State} {t : Nat} {op : CoreOp} {c : CoreWord} (h : s.Fetches t op c)
    (run : State → CoreWord → State) : s.coreRow t op run = run (s.fetched t) c := by
  have hg := State.spdRead_good s (t := t) (b := .cb) (off := (s.tile t).core.pc) (n := 4) 0 (by decide) (by decide)
    (by have := h.aligned; omega) h.good
  have hi : ¬ (s.tile t).core.pc + 4 > bankSize .cb := by have := h.inCb; omega
  unfold State.coreRow
  simp only [h.ready, Bool.not_true, Bool.false_eq_true, if_false, hi, h.clear, hg, h.word, h.op, if_true]
  rfl

/-! ### Frames -/

theorem State.FieldsBut.refl (s : State) (l) : s.FieldsBut s l := fun _ _ _ _ => rfl

theorem State.FieldsBut.wr {s s' : State} {l} (h : s.FieldsBut s' l) {f i j} (hm : (f, i % 65536, j % 4096) ∈ l) (v : Nat) :
    s.FieldsBut (s'.wr f i j v) l := by
  intro g i' j' hg
  rw [← h g i' j' hg]
  by_cases e : g = f
  · subst e
    by_cases e1 : i' % 65536 = i % 65536
    · by_cases e2 : j' % 4096 = j % 4096
      · exact absurd (e1 ▸ e2 ▸ hm) hg
      · exact s'.rd_wr_sub e2 i v i'
    · exact s'.rd_wr_inst e1 j v j'
  · exact s'.rd_wr_ne e i j v i' j'

theorem State.FieldsBut.cnt {s s' : State} {l} (h : s.FieldsBut s' l) {f i j} (hm : (f, i % 65536, j % 4096) ∈ l) (n : Nat) :
    s.FieldsBut (s'.cnt f i j n) l := h.wr hm _

theorem State.FieldsBut.congr {s s' s'' : State} {l} (h : s.FieldsBut s' l) (hr : s''.regs = s'.regs) (hv : s''.variant = s'.variant) :
    s.FieldsBut s'' l := fun f i j hm => (s''.rd_congr hr hv f i j).trans (h f i j hm)

theorem State.FieldsBut.mono {s s' : State} {l l'} (h : s.FieldsBut s' l) (hl : ∀ x ∈ l, x ∈ l') : s.FieldsBut s' l' :=
  fun f i j hm => h f i j (fun hx => hm (hl _ hx))

@[simp] theorem State.activity_regs (s : State) (u c n) : (s.activity u c n).regs = s.regs := by unfold State.activity; split <;> rfl
@[simp] theorem State.activity_variant (s : State) (u c n) : (s.activity u c n).variant = s.variant := by unfold State.activity; split <;> rfl
@[simp] theorem State.activity_tiles (s : State) (u c n) : (s.activity u c n).tiles = s.tiles := by unfold State.activity; split <;> rfl
@[simp] theorem State.rd_activity (s : State) (u c n f i j) : (s.activity u c n).rd f i j = s.rd f i j := 
  State.rd_congr (State.activity_regs _ _ _ _) (State.activity_variant _ _ _ _) f i j
@[simp] theorem State.tile_activity (s : State) (u c n t) : (s.activity u c n).tile t = s.tile t := by simp [State.tile]

/-! ### Parts -/

theorem State.Only.refl (s : State) (l) : s.Only s l := fun p _ => by cases p <;> rfl

theorem State.same_trans {a b c : State} {p : Part} (h1 : a.same b p) (h2 : b.same c p) : a.same c p := by
  cases p <;> exact Eq.trans h2 h1

theorem State.Only.trans {a b c : State} {l} (h1 : a.Only b l) (h2 : b.Only c l) : a.Only c l :=
  fun p hp => State.same_trans (h1 p hp) (h2 p hp)

theorem State.Only.mono {a b : State} {l l'} (h : a.Only b l) (hl : ∀ p ∈ l, p ∈ l') : a.Only b l' :=
  fun p hp => h p (fun hx => hp (hl p hx))

theorem State.only_wr (s : State) (f i j v) : s.Only (s.wr f i j v) [.regs] := by
  intro p hp; cases p <;> first | rfl | simp at hp
theorem State.only_cnt (s : State) (f i j n) : s.Only (s.cnt f i j n) [.regs] := s.only_wr _ _ _ _
theorem State.only_bump (s : State) (f) : s.Only (s.bump f) [.regs] := s.only_wr _ _ _ _
theorem State.only_onTile (s : State) (t g) : s.Only (s.onTile t g) [.tiles] := by
  intro p hp; cases p <;> first | rfl | simp at hp
theorem State.only_activity (s : State) (u c n) : s.Only (s.activity u c n) [.act] := by
  unfold State.activity
  split
  · exact .refl _ _
  · intro p hp; cases p <;> first | rfl | simp at hp
theorem State.only_fetched (s : State) (t : Nat) : s.Only (s.fetched t) [.regs, .tiles, .act] :=
  ((s.only_onTile t _).mono (l' := [.regs, .tiles, .act]) (by simp)).trans (((State.only_cnt _ _ _ _ _).mono (by simp)).trans
    ((State.only_activity _ t 6 1).mono (by simp)))
theorem State.only_retire (s : State) (t rd v pc : Nat) : s.Only ((s.xw t rd v).retireTo t pc) [.regs, .tiles, .act] :=
  ((State.only_onTile s t _).mono (by simp)).trans (((State.only_onTile _ t _).mono (by simp)).trans
    (((State.only_cnt _ _ _ _ _).mono (by simp)).trans ((State.only_activity _ _ _ _).mono (by simp))))

/-! ### Retirement -/

theorem Core.get_set_same (c : Core) (i v : Nat) : (c.set i v).get i = if i = 0 then 0 else v % 2 ^ 64 := by
  by_cases h : i = 0
  · simp [Core.get, h]
  · simp [Core.get, Core.set, h, sget_sput_same]

theorem Core.get_set_ne (c : Core) {i j : Nat} (h : j ≠ i) (v : Nat) : (c.set i v).get j = c.get j := by
  by_cases h0 : i = 0
  · simp [Core.set, h0]
  · simp [Core.get, Core.set, h0, sget_sput_ne 0 h]

/-- What retiring an instruction does, from a state m that has changed no tile but for t's held note, and of the fields only those listed. -/
theorem State.retired_of {z m : State} {t : TileId} {rd v pc : Nat} {l : List (Field × Nat × Nat)} (hready : (z.tile t).core.wait = .running)
    (ht : z.TilesBut m t) (hc : m.tile t = { z.tile t with held := (m.tile t).held })
    (hi : m.rd .tileInstr t = z.rd .tileInstr t) (hf : z.FieldsBut m ([(.tileInstr, t.val, 0), (.spdAccMaster, t.val, 3)] ++ l)) :
    z.Retired ((m.xw t rd v).retireTo t pc) t rd (pc % 2 ^ 32) l := by
  have hcore : (((m.xw t rd v).retireTo t pc).tile t).core = { (m.tile t).core.set rd v with pc := pc % 2 ^ 32, wait := .running } := by
    simp [State.retireTo, State.xw, State.onCore]
  have hmc : (m.tile t).core = (z.tile t).core := by rw [hc]
  refine ⟨?_, ?_, ?_, ?_, ?_, ?_⟩
  · rw [hcore, hmc]
    by_cases h0 : rd = 0
    · exact ⟨(z.tile t).core.x, by simp [Core.set, h0, hready]⟩
    · exact ⟨_, by simp [Core.set, h0, hready]; rfl⟩
  · intro i hne
    show Core.get _ _ = Core.get _ _
    rw [hcore]
    exact (Core.get_set_ne _ hne v).trans (by rw [hmc])
  · simp only [State.retireTo, State.xw, State.onCore, tile_activity, tile_cnt, tile_onTile_same]
    rw [hc]
  · intro u hu
    simp only [State.retireTo, State.xw, State.onCore, tile_activity, tile_cnt]
    rw [State.tile_onTile_ne _ hu, State.tile_onTile_ne _ hu]
    exact ht u hu
  · simp only [State.retireTo, State.xw, State.onCore, rd_activity, rd_cnt_same, rd_onTile]
    rw [hi]
    rfl
  · refine State.FieldsBut.congr (s' := (m.cnt .tileInstr t 0 1)) (hf.cnt ?_ 1) ?_ ?_
    · have : t.val % 65536 = t.val := by omega
      simp [this]
    · rw [State.retireTo, State.activity_regs]; rfl
    · simp [State.retireTo, State.xw, State.onCore]

theorem State.fetched_fields (s : State) (t : TileId) (l) : s.FieldsBut (s.fetched t) ([(.tileInstr, t.val, 0), (.spdAccMaster, t.val, 3)] ++ l) := by
  have h : t.val % 65536 = t.val := by omega
  refine State.FieldsBut.congr (s' := (s.unhold t 0).cnt .spdAccMaster t 3 1)
    (State.FieldsBut.cnt (State.FieldsBut.congr (State.FieldsBut.refl s _) rfl rfl) (by simp [h]) 1) ?_ ?_
  · simp [State.fetched, State.bankCount, bankIdx]
  · simp [State.fetched, State.bankCount]

theorem State.fetched_tile (s : State) (t : Nat) : (s.fetched t).tile t = { s.tile t with held := ((s.fetched t).tile t).held } := by
  simp [State.fetched, State.bankCount, State.unhold]

theorem State.fetched_tiles (s : State) (t : Nat) : s.TilesBut (s.fetched t) t := by
  intro u hu
  simp [State.fetched, State.bankCount, State.unhold, State.tile_onTile_ne _ hu]

theorem State.fetched_instr (s : State) (t : Nat) : (s.fetched t).rd .tileInstr t = s.rd .tileInstr t :=
  ((s.unhold t 0).cnt .spdAccMaster t 3 1).rd_activity t 6 1 .tileInstr t 0 |>.trans
    ((s.unhold t 0).rd_cnt_ne (by decide) t 3 1 t 0)

theorem State.fetched_core (s : State) (t : Nat) : ((s.fetched t).tile t).core = (s.tile t).core := by rw [s.fetched_tile t]

theorem State.fetched_xr (s : State) (t i : Nat) : (s.fetched t).xr t i = s.xr t i := congrArg (Core.get · i) (s.fetched_core t)

/-- A plain instruction: it writes x[rd] and retires. -/
theorem State.retired_fetched (z : State) {t : TileId} (hready : (z.tile t).core.wait = .running) (rd v pc : Nat) (l) :
    z.Retired (((z.fetched t).xw t rd v).retireTo t pc) t rd (pc % 2 ^ 32) l :=
  State.retired_of hready (z.fetched_tiles t) (z.fetched_tile t) (z.fetched_instr t) (z.fetched_fields t l)

theorem State.Fetches.running {s : State} {t : Nat} {op c} (h : s.Fetches t op c) : (s.tile t).core.wait = .running := by
  have := h.ready
  simp [Tile.coreReady] at this
  exact this.2

theorem State.xr_retireTo (m : State) (t rd v pc i : Nat) : ((m.xw t rd v).retireTo t pc).xr t i = ((m.tile t).core.set rd v).get i := by
  have h : (((m.xw t rd v).retireTo t pc).tile t).core = { (m.tile t).core.set rd v with pc := pc % 2 ^ 32, wait := .running } := by
    simp [State.retireTo, State.xw, State.onCore]
  rw [State.xr, h]
  rfl

end Sys2Proof.Machine
end

