-- ==== Sys2Proof/Laws/Keeps.lean ====
section
/-! SUPPORT. What no command does. `Keeps z s`: going from z to s left the queue, the variant and the module time alone, kept a sound
state sound, and lowered no monotonic counter. One lemma for each operation says that it keeps it; Laws/Keeps*.lean hold them. -/
namespace Sys2Proof.Machine

/-- From z to s nothing has happened to the queue, the variant and module time; soundness is kept; no monotonic counter is lower. -/
structure Keeps (z s : State) : Prop where
  pending : s.pending = z.pending
  variant : s.variant = z.variant
  time : s.time = z.time
  sound : z.Sound → s.Sound
  mono : ∀ i, z.counter i ≤ s.counter i

theorem Keeps.refl (s : State) : Keeps s s := ⟨rfl, rfl, rfl, id, fun _ => Nat.le_refl _⟩

/-- A state that differs from s only in fields that `Keeps` does not speak of. -/
theorem Keeps.same {z s t : State} (h : Keeps z s) (h1 : t.pending = s.pending) (h2 : t.variant = s.variant) (h3 : t.time = s.time)
    (h4 : t.mem = s.mem) (h5 : t.flash = s.flash) (h6 : t.regs = s.regs) (h7 : t.tally = s.tally) (h8 : t.mono = s.mono) : Keeps z t := by
  refine ⟨h1.trans h.pending, h2.trans h.variant, h3.trans h.time, fun hz => ?_, fun i => ?_⟩
  · have := h.sound hz
    exact ⟨h4 ▸ this.mem, h5 ▸ this.flash, h6 ▸ this.regs, h7 ▸ this.tally⟩
  · have := h.mono i
    simpa [State.counter, h8] using this

/-- The same for a state written as a record update of s: a rewrite, so that it meets such states only. -/
theorem Keeps.mk_iff {z s : State}
    {x6 x7 x8 x9 x10 x11 x12 x13 x14 x15 x16 x17 x18 x19 x20 x21 x22 x23 x24 x25 x26 x27 x28 x29 x30 x31 x32 x33 x34 x35 x36 x37
    x38 x39 x40 x41 x42 x43 x44 x47 x48 x49 x50 x51 x52 x53} :
    Keeps z (State.mk
      s.pending s.variant s.time s.tally s.regs s.mem x6 x7 x8 x9 x10 x11 x12 x13 x14 x15 x16 x17 x18 x19 x20 x21 x22 x23 x24 x25
      x26 x27 x28 x29 x30 x31 x32 x33 x34 x35 x36 x37 x38 x39 x40 x41 x42 x43 x44 s.flash s.mono x47 x48 x49 x50 x51 x52 x53) ↔ Keeps z s :=
  ⟨fun h => h.same rfl rfl rfl rfl rfl rfl rfl rfl, fun h => h.same rfl rfl rfl rfl rfl rfl rfl rfl⟩

/-- A record update that also sets memory, registers or the tally. -/
theorem Keeps.mk_all {z s : State} (h : Keeps z s) {t : Nat} {r : List (Nat × Nat)} {m : List Host.Cell}
    (hm : Memory.wf s.mem = true → Memory.wf m = true) (hr : ssorted s.regs = true → ssorted r = true)
    (ht : s.tally < 2 ^ 64 → t < 2 ^ 64)
    {x6 x7 x8 x9 x10 x11 x12 x13 x14 x15 x16 x17 x18 x19 x20 x21 x22 x23 x24 x25 x26 x27 x28 x29 x30 x31 x32 x33 x34 x35 x36 x37
    x38 x39 x40 x41 x42 x43 x44 x47 x48 x49 x50 x51 x52 x53} :
    Keeps z (State.mk
      s.pending s.variant s.time t r m x6 x7 x8 x9 x10 x11 x12 x13 x14 x15 x16 x17 x18 x19 x20 x21 x22 x23 x24 x25 x26 x27 x28 x29
      x30 x31 x32 x33 x34 x35 x36 x37 x38 x39 x40 x41 x42 x43 x44 s.flash s.mono x47 x48 x49 x50 x51 x52 x53) :=
  ⟨h.pending, h.variant, h.time, fun hz => let g := h.sound hz; ⟨hm g.mem, g.flash, hr g.regs, ht g.tally⟩, h.mono⟩

/-- A state that also has other memory, registers or tally. -/
theorem Keeps.upd {z s t : State} (h : Keeps z s) (h1 : t.pending = s.pending) (h2 : t.variant = s.variant) (h3 : t.time = s.time)
    (h4 : Memory.wf s.mem = true → Memory.wf t.mem = true) (h5 : t.flash = s.flash) (h6 : ssorted s.regs = true → ssorted t.regs = true)
    (h7 : s.tally < 2 ^ 64 → t.tally < 2 ^ 64) (h8 : t.mono = s.mono) : Keeps z t := by
  refine ⟨h1.trans h.pending, h2.trans h.variant, h3.trans h.time, fun hz => ?_, fun i => ?_⟩
  · have := h.sound hz
    exact ⟨h4 this.mem, h5 ▸ this.flash, h6 this.regs, h7 this.tally⟩
  · have := h.mono i
    simpa [State.counter, h8] using this

/-- Both branches of a condition. -/
theorem Keeps.ite {z a b : State} {c : Prop} [Decidable c] (ha : Keeps z a) (hb : Keeps z b) : Keeps z (if c then a else b) := by
  split <;> assumption

theorem Keeps.ite_fst {z : State} {β : Type} {a b : State × β} {c : Prop} [Decidable c] (ha : Keeps z a.1) (hb : Keeps z b.1) :
    Keeps z (if c then a else b).1 := by
  split <;> assumption

/-! ### Folds -/

theorem Keeps.foldl {z s : State} {α : Type} {f : State → α → State} (h : Keeps z s) (hf : ∀ s a, Keeps z s → Keeps z (f s a)) (l : List α) :
    Keeps z (l.foldl f s) := by
  induction l generalizing s with
  | nil => exact h
  | cons a l ih => exact ih (hf s a h)

theorem Keeps.foldl_fst {z : State} {α β : Type} {f : State × β → α → State × β} {p : State × β} (h : Keeps z p.1)
    (hf : ∀ p a, Keeps z p.1 → Keeps z (f p a).1) (l : List α) : Keeps z (l.foldl f p).1 := by
  induction l generalizing p with
  | nil => exact h
  | cons a l ih => exact ih (hf p a h)

theorem Keeps.foldl_snd {z : State} {α β : Type} {f : β × State → α → β × State} {p : β × State} (h : Keeps z p.2)
    (hf : ∀ p a, Keeps z p.2 → Keeps z (f p a).2) (l : List α) : Keeps z (l.foldl f p).2 := by
  induction l generalizing p with
  | nil => exact h
  | cons a l ih => exact ih (hf p a h)

theorem Keeps.foldl_move {z : State} {α : Type} {f : Move → α → Move} {m : Move} (h : Keeps z m.s)
    (hf : ∀ m a, Keeps z m.s → Keeps z (f m a).s) (l : List α) : Keeps z (l.foldl f m).s := by
  induction l generalizing m with
  | nil => exact h
  | cons a l ih => exact ih (hf m a h)

theorem Keeps.foldl_move_fst {z : State} {α β : Type} {f : Move × β → α → Move × β} {p : Move × β} (h : Keeps z p.1.s)
    (hf : ∀ p a, Keeps z p.1.s → Keeps z (f p a).1.s) (l : List α) : Keeps z (l.foldl f p).1.s := by
  induction l generalizing p with
  | nil => exact h
  | cons a l ih => exact ih (hf p a h)

/-! ### The fields that soundness speaks of -/

theorem Keeps.setMem {z s : State} (h : Keeps z s) {m : List Host.Cell} (hm : Memory.wf s.mem = true → Memory.wf m = true) :
    Keeps z { s with mem := m } :=
  ⟨h.pending, h.variant, h.time, fun hz => let g := h.sound hz; ⟨hm g.mem, g.flash, g.regs, g.tally⟩, h.mono⟩

theorem Keeps.setRegs {z s : State} (h : Keeps z s) {r : List (Nat × Nat)} (hr : ssorted s.regs = true → ssorted r = true) :
    Keeps z { s with regs := r } :=
  ⟨h.pending, h.variant, h.time, fun hz => let g := h.sound hz; ⟨g.mem, g.flash, hr g.regs, g.tally⟩, h.mono⟩

theorem Keeps.setFlash {z s : State} (h : Keeps z s) {m : List Host.Cell} (hm : Memory.flashWf s.flash = true → Memory.flashWf m = true) :
    Keeps z { s with flash := m } :=
  ⟨h.pending, h.variant, h.time, fun hz => let g := h.sound hz; ⟨g.mem, hm g.flash, g.regs, g.tally⟩, h.mono⟩

theorem Keeps.setTally {z s : State} (h : Keeps z s) {t : Nat} (ht : t < 2 ^ 64) : Keeps z { s with tally := t } :=
  ⟨h.pending, h.variant, h.time, fun hz => let g := h.sound hz; ⟨g.mem, g.flash, g.regs, ht⟩, h.mono⟩

theorem Keeps.raise {z s : State} (h : Keeps z s) (i : Nat) {v : Nat} (hv : s.counter i < v) :
    Keeps z { s with mono := sput 0 i v s.mono } := by
  refine ⟨h.pending, h.variant, h.time, fun hz => let g := h.sound hz; ⟨g.mem, g.flash, g.regs, g.tally⟩, fun j => ?_⟩
  refine Nat.le_trans (h.mono j) ?_
  simp only [State.counter] at hv ⊢
  by_cases hj : j = i
  · subst hj
    rw [sget_sput_same]
    omega
  · exact Nat.le_of_eq (sget_sput_ne 0 hj _ _).symm

/-- A register write keeps the registers listed once. -/
theorem Keeps.wr {z s : State} (h : Keeps z s) (f i j v) : Keeps z (s.wr f i j v) := h.setRegs (ssorted_sset _ _)

/-- A byte write keeps memory canonical. -/
theorem Keeps.setByte {z s : State} (h : Keeps z s) (k v) : Keeps z (s.setByte k v) := h.setMem (swf_sput _ _ _)

end Sys2Proof.Machine
end

