-- ==== Sys2Proof/Laws/KeepsOps.lean ====
section
/-! SUPPORT. What the operations of registers, memory, tiles, reports, components and queues do not do (Laws/Keeps.lean says what `Keeps` means). -/
set_option linter.unusedTactic false
set_option linter.unusedSimpArgs false
set_option linter.unreachableTactic false

namespace Sys2Proof.Machine

/-! ### Machine/Ops.lean -/

theorem Keeps.cnt {z s : State} (h : Keeps z s) (a1 a2 a3 a4) : Keeps z (State.cnt s a1 a2 a3 a4) := by
  unfold State.cnt
  repeat' (with_reducible first | assumption | apply Keeps.wr | intro _ | split | dsimp only)

theorem Keeps.bump {z s : State} (h : Keeps z s) (a1) : Keeps z (State.bump s a1) := by
  unfold State.bump
  repeat' (with_reducible first | assumption | apply Keeps.cnt | intro _ | split | dsimp only)

theorem Keeps.activity {z s : State} (h : Keeps z s) (a1 a2 a3) : Keeps z (State.activity s a1 a2 a3) := by
  unfold State.activity
  repeat' (with_reducible first | assumption | simp only [Keeps.mk_iff] | intro _ | apply Keeps.ite | split | dsimp only)

theorem Keeps.phaseMark {z s : State} (h : Keeps z s) (a1) : Keeps z (State.phaseMark s a1) := by
  unfold State.phaseMark
  repeat' (with_reducible first | assumption | simp only [Keeps.mk_iff] | intro _ | apply Keeps.ite | split | dsimp only)

theorem Keeps.capMark {z s : State} (h : Keeps z s) : Keeps z (State.capMark s) := by
  unfold State.capMark
  repeat' (with_reducible first | assumption | simp only [Keeps.mk_iff] | intro _ | apply Keeps.ite | split | dsimp only)

theorem Keeps.setTile {z s : State} (h : Keeps z s) (a1 a2) : Keeps z (State.setTile s a1 a2) := by
  unfold State.setTile
  repeat' (with_reducible first | assumption | simp only [Keeps.mk_iff] | intro _ | split | dsimp only)

theorem Keeps.onTile {z s : State} (h : Keeps z s) (a1 a2) : Keeps z (State.onTile s a1 a2) := by
  unfold State.onTile
  repeat' (with_reducible first | assumption | apply Keeps.setTile | intro _ | split | dsimp only)

theorem Keeps.progress {z s : State} (h : Keeps z s) (a1 a2) : Keeps z (State.progress s a1 a2) := by
  unfold State.progress
  repeat' (with_reducible first | assumption | apply Keeps.wr | apply Keeps.cnt | intro _ | apply Keeps.ite | split | dsimp only)

theorem Keeps.setBank {z s : State} (h : Keeps z s) (a1 a2 a3) : Keeps z (State.setBank s a1 a2 a3) := by
  unfold State.setBank
  repeat' (with_reducible first | assumption | apply Keeps.onTile | simp only [Keeps.mk_iff] | intro _ | split | dsimp only)

theorem Keeps.rasQueue {z s : State} (h : Keeps z s) (a1 a2 a3 a4 a5 a6) : Keeps z (State.rasQueue s a1 a2 a3 a4 a5 a6) := by
  unfold State.rasQueue
  repeat' (with_reducible first | assumption | apply Keeps.bump | simp only [Keeps.mk_iff] | intro _ | apply Keeps.ite | split
                                | dsimp only)

theorem Keeps.report {z s : State} (h : Keeps z s) (a1 a2 a3 a4 a5 a6) : Keeps z (State.report s a1 a2 a3 a4 a5 a6) := by
  unfold State.report
  repeat' (with_reducible first | assumption | apply Keeps.rasQueue | intro _ | apply Keeps.ite | split | dsimp only)

theorem Keeps.reportTile {z s : State} (h : Keeps z s) (a1 a2 a3 a4) : Keeps z (State.reportTile s a1 a2 a3 a4) := by
  unfold State.reportTile
  repeat' (with_reducible first | assumption | apply Keeps.report | intro _ | split | dsimp only)

theorem Keeps.takeFree {z s : State} (h : Keeps z s) : Keeps z (State.takeFree s).2 := by
  unfold State.takeFree
  repeat' (with_reducible first | assumption | simp only [Keeps.mk_iff] | intro _ | split | dsimp only)

theorem Keeps.setBytes {z s : State} (h : Keeps z s) (k) (l : List Byte) : Keeps z (State.setBytes s k l) := by
  induction l generalizing s k with
  | nil => exact h
  | cons v l ih => exact ih (h.setByte k v) (k + 1)

theorem Keeps.setMark {z s : State} (h : Keeps z s) (a1 a2) : Keeps z (State.setMark s a1 a2) := by
  unfold State.setMark
  repeat' (with_reducible first | assumption | simp only [Keeps.mk_iff] | intro _ | split | dsimp only)

theorem Keeps.msixSend {z s : State} (h : Keeps z s) (a1) : Keeps z (State.msixSend s a1) := by
  unfold State.msixSend
  repeat' (with_reducible first | assumption | apply Keeps.bump | simp only [Keeps.mk_iff] | intro _ | apply Keeps.ite | split
                                | dsimp only)

theorem Keeps.msix {z s : State} (h : Keeps z s) (a1) : Keeps z (State.msix s a1) := by
  unfold State.msix
  repeat' (with_reducible first | assumption | apply Keeps.bump | apply Keeps.msixSend | simp only [Keeps.mk_iff] | intro _
                                | apply Keeps.ite | split | dsimp only)

theorem Keeps.irq {z s : State} (h : Keeps z s) (a1) : Keeps z (State.irq s a1) := by
  unfold State.irq
  repeat' (with_reducible first | assumption | apply Keeps.bump | apply Keeps.msix | simp only [Keeps.mk_iff] | intro _
                                | apply Keeps.ite | split | dsimp only)

theorem Keeps.setComp {z s : State} (h : Keeps z s) (a1 a2) : Keeps z (State.setComp s a1 a2) := by
  unfold State.setComp
  repeat' (with_reducible first | assumption | simp only [Keeps.mk_iff] | intro _ | split | dsimp only)

theorem Keeps.postEvent {z s : State} (h : Keeps z s) (a1 a2 a3) : Keeps z (State.postEvent s a1 a2 a3) := by
  unfold State.postEvent
  repeat' (with_reducible first | assumption | apply Keeps.wr | apply Keeps.cnt | apply Keeps.setBytes | apply Keeps.msix
                                | simp only [Keeps.mk_iff] | intro _ | apply Keeps.ite | split | dsimp only)

theorem Keeps.spdRecord {z s : State} (h : Keeps z s) (a1 a2 a3 a4 a5) : Keeps z (State.spdRecord s a1 a2 a3 a4 a5) := by
  unfold State.spdRecord
  repeat' (with_reducible first | assumption | apply Keeps.wr | apply Keeps.irq | intro _ | apply Keeps.ite | split | dsimp only)

theorem Keeps.setFlags {z s : State} (h : Keeps z s) (a1 a2 a3) : Keeps z (State.setFlags s a1 a2 a3) := by
  unfold State.setFlags
  repeat' (with_reducible first | assumption | apply Keeps.wr | apply Keeps.foldl | apply Keeps.foldl_fst | apply Keeps.foldl_snd
                                | intro _ | split | dsimp only)

theorem Keeps.fixLater {z s : State} (h : Keeps z s) (a1 a2 a3 a4) : Keeps z (State.fixLater s a1 a2 a3 a4) := by
  unfold State.fixLater
  repeat' (with_reducible first | assumption | apply Keeps.setBank | simp only [Keeps.mk_iff] | intro _ | apply Keeps.ite | split
                                | dsimp only)

theorem Keeps.applyHeld {z s : State} (h : Keeps z s) (a1 a2) : Keeps z (State.applyHeld s a1 a2) := by
  unfold State.applyHeld
  repeat' (with_reducible first | assumption | apply Keeps.wr | apply Keeps.cnt | apply Keeps.bump | apply Keeps.onTile
                                | apply Keeps.irq | apply Keeps.reportTile | apply Keeps.setFlags | apply Keeps.spdRecord
                                | apply Keeps.activity | apply Keeps.event | apply Keeps.report | apply Keeps.eventBit
                                | apply Keeps.fixLater | apply Keeps.foldl | apply Keeps.foldl_fst | apply Keeps.foldl_snd | dsimp only
                                | intro _ | split)

theorem Keeps.setSlot {z s : State} (h : Keeps z s) (a1 a2 a3) : Keeps z (State.setSlot s a1 a2 a3) := by
  unfold State.setSlot
  repeat' (with_reducible first | assumption | apply Keeps.onTile | simp only [Keeps.mk_iff] | intro _ | split | dsimp only)

theorem Keeps.eff {z s : State} (h : Keeps z s) (a1 a2 a3) : Keeps z (State.eff s a1 a2 a3) := by
  unfold State.eff
  repeat' (with_reducible first | assumption | apply Keeps.applyHeld | apply Keeps.setSlot | simp only [Keeps.mk_iff] | intro _ | split
                                | dsimp only)

theorem Keeps.effCnt {z s : State} (h : Keeps z s) (a1 a2 a3 a4 a5) : Keeps z (State.effCnt s a1 a2 a3 a4 a5) := by
  unfold State.effCnt
  repeat' (with_reducible first | assumption | apply Keeps.eff | intro _ | apply Keeps.ite | split | dsimp only)

theorem Keeps.shadowPut {z s : State} (h : Keeps z s) (a1 a2 a3 a4) : Keeps z (State.shadowPut s a1 a2 a3 a4) := by
  unfold State.shadowPut
  repeat' (with_reducible first | assumption | apply Keeps.onTile | apply Keeps.foldl | apply Keeps.foldl_fst | apply Keeps.foldl_snd
                                | simp only [Keeps.mk_iff] | intro _ | split | dsimp only)

theorem Keeps.spdWordRead {z s : State} (h : Keeps z s) (a1 a2 a3 a4 a5) : Keeps z (State.spdWordRead s a1 a2 a3 a4 a5).1 := by
  unfold State.spdWordRead
  repeat' (with_reducible first | assumption | apply Keeps.reportTile | apply Keeps.eff | intro _ | split | dsimp only)

theorem Keeps.spdWordsRead {z s : State} (h : Keeps z s) (a1 a2 a3 a4 a5 a6) : Keeps z (State.spdWordsRead s a1 a2 a3 a4 a5 a6).1 := by
  unfold State.spdWordsRead
  repeat' (with_reducible first | assumption | apply Keeps.spdWordRead | apply Keeps.foldl | apply Keeps.foldl_fst
                                | apply Keeps.foldl_snd | intro _ | apply Keeps.ite | apply Keeps.ite_fst | split | dsimp only)

theorem Keeps.spdPoisonWord {z s : State} (h : Keeps z s) (a1 a2 a3) : Keeps z (State.spdPoisonWord s a1 a2 a3) := by
  unfold State.spdPoisonWord
  repeat' (with_reducible first | assumption | apply Keeps.cnt | apply Keeps.setBytes | apply Keeps.setMark | intro _ | split
                                | dsimp only)

theorem Keeps.spdWordMerge {z s : State} (h : Keeps z s) (a1 a2 a3 a4) : Keeps z (State.spdWordMerge s a1 a2 a3 a4) := by
  unfold State.spdWordMerge
  repeat' (with_reducible first | assumption | apply Keeps.setByte | apply Keeps.reportTile | apply Keeps.setBytes | apply Keeps.setMark
                                | apply Keeps.applyHeld | apply Keeps.foldl | apply Keeps.foldl_fst | apply Keeps.foldl_snd | intro _
                                | apply Keeps.ite | split | dsimp only)

theorem Keeps.spdPoisonPart {z s : State} (h : Keeps z s) (a1 a2 a3 a4) : Keeps z (State.spdPoisonPart s a1 a2 a3 a4) := by
  unfold State.spdPoisonPart
  repeat' (with_reducible first | assumption | apply Keeps.reportTile | apply Keeps.setBytes | apply Keeps.applyHeld
                                | apply Keeps.spdPoisonWord | intro _ | apply Keeps.ite | split | dsimp only)

theorem Keeps.spdWrite {z s : State} (h : Keeps z s) (a1 a2 a3 a4 a5) : Keeps z (State.spdWrite s a1 a2 a3 a4 a5) := by
  unfold State.spdWrite
  repeat' (with_reducible first | assumption | apply Keeps.shadowPut | apply Keeps.spdPoisonWord | apply Keeps.spdWordMerge
                                | apply Keeps.spdPoisonPart | apply Keeps.foldl | apply Keeps.foldl_fst | apply Keeps.foldl_snd
                                | intro _ | apply Keeps.ite | split | dsimp only)

theorem Keeps.bankCount {z s : State} (h : Keeps z s) (a1 a2 a3 a4) : Keeps z (State.bankCount s a1 a2 a3 a4) := by
  unfold State.bankCount
  repeat' (with_reducible first | assumption | apply Keeps.cnt | apply Keeps.activity | intro _ | apply Keeps.ite | split | dsimp only)

theorem Keeps.effBankCount {z s : State} (h : Keeps z s) (a1 a2 a3 a4 a5) : Keeps z (State.effBankCount s a1 a2 a3 a4 a5) := by
  unfold State.effBankCount
  repeat' (with_reducible first | assumption | apply Keeps.activity | apply Keeps.effCnt | intro _ | apply Keeps.ite | split
                                | dsimp only)

theorem Keeps.spdRead {z s : State} (h : Keeps z s) (a1 a2 a3 a4 a5 a6) : Keeps z (State.spdRead s a1 a2 a3 a4 a5 a6).1 := by
  unfold State.spdRead
  repeat' (with_reducible first | assumption | apply Keeps.spdWordsRead | intro _ | split | dsimp only)

theorem Keeps.hbmRecord {z s : State} (h : Keeps z s) (a1 a2 a3 a4 a5) : Keeps z (State.hbmRecord s a1 a2 a3 a4 a5) := by
  unfold State.hbmRecord
  repeat' (with_reducible first | assumption | apply Keeps.wr | apply Keeps.irq | intro _ | apply Keeps.ite | split | dsimp only)

theorem Keeps.reportHbm {z s : State} (h : Keeps z s) (a1 a2 a3 a4) : Keeps z (State.reportHbm s a1 a2 a3 a4) := by
  unfold State.reportHbm
  repeat' (with_reducible first | assumption | apply Keeps.report | intro _ | split | dsimp only)

theorem Keeps.hbmLineRead {z s : State} (h : Keeps z s) (a1 a2 a3) : Keeps z (State.hbmLineRead s a1 a2 a3).1 := by
  unfold State.hbmLineRead
  repeat' (with_reducible first | assumption | apply Keeps.cnt | apply Keeps.setMark | apply Keeps.hbmRecord | apply Keeps.reportHbm
                                | intro _ | apply Keeps.ite | apply Keeps.ite_fst | split | dsimp only)

theorem Keeps.hbmLineWrite {z s : State} (h : Keeps z s) (a1 a2 a3 a4) : Keeps z (State.hbmLineWrite s a1 a2 a3 a4) := by
  unfold State.hbmLineWrite
  repeat' (with_reducible first | assumption | apply Keeps.cnt | apply Keeps.activity | apply Keeps.setBytes | apply Keeps.setMark
                                | apply Keeps.hbmRecord | apply Keeps.reportHbm | apply Keeps.hbmLineRead | intro _ | apply Keeps.ite
                                | split | dsimp only)

theorem Keeps.onHbmc {z s : State} (h : Keeps z s) (a1 a2) : Keeps z (State.onHbmc s a1 a2) := by
  unfold State.onHbmc
  repeat' (with_reducible first | assumption | simp only [Keeps.mk_iff] | intro _ | split | dsimp only)

theorem Keeps.hbmLineFetch {z s : State} (h : Keeps z s) (a1 a2 a3) : Keeps z (State.hbmLineFetch s a1 a2 a3).1 := by
  unfold State.hbmLineFetch
  repeat' (with_reducible first | assumption | apply Keeps.cnt | apply Keeps.activity | apply Keeps.hbmLineRead | intro _ | split
                                | dsimp only)

theorem Keeps.answer {z s : State} (h : Keeps z s) (a1 a2) : Keeps z (State.answer s a1 a2) := by
  unfold State.answer
  repeat' (with_reducible first | assumption | simp only [Keeps.mk_iff] | intro _ | split | dsimp only)

theorem Keeps.restore {z s : State} (h : Keeps z s) (p) : Keeps z (State.restore s p) := h.setRegs (ssorted_filter _)

theorem freeMem_wf (n : Nat) (l : List Host.Cell) : Memory.wf (freeMem n l) = true := by
  unfold freeMem
  generalize (List.range l.length).zip l = q
  have : ∀ (q : List (Nat × Host.Cell)) (acc : List Host.Cell), Memory.wf acc = true →
      Memory.wf (q.foldl (fun acc e => sput 0#8 e.2.1 (BitVec.ofNat 8 (Config.freeValue (n + e.1))) acc) acc) = true := by
    intro q
    induction q with
    | nil => exact fun _ h => h
    | cons e q ih => exact fun acc h => ih _ (swf_sput _ _ _ h)
  exact this q [] rfl

theorem Keeps.coldState {z s : State} (h : Keeps z s) : Keeps z (State.coldState s) :=
  h.upd rfl rfl rfl (fun _ => freeMem_wf _ _) rfl (fun g => ssorted_filter _ g) (fun _ => Nat.two_pow_pos 64) rfl

/-! ### Machine/Flags.lean -/

theorem Keeps.effFlags {z s : State} (h : Keeps z s) (a1 a2 a3 a4) : Keeps z (State.effFlags s a1 a2 a3 a4) := by
  unfold State.effFlags
  repeat' (with_reducible first | assumption | apply Keeps.eff | intro _ | apply Keeps.ite | split | dsimp only)

theorem Keeps.effHealth {z s : State} (h : Keeps z s) (a1 a2 a3 a4) : Keeps z (State.effHealth s a1 a2 a3 a4) := by
  unfold State.effHealth
  repeat' (with_reducible first | assumption | apply Keeps.effCnt | apply Keeps.foldl | apply Keeps.foldl_fst | apply Keeps.foldl_snd
                                | intro _ | split | dsimp only)

theorem Keeps.health {z s : State} (h : Keeps z s) (a1 a2 a3) : Keeps z (State.health s a1 a2 a3) := by
  unfold State.health
  repeat' (with_reducible first | assumption | apply Keeps.effHealth | intro _ | split | dsimp only)

/-! ### Machine/Components.lean -/

theorem Keeps.respond {z s : State} (h : Keeps z s) (a1 a2 a3 a4 a5) : Keeps z (State.respond s a1 a2 a3 a4 a5) := by
  unfold State.respond
  repeat' (with_reducible first | assumption | apply Keeps.wr | apply Keeps.cnt | apply Keeps.takeFree | apply Keeps.setBytes
                                | apply Keeps.msix | intro _ | apply Keeps.ite | split | dsimp only)

theorem Keeps.postEventFree {z s : State} (h : Keeps z s) (a1 a2) : Keeps z (State.postEventFree s a1 a2) := by
  unfold State.postEventFree
  repeat' (with_reducible first | assumption | apply Keeps.takeFree | apply Keeps.postEvent | intro _ | split | dsimp only)

theorem Keeps.postClassWith {z s : State} (h : Keeps z s) (a1 a2 a3) : Keeps z (State.postClassWith s a1 a2 a3) := by
  unfold State.postClassWith
  repeat' (with_reducible first | assumption | apply Keeps.takeFree | apply Keeps.postEvent | intro _ | split | dsimp only)

theorem Keeps.postClass {z s : State} (h : Keeps z s) (a1 a2) : Keeps z (State.postClass s a1 a2) := by
  unfold State.postClass
  repeat' (with_reducible first | assumption | apply Keeps.takeFree | apply Keeps.postEventFree | intro _ | split | dsimp only)

theorem Keeps.icSetStack {z s : State} (h : Keeps z s) (a1 a2) : Keeps z (State.icSetStack s a1 a2) := by
  unfold State.icSetStack
  repeat' (with_reducible first | assumption | simp only [Keeps.mk_iff] | intro _ | split | dsimp only)

theorem Keeps.icInactive {z s : State} (h : Keeps z s) (a1) : Keeps z (State.icInactive s a1) := by
  unfold State.icInactive
  repeat' (with_reducible first | assumption | simp only [Keeps.mk_iff] | intro _ | split | dsimp only)

theorem Keeps.icSetBanks {z s : State} (h : Keeps z s) (a1 a2) : Keeps z (State.icSetBanks s a1 a2) := by
  unfold State.icSetBanks
  repeat' (with_reducible first | assumption | simp only [Keeps.mk_iff] | intro _ | split | dsimp only)

theorem Keeps.icSave {z s : State} (h : Keeps z s) (a1 a2) : Keeps z (State.icSave s a1 a2) := by
  unfold State.icSave
  repeat' (with_reducible first | assumption | apply Keeps.takeFree | apply Keeps.icSetBanks | intro _ | split | dsimp only)

theorem Keeps.icReturn {z s : State} (h : Keeps z s) (a1 a2) : Keeps z (State.icReturn s a1 a2) := by
  unfold State.icReturn
  repeat' (with_reducible first | assumption | apply Keeps.icSetBanks | intro _ | split | dsimp only)

theorem Keeps.icForget {z s : State} (h : Keeps z s) (a1) : Keeps z (State.icForget s a1) := by
  unfold State.icForget
  repeat' (with_reducible first | assumption | apply Keeps.icSetStack | apply Keeps.icInactive | apply Keeps.icReturn
                                | apply Keeps.foldl | apply Keeps.foldl_fst | apply Keeps.foldl_snd | intro _ | split | dsimp only)

theorem Keeps.areaInit {z s : State} (h : Keeps z s) (a1) : Keeps z (State.areaInit s a1) := by
  unfold State.areaInit
  repeat' (with_reducible first | assumption | apply Keeps.setBytes | simp only [Keeps.mk_iff] | intro _ | split | dsimp only)

theorem Keeps.compReset {z s : State} (h : Keeps z s) (a1) : Keeps z (State.compReset s a1) := by
  unfold State.compReset
  repeat' (with_reducible first | assumption | apply Keeps.cnt | apply Keeps.setComp | apply Keeps.icForget | apply Keeps.areaInit
                                | simp only [Keeps.mk_iff] | intro _ | apply Keeps.ite | split | dsimp only)

theorem Keeps.compAbandon {z s : State} (h : Keeps z s) (a1) : Keeps z (State.compAbandon s a1) := by
  unfold State.compAbandon
  repeat' (with_reducible first | assumption | apply Keeps.respond | simp only [Keeps.mk_iff] | intro _ | split | dsimp only)

theorem Keeps.compFault {z s : State} (h : Keeps z s) (a1 a2) : Keeps z (State.compFault s a1 a2) := by
  unfold State.compFault
  repeat' (with_reducible first | assumption | apply Keeps.cnt | apply Keeps.bump | apply Keeps.report | apply Keeps.setComp
                                | apply Keeps.postClass | apply Keeps.compReset | apply Keeps.compAbandon | simp only [Keeps.mk_iff]
                                | intro _ | apply Keeps.ite | split | dsimp only)

theorem Keeps.accessFault {z s : State} (h : Keeps z s) (a1) : Keeps z (State.accessFault s a1) := by
  unfold State.accessFault
  repeat' (with_reducible first | assumption | apply Keeps.report | apply Keeps.compFault | intro _ | apply Keeps.ite | split
                                | dsimp only)

theorem Keeps.actingComp {z s s' : State} {k c : Nat} (hn : State.actingComp s c = some (k, s')) (h : Keeps z s) : Keeps z s' := by
  unfold State.actingComp at hn
  split at hn
  · cases hn
  · cases hn
    exact h
  · cases hn
    exact h.takeFree

theorem Keeps.busFault {z s : State} (h : Keeps z s) (a1) : Keeps z (State.busFault s a1) := by
  unfold State.busFault
  dsimp only
  split
  · exact h.irq _
  · exact (Keeps.actingComp (by assumption) (h.irq _)).accessFault _

/-! ### Machine/TileOps.lean -/

theorem Keeps.send {z s : State} (h : Keeps z s) (a1) : Keeps z (State.send s a1) := by
  unfold State.send
  repeat' (with_reducible first | assumption | simp only [Keeps.mk_iff] | intro _ | split | dsimp only)

theorem Keeps.strmCount {z s : State} (h : Keeps z s) (a1 a2 a3 a4) : Keeps z (State.strmCount s a1 a2 a3 a4) := by
  unfold State.strmCount
  repeat' (with_reducible first | assumption | apply Keeps.wr | apply Keeps.cnt | apply Keeps.progress | intro _ | apply Keeps.ite
                                | split | dsimp only)

theorem Keeps.semAdd {z s : State} (h : Keeps z s) (a1 a2 a3) : Keeps z (State.semAdd s a1 a2 a3) := by
  unfold State.semAdd
  repeat' (with_reducible first | assumption | apply Keeps.wr | apply Keeps.cnt | apply Keeps.strmCount | apply Keeps.foldl
                                | apply Keeps.foldl_fst | apply Keeps.foldl_snd | intro _ | apply Keeps.ite | split | dsimp only)

theorem Keeps.semTake {z s : State} (h : Keeps z s) (a1 a2 a3) : Keeps z (State.semTake s a1 a2 a3) := by
  unfold State.semTake
  repeat' (with_reducible first | assumption | apply Keeps.wr | apply Keeps.strmCount | apply Keeps.foldl | apply Keeps.foldl_fst
                                | apply Keeps.foldl_snd | intro _ | split | dsimp only)

theorem Keeps.signal {z s : State} (h : Keeps z s) (a1 a2 a3 a4 a5) : Keeps z (State.signal s a1 a2 a3 a4 a5) := by
  unfold State.signal
  repeat' (with_reducible first | assumption | apply Keeps.send | apply Keeps.semAdd | intro _ | apply Keeps.ite | split | dsimp only)

theorem Keeps.qAdmit {z s : State} (h : Keeps z s) (a1 a2 a3 a4 a5) : Keeps z (State.qAdmit s a1 a2 a3 a4 a5) := by
  unfold State.qAdmit
  repeat' (with_reducible first | assumption | apply Keeps.wr | apply Keeps.cnt | apply Keeps.spdPoisonWord | apply Keeps.spdWrite
                                | apply Keeps.bankCount | apply Keeps.foldl | apply Keeps.foldl_fst | apply Keeps.foldl_snd | intro _
                                | split | dsimp only)

theorem Keeps.qDropHead {z s : State} (h : Keeps z s) (a1 a2) : Keeps z (State.qDropHead s a1 a2) := by
  unfold State.qDropHead
  repeat' (with_reducible first | assumption | apply Keeps.wr | intro _ | split | dsimp only)

theorem Keeps.event {z s : State} (h : Keeps z s) (a1 a2) : Keeps z (State.event s a1 a2) := by
  unfold State.event
  repeat' (with_reducible first | assumption | apply Keeps.applyHeld | intro _ | split | dsimp only)

theorem Keeps.islandWrite {z s : State} (h : Keeps z s) (a1 a2 a3 a4) {f : State → State} (hf : Keeps z (f s)) :
    Keeps z (State.islandWrite s a1 a2 a3 a4 f) := by
  unfold State.islandWrite
  repeat' (with_reducible first | assumption | apply Keeps.foldl | apply Keeps.foldl_fst | apply Keeps.foldl_snd
                                | simp only [Keeps.mk_iff] | dsimp only | intro _ | split)

theorem Keeps.decodeCount {z s : State} (h : Keeps z s) (a1 a2) : Keeps z (State.decodeCount s a1 a2) := by
  unfold State.decodeCount
  repeat' (with_reducible first | assumption | apply Keeps.cnt | apply Keeps.bump | apply Keeps.report | apply Keeps.reportTile
                                | intro _ | split | dsimp only)

theorem Keeps.decodeError {z s : State} (h : Keeps z s) (a1 a2) : Keeps z (State.decodeError s a1 a2) := by
  unfold State.decodeError
  repeat' (with_reducible first | assumption | apply Keeps.busFault | apply Keeps.decodeCount | simp only [Keeps.mk_iff] | intro _
                                | split | dsimp only)

theorem Keeps.reach {z s : State} (h : Keeps z s) (a1) : Keeps z (State.reach s a1).1 := by
  unfold State.reach
  repeat' (with_reducible first | assumption | apply Keeps.bump | intro _ | apply Keeps.ite | apply Keeps.ite_fst | split | dsimp only)

/-! ### Machine/Regs.lean -/

theorem Keeps.writeHit {z s : State} (h : Keeps z s) (a1 a2) : Keeps z (State.writeHit s a1 a2) := by
  unfold State.writeHit
  repeat' (with_reducible first | assumption | apply Keeps.wr | intro _ | apply Keeps.ite | split | dsimp only)

theorem Keeps.storeWord {z s : State} (h : Keeps z s) (a1 a2 a3) : Keeps z (State.storeWord s a1 a2 a3) := by
  unfold State.storeWord
  repeat' (with_reducible first | assumption | apply Keeps.setBytes | apply Keeps.writeHit | apply Keeps.foldl | apply Keeps.foldl_fst
                                | apply Keeps.foldl_snd | intro _ | apply Keeps.ite | split | dsimp only)

theorem Keeps.validIrq {z s : State} (h : Keeps z s) (a1 a2) : Keeps z (State.validIrq s a1 a2) := by
  unfold State.validIrq
  repeat' (with_reducible first | assumption | apply Keeps.irq | intro _ | split | dsimp only)

theorem Keeps.setW1c {z s : State} (h : Keeps z s) (a1 a2 a3 a4) : Keeps z (State.setW1c s a1 a2 a3 a4) := by
  unfold State.setW1c
  repeat' (with_reducible first | assumption | apply Keeps.wr | apply Keeps.validIrq | apply Keeps.foldl | apply Keeps.foldl_fst
                                | apply Keeps.foldl_snd | intro _ | apply Keeps.ite | split | dsimp only)

theorem Keeps.latchRead {z s : State} (h : Keeps z s) (a1 a2 a3 a4) : Keeps z (State.latchRead s a1 a2 a3 a4).1 := by
  unfold State.latchRead
  repeat' (with_reducible first | assumption | apply Keeps.bump | simp only [Keeps.mk_iff] | intro _ | apply Keeps.ite
                                | apply Keeps.ite_fst | split | dsimp only)

end Sys2Proof.Machine
end

