-- ==== Sys2Proof/Laws/KeepsTile.lean ====
section
/-! SUPPORT. What the operations of the tile core, the OPE, branches and the VE do not do (Laws/Keeps.lean says what `Keeps` means). -/
set_option linter.unusedTactic false
set_option linter.unusedSimpArgs false
set_option linter.unreachableTactic false

namespace Sys2Proof.Machine

/-! ### Machine/TileCore.lean -/

theorem Keeps.onCore {z s : State} (h : Keeps z s) (a1 a2) : Keeps z (State.onCore s a1 a2) := by
  unfold State.onCore
  repeat' (with_reducible first | assumption | apply Keeps.onTile | simp only [Keeps.mk_iff] | intro _ | split | dsimp only)

theorem Keeps.xw {z s : State} (h : Keeps z s) (a1 a2 a3) : Keeps z (State.xw s a1 a2 a3) := by
  unfold State.xw
  repeat' (with_reducible first | assumption | apply Keeps.onCore | intro _ | split | dsimp only)

theorem Keeps.retireTo {z s : State} (h : Keeps z s) (a1 a2) : Keeps z (State.retireTo s a1 a2) := by
  unfold State.retireTo
  repeat' (with_reducible first | assumption | apply Keeps.cnt | apply Keeps.activity | apply Keeps.onCore | simp only [Keeps.mk_iff]
                                | intro _ | split | dsimp only)

theorem Keeps.retire {z s : State} (h : Keeps z s) (a1) : Keeps z (State.retire s a1) := by
  unfold State.retire
  repeat' (with_reducible first | assumption | apply Keeps.retireTo | intro _ | split | dsimp only)

theorem Keeps.park {z s : State} (h : Keeps z s) (a1 a2) : Keeps z (State.park s a1 a2) := by
  unfold State.park
  repeat' (with_reducible first | assumption | apply Keeps.onCore | simp only [Keeps.mk_iff] | intro _ | split | dsimp only)

theorem Keeps.coreFault {z s : State} (h : Keeps z s) (a1 a2) : Keeps z (State.coreFault s a1 a2) := by
  unfold State.coreFault
  repeat' (with_reducible first | assumption | apply Keeps.wr | apply Keeps.cnt | apply Keeps.reportTile | apply Keeps.irq
                                | apply Keeps.onCore | simp only [Keeps.mk_iff] | intro _ | apply Keeps.ite | split | dsimp only)

theorem Keeps.holdAccess {z s : State} (h : Keeps z s) (a1 a2 a3 a4 a5) : Keeps z (State.holdAccess s a1 a2 a3 a4 a5) := by
  unfold State.holdAccess
  repeat' (with_reducible first | assumption | apply Keeps.onTile | apply Keeps.effCnt | simp only [Keeps.mk_iff] | intro _
                                | apply Keeps.ite | split | dsimp only)

theorem Keeps.deferOnce {z s : State} (h : Keeps z s) (a1 a2 a3) : Keeps z (State.deferOnce s a1 a2 a3) := by
  unfold State.deferOnce
  repeat' (with_reducible first | assumption | apply Keeps.cnt | apply Keeps.onTile | simp only [Keeps.mk_iff] | intro _
                                | apply Keeps.ite | split | dsimp only)

theorem Keeps.unhold {z s : State} (h : Keeps z s) (a1 a2) : Keeps z (State.unhold s a1 a2) := by
  unfold State.unhold
  repeat' (with_reducible first | assumption | apply Keeps.onTile | simp only [Keeps.mk_iff] | intro _ | split | dsimp only)

theorem Keeps.coreRow {z s : State} (h : Keeps z s) (a1 a2) {f : State → CoreWord → State} (hf : ∀ s c, Keeps z s → Keeps z (f s c)) :
    Keeps z (State.coreRow s a1 a2 f) := by
  unfold State.coreRow
  repeat' (with_reducible first | assumption | apply hf | apply Keeps.coreFault | apply Keeps.holdAccess | apply Keeps.bankCount
                                | apply Keeps.unhold | apply Keeps.spdRead | apply Keeps.foldl | apply Keeps.foldl_fst
                                | apply Keeps.foldl_snd | dsimp only | intro _ | split)

theorem Keeps.alu {z s : State} (h : Keeps z s) (a1 a2) : Keeps z (State.alu s a1 a2) := by
  unfold State.alu
  repeat' (with_reducible first | assumption | apply Keeps.xw | apply Keeps.retire | apply Keeps.coreRow | intro _ | split | dsimp only)

theorem Keeps.lui {z s : State} (h : Keeps z s) (a1) : Keeps z (State.lui s a1) := by
  unfold State.lui
  repeat' (with_reducible first | assumption | apply Keeps.xw | apply Keeps.retire | apply Keeps.coreRow | intro _ | split | dsimp only)

theorem Keeps.memFault {z s : State} (h : Keeps z s) (a1 a2 a3) : Keeps z (State.memFault s a1 a2 a3) := by
  unfold State.memFault
  repeat' (with_reducible first | assumption | apply Keeps.decodeError | apply Keeps.coreFault | intro _ | apply Keeps.ite | split
                                | dsimp only)

theorem Keeps.load {z s : State} (h : Keeps z s) (a1) : Keeps z (State.load s a1) := by
  unfold State.load
  repeat' (with_reducible first | assumption | apply Keeps.bankCount | apply Keeps.spdRead | apply Keeps.xw | apply Keeps.retire
                                | apply Keeps.coreFault | apply Keeps.holdAccess | apply Keeps.deferOnce | apply Keeps.unhold
                                | apply Keeps.coreRow | apply Keeps.memFault | intro _ | apply Keeps.ite | split | dsimp only)

theorem Keeps.store {z s : State} (h : Keeps z s) (a1) : Keeps z (State.store s a1) := by
  unfold State.store
  repeat' (with_reducible first | assumption | apply Keeps.cnt | apply Keeps.setBank | apply Keeps.spdWrite | apply Keeps.bankCount
                                | apply Keeps.retire | apply Keeps.coreFault | apply Keeps.holdAccess | apply Keeps.deferOnce
                                | apply Keeps.unhold | apply Keeps.coreRow | apply Keeps.memFault | simp only [Keeps.mk_iff] | intro _
                                | apply Keeps.ite | split | dsimp only)

theorem Keeps.branch {z s : State} (h : Keeps z s) (a1 a2) : Keeps z (State.branch s a1 a2) := by
  unfold State.branch
  repeat' (with_reducible first | assumption | apply Keeps.retireTo | apply Keeps.retire | apply Keeps.coreRow | intro _
                                | apply Keeps.ite | split | dsimp only)

theorem Keeps.jal {z s : State} (h : Keeps z s) (a1) : Keeps z (State.jal s a1) := by
  unfold State.jal
  repeat' (with_reducible first | assumption | apply Keeps.xw | apply Keeps.retireTo | apply Keeps.coreRow | intro _ | split
                                | dsimp only)

theorem Keeps.jalr {z s : State} (h : Keeps z s) (a1) : Keeps z (State.jalr s a1) := by
  unfold State.jalr
  repeat' (with_reducible first | assumption | apply Keeps.cnt | apply Keeps.activity | apply Keeps.onCore | apply Keeps.xw
                                | apply Keeps.coreRow | simp only [Keeps.mk_iff] | intro _ | split | dsimp only)

theorem Keeps.crd {z s : State} (h : Keeps z s) (a1) : Keeps z (State.crd s a1) := by
  unfold State.crd
  repeat' (with_reducible first | assumption | apply Keeps.latchRead | apply Keeps.xw | apply Keeps.retire | apply Keeps.coreFault
                                | apply Keeps.coreRow | intro _ | apply Keeps.ite | split | dsimp only)

theorem Keeps.phaseWrite {z s : State} (h : Keeps z s) (a1 a2) : Keeps z (State.phaseWrite s a1 a2) := by
  unfold State.phaseWrite
  repeat' (with_reducible first | assumption | apply Keeps.wr | apply Keeps.cnt | apply Keeps.phaseMark | intro _ | apply Keeps.ite
                                | split | dsimp only)

theorem Keeps.cwr {z s : State} (h : Keeps z s) (a1 a2 a3) : Keeps z (State.cwr s a1 a2 a3) := by
  unfold State.cwr
  repeat' (with_reducible first | assumption | apply Keeps.cnt | apply Keeps.writeHit | apply Keeps.setW1c | apply Keeps.retire
                                | apply Keeps.coreFault | apply Keeps.coreRow | apply Keeps.phaseWrite | apply Keeps.foldl
                                | apply Keeps.foldl_fst | apply Keeps.foldl_snd | intro _ | apply Keeps.ite | split | dsimp only)

theorem Keeps.postLocal {z s : State} (h : Keeps z s) (a1 a2 a3) : Keeps z (State.postLocal s a1 a2 a3).1 := by
  unfold State.postLocal
  repeat' (with_reducible first | assumption | apply Keeps.cnt | apply Keeps.bankCount | apply Keeps.spdRead | apply Keeps.qAdmit
                                | intro _ | apply Keeps.ite | apply Keeps.ite_fst | split | dsimp only)

theorem Keeps.postRemote {z s : State} (h : Keeps z s) (a1 a2 a3) : Keeps z (State.postRemote s a1 a2 a3) := by
  unfold State.postRemote
  repeat' (with_reducible first | assumption | apply Keeps.bankCount | apply Keeps.spdRead | apply Keeps.send | intro _ | split
                                | dsimp only)

theorem Keeps.postOp {z s : State} (h : Keeps z s) (a1 a2) : Keeps z (State.postOp s a1 a2) := by
  unfold State.postOp
  repeat' (with_reducible first | assumption | apply Keeps.xw | apply Keeps.retire | apply Keeps.park | apply Keeps.coreFault
                                | apply Keeps.holdAccess | apply Keeps.coreRow | apply Keeps.memFault | apply Keeps.postLocal
                                | apply Keeps.postRemote | intro _ | apply Keeps.ite | split | dsimp only)

theorem Keeps.postUnblock {z s : State} (h : Keeps z s) (a1) : Keeps z (State.postUnblock s a1) := by
  unfold State.postUnblock
  repeat' (with_reducible first | assumption | apply Keeps.xw | apply Keeps.retire | apply Keeps.postLocal | intro _ | apply Keeps.ite
                                | split | dsimp only)

theorem Keeps.popOp {z s : State} (h : Keeps z s) (a1) : Keeps z (State.popOp s a1) := by
  unfold State.popOp
  repeat' (with_reducible first | assumption | apply Keeps.spdPoisonWord | apply Keeps.spdWrite | apply Keeps.bankCount
                                | apply Keeps.spdRead | apply Keeps.qDropHead | apply Keeps.xw | apply Keeps.retire
                                | apply Keeps.coreRow | apply Keeps.memFault | apply Keeps.foldl | apply Keeps.foldl_fst
                                | apply Keeps.foldl_snd | intro _ | apply Keeps.ite | split | dsimp only)

theorem Keeps.semSig {z s : State} (h : Keeps z s) (a1) : Keeps z (State.semSig s a1) := by
  unfold State.semSig
  repeat' (with_reducible first | assumption | apply Keeps.semAdd | apply Keeps.retire | apply Keeps.coreRow | intro _ | split
                                | dsimp only)

theorem Keeps.semSigr {z s : State} (h : Keeps z s) (a1) : Keeps z (State.semSigr s a1) := by
  unfold State.semSigr
  repeat' (with_reducible first | assumption | apply Keeps.signal | apply Keeps.retire | apply Keeps.coreRow | intro _ | split
                                | dsimp only)

theorem Keeps.semWait {z s : State} (h : Keeps z s) (a1) : Keeps z (State.semWait s a1) := by
  unfold State.semWait
  repeat' (with_reducible first | assumption | apply Keeps.semTake | apply Keeps.retire | apply Keeps.park | apply Keeps.coreRow
                                | intro _ | apply Keeps.ite | split | dsimp only)

theorem Keeps.semWaitDone {z s : State} (h : Keeps z s) (a1) : Keeps z (State.semWaitDone s a1) := by
  unfold State.semWaitDone
  repeat' (with_reducible first | assumption | apply Keeps.semTake | apply Keeps.retire | intro _ | apply Keeps.ite | split
                                | dsimp only)

theorem Keeps.semTry {z s : State} (h : Keeps z s) (a1) : Keeps z (State.semTry s a1) := by
  unfold State.semTry
  repeat' (with_reducible first | assumption | apply Keeps.semTake | apply Keeps.xw | apply Keeps.retire | apply Keeps.coreRow | intro _
                                | apply Keeps.ite | split | dsimp only)

theorem Keeps.semRd {z s : State} (h : Keeps z s) (a1) : Keeps z (State.semRd s a1) := by
  unfold State.semRd
  repeat' (with_reducible first | assumption | apply Keeps.xw | apply Keeps.retire | apply Keeps.coreRow | intro _ | split | dsimp only)

theorem Keeps.tagged {z s : State} (h : Keeps z s) (a1) : Keeps z (State.tagged s a1).1 := by
  unfold State.tagged
  repeat' (with_reducible first | assumption | apply Keeps.cnt | apply Keeps.setSlot | simp only [Keeps.mk_iff] | intro _
                                | apply Keeps.ite | apply Keeps.ite_fst | split | dsimp only)

theorem Keeps.opeAccept {z s : State} (h : Keeps z s) (a1 a2 a3) : Keeps z (State.opeAccept s a1 a2 a3) := by
  unfold State.opeAccept
  repeat' (with_reducible first | assumption | apply Keeps.onTile | apply Keeps.tagged | simp only [Keeps.mk_iff] | intro _
                                | apply Keeps.ite | split | dsimp only)

theorem Keeps.veAccept {z s : State} (h : Keeps z s) (a1 a2) : Keeps z (State.veAccept s a1 a2) := by
  unfold State.veAccept
  repeat' (with_reducible first | assumption | apply Keeps.onTile | apply Keeps.tagged | simp only [Keeps.mk_iff] | intro _
                                | apply Keeps.ite | split | dsimp only)

theorem Keeps.opeIssue {z s : State} (h : Keeps z s) (a1) : Keeps z (State.opeIssue s a1) := by
  unfold State.opeIssue
  repeat' (with_reducible first | assumption | apply Keeps.retire | apply Keeps.park | apply Keeps.coreRow | apply Keeps.opeAccept
                                | intro _ | apply Keeps.ite | split | dsimp only)

theorem Keeps.veIssue {z s : State} (h : Keeps z s) (a1) : Keeps z (State.veIssue s a1) := by
  unfold State.veIssue
  repeat' (with_reducible first | assumption | apply Keeps.retire | apply Keeps.park | apply Keeps.coreRow | apply Keeps.veAccept
                                | intro _ | apply Keeps.ite | split | dsimp only)

theorem Keeps.issueUnblock {z s : State} (h : Keeps z s) (a1) : Keeps z (State.issueUnblock s a1) := by
  unfold State.issueUnblock
  repeat' (with_reducible first | assumption | apply Keeps.retire | apply Keeps.opeAccept | apply Keeps.veAccept | intro _
                                | apply Keeps.ite | split | dsimp only)

theorem Keeps.eventReturn {z s : State} (h : Keeps z s) (a1 a2 a3 a4) : Keeps z (State.eventReturn s a1 a2 a3 a4) := by
  unfold State.eventReturn
  repeat' (with_reducible first | assumption | apply Keeps.onCore | apply Keeps.xw | apply Keeps.retire | simp only [Keeps.mk_iff]
                                | intro _ | apply Keeps.ite | split | dsimp only)

theorem Keeps.waitOp {z s : State} (h : Keeps z s) (a1 a2) : Keeps z (State.waitOp s a1 a2) := by
  unfold State.waitOp
  repeat' (with_reducible first | assumption | apply Keeps.event | apply Keeps.park | apply Keeps.coreRow | apply Keeps.eventReturn
                                | intro _ | apply Keeps.ite | split | dsimp only)

theorem Keeps.waitReturn {z s : State} (h : Keeps z s) (a1) : Keeps z (State.waitReturn s a1) := by
  unfold State.waitReturn
  repeat' (with_reducible first | assumption | apply Keeps.event | apply Keeps.eventReturn | intro _ | apply Keeps.ite | split
                                | dsimp only)

theorem Keeps.fenceMem {z s : State} (h : Keeps z s) (a1) : Keeps z (State.fenceMem s a1) := by
  unfold State.fenceMem
  repeat' (with_reducible first | assumption | apply Keeps.retire | apply Keeps.park | apply Keeps.coreRow | intro _ | apply Keeps.ite
                                | split | dsimp only)

theorem Keeps.fenceDone {z s : State} (h : Keeps z s) (a1) : Keeps z (State.fenceDone s a1) := by
  unfold State.fenceDone
  repeat' (with_reducible first | assumption | apply Keeps.retire | intro _ | apply Keeps.ite | split | dsimp only)

/-! ### Machine/Ope.lean -/

theorem Keeps.tagOver {z s : State} (h : Keeps z s) (a1 a2) : Keeps z (State.tagOver s a1 a2) := by
  unfold State.tagOver
  repeat' (with_reducible first | assumption | apply Keeps.setSlot | simp only [Keeps.mk_iff] | intro _ | split | dsimp only)

theorem Keeps.opeRefuse {z s : State} (h : Keeps z s) (a1 a2 a3) : Keeps z (State.opeRefuse s a1 a2 a3) := by
  unfold State.opeRefuse
  repeat' (with_reducible first | assumption | apply Keeps.eff | apply Keeps.effCnt | apply Keeps.event | apply Keeps.tagOver | intro _
                                | split | dsimp only)

theorem Keeps.opeDiscard {z s : State} (h : Keeps z s) (a1 a2 a3) : Keeps z (State.opeDiscard s a1 a2 a3) := by
  unfold State.opeDiscard
  repeat' (with_reducible first | assumption | apply Keeps.onTile | apply Keeps.opeRefuse | simp only [Keeps.mk_iff] | intro _
                                | apply Keeps.ite | split | dsimp only)

theorem Keeps.accPut {z s : State} (h : Keeps z s) (a1 a2 a3 a4 a5 a6 a7) : Keeps z (State.accPut s a1 a2 a3 a4 a5 a6 a7) := by
  unfold State.accPut
  repeat' (with_reducible first | assumption | apply Keeps.onTile | simp only [Keeps.mk_iff] | intro _ | apply Keeps.ite | split
                                | dsimp only)

theorem Keeps.accSet {z s : State} (h : Keeps z s) (a1 a2 a3 a4 a5) : Keeps z (State.accSet s a1 a2 a3 a4 a5) := by
  unfold State.accSet
  repeat' (with_reducible first | assumption | apply Keeps.accPut | intro _ | split | dsimp only)

theorem Keeps.opeCell {z s : State} (h : Keeps z s) (a1 a2 a3 a4 a5 a6 a7 a8 a9 a10) : Keeps z (State.opeCell s a1 a2 a3 a4 a5 a6 a7 a8 a9 a10).1 := by
  unfold State.opeCell
  repeat' (with_reducible first | assumption | apply Keeps.accPut | apply Keeps.foldl | apply Keeps.foldl_fst | apply Keeps.foldl_snd
                                | intro _ | apply Keeps.ite | apply Keeps.ite_fst | split | dsimp only)

theorem Keeps.opeInit {z s : State} (h : Keeps z s) (a1 a2 a3 a4 a5 a6) : Keeps z (State.opeInit s a1 a2 a3 a4 a5 a6) := by
  unfold State.opeInit
  repeat' (with_reducible first | assumption | apply Keeps.accSet | apply Keeps.foldl | apply Keeps.foldl_fst | apply Keeps.foldl_snd
                                | intro _ | apply Keeps.ite | split | dsimp only)

theorem Keeps.setRun {z s : State} (h : Keeps z s) (a1 a2) : Keeps z (State.setRun s a1 a2) := by
  unfold State.setRun
  repeat' (with_reducible first | assumption | apply Keeps.onTile | simp only [Keeps.mk_iff] | intro _ | split | dsimp only)

theorem Keeps.accScramble {z s : State} (h : Keeps z s) (a1 a2) : Keeps z (State.accScramble s a1 a2) := by
  unfold State.accScramble
  repeat' (with_reducible first | assumption | apply Keeps.onTile | apply Keeps.foldl | apply Keeps.foldl_fst | apply Keeps.foldl_snd
                                | simp only [Keeps.mk_iff] | intro _ | split | dsimp only)

theorem Keeps.opeAbort {z s : State} (h : Keeps z s) (a1 a2) : Keeps z (State.opeAbort s a1 a2) := by
  unfold State.opeAbort
  repeat' (with_reducible first | assumption | apply Keeps.onTile | apply Keeps.accScramble | simp only [Keeps.mk_iff] | intro _
                                | apply Keeps.ite | split | dsimp only)

theorem Keeps.opeAdvance {z s : State} (h : Keeps z s) (t n) : Keeps z (State.opeAdvance s t n) := by
  induction n generalizing s with
  | zero => exact h
  | succ n ih =>
    unfold State.opeAdvance
    repeat' (with_reducible first | assumption | apply ih | apply Keeps.holdAccess | apply Keeps.unhold | apply Keeps.spdRead
                                  | apply Keeps.effBankCount | apply Keeps.effCnt | apply Keeps.opeAbort | apply Keeps.opeInit
                                  | apply Keeps.setRun | apply Keeps.onTile | apply Keeps.opeFinish | apply Keeps.opeStart
                                  | apply Keeps.foldl | apply Keeps.foldl_fst | apply Keeps.foldl_snd | dsimp only | intro _ | split)

theorem Keeps.opeStart {z s : State} (h : Keeps z s) (a1 a2) : Keeps z (State.opeStart s a1 a2) := by
  unfold State.opeStart
  repeat' (with_reducible first | assumption | apply Keeps.onTile | apply Keeps.opeDiscard | apply Keeps.opeAdvance
                                | simp only [Keeps.mk_iff] | intro _ | apply Keeps.ite | split | dsimp only)

theorem Keeps.opeStage {z s : State} (h : Keeps z s) (a1 a2 a3) : Keeps z (State.opeStage s a1 a2 a3).1 := by
  unfold State.opeStage
  repeat' (with_reducible first | assumption | apply Keeps.spdWordsRead | apply Keeps.effBankCount | apply Keeps.foldl
                                | apply Keeps.foldl_fst | apply Keeps.foldl_snd | intro _ | split | dsimp only)

theorem Keeps.stepNoted {z s : State} (h : Keeps z s) (a1 a2) : Keeps z (State.stepNoted s a1 a2) := by
  unfold State.stepNoted
  repeat' (with_reducible first | assumption | simp only [Keeps.mk_iff] | intro _ | apply Keeps.ite | split | dsimp only)

theorem Keeps.stepTaken {z s : State} (h : Keeps z s) (a1 a2 a3) : Keeps z (State.stepTaken s a1 a2 a3) := by
  unfold State.stepTaken
  repeat' (with_reducible first | assumption | apply Keeps.cnt | apply Keeps.activity | apply Keeps.progress | apply Keeps.setSlot
                                | apply Keeps.effCnt | apply Keeps.stepNoted | simp only [Keeps.mk_iff] | intro _ | split | dsimp only)

theorem Keeps.opeCells {z s : State} (h : Keeps z s) (a1 a2 a3 a4 a5) : Keeps z (State.opeCells s a1 a2 a3 a4 a5).1 := by
  unfold State.opeCells
  repeat' (with_reducible first | assumption | apply Keeps.opeCell | apply Keeps.foldl | apply Keeps.foldl_fst | apply Keeps.foldl_snd
                                | intro _ | split | dsimp only)

theorem Keeps.periodPass {z s : State} (h : Keeps z s) (a1 a2) : Keeps z (State.periodPass s a1 a2) := by
  unfold State.periodPass
  repeat' (with_reducible first | assumption | apply Keeps.cnt | apply Keeps.onTile | simp only [Keeps.mk_iff] | intro _
                                | apply Keeps.ite | split | dsimp only)

theorem Keeps.opeStep {z s : State} (h : Keeps z s) (a1) : Keeps z (State.opeStep s a1) := by
  unfold State.opeStep
  repeat' (with_reducible first | assumption | apply Keeps.effCnt | apply Keeps.effFlags | apply Keeps.holdAccess | apply Keeps.unhold
                                | apply Keeps.setRun | apply Keeps.opeAbort | apply Keeps.opeAdvance | apply Keeps.opeStage
                                | apply Keeps.stepTaken | apply Keeps.opeCells | apply Keeps.periodPass | simp only [Keeps.mk_iff]
                                | intro _ | apply Keeps.ite | split | dsimp only)

theorem Keeps.drainStart {z s : State} (h : Keeps z s) (a1) : Keeps z (State.drainStart s a1) := by
  unfold State.drainStart
  repeat' (with_reducible first | assumption | apply Keeps.onTile | simp only [Keeps.mk_iff] | intro _ | apply Keeps.ite | split
                                | dsimp only)

theorem Keeps.drainEnd {z s : State} (h : Keeps z s) (a1) : Keeps z (State.drainEnd s a1) := by
  unfold State.drainEnd
  repeat' (with_reducible first | assumption | apply Keeps.onTile | apply Keeps.opeAdvance | simp only [Keeps.mk_iff] | intro _ | split
                                | dsimp only)

theorem Keeps.engineWrite {z s : State} (h : Keeps z s) (a1 a2 a3 a4) : Keeps z (State.engineWrite s a1 a2 a3 a4) := by
  unfold State.engineWrite
  repeat' (with_reducible first | assumption | apply Keeps.onTile | apply Keeps.spdWrite | apply Keeps.foldl | apply Keeps.foldl_fst
                                | apply Keeps.foldl_snd | simp only [Keeps.mk_iff] | intro _ | split | dsimp only)

theorem Keeps.drainAdvance {z s : State} (h : Keeps z s) (a1) : Keeps z (State.drainAdvance s a1) := by
  unfold State.drainAdvance
  repeat' (with_reducible first | assumption | apply Keeps.onTile | apply Keeps.drainEnd | simp only [Keeps.mk_iff] | intro _
                                | apply Keeps.ite | split | dsimp only)

theorem Keeps.drainDefer {z s : State} (h : Keeps z s) (a1 a2 a3) : Keeps z (State.drainDefer s a1 a2 a3) := by
  unfold State.drainDefer
  repeat' (with_reducible first | assumption | apply Keeps.cnt | intro _ | split | dsimp only)

theorem Keeps.drainCount {z s : State} (h : Keeps z s) (a1 a2 a3 a4) : Keeps z (State.drainCount s a1 a2 a3 a4) := by
  unfold State.drainCount
  repeat' (with_reducible first | assumption | apply Keeps.activity | apply Keeps.effFlags | apply Keeps.effHealth | apply Keeps.foldl
                                | apply Keeps.foldl_fst | apply Keeps.foldl_snd | intro _ | split | dsimp only)

theorem Keeps.drainStore {z s : State} (h : Keeps z s) (a1 a2 a3 a4 a5 a6) : Keeps z (State.drainStore s a1 a2 a3 a4 a5 a6) := by
  unfold State.drainStore
  repeat' (with_reducible first | assumption | apply Keeps.onTile | apply Keeps.takeFree | apply Keeps.bankCount
                                | apply Keeps.holdAccess | apply Keeps.unhold | apply Keeps.engineWrite | apply Keeps.drainAdvance
                                | apply Keeps.drainDefer | apply Keeps.drainCount | apply Keeps.foldl | apply Keeps.foldl_fst
                                | apply Keeps.foldl_snd | simp only [Keeps.mk_iff] | intro _ | apply Keeps.ite | split | dsimp only)

theorem Keeps.drainOffer {z s : State} (h : Keeps z s) (a1 a2 a3 a4) : Keeps z (State.drainOffer s a1 a2 a3 a4) := by
  unfold State.drainOffer
  repeat' (with_reducible first | assumption | apply Keeps.onTile | apply Keeps.opeAdvance | apply Keeps.foldl | apply Keeps.foldl_fst
                                | apply Keeps.foldl_snd | simp only [Keeps.mk_iff] | intro _ | split | dsimp only)

theorem Keeps.itemAccepted {z s : State} (h : Keeps z s) (a1 a2) : Keeps z (State.itemAccepted s a1 a2) := by
  unfold State.itemAccepted
  repeat' (with_reducible first | assumption | apply Keeps.cnt | apply Keeps.activity | apply Keeps.onTile | apply Keeps.setFlags
                                | apply Keeps.health | apply Keeps.drainAdvance | apply Keeps.foldl | apply Keeps.foldl_fst
                                | apply Keeps.foldl_snd | simp only [Keeps.mk_iff] | intro _ | split | dsimp only)

theorem Keeps.drainWrite {z s : State} (h : Keeps z s) (a1 a2) : Keeps z (State.drainWrite s a1 a2) := by
  unfold State.drainWrite
  dsimp only
  split
  · exact h
  · split
    · exact h
    · split
      · exact h.drainOffer ..
      · exact h.drainStore ..

theorem Keeps.opeComplete {z s : State} (h : Keeps z s) (a1) : Keeps z (State.opeComplete s a1) := by
  unfold State.opeComplete
  repeat' (with_reducible first | assumption | apply Keeps.onTile | apply Keeps.eff | apply Keeps.effCnt | apply Keeps.event
                                | apply Keeps.tagOver | apply Keeps.opeRefuse | apply Keeps.opeAbort | simp only [Keeps.mk_iff]
                                | intro _ | apply Keeps.ite | split | dsimp only)

/-! ### Machine/Spec.lean -/

theorem Keeps.shadowAccDrop {z s : State} (h : Keeps z s) (a1 a2) : Keeps z (State.shadowAccDrop s a1 a2) := by
  unfold State.shadowAccDrop
  repeat' (with_reducible first | assumption | apply Keeps.onTile | simp only [Keeps.mk_iff] | intro _ | split | dsimp only)

theorem Keeps.shadowDrop {z s : State} (h : Keeps z s) (a1 a2) : Keeps z (State.shadowDrop s a1 a2) := by
  unfold State.shadowDrop
  repeat' (with_reducible first | assumption | apply Keeps.onTile | simp only [Keeps.mk_iff] | intro _ | split | dsimp only)

theorem Keeps.slotFree {z s : State} (h : Keeps z s) (a1 a2) : Keeps z (State.slotFree s a1 a2) := by
  unfold State.slotFree
  repeat' (with_reducible first | assumption | apply Keeps.setSlot | apply Keeps.event | apply Keeps.shadowDrop | intro _ | split
                                | dsimp only)

theorem Keeps.specOpen {z s : State} (h : Keeps z s) (a1) : Keeps z (State.specOpen s a1) := by
  unfold State.specOpen
  repeat' (with_reducible first | assumption | apply Keeps.cnt | apply Keeps.setSlot | apply Keeps.xw | apply Keeps.retire
                                | apply Keeps.coreRow | apply Keeps.shadowAccDrop | apply Keeps.shadowDrop | intro _ | apply Keeps.ite
                                | split | dsimp only)

theorem Keeps.specBegin {z s : State} (h : Keeps z s) (a1) : Keeps z (State.specBegin s a1) := by
  unfold State.specBegin
  repeat' (with_reducible first | assumption | apply Keeps.onCore | apply Keeps.retire | apply Keeps.coreRow | simp only [Keeps.mk_iff]
                                | intro _ | split | dsimp only)

theorem Keeps.specEnd {z s : State} (h : Keeps z s) (a1) : Keeps z (State.specEnd s a1) := by
  unfold State.specEnd
  repeat' (with_reducible first | assumption | apply Keeps.onCore | apply Keeps.retire | apply Keeps.coreRow | simp only [Keeps.mk_iff]
                                | intro _ | split | dsimp only)

theorem Keeps.specWait {z s : State} (h : Keeps z s) (a1) : Keeps z (State.specWait s a1) := by
  unfold State.specWait
  repeat' (with_reducible first | assumption | apply Keeps.retire | apply Keeps.park | apply Keeps.coreRow | intro _ | apply Keeps.ite
                                | split | dsimp only)

theorem Keeps.specWaitReturn {z s : State} (h : Keeps z s) (a1) : Keeps z (State.specWaitReturn s a1) := by
  unfold State.specWaitReturn
  repeat' (with_reducible first | assumption | apply Keeps.retire | intro _ | apply Keeps.ite | split | dsimp only)

theorem Keeps.dropSlot {z s : State} (h : Keeps z s) (a1 a2) : Keeps z (State.dropSlot s a1 a2) := by
  unfold State.dropSlot
  repeat' (with_reducible first | assumption | apply Keeps.cnt | apply Keeps.onTile | apply Keeps.setSlot | simp only [Keeps.mk_iff]
                                | intro _ | split | dsimp only)

theorem Keeps.specTimeout {z s : State} (h : Keeps z s) (a1 a2) : Keeps z (State.specTimeout s a1 a2) := by
  unfold State.specTimeout
  repeat' (with_reducible first | assumption | apply Keeps.cnt | apply Keeps.dropSlot | intro _ | apply Keeps.ite | split | dsimp only)

theorem Keeps.resolveSlot {z s : State} (h : Keeps z s) (a1 a2 a3 a4) : Keeps z (State.resolveSlot s a1 a2 a3 a4) := by
  unfold State.resolveSlot
  repeat' (with_reducible first | assumption | apply Keeps.cnt | apply Keeps.setSlot | apply Keeps.dropSlot | apply Keeps.specTimeout
                                | simp only [Keeps.mk_iff] | intro _ | apply Keeps.ite | split | dsimp only)

theorem Keeps.specResolve {z s : State} (h : Keeps z s) (a1) : Keeps z (State.specResolve s a1) := by
  unfold State.specResolve
  repeat' (with_reducible first | assumption | apply Keeps.retire | apply Keeps.coreRow | apply Keeps.resolveSlot | apply Keeps.foldl
                                | apply Keeps.foldl_fst | apply Keeps.foldl_snd | intro _ | split | dsimp only)

theorem Keeps.specCommit {z s : State} (h : Keeps z s) (a1 a2) : Keeps z (State.specCommit s a1 a2) := by
  unfold State.specCommit
  repeat' (with_reducible first | assumption | apply Keeps.applyHeld | apply Keeps.setSlot | apply Keeps.stepNoted
                                | apply Keeps.shadowAccDrop | apply Keeps.slotFree | apply Keeps.foldl | apply Keeps.foldl_fst
                                | apply Keeps.foldl_snd | simp only [Keeps.mk_iff] | intro _ | apply Keeps.ite | split | dsimp only)

theorem Keeps.specWriteback {z s : State} (h : Keeps z s) (a1 a2 a3) : Keeps z (State.specWriteback s a1 a2 a3) := by
  unfold State.specWriteback
  repeat' (with_reducible first | assumption | apply Keeps.cnt | apply Keeps.onTile | apply Keeps.spdWordMerge | apply Keeps.bankCount
                                | apply Keeps.holdAccess | apply Keeps.deferOnce | apply Keeps.unhold | apply Keeps.slotFree
                                | apply Keeps.foldl | apply Keeps.foldl_fst | apply Keeps.foldl_snd | simp only [Keeps.mk_iff] | intro _
                                | apply Keeps.ite | split | dsimp only)

theorem Keeps.specCancelDone {z s : State} (h : Keeps z s) (a1 a2) : Keeps z (State.specCancelDone s a1 a2) := by
  unfold State.specCancelDone
  repeat' (with_reducible first | assumption | apply Keeps.cnt | apply Keeps.onTile | apply Keeps.opeAdvance | apply Keeps.shadowAccDrop
                                | apply Keeps.slotFree | simp only [Keeps.mk_iff] | intro _ | apply Keeps.ite | split | dsimp only)

/-! ### Machine/Ve.lean -/

theorem Keeps.veTake {z s : State} (h : Keeps z s) (a1) : Keeps z (State.veTake s a1) := by
  unfold State.veTake
  repeat' (with_reducible first | assumption | apply Keeps.onTile | simp only [Keeps.mk_iff] | intro _ | split | dsimp only)

theorem Keeps.veOver {z s : State} (h : Keeps z s) (a1 a2) : Keeps z (State.veOver s a1 a2) := by
  unfold State.veOver
  repeat' (with_reducible first | assumption | apply Keeps.onTile | simp only [Keeps.mk_iff] | intro _ | split | dsimp only)

theorem Keeps.veAccess {z s : State} (h : Keeps z s) (a1 a2 a3) : Keeps z (State.veAccess s a1 a2 a3).1 := by
  unfold State.veAccess
  repeat' (with_reducible first | assumption | apply Keeps.spdWordsRead | apply Keeps.effBankCount | intro _ | split | dsimp only)

theorem Keeps.veReads {z s : State} (h : Keeps z s) (a1 a2 a3) : Keeps z (State.veReads s a1 a2 a3).1 := by
  unfold State.veReads
  repeat' (with_reducible first | assumption | apply Keeps.veAccess | apply Keeps.foldl | apply Keeps.foldl_fst | apply Keeps.foldl_snd
                                | intro _ | split | dsimp only)

theorem Keeps.veExecute {z s : State} (h : Keeps z s) (a1 a2 a3 a4 a5) : Keeps z (State.veExecute s a1 a2 a3 a4 a5) := by
  unfold State.veExecute
  repeat' (with_reducible first | assumption | apply Keeps.activity | apply Keeps.progress | apply Keeps.bankCount | apply Keeps.health
                                | apply Keeps.engineWrite | apply Keeps.veTake | apply Keeps.veOver | apply Keeps.foldl
                                | apply Keeps.foldl_fst | apply Keeps.foldl_snd | intro _ | apply Keeps.ite | split | dsimp only)

theorem Keeps.veRow {z s : State} (h : Keeps z s) (a1 a2) : Keeps z (State.veRow s a1 a2) := by
  unfold State.veRow
  repeat' (with_reducible first | assumption | apply Keeps.holdAccess | apply Keeps.unhold | apply Keeps.veTake | apply Keeps.veOver
                                | apply Keeps.veReads | apply Keeps.veExecute | intro _ | apply Keeps.ite | split | dsimp only)

theorem Keeps.veComplete {z s : State} (h : Keeps z s) (a1) : Keeps z (State.veComplete s a1) := by
  unfold State.veComplete
  repeat' (with_reducible first | assumption | apply Keeps.onTile | apply Keeps.eff | apply Keeps.effCnt | apply Keeps.health
                                | apply Keeps.event | apply Keeps.tagOver | apply Keeps.veTake | apply Keeps.foldl
                                | apply Keeps.foldl_fst | apply Keeps.foldl_snd | simp only [Keeps.mk_iff] | intro _ | apply Keeps.ite
                                | split | dsimp only)

end Sys2Proof.Machine
end

