-- ==== Sys2Proof/Laws/KeepsMemory.lean ====
section
/-! SUPPORT. What the operations of memory accesses, the rings and the hoist do not do (Laws/Keeps.lean says what `Keeps` means). -/
set_option linter.unusedTactic false
set_option linter.unusedSimpArgs false
set_option linter.unreachableTactic false

namespace Sys2Proof.Machine

/-! ### Machine/Memory.lean -/

theorem Keeps.deferred {z s : State} (h : Keeps z s) (a1 a2 a3) : Keeps z (State.deferred s a1 a2 a3) := by
  unfold State.deferred
  repeat' (with_reducible first | assumption | apply Keeps.cnt | apply Keeps.effCnt | intro _ | split | dsimp only)

theorem Keeps.poisonAnswer {z s : State} (h : Keeps z s) (a1) : Keeps z (State.poisonAnswer s a1) := by
  unfold State.poisonAnswer
  repeat' (with_reducible first | assumption | apply Keeps.busFault | simp only [Keeps.mk_iff] | intro _ | split | dsimp only)

theorem Keeps.bankReadDone {z s : State} (h : Keeps z s) (a1 a2 a3 a4) : Keeps z (State.bankReadDone s a1 a2 a3 a4) := by
  unfold State.bankReadDone
  repeat' (with_reducible first | assumption | apply Keeps.onTile | apply Keeps.spdWordsRead | apply Keeps.poisonAnswer
                                | simp only [Keeps.mk_iff] | intro _ | apply Keeps.ite | split | dsimp only)

theorem Keeps.bankFail {z s : State} (h : Keeps z s) (a1 a2 a3) : Keeps z (State.bankFail s a1 a2 a3) := by
  unfold State.bankFail
  repeat' (with_reducible first | assumption | apply Keeps.bump | apply Keeps.onTile | apply Keeps.decodeError
                                | simp only [Keeps.mk_iff] | intro _ | split | dsimp only)

theorem Keeps.bankStore {z s : State} (h : Keeps z s) (a1 a2 a3) : Keeps z (State.bankStore s a1 a2 a3) := by
  unfold State.bankStore
  repeat' (with_reducible first | assumption | apply Keeps.shadowPut | apply Keeps.spdWrite | intro _ | apply Keeps.ite | split
                                | dsimp only)

theorem Keeps.bankPeriod {z s : State} (h : Keeps z s) (a1 a2 a3) : Keeps z (State.bankPeriod s a1 a2 a3) := by
  unfold State.bankPeriod
  repeat' (with_reducible first | assumption | apply Keeps.setBank | apply Keeps.effBankCount | apply Keeps.deferred
                                | apply Keeps.bankReadDone | apply Keeps.bankStore | apply Keeps.foldl | apply Keeps.foldl_fst
                                | apply Keeps.foldl_snd | simp only [Keeps.mk_iff] | intro _ | split | dsimp only)

theorem Keeps.upsetWord {z s : State} (h : Keeps z s) (a1 a2) : Keeps z (State.upsetWord s a1 a2) := by
  unfold State.upsetWord
  repeat' (with_reducible first | assumption | apply Keeps.setMark | apply Keeps.foldl | apply Keeps.foldl_fst | apply Keeps.foldl_snd
                                | dsimp only | intro _ | split)

theorem Keeps.bankBlocked {z s : State} (h : Keeps z s) (a1 a2) : Keeps z (State.bankBlocked s a1 a2) := by
  unfold State.bankBlocked
  repeat' (with_reducible first | assumption | apply Keeps.onTile | apply Keeps.busFault | simp only [Keeps.mk_iff] | intro _
                                | apply Keeps.ite | split | dsimp only)

theorem Keeps.bankAccess {z s : State} (h : Keeps z s) (a1 a2 a3 a4) : Keeps z (State.bankAccess s a1 a2 a3 a4) := by
  unfold State.bankAccess
  repeat' (with_reducible first | assumption | apply Keeps.setBank | apply Keeps.effCnt | apply Keeps.bankFail | apply Keeps.bankPeriod
                                | apply Keeps.upsetWord | apply Keeps.bankBlocked | apply Keeps.foldl | apply Keeps.foldl_fst
                                | apply Keeps.foldl_snd | simp only [Keeps.mk_iff] | intro _ | apply Keeps.ite | split | dsimp only)

theorem Keeps.eccWriteback {z s : State} (h : Keeps z s) (a1 a2 a3) : Keeps z (State.eccWriteback s a1 a2 a3) := by
  unfold State.eccWriteback
  repeat' (with_reducible first | assumption | apply Keeps.cnt | apply Keeps.setBank | apply Keeps.setMark | apply Keeps.bankCount
                                | simp only [Keeps.mk_iff] | intro _ | apply Keeps.ite | split | dsimp only)

theorem Keeps.scrubLine {z s : State} (h : Keeps z s) (a1 a2 a3 a4) : Keeps z (State.scrubLine s a1 a2 a3 a4) := by
  unfold State.scrubLine
  repeat' (with_reducible first | assumption | apply Keeps.cnt | apply Keeps.setBank | apply Keeps.spdWordsRead | apply Keeps.bankCount
                                | apply Keeps.upsetWord | simp only [Keeps.mk_iff] | intro _ | apply Keeps.ite | split | dsimp only)

theorem Keeps.startClear {z s : State} (h : Keeps z s) (a1 a2) : Keeps z (State.startClear s a1 a2) := by
  unfold State.startClear
  repeat' (with_reducible first | assumption | apply Keeps.cnt | apply Keeps.setBank | simp only [Keeps.mk_iff] | intro _
                                | apply Keeps.ite | split | dsimp only)

theorem Keeps.spdClear {z s : State} (h : Keeps z s) (a1 a2) : Keeps z (State.spdClear s a1 a2) := by
  unfold State.spdClear
  repeat' (with_reducible first | assumption | apply Keeps.startClear | intro _ | apply Keeps.ite | split | dsimp only)

theorem Keeps.zeroBank {z s : State} (h : Keeps z s) (a1 a2) : Keeps z (State.zeroBank s a1 a2) :=
  (h.setMem (swf_sdrop _ _)).same rfl rfl rfl rfl rfl rfl rfl rfl

theorem Keeps.clearDone {z s : State} (h : Keeps z s) (a1 a2) : Keeps z (State.clearDone s a1 a2) := by
  unfold State.clearDone
  repeat' (with_reducible first | assumption | apply Keeps.setBank | apply Keeps.zeroBank | simp only [Keeps.mk_iff] | intro _
                                | apply Keeps.ite | split | dsimp only)

theorem Keeps.upsetLine {z s : State} (h : Keeps z s) (a1 a2 a3) : Keeps z (State.upsetLine s a1 a2 a3) := by
  unfold State.upsetLine
  repeat' (with_reducible first | assumption | apply Keeps.setMark | apply Keeps.cnt | apply Keeps.reportHbm | apply Keeps.foldl
                                | apply Keeps.foldl_fst | apply Keeps.foldl_snd | dsimp only | intro _ | split)

theorem Keeps.hbmPerform {z s : State} (h : Keeps z s) (a1 a2 a3) : Keeps z (State.hbmPerform s a1 a2 a3) := by
  unfold State.hbmPerform
  repeat' (with_reducible first | assumption | apply Keeps.cnt | apply Keeps.hbmLineWrite | apply Keeps.hbmLineFetch
                                | apply Keeps.decodeError | apply Keeps.poisonAnswer | apply Keeps.upsetLine | simp only [Keeps.mk_iff]
                                | intro _ | apply Keeps.ite | split | dsimp only)

theorem Keeps.hbmAccess {z s : State} (h : Keeps z s) (a1 a2 a3) : Keeps z (State.hbmAccess s a1 a2 a3) := by
  unfold State.hbmAccess
  repeat' (with_reducible first | assumption | apply Keeps.busFault | apply Keeps.hbmPerform | simp only [Keeps.mk_iff] | intro _
                                | apply Keeps.ite | split | dsimp only)

theorem Keeps.hbmRefresh {z s : State} (h : Keeps z s) (a1) : Keeps z (State.hbmRefresh s a1) := by
  unfold State.hbmRefresh
  repeat' (with_reducible first | assumption | apply Keeps.cnt | intro _ | apply Keeps.ite | split | dsimp only)

theorem Keeps.hbmScrub {z s : State} (h : Keeps z s) (a1 a2) : Keeps z (State.hbmScrub s a1 a2) := by
  unfold State.hbmScrub
  repeat' (with_reducible first | assumption | apply Keeps.cnt | apply Keeps.activity | apply Keeps.hbmLineRead | apply Keeps.onHbmc
                                | apply Keeps.scrubLine | apply Keeps.upsetLine | simp only [Keeps.mk_iff] | intro _ | apply Keeps.ite
                                | split | dsimp only)

theorem Keeps.hbmTrain {z s : State} (h : Keeps z s) (a1) : Keeps z (State.hbmTrain s a1) := by
  unfold State.hbmTrain
  repeat' (with_reducible first | assumption | apply Keeps.irq | apply Keeps.onHbmc | simp only [Keeps.mk_iff] | intro _
                                | apply Keeps.ite | split | dsimp only)

theorem Keeps.bandStore {z s : State} (h : Keeps z s) (a1 a2) : Keeps z (State.bandStore s a1 a2) := by
  unfold State.bandStore
  repeat' (with_reducible first | assumption | apply Keeps.wr | intro _ | split | dsimp only)

theorem Keeps.bandRelease {z s : State} (h : Keeps z s) (a1) : Keeps z (State.bandRelease s a1) := by
  unfold State.bandRelease
  repeat' (with_reducible first | assumption | apply Keeps.hbmPerform | apply Keeps.foldl | apply Keeps.foldl_fst
                                | apply Keeps.foldl_snd | simp only [Keeps.mk_iff] | intro _ | split | dsimp only)

theorem Keeps.bandRequest {z s : State} (h : Keeps z s) (a1 a2) : Keeps z (State.bandRequest s a1 a2) := by
  unfold State.bandRequest
  repeat' (with_reducible first | assumption | apply Keeps.bandStore | apply Keeps.bandRelease | simp only [Keeps.mk_iff] | intro _
                                | apply Keeps.ite | split | dsimp only)

theorem Keeps.bandModeWrite {z s : State} (h : Keeps z s) (a1 a2) : Keeps z (State.bandModeWrite s a1 a2) := by
  unfold State.bandModeWrite
  repeat' (with_reducible first | assumption | apply Keeps.bandRequest | apply Keeps.foldl | apply Keeps.foldl_fst
                                | apply Keeps.foldl_snd | intro _ | apply Keeps.ite | split | dsimp only)

theorem Keeps.bandSwitch {z s : State} (h : Keeps z s) : Keeps z (State.bandSwitch s) := by
  unfold State.bandSwitch
  repeat' (with_reducible first | assumption | apply Keeps.bump | apply Keeps.bandRelease | intro _ | split | dsimp only)

theorem Keeps.unitRead {z s : State} (h : Keeps z s) (a1 a2 a3) : Keeps z (State.unitRead s a1 a2 a3).1 := by
  unfold State.unitRead
  repeat' (with_reducible first | assumption | apply Keeps.spdWordsRead | apply Keeps.hbmLineFetch | intro _ | split | dsimp only)

theorem Keeps.unitWrite {z s : State} (h : Keeps z s) (a1 a2 a3) : Keeps z (State.unitWrite s a1 a2 a3) := by
  unfold State.unitWrite
  repeat' (with_reducible first | assumption | apply Keeps.spdWrite | apply Keeps.hbmLineWrite | intro _ | split | dsimp only)

theorem Keeps.spanCount {z s : State} (h : Keeps z s) (a1 a2 a3) : Keeps z (State.spanCount s a1 a2 a3) := by
  unfold State.spanCount
  repeat' (with_reducible first | assumption | apply Keeps.bankCount | apply Keeps.foldl | apply Keeps.foldl_fst | apply Keeps.foldl_snd
                                | intro _ | apply Keeps.ite | split | dsimp only)

theorem Keeps.lineDefer {z s : State} (h : Keeps z s) (a1 a2 a3 a4) : Keeps z (State.lineDefer s a1 a2 a3 a4) := by
  unfold State.lineDefer
  repeat' (with_reducible first | assumption | apply Keeps.cnt | apply Keeps.foldl | apply Keeps.foldl_fst | apply Keeps.foldl_snd
                                | intro _ | apply Keeps.ite | split | dsimp only)

theorem Keeps.spanRead {z s : State} (h : Keeps z s) (a1 a2 a3) : Keeps z (State.spanRead s a1 a2 a3).1 := by
  unfold State.spanRead
  repeat' (with_reducible first | assumption | apply Keeps.unitRead | apply Keeps.spanCount | apply Keeps.foldl | apply Keeps.foldl_fst
                                | apply Keeps.foldl_snd | intro _ | split | dsimp only)

theorem Keeps.spanWrite {z s : State} (h : Keeps z s) (a1 a2 a3 a4) : Keeps z (State.spanWrite s a1 a2 a3 a4) := by
  unfold State.spanWrite
  repeat' (with_reducible first | assumption | apply Keeps.unitWrite | apply Keeps.spanCount | apply Keeps.foldl | apply Keeps.foldl_fst
                                | apply Keeps.foldl_snd | intro _ | split | dsimp only)

/-! ### Machine/Rings.lean -/

theorem Keeps.stopFlits {z s : State} (h : Keeps z s) (a1 a2) : Keeps z (State.stopFlits s a1 a2) := by
  unfold State.stopFlits
  repeat' (with_reducible first | assumption | apply Keeps.cnt | apply Keeps.activity | intro _ | split | dsimp only)

theorem Keeps.lineFlits {z s : State} (h : Keeps z s) (a1 a2 a3 a4) : Keeps z (State.lineFlits s a1 a2 a3 a4) := by
  unfold State.lineFlits
  repeat' (with_reducible first | assumption | apply Keeps.stopFlits | apply Keeps.foldl | apply Keeps.foldl_fst | apply Keeps.foldl_snd
                                | intro _ | apply Keeps.ite | split | dsimp only)

/-! ### Machine/Hoist.lean -/

theorem Keeps.hoistDefer {z s : State} (h : Keeps z s) (a1 a2 a3) : Keeps z (State.hoistDefer s a1 a2 a3) := by
  unfold State.hoistDefer
  repeat' (with_reducible first | assumption | apply Keeps.lineDefer | intro _ | apply Keeps.ite | split | dsimp only)

theorem Keeps.hoistRead {z s : State} (h : Keeps z s) (a1 a2 a3) : Keeps z (State.hoistRead s a1 a2 a3) := by
  unfold State.hoistRead
  repeat' (with_reducible first | assumption | apply Keeps.cnt | apply Keeps.spanRead | apply Keeps.lineFlits | apply Keeps.hoistDefer
                                | intro _ | split | dsimp only)

theorem Keeps.hoistWrite {z s : State} (h : Keeps z s) (a1 a2 a3 a4) : Keeps z (State.hoistWrite s a1 a2 a3 a4) := by
  unfold State.hoistWrite
  repeat' (with_reducible first | assumption | apply Keeps.cnt | apply Keeps.progress | apply Keeps.spanWrite | apply Keeps.lineFlits
                                | apply Keeps.hoistDefer | intro _ | split | dsimp only)

theorem Keeps.indexList {z s : State} (h : Keeps z s) (a1 a2) : Keeps z (State.indexList s a1 a2).1 := by
  unfold State.indexList
  repeat' (with_reducible first | assumption | apply Keeps.hoistRead | intro _ | apply Keeps.ite | apply Keeps.ite_fst | split
                                | dsimp only)

theorem Keeps.Move_poison {z : State} {m : Move} (h : Keeps z m.s) (a) : Keeps z (m.poison a).s := h

theorem Keeps.Move_halt {z : State} {m : Move} (h : Keeps z m.s) (t a) : Keeps z (m.halt t a).s := by
  unfold Move.halt
  repeat' (with_reducible first | assumption | apply Keeps.cnt | apply Keeps.decodeError | apply Keeps.reach | apply Keeps.foldl
                                | apply Keeps.foldl_fst | apply Keeps.foldl_snd | apply Keeps.foldl_move | apply Keeps.foldl_move_fst
                                | dsimp only | intro _ | split)

theorem Keeps.Move_copy {z : State} {m : Move} (h : Keeps z m.s) (s0 rs pk t a b n) : Keeps z (m.copy s0 rs pk t a b n).s := by
  unfold Move.copy
  repeat' (with_reducible first | assumption | apply Keeps.Move_halt | apply Keeps.Move_poison | apply Keeps.hoistWrite
                                | apply Keeps.hoistRead | apply Keeps.foldl | apply Keeps.foldl_fst | apply Keeps.foldl_snd
                                | apply Keeps.foldl_move | apply Keeps.foldl_move_fst | dsimp only | intro _ | split)

theorem Keeps.Move_fill {z : State} {m : Move} (h : Keeps z m.s) (t d n p) : Keeps z (m.fill t d n p).s := by
  unfold Move.fill
  repeat' (with_reducible first | assumption | apply Keeps.Move_halt | apply Keeps.Move_poison | apply Keeps.hoistWrite
                                | apply Keeps.foldl | apply Keeps.foldl_fst | apply Keeps.foldl_snd | apply Keeps.foldl_move
                                | apply Keeps.foldl_move_fst | dsimp only | intro _ | split)

theorem Keeps.sendChunks {z : State} (t f n) {p : Move × List Nat} (h : Keeps z p.1.s) (a b k) :
    Keeps z (Move.sendChunks t f n p a b k).1.s := by
  induction n generalizing p a b k with
  | zero => exact h
  | succ n ih =>
    obtain ⟨m, tags⟩ := p
    unfold Move.sendChunks
    repeat' (with_reducible first | assumption | apply ih | apply Keeps.Move_halt | apply Keeps.Move_poison | apply Keeps.cnt
                                  | apply Keeps.progress | apply Keeps.send | apply Keeps.onTile | apply Keeps.hoistRead
                                  | apply Keeps.foldl | apply Keeps.foldl_fst | apply Keeps.foldl_snd | apply Keeps.foldl_move
                                  | apply Keeps.foldl_move_fst | dsimp only | intro _ | split)

theorem Keeps.hoistCopy {z s : State} (h : Keeps z s) (t f) : Keeps z (hoistCopy s t f).1.s := by
  unfold Sys2Proof.Machine.hoistCopy
  repeat' (with_reducible first | assumption | apply Keeps.sendChunks | apply Keeps.Move_copy | apply Keeps.takeFree | apply Keeps.foldl
                                | apply Keeps.foldl_fst | apply Keeps.foldl_snd | apply Keeps.foldl_move | apply Keeps.foldl_move_fst
                                | dsimp only | intro _ | split)

theorem Keeps.indexEnd {z : State} {m : Move} (h : Keeps z m.s) (s t f) : Keeps z (m.indexEnd s t f).s := by
  unfold Move.indexEnd
  repeat' (with_reducible first | assumption | apply Keeps.Move_halt | apply Keeps.foldl | apply Keeps.foldl_fst | apply Keeps.foldl_snd
                                | apply Keeps.foldl_move | apply Keeps.foldl_move_fst | dsimp only | intro _ | split)

theorem Keeps.Move_oor {z : State} {m : Move} (h : Keeps z m.s) (t) : Keeps z (m.oor t).s := by
  unfold Move.oor
  repeat' (with_reducible first | assumption | apply Keeps.cnt | apply Keeps.foldl | apply Keeps.foldl_fst | apply Keeps.foldl_snd
                                | apply Keeps.foldl_move | apply Keeps.foldl_move_fst | dsimp only | intro _ | split)

theorem Keeps.hoistGather {z s : State} (h : Keeps z s) (t f) : Keeps z (hoistGather s t f).s := by
  unfold Sys2Proof.Machine.hoistGather
  repeat' (with_reducible first | assumption | apply Keeps.indexEnd | apply Keeps.Move_copy | apply Keeps.Move_fill
                                | apply Keeps.Move_oor | apply Keeps.takeFree | apply Keeps.indexList | apply Keeps.foldl
                                | apply Keeps.foldl_fst | apply Keeps.foldl_snd | apply Keeps.foldl_move | apply Keeps.foldl_move_fst
                                | dsimp only | intro _ | split)

theorem Keeps.Move_repeated {z : State} {m : Move} (h : Keeps z m.s) (t l n) : Keeps z (m.repeated t l n).s := by
  unfold Move.repeated
  repeat' (with_reducible first | assumption | apply Keeps.cnt | apply Keeps.foldl | apply Keeps.foldl_fst | apply Keeps.foldl_snd
                                | apply Keeps.foldl_move | apply Keeps.foldl_move_fst | dsimp only | intro _ | split)

theorem Keeps.hoistScatterPlain {z : State} (s t f) {ix : State × List IdxEntry} (h : Keeps z ix.1) : Keeps z (hoistScatterPlain s t f ix).s := by
  unfold Sys2Proof.Machine.hoistScatterPlain
  repeat' (with_reducible first | assumption | apply Keeps.Move_repeated | apply Keeps.Move_copy | apply Keeps.Move_poison
                                | apply Keeps.Move_oor | apply Keeps.takeFree | apply Keeps.foldl | apply Keeps.foldl_fst
                                | apply Keeps.foldl_snd | apply Keeps.foldl_move | apply Keeps.foldl_move_fst | dsimp only | intro _
                                | split)

theorem Keeps.Move_segment {z : State} {m : Move} (h : Keeps z m.s) (s0 rs t f n r k) : Keeps z (m.segment s0 rs t f n r k).s := by
  unfold Move.segment
  repeat' (with_reducible first | assumption | apply Keeps.Move_halt | apply Keeps.Move_poison | apply Keeps.hoistWrite
                                | apply Keeps.hoistRead | apply Keeps.setFlags | apply Keeps.health | apply Keeps.foldl
                                | apply Keeps.foldl_fst | apply Keeps.foldl_snd | apply Keeps.foldl_move | apply Keeps.foldl_move_fst
                                | simp only [Keeps.mk_iff] | dsimp only | intro _ | split)

theorem Keeps.hoistScatterRed {z : State} (s0 t f) {ix : State × List IdxEntry} (h : Keeps z ix.1) : Keeps z (hoistScatterRed s0 t f ix).s := by
  unfold Sys2Proof.Machine.hoistScatterRed
  repeat' (with_reducible first | assumption | apply Keeps.Move_repeated | apply Keeps.Move_segment | apply Keeps.Move_poison
                                | apply Keeps.Move_oor | apply Keeps.foldl | apply Keeps.foldl_fst | apply Keeps.foldl_snd
                                | apply Keeps.foldl_move | apply Keeps.foldl_move_fst | dsimp only | intro _ | split)

theorem Keeps.hoistScatter {z s : State} (h : Keeps z s) (t f) : Keeps z (hoistScatter s t f).s := by
  unfold Sys2Proof.Machine.hoistScatter
  repeat' (with_reducible first | assumption | apply Keeps.indexEnd | apply Keeps.hoistScatterPlain | apply Keeps.hoistScatterRed
                                | apply Keeps.indexList | apply Keeps.foldl | apply Keeps.foldl_fst | apply Keeps.foldl_snd
                                | apply Keeps.foldl_move | apply Keeps.foldl_move_fst | dsimp only | intro _ | split)

theorem Keeps.holdAt {z s : State} (h : Keeps z s) (a1 a2 a3) : Keeps z (State.holdAt s a1 a2 a3) := by
  unfold State.holdAt
  repeat' (with_reducible first | assumption | apply Keeps.cnt | apply Keeps.onTile | simp only [Keeps.mk_iff] | intro _
                                | apply Keeps.ite | split | dsimp only)

theorem Keeps.holdSpans {z s : State} (h : Keeps z s) (a1 a2 a3) : Keeps z (State.holdSpans s a1 a2 a3) := by
  unfold State.holdSpans
  repeat' (with_reducible first | assumption | apply Keeps.holdAt | apply Keeps.foldl | apply Keeps.foldl_fst | apply Keeps.foldl_snd
                                | intro _ | split | dsimp only)

theorem Keeps.hoistBegin {z s : State} (h : Keeps z s) (a1 a2) : Keeps z (State.hoistBegin s a1 a2) := by
  unfold State.hoistBegin
  repeat' (with_reducible first | assumption | apply Keeps.onTile | apply Keeps.qDropHead | simp only [Keeps.mk_iff] | intro _ | split
                                | dsimp only)

theorem Keeps.hoistMove {z s : State} (h : Keeps z s) (a1 a2) : Keeps z (State.hoistMove s a1 a2).1.s := by
  unfold State.hoistMove
  split
  · exact h.hoistCopy ..
  · dsimp only
    split
    · exact h.hoistGather ..
    · exact h.hoistScatter ..

theorem Keeps.hoistSet {z s : State} (h : Keeps z s) (a1 a2) : Keeps z (State.hoistSet s a1 a2) := by
  unfold State.hoistSet
  repeat' (with_reducible first | assumption | apply Keeps.onTile | simp only [Keeps.mk_iff] | intro _ | apply Keeps.ite | split
                                | dsimp only)

theorem Keeps.hoistTake {z s : State} (h : Keeps z s) (a1 a2 a3) : Keeps z (State.hoistTake s a1 a2 a3) := by
  unfold State.hoistTake
  repeat' (with_reducible first | assumption | apply Keeps.bankCount | apply Keeps.spdRead | apply Keeps.holdAccess | apply Keeps.unhold
                                | apply Keeps.holdSpans | apply Keeps.hoistBegin | apply Keeps.hoistMove | intro _ | apply Keeps.ite
                                | split | dsimp only)

theorem Keeps.hoistRow {z s : State} (h : Keeps z s) (a1 a2) : Keeps z (State.hoistRow s a1 a2) := by
  unfold State.hoistRow
  repeat' (with_reducible first | assumption | apply Keeps.unhold | apply Keeps.hoistMove | apply Keeps.hoistSet | apply Keeps.hoistTake
                                | intro _ | apply Keeps.ite | split | dsimp only)

theorem Keeps.hoistRecord {z s : State} (h : Keeps z s) (a1 a2) : Keeps z (State.hoistRecord s a1 a2) := by
  unfold State.hoistRecord
  repeat' (with_reducible first | assumption | apply Keeps.wr | apply Keeps.reportTile | apply Keeps.irq | intro _ | apply Keeps.ite
                                | split | dsimp only)

theorem Keeps.hoistFinish {z s : State} (h : Keeps z s) (a1 a2) : Keeps z (State.hoistFinish s a1 a2) := by
  unfold State.hoistFinish
  repeat' (with_reducible first | assumption | apply Keeps.cnt | apply Keeps.onTile | apply Keeps.signal | apply Keeps.event
                                | apply Keeps.hoistRecord | simp only [Keeps.mk_iff] | intro _ | apply Keeps.ite | split | dsimp only)

theorem Keeps.hoistComplete {z s : State} (h : Keeps z s) (a1 a2) : Keeps z (State.hoistComplete s a1 a2) := by
  unfold State.hoistComplete
  repeat' (with_reducible first | assumption | apply Keeps.hoistFinish | intro _ | apply Keeps.ite | split | dsimp only)

theorem Keeps.hoistTimeout {z s : State} (h : Keeps z s) (a1 a2) : Keeps z (State.hoistTimeout s a1 a2) := by
  unfold State.hoistTimeout
  repeat' (with_reducible first | assumption | apply Keeps.hoistFinish | simp only [Keeps.mk_iff] | intro _ | apply Keeps.ite | split
                                | dsimp only)

end Sys2Proof.Machine
end

