-- ==== Sys2Proof/Laws/KeepsFabric.lean ====
section
/-! SUPPORT. What the operations of packets, ports, routing and time do not do (Laws/Keeps.lean says what `Keeps` means). -/
set_option linter.unusedTactic false
set_option linter.unusedSimpArgs false
set_option linter.unreachableTactic false

namespace Sys2Proof.Machine

/-! ### Machine/Packets.lean -/

theorem Keeps.netTake {z s s' : State} {a : Arrival} {ty n p} (hn : State.netTake s ty n p = some (a, s')) (h : Keeps z s) : Keeps z s' := by
  unfold State.netTake at hn
  dsimp only at hn
  repeat' split at hn
  all_goals first | cases hn; exact h.same rfl rfl rfl rfl rfl rfl rfl rfl | cases hn

theorem Keeps.netHold {z s : State} (h : Keeps z s) (a1 a2 a3 a4) : Keeps z (State.netHold s a1 a2 a3 a4) := by
  unfold State.netHold
  repeat' (with_reducible first | assumption | apply Keeps.cnt | simp only [Keeps.mk_iff] | intro _ | apply Keeps.ite | split
                                | dsimp only)

theorem Keeps.netHoldAt {z s : State} (h : Keeps z s) (a1 a2 a3 a4) : Keeps z (State.netHoldAt s a1 a2 a3 a4) := by
  unfold State.netHoldAt
  repeat' (with_reducible first | assumption | apply Keeps.cnt | apply Keeps.foldl | apply Keeps.foldl_fst | apply Keeps.foldl_snd
                                | simp only [Keeps.mk_iff] | intro _ | apply Keeps.ite | split | dsimp only)

theorem Keeps.postReceive {z s : State} (h : Keeps z s) (a1) : Keeps z (State.postReceive s a1) := by
  unfold State.postReceive
  repeat' (with_reducible first | assumption | apply Keeps.cnt | apply Keeps.qAdmit | apply Keeps.netHold
                                | (apply Keeps.netTake <;> assumption) | intro _ | apply Keeps.ite | split | dsimp only)

theorem Keeps.signalReceive {z s : State} (h : Keeps z s) (a1) : Keeps z (State.signalReceive s a1) := by
  unfold State.signalReceive
  repeat' (with_reducible first | assumption | apply Keeps.cnt | apply Keeps.semAdd | (apply Keeps.netTake <;> assumption) | intro _
                                | apply Keeps.ite | split | dsimp only)

theorem Keeps.reply {z s : State} (h : Keeps z s) (a1 a2) : Keeps z (State.reply s a1 a2) := by
  unfold State.reply
  repeat' (with_reducible first | assumption | apply Keeps.send | simp only [Keeps.mk_iff] | intro _ | split | dsimp only)

theorem Keeps.writeError {z s : State} (h : Keeps z s) (a1 a2) : Keeps z (State.writeError s a1 a2) := by
  unfold State.writeError
  repeat' (with_reducible first | assumption | apply Keeps.onTile | simp only [Keeps.mk_iff] | intro _ | apply Keeps.ite | split
                                | dsimp only)

theorem Keeps.writeFail {z s : State} (h : Keeps z s) (a1 a2) : Keeps z (State.writeFail s a1 a2) := by
  unfold State.writeFail
  repeat' (with_reducible first | assumption | apply Keeps.cnt | apply Keeps.report | apply Keeps.decodeError | apply Keeps.reach
                                | apply Keeps.writeError | intro _ | apply Keeps.ite | split | dsimp only)

theorem Keeps.writeReceive {z s : State} (h : Keeps z s) (a1) : Keeps z (State.writeReceive s a1) := by
  unfold State.writeReceive
  repeat' (with_reducible first | assumption | apply Keeps.cnt | apply Keeps.unitWrite | apply Keeps.spanCount | apply Keeps.lineDefer
                                | apply Keeps.netHoldAt | apply Keeps.reply | apply Keeps.writeFail
                                | (apply Keeps.netTake <;> assumption) | apply Keeps.foldl | apply Keeps.foldl_fst
                                | apply Keeps.foldl_snd | intro _ | apply Keeps.ite | split | dsimp only)

theorem Keeps.ackReceive {z s : State} (h : Keeps z s) (a1) : Keeps z (State.ackReceive s a1) := by
  unfold State.ackReceive
  repeat' (with_reducible first | assumption | apply Keeps.cnt | apply Keeps.bump | apply Keeps.onTile
                                | (apply Keeps.netTake <;> assumption) | simp only [Keeps.mk_iff] | intro _ | apply Keeps.ite | split
                                | dsimp only)

theorem Keeps.readOver {z s : State} (h : Keeps z s) (a1 a2 a3 a4 a5) : Keeps z (State.readOver s a1 a2 a3 a4 a5) := by
  unfold State.readOver
  repeat' (with_reducible first | assumption | apply Keeps.onTile | simp only [Keeps.mk_iff] | intro _ | split | dsimp only)

theorem Keeps.readReceive {z s : State} (h : Keeps z s) (a1) : Keeps z (State.readReceive s a1) := by
  unfold State.readReceive
  repeat' (with_reducible first | assumption | apply Keeps.cnt | apply Keeps.decodeError | apply Keeps.reach | apply Keeps.lineDefer
                                | apply Keeps.spanRead | apply Keeps.netHoldAt | apply Keeps.reply | apply Keeps.readOver
                                | (apply Keeps.netTake <;> assumption) | intro _ | apply Keeps.ite | split | dsimp only)

theorem Keeps.readDataReceive {z s : State} (h : Keeps z s) (a1) : Keeps z (State.readDataReceive s a1) := by
  unfold State.readDataReceive
  repeat' (with_reducible first | assumption | apply Keeps.cnt | apply Keeps.readOver | (apply Keeps.netTake <;> assumption) | intro _
                                | apply Keeps.ite | split | dsimp only)

theorem Keeps.qcfgWrite {z s : State} (h : Keeps z s) (a1 a2 a3) : Keeps z (State.qcfgWrite s a1 a2 a3) := by
  unfold State.qcfgWrite
  repeat' (with_reducible first | assumption | apply Keeps.wr | apply Keeps.cnt | apply Keeps.store | intro _ | apply Keeps.ite | split
                                | dsimp only)

theorem Keeps.semWrite {z s : State} (h : Keeps z s) (a1 a2 a3) : Keeps z (State.semWrite s a1 a2 a3) := by
  unfold State.semWrite
  repeat' (with_reducible first | assumption | apply Keeps.wr | intro _ | split | dsimp only)

/-! ### Machine/Ports.lean -/

theorem Keeps.setPort {z s : State} (h : Keeps z s) (a1 a2) : Keeps z (State.setPort s a1 a2) := by
  unfold State.setPort
  repeat' (with_reducible first | assumption | simp only [Keeps.mk_iff] | intro _ | split | dsimp only)

theorem Keeps.onPort {z s : State} (h : Keeps z s) (a1 a2) : Keeps z (State.onPort s a1 a2) := by
  unfold State.onPort
  repeat' (with_reducible first | assumption | apply Keeps.setPort | intro _ | split | dsimp only)

theorem Keeps.portMode {z s : State} (h : Keeps z s) (a1 a2) : Keeps z (State.portMode s a1 a2) := by
  unfold State.portMode
  repeat' (with_reducible first | assumption | apply Keeps.irq | apply Keeps.onPort | simp only [Keeps.mk_iff] | intro _
                                | apply Keeps.ite | split | dsimp only)

theorem Keeps.sendSeq {z s : State} (h : Keeps z s) (a1 a2 a3 a4 a5 a6 a7) : Keeps z (State.sendSeq s a1 a2 a3 a4 a5 a6 a7) := by
  unfold State.sendSeq
  repeat' (with_reducible first | assumption | apply Keeps.activity | apply Keeps.setPort | simp only [Keeps.mk_iff] | intro _
                                | apply Keeps.ite | split | dsimp only)

theorem Keeps.sendCtrl {z s : State} (h : Keeps z s) (a1 a2) : Keeps z (State.sendCtrl s a1 a2) := by
  unfold State.sendCtrl
  repeat' (with_reducible first | assumption | apply Keeps.cnt | apply Keeps.activity | apply Keeps.takeFree | apply Keeps.onPort
                                | simp only [Keeps.mk_iff] | intro _ | apply Keeps.ite | split | dsimp only)

theorem Keeps.sendNext {z s : State} (h : Keeps z s) (a1 a2 a3) : Keeps z (State.sendNext s a1 a2 a3) := by
  unfold State.sendNext
  repeat' (with_reducible first | assumption | apply Keeps.cnt | apply Keeps.onPort | apply Keeps.sendSeq | simp only [Keeps.mk_iff]
                                | intro _ | apply Keeps.ite | split | dsimp only)

theorem Keeps.sendUp {z s : State} (h : Keeps z s) (a1) : Keeps z (State.sendUp s a1) := by
  unfold State.sendUp
  repeat' (with_reducible first | assumption | apply Keeps.cnt | apply Keeps.activity | apply Keeps.setPort | apply Keeps.onPort
                                | apply Keeps.sendSeq | apply Keeps.sendNext | simp only [Keeps.mk_iff] | intro _ | apply Keeps.ite
                                | split | dsimp only)

theorem Keeps.enterUp {z s : State} (h : Keeps z s) (a1 a2) : Keeps z (State.enterUp s a1 a2) := by
  unfold State.enterUp
  repeat' (with_reducible first | assumption | apply Keeps.onPort | apply Keeps.portMode | apply Keeps.foldl | apply Keeps.foldl_fst
                                | apply Keeps.foldl_snd | simp only [Keeps.mk_iff] | intro _ | split | dsimp only)

theorem Keeps.initOver {z s : State} (h : Keeps z s) (a1) : Keeps z (State.initOver s a1) := by
  unfold State.initOver
  repeat' (with_reducible first | assumption | apply Keeps.enterUp | intro _ | apply Keeps.ite | split | dsimp only)

theorem Keeps.flitTransmit {z s : State} (h : Keeps z s) (a1) : Keeps z (State.flitTransmit s a1) := by
  unfold State.flitTransmit
  repeat' (with_reducible first | assumption | apply Keeps.onPort | apply Keeps.sendCtrl | apply Keeps.sendUp | apply Keeps.initOver
                                | simp only [Keeps.mk_iff] | intro _ | apply Keeps.ite | split | dsimp only)

theorem Keeps.owe {z s : State} (h : Keeps z s) (a1 a2 a3) : Keeps z (State.owe s a1 a2 a3) := by
  unfold State.owe
  repeat' (with_reducible first | assumption | apply Keeps.onPort | simp only [Keeps.mk_iff] | intro _ | split | dsimp only)

theorem Keeps.growOpen {z s : State} (h : Keeps z s) (a1 a2 a3) : Keeps z (State.growOpen s a1 a2 a3) := by
  unfold State.growOpen
  repeat' (with_reducible first | assumption | apply Keeps.cnt | apply Keeps.onPort | simp only [Keeps.mk_iff] | intro _
                                | apply Keeps.ite | split | dsimp only)

theorem Keeps.dropShort {z s : State} (h : Keeps z s) (a1 a2) : Keeps z (State.dropShort s a1 a2) := by
  unfold State.dropShort
  repeat' (with_reducible first | assumption | apply Keeps.bump | apply Keeps.onPort | apply Keeps.owe | apply Keeps.foldl
                                | apply Keeps.foldl_fst | apply Keeps.foldl_snd | intro _ | split | dsimp only)

theorem Keeps.dropLong {z s : State} (h : Keeps z s) (a1 a2) : Keeps z (State.dropLong s a1 a2) := by
  unfold State.dropLong
  repeat' (with_reducible first | assumption | apply Keeps.bump | apply Keeps.onPort | apply Keeps.owe | simp only [Keeps.mk_iff]
                                | intro _ | split | dsimp only)

theorem Keeps.acceptFlit {z s : State} (h : Keeps z s) (a1 a2 a3 a4 a5) : Keeps z (State.acceptFlit s a1 a2 a3 a4 a5) := by
  unfold State.acceptFlit
  repeat' (with_reducible first | assumption | apply Keeps.cnt | apply Keeps.onPort | apply Keeps.owe | apply Keeps.growOpen
                                | apply Keeps.dropShort | apply Keeps.dropLong | simp only [Keeps.mk_iff] | intro _ | apply Keeps.ite
                                | split | dsimp only)

theorem Keeps.downRecord {z s : State} (h : Keeps z s) (a1 a2) : Keeps z (State.downRecord s a1 a2) := by
  unfold State.downRecord
  repeat' (with_reducible first | assumption | apply Keeps.wr | intro _ | apply Keeps.ite | split | dsimp only)

theorem Keeps.recordTake {z s : State} (h : Keeps z s) (a1) : Keeps z (State.recordTake s a1) := by
  unfold State.recordTake
  repeat' (with_reducible first | assumption | apply Keeps.setPort | apply Keeps.acceptFlit | apply Keeps.foldl | apply Keeps.foldl_fst
                                | apply Keeps.foldl_snd | simp only [Keeps.mk_iff] | intro _ | split | dsimp only)

theorem Keeps.portDiscard {z s : State} (h : Keeps z s) (a1) : Keeps z (State.portDiscard s a1) := by
  unfold State.portDiscard
  repeat' (with_reducible first | assumption | apply Keeps.cnt | apply Keeps.setPort | apply Keeps.recordTake | simp only [Keeps.mk_iff]
                                | intro _ | apply Keeps.ite | split | dsimp only)

theorem Keeps.linkLost {z s : State} (h : Keeps z s) (a1) : Keeps z (State.linkLost s a1) := by
  unfold State.linkLost
  repeat' (with_reducible first | assumption | apply Keeps.wr | apply Keeps.setPort | simp only [Keeps.mk_iff] | intro _
                                | apply Keeps.ite | split | dsimp only)

theorem Keeps.linkDown {z s : State} (h : Keeps z s) (a1 a2) : Keeps z (State.linkDown s a1 a2) := by
  unfold State.linkDown
  repeat' (with_reducible first | assumption | apply Keeps.cnt | apply Keeps.report | apply Keeps.onPort | apply Keeps.portMode
                                | apply Keeps.sendCtrl | apply Keeps.downRecord | apply Keeps.portDiscard | apply Keeps.linkLost
                                | simp only [Keeps.mk_iff] | intro _ | apply Keeps.ite | split | dsimp only)

theorem Keeps.portFail {z s : State} (h : Keeps z s) (a1 a2) : Keeps z (State.portFail s a1 a2) := by
  unfold State.portFail
  repeat' (with_reducible first | assumption | apply Keeps.wr | apply Keeps.linkDown | intro _ | apply Keeps.ite | split | dsimp only)

theorem Keeps.takeAck {z s : State} (h : Keeps z s) (a1 a2) : Keeps z (State.takeAck s a1 a2) := by
  unfold State.takeAck
  repeat' (with_reducible first | assumption | apply Keeps.setPort | simp only [Keeps.mk_iff] | intro _ | apply Keeps.ite | split
                                | dsimp only)

theorem Keeps.discardFlit {z s : State} (h : Keeps z s) (a1) : Keeps z (State.discardFlit s a1) := by
  unfold State.discardFlit
  repeat' (with_reducible first | assumption | apply Keeps.setPort | simp only [Keeps.mk_iff] | intro _ | apply Keeps.ite | split
                                | dsimp only)

theorem Keeps.fecCount {z s : State} (h : Keeps z s) (a1 a2) : Keeps z (State.fecCount s a1 a2) := by
  unfold State.fecCount
  repeat' (with_reducible first | assumption | apply Keeps.cnt | apply Keeps.report | apply Keeps.foldl | apply Keeps.foldl_fst
                                | apply Keeps.foldl_snd | intro _ | apply Keeps.ite | split | dsimp only)

theorem Keeps.seqReceive {z s : State} (h : Keeps z s) (a1 a2) : Keeps z (State.seqReceive s a1 a2) := by
  unfold State.seqReceive
  repeat' (with_reducible first | assumption | apply Keeps.cnt | apply Keeps.activity | apply Keeps.onPort | apply Keeps.dropShort
                                | apply Keeps.acceptFlit | apply Keeps.discardFlit | simp only [Keeps.mk_iff] | intro _
                                | apply Keeps.ite | split | dsimp only)

theorem Keeps.beginResend {z s : State} (h : Keeps z s) (a1 a2 a3) : Keeps z (State.beginResend s a1 a2 a3) := by
  unfold State.beginResend
  repeat' (with_reducible first | assumption | apply Keeps.cnt | apply Keeps.setPort | apply Keeps.portFail | simp only [Keeps.mk_iff]
                                | intro _ | apply Keeps.ite | split | dsimp only)

theorem Keeps.retryReq {z s : State} (h : Keeps z s) (a1 a2 a3) : Keeps z (State.retryReq s a1 a2 a3) := by
  unfold State.retryReq
  repeat' (with_reducible first | assumption | apply Keeps.onPort | apply Keeps.takeAck | apply Keeps.beginResend
                                | simp only [Keeps.mk_iff] | intro _ | apply Keeps.ite | split | dsimp only)

theorem Keeps.replayTimeout {z s : State} (h : Keeps z s) (a1) : Keeps z (State.replayTimeout s a1) := by
  unfold State.replayTimeout
  repeat' (with_reducible first | assumption | apply Keeps.setPort | apply Keeps.beginResend | simp only [Keeps.mk_iff] | intro _
                                | apply Keeps.ite | split | dsimp only)

theorem Keeps.downNotice {z s : State} (h : Keeps z s) (a1) : Keeps z (State.downNotice s a1) := by
  unfold State.downNotice
  repeat' (with_reducible first | assumption | apply Keeps.portFail | intro _ | split | dsimp only)

theorem Keeps.flitReceive {z s : State} (h : Keeps z s) (a1 a2) : Keeps z (State.flitReceive s a1 a2) := by
  unfold State.flitReceive
  repeat' (with_reducible first | assumption | apply Keeps.cnt | apply Keeps.onPort | apply Keeps.takeAck | apply Keeps.discardFlit
                                | apply Keeps.fecCount | apply Keeps.seqReceive | apply Keeps.retryReq | apply Keeps.downNotice
                                | simp only [Keeps.mk_iff] | intro _ | apply Keeps.ite | split | dsimp only)

theorem Keeps.initReceive {z s : State} (h : Keeps z s) (a1 a2) : Keeps z (State.initReceive s a1 a2) := by
  unfold State.initReceive
  repeat' (with_reducible first | assumption | apply Keeps.wr | apply Keeps.onPort | apply Keeps.initOver | simp only [Keeps.mk_iff]
                                | intro _ | apply Keeps.ite | split | dsimp only)

theorem Keeps.laneLoss {z s : State} (h : Keeps z s) (a1 a2 a3) : Keeps z (State.laneLoss s a1 a2 a3) := by
  unfold State.laneLoss
  repeat' (with_reducible first | assumption | apply Keeps.setPort | apply Keeps.portFail | simp only [Keeps.mk_iff] | intro _
                                | apply Keeps.ite | split | dsimp only)

theorem Keeps.crcSilence {z s : State} (h : Keeps z s) (a1) : Keeps z (State.crcSilence s a1) := by
  unfold State.crcSilence
  repeat' (with_reducible first | assumption | apply Keeps.portFail | intro _ | apply Keeps.ite | split | dsimp only)

theorem Keeps.train {z s : State} (h : Keeps z s) (a1) : Keeps z (State.train s a1) := by
  unfold State.train
  repeat' (with_reducible first | assumption | apply Keeps.onPort | apply Keeps.portMode | simp only [Keeps.mk_iff] | intro _
                                | apply Keeps.ite | split | dsimp only)

theorem Keeps.portCtrlStore {z s : State} (h : Keeps z s) (a1 a2) : Keeps z (State.portCtrlStore s a1 a2) := by
  unfold State.portCtrlStore
  repeat' (with_reducible first | assumption | apply Keeps.wr | intro _ | apply Keeps.ite | split | dsimp only)

theorem Keeps.portRetrain {z s : State} (h : Keeps z s) (a1) : Keeps z (State.portRetrain s a1) := by
  unfold State.portRetrain
  repeat' (with_reducible first | assumption | apply Keeps.linkDown | apply Keeps.portFail | apply Keeps.train | intro _ | split
                                | dsimp only)

theorem Keeps.portEnable {z s : State} (h : Keeps z s) (a1 a2) : Keeps z (State.portEnable s a1 a2) := by
  unfold State.portEnable
  repeat' (with_reducible first | assumption | apply Keeps.wr | apply Keeps.bump | apply Keeps.portMode | apply Keeps.downRecord
                                | apply Keeps.portFail | apply Keeps.train | apply Keeps.portCtrlStore | apply Keeps.portRetrain
                                | intro _ | apply Keeps.ite | split | dsimp only)

theorem Keeps.trainingDone {z s : State} (h : Keeps z s) (a1) : Keeps z (State.trainingDone s a1) := by
  unfold State.trainingDone
  repeat' (with_reducible first | assumption | apply Keeps.portMode | intro _ | apply Keeps.ite | split | dsimp only)

theorem Keeps.trainingLate {z s : State} (h : Keeps z s) (a1) : Keeps z (State.trainingLate s a1) := by
  unfold State.trainingLate
  repeat' (with_reducible first | assumption | apply Keeps.linkDown | intro _ | apply Keeps.ite | split | dsimp only)

theorem Keeps.aligned {z s : State} (h : Keeps z s) (a1 a2 a3) : Keeps z (State.aligned s a1 a2 a3) := by
  unfold State.aligned
  repeat' (with_reducible first | assumption | apply Keeps.setPort | apply Keeps.onPort | apply Keeps.portMode
                                | simp only [Keeps.mk_iff] | intro _ | apply Keeps.ite | split | dsimp only)

theorem Keeps.autoRetrain {z s : State} (h : Keeps z s) (a1) : Keeps z (State.autoRetrain s a1) := by
  unfold State.autoRetrain
  repeat' (with_reducible first | assumption | apply Keeps.train | intro _ | apply Keeps.ite | split | dsimp only)

/-! ### Machine/Routing.lean -/

theorem Keeps.portQueue {z s : State} (h : Keeps z s) (a1 a2 a3) : Keeps z (State.portQueue s a1 a2 a3) := by
  unfold State.portQueue
  repeat' (with_reducible first | assumption | apply Keeps.cnt | apply Keeps.onPort | simp only [Keeps.mk_iff] | intro _
                                | apply Keeps.ite | split | dsimp only)

theorem Keeps.ringLeave {z s : State} (h : Keeps z s) (a1 a2 a3 a4) : Keeps z (State.ringLeave s a1 a2 a3 a4) := by
  unfold State.ringLeave
  repeat' (with_reducible first | assumption | apply Keeps.portQueue | simp only [Keeps.mk_iff] | intro _ | split | dsimp only)

theorem Keeps.ringEnter {z s : State} (h : Keeps z s) (a1 a2 a3 a4 a5 a6) : Keeps z (State.ringEnter s a1 a2 a3 a4 a5 a6) := by
  unfold State.ringEnter
  repeat' (with_reducible first | assumption | apply Keeps.ringLeave | simp only [Keeps.mk_iff] | intro _ | split | dsimp only)

theorem Keeps.toPort {z s : State} (h : Keeps z s) (a1 a2 a3) : Keeps z (State.toPort s a1 a2 a3) := by
  unfold State.toPort
  repeat' (with_reducible first | assumption | apply Keeps.cnt | apply Keeps.bump | apply Keeps.portQueue | apply Keeps.ringEnter
                                | intro _ | apply Keeps.ite | split | dsimp only)

theorem Keeps.routePacket {z s : State} (h : Keeps z s) (a1 a2) : Keeps z (State.routePacket s a1 a2) := by
  unfold State.routePacket
  repeat' (with_reducible first | assumption | apply Keeps.bump | apply Keeps.toPort | simp only [Keeps.mk_iff] | intro _
                                | apply Keeps.ite | split | dsimp only)

theorem Keeps.deliver {z s : State} (h : Keeps z s) (a1 a2 a3 a4) : Keeps z (State.deliver s a1 a2 a3 a4) := by
  unfold State.deliver
  repeat' (with_reducible first | assumption | apply Keeps.ringEnter | intro _ | split | dsimp only)

theorem Keeps.ringHop {z s : State} (h : Keeps z s) (a1 a2) : Keeps z (State.ringHop s a1 a2) := by
  unfold State.ringHop
  repeat' (with_reducible first | assumption | apply Keeps.stopFlits | apply Keeps.ringLeave | simp only [Keeps.mk_iff] | intro _
                                | apply Keeps.ite | split | dsimp only)

theorem Keeps.ringStep {z s : State} (h : Keeps z s) : Keeps z (State.ringStep s) := by
  unfold State.ringStep
  repeat' (with_reducible first | assumption | apply Keeps.cnt | apply Keeps.ringHop | apply Keeps.foldl | apply Keeps.foldl_fst
                                | apply Keeps.foldl_snd | intro _ | apply Keeps.ite | split | dsimp only)

theorem Keeps.inject {z s : State} (h : Keeps z s) (a1) : Keeps z (State.inject s a1) := by
  unfold State.inject
  repeat' (with_reducible first | assumption | apply Keeps.bump | apply Keeps.toPort | apply Keeps.routePacket | apply Keeps.deliver
                                | simp only [Keeps.mk_iff] | intro _ | apply Keeps.ite | split | dsimp only)

theorem Keeps.packetInject {z s : State} (h : Keeps z s) (a1) : Keeps z (State.packetInject s a1) := by
  unfold State.packetInject
  repeat' (with_reducible first | assumption | apply Keeps.inject | apply Keeps.onTile | apply Keeps.foldl | apply Keeps.foldl_fst
                                | apply Keeps.foldl_snd | simp only [Keeps.mk_iff] | dsimp only | intro _ | split)

theorem Keeps.packetReceive {z s : State} (h : Keeps z s) (a1) : Keeps z (State.packetReceive s a1) := by
  unfold State.packetReceive
  repeat' (with_reducible first | assumption | apply Keeps.bump | apply Keeps.onPort | apply Keeps.owe | apply Keeps.ringEnter
                                | apply Keeps.routePacket | apply Keeps.deliver | simp only [Keeps.mk_iff] | intro _ | apply Keeps.ite
                                | split | dsimp only)

theorem Keeps.rtAdvance {z s : State} (h : Keeps z s) : Keeps z (State.rtAdvance s) := by
  unfold State.rtAdvance
  repeat' (with_reducible first | assumption | apply Keeps.wr | intro _ | apply Keeps.ite | split | dsimp only)

theorem Keeps.rtStore {z s : State} (h : Keeps z s) (a1 a2 a3 a4) : Keeps z (State.rtStore s a1 a2 a3 a4) := by
  unfold State.rtStore
  repeat' (with_reducible first | assumption | apply Keeps.bump | simp only [Keeps.mk_iff] | intro _ | apply Keeps.ite | split
                                | dsimp only)

theorem Keeps.rtWrite {z s : State} (h : Keeps z s) (a1) : Keeps z (State.rtWrite s a1) := by
  unfold State.rtWrite
  repeat' (with_reducible first | assumption | apply Keeps.rtAdvance | apply Keeps.rtStore | intro _ | split | dsimp only)

theorem Keeps.epochWrite {z s : State} (h : Keeps z s) (a1) : Keeps z (State.epochWrite s a1) := by
  unfold State.epochWrite
  repeat' (with_reducible first | assumption | apply Keeps.wr | apply Keeps.bump | intro _ | apply Keeps.ite | split | dsimp only)

/-! ### Machine/Time.lean -/

theorem Keeps.snapCopy {z s : State} (h : Keeps z s) : Keeps z (State.snapCopy s) := by
  unfold State.snapCopy
  repeat' (with_reducible first | assumption | apply Keeps.wr | apply Keeps.foldl | apply Keeps.foldl_fst | apply Keeps.foldl_snd
                                | simp only [Keeps.mk_iff] | intro _ | apply Keeps.ite | split | dsimp only)

theorem Keeps.talignSend {z s : State} (h : Keeps z s) : Keeps z (State.talignSend s) := by
  unfold State.talignSend
  repeat' (with_reducible first | assumption | apply Keeps.send | simp only [Keeps.mk_iff] | intro _ | apply Keeps.ite | split
                                | dsimp only)

theorem Keeps.talignRequest {z s : State} (h : Keeps z s) (a1) : Keeps z (State.talignRequest s a1) := by
  unfold State.talignRequest
  repeat' (with_reducible first | assumption | apply Keeps.bump | apply Keeps.send | (apply Keeps.netTake <;> assumption) | intro _
                                | apply Keeps.ite | split | dsimp only)

theorem Keeps.xdev {z s : State} (h : Keeps z s) (a1) : Keeps z (State.xdev s a1) := by
  unfold State.xdev
  repeat' (with_reducible first | assumption | apply Keeps.wr | apply Keeps.irq | intro _ | apply Keeps.ite | split | dsimp only)

theorem Keeps.settle {z s : State} (h : Keeps z s) : Keeps z (State.settle s) := by
  unfold State.settle
  repeat' (with_reducible first | assumption | apply Keeps.wr | simp only [Keeps.mk_iff] | intro _ | split | dsimp only)

theorem Keeps.stepForward {z s : State} (h : Keeps z s) (a1) : Keeps z (State.stepForward s a1) := by
  unfold State.stepForward
  apply Keeps.snapCopy
  exact h.upd rfl rfl rfl id rfl id (fun _ => Nat.mod_lt _ (Nat.two_pow_pos 64)) rfl

theorem Keeps.talignDone {z s : State} (h : Keeps z s) (a1) : Keeps z (State.talignDone s a1) := by
  unfold State.talignDone
  repeat' (with_reducible first | assumption | apply Keeps.wr | apply Keeps.xdev | apply Keeps.settle | apply Keeps.stepForward
                                | simp only [Keeps.mk_iff] | intro _ | apply Keeps.ite | split | dsimp only)

theorem Keeps.talignResponse {z s : State} (h : Keeps z s) (a1) : Keeps z (State.talignResponse s a1) := by
  unfold State.talignResponse
  repeat' (with_reducible first | assumption | apply Keeps.bump | apply Keeps.talignDone | (apply Keeps.netTake <;> assumption)
                                | intro _ | apply Keeps.ite | split | dsimp only)

theorem Keeps.holdover {z s : State} (h : Keeps z s) : Keeps z (State.holdover s) := by
  unfold State.holdover
  repeat' (with_reducible first | assumption | apply Keeps.wr | apply Keeps.bump | apply Keeps.irq | apply Keeps.settle
                                | simp only [Keeps.mk_iff] | intro _ | apply Keeps.ite | split | dsimp only)

theorem Keeps.xdevLock {z s : State} (h : Keeps z s) : Keeps z (State.xdevLock s) := by
  unfold State.xdevLock
  repeat' (with_reducible first | assumption | apply Keeps.xdev | apply Keeps.settle | simp only [Keeps.mk_iff] | intro _
                                | apply Keeps.ite | split | dsimp only)

theorem Keeps.tlyCtrlWrite {z s : State} (h : Keeps z s) (a1) : Keeps z (State.tlyCtrlWrite s a1) := by
  unfold State.tlyCtrlWrite
  repeat' (with_reducible first | assumption | apply Keeps.wr | simp only [Keeps.mk_iff] | intro _ | apply Keeps.ite | split
                                | dsimp only)

theorem Keeps.tileAlign {z s : State} (h : Keeps z s) (a1) : Keeps z (State.tileAlign s a1) := by
  unfold State.tileAlign
  repeat' (with_reducible first | assumption | apply Keeps.onTile | apply Keeps.startClear | apply Keeps.foldl | apply Keeps.foldl_fst
                                | apply Keeps.foldl_snd | simp only [Keeps.mk_iff] | intro _ | split | dsimp only)

theorem Keeps.replicaResync {z s : State} (h : Keeps z s) (a1) : Keeps z (State.replicaResync s a1) := by
  unfold State.replicaResync
  repeat' (with_reducible first | assumption | apply Keeps.bump | apply Keeps.tileAlign | apply Keeps.foldl | apply Keeps.foldl_fst
                                | apply Keeps.foldl_snd | intro _ | apply Keeps.ite | split | dsimp only)

theorem Keeps.snapArm {z s : State} (h : Keeps z s) : Keeps z (State.snapArm s).1 := by
  unfold State.snapArm
  repeat' (with_reducible first | assumption | apply Keeps.wr | apply Keeps.bump | simp only [Keeps.mk_iff] | intro _ | apply Keeps.ite
                                | apply Keeps.ite_fst | split | dsimp only)

theorem Keeps.snapArmWrite {z s : State} (h : Keeps z s) (a1) : Keeps z (State.snapArmWrite s a1) := by
  unfold State.snapArmWrite
  repeat' (with_reducible first | assumption | apply Keeps.snapArm | intro _ | apply Keeps.ite | split | dsimp only)

theorem Keeps.snapshot {z s : State} (h : Keeps z s) : Keeps z (State.snapshot s) := by
  unfold State.snapshot
  repeat' (with_reducible first | assumption | apply Keeps.wr | apply Keeps.irq | apply Keeps.snapCopy | simp only [Keeps.mk_iff]
                                | intro _ | apply Keeps.ite | split | dsimp only)

end Sys2Proof.Machine
end

