-- ==== Sys2Proof/Laws/KeepsManagement.lean ====
section
/-! SUPPORT. What the operations of mailboxes, interrupts, power, collectives and signed records do not do (Laws/Keeps.lean says what `Keeps` means). -/
set_option linter.unusedTactic false
set_option linter.unusedSimpArgs false
set_option linter.unreachableTactic false

namespace Sys2Proof.Machine

/-! ### Machine/Mailbox.lean -/

theorem Keeps.doorbell {z s : State} (h : Keeps z s) (a1 a2) : Keeps z (State.doorbell s a1 a2) := by
  unfold State.doorbell
  repeat' (with_reducible first | assumption | apply Keeps.wr | apply Keeps.cnt | apply Keeps.bump | apply Keeps.irq
                                | simp only [Keeps.mk_iff] | intro _ | apply Keeps.ite | split | dsimp only)

theorem Keeps.mbxReqWrite {z s : State} (h : Keeps z s) (a1 a2 a3 a4) : Keeps z (State.mbxReqWrite s a1 a2 a3 a4) := by
  unfold State.mbxReqWrite
  repeat' (with_reducible first | assumption | apply Keeps.cnt | apply Keeps.bump | apply Keeps.setBytes | intro _ | apply Keeps.ite
                                | split | dsimp only)

theorem Keeps.dispatch {z s : State} (h : Keeps z s) : Keeps z (State.dispatch s) := by
  unfold State.dispatch
  repeat' (with_reducible first | assumption | apply Keeps.respond | simp only [Keeps.mk_iff] | intro _ | apply Keeps.ite | split
                                | dsimp only)

theorem Keeps.ycp {z s : State} (h : Keeps z s) (a1 a2) {f : State → MbxCmd → State × Option (Nat × List Byte)}
    (hf : ∀ s r, Keeps z s → Keeps z (f s r).1) : Keeps z (State.ycp s a1 a2 f) := by
  have hp : ∀ {r s' x}, f s r = (s', x) → Keeps z s' := fun {r _ _} e => by simpa [e] using hf s r h
  unfold State.ycp
  repeat' (with_reducible first | assumption | (apply hp <;> assumption) | apply Keeps.respond | apply Keeps.foldl
                                | apply Keeps.foldl_fst | apply Keeps.foldl_snd | simp only [Keeps.mk_iff] | dsimp only | intro _
                                | split)

theorem Keeps.done {z s : State} (h : Keeps z s) (a1) : Keeps z (Sys2Proof.Machine.done s a1).1 := h

theorem Keeps.compCause {z s : State} (h : Keeps z s) (a1 a2) : Keeps z (State.compCause s a1 a2) := by
  unfold State.compCause
  repeat' (with_reducible first | assumption | apply Keeps.irq | apply Keeps.accessFault | apply Keeps.decodeCount | intro _
                                | apply Keeps.ite | split | dsimp only)

theorem Keeps.beatMiss {z s : State} (h : Keeps z s) (a1) : Keeps z (State.beatMiss s a1) := by
  unfold State.beatMiss
  repeat' (with_reducible first | assumption | apply Keeps.compFault | intro _ | apply Keeps.ite | split | dsimp only)

theorem Keeps.compRestarted {z s : State} (h : Keeps z s) (a1) : Keeps z (State.compRestarted s a1) := by
  unfold State.compRestarted
  repeat' (with_reducible first | assumption | apply Keeps.cnt | apply Keeps.setComp | simp only [Keeps.mk_iff] | intro _
                                | apply Keeps.ite | split | dsimp only)

/-! ### Machine/Interrupts.lean -/

theorem Keeps.icDeliver {z s : State} (h : Keeps z s) (a1 a2) : Keeps z (State.icDeliver s a1 a2) := by
  unfold State.icDeliver
  repeat' (with_reducible first | assumption | apply Keeps.cnt | apply Keeps.icSetStack | apply Keeps.icSave | simp only [Keeps.mk_iff]
                                | intro _ | apply Keeps.ite | split | dsimp only)

theorem Keeps.icMaskStamp {z s : State} (h : Keeps z s) (a1 a2) : Keeps z (State.icMaskStamp s a1 a2) := by
  unfold State.icMaskStamp
  repeat' (with_reducible first | assumption | simp only [Keeps.mk_iff] | intro _ | apply Keeps.ite | split | dsimp only)

theorem Keeps.icRestamp {z s : State} (h : Keeps z s) (a1 a2) : Keeps z (State.icRestamp s a1 a2) := by
  unfold State.icRestamp
  repeat' (with_reducible first | assumption | apply Keeps.icMaskStamp | apply Keeps.foldl | apply Keeps.foldl_fst
                                | apply Keeps.foldl_snd | intro _ | apply Keeps.ite | split | dsimp only)

theorem Keeps.icSrcCfg {z s : State} (h : Keeps z s) (a1 a2) : Keeps z (State.icSrcCfg s a1 a2) := by
  unfold State.icSrcCfg
  repeat' (with_reducible first | assumption | apply Keeps.wr | apply Keeps.bump | apply Keeps.icRestamp | intro _ | apply Keeps.ite
                                | split | dsimp only)

theorem Keeps.icPmrWrite {z s : State} (h : Keeps z s) (a1 a2) : Keeps z (State.icPmrWrite s a1 a2) := by
  unfold State.icPmrWrite
  repeat' (with_reducible first | assumption | apply Keeps.wr | apply Keeps.icRestamp | intro _ | split | dsimp only)

theorem Keeps.icEoiFault {z s : State} (h : Keeps z s) (a1 a2 a3 a4) : Keeps z (State.icEoiFault s a1 a2 a3 a4) := by
  unfold State.icEoiFault
  repeat' (with_reducible first | assumption | apply Keeps.wr | apply Keeps.cnt | intro _ | apply Keeps.ite | split | dsimp only)

theorem Keeps.icEoi {z s : State} (h : Keeps z s) (a1 a2) : Keeps z (State.icEoi s a1 a2) := by
  unfold State.icEoi
  repeat' (with_reducible first | assumption | apply Keeps.irq | apply Keeps.icSetStack | apply Keeps.icInactive | apply Keeps.icReturn
                                | apply Keeps.compFault | apply Keeps.icEoiFault | intro _ | apply Keeps.ite | split | dsimp only)

theorem Keeps.icFix {z s : State} (h : Keeps z s) (a1) : Keeps z (State.icFix s a1) := by
  unfold State.icFix
  repeat' (with_reducible first | assumption | apply Keeps.bump | apply Keeps.icSetStack | apply Keeps.icInactive | apply Keeps.icReturn
                                | intro _ | apply Keeps.ite | split | dsimp only)

theorem Keeps.icSignal {z s : State} (h : Keeps z s) (a1) : Keeps z (State.icSignal s a1) := by
  unfold State.icSignal
  repeat' (with_reducible first | assumption | apply Keeps.bump | apply Keeps.irq | intro _ | apply Keeps.ite | split | dsimp only)

theorem Keeps.icTimer {z s : State} (h : Keeps z s) (a1 a2) : Keeps z (State.icTimer s a1 a2) := by
  unfold State.icTimer
  repeat' (with_reducible first | assumption | apply Keeps.wr | apply Keeps.irq | intro _ | apply Keeps.ite | split | dsimp only)

theorem Keeps.standby {z s : State} (h : Keeps z s) : Keeps z (State.standby s) := by
  unfold State.standby
  repeat' (with_reducible first | assumption | simp only [Keeps.mk_iff] | intro _ | apply Keeps.ite | split | dsimp only)

theorem Keeps.lampWake {z s : State} (h : Keeps z s) : Keeps z (State.lampWake s) := by
  unfold State.lampWake
  repeat' (with_reducible first | assumption | apply Keeps.bump | apply Keeps.setComp | apply Keeps.foldl | apply Keeps.foldl_fst
                                | apply Keeps.foldl_snd | simp only [Keeps.mk_iff] | intro _ | apply Keeps.ite | split | dsimp only)

/-! ### Machine/Power.lean -/

theorem Keeps.tripNow {z s : State} (h : Keeps z s) (a1 a2) : Keeps z (State.tripNow s a1 a2) := by
  unfold State.tripNow
  repeat' (with_reducible first | assumption | apply Keeps.wr | apply Keeps.coldState | simp only [Keeps.mk_iff] | intro _
                                | apply Keeps.ite | split | dsimp only)

theorem Keeps.moduleWatts {z s : State} (h : Keeps z s) (a1) : Keeps z (State.moduleWatts s a1).2 := by
  unfold State.moduleWatts
  repeat' (with_reducible first | assumption | apply Keeps.takeFree | intro _ | apply Keeps.ite | split | dsimp only)

theorem Keeps.blockTj {z s : State} (h : Keeps z s) (a1 a2) : Keeps z (State.blockTj s a1 a2) := by
  unfold State.blockTj
  repeat' (with_reducible first | assumption | apply Keeps.wr | apply Keeps.irq | intro _ | apply Keeps.ite | split | dsimp only)

theorem Keeps.tripCheck {z s : State} (h : Keeps z s) (a1) : Keeps z (State.tripCheck s a1) := by
  unfold State.tripCheck
  repeat' (with_reducible first | assumption | apply Keeps.tripNow | intro _ | apply Keeps.ite | split | dsimp only)

theorem Keeps.readSensors {z s : State} (h : Keeps z s) (a1) : Keeps z (State.readSensors s a1) := by
  unfold State.readSensors
  repeat' (with_reducible first | assumption | apply Keeps.onHbmc | apply Keeps.blockTj | apply Keeps.tripCheck | apply Keeps.foldl
                                | apply Keeps.foldl_fst | apply Keeps.foldl_snd | simp only [Keeps.mk_iff] | intro _ | split
                                | dsimp only)

theorem Keeps.stepRates {z s : State} (h : Keeps z s) : Keeps z (State.stepRates s) := by
  unfold State.stepRates
  repeat' (with_reducible first | assumption | apply Keeps.wr | apply Keeps.foldl | apply Keeps.foldl_fst | apply Keeps.foldl_snd
                                | intro _ | split | dsimp only)

theorem Keeps.windowNext {z s : State} (h : Keeps z s) : Keeps z (State.windowNext s) := by
  unfold State.windowNext
  repeat' (with_reducible first | assumption | simp only [Keeps.mk_iff] | intro _ | split | dsimp only)

theorem Keeps.hwLimits {z s : State} (h : Keeps z s) : Keeps z (State.hwLimits s) := by
  unfold State.hwLimits
  repeat' (with_reducible first | assumption | apply Keeps.wr | apply Keeps.bump | simp only [Keeps.mk_iff] | intro _ | apply Keeps.ite
                                | split | dsimp only)

theorem Keeps.intervalStart {z s : State} (h : Keeps z s) : Keeps z (State.intervalStart s) := by
  unfold State.intervalStart
  repeat' (with_reducible first | assumption | simp only [Keeps.mk_iff] | intro _ | apply Keeps.ite | split | dsimp only)

theorem Keeps.windowClose {z s : State} (h : Keeps z s) (a1) : Keeps z (State.windowClose s a1) := by
  unfold State.windowClose
  repeat' (with_reducible first | assumption | apply Keeps.wr | apply Keeps.moduleWatts | apply Keeps.readSensors
                                | apply Keeps.stepRates | apply Keeps.windowNext | apply Keeps.hwLimits | apply Keeps.intervalStart
                                | apply Keeps.foldl | apply Keeps.foldl_fst | apply Keeps.foldl_snd | simp only [Keeps.mk_iff] | intro _
                                | apply Keeps.ite | split | dsimp only)

theorem Keeps.droopTrip {z s : State} (h : Keeps z s) (a1) : Keeps z (State.droopTrip s a1) := by
  unfold State.droopTrip
  repeat' (with_reducible first | assumption | apply Keeps.wr | apply Keeps.cnt | apply Keeps.irq | simp only [Keeps.mk_iff] | intro _
                                | apply Keeps.ite | split | dsimp only)

theorem Keeps.droopEnd {z s : State} (h : Keeps z s) (a1) : Keeps z (State.droopEnd s a1) := by
  unfold State.droopEnd
  repeat' (with_reducible first | assumption | apply Keeps.wr | intro _ | apply Keeps.ite | split | dsimp only)

theorem Keeps.setDemand {z s : State} (h : Keeps z s) (a1 a2) : Keeps z (State.setDemand s a1 a2) := by
  unfold State.setDemand
  repeat' (with_reducible first | assumption | apply Keeps.bump | apply Keeps.foldl | apply Keeps.foldl_fst | apply Keeps.foldl_snd
                                | simp only [Keeps.mk_iff] | intro _ | apply Keeps.ite | split | dsimp only)

theorem Keeps.learnTile {z s : State} (h : Keeps z s) (a1 a2) : Keeps z (State.learnTile s a1 a2) := by
  unfold State.learnTile
  repeat' (with_reducible first | assumption | apply Keeps.setDemand | intro _ | apply Keeps.ite | split | dsimp only)

theorem Keeps.learn {z s : State} (h : Keeps z s) : Keeps z (State.learn s) := by
  unfold State.learn
  repeat' (with_reducible first | assumption | apply Keeps.learnTile | apply Keeps.foldl | apply Keeps.foldl_fst | apply Keeps.foldl_snd
                                | simp only [Keeps.mk_iff] | intro _ | split | dsimp only)

theorem Keeps.setPoint {z s : State} (h : Keeps z s) (a1 a2 a3 a4) : Keeps z (State.setPoint s a1 a2 a3 a4) := by
  unfold State.setPoint
  repeat' (with_reducible first | assumption | apply Keeps.wr | simp only [Keeps.mk_iff] | intro _ | apply Keeps.ite | split
                                | dsimp only)

theorem Keeps.chooseBlock {z s : State} (h : Keeps z s) (a1 a2 a3) : Keeps z (State.chooseBlock s a1 a2 a3) := by
  unfold State.chooseBlock
  repeat' (with_reducible first | assumption | apply Keeps.setPoint | simp only [Keeps.mk_iff] | intro _ | apply Keeps.ite | split
                                | dsimp only)

theorem Keeps.matchStatus {z s : State} (h : Keeps z s) : Keeps z (State.matchStatus s) := by
  unfold State.matchStatus
  repeat' (with_reducible first | assumption | apply Keeps.wr | intro _ | apply Keeps.ite | split | dsimp only)

theorem Keeps.coolAlloc {z s : State} (h : Keeps z s) (a1 a2) : Keeps z (State.coolAlloc s a1 a2).2 := by
  unfold State.coolAlloc
  repeat' (with_reducible first | assumption | apply Keeps.takeFree | intro _ | apply Keeps.ite | split | dsimp only)

theorem Keeps.heldBelow {z s : State} (h : Keeps z s) (a1 a2 a3 a4) : Keeps z (State.heldBelow s a1 a2 a3 a4) := by
  unfold State.heldBelow
  repeat' (with_reducible first | assumption | simp only [Keeps.mk_iff] | intro _ | apply Keeps.ite | split | dsimp only)

theorem Keeps.powerLoop {z s : State} (h : Keeps z s) (a1) : Keeps z (State.powerLoop s a1) := by
  unfold State.powerLoop
  repeat' (with_reducible first | assumption | apply Keeps.wr | apply Keeps.postClass | apply Keeps.learn | apply Keeps.chooseBlock
                                | apply Keeps.matchStatus | apply Keeps.coolAlloc | apply Keeps.heldBelow | apply Keeps.foldl
                                | apply Keeps.foldl_fst | apply Keeps.foldl_snd | simp only [Keeps.mk_iff] | intro _ | apply Keeps.ite
                                | split | dsimp only)

theorem Keeps.slewDone {z s : State} (h : Keeps z s) (a1) : Keeps z (State.slewDone s a1) := by
  unfold State.slewDone
  repeat' (with_reducible first | assumption | apply Keeps.wr | simp only [Keeps.mk_iff] | intro _ | apply Keeps.ite | split
                                | dsimp only)

theorem Keeps.calibrate {z s : State} (h : Keeps z s) (a1) : Keeps z (State.calibrate s a1) := by
  unfold State.calibrate
  repeat' (with_reducible first | assumption | apply Keeps.wr | apply Keeps.takeFree | simp only [Keeps.mk_iff] | intro _
                                | apply Keeps.ite | split | dsimp only)

theorem Keeps.beaconSend {z s : State} (h : Keeps z s) : Keeps z (State.beaconSend s) := by
  unfold State.beaconSend
  repeat' (with_reducible first | assumption | apply Keeps.bump | apply Keeps.send | apply Keeps.foldl | apply Keeps.foldl_fst
                                | apply Keeps.foldl_snd | simp only [Keeps.mk_iff] | intro _ | apply Keeps.ite | split | dsimp only)

theorem Keeps.beaconReceive {z s : State} (h : Keeps z s) (a1) : Keeps z (State.beaconReceive s a1) := by
  unfold State.beaconReceive
  repeat' (with_reducible first | assumption | apply Keeps.wr | apply Keeps.bump | apply Keeps.postClass
                                | (apply Keeps.netTake <;> assumption) | intro _ | apply Keeps.ite | split | dsimp only)

/-! ### Machine/Collectives.lean -/

theorem Keeps.setColl {z s : State} (h : Keeps z s) (a1 a2) : Keeps z (State.setColl s a1 a2) := by
  unfold State.setColl
  repeat' (with_reducible first | assumption | simp only [Keeps.mk_iff] | intro _ | split | dsimp only)

theorem Keeps.workCount {z s : State} (h : Keeps z s) (a1 a2 a3) : Keeps z (State.workCount s a1 a2 a3) := by
  unfold State.workCount
  repeat' (with_reducible first | assumption | apply Keeps.takeFree | apply Keeps.bankCount | apply Keeps.foldl | apply Keeps.foldl_fst
                                | apply Keeps.foldl_snd | intro _ | apply Keeps.ite | split | dsimp only)

theorem Keeps.scramble {z s : State} (h : Keeps z s) (a1 a2) : Keeps z (State.scramble s a1 a2) := by
  unfold State.scramble
  repeat' (with_reducible first | assumption | apply Keeps.takeFree | apply Keeps.setBytes | apply Keeps.setMark | apply Keeps.foldl
                                | apply Keeps.foldl_fst | apply Keeps.foldl_snd | intro _ | apply Keeps.ite | split | dsimp only)

theorem Keeps.collFinish {z s : State} (h : Keeps z s) (a1 a2 a3 a4) : Keeps z (State.collFinish s a1 a2 a3 a4) := by
  unfold State.collFinish
  repeat' (with_reducible first | assumption | apply Keeps.cnt | apply Keeps.reportTile | apply Keeps.signal | apply Keeps.event
                                | intro _ | apply Keeps.ite | split | dsimp only)

theorem Keeps.collEnd {z s : State} (h : Keeps z s) (a1 a2 a3) : Keeps z (State.collEnd s a1 a2 a3) := by
  unfold State.collEnd
  repeat' (with_reducible first | assumption | apply Keeps.workCount | apply Keeps.scramble | apply Keeps.collFinish
                                | simp only [Keeps.mk_iff] | intro _ | split | dsimp only)

theorem Keeps.seamSend {z s : State} (h : Keeps z s) (a1 a2 a3 a4) : Keeps z (State.seamSend s a1 a2 a3 a4) := by
  unfold State.seamSend
  repeat' (with_reducible first | assumption | apply Keeps.send | simp only [Keeps.mk_iff] | intro _ | apply Keeps.ite | split
                                | dsimp only)

theorem Keeps.abortRecord {z s : State} (h : Keeps z s) (a1 a2 a3 a4 a5 a6) : Keeps z (State.abortRecord s a1 a2 a3 a4 a5 a6) := by
  unfold State.abortRecord
  repeat' (with_reducible first | assumption | apply Keeps.wr | intro _ | apply Keeps.ite | split | dsimp only)

theorem Keeps.collAbort {z s : State} (h : Keeps z s) (a1 a2 a3 a4 a5 a6 a7) : Keeps z (State.collAbort s a1 a2 a3 a4 a5 a6 a7) := by
  unfold State.collAbort
  repeat' (with_reducible first | assumption | apply Keeps.wr | apply Keeps.cnt | apply Keeps.irq | apply Keeps.collEnd
                                | apply Keeps.seamSend | apply Keeps.abortRecord | apply Keeps.foldl | apply Keeps.foldl_fst
                                | apply Keeps.foldl_snd | simp only [Keeps.mk_iff] | intro _ | apply Keeps.ite | split | dsimp only)

theorem Keeps.collAbortHere {z s : State} (h : Keeps z s) (a1 a2 a3 a4 a5) : Keeps z (State.collAbortHere s a1 a2 a3 a4 a5) := by
  unfold State.collAbortHere
  repeat' (with_reducible first | assumption | apply Keeps.collAbort | intro _ | split | dsimp only)

theorem Keeps.collDecode {z s : State} (h : Keeps z s) (a1 a2 a3) : Keeps z (State.collDecode s a1 a2 a3) := by
  unfold State.collDecode
  repeat' (with_reducible first | assumption | apply Keeps.cnt | apply Keeps.decodeError | apply Keeps.reach | apply Keeps.collAbortHere
                                | intro _ | split | dsimp only)

theorem Keeps.seamControl {z s : State} (h : Keeps z s) (a1 a2 a3 a4 a5) : Keeps z (State.seamControl s a1 a2 a3 a4 a5) := by
  unfold State.seamControl
  repeat' (with_reducible first | assumption | apply Keeps.seamSend | intro _ | split | dsimp only)

theorem Keeps.collSendXfer {z s : State} (h : Keeps z s) (a1 a2) : Keeps z (State.collSendXfer s a1 a2) := by
  unfold State.collSendXfer
  repeat' (with_reducible first | assumption | apply Keeps.cnt | apply Keeps.setColl | apply Keeps.seamSend | apply Keeps.collAbortHere
                                | apply Keeps.foldl | apply Keeps.foldl_fst | apply Keeps.foldl_snd | simp only [Keeps.mk_iff] | intro _
                                | apply Keeps.ite | split | dsimp only)

theorem Keeps.collSend {z s : State} (h : Keeps z s) (a1) : Keeps z (State.collSend s a1) := by
  unfold State.collSend
  repeat' (with_reducible first | assumption | apply Keeps.collSendXfer | apply Keeps.foldl | apply Keeps.foldl_fst
                                | apply Keeps.foldl_snd | intro _ | split | dsimp only)

theorem Keeps.seamAckTo {z s : State} (h : Keeps z s) (a1 a2 a3 a4) : Keeps z (State.seamAckTo s a1 a2 a3 a4) := by
  unfold State.seamAckTo
  repeat' (with_reducible first | assumption | apply Keeps.send | simp only [Keeps.mk_iff] | intro _ | split | dsimp only)

theorem Keeps.seamFlags {z s : State} (h : Keeps z s) (a1 a2) : Keeps z (State.seamFlags s a1 a2) := by
  unfold State.seamFlags
  repeat' (with_reducible first | assumption | apply Keeps.setFlags | intro _ | split | dsimp only)

theorem Keeps.collNarrow {z s : State} (h : Keeps z s) (a1 a2) : Keeps z (State.collNarrow s a1 a2).1 := by
  unfold State.collNarrow
  repeat' (with_reducible first | assumption | apply Keeps.health | apply Keeps.setColl | apply Keeps.seamFlags | apply Keeps.foldl
                                | apply Keeps.foldl_fst | apply Keeps.foldl_snd | simp only [Keeps.mk_iff] | intro _ | apply Keeps.ite
                                | apply Keeps.ite_fst | split | dsimp only)

theorem Keeps.collStepOver {z s : State} (h : Keeps z s) (a1 a2) : Keeps z (State.collStepOver s a1 a2) := by
  unfold State.collStepOver
  repeat' (with_reducible first | assumption | apply Keeps.cnt | apply Keeps.setColl | simp only [Keeps.mk_iff] | intro _
                                | apply Keeps.ite | split | dsimp only)

theorem Keeps.collReceived {z s : State} (h : Keeps z s) (a1) : Keeps z (State.collReceived s a1) := by
  unfold State.collReceived
  repeat' (with_reducible first | assumption | apply Keeps.setColl | apply Keeps.collAbortHere | apply Keeps.seamAckTo
                                | apply Keeps.seamFlags | apply Keeps.collStepOver | apply Keeps.foldl | apply Keeps.foldl_fst
                                | apply Keeps.foldl_snd | simp only [Keeps.mk_iff] | intro _ | apply Keeps.ite | split | dsimp only)

theorem Keeps.collStepBegin {z s : State} (h : Keeps z s) (a1) : Keeps z (State.collStepBegin s a1) := by
  unfold State.collStepBegin
  repeat' (with_reducible first | assumption | apply Keeps.setColl | apply Keeps.collSend | apply Keeps.collNarrow
                                | apply Keeps.collReceived | simp only [Keeps.mk_iff] | intro _ | apply Keeps.ite | split | dsimp only)

theorem Keeps.mapEntry {z s : State} (h : Keeps z s) (a1 a2 a3) : Keeps z (State.mapEntry s a1 a2 a3).1 := by
  unfold State.mapEntry
  repeat' (with_reducible first | assumption | apply Keeps.spanRead | apply Keeps.lineFlits | intro _ | apply Keeps.ite
                                | apply Keeps.ite_fst | split | dsimp only)

theorem Keeps.mapEntries {z s : State} (h : Keeps z s) (a1 a2 a3) : Keeps z (State.mapEntries s a1 a2 a3).1 := by
  unfold State.mapEntries
  repeat' (with_reducible first | assumption | apply Keeps.mapEntry | apply Keeps.foldl | apply Keeps.foldl_fst | apply Keeps.foldl_snd
                                | intro _ | apply Keeps.ite | apply Keeps.ite_fst | split | dsimp only)

theorem Keeps.collPending {z s : State} (h : Keeps z s) (a1) : Keeps z (State.collPending s a1) := by
  unfold State.collPending
  repeat' (with_reducible first | assumption | apply Keeps.cnt | apply Keeps.setColl | apply Keeps.collAbortHere | apply Keeps.foldl
                                | apply Keeps.foldl_fst | apply Keeps.foldl_snd | simp only [Keeps.mk_iff] | intro _ | apply Keeps.ite
                                | split | dsimp only)

theorem Keeps.collRun {z s : State} (h : Keeps z s) (a1 a2 a3 a4) : Keeps z (State.collRun s a1 a2 a3 a4) := by
  unfold State.collRun
  repeat' (with_reducible first | assumption | apply Keeps.wr | apply Keeps.spanRead | apply Keeps.setColl | apply Keeps.scramble
                                | apply Keeps.collAbortHere | apply Keeps.collDecode | apply Keeps.seamControl | apply Keeps.seamFlags
                                | apply Keeps.mapEntries | apply Keeps.collPending | apply Keeps.foldl | apply Keeps.foldl_fst
                                | apply Keeps.foldl_snd | simp only [Keeps.mk_iff] | intro _ | split | dsimp only)

theorem Keeps.seamRow {z s : State} (h : Keeps z s) (a1 a2) : Keeps z (State.seamRow s a1 a2) := by
  unfold State.seamRow
  repeat' (with_reducible first | assumption | apply Keeps.cnt | apply Keeps.onTile | apply Keeps.reportTile | apply Keeps.bankCount
                                | apply Keeps.spdRead | apply Keeps.qDropHead | apply Keeps.event | apply Keeps.holdAccess
                                | apply Keeps.unhold | apply Keeps.holdSpans | apply Keeps.collFinish | apply Keeps.collRun
                                | simp only [Keeps.mk_iff] | intro _ | apply Keeps.ite | split | dsimp only)

theorem Keeps.ackDrop {z s : State} (h : Keeps z s) (a1) : Keeps z (State.ackDrop s a1) := by
  unfold State.ackDrop
  repeat' (with_reducible first | assumption | apply Keeps.cnt | intro _ | apply Keeps.ite | split | dsimp only)

theorem Keeps.seamReceive {z s : State} (h : Keeps z s) (a1 a2) {f : State → Nat → Coll → Packet → State}
    {o : State → Nat → Packet → State} (hf : ∀ s g x p, Keeps z s → Keeps z (f s g x p)) (ho : ∀ s g p, Keeps z s → Keeps z (o s g p)) :
    Keeps z (State.seamReceive s a1 a2 f o) := by
  unfold State.seamReceive
  repeat' (with_reducible first | assumption | apply hf | apply ho | (apply Keeps.netTake <;> assumption) | apply Keeps.cnt
                                | apply Keeps.collAbortHere | apply Keeps.netHold | apply Keeps.ackDrop | apply Keeps.foldl
                                | apply Keeps.foldl_fst | apply Keeps.foldl_snd | dsimp only | intro _ | split)

theorem Keeps.seqDrop {z s : State} (h : Keeps z s) (a1 a2) : Keeps z (State.seqDrop s a1 a2) := by
  unfold State.seqDrop
  repeat' (with_reducible first | assumption | apply Keeps.cnt | intro _ | split | dsimp only)

theorem Keeps.pendReady {z s : State} (h : Keeps z s) (a1 a2) : Keeps z (State.pendReady s a1 a2) := by
  unfold State.pendReady
  repeat' (with_reducible first | assumption | apply Keeps.cnt | simp only [Keeps.mk_iff] | intro _ | apply Keeps.ite | split
                                | dsimp only)

theorem Keeps.seamReady {z s : State} (h : Keeps z s) (a1) : Keeps z (State.seamReady s a1) := by
  unfold State.seamReady
  repeat' (with_reducible first | assumption | apply Keeps.cnt | apply Keeps.setColl | apply Keeps.seamReceive | apply Keeps.pendReady
                                | intro _ | apply Keeps.ite | split | dsimp only)

theorem Keeps.seamData {z s : State} (h : Keeps z s) (a1) : Keeps z (State.seamData s a1) := by
  unfold State.seamData
  repeat' (with_reducible first | assumption | apply Keeps.cnt | apply Keeps.progress | apply Keeps.setColl | apply Keeps.seamAckTo
                                | apply Keeps.collReceived | apply Keeps.seamReceive | apply Keeps.seqDrop | simp only [Keeps.mk_iff]
                                | intro _ | apply Keeps.ite | split | dsimp only)

theorem Keeps.seamAck {z s : State} (h : Keeps z s) (a1) : Keeps z (State.seamAck s a1) := by
  unfold State.seamAck
  repeat' (with_reducible first | assumption | apply Keeps.cnt | apply Keeps.setColl | apply Keeps.collStepOver
                                | apply Keeps.seamReceive | simp only [Keeps.mk_iff] | intro _ | apply Keeps.ite | split | dsimp only)

theorem Keeps.collResend {z s : State} (h : Keeps z s) (a1 a2 a3) : Keeps z (State.collResend s a1 a2 a3) := by
  unfold State.collResend
  repeat' (with_reducible first | assumption | apply Keeps.cnt | apply Keeps.setColl | apply Keeps.seamSend | apply Keeps.foldl
                                | apply Keeps.foldl_fst | apply Keeps.foldl_snd | simp only [Keeps.mk_iff] | intro _ | apply Keeps.ite
                                | split | dsimp only)

theorem Keeps.seamReplay {z s : State} (h : Keeps z s) (a1) : Keeps z (State.seamReplay s a1) := by
  unfold State.seamReplay
  repeat' (with_reducible first | assumption | apply Keeps.cnt | apply Keeps.setColl | apply Keeps.seamReceive | apply Keeps.pendReady
                                | apply Keeps.collResend | intro _ | apply Keeps.ite | split | dsimp only)

theorem Keeps.collAbortReceive {z s : State} (h : Keeps z s) (a1) : Keeps z (State.collAbortReceive s a1) := by
  unfold State.collAbortReceive
  repeat' (with_reducible first | assumption | apply Keeps.wr | apply Keeps.collAbort | (apply Keeps.netTake <;> assumption) | intro _
                                | apply Keeps.ite | split | dsimp only)

theorem Keeps.seamItem {z s : State} (h : Keeps z s) (a1) : Keeps z (State.seamItem s a1) := by
  unfold State.seamItem
  repeat' (with_reducible first | assumption | apply Keeps.cnt | apply Keeps.progress | apply Keeps.itemAccepted | apply Keeps.setColl
                                | apply Keeps.collAbortHere | apply Keeps.seamFlags | intro _ | apply Keeps.ite | split | dsimp only)

theorem Keeps.collCommit {z s : State} (h : Keeps z s) (a1) : Keeps z (State.collCommit s a1) := by
  unfold State.collCommit
  repeat' (with_reducible first | assumption | apply Keeps.unhold | apply Keeps.spanWrite | apply Keeps.holdSpans | apply Keeps.setColl
                                | apply Keeps.collDecode | apply Keeps.collNarrow | simp only [Keeps.mk_iff] | intro _ | apply Keeps.ite
                                | split | dsimp only)

theorem Keeps.collComplete {z s : State} (h : Keeps z s) (a1) : Keeps z (State.collComplete s a1) := by
  unfold State.collComplete
  repeat' (with_reducible first | assumption | apply Keeps.collEnd | intro _ | apply Keeps.ite | split | dsimp only)

theorem Keeps.collTry {z s s' : State} {x' : Coll} {g x m k} (hn : State.collTry s g x m k = some (s', x')) (h : Keeps z s) : Keeps z s' := by
  unfold State.collTry at hn
  dsimp only at hn
  split at hn
  · cases hn
  · cases hn
    exact h.setColl _ _

theorem Keeps.collStepTimeout {z s : State} (h : Keeps z s) (a1) : Keeps z (State.collStepTimeout s a1) := by
  unfold State.collStepTimeout
  repeat' (with_reducible first | assumption | apply Keeps.cnt | apply Keeps.setColl | apply Keeps.collAbortHere
                                | apply Keeps.seamControl | (apply Keeps.collTry <;> assumption) | apply Keeps.foldl
                                | apply Keeps.foldl_fst | apply Keeps.foldl_snd | simp only [Keeps.mk_iff] | intro _ | apply Keeps.ite
                                | split | dsimp only)

theorem Keeps.collAckTimeout {z s : State} (h : Keeps z s) (a1) : Keeps z (State.collAckTimeout s a1) := by
  unfold State.collAckTimeout
  repeat' (with_reducible first | assumption | apply Keeps.collAbortHere | apply Keeps.collResend | (apply Keeps.collTry <;> assumption)
                                | apply Keeps.foldl | apply Keeps.foldl_fst | apply Keeps.foldl_snd | intro _ | apply Keeps.ite | split
                                | dsimp only)

theorem Keeps.collStall {z s : State} (h : Keeps z s) (a1) : Keeps z (State.collStall s a1) := by
  unfold State.collStall
  repeat' (with_reducible first | assumption | apply Keeps.wr | apply Keeps.cnt | apply Keeps.irq | apply Keeps.setColl
                                | simp only [Keeps.mk_iff] | intro _ | apply Keeps.ite | split | dsimp only)

theorem Keeps.collTileReset {z s : State} (h : Keeps z s) (a1) : Keeps z (State.collTileReset s a1) := by
  unfold State.collTileReset
  repeat' (with_reducible first | assumption | apply Keeps.collAbortHere | apply Keeps.foldl | apply Keeps.foldl_fst
                                | apply Keeps.foldl_snd | simp only [Keeps.mk_iff] | intro _ | split | dsimp only)

/-! ### Machine/Security.lean -/

theorem Keeps.flashWrite {z s : State} (h : Keeps z s) (a bs) : Keeps z (State.flashWrite s a bs) := by
  unfold State.flashWrite
  refine h.ite (Keeps.irq (h.setFlash fun hf => ?_) _)
  generalize (List.range bs.length).zip bs = q
  revert hf
  generalize s.flash = m
  induction q generalizing m with
  | nil => exact id
  | cons e q ih => exact fun hm => ih _ (swf_sput _ _ _ hm)

theorem Keeps.selectRecords {z s : State} (h : Keeps z s) : Keeps z (State.selectRecords s) := by
  unfold State.selectRecords
  repeat' (with_reducible first | assumption | apply Keeps.wr | apply Keeps.foldl | apply Keeps.foldl_fst | apply Keeps.foldl_snd
                                | simp only [Keeps.mk_iff] | intro _ | split | dsimp only)

theorem Keeps.counterUp {z s : State} (h : Keeps z s) (i) : Keeps z (State.counterUp s i) :=
  ((h.raise i (Nat.lt_succ_self _)).wr ..).bump _

theorem Keeps.counterRaise {z s : State} (h : Keeps z s) (a1 a2) : Keeps z (State.counterRaise s a1 a2) := by
  unfold State.counterRaise
  repeat' (with_reducible first | assumption | apply Keeps.counterUp | apply Keeps.foldl | apply Keeps.foldl_fst | apply Keeps.foldl_snd
                                | intro _ | split | dsimp only)

theorem Keeps.rollbackAdvance {z s : State} (h : Keeps z s) (a1) : Keeps z (State.rollbackAdvance s a1) := by
  unfold State.rollbackAdvance
  repeat' (with_reducible first | assumption | apply Keeps.bump | apply Keeps.counterUp | simp only [Keeps.mk_iff] | intro _
                                | apply Keeps.ite | split | dsimp only)

theorem Keeps.reclaim {z s : State} (h : Keeps z s) : Keeps z (State.reclaim s) := by
  unfold State.reclaim
  repeat' (with_reducible first | assumption | apply Keeps.flashWrite | apply Keeps.foldl | apply Keeps.foldl_fst
                                | apply Keeps.foldl_snd | intro _ | apply Keeps.ite | split | dsimp only)

theorem Keeps.writeRecord {z s : State} (h : Keeps z s) (a1) : Keeps z (State.writeRecord s a1) := by
  unfold State.writeRecord
  repeat' (with_reducible first | assumption | apply Keeps.bump | apply Keeps.flashWrite | apply Keeps.selectRecords
                                | apply Keeps.reclaim | intro _ | apply Keeps.ite | split | dsimp only)

theorem Keeps.cfgRecordWrite {z s : State} (h : Keeps z s) (a1) : Keeps z (State.cfgRecordWrite s a1) := by
  unfold State.cfgRecordWrite
  repeat' (with_reducible first | assumption | apply Keeps.bump | apply Keeps.ycp | apply Keeps.done | apply Keeps.selectRecords
                                | apply Keeps.counterRaise | apply Keeps.writeRecord | intro _ | apply Keeps.ite | split | dsimp only)

theorem Keeps.fwWrite {z s : State} (h : Keeps z s) (a1 a2 a3 a4) : Keeps z (State.fwWrite s a1 a2 a3 a4) := by
  unfold State.fwWrite
  repeat' (with_reducible first | assumption | apply Keeps.ycp | apply Keeps.done | apply Keeps.flashWrite | intro _ | apply Keeps.ite
                                | split | dsimp only)

theorem Keeps.fwActivate {z s : State} (h : Keeps z s) (a1) : Keeps z (State.fwActivate s a1) := by
  unfold State.fwActivate
  repeat' (with_reducible first | assumption | apply Keeps.ycp | apply Keeps.done | apply Keeps.writeRecord | intro _ | apply Keeps.ite
                                | split | dsimp only)

theorem Keeps.attest {z s : State} (h : Keeps z s) (a1) : Keeps z (State.attest s a1) := by
  unfold State.attest
  repeat' (with_reducible first | assumption | apply Keeps.bump | apply Keeps.ycp | apply Keeps.done | intro _ | apply Keeps.ite | split
                                | dsimp only)

end Sys2Proof.Machine
end

