-- ==== Sys2Proof/Laws/KeepsDevice.lean ====
section
/-! SUPPORT. What the operations of stops, long runs, resets, the host port, the module and register writes do not do (Laws/Keeps.lean says what `Keeps` means). -/
set_option linter.unusedTactic false
set_option linter.unusedSimpArgs false
set_option linter.unreachableTactic false

namespace Sys2Proof.Machine

/-! ### Machine/Debug.lean -/

theorem Keeps.tileRegStore {z s : State} (h : Keeps z s) (a1 a2 a3 a4) : Keeps z (State.tileRegStore s a1 a2 a3 a4) := by
  unfold State.tileRegStore
  repeat' (with_reducible first | assumption | apply Keeps.storeWord | apply Keeps.phaseWrite | apply Keeps.spdClear
                                | apply Keeps.qcfgWrite | apply Keeps.semWrite | intro _ | apply Keeps.ite | split | dsimp only)

theorem Keeps.tileWrite {z s : State} (h : Keeps z s) (a1 a2 a3 a4) : Keeps z (State.tileWrite s a1 a2 a3 a4) := by
  unfold State.tileWrite
  repeat' (with_reducible first | assumption | apply Keeps.islandWrite | apply Keeps.tileRegStore | intro _ | split | dsimp only)

theorem Keeps.haltSend {z s : State} (h : Keeps z s) (a1) : Keeps z (State.haltSend s a1) := by
  unfold State.haltSend
  repeat' (with_reducible first | assumption | apply Keeps.onPort | apply Keeps.foldl | apply Keeps.foldl_fst | apply Keeps.foldl_snd
                                | simp only [Keeps.mk_iff] | intro _ | apply Keeps.ite | split | dsimp only)

theorem Keeps.haltBegin {z s : State} (h : Keeps z s) (a1 a2 a3) : Keeps z (State.haltBegin s a1 a2 a3) := by
  unfold State.haltBegin
  repeat' (with_reducible first | assumption | apply Keeps.wr | apply Keeps.onTile | apply Keeps.onPort | apply Keeps.haltSend
                                | apply Keeps.foldl | apply Keeps.foldl_fst | apply Keeps.foldl_snd | simp only [Keeps.mk_iff] | intro _
                                | split | dsimp only)

theorem Keeps.haltGo {z s : State} (h : Keeps z s) (a1 a2) : Keeps z (State.haltGo s a1 a2) := by
  unfold State.haltGo
  repeat' (with_reducible first | assumption | apply Keeps.wr | apply Keeps.haltBegin | simp only [Keeps.mk_iff] | intro _
                                | apply Keeps.ite | split | dsimp only)

theorem Keeps.haltComplete {z s : State} (h : Keeps z s) : Keeps z (State.haltComplete s) := by
  unfold State.haltComplete
  repeat' (with_reducible first | assumption | apply Keeps.wr | apply Keeps.bump | apply Keeps.postEvent | intro _ | apply Keeps.ite
                                | split | dsimp only)

theorem Keeps.linkMark {z s : State} (h : Keeps z s) (a1 a2) : Keeps z (State.linkMark s a1 a2) := by
  unfold State.linkMark
  repeat' (with_reducible first | assumption | apply Keeps.onPort | simp only [Keeps.mk_iff] | intro _ | apply Keeps.ite | split
                                | dsimp only)

theorem Keeps.haltReceive {z s : State} (h : Keeps z s) (a1 a2 a3 a4 a5) : Keeps z (State.haltReceive s a1 a2 a3 a4 a5) := by
  unfold State.haltReceive
  repeat' (with_reducible first | assumption | apply Keeps.bump | apply Keeps.haltBegin | apply Keeps.linkMark
                                | simp only [Keeps.mk_iff] | intro _ | apply Keeps.ite | split | dsimp only)

theorem Keeps.linkTimeout {z s : State} (h : Keeps z s) (a1) : Keeps z (State.linkTimeout s a1) := by
  unfold State.linkTimeout
  repeat' (with_reducible first | assumption | apply Keeps.linkLost | intro _ | apply Keeps.ite | split | dsimp only)

theorem Keeps.hfUnit {z s : State} (h : Keeps z s) (a1 a2 a3) : Keeps z (State.hfUnit s a1 a2 a3).1 := by
  unfold State.hfUnit
  repeat' (with_reducible first | assumption | apply Keeps.cnt | apply Keeps.setBytes | apply Keeps.busFault | apply Keeps.decodeError
                                | apply Keeps.reach | apply Keeps.storeWord | apply Keeps.unitWrite | apply Keeps.foldl
                                | apply Keeps.foldl_fst | apply Keeps.foldl_snd | intro _ | apply Keeps.ite | apply Keeps.ite_fst
                                | split | dsimp only)

theorem Keeps.hfWrite {z s : State} (h : Keeps z s) (a1 a2 a3) : Keeps z (State.hfWrite s a1 a2 a3) := by
  unfold State.hfWrite
  repeat' (with_reducible first | assumption | apply Keeps.spanCount | apply Keeps.lineFlits | apply Keeps.hfUnit | apply Keeps.foldl
                                | apply Keeps.foldl_fst | apply Keeps.foldl_snd | intro _ | apply Keeps.ite | split | dsimp only)

theorem Keeps.scanOut {z s : State} (h : Keeps z s) : Keeps z (State.scanOut s) := by
  unfold State.scanOut
  repeat' (with_reducible first | assumption | apply Keeps.postEvent | apply Keeps.postEventFree | apply Keeps.hfWrite
                                | simp only [Keeps.mk_iff] | intro _ | apply Keeps.ite | split | dsimp only)

theorem Keeps.shiftDeadlines {z s : State} (h : Keeps z s) (a1) : Keeps z (State.shiftDeadlines s a1) := by
  unfold State.shiftDeadlines
  repeat' (with_reducible first | assumption | simp only [Keeps.mk_iff] | intro _ | apply Keeps.ite | split | dsimp only)

theorem Keeps.linkRelease {z s : State} (h : Keeps z s) (a1) : Keeps z (State.linkRelease s a1) := by
  unfold State.linkRelease
  repeat' (with_reducible first | assumption | apply Keeps.onPort | apply Keeps.recordTake | simp only [Keeps.mk_iff] | intro _ | split
                                | dsimp only)

theorem Keeps.unstop {z s : State} (h : Keeps z s) (a1) : Keeps z (State.unstop s a1) := by
  unfold State.unstop
  repeat' (with_reducible first | assumption | apply Keeps.onTile | simp only [Keeps.mk_iff] | intro _ | split | dsimp only)

theorem Keeps.haltResume {z s : State} (h : Keeps z s) : Keeps z (State.haltResume s) := by
  unfold State.haltResume
  repeat' (with_reducible first | assumption | apply Keeps.wr | apply Keeps.tileRegStore | apply Keeps.haltSend
                                | apply Keeps.shiftDeadlines | apply Keeps.linkRelease | apply Keeps.unstop | apply Keeps.foldl
                                | apply Keeps.foldl_fst | apply Keeps.foldl_snd | simp only [Keeps.mk_iff] | intro _ | apply Keeps.ite
                                | split | dsimp only)

theorem Keeps.resumeWrite {z s : State} (h : Keeps z s) (a1) : Keeps z (State.resumeWrite s a1) := by
  unfold State.resumeWrite
  repeat' (with_reducible first | assumption | apply Keeps.wr | apply Keeps.haltResume | intro _ | apply Keeps.ite | split | dsimp only)

theorem Keeps.resumeReceive {z s : State} (h : Keeps z s) (a1 a2) : Keeps z (State.resumeReceive s a1 a2) := by
  unfold State.resumeReceive
  repeat' (with_reducible first | assumption | apply Keeps.bump | apply Keeps.haltResume | intro _ | apply Keeps.ite | split
                                | dsimp only)

theorem Keeps.flitArrive {z s : State} (h : Keeps z s) (a1 a2) : Keeps z (State.flitArrive s a1 a2) := by
  unfold State.flitArrive
  repeat' (with_reducible first | assumption | apply Keeps.flitReceive | apply Keeps.haltReceive | apply Keeps.resumeReceive | intro _
                                | apply Keeps.ite | split | dsimp only)

theorem Keeps.enginePut {z s : State} (h : Keeps z s) (a1 a2) : Keeps z (State.enginePut s a1 a2) := by
  unfold State.enginePut
  repeat' (with_reducible first | assumption | apply Keeps.cnt | apply Keeps.unitWrite | apply Keeps.lineFlits | apply Keeps.foldl
                                | apply Keeps.foldl_fst | apply Keeps.foldl_snd | simp only [Keeps.mk_iff] | intro _ | split
                                | dsimp only)

theorem Keeps.pcsWrite {z s : State} (h : Keeps z s) (a1 a2 a3 a4) : Keeps z (State.pcsWrite s a1 a2 a3 a4) := by
  unfold State.pcsWrite
  repeat' (with_reducible first | assumption | apply Keeps.enginePut | intro _ | split | dsimp only)

theorem Keeps.pcsSample {z s : State} (h : Keeps z s) : Keeps z (State.pcsSample s) := by
  unfold State.pcsSample
  repeat' (with_reducible first | assumption | apply Keeps.wr | apply Keeps.bump | apply Keeps.pcsWrite | simp only [Keeps.mk_iff]
                                | intro _ | apply Keeps.ite | split | dsimp only)

theorem Keeps.pcsCfg {z s : State} (h : Keeps z s) (a1) : Keeps z (State.pcsCfg s a1) := by
  unfold State.pcsCfg
  repeat' (with_reducible first | assumption | apply Keeps.wr | apply Keeps.ycp | apply Keeps.done | apply Keeps.foldl
                                | apply Keeps.foldl_fst | apply Keeps.foldl_snd | simp only [Keeps.mk_iff] | intro _ | apply Keeps.ite
                                | split | dsimp only)

theorem Keeps.pcsTail {z s : State} (h : Keeps z s) (a1) : Keeps z (State.pcsTail s a1) :=
  h.ycp _ _ fun _ _ hs => Keeps.ite_fst hs (hs.wr ..)

theorem Keeps.break_ {z s : State} (h : Keeps z s) (a1) : Keeps z (State.break_ s a1) := by
  unfold State.break_
  repeat' (with_reducible first | assumption | apply Keeps.bump | apply Keeps.onCore | apply Keeps.retire | apply Keeps.coreRow
                                | simp only [Keeps.mk_iff] | intro _ | apply Keeps.ite | split | dsimp only)

theorem Keeps.unbreak {z s : State} (h : Keeps z s) (a1) : Keeps z (State.unbreak s a1) := by
  unfold State.unbreak
  repeat' (with_reducible first | assumption | apply Keeps.onCore | simp only [Keeps.mk_iff] | intro _ | apply Keeps.ite | split
                                | dsimp only)

theorem Keeps.debugClose {z s : State} (h : Keeps z s) : Keeps z (State.debugClose s) := by
  unfold State.debugClose
  repeat' (with_reducible first | assumption | apply Keeps.wr | apply Keeps.unbreak | apply Keeps.foldl | apply Keeps.foldl_fst
                                | apply Keeps.foldl_snd | simp only [Keeps.mk_iff] | intro _ | split | dsimp only)

theorem Keeps.debugExpiry {z s : State} (h : Keeps z s) : Keeps z (State.debugExpiry s) := by
  unfold State.debugExpiry
  repeat' (with_reducible first | assumption | apply Keeps.debugClose | intro _ | apply Keeps.ite | split | dsimp only)

theorem Keeps.nonceExpiry {z s : State} (h : Keeps z s) : Keeps z (State.nonceExpiry s) := by
  unfold State.nonceExpiry
  repeat' (with_reducible first | assumption | simp only [Keeps.mk_iff] | intro _ | apply Keeps.ite | split | dsimp only)

theorem Keeps.dbgChallenge {z s : State} (h : Keeps z s) (a1) : Keeps z (State.dbgChallenge s a1) := by
  unfold State.dbgChallenge
  repeat' (with_reducible first | assumption | apply Keeps.takeFree | apply Keeps.ycp | apply Keeps.done | simp only [Keeps.mk_iff]
                                | intro _ | apply Keeps.ite | split | dsimp only)

theorem Keeps.dbgUnlock {z s : State} (h : Keeps z s) (a1) : Keeps z (State.dbgUnlock s a1) := by
  unfold State.dbgUnlock
  repeat' (with_reducible first | assumption | apply Keeps.wr | apply Keeps.bump | apply Keeps.answer | apply Keeps.postEventFree
                                | apply Keeps.ycp | apply Keeps.done | apply Keeps.debugClose | simp only [Keeps.mk_iff] | intro _
                                | apply Keeps.ite | split | dsimp only)

theorem Keeps.globalStop {z s : State} (h : Keeps z s) (a1) : Keeps z (State.globalStop s a1) := by
  unfold State.globalStop
  repeat' (with_reducible first | assumption | apply Keeps.wr | apply Keeps.ycp | apply Keeps.done | apply Keeps.haltBegin
                                | simp only [Keeps.mk_iff] | intro _ | apply Keeps.ite | split | dsimp only)

theorem Keeps.resumeCmd {z s : State} (h : Keeps z s) (a1) : Keeps z (State.resumeCmd s a1) := by
  unfold State.resumeCmd
  repeat' (with_reducible first | assumption | apply Keeps.ycp | apply Keeps.done | apply Keeps.haltResume | apply Keeps.unbreak
                                | intro _ | apply Keeps.ite | split | dsimp only)

/-! ### Machine/Long.lean -/

theorem Keeps.crcHold {z s : State} (h : Keeps z s) : Keeps z (State.crcHold s).2 := by
  unfold State.crcHold
  repeat' (with_reducible first | assumption | apply Keeps.cnt | intro _ | split | dsimp only)

theorem Keeps.hfAwake {z s : State} (h : Keeps z s) {f : State → State} (hf : Keeps z (f s)) : Keeps z (State.hfAwake s f) := by
  unfold State.hfAwake
  exact h.ite hf

theorem Keeps.crcCtrl {z s : State} (h : Keeps z s) (a1) : Keeps z (State.crcCtrl s a1) := by
  unfold State.crcCtrl
  repeat' (with_reducible first | assumption | apply Keeps.wr | apply Keeps.crcHold | simp only [Keeps.mk_iff] | intro _ | split
                                | dsimp only)

theorem Keeps.crcData {z s : State} (h : Keeps z s) (a1 a2) : Keeps z (State.crcData s a1 a2) := by
  unfold State.crcData
  repeat' (with_reducible first | assumption | apply Keeps.cnt | apply Keeps.crcHold | apply Keeps.foldl | apply Keeps.foldl_fst
                                | apply Keeps.foldl_snd | simp only [Keeps.mk_iff] | intro _ | split | dsimp only)

theorem Keeps.crcRead {z s : State} (h : Keeps z s) (a1) : Keeps z (State.crcRead s a1) := by
  unfold State.crcRead
  repeat' (with_reducible first | assumption | apply Keeps.answer | apply Keeps.crcHold | intro _ | split | dsimp only)

theorem Keeps.lineStop {z s : State} (h : Keeps z s) (a1) : Keeps z (State.lineStop s a1) := by
  unfold State.lineStop
  repeat' (with_reducible first | assumption | apply Keeps.cnt | apply Keeps.reach | intro _ | split | dsimp only)

theorem Keeps.lineHold {z s : State} (h : Keeps z s) (a1 a2) : Keeps z (State.lineHold s a1 a2) := by
  unfold State.lineHold
  repeat' (with_reducible first | assumption | apply Keeps.cnt | apply Keeps.foldl | apply Keeps.foldl_fst | apply Keeps.foldl_snd
                                | intro _ | apply Keeps.ite | split | dsimp only)

theorem Keeps.engineRead {z s : State} (h : Keeps z s) (a1 a2) : Keeps z (State.engineRead s a1 a2) := by
  unfold State.engineRead
  repeat' (with_reducible first | assumption | apply Keeps.lineDefer | apply Keeps.spanRead | apply Keeps.lineFlits | intro _ | split
                                | dsimp only)

theorem Keeps.scanRead {z s : State} (h : Keeps z s) (a1 a2) : Keeps z (State.scanRead s a1 a2).1 := by
  unfold State.scanRead
  repeat' (with_reducible first | assumption | apply Keeps.engineRead | intro _ | apply Keeps.ite | apply Keeps.ite_fst | split
                                | dsimp only)

theorem Keeps.crcScan {z s : State} (h : Keeps z s) (a1) : Keeps z (State.crcScan s a1) := by
  unfold State.crcScan
  repeat' (with_reducible first | assumption | apply Keeps.cnt | apply Keeps.irq | apply Keeps.ycp | apply Keeps.done
                                | apply Keeps.lineStop | apply Keeps.lineHold | apply Keeps.scanRead | intro _ | apply Keeps.ite | split
                                | dsimp only)

theorem Keeps.skipEnd {z s : State} (h : Keeps z s) (a1) : Keeps z (State.skipEnd s a1) := by
  unfold State.skipEnd
  repeat' (with_reducible first | assumption | apply Keeps.wr | simp only [Keeps.mk_iff] | intro _ | split | dsimp only)

theorem Keeps.skipAbort {z s : State} (h : Keeps z s) (a1) : Keeps z (State.skipAbort s a1) := by
  unfold State.skipAbort
  repeat' (with_reducible first | assumption | apply Keeps.bump | apply Keeps.postEventFree | apply Keeps.skipEnd | intro _
                                | apply Keeps.ite | split | dsimp only)

theorem Keeps.skipStart {z s : State} (h : Keeps z s) (a1) : Keeps z (State.skipStart s a1) := by
  unfold State.skipStart
  repeat' (with_reducible first | assumption | apply Keeps.wr | apply Keeps.takeFree | apply Keeps.ycp | apply Keeps.done
                                | apply Keeps.skipAbort | simp only [Keeps.mk_iff] | intro _ | apply Keeps.ite | split | dsimp only)

theorem Keeps.skipAlive {z s : State} (h : Keeps z s) : Keeps z (State.skipAlive s) := by
  unfold State.skipAlive
  repeat' (with_reducible first | assumption | apply Keeps.wr | simp only [Keeps.mk_iff] | intro _ | split | dsimp only)

theorem Keeps.skipWrite {z s : State} (h : Keeps z s) (a1 a2) : Keeps z (State.skipWrite s a1 a2) := by
  unfold State.skipWrite
  repeat' (with_reducible first | assumption | apply Keeps.cnt | apply Keeps.enginePut | apply Keeps.skipAlive | intro _
                                | apply Keeps.ite | split | dsimp only)

theorem Keeps.skipData {z s : State} (h : Keeps z s) (a1) : Keeps z (State.skipData s a1) := by
  unfold State.skipData
  repeat' (with_reducible first | assumption | apply Keeps.cnt | apply Keeps.engineRead | apply Keeps.skipWrite
                                | simp only [Keeps.mk_iff] | intro _ | apply Keeps.ite | split | dsimp only)

theorem Keeps.chunkStaged {z s : State} (h : Keeps z s) (a1 a2) : Keeps z (State.chunkStaged s a1 a2) := by
  unfold State.chunkStaged
  repeat' (with_reducible first | assumption | simp only [Keeps.mk_iff] | intro _ | apply Keeps.ite | split | dsimp only)

theorem Keeps.skipNext {z s s' : State} {k} (hn : State.skipNext s k = .step s') (h : Keeps z s) : Keeps z s' := by
  unfold State.skipNext at hn
  split at hn
  · injection hn
  split at hn
  · injection hn with hn
    exact hn ▸ (h.skipWrite ..).chunkStaged ..
  split at hn
  · injection hn with hn
    exact hn ▸ (h.skipWrite ..).chunkStaged ..
  dsimp only at hn
  split at hn
  · split at hn <;> injection hn
  · injection hn with hn
    exact hn ▸ (h.skipData ..).chunkStaged ..

theorem Keeps.skipHeld {z s : State} (h : Keeps z s) (a1) : Keeps z (State.skipHeld s a1) := by
  unfold State.skipHeld
  repeat' (with_reducible first | assumption | apply Keeps.lineHold | simp only [Keeps.mk_iff] | intro _ | apply Keeps.ite | split
                                | dsimp only)

theorem Keeps.skipCut {z s : State} (h : Keeps z s) (a1) : Keeps z (State.skipCut s a1) := by
  unfold State.skipCut
  repeat' (with_reducible first | assumption | apply Keeps.cnt | apply Keeps.lineStop | apply Keeps.engineRead | intro _ | split
                                | dsimp only)

theorem Keeps.skipStage {z s : State} (h : Keeps z s) (n) : Keeps z (State.skipStage n s) := by
  induction n generalizing s with
  | zero => exact h
  | succ n ih =>
    unfold State.skipStage
    split
    · exact h
    · split
      · exact ih (Keeps.skipNext (by assumption) h)
      · exact h.skipHeld _
      · exact (h.skipCut _).skipAbort _

theorem Keeps.skipBegin {z s : State} (h : Keeps z s) : Keeps z (State.skipBegin s) := by
  unfold State.skipBegin
  repeat' (with_reducible first | assumption | apply Keeps.wr | apply Keeps.skipStage | simp only [Keeps.mk_iff] | intro _
                                | apply Keeps.ite | split | dsimp only)

theorem Keeps.skipPacket {z s : State} (h : Keeps z s) (a1 a2 a3) : Keeps z (State.skipPacket s a1 a2 a3).1 := by
  unfold State.skipPacket
  repeat' (with_reducible first | assumption | apply Keeps.send | simp only [Keeps.mk_iff] | intro _ | split | dsimp only)

theorem Keeps.skipShip {z s : State} (h : Keeps z s) (a1) : Keeps z (State.skipShip s a1) := by
  unfold State.skipShip
  repeat' (with_reducible first | assumption | apply Keeps.engineRead | apply Keeps.skipPacket | apply Keeps.foldl
                                | apply Keeps.foldl_fst | apply Keeps.foldl_snd | simp only [Keeps.mk_iff] | intro _ | apply Keeps.ite
                                | split | dsimp only)

theorem Keeps.skipPump {z s : State} (h : Keeps z s) (n) : Keeps z (State.skipPump n s) := by
  induction n generalizing s with
  | zero => exact h
  | succ n ih =>
    unfold State.skipPump
    repeat' (with_reducible first | assumption | apply ih | apply Keeps.skipShip | apply Keeps.foldl | apply Keeps.foldl_fst
                                  | apply Keeps.foldl_snd | dsimp only | intro _ | split)

theorem Keeps.skipDone {z s : State} (h : Keeps z s) : Keeps z (State.skipDone s) := by
  unfold State.skipDone
  repeat' (with_reducible first | assumption | apply Keeps.postEventFree | apply Keeps.skipEnd | intro _ | split | dsimp only)

theorem Keeps.skipSignal {z s : State} (h : Keeps z s) : Keeps z (State.skipSignal s) := by
  unfold State.skipSignal
  repeat' (with_reducible first | assumption | apply Keeps.send | intro _ | apply Keeps.ite | split | dsimp only)

theorem Keeps.skipStaged {z s : State} (h : Keeps z s) : Keeps z (State.skipStaged s) := by
  unfold State.skipStaged
  repeat' (with_reducible first | assumption | apply Keeps.wr | apply Keeps.cnt | apply Keeps.postEventFree | apply Keeps.skipStage
                                | apply Keeps.skipPump | apply Keeps.skipDone | apply Keeps.skipSignal | intro _ | apply Keeps.ite
                                | split | dsimp only)

theorem Keeps.skipShipped {z s : State} (h : Keeps z s) : Keeps z (State.skipShipped s) := by
  unfold State.skipShipped
  repeat' (with_reducible first | assumption | apply Keeps.bump | apply Keeps.skipPump | apply Keeps.skipDone | simp only [Keeps.mk_iff]
                                | intro _ | apply Keeps.ite | split | dsimp only)

theorem Keeps.skipResend {z s : State} (h : Keeps z s) (a1) : Keeps z (State.skipResend s a1) := by
  unfold State.skipResend
  repeat' (with_reducible first | assumption | apply Keeps.bump | apply Keeps.engineRead | apply Keeps.skipWrite | apply Keeps.skipShip
                                | simp only [Keeps.mk_iff] | intro _ | split | dsimp only)

theorem Keeps.skipTimeout {z s : State} (h : Keeps z s) : Keeps z (State.skipTimeout s) := by
  unfold State.skipTimeout
  repeat' (with_reducible first | assumption | apply Keeps.skipAbort | apply Keeps.skipResend | intro _ | apply Keeps.ite | split
                                | dsimp only)

theorem Keeps.skipBeat {z s : State} (h : Keeps z s) : Keeps z (State.skipBeat s) := by
  unfold State.skipBeat
  repeat' (with_reducible first | assumption | apply Keeps.cnt | apply Keeps.takeFree | apply Keeps.enginePut | apply Keeps.skipAlive
                                | apply Keeps.skipPacket | simp only [Keeps.mk_iff] | intro _ | apply Keeps.ite | split | dsimp only)

theorem Keeps.nhFormat {z s : State} (h : Keeps z s) (a1 a2 a3) : Keeps z (State.nhFormat s a1 a2 a3) := by
  unfold State.nhFormat
  repeat' (with_reducible first | assumption | apply Keeps.wr | apply Keeps.bump | apply Keeps.postEvent | intro _ | apply Keeps.ite
                                | split | dsimp only)

theorem Keeps.nhTake {z s : State} (h : Keeps z s) : Keeps z (State.nhTake s) := by
  unfold State.nhTake
  repeat' (with_reducible first | assumption | apply Keeps.cnt | apply Keeps.nhFormat | apply Keeps.foldl | apply Keeps.foldl_fst
                                | apply Keeps.foldl_snd | simp only [Keeps.mk_iff] | intro _ | apply Keeps.ite | split | dsimp only)

theorem Keeps.nhSample {z s : State} (h : Keeps z s) : Keeps z (State.nhSample s) := by
  unfold State.nhSample
  repeat' (with_reducible first | assumption | apply Keeps.wr | apply Keeps.bump | apply Keeps.snapArm | apply Keeps.nhTake
                                | simp only [Keeps.mk_iff] | intro _ | apply Keeps.ite | split | dsimp only)

theorem Keeps.backfillDone {z s : State} (h : Keeps z s) (a1 a2) : Keeps z (State.backfillDone s a1 a2) := by
  unfold State.backfillDone
  repeat' (with_reducible first | assumption | apply Keeps.postClassWith | intro _ | split | dsimp only)

theorem Keeps.backfill {z s : State} (h : Keeps z s) (a1) : Keeps z (State.backfill s a1) := by
  unfold State.backfill
  repeat' (with_reducible first | assumption | apply Keeps.wr | apply Keeps.epochWrite | apply Keeps.tlyCtrlWrite | apply Keeps.ycp
                                | apply Keeps.done | apply Keeps.backfillDone | simp only [Keeps.mk_iff] | intro _ | apply Keeps.ite
                                | split | dsimp only)

/-! ### Machine/Ras.lean -/

theorem Keeps.notice {z s : State} (h : Keeps z s) (a1 a2 a3 a4 a5) : Keeps z (State.notice s a1 a2 a3 a4 a5) := by
  unfold State.notice
  repeat' (with_reducible first | assumption | apply Keeps.bump | apply Keeps.takeFree | apply Keeps.send | apply Keeps.foldl
                                | apply Keeps.foldl_fst | apply Keeps.foldl_snd | simp only [Keeps.mk_iff] | intro _ | split
                                | dsimp only)

theorem Keeps.noticeReceive {z s : State} (h : Keeps z s) (a1) : Keeps z (State.noticeReceive s a1) := by
  unfold State.noticeReceive
  repeat' (with_reducible first | assumption | apply Keeps.bump | apply Keeps.postEvent | (apply Keeps.netTake <;> assumption) | intro _
                                | apply Keeps.ite | split | dsimp only)

theorem Keeps.logFlash {z s : State} (h : Keeps z s) (a1) : Keeps z (State.logFlash s a1) := by
  unfold State.logFlash
  repeat' (with_reducible first | assumption | apply Keeps.bump | apply Keeps.flashWrite | simp only [Keeps.mk_iff] | intro _
                                | apply Keeps.ite | split | dsimp only)

theorem Keeps.logAppend {z s : State} (h : Keeps z s) (a1) : Keeps z (State.logAppend s a1) := by
  unfold State.logAppend
  repeat' (with_reducible first | assumption | apply Keeps.bump | apply Keeps.logFlash | simp only [Keeps.mk_iff] | intro _
                                | apply Keeps.ite | split | dsimp only)

theorem Keeps.resetDone {z s : State} (h : Keeps z s) (a1) : Keeps z (State.resetDone s a1) := by
  unfold State.resetDone
  repeat' (with_reducible first | assumption | apply Keeps.cnt | apply Keeps.postEventFree | intro _ | split | dsimp only)

theorem Keeps.tileClear {z s : State} (h : Keeps z s) (a1) : Keeps z (State.tileClear s a1) := by
  unfold State.tileClear
  repeat' (with_reducible first | assumption | apply Keeps.phaseMark | apply Keeps.onTile | apply Keeps.restore
                                | simp only [Keeps.mk_iff] | intro _ | split | dsimp only)

theorem Keeps.tileResetBegin {z s : State} (h : Keeps z s) (a1) : Keeps z (State.tileResetBegin s a1) := by
  unfold State.tileResetBegin
  repeat' (with_reducible first | assumption | apply Keeps.onTile | apply Keeps.collTileReset | apply Keeps.tileClear
                                | simp only [Keeps.mk_iff] | intro _ | apply Keeps.ite | split | dsimp only)

theorem Keeps.tileReset {z s : State} (h : Keeps z s) (a1) : Keeps z (State.tileReset s a1) := by
  unfold State.tileReset
  repeat' (with_reducible first | assumption | apply Keeps.wr | apply Keeps.cnt | apply Keeps.onTile | apply Keeps.resetDone
                                | apply Keeps.tileResetBegin | simp only [Keeps.mk_iff] | intro _ | apply Keeps.ite | split
                                | dsimp only)

theorem Keeps.portResetBegin {z s : State} (h : Keeps z s) (a1) : Keeps z (State.portResetBegin s a1) := by
  unfold State.portResetBegin
  repeat' (with_reducible first | assumption | apply Keeps.restore | apply Keeps.setPort | apply Keeps.portMode
                                | apply Keeps.portDiscard | apply Keeps.linkLost | intro _ | apply Keeps.ite | split | dsimp only)

theorem Keeps.portReset {z s : State} (h : Keeps z s) (a1) : Keeps z (State.portReset s a1) := by
  unfold State.portReset
  repeat' (with_reducible first | assumption | apply Keeps.cnt | apply Keeps.onPort | apply Keeps.train | apply Keeps.resetDone
                                | apply Keeps.portResetBegin | simp only [Keeps.mk_iff] | intro _ | apply Keeps.ite | split
                                | dsimp only)

theorem Keeps.hbmcReset {z s : State} (h : Keeps z s) (a1) : Keeps z (State.hbmcReset s a1) := by
  unfold State.hbmcReset
  repeat' (with_reducible first | assumption | apply Keeps.cnt | apply Keeps.irq | apply Keeps.onHbmc | apply Keeps.restore
                                | simp only [Keeps.mk_iff] | intro _ | apply Keeps.ite | split | dsimp only)

theorem Keeps.hbmTrained {z s : State} (h : Keeps z s) (a1) : Keeps z (State.hbmTrained s a1) := by
  unfold State.hbmTrained
  repeat' (with_reducible first | assumption | apply Keeps.cnt | apply Keeps.onHbmc | apply Keeps.hbmTrain | apply Keeps.resetDone
                                | simp only [Keeps.mk_iff] | intro _ | apply Keeps.ite | split | dsimp only)

theorem Keeps.trainingLoss {z s : State} (h : Keeps z s) (a1) : Keeps z (State.trainingLoss s a1) := by
  unfold State.trainingLoss
  repeat' (with_reducible first | assumption | apply Keeps.irq | apply Keeps.reportHbm | apply Keeps.onHbmc | simp only [Keeps.mk_iff]
                                | intro _ | apply Keeps.ite | split | dsimp only)

theorem Keeps.warmBegin {z s : State} (h : Keeps z s) : Keeps z (State.warmBegin s) := by
  unfold State.warmBegin
  refine Keeps.cnt (Keeps.mk_all (m := _) ?_ (swf_sdrop _ _) id id) ..
  repeat' (with_reducible first | assumption | apply Keeps.wr | apply Keeps.cnt | apply Keeps.restore | apply Keeps.onTile
                                | apply Keeps.onHbmc | apply Keeps.setComp | apply Keeps.skipAbort | apply Keeps.foldl
                                | apply Keeps.foldl_fst | apply Keeps.foldl_snd | dsimp only | intro _ | split)

theorem Keeps.warmCall {z s : State} (h : Keeps z s) (a1) : Keeps z (State.warmCall s a1) := by
  unfold State.warmCall
  repeat' (with_reducible first | assumption | simp only [Keeps.mk_iff] | intro _ | apply Keeps.ite | split | dsimp only)

theorem Keeps.warmReset {z s : State} (h : Keeps z s) : Keeps z (State.warmReset s) := by
  unfold State.warmReset
  repeat' (with_reducible first | assumption | apply Keeps.warmBegin | intro _ | apply Keeps.ite | split | dsimp only)

theorem Keeps.coldReset {z s : State} (h : Keeps z s) (a1) : Keeps z (State.coldReset s a1) := by
  unfold State.coldReset
  repeat' (with_reducible first | assumption | apply Keeps.wr | apply Keeps.cnt | apply Keeps.coldState | simp only [Keeps.mk_iff]
                                | intro _ | apply Keeps.ite | split | dsimp only)

theorem Keeps.resetBegin {z s : State} (h : Keeps z s) (a1 a2) : Keeps z (State.resetBegin s a1 a2) := by
  unfold State.resetBegin
  repeat' (with_reducible first | assumption | apply Keeps.compReset | apply Keeps.tileResetBegin | apply Keeps.portResetBegin
                                | apply Keeps.hbmcReset | apply Keeps.warmCall | intro _ | apply Keeps.ite | split | dsimp only)

theorem Keeps.pmArm {z s : State} (h : Keeps z s) : Keeps z (State.pmArm s) := by
  unfold State.pmArm
  repeat' (with_reducible first | assumption | simp only [Keeps.mk_iff] | intro _ | split | dsimp only)

theorem Keeps.pmCollect {z s : State} (h : Keeps z s) (a1 a2) : Keeps z (State.pmCollect s a1 a2) := by
  unfold State.pmCollect
  repeat' (with_reducible first | assumption | apply Keeps.wr | apply Keeps.haltBegin | apply Keeps.resetBegin | apply Keeps.pmArm
                                | apply Keeps.foldl | apply Keeps.foldl_fst | apply Keeps.foldl_snd | simp only [Keeps.mk_iff] | intro _
                                | apply Keeps.ite | split | dsimp only)

theorem Keeps.pmEnd {z s : State} (h : Keeps z s) : Keeps z (State.pmEnd s) := by
  unfold State.pmEnd
  repeat' (with_reducible first | assumption | apply Keeps.resetBegin | apply Keeps.foldl | apply Keeps.foldl_fst
                                | apply Keeps.foldl_snd | simp only [Keeps.mk_iff] | intro _ | split | dsimp only)

theorem Keeps.pmComplete {z s : State} (h : Keeps z s) : Keeps z (State.pmComplete s) := by
  unfold State.pmComplete
  repeat' (with_reducible first | assumption | apply Keeps.wr | apply Keeps.bump | apply Keeps.postEventFree | apply Keeps.hfWrite
                                | apply Keeps.pmArm | apply Keeps.pmEnd | intro _ | apply Keeps.ite | split | dsimp only)

theorem Keeps.rasReport {z s : State} (h : Keeps z s) : Keeps z (State.rasReport s) := by
  unfold State.rasReport
  repeat' (with_reducible first | assumption | apply Keeps.bump | apply Keeps.irq | apply Keeps.postClass | apply Keeps.notice
                                | apply Keeps.logAppend | apply Keeps.resetBegin | apply Keeps.pmCollect | simp only [Keeps.mk_iff]
                                | intro _ | apply Keeps.ite | split | dsimp only)

theorem Keeps.cePoll {z s : State} (h : Keeps z s) : Keeps z (State.cePoll s) := by
  unfold State.cePoll
  repeat' (with_reducible first | assumption | apply Keeps.postEvent | apply Keeps.foldl | apply Keeps.foldl_fst | apply Keeps.foldl_snd
                                | simp only [Keeps.mk_iff] | intro _ | apply Keeps.ite | split | dsimp only)

theorem Keeps.hangReport {z s : State} (h : Keeps z s) (a1 a2) : Keeps z (State.hangReport s a1 a2) := by
  unfold State.hangReport
  repeat' (with_reducible first | assumption | apply Keeps.wr | apply Keeps.bump | apply Keeps.rasQueue | apply Keeps.irq
                                | apply Keeps.postEventFree | apply Keeps.pmCollect | simp only [Keeps.mk_iff] | intro _ | split
                                | dsimp only)

theorem Keeps.hangScan {z s : State} (h : Keeps z s) : Keeps z (State.hangScan s) := by
  unfold State.hangScan
  repeat' (with_reducible first | assumption | apply Keeps.hangReport | apply Keeps.foldl | apply Keeps.foldl_fst
                                | apply Keeps.foldl_snd | simp only [Keeps.mk_iff] | intro _ | apply Keeps.ite | split | dsimp only)

theorem Keeps.resetAnswer {z s : State} (h : Keeps z s) (a1 a2 a3 a4) : Keeps z (State.resetAnswer s a1 a2 a3 a4).1 := by
  unfold State.resetAnswer
  repeat' (with_reducible first | assumption | apply Keeps.takeFree | apply Keeps.notice | simp only [Keeps.mk_iff] | intro _
                                | apply Keeps.ite | apply Keeps.ite_fst | split | dsimp only)

theorem Keeps.resetWarm {z s : State} (h : Keeps z s) (a1 a2) : Keeps z (State.resetWarm s a1 a2).1 := by
  unfold State.resetWarm
  repeat' (with_reducible first | assumption | apply Keeps.warmCall | apply Keeps.resetAnswer | intro _ | split | dsimp only)

theorem Keeps.triggerLog {z s : State} (h : Keeps z s) (a1 a2) : Keeps z (State.triggerLog s a1 a2) := by
  unfold State.triggerLog
  repeat' (with_reducible first | assumption | apply Keeps.logAppend | intro _ | apply Keeps.ite | split | dsimp only)

theorem Keeps.resetCmd {z s : State} (h : Keeps z s) (a1) : Keeps z (State.resetCmd s a1) := by
  unfold State.resetCmd
  repeat' (with_reducible first | assumption | apply Keeps.ycp | apply Keeps.done | apply Keeps.resetBegin | apply Keeps.pmCollect
                                | apply Keeps.resetAnswer | apply Keeps.resetWarm | apply Keeps.triggerLog | simp only [Keeps.mk_iff]
                                | intro _ | apply Keeps.ite | split | dsimp only)

theorem Keeps.getErrors {z s : State} (h : Keeps z s) (a1) : Keeps z (State.getErrors s a1) := by
  unfold State.getErrors
  repeat' (with_reducible first | assumption | apply Keeps.ycp | intro _ | split | dsimp only)

theorem Keeps.pmRead {z s : State} (h : Keeps z s) (a1 a2) : Keeps z (State.pmRead s a1 a2) := by
  unfold State.pmRead
  repeat' (with_reducible first | assumption | apply Keeps.takeFree | apply Keeps.busFault | apply Keeps.decodeError | apply Keeps.ycp
                                | apply Keeps.done | apply Keeps.lineStop | apply Keeps.lineHold | apply Keeps.engineRead | intro _
                                | apply Keeps.ite | split | dsimp only)

theorem Keeps.rasSet {z s : State} (h : Keeps z s) (a1) : Keeps z (State.rasSet s a1) := by
  unfold State.rasSet
  repeat' (with_reducible first | assumption | apply Keeps.storeWord | apply Keeps.ycp | apply Keeps.done | apply Keeps.foldl
                                | apply Keeps.foldl_fst | apply Keeps.foldl_snd | intro _ | apply Keeps.ite | split | dsimp only)

theorem Keeps.rasClear {z s : State} (h : Keeps z s) (a1) : Keeps z (State.rasClear s a1) := by
  unfold State.rasClear
  repeat' (with_reducible first | assumption | apply Keeps.wr | apply Keeps.ycp | apply Keeps.done | intro _ | apply Keeps.ite | split
                                | dsimp only)

/-! ### Machine/Host.lean -/

theorem Keeps.bar2Put {z s : State} (h : Keeps z s) (a1) : Keeps z (State.bar2Put s a1) := by
  unfold State.bar2Put
  repeat' (with_reducible first | assumption | apply Keeps.cnt | apply Keeps.bump | apply Keeps.decodeError | apply Keeps.reach
                                | apply Keeps.lineDefer | apply Keeps.spanWrite | apply Keeps.lineFlits | intro _ | apply Keeps.ite
                                | split | dsimp only)

theorem Keeps.bar2Take {z s : State} (h : Keeps z s) (a1) : Keeps z (State.bar2Take s a1) := by
  unfold State.bar2Take
  repeat' (with_reducible first | assumption | apply Keeps.bar2Put | apply Keeps.foldl | apply Keeps.foldl_fst | apply Keeps.foldl_snd
                                | simp only [Keeps.mk_iff] | intro _ | apply Keeps.ite | split | dsimp only)

theorem Keeps.bar2Drain {z s : State} (h : Keeps z s) : Keeps z (State.bar2Drain s) := by
  unfold State.bar2Drain
  repeat' (with_reducible first | assumption | apply Keeps.bar2Take | intro _ | split | dsimp only)

theorem Keeps.bar2Hold {z s : State} (h : Keeps z s) (a1) : Keeps z (State.bar2Hold s a1) := by
  unfold State.bar2Hold
  repeat' (with_reducible first | assumption | apply Keeps.cnt | intro _ | apply Keeps.ite | split | dsimp only)

theorem Keeps.aerUncorrectable {z s : State} (h : Keeps z s) (a1) : Keeps z (State.aerUncorrectable s a1) := by
  unfold State.aerUncorrectable
  repeat' (with_reducible first | assumption | apply Keeps.bump | simp only [Keeps.mk_iff] | intro _ | apply Keeps.ite | split
                                | dsimp only)

theorem Keeps.unsupported {z s : State} (h : Keeps z s) : Keeps z (State.unsupported s) := by
  unfold State.unsupported
  repeat' (with_reducible first | assumption | apply Keeps.bump | apply Keeps.aerUncorrectable | intro _ | split | dsimp only)

theorem Keeps.bar2Tlp {z s : State} (h : Keeps z s) (a1 a2 a3) : Keeps z (State.bar2Tlp s a1 a2 a3) := by
  unfold State.bar2Tlp
  repeat' (with_reducible first | assumption | apply Keeps.bump | apply Keeps.bar2Take | apply Keeps.bar2Hold
                                | apply Keeps.aerUncorrectable | apply Keeps.unsupported | apply Keeps.foldl | apply Keeps.foldl_fst
                                | apply Keeps.foldl_snd | simp only [Keeps.mk_iff] | intro _ | apply Keeps.ite | split | dsimp only)

theorem Keeps.bar2Write {z s : State} (h : Keeps z s) (a1 a2 a3) : Keeps z (State.bar2Write s a1 a2 a3) := by
  unfold State.bar2Write
  repeat' (with_reducible first | assumption | apply Keeps.bar2Tlp | apply Keeps.foldl | apply Keeps.foldl_fst | apply Keeps.foldl_snd
                                | intro _ | apply Keeps.ite | split | dsimp only)

theorem Keeps.bar2Read {z s : State} (h : Keeps z s) (a1 a2) : Keeps z (State.bar2Read s a1 a2) := by
  unfold State.bar2Read
  repeat' (with_reducible first | assumption | apply Keeps.bar2Drain | apply Keeps.bar2Hold | apply Keeps.unsupported
                                | apply Keeps.foldl | apply Keeps.foldl_fst | apply Keeps.foldl_snd | simp only [Keeps.mk_iff] | intro _
                                | apply Keeps.ite | split | dsimp only)

theorem Keeps.bar2Get {z s : State} (h : Keeps z s) (a1) : Keeps z (State.bar2Get s a1).1 := by
  unfold State.bar2Get
  repeat' (with_reducible first | assumption | apply Keeps.cnt | apply Keeps.bump | apply Keeps.decodeError | apply Keeps.reach
                                | apply Keeps.lineDefer | apply Keeps.spanRead | apply Keeps.lineFlits | intro _ | apply Keeps.ite
                                | apply Keeps.ite_fst | split | dsimp only)

theorem Keeps.bar2Complete {z s : State} (h : Keeps z s) : Keeps z (State.bar2Complete s) := by
  unfold State.bar2Complete
  repeat' (with_reducible first | assumption | apply Keeps.bump | apply Keeps.answer | apply Keeps.bar2Drain | apply Keeps.bar2Get
                                | apply Keeps.foldl | apply Keeps.foldl_fst | apply Keeps.foldl_snd | simp only [Keeps.mk_iff] | intro _
                                | apply Keeps.ite | split | dsimp only)

theorem Keeps.msixFlush {z s : State} (h : Keeps z s) (a1) : Keeps z (State.msixFlush s a1) := by
  unfold State.msixFlush
  repeat' (with_reducible first | assumption | apply Keeps.msixSend | intro _ | apply Keeps.ite | split | dsimp only)

theorem Keeps.msixMask {z s : State} (h : Keeps z s) (a1 a2) : Keeps z (State.msixMask s a1 a2) := by
  unfold State.msixMask
  repeat' (with_reducible first | assumption | apply Keeps.msixFlush | simp only [Keeps.mk_iff] | intro _ | split | dsimp only)

theorem Keeps.pciWrite {z s : State} (h : Keeps z s) (a1) : Keeps z (State.pciWrite s a1) := by
  unfold State.pciWrite
  repeat' (with_reducible first | assumption | apply Keeps.msix | apply Keeps.msixFlush | apply Keeps.foldl | apply Keeps.foldl_fst
                                | apply Keeps.foldl_snd | simp only [Keeps.mk_iff] | intro _ | apply Keeps.ite | split | dsimp only)

theorem Keeps.bar4Put {z s : State} (h : Keeps z s) (a1 a2) : Keeps z (State.bar4Put s a1 a2) := by
  unfold State.bar4Put
  repeat' (with_reducible first | assumption | apply Keeps.msixMask | simp only [Keeps.mk_iff] | intro _ | apply Keeps.ite | split
                                | dsimp only)

theorem Keeps.bar4Write {z s : State} (h : Keeps z s) (a1 a2 a3) : Keeps z (State.bar4Write s a1 a2 a3) := by
  unfold State.bar4Write
  repeat' (with_reducible first | assumption | apply Keeps.unsupported | apply Keeps.bar4Put | intro _ | apply Keeps.ite | split
                                | dsimp only)

theorem Keeps.bar4Read {z s : State} (h : Keeps z s) (a1 a2) : Keeps z (State.bar4Read s a1 a2) := by
  unfold State.bar4Read
  repeat' (with_reducible first | assumption | apply Keeps.answer | apply Keeps.unsupported | intro _ | apply Keeps.ite | split
                                | dsimp only)

theorem Keeps.aditUp {z s : State} (h : Keeps z s) (a1 a2) : Keeps z (State.aditUp s a1 a2) := by
  unfold State.aditUp
  repeat' (with_reducible first | assumption | apply Keeps.irq | simp only [Keeps.mk_iff] | intro _ | apply Keeps.ite | split
                                | dsimp only)

theorem Keeps.aditDown {z s : State} (h : Keeps z s) : Keeps z (State.aditDown s) := by
  unfold State.aditDown
  repeat' (with_reducible first | assumption | apply Keeps.bump | simp only [Keeps.mk_iff] | intro _ | apply Keeps.ite | split
                                | dsimp only)

theorem Keeps.aditReset {z s : State} (h : Keeps z s) : Keeps z (State.aditReset s) := by
  unfold State.aditReset
  repeat' (with_reducible first | assumption | apply Keeps.cnt | simp only [Keeps.mk_iff] | intro _ | split | dsimp only)

theorem Keeps.hostReset {z s : State} (h : Keeps z s) (a1) : Keeps z (State.hostReset s a1) := by
  unfold State.hostReset
  repeat' (with_reducible first | assumption | apply Keeps.irq | apply Keeps.warmCall | apply Keeps.aditDown | apply Keeps.aditReset
                                | simp only [Keeps.mk_iff] | intro _ | apply Keeps.ite | split | dsimp only)

/-! ### Machine/Module.lean -/

theorem Keeps.auxOn {z s : State} (h : Keeps z s) : Keeps z (State.auxOn s) := by
  unfold State.auxOn
  repeat' (with_reducible first | assumption | simp only [Keeps.mk_iff] | intro _ | apply Keeps.ite | split | dsimp only)

theorem Keeps.enRise {z s : State} (h : Keeps z s) : Keeps z (State.enRise s) := by
  unfold State.enRise
  repeat' (with_reducible first | assumption | simp only [Keeps.mk_iff] | intro _ | apply Keeps.ite | split | dsimp only)

theorem Keeps.railsGood {z s : State} (h : Keeps z s) : Keeps z (State.railsGood s) := by
  unfold State.railsGood
  repeat' (with_reducible first | assumption | apply Keeps.wr | apply Keeps.coldState | simp only [Keeps.mk_iff] | intro _
                                | apply Keeps.ite | split | dsimp only)

theorem Keeps.railsDown {z s : State} (h : Keeps z s) : Keeps z (State.railsDown s) := by
  unfold State.railsDown
  repeat' (with_reducible first | assumption | apply Keeps.coldState | simp only [Keeps.mk_iff] | intro _ | split | dsimp only)

theorem Keeps.enFall {z s : State} (h : Keeps z s) : Keeps z (State.enFall s) := by
  unfold State.enFall
  repeat' (with_reducible first | assumption | apply Keeps.railsDown | simp only [Keeps.mk_iff] | intro _ | apply Keeps.ite | split
                                | dsimp only)

theorem Keeps.auxLoss {z s : State} (h : Keeps z s) : Keeps z (State.auxLoss s) := by
  unfold State.auxLoss
  split
  · exact h
  · exact h.coldState.upd rfl rfl rfl id rfl (fun _ => rfl) id rfl

theorem Keeps.perstStart {z s : State} (h : Keeps z s) : Keeps z (State.perstStart s) := by
  unfold State.perstStart
  repeat' (with_reducible first | assumption | (refine Keeps.mk_all ?_ id id (fun _ => Nat.two_pow_pos 64)) | apply Keeps.wr
                                | apply Keeps.tileAlign | apply Keeps.foldl | apply Keeps.foldl_fst | apply Keeps.foldl_snd
                                | simp only [Keeps.mk_iff] | dsimp only | intro _ | split)

theorem Keeps.perstDeassert {z s : State} (h : Keeps z s) : Keeps z (State.perstDeassert s) := by
  unfold State.perstDeassert
  repeat' (with_reducible first | assumption | apply Keeps.perstStart | simp only [Keeps.mk_iff] | intro _ | split | dsimp only)

theorem Keeps.stageWarn {z s : State} (h : Keeps z s) : Keeps z (State.stageWarn s) := by
  unfold State.stageWarn
  repeat' (with_reducible first | assumption | apply Keeps.bump | apply Keeps.irq | simp only [Keeps.mk_iff] | intro _ | apply Keeps.ite
                                | split | dsimp only)

theorem Keeps.stageClear {z s : State} (h : Keeps z s) : Keeps z (State.stageClear s) := by
  unfold State.stageClear
  repeat' (with_reducible first | assumption | simp only [Keeps.mk_iff] | intro _ | split | dsimp only)

theorem Keeps.trip {z s : State} (h : Keeps z s) (a1) : Keeps z (State.trip s a1) := by
  unfold State.trip
  repeat' (with_reducible first | assumption | apply Keeps.tripNow | apply Keeps.foldl | apply Keeps.foldl_fst | apply Keeps.foldl_snd
                                | intro _ | apply Keeps.ite | split | dsimp only)

theorem Keeps.tripRelease {z s : State} (h : Keeps z s) : Keeps z (State.tripRelease s) := by
  unfold State.tripRelease
  repeat' (with_reducible first | assumption | simp only [Keeps.mk_iff] | intro _ | apply Keeps.ite | split | dsimp only)

theorem Keeps.refLoss {z s : State} (h : Keeps z s) : Keeps z (State.refLoss s) := by
  unfold State.refLoss
  repeat' (with_reducible first | assumption | apply Keeps.wr | apply Keeps.report | apply Keeps.onPort | apply Keeps.linkDown
                                | apply Keeps.hostReset | apply Keeps.foldl | apply Keeps.foldl_fst | apply Keeps.foldl_snd
                                | simp only [Keeps.mk_iff] | intro _ | apply Keeps.ite | split | dsimp only)

theorem Keeps.jtagAnswer {z s : State} (h : Keeps z s) (a1 a2) : Keeps z (State.jtagAnswer s a1 a2) := by
  unfold State.jtagAnswer
  repeat' (with_reducible first | assumption | simp only [Keeps.mk_iff] | intro _ | split | dsimp only)

theorem Keeps.jtagStop {z s : State} (h : Keeps z s) (a1 a2 a3) : Keeps z (State.jtagStop s a1 a2 a3) := by
  unfold State.jtagStop
  repeat' (with_reducible first | assumption | apply Keeps.cnt | apply Keeps.decodeError | apply Keeps.reach | apply Keeps.jtagAnswer
                                | simp only [Keeps.mk_iff] | intro _ | apply Keeps.ite | split | dsimp only)

theorem Keeps.jtagRead {z s : State} (h : Keeps z s) (a1 a2 a3) : Keeps z (State.jtagRead s a1 a2 a3) := by
  unfold State.jtagRead
  repeat' (with_reducible first | assumption | apply Keeps.spanRead | apply Keeps.jtagAnswer | apply Keeps.jtagStop | intro _
                                | apply Keeps.ite | split | dsimp only)

theorem Keeps.jtagWrite {z s : State} (h : Keeps z s) (a1 a2 a3) : Keeps z (State.jtagWrite s a1 a2 a3) := by
  unfold State.jtagWrite
  repeat' (with_reducible first | assumption | apply Keeps.setBytes | apply Keeps.decodeError | apply Keeps.unitWrite
                                | apply Keeps.spanCount | apply Keeps.jtagAnswer | apply Keeps.jtagStop | apply Keeps.foldl
                                | apply Keeps.foldl_fst | apply Keeps.foldl_snd | intro _ | split | dsimp only)

theorem Keeps.jtagMem {z s : State} (h : Keeps z s) (a1 a2 a3) : Keeps z (State.jtagMem s a1 a2 a3) := by
  unfold State.jtagMem
  repeat' (with_reducible first | assumption | apply Keeps.decodeError | apply Keeps.jtagAnswer | apply Keeps.jtagRead
                                | apply Keeps.jtagWrite | intro _ | apply Keeps.ite | split | dsimp only)

theorem Keeps.jtagRetry {z s : State} (h : Keeps z s) : Keeps z (State.jtagRetry s) := by
  unfold State.jtagRetry
  repeat' (with_reducible first | assumption | apply Keeps.jtagMem | apply Keeps.foldl | apply Keeps.foldl_fst | apply Keeps.foldl_snd
                                | simp only [Keeps.mk_iff] | intro _ | split | dsimp only)

theorem Keeps.jtagRun {z s : State} (h : Keeps z s) (a1) : Keeps z (State.jtagRun s a1) := by
  unfold State.jtagRun
  repeat' (with_reducible first | assumption | apply Keeps.takeFree | apply Keeps.portMode | apply Keeps.portDiscard
                                | apply Keeps.linkDown | apply Keeps.hostReset | apply Keeps.jtagMem | apply Keeps.jtagRetry
                                | apply Keeps.foldl | apply Keeps.foldl_fst | apply Keeps.foldl_snd | simp only [Keeps.mk_iff] | intro _
                                | apply Keeps.ite | split | dsimp only)

theorem Keeps.imageStart {z s : State} (h : Keeps z s) (a1) : Keeps z (State.imageStart s a1) := by
  unfold State.imageStart
  repeat' (with_reducible first | assumption | apply Keeps.wr | apply Keeps.bump | apply Keeps.setComp | apply Keeps.foldl
                                | apply Keeps.foldl_fst | apply Keeps.foldl_snd | simp only [Keeps.mk_iff] | intro _ | split
                                | dsimp only)

theorem Keeps.uartImage {z s : State} (h : Keeps z s) (a1) : Keeps z (State.uartImage s a1) := by
  unfold State.uartImage
  repeat' (with_reducible first | assumption | simp only [Keeps.mk_iff] | intro _ | split | dsimp only)

theorem Keeps.imageTry {z s : State} (h : Keeps z s) (a1 a2 a3) : Keeps z (State.imageTry s a1 a2 a3).1 := by
  unfold State.imageTry
  repeat' (with_reducible first | assumption | apply Keeps.wr | apply Keeps.setBytes | apply Keeps.imageStart | simp only [Keeps.mk_iff]
                                | intro _ | apply Keeps.ite | apply Keeps.ite_fst | split | dsimp only)

theorem Keeps.tripRecord {z s : State} (h : Keeps z s) : Keeps z (State.tripRecord s) := by
  unfold State.tripRecord
  repeat' (with_reducible first | assumption | apply Keeps.wr | apply Keeps.report | apply Keeps.logFlash | simp only [Keeps.mk_iff]
                                | intro _ | apply Keeps.ite | split | dsimp only)

theorem Keeps.romBegin {z s : State} (h : Keeps z s) (a1) : Keeps z (State.romBegin s a1) := by
  unfold State.romBegin
  repeat' (with_reducible first | assumption | apply Keeps.wr | apply Keeps.cnt | apply Keeps.selectRecords | apply Keeps.tripRecord
                                | apply Keeps.foldl | apply Keeps.foldl_fst | apply Keeps.foldl_snd | simp only [Keeps.mk_iff] | intro _
                                | apply Keeps.ite | split | dsimp only)

theorem Keeps.romBoot {z s : State} (h : Keeps z s) (a1 a2 a3) : Keeps z (State.romBoot s a1 a2 a3) := by
  unfold State.romBoot
  repeat' (with_reducible first | assumption | apply Keeps.uartImage | apply Keeps.imageTry | apply Keeps.romBegin | apply Keeps.foldl
                                | apply Keeps.foldl_fst | apply Keeps.foldl_snd | simp only [Keeps.mk_iff] | intro _ | apply Keeps.ite
                                | split | dsimp only)

theorem Keeps.bootReady {z s : State} (h : Keeps z s) (a1) : Keeps z (State.bootReady s a1) := by
  unfold State.bootReady
  repeat' (with_reducible first | assumption | apply Keeps.wr | simp only [Keeps.mk_iff] | intro _ | apply Keeps.ite | split
                                | dsimp only)

theorem Keeps.bootWatchdog {z s : State} (h : Keeps z s) : Keeps z (State.bootWatchdog s) := by
  unfold State.bootWatchdog
  repeat' (with_reducible first | assumption | apply Keeps.wr | simp only [Keeps.mk_iff] | intro _ | apply Keeps.ite | split
                                | dsimp only)

/-! ### Machine/Commands.lean -/

theorem Keeps.hello {z s : State} (h : Keeps z s) (a1) : Keeps z (State.hello s a1) := by
  unfold State.hello
  repeat' (with_reducible first | assumption | apply Keeps.ycp | apply Keeps.done | simp only [Keeps.mk_iff] | intro _ | apply Keeps.ite
                                | split | dsimp only)

theorem Keeps.getInfo {z s : State} (h : Keeps z s) (a1) : Keeps z (State.getInfo s a1) := by
  unfold State.getInfo
  repeat' (with_reducible first | assumption | apply Keeps.takeFree | apply Keeps.ycp | intro _ | split | dsimp only)

theorem Keeps.evtSubscribe {z s : State} (h : Keeps z s) (a1 a2 a3) : Keeps z (State.evtSubscribe s a1 a2 a3) := by
  unfold State.evtSubscribe
  repeat' (with_reducible first | assumption | apply Keeps.wr | apply Keeps.ycp | apply Keeps.done | apply Keeps.foldl
                                | apply Keeps.foldl_fst | apply Keeps.foldl_snd | simp only [Keeps.mk_iff] | intro _ | apply Keeps.ite
                                | split | dsimp only)

theorem Keeps.echo {z s : State} (h : Keeps z s) (a1) : Keeps z (State.echo s a1) := by
  unfold State.echo
  repeat' (with_reducible first | assumption | apply Keeps.ycp | intro _ | split | dsimp only)

theorem Keeps.setWindow {z s : State} (h : Keeps z s) (a1 a2 a3) : Keeps z (State.setWindow s a1 a2 a3) := by
  unfold State.setWindow
  repeat' (with_reducible first | assumption | apply Keeps.wr | apply Keeps.ycp | apply Keeps.done | intro _ | apply Keeps.ite | split
                                | dsimp only)

theorem Keeps.setBandMode {z s : State} (h : Keeps z s) (a1 a2) : Keeps z (State.setBandMode s a1 a2) := by
  unfold State.setBandMode
  repeat' (with_reducible first | assumption | apply Keeps.bandRequest | apply Keeps.ycp | apply Keeps.done | apply Keeps.foldl
                                | apply Keeps.foldl_fst | apply Keeps.foldl_snd | intro _ | apply Keeps.ite | split | dsimp only)

theorem Keeps.bankClear {z s : State} (h : Keeps z s) (a1 a2 a3) : Keeps z (State.bankClear s a1 a2 a3) := by
  unfold State.bankClear
  repeat' (with_reducible first | assumption | apply Keeps.ycp | apply Keeps.done | apply Keeps.tileWrite | intro _ | apply Keeps.ite
                                | split | dsimp only)

theorem Keeps.queueCfg {z s : State} (h : Keeps z s) (a1 a2) : Keeps z (State.queueCfg s a1 a2) := by
  unfold State.queueCfg
  repeat' (with_reducible first | assumption | apply Keeps.ycp | apply Keeps.done | apply Keeps.tileWrite | apply Keeps.foldl
                                | apply Keeps.foldl_fst | apply Keeps.foldl_snd | intro _ | apply Keeps.ite | split | dsimp only)

theorem Keeps.endWrite {z s : State} (h : Keeps z s) (a1 a2 a3) : Keeps z (State.endWrite s a1 a2 a3) := by
  unfold State.endWrite
  repeat' (with_reducible first | assumption | apply Keeps.tileWrite | intro _ | apply Keeps.ite | split | dsimp only)

theorem Keeps.streamBind {z s : State} (h : Keeps z s) (a1 a2 a3 a4) : Keeps z (State.streamBind s a1 a2 a3 a4) := by
  unfold State.streamBind
  repeat' (with_reducible first | assumption | apply Keeps.ycp | apply Keeps.done | apply Keeps.endWrite | intro _ | apply Keeps.ite
                                | split | dsimp only)

theorem Keeps.paceStages {z s : State} (h : Keeps z s) (a1) : Keeps z (State.paceStages s a1) := by
  unfold State.paceStages
  repeat' (with_reducible first | assumption | apply Keeps.wr | apply Keeps.foldl | apply Keeps.foldl_fst | apply Keeps.foldl_snd
                                | intro _ | apply Keeps.ite | split | dsimp only)

theorem Keeps.stageSet {z s : State} (h : Keeps z s) (a1 a2) : Keeps z (State.stageSet s a1 a2) := by
  unfold State.stageSet
  repeat' (with_reducible first | assumption | apply Keeps.ycp | apply Keeps.done | apply Keeps.tileWrite | apply Keeps.paceStages
                                | apply Keeps.foldl | apply Keeps.foldl_fst | apply Keeps.foldl_snd | intro _ | apply Keeps.ite | split
                                | dsimp only)

theorem Keeps.tileWrite64 {z s : State} (h : Keeps z s) (a1 a2 a3) : Keeps z (State.tileWrite64 s a1 a2 a3) := by
  unfold State.tileWrite64
  repeat' (with_reducible first | assumption | apply Keeps.tileWrite | intro _ | split | dsimp only)

theorem Keeps.srKeys {z s : State} (h : Keeps z s) (a1 a2) : Keeps z (State.srKeys s a1 a2) := by
  unfold State.srKeys
  repeat' (with_reducible first | assumption | apply Keeps.ycp | apply Keeps.done | apply Keeps.tileWrite | apply Keeps.tileWrite64
                                | apply Keeps.foldl | apply Keeps.foldl_fst | apply Keeps.foldl_snd | intro _ | apply Keeps.ite | split
                                | dsimp only)

theorem Keeps.setPerstScope {z s : State} (h : Keeps z s) (a1 a2) : Keeps z (State.setPerstScope s a1 a2) := by
  unfold State.setPerstScope
  repeat' (with_reducible first | assumption | apply Keeps.wr | apply Keeps.ycp | apply Keeps.done | intro _ | apply Keeps.ite | split
                                | dsimp only)

theorem Keeps.tileStart {z s : State} (h : Keeps z s) (a1) : Keeps z (State.tileStart s a1) := by
  unfold State.tileStart
  repeat' (with_reducible first | assumption | apply Keeps.onCore | apply Keeps.ycp | apply Keeps.done | apply Keeps.foldl
                                | apply Keeps.foldl_fst | apply Keeps.foldl_snd | simp only [Keeps.mk_iff] | intro _ | apply Keeps.ite
                                | split | dsimp only)

theorem Keeps.snapshotArm {z s : State} (h : Keeps z s) (a1 a2) : Keeps z (State.snapshotArm s a1 a2) := by
  unfold State.snapshotArm
  repeat' (with_reducible first | assumption | apply Keeps.wr | apply Keeps.snapArm | apply Keeps.ycp | apply Keeps.done | intro _
                                | apply Keeps.ite | split | dsimp only)

theorem Keeps.tallyRole {z s : State} (h : Keeps z s) (a1 a2 a3) : Keeps z (State.tallyRole s a1 a2 a3) := by
  unfold State.tallyRole
  repeat' (with_reducible first | assumption | apply Keeps.tlyCtrlWrite | apply Keeps.ycp | apply Keeps.done | intro _ | apply Keeps.ite
                                | split | dsimp only)

theorem Keeps.rxbufWrite {z s : State} (h : Keeps z s) (a1 a2) : Keeps z (State.rxbufWrite s a1 a2) := by
  unfold State.rxbufWrite
  repeat' (with_reducible first | assumption | apply Keeps.wr | apply Keeps.foldl | apply Keeps.foldl_fst | apply Keeps.foldl_snd
                                | intro _ | apply Keeps.ite | split | dsimp only)

theorem Keeps.portCfg {z s : State} (h : Keeps z s) (a1 a2 a3) : Keeps z (State.portCfg s a1 a2 a3) := by
  unfold State.portCfg
  repeat' (with_reducible first | assumption | apply Keeps.wr | apply Keeps.downRecord | apply Keeps.portEnable | apply Keeps.ycp
                                | apply Keeps.done | apply Keeps.rxbufWrite | intro _ | apply Keeps.ite | split | dsimp only)

theorem Keeps.portRetrainCmd {z s : State} (h : Keeps z s) (a1 a2) : Keeps z (State.portRetrainCmd s a1 a2) := by
  unfold State.portRetrainCmd
  repeat' (with_reducible first | assumption | apply Keeps.portRetrain | apply Keeps.ycp | apply Keeps.done | intro _ | split
                                | dsimp only)

theorem Keeps.setDevId {z s : State} (h : Keeps z s) (a1 a2) : Keeps z (State.setDevId s a1 a2) := by
  unfold State.setDevId
  repeat' (with_reducible first | assumption | apply Keeps.wr | apply Keeps.ycp | apply Keeps.done | intro _ | apply Keeps.ite | split
                                | dsimp only)

theorem Keeps.rtLoadOne {z s : State} (h : Keeps z s) (a1 a2) : Keeps z (State.rtLoadOne s a1 a2) := by
  unfold State.rtLoadOne
  repeat' (with_reducible first | assumption | apply Keeps.wr | apply Keeps.rtWrite | intro _ | split | dsimp only)

theorem Keeps.rtLoad {z s : State} (h : Keeps z s) (a1 a2 a3) : Keeps z (State.rtLoad s a1 a2 a3) := by
  unfold State.rtLoad
  repeat' (with_reducible first | assumption | apply Keeps.bump | apply Keeps.ycp | apply Keeps.done | apply Keeps.rtLoadOne
                                | apply Keeps.foldl | apply Keeps.foldl_fst | apply Keeps.foldl_snd | intro _ | apply Keeps.ite | split
                                | dsimp only)

theorem Keeps.epochSet {z s : State} (h : Keeps z s) (a1 a2) : Keeps z (State.epochSet s a1 a2) := by
  unfold State.epochSet
  repeat' (with_reducible first | assumption | apply Keeps.epochWrite | apply Keeps.ycp | apply Keeps.done | intro _ | apply Keeps.ite
                                | split | dsimp only)

theorem Keeps.vcWeightCmd {z s : State} (h : Keeps z s) (a1 a2 a3) : Keeps z (State.vcWeightCmd s a1 a2 a3) := by
  unfold State.vcWeightCmd
  repeat' (with_reducible first | assumption | apply Keeps.wr | apply Keeps.ycp | apply Keeps.done | apply Keeps.foldl
                                | apply Keeps.foldl_fst | apply Keeps.foldl_snd | intro _ | apply Keeps.ite | split | dsimp only)

theorem Keeps.groupStore {z s : State} (h : Keeps z s) (a1 a2) : Keeps z (State.groupStore s a1 a2) := by
  unfold State.groupStore
  repeat' (with_reducible first | assumption | apply Keeps.wr | intro _ | split | dsimp only)

theorem Keeps.mapFailed {z s : State} (h : Keeps z s) (e) : Keeps z (State.mapFailed s e) := by
  unfold State.mapFailed
  split
  · exact h.lineStop _
  · exact h

theorem Keeps.groupCfg {z s : State} (h : Keeps z s) (a1 a2 a3) : Keeps z (State.groupCfg s a1 a2 a3) := by
  unfold State.groupCfg
  repeat' (with_reducible first | assumption | apply Keeps.ycp | apply Keeps.done | apply Keeps.mapEntries | apply Keeps.lineHold
                                | apply Keeps.groupStore | apply Keeps.mapFailed | simp only [Keeps.mk_iff] | intro _ | apply Keeps.ite
                                | split | dsimp only)

theorem Keeps.groupReset {z s : State} (h : Keeps z s) (a1 a2 a3) : Keeps z (State.groupReset s a1 a2 a3) := by
  unfold State.groupReset
  repeat' (with_reducible first | assumption | apply Keeps.wr | apply Keeps.ycp | apply Keeps.done | intro _ | apply Keeps.ite | split
                                | dsimp only)

theorem Keeps.groupAbort {z s : State} (h : Keeps z s) (a1 a2) : Keeps z (State.groupAbort s a1 a2) := by
  unfold State.groupAbort
  repeat' (with_reducible first | assumption | apply Keeps.wr | apply Keeps.irq | apply Keeps.ycp | apply Keeps.done
                                | apply Keeps.abortRecord | apply Keeps.collAbortHere | intro _ | apply Keeps.ite | split | dsimp only)

theorem Keeps.groupOrder {z s : State} (h : Keeps z s) (a1 a2 a3) : Keeps z (State.groupOrder s a1 a2 a3) := by
  unfold State.groupOrder
  repeat' (with_reducible first | assumption | apply Keeps.wr | apply Keeps.ycp | apply Keeps.done | apply Keeps.mapEntries
                                | apply Keeps.lineHold | apply Keeps.mapFailed | simp only [Keeps.mk_iff] | intro _ | apply Keeps.ite
                                | split | dsimp only)

theorem Keeps.setCap {z s : State} (h : Keeps z s) (a1 a2) : Keeps z (State.setCap s a1 a2) := by
  unfold State.setCap
  repeat' (with_reducible first | assumption | apply Keeps.wr | apply Keeps.capMark | apply Keeps.ycp | apply Keeps.done | intro _
                                | apply Keeps.ite | split | dsimp only)

theorem Keeps.getPower {z s : State} (h : Keeps z s) (a1) : Keeps z (State.getPower s a1) := by
  unfold State.getPower
  repeat' (with_reducible first | assumption | apply Keeps.takeFree | apply Keeps.ycp | intro _ | split | dsimp only)

theorem Keeps.paceMode {z s : State} (h : Keeps z s) (a1 a2) : Keeps z (State.paceMode s a1 a2) := by
  unfold State.paceMode
  repeat' (with_reducible first | assumption | apply Keeps.wr | apply Keeps.ycp | apply Keeps.done | intro _ | split | dsimp only)

theorem Keeps.gateTile {z s : State} (h : Keeps z s) (a1) : Keeps z (State.gateTile s a1) := by
  unfold State.gateTile
  repeat' (with_reducible first | assumption | apply Keeps.setTile | apply Keeps.bankFail | apply Keeps.zeroBank | apply Keeps.foldl
                                | apply Keeps.foldl_fst | apply Keeps.foldl_snd | intro _ | split | dsimp only)

theorem Keeps.wakeTile {z s : State} (h : Keeps z s) (a1) : Keeps z (State.wakeTile s a1) := by
  unfold State.wakeTile
  repeat' (with_reducible first | assumption | apply Keeps.onTile | simp only [Keeps.mk_iff] | intro _ | split | dsimp only)

theorem Keeps.pbGate {z s : State} (h : Keeps z s) (a1 a2 a3) : Keeps z (State.pbGate s a1 a2 a3) := by
  unfold State.pbGate
  repeat' (with_reducible first | assumption | apply Keeps.bump | apply Keeps.ycp | apply Keeps.done | apply Keeps.gateTile
                                | apply Keeps.wakeTile | apply Keeps.foldl | apply Keeps.foldl_fst | apply Keeps.foldl_snd | intro _
                                | apply Keeps.ite | split | dsimp only)

/-! ### Machine/RegWrite.lean -/

theorem Keeps.sizeError {z s : State} (h : Keeps z s) (a1) : Keeps z (State.sizeError s a1) := by
  unfold State.sizeError
  repeat' (with_reducible first | assumption | apply Keeps.bump | apply Keeps.busFault | apply Keeps.foldl | apply Keeps.foldl_fst
                                | apply Keeps.foldl_snd | dsimp only | intro _ | split)

theorem Keeps.regUndecoded {z s : State} (h : Keeps z s) (a1 a2) : Keeps z (State.regUndecoded s a1 a2) := by
  unfold State.regUndecoded
  repeat' (with_reducible first | assumption | apply Keeps.decodeError | apply Keeps.unsupported | intro _ | split | dsimp only)

theorem Keeps.mpuFault {z s : State} (h : Keeps z s) (a1) : Keeps z (State.mpuFault s a1) := by
  unfold State.mpuFault
  repeat' (with_reducible first | assumption | apply Keeps.bump | apply Keeps.busFault | apply Keeps.foldl | apply Keeps.foldl_fst
                                | apply Keeps.foldl_snd | dsimp only | intro _ | split)

theorem Keeps.regStore {z s : State} (h : Keeps z s) (a1 a2 a3) : Keeps z (State.regStore s a1 a2 a3) := by
  unfold State.regStore
  repeat' (with_reducible first | assumption | apply Keeps.capMark | apply Keeps.storeWord | apply Keeps.bandModeWrite
                                | apply Keeps.portEnable | apply Keeps.rtWrite | apply Keeps.epochWrite | apply Keeps.tlyCtrlWrite
                                | apply Keeps.snapArmWrite | apply Keeps.icSrcCfg | apply Keeps.icFix | apply Keeps.haltGo
                                | apply Keeps.resumeWrite | apply Keeps.crcCtrl | apply Keeps.crcData | intro _ | apply Keeps.ite
                                | split | dsimp only)

theorem Keeps.mbxStore {z s : State} (h : Keeps z s) (a1 a2 a3 a4) : Keeps z (State.mbxStore s a1 a2 a3 a4) := by
  unfold State.mbxStore
  repeat' (with_reducible first | assumption | apply Keeps.wr | apply Keeps.setBytes | apply Keeps.doorbell | apply Keeps.mbxReqWrite
                                | intro _ | apply Keeps.ite | split | dsimp only)

theorem Keeps.wordStore {z s : State} (h : Keeps z s) (a1 a2 a3) : Keeps z (State.wordStore s a1 a2 a3) := by
  unfold State.wordStore
  repeat' (with_reducible first | assumption | apply Keeps.wr | apply Keeps.tileWrite | apply Keeps.bootReady | apply Keeps.regStore
                                | apply Keeps.mbxStore | intro _ | apply Keeps.ite | split | dsimp only)

theorem Keeps.wordWrite {z s : State} (h : Keeps z s) (a1 a2 a3) : Keeps z (State.wordWrite s a1 a2 a3) := by
  unfold State.wordWrite
  repeat' (with_reducible first | assumption | apply Keeps.wordStore | intro _ | apply Keeps.ite | split | dsimp only)

theorem Keeps.wordsWrite {z s : State} (h : Keeps z s) (a1 a2) : Keeps z (State.wordsWrite s a1 a2).1 := by
  unfold State.wordsWrite
  repeat' (with_reducible first | assumption | apply Keeps.wordWrite | apply Keeps.foldl | apply Keeps.foldl_fst | apply Keeps.foldl_snd
                                | intro _ | split | dsimp only)

theorem Keeps.regWrite {z s : State} (h : Keeps z s) (a1 a2 a3 a4) : Keeps z (State.regWrite s a1 a2 a3 a4) := by
  unfold State.regWrite
  repeat' (with_reducible first | assumption | apply Keeps.bump | apply Keeps.sizeError | apply Keeps.regUndecoded
                                | apply Keeps.mpuFault | apply Keeps.mbxStore | apply Keeps.wordsWrite | intro _ | apply Keeps.ite
                                | split | dsimp only)

theorem Keeps.regSets {z s : State} (h : Keeps z s) (a1 a2 a3 a4 a5) : Keeps z (State.regSets s a1 a2 a3 a4 a5) := by
  unfold State.regSets
  repeat' (with_reducible first | assumption | apply Keeps.setW1c | apply Keeps.foldl | apply Keeps.foldl_fst | apply Keeps.foldl_snd
                                | intro _ | split | dsimp only)

theorem Keeps.crStore {z s : State} (h : Keeps z s) (a1 a2 a3) : Keeps z (State.crStore s a1 a2 a3) := by
  unfold State.crStore
  repeat' (with_reducible first | assumption | apply Keeps.wr | apply Keeps.icPmrWrite | apply Keeps.icEoi | apply Keeps.icSignal
                                | (apply Keeps.actingComp <;> assumption) | intro _ | apply Keeps.ite | split | dsimp only)

theorem Keeps.crTimers {z s : State} (h : Keeps z s) (a1 a2) : Keeps z (State.crTimers s a1 a2) := by
  unfold State.crTimers
  repeat' (with_reducible first | assumption | apply Keeps.icTimer | apply Keeps.foldl | apply Keeps.foldl_fst | apply Keeps.foldl_snd
                                | intro _ | apply Keeps.ite | split | dsimp only)

theorem Keeps.registerWrite {z s : State} (h : Keeps z s) (a1 a2 a3 a4 a5 a6) : Keeps z (State.registerWrite s a1 a2 a3 a4 a5 a6) := by
  unfold State.registerWrite
  repeat' (with_reducible first | assumption | apply Keeps.busFault | apply Keeps.bar4Write | apply Keeps.regWrite | apply Keeps.regSets
                                | apply Keeps.crStore | apply Keeps.crTimers | apply Keeps.foldl | apply Keeps.foldl_fst
                                | apply Keeps.foldl_snd | intro _ | apply Keeps.ite | split | dsimp only)

theorem Keeps.selectWrite {z s : State} (h : Keeps z s) (a1 a2 a3) : Keeps z (State.selectWrite s a1 a2 a3) := by
  unfold State.selectWrite
  repeat' (with_reducible first | assumption | apply Keeps.regWrite | intro _ | split | dsimp only)

theorem Keeps.readEffect {z s : State} (h : Keeps z s) (a1) : Keeps z (State.readEffect s a1) := by
  unfold State.readEffect
  repeat' (with_reducible first | assumption | apply Keeps.rtAdvance | apply Keeps.crcHold | simp only [Keeps.mk_iff] | intro _
                                | apply Keeps.ite | split | dsimp only)

theorem Keeps.read4 {z s : State} (h : Keeps z s) (a1 a2) : Keeps z (State.read4 s a1 a2) := by
  unfold State.read4
  repeat' (with_reducible first | assumption | apply Keeps.answer | apply Keeps.latchRead | apply Keeps.readEffect | intro _ | split
                                | dsimp only)

theorem Keeps.read8 {z s : State} (h : Keeps z s) (a1 a2) : Keeps z (State.read8 s a1 a2) := by
  unfold State.read8
  repeat' (with_reducible first | assumption | apply Keeps.answer | apply Keeps.readEffect | intro _ | apply Keeps.ite | split
                                | dsimp only)

theorem Keeps.sidebandRead {z s : State} (h : Keeps z s) (a1) : Keeps z (State.sidebandRead s a1) := by
  unfold State.sidebandRead
  repeat' (with_reducible first | assumption | apply Keeps.answer | apply Keeps.read4 | intro _ | apply Keeps.ite | split | dsimp only)

theorem Keeps.regRead {z s : State} (h : Keeps z s) (a1 a2 a3) : Keeps z (State.regRead s a1 a2 a3) := by
  unfold State.regRead
  repeat' (with_reducible first | assumption | apply Keeps.answer | apply Keeps.sizeError | apply Keeps.regUndecoded
                                | apply Keeps.mpuFault | apply Keeps.read4 | apply Keeps.read8 | apply Keeps.sidebandRead | intro _
                                | apply Keeps.ite | split | dsimp only)

theorem Keeps.crRead {z s : State} (h : Keeps z s) (a1 a2 a3) : Keeps z (State.crRead s a1 a2 a3) := by
  unfold State.crRead
  repeat' (with_reducible first | assumption | apply Keeps.answer | apply Keeps.busFault | intro _ | apply Keeps.ite | split
                                | dsimp only)

theorem Keeps.targetRead {z s : State} (h : Keeps z s) (a1 a2 a3) : Keeps z (State.targetRead s a1 a2 a3) := by
  unfold State.targetRead
  repeat' (with_reducible first | assumption | apply Keeps.answer | apply Keeps.bar4Read | apply Keeps.regRead | apply Keeps.crRead
                                | intro _ | apply Keeps.ite | split | dsimp only)

theorem Keeps.rcClear {z s : State} (h : Keeps z s) (a1 a2 a3 a4) : Keeps z (State.rcClear s a1 a2 a3 a4) := by
  unfold State.rcClear
  repeat' (with_reducible first | assumption | apply Keeps.wr | apply Keeps.cnt | apply Keeps.foldl | apply Keeps.foldl_fst
                                | apply Keeps.foldl_snd | intro _ | apply Keeps.ite | split | dsimp only)

theorem Keeps.rcRead {z s : State} (h : Keeps z s) (a1 a2 a3) : Keeps z (State.rcRead s a1 a2 a3) := by
  unfold State.rcRead
  repeat' (with_reducible first | assumption | apply Keeps.regRead | apply Keeps.rcClear | intro _ | split | dsimp only)

theorem Keeps.jtag {z s : State} (h : Keeps z s) (a1) : Keeps z (State.jtag s a1) := by
  unfold State.jtag
  repeat' (with_reducible first | assumption | apply Keeps.jtagAnswer | apply Keeps.jtagRun | apply Keeps.regWrite | apply Keeps.regRead
                                | simp only [Keeps.mk_iff] | intro _ | apply Keeps.ite | split | dsimp only)

/-! ### Machine/Tick.lean -/

theorem Keeps.cntIf {z s : State} (h : Keeps z s) (a1 a2 a3 a4 a5) : Keeps z (State.cntIf s a1 a2 a3 a4 a5) := by
  unfold State.cntIf
  repeat' (with_reducible first | assumption | apply Keeps.cnt | intro _ | apply Keeps.ite | split | dsimp only)

theorem Keeps.tileTime {z s : State} (h : Keeps z s) (a1 a2) : Keeps z (State.tileTime s a1 a2) := by
  unfold State.tileTime
  repeat' (with_reducible first | assumption | apply Keeps.effCnt | apply Keeps.cntIf | apply Keeps.foldl | apply Keeps.foldl_fst
                                | apply Keeps.foldl_snd | intro _ | apply Keeps.ite | split | dsimp only)

theorem Keeps.portTime {z s : State} (h : Keeps z s) (a1 a2) : Keeps z (State.portTime s a1 a2) := by
  unfold State.portTime
  repeat' (with_reducible first | assumption | apply Keeps.cntIf | apply Keeps.foldl | apply Keeps.foldl_fst | apply Keeps.foldl_snd
                                | intro _ | split | dsimp only)

theorem Keeps.deviceTime {z s : State} (h : Keeps z s) (a1) : Keeps z (State.deviceTime s a1) := by
  unfold State.deviceTime
  repeat' (with_reducible first | assumption | apply Keeps.cnt | apply Keeps.cntIf | apply Keeps.foldl | apply Keeps.foldl_fst
                                | apply Keeps.foldl_snd | intro _ | split | dsimp only)

theorem Keeps.timeCounters {z s : State} (h : Keeps z s) (a1) : Keeps z (State.timeCounters s a1) := by
  unfold State.timeCounters
  repeat' (with_reducible first | assumption | apply Keeps.tileTime | apply Keeps.portTime | apply Keeps.deviceTime | apply Keeps.foldl
                                | apply Keeps.foldl_fst | apply Keeps.foldl_snd | intro _ | apply Keeps.ite | split | dsimp only)

end Sys2Proof.Machine
end

