-- ==== Sys2Proof/Laws/PerInstr.lean ====
section
/-! SUPPORT. Statements about every command as syntax, one lemma for each constructor. -/
namespace Sys2Proof.Laws.Data

/-- A command is well formed whatever its data, or it is one of the three that carry data with lengths: a bank access, an HBM access, a flit. -/
def Statement (i : Instr) : Prop :=
  i.wellFormed = true ∨ (∃ t b r u, i = .bankAccess t b r u) ∨ (∃ r u w, i = .hbmAccess r u w) ∨ (∃ p f, i = .flitReceive p f)

theorem selectRegisterWrite (a k v) : Statement (.selectRegisterWrite a k v) := Or.inl rfl
theorem registerWrite (a target size v) : Statement (.registerWrite a target size v) := Or.inl rfl
theorem lowHalfRead (a target size) : Statement (.lowHalfRead a target size) := Or.inl rfl
theorem highHalfRead (a off size) : Statement (.highHalfRead a off size) := Or.inl rfl
theorem rcCounterRead (a off inc) : Statement (.rcCounterRead a off inc) := Or.inl rfl
theorem talignRequestSend : Statement (.talignRequestSend) := Or.inl rfl
theorem talignRequestReceive (n) : Statement (.talignRequestReceive n) := Or.inl rfl
theorem talignResponseReceive (n) : Statement (.talignResponseReceive n) := Or.inl rfl
theorem holdoverEntry : Statement (.holdoverEntry) := Or.inl rfl
theorem xdevLock : Statement (.xdevLock) := Or.inl rfl
theorem replicaResync (k) : Statement (.replicaResync k) := Or.inl rfl
theorem tlySnapArmWrite (v) : Statement (.tlySnapArmWrite v) := Or.inl rfl
theorem tallySnapshot : Statement (.tallySnapshot) := Or.inl rfl
theorem hbmBandModeWrite (reg v) : Statement (.hbmBandModeWrite reg v) := Or.inl rfl
theorem bandModeSwitch : Statement (.bandModeSwitch) := Or.inl rfl
theorem add (t) : Statement (.add t) := Or.inl rfl
theorem sub (t) : Statement (.sub t) := Or.inl rfl
theorem and (t) : Statement (.and t) := Or.inl rfl
theorem or (t) : Statement (.or t) := Or.inl rfl
theorem xor (t) : Statement (.xor t) := Or.inl rfl
theorem sll (t) : Statement (.sll t) := Or.inl rfl
theorem srl (t) : Statement (.srl t) := Or.inl rfl
theorem sra (t) : Statement (.sra t) := Or.inl rfl
theorem slt (t) : Statement (.slt t) := Or.inl rfl
theorem sltu (t) : Statement (.sltu t) := Or.inl rfl
theorem mul (t) : Statement (.mul t) := Or.inl rfl
theorem mulh (t) : Statement (.mulh t) := Or.inl rfl
theorem mulhu (t) : Statement (.mulhu t) := Or.inl rfl
theorem min (t) : Statement (.min t) := Or.inl rfl
theorem max (t) : Statement (.max t) := Or.inl rfl
theorem minu (t) : Statement (.minu t) := Or.inl rfl
theorem maxu (t) : Statement (.maxu t) := Or.inl rfl
theorem lui (t) : Statement (.lui t) := Or.inl rfl
theorem load (t) : Statement (.load t) := Or.inl rfl
theorem store (t) : Statement (.store t) := Or.inl rfl
theorem beq (t) : Statement (.beq t) := Or.inl rfl
theorem bne (t) : Statement (.bne t) := Or.inl rfl
theorem blt (t) : Statement (.blt t) := Or.inl rfl
theorem bge (t) : Statement (.bge t) := Or.inl rfl
theorem bltu (t) : Statement (.bltu t) := Or.inl rfl
theorem bgeu (t) : Statement (.bgeu t) := Or.inl rfl
theorem jal (t) : Statement (.jal t) := Or.inl rfl
theorem jalr (t) : Statement (.jalr t) := Or.inl rfl
theorem crd (t) : Statement (.crd t) := Or.inl rfl
theorem cwr (t) : Statement (.cwr t) := Or.inl rfl
theorem post (t) : Statement (.post t) := Or.inl rfl
theorem postNb (t) : Statement (.postNb t) := Or.inl rfl
theorem postUnblock (t) : Statement (.postUnblock t) := Or.inl rfl
theorem pop (t) : Statement (.pop t) := Or.inl rfl
theorem semSig (t) : Statement (.semSig t) := Or.inl rfl
theorem semSigr (t) : Statement (.semSigr t) := Or.inl rfl
theorem semWait (t) : Statement (.semWait t) := Or.inl rfl
theorem semWaitSatisfied (t) : Statement (.semWaitSatisfied t) := Or.inl rfl
theorem semTry (t) : Statement (.semTry t) := Or.inl rfl
theorem semRd (t) : Statement (.semRd t) := Or.inl rfl
theorem opeIssue (t) : Statement (.opeIssue t) := Or.inl rfl
theorem veIssue (t) : Statement (.veIssue t) := Or.inl rfl
theorem issueUnblock (t) : Statement (.issueUnblock t) := Or.inl rfl
theorem wait (t) : Statement (.wait t) := Or.inl rfl
theorem waitc (t) : Statement (.waitc t) := Or.inl rfl
theorem eventWaitReturn (t) : Statement (.eventWaitReturn t) := Or.inl rfl
theorem specOpen (t) : Statement (.specOpen t) := Or.inl rfl
theorem specBegin (t) : Statement (.specBegin t) := Or.inl rfl
theorem specEnd (t) : Statement (.specEnd t) := Or.inl rfl
theorem specWait (t) : Statement (.specWait t) := Or.inl rfl
theorem specWaitReturn (t) : Statement (.specWaitReturn t) := Or.inl rfl
theorem specResolve (t) : Statement (.specResolve t) := Or.inl rfl
theorem specCommit (t slot) : Statement (.specCommit t slot) := Or.inl rfl
theorem specWritebackLine (t slot) : Statement (.specWritebackLine t slot) := Or.inl rfl
theorem specCancelDone (t slot) : Statement (.specCancelDone t slot) := Or.inl rfl
theorem specTimeout (t slot) : Statement (.specTimeout t slot) := Or.inl rfl
theorem fenceMem (t) : Statement (.fenceMem t) := Or.inl rfl
theorem fenceMemComplete (t) : Statement (.fenceMemComplete t) := Or.inl rfl
theorem brk (t) : Statement (.brk t) := Or.inl rfl
theorem opeMma (t) : Statement (.opeMma t) := Or.inl rfl
theorem opeMma1 (t) : Statement (.opeMma1 t) := Or.inl rfl
theorem opeStep (t) : Statement (.opeStep t) := Or.inl rfl
theorem opeDrainBlock (t) : Statement (.opeDrainBlock t) := Or.inl rfl
theorem opeDrainRowWrite (t) : Statement (.opeDrainRowWrite t) := Or.inl rfl
theorem opeCompletion (t) : Statement (.opeCompletion t) := Or.inl rfl
theorem veAdd (t) : Statement (.veAdd t) := Or.inl rfl
theorem veSub (t) : Statement (.veSub t) := Or.inl rfl
theorem veMul (t) : Statement (.veMul t) := Or.inl rfl
theorem veFma (t) : Statement (.veFma t) := Or.inl rfl
theorem veMin (t) : Statement (.veMin t) := Or.inl rfl
theorem veMax (t) : Statement (.veMax t) := Or.inl rfl
theorem veAbs (t) : Statement (.veAbs t) := Or.inl rfl
theorem veNeg (t) : Statement (.veNeg t) := Or.inl rfl
theorem veExp2 (t) : Statement (.veExp2 t) := Or.inl rfl
theorem veLog2 (t) : Statement (.veLog2 t) := Or.inl rfl
theorem veRcp (t) : Statement (.veRcp t) := Or.inl rfl
theorem veRsqrt (t) : Statement (.veRsqrt t) := Or.inl rfl
theorem veSqrt (t) : Statement (.veSqrt t) := Or.inl rfl
theorem veCmp (t) : Statement (.veCmp t) := Or.inl rfl
theorem veSel (t) : Statement (.veSel t) := Or.inl rfl
theorem veRsum (t) : Statement (.veRsum t) := Or.inl rfl
theorem veRmax (t) : Statement (.veRmax t) := Or.inl rfl
theorem veRmin (t) : Statement (.veRmin t) := Or.inl rfl
theorem veCvt (t) : Statement (.veCvt t) := Or.inl rfl
theorem vePerm (t) : Statement (.vePerm t) := Or.inl rfl
theorem veTransp (t) : Statement (.veTransp t) := Or.inl rfl
theorem veCompletion (t) : Statement (.veCompletion t) := Or.inl rfl
theorem tileQcfgWrite (t q v) : Statement (.tileQcfgWrite t q v) := Or.inl rfl
theorem tileSemWrite (t k v) : Statement (.tileSemWrite t k v) := Or.inl rfl
theorem tilePhaseWrite (t v) : Statement (.tilePhaseWrite t v) := Or.inl rfl
theorem postPacketReceive (n) : Statement (.postPacketReceive n) := Or.inl rfl
theorem signalPacketReceive (n) : Statement (.signalPacketReceive n) := Or.inl rfl
theorem writePacketReceive (n) : Statement (.writePacketReceive n) := Or.inl rfl
theorem ackPacketReceive (n) : Statement (.ackPacketReceive n) := Or.inl rfl
theorem readPacketReceive (n) : Statement (.readPacketReceive n) := Or.inl rfl
theorem readDataReceive (n) : Statement (.readDataReceive n) := Or.inl rfl
theorem bankAccess (t b reqs upset) : Statement (.bankAccess t b reqs upset) := Or.inr (Or.inl ⟨_, _, _, _, rfl⟩)
theorem eccWriteback (t b) : Statement (.eccWriteback t b) := Or.inl rfl
theorem scrubLineRead (t b upset) : Statement (.scrubLineRead t b upset) := Or.inl rfl
theorem spdClearWrite (t b) : Statement (.spdClearWrite t b) := Or.inl rfl
theorem bankClearComplete (t b) : Statement (.bankClearComplete t b) := Or.inl rfl
theorem hbmAccess (req upset wait) : Statement (.hbmAccess req upset wait) := Or.inr (Or.inr (Or.inl ⟨_, _, _, rfl⟩))
theorem hbmRefresh (c) : Statement (.hbmRefresh c) := Or.inl rfl
theorem hbmScrubLineRead (c upset) : Statement (.hbmScrubLineRead c upset) := Or.inl rfl
theorem hbmTrained (c) : Statement (.hbmTrained c) := Or.inl rfl
theorem hoistLinear (t) : Statement (.hoistLinear t) := Or.inl rfl
theorem hoistStrided (t) : Statement (.hoistStrided t) := Or.inl rfl
theorem hoistGather (t) : Statement (.hoistGather t) := Or.inl rfl
theorem hoistScatter (t) : Statement (.hoistScatter t) := Or.inl rfl
theorem hoistCompletion (t q) : Statement (.hoistCompletion t q) := Or.inl rfl
theorem hoistRemoteTimeout (t q) : Statement (.hoistRemoteTimeout t q) := Or.inl rfl
theorem bar2Write (off data poison) : Statement (.bar2Write off data poison) := Or.inl rfl
theorem bar2Read (off len) : Statement (.bar2Read off len) := Or.inl rfl
theorem bar2ReadComplete : Statement (.bar2ReadComplete) := Or.inl rfl
theorem flitTransmit (p) : Statement (.flitTransmit p) := Or.inl rfl
theorem flitReceive (p f) : Statement (.flitReceive p f) := Or.inr (Or.inr (Or.inr ⟨_, _, rfl⟩))
theorem retryReqReceive (p seq ack) : Statement (.retryReqReceive p seq ack) := Or.inl rfl
theorem replayTimeout (p) : Statement (.replayTimeout p) := Or.inl rfl
theorem initFlitReceive (p info) : Statement (.initFlitReceive p info) := Or.inl rfl
theorem downNoticeReceive (p) : Statement (.downNoticeReceive p) := Or.inl rfl
theorem laneLockLoss (p lanes) : Statement (.laneLockLoss p lanes) := Or.inl rfl
theorem crcSilenceTimeout (p) : Statement (.crcSilenceTimeout p) := Or.inl rfl
theorem portEnableWrite (p v) : Statement (.portEnableWrite p v) := Or.inl rfl
theorem portRetrainWrite (p) : Statement (.portRetrainWrite p) := Or.inl rfl
theorem trainingComplete (p) : Statement (.trainingComplete p) := Or.inl rfl
theorem trainingTimeout (p) : Statement (.trainingTimeout p) := Or.inl rfl
theorem alignmentComplete (p lanes peerLanes) : Statement (.alignmentComplete p lanes peerLanes) := Or.inl rfl
theorem autoRetrainTimer (p) : Statement (.autoRetrainTimer p) := Or.inl rfl
theorem packetInject (src) : Statement (.packetInject src) := Or.inl rfl
theorem packetReceivePort (p) : Statement (.packetReceivePort p) := Or.inl rfl
theorem rtAccDataWrite (v) : Statement (.rtAccDataWrite v) := Or.inl rfl
theorem rtAccDataRead (a) : Statement (.rtAccDataRead a) := Or.inl rfl
theorem fabEpochWrite (v) : Statement (.fabEpochWrite v) := Or.inl rfl
theorem allreduce (t) : Statement (.allreduce t) := Or.inl rfl
theorem reduceScatter (t) : Statement (.reduceScatter t) := Or.inl rfl
theorem allgather (t) : Statement (.allgather t) := Or.inl rfl
theorem reduce (t) : Statement (.reduce t) := Or.inl rfl
theorem broadcast (t) : Statement (.broadcast t) := Or.inl rfl
theorem alltoall (t) : Statement (.alltoall t) := Or.inl rfl
theorem barrier (t) : Statement (.barrier t) := Or.inl rfl
theorem seamReadyReceive (n) : Statement (.seamReadyReceive n) := Or.inl rfl
theorem seamDataReceive (n) : Statement (.seamDataReceive n) := Or.inl rfl
theorem seamAckReceive (n) : Statement (.seamAckReceive n) := Or.inl rfl
theorem seamReplayReceive (n) : Statement (.seamReplayReceive n) := Or.inl rfl
theorem collAbortReceive (n) : Statement (.collAbortReceive n) := Or.inl rfl
theorem collStepBegin (g) : Statement (.collStepBegin g) := Or.inl rfl
theorem seamItemAccept (t) : Statement (.seamItemAccept t) := Or.inl rfl
theorem collCommit (g) : Statement (.collCommit g) := Or.inl rfl
theorem collComplete (g) : Statement (.collComplete g) := Or.inl rfl
theorem collStepTimeout (g) : Statement (.collStepTimeout g) := Or.inl rfl
theorem collAckTimeout (g) : Statement (.collAckTimeout g) := Or.inl rfl
theorem collStall (g) : Statement (.collStall g) := Or.inl rfl
theorem hostSideReset (k) : Statement (.hostSideReset k) := Or.inl rfl
theorem unsupportedRequest : Statement (.unsupportedRequest) := Or.inl rfl
theorem msixEvent (v) : Statement (.msixEvent v) := Or.inl rfl
theorem msixUnmask (v mask) : Statement (.msixUnmask v mask) := Or.inl rfl
theorem mbxDoorbellWrite (c v) : Statement (.mbxDoorbellWrite c v) := Or.inl rfl
theorem mbxReqWrite (c word wide v) : Statement (.mbxReqWrite c word wide v) := Or.inl rfl
theorem mbxDispatch : Statement (.mbxDispatch) := Or.inl rfl
theorem hello (c) : Statement (.hello c) := Or.inl rfl
theorem getInfo (c) : Statement (.getInfo c) := Or.inl rfl
theorem evtSubscribe (c classes sources) : Statement (.evtSubscribe c classes sources) := Or.inl rfl
theorem echo (c) : Statement (.echo c) := Or.inl rfl
theorem setWindow (c w base) : Statement (.setWindow c w base) := Or.inl rfl
theorem setBandMode (c bands) : Statement (.setBandMode c bands) := Or.inl rfl
theorem bankClear (c t b) : Statement (.bankClear c t b) := Or.inl rfl
theorem queueCfg (c entries) : Statement (.queueCfg c entries) := Or.inl rfl
theorem streamBind (c enable prod cons) : Statement (.streamBind c enable prod cons) := Or.inl rfl
theorem stageSet (c entries) : Statement (.stageSet c entries) := Or.inl rfl
theorem srKeys (c entries) : Statement (.srKeys c entries) := Or.inl rfl
theorem snapshotArm (c at_) : Statement (.snapshotArm c at_) := Or.inl rfl
theorem tallyRole (c role port) : Statement (.tallyRole c role port) := Or.inl rfl
theorem setPerstScope (c scope) : Statement (.setPerstScope c scope) := Or.inl rfl
theorem tileStart (c) : Statement (.tileStart c) := Or.inl rfl
theorem portCfg (c p cfg) : Statement (.portCfg c p cfg) := Or.inl rfl
theorem portRetrain (c p) : Statement (.portRetrain c p) := Or.inl rfl
theorem setDevId (c id) : Statement (.setDevId c id) := Or.inl rfl
theorem rtLoad (c bank entries) : Statement (.rtLoad c bank entries) := Or.inl rfl
theorem epochSet (c e) : Statement (.epochSet c e) := Or.inl rfl
theorem vcWeight (c ports endStation) : Statement (.vcWeight c ports endStation) := Or.inl rfl
theorem groupCfg (c g cfg) : Statement (.groupCfg c g cfg) := Or.inl rfl
theorem groupReset (c g seq) : Statement (.groupReset c g seq) := Or.inl rfl
theorem groupAbort (c g) : Statement (.groupAbort c g) := Or.inl rfl
theorem groupOrder (c g mode) : Statement (.groupOrder c g mode) := Or.inl rfl
theorem setCap (c watts) : Statement (.setCap c watts) := Or.inl rfl
theorem getPower (c) : Statement (.getPower c) := Or.inl rfl
theorem paceMode (c on) : Statement (.paceMode c on) := Or.inl rfl
theorem pbGate (c k on) : Statement (.pbGate c k on) := Or.inl rfl
theorem reset (c) : Statement (.reset c) := Or.inl rfl
theorem getErrors (c) : Statement (.getErrors c) := Or.inl rfl
theorem postmortemRead (c off) : Statement (.postmortemRead c off) := Or.inl rfl
theorem rasSet (c) : Statement (.rasSet c) := Or.inl rfl
theorem rasClear (c) : Statement (.rasClear c) := Or.inl rfl
theorem dbgChallenge (c) : Statement (.dbgChallenge c) := Or.inl rfl
theorem dbgUnlock (c) : Statement (.dbgUnlock c) := Or.inl rfl
theorem globalStop (c) : Statement (.globalStop c) := Or.inl rfl
theorem resume (c) : Statement (.resume c) := Or.inl rfl
theorem pcsCfg (c) : Statement (.pcsCfg c) := Or.inl rfl
theorem pcsTail (c) : Statement (.pcsTail c) := Or.inl rfl
theorem skipStart (c) : Statement (.skipStart c) := Or.inl rfl
theorem crcScan (c) : Statement (.crcScan c) := Or.inl rfl
theorem backfill (c) : Statement (.backfill c) := Or.inl rfl
theorem fwWrite (c image off data) : Statement (.fwWrite c image off data) := Or.inl rfl
theorem fwActivate (c) : Statement (.fwActivate c) := Or.inl rfl
theorem attest (c) : Statement (.attest c) := Or.inl rfl
theorem cfgRecordWrite (c) : Statement (.cfgRecordWrite c) := Or.inl rfl
theorem rasNoticeReceive (n) : Statement (.rasNoticeReceive n) := Or.inl rfl
theorem componentFault (k cause) : Statement (.componentFault k cause) := Or.inl rfl
theorem heartbeatMiss (k) : Statement (.heartbeatMiss k) := Or.inl rfl
theorem componentRestartComplete (k) : Statement (.componentRestartComplete k) := Or.inl rfl
theorem romBoot (flashErrA flashErrB ctrErr) : Statement (.romBoot flashErrA flashErrB ctrErr) := Or.inl rfl
theorem hfBootReadyWrite (v) : Statement (.hfBootReadyWrite v) := Or.inl rfl
theorem bootWatchdogExpiry : Statement (.bootWatchdogExpiry) := Or.inl rfl
theorem interruptEvent (n) : Statement (.interruptEvent n) := Or.inl rfl
theorem interruptDelivery (core late) : Statement (.interruptDelivery core late) := Or.inl rfl
theorem icSrcCfgWrite (n v) : Statement (.icSrcCfgWrite n v) := Or.inl rfl
theorem icEoiWrite (k v) : Statement (.icEoiWrite k v) := Or.inl rfl
theorem icStackFixWrite (v) : Statement (.icStackFixWrite v) := Or.inl rfl
theorem icSignalWrite (core v) : Statement (.icSignalWrite core v) := Or.inl rfl
theorem icTimerExpiry (core info) : Statement (.icTimerExpiry core info) := Or.inl rfl
theorem headframeStandby : Statement (.headframeStandby) := Or.inl rfl
theorem lampWake : Statement (.lampWake) := Or.inl rfl
theorem estimationWindowClose (w) : Statement (.estimationWindowClose w) := Or.inl rfl
theorem powerLoopInterval (rates) : Statement (.powerLoopInterval rates) := Or.inl rfl
theorem vsetSlewComplete (k) : Statement (.vsetSlewComplete k) := Or.inl rfl
theorem gainCalibration (measured) : Statement (.gainCalibration measured) := Or.inl rfl
theorem droopTrip (k) : Statement (.droopTrip k) := Or.inl rfl
theorem droopHoldEnd (k) : Statement (.droopHoldEnd k) := Or.inl rfl
theorem paceBeaconSend : Statement (.paceBeaconSend) := Or.inl rfl
theorem paceBeaconReceive (n) : Statement (.paceBeaconReceive n) := Or.inl rfl
theorem dbgHaltGoWrite (v id) : Statement (.dbgHaltGoWrite v id) := Or.inl rfl
theorem dbgHaltResumeWrite (v) : Statement (.dbgHaltResumeWrite v) := Or.inl rfl
theorem haltComplete : Statement (.haltComplete) := Or.inl rfl
theorem haltFlitReceive (p lastSeq id origin stamp) : Statement (.haltFlitReceive p lastSeq id origin stamp) := Or.inl rfl
theorem resumeFlitReceive (p id) : Statement (.resumeFlitReceive p id) := Or.inl rfl
theorem linkRecordTimeout (p) : Statement (.linkRecordTimeout p) := Or.inl rfl
theorem scanOut : Statement (.scanOut) := Or.inl rfl
theorem pcsSample : Statement (.pcsSample) := Or.inl rfl
theorem debugAccessExpiry : Statement (.debugAccessExpiry) := Or.inl rfl
theorem nonceExpiry : Statement (.nonceExpiry) := Or.inl rfl
theorem rasErrorReport : Statement (.rasErrorReport) := Or.inl rfl
theorem ceThresholdPoll : Statement (.ceThresholdPoll) := Or.inl rfl
theorem hangScan : Statement (.hangScan) := Or.inl rfl
theorem postmortemComplete : Statement (.postmortemComplete) := Or.inl rfl
theorem tileReset (t) : Statement (.tileReset t) := Or.inl rfl
theorem portReset (p) : Statement (.portReset p) := Or.inl rfl
theorem hbmcReset (c) : Statement (.hbmcReset c) := Or.inl rfl
theorem warmReset : Statement (.warmReset) := Or.inl rfl
theorem coldReset (lowNs) : Statement (.coldReset lowNs) := Or.inl rfl
theorem skipStagingStart : Statement (.skipStagingStart) := Or.inl rfl
theorem skipStaged : Statement (.skipStaged) := Or.inl rfl
theorem skipChunkShipped : Statement (.skipChunkShipped) := Or.inl rfl
theorem skipChunkTimeout : Statement (.skipChunkTimeout) := Or.inl rfl
theorem skipHeartbeat : Statement (.skipHeartbeat) := Or.inl rfl
theorem crcCtrlWrite (v) : Statement (.crcCtrlWrite v) := Or.inl rfl
theorem crcData8Write (v) : Statement (.crcData8Write v) := Or.inl rfl
theorem crcData16Write (v) : Statement (.crcData16Write v) := Or.inl rfl
theorem crcData32Write (v) : Statement (.crcData32Write v) := Or.inl rfl
theorem crcResultRead (a) : Statement (.crcResultRead a) := Or.inl rfl
theorem nhSample : Statement (.nhSample) := Or.inl rfl
theorem rollbackAdvance (good) : Statement (.rollbackAdvance good) := Or.inl rfl
theorem auxPowerOn : Statement (.auxPowerOn) := Or.inl rfl
theorem modPwrEnRise : Statement (.modPwrEnRise) := Or.inl rfl
theorem railsGood : Statement (.railsGood) := Or.inl rfl
theorem modPwrEnFall : Statement (.modPwrEnFall) := Or.inl rfl
theorem perstDeassert : Statement (.perstDeassert) := Or.inl rfl
theorem powerStageWarning : Statement (.powerStageWarning) := Or.inl rfl
theorem trip (causes) : Statement (.trip causes) := Or.inl rfl
theorem refClockLoss : Statement (.refClockLoss) := Or.inl rfl
theorem sidebandI2cRead (off) : Statement (.sidebandI2cRead off) := Or.inl rfl
theorem uartRxChar (c) : Statement (.uartRxChar c) := Or.inl rfl
theorem jtagInstruction (info) : Statement (.jtagInstruction info) := Or.inl rfl
theorem hbmTrainingLoss (c) : Statement (.hbmTrainingLoss c) := Or.inl rfl
theorem powerStageWarningClear : Statement (.powerStageWarningClear) := Or.inl rfl
theorem tripLatchRelease : Statement (.tripLatchRelease) := Or.inl rfl
theorem auxPowerLoss : Statement (.auxPowerLoss) := Or.inl rfl
theorem aditLinkUp (width speed) : Statement (.aditLinkUp width speed) := Or.inl rfl
theorem pciConfigWrite (w) : Statement (.pciConfigWrite w) := Or.inl rfl

end Sys2Proof.Laws.Data
end

