-- ==== Sys2Proof/Laws/Regs.lean ====
section
/-! SUPPORT. The register space: which fields the word at an offset can hold, whatever the selects. -/

namespace Sys2Proof.Machine

/-- Can the word at an offset hold part of the field? A test that needs no selects. -/
def Field.near (f : Field) (off : Nat) : Bool :=
  !f.info.cr && decide (f.info.off ≤ off) &&
    (match f.info.space with
    | .chan => decide ((off - f.info.off) / 0x4000 < 64)
    | .pb => decide ((off - f.info.off) / 0x40 < 16)
    | .core => decide ((off - f.info.off) / 0x80 < 4)
    | _ => decide (off - f.info.off < (if f.info.cnt = 1 then 8 else f.info.cnt * f.info.stride)))

theorem FieldInfo.elem_far {i : FieldInfo} {rel : Nat} (hs : 0 < i.stride) (h : ¬ rel < (if i.cnt = 1 then 8 else i.cnt * i.stride)) :
    i.elem rel = none := by
  unfold FieldInfo.elem
  by_cases h1 : i.cnt = 1
  · simp only [h1, if_true] at h ⊢
    have h0 : rel ≠ 0 := by omega
    have h4 : rel ≠ 4 := by omega
    simp [h0, h4]
  · simp only [h1, if_false] at h ⊢
    have : ¬ rel / i.stride < i.cnt := by
      rw [Nat.div_lt_iff_lt_mul hs]
      exact h
    simp [this]

theorem Field.stride_pos (f : Field) : 0 < f.info.stride := by
  cases f <;> decide

theorem Field.hit_far {f : Field} {off : Nat} (h : f.near off = false) (sel : Sel) : f.hit off sel = none := by
  unfold Field.hit
  by_cases h1 : (f.info.cr || decide (off < f.info.off)) = true
  · simp [h1]
  · simp only [h1]
    simp only [Bool.or_eq_true, decide_eq_true_eq, not_or, Bool.not_eq_true] at h1
    have hn : ¬ f.info.off ≤ off → False := fun h => h1.2 (by omega)
    have hle : f.info.off ≤ off := by omega
    simp only [Field.near, h1.1, hle, decide_true, Bool.not_false, Bool.true_and] at h
    cases hsp : f.info.space <;> simp only [hsp] at h ⊢ <;>
      simp_all [FieldInfo.elem_far (Field.stride_pos f)] <;> omega

/-- The hits of an offset come from the fields near it. -/
theorem hitsAt_near (off : Nat) (sel : Sel) : hitsAt off sel = (Field.all.filter (fun f => f.near off)).filterMap (fun f => f.hit off sel) := by
  unfold hitsAt
  induction Field.all with
  | nil => rfl
  | cons f l ih =>
    cases h : f.near off with
    | true => simp only [List.filter_cons, h, if_true, List.filterMap_cons, ih]
    | false => simp [h, ih, Field.hit_far h]

end Sys2Proof.Machine
end

