-- ==== Sys2Proof/Tests/Slice0.lean ====
section
/-! SUPPORT. Tests: small checks of single commands against the manual's own numbers, the ill-formed commands, and for every statement
with hypotheses a state and operands that meet them. -/
namespace Sys2Proof.Tests
set_option Elab.async false
open Sys2Proof.Machine

/-- A slot is erased where each of its bytes reads 0xFF. -/
theorem slotErased_of_bytes {s : State} {k : Nat} (f : ∀ i, s.flashByte (slotBase k + i) = 0xFF#8) : s.slotErased k = true := by
  refine List.all_eq_true.mpr fun b hb => ?_
  obtain ⟨i, -, rfl⟩ := List.mem_map.mp hb
  rw [f i]; rfl

theorem slotErased_of {s : State} (f : ∀ a, s.flashByte a = 0xFF#8) (k : Nat) : s.slotErased k = true :=
  slotErased_of_bytes fun i => f (slotBase k + i)

/-! ### Helpers -/

/-- A word of the tile core from its fields (R162). -/
def cw (cls rd rs1 rs2 imm : Nat) : Nat := cls * 2 ^ 28 + rd * 2 ^ 23 + rs1 * 2 ^ 18 + rs2 * 2 ^ 13 + imm

/-- Tile 0 running at program counter 0 of CB, where the word w stands, with values in some x registers. -/
def at_ (w : Nat) (xs : List (Nat × Nat) := [(1, 64), (2, 3)]) : State :=
  (State.reset.setTile 0 { tallyValid := true, core := { mode := .running, x := xs } }).setBytes (spdAddr 0 .cb 0) (natLe 4 w)

/-- Does tile 0 fetch the word as an operation? -/
def fetchOk (s : State) (op : CoreOp) (w : CoreWord) : Bool :=
  decide ((s.tile 0).coreReady = true ∧ (s.tile 0).core.pc % 4 = 0 ∧ (s.tile 0).core.pc + 4 ≤ bankSize .cb ∧ s.clearing 0 .cb = false ∧
    s.mark (spdAddr 0 .cb ((s.tile 0).core.pc / 8 * 8)) = 0 ∧
    coreFields (leNat (s.bytes (spdAddr 0 .cb (s.tile 0).core.pc) 4)) = w ∧ coreDecode w = some op)

theorem fetches_of {s : State} {op : CoreOp} {w : CoreWord} (h : fetchOk s op w = true) : s.Fetches 0 op w := by
  obtain ⟨a, b, c, d, e, f, g⟩ := of_decide_eq_true h
  exact ⟨a, b, c, d, e, f, g⟩

theorem marks_zero {s : State} (h : s.ecc = []) (k : Nat) : s.mark k = 0 := by simp [State.mark, h, sget, slook]

theorem slook_mem {α : Type} {k : Nat} {v : α} : ∀ {l : List (Nat × α)}, slook k l = some v → (k, v) ∈ l
  | [], h => by simp [slook] at h
  | (k', w) :: l, h => by
    unfold slook at h
    split at h
    · next e => cases h; subst e; exact List.mem_cons_self
    · exact List.mem_cons_of_mem _ (slook_mem h)

theorem slots_free {s : State} (h : s.tiles.all (fun e => e.2.slots.isEmpty) = true) (u i : Nat) : s.slot u i = {} := by
  have e : (s.tile u).slots = [] := by
    unfold State.tile sget
    cases hl : slook u s.tiles with
    | none => rfl
    | some v => simpa using List.all_eq_true.mp h _ (slook_mem hl)
  simp [State.slot, e, sget, slook]

theorem steady_of {s : State} (h : s.tiles.all (fun e => e.2.slots.isEmpty) = true) (u i : Nat) : (s.slot u i).mode ≠ .committing := by
  rw [slots_free h]; decide

/-! ### Ill-formed commands are refused -/

/-- Is the command refused as ill-formed? -/
def refusedAt (c : Instr) (s : State) : Bool :=
  match exec c s with
  | .refused (.illFormed _) => true
  | _ => false

/-- A bank request that reaches beyond its bank. -/
theorem test_ill_formed_bank : refusedAt (.bankAccess 0 .ma [{ cls := 3, write := false, off := 0x1FFFFC, len := 8 }] .none) State.reset = true ∧
    (Instr.bankAccess 0 .ma [{ cls := 3, write := false, off := 0x1FFFFC, len := 8 }] .none).wellFormed = false := by decide +kernel

/-- A controller write whose data is shorter than its length. -/
theorem test_ill_formed_hbm : refusedAt (.hbmAccess { addr := 0x10000000000, write := true, len := 4, data := [1] } .none 0) State.reset = true ∧
    (Instr.hbmAccess { addr := 0x10000000000, write := true, len := 4, data := [1] } .none 0).wellFormed = false := by decide +kernel

/-- A flit whose body has not 248 bytes (R253). -/
theorem test_ill_formed_flit : refusedAt (.flitReceive 0 { body := [0], welt := 0 }) State.reset = true ∧
    (Instr.flitReceive 0 { body := [0], welt := 0 }).wellFormed = false := by decide +kernel

/-! ### Addresses -/

/-- Does the address decode to the bank offset? -/
def addrOk (t a n : Nat) (b : BankId) (off : Nat) : Bool :=
  match coreAddr t a n with
  | .ok p => decide (p = (b, off))
  | .error _ => false

theorem addr_of {t a n off : Nat} {b : BankId} (h : addrOk t a n b off = true) : coreAddr t a n = .ok (b, off) := by
  unfold addrOk at h
  split at h
  · next p e => rw [e, of_decide_eq_true h]
  · cases h

/-! ### Witnesses: the block, registers and the tile core (statements O1 to O16) -/

theorem witness_StepRunsTheFrontCommand : ({ State.reset with pending := [.talignRequestSend, .bandModeSwitch] } : State).pending =
    .talignRequestSend :: [.bandModeSwitch] := by rfl

/-- The hypotheses, then those of the two tally clauses. -/
theorem witness_IdleStepIsOneNanosecond :
    (State.reset.pending = [] ∧ State.reset.adit.writes = []) ∧
    (let s := { State.reset.wr .tlyStatusDevValid 0 0 1 with mod := { State.reset.mod with refOk := true } }
     s.pending = [] ∧ s.adit.writes = [] ∧ s.devValid = true ∧ s.mod.refOk = true ∧ s.on .tlyStatusCoarseSlew = false ∧ s.talign.slew = 0) ∧
    ({ State.reset with tally := 2 ^ 64 - 1 }.tally < 2 ^ 64 ∧ State.reset.devValid = false) := by decide +kernel

theorem witness_CommandsLeaveTheQueue : (match exec (.semSig 0) (at_ (cw 6 0 1 0 0x305)) with | .next _ => true | _ => false) = true := by
  decide +kernel

/-- A sound state whose step answers a next state. -/
theorem witness_EveryStepKeepsSoundness : ({ at_ 1 with pending := [.add 0] } : State).Sound ∧
    (match step { at_ 1 with pending := [.add 0] } with | .next _ => true | _ => false) = true :=
  ⟨⟨by decide +kernel, by decide +kernel, by decide +kernel, by decide +kernel⟩, by decide +kernel⟩

theorem witness_MonotonicCountersNeverFall : (match step State.reset with | .next _ => true | _ => false) = true := by decide +kernel

theorem witness_OnlyIllFormedCommandsStop : (Instr.add 0).wellFormed = true ∧ (Instr.flitReceive 0 { body := [], welt := 0 }).wellFormed = false := by
  decide +kernel

theorem witness_SelectRegistersAreEachAgentsOwn : Agent.host ≠ .sideband ∧ Agent.dbg ≠ .sideband ∧
    ((State.reset.wr .dbgLockOpen 0 0 1).dbgGrant 0 = true ∨ Agent.host ≠ .dbg) := by decide +kernel

/-- The clauses: an offset the host may not write, one of a wrong size or alignment, and a select register that names an absent port. -/
theorem witness_RegisterWrites : (0x2000 % 4 = 0 ∧ hostMay 0x2000 = false) ∧ sizeOk 0x2002 4 = false ∧ sizeOk 0x2000 2 = false ∧
    (State.reset.wr .portSelIndex (agentIdx (.hf 3)) 0 8).rd .portSelIndex (agentIdx (.hf 3)) ≥
      (State.reset.wr .portSelIndex (agentIdx (.hf 3)) 0 8).variant.ports := by decide +kernel

/-- The two latch clauses. -/
theorem witness_RegisterReads : { State.reset with tally := 2 ^ 64 - 1 }.tally < 2 ^ 64 ∧
    slook (agentIdx (.hf 0)) ({ State.reset with latches := sput ⟨0, [], 0⟩ (agentIdx (.hf 0)) ⟨0x2000, [], 7⟩ [] } : State).latches =
      some ⟨0x2000, [], 7⟩ ∧
    slook (agentIdx (.hf 0)) State.reset.latches = none := by decide +kernel

/-- A word for every operation of the core, written from the encodings of R162 to R166. -/
def coreWords : List (CoreOp × Nat) :=
  [(.add, cw 0 3 1 2 0x00), (.sub, cw 0 3 1 2 0x01), (.and, cw 0 3 1 2 0x02), (.or, cw 0 3 1 2 0x03), (.xor, cw 0 3 1 2 0x04),
   (.sll, cw 0 3 1 2 0x05), (.srl, cw 0 3 1 2 0x06), (.sra, cw 0 3 1 2 0x07), (.slt, cw 0 3 1 2 0x08), (.sltu, cw 0 3 1 2 0x09),
   (.mul, cw 0 3 1 2 0x0A), (.mulh, cw 0 3 1 2 0x0B), (.mulhu, cw 0 3 1 2 0x0C), (.min, cw 0 3 1 2 0x0D), (.max, cw 0 3 1 2 0x0E),
   (.minu, cw 0 3 1 2 0x0F), (.maxu, cw 0 31 31 31 0x10), (.add, cw 1 3 1 0x00 0x1FFF), (.maxu, cw 1 0 1 0x10 0x1FFF), (.lui, cw 1 3 1 0x1F 5),
   (.load, cw 2 3 1 7 0), (.store, cw 3 3 1 2 0x40), (.beq, cw 4 0 1 1 16), (.bne, cw 4 1 1 2 0x1FFF), (.blt, cw 4 2 1 2 1),
   (.bge, cw 4 3 1 2 1), (.bltu, cw 4 4 1 2 1), (.bgeu, cw 4 5 1 2 1), (.jal, cw 4 6 31 5 0x1FFF), (.jalr, cw 4 7 1 5 3),
   (.cwr, cw 5 0 1 2 0), (.crd, cw 5 7 1 0 0), (.post, cw 6 7 1 2 0), (.postNb, cw 6 7 1 2 0x100), (.pop, cw 6 7 1 2 0x205),
   (.semSig, cw 6 0 1 0 0x33F), (.semSigr, cw 6 0 1 2 0x405), (.semWait, cw 6 0 1 2 0x505), (.semTry, cw 6 9 1 2 0x605),
   (.semRd, cw 6 9 1 2 0x705), (.opeIssue, cw 7 0 1 2 0), (.veIssue, cw 7 0 1 2 0x100), (.wait, cw 8 9 1 2 0), (.waitc, cw 8 9 1 2 0x100),
   (.specOpen, cw 9 3 0 0 0x10F), (.specBegin, cw 9 3 0 0 0x203), (.specEnd, cw 9 3 0 0 0x300), (.specWait, cw 9 3 0 0 0x40F),
   (.specResolve, cw 9 3 0 0 0x508), (.fenceMem, cw 9 0 0 0 0x600), (.brk, cw 9 0 0 0 0x700)]

/-- Each of them is fetched as its operation: the hypothesis of the statements on IntegerOperations, BranchesAndJumps and every other command of
the tile core. -/
theorem witness_fetches : ∀ p ∈ coreWords, (at_ p.2).Fetches 0 p.1 (coreFields p.2) := by
  have h : coreWords.all (fun p => fetchOk (at_ p.2) p.1 (coreFields p.2)) = true := by decide +kernel
  exact fun p hp => fetches_of (List.all_eq_true.mp h p hp)

/-- The illegal codes of classes 0 and 1: 0x11 and 0x3F, SUB and 0x1E. -/
theorem witness_IntegerOperations_illegal : ∀ w ∈ [cw 0 0 0 0 0x11, cw 0 0 0 0 0x3F, cw 1 0 0 0x01 0, cw 1 0 0 0x1E 0],
    ((at_ w).tile 0).coreReady = true ∧ ((at_ w).tile 0).core.pc % 4 = 0 ∧ ((at_ w).tile 0).core.pc + 4 ≤ bankSize .cb ∧
    (at_ w).clearing 0 .cb = false ∧ (at_ w).mark (spdAddr 0 .cb (((at_ w).tile 0).core.pc / 8 * 8)) = 0 ∧
    (let c := coreFields (leNat ((at_ w).bytes (spdAddr 0 .cb ((at_ w).tile 0).core.pc) 4));
      (c.cls = 0 ∧ c.imm % 64 > 0x10) ∨ (c.cls = 1 ∧ (c.rs2 = 0x01 ∨ (c.rs2 > 0x10 ∧ c.rs2 ≠ 0x1F)))) := by decide +kernel

/-- The last 8 bytes of MA. -/
theorem witness_Loads :
    let s := at_ (cw 2 3 1 7 0) [(1, 0x1FFFF8)]
    s.Fetches 0 .load (coreFields (cw 2 3 1 7 0)) ∧
    coreAddr 0 (s.effAddr 0 (coreFields (cw 2 3 1 7 0))) (2 ^ ((coreFields (cw 2 3 1 7 0)).rs2 % 4)) = .ok (.ma, 0x1FFFF8) ∧
    s.clearing 0 .ma = false ∧ (BankId.ma = .cb ∨ (s.bank 0 .ma).waiting = []) ∧ s.mark (spdAddr 0 .ma (0x1FFFF8 / 8 * 8)) = 0 :=
  ⟨fetches_of (by decide +kernel), addr_of (by decide +kernel), by decide +kernel, by decide +kernel, by decide +kernel⟩

/-- A store that is written at once, to SB, and one that waits at a clearing bank. -/
theorem witness_Stores :
    (let s := at_ (cw 3 2 1 2 0) [(1, 0x5C0000), (2, 0xAABBCCDD)]
     let w := coreFields (cw 3 2 1 2 0)
     s.Fetches 0 .store w ∧ coreAddr 0 (s.effAddr 0 w) (2 ^ (w.rd % 4)) = .ok (.sb, 0) ∧ s.mark (spdAddr 0 .sb (0 / 8 * 8)) = 0 ∧
     s.clearing 0 .sb = false ∧ (BankId.sb = .cb ∨ (s.bank 0 .sb).waiting = []) ∧ (BankId.sb = .sb → ∀ i, (s.slot 0 i).mode ≠ .committing)) ∧
    (let s := (at_ (cw 3 0 1 2 1) [(1, 0), (2, 7)]).setBank 0 .ma { clearing := some 0 }
     let w := coreFields (cw 3 0 1 2 1)
     s.Fetches 0 .store w ∧ coreAddr 0 (s.effAddr 0 w) (2 ^ (w.rd % 4)) = .ok (.ma, 1) ∧ s.mark (spdAddr 0 .ma (1 / 8 * 8)) = 0 ∧
     BankId.ma ≠ .cb ∧ (s.clearing 0 .ma = true ∨ (s.bank 0 .ma).waiting ≠ [])) :=
  ⟨⟨fetches_of (by decide +kernel), addr_of (by decide +kernel), by decide +kernel, by decide +kernel, by decide +kernel,
     fun _ => steady_of (by decide +kernel) 0⟩,
   ⟨fetches_of (by decide +kernel), addr_of (by decide +kernel), by decide +kernel, by decide +kernel, by decide +kernel⟩⟩

/-- Each of the six causes: PC at the end of CB, misaligned accesses, an address in the gap, an illegal word. -/
theorem witness_CoreFaults :
    (let s := (at_ 0).onCore 0 (fun c => { c with pc := 0x80000 - 3 })
     (s.tile 0).coreReady = true ∧ (s.tile 0).core.pc + 4 > bankSize .cb) ∧
    (let s := at_ (cw 2 3 1 1 0) [(1, 1)]
     s.Fetches 0 .load (coreFields (cw 2 3 1 1 0)) ∧ s.effAddr 0 (coreFields (cw 2 3 1 1 0)) % 2 ^ ((coreFields (cw 2 3 1 1 0)).rs2 % 4) ≠ 0) ∧
    (let s := at_ (cw 3 3 1 2 4) [(1, 0)]
     s.Fetches 0 .store (coreFields (cw 3 3 1 2 4)) ∧ s.effAddr 0 (coreFields (cw 3 3 1 2 4)) % 2 ^ ((coreFields (cw 3 3 1 2 4)).rd % 4) ≠ 0) ∧
    (let s := at_ (cw 5 7 1 0 3) [(1, 0)]
     s.Fetches 0 .crd (coreFields (cw 5 7 1 0 3)) ∧ s.effAddr 0 (coreFields (cw 5 7 1 0 3)) % 4 ≠ 0) ∧
    (let s := at_ (cw 2 3 1 2 0) [(1, 0x700000)]
     s.Fetches 0 .load (coreFields (cw 2 3 1 2 0)) ∧ s.effAddr 0 (coreFields (cw 2 3 1 2 0)) % 2 ^ ((coreFields (cw 2 3 1 2 0)).rs2 % 4) = 0 ∧
     (s.effAddr 0 (coreFields (cw 2 3 1 2 0)) / 0x800000 ≠ 0 ∨ bankAt (s.effAddr 0 (coreFields (cw 2 3 1 2 0)) % 0x800000) = none)) ∧
    (let s := at_ 0xF0000000
     (s.tile 0).coreReady = true ∧ (s.tile 0).core.pc % 4 = 0 ∧ (s.tile 0).core.pc + 4 ≤ bankSize .cb ∧ s.clearing 0 .cb = false ∧
     s.mark (spdAddr 0 .cb ((s.tile 0).core.pc / 8 * 8)) = 0 ∧
     coreDecode (coreFields (leNat (s.bytes (spdAddr 0 .cb (s.tile 0).core.pc) 4))) = none) :=
  ⟨by decide +kernel, ⟨fetches_of (by decide +kernel), by decide +kernel⟩, ⟨fetches_of (by decide +kernel), by decide +kernel⟩,
   ⟨fetches_of (by decide +kernel), by decide +kernel⟩, ⟨fetches_of (by decide +kernel), by decide +kernel, by decide +kernel⟩,
   by decide +kernel⟩

/-- TILE_PHASE, with a changed value, and the offsets that name no register: the first and the last of each range. -/
theorem witness_ControlRegisters :
    (let s := at_ (cw 5 0 1 2 0) [(1, 0x8510), (2, 9)]
     let w := coreFields (cw 5 0 1 2 0)
     s.Fetches 0 .cwr w ∧ s.effAddr 0 w = 0x8510 ∧ s.xr 0 w.rs2 % 2 ^ 16 ≠ s.rd .tilePhasePhase 0) ∧
    (∀ a ∈ [0, 0x100000, 0xFFFFFFFC], let s := at_ (cw 5 0 1 2 0) [(1, a), (2, 9)]
      s.effAddr 0 (coreFields (cw 5 0 1 2 0)) % 4 = 0 ∧ (s.effAddr 0 (coreFields (cw 5 0 1 2 0)) < 4 ∨ s.effAddr 0 (coreFields (cw 5 0 1 2 0)) ≥ 0x100000)) ∧
    (let s := at_ (cw 5 7 1 0 0) [(1, 0x8510)]
     s.Fetches 0 .crd (coreFields (cw 5 7 1 0 0)) ∧ s.effAddr 0 (coreFields (cw 5 7 1 0 0)) % 4 = 0 ∧
       s.effAddr 0 (coreFields (cw 5 7 1 0 0)) = 0x8510) :=
  ⟨⟨fetches_of (by decide +kernel), by decide +kernel, by decide +kernel⟩, by decide +kernel,
   ⟨fetches_of (by decide +kernel), by decide +kernel, by decide +kernel⟩⟩

/-! ### Witnesses: queues, semaphores, engines' queues, events and branches (statements O17 to O22) -/

/-- Queue q of tile 0 enabled, with two entries from line 4 on. -/
def withQ (q : Nat) (s : State) : State :=
  ((s.wr .tileQcfgEn (qInst 0 q) 0 1).wr .tileQcfgLog2Depth (qInst 0 q) 0 1).wr .tileQcfgBase (qInst 0 q) 0 4

theorem witness_Posts : ∀ nb : Bool,
    let w := coreFields (cw 6 7 1 2 (if nb then 0x100 else 0))
    let base (q : Nat) : State := at_ (cw 6 7 1 2 (if nb then 0x100 else 0)) [(1, 0), (2, 2 ^ 35 + q)]
    let room := withQ 95 (base 95)
    let full := (withQ 95 (base 95)).wr .tileQTail (qInst 0 95) 0 256
    let off := base 95
    let away := base (5 + 128)
    (∀ s ∈ [room, full, off, away], s.Fetches 0 (if nb then .postNb else .post) w ∧ s.xr 0 w.rs1 + 64 ≤ bankSize .cb ∧ s.xr 0 w.rs1 % 64 = 0 ∧
      (∀ i, i < 8 → s.mark (spdAddr 0 .cb (s.xr 0 w.rs1) + 8 * i) = 0)) ∧
    (∀ s ∈ [room, full, off], s.targetHere (s.xr 0 w.rs2) = true ∧ targetTile (s.xr 0 w.rs2) = 0 ∧ targetQueue (s.xr 0 w.rs2) < 96) ∧
    (room.qEnabled 0 95 = true ∧ room.qOcc 0 95 < room.qDepth 0 95) ∧ (full.qEnabled 0 95 = true ∧ full.qOcc 0 95 ≥ full.qDepth 0 95) ∧
    off.qEnabled 0 95 = false ∧ ¬ (away.targetHere (away.xr 0 w.rs2) = true ∧ targetTile (away.xr 0 w.rs2) = 0) := by
  intro nb
  refine ⟨?_, by cases nb <;> decide +kernel, by cases nb <;> decide +kernel, by cases nb <;> decide +kernel, by cases nb <;> decide +kernel,
    by cases nb <;> decide +kernel⟩
  intro s hs
  refine ⟨fetches_of ?_, ?_⟩
  · revert s; cases nb <;> decide +kernel
  · revert s; cases nb <;> decide +kernel

/-- A post that waits on a full queue and on one with room; POP of an empty queue and of one with an entry. -/
theorem witness_QueueWaitAndPop :
    (let s := (withQ 95 (at_ 0 [])).onCore 0 (fun c => { c with wait := .post 31 0 (2 ^ 35 + 95) })
     let f := s.wr .tileQTail (qInst 0 95) 0 256
     (s.tile 0).active = true ∧ (s.tile 0).core.wait = .post 31 0 (2 ^ 35 + 95) ∧ s.clearing 0 .cb = false ∧
     s.clearing 0 (qBank (targetQueue (2 ^ 35 + 95))) = false ∧ s.qEnabled 0 (targetQueue (2 ^ 35 + 95)) = true ∧
     s.qOcc 0 (targetQueue (2 ^ 35 + 95)) < s.qDepth 0 (targetQueue (2 ^ 35 + 95)) ∧ targetQueue (2 ^ 35 + 95) < 96 ∧
     (∀ i, i < 8 → s.mark (spdAddr 0 .cb 0 + 8 * i) = 0) ∧
     (f.tile 0).active = true ∧ (f.tile 0).core.wait = .post 31 0 (2 ^ 35 + 95) ∧ f.qEnabled 0 (targetQueue (2 ^ 35 + 95)) = true ∧
     f.qOcc 0 (targetQueue (2 ^ 35 + 95)) ≥ f.qDepth 0 (targetQueue (2 ^ 35 + 95))) ∧
    (let w := coreFields (cw 6 7 1 2 0x23F)
     let e := withQ 63 (at_ (cw 6 7 1 2 0x23F) [(1, 0x7FFC0)])
     let s := e.wr .tileQTail (qInst 0 63) 0 1
     e.Fetches 0 .pop w ∧ (e.qEnabled 0 63 = false ∨ e.qOcc 0 63 = 0) ∧
     s.Fetches 0 .pop w ∧ s.qEnabled 0 63 = true ∧ s.qOcc 0 63 ≠ 0 ∧ s.xr 0 w.rs1 + 64 ≤ bankSize .cb ∧
     (∀ i, i < 9 → s.mark (spdAddr 0 .cb (s.xr 0 w.rs1 / 8 * 8) + 8 * i) = 0) ∧
     (∀ i, i < 8 → s.mark (spdAddr 0 .cb (s.qLine 0 63 (s.rd .tileQHead (qInst 0 63))) + 8 * i) = 0)) :=
  ⟨by decide +kernel, fetches_of (by decide +kernel), by decide +kernel, fetches_of (by decide +kernel), by decide +kernel⟩

/-- SEM.WAIT and SEM.TRY with just enough and with one too few; SEM.SIGR to its own tile and to another; a waiting core. -/
theorem witness_Semaphores :
    (let w := coreFields (cw 6 0 1 2 0x53F)
     let s (v : Nat) := (at_ (cw 6 0 1 2 0x53F) [(1, 0xFFFFFFFF)]).wr .tileSem 0 63 v
     (s 0xFFFFFFFF).Fetches 0 .semWait w ∧ (s 0xFFFFFFFE).Fetches 0 .semWait w ∧
     (s 0xFFFFFFFF).rd .tileSem 0 63 < 2 ^ 32 ∧ (s 0xFFFFFFFF).rd .tileSem 0 63 ≥ (s 0xFFFFFFFF).xr 0 w.rs1 % 2 ^ 32 ∧
     (s 0xFFFFFFFE).rd .tileSem 0 63 < (s 0xFFFFFFFE).xr 0 w.rs1 % 2 ^ 32) ∧
    (let w := coreFields (cw 6 9 1 2 0x605)
     let s (v : Nat) := (at_ (cw 6 9 1 2 0x605) [(1, 4)]).wr .tileSem 0 5 v
     (s 4).Fetches 0 .semTry w ∧ (s 3).Fetches 0 .semTry w ∧ (s 4).rd .tileSem 0 5 < 2 ^ 32 ∧ (s 4).rd .tileSem 0 5 ≥ (s 4).xr 0 w.rs1 % 2 ^ 32 ∧
     (s 3).rd .tileSem 0 5 < (s 3).xr 0 w.rs1 % 2 ^ 32) ∧
    (let w := coreFields (cw 6 0 1 2 0x405)
     let s (q : Nat) := at_ (cw 6 0 1 2 0x405) [(1, 4), (2, 2 ^ 35 + q)]
     (s 0).Fetches 0 .semSigr w ∧ (s 0).targetHere ((s 0).xr 0 w.rs2) = true ∧ targetTile ((s 0).xr 0 w.rs2) = 0 ∧
     (s 128).Fetches 0 .semSigr w ∧ ¬ ((s 128).targetHere ((s 128).xr 0 w.rs2) = true ∧ targetTile ((s 128).xr 0 w.rs2) = 0)) ∧
    (let s (v : Nat) := ((at_ 0).onCore 0 (fun c => { c with wait := .sem 63 3 })).wr .tileSem 0 63 v
     ((s 3).tile 0).core.wait = .sem 63 3 ∧ ((s 3).tile 0).active = true ∧ (s 3).rd .tileSem 0 63 < 2 ^ 32 ∧ 3 ≤ (s 3).rd .tileSem 0 63 ∧
     ((s 2).tile 0).core.wait = .sem 63 3 ∧ ((s 2).tile 0).active = true ∧ 3 > (s 2).rd .tileSem 0 63) :=
  ⟨⟨fetches_of (by decide +kernel), fetches_of (by decide +kernel), by decide +kernel⟩,
   ⟨fetches_of (by decide +kernel), fetches_of (by decide +kernel), by decide +kernel⟩,
   ⟨fetches_of (by decide +kernel), by decide +kernel, by decide +kernel, fetches_of (by decide +kernel), by decide +kernel⟩, by decide +kernel⟩

/-- Queues one short of full, and full; blocked issues whose queue has room. -/
theorem witness_EngineIssue :
    (let w := coreFields (cw 7 0 1 2 0)
     let s (n : Nat) := (at_ (cw 7 0 1 2 0)).onTile 0 (fun x => { x with ope := { x.ope with queue := List.replicate n ⟨0, 0, 0, 0, none, false⟩ } })
     (s 7).Fetches 0 .opeIssue w ∧ (s 8).Fetches 0 .opeIssue w ∧ ((s 7).tile 0).core.tagSlot = none ∧ ((s 7).tile 0).ope.queue.length < 8 ∧
     ((s 8).tile 0).core.tagSlot = none ∧ ((s 8).tile 0).ope.queue.length ≥ 8) ∧
    (let w := coreFields (cw 7 0 1 2 0x100)
     let s (n : Nat) := (at_ (cw 7 0 1 2 0x100)).onTile 0 (fun x => { x with ve := { x.ve with queue := List.replicate n { word := 0, n := 0 } } })
     (s 3).Fetches 0 .veIssue w ∧ (s 4).Fetches 0 .veIssue w ∧ ((s 3).tile 0).core.tagSlot = none ∧ ((s 3).tile 0).ve.queue.length < 4 ∧
     ((s 4).tile 0).core.tagSlot = none ∧ ((s 4).tile 0).ve.queue.length ≥ 4) ∧
    (let s := (at_ 0).onCore 0 (fun c => { c with wait := .ope 5 3 })
     (s.tile 0).active = true ∧ (s.tile 0).core.tagSlot = none ∧ (s.tile 0).core.wait = .ope 5 3 ∧ (s.tile 0).ope.queue.length < 8) ∧
    (let s := (at_ 0).onCore 0 (fun c => { c with wait := .ve 5 })
     (s.tile 0).active = true ∧ (s.tile 0).core.tagSlot = none ∧ (s.tile 0).core.wait = .ve 5 ∧ (s.tile 0).ve.queue.length < 4) :=
  ⟨⟨fetches_of (by decide +kernel), fetches_of (by decide +kernel), by decide +kernel⟩,
   ⟨fetches_of (by decide +kernel), fetches_of (by decide +kernel), by decide +kernel⟩, by decide +kernel, by decide +kernel⟩

/-- A wait whose event has come, one with no mask and one that sleeps; sleepers; a fence with and without pending stores; BREAK in both lock states. -/
theorem witness_EventsFencesAndBreak :
    (let w := coreFields (cw 8 9 1 2 0x100)
     let s (m : Nat) := (at_ (cw 8 9 1 2 0x100) [(1, m)]).onCore 0 (fun c => { c with ev0 := 5 })
     (s 1).Fetches 0 .waitc w ∧ (s 0).Fetches 0 .waitc w ∧ (s 2).Fetches 0 .waitc w ∧
     (((s 1).ev0 0 &&& (s 1).xr 0 w.rs1) ≠ 0 ∧ ((s 0).xr 0 w.rs1 = 0 ∧ (s 0).xr 0 w.rs2 = 0) ∧
     ¬ (((s 2).ev0 0 &&& (s 2).xr 0 w.rs1) ≠ 0 ∨ ((s 2).evq 0 &&& (s 2).xr 0 w.rs2) ≠ 0 ∨ ((s 2).xr 0 w.rs1 = 0 ∧ (s 2).xr 0 w.rs2 = 0)))) ∧
    (let s (m : Nat) := (at_ 0).onCore 0 (fun c => { c with ev0 := 5, wait := .event 9 m 0 true })
     ((s 4).tile 0).core.wait = .event 9 4 0 true ∧ ((s 4).tile 0).active = true ∧ (s 4).eventReady 0 4 0 = true ∧
     ((s 2).tile 0).core.wait = .event 9 2 0 true ∧ ((s 2).tile 0).active = true ∧ (s 2).eventReady 0 2 0 = false) ∧
    (let w := coreFields (cw 9 0 0 0 0x600)
     let s := at_ (cw 9 0 0 0 0x600)
     let p := s.setBank 0 .ma { clearing := some 0, waiting := [{ req := { cls := 3, write := true, off := 0, len := 1, data := [1] } }] }
     s.Fetches 0 .fenceMem w ∧ s.storesPending 0 = false ∧ p.Fetches 0 .fenceMem w ∧ p.storesPending 0 = true) ∧
    (let s := (at_ 0).onCore 0 (fun c => { c with wait := .fence })
     (s.tile 0).core.wait = .fence ∧ (s.tile 0).active = true ∧ s.storesPending 0 = false) ∧
    (let w := coreFields (cw 9 0 0 0 0x700)
     let s := at_ (cw 9 0 0 0 0x700)
     s.Fetches 0 .brk w ∧ s.rd .dbgLockOpen = 0 ∧ (s.wr .dbgLockOpen 0 0 1).Fetches 0 .brk w ∧ (s.wr .dbgLockOpen 0 0 1).rd .dbgLockOpen ≠ 0) :=
  ⟨⟨fetches_of (by decide +kernel), fetches_of (by decide +kernel), fetches_of (by decide +kernel), by decide +kernel⟩, by decide +kernel,
   ⟨fetches_of (by decide +kernel), by decide +kernel, fetches_of (by decide +kernel), by decide +kernel⟩, by decide +kernel,
   ⟨fetches_of (by decide +kernel), by decide +kernel, fetches_of (by decide +kernel), by decide +kernel⟩⟩

/-- SPEC.OPEN of the last slot and with all slots taken. -/
theorem witness_SpeculativeBranches_open :
    (let w := coreFields (cw 9 3 0 0 0x10F)
     let s (n : Nat) := (List.range n).foldl (fun (s : State) i => s.setSlot 0 i { mode := .opened, win := i }) (at_ (cw 9 3 0 0 0x10F))
     (s 3).Fetches 0 .specOpen w ∧ (s 4).Fetches 0 .specOpen w ∧ (∀ j, j < 3 → ((s 3).slot 0 j).mode ≠ .free) ∧ ((s 3).slot 0 3).mode = .free ∧
     (∀ j, j < 4 → ((s 3).slot 0 j).mode ≠ .free → ((s 3).slot 0 j).win ≠ w.imm8 % 16) ∧ (∀ j, j < 4 → ((s 4).slot 0 j).mode ≠ .free)) :=
  ⟨fetches_of (by decide +kernel), fetches_of (by decide +kernel), by decide +kernel⟩

/-- SPEC.WAIT of quiet slots, SPEC.RESOLVE of an open and of a stale slot. -/
theorem witness_SpeculativeBranches_resolve :
    (let w := coreFields (cw 9 3 0 0 0x40F)
     let s := at_ (cw 9 3 0 0 0x40F)
     s.Fetches 0 .specWait w ∧ (∀ i, i < 4 → w.imm8.testBit i → (s.slot 0 i).live = 0)) ∧
    (let w := coreFields (cw 9 3 0 0 0x508)
     let s := (at_ (cw 9 3 0 0 0x508)).setSlot 0 3 { mode := .opened, win := 15 }
     let n := at_ (cw 9 3 0 0 0x508)
     s.Fetches 0 .specResolve w ∧ n.Fetches 0 .specResolve w ∧ w.imm8 % 256 = 2 ^ 3 ∧ (s.tile 0).active = true ∧ s.specExpired 0 3 = false ∧
     (s.slot 0 3).mode = .opened ∧ (s.slot 0 3).confirmed = false ∧ (n.tile 0).active = true ∧ n.specExpired 0 3 = false ∧
     ((n.slot 0 3).mode ≠ .opened ∨ (n.slot 0 3).confirmed = true)) ∧
    (let s := (at_ 0).onCore 0 (fun c => { c with wait := .spec 15 })
     (s.tile 0).active = true ∧ (s.tile 0).core.wait = .spec 15 ∧ s.specQuiet 0 15 = true) :=
  ⟨⟨fetches_of (by decide +kernel), by decide +kernel⟩, ⟨fetches_of (by decide +kernel), fetches_of (by decide +kernel), by decide +kernel⟩,
   by decide +kernel⟩

/-- A confirmed, an expired (at its limit exactly), a cancelling and two committing branches, in slot 3. -/
theorem witness_SpeculativeBranches_slots :
    (let s := (at_ 0).setSlot 0 3 { mode := .opened, win := 15, confirmed := true }
     (s.tile 0).active = true ∧ (s.slot 0 3).mode = .opened ∧ (s.slot 0 3).confirmed = true ∧ (s.slot 0 3).live = 0 ∧ (s.slot 0 3).held = [] ∧
     (∀ e ∈ (s.tile 0).shadow, e.1 / 16384 ≠ 3)) ∧
    (let s := { (at_ 0).setSlot 0 3 { mode := .opened, win := 15, openedAt := 2, limit := 1 } with tally := 3 }
     (s.tile 0).active = true ∧ (s.slot 0 3).mode = .opened ∧ (s.slot 0 3).confirmed = false ∧ (s.slot 0 3).limit ≠ 0 ∧
     s.tally ≥ (s.slot 0 3).openedAt + (s.slot 0 3).limit) ∧
    (let s := (at_ 0).setSlot 0 3 { mode := .cancelling, win := 15 }
     (s.tile 0).active = true ∧ (s.slot 0 3).mode = .cancelling ∧ (s.tile 0).ope = {}) ∧
    (let s := (at_ 0).setSlot 0 3 { mode := .committing, win := 15 }
     (s.tile 0).active = true ∧ (s.slot 0 3).mode = .committing ∧ s.clearing 0 .sb = false ∧ (∀ e ∈ (s.tile 0).shadow, e.1 / 16384 ≠ 3)) ∧
    (let s := ((at_ 0).setSlot 0 3 { mode := .committing, win := 15 }).onTile 0 (fun x => { x with shadow := [(3 * 16384 + 16383, 255 + 1)] })
     (s.tile 0).active = true ∧ (s.slot 0 3).mode = .committing ∧ s.clearing 0 .sb = false ∧
     (s.tile 0).shadow = [((3 : Fin 4).val * 16384 + 16383, 255 + 1)] ∧ (s.slot 0 3).win < 16 ∧
     s.mark (spdAddr 0 .sb (((s.slot 0 3).win * 0x4000 + 16383) / 8 * 8)) = 0) := by decide +kernel

/-! ### Witnesses: the engines, the banks, the controllers and the hoist (statements O23 to O33) -/

/-- An OPE instruction word 0: opcode, formats of A and B, output format, M, N, K and ACC (R97). -/
def opeWord (opc fa fo m n k acc : Nat) : Nat :=
  opc * 2 ^ 58 + fa * 2 ^ 54 + fa * 2 ^ 50 + fo * 2 ^ 45 + (m - 1) * 2 ^ 33 + (n - 1) * 2 ^ 21 + k * 2 ^ 8 + acc * 2

/-- Tile 0 with one OPE instruction at the head of its queue. -/
def opeAt (w0 : Nat) : State := State.reset.setTile 0 { tallyValid := true, ope := { queue := [⟨w0, 2 ^ 62, 0, 0, none, false⟩] } }

/-- An illegal opcode; legal instructions of one step with ACC 0 and with ACC 1. -/
theorem witness_OpeInstructionsStart :
    (let s := opeAt (opeWord 3 0 0 1 1 1 0)
     let i : OpeInstr := ⟨opeWord 3 0 0 1 1 1 0, 2 ^ 62, 0, 0, none, false⟩
     (s.tile 0).active = true ∧ (s.tile 0).ope.run = none ∧ (s.tile 0).ope.queue = i :: [] ∧ (bitsOf i.w0 63 58 == 2) = false ∧
     (s.opeIllegal 0 i).isSome = true) ∧
    (∀ acc ∈ [0, 1],
     let s := opeAt (opeWord 2 0 0 1 1 1 acc)
     let i : OpeInstr := ⟨opeWord 2 0 0 1 1 1 acc, 2 ^ 62, 0, 0, none, false⟩
     (s.tile 0).active = true ∧ (s.tile 0).ope.run = none ∧ (s.tile 0).ope.queue = i :: [] ∧ (bitsOf i.w0 63 58 == 2) = true ∧
     s.opeIllegal 0 i = none ∧ (opeFields i).sparse = 0 ∧ (opeFields i).biasEn = false ∧ 0 < (opeFields i).k ∧ (s.tile 0).ope.drains = [] ∧
     ((opeFields i).acc = false ∨ (opeFields i).acc = true)) := by decide +kernel

/-- A running instruction of two steps, a drain of two rows, and a finished instruction. -/
def opeBusy : State := State.reset.setTile 0 { tallyValid := true, ope := {
  run := some { ins := ⟨opeWord 2 0 0 1 1 2 0, 2 ^ 62, 0, 0, none, false⟩, begun := true, staged := true, seg := [(0, 0), (1, 0)] },
  drains := [{ ins := ⟨opeWord 1 0 0 2 1 1 0, 2 ^ 62, 0, 0, none, false⟩, blk := 0, bm := 0, bn := 0, mb := 2, nb := 1, started := true }],
  fins := [{ ins := ⟨opeWord 1 0 0 2 1 1 0, 2 ^ 62, 0, 0, none, false⟩, steps := 1, drains := 0 }] } }

/-- Its drain at the first element of VB. -/
theorem opeBusy_drains : ∃ d, (opeBusy.tile 0).active = true ∧ (opeBusy.tile 0).ope.drains = d :: [] ∧ d.started = true ∧ d.ins.slot = none ∧
    (opeFields d.ins).drain = 1 ∧
      (opeFields d.ins).o.isMx = false ∧ (opeBusy.tile 0).items = [] ∧ bankAt (0x400000 + (opeFields d.ins).out * 64) = some .vb ∧
      bankBase .vb + 0 = 0x400000 + (opeFields d.ins).out * 64 + (d.bm + d.row) * rowPitch (opeFields d.ins).o (opeFields d.ins).n +
        (elemBitPos (opeFields d.ins).o (d.bn + d.col)).1 / 8 ∧ 0 + 256 ≤ bankSize .vb ∧ opeBusy.clearing 0 .vb = false ∧
      (∀ i, (opeBusy.slot 0 i).mode ≠ .committing) ∧ (∀ w, opeBusy.mark (spdAddr 0 .vb (8 * w)) = 0) ∧ (d.col + 64 < d.nb ∨ d.row + 1 < d.mb) := by
  refine ⟨_, ?_, rfl, ?_, ?_, ?_, ?_, ?_, ?_, ?_, ?_, ?_, steady_of (by decide +kernel) 0, fun _ => marks_zero (by decide +kernel) _, ?_⟩ <;>
    decide +kernel

theorem witness_OpeStepsDrainsAndCompletes :
    (∃ r, (opeBusy.tile 0).active = true ∧ (opeBusy.tile 0).ope.run = some r ∧ r.begun = true ∧ r.staged = true ∧ r.ins.slot = none ∧
      r.seg = (0, 0) :: (1, 0) :: [] ∧ opeBusy.clearing 0 .ma = false ∧ opeBusy.clearing 0 .mb = false ∧ r.sm + 64 ≤ 128 ∧ r.sn + 64 ≤ 128) ∧
    (∃ d, (opeBusy.tile 0).active = true ∧ (opeBusy.tile 0).ope.drains = d :: [] ∧ d.started = true ∧ d.ins.slot = none ∧ (opeFields d.ins).drain = 1 ∧
      (opeFields d.ins).o.isMx = false ∧ (opeBusy.tile 0).items = [] ∧ bankAt (0x400000 + (opeFields d.ins).out * 64) = some .vb ∧
      bankBase .vb + 0 = 0x400000 + (opeFields d.ins).out * 64 + (d.bm + d.row) * rowPitch (opeFields d.ins).o (opeFields d.ins).n +
        (elemBitPos (opeFields d.ins).o (d.bn + d.col)).1 / 8 ∧ 0 + 256 ≤ bankSize .vb ∧ opeBusy.clearing 0 .vb = false ∧
      (∀ i, (opeBusy.slot 0 i).mode ≠ .committing) ∧ (∀ w, opeBusy.mark (spdAddr 0 .vb (8 * w)) = 0) ∧ (d.col + 64 < d.nb ∨ d.row + 1 < d.mb)) ∧
    (let s := opeBusy.onTile 0 (fun x => { x with ope := { x.ope with drains := x.ope.drains.map (fun d => { d with started := false }) } })
     ∃ d, (s.tile 0).active = true ∧ (s.tile 0).ope.drains = d :: [] ∧ d.started = false ∧ d.ins.slot = none) ∧
    (∃ n, (opeBusy.tile 0).active = true ∧ (opeBusy.tile 0).ope.fins = n :: [] ∧ n.drains = 0 ∧ n.reason = 0 ∧ n.ins.slot = none ∧
      (opeFields n.ins).sparse = 0 ∧ 0 < (opeFields n.ins).k) :=
  ⟨⟨_, by decide +kernel, rfl, by decide +kernel⟩,
   opeBusy_drains,
   ⟨_, by decide +kernel, rfl, by decide +kernel⟩, ⟨_, by decide +kernel, rfl, by decide +kernel⟩⟩

/-- Tile 0 with one VE instruction at the head of its queue: operation, source and destination formats (R185). -/
def veAt (op fs fd n : Nat) : State := State.reset.setTile 0 { tallyValid := true, ve := { queue :=
  [{ word := op * 2 ^ 58 + fs * 2 ^ 54 + fd * 2 ^ 50, d := 0x400000, a := 0, b := 0x200000, c := 0x540000, n := n }] } }

theorem witness_VectorOperationsRun :
    (let s := veAt 6 0 0 3
     ∃ i, (VeOp.abs, Instr.veAbs) ∈ veRows ∧ (s.tile 0).active = true ∧ (s.tile 0).ve.queue = i :: [] ∧ i.slot = none ∧
       (veFields i.word).op = some .abs ∧ s.veIllegal 0 i = none ∧ (∀ b, s.clearing 0 b = false) ∧ (∀ b w, s.mark (spdAddr 0 b (8 * w)) = 0) ∧
       (∀ k, (s.slot 0 k).mode ≠ .committing)) ∧
    (let s := veAt 6 15 15 3
     ∃ i, (s.tile 0).active = true ∧ (s.tile 0).ve.queue = i :: [] ∧ i.slot = none ∧ (veFields i.word).op = some .abs ∧
       (s.veIllegal 0 i).isSome = true) :=
  ⟨⟨_, by simp [veRows], by decide +kernel, rfl, by decide +kernel, by decide +kernel, by decide +kernel, fun b => by cases b <;> decide +kernel,
    fun _ _ => marks_zero (by decide +kernel) _, steady_of (by decide +kernel) 0⟩,
   ⟨_, by decide +kernel, rfl, by decide +kernel, by decide +kernel, by decide +kernel⟩⟩

/-- The last element of each operation's vector; a special value would shut out ABS and NEG only. -/
theorem witness_VectorResults : ∀ p ∈ ([(.abs, .veAbs, 6, 0, 3), (.neg, .veNeg, 7, 0, 3), (.add, .veAdd, 0, 9, 3), (.sel, .veSel, 17, 0, 3),
      (.perm, .vePerm, 40, 0, 3), (.transp, .veTransp, 41, 0, 4096)] : List (VeOp × (TileId → Instr) × Nat × Nat × Nat)),
    let s := veAt p.2.2.1 p.2.2.2.1 p.2.2.2.1 p.2.2.2.2
    (∀ b, s.clearing 0 b = false) ∧ (∀ b w, s.mark (spdAddr 0 b (8 * w)) = 0) ∧ (∀ k, (s.slot 0 k).mode ≠ .committing) ∧
    ∃ i, (s.tile 0).active = true ∧ (s.tile 0).ve.queue = i :: [] ∧ i.slot = none ∧ i.flush = false ∧ (veFields i.word).op = some p.1 ∧
      (veFields i.word).bA = false ∧ (veFields i.word).bB = false ∧ (veFields i.word).bC = false ∧ s.veIllegal 0 i = none ∧ 2 < i.n ∧
      (veFields i.word).d = (veFields i.word).s ∧ ((veFields i.word).s = .fp32 ∨ (veFields i.word).s = .int32 ∧ (veFields i.word).sat = false) ∧
      (unpack .fp32 (leNat (s.bytes (0 * 0x800000 + i.a + 4 * 2) 4))).isSpecial = false := by
  intro p hp
  simp only [List.mem_cons, List.not_mem_nil, or_false] at hp
  rcases hp with rfl | rfl | rfl | rfl | rfl | rfl <;>
    exact ⟨fun b => by cases b <;> decide +kernel, fun _ _ => marks_zero (by decide +kernel) _, steady_of (by decide +kernel) 0,
      _, by decide +kernel, rfl, by decide +kernel⟩

/-- A finished instruction with flags, one without, and an illegal one. -/
theorem witness_VectorCompletion : ∀ p ∈ [(0, 0), (0, 31), (1, 0), (0x0F, 0), (255, 0)],
    let s := State.reset.setTile 0 { tallyValid := true, ve := { fins := [{ ins := { word := 0, n := 3 }, reason := p.1, flags := p.2, passes := 3 }] } }
    ∃ n, (s.tile 0).active = true ∧ (s.tile 0).ve.fins = n :: [] ∧ n.ins.slot = none ∧
      (n.reason = 0 ∧ n.health = [] ∧ (n.flags = 0 ∨ n.flags < 32) ∧ 0 < n.passes ∧ 0 < min n.ins.n (n.passes * (veFields n.ins.word).lanes) ∨
       n.reason ≠ 0 ∧ n.reason ≠ 0x10 ∧ n.reason < 256) := by
  intro p hp
  simp only [List.mem_cons, List.not_mem_nil, or_false] at hp
  rcases hp with rfl | rfl | rfl | rfl | rfl <;> exact ⟨_, by decide +kernel, rfl, by decide +kernel⟩

/-- A request of three bytes at the end of MB. -/
def lastBytes (write : Bool) (cls : ReqClass) : BankReq :=
  { tag := 7, cls := cls, write := write, off := 0x1FFFFD, len := 3, data := if write then [1, 2, 3] else [] }

/-- A good bank, with requests of every kind; a gated tile; a clearing bank. -/
theorem witness_BankAccesses :
    (let s := State.reset.setTile 0 { tallyValid := true }
     let r := lastBytes false 4; let q := lastBytes true 4; let p := lastBytes true 3
     bankReqOk .mb r = true ∧ bankReqOk .mb q = true ∧ bankReqOk .mb p = true ∧ s.bankOpen 0 .mb = true ∧ (s.bank 0 .mb).waiting = [] ∧
     (∀ w, s.mark (spdAddr 0 .mb (8 * w)) = 0) ∧ (∀ i, (s.slot 0 i).mode ≠ .committing) ∧ r.write = false ∧ q.write = true ∧ q.poison = false ∧
     p.write = true ∧ p.poison = false ∧ q.off = p.off ∧ q.len = p.len ∧ p.cls.val < q.cls.val) ∧
    (let s := State.reset.setTile 0 { tallyValid := true, gated := true }
     [lastBytes false 4] ≠ [] ∧ (∀ r ∈ [lastBytes false 4], bankReqOk .mb r = true) ∧ (s.tile 0).gated = true) ∧
    (let s := (State.reset.setTile 0 { tallyValid := true }).setBank 0 .mb { clearing := some 3 }
     (s.tile 0).gated = false ∧ s.clearing 0 .mb = true) :=
  ⟨⟨by decide +kernel, by decide +kernel, by decide +kernel, by decide +kernel, by decide +kernel, fun _ => marks_zero (by decide +kernel) _,
    steady_of (by decide +kernel) 0, by decide +kernel⟩, by decide +kernel, by decide +kernel⟩

/-- A corrected word to write back; a scrub interval just over and not yet over; an open and a clearing bank; a clear at its end and before it. -/
theorem witness_BankUpkeep :
    (let s := ((State.reset.setTile 0 { tallyValid := true }).setBank 0 .sb { writeback := [4] }).setMark (spdAddr 0 .sb (8 * 4)) 1
     (s.bank 0 .sb).writeback = 4 :: [] ∧ s.bankOpen 0 .sb = true ∧ s.mark (spdAddr 0 .sb (8 * 4)) = 1) ∧
    (let s (n : Nat) : State := { ((State.reset.setTile 0 { tallyValid := true }).wr .spdScrubCfgEn 0 0 1).wr .spdScrubCfgInterval 0 0 1 with tally := n }
     (s 64).rd .spdScrubCfgEn 0 ≠ 0 ∧ (s 64).bankOpen 0 .mb = true ∧ (∀ w, (s 64).mark (spdAddr 0 .mb (8 * w)) = 0) ∧
     (s 64).tally ≥ ((s 64).bank 0 .mb).scrubAt + max 1 ((s 64).rd .spdScrubCfgInterval 0) * 64 ∧
     (s 63).tally < ((s 63).bank 0 .mb).scrubAt + max 1 ((s 63).rd .spdScrubCfgInterval 0) * 64) ∧
    (let s := State.reset.setTile 0 { tallyValid := true }
     (s.tile 0).gated = false ∧ (s.tile 0).stopped = false ∧ s.clearing 0 .ma = false) ∧
    (let s (n : Nat) : State := { (State.reset.setTile 0 { tallyValid := true }).setBank 0 .vb { clearing := some 5 } with tally := n }
     ((s 0).tile 0).gated = false ∧ ((s 0).tile 0).stopped = false ∧ (s 0).clearing 0 .vb = true ∧ ((s 1380).bank 0 .vb).clearing = some 5 ∧
     (s 1380).tally ≥ 5 + 1375 ∧ ((s 1379).bank 0 .vb).clearing = some 5 ∧ (s 1379).tally < 5 + 1375) :=
  ⟨by decide +kernel, ⟨by decide +kernel, by decide +kernel, fun _ => marks_zero (by decide +kernel) _, by decide +kernel⟩, by decide +kernel,
   by decide +kernel⟩

/-- A device with DEV_VALID and controller 0 trained. -/
def hbmUp : State := { State.reset.wr .tlyStatusDevValid 0 0 1 with hbmcs := [(0, { trained := true })] }

/-- An access of the last byte of a line in controller 0. -/
def hbmReq (write poison : Bool) : HbmReq := { addr := 0x1000000003F, write := write, poison := poison, len := 1, data := if write then [1] else [] }

theorem witness_HbmAccesses : ∀ w p, (p = true → w = true) →
    hbmReqOk (hbmReq w p) = true ∧ hbmUp.place (hbmReq w p).addr = .hbm 0 63 ∧ hbmUp.bandHolds (hbmReq w p).addr = false ∧
    hbmUp.hbmReady (2 * 0 + 63 / 256 % 2) = true ∧ hbmUp.mark (Place.hbm 0 (63 / 64 * 64)).key = 0 ∧
    State.reset.place (hbmReq w p).addr = .hbm 0 63 ∧ State.reset.hbmReady (2 * 0 + 63 / 256 % 2) = false ∧ State.reset.bandHolds (hbmReq w p).addr = false ∧
    ({ hbmUp with bandNext := [(0, 1)] } : State).place (hbmReq w p).addr = .hbm 0 63 ∧
    ({ hbmUp with bandNext := [(0, 1)] } : State).bandHolds (hbmReq w p).addr = true := by decide +kernel

/-- A trained controller whose scrub interval is over; a fresh one with and without DEV_VALID; the last band's switch. -/
theorem witness_HbmUpkeep :
    (let s : State := { hbmUp with tally := 256 }
     s.hbmRuns 0 = true ∧ s.rd .hbmScrubCfgEn 0 ≠ 0 ∧ s.tally ≥ (sget {} (0 : HbmcId).val s.hbmcs).scrubAt + max 1 (s.rd .hbmScrubCfgIntervalNs 0) ∧
     (∀ k, s.mark k = 0)) ∧
    ((0 : HbmcId).val < hbmUp.variant.hbmcs ∧ hbmUp.rd .tlyStatusDevValid ≠ 0 ∧ (sget {} (0 : HbmcId).val hbmUp.hbmcs).resetAt = none ∧
     hbmUp.hbmReady 0 = true ∧ State.reset.rd .tlyStatusDevValid = 0 ∧ (sget {} (0 : HbmcId).val State.reset.hbmcs).resetAt = none) ∧
    (let s : State := { hbmUp with bandNext := [(35, 3)] }
     s.bandNext = (35, 3) :: [] ∧ 35 < 36 ∧ 3 < 4 ∧ s.bandHeld = []) :=
  ⟨⟨by decide +kernel, by decide +kernel, by decide +kernel, marks_zero (by decide +kernel)⟩, by decide +kernel, by decide +kernel⟩

/-- Bits 63:36 of a hoist descriptor's word 0 (R236). -/
def hoistWord (kind red acc fmt sem rem : Nat) : Nat :=
  kind * 2 ^ 60 + red * 2 ^ 58 + acc * 2 ^ 57 + fmt * 2 ^ 53 + 2 ^ 46 + sem * 2 ^ 40 + rem * 2 ^ 39 + 2 * 2 ^ 36

/-- Tile 0 with one descriptor in its hoist queue 0, and row numbers at 0x1000 of MA. -/
def hoistAt (d : List Nat) : State :=
  let i := qInst 0 64
  let s := ((((State.reset.setTile 0 { tallyValid := true }).wr .tileQcfgEn i 0 1).wr .tileQcfgLog2Depth i 0 2).wr .tileQcfgBase i 0 100).wr .tileQTail i 0 1
  (s.setBytes (spdAddr 0 .cb 6400) (d.flatMap (natLe 8))).setBytes 0x1000 (natLe 4 1 ++ natLe 4 3)

/-- Descriptors: linear, linear to another device, strided, gather, scatter, and a reducing scatter of INT32. -/
def hoistDescs : List (List Nat) :=
  [[hoistWord 0 0 0 0 5 0, 0x200000, 0x300, 10, 0, 0, 2 ^ 35, 7 * 2 ^ 32],
   [hoistWord 0 0 0 0 5 1, 0x200000, 0x300, 10, 0, 0, 2 ^ 35, 7 * 2 ^ 32 + 9],
   [hoistWord 1 0 0 0 5 0, 0x200000, 0x300, 2 * 2 ^ 32 + 3, 16 * 2 ^ 32 + 4, 0, 2 ^ 35, 7 * 2 ^ 32 + 9],
   [hoistWord 2 0 0 0 5 0, 0x200000, 0x400000, 2 * 2 ^ 32 + 64, 2, 0x1000, 2 ^ 35, 7 * 2 ^ 32 + 9],
   [hoistWord 3 0 0 0 5 0, 0x200000, 0x400000, 2 * 2 ^ 32 + 64, 2, 0x1000, 2 ^ 35, 7 * 2 ^ 32 + 9],
   [hoistWord 3 1 1 9 5 0, 0x200000, 0x400000, 1 * 2 ^ 32 + 64, 2, 0x1000, 2 ^ 35, 7 * 2 ^ 32 + 9]]

theorem hoistTakes_of {s : State} {q : Nat} {d : List Nat} (h : decide ((s.tile 0).active = true ∧ (s.tile 0).hoist.active.length < 4 ∧
    (s.tile 0).hoist.reads.length < 1024 ∧ (∀ r ∈ (s.tile 0).hoist.active, r.waits = false) ∧ s.hoistNext 0 = some q ∧ s.clearing 0 .cb = false ∧ s.ecc = [] ∧ s.tiles.all (fun e => e.2.slots.isEmpty) = true ∧
    d = (List.range 8).map (fun i => leNat (s.bytes (spdAddr 0 .cb (s.qLine 0 (64 + q) (s.rd .tileQHead (qInst 0 (64 + q)))) + 8 * i) 8))) = true) :
    s.HoistTakes 0 q d := by
  obtain ⟨a, b, l, m, c, e, f, g, i⟩ := of_decide_eq_true h
  exact ⟨a, b, l, m, c, e, marks_zero f, steady_of g, i⟩

/-- Each descriptor is taken, legal, and its spans are open: the hypotheses common to HoistMoves. -/
theorem witness_HoistMoves : ∀ d ∈ hoistDescs, (hoistAt d).HoistTakes 0 0 d ∧ (hoistFields d).illegal = none ∧
    (hoistAt d).heldAt ((hoistAt d).hoistSpans (hoistFields d)) = none ∧
    (∀ p ∈ (hoistAt d).hoistSpans (hoistFields d), (hoistAt d).okBytes p.1 p.2 = p.2) := by
  have h : hoistDescs.all (fun d => decide (((hoistAt d).tile 0).active = true ∧ ((hoistAt d).tile 0).hoist.active.length < 4 ∧
    ((hoistAt d).tile 0).hoist.reads.length < 1024 ∧ (∀ r ∈ ((hoistAt d).tile 0).hoist.active, r.waits = false) ∧ (hoistAt d).hoistNext 0 = some 0 ∧ (hoistAt d).clearing 0 .cb = false ∧ (hoistAt d).ecc = [] ∧
    (hoistAt d).tiles.all (fun e => e.2.slots.isEmpty) = true ∧ d = (List.range 8).map (fun i =>
      leNat ((hoistAt d).bytes (spdAddr 0 .cb ((hoistAt d).qLine 0 (64 + 0) ((hoistAt d).rd .tileQHead (qInst 0 (64 + 0)))) + 8 * i) 8)))) = true := by
    decide +kernel
  exact fun d hd => ⟨hoistTakes_of (List.all_eq_true.mp h d hd), by revert d; decide +kernel⟩

/-- The clauses of the six kinds, with the disjointness that strided copies, gather and scatter ask for. -/
theorem witness_HoistMoves_kinds :
    (∃ f, f = hoistFields (hoistDescs.getD 0 []) ∧ f.kind = 0 ∧ f.remote = false) ∧
    (∃ f, f = hoistFields (hoistDescs.getD 1 []) ∧ f.kind = 0 ∧ f.remote = true ∧ 0 < f.rowBytes ∧ f.rowBytes ≤ 8192) ∧
    (∃ f, f = hoistFields (hoistDescs.getD 2 []) ∧ f.kind = 1 ∧ f.remote = false ∧
      (∀ r, r < f.count → ∀ i, i < f.rowBytes → ∀ r', r' < f.count → ∀ i', i' < f.rowBytes →
        f.src + r * f.srcStride + i ≠ f.dst + r' * f.dstStride + i' ∧
        (f.dst + r * f.dstStride + i = f.dst + r' * f.dstStride + i' → r = r'))) ∧
    (∃ f, f = hoistFields (hoistDescs.getD 3 []) ∧ f.kind = 2 ∧ ∀ r, r < f.count → ∀ j, j < f.count * f.rowBytes → ∀ i, i < f.rowBytes →
      f.src + leNat ((hoistAt (hoistDescs.getD 3 [])).memBytes (f.idx + 4 * r) 4) * f.rowBytes + i ≠ f.dst + j) ∧
    (∃ f, f = hoistFields (hoistDescs.getD 4 []) ∧ f.kind = 3 ∧ f.redOp = 0 ∧ leNat ((hoistAt (hoistDescs.getD 4 [])).memBytes f.idx 4) < f.srcStride ∧
      ∀ r, r < f.count → ∀ j, j < f.count * f.rowBytes → ∀ i, i < f.rowBytes →
        f.dst + leNat ((hoistAt (hoistDescs.getD 4 [])).memBytes (f.idx + 4 * r) 4) * f.rowBytes + i ≠ f.src + j) ∧
    (∃ f, f = hoistFields (hoistDescs.getD 5 []) ∧ f.kind = 3 ∧ f.redOp = 1 ∧ f.fmt = 9 ∧ f.acc = true ∧ f.sat = false ∧ f.count = 1 ∧
      leNat ((hoistAt (hoistDescs.getD 5 [])).memBytes f.idx 4) < f.srcStride) :=
  ⟨⟨_, rfl, by decide +kernel⟩, ⟨_, rfl, by decide +kernel⟩,
   ⟨_, rfl, by decide +kernel, by decide +kernel, by
      rw [show hoistFields (hoistDescs.getD 2 []) = { hoistFields (hoistDescs.getD 2 []) with
        src := 0x200000, dst := 0x300, count := 2, rowBytes := 3, srcStride := 4, dstStride := 16 } by decide +kernel]
      intro r hr i hi r' hr' i' hi'
      dsimp only at hr hi hr' hi' ⊢
      omega⟩,
   ⟨_, rfl, by decide +kernel⟩, ⟨_, rfl, by decide +kernel⟩, ⟨_, rfl, by decide +kernel⟩⟩

/-- An executing descriptor of queue 31 with a status, acknowledgements it waits for and SIG_EN. -/
def hoistRun (st : Nat) (acks : List Nat) (d : List Nat) (tally : Nat) : State :=
  { (hoistAt d).onTile 0 (fun x => { x with hoist := { active := [{ queue := 31, desc := d, status := st, acks := acks }] } }) with tally := tally }

/-- An illegal descriptor; completions without and with a signal, of an illegal one, of one that waits; the timeout at its time and before it. -/
theorem witness_HoistCompletes :
    (let d := [hoistWord 9 0 0 0 5 0, 0x200000, 0x300, 10, 0, 0, 2 ^ 35, 7 * 2 ^ 32]
     (hoistAt d).HoistTakes 0 0 d ∧ (hoistFields d).illegal.isSome = true) ∧
    (let d := hoistDescs.getD 0 []
     let e := (d.headD 0 - 2 ^ 46) :: d.tail
     (∀ p ∈ [(hoistRun 0 [] d 0, d, 0, []), (hoistRun 0 [] e 0, e, 0, []), (hoistRun 1 [] d 0, d, 1, []), (hoistRun 15 [] d 0, d, 15, []),
        (hoistRun 0 [3] d 1000000, d, 0, [3]), (hoistRun 0 [3] d 999999, d, 0, [3])],
       ((p.1.tile 0).active = true ∧ p.1.hoistOf 0 31 = some { queue := 31, desc := p.2.1, status := p.2.2.1, acks := p.2.2.2 } ∧
        p.1.rd .hstRemoteTimeoutNs 0 = 1000000)) ∧
     (hoistFields e).sigEn = false ∧ (hoistFields d).sigEn = true ∧ (hoistRun 0 [] d 0).targetHere (hoistFields d).sigTarget = true ∧
     targetTile (hoistFields d).sigTarget = 0 ∧ 1000000 ≥ 0 + (hoistRun 0 [3] d 1000000).rd .hstRemoteTimeoutNs 0 ∧
     999999 < 0 + (hoistRun 0 [3] d 999999).rd .hstRemoteTimeoutNs 0) :=
  ⟨⟨hoistTakes_of (by decide +kernel), by decide +kernel⟩, by decide +kernel⟩

/-! ### Witnesses: packets, tile registers, the host port and the tally (statements O34 to O40) -/

/-- A packet that has arrived at tile 0. -/
def arrive (p : Packet) : Arrival := { pkt := p }

/-- Queue 64 of tile 0 enabled, with one packet waiting on the die. -/
def arrived (p : Packet) (s : State := State.reset.setTile 0 { tallyValid := true }) : State := { s with dieNet := [arrive p], tally := 1000000000 }

/-- A queue that is off, on with room, full, and a packet from before the fence. -/
theorem witness_PacketsReceived_post :
    let p : Packet := { ty := 2, dstTile := 0, dstQueue := 95, payload := List.replicate 64 7 }
    let off := arrived p
    let room := arrived p (withQ 95 (State.reset.setTile 0 { tallyValid := true }))
    let full := arrived p ((withQ 95 (State.reset.setTile 0 { tallyValid := true })).wr .tileQTail (qInst 0 95) 0 256)
    let late := arrived p ((State.reset.setTile 0 { tallyValid := true }).wr .tileGenAt 0 0 1000000000)
    (∀ s ∈ [off, room, full, late], s.Arrives 2 0 (arrive p) { s with dieNet := [] } ∧ (s.tile (arrive p).pkt.dstTile).active = true ∧
      (arrive p).pkt.dstQueue < 128 ∧ (arrive p).pkt.dstTile < 256 ∧ s.clearing (arrive p).pkt.dstTile (qBank (arrive p).pkt.dstQueue) = false) ∧
    late.fenced 0 0 = true ∧ off.fenced 0 0 = false ∧ off.qEnabled 0 95 = false ∧ full.fenced 0 0 = false ∧ full.qEnabled 0 95 = true ∧
    full.qOcc 0 95 ≥ full.qDepth 0 95 ∧ room.fenced 0 0 = false ∧ room.qEnabled 0 95 = true ∧ room.qOcc 0 95 < room.qDepth 0 95 ∧
    p.payload.length = 64 ∧ p.poison = [] ∧ (∀ i, (room.slot 0 i).mode ≠ .committing) := by
  refine ⟨fun s hs => ?_, ?_, ?_, ?_, ?_, ?_, ?_, ?_, ?_, ?_, ?_, ?_, steady_of (by decide +kernel) 0⟩ <;> try decide +kernel
  simp only [List.mem_cons, List.not_mem_nil, or_false] at hs
  rcases hs with rfl | rfl | rfl | rfl <;> exact ⟨rfl, by decide +kernel⟩

/-- A SIGNAL to semaphore 63; a WRITE and a READ of three bytes at the end of MA. -/
theorem witness_PacketsReceived_memory :
    (let p : Packet := { ty := 3, dstTile := 0, sem := 63, addr := 9 }
     (arrived p).Arrives 3 0 (arrive p) { arrived p with dieNet := [] } ∧ ((arrived p).tile p.dstTile).active = true ∧ p.dstTile < 256 ∧ p.sem < 64 ∧
     (arrived p).fenced p.dstTile 0 = false) ∧
    (∀ ty ∈ [0, 4], let p : Packet := { ty := ty, addr := 0x1FFFFD, len := 3, payload := [1, 2, 3] }
     let s := arrived p
     s.Arrives ty 0 (arrive p) { s with dieNet := [] } ∧ (∀ k, s.mark k = 0) ∧ (∀ u i, (s.slot u i).mode ≠ .committing) ∧
     s.heldAt [(p.addr, p.len)] = none ∧ s.okBytes p.addr p.len = p.len ∧ p.payload.length = p.len ∧ p.poison = [] ∧
     (∀ t, s.tileAt p.addr = some t → s.fenced t 0 = false)) := by
  refine ⟨⟨rfl, by decide +kernel⟩, ?_⟩
  intro ty ht
  simp only [List.mem_cons, List.not_mem_nil, or_false] at ht
  rcases ht with rfl | rfl <;>
    exact ⟨rfl, marks_zero (by decide +kernel), steady_of (by decide +kernel), by decide +kernel, by decide +kernel, by decide +kernel, by decide +kernel,
      by intro t h; rw [show State.tileAt _ _ = some 0 by decide +kernel] at h; cases h; decide +kernel⟩

/-- An ACK and a READ_DATA that are awaited, and ones that are stale. -/
theorem witness_PacketsReceived_answers :
    (let p : Packet := { ty := 1, tag := 1 }
     let s := arrived p (hoistRun 0 [1, 2] (hoistDescs.getD 0 []) 0)
     let n := arrived p
     s.Arrives 1 0 (arrive p) { s with dieNet := [] } ∧ p.dstTile < 255 ∧ p.gen = s.rd .tileGen p.dstTile ∧
     (s.tile p.dstTile).hoist.active.any (fun r => r.acks.contains p.tag) = true ∧ n.Arrives 1 0 (arrive p) { n with dieNet := [] } ∧
     (n.tile p.dstTile).hoist.active.any (fun r => r.acks.contains p.tag) = false) ∧
    (let p : Packet := { ty := 5, tag := 3, payload := [5] }
     let s := arrived p (State.reset.setTile 0 { hoist := { reads := [3] } })
     let n := arrived p
     s.Arrives 5 0 (arrive p) { s with dieNet := [] } ∧ p.dstTile < 256 ∧ p.gen = s.rd .tileGen p.dstTile ∧
     (s.tile p.dstTile).hoist.reads.contains p.tag = true ∧ n.Arrives 5 0 (arrive p) { n with dieNet := [] } ∧
     (n.tile p.dstTile).hoist.reads.contains p.tag = false) :=
  ⟨⟨rfl, by decide +kernel, by decide +kernel, by decide +kernel, rfl, by decide +kernel⟩,
   ⟨rfl, by decide +kernel, by decide +kernel, by decide +kernel, rfl, by decide +kernel⟩⟩

/-- A stopped tile; a queue that is off; one that is on, with a write that keeps EN and one that clears it. -/
theorem witness_TileRegisterWrites :
    ((State.reset.setTile 0 { stopped := true }).tile 0).stopped = true ∧ (State.reset.setTile 0 { stopped := true }).stateWriteOpen = false ∧
    (State.reset.tile 0).stopped = false ∧ State.reset.rd .tileQcfgEn (qInst 0 (127 : Fin 128)) = 0 ∧
    (let s := withQ 95 State.reset
     (s.tile 0).stopped = false ∧ s.rd .tileQcfgEn (qInst 0 (95 : Fin 128)) ≠ 0 ∧ (2 ^ 31).testBit 31 = true ∧ (2 ^ 31 - 1).testBit 31 = false ∧
     s.qEnabled 0 (95 : Fin 128) = true) := by decide +kernel

/-- A host with the link up and the firmware ready. -/
def hostUp : State := { State.reset.setTile 0 { tallyValid := true } with adit := { linkUp := true, fwReady := true } }

/-- The last byte of a line within a window and one past the end of BAR2; firmware not ready; a read whose line comes. -/
theorem witness_Bar2Accesses :
    (hostUp.adit.linkUp = true ∧ 2 ^ 36 + [1#8].length > 2 ^ (36 + hostUp.adit.bar2Size)) ∧
    (∃ a, a = hostUp.rd .adtWinBase 0 (63 / 2 ^ (34 + hostUp.adit.bar2Size)) + 63 % 2 ^ (34 + hostUp.adit.bar2Size) ∧
      63 + [1#8].length ≤ 2 ^ (36 + hostUp.adit.bar2Size) ∧ 63 % 64 + [1#8].length ≤ 64 ∧ hostUp.adit.writes = [] ∧ hostUp.adit.fwReady = true ∧
      (∀ k, hostUp.mark k = 0) ∧ (∀ u i, (hostUp.slot u i).mode ≠ .committing) ∧ hostUp.okBytes a [1#8].length = [1#8].length) ∧
    (let s : State := { hostUp with adit := { linkUp := true } }
     s.adit.linkUp = true ∧ s.adit.writes = [] ∧ s.adit.fwReady = false) ∧
    (let s : State := { hostUp with adit := { linkUp := true, fwReady := true, reads := [⟨[(65, 3)], []⟩] } }
     s.adit.reads = ⟨[(65, 3)], []⟩ :: [] ∧ s.adit.writes = [] ∧ s.adit.fwReady = true ∧ s.accessAt 65 = .ok ∧ (∀ k, s.mark k = 0)) :=
  ⟨by decide +kernel, ⟨_, rfl, by decide +kernel, by decide +kernel, by decide +kernel, by decide +kernel, marks_zero (by decide +kernel),
    steady_of (by decide +kernel), by decide +kernel⟩, by decide +kernel,
   by decide +kernel, by decide +kernel, by decide +kernel, by decide +kernel, marks_zero (by decide +kernel)⟩

/-- The states of vector 2047 that the clauses name. -/
theorem witness_MsixVectors :
    let s (a : Adit) : State := { State.reset with adit := a }
    let v := (2047 : Fin 2048).val
    (State.reset.adit.msixEn = false) ∧
    (let x := s { msixEn := true, busMaster := true, pba := [(v, true)] }
     x.adit.msixEn = true ∧ x.adit.busMaster = true ∧ sget false v x.adit.pba = true ∧ x.adit.fnMask = false) ∧
    (let x := s { msixEn := true, busMaster := true }
     x.adit.msixEn = true ∧ x.adit.busMaster = true ∧ sget false v x.adit.pba = false ∧ sget false v x.adit.unmasked = false) ∧
    (let x := s { msixEn := true, busMaster := true, unmasked := [(v, true)] }
     x.adit.msixEn = true ∧ x.adit.busMaster = true ∧ sget false v x.adit.pba = false ∧ sget false v x.adit.unmasked = true ∧ x.adit.fnMask = false) ∧
    (let x := s { linkUp := true }
     x.adit.linkUp = true ∧ x.adit.pba = []) ∧
    (let x := s { linkUp := true, busMaster := true, unmasked := [(v, true)], pba := [(v, true)] }
     x.adit.linkUp = true ∧ x.adit.pba = [(v, true)] ∧ sget false v x.adit.unmasked = true ∧ x.adit.busMaster = true) := by decide +kernel

/-- A module that runs, with PERST_SCOPE 1 and 0, and within a warm reset. -/
theorem witness_HostLinkAndResets :
    let r : State := { State.reset with mod := { State.reset.mod with running := true, refOk := true, perst := false } }
    (r.mod.running = true ∧ r.mod.refOk = true ∧ r.mod.perst = false ∧ r.mod.scanHold = false ∧ r.adit.linkUp = false) ∧
    (r.wr .adtCfgPerstScope 0 0 1).rd .adtCfgPerstScope = 1 ∧ (r.wr .adtCfgPerstScope 0 0 1).mod.running = true ∧
    (r.rd .adtCfgPerstScope ≠ 1 ∧ r.warmAt = 0 ∧ r.rasw.warmPlan = 0) ∧
    (({ r with warmAt := 5 } : State).mod.running = true ∧ ({ r with warmAt := 5 } : State).rd .adtCfgPerstScope ≠ 1 ∧ ({ r with warmAt := 5 } : State).warmAt ≠ 0) := by
  decide +kernel

/-- A follower with DEV_VALID whose upstream port is 2. -/
def follower (a : Talign) (tally : Nat) : State :=
  { ((State.reset.wr .tlyStatusDevValid 0 0 1).wr .tlyCtrlRole 0 0 1).wr .tlyCtrlUpstreamPort 0 0 2 with tally := tally, talign := a }

/-- The last tick before an exchange and the first after; each KIND; a RESPONSE in time and of another exchange, of a small and of a large offset. -/
theorem witness_TallyAlignment :
    (∀ n ∈ [124999, 125000], (follower { sentAt := 1 } n).devValid = true ∧ (follower { sentAt := 1 } n).rd .tlyCtrlRole = 1) ∧
    ((follower { sentAt := 1 } 125000).tally + 1 ≥ 1 + 125000 ∧ (follower { sentAt := 1 } 124999).tally + 1 < 1 + 125000) ∧
    (∀ k ∈ [0, 1, 2], let a : Arrival := { pkt := { ty := 0xA, payload := talignPayload k 3 1000000000 1000000530 1000001030 }, port := some 1, stamp := 1000001520 }
      let s : State := { follower { out := some 3 } 200000 with dieNet := [a] }
      s.dieNet = a :: [] ∧ a.pkt.ty = 0xA ∧ talignKind a.pkt = k ∧ s.devValid = true ∧ s.talign.out = some (payWord a.pkt 0 % 2 ^ 32) ∧
      a.stamp ≤ payWord a.pkt 1 + 100000 ∧ s.talign.done = false ∧
      (((payWord a.pkt 2 : Int) - payWord a.pkt 1) - ((a.stamp : Int) - payWord a.pkt 3)).tdiv 2 = 20) ∧
    (let p : Packet := { ty := 0xA, payload := talignPayload 1 3 1000000000 1000010530 1000011030 }
     (((payWord p 2 : Int) - payWord p 1) - ((1000001520 : Int) - payWord p 3)).tdiv 2 > 4000 ∧
     (follower { out := some 4 } 0).talign.out ≠ some (payWord p 0 % 2 ^ 32)) ∧
    (let p : Packet := { ty := 0xA, payload := talignPayload 1 3 1000000000 1000000530 1000001030 }
     (((payWord p 2 : Int) - payWord p 1) - ((1000011520 : Int) - payWord p 3)).tdiv 2 < -4000) ∧
    (let s := follower { lastAt := 1 } 1000001
     s.rd .tlyCtrlRole = 1 ∧ s.devValid = true ∧ s.talign.holdover = false ∧ s.tally ≥ s.talign.lastAt + 1000000) ∧
    (follower { lastAt := 1 } 1000000).tally < 1 + 1000000 ∧
    (let s := follower { inSince := 1 } 10000000
     s.rd .tlyStatusXdevLocked = 0 ∧ s.talign.inSince ≠ 0 ∧ s.tally + 1 ≥ s.talign.inSince + 10000000) ∧
    (follower {} 0).talign.inSince = 0 := by decide +kernel

/-- Arms at exactly 2 µs ahead, one nanosecond short, and while one is pending; a snapshot at its instant and before it. -/
theorem witness_ReplicasAndSnapshots :
    (follower {} 0).devValid = true ∧ 1 % 2 = 1 ∧
    (let s (n : Nat) : State := { State.reset.wr .tlySnapAt 0 0 202000 with tally := n }
     (s 200000).rd .tlyStatusSnapPending = 0 ∧ (s 200000).rd .tlySnapAt ≥ (s 200000).tally + 2000 ∧
     (s 200001).rd .tlyStatusSnapPending = 0 ∧ (s 200001).rd .tlySnapAt < (s 200001).tally + 2000) ∧
    (let s (n : Nat) : State := { State.reset.wr .tlyStatusSnapPending 0 0 1 with tally := n, snapArmed := 200000, tiles := [(4, { gated := true })] }
     (s 200000).rd .tlyStatusSnapPending ≠ 0 ∧ (s 200000).tally ≥ (s 200000).snapArmed ∧ ssorted (s 200000).regs = true ∧
     (s 199999).rd .tlyStatusSnapPending ≠ 0 ∧ (s 199999).tally < (s 199999).snapArmed ∧ ((s 200000).tile 4).gated = true ∧
     ((s 200000).tile 3).gated = false) := by decide +kernel

/-! ### Witnesses: fabric ports and routing (statements O41 to O46) -/

/-- Port 7 in a given condition. -/
def port7 (x : Port) : State := { State.reset with ports := [(7, x)], tally := 5000 }

theorem witness_FlitsSent :
    let c (s : State) := s.port 7
    (7 : PortId).val < (port7 {}).variant.ports ∧ ((c (port7 {})).mode ≠ .up ∧ (c (port7 {})).mode ≠ .init) ∧
    ((c (port7 { mode := .up, slot := 255 })).mode = .up ∧ (c (port7 { mode := .up, slot := 255 })).slot = 255) ∧
    (let s := port7 { mode := .up, slot := 254, ctrl := [.retryReq 3] }
     (c s).mode = .up ∧ (c s).slot < 255 ∧ (c s).ctrl = .retryReq 3 :: [] ∧ Ctrl.retryReq 3 ≠ .framing) ∧
    (let f : TxFlit := ⟨[], 1, 2, 0, 0, 5, true, 0, []⟩
     let s := port7 { mode := .up, sent := [f], resend := some 0 }
     (c s).mode = .up ∧ (c s).slot < 255 ∧ (c s).ctrl = [] ∧ (c s).resend = some 0 ∧ (c s).sent[0]? = some f) ∧
    (let s := port7 { mode := .up, sent := List.replicate 767 ⟨[], 1, 2, 0, 0, 5, true, 0, []⟩ }
     (c s).mode = .up ∧ (c s).slot < 255 ∧ (c s).ctrl = [] ∧ (c s).resend = none ∧ (c s).halted = false ∧ (c s).sent.length < 768 ∧ (c s).cur = none ∧
     (c s).txq = []) ∧
    (let q : TxPkt := ⟨{ len := 216, payload := List.replicate 216 1 }, 7, none⟩
     let s := port7 { mode := .up, txq := [q], credit := [(7, 35)] }
     (c s).mode = .up ∧ (c s).slot < 255 ∧ (c s).ctrl = [] ∧ (c s).resend = none ∧ (c s).halted = false ∧ (c s).sent.length < 768 ∧ (c s).cur = none ∧
     (c s).txq = [q] ∧ q.vc < 8 ∧ q.pkt.len ≤ 8192 ∧ q.pkt.ty ≠ 0xA ∧ q.pkt.payload.length = q.pkt.len ∧ s.txEligible 7 q = true) := by
  decide +kernel

/-- A flit of 248 zero bytes. -/
def flitOf (seq kind : Nat) : Flit :=
  { body := List.replicate 248 0#8, welt := welt (List.replicate 248 0#8) (weltLow seq 7 kind 2 3 4) }

theorem witness_FlitsReceived :
    let c (s : State) := s.port 7
    (∀ f ∈ [flitOf 1 0, flitOf 1 1, flitOf 2 0, { flitOf 1 0 with welt := 3 }],
      f.body.length = 248 ∧ f.fec.cw = 0 ∧ f.fec.corrected = 0 ∧ f.fec.uncorrectable = 0 ∧ f.fec.symbols = []) ∧
    (∀ f ∈ [flitOf 1 0, flitOf 1 1, flitOf 2 0], welt f.body (f.welt % 2 ^ 32) = f.welt ∧ bitsOf f.welt 11 10 ≠ 3) ∧
    ((c (port7 {})).mode ≠ .up) ∧
    (welt (flitOf 1 0).body (3 % 2 ^ 32) ≠ 3 ∧ (c (port7 { mode := .up })).mode = .up ∧ (c (port7 { mode := .up })).reqSent = false) ∧
    ((c (port7 { mode := .up, reqSent := true })).sent = [] ∧ (c (port7 { mode := .up, reqSent := true })).reqSent = true ∧
     bitsOf (flitOf 2 0).welt 31 22 ≠ ((c (port7 { mode := .up, reqSent := true })).got + 1) % 1024) ∧
    (bitsOf (flitOf 1 0).welt 31 22 = ((c (port7 { mode := .up })).got + 1) % 1024 ∧ bitsOf (flitOf 1 0).welt 11 10 = 0) ∧
    (let s := port7 { mode := .up }
     bitsOf (flitOf 1 1).welt 31 22 = ((c s).got + 1) % 1024 ∧ bitsOf (flitOf 1 1).welt 11 10 = 1 ∧ (c s).halted = false ∧ (c s).opens = [] ∧
     bitsOf (leNat (((flitOf 1 1).body.drop 8).take 8)) 27 14 ≤ 216) ∧
    (let s := port7 { mode := .up, sent := [⟨[], 1, 2, 0, 0, 6, true, 0, []⟩, ⟨[], 1, 2, 0, 0, 7, true, 0, []⟩] }
     (c s).mode = .up ∧ (c s).sent.findIdx? (fun g => g.seq == bitsOf (flitOf 1 0).welt 21 12) = some 1 ∧ (c s).resend = none) := by
  decide +kernel

theorem witness_RetryAndLinkDown :
    let c (s : State) := s.port 7
    (∀ tries ∈ [14, 15], let s := port7 { mode := .up, tries := tries, sent := [⟨[], 1, 2, 0, 0, 7, true, 0, []⟩] }
     (c s).mode = .up ∧ (c s).resetAt = none ∧ (c s).sent.findIdx? (fun f => f.seq == (7 + 1024) % 1024) = some 0 ∧ (c s).resend = none ∧
     (c s).sent.findIdx? (fun f => f.seq == 3) = none ∧ (c s).sent ≠ [] ∧ s.tally ≥ (c s).ackAt + s.rd .portRetryCfgReplayNs 7 ∧
     (if tries = 14 then (c s).tries + 1 < s.rd .portRetryCfgLimit 7 else (c s).tries + 1 ≥ s.rd .portRetryCfgLimit 7)) ∧
    (port7 { mode := .up, ackAt := 5000 }).tally < (c (port7 { mode := .up, ackAt := 5000 })).ackAt +
      (port7 { mode := .up, ackAt := 5000 }).rd .portRetryCfgReplayNs 7 ∧
    (c (port7 { mode := .up })).lanesUsed &&& 4 ≠ 0 ∧ (c (port7 { mode := .up })).lanesUsed &&& 0 = 0 ∧
    (port7 { mode := .up, crcAt := 3000 }).tally ≥ (c (port7 { mode := .up, crcAt := 3000 })).crcAt + 2000 ∧
    (port7 { mode := .up, crcAt := 3001 }).tally < (c (port7 { mode := .up, crcAt := 3001 })).crcAt + 2000 := by decide +kernel

theorem witness_PortBringUp :
    let c (s : State) := s.port 7
    ((7 : PortId).val < (port7 {}).variant.ports ∧ (port7 {}).mod.scanHold = false ∧ (c (port7 {})).resetAt = none ∧ (c (port7 {})).mode = .disabled ∧
     (2 ^ 31 + 2 ^ 28).testBit 31 = true ∧ (2 ^ 31 + 2 ^ 28) / 2 ^ 24 % 4 = 0 ∧ (port7 {}).rxbufOk 7 = true ∧
     ((port7 {}).wr .portRxbufVc 7 1 15).rxbufOk 7 = false) ∧
    (∀ m ∈ [PortMode.training, .aligning, .init], (c (port7 { mode := m })).mode = m ∧ (2 ^ 31 - 1).testBit 31 = false ∧
      (c (port7 { mode := m })).resetAt = none) ∧
    (let s (n : Nat) : State := { ((port7 { mode := .down, since := 3 }).wr .portCtrlEn 7 0 1).wr .portCtrlAutoRetrain 7 0 1 with tally := n }
     (c (s 1000003)).mode = .down ∧ (s 1000003).rd .portCtrlAutoRetrain 7 ≠ 0 ∧ (s 1000003).rd .portCtrlEn 7 ≠ 0 ∧
     (s 1000003).tally ≥ (c (s 1000003)).since + 1000000 ∧ (s 1000002).tally < (c (s 1000002)).since + 1000000) ∧
    (let s (n : Nat) : State := { (port7 { mode := .training, since := 3 }).wr .portTrainCfgTimeoutMs 7 0 2 with tally := n }
     (s 2000003).tally ≥ (c (s 2000003)).since + (s 2000003).rd .portTrainCfgTimeoutMs 7 * 1000000 ∧
     (s 2000002).tally < (c (s 2000002)).since + (s 2000002).rd .portTrainCfgTimeoutMs 7 * 1000000) ∧
    ([20, 21, 22, 23, 24, 25, 26, 27].length = 8) := by decide +kernel

/-- Device 5, with ports 0 and 7 up and a route for its own cell through port 7. -/
def routed : State :=
  { ((State.reset.setTile 0 { tallyValid := true }).wr .fabDevIdValid 0 0 1).wr .fabDevIdId 0 0 5 with
    tally := 77, ports := [(0, { mode := .up }), (7, { mode := .up })], rt := [(0, 2 ^ 31 + 2 ^ 30 + 7 * 2 ^ 27)] }

/-- Packets for this device, for one of its cell and for one without a route; without DEV_ID; by an absent and by a closed port. -/
theorem witness_PacketsRouted_inject :
    (∀ d ∈ [5, 6, 300], ({ routed with outbox := [{ dstDev := d }] } : State).outbox[0]? = some { dstDev := d } ∧
      ({ dstDev := d } : Packet).onDie = false ∧ d ≠ 0xFFFFF) ∧
    routed.rd .fabDevIdValid ≠ 0 ∧ State.reset.rd .fabDevIdValid = 0 ∧ routed.rd .fabDevIdId = 5 ∧
    routed.route 300 (routed.rd .fabEpochInj) = none ∧ routed.route 6 (routed.rd .fabEpochInj) = some 7 ∧ 7 < routed.variant.ports ∧
    (routed.port 7).mode = .up ∧ (({ routed with ports := [] } : State).port 7).mode ≠ .up ∧
    (let s : State := { routed with variant := .m8i2 }
     s.route 6 (s.rd .fabEpochInj) = some 7 ∧ 7 ≥ s.variant.ports) ∧
    ((routed.tile 0).active = true ∧ (routed.tile 0).hoist.reads.length < 1024) := by decide +kernel

/-- Packets that a port has accepted: of each bad header, for this device, and to forward, back, onward and past the hop limit. -/
theorem witness_PacketsRouted_receive :
    (∀ r ∈ ([⟨{ len := 8193 }, 2, 1, 9⟩, ⟨{ ty := 4 }, 2, 1, 9⟩, ⟨{ ty := 5 }, 2, 1, 9⟩, ⟨{ ty := 7 }, 2, 1, 9⟩, ⟨{ ty := 0xC }, 2, 1, 9⟩, ⟨{ vc := 3 }, 2, 1, 9⟩] :
        List RxPkt),
      r.pkt.len > 8192 ∨ r.pkt.ty = 4 ∨ r.pkt.ty = 5 ∨ r.pkt.ty = 7 ∨ r.pkt.ty ≥ 0xC ∨ r.pkt.vc ≠ r.vc) ∧
    (∀ d ∈ [5, 6], let r : RxPkt := ⟨{ dstDev := d, hops := 0x7F }, 2, 1, 9⟩
     let s : State := { routed with ports := [(0, { mode := .up, rxq := [r] }), (7, { mode := .up })] }
     (s.port 0).rxq = r :: [] ∧ badHeader r.pkt r.vc = none ∧ s.rd .fabDevIdValid ≠ 0 ∧ (r.pkt.dstDev = s.rd .fabDevIdId ∨
       r.pkt.dstDev ≠ 0xFFFFF ∧ s.route r.pkt.dstDev r.pkt.epoch = some 7 ∧ 7 ≠ (0 : PortId).val ∧ r.pkt.hops + 1 ≤ s.rd .fabHopLimit ∧
       (s.port 7).mode = .up ∧ 0x80 + 1 > s.rd .fabHopLimit)) ∧
    (let r : RxPkt := ⟨{ dstDev := 6 }, 2, 1, 9⟩
     let s : State := { routed with ports := [(7, { mode := .up, rxq := [r] })] }
     (s.port 7).rxq = r :: [] ∧ badHeader r.pkt r.vc = none ∧ s.route r.pkt.dstDev r.pkt.epoch = some (7 : PortId).val) := by decide +kernel

/-- The last entry of level 1 of the bank that is not in force, and the bank in force. -/
theorem witness_RoutingTables :
    (let s := ((routed.wr .rtAccAddrBank 0 0 1).wr .rtAccAddrLevel 0 0 1).wr .rtAccAddrIndex 0 0 262143
     s.rd .rtAccAddrLevel < 2 ∧ s.rd .rtAccAddrBank < 2 ∧ s.rd .fabEpochInj ≠ s.rd .rtAccAddrBank ∧ s.rtHeld (s.rd .rtAccAddrBank) = 0 ∧
     s.rd .rtAccAddrIndex < (if s.rd .rtAccAddrLevel = 0 then 4096 else 262144)) ∧
    (routed.rd .rtAccAddrLevel < 2 ∧ routed.rd .rtAccAddrBank < 2 ∧ routed.rd .fabEpochInj = routed.rd .rtAccAddrBank) := by decide +kernel

/-! ### Witnesses: collectives (statements O47 to O49) -/

/-- The eight words of a seam descriptor over INT32 (R310): operation, IN, OUT, WORK, elements and root. -/
def seamDesc (op ope elems root : Nat) : List Nat :=
  [op * 2 ^ 60 + 9 * 2 ^ 54 + 9 * 2 ^ 50 + 9 * 2 ^ 46 + ope * 2 ^ 35, 0x200000, 0x300, 0x1000, elems * 2 ^ 32 + root * 2 ^ 12 + 2, 0, 0, 2 ^ 35]

/-- Tile 0 of device 5 with one descriptor in its seam queue 0 and a group of nm1 + 1 members, of which it is member 0. -/
def seamAt (nm1 : Nat) (d : List Nat) : State :=
  let i := qInst 0 96
  let s := (((routed.wr .tileQcfgEn i 0 1).wr .tileQcfgLog2Depth i 0 2).wr .tileQcfgBase i 0 100).wr .tileQTail i 0 1
  let s := ((s.wr .collCfgValid 0 0 1).wr .collNM1 0 0 nm1).setBytes (spdAddr 0 .sb 6400) (d.flatMap (natLe 8))
  { s.setBytes 0x200000 [1, 2, 3, 4, 5, 6, 7, 8, 9, 10, 11, 12] with collMap := [(0, [(0, 5, 0), (1, 6, 1)])] }

theorem seamTakes_of {s : State} {q : Nat} {d : List Nat} (h : decide ((s.tile 0).active = true ∧
    (s.colls.filter (fun e => e.2.tile == 0)).length < 4 ∧ s.seamNext 0 = some q ∧ s.clearing 0 .sb = false ∧ s.ecc = [] ∧
    s.tiles.all (fun e => e.2.slots.isEmpty) = true ∧
    d = (List.range 8).map (fun i => leNat (s.bytes (spdAddr 0 .sb (s.qLine 0 (96 + q) (s.rd .tileQHead (qInst 0 (96 + q)))) + 8 * i) 8))) = true) :
    s.SeamTakes 0 q d := by
  obtain ⟨a, b, c, e, f, g, i⟩ := of_decide_eq_true h
  exact ⟨a, b, c, e, marks_zero f, steady_of g, i⟩

/-- The collective that a legal descriptor begins. -/
def begun (s : State) (d : List Nat) : Coll :=
  let f := seamFields d
  let n := s.rd .collNM1 0 + 1
  let order := orderOf (s.rd .collOrderMode 0) n
  { tile := 0, queue := 0, desc := d, seq := s.rd .collSeq 0, n, order, me := s.rd .collIndex 0, members := sget [] 0 s.collMap,
    sig := collSig (s.rd .collCfgGid 0) (s.rd .collSeq 0) (d.getD 0 0) order n f.elems f.root }

/-- Every operation, legal, in a usable group of two. -/
theorem witness_CollectivesStart : ∀ op ∈ [0, 1, 2, 3, 4, 5, 6],
    let d := seamDesc op 0 4 0
    let s := seamAt 1 d
    s.SeamTakes 0 0 d ∧ (seamFields d).op = op ∧ s.seamIllegal 0 (seamFields d) = false ∧ (seamFields d).group = 0 ∧ s.rd .collCfgValid 0 ≠ 0 ∧
    s.rd .collStatusAborted 0 = 0 ∧ sget [] 0 s.collPend = [] ∧ (∀ m ∈ (begun s d).peers, ∃ e ∈ (begun s d).members, e.1 = m) ∧
    s.heldAt (begun s d).spans = none ∧ (∀ p ∈ (begun s d).spans, s.okBytes p.1 p.2 = p.2) := by
  intro op ho
  simp only [List.mem_cons, List.not_mem_nil, or_false] at ho
  rcases ho with rfl | rfl | rfl | rfl | rfl | rfl | rfl <;> exact ⟨seamTakes_of (by decide +kernel), by decide +kernel⟩

/-- An illegal descriptor (no such root), one of a group that is not VALID and one of an aborted group. -/
theorem witness_CollectivesStart_stops :
    (let d := seamDesc 3 0 4 7
     (seamAt 1 d).SeamTakes 0 0 d ∧ (seamFields d).op = 3 ∧ (seamAt 1 d).seamIllegal 0 (seamFields d) = true) ∧
    (let d := seamDesc 0 0 4 0
     let s := (seamAt 1 d).wr .collCfgValid 0 0 0
     s.SeamTakes 0 0 d ∧ s.seamIllegal 0 (seamFields d) = false ∧ s.rd .collCfgValid 0 = 0) ∧
    (let d := seamDesc 0 0 4 0
     let s := (seamAt 1 d).wr .collStatusAborted 0 0 1
     s.SeamTakes 0 0 d ∧ s.seamIllegal 0 (seamFields d) = false ∧ s.rd .collStatusAborted 0 ≠ 0) :=
  ⟨⟨seamTakes_of (by decide +kernel), by decide +kernel⟩, ⟨seamTakes_of (by decide +kernel), by decide +kernel⟩,
   ⟨seamTakes_of (by decide +kernel), by decide +kernel⟩⟩

/-- Elements 0 to 3 with the values 1 to 4. -/
def four : List (Nat × Nat) := [(0, 2), (1, 3), (2, 4), (3, 5)]

/-- Tile 0 with group 0 in a collective of two members, changed by f. -/
def inColl (f : Coll → Coll) (d : List Nat := seamDesc 0 0 4 0) : State :=
  { seamAt 1 d with colls := [(0, f (begun (seamAt 1 d) d))] }

/-- The same with a SEAM packet of a kind from member 1 waiting. -/
def seamFrom (f : Coll → Coll) (kind step pkts off : Nat) (data : List Byte) (fix : Packet → Packet := id) : State :=
  { inColl f with dieNet := [arrive (fix { (inColl f).seamPacket 0 { begun (seamAt 1 (seamDesc 0 0 4 0)) (seamDesc 0 0 4 0) with me := 1 }
      kind step 0 pkts off data with dstTile := 0 })], tally := 1000000000 }

/-- Member 1's packet. -/
def seamHeard (s : State) : Arrival := s.dieNet.headD (arrive {})

/-- A packet of the running collective, decidably. -/
def heardOk (s : State) (kind : Nat) (x : Coll) : Bool :=
  decide (s.netTake 6 0 (fun p => seamKind p == kind) = some (seamHeard s, { s with dieNet := [] }) ∧ (s.tile (seamHeard s).pkt.dstTile).active = true ∧
    s.fenced (seamHeard s).pkt.dstTile (seamHeard s).pkt.injAt = false ∧
    s.findGroup (seamHead (seamHeard s).pkt).gid (seamHeard s).pkt.dstTile = some 0 ∧ seamOk (seamHeard s).pkt = true ∧ s.coll 0 = some x ∧
    (seamHeard s).pkt.tag = x.seq ∧ (seamHead (seamHeard s).pkt).member < x.n ∧ (seamHead (seamHeard s).pkt).sig = x.sig ∧
    (kind = 3 → (seamHeard s).pkt.gen = s.rd .tileGen (seamHeard s).pkt.dstTile))

theorem arrives_of {s : State} {kind : Nat} {x : Coll} (h : heardOk s kind x = true) :
    s.SeamArrives kind 0 (seamHeard s) { s with dieNet := [] } 0 x := by
  obtain ⟨a, b, c, e, f, g, i, j, k, l⟩ := of_decide_eq_true h
  exact ⟨a, b, c, e, f, g, i, j, k, l⟩

/-- The condition of the running collective in each case. -/
def collBase (f : Coll → Coll) : Coll := f (begun (seamAt 1 (seamDesc 0 0 4 0)) (seamDesc 0 0 4 0))

/-- What the packet of DATA matches. -/
def matched (s : State) (x : Coll) : Option (Xfer × List Nat × Bool) :=
  x.matchData (seamHead (seamHeard s).pkt) ((seamHeard s).pkt.len - 64) ((seamHeard s).pkt.payload.drop 64)

/-- DATA of four INT32 elements. -/
def fourInts : List Byte := natLe 4 0xFFFFFFFF ++ natLe 4 2 ++ natLe 4 3 ++ natLe 4 4

/-- READY, ACK and REPLAY of the running collective, kept packets or none. -/
theorem witness_SeamPackets_running :
    (seamFrom id 1 0 0 0 []).SeamArrives 1 0 (seamHeard (seamFrom id 1 0 0 0 [])) { seamFrom id 1 0 0 0 [] with dieNet := [] } 0 (collBase id) ∧
    (∀ kind ∈ [2, 3],
      let k : Kept := { step := 1, peer := 1, packets := [{}], acked := false, sentAt := 0 }
      let f : Coll → Coll := fun x => { x with step := 1, kept := [k] }
      let s := seamFrom f kind 1 0 0 []
      s.SeamArrives kind 0 (seamHeard s) { s with dieNet := [] } 0 (collBase f) ∧ (collBase f).kept = [k] ∧
      k.step = (seamHead (seamHeard s).pkt).step ∧ k.peer = (seamHead (seamHeard s).pkt).member ∧ k.acked = false ∧ (collBase f).tx = [] ∧
      (seamHead (seamHeard s).pkt).step ∉ (collBase f).rcvd ∧ 0 < k.packets.length ∧
      (∃ e ∈ (collBase f).members, e.1 = (seamHead (seamHeard s).pkt).member)) ∧
    (∀ kind ∈ [2, 3], let s := seamFrom id kind 2 0 0 []
      s.SeamArrives kind 0 (seamHeard s) { s with dieNet := [] } 0 (collBase id) ∧ (collBase id).kept = [] ∧
      (seamHead (seamHeard s).pkt).step > (collBase id).step) := by
  refine ⟨arrives_of (by decide +kernel), ?_, ?_⟩ <;> intro kind hk <;> simp only [List.mem_cons, List.not_mem_nil, or_false] at hk <;>
    rcases hk with rfl | rfl <;> exact ⟨arrives_of (by decide +kernel), by decide +kernel⟩

/-- DATA that no step expects, that makes step 1 whole, and that comes again. -/
theorem witness_SeamPackets_data :
    let f : Coll → Coll := fun x => { x with step := 1, vals := four }
    let r := (collBase f).recvs 1
    let off := ((r.map (fun a => (collBase f).xferOff a)).headD 0)
    let s := seamFrom f 0 1 1 off fourInts
    let bad := seamFrom f 0 9 1 off fourInts
    let g : Coll → Coll := fun x => { f x with rcvd := [1], rx := [{ xfer := ⟨1, 1, 0, 0, 0⟩, got := [(0, [])] }] }
    let dup := seamFrom g 0 1 1 off fourInts
    s.SeamArrives 0 0 (seamHeard s) { s with dieNet := [] } 0 (collBase f) ∧ bad.SeamArrives 0 0 (seamHeard bad) { bad with dieNet := [] } 0 (collBase f) ∧
    dup.SeamArrives 0 0 (seamHeard dup) { dup with dieNet := [] } 0 (collBase g) ∧ matched bad (collBase f) = none ∧
    (match matched dup (collBase g) with
     | some (_, _, again) => again && decide ((seamHead (seamHeard dup).pkt).step ∈ (collBase g).rcvd)
     | none => false) = true ∧
    (match matched s (collBase f) with
     | some (tr, _, again) => !again && decide ((collBase f).recvs (collBase f).step = [tr]) && (collBase f).present tr.out
     | none => false) = true ∧
    (collBase f).rx = [] ∧ (seamHead (seamHeard s).pkt).step = (collBase f).step ∧ 0 < (collBase f).step ∧ (collBase f).step ≤ (collBase f).reds ∧
    (collBase f).step ∉ (collBase f).rcvd ∧ (seamHead (seamHeard s).pkt).pkts = 1 ∧ (collBase f).badV = [] ∧ (collBase f).f.fc = 9 ∧
    (collBase f).f.red = 0 ∧ (collBase f).f.sat = false := by
  exact ⟨arrives_of (by decide +kernel), arrives_of (by decide +kernel), arrives_of (by decide +kernel), by decide +kernel, by decide +kernel, by decide +kernel, by decide +kernel⟩

/-- READY for an idle group: of its next number with room, without room and of another number; a READY whose signature differs; COLL_ABORT. -/
theorem witness_SeamPackets_idle :
    (∀ p ∈ [(0, 63), (0, 64), (1, 0)],
     let s : State := { seamFrom id 1 0 0 0 [] (fun q => { q with tag := p.1 }) with colls := [], collPend := [(0, List.replicate p.2 (1, 0, 0))] }
     s.netTake 6 0 (fun p => seamKind p == 1) = some (seamHeard s, { s with dieNet := [] }) ∧ (s.tile (seamHeard s).pkt.dstTile).active = true ∧
     s.fenced (seamHeard s).pkt.dstTile (seamHeard s).pkt.injAt = false ∧ seamOk (seamHeard s).pkt = true ∧
     s.findGroup (seamHead (seamHeard s).pkt).gid (seamHeard s).pkt.dstTile = some 0 ∧ s.coll 0 = none ∧
     ((seamHeard s).pkt.tag = s.rd .collSeq 0 ↔ p.1 = 0) ∧ ((sget [] 0 s.collPend).length < 64 ↔ p.2 < 64)) ∧
    (let s : State := { seamFrom id 1 0 0 0 [] with colls := [(0, { collBase id with sig := 0 })] }
     s.netTake 6 0 (fun p => seamKind p == 1) = some (seamHeard s, { s with dieNet := [] }) ∧ (s.tile (seamHeard s).pkt.dstTile).active = true ∧
     s.fenced (seamHeard s).pkt.dstTile (seamHeard s).pkt.injAt = false ∧ seamOk (seamHeard s).pkt = true ∧ 0 < 64 ∧
     s.findGroup (seamHead (seamHeard s).pkt).gid (seamHeard s).pkt.dstTile = some 0 ∧ s.coll 0 = some { collBase id with sig := 0 } ∧
     (seamHeard s).pkt.tag = (collBase id).seq ∧ (seamHead (seamHeard s).pkt).member < (collBase id).n ∧ (seamHead (seamHeard s).pkt).sig ≠ 0) ∧
    (let s : State := { inColl id with dieNet := [arrive { ty := 0xB, payload := padTo 64 (fieldBytes [(5, 8), (6, 8), (2 ^ 28 + 4 * 2 ^ 24, 8)]) }] }
     s.netTake 0xB 0 = some (seamHeard s, { s with dieNet := [] }) ∧ (s.tile (seamHeard s).pkt.dstTile).active = true ∧
     s.findGroup (bitsOf (payWord (seamHeard s).pkt 2) 63 48) (seamHeard s).pkt.dstTile = some 0 ∧ s.coll 0 = some (collBase id) ∧
     (seamHeard s).pkt.tag = (collBase id).seq) := by decide +kernel

/-- A collective before its first step, in its last with a send that may go, and waiting for step 1 at its time-out with and without tries left. -/
theorem witness_CollectiveSteps_steps :
    (let s := inColl id
     s.coll 0 = some (collBase id) ∧ (s.tile (collBase id).tile).active = true ∧ (collBase id).tile < 256 ∧ (collBase id).step = 0 ∧
     0 < (collBase id).steps ∧ (collBase id).tx = [] ∧ (collBase id).ready = [] ∧ (collBase id).rx = [] ∧ (collBase id).recvs 1 ≠ [] ∧
     (collBase id).committed = false) ∧
    (let f : Coll → Coll := fun x => { x with step := 2, rcvd := [1, 2], tx := x.sends 2, ready := [1], vals := four, image := four, narrowed := true }
     let s := inColl f
     let x := collBase f
     s.coll 0 = some x ∧ (s.tile x.tile).active = true ∧ x.step = x.steps ∧ x.step ∈ x.rcvd ∧
     (∃ tr, x.tx = [tr] ∧ tr.dst ∈ x.ready ∧ x.present tr.inp = true ∧ (∃ e ∈ x.members, e.1 = tr.dst)) ∧ x.badV = [] ∧ x.badO = [] ∧ x.kept = []) ∧
    (∀ n ∈ [2, 3],
     let f : Coll → Coll := fun x => { x with step := 1, rxAt := 72, tries := [(1 * 2 ^ 32 + 1, n)] }
     let s := ((inColl f).wr .collStepTimeoutNs 0 0 5).wr .collCfgReplayLimit 0 0 3
     let x := collBase f
     (∃ tr, x.recvs x.step = [tr] ∧ (sget 0 (tr.src * 2 ^ 32 + x.step) x.tries < s.rd .collCfgReplayLimit 0 ↔ n = 2) ∧ (∃ e ∈ x.members, e.1 = tr.src)) ∧
     s.coll 0 = some x ∧ x.rx = [] ∧ s.rd .collStepTimeoutNs 0 ≠ 0 ∧ s.tally ≥ x.rxAt + s.rd .collStepTimeoutNs 0) ∧
    ((inColl id).wr .collStepTimeoutNs 0 0 0).rd .collStepTimeoutNs 0 = 0 := by
  refine ⟨by decide +kernel, ⟨by decide +kernel, by decide +kernel, by decide +kernel, by decide +kernel, ⟨_, rfl, by decide +kernel⟩, by decide +kernel⟩, ?_,
    by decide +kernel⟩
  intro n hn
  simp only [List.mem_cons, List.not_mem_nil, or_false] at hn
  rcases hn with rfl | rfl <;> exact ⟨⟨_, rfl, by decide +kernel⟩, by decide +kernel⟩

/-- The commit of four elements; a committed collective whose steps are over; a late ACK; a stall at its time and before; an OPE item. -/
theorem witness_CollectiveSteps_ends :
    (let f : Coll → Coll := fun x => { x with step := 2, rcvd := [1, 2], narrowed := true, image := four }
     let s := inColl f
     let x := collBase f
     4 * (x.output.2 - x.output.1) = 16 ∧ x.committed = false ∧ x.step = x.steps ∧ x.step ∈ x.rcvd ∧ x.f.ope = false ∧ x.narrowed = true ∧ x.f.fo = 9 ∧
     x.badO = [] ∧ s.heldAt [(x.f.outA, 16)] = none ∧ s.okBytes x.f.outA 16 = 16 ∧ s.ecc = [] ∧ (∀ k, s.mark k = 0) ∧
     (∀ u i, (s.slot u i).mode ≠ .committing)) ∧
    (let x := collBase (fun x => { x with step := 2, committed := true, ended := [1, 2] })
     x.committed = true ∧ x.steps ≤ x.ended.length ∧ x.f.sigEn = false ∧ x.poisoned = false) ∧
    (let k : Kept := { step := 1, peer := 1, packets := [{}], acked := false, sentAt := 72 }
     let f : Coll → Coll := fun x => { x with step := 1, kept := [k], progressAt := 70 }
     let s := (((inColl f).wr .collStepTimeoutNs 0 0 5).wr .collCfgReplayLimit 0 0 3).wr .collProgressTimeoutNs 0 0 7
     let x := collBase f
     s.coll 0 = some x ∧ x.kept = [k] ∧ k.acked = false ∧ x.tx = [] ∧ s.rd .collStepTimeoutNs 0 ≠ 0 ∧ s.tally ≥ k.sentAt + s.rd .collStepTimeoutNs 0 ∧
     sget 0 (k.peer * 2 ^ 32 + k.step) x.tries < s.rd .collCfgReplayLimit 0 ∧ (∃ e ∈ x.members, e.1 = k.peer) ∧ s.rd .collProgressTimeoutNs 0 ≠ 0 ∧
     s.tally ≥ x.progressAt + s.rd .collProgressTimeoutNs 0 ∧ ({ s with tally := 76 } : State).tally < x.progressAt + s.rd .collProgressTimeoutNs 0) ∧
    (let d := seamDesc 0 1 6 0
     let x := begun (seamAt 1 d) d
     let s := (inColl id d).onTile 0 (fun y => { y with items := [{ queue := 0, row := 1, col := 1, fmt := 9, vals := [7, 8] }] })
     ∃ it, x.tile = (0 : TileId).val ∧ (s.tile 0).items = it :: [] ∧ s.colls = [((0 : GroupId).val, x)] ∧ it.queue = x.queue ∧ x.f.ope = true ∧
       x.committed = false ∧ it.fmt = x.f.fin ∧ x.f.fin = 9 ∧ x.f.fc = 9 ∧ x.f.red ≤ 2 ∧ x.f.op ≤ 1 ∧
       it.row * x.f.rowLen + it.col + it.vals.length = x.f.elems ∧ (s.tile 0).ope.drains = []) :=
  ⟨by refine ⟨?_, ?_, ?_, ?_, ?_, ?_, ?_, ?_, ?_, ?_, ?_, marks_zero (by decide +kernel), steady_of (by decide +kernel)⟩ <;> decide +kernel,
   by decide +kernel, by decide +kernel, ⟨_, by decide +kernel, rfl, by decide +kernel⟩⟩

/-! ### Witnesses: the mailbox, firmware components and their commands (statements O50 to O54) -/

/-- A device whose firmware runs: every component, a negotiated pair 0x0100, every feature. -/
def up : State :=
  { State.reset with
    comps := (List.range 6).map (fun k => (k, { mode := .running }))
    adit := { State.reset.adit with fwReady := true, msixEn := true, busMaster := true }
    mbx := { pair := some 0x0100, features := 0x7FF }
    tally := 5000 }

/-- A request in channel 3. -/
def request (s : State) (op : Nat) (pay : List Byte) : State :=
  s.setBytes (mbxKey 3 0x40) (fieldBytes [(op, 2), (0x100, 2), (77, 4), (pay.length, 2), (0, 22)] ++ pay)

/-- A command in channel 3 that its component runs. -/
def running (op k : Nat) (pay : List Byte := []) (s : State := up) (began : Bool := false) : State :=
  { request s op pay with mbx := { s.mbx with run := [⟨3, op, k, 4000, began⟩] } }

/-- Does it run? -/
def runsOk (s : State) (op k : Nat) (began : Bool := false) : Bool :=
  decide ((ycpOf op).map (fun e => e.1) = some k ∧ s.mbx.run.find? (fun q => q.comp == k) = some ⟨3, op, k, 4000, began⟩ ∧ (s.comp k).mode = .running ∧
    s.ic.asleep = false)

theorem ycp_of {s : State} {op k : Nat} {b : Bool} (h : runsOk s op k b = true) : s.YcpRuns 3 op k ⟨3, op, k, 4000, b⟩ := by
  obtain ⟨a, b, c, e⟩ := of_decide_eq_true h
  exact ⟨a, b, rfl, rfl, c, e⟩

/-- Every command of the mailbox and its component. -/
def ycps : List (Nat × Nat) :=
  [(0x0001, 0), (0x0002, 0), (0x0003, 0), (0x0004, 0), (0x0101, 0), (0x0102, 0), (0x0103, 0), (0x0104, 0), (0x0105, 0), (0x0106, 0), (0x0107, 0),
   (0x010A, 0), (0x010B, 0), (0x0108, 5), (0x0109, 2), (0x0201, 2), (0x0202, 2), (0x0203, 2), (0x0204, 2), (0x0205, 2), (0x0206, 2), (0x0207, 2),
   (0x0208, 2), (0x0209, 2), (0x020A, 2), (0x0301, 1), (0x0302, 1), (0x0303, 1), (0x0304, 1), (0x0401, 3), (0x0402, 3), (0x0403, 3), (0x0404, 3),
   (0x0405, 3), (0x0501, 4), (0x0502, 4), (0x0503, 4), (0x0504, 4), (0x0505, 4), (0x0506, 4), (0x0601, 5), (0x0602, 5), (0x0603, 2), (0x0701, 0),
   (0x0702, 0), (0x0703, 5), (0x0704, 5)]

/-- Each is first at its component, which runs: the first hypothesis of every clause of ServiceCommands, ConfigurationCommands and
ManagementCommands. The states below add the rest. -/
theorem witness_ycp : ∀ p ∈ ycps, (running p.1 p.2).YcpRuns 3 p.1 p.2 ⟨3, p.1, p.2, 4000, false⟩ := by
  have h : ycps.all (fun p => runsOk (running p.1 p.2) p.1 p.2) = true := by decide +kernel
  exact fun p hp => ycp_of (List.all_eq_true.mp h p hp)

/-- A channel's latched doorbell and the request's opcode and payload. -/
def latched (op : Nat) (pay : List Byte) (s : State := up) : State := { request s op pay with mbx := { s.mbx with latched := [(4, 5000), (3, 5000), (2, 5001)] } }

/-- Doorbells in each condition, buffer writes, and the mailbox service's checks: unknown code, wrong LEN, no pair, wrong pair, missing feature, good. -/
theorem witness_MailboxChannels :
    (2 % 2 = 0 ∧ 3 % 2 = 1 ∧ State.reset.adit.fwReady = false ∧ up.adit.fwReady = true ∧ (62 : ChanId).val ≠ 63 ∧ up.rd .mbxState (62 : ChanId) ≠ 1 ∧
     (up.wr .mbxState 62 0 1).rd .mbxState (62 : ChanId) = 1 ∧ (up.wr .mbxState 62 0 1).adit.fwReady = true ∧ up.warmAt = 0) ∧
    ((2031 : Fin 2032).val % 2 = 1 ∧ (2030 : Fin 2032).val % 2 = 0) ∧ (up.mbx.latched = [] ∧ (State.reset.comp 0).mode ≠ .running) ∧
    (∀ p ∈ [(0x99, 0), (0x302, 1), (0x302, 0)], let s := latched p.1 (List.replicate p.2 1)
     s.mbx.latched = (4, 5000) :: [(3, 5000), (2, 5001)] ∧ (3, (4, 5000).2) ∈ s.mbx.latched ∧
     (∀ e ∈ s.mbx.latched, e.2 = (4, 5000).2 → 3 ≤ e.1) ∧ s.ic.asleep = false ∧ 3 < 64 ∧ (s.comp 0).mode = .running ∧ s.reqNat 3 0 2 = p.1 ∧ s.reqNat 3 8 2 = p.2 ∧
     s.mbx.pair = some (s.reqNat 3 2 2)) ∧
    (ycpOf 0x99 = none ∧ ycpLenOk 0x302 1 0 = false ∧ ycpOf 0x302 = some (1, 0) ∧ ycpLenOk 0x302 0 0 = true ∧ up.mbx.features.testBit 0 = true) ∧
    (let s := latched 0x302 [] { up with mbx := {} }
     s.mbx.pair = none ∧ s.reqNat 3 0 2 ≠ 1 ∧ s.reqNat 3 0 2 ≠ 2 ∧ s.reqNat 3 0 2 ≠ 4) ∧
    (let s := latched 0x302 [] { up with mbx := { pair := some 0x0200, features := 0 } }
     s.mbx.pair = some 0x0200 ∧ 0x0200 ≠ s.reqNat 3 2 2 ∧ s.mbx.features.testBit 0 = false) := by decide +kernel

/-- A component that runs, with no fault and with two in the last minute, in a restart and FAILED; a heartbeat due exactly and not yet. -/
theorem witness_FirmwareComponents :
    ((up.comp 5).mode = .running ∧ (((up.comp 5).faults.filter (fun a => decide (up.tally < a + 60000000000))) ++ [up.tally]).length < 3) ∧
    (let s := up.setComp 5 { mode := .running, faults := [1, 2] }
     (s.comp 5).mode = .running ∧ (((s.comp 5).faults.filter (fun a => decide (s.tally < a + 60000000000))) ++ [s.tally]).length ≥ 3) ∧
    ((running 0x703 5).mbx.run.find? (fun q => q.comp == 5) = some ⟨3, 0x703, 5, 4000, false⟩ ∧ 3 < 63) ∧
    (({ up with tally := 10000000 } : State).tally ≥ (up.comp 5).beatAt + 10000000 ∧ ({ up with tally := 9999999 } : State).tally < (up.comp 5).beatAt + 10000000) ∧
    (let s := up.setComp 5 { mode := .restarting }
     (s.comp 5).mode = .restarting ∧ (5 : CompId).val ≠ 3 ∧ s.warmAt = 0 ∧ (up.comp 5).mode ≠ .restarting) ∧
    (((running 0x703 5).setComp 5 { mode := .failed }).comp 5).mode = .failed := by decide +kernel

/-- HELLO: disjoint ranges, another channel busy, and none busy. -/
theorem witness_ServiceCommands_hello :
    let s (lo hi : Nat) : State := running 1 0 (fieldBytes [(lo, 2), (hi, 2), (0xFF, 32)])
    (s 0x300 0x400).boot.protoMax < 0x300 ∧ min ((s 0x300 0x400).pay 3 2 2) (s 0x300 0x400).boot.protoMax < max ((s 0x300 0x400).pay 3 0 2) (s 0x300 0x400).boot.protoMin ∧
    max ((s 0 0x400).pay 3 0 2) (s 0 0x400).boot.protoMin ≤ min ((s 0 0x400).pay 3 2 2) (s 0 0x400).boot.protoMax ∧
    (∀ d, d < 63 → d ≠ (3 : ChanId).val → (s 0 0x400).rd .mbxState d ≠ 1) ∧
    (62 < 63 ∧ 62 ≠ (3 : ChanId).val ∧ ((s 0 0x400).wr .mbxState 62 0 1).rd .mbxState 62 = 1) := by decide +kernel

/-- The two ends of a stream that R196 allows. -/
def producer : StreamEnd := ⟨true, 0, 1, 2, 3, 4, 5, 6, true, 0, 9, 0, 8⟩
def consumer : StreamEnd := ⟨true, 0, 9, 7, 3, 4, 6, 5, true, 0, 1, 0, 8⟩

/-- TILE_START entries. -/
def starting (t pc : Nat) : State :=
  running 0x10B 0 (fieldBytes [(2, 2), (0, 2), (0x40, 4), (t, 2), (0, 2), (pc, 4)]) ((up.setTile 2 { tallyValid := true }).setTile 255 { tallyValid := true })

/-- The boundary operands of the other clauses of ServiceCommands. -/
theorem witness_ServiceCommands :
    ((∀ e ∈ [(6, 2047)], e.1 ≤ 6 ∧ 1088 ≤ e.2 ∧ e.2 ≤ 2047) ∧ (∀ n ∈ [463, 960, 1023], n < 464 ∨ (960 ≤ n ∧ n < 1024)) ∧
     (∃ e ∈ [(7, 1088)], e.1 > 6 ∨ e.2 < 1088 ∨ e.2 > 2047) ∧ (∃ n ∈ [464], ¬ (n < 464 ∨ (960 ≤ n ∧ n < 1024)))) ∧
    (let s := { up with mbx := { up.mbx with features := 0 } }
     (s.mbx.features.testBit 8 = false ∧ (∀ e ∈ [(35, 3), (0, 1)], e.2 ≠ 2) ∧ ∀ e ∈ [(35, 3), (0, 1)], e.1 < 36 ∧ e.2 ≤ 3)) ∧
    (let s := running 0x103 0 [] (up.setTile 255 { tallyValid := true })
     (s.tile 255).stopped = false ∧ (s.tile 255).gated = false ∧ s.clearing 255 .sb = false ∧ runsOk (running 0x103 0 [] up true) 0x103 0 true = true) ∧
    (endFits producer = true ∧ endFits consumer = true ∧ endFits { producer with ep := 16 } = false ∧ (running 0x105 0).bindOk producer consumer = true ∧
     producer.vc ≠ { consumer with vc := 4 }.vc ∧ endFits { consumer with vc := 4 } = true ∧ ((running 0x105 0).tile producer.tile).stopped = false ∧
     ((running 0x105 0).tile consumer.tile).stopped = false) ∧
    (∀ e ∈ [(255, 65535)], e.1 < 256 ∧ e.2 < 2 ^ 16 ∧ ((running 0x106 0).tile e.1).stopped = false) ∧
    (∀ e ∈ [(255, [(7, 2 ^ 63 + 5)], some 7)], e.1 < 256 ∧ ((running 0x107 0).tile e.1).stopped = false ∧ ∀ x ∈ e.2.1, x.1 < 8) ∧
    (∀ i, i < (starting 255 0x7FFFC).reqNat 3 8 2 / 8 → (starting 255 0x7FFFC).pay 3 (8 * i) 2 < 256 ∧ (starting 255 0x7FFFC).pay 3 (8 * i + 2) 2 = 0 ∧
      (starting 255 0x7FFFC).pay 3 (8 * i + 4) 4 % 4 = 0 ∧ (starting 255 0x7FFFC).pay 3 (8 * i + 4) 4 < 0x80000 ∧
      ((starting 255 0x7FFFC).tile ((starting 255 0x7FFFC).pay 3 (8 * i) 2)).core.mode = .held ∧
      ((starting 255 0x7FFFC).tile ((starting 255 0x7FFFC).pay 3 (8 * i) 2)).tallyValid = true) ∧
    (1 < (starting 255 0x80000).reqNat 3 8 2 / 8 ∧ ¬ (starting 255 0x80000).pay 3 (8 * 1 + 4) 4 < 0x80000) ∧
    (1 < (starting 9 0).reqNat 3 8 2 / 8 ∧ ((starting 9 0).tile ((starting 9 0).pay 3 (8 * 1) 2)).tallyValid = false) := by decide +kernel

/-- GROUP_CFG of a member of four. -/
def groupIn (valid : Bool) : GroupIn := ⟨valid, 7, 15, 255, 65535, 4, 3, 0x300, 1000, 2000, 7⟩

/-- The conditions of ConfigurationCommands: snapshots, ports, the routing bank, groups and their orders. -/
theorem witness_ConfigurationCommands :
    (let s := running 0x108 5
     9000 < 2 ^ 64 ∧ s.rd .tlyStatusSnapPending = 0 ∧ 7000 ≥ s.tally + 2000 ∧ 6999 < s.tally + 2000 ∧ (s.wr .tlyStatusSnapPending 0 0 1).rd .tlyStatusSnapPending ≠ 0) ∧
    (7 < (running 0x109 2).variant.ports ∧ ({ up with variant := .m8i2 } : State).variant.ports ≤ 7) ∧
    (let s := running 0x201 2
     (s.port 7).mode = .disabled ∧ s.rxbufOk 7 = true ∧ (s.wr .portRxbufVc 7 1 15).rxbufOk 7 = false ∧ (0x80000000 : Nat).testBit 31 = true ∧
     ((s.onPort 7 (fun x => { x with mode := .up })).port 7).mode ≠ .disabled) ∧
    (let s := running 0x204 2
     s.rd .fabEpochInj = 0 ∧ s.rd .fabEpochInj ≠ 1 ∧ s.rtHeld 1 = 0 ∧
     ∀ e ∈ [(0, 4095, 5), (1, 262143, 5)], e.1 < 2 ∧ e.2.1 < (if e.1 = 0 then 4096 else 262144)) ∧
    (∀ e ∈ [(7, 5)], e.1 < (running 0x206 2).variant.ports) ∧
    (groupBad (groupIn true) = false ∧ groupBad (groupIn false) = false ∧
     (let s := (running 0x207 2).setTile 0 { tallyValid := true }
      let peers := schedulePeers (groupIn true).n (orderOf (s.rd .collOrderMode 63) (groupIn true).n) (groupIn true).index
      (∀ h, h < 64 → h ≠ (63 : GroupId).val → ¬ (s.rd .collCfgValid h ≠ 0 ∧ s.rd .collCfgGid h = (groupIn true).gid ∧ s.rd .collCfgTile h = (groupIn true).tile)) ∧
      peers.length ≤ 64 ∧ (∀ m ∈ peers, s.accessAt ((groupIn true).map + 4 * m) = .ok) ∧ s.ecc = []) ∧
     (let s := ((running 0x207 2).wr .collCfgValid 5 0 1).wr .collCfgGid 5 0 65535 |>.wr .collCfgTile 5 0 255
      5 < 64 ∧ 5 ≠ (63 : GroupId).val ∧ s.rd .collCfgValid 5 = 1 ∧ s.rd .collCfgGid 5 = (groupIn true).gid ∧ s.rd .collCfgTile 5 = (groupIn true).tile)) ∧
    ((running 0x209 2).rd .collCfgValid 63 = 0 ∧ ((running 0x209 2).wr .collCfgValid 63 0 1).rd .collCfgValid 63 ≠ 0 ∧
     ((running 0x209 2).wr .collCfgValid 63 0 1).coll 63 = none ∧ (inColl id).coll 0 = some (collBase id) ∧ (inColl id).rd .collCfgValid 0 ≠ 0) := by decide +kernel

theorem off_at_reset {s : State} (h : s.regs = []) {f : Field} (hf : ∀ v i j, f.reset v i j = 0) (i j : Nat) : s.on f i j = false := by
  simp [State.on, State.rd, h, slook, hf]

/-- A device whose registers stand at reset has nothing bound: no endpoint, no queue, no group. -/
theorem nothing_bound {s : State} (h : s.regs = []) : (∀ k, s.pbBound k = false) ∧ s.anyBound = false := by
  have e := off_at_reset h (f := .tileEpEn) (fun _ _ _ => rfl)
  have q := off_at_reset h (f := .tileQcfgEn) (fun _ _ _ => rfl)
  have c := off_at_reset h (f := .collCfgValid) (fun _ _ _ => rfl)
  exact ⟨fun k => by simp [State.pbBound, e, q], by simp [State.anyBound, e, c]⟩

/-- PB_GATE of a block with nothing bound (nothing_bound), with a queue bound, of a gated one, in a stop, and once every replica is valid. -/
theorem witness_ConfigurationCommands_gate :
    let s := running 0x304 1
    let gatedTiles (s : State) : State := (pbTiles 15).foldl (fun (s : State) t => s.setTile t { gated := true }) s
    (s.inStop = false ∧ s.pbGated 15 = false ∧ s.regs = []) ∧ (s.wr .tileEpEn 204 0 1).pbBound 15 = true ∧
    ((gatedTiles s).pbGated 15 = true ∧ (gatedTiles s).inStop = false) ∧ (s.wr .dbgHaltStatusStopping 0 0 1).inStop = true ∧
    (let b := (pbTiles 15).foldl (fun (s : State) t => s.setTile t { tallyValid := true }) (running 0x304 1 [] up true)
     runsOk b 0x304 1 true = true ∧ ∀ t, t < 256 → tilePb t = (15 : PbId).val → (b.tile t).tallyValid = true) := by decide +kernel

/-- RESET of each domain, of an absent port, with a post-mortem, and one that waits for its generation. -/
theorem witness_ManagementCommands_reset :
    let s (dom pm inst : Nat) : State := running 0x401 3 (fieldBytes [(dom, 1), (pm, 1), (inst, 2)])
    (∀ p ∈ [(0, 255), (1, 7), (2, 15), (3, 5), (4, 9)], (s p.1 0 p.2).pay 3 0 1 = p.1 ∧ (s p.1 0 p.2).pay 3 1 1 = 0 ∧ (s p.1 0 p.2).pay 3 2 2 = p.2 ∧
      (s p.1 0 p.2).rasw.cmdGen = none) ∧
    ((s 0 0 255).tile 255).resetAt = none ∧ ((s 1 0 7).port 7).resetAt = none ∧ 7 < (s 1 0 7).variant.ports ∧ 15 < (s 2 0 15).variant.hbmcs ∧
    ((s 3 0 5).comp 5).mode = .running ∧ ((s 4 0 9).warmAt = 0 ∧ (s 4 0 9).rasw.warmPlan = 0) ∧ (s 5 0 0).pay 3 0 1 > 4 ∧
    ({ s 1 0 7 with variant := .m8i2 } : State).variant.ports ≤ 7 ∧
    ((s 0 1 255).pay 3 1 1 = 1 ∧ (s 0 1 255).resetCheck 0 255 = none ∧ (s 0 1 255).rasw.collecting = none ∧ (s 0 1 255).rd .rasPmStatusValid = 0 ∧
     (s 0 1 255).inStop = false) ∧
    (let w : State := { s 0 0 255 with rasw := { (s 0 0 255).rasw with cmdGen := some 1 } }
     w.rasw.cmdGen = some 1 ∧ w.rasw.collecting = none ∧ w.pay 3 1 1 = 0 ∧ w.genOf 0 255 ≠ 1 ∧ (w.wr .tileGen 255 0 1).genOf 0 255 = 1) := by decide +kernel

/-- The RAS commands. -/
theorem witness_ManagementCommands_ras :
    (let s := (running 0x403 3).wr .rasPmStatusValid 0 0 1 |>.wr .rasPmStatusLength 0 0 2
     (running 0x403 3).rd .rasPmStatusValid = 0 ∧ s.rd .rasPmStatusValid ≠ 0 ∧ 127 < 64 * s.rd .rasPmStatusLength ∧ 64 * s.rd .rasPmStatusLength ≤ 128) ∧
    (let s (o : Nat) : State := running 0x404 3 (fieldBytes [(o, 4), (1, 4)])
     (s 0x0A0000BC).reqNat 3 8 2 / 8 = 1 ∧ (s 0x0A0000BC).pay 3 0 4 = 0x0A000080 + 4 * 15 ∧ (s 0x0A00001C).pay 3 0 4 = 0x0A00001C ∧
     (s 0x0A000014).pay 3 0 4 = 0x0A000014 ∧ (s 0x0A00001C).rasw.collecting = none ∧ (s 0x0A00001C).rd .rasPmStatusValid = 0 ∧
     ((s 0x0A00001C).wr .rasPmStatusValid 0 0 1).rd .rasPmStatusValid ≠ 0) ∧
    (running 0x405 3 [3]).pay 3 0 4 = 3 ∧ (running 0x405 3 [4]).pay 3 0 4 = 4 := by decide +kernel

/-- The debug broker's commands but for a token that verifies. -/
theorem witness_ManagementCommands_debug :
    ((running 0x501 4).rd .secStatusIdValid = 0 ∧ ((running 0x501 4).wr .secStatusIdValid 0 0 1).rd .secStatusIdValid ≠ 0) ∧
    ((running 0x502 4).reqNat 3 8 2 = 0 ∧ (running 0x502 4 [1]).reqNat 3 8 2 ≠ 0 ∧ (running 0x502 4 [1]).dbg.nonce ≠ some ((((running 0x502 4 [1]).payBytes 3 0 256).drop 64).take 32)) ∧
    (let s (id : Nat) : State := running 0x503 4 (fieldBytes [(id, 8), (0x10000000000, 8), (0x1000, 8), (0, 1)])
     (s 0).pay 3 0 8 = 0 ∧ 0 < (s (2 ^ 63 - 1)).pay 3 0 8 ∧ (s (2 ^ 63 - 1)).pay 3 0 8 < 2 ^ 63 ∧ 2 ^ 63 ≤ (s (2 ^ 63)).pay 3 0 8 ∧
     (s (2 ^ 63 - 1)).inStop = false ∧ ((s (2 ^ 63 - 1)).wr .dbgHaltStatusStopping 0 0 1).inStop = true) ∧
    (let s (k : Nat) : State := (running 0x504 4 (fieldBytes [(5, 8), (k, 1), (9, 1)])).wr .dbgHaltId 0 0 5 |>.wr .dbgHaltStatusStopping 0 0 1
     (s 0).pay 3 8 1 = 0 ∧ (s 0).pay 3 0 8 = (s 0).rd .dbgHaltId ∧ (s 0).inStop = true ∧ (s 0).dbg.heldWrites = [] ∧ (s 0).ports = [] ∧
     ((s 0).wr .dbgHaltId 0 0 6).rd .dbgHaltId ≠ (s 0).pay 3 0 8 ∧ (s 1).pay 3 8 1 = 1 ∧ (s 1).rd .dbgLockOpen = 0 ∧
     (((s 1).wr .dbgLockOpen 0 0 1).wr .dbgLockPerms 0 0 2).rd .dbgLockOpen ≠ 0 ∧
     ((((s 1).wr .dbgLockOpen 0 0 1).wr .dbgLockPerms 0 0 2).rd .dbgLockPerms).testBit 1 = true) ∧
    (let s := running 0x505 4 (fieldBytes [(0x10000001000, 8), (14, 1), (1, 1)])
     s.pay 3 0 8 % 2 ^ 48 ≠ s.rd .dbgPcsBase ∧ s.rd .dbgPcsCfgEn = 0 ∧ (s.wr .dbgPcsCfgEn 0 0 1).rd .dbgPcsCfgEn ≠ 0) ∧
    (let s (n : Nat) : State := (running 0x506 4 (fieldBytes [(n, 4)])).wr .dbgPcsHead 0 0 100
     ahead32 ((s 100).pay 3 0 4) ((s 100).rd .dbgPcsTail) ≤ ahead32 ((s 100).rd .dbgPcsHead) ((s 100).rd .dbgPcsTail) ∧
     ahead32 ((s 101).rd .dbgPcsHead) ((s 101).rd .dbgPcsTail) < ahead32 ((s 101).pay 3 0 4) ((s 101).rd .dbgPcsTail)) := by decide +kernel

/-- A plan of one region; CRC_SCAN of nine bytes; BACKFILL's three kinds, of a device with nothing bound (nothing_bound) and with a group. -/
theorem witness_ManagementCommands_long :
    (let s (id : Nat) : State := running 0x601 5 (fieldBytes [(id, 8), (14000, 8), (0x10000000000, 8), (0x100000, 8), (0x10000000000, 8), (2 ^ 31, 4), (16, 1), (0, 1),
        (1, 2), (0, 8), (0x10002000000, 6), (0, 2), (0x20000, 8)])
     (s 7).pay 3 0 8 ≠ 0 ∧ (s 7).rd .skpStatusState = 0 ∧ (s 7).pay 3 46 2 = 1 ∧ (s 7).pay 3 8 8 ≥ 4000 + 10000 ∧ (s 7).pay 3 44 1 = 16 ∧
     (s 7).decodes 0x10000000000 0x100000 = true ∧ (s 7).regionOk 0x10000000000 0x100000 ((s 7).pay 3 56 6, (s 7).pay 3 64 8) = true ∧
     (skipChunks 16 [((s 7).pay 3 56 6, (s 7).pay 3 64 8)]).2 + 64 ≤ 0x100000 ∧ ((s 7).wr .skpStatusState 0 0 1).rd .skpStatusState ≠ 0) ∧
    (let s := running 0x601 5 (List.replicate 48 0)
     s.pay 3 0 8 = 0 ∧ s.pay 3 46 2 = 0 ∧ s.rd .skpStatusState = 0) ∧
    (let s := running 0x602 5 (fieldBytes [(0x100, 8), (9, 8), (3, 1)]) (up.setTile 0 { tallyValid := true })
     s.rd .skpStatusState ≠ 2 ∧ s.rd .skpStatusState ≠ 3 ∧ s.pay 3 8 8 = 9 ∧ s.pay 3 16 1 = 3 ∧ s.decodes 0x100 9 = true ∧
     (∀ u ∈ spanUnits 0x100 9, s.hfAccess u.1 = .ok) ∧ s.ecc = [] ∧ (s.wr .skpStatusState 0 0 2).rd .skpStatusState = 2 ∧
     (running 0x602 5).pay 3 8 8 = 0) ∧
    (let s (k : Nat) : State := running 0x603 2 (fieldBytes [(k, 1), (0, 1), (7, 1), (0, 1), (5, 4), (0, 4)])
     (s 0).pay 3 0 1 = 0 ∧ (s 0).pay 3 2 1 < (s 0).variant.ports ∧ (s 0).regs = [] ∧ ((s 0).wr .collCfgValid 63 0 1).anyBound = true ∧
     (s 1).pay 3 0 1 = 1 ∧ (s 1).spare = false ∧ (s 2).pay 3 0 1 = 2 ∧ (s 3).pay 3 0 1 > 2 ∧
     (let a : State := { (s 1).wr .tlyStatusXdevLocked 0 0 1 with spare := true }
      a.spare = true ∧ a.pay 3 4 4 % 2 ^ 20 ≠ 0xFFFFF ∧ a.rd .tlyStatusXdevLocked ≠ 0 ∧ a.pay 3 8 4 = 0)) := by decide +kernel

/-- FW_WRITE to the end of an image, past it and into the one booted; FW_ACTIVATE of a bad image; ATTEST; a record of type 3 and a bad one. -/
theorem witness_ManagementCommands_security :
    (0xFFFFFF + [1#8].length ≤ 0x1000000 ∧ 0x1000000 + [1#8].length > 0x1000000 ∧ (running 0x701 0).boot.image ≠ some (1 : Fin 2).val ∧
     ({ running 0x701 0 with boot := { up.boot with image := some 1 } } : State).boot.image = some (1 : Fin 2).val) ∧
    (let s := running 0x702 0
     (s.comp 5).mode = .running ∧ s.imgCheck 1 true ≠ 0 ∧ (((running 0x702 0).setComp 5 { mode := .failed }).comp 5).mode = .failed ∧
     s.flash = []) ∧
    ((running 0x703 5).rd .secStatusIdValid = 0 ∧ ((running 0x703 5).wr .secStatusIdValid 0 0 1).rd .secStatusIdValid ≠ 0) ∧
    (let s (ty : Nat) : State := running 0x704 5 (fieldBytes [(0x31434552, 4), (ty, 4)])
     recType ((s 3).payBytes 3 0 4096) = 3 ∧ recType ((s 0).payBytes 3 0 4096) ≠ 3 ∧
     (s 0).recValid ((s 0).recInForce 5) ((s 0).on .secStatusIdValid) ((s 0).payBytes 3 0 4096) = false ∧ (s 2).flash = []) ∧
    (∀ s : State, s.flash = [] → ∀ k, s.slotErased k = true) :=
  ⟨by decide +kernel, by decide +kernel, by decide +kernel, by decide +kernel, fun s h k => slotErased_of (fun a => by
    rw [State.flashByte, h]; rfl) k⟩

/-! ### Witnesses: the module, interrupts and power (statements O55 to O57) -/

/-- The module with its latches given. -/
def onModule (f : Mod → Mod) (s : State := up) : State := { s with mod := f { aux := true, pwrEn := true, pwrgd := true, running := true, perst := false }, time := 300000000 }

/-- Supplies, pins, warnings, trips and the sideband in each condition; both sides of each 100 ms. -/
theorem witness_ModuleAndBoot_power :
    (onModule (fun m => { m with aux := false })).mod.aux = false ∧
    (let s (fell : Nat) : State := onModule (fun m => { m with pwrEn := false, enFellAt := fell })
     (s 0).mod.aux = true ∧ (s 0).mod.pwrEn = false ∧ (s 0).mod.enFellAt = 0 ∧ (s 200000001).mod.enFellAt + 100000000 ≤ (s 0).time + 1 ∧
     (s 200000002).mod.enFellAt ≠ 0 ∧ (s 0).time + 1 < (s 200000002).mod.enFellAt + 100000000) ∧
    (let s := onModule (fun m => { m with pwrgd := false })
     s.mod.pwrEn = true ∧ s.mod.pwrgd = false ∧ s.mod.tripped = false) ∧
    (let s (at_ : Nat) : State := onModule (fun m => { m with running := false, pgAt := at_ })
     (s 0).mod.pwrgd = true ∧ (s 0).mod.running = false ∧ (s 0).mod.refOk = true ∧ (s 200000001).time < (s 200000001).mod.pgAt + 100000000 ∧
     (s 200000000).mod.pgAt + 100000000 ≤ (s 200000000).time) ∧
    (let s := onModule id
     s.mod.pwrgd = true ∧ s.mod.running = true ∧ s.mod.warned = false ∧ (onModule (fun m => { m with warned := true })).mod.warned = true ∧
     [TripCause.stack 2, .headframe] ≠ [] ∧ s.mod.tripped = false ∧ s.mod.refOk = true ∧ s.mod.aux = true) ∧
    (let s (en : Bool) (fell : Nat) : State := onModule (fun m => { m with tripped := true, pwrEn := en, enFellAt := fell })
     (s false 0).mod.tripped = true ∧ (s false 200000001).mod.pwrEn = false ∧ (s false 200000001).mod.enFellAt + 100000000 ≤ (s false 0).time + 1 ∧
     (s true 0).mod.pwrEn = true ∧ (s false 0).time + 1 < (s false 200000002).mod.enFellAt + 100000000) ∧
    (0x100000 ≥ 0x100000 ∧ 0x42 % 4 ≠ 0 ∧ (onModule (fun m => { m with pwrgd := false })).mod.pwrgd = false ∧ 0x310 ≠ 0x40 ∧ ¬ (0x300 ≤ 0x310 ∧ 0x310 < 0x310)) := by
  decide +kernel

/-- The test port: pins with the links down, and private instructions while locked and while access is open. -/
theorem witness_ModuleAndBoot_jtag :
    (let s := onModule id
     s.mod.aux = true ∧ s.mod.pwrEn = true ∧ s.adit.linkUp = false ∧ (∀ p, p < 8 → (s.port p).mode ≠ .up) ∧ s.rd .dbgLockOpen = 0) ∧
    (let s := ((onModule id ((up.setTile 0 { tallyValid := true }))).wr .dbgLockOpen 0 0 1).wr .dbgLockPerms 0 0 1
     s.rd .dbgLockOpen ≠ 0 ∧ (s.rd .dbgLockPerms).testBit 0 = true ∧ 0x40 + 8 ≤ 0x80000000 ∧ s.ecc = []) := by decide +kernel

/-- The ROM before, between and after the images, an image that fails its header check, and READY with its watchdog at both sides of 1,600 ms and
of SEC_ADV_DELAY_S. -/
theorem witness_ModuleAndBoot_boot :
    (let s (tried : List Nat) : State := { onModule id with boot := { rom := true, tried := tried } }
     (s []).boot.rom = true ∧ (s []).mod.perst = false ∧ (s []).mod.running = true ∧ (s []).boot.tried = [] ∧ (s []).rd .hfBootStatusPref ≤ 1 ∧
     (s [0, 1]).boot.tried = [0, 1] ∧ (∀ i : Fin 2, (s [1 - i.val]).boot.tried = [1 - i.val] ∧ (s [1 - i.val]).imgCheck i true ≠ 0)) ∧
    (onModule id).boot.rom = false ∧
    (let s (ready t : Nat) : State := { onModule id with boot := { image := some 1, startedAt := 5, readyAt := ready, rollback := 2 }, tally := t }
     (s 0 0).boot.image = some 1 ∧ 1 % 2 = 1 ∧ 2 % 2 = 0 ∧ (s 0 0).boot.readyAt = 0 ∧ (s 6 0).boot.readyAt ≠ 0 ∧
     (s 0 1600000005).boot.startedAt + 1600000000 ≤ (s 0 1600000005).tally ∧ (s 0 1600000004).tally < (s 0 1600000004).boot.startedAt + 1600000000 ∧
     ((s 6 0).comp 5).mode = .running ∧ (s 6 0).boot.readyAt - 1 + (s 6 0).rd .secAdvDelayS * 1000000000 ≤ (s 6 3600000000005).tally ∧
     (s 6 0).counter 0 < (s 6 0).boot.rollback ∧ (s 6 0).boot.advAt ≤ (s 6 3600000000005).tally ∧
     { s 6 0 with mono := [(0, 2)] }.boot.rollback ≤ { s 6 0 with mono := [(0, 2)] }.counter 0) := by decide +kernel

theorem pending_mem {l : List (Nat × Bool)} {m : Nat} (h : sget false m l = true) : (m, true) ∈ l := by
  unfold sget at h
  cases e : slook m l with
  | none => simp [e] at h
  | some v => simp [e] at h; subst h; exact slook_mem e

/-- Source n in force for core 1 at priority 3, pending or not. -/
def source (n : Nat) (l : List (Nat × Bool)) (f : Ic → Ic := id) : State :=
  { ((((up.wr .icSrcCfgEn 0 n 1).wr .icSrcCfgMask 0 n 0).wr .icSrcCfgPrio 0 n 3).wr .icSrcCfgTarget 0 n 1).wr .icPmr 1 0 16 with
    ic := f { pending := l }, adit := { up.adit with unmasked := [(64 + n, true)] } }

/-- Events in a warm reset, of reserved sources, without EN, under EN with and without PENDING, forwarded, and of a watched source while asleep. -/
theorem witness_Interrupts_event :
    (({ up with warmAt := 9 } : State).warmAt ≠ 0 ∧ (464 ≤ (464 : SrcId).val ∧ (959 : SrcId).val < 960)) ∧
    (up.warmAt = 0 ∧ (463 : SrcId).val < 464 ∧ 960 ≤ (960 : SrcId).val) ∧ (up.rd .icSrcCfgEn 0 463 = 0 ∧ up.ic.asleep = false) ∧
    (let s := (source 463 []).wr .icSrcCfgFwd 0 463 1
     s.rd .icSrcCfgEn 0 463 ≠ 0 ∧ sget false 463 s.ic.pending = false ∧ sget false 463 (source 463 [(463, true)]).ic.pending = true ∧
     (source 463 []).rd .icSrcCfgFwd 0 463 = 0 ∧ s.rd .icSrcCfgFwd 0 463 ≠ 0 ∧ s.adit.msixEn = true ∧ s.adit.busMaster = true ∧
     sget false (64 + 463) s.adit.pba = false ∧ sget false (64 + 463) s.adit.unmasked = true ∧ s.adit.fnMask = false) ∧
    (let s := ((source 463 [] (fun i => { i with asleep := true })).wr .icLampSrcEn 0 31 1).wr .icLampSrcSource 0 31 463
     s.ic.asleep = true ∧ 31 < 32 ∧ s.rd .icLampSrcEn 0 31 ≠ 0 ∧ s.rd .icLampSrcSource 0 31 = (463 : SrcId).val) := by decide +kernel

/-- Deliveries: none that can be, the one that wins between two, and one that a write 63 ns ago, or 64 ns ago, has masked. -/
theorem witness_Interrupts_delivery :
    (up.ic.asleep = false ∧ up.warmAt = 0 ∧ ssorted up.ic.pending = true ∧ (∀ m, ¬ sget false m up.ic.pending = true)) ∧
    (let s := ((source 7 [(7, true), (9, true)]).wr .icSrcCfgEn 0 9 1).wr .icSrcCfgPrio 0 9 3 |>.wr .icSrcCfgTarget 0 9 1
     let can (m : Nat) : Prop := (sget false m s.ic.pending = true ∧ s.rd .icSrcCfgTarget 0 m = 1 ∧ s.rd .icSrcCfgPrio 0 m < 16) ∧ s.rd .icSrcCfgEn 0 m ≠ 0 ∧
       (s.rd .icSrcCfgMask 0 m = 0 ∨ m ∈ s.ic.lampFree) ∧ s.rd .icSrcCfgPrio 0 m < min 16 (s.rd .icPmr 1)
     ssorted s.ic.pending = true ∧ sget [] 1 s.ic.stack = [] ∧ can 7 ∧
     (∀ m, can m → m ≠ 7 → s.rd .icSrcCfgPrio 0 7 < s.rd .icSrcCfgPrio 0 m ∨ (s.rd .icSrcCfgPrio 0 7 = s.rd .icSrcCfgPrio 0 m ∧ 7 < m))) ∧
    (let s (at_ : Nat) : State := (source 7 [(7, true)] (fun i => { i with maskAt := [(7, at_)] })).wr .icSrcCfgMask 0 7 1
     let aimed (m : Nat) : Prop := sget false m (s 0).ic.pending = true ∧ (s 0).rd .icSrcCfgTarget 0 m = 1 ∧ (s 0).rd .icSrcCfgPrio 0 m < 16
     aimed 7 ∧ (∀ m, aimed m → m = 7) ∧ (s 0).rd .icSrcCfgMask 0 7 ≠ 0 ∧ 7 ∉ (s 0).ic.lampFree ∧ sget 0 7 (s 4938).ic.maskAt ≠ 0 ∧
     (s 4938).tally + 1 < sget 0 7 (s 4938).ic.maskAt + 64 ∧ sget 0 7 (s 4937).ic.maskAt + 64 ≤ (s 4937).tally + 1 ∧ sget 0 7 (s 0).ic.maskAt = 0) := by
  refine ⟨⟨rfl, rfl, rfl, fun m h => by simpa using pending_mem (l := []) h⟩, ⟨by decide +kernel, by decide +kernel, by decide +kernel, fun m hm hne => ?_⟩,
    ⟨by decide +kernel, fun m hm => ?_, by decide +kernel, by decide +kernel, by decide +kernel, by decide +kernel, by decide +kernel, by decide +kernel⟩⟩
  · have h : m = 7 ∨ m = 9 := by simpa using pending_mem (l := [(7, true), (9, true)]) hm.1.1
    rcases h with rfl | rfl
    · exact absurd rfl hne
    · decide +kernel
  · simpa using pending_mem (l := [(7, true)]) hm.1

/-- Configuration writes, completions, stack repairs, signals, timers, standby and waking in each condition. -/
theorem witness_Interrupts_registers :
    (let s := source 463 []
     let own (n v : Nat) : Prop := 424 ≤ n ∧ n < 432 ∧ v / 16 % 4 = (n - 424) % 4
     own 431 0x30 ∧ ¬ own 431 0x20 ∧ ¬ own 432 0 ∧ (s.rd .icSrcCfgEn 0 463 ≠ 0 ∧ (0x03 / 16 % 4 ≠ s.rd .icSrcCfgTarget 0 463 ∨ 0x03 % 16 ≠ s.rd .icSrcCfgPrio 0 463)) ∧
     ¬ (s.rd .icSrcCfgEn 0 463 ≠ 0 ∧ (0x13 / 16 % 4 ≠ s.rd .icSrcCfgTarget 0 463 ∨ 0x13 % 16 ≠ s.rd .icSrcCfgPrio 0 463))) ∧
    (let s := source 7 [] (fun i => { i with stack := [(2, [(9, 1), (7, 3)])], active := [(7, true), (9, true)] })
     sget [] ([0, 1, 2, 3, 0, 2].getD (5 : CompId).val 0) s.ic.stack = (9 % 1024, 1) :: [(7, 3)] ∧ (s.comp 5).mode = .running ∧
     (∀ e ∈ (sget [] 2 s.ic.stack).head?, e.1 ≠ 7 % 1024) ∧ s.rd .icStackInfoValid = 0 ∧ (∀ e ∈ (sget [] 0 s.ic.stack).head?, e.1 ≠ 7 % 1024) ∧
     (∃ e ∈ sget [] ((2 * 2 ^ 28 + 7) / 2 ^ 28 % 4) s.ic.stack, e.1 = (2 * 2 ^ 28 + 7) % 1024) ∧
     (∀ e ∈ sget [] ((2 * 2 ^ 28 + 8) / 2 ^ 28 % 4) s.ic.stack, e.1 ≠ (2 * 2 ^ 28 + 8) % 1024)) ∧
    ((435 : SrcId).val = 435 % 1024 ∧ 432 ≤ (435 : SrcId).val ∧ (435 : SrcId).val < 436 ∧ (source 435 []).warmAt = 0 ∧ (source 435 []).rd .icSrcCfgEn 0 435 ≠ 0 ∧
     ¬ ((432 ≤ 436 % 1024 ∧ 436 % 1024 < 436) ∨ 960 ≤ 436 % 1024)) ∧
    (let s (at_ : Nat) : State := (source 463 []).wr .icTimerAt 3 3 at_
     (s 5000).rd .icTimerAt 3 3 ≠ 0 ∧ (s 5000).rd .icTimerAt 3 3 ≤ (s 5000).tally ∧ (s 0).rd .icTimerAt 3 3 = 0 ∧ (s 5001).tally < (s 5001).rd .icTimerAt 3 3 ∧
     448 + 4 * 3 + 3 = 463) ∧
    (let s := up.wr .icLampCtrlStandbyEn 0 0 1
     s.rd .icLampCtrlStandbyEn ≠ 0 ∧ s.ic.asleep = false ∧ s.ic.pending = [] ∧ up.rd .icLampCtrlStandbyEn = 0 ∧
     (source 7 [] (fun i => { i with asleep := true, lampHit := true })).ic.asleep = true ∧
     (source 7 [] (fun i => { i with asleep := true, lampHit := true })).ic.lampHit = true ∧ up.ic.lampHit = false) := by decide +kernel

/-! ### Witnesses that rest on what the opaque hash and signature functions answer

The model leaves SHA-384 and ECDSA open (assumption log 3), so what passes a check is shown under a way they may come out: every hash is
48 bytes 0xFF, and every signature verifies. -/

/-- 48 bytes 0xFF. -/
def ones : List Byte := List.replicate 48 0xFF#8

/-- A signature whose two values are 1, which lies in their range (R482). -/
def unitSig : List Byte := List.replicate 47 0#8 ++ [1#8] ++ List.replicate 47 0#8 ++ [1#8]

theorem sig_ok (hV : ∀ k m g, Config.ecdsaVerify k m g = true) (k m : List Byte) : sigOk k m unitSig = true := by
  have h : (sigRange (beNat (unitSig.take 48)) && sigRange (beNat ((unitSig.drop 48).take 48))) = true := by decide +kernel
  rw [sigOk, h, hV]; rfl

theorem ones_padded : padTo 48 ones = ones := by decide +kernel

/-- Flash in which image B has a good header: MAGIC, HDR_VERSION 1, SIZE 1, zeros in the reserved fields and a signature in range; every other
byte is erased. -/
def goodImage : List (Nat × Byte) :=
  ((List.range 32).zip (fieldBytes [(0x31584C46, 4), (1, 2), (0, 2), (0xFFFFFFFF, 4), (7, 4), (1, 4), (0xFFFFFFFF, 4), (0, 8)]) ++
    (List.range 80).map (fun i => (80 + i, 0#8)) ++ ((List.range 96).zip unitSig).map (fun (e : Nat × Byte) => (160 + e.1, e.2))).map (fun (e : Nat × Byte) => (0x1000000 + e.1, e.2))

theorem good_image {s : State} (hH : ∀ l, Config.sha384 l = ones) (hV : ∀ k m g, Config.ecdsaVerify k m g = true)
    (hf : s.flash = goodImage) (hm : s.mono = []) : s.imgCheck 1 true = 0 := by
  have e1 : s.imgHeaderOk 1 = ({ State.reset with flash := s.flash } : State).imgHeaderOk 1 := rfl
  have e2 : s.flashBytes (imageBase 1 + 32) 48 = ({ State.reset with flash := s.flash } : State).flashBytes (imageBase 1 + 32) 48 := rfl
  have e4 : s.flashBytes (imageBase 1 + 160) 96 = ({ State.reset with flash := s.flash } : State).flashBytes (imageBase 1 + 160) 96 := rfl
  rw [hf] at e1 e2 e4
  have h1 : s.imgHeaderOk 1 = true := e1.trans (by decide +kernel)
  have h2 : s.flashBytes (imageBase 1 + 32) 48 = ones := e2.trans (by decide +kernel)
  have h3 : s.counter 0 = 0 := by simp [State.counter, hm, sget, slook]
  have h4 : s.flashBytes (imageBase 1 + 160) 96 = unitSig := e4.trans (by decide +kernel)
  simp [State.imgCheck, h1, h4, sig_ok hV, h2, h3, hash48, hH, ones_padded]

theorem erased_of {s : State} (h : s.flash.all (fun e => decide (e.1 < 0x2000000)) = true) (k : Nat) : s.slotErased k = true := by
  have e (a : Nat) (ha : 0x2000000 ≤ a) : s.flashByte a = 0xFF#8 := by
    unfold State.flashByte sget
    cases hl : slook a s.flash with
    | none => rfl
    | some v => have := of_decide_eq_true (List.all_eq_true.mp h _ (slook_mem hl)); omega
  have f (i : Nat) : s.flashByte (slotBase k + i) = 0xFF#8 := e _ (by unfold slotBase; omega)
  exact slotErased_of_bytes f

/-- The ROM starts image B, and FW_ACTIVATE prefers it, with the identity key held and without. -/
theorem witness_image_passes (hH : ∀ l, Config.sha384 l = ones) (hV : ∀ k m g, Config.ecdsaVerify k m g = true) :
    (let s : State := { onModule id with boot := { rom := true, tried := [1 - (1 : Fin 2).val] }, flash := goodImage }
     s.imgCheck 1 true = 0 ∧ s.boot.rom = true ∧ s.mod.perst = false ∧ s.mod.running = true ∧ s.rd .hfBootStatusPref ≤ 1) ∧
    (let s : State := { (running 0x702 0).wr .secStatusIdValid 0 0 1 with boot := { image := some 0 }, flash := goodImage }
     s.imgCheck 1 true = 0 ∧ (s.comp 5).mode = .running ∧ s.rd .secStatusIdValid ≠ 0 ∧ (s.wr .secStatusIdValid 0 0 0).rd .secStatusIdValid = 0 ∧
     (s.wr .secStatusIdValid 0 0 0).imgCheck 1 true = 0 ∧ s.slotErased 0 = true ∧ ∀ j, j < 0 → s.slotErased j = false) :=
  ⟨⟨good_image hH hV rfl rfl, by decide +kernel, by decide +kernel, by decide +kernel, by decide +kernel⟩,
   ⟨good_image hH hV rfl rfl, by decide +kernel, by decide +kernel, by decide +kernel, good_image hH hV rfl rfl, erased_of (by decide +kernel) 0,
    fun _ h => absurd h (by omega)⟩⟩

/-- A record of type 5 of the vendor's key: VERSION 3, IDENT and SIGNER_HASH all 0xFF. -/
def goodRecord : List Byte := fieldBytes [(0x31434552, 4), (5, 2), (97, 2), (3, 8)] ++ List.replicate 96 0xFF#8 ++ List.replicate 97 0#8 ++ unitSig

/-- CFG_RECORD_WRITE of a valid record, advancing the counter, into empty flash. -/
theorem witness_record_valid (hH : ∀ l, Config.sha384 l = ones) (hV : ∀ k m g, Config.ecdsaVerify k m g = true) :
    let s : State := running 0x704 5 goodRecord
    recType (s.payBytes 3 0 4096) ≠ 3 ∧ s.recValid (s.recInForce 5) (s.on .secStatusIdValid) (s.payBytes 3 0 4096) = true ∧
    s.slotErased 0 = true ∧ (∀ j, j < 0 → s.slotErased j = false) ∧ ctrOf (recType (s.payBytes 3 0 4096)) = some 2 ∧ recVersion (s.payBytes 3 0 4096) ≤ 0xFFFFFFFF := by
  have hi : identityHash = ones := by simp [identityHash, hash48, hH, ones_padded]
  have hk : hash48 Config.vendorKey = ones := by simp [hash48, hH, ones_padded]
  intro s
  have h : let x := s.payBytes 3 0 4096
      recType x = 5 ∧ (x.drop 16).take 48 = ones ∧ (x.drop 64).take 48 = ones ∧ recNat x 0 4 = 0x31434552 ∧ recBodyLen x = 97 ∧ s.counter 2 ≤ recVersion x ∧
      recVersion x ≤ 0xFFFFFFFF ∧ (x.drop (112 + 97)).take 96 = unitSig := by decide +kernel
  obtain ⟨h1, h2, h3, h4, h5, h6, h7, h8⟩ := h
  refine ⟨by rw [h1]; decide, ?_, erased_of (by decide +kernel) 0, fun _ h => absurd h (by omega), by rw [h1]; rfl, h7⟩
  simp only [State.recValid, h1, h2, h4, h5, hi, hk, recSigned, h3, h8, sig_ok hV, ctrOf, bodyLenOf, h6]
  rfl

/-- A token: TYPE, VERSION, PERMISSIONS 7, IDENT, the nonce, 604,800 s, key selector 1. -/
def goodToken : List Byte :=
  fieldBytes [(0x4C574B41, 4), (1, 2), (7, 2), (0, 8)] ++ List.replicate 48 0xFF#8 ++ List.replicate 32 0x5A#8 ++ fieldBytes [(604800, 4), (1, 4), (0, 56)] ++ unitSig

/-- DBG_UNLOCK of a token that verifies, with a record of type 6 in force. -/
theorem witness_token_opens (hH : ∀ l, Config.sha384 l = ones) (hV : ∀ k m g, Config.ecdsaVerify k m g = true) :
    let s : State := { running 0x502 4 goodToken with dbg := { nonce := some (List.replicate 32 0x5A#8), nonceAt := 1 }, records := [(6, 1)] }
    s.reqNat 3 8 2 ≠ 0 ∧ s.tokenOk (s.payBytes 3 0 256) = true := by
  have hi : identityHash = ones := by simp [identityHash, hash48, hH, ones_padded]
  intro s
  refine ⟨by decide +kernel, ?_⟩
  have h1 : s.payBytes 3 0 256 = goodToken := by decide +kernel
  have h2 : s.recInForce 6 = some (recBody (s.slotBytes 0)) := by
    have : s.recSlot 6 = some 0 := by decide +kernel
    simp [State.recInForce, this]
  rw [h1]
  have a : (s.dbg.nonce == some ((goodToken.drop 64).take 32) && decide (s.tally < s.dbg.nonceAt + 300000000000)) = true := by decide +kernel
  have k : leNat ((goodToken.drop 100).take 4) = 1 := by decide +kernel
  have i : (goodToken.drop 16).take 48 = ones := by decide +kernel
  have b : (leNat ((goodToken.drop 0).take 4) == 0x4C574B41 && leNat ((goodToken.drop 4).take 2) == 1 && decide (leNat ((goodToken.drop 6).take 2) < 8) &&
      allZero ((goodToken.drop 8).take 8) && allZero ((goodToken.drop 104).take 56) &&
      decide (1 ≤ leNat ((goodToken.drop 96).take 4) ∧ leNat ((goodToken.drop 96).take 4) ≤ 604800)) = true := by decide +kernel
  have g : goodToken.drop 160 = unitSig := by decide +kernel
  simp only [Bool.and_eq_true] at a b
  simp only [State.tokenOk, k, i, hi, h2, g, sig_ok hV, a, b]
  decide

/-- A window's sensors. -/
def sensors (b io hf st : Nat) : WindowIn :=
  { block := List.replicate 15 70 ++ [b], io := [60, io], hf := hf, stack := List.replicate 7 61 ++ [st], rate := List.replicate 16 3994 }

/-- A device that runs, at a tally. -/
def live (t : Nat) (s : State := up) : State := { onModule id (s.wr .tlyStatusDevValid 0 0 1) with tally := t }

/-- Estimation windows: not due, due, and with a block and a stack exactly at their limits. -/
theorem witness_Power_window :
    (State.reset.devValid = false ∧ (live 2047).tally < 2048 * ((live 2047).pwr.window + 1)) ∧
    (let s := live 2048
     let w := sensors (s.rd .pwrTjTrip - 1) 60 50 109
     s.devValid = true ∧ 2048 * (s.pwr.window + 1) ≤ s.tally ∧ s.mod.tripped = false ∧ (∀ x ∈ w.block ++ w.io ++ [w.hf], x < s.rd .pwrTjTrip) ∧
     (∀ x ∈ w.stack, x < 110) ∧ s.rd .pwrCalEff ≠ 0 ∧ s.mod.pwrgd = true ∧ w.rate[15]? = some 3994 ∧ w.block[15]? = some (s.rd .pwrTjTrip - 1) ∧
     w.stack[7]? = some 109 ∧ 7 < s.variant.stacks ∧
     (sensors (s.rd .pwrTjTrip) 60 50 61).block.findIdx? (fun x => decide (s.rd .pwrTjTrip ≤ x)) = some 15 ∧
     (∀ x ∈ (sensors 70 60 50 110).block ++ (sensors 70 60 50 110).io ++ [(sensors 70 60 50 110).hf], x < s.rd .pwrTjTrip) ∧
     (sensors 70 60 50 110).stack.findIdx? (fun x => decide (110 ≤ x)) = some 7) := by decide +kernel

/-- May block k take level v and ISSUE n within its allocation of a budget (R398)? -/
def within (s : State) (rates : List Nat) (k v n : Nat) : Bool :=
  let s0 := s.learn
  let live := (List.range 16).filter (fun k => !s.pbGated k)
  let want (k : Nat) : Nat := s0.dynUw k + leakUw (s.rd .pwrPbCtrlVset k) (s.pbTj k)
  let floor (k : Nat) : Nat := s0.pointUw k 0 8 (s0.rateAt rates k 0)
  let need := (live.map want).foldl (· + ·) 0
  let budget := s.rd .pwrCapCapW * 1000000 * s.rd .pwrCalEff / (4 * max 1 (s.rd .pwrCalGain)) - s.pwr.uncore
  let share := if need = 0 then budget else want k * budget / need
  decide (v < 4 ∧ v ≤ s.rd .pwrPbCtrlVset k + 1 ∧ s.rd .pwrPbCtrlVset k ≤ v + 1 ∧ 1 ≤ n ∧ n ≤ 64 ∧
    s0.pointUw k v n (s0.rateAt rates k v) ≤ if need ≤ budget then share else max (floor k) share)

/-- Do the floors of the powered blocks exceed the budget? -/
def floorsExceed (s : State) (rates : List Nat) : Bool :=
  let s0 := s.learn
  let live := (List.range 16).filter (fun k => !s.pbGated k)
  let budget := s.rd .pwrCapCapW * 1000000 * s.rd .pwrCalEff / (4 * max 1 (s.rd .pwrCalGain)) - s.pwr.uncore
  decide (budget < (live.map (fun k => s0.pointUw k 0 8 (s0.rateAt rates k 0))).foldl (· + ·) 0)

/-- Loop intervals: not due; one active tile long in its phase; floors above the budget; a point within the allocation; and none, at level 3. -/
theorem witness_Power_loop :
    (State.reset.devValid = false ∧ ({ live 16384 with comps := [] } : State).safeMode = true ∧ (live 16383).tally < 16384 * ((live 16383).pwr.interval + 1)) ∧
    (let s := live 16385
     s.devValid = true ∧ s.safeMode = false ∧ 16384 * (s.pwr.interval + 1) ≤ s.tally) ∧
    (let s := (live 16385).setTile 255 { tallyValid := true }
     (s.tile 255).active = true ∧ (∀ u, u < 256 → u ≠ (255 : TileId).val → (s.tile u).active = false) ∧ s.demand.length < 64 ∧
     s.rd .tilePhaseAt (255 : TileId) < s.tally - 16384) ∧
    floorsExceed { live 16384 with pwr := { up.pwr with uncore := 2000000000 } } [] = true ∧
    (let s := live 16384
     floorsExceed s [] = false ∧ (∀ k, k < 16 → s.pbTj k ≤ s.rd .pwrTjTarget) ∧ s.rd .pwrPaceCfgMatchEn = 0 ∧ (∀ k, k < 16 → s.rd .pwrPbCtrlVset k < 4) ∧
     (∀ k, k < 16 → s.pbGated k = false) ∧ within s [] 15 1 64 = true ∧ within s [] 0 3 1 = true) := by decide +kernel

/-- A device whose budget stands so low that no point of level 2 or 3 fits in an allocation (its one phase has demand 0). -/
def tight : State :=
  let s := (List.range 16).foldl (fun (s : State) k => s.wr .pwrPbCtrlVset k 0 3) (live 16384)
  { s with demand := [⟨0, 0, 0⟩], pwr := { s.pwr with uncore := s.rd .pwrCapCapW * 1000000 * s.rd .pwrCalEff / (4 * max 1 (s.rd .pwrCalGain)) - 3200000 } }

theorem witness_Power_no_point :
    floorsExceed tight [] = false ∧ (∀ k, k < 16 → tight.pbTj k ≤ tight.rd .pwrTjTarget) ∧ tight.rd .pwrPaceCfgMatchEn = 0 ∧
    (∀ k, k < 16 → tight.rd .pwrPbCtrlVset k < 4) ∧ tight.pbGated 15 = false ∧ (∀ v n, ¬ within tight [] 15 v n = true) := by
  have h : ∀ v, v < 4 → ∀ n, n < 65 → within tight [] 15 v n = false := by decide +kernel
  refine ⟨by decide +kernel, by decide +kernel, by decide +kernel, by decide +kernel, by decide +kernel, fun v n w => ?_⟩
  obtain ⟨a, -, -, -, b, -⟩ := of_decide_eq_true w
  rw [h v a n (by omega)] at w
  exact Bool.false_ne_true w

/-- Slews, droop trips and their holds, and calibrations, one side and the other of their times. -/
theorem witness_Power_droop :
    (let s (e : Nat) : State := { live 20000 with pwr := { up.pwr with slews := [(15, e, 40)] } }
     (sget (0, 0) 14 (s 20001).pwr.slews).1 = 0 ∧ (s 20002).tally + 1 < (sget (0, 0) 15 (s 20002).pwr.slews).1 ∧
     (sget (0, 0) 15 (s 20001).pwr.slews).1 ≠ 0 ∧ (sget (0, 0) 15 (s 20001).pwr.slews).1 ≤ (s 20001).tally + 1) ∧
    (let s (at_ : Nat) : State := { (live 20000).wr .pwrPbStatusDroop 15 0 1 with pwr := { up.pwr with droopAt := [(15, at_)] } }
     (s 1).rd .pwrPbStatusDroop 15 ≠ 0 ∧ up.rd .pwrPbStatusDroop 15 = 0 ∧
     sget 0 15 (s (20001 - (s 1).rd .pwrDroopCfgHoldNs)).pwr.droopAt + (s 1).rd .pwrDroopCfgHoldNs ≤ (s 1).tally + 1 ∧
     (s 1).tally + 1 < sget 0 15 (s (20002 - (s 1).rd .pwrDroopCfgHoldNs)).pwr.droopAt + (s 1).rd .pwrDroopCfgHoldNs ∧
     up.warmAt = 0 ∧ (up.wr .icSrcCfgEn 0 359 1).rd .icSrcCfgEn 0 (344 + 15) ≠ 0) ∧
    (let s := live 1000000
     s.safeMode = false ∧ s.pwr.gainAt + 1000000 ≤ s.tally ∧ s.rd .pwrCalGain < 2 ^ 16 ∧ (live 999999).tally < (live 999999).pwr.gainAt + 1000000 ∧
     ({ s with comps := [] } : State).safeMode = true ∧ meanOf ({ s with pwr := { s.pwr with hist := [900] } }.pwr.hist.take 488) ≠ 0) := by decide +kernel

/-- A beacon that its period makes due, exactly and not yet, and one that a change makes due. -/
def beaconAt (t sent : Nat) (f : Beacon → Beacon := id) : State :=
  { ((live t).wr .pwrPaceCfgEn 0 0 1).onPort 7 (fun x => { x with mode := .up }) with pwr := { up.pwr with window := 4000, beacon := f { closeAt := 5, sentAt := sent } } }

/-- Beacons sent and received: full table, an entry of the device, and a pace below the alert. -/
theorem witness_Power_beacons :
    (let s (t sent : Nat) : State := beaconAt t sent
     let w := 2048 * (s 0 0).pwr.window
     let period (sent : Nat) : Nat := sent + 1000 * (s 0 0).rd .pwrPaceCfgPeriodUs
     (s 0 0).rd .pwrPaceCfgEn ≠ 0 ∧ (s 0 0).pwr.window ≠ 0 ∧ w + 1 ≠ (s 0 0).pwr.beacon.closeAt ∧ w + 200 ≤ (s (w + 200) 0).tally ∧ (s 0 0).pwr.beacon.sentAt = 0 ∧
     period (w + 1 - 1000 * (s 0 0).rd .pwrPaceCfgPeriodUs) ≤ w + 1 ∧ ¬ (w + 200 ≤ (s (w + 199) 0).tally) ∧
     (s 0 0).rd .pwrStatusMatching = 0 ∧ (∀ e, e < 10 → (s 0 0).rd .pwrPaceStageStage 0 e < 2 ^ 16) ∧
     (s w 5).paceReason ≠ (beaconAt w 5 (fun b => { b with reason := 99 })).pwr.beacon.reason ∧ 5 + 10000 ≤ w + 1) ∧
    (let p (pace : Nat) : Arrival := arrive { ty := 9, srcDev := 77, payload := natLe 64 (pace * 2 ^ 48 + 5) }
     let s (pace : Nat) : State := { live 1000000 with dieNet := [p pace] }
     ((s 0).netTake 9 1 = none ∨ (live 0).netTake 9 0 = none) ∧ (∀ pace ∈ [0, 0xFFFF], (s pace).netTake 9 0 = some (p pace, { s pace with dieNet := [] })) ∧
     (s 0).rd .pwrPaceAlert ≤ payWord (p 0xFFFF).pkt 0 / 2 ^ 48 ∧
     payWord (p 0).pkt 0 / 2 ^ 48 < ((s 0).wr .pwrPaceAlert 0 0 1).rd .pwrPaceAlert ∧ ((s 0).wr .pwrPaceAlert 0 0 1).netTake 9 0 = some (p 0, { (s 0).wr .pwrPaceAlert 0 0 1 with dieNet := [] })) := by
  decide +kernel

/-! ### Witnesses: stops and sampling (statement O58) -/

/-- A device stopping under HALT_ID 77 since 5,000, with port 0 UP and tile 255 populated. -/
def stopping (f : Port → Port := id) : State :=
  let s := ((up.setTile 255 { tallyValid := true, stopped := true }).onPort 0 (fun x => f { x with mode := .up, halted := true })).wr .dbgHaltStatusStopping 0 0 1
  { (s.wr .dbgHaltId 0 0 77).wr .dbgHaltCtrlAccept 0 0 1 with dbg := { up.dbg with wave := 5000 } }

/-- Halted, with every link closed and a dump asked for. -/
def halted (cap purpose : Nat) : State :=
  let s := (List.range 8).foldl (fun (s : State) p => s.onPort p (fun x => { x with linkShut := true })) (stopping.wr .dbgHaltStatusHalted 0 0 1)
  { s with dbg := { s.dbg with dumpAt := 0x10000000000, dumpCap := cap, purpose := purpose } }

/-- GO and RESUME with and without their bit, in and outside a stop; held writes; a collective in flight. -/
theorem witness_StopsAndSampling_stop :
    ((0x20FF0000 : Nat).testBit 31 = false ∧ 2 ^ 64 % 2 ^ 64 = 0 ∧ stopping.inStop = true) ∧ ((0xA0FF0000 : Nat).testBit 31 = true ∧ 77 % 2 ^ 64 ≠ 0 ∧ up.inStop = false) ∧
    ((0x20FF0000 : Nat).testBit 30 = false ∧ (0x60FF0000 : Nat).testBit 30 = true ∧ stopping.dbg.heldWrites = [] ∧ (stopping.tile 255).stopped = true ∧
     (∀ p, p < 8 → (stopping.port p).record = [])) ∧
    (let s : State := { stopping with dbg := { stopping.dbg with heldWrites := [⟨0x06008510, 255, 0, 65535⟩] } }
     s.inStop = true ∧ (∀ w ∈ s.dbg.heldWrites, w.off / 2 ^ 24 = 6) ∧ s.dbg.heldWrites = [⟨0x06008510, 255, 0, 65535⟩]) ∧
    (let x := collBase id
     let s : State := { stopping with colls := [(63, x)] }
     s.coll 63 = some x ∧ s.inStop = true) ∧
    (up.rd .dbgHaltStatusStopping = 0 ∧ stopping.rd .dbgHaltStatusStopping ≠ 0 ∧ (up.rd .mbxEvtHead 63 + 256 - up.rd .mbxEvtTail 63) % 256 ≠ 128) := by
  decide +kernel

/-- Flits in each condition; a link at 1 ms and 1 ns before it; access and nonces at their ends. -/
theorem witness_StopsAndSampling_flits :
    ((up.port 7).mode ≠ .up ∧ (stopping.port 0).mode = .up ∧ stopping.rd .dbgHaltCtrlAccept ≠ 0 ∧ (stopping.wr .dbgHaltCtrlAccept 0 0 0).rd .dbgHaltCtrlAccept = 0 ∧
     stopping.rd .dbgHaltId = 77 ∧ 78 % 2 ^ 64 ≠ stopping.rd .dbgHaltId ∧ (stopping.port 0).marker = none ∧ (stopping.port 0).halted = true) ∧
    (let s := stopping.wr .dbgHaltStatusStopping 0 0 0
     s.inStop = false ∧ 77 % 2 ^ 64 = s.rd .dbgHaltId ∧ 78 % 2 ^ 64 ≠ s.rd .dbgHaltId ∧ s.rd .dbgHaltCtrlAccept ≠ 0 ∧ (s.port 0).mode = .up) ∧
    (let s (t : Nat) : State := { stopping with tally := t }
     (s 0).inStop = true ∧ ((s 0).port 0).marker = none ∧ ((s 0).port 0).halted = true ∧ ((s 0).port 0).linkShut = false ∧
     (s 0).dbg.wave + 1000000 ≤ (s 1005000).tally ∧ (s 1004999).tally < (s 0).dbg.wave + 1000000) ∧
    (let s (t : Nat) : State := { ((up.wr .dbgLockOpen 0 0 1).wr .dbgOpenUntil 0 0 9000) with tally := t, dbg := { up.dbg with nonce := some [1], nonceAt := 5 } }
     (s 0).rd .dbgLockOpen ≠ 0 ∧ (s 0).rd .dbgOpenUntil ≤ (s 9000).tally ∧ (s 8999).tally < (s 0).rd .dbgOpenUntil ∧ up.rd .dbgLockOpen = 0 ∧
     (s 0).dbg.nonce ≠ none ∧ (s 0).dbg.nonceAt + 300000000000 ≤ (s 300000000005).tally ∧ (s 300000000004).tally < (s 0).dbg.nonceAt + 300000000000 ∧
     up.dbg.nonce = none) := by decide +kernel

/-- A dump that is due, a short one and a post-mortem's; a sample that is due, fits or not, at the ring's end. -/
theorem witness_StopsAndSampling_dumps :
    (let s := halted 79 1
     s.rd .dbgHaltStatusHalted ≠ 0 ∧ s.linksClosed = true ∧ s.dbg.dumpAt ≠ 0 ∧ s.dbg.dumped = false ∧ s.dbg.dumpCap < 80 ∧ s.dbg.purpose ≠ 2 ∧
     (halted 0 2).dbg.purpose = 2 ∧ dumpMax ≤ (halted dumpMax 1).dbg.dumpCap ∧ up.rd .dbgHaltStatusHalted = 0) ∧
    (let s (head tail : Nat) : State := ((((({ up with hbmcs := [(0, { trained := true }), (1, { trained := true })], tally := 20000 } : State).wr .tlyStatusDevValid 0 0 1).wr
        .dbgPcsCfgEn 0 0 1).wr .dbgPcsBase 0 0 0x10000000000).wr .dbgPcsHead 0 0 head).wr .dbgPcsTail 0 0 tail |>.wr .dbgPcsCfgLog2Bytes 0 0 12
     let a := s 4032 4032
     a.rd .dbgPcsCfgEn ≠ 0 ∧ a.tally % max 1000 (a.rd .dbgPcsIntervalNs) = 0 ∧ a.dbg.pcsNext ≤ a.tally ∧ a.place (a.rd .dbgPcsBase) = .hbm 0 0 ∧
     12 ≤ a.rd .dbgPcsCfgLog2Bytes ∧ a.rd .dbgPcsCfgLog2Bytes ≤ 30 ∧ a.rd .dbgPcsHead < 2 ^ 32 ∧ a.pcsTiles = [] ∧
     (2 ^ 32 + a.rd .dbgPcsHead - a.rd .dbgPcsTail) % 2 ^ 32 + 16 ≤ 2 ^ 12 ∧ a.rd .dbgPcsHead % 2 ^ 12 + 16 ≤ 2 ^ 12 ∧
     (a.rd .dbgPcsBase + a.rd .dbgPcsHead % 2 ^ 12) % 64 = 0 ∧ a.place (a.rd .dbgPcsBase + a.rd .dbgPcsHead % 2 ^ 12) = .hbm 0 4032 ∧ a.hbmReady (hbmcOf 0 4032) = true ∧
     a.bandHolds (a.rd .dbgPcsBase + a.rd .dbgPcsHead % 2 ^ 12) = false ∧ a.ecc = [] ∧
     2 ^ 12 < (2 ^ 32 + (s 4081 0).rd .dbgPcsHead - (s 4081 0).rd .dbgPcsTail) % 2 ^ 32 + 16 ∧
     (2 ^ 32 + (s 4080 0).rd .dbgPcsHead - (s 4080 0).rd .dbgPcsTail) % 2 ^ 32 + 16 ≤ 2 ^ 12) := by decide +kernel

/-! ### Witnesses: errors and resets (statement O59) -/

/-- One report. -/
def reported (cls : Nat) (kind : RasKind) (inst : Nat) (f : State → State := id) : State := { f up with ras := [⟨cls, kind, inst, 4, 1, 99⟩], tally := 20000000 }

/-- Reports of each class; the flash log just written, and 10 ms ago; a record held and not. -/
theorem witness_ErrorsAndResets_reports :
    (up.ras = [] ∧ (State.reset.comp 3).mode ≠ .running) ∧
    (∀ cls ∈ [0, 1, 2, 3], ∀ kind ∈ [RasKind.port, .component], let s := reported cls kind 5
     s.ras = ⟨cls, kind, 5, 4, 1, 99⟩ :: [] ∧ (s.comp 3).mode = .running ∧ s.rasLog.length < 4096 ∧ s.warmAt = 0 ∧ s.rd .rasNoticeTx < 2 ^ 64 ∧
     s.rasw.flashAt = 0 ∧ s.rasw.collecting = none ∧ s.rasw.warmPlan = 0 ∧ s.rd .rasPmStatusValid = 0 ∧ s.inStop = false ∧
     (s.wr .rasCfgAutoWarm 0 0 1).rd .rasCfgAutoWarm ≠ 0 ∧ (s.wr .rasPmStatusValid 0 0 1).rd .rasPmStatusValid ≠ 0 ∧
     (s.wr .icSrcCfgEn 0 445 1).rd .icSrcCfgEn 0 445 ≠ 0 ∧ (s.rd .mbxEvtHead 63 + 256 - s.rd .mbxEvtTail 63) % 256 ≠ 128) ∧
    (let s (at_ : Nat) : State := { reported 2 .port 5 with rasw := { up.rasw with flashAt := at_ } }
     (s 10000002).rasw.flashAt ≠ 0 ∧ (s 10000002).tally + 1 < (s 10000002).rasw.flashAt + 10000000 ∧ (s 10000001).rasw.flashAt + 10000000 ≤ (s 10000001).tally + 1) ∧
    (let s := reported 2 .hbmc 15
     s.ras = [⟨2, .hbmc, 15, 4, 1, 99⟩] ∧ (15 : HbmcId).val < s.variant.hbmcs ∧ (sget {} 15 s.hbmcs).resetAt = none) := by decide +kernel

/-- The poll of corrected errors: too early, the first, and a tile above the threshold within 1 s, posted before or not. -/
theorem witness_ErrorsAndResets_poll :
    let s (t : Nat) (hist : List (Nat × List (Nat × Nat))) (posted : List (Nat × Nat)) : State :=
      { up.wr .spdCe 255 0 70000 with tally := t, rasw := { up.rasw with ceHist := hist, cePosted := posted } }
    let e : Nat × List (Nat × Nat) := (1000000, [])
    (s 999999 [] []).tally < (s 999999 [] []).rasw.ceAt + 1000000 ∧ ((s 1000000 [] []).comp 3).mode = .running ∧
    (s 1000000 [] []).rasw.ceAt + 1000000 ≤ (s 1000000 [] []).tally ∧ ssorted (s 1000000 [] []).regs = true ∧
    (s 1001000000 [e] []).tally ≤ 1000000 + 1000000000 ∧ (∃ x ∈ (s 1001000000 [e] []).regs, keyField x.1 = some .spdCe ∧ keyInst x.1 = (255 : TileId).val) ∧
    (∀ x ∈ (s 1001000000 [e] []).regs, ∀ f r, keyField x.1 = some f → ceResource f (keyInst x.1) = some r →
      (sget 0 x.1 e.2 + (s 1001000000 [e] []).rd .rasCfgCeThresh < x.2 ↔ r = (255 : TileId).val)) ∧
    (s 1001000000 [e] [(255, 5000000)]).tally < 5000000 + 1000000000 := by
  refine ⟨by decide +kernel, by decide +kernel, by decide +kernel, by decide +kernel, by decide +kernel, by decide +kernel, ?_, by decide +kernel⟩
  intro x hx f r hf hr
  have h : ∀ x ∈ (up.wr .spdCe 255 0 70000).regs, keyField x.1 = some .spdCe ∧ keyInst x.1 = 255 ∧ sget 0 x.1 [] + up.rd .rasCfgCeThresh < x.2 := by decide +kernel
  obtain ⟨a, b, c⟩ := h x hx
  rw [a] at hf
  cases hf
  rw [b] at hr
  cases hr
  have e : (up.wr .spdCe 255 0 70000).rd .rasCfgCeThresh = up.rd .rasCfgCeThresh := by decide +kernel
  exact ⟨fun _ => rfl, fun _ => (show sget 0 x.1 [] + (up.wr .spdCe 255 0 70000).rd .rasCfgCeThresh < x.2 by rw [e]; exact c)⟩

/-- Tile 255 in a stage, with what it waits on. -/
def stuck (t : Nat) (f : State → State := id) (x : Tile := { tallyValid := true, core := { mode := .running } }) : State :=
  { f (((up.wr .rasCfgHangEn 0 0 1).wr .tileStage 255 0 5).setTile 255 x) with tally := t }

/-- Tile 255 waits on the semaphore of endpoint 15. -/
def waiting (f : State → State := id) : State :=
  stuck 2000000000000 (fun s => f ((s.wr .tileEpEn 255 15 1).wr .tileEpLocalSem 255 15 7)) { tallyValid := true, core := { mode := .running, wait := .sem 7 1 } }

/-- Scans: not due, without a quiet tile, and each way in which a chain ends; reported before and not. -/
theorem witness_ErrorsAndResets_hangs :
    ((up.wr .rasCfgHangEn 0 0 0).rd .rasCfgHangEn = 0 ∧ (stuck 0).tally < (stuck 0).rasw.scanAt + 1000 * max 1 ((stuck 0).rd .rasHangScanUs)) ∧
    (let s := stuck 200000000
     let judged (t : Nat) : Prop := t < 256 ∧ s.rd .tileStage t ≠ 0 ∧ (s.tile t).coreState = 1 ∧ (s.tile t).tallyValid = true
     let quiet (s : State) (t : Nat) : Prop := max (s.rd .tileProgressAt t) (sget 0 t s.quietFrom) + s.rd .rasHangThreshNs ≤ s.tally
     s.rd .rasCfgHangEn ≠ 0 ∧ (s.comp 3).mode = .running ∧ s.rd .dbgHaltStatusHalted = 0 ∧ s.rasw.scanAt + 1000 * max 1 (s.rd .rasHangScanUs) ≤ s.tally ∧
     judged 255 ∧ quiet s 255 ∧ (∀ u, u < 256 → s.rd .tileStage u ≠ 0 → u = 255) ∧ ¬ quiet { s with quietFrom := [(255, 200000000)] } 255 ∧
     s.waitedEp 255 = none ∧ sget 0 255 s.rasw.reported ≠ s.rd .tileProgress 255 + 1 ∧ (s.wr .rasCfgHangAction 0 0 0).rd .rasCfgHangAction = 0 ∧ (s.tile 255).resetAt = none ∧
     s.rd .rasHangInfoValid = 0 ∧ s.warmAt = 0 ∧
     sget 0 255 ({ s with rasw := { s.rasw with reported := [(255, 1)] } } : State).rasw.reported = s.rd .tileProgress 255 + 1) ∧
    (waiting.waitedEp 255 = some 15 ∧ waiting.peerLocal 255 15 = false ∧ waiting.rd .tileProgressAt 255 + waiting.rd .rasHangRemoteNs ≤ waiting.tally) ∧
    (let s := waiting (fun s => ((s.wr .tileEpPeerLocal 255 15 1).wr .tileEpPeerTile 255 15 9).setTile 9 { tallyValid := true, gated := true })
     s.waitedEp 255 = some 15 ∧ s.peerLocal 255 15 = true ∧ s.dead (s.rd .tileEpPeerTile 255 15) = true ∧ (s.tile 9).resetAt = none) ∧
    (let s := waiting (fun s => (s.wr .tileEpPeerLocal 255 15 1).wr .tileEpPeerTile 255 15 255)
     s.waitedEp 255 = some 15 ∧ s.peerLocal 255 15 = true ∧ s.dead 255 = false ∧ s.rd .tileEpPeerTile 255 15 = 255) := by decide +kernel

/-- A post-mortem collection in progress. -/
def collecting (dumped : Bool) (s : State) : State :=
  { s with rasw := { up.rasw with collecting := some [] }, dbg := { up.dbg with dumped := dumped, dumpLen := 0x100000, short := true } }

/-- A notice whose first word begins with w, and a device that it has reached. -/
def noticeOf (w : Nat) : Arrival := arrive { ty := 8, len := 64, dstQueue := 3, payload := natLe 64 (w * 2 ^ 48) }
def noticed (w : Nat) : State := { up with dieNet := [noticeOf w], tally := 1000000000 }

/-- Post-mortem collection and notices. -/
theorem witness_ErrorsAndResets_records :
    (up.rasw.collecting = none ∧ (collecting false stopping).dbg.dumped = false ∧ (collecting false stopping).inStop = true ∧
     (collecting false up).rasw.collecting ≠ none ∧ (collecting false up).rasw.then_ = [] ∧ (collecting false up).dbg.dumped = false ∧
     (collecting false up).inStop = false ∧ (collecting true stopping).dbg.dumped = true ∧ (collecting true stopping).dbg.short = true ∧
     0 < ((collecting true stopping).wr .rasPmCap 0 0 1).rd .rasPmCap ∧
     (collecting true stopping).dbg.dumpLen ≤ ((collecting true stopping).wr .rasPmCap 0 0 1).rd .rasPmCap * 2 ^ 20 ∧
     ((collecting true stopping).wr .rasPmCap 0 0 0).rd .rasPmCap = 0) ∧
    (up.netTake 8 0 = none ∧ (noticed 0x0300).netTake 8 0 = some (noticeOf 0x0300, { noticed 0x0300 with dieNet := [] }) ∧
     (noticed 0x0301).netTake 8 0 = some (noticeOf 0x0301, { noticed 0x0301 with dieNet := [] }) ∧ payWord (noticeOf 0x0300).pkt 0 / 2 ^ 48 = 0x0300 ∧
     (noticeOf 0x0300).pkt.len = 64 ∧ (noticeOf 0x0300).pkt.dstQueue = 3 ∧ ((noticed 0x0300).comp 3).mode = .running ∧
     48 ≤ (noticeOf 0x0300).pkt.payload.length ∧ payWord (noticeOf 0x0301).pkt 0 / 2 ^ 48 ≠ 0x0300) := by decide +kernel

/-- Resets: begin, in progress and over; a collective of the tile; a warm and a cold reset at their times. -/
theorem witness_ErrorsAndResets_resets :
    (let s (at_ : Option Nat) : State := (stuck 9000).setTile 255 { tallyValid := true, resetAt := at_ }
     ((s none).tile 255).resetAt = none ∧ (s none).colls = [] ∧ ((s (some 9001)).tile 255).resetAt = some 9001 ∧ (s none).tally < 9001 ∧ 9000 ≤ (s none).tally ∧
     (let x : Coll := { collBase id with tile := 255 }
      { s none with colls := [(63, x)] }.colls = [(63, x)] ∧ x.tile = 255 ∧ (s none).rd .collAbortInfoValid 63 = 0)) ∧
    (let s (at_ : Option Nat) : State := { (up.onPort 7 (fun x => { x with resetAt := at_ })) with tally := 9000 }
     (7 : PortId).val < (s none).variant.ports ∧ ((s none).port 7).resetAt = none ∧ ((s (some 9001)).port 7).resetAt = some 9001 ∧ (s none).tally < 9001 ∧
     9000 ≤ (s none).tally ∧ (s none).mod.scanHold = false ∧ ((s (some 9000)).port 7).mode = .disabled) ∧
    (let s : State := { live 9000 with hbmcs := [(15, { resetAt := some 5000 })] }
     (15 : HbmcId).val < s.variant.hbmcs ∧ s.rd .tlyStatusDevValid ≠ 0 ∧ (sget {} 15 s.hbmcs).resetAt = some 5000) ∧
    (let s (plan : Nat) : State := { live 9000 with rasw := { up.rasw with warmPlan := plan } }
     (s 0).rasw.warmPlan = 0 ∧ (s 9002).tally + 1 < (s 9002).rasw.warmPlan ∧ (s 9001).rasw.warmPlan ≠ 0 ∧ (s 9001).rasw.warmPlan ≤ (s 9001).tally + 1 ∧
     (s 9001).skipActive = false) ∧
    (9999 < 10000 ∧ 10000 ≤ 10000 ∧ (live 0).mod.pwrgd = true ∧ (live 0).mod.pwrEn = true ∧ (live 0).mod.tripped = false ∧ (live 0).mod.tripToLog = 0) := by
  decide +kernel

/-! ### Witnesses: long runs (statement O60) -/

/-- A skip in a state, with chunks. -/
def skipping (state : Nat) (f : Skip → Skip := id) (t : Nat := 5000) : State :=
  { up.wr .skpStatusState 0 0 state with
    tally := t
    hbmcs := [(0, { trained := true })]
    skip := f { base := 0x10000000000, dest := 0x10000000000, destDev := 4, size := 64 } }

/-- A chunk of status registers. -/
def chunk (i : Nat) (begun : Bool) (sent : Nat := 0) (resends : Nat := 0) : Chunk := ⟨i, 3, 0, 80 * i, 16, 0, resends, sent, [], begun, false, false⟩

/-- The CRC unit's running value; staging that is due or not, that can answer or meets a source that does not decode. -/
theorem witness_LongRuns_staging :
    (up.crc.value = ([] : List Byte).foldl (crcFeed (up.rd .crcCtrlPoly)) (crcInit (up.rd .crcCtrlPoly))) ∧
    (let s (q t : Nat) (l : List Chunk) : State := (skipping 1 (fun x => { x with chunks := l }) t).wr .skpQuiesceAt 0 0 q
     (skipping 0).rd .skpStatusState ≠ 1 ∧ (s 5000 4999 []).tally < (s 5000 4999 []).rd .skpQuiesceAt ∧ (s 5000 5000 []).rd .skpStatusState = 1 ∧
     (s 5000 5000 []).rd .skpQuiesceAt ≤ (s 5000 5000 []).tally ∧
     (let a := s 5000 5000 [chunk 0 false, ⟨1, 1, 0x10000000000, 80, 128, 0, 0, 0, [], false, false, false⟩]
      (∀ k ∈ a.skip.chunks, k.kind = 0 ∨ k.kind = 3 ∨ ∀ u ∈ spanUnits k.src k.len, (a.wr .tlyStatusDevValid 0 0 1).hfAccess u.1 = .ok) ∧ a.skip.staged = 0 ∧ a.skip.alive < 2 ^ 32) ∧
     (let k : Chunk := ⟨0, 1, 0x0FFFFFF0, 0, 16, 0, 0, 0, [], false, false, false⟩
      let b := s 5000 5000 [k]
      b.skip.chunks[b.skip.staged]? = some k ∧ k.kind = 1 ∧ ∃ u ∈ spanUnits k.src k.len, b.hfAccess u.1 = .undecoded)) ∧
    (let s (host sig : Bool) : State := skipping 2 (fun x => { x with host := host, sigEn := sig, staged := 17, chunks := (List.range 17).map (fun i => chunk i false) })
     (skipping 0).rd .skpStatusState ≠ 2 ∧ (s true true).rd .skpStatusState = 2 ∧ (s true true).skip.staged = (s true true).skip.chunks.length ∧
     (s true true).skip.host = true ∧ (s true true).skip.sigEn = true ∧ (s true false).skip.sigEn = false ∧ (s false true).skip.host = false ∧
     (s false true).skip.chunks.map (fun k => k.index) = List.range (s false true).skip.chunks.length ∧
     (∀ k ∈ (s false true).skip.chunks, k.begun = false ∧ k.shipped = false)) := by decide +kernel

/-- Chunks acknowledged, the last and not; late, at the timeout exactly, and for the ninth time; heartbeats in both modes. -/
theorem witness_LongRuns_shipping :
    (let s (l : List Chunk) : State := skipping 3 (fun x => { x with chunks := l })
     (s []).skip.chunks.find? chunkAcked = none ∧ (s [chunk 0 true]).rd .skpStatusState = 3 ∧
     (s [chunk 0 true]).skip.chunks.find? chunkAcked = some (chunk 0 true) ∧
     (∀ q ∈ (s [chunk 0 true]).skip.chunks, q.index ≠ (chunk 0 true).index → q.shipped = true) ∧
     (let a := s [chunk 0 true, chunk 1 true]
      a.skip.chunks.find? chunkAcked = some (chunk 0 true) ∧ (∃ q ∈ a.skip.chunks, q.index ≠ (chunk 0 true).index ∧ q.shipped = false) ∧ ∀ q ∈ a.skip.chunks, q.begun = true)) ∧
    (let s (t resends : Nat) : State := { skipping 3 (fun x => { x with chunks := [{ chunk 0 true 5000 resends with tags := [1] }] }) t with hfOut := [(1, 5)] }
     let late (s : State) (k : Chunk) : Bool := k.begun && !k.shipped && !chunkAcked k && decide (s.tally ≥ k.sentAt + s.rd .skpShipTimeoutNs)
     let due := 5000 + (s 0 0).rd .skpShipTimeoutNs
     (s due 8).rd .dbgHaltStatusHalted = 0 ∧ (s (due - 1) 0).skip.chunks.find? (late (s (due - 1) 0)) = none ∧
     (∀ r ∈ [7, 8], (s due r).skip.chunks.find? (late (s due r)) = some { chunk 0 true 5000 r with tags := [1] })) ∧
    (let s (host : Bool) (t : Nat) : State := (skipping 3 (fun x => { x with host := host, beatAt := 5000 }) t).wr .tlyStatusDevValid 0 0 1
     (skipping 1).rd .skpStatusState ≠ 2 ∧ (s true 4999).tally < (s true 4999).skip.beatAt ∧ (s true 5000).skip.beatAt ≤ (s true 5000).tally ∧
     (s false 5000).skip.host = false ∧ (s true 5000).skip.host = true ∧ (s true 5000).place ((s true 5000).skip.base + (s true 5000).skip.size) = .hbm 0 64 ∧
     ((s true 5000).skip.base + (s true 5000).skip.size) % 64 = 0 ∧ (s true 5000).hbmReady (hbmcOf 0 64) = true ∧
     (s true 5000).bandHolds ((s true 5000).skip.base + (s true 5000).skip.size) = false ∧ (s true 5000).ecc = []) := by decide +kernel

/-- Numeric-health samples: not due, due with a snapshot pending and none, waiting for the snapshot, and once it has landed. -/
theorem witness_LongRuns_health :
    ((State.reset.comp 5).mode ≠ .running ∧ up.nhWait = none ∧ up.rd .skpNhCfgEn = 0 ∧ ({ up with nhAt := 5001 } : State).tally < 5001) ∧
    (let s := { up with nhAt := 5000 }.wr .skpNhCfgEn 0 0 1
     (s.comp 5).mode = .running ∧ s.nhWait = none ∧ s.rd .skpNhCfgEn ≠ 0 ∧ s.nhAt ≤ s.tally ∧ s.tally + 10000 < 2 ^ 64 ∧ s.rd .tlyStatusSnapPending = 0 ∧
     (s.wr .tlyStatusSnapPending 0 0 1).rd .tlyStatusSnapPending ≠ 0) ∧
    (let s : State := { up with nhWait := some 6 }
     s.nhWait = some 6 ∧ (s.wr .tlySnapSeq 0 0 6).rd .tlySnapSeq = 6 ∧ (s.wr .tlySnapSeq 0 0 7).rd .tlySnapSeq ≠ 6 ∧ s.rd .skpNhAlerts < 2 ^ 64 ∧
     bitOf ((s.wr .skpNhCfgFmtMask 0 0 0x800).rd .skpNhCfgFmtMask) 11 = true ∧ bitOf ((s.wr .skpNhCfgFmtMask 0 0 0x800).rd .skpNhCfgFmtMask) 10 = false) := by decide +kernel

/-! ### Witnesses of further clauses -/

/-- No packet on a ring and no access of the debug port waits in the idle block; PERST# is low at reset. -/
theorem witness_IdleStepIsOneNanosecond_rings : State.reset.ring = [] ∧ State.reset.mod.jtagWait = [] ∧ State.reset.mod.perst = true := by decide +kernel

/-- A module whose rails have been good for n ns, PERST# high. -/
def railsUp (n : Nat) : State :=
  { State.reset with mod := { State.reset.mod with aux := true, pwrEn := true, pwrgd := true, pgAt := 5, refOk := true, perst := false }, time := 5 + n }

/-- The last nanosecond before the effective PERST# deassertion and the one before it (R502). -/
theorem witness_IdleStepIsOneNanosecond_start : (∀ n ∈ [99999998, 99999999],
    let s := railsUp n
    s.pending = [] ∧ s.adit.writes = [] ∧ s.ring = [] ∧ s.mod.jtagWait = [] ∧
    s.mod.pwrgd = true ∧ s.mod.running = false ∧ s.mod.perst = false ∧ s.mod.refOk = true) ∧
    (railsUp 99999998).time + 1 < (railsUp 0).mod.pgAt + 100000000 ∧ (railsUp 0).mod.pgAt + 100000000 ≤ (railsUp 99999999).time + 1 := by decide +kernel

/-- R502: a deassertion 100 ms less 2 ns after MOD_PWRGD is kept, and takes no effect in the next nanosecond. -/
theorem test_perst_early : (match step { (railsUp 99999998).perstDeassert with pending := [] } with
    | .next s => !s.mod.perst && !s.mod.running && s.time == 100000004
    | _ => false) = true := by decide +kernel

/-- TILE_SEL naming the last tile and the first absent one, when QSEL is written. -/
theorem witness_SelectRegistersAreEachAgentsOwn_queue :
    (State.reset.wr .tileSelIndex 0 0 255).rd .tileSelIndex (agentIdx .host) < 256 ∧
    (State.reset.wr .tileSelIndex 0 0 256).rd .tileSelIndex (agentIdx .host) ≥ 256 ∧ (Agent.host = .dbg → False) := by decide +kernel

/-- Offsets of BAR0 that the host may not write or misaligns; a core of a component and one of none; the VALID bit set by hardware and by none. -/
theorem witness_RegisterWrites_clauses :
    (0x2000 % 4 = 0 ∧ hostMay (agentOff .host 0x2000) = false) ∧ sizeOk (agentOff .host 0x2002) 4 = false ∧
    (∀ k ∈ [0, 2], State.reset.actingComp k = none) ∧ Nat.testBit (2 ^ 31) 31 = true ∧ Nat.testBit 0 31 = false ∧
    (State.reset.rd .rasHangInfoValid = 0 ∨ Nat.testBit 0 31 = true) := by decide +kernel

/-- The debug port reads with its grant. -/
theorem witness_RegisterReads_port : ((State.reset.wr .dbgLockOpen 0 0 1).wr .dbgLockPerms 0 0 1).dbgGrant 0 = true ∧
    State.reset.tally < 2 ^ 64 := by decide +kernel

/-- CWR of an offset that names registers, of one that names none, and of the last word of the slot. -/
theorem witness_ControlRegisters_writes :
    let hs (a : Nat) := (hitsAt (crPlace 0 a).1 (crPlace 0 a).2).filter (fun h => cwrAllowed h.f)
    hs 0x8500 = [] ∧ hs 0x8510 ≠ [] ∧ (∃ a, a % 4 = 0 ∧ 4 ≤ a ∧ a < 0x100000 ∧ a ≠ 0x8510 ∧ hs a ≠ []) ∧ hs 0xFFFFC = [] := by
  refine ⟨by decide +kernel, by decide +kernel, ⟨0x8100, by decide +kernel⟩, by decide +kernel⟩

/-- The posting and the taking bank are open, and no branch commits. -/
theorem witness_Posts_room : ∀ nb : Bool,
    let s := withQ 95 (at_ (cw 6 7 1 2 (if nb then 0x100 else 0)) [(1, 0), (2, 2 ^ 35 + 95)])
    s.clearing 0 .cb = false ∧ s.clearing 0 (qBank 95) = false ∧ (∀ i, (s.slot 0 i).mode ≠ .committing) :=
  fun nb => ⟨by cases nb <;> decide +kernel, by cases nb <;> decide +kernel, steady_of (by cases nb <;> decide +kernel) 0⟩

/-- A waiting post whose queue is off. -/
theorem witness_QueueWaitAndPop_off :
    let s := (at_ 0 []).onCore 0 (fun c => { c with wait := .post 31 0 (2 ^ 35 + 95) })
    (s.tile 0).active = true ∧ (s.tile 0).core.wait = .post 31 0 (2 ^ 35 + 95) ∧ s.clearing 0 .cb = false ∧
    s.clearing 0 (qBank (targetQueue (2 ^ 35 + 95))) = false ∧ s.qEnabled 0 (targetQueue (2 ^ 35 + 95)) = false ∧
    (∀ i, (s.slot 0 i).mode ≠ .committing) :=
  ⟨by decide +kernel, by decide +kernel, by decide +kernel, by decide +kernel, by decide +kernel, steady_of (by decide +kernel) 0⟩

/-- Work tagged with a slot that is open and with one that is not; waiting issues whose engine is full. -/
theorem witness_EngineIssue_tags :
    (let s := (at_ 0).onCore 0 (fun c => { c with tagSlot := some 3 })
     s.tagStale 0 ∧ ¬ (at_ 0).tagStale 0) ∧
    (let s := ((at_ 0).onCore 0 (fun c => { c with wait := .ope 5 3 })).onTile 0 (fun x =>
       { x with ope := { x.ope with queue := List.replicate 8 ⟨0, 0, 0, 0, none, false⟩ } })
     (s.tile 0).active = true ∧ (s.tile 0).core.wait = .ope 5 3 ∧ (s.tile 0).ope.queue.length ≥ 8) ∧
    (let s := ((at_ 0).onCore 0 (fun c => { c with wait := .ve 5 })).onTile 0 (fun x =>
       { x with ve := { x.ve with queue := List.replicate 4 { word := 0, n := 0 } } })
     (s.tile 0).active = true ∧ (s.tile 0).core.wait = .ve 5 ∧ (s.tile 0).ve.queue.length + (s.tile 0).ve.fins.length ≥ 4) :=
  ⟨⟨⟨3, by decide +kernel⟩, fun ⟨i, h, _⟩ => by revert h; rw [show ((at_ 0).tile 0).core.tagSlot = none by decide +kernel]; exact nofun⟩,
   by decide +kernel, by decide +kernel⟩

/-- SPEC.OPEN of a held window; SPEC.WAIT of a slot at work; SPEC.RESOLVE of one slot to confirm and one to drop. -/
theorem witness_SpeculativeBranches_more :
    (let w := coreFields (cw 9 3 0 0 0x10F)
     let s := (at_ (cw 9 3 0 0 0x10F)).setSlot 0 2 { mode := .opened, win := 15 }
     s.Fetches 0 .specOpen w ∧ (s.slot 0 2).mode ≠ .free ∧ (s.slot 0 2).win = w.imm8 % 16) ∧
    (let w := coreFields (cw 9 3 0 0 0x408)
     let s := (at_ (cw 9 3 0 0 0x408)).setSlot 0 3 { mode := .opened, live := 1 }
     s.Fetches 0 .specWait w ∧ w.imm8.testBit 3 = true ∧ (s.slot 0 3).live ≠ 0) ∧
    (let w := coreFields (cw 9 3 0 0 0x521)
     let s := ((at_ (cw 9 3 0 0 0x521)).setSlot 0 0 { mode := .opened }).setSlot 0 1 { mode := .opened, win := 1 }
     s.Fetches 0 .specResolve w ∧ w.imm8.testBit 0 = true ∧ w.imm8.testBit 4 = false ∧ w.imm8.testBit 5 = true ∧ s.specExpired 0 0 = false ∧
     (s.slot 0 0).mode = .opened ∧ (s.slot 0 1).confirmed = false) ∧
    (let s := ((at_ 0).setSlot 0 3 { mode := .opened, win := 15, confirmed := true }).onTile 0 (fun x => { x with shadow := [(3 * 16384, 1)] })
     ∃ e ∈ (s.tile 0).shadow, e.1 / 16384 = 3) ∧
    (let s := ((at_ 0).setSlot 0 3 { mode := .committing, win := 15 }).onTile 0 (fun x => { x with shadow := [(3 * 16384, 1), (3 * 16384 + 64, 256)] })
     ssorted (s.tile 0).shadow = true ∧ (s.tile 0).shadow.find? (fun e => e.1 / 16384 == 3) = some (3 * 16384, 1) ∧
     (s.slot 0 3).mode = .committing ∧ s.clearing 0 .sb = false ∧ (∃ e ∈ (s.tile 0).shadow, e.1 / 16384 = 3 ∧ e.1 / 64 ≠ 3 * 16384 / 64)) :=
  ⟨⟨fetches_of (by decide +kernel), by decide +kernel⟩, ⟨fetches_of (by decide +kernel), by decide +kernel⟩,
   ⟨fetches_of (by decide +kernel), by decide +kernel⟩, by decide +kernel, by decide +kernel⟩

/-- An illegal OPE instruction behind one that is yet to complete, and a legal one with a bias. -/
theorem witness_OpeInstructionsStart_more :
    (let s := (opeAt (opeWord 3 0 0 1 1 1 0)).onTile 0 (fun x =>
       { x with ope := { x.ope with fins := [{ ins := ⟨0, 0, 0, 0, none, false⟩, steps := 0, drains := 1 }] } })
     (s.tile 0).ope.fins ≠ [] ∧ (s.opeIllegal 0 ⟨opeWord 3 0 0 1 1 1 0, 2 ^ 62, 0, 0, none, false⟩).isSome = true) ∧
    (let s := opeAt (opeWord 2 0 0 1 1 1 0)
     (s.tile 0).ope.fins = [] ∧ s.clearing 0 .cb = false ∧ s.ecc = [] ∧
     (opeFields ⟨opeWord 2 0 0 1 1 1 0, 2 ^ 62 + 2 ^ 58, 0, 0, none, false⟩).biasEn = true) := by decide +kernel

/-- A panel not staged over good banks, a piece none of whose lines was deferred before, an item for the seam engine, and an aborted instruction. -/
theorem witness_OpeStepsDrainsAndCompletes_more :
    (∃ r, (opeBusy.tile 0).ope.run = some r ∧ (opeFields r.ins).sparse = 0 ∧ opeBusy.ecc = [] ∧ opeBusy.clearing 0 .mb = false) ∧
    (∃ d, (opeBusy.tile 0).ope.drains = d :: [] ∧ d.todo = [] ∧ d.bn + d.nb ≤ (opeFields d.ins).n) ∧
    (opeFields ⟨opeWord 1 0 0 2 1 1 0, 2 ^ 62, 0, 0, none, false⟩).drain = 1 ∧ (opeFields ⟨opeWord 1 0 0 2 1 1 0, 2 ^ 63, 0, 0, none, false⟩).drain = 2 ∧
    (let s := opeBusy.onTile 0 (fun x => { x with ope := { x.ope with fins := x.ope.fins.map (fun n => { n with reason := 0x10 }) } })
     ∃ n, (s.tile 0).ope.fins = n :: [] ∧ n.drains = 0 ∧ n.ins.slot = none ∧ n.reason = 0x10) :=
  ⟨⟨_, rfl, by decide +kernel⟩, ⟨_, rfl, by decide +kernel⟩, by decide +kernel, by decide +kernel, ⟨_, rfl, by decide +kernel⟩⟩

/-- An instruction that poison ended, with health counts, and one whose opcode is not defined. -/
theorem witness_VectorCompletion_more :
    (let s := State.reset.setTile 0 { tallyValid := true, ve := { fins := [{ ins := { word := 0, n := 3 }, reason := 0x10, passes := 3, health := [(4 * 4095 + 3, 2)] }] } }
     ∃ n, (s.tile 0).active = true ∧ (s.tile 0).ve.fins = n :: [] ∧ n.ins.slot = none ∧ n.reason = 0x10 ∧ ∀ e ∈ n.health, e.1 / 4 < 4096) ∧
    (let s := veAt 63 0 0 3
     ∃ i, (s.tile 0).active = true ∧ (s.tile 0).ve.fins = [] ∧ (s.tile 0).ve.queue = i :: [] ∧ i.slot = none ∧ (veFields i.word).op = none) :=
  ⟨⟨_, by decide +kernel, rfl, by decide +kernel⟩, ⟨_, by decide +kernel, by decide +kernel, rfl, by decide +kernel⟩⟩

/-- A stopped tile, one whose replica is not valid, and requests of no core and of no fixed slot. -/
theorem witness_BankAccesses_more :
    (((State.reset.setTile 0 { stopped := true }).tile 0).gated = false ∧ ((State.reset.setTile 0 { stopped := true }).tile 0).stopped = true) ∧
    ((State.reset.tile 0).gated = false ∧ (State.reset.tile 0).tallyValid = false ∧ State.reset.clearing 0 .mb = false) ∧
    (∀ w c, bankReqOk .mb (lastBytes w c) = true ∧ (lastBytes w c).slot = none ∧ (∀ n : Fin 4, (lastBytes w c).who ≠ .hf n) ∧ (lastBytes w c).who ≠ .dbg) := by
  decide +kernel

/-- A correction and a scrub read that were deferred before. -/
theorem witness_BankUpkeep_late :
    (let s := (State.reset.setTile 0 { tallyValid := true }).setBank 0 .sb { writeback := [4], fixLate := true, scrubLate := true }
     (s.bank 0 .sb).writeback = 4 :: [] ∧ s.bankOpen 0 .sb = true ∧ (s.bank 0 .sb).fixLate = true ∧ (s.bank 0 .sb).scrubLate = true) := by decide +kernel

/-- A write that keeps a band's mode, one that changes it, and one that ends the wait of a change; a band that waits to switch. -/
theorem witness_HbmUpkeep_bands :
    (let old (s : State) (band : Nat) : Nat := (slook band s.bandNext).getD (s.bandValue band)
     let s := hbmUp; let n : State := { hbmUp with bandNext := [(35, 3)] }
     s.bandHeld = [] ∧ 0 / 4 ^ (35 % 16) % 4 = old s 35 ∧ 0x40 / 4 ^ (35 % 16) % 4 ≠ old s 35 ∧ n.bandHeld = [] ∧ 0xC0 / 4 ^ (35 % 16) % 4 = old n 35) := by
  decide +kernel

/-- A linear copy whose spans are apart. -/
theorem witness_HoistMoves_apart : let f := hoistFields (hoistDescs.getD 0 [])
    f.src + f.rowBytes ≤ f.dst ∨ f.dst + f.rowBytes ≤ f.src := by decide +kernel

/-- A completion whose signal goes to another tile. -/
theorem witness_HoistCompletes_signal :
    let d := (hoistDescs.getD 0 []).set 6 (2 ^ 35 + 128)
    ∃ r, (hoistRun 0 [] d 0).hoistOf 0 31 = some r ∧ ((hoistRun 0 [] d 0).tile 0).active = true ∧ r.queue = 31 ∧ r.waits = false ∧ r.acks = [] ∧
      r.status = 0 ∧ (hoistFields d).sigEn = true ∧
      ¬ ((hoistRun 0 [] d 0).targetHere (hoistFields d).sigTarget = true ∧ targetTile (hoistFields d).sigTarget = 0) :=
  ⟨_, rfl, by decide +kernel⟩

/-- ACKs to the headframe: one that a component awaits, and one of another generation. -/
theorem witness_PacketsReceived_headframe :
    let p : Packet := { ty := 1, dstTile := 255, tag := 9 }
    let s : State := { arrived p with hfOut := [(9, 3)] }
    let n : State := { arrived p with hfOut := [] }
    s.Arrives 1 0 (arrive p) { s with dieNet := [] } ∧ (arrive p).pkt.dstTile = 255 ∧ (s.tile 255).hoist.active = [] ∧
    (∃ e ∈ s.hfOut, e.1 = p.tag ∧ s.rd .hfCompStatusGen 0 e.2 = p.gen) ∧ n.Arrives 1 0 (arrive p) { n with dieNet := [] } ∧
    (n.tile 255).hoist.active = [] ∧ (∀ e ∈ n.hfOut, e.1 = p.tag → n.rd .hfCompStatusGen 0 e.2 ≠ p.gen) :=
  ⟨rfl, rfl, by decide +kernel, ⟨(9, 3), by decide +kernel⟩, rfl, by decide +kernel, by decide +kernel⟩

/-- A stopped tile and debug access without STATE_WRITE; replicas that are valid and not. -/
theorem witness_TileRegisterWrites_held :
    (let s := State.reset.setTile 0 { tallyValid := true, stopped := true }
     (s.tile 0).stopped = true ∧ s.stateWriteOpen = false) ∧
    (((State.reset.setTile 0 { tallyValid := true }).tile 0).tallyValid = true ∧ 7 % 2 ^ 16 ≠ State.reset.rd .tilePhasePhase 0) ∧
    (State.reset.tile 0).tallyValid = false := by decide +kernel

/-- A host whose link is down; a read of 4,096 bytes and one of a byte more; a line that reads; a write before the firmware is ready. -/
theorem witness_Bar2Accesses_more :
    State.reset.adit.linkUp = false ∧ (hostUp.adit.linkUp = true ∧ ¬ 4096 > 4096 ∧ 4097 > 4096 ∧ 0 + 4097 ≤ 2 ^ (36 + hostUp.adit.bar2Size)) ∧
    (hostUp.adit.writes = [] ∧ 63 % 64 + 1 ≤ 64) ∧ hostUp.accessAt 65 = .ok := by decide +kernel

/-- A module that does not run. -/
theorem witness_HostLinkAndResets_off : ({ State.reset with mod := { State.reset.mod with running := false } } : State).mod.running = false := rfl

/-- The offset within 20 ns since an instant, with and without an instant since which it is within 4 µs, both before 10 ms and at it. -/
theorem witness_TallyAlignment_settle : ∀ st ∈ [0, 1],
    let since (s : State) : Nat := if s.talign.settle = 0 then s.talign.inSince else s.talign.settle
    let s := follower { inSince := 1, settle := st }
    (s 10000000).rd .tlyStatusXdevLocked = 0 ∧ (s 10000000).talign.inSince ≠ 0 ∧ (s 10000000).tally + 1 ≥ since (s 10000000) + 10000000 ∧
    (s 9999999).tally + 1 < since (s 9999999) + 10000000 := by decide +kernel

/-- A snapshot whose counters are copied, and one whose are not; a gated tile and one of its queues. -/
theorem witness_ReplicasAndSnapshots_copied :
    (let s (c : Bool) : State := { State.reset.wr .tlyStatusSnapPending 0 0 1 with
       tally := 200000, snapArmed := 200000, snapCopied := c, tiles := [(4, { gated := true })] }
     (∀ c, (s c).rd .tlyStatusSnapPending ≠ 0 ∧ (s c).tally ≥ (s c).snapArmed ∧ (s c).snapCopied = c) ∧
     (s true).unpowered .tileQPosts (128 * 4 + 127) = true ∧ (s true).unpowered .tileQPosts (128 * 3) = false) := by decide +kernel

/-- A port of the module of two I/O dies that is absent; one in INIT at a FRAMING slot, with a control flit and with nothing to tell. -/
theorem witness_FlitsSent_more :
    let c (s : State) := s.port 7
    ({ port7 { mode := .up } with variant := .m8i2 } : State).variant.ports ≤ (7 : PortId).val ∧
    (c (port7 { mode := .init, slot := 255 })).mode = .init ∧
    (let s := port7 { mode := .init, slot := 254 }
     (c s).mode = .init ∧ (c s).slot < 255 ∧ (c s).ctrl = [] ∧ (c s).peer = none) := by decide +kernel

/-- A good flit and a bad codeword's; ports in INIT and in neither state; nothing sent and no packet open. -/
theorem witness_FlitsReceived_more :
    let c (s : State) := s.port 7
    ((flitOf 1 1).fec.bad = false ∧ (flitOf 1 1).fec.uncorrectable = 0) ∧
    ¬ (({ flitOf 1 1 with fec := { bad := true } } : Flit).fec.bad = false) ∧
    (c (port7 { mode := .init })).mode = .init ∧ ((c (port7 {})).mode ≠ .up ∧ (c (port7 {})).mode ≠ .init) ∧
    ((c (port7 { mode := .up })).sent = [] ∧ (c (port7 { mode := .up })).opens = [] ∧ bitsOf (flitOf 1 1).welt 11 10 ≠ 3) := by decide +kernel

/-- An absent port; LOOPBACK values; a port to retrain in UP and in DOWN; the last INIT flit and one short of it. -/
theorem witness_PortBringUp_more :
    let c (s : State) := s.port 7
    ({ port7 {} with variant := .m8i2 } : State).variant.ports ≤ (7 : PortId).val ∧
    (∀ l ∈ [1, 2], let v := 2 ^ 31 + l * 2 ^ 24
      v.testBit 31 = true ∧ (v / 2 ^ 24 % 4 = 1 ∨ v / 2 ^ 24 % 4 = 2) ∧ v.testBit 30 = false) ∧
    (c (port7 { mode := .up })).mode ≠ .disabled ∧ (c (port7 { mode := .aligning })).mode = .aligning ∧
    (∀ t, let s := port7 { mode := .init, told := t }
      let i : InitInfo := ⟨3, 2, true, [20, 21, 22, 23, 24, 25, 26, 27], true⟩
      (c s).mode = .init ∧ (((c s).acked = true ∨ i.seen = true) ∧ (c s).told = t ∧ ((c s).half = false ∨ i.half = true))) ∧
    (let s : State := { (port7 { mode := .down, since := 3 }).wr .portCtrlAutoRetrain 7 0 1 with tally := 1000003 }
     s.rd .portCtrlEn 7 = 0 ∧ s.rd .portCtrlAutoRetrain 7 ≠ 0) := by decide +kernel

/-- Packets for this die and over a named port; a tile that cannot read; a link with a packet on the ring and one that enters, and with
two that enter, the younger passed over 14 and 15 times. -/
theorem witness_PacketsRouted_rings :
    (({ dstDev := 5 } : Packet).dstDev ≠ 0xFFFFF ∧ ({ dstDev := 5 } : Packet).dstDev = routed.rd .fabDevIdId ∧
      ({ dstDev := 0xFFFFF } : Packet).via = none ∧ ({ dstDev := 0xFFFFF, via := some 7 } : Packet).via = some 7) ∧
    (State.reset.tile 0).active = false ∧
    (let e (n : Nat) : RingPkt := { pkt := {}, path := [1, 600], place := 0, passed := n }
     let o : RingPkt := { pkt := { srcTile := 1 }, path := [1, 600], place := 0, dim := 1 }
     let f : RingPkt := { pkt := { srcTile := 2 }, path := [1, 600], place := 0, last := 9 }
     let s (n : Nat) : State := { State.reset with ring := [e n, o] }
     let two (n : Nat) : State := { State.reset with ring := [f, e n] }
     (∀ n ∈ [14, 15], (s n).ringEligible (e n) = true ∧ (s n).ringEligible o = true ∧ (e n).movedAt ≠ (s n).tally + 1 ∧ (e n).enters = true ∧ o.enters = false ∧
       (s n).ringFirst (e n) = true ∧ (s n).ringFirst o = true ∧ ((s n).ringGrant 0 1).map (·.1) = some 1) ∧
     ((two 14).ringGrant 0 1).map (·.1) = some 0 ∧ ((two 15).ringGrant 0 1).map (·.1) = some 1) := by decide +kernel

/-- The first index past level 0. -/
theorem witness_RoutingTables_past :
    (let s := routed.wr .rtAccAddrIndex 0 0 4096
     s.rd .rtAccAddrIndex ≥ (if s.rd .rtAccAddrLevel = 0 then 4096 else 262144)) := by decide +kernel

/-- A READY that the group holds already; a REPLAY for an idle group. -/
theorem witness_SeamPackets_held :
    (let s (l : List (Nat × Nat × Nat)) : State := { seamFrom id 1 0 0 0 [] with colls := [], collPend := [(0, l)] }
     let r := ((seamHead (seamHeard (s [])).pkt).member, (seamHead (seamHeard (s [])).pkt).sig, (seamHeard (s [])).pkt.tag)
     r ∉ sget [] 0 (s []).collPend ∧ r ∈ sget [] 0 (s [r]).collPend ∧ r ∉ sget [] 0 (s (List.replicate 63 (1, 0, 0))).collPend) ∧
    (let s : State := { seamFrom id 2 1 0 0 [] with colls := [] }
     s.netTake 6 0 (fun p => seamKind p == 2) = some (seamHeard s, { s with dieNet := [] }) ∧ (s.tile (seamHeard s).pkt.dstTile).active = true ∧
     s.fenced (seamHeard s).pkt.dstTile (seamHeard s).pkt.injAt = false ∧ seamOk (seamHeard s).pkt = true ∧
     s.findGroup (seamHead (seamHeard s).pkt).gid (seamHeard s).pkt.dstTile = some 0 ∧ s.coll 0 = none ∧
     (seamHeard s).pkt.tag = s.rd .collSeq 0 ∧ sget [] 0 s.collPend = []) := by decide +kernel

/-- A collective whose step has yet to begin, one that may go to the next, and one in its last step. -/
theorem witness_CollectiveSteps_begin :
    (let x := collBase (fun x => { x with step := 1 })
     x.began < x.step ∧ x.ready = [] ∧ x.rx = [] ∧ x.recvs x.step ≠ []) ∧
    (let x := collBase (fun x => { x with step := 1, began := 1, rcvd := [1] })
     x.began = x.step ∧ x.step < x.steps ∧ x.step ∈ x.rcvd ∧ x.ready = []) ∧
    (∃ x : Coll, x = { begun (seamAt 3 (seamDesc 5 0 4 0)) (seamDesc 5 0 4 0) with step := 1, began := 1, rcvd := [1] } ∧ x.step < x.steps ∧
      x.step ≠ x.reds ∧ x.recvs (x.step + 1) ≠ [] ∧ ∀ a ∈ x.recvs (x.step + 1), x.gotAll a = false) ∧
    (let x := collBase (fun x => { x with step := 2, began := 2, rcvd := [1, 2], narrowed := true, image := four })
     x.step = x.steps ∧ x.began = x.step ∧ x.inputs = true) :=
  ⟨by decide +kernel, by decide +kernel, ⟨_, rfl, by decide +kernel⟩, by decide +kernel⟩

/-- A headframe that sleeps; components that have not started and that failed; a command for one that failed. -/
theorem witness_FirmwareComponents_more :
    ({ up with ic := { up.ic with asleep := true } } : State).ic.asleep = true ∧ up.ic.asleep = false ∧
    ((State.reset.comp 5).mode = .notStarted ∧ (up.setComp 5 { mode := .failed }).comp 5 = { mode := .failed }) ∧ (3 : CompId).val = 3 ∧
    ((running 0x703 5).setComp 5 { mode := .failed }).ic.asleep = false := by decide +kernel

/-- Bands listed twice; entries for stopped and running tiles; ends whose spans or slots do not match; a stage's tiles. -/
theorem witness_ServiceCommands_more :
    (let s := running 0x102 0
     s.bandHeld = [] ∧ s.mbx.features.testBit 8 = true ∧ ∀ e ∈ [(35, 3), (35, 2), (0, 0)], e.1 < 36 ∧ e.2 ≤ 3) ∧
    (∀ e ∈ [(255, 127, 0)], e.1 < 256 ∧ e.2.1 < 128 ∧ ((running 0x104 0).tile e.1).stopped = false) ∧
    (producer.base ≠ { consumer with base := 2 }.base ∧ producer.size ≠ { consumer with size := 3 }.size ∧
     producer.slots ≠ { consumer with slots := 9 }.slots ∧ { producer with slots := 256 }.slots > 255 ∧ { consumer with size := 32769 }.size > 32768) := by
  decide +kernel

/-- PORT_CFG of a port whose buffers it makes too large, and of one that is up. -/
theorem witness_ConfigurationCommands_more :
    (let s := running 0x201 2
     let t := s.rxbufWrite 7 (List.replicate 8 4095)
     s.port 7 = {} ∧ t.rxbufOk 7 = false ∧ ((t.onPort 7 (fun x => { x with mode := .up })).port 7).mode ≠ .disabled) ∧
    (let s := (running 0x209 2).wr .collNM1 63 0 1
     s.rd .collCfgValid 63 = 0 ∧ (schedulePeers (s.rd .collNM1 63 + 1) (orderOf 3 (s.rd .collNM1 63 + 1)) (s.rd .collIndex 63)).length ≤ 64) ∧
    (∀ t b, t < 256 → tilePb t = (15 : PbId).val → (up.bank t b).waiting = []) := by
  refine ⟨by decide +kernel, by decide +kernel, ?_⟩
  intro t b _ _
  show (sget {} (bankIdx b) ((sget {} t ([] : List (Nat × Tile))).banks)).waiting = []
  cases b <;> rfl

/-- Tiles whose reset is still to end and not under way. -/
theorem witness_ManagementCommands_reset_ends :
    let s (e : Nat) : State := running 0x401 3 (fieldBytes [(0, 1), (0, 1), (255, 2)]) (up.setTile 255 { resetAt := some e })
    ((s 5001).tile 255).resetAt = some 5001 ∧ (s 5001).tally < 5001 ∧ ¬ (s 5000).tally < 5000 := by decide +kernel

/-- Accesses of the debug port in each condition: answered, held at a stopped tile and undecoded; pins with the module's enable off. -/
theorem witness_ModuleAndBoot_port :
    let s (x : Tile) : State := ((onModule id (up.setTile 0 x)).wr .dbgLockOpen 0 0 1).wr .dbgLockPerms 0 0 5
    (s { tallyValid := true }).mod.jtagWait = [] ∧ (s { tallyValid := true }).dbgStop 0x40 8 = none ∧ 0x40 + 8 ≤ 0x80000000 ∧
    (s { tallyValid := true, stopped := true }).dbgStop 0x40 8 = some (0x40, .held) ∧
    (s { tallyValid := true }).dbgStop 0x700000 8 = some (0x700000, .undecoded) ∧ ((s {}).rd .dbgLockPerms).testBit 2 = true ∧
    (onModule (fun m => { m with pwrEn := false })).mod.pwrEn = false ∧ (onModule (fun m => { m with aux := false })).mod.aux = false := by decide +kernel

/-- A headframe asleep and in a warm reset; a component whose core has none running; standby with a deliverable source. -/
theorem witness_Interrupts_more :
    (({ up with ic := { up.ic with asleep := true } } : State).ic.asleep = true ∧ ({ up with warmAt := 9 } : State).warmAt ≠ 0) ∧
    ((State.reset.comp 5).mode ≠ .running ∧ (∀ e ∈ (sget [] 2 State.reset.ic.stack).head?, e.1 ≠ 7 % 1024)) ∧
    (∃ c n, c < 4 ∧ (source 7 [(7, true)]).icDeliverable c false n = true) ∧
    (∀ c n, c < 4 → up.icDeliverable c false n = false) :=
  ⟨by decide +kernel, by decide +kernel, ⟨1, 7, by decide +kernel⟩, fun c n _ => by
    rw [State.icDeliverable, show sget false n up.ic.pending = false from rfl]; rfl⟩

/-- Temperatures at the trip point: an I/O die, the headframe, and none; a phase that began before the last interval; a pace to match. -/
theorem witness_Power_clauses :
    let s := live 40000
    let trip := s.rd .pwrTjTrip
    ((∀ x ∈ List.replicate 16 (trip - 1), x < trip) ∧ [trip - 1, trip, trip].findIdx? (fun x => decide (trip ≤ x)) = some 1 ∧ s.mod.pwrgd = true) ∧
    ((∀ x ∈ List.replicate 16 (trip - 1) ++ List.replicate 4 (trip - 1), x < trip) ∧ trip ≤ trip) ∧
    (s.phaseInForce 0).2 < 16384 * (s.tally / 16384 - 1) ∧
    (s.rd .pwrPaceCfgMatchEn = 0 ∨ s.matchTarget = none) ∧ (s.wr .pwrPaceCfgMatchEn 0 0 1).rd .pwrPaceCfgMatchEn ≠ 0 ∧ (∀ k, k < 16 → s.rd .pwrPbCtrlVset k < 4) ∧
    ((((s.wr .pwrPaceDestValid 0 3 1).wr .pwrPaceDestMatch 0 3 1).wr .pwrPaceTblValid 0 5 1).wr .pwrPaceTblPace 0 5 9).matchTarget = some 9 := by
  decide +kernel

/-- RESUME flits: none and no acceptance; a record that is over; a dump that is due with no room and held. -/
theorem witness_StopsAndSampling_more :
    (2 ^ 64 % 2 ^ 64 = 0 ∧ (stopping.wr .dbgHaltCtrlAccept 0 0 0).rd .dbgHaltCtrlAccept = 0 ∧ 77 % 2 ^ 64 ≠ 0 ∧ stopping.rd .dbgHaltCtrlAccept ≠ 0) ∧
    ((stopping (fun x => { x with linkShut := true })).port 0).linkShut = true ∧ up.inStop = false ∧
    (halted 79 1).heldAt [((halted 79 1).dbg.dumpAt, ((halted 79 1).dump 79).1.length)] = none := by decide +kernel

/-- A full log; a tile's report of class 2 with a reset to follow and one without; a hang to collect. -/
theorem witness_ErrorsAndResets_more :
    (¬ ({ reported 0 .port 5 with rasLog := List.replicate 4096 ⟨0, 0, 0, 0, 0, 0, 0, 0, 0⟩ } : State).rasLog.length < 4096) ∧
    (∀ cls ∈ [2, 3], (reported cls .component 5).reportReset ⟨cls, .component, 5, 4, 1, 99⟩ = none) ∧
    (let r : RasReport := ⟨2, .tile, 255, 0x300, 0, 99⟩
     let s : State := { up.wr .rasCfgHangAction 0 0 2 with ras := [r] }
     s.ras = r :: [] ∧ r.code / 256 = 3 ∧ 2 ≤ s.rd .rasCfgHangAction ∧ (s.tile 255).resetAt = none) ∧
    ((stuck 200000000 (fun s => s.wr .rasCfgHangAction 0 0 1)).rd .rasCfgHangAction ≠ 0 ∧ (stuck 200000000).rasw.collecting = none ∧
     (stuck 200000000).rd .rasPmStatusValid = 0 ∧ (stuck 200000000).inStop = false) ∧
    (∀ l ∈ [[(0, 255)], [(4, 0)]], let s : State := { collecting true stopping with rasw := { (collecting true stopping).rasw with then_ := l } }
     s.rasw.collecting ≠ none ∧ s.dbg.dumped = true ∧ s.rasw.then_ = l ∧ (s.tile 255).resetAt = none ∧ s.warmAt = 0 ∧ s.rasw.warmPlan = 0) := by decide +kernel

/-- Staging at a held place, and at a source whose controller is being reset. -/
theorem witness_LongRuns_places :
    let s : State := (skipping 1 (fun x => { x with chunks := [chunk 0 false] })).wr .tlyStatusDevValid 0 0 1
    let h : State := { s with bandNext := [(0, 1)] }
    let k : Chunk := ⟨0, 1, 0x10000000000, 0, 16, 0, 0, 0, [], false, false, false⟩
    let d : State := { s with hbmcs := [(0, { resetAt := some 9 })], skip := { s.skip with chunks := [k] } }
    s.heldAt [(s.skip.base + 0, 64 + roundUp 16 64)] = none ∧ (h.heldAt [(h.skip.base + 0, 64 + roundUp 16 64)]).isSome = true ∧
    (∃ c, d.hfAccess 0x10000000000 = .discarded c) := by
  refine ⟨by decide +kernel, by decide +kernel, ⟨0, by decide +kernel⟩⟩

/-! ### Witnesses of the clauses on the MPU, deferral, speculation and the governor -/

/-- The same device with one MPU region on each core that permits everything (R348). -/
def mapped (s : State := up) : State := { s with boot := { s.boot with mpu := (List.range 4).map (fun (c : Nat) => ⟨c, 0, 0, 2 ^ 48, 7⟩) } }

/-- Its component k alone runs on its core. -/
def alone (k : Nat) : State := mapped { up with comps := [(k, { mode := .running })] }

/-- Accesses that reach the register space, by the core that each clause names; ones that no region permits and that the slot's owner is not. -/
theorem witness_RegisterWrites_reach :
    mapped.Reaches (.hf 1) 0x03000060 4 1 ∧ mapped.Reaches (.hf 3) 0x0A000030 4 1 ∧ mapped.Reaches (.hf 2) 0x2034 4 1 ∧
    mapped.Reaches (.hf 2) 0x05000004 4 1 ∧ mapped.Reaches (.hf 2) 0x05000020 8 1 ∧ mapped.Reaches .host 0x06050000 4 1 ∧
    ((mapped.wr .portSelIndex (agentIdx (.hf 2)) 0 8).rd .portSelIndex (agentIdx (.hf 2)) ≥ mapped.variant.ports ∧ mapped.adit.d3 = false ∧
     ({ mapped with adit := { mapped.adit with d3 := true } } : State).adit.d3 = true ∧ sizeOk (agentOff .host 0x2000) 8 = true ∧
     hostMay (agentOff .host 0x2000) = false) ∧
    (regDecodes 0x03000060 = true ∧ up.ic.asleep = false ∧ up.coreComps 1 = [1] ∧ up.mpuMay 1 (0x200000000 + 0x03000060) 4 1 = false) ∧
    ((alone 3).coreComps 3 = [3] ∧ (alone 3).mpuMay 3 (0x200000000 + 0x03000060) 4 1 = true ∧ compMayWrite 3 0x03000060 = false) := by
  refine ⟨⟨rfl, by decide +kernel, fun _ => by decide +kernel⟩, ⟨rfl, by decide +kernel, fun _ => by decide +kernel⟩,
    ⟨rfl, by decide +kernel, fun _ => by decide +kernel⟩, ⟨rfl, by decide +kernel, fun _ => by decide +kernel⟩,
    ⟨rfl, by decide +kernel, fun _ => by decide +kernel⟩, rfl, by decide +kernel, by decide +kernel, by decide +kernel⟩

/-- Reads that reach, by each agent; one that no region permits; a host whose link is up. -/
theorem witness_RegisterReads_reach :
    (∀ p ∈ [(0x2000, 4), (0x2004, 4), (0x2000, 8)], mapped.Reaches .host p.1 p.2 0 ∧ mapped.Reaches (.hf 0) p.1 p.2 0) ∧
    mapped.Reaches (.hf 3) 0x03000060 4 0 ∧ (up.coreComps 1 = [1] ∧ up.mpuMay 1 (0x200000000 + 0x2000) 4 0 = false) ∧ hostUp.adit.linkUp = true := by
  refine ⟨fun p hp => ⟨rfl, rfl, ?_, fun h => absurd h (by decide)⟩, ⟨rfl, by decide +kernel, fun h => absurd h (by decide)⟩, by decide +kernel, rfl⟩
  revert p; decide +kernel

/-- A store of eight bytes that waits at a clearing bank, and one that waits behind a request. -/
theorem witness_Stores_waits :
    let w := coreFields (cw 3 3 1 2 0)
    let s := (at_ (cw 3 3 1 2 0) [(1, 0x1FFFF8), (2, 7)]).setBank 0 .ma { clearing := some 0 }
    let q := (at_ (cw 3 3 1 2 0) [(1, 0x1FFFF8), (2, 7)]).setBank 0 .ma { waiting := [{ req := lastBytes false 4 }] }
    s.Fetches 0 .store w ∧ coreAddr 0 (s.effAddr 0 w) (2 ^ (w.rd % 4)) = .ok (.ma, 0x1FFFF8) ∧ s.mark (spdAddr 0 .ma (0x1FFFF8 / 8 * 8)) = 0 ∧
    w.rd % 4 = 3 ∧ s.clearing 0 .ma = true ∧ q.Fetches 0 .store w ∧ q.clearing 0 .ma = false ∧ (q.bank 0 .ma).waiting ≠ [] :=
  ⟨fetches_of (by decide +kernel), addr_of (by decide +kernel), by decide +kernel, by decide +kernel, by decide +kernel, fetches_of (by decide +kernel),
   by decide +kernel, by decide +kernel⟩

/-- A tile's source with EN and without. -/
theorem witness_CoreFaults_reported : (at_ 0).on .icSrcCfgEn 0 0 = false ∧ ((at_ 0).wr .icSrcCfgEn 0 0 1).on .icSrcCfgEn 0 0 = true := by decide +kernel

/-- A request of core 1 that its MPU blocks, with no component there; requests that no MPU stops; a replica that is not valid; a stopped clear. -/
theorem witness_BankAccesses_blocked :
    (let s := State.reset.setTile 0 { tallyValid := true }
     ∀ w, let r := { lastBytes w 3 with who := .hf 1 }
       bankReqOk .mb r = true ∧ r.who = .hf 1 ∧ s.mpuMay 1 (spdAddr 0 .mb r.off) r.len (b2n r.write) = false ∧ s.coreComps 1 = [] ∧ (s.bank 0 .mb).waiting = [] ∧
       s.mpuStops (lastBytes w 3).who (spdAddr 0 .mb r.off) r.len r.write = false ∧
       mapped.mpuStops (.hf 1) (spdAddr 0 .mb r.off) r.len r.write = false) ∧
    (State.reset.tile 0).tallyValid = false ∧
    (let s := (State.reset.setTile 0 { tallyValid := true, stopped := true }).setBank 0 .vb { clearing := some 5 }
     (s.tile 0).stopped = true ∧ (s.bank 0 .vb).clearing = some 5) := by decide +kernel

/-- A controller access of core 1 that its MPU blocks, and one that none does. -/
theorem witness_HbmAccesses_blocked : ∀ w p, let r := { hbmReq w p with who := .hf 1 }
    r.who = .hf 1 ∧ hbmUp.mpuMay 1 r.addr r.len (b2n r.write) = false ∧ hbmUp.coreComps 1 = [] ∧
    hbmUp.mpuStops (hbmReq w p).who (hbmReq w p).addr (hbmReq w p).len (hbmReq w p).write = false := by decide +kernel

/-- Step periods that the governor at 16 of 64 leaves and holds; a refused piece of a row with eight lines' answers. -/
theorem witness_OpeStepsDrainsAndCompletes_periods :
    (let s (j : Nat) := (opeBusy.wr .pwrPbCtrlIssue (tilePb 0) 0 16).onTile 0 (fun x => { x with period := j })
     (s 2).govLets 0 = false ∧ (s 3).govLets 0 = true ∧ ((s 3).tile 0).active = true) ∧
    (opeBusy.issueEff (tilePb 0) = 64 ∧ opeBusy.govLets 0 = true) ∧
    ((List.replicate 8 false).length ≥ 8 ∧ ∀ g ∈ List.replicate 8 false, g = false) := by decide +kernel

/-- A committing slot with steps taken under its tag. -/
theorem witness_SpeculativeBranches_steps :
    let s := (at_ 0).setSlot 0 3 { mode := .committing, win := 15, steps := 3 }
    (s.tile 0).active = true ∧ (s.slot 0 3).mode = .committing ∧ s.clearing 0 .sb = false ∧ (∀ e ∈ (s.tile 0).shadow, e.1 / 16384 ≠ 3) ∧
    (s.slot 0 3).steps = 3 := by decide +kernel

/-- An endpoint whose peer and semaphore a SEM.SIGR names, and none. -/
theorem witness_Semaphores_vc :
    let s := at_ (cw 6 0 1 2 0x405) [(1, 4), (2, 2 ^ 35 + 128)]
    let e := (((s.wr .tileEpEn 0 3 1).wr .tileEpPeerLocal 0 3 1).wr .tileEpPeerTile 0 3 1).wr .tileEpPeerSem 0 3 5 |>.wr .tileEpVc 0 3 5
    s.signalVc 0 5 (2 ^ 35 + 128) = 2 ∧ e.signalVc 0 5 (2 ^ 35 + 128) = 5 ∧ (∀ k, k < 16 → s.on .tileEpEn 0 k = false) := by decide +kernel

/-- Packets for a stopped tile. -/
theorem witness_PacketsReceived_stopped : ∀ ty ∈ [1, 5], let p : Packet := { ty := ty, tag := 1 }
    let s := arrived p (State.reset.setTile 0 { tallyValid := true, stopped := true })
    s.Arrives ty 0 (arrive p) { s with dieNet := [] } ∧ (s.tile (arrive p).pkt.dstTile).stopped = true := by
  intro ty ht
  simp only [List.mem_cons, List.not_mem_nil, or_false] at ht
  rcases ht with rfl | rfl <;> exact ⟨rfl, by decide +kernel⟩

/-- A write wholly beyond BAR2, in two TLPs; a function in D3hot; a stop. -/
theorem witness_Bar2Accesses_beyond :
    (2 ^ 36 ≥ 2 ^ (36 + hostUp.adit.bar2Size) ∧ 0 < (List.replicate 129 (0 : Byte)).length ∧
      ceilDiv (List.replicate 129 (0 : Byte)).length (128 * 2 ^ ({ hostUp.adit with payload := 0 } : Adit).payload) = 2) ∧
    hostUp.adit.d3 = false ∧ hostUp.inStop = false ∧
    (hostUp.adit.uncMask.testBit 20 = false ∧ ({ hostUp.adit with uncMask := 2 ^ 20 } : Adit).uncMask.testBit 20 = true) := by decide +kernel

/-- Vector 2047 with a message of the same instant and with none; a function in D3hot; a table entry. -/
theorem witness_MsixVectors_instant :
    let s (a : Adit) : State := { State.reset with time := 9, adit := a }
    let v := (2047 : Fin 2048).val
    (s { msixEn := true, busMaster := true, sentAt := 10, sentVecs := [v] }).msixNow v = true ∧
    (s { msixEn := true, busMaster := true, sentAt := 9, sentVecs := [v] }).msixNow v = false ∧
    (s { d3 := true }).adit.d3 = true ∧ (s { linkUp := true }).adit.d3 = false ∧ (s { linkUp := true }).adit.linkUp = true ∧
    sget 0 (4 * v + 2) (s { table := [(4 * v + 2, 7)] }).adit.table = 7 := by decide +kernel

/-- A receiver in ALIGNING, and one in UP with no packet just closed; an empty link record; the replay limit reached in the instant. -/
theorem witness_Ports_more :
    let c (s : State) := s.port 7
    ((c (port7 { mode := .aligning })).mode = .aligning ∧ (c (port7 { mode := .training })).mode = .training) ∧
    ((c (port7 { mode := .up })).tail = none ∧ (c (port7 { mode := .up })).halted = false ∧ (c (port7 { mode := .up })).record = [] ∧
     (c (port7 { mode := .up })).late = []) ∧
    (let s := port7 { mode := .up, tries := 15, sent := [⟨[], 1, 2, 0, 0, 7, true, 0, []⟩] }
     (c s).sent ≠ [] ∧ s.tally ≥ (c s).ackAt + s.rd .portRetryCfgReplayNs 7 ∧ (c s).tries + 1 ≥ s.rd .portRetryCfgLimit 7 ∧
     s.tally ≥ (c s).crcAt + 2000 ∧ (c s).resetAt = none) ∧
    (up.on .icSrcCfgEn 0 (320 + 7) = false ∧ (up.wr .icSrcCfgEn 0 327 1).on .icSrcCfgEn 0 (320 + 7) = true) := by decide +kernel

/-- A packet that may go, one behind an older of its source and VC, the SEAM packets of two groups in turn, and one of a stopped tile. -/
theorem witness_PacketsRouted_turns :
    (let p : Packet := { dstDev := 5, tag := 1 }
     let q : Packet := { dstDev := 5, tag := 2 }
     let s : State := { routed with outbox := [p, q] }
     s.outbox.length ≤ 2 ∧ s.outbox[0]? = some p ∧ s.outbox[1]? = some q ∧ p.ty ≠ 6 ∧ q.ty ≠ 6 ∧ packetFrom q = packetFrom p ∧ q.vc = p.vc ∧
     packetFrom p = .tile p.srcTile ∧ (s.tile p.srcTile).stopped = false ∧
     ((s.setTile 0 { stopped := true }).tile p.srcTile).stopped = true) ∧
    (let p (g : Nat) : Packet := { ty := 6, payload := natLe 8 0 ++ natLe 8 (g * 2 ^ 48) }
     let after (s : State) (q : Packet) : Nat := (seamGid q + 65535 - (s.tile 0).seamTurn) % 65536
     let s : State := { routed with outbox := [p 3, p 9] }.onTile 0 (fun x => { x with seamTurn := 3 })
     seamGid (p 3) ≠ seamGid (p 9) ∧ after s (p 9) ≤ after s (p 3) ∧ after s (p 3) ≠ after s (p 9)) := by decide +kernel

/-- Packets that a port may yet lengthen and that it may not; one for the die of the port; a closed way on; a read of two lines at the limit of 1,024. -/
theorem witness_PacketsRouted_waits :
    (let r : RxPkt := ⟨{ dstDev := 6 }, 2, 1, 9⟩
     let s (tail : Option Nat) (halted : Bool) : State := { routed with ports := [(0, { mode := .up, rxq := [r], tail := tail, halted := halted })] }
     ((s (some 2) false).port 0).mode = .up ∧ ((s (some 2) false).port 0).tail = some r.vc ∧ ((s (some 3) false).port 0).tail ≠ some r.vc ∧
     ((s none false).port 0).rxq = r :: [] ∧ ((s none true).port 0).halted = true ∧ (s none false).route 6 0 = some 7 ∧ ((s none false).port 7).mode ≠ .up ∧
     r.pkt.hops + 1 ≤ (s none false).rd .fabHopLimit ∧ badHeader r.pkt r.vc = none ∧ (8 ≤ r.pkt.ty ↔ r.vc < 2)) ∧
    (let r : RxPkt := ⟨{ ty := 8, vc := 0, dstDev := 0xFFFFF }, 0, 1, 9⟩
     badHeader r.pkt r.vc = none ∧ (8 ≤ r.pkt.ty ↔ r.vc < 2) ∧ r.pkt.dstDev = 0xFFFFF ∧ ringPath (.ioDie (0 / 2)) .headframe = []) ∧
    (let s (n : Nat) : State := routed.onTile 0 (fun x => { x with hoist := { x.hoist with reads := List.replicate n 5 } })
     max 1 (linesOf 63 2) = 2 ∧ ((s 1022).tile 0).hoist.reads.length + 2 ≤ 1024 ∧ ((s 1023).tile 0).hoist.reads.length + 2 > 1024 ∧ ((s 0).tile 0).active = true) := by
  decide +kernel

/-- Packets of every kind from before the fence, of a group that is bound and of none. -/
theorem witness_SeamPackets_fenced : ∀ k ∈ [0, 1, 2, 3],
    let s := (seamFrom id k 0 0 0 []).wr .tileGenAt 0 0 1000000000
    let n := s.wr .collCfgValid 0 0 0
    s.netTake 6 0 (fun p => seamKind p == k) = some (seamHeard s, { s with dieNet := [] }) ∧ (s.tile (seamHeard s).pkt.dstTile).active = true ∧
    s.fenced (seamHeard s).pkt.dstTile (seamHeard s).pkt.injAt = true ∧ s.findGroup (seamHead (seamHeard s).pkt).gid (seamHeard s).pkt.dstTile = some 0 ∧
    n.netTake 6 0 (fun p => seamKind p == k) = some (seamHeard n, { n with dieNet := [] }) ∧ n.fenced (seamHeard n).pkt.dstTile (seamHeard n).pkt.injAt = true ∧
    n.findGroup (seamHead (seamHeard n).pkt).gid (seamHeard n).pkt.dstTile = none := by decide +kernel

/-- A REPLAY of a step that the run has not begun. -/
theorem witness_SeamPackets_early : let s := seamFrom id 2 1 0 0 []
    s.SeamArrives 2 0 (seamHeard s) { s with dieNet := [] } 0 (collBase id) ∧ (collBase id).kept = [] ∧ (seamHead (seamHeard s).pkt).step > (collBase id).began :=
  ⟨arrives_of (by decide +kernel), by decide +kernel⟩

/-- Component 0 that FAILED with a command of its own, and one that starts again; a headframe that sleeps. -/
theorem witness_MailboxChannels_failed :
    let s (m : CompMode) : State := ({ request up 0x0002 [] with mbx := { up.mbx with latched := [(3, 5000)] } } : State).setComp 0 { mode := m }
    ((s .failed).comp 0).mode = .failed ∧ (s .failed).ic.asleep = false ∧ (s .failed).mbx.latched = [(3, 5000)] ∧
    (ycpOf ((s .failed).reqNat 3 0 2)).map (fun k => k.1) = some 0 ∧ ((s .restarting).comp 0).mode ≠ .running ∧ ((s .restarting).comp 0).mode ≠ .failed := by
  decide +kernel

/-- A component that is watched and one whose watcher does not run; no data area; the RAS agent's fault with its source enabled and in a restart; a
headframe that sleeps. -/
theorem witness_FirmwareComponents_watched :
    (∀ k : CompId, (up.comp (if k.val = 3 then 0 else 3)).mode = .running ∧ (up.comp k).mode = .running ∧ up.ic.asleep = false) ∧
    (((up.setComp 3 { mode := .failed }).comp (if (5 : CompId).val = 3 then 0 else 3)).mode ≠ .running) ∧
    (∀ a ∈ up.boot.areas, a.2.1 + a.2.2 ≤ mbxKey 0 0) ∧ (∀ a ∈ [(5, mbxKey 0 0 - 64, 64)], a.2.1 + a.2.2 ≤ mbxKey 0 0) ∧
    (let s := (up.setComp 3 { mode := .restarting }).wr .icSrcCfgEn 0 431 1
     (s.comp 3).mode = .restarting ∧ s.ic.asleep = false ∧ s.on .icSrcCfgEn 0 431 = true) ∧
    ({ up with ic := { up.ic with asleep := true } } : State).ic.asleep = true := by decide +kernel

/-- A tile whose replica is not valid. -/
theorem witness_ServiceCommands_clear : (((running 0x103 0).setTile 255 { tallyValid := true }).tile 255).tallyValid = true ∧ ((running 0x103 0).tile 255).tallyValid = false := by
  decide +kernel

/-- GROUP_CFG of a second group of a GID and tile, whose map entries read; GROUP_ORDER of an empty map. -/
theorem witness_ConfigurationCommands_twin :
    (let s := ((((running 0x207 2).setTile 0 { tallyValid := true }).wr .collCfgValid 5 0 1).wr .collCfgGid 5 0 65535).wr .collCfgTile 5 0 255
     let peers := schedulePeers (groupIn true).n (orderOf (s.rd .collOrderMode 63) (groupIn true).n) (groupIn true).index
     groupBad (groupIn true) = false ∧ groupBad (groupIn false) = false ∧ (5 < 64 ∧ 5 ≠ (63 : GroupId).val ∧ s.rd .collCfgValid 5 ≠ 0 ∧
       s.rd .collCfgGid 5 = (groupIn true).gid ∧ s.rd .collCfgTile 5 = (groupIn true).tile) ∧
     peers ≠ [] ∧ (∀ m ∈ peers, s.okBytes ((groupIn true).map + 4 * m) 4 = 4) ∧ s.ecc = [] ∧ s.tiles.all (fun e => e.2.slots.isEmpty) = true) := by decide +kernel

/-- RESET of the RAS agent itself, over; a record to read; an unlock by an unknown key; a plan and a scan in and outside a skip. -/
theorem witness_ManagementCommands_order :
    (let s := running 0x401 3 (fieldBytes [(3, 1), (0, 1), (3, 2)]) up true
     runsOk s 0x401 3 true = true ∧ s.rasw.cmdGen = none ∧ s.pay 3 0 1 = 3 ∧ s.pay 3 2 2 = 3 ∧ s.pay 3 1 1 = 0) ∧
    (let s := mapped { ((running 0x403 3).wr .rasPmStatusValid 0 0 1).wr .rasPmStatusLength 0 0 2 |>.wr .tlyStatusDevValid 0 0 1 |>.wr .rasPmBase 0 0 0x10000000000 with
       hbmcs := [(0, { trained := true })] }
     s.rd .rasPmStatusValid ≠ 0 ∧ 64 < 64 * s.rd .rasPmStatusLength ∧ s.mpuMay 3 (s.rd .rasPmBase + 64) (min 8160 (128 - 64)) 0 = true ∧
     (∀ u ∈ spanUnits (s.rd .rasPmBase + 64) (min 8160 (128 - 64)), s.hfAccess u.1 = .ok) ∧ s.ecc = []) ∧
    (let s := running 0x502 4 [1]
     (s.dbg.nonce ≠ some (((s.payBytes 3 0 256).drop 64).take 32) ∧ s.tally < s.dbg.nonceAt + 300000000000 ∧ leNat (((s.payBytes 3 0 256).drop 96).take 4) = 0) ∧
     ∀ key, sigOk key ((s.payBytes 3 0 256).take 160) ((s.payBytes 3 0 256).drop 160) = false) ∧
    (let s := running 0x602 5 (fieldBytes [(0x100, 8), (9, 8), (3, 1)]) (up.setTile 0 { tallyValid := true })
     s.decodes 0x100 9 = true ∧ (s.wr .skpStatusState 0 0 2).rd .skpStatusState = 2 ∧ (s.wr .skpStatusState 0 0 2).decodes 0x100 9 = true ∧
     (running 0x602 5).pay 3 16 1 ≤ 3) := by
  refine ⟨by decide +kernel, by decide +kernel, ⟨by decide +kernel, fun key => ?_⟩, by decide +kernel⟩
  have h : sigRange (beNat ((((running 0x502 4 [1]).payBytes 3 0 256).drop 160).take 48)) = false := by decide +kernel
  simp only [sigOk, h, Bool.false_and]

/-- FW_ACTIVATE with the identity key and without it. -/
theorem witness_ManagementCommands_activate :
    (running 0x702 0).rd .secStatusIdValid = 0 ∧
    (let s := (running 0x702 0).wr .secStatusIdValid 0 0 1
     s.rd .secStatusIdValid ≠ 0 ∧ s.imgCheck (if s.boot.image = some 0 then 1 else 0) true ≠ 0) := by decide +kernel

/-- READY while the headframe sleeps; test-port pins of a module whose link is down, and of one that runs. -/
theorem witness_ModuleAndBoot_asleep :
    ({ onModule id with ic := { up.ic with asleep := true } } : State).ic.asleep = true ∧ (onModule id).ic.asleep = false ∧
    (onModule id).mod.running = true ∧ (onModule (fun m => { m with running := false })).adit.linkUp = false := by decide +kernel

/-- Completions by components that are not the RAS agent and by it; a save bank; vectors of no message in the instant. -/
theorem witness_Interrupts_banks :
    (let s := source 7 [(7, true)] (fun i => { i with stack := [(2, [(9, 1), (7, 3)])], banks := [(2, [(9, 4), (7, 2)])] })
     sget [] ([0, 1, 2, 3, 0, 2].getD (5 : CompId).val 0) s.ic.stack = (9, 1) :: [(7, 3)] ∧ (sget [] 2 s.ic.banks).length = 2 ∧ s.ic.asleep = false ∧
     (s.comp 5).mode = .running) ∧
    (let s := (source 463 []).wr .icSrcCfgFwd 0 463 1
     s.msixNow (64 + 463) = false ∧ s.adit.d3 = false) := by decide +kernel

/-- Loop intervals while component 1 runs and does not, and of a device whose windows have closed; a slew while it does not run. -/
theorem witness_Power_runs :
    (let s : State := { live 40000 with pwr := { up.pwr with windows := 8 } }
     (s.comp 1).mode = .running ∧ s.ic.asleep = false ∧ 16384 * (s.pwr.interval + 1) ≤ s.tally ∧ s.pwr.windows ≠ 0 ∧
     ((s.phaseInForce 0).2 < 16384 * (s.tally / 16384 - 1) ∨ (s.phaseInForce 0).2 = 0)) ∧
    (((live 40000).setComp 1 { mode := .restarting }).comp 1).mode ≠ .running ∧
    ({ live 40000 with ic := { up.ic with asleep := true } } : State).ic.asleep = true := by decide +kernel

/-- Links with no record to deliver; a PCS sample due at its mark, one nanosecond after it and not. -/
theorem witness_StopsAndSampling_mark :
    (∀ p, (stopping.port p).late = [] ∧ (stopping.port p).record = []) ∧
    (let s (t n : Nat) : State := { (up.wr .dbgPcsCfgEn 0 0 1) with tally := t, dbg := { up.dbg with pcsNext := n } }
     let iv := max 1000 ((s 0 0).rd .dbgPcsIntervalNs)
     let mark (t : Nat) : Nat := t / iv * iv
     (s 20000 0).tally ≤ mark 20000 + 1 ∧ (s 20000 0).dbg.pcsNext ≤ mark 20000 ∧ (s 20001 20000).tally ≤ mark 20001 + 1 ∧
     (s 20001 20000).dbg.pcsNext ≤ mark 20001 ∧ ¬ (s 20001 20001).dbg.pcsNext ≤ mark 20001 ∧ ¬ (s 20002 0).tally ≤ mark 20002 + 1) := by
  refine ⟨fun p => ?_, by decide +kernel⟩
  have h : stopping.ports.all (fun e => e.2.late.isEmpty && e.2.record.isEmpty) = true := by decide +kernel
  unfold State.port sget
  cases e : slook p stopping.ports with
  | none => exact ⟨rfl, rfl⟩
  | some x => have := List.all_eq_true.mp h _ (slook_mem e); simpa using this

/-- Reports of class 4, of a component fault whose component is reset, and to a headframe that sleeps. -/
theorem witness_ErrorsAndResets_classes :
    (let s := reported 4 .headframe 0
     s.ras = [⟨4, .headframe, 0, 4, 1, 99⟩] ∧ (s.comp 3).mode = .running ∧ s.ic.asleep = false ∧ s.rasLog.length < 4096) ∧
    (let r : RasReport := ⟨2, .component, 5, 1, 1, 99⟩
     let s : State := { up with ras := [r] }
     s.ras = r :: [] ∧ r.cls = 2 ∧ r.kind = .component ∧ r.inst = (5 : CompId).val ∧ r.code = 1 ∧ (s.comp 5).mode = .running) ∧
    ({ reported 2 .port 5 with ic := { up.ic with asleep := true } } : State).ic.asleep = true := by decide +kernel

/-- Collections while a stop of another purpose holds, with its dump yet to be written and with none; a record that fits its place. -/
theorem witness_ErrorsAndResets_collects :
    (let s (at_ : Nat) : State := { collecting false stopping with dbg := { stopping.dbg with purpose := 1, dumpAt := at_ } }
     (s 64).rasw.collecting ≠ none ∧ (s 64).inStop = true ∧ (s 64).dbg.purpose = 1 ∧ (s 64).dbg.dumpAt ≠ 0 ∧ (s 64).dbg.dumped = false ∧
     ¬ ((s 0).dbg.purpose = 1 ∧ (s 0).dbg.dumpAt ≠ 0 ∧ (s 0).dbg.dumped = false) ∧ (s 0).dbg.purpose ≠ 2) ∧
    (let s : State := mapped { (collecting true stopping).wr .rasPmCap 0 0 0 with dbg := { stopping.dbg with purpose := 2, dumped := true, dumpLen := 0 } }
     let cap := s.rd .rasPmCap * 2 ^ 20
     let base := s.rd .rasPmBase
     s.dbg.purpose = 2 ∧ s.dbg.dumped = true ∧ s.dbg.dumpLen ≤ cap ∧ (∀ a, base ≤ a → a < base + cap → s.accessAt a = .ok) ∧
     (∀ a n, base ≤ a → a + n ≤ base + cap → s.mpuMay 3 a n 1 = true)) := by
  have e : (mapped { (collecting true stopping).wr .rasPmCap 0 0 0 with dbg := { stopping.dbg with purpose := 2, dumped := true, dumpLen := 0 } }).rd .rasPmCap = 0 := by
    decide +kernel
  have f : (mapped { (collecting true stopping).wr .rasPmCap 0 0 0 with dbg := { stopping.dbg with purpose := 2, dumped := true, dumpLen := 0 } }).mpuMay 3 0 0 1 = true := by
    decide +kernel
  have g : (mapped { (collecting true stopping).wr .rasPmCap 0 0 0 with dbg := { stopping.dbg with purpose := 2, dumped := true, dumpLen := 0 } }).rd .rasPmBase = 0 := by
    decide +kernel
  refine ⟨by decide +kernel, rfl, rfl, by decide +kernel, fun a h k => ?_, fun a n h k => ?_⟩
  · rw [e] at k; omega
  · rw [e, g] at k
    obtain ⟨rfl, rfl⟩ : a = 0 ∧ n = 0 := by omega
    exact f

/-- A skip and numeric health while the headframe sleeps and not; a chunk at a held place; a sample with one format above its thresholds. -/
theorem witness_LongRuns_more :
    (({ up with ic := { up.ic with asleep := true } } : State).ic.asleep = true ∧ up.ic.asleep = false) ∧
    (let k : Chunk := ⟨0, 1, 0x10000000000, 0, 16, 0, 0, 0, [], false, false, false⟩
     let s : State := { (skipping 1 (fun x => { x with chunks := [k] })).wr .tlyStatusDevValid 0 0 1 with bandNext := [(0, 1)] }
     s.skip.chunks[s.skip.staged]? = some k ∧ k.kind = 1 ∧ (s.heldAt [(s.skip.base + k.off, 64 + roundUp k.len 64)]).isSome = true) ∧
    (let k : Chunk := ⟨0, 1, 0x0FFFFFF0, 0, 16, 0, 0, 0, [], false, false, false⟩
     ∀ u ∈ spanUnits k.src k.len, (skipping 1 (fun x => { x with chunks := [k] })).hfAccess u.1 ≠ .held) ∧
    (let s : State := { (up.wr .skpNhCfgFmtMask 0 0 0x800).wr .tlySnapSeq 0 0 7 |>.wr .dbgShadowSeq 3 0 7 with
       nhWait := some 6, nhLast := some ⟨6, 1000, [3], []⟩, shadows := [(fkey .tileNhOvf 3 11, 9), (fkey .tileNhTotal 3 11, 10)] }
     let old : NhSample := s.nhLast.getD ⟨0, 0, [], []⟩
     let now := (List.range 256).filter (fun t => s.rd .dbgShadowSeq t == s.rd .tlySnapSeq)
     let tiles := now.filter (fun t => old.tiles.contains t)
     let rise (f : Field) (fmt : Nat) : Nat := (tiles.map (fun t =>
       (2 ^ 64 + sget 0 (fkey f t fmt) s.shadows - sget 0 (fkey f t fmt) old.shadows) % 2 ^ 64)).foldl (· + ·) 0
     let share (f : Field) (fmt : Nat) : Nat := if rise .tileNhTotal fmt = 0 then 0 else 1000000 * rise f fmt / rise .tileNhTotal fmt
     let above (fmt : Nat) : Bool := decide (s.rd .skpNhOvfPpm < share .tileNhOvf fmt) || decide (s.rd .skpNhVanishPpm < share .tileNhVanish fmt)
     s.nhWait = some 6 ∧ s.rd .tlySnapSeq ≠ 6 ∧ (List.range 12).filter (fun g => bitOf (s.rd .skpNhCfgFmtMask) g && above g) = [11] ∧
     (s.rd .mbxEvtHead 63 + 256 - s.rd .mbxEvtTail 63) % 256 ≠ 128) := by decide +kernel

/-! ### Numbers that the manual gives -/

/-- R470's check values of the four codes over "123456789". -/
theorem test_crc_check_values : let l := [0x31, 0x32, 0x33, 0x34, 0x35, 0x36, 0x37, 0x38, 0x39]
    crcOf 0 l = 0xCBF43926 ∧ crcOf 1 l = 0xE3069283 ∧ crcOf 2 l = 0x6C40DF5F0B497347 ∧ crcOf 3 l = 0x29B1 := by decide +kernel

/-- The examples after R21 and R52: tile 200's banks, and the M6-I4's address 0x0103_0000_A100 in both band modes, and the top of its HBM. -/
theorem test_addresses :
    State.reset.place 0x64200000 = .spd 200 .mb 0 ∧ tilePb 200 = 14 ∧
    (let s : State := { State.reset with variant := .m6i4 }
     let b := s.wr .hbmBandMode0 0 0 (1 * 4 ^ 2)
     (s.wr .hbmBandMode0 0 0 0).place 0x1030000A100 = .hbm 4 0x80001100 ∧ hbmcOf 4 0x80001100 = 9 ∧ b.place 0x1030000A100 = .hbm 0 0x8000A100 ∧
     hbmcOf 0 0x8000A100 = 1 ∧ s.place 0x135FFFFFFFF ≠ .undecoded ∧ s.place 0x13600000000 = .undecoded) := by decide +kernel

/-- The example after R338: BAR2 of 256 GiB with bases 0, 0x0100…, 0x0110… and 0x0120…. -/
theorem test_bar2_windows :
    let s := (((State.reset.wr .adtWinBase 0 0 0).wr .adtWinBase 0 1 0x10000000000).wr .adtWinBase 0 2 0x11000000000).wr .adtWinBase 0 3 0x12000000000
    let s : State := { s with adit := { s.adit with bar2Size := 2 } }
    s.winBytes = 0x1000000000 ∧ s.bar2Addr 0x64200040 = 0x64200040 ∧ s.bar2Addr 0x3800000000 = 0x12800000000 ∧ s.bar2Addr 0x80000000 = 0x80000000 ∧
    s.place (s.bar2Addr 0x3800000000) ≠ .undecoded ∧ s.place (s.bar2Addr 0x80000000) = .undecoded := by decide +kernel

/-- The examples of R72, R74, R76 and R78: a block of E4M3, and the FP32 value of e under each rounding to F19 and split in two. -/
theorem test_formats :
    (let q := quantBlock .e4m3 true ([0x40400000, 0x3C23D70A, 0x358637BD].map (fun v => (unpack .fp32 v, Round.rne)))
     q.1 = 0x78 ∧ q.2.map (fun st => st.bits) = [0x7C, 0x3A, 0x00] ∧ q.2.map (fun st => st.hVanish) = [false, false, true] ∧
     q.2.map (fun st => st.fl.unf) = [false, false, true]) ∧
    (convert .fp32 .f19 .rtz false true true 0x402DF854).bits = 0x2016F ∧ (convert .fp32 .f19 .rne false true true 0x402DF854).bits = 0x20170 ∧
    (convert .fp32 .f19 (.sr 0x3A11) false true true 0x402DF854).bits = 0x2016F ∧ (convert .fp32 .f19 (.sr 0x5E07) false true true 0x402DF854).bits = 0x20170 ∧
    (splitFp32 0x402DF854).1 = unpack .f19 0x2016F ∧ (splitFp32 0x402DF854).2.1 = unpack .f19 0x1D615 ∧ toContainer .f19 0x1D615 = 0x3AC2A000 := by decide +kernel

/-- The second example after R137: four partials in the tree order and in both chains. -/
theorem test_orders :
    let add := addC .fp32 false true
    (treeSum add 8 [0x3F800000, 0x33800000, 0x33800000, 0x33800000]).1 = 0x3F800001 ∧
    (chainSum add [0x3F800000, 0x33800000, 0x33800000, 0x33800000]).1 = 0x3F800000 ∧
    (chainSum add [0x33800000, 0x33800000, 0x33800000, 0x3F800000]).1 = 0x3F800002 ∧
    (convert .fp32 .bf16 (.sr 0xFFFF) false true false 0x3F800001).bits = 0x3F81 ∧ (convert .fp32 .bf16 (.sr 0xFFFE) false true false 0x3F800001).bits = 0x3F80 := by
  decide +kernel

/-- The first example after R137: two FP32 updates of a row's two elements under either entry, and the drains. -/
theorem test_updates :
    let acc (r : Round) : Nat × NumFlags :=
      let a0 := (fp32Acc false 0 ((enterF19 r false .fp32 0x3F801800).1.mul (enterF19 r false .fp32 0x3F800000).1).1 false).1
      fp32Acc false a0 ((enterF19 r false .fp32 0x40400000).1.mul (enterF19 r false .fp32 0x33800000).1).1 false
    (acc .rtz).1 = 0x3F800002 ∧ (acc .rne).1 = 0x3F802002 ∧ (acc .rtz).2.inx = true ∧
    (convert .fp32 .f19 .rtz false true true (acc .rtz).1).bits = 0x1FC00 ∧ (convert .fp32 .f19 .rne false true true (acc .rne).1).bits = 0x1FC01 := by decide +kernel

/-- The examples of R164 and R188: LUI x5 of 0x1234_4000, and an FMA on BF16 with SAT. -/
theorem test_words :
    (coreDecode (coreFields 0x1293F1A2) = some .lui ∧ (coreFields 0x1293F1A2).rd = 5) ∧
    (let f := veFields 0x0C88852D8D700000
     f.op = some .fma ∧ f.fs = some .bf16 ∧ f.fd = some .bf16 ∧ f.round = 0 ∧ f.sat = true ∧ f.lanes = 128) := by decide +kernel

/-- The example after R401: an M8-I4 under full load whose cap falls to 1,500 W takes 0.70 V at 62/64 in every block; until the
slew's end it holds the 43/64 that fit at 0.75 V (the example after R408). -/
theorem test_power_loop :
    let s := (List.range 16).foldl (fun (s : State) k => s.wr .pwrPbStatusTj k 0 85) ((live 16384).wr .pwrCapCapW 0 0 1500)
    let s : State := { s with pwr := { s.pwr with uncore := 540000000 }, demand := [⟨0, 4687500, 0⟩] }
    (match execPowerLoopInterval [] s with
     | .next s' => (List.range 16).all (fun k => s'.rd .pwrPbCtrlVset k == 1 && s'.rd .pwrPbCtrlIssue k == 43 && (sget (0, 0) k s'.pwr.slews).2 == 62)
     | _ => false) = true := by decide +kernel

/-- The example before R116: 200 rows of 72 BF16 values lie 192 bytes apart, and the second piece of a row reaches to the next row. -/
theorem test_drain_row :
    let f : OpeF := { (opeFields { w0 := 0, w1 := 0 }) with fo := some .bf16, n := 72, m := 200, out := 0 }
    let d (c : Nat) : OpeDrain := { ins := { w0 := 0, w1 := 0 }, blk := 0, bm := 0, bn := 0, mb := 128, nb := 72, row := 1, col := c }
    200 * rowPitch .bf16 72 = 38400 ∧
    (State.drainBytes f (d 0) (List.replicate 64 { bits := 0x3F80 }) [] 5 7).map (fun p => (p.1, p.2.length)) = [(0x4000C0, 128)] ∧
    (State.drainBytes f (d 64) (List.replicate 8 { bits := 0x3F80 }) [] 5 7).map (fun p => (p.1, p.2.length)) = [(0x400140, 64)] ∧
    ((State.drainBytes f (d 64) (List.replicate 8 { bits := 0x3F80 }) [] 5 7).flatMap (·.2)).take 17 = (List.replicate 8 [0x80#8, 0x3F#8]).flatten ++ [5#8] := by
  decide +kernel

/-- A machine at reset idles on an empty queue. -/
theorem test_reset_idles : (match step State.reset with | .next s => decide (s = State.reset.tick) | _ => false) = true := by decide +kernel

end Sys2Proof.Tests
end

section
/-! SUPPORT. Register accesses that reach register space (R7, R17, R18, R60 to R63): which checks they pass, which fields their words hold, and what
their words answer and store. -/
namespace Sys2Proof.Machine

/-! ### The checks that an access passes -/

theorem State.Reaches.dormant {s : State} {a : Agent} {off n bit : Nat} (h : s.Reaches a off n bit) : s.dormant a = false := by
  cases a with
  | hf c => exact h.1
  | host | dbg | sideband => rfl

theorem State.Reaches.regMay {s : State} {a : Agent} {off n bit : Nat} (h : s.Reaches a off n bit) : s.regMay a off n bit = true := by
  cases a with
  | hf c => exact h.2.1
  | host | dbg | sideband => rfl

theorem State.Reaches.regReach {s : State} {a : Agent} {off n bit : Nat} (h : s.Reaches a off n bit) (hd : regDecodes off = true) :
    s.regReach a off = true := by
  cases a with
  | host => simpa [State.Reaches, State.regReach] using h
  | hf c => exact hd
  | dbg => simpa [State.Reaches, State.regReach, hd] using h
  | sideband => rfl

theorem State.Reaches.slotMay {s : State} {a : Agent} {off n : Nat} (h : s.Reaches a off n 1) : s.slotMay a off = true := by
  cases a with
  | hf c => exact List.any_eq_true.mpr (h.2.2 rfl)
  | host | dbg | sideband => rfl

/-- A 4-byte write that reaches a place its agent may write is stored, or is ignored and counted where it lies behind an absent select (R7). -/
theorem State.regWrite_word {s : State} {a : Agent} {off : Nat} (ha : a ≠ .sideband) (hr : s.Reaches a off 4 1) (hd : regDecodes off = true)
    (h4 : off % 4 = 0) (hden : wordDenied a off = false) (v : Nat) :
    s.regWrite a off 4 v =
      if s.selPresent off (s.selOf (agentIdx a)) then s.wordStore a off (v % 2 ^ 32) else s.bump .hfSelAbsentWr := by
  have hs : sizeOk off 4 = true := by simp [sizeOk, h4]
  cases hp : s.selPresent off (s.selOf (agentIdx a)) <;>
    simp [State.regWrite, ha, hr.dormant, hr.regMay, hr.regReach hd, hr.slotMay, hs, State.wordsWrite, regWords32, State.wordWrite,
      State.wordIgnored, hden, hp]

/-- A write that reaches a select register re-points its writer's own copy. -/
theorem State.regWrite_select {s : State} {a : Agent} {off : Nat} (ha : a ≠ .sideband) (hr : s.Reaches a off 4 1) (hd : regDecodes off = true)
    (h4 : off % 4 = 0) {k : SelKind} (hk : selAt off = some k) (v : Nat) :
    s.regWrite a off 4 v =
      if s.selPresent off (s.selOf (agentIdx a)) then s.wr (selField k) (agentIdx a) 0 (v % 2 ^ 32) else s.bump .hfSelAbsentWr := by
  rw [State.regWrite_word ha hr hd h4 (by simp [wordDenied, hostMay, hk]), State.wordStore, hk]

/-- A read that reaches register space. -/
theorem State.regRead_of_reaches {s : State} {a : Agent} {off n : Nat} (ha : a ≠ .sideband) (hr : s.Reaches a off n 0)
    (hd : regDecodes off = true) (hs : sizeOk off n = true) : s.regRead a off n = if n = 8 then s.read8 a off else s.read4 a off := by
  simp [State.regRead, ha, hr.dormant, hr.regMay, hr.regReach hd, hs]

/-- Slot 0 lies at the same offsets for every agent (R56). -/
theorem agentOff_slot0 (a : Agent) {off : Nat} (h : off < 2 ^ 20) : agentOff a off = off := by
  unfold agentOff
  split <;> omega

theorem agentOff_hf (k : CoreId) (off : Nat) : agentOff (.hf k) off = off := rfl

/-! ### Agents -/

theorem agentIdx_lt (a : Agent) : agentIdx a < 65536 := by
  cases a with
  | hf c => simp only [agentIdx]; omega
  | host | dbg | sideband => simp [agentIdx]

theorem agentIdx_injective {a b : Agent} (h : agentIdx a = agentIdx b) : a = b := by
  cases a with
  | hf c => cases b with
    | hf d => exact congrArg Agent.hf (Fin.ext (Nat.add_left_cancel h))
    | host | dbg | sideband => simp only [agentIdx] at h; omega
  | host | dbg | sideband => cases b with
    | hf d => simp only [agentIdx] at h; omega
    | host | dbg | sideband => simp_all [agentIdx]

/-- Agents keep their select registers and latches apart (R18, R63). -/
theorem agentIdx_ne {a b : Agent} (h : b ≠ a) : agentIdx b % 65536 ≠ agentIdx a % 65536 := by
  rw [Nat.mod_eq_of_lt (agentIdx_lt a), Nat.mod_eq_of_lt (agentIdx_lt b)]
  exact fun e => h (agentIdx_injective e)

/-- A write of one agent's select register leaves the others' as they are (R18). -/
theorem State.selOf_wr_select (s : State) {a b : Agent} (h : b ≠ a) (k : SelKind) (v : Nat) :
    (s.wr (selField k) (agentIdx a) 0 v).selOf (agentIdx b) = s.selOf (agentIdx b) := by
  have hk (f : Field) : (s.wr (selField k) (agentIdx a) 0 v).rd f (agentIdx b) = s.rd f (agentIdx b) := by
    by_cases e : f = selField k
    · subst e
      exact s.rd_wr_inst (agentIdx_ne h) 0 v 0
    · exact s.rd_wr_ne e _ _ _ _ _
  simp only [State.selOf, hk]

/-- The select registers stand where R57 and R58 put them. -/
theorem selAt_selField (k : SelKind) : selAt (selField k).info.off = some k := by cases k <;> rfl

theorem selField_decodes (k : SelKind) : regDecodes (selField k).info.off = true ∧ (selField k).info.off % 4 = 0 := by cases k <;> decide

/-- Every select register but QSEL is always present; QSEL is where TILE_SEL names a tile (R57). -/
theorem State.selPresent_select (s : State) (k : SelKind) (sel : Sel) :
    s.selPresent (selField k).info.off sel = (k != .queue || decide (sel.tile < 256)) := by
  cases k with
  | queue => exact Bool.and_true _
  | port | tile | hbm | group | counter => rfl

/-! ### Commands by their result -/

/-- A command that answers r runs as the frame and the facts of r's reduced form t say. -/
theorem Runs.of_eq {c : Instr} {s r t : State} {parts : List Part} {fields : List (Field × Nat × Nat)} {P : State → Prop} (e : r = t)
    (ho : s.Only t parts) (hf : s.FieldsBut t fields) (hp : P t) (h : exec c s = .next r := by rfl) : Runs c s parts fields P :=
  ⟨t, e ▸ h, ho, hf, hp⟩

theorem State.fieldsBut_bump (s : State) (f : Field) : s.FieldsBut (s.bump f) [(f, 0, 0)] := (State.FieldsBut.refl s _).cnt (by simp) 1

theorem State.rd_bump_same (s : State) (f : Field) : (s.bump f).rd f = (s.rd f + 1) % 2 ^ f.info.width := s.rd_cnt_same f 0 0 1

end Sys2Proof.Machine
end

section
/-! The statement about select registers. -/
namespace Sys2Proof.Machine

/-- Settles O8: a write that reaches a select register stores the index in the writer's own copy; only QSEL can lie behind an absent select. -/
theorem selectRegistersAreEachAgentsOwn : Obligations.SelectRegistersAreEachAgentsOwn := by
  refine ⟨fun a k v s ha hr hq => ?_, fun a v s ha hr ht => ?_, fun k v s => ?_⟩
  · obtain ⟨hd, h4⟩ := selField_decodes k
    have hp : s.selPresent (selField k).info.off (s.selOf (agentIdx a)) = true := by
      rw [State.selPresent_select]
      cases k <;> simp [State.selOf, hq]
    have he : s.selectWrite a k v = s.wr (selField k) (agentIdx a) 0 (v % 2 ^ 32) := by
      rw [State.selectWrite, State.regWrite_select ha hr hd h4 (selAt_selField k), if_pos hp]
    have hw : (selField k).info.width ≤ 32 := by cases k <;> decide
    refine .of_eq he (s.only_wr _ _ _ _) ((State.FieldsBut.refl s _).wr (List.mem_singleton.mpr (by rw [Nat.mod_eq_of_lt (agentIdx_lt a)])) _) ⟨?_, ?_⟩
    · rw [State.rd_wr_same, Nat.mod_mod_of_dvd _ (Nat.pow_dvd_pow 2 hw)]
    · exact fun b hb => s.selOf_wr_select hb k _
  · have hp : s.selPresent 0x06050000 (s.selOf (agentIdx a)) = false :=
      (s.selPresent_select .queue _).trans (by simp [State.selOf, Nat.not_lt.mpr ht])
    have he : s.selectWrite a .queue v = s.bump .hfSelAbsentWr := by
      refine (State.regWrite_select ha hr (by decide) (by decide) (k := .queue) rfl v).trans ?_
      rw [if_neg (by simp [hp])]
    exact .of_eq he (s.only_bump _) (s.fieldsBut_bump _) (s.rd_bump_same _)
  · exact .of_eq rfl (.refl s _) (.refl s _) rfl

end Sys2Proof.Machine
end

section
/-! SUPPORT. Reads of registers (R14, R60, R63): the fields of a word, what it answers, and the latch of a 64-bit read-only register. -/
namespace Sys2Proof.Machine

/-! ### The fields of a word -/

theorem hitsAt_of_near {off : Nat} {l : List Field} (h : Field.all.filter (fun f => f.near off) = l) (sel : Sel) :
    hitsAt off sel = l.filterMap (fun f => f.hit off sel) := by rw [hitsAt_near, h]

theorem hitsAt_tallyLow (sel : Sel) : hitsAt 0x2000 sel = [⟨.tlyNow, 0, 0, 0⟩] :=
  hitsAt_of_near (l := [.tlyNow]) (by decide +kernel) sel

theorem hitsAt_tallyHigh (sel : Sel) : hitsAt 0x2004 sel = [⟨.tlyNow, 0, 0, 1⟩] :=
  hitsAt_of_near (l := [.tlyNow]) (by decide +kernel) sel

theorem hitsAt_pwrTj (sel : Sel) :
    hitsAt 0x03000060 sel = [⟨.pwrTjTrip, 0, 0, 0⟩, ⟨.pwrTjHot, 0, 0, 0⟩, ⟨.pwrTjTarget, 0, 0, 0⟩, ⟨.pwrHbmHot, 0, 0, 0⟩] :=
  hitsAt_of_near (l := [.pwrTjTrip, .pwrTjHot, .pwrTjTarget, .pwrHbmHot]) (by decide +kernel) sel

/-- A word outside the mailbox slot and the counter shadows sums what its fields read. -/
theorem State.word_of_hits {s : State} {off : Nat} {sel : Sel} (hd : off / 0x100000 % 16 = 0) (hm : isMbxBuffer off = false)
    (hp : s.selPresent off sel = true) (hsh : ¬ (0x09010000 ≤ off ∧ off < 0x09100000 - 0x10000)) {l : List Hit} (hl : hitsAt off sel = l) :
    s.word off sel = l.foldl (fun acc h => acc + h.word (s.val h.f h.inst h.sub)) 0 := by
  subst hl
  simp [State.word, hd, hm, hp, hsh]

/-- Which half of a 64-bit read-only register such a word is. -/
theorem roHalf_of_hits {off : Nat} {sel : Sel} (hm : isMbxBuffer off = false) (hsh : ¬ (0x09010000 ≤ off ∧ off < 0x090F0000)) {l : List Hit}
    (hl : hitsAt off sel = l) : roHalf off sel = (l.find? (fun h => h.f.info.wide && h.f.info.acc == .ro)).map (fun h => h.half) := by
  subst hl
  simp [roHalf, hm, hsh]

theorem State.word_tallyLow (s : State) (sel : Sel) : s.word 0x2000 sel = s.tally % 2 ^ 32 := by
  rw [State.word_of_hits (by decide) (by decide) rfl (by decide) (hitsAt_tallyLow sel)]
  show 0 + (s.tally % 2 ^ 64) >>> (32 * 0) % 2 ^ 32 = _
  rw [Nat.shiftRight_eq_div_pow]
  omega

theorem State.word_tallyHigh {s : State} (h : s.tally < 2 ^ 64) (sel : Sel) : s.word 0x2004 sel = s.tally / 2 ^ 32 := by
  rw [State.word_of_hits (by decide) (by decide) rfl (by decide) (hitsAt_tallyHigh sel)]
  show 0 + (s.tally % 2 ^ 64) >>> (32 * 1) % 2 ^ 32 = _
  rw [Nat.shiftRight_eq_div_pow]
  omega

theorem State.word_pwrTj (s : State) (sel : Sel) : s.word 0x03000060 sel =
    s.rd .pwrTjTrip % 2 ^ 8 * 2 ^ 24 + s.rd .pwrTjHot % 2 ^ 8 * 2 ^ 16 + s.rd .pwrTjTarget % 2 ^ 8 * 2 ^ 8 + s.rd .pwrHbmHot % 2 ^ 8 := by
  rw [State.word_of_hits (by decide) (by decide) rfl (by decide) (hitsAt_pwrTj sel)]
  show 0 + (s.rd .pwrTjTrip % 2 ^ 8) <<< 24 + (s.rd .pwrTjHot % 2 ^ 8) <<< 16 + (s.rd .pwrTjTarget % 2 ^ 8) <<< 8 +
    (s.rd .pwrHbmHot % 2 ^ 8) <<< 0 = _
  simp only [Nat.shiftLeft_eq, Nat.zero_add, pow_zero, mul_one]

theorem roHalf_tallyLow (sel : Sel) : roHalf 0x2000 sel = some 0 := roHalf_of_hits (by decide) (by decide) (hitsAt_tallyLow sel)
theorem roHalf_tallyHigh (sel : Sel) : roHalf 0x2004 sel = some 1 := roHalf_of_hits (by decide) (by decide) (hitsAt_tallyHigh sel)
theorem roHalf_pwrTj (sel : Sel) : roHalf 0x03000060 sel = none := roHalf_of_hits (by decide) (by decide) (hitsAt_pwrTj sel)

/-! ### The latch (R14, R63) -/

/-- The state whose latch of a requester holds the high half of TLY_NOW. -/
def State.latchTally (s : State) (i : Nat) : State := { s with latches := sset i (some ⟨0x2000, [], s.tally / 2 ^ 32⟩) s.latches }

theorem State.latchRead_plain {s : State} {off : Nat} {sel : Sel} (h : roHalf off sel = none) (i v : Nat) : s.latchRead i off sel v = (s, v) := by
  rw [State.latchRead, h]

theorem State.latchRead_tallyLow {s : State} (h : s.tally < 2 ^ 64) (i v : Nat) (sel : Sel) :
    s.latchRead i 0x2000 sel v = (s.latchTally i, v) := by
  rw [State.latchRead, roHalf_tallyLow]
  show ({ s with latches := sset i (some ⟨0x2000, [], s.word 0x2004 sel⟩) s.latches }, v) = _
  rw [State.word_tallyHigh h, State.latchTally]

theorem State.latchRead_tallyHit {s : State} {i hi : Nat} (hl : slook i s.latches = some ⟨0x2000, [], hi⟩) (v : Nat) (sel : Sel) :
    s.latchRead i 0x2004 sel v = (s, hi) := by
  simp [State.latchRead, roHalf_tallyHigh, hl, governing]

theorem State.latchRead_tallyMiss {s : State} {i : Nat} (hl : slook i s.latches = none) (v : Nat) (sel : Sel) :
    s.latchRead i 0x2004 sel v = (s.bump .hfLatchMiss, v) := by
  simp [State.latchRead, roHalf_tallyHigh, hl]

theorem State.latched (s : State) (i : Nat) : slook i (s.latchTally i).latches = some ⟨0x2000, [], s.tally / 2 ^ 32⟩ := by
  simp only [State.latchTally, slook_sset_same]

theorem State.only_latchTally (s : State) (i : Nat) : s.Only (s.latchTally i) [.latches] := by
  intro p hp
  cases p with
  | latches => simp at hp
  | _ => rfl

/-! ### What a read does -/

theorem State.only_answer (s : State) (a : Agent) (v : Nat) : s.Only (s.answer a v) [.answers] := by
  intro p hp
  cases p with
  | answers => simp at hp
  | _ => rfl

theorem State.answered (s : State) (a : Agent) (v : Nat) : sget 0 (agentIdx a) (s.answer a v).answers = v := sget_sput_same _ _ _ _

/-- An answer leaves every field as it is. -/
theorem State.fieldsBut_answer {s t : State} {l : List (Field × Nat × Nat)} (h : s.FieldsBut t l) (a : Agent) (v : Nat) :
    s.FieldsBut (t.answer a v) l := h.congr rfl rfl

/-- A read that only answers. -/
theorem Runs.answers {c : Instr} {s r : State} {a : Agent} {v : Nat} (e : r = s.answer a v) (h : exec c s = .next r := by rfl) :
    Runs c s [.answers] [] (fun s' => sget 0 (agentIdx a) s'.answers = v) :=
  .of_eq e (s.only_answer a v) (s.fieldsBut_answer (.refl s _) a v) (s.answered a v) h

theorem State.read4_plain {s : State} {off : Nat} (h : off ≠ 0x04010004 ∧ off ≠ 0x20010 ∧ off ≠ 0x20014 ∧ off ≠ 0x304) (a : Agent) :
    s.read4 a off =
      let r := s.latchRead (agentIdx a) off (s.selOf (agentIdx a)) (s.word off (s.selOf (agentIdx a)))
      r.1.answer a r.2 := by
  simp [State.read4, State.wordRead, State.readEffect, h]

/-- The low half of TLY_NOW. -/
theorem State.read_tallyLow {s : State} {a : Agent} (ht : s.tally < 2 ^ 64) (ha : a ≠ .sideband) (hr : s.Reaches a 0x2000 4 0) :
    s.regRead a 0x2000 4 = (s.latchTally (agentIdx a)).answer a (s.tally % 2 ^ 32) := by
  rw [State.regRead_of_reaches ha hr (by decide) (by decide), if_neg (by decide), State.read4_plain (by decide), State.latchRead_tallyLow ht,
    State.word_tallyLow]

/-- The high half of TLY_NOW, with a latch that the low half left. -/
theorem State.read_tallyHigh {s : State} {a : Agent} {hi : Nat} (ha : a ≠ .sideband) (hr : s.Reaches a 0x2004 4 0)
    (hl : slook (agentIdx a) s.latches = some ⟨0x2000, [], hi⟩) : s.regRead a 0x2004 4 = s.answer a hi := by
  rw [State.regRead_of_reaches ha hr (by decide) (by decide), if_neg (by decide), State.read4_plain (by decide),
    State.latchRead_tallyHit hl]

/-- The high half of TLY_NOW, without one. -/
theorem State.read_tallyMiss {s : State} {a : Agent} (ht : s.tally < 2 ^ 64) (ha : a ≠ .sideband) (hr : s.Reaches a 0x2004 4 0)
    (hl : slook (agentIdx a) s.latches = none) : s.regRead a 0x2004 4 = (s.bump .hfLatchMiss).answer a (s.tally / 2 ^ 32) := by
  rw [State.regRead_of_reaches ha hr (by decide) (by decide), if_neg (by decide), State.read4_plain (by decide),
    State.latchRead_tallyMiss hl, State.word_tallyHigh ht]

/-- Both halves of TLY_NOW. -/
theorem State.read_tally {s : State} {a : Agent} (ht : s.tally < 2 ^ 64) (ha : a ≠ .sideband) (hr : s.Reaches a 0x2000 8 0) :
    s.regRead a 0x2000 8 = s.answer a s.tally := by
  rw [State.regRead_of_reaches ha hr (by decide) (by decide), if_pos rfl]
  simp only [State.read8, State.wordRead, State.readEffect, Nat.reduceAdd, Nat.reduceEqDiff, if_false, or_self]
  rw [State.word_tallyLow, State.word_tallyHigh ht, Nat.mod_add_div']

/-- A plain word. -/
theorem State.read_pwrTj {s : State} {a : Agent} (ha : a ≠ .sideband) (hr : s.Reaches a 0x03000060 4 0) :
    s.regRead a 0x03000060 4 = s.answer a (s.word 0x03000060 (s.selOf (agentIdx a))) := by
  rw [State.regRead_of_reaches ha hr (by decide) (by decide), if_neg (by decide), State.read4_plain (by decide),
    State.latchRead_plain (roHalf_pwrTj _)]

/-- A word without an RC field loses nothing by being read (R13). -/
theorem State.rcClear_none {off : Nat} {sel : Sel} (h : rcHits off sel = []) (s : State) (inc : Nat) (all : Bool) : s.rcClear off inc sel all = s := by
  rw [State.rcClear, h]; rfl

theorem rcHits_pwrTj (sel : Sel) : rcHits 0x03000060 sel = [] := by rw [rcHits, hitsAt_pwrTj]; rfl

/-- A core's read of its own control registers (R385). -/
theorem State.read_control {s : State} {k : CoreId} {off n : Nat} (hs : s.ic.asleep = false) (hn : sizeOk off n = true) :
    s.targetRead (.hf k) (.control k off) n = s.answer (.hf k) (s.crWord k off + if n = 8 then s.crWord k (off + 4) * 2 ^ 32 else 0) := by
  simp [State.targetRead, State.crRead, hs, hn]

/-- The two words of a timer instant (R381). -/
theorem State.crWord_timer (s : State) (core : Nat) {i : Nat} (h : i < 4) :
    s.crWord core (0x20 + 8 * i) + s.crWord core (0x20 + 8 * i + 4) * 2 ^ 32 = s.rd .icTimerAt core i % 2 ^ 64 := by
  have lo : s.crWord core (0x20 + 8 * i) = s.rd .icTimerAt core i % 2 ^ 32 := by interval_cases i <;> simp [State.crWord]
  have hi : s.crWord core (0x20 + 8 * i + 4) = s.rd .icTimerAt core i / 2 ^ 32 % 2 ^ 32 := by interval_cases i <;> simp [State.crWord]
  rw [lo, hi]
  omega

/-! ### What events and faults change -/

theorem State.only_adit (s : State) (x : Adit) : s.Only { s with adit := x } [.adit] := by
  intro p hp
  cases p with
  | adit => simp at hp
  | _ => rfl

theorem State.only_ic (s : State) (x : Ic) : s.Only { s with ic := x } [.ic] := by
  intro p hp
  cases p with
  | ic => simp at hp
  | _ => rfl

theorem State.Only.ite {s a b : State} {l : List Part} {c : Prop} [Decidable c] (ha : s.Only a l) (hb : s.Only b l) :
    s.Only (if c then a else b) l := by
  split
  · exact ha
  · exact hb

theorem State.Only.bump {s a : State} {l : List Part} (h : s.Only a l) (hl : Part.regs ∈ l) (f : Field) : s.Only (a.bump f) l :=
  h.trans ((a.only_bump f).mono (by simpa using hl))

theorem State.Only.adit {s a : State} {l : List Part} (h : s.Only a l) (hl : Part.adit ∈ l) (x : Adit) : s.Only { a with adit := x } l :=
  h.trans ((a.only_adit x).mono (by simpa using hl))

theorem State.Only.ic {s a : State} {l : List Part} (h : s.Only a l) (hl : Part.ic ∈ l) (x : Ic) : s.Only { a with ic := x } l :=
  h.trans ((a.only_ic x).mono (by simpa using hl))

/-- An event on an MSI-X vector changes counters and what the host port has sent or holds back (R341). -/
theorem State.only_msix (s : State) (v : Nat) : s.Only (s.msix v) [.regs, .adit] :=
  have h (f : Field) : s.Only (s.bump f) [.regs, .adit] := (State.Only.refl s _).bump (by simp) f
  .ite (h _) (.ite (h _) (.ite ((h _).adit (by simp) _) ((h _).adit (by simp) _)))

/-- An event of an interrupt source changes counters, the interrupt controller, and what the host port has sent (R372). -/
theorem State.only_irq (s : State) (n : Nat) : s.Only (s.irq n) [.regs, .ic, .adit] := by
  have seen (w : Prop) [Decidable w] (x : Ic) : s.Only (if w then { s with ic := x } else s) [.regs, .ic, .adit] :=
    .ite (.ic (.refl s _) (by simp) x) (.refl s _)
  have free {a : State} (h : s.Only a [.regs, .ic, .adit]) (w : Prop) [Decidable w] (x : Ic) :
      s.Only (if w then { a with ic := x } else a) [.regs, .ic, .adit] := .ite (h.ic (by simp) x) h
  have raised {a : State} (h : s.Only a [.regs, .ic, .adit]) (w : Prop) [Decidable w] (x : Ic) :
      s.Only (if w then a.bump .icMerged else { a.bump .icRaised with ic := x }) [.regs, .ic, .adit] :=
    .ite (h.bump (by simp) _) ((h.bump (by simp) _).ic (by simp) x)
  refine .ite (.refl s _) (.ite ((seen _ _).bump (by simp) _) ?_)
  exact .ite (.trans (raised (free (seen _ _) _ _) _ _) ((State.only_msix _ _).mono (by simp))) (raised (free (seen _ _) _ _) _ _)

theorem State.coreComps_congr {s t : State} (h : t.comps = s.comps) (core : Nat) : t.coreComps core = s.coreComps core := by
  have e : t.comp = s.comp := funext fun k => by simp only [State.comp, h]
  unfold State.coreComps
  rw [e]

/-- An access that a core's MPU blocks faults the component that makes it (R348). -/
theorem State.busFault_of_acting {s : State} {core q : Nat} (h : s.coreComps core = [q]) : s.busFault core = (s.irq (428 + core)).accessFault q := by
  have hc : (s.irq (428 + core)).coreComps core = [q] := by
    have e : (s.irq (428 + core)).comps = s.comps := s.only_irq _ .comps (by decide)
    rw [State.coreComps_congr e, h]
  simp only [State.busFault, State.actingComp, hc]

end Sys2Proof.Machine
end

section
/-! The statement about register reads. -/
namespace Sys2Proof.Machine

/-- The halves of TLY_NOW, as an agent other than the sideband reads them (R14, R60, R63). -/
theorem readTallyHalves (a : Agent) (s : State) (ht : s.tally < 2 ^ 64) (ha : a ≠ .sideband) (hlo : s.Reaches a 0x2000 4 0)
    (hhi : s.Reaches a 0x2004 4 0) (hall : s.Reaches a 0x2000 8 0) :
    Runs (.lowHalfRead a (.space 0x2000) 4) s [.answers, .latches] [] (fun s' =>
      sget 0 (agentIdx a) s'.answers = s.tally % 2 ^ 32 ∧
      slook (agentIdx a) s'.latches = some ⟨0x2000, [], s.tally / 2 ^ 32⟩) ∧
    Runs (.lowHalfRead a (.space 0x2000) 8) s [.answers] [] (fun s' => sget 0 (agentIdx a) s'.answers = s.tally) ∧
    (∀ hi, slook (agentIdx a) s.latches = some ⟨0x2000, [], hi⟩ →
      Runs (.highHalfRead a 0x2004 4) s [.answers] [] (fun s' => sget 0 (agentIdx a) s'.answers = hi)) ∧
    (slook (agentIdx a) s.latches = none →
      Runs (.highHalfRead a 0x2004 4) s [.answers, .regs] [(.hfLatchMiss, 0, 0)] (fun s' =>
        sget 0 (agentIdx a) s'.answers = s.tally / 2 ^ 32 ∧ s'.rd .hfLatchMiss = (s.rd .hfLatchMiss + 1) % 2 ^ 64)) := by
  have elo : agentOff a 0x2000 = 0x2000 := agentOff_slot0 a (by decide)
  have ehi : agentOff a 0x2004 = 0x2004 := agentOff_slot0 a (by decide)
  refine ⟨?_, ?_, fun hi hl => ?_, fun hl => ?_⟩
  · have e : s.targetRead a (.space 0x2000) 4 = (s.latchTally (agentIdx a)).answer a (s.tally % 2 ^ 32) := by
      rw [State.targetRead, elo, State.read_tallyLow ht ha hlo]
    refine .of_eq e (((s.only_latchTally _).mono (by simp)).trans ((State.only_answer _ _ _).mono (by simp)))
      (.congr (.refl s _) rfl rfl) ⟨State.answered _ _ _, s.latched _⟩
  · have e : s.targetRead a (.space 0x2000) 8 = s.answer a s.tally := by rw [State.targetRead, elo, State.read_tally ht ha hall]
    exact .answers e
  · have e : s.regRead a (agentOff a 0x2004) 4 = s.answer a hi := by rw [ehi, State.read_tallyHigh ha hhi hl]
    exact .answers e
  · have e : s.regRead a (agentOff a 0x2004) 4 = (s.bump .hfLatchMiss).answer a (s.tally / 2 ^ 32) := by
      rw [ehi, State.read_tallyMiss ht ha hhi hl]
    exact .of_eq e (((s.only_bump _).mono (by simp)).trans ((State.only_answer _ _ _).mono (by simp)))
      (State.fieldsBut_answer (s.fieldsBut_bump _) _ _) ⟨State.answered _ _ _, s.rd_bump_same _⟩

/-- Settles O10: each clause is the equation of its read, with what an answer leaves alone. -/
theorem registerReads : Obligations.RegisterReads := by
  refine ⟨readTallyHalves, fun k s inc hr => ?_, fun k s hs => ⟨?_, ?_, fun i hi => ?_⟩, fun r n s hl => ?_,
    fun k off q s hs hq hm => ?_⟩
  · have e : s.rcRead (.hf k) 0x03000060 inc = s.answer (.hf k) (s.word 0x03000060 (s.selOf (agentIdx (.hf k)))) := by
      rw [State.rcRead, State.rcClear_none (rcHits_pwrTj _), State.read_pwrTj (by simp) hr]
    rw [State.word_pwrTj] at e
    exact .answers e
  · have e : s.targetRead (.hf k) (.control k 8) 4 = s.answer (.hf k) (s.rd .icPmr k) :=
      (State.read_control hs (by decide)).trans (by simp [State.crWord])
    exact .answers e
  · have e : s.targetRead (.hf k) (.control k 0xC) 4 = s.answer (.hf k) (s.rd .icVbase k * 2 ^ 14) :=
      (State.read_control hs (by decide)).trans (by simp [State.crWord])
    exact .answers e
  · have h8 : sizeOk (0x20 + 8 * i) 8 = true := by simp [sizeOk, Nat.add_mod]
    have e := (State.read_control (k := k) hs h8).trans (congrArg _ (s.crWord_timer k hi))
    exact .answers e
  · have e : s.targetRead .host (.config r) n = s.answer .host (s.pciRead r) := if_pos ⟨rfl, hl⟩
    exact .answers e
  · have he : s.regRead (.hf k) off 4 = ((s.irq (428 + k.val)).accessFault q).answer (.hf k) 0 := by
      simp only [State.regRead, State.dormant, hs, State.regMay, hm]
      rw [← State.busFault_of_acting hq]
      rfl
    exact ⟨_, congrArg Host.Outcome.next he, rfl⟩

end Sys2Proof.Machine
end

section
/-! SUPPORT. States that refute statements: each satisfies the hypotheses of one clause, and the model's answer to its command, evaluated, contradicts
the clause. -/
namespace Sys2Proof.Machine

/-! ### RAS_HANG_INFO.VALID holds 2 -/

/-- HF3 runs the RAS agent, and its MPU opens register space. The one-bit field RAS_HANG_INFO.VALID holds 2, which no write stores but neither the type
of a state nor `State.Sound` excludes. -/
def hangValidAtTwo : State :=
  { boot := { mpu := [⟨3, 0, 0x200000000, 0x10000000, 3⟩] }, comps := [(3, { mode := .running })], regs := [(fkey .rasHangInfoValid 0 0, 2)] }

theorem hangValidAtTwo_reaches : hangValidAtTwo.Reaches (.hf 3) 0x0A000030 4 1 :=
  ⟨rfl, by decide +kernel, fun _ => ⟨3, by decide +kernel, by decide +kernel⟩⟩

/-- Hardware sets VALID while the agent writes 0: the field is not zero, so it keeps its value. -/
theorem hangValidAtTwo_keeps :
    (hangValidAtTwo.registerWrite (.hf 3) (.space 0x0A000030) 4 0 (2 ^ 31) [0]).rd .rasHangInfoValid = 2 := by decide +kernel

/-! ### A sticky flag of the OPE holds 2 -/

/-- The CWR of tile 0 that writes x0 to OPE_FLAGS, slot offset x1 + 0x40. -/
def flagsCwr : CoreWord := ⟨5, 0, 1, 0, 0x40⟩

/-- Tile 0 is about to execute it; the one-bit flag INX of its OPE holds 2. -/
def opeFlagAtTwo : State :=
  ({ regs := [(fkey .opeFlagsInx 0 0, 2)] } : State).setTile 0 { tallyValid := true, core := { mode := .running, x := [(1, 0x10000)] } }
    |>.setBytes (spdAddr 0 .cb 0) (natLe 4 (5 * 2 ^ 28 + 1 * 2 ^ 18 + 0x40))

theorem opeFlagAtTwo_fetches : opeFlagAtTwo.Fetches (0 : TileId) .cwr flagsCwr where
  ready := by decide +kernel
  aligned := by decide +kernel
  inCb := by decide +kernel
  clear := by decide +kernel
  good := by decide +kernel
  word := by decide +kernel
  op := by decide +kernel

/-- The engine sets INX while the core writes 0: the flag keeps its value. -/
theorem opeFlagAtTwo_keeps : (opeFlagAtTwo.cwr 0 4 []).rd .opeFlagsInx = 2 := by decide +kernel

/-! ### A snapshot's copy is noted although no snapshot is armed -/

/-- The command SNAPSHOT_ARM of channel 0. -/
def armCmd : MbxCmd := ⟨0, 0x0108, 5, 0, false⟩

/-- The CRC/snapshot service is about to run it; the counters count as copied (R46), and TLY_STATUS names no armed snapshot. -/
def copiedUnarmed : State := { comps := [(5, { mode := .running })], mbx := { run := [armCmd], pair := some 0 }, snapCopied := true }

theorem copiedUnarmed_runs : copiedUnarmed.YcpRuns 0 0x0108 5 armCmd := ⟨rfl, rfl, rfl, rfl, rfl, rfl⟩

/-- The arm clears the note. -/
theorem copiedUnarmed_arms : (copiedUnarmed.snapshotArm 0 2000).snapCopied = false := by decide +kernel

end Sys2Proof.Machine
end

section
/-! The statements that these states refute. -/
namespace Sys2Proof.Machine

/-- Refutes O9: its clause on RAS_HANG_INFO says that VALID reads 1 once hardware sets it, but `State.setW1c` leaves a field that is not zero as it is, and
nothing bounds what it holds by the field's width. -/
theorem not_registerWrites : ¬ Obligations.RegisterWrites := by
  rintro ⟨-, -, hang, -⟩
  obtain ⟨s', hx, -, hv, -⟩ := hang 0 (2 ^ 31) 0 [] hangValidAtTwo hangValidAtTwo_reaches
  obtain rfl := Host.Outcome.next.inj hx
  rw [if_pos (by decide)] at hv
  exact absurd (hangValidAtTwo_keeps.symm.trans hv) (by decide)

/-- Refutes O16: `Hit.after` says that a flag reads 1 once an engine sets it in the access of a CWR, but `State.setW1c` leaves a field that is not zero
as it is, and nothing bounds what it holds by the field's width. -/
theorem not_controlRegisters : ¬ Obligations.ControlRegisters := by
  rintro ⟨-, hcwr⟩
  obtain ⟨-, hrw, -⟩ := hcwr 0 flagsCwr 4 [] opeFlagAtTwo opeFlagAtTwo_fetches (by decide +kernel)
  obtain ⟨s', hx, hafter, -⟩ := hrw (by decide +kernel) (by decide +kernel)
  obtain rfl := Host.Outcome.next.inj hx
  have h1 := hafter ⟨.opeFlagsInx, 0, 0, 0⟩ (by decide +kernel)
  exact absurd (opeFlagAtTwo_keeps.symm.trans h1) (by decide +kernel)

/-- Refutes O53: its clause on SNAPSHOT_ARM lets only `snapArmed` change beside the answer, but the arm also clears the note that the counters have been
copied, and nothing says that the note is clear while no snapshot is armed. -/
theorem not_configurationCommands : ¬ Obligations.ConfigurationCommands := by
  intro h
  obtain ⟨harm, -⟩ := h 0 copiedUnarmed armCmd
  obtain ⟨s', hx, -, -, -, ha⟩ := (harm copiedUnarmed_runs 2000 (by decide)).1 (by decide +kernel) (by decide)
  obtain rfl := Host.Outcome.next.inj hx
  have hkept : (copiedUnarmed.snapshotArm 0 2000).snapCopied = true := ha.only .snapCopied (by decide)
  exact absurd (copiedUnarmed_arms.symm.trans hkept) (by decide)

end Sys2Proof.Machine
end

section
/-! SUPPORT. Packets on their way (R275 to R287): what setting out on the rings, going to a port and the routing decision do, each said once. -/
namespace Sys2Proof.Machine

/-! ### Parts that packets move through -/

theorem State.only_outbox (s : State) (l : List Packet) : s.Only { s with outbox := l } [.outbox] := by
  intro p hp
  cases p with
  | outbox => simp at hp
  | _ => rfl

theorem State.only_ring (s : State) (l : List RingPkt) : s.Only { s with ring := l } [.ring] := by
  intro p hp
  cases p with
  | ring => simp at hp
  | _ => rfl

theorem State.only_dieNet (s : State) (l : List Arrival) : s.Only { s with dieNet := l } [.dieNet] := by
  intro p hp
  cases p with
  | dieNet => simp at hp
  | _ => rfl

theorem State.only_onPort (s : State) (q : Nat) (g : Port → Port) : s.Only (s.onPort q g) [.ports] := by
  intro p hp
  cases p with
  | ports => simp at hp
  | _ => rfl

/-- A change that leaves the registers and the variant alone leaves every field as it is. -/
theorem State.Only.rd {s t : State} {l : List Part} (h : s.Only t l) (hr : Part.regs ∉ l) (hv : Part.variant ∉ l) (f : Field) (i j : Nat) :
    t.rd f i j = s.rd f i j := State.rd_congr (h .regs hr) (h .variant hv) f i j

theorem State.Only.tile {s t : State} {l : List Part} (h : s.Only t l) (hl : Part.tiles ∉ l) (u : Nat) : t.tile u = s.tile u :=
  congrArg (sget ({} : Tile) u) (h .tiles hl)

theorem State.Only.port {s t : State} {l : List Part} (h : s.Only t l) (hl : Part.ports ∉ l) (q : Nat) : t.port q = s.port q :=
  congrArg (sget ({} : Port) q) (h .ports hl)

/-- What a route depends on. -/
theorem State.Only.route {s t : State} {l : List Part} (h : s.Only t l) (hl : Part.rt ∉ l) (dev e : Nat) : t.route dev e = s.route dev e := by
  have hr : t.rt = s.rt := h .rt hl
  unfold State.route State.rtEntry
  rw [hr]

/-- What a packet's end on the die depends on. -/
theorem State.ringTo_congr {s t : State} (hv : t.variant = s.variant) (hb : t.bandMode = s.bandMode) (hf : t.hfOut = s.hfOut) (pk : Packet) :
    t.ringTo pk = s.ringTo pk := by
  have hd : t.hbmDecode = s.hbmDecode := funext fun o => by
    unfold State.hbmDecode
    rw [hb, hv]
  have hp : t.place = s.place := funext fun a => by
    unfold State.place
    rw [hd]
  unfold State.ringTo
  rw [hp, hf]

theorem State.bandMode_congr {s t : State} (hb : t.bandNext = s.bandNext)
    (hr : ∀ f ∈ [Field.hbmBandMode0, .hbmBandMode1, .hbmBandMode2], t.rd f = s.rd f) : t.bandMode = s.bandMode := by
  funext b
  unfold State.bandMode State.bandValue
  rw [hb, hr .hbmBandMode0 (by simp), hr .hbmBandMode1 (by simp), hr .hbmBandMode2 (by simp)]

theorem State.Only.ringTo {s t : State} {l : List Part} (h : s.Only t l) (hr : Part.regs ∉ l) (hv : Part.variant ∉ l)
    (hb : Part.bandNext ∉ l) (hf : Part.hfOut ∉ l) (pk : Packet) : t.ringTo pk = s.ringTo pk :=
  State.ringTo_congr (h .variant hv) (State.bandMode_congr (h .bandNext hb) fun f _ => h.rd hr hv f 0 0) (h .hfOut hf) pk

@[simp] theorem State.port_cnt (s : State) (f : Field) (i j n q : Nat) : (s.cnt f i j n).port q = s.port q := rfl
@[simp] theorem State.port_bump (s : State) (f : Field) (q : Nat) : (s.bump f).port q = s.port q := rfl
@[simp] theorem State.port_onPort_same (s : State) (q : Nat) (g : Port → Port) : (s.onPort q g).port q = g (s.port q) := s.port_setPort_same q _

theorem State.port_onPort_ne (s : State) {p q : Nat} (h : q ≠ p) (g : Port → Port) : (s.onPort p g).port q = s.port q := s.port_setPort_ne h _

theorem ports_le_eight (v : Variant) : v.ports ≤ 8 := by cases v <;> decide

/-! ### Setting out on the rings (R282) -/

/-- The packet as it sets out on a path whose first ring stop is x. -/
def ringStart (pk : Packet) (a b : RingEnd) (x : Nat) (l : List Nat) (out arr : Option Nat) (stamp : Nat) : RingPkt :=
  { pkt := pk, path := x :: l ++ [exitPlace b], place := entryPlace a x, last := exitPlace a, out := out, arr := arr, stamp := stamp }

/-- From s to s' the packet has joined the rings, where its path meets a ring stop. -/
def State.SetsOut (s s' : State) (pk : Packet) (a b : RingEnd) (out arr : Option Nat) (stamp : Nat) : Prop :=
  ∀ x l, ringPath a b = x :: l → s'.dieNet = s.dieNet ∧ s'.ports = s.ports ∧ s'.ring = s.ring ++ [ringStart pk a b x l out arr stamp]

/-- From s to s' the packet has been delivered on this die: over the rings, or at once where its path meets no ring stop. -/
def State.Delivers (s s' : State) (pk : Packet) (a : RingEnd) (arr : Option Nat) (stamp : Nat) : Prop :=
  s.SetsOut s' pk a (s.ringTo pk) none arr stamp ∧
  (ringPath a (s.ringTo pk) = [] → s'.ring = s.ring ∧ s'.dieNet = s.dieNet ++ [{ pkt := pk, port := arr, stamp := stamp }])

/-- The rings and the packets that wait on the die tell two states apart, as far as setting out goes. -/
theorem State.SetsOut.congr {s t s' : State} {pk : Packet} {a b : RingEnd} {out arr : Option Nat} {stamp : Nat} (hd : t.dieNet = s.dieNet)
    (hp : t.ports = s.ports) (hr : t.ring = s.ring) (h : t.SetsOut s' pk a b out arr stamp) : s.SetsOut s' pk a b out arr stamp := by
  unfold State.SetsOut at h ⊢
  rwa [hd, hp, hr] at h

theorem State.Delivers.congr {s t s' : State} {pk : Packet} {a : RingEnd} {arr : Option Nat} {stamp : Nat} (ht : t.ringTo pk = s.ringTo pk)
    (hd : t.dieNet = s.dieNet) (hp : t.ports = s.ports) (hr : t.ring = s.ring) (h : t.Delivers s' pk a arr stamp) : s.Delivers s' pk a arr stamp := by
  unfold State.Delivers State.SetsOut at h ⊢
  rwa [ht, hd, hp, hr] at h

section
variable (s : State) (pk : Packet) (a b : RingEnd) (out arr : Option Nat) (stamp : Nat)

theorem State.ringEnter_on {x : Nat} {l : List Nat} (h : ringPath a b = x :: l) :
    s.ringEnter pk a b out arr stamp = { s with ring := s.ring ++ [ringStart pk a b x l out arr stamp] } := by
  unfold State.ringEnter
  rw [h]
  rfl

theorem State.ringEnter_off (h : ringPath a b = []) : s.ringEnter pk a b out arr stamp = s.ringLeave pk out arr stamp := by
  unfold State.ringEnter
  rw [h]

theorem State.ringEnter_setsOut : s.SetsOut (s.ringEnter pk a b out arr stamp) pk a b out arr stamp := by
  intro x l h
  rw [s.ringEnter_on pk a b out arr stamp h]
  exact ⟨rfl, rfl, rfl⟩

/-- What leaving the rings may change, and the rings themselves, is all that setting out changes. -/
theorem State.ringEnter_only {ps : List Part} (hr : Part.ring ∈ ps) (h : s.Only (s.ringLeave pk out arr stamp) ps) :
    s.Only (s.ringEnter pk a b out arr stamp) ps := by
  cases e : ringPath a b with
  | nil => rwa [s.ringEnter_off pk a b out arr stamp e]
  | cons x l =>
    rw [s.ringEnter_on pk a b out arr stamp e]
    exact (s.only_ring _).mono (by simpa using hr)

theorem State.ringEnter_die_only : s.Only (s.ringEnter pk a b none arr stamp) [.ring, .dieNet] :=
  s.ringEnter_only pk a b none arr stamp (by simp) ((s.only_dieNet _).mono (by simp))

theorem State.ringEnter_delivers : s.Delivers (s.ringEnter pk a (s.ringTo pk) none arr stamp) pk a arr stamp := by
  refine ⟨s.ringEnter_setsOut pk a _ none arr stamp, fun h => ?_⟩
  rw [s.ringEnter_off pk a _ none arr stamp h]
  exact ⟨rfl, rfl⟩

end

/-! ### To a port (R263, R279, R283) -/

section
variable {s : State} {q : Nat}

/-- Port x with the packet at the end of its queue, on VC v. -/
def Port.enqueue (x : Port) (pk : Packet) (v : Nat) (arr : Option Nat) : Port := { x with txq := x.txq ++ [{ pkt := pk, vc := v, arrival := arr }] }

theorem State.portQueue_up (h : (s.port q).mode = .up) (pk : Packet) (arr : Option Nat) :
    s.portQueue pk q arr = s.onPort q (fun x => x.enqueue pk (s.outVc pk q arr) arr) := if_neg (by simp [h])

theorem State.toPort_down (h : (s.port q).mode ≠ .up) (pk : Packet) (arr : Option Nat) :
    s.toPort pk q arr = s.cnt .portDropPortDown q 0 1 := if_pos h

theorem State.toPort_injected (h : (s.port q).mode = .up) (pk : Packet) :
    s.toPort pk q none = (s.bump .fabInjPkts).ringEnter pk (packetFrom pk) (.ioDie (q / 2)) (some q) none s.tally := if_neg (by simp [h])

theorem State.toPort_transit (h : (s.port q).mode = .up) (pk : Packet) (p : Nat) :
    s.toPort pk q (some p) = (s.bump .fabTransitPkts).onPort q (fun x => x.enqueue pk ((s.bump .fabTransitPkts).outVc pk q (some p)) (some p)) :=
  (if_neg (by simp [h])).trans (State.portQueue_up (s := s.bump .fabTransitPkts) h pk _)

/-- A data packet keeps its VC (R279). -/
theorem State.outVc_data (s : State) {pk : Packet} (h : 2 ≤ pk.vc) (q : Nat) (arr : Option Nat) : s.outVc pk q arr = pk.vc := if_pos h

end

/-! ### The routing decision (R284, R285) -/

section
variable {s : State} {pk : Packet} {q : Nat}

theorem State.portPresent_eq (s : State) (q : Nat) : s.portPresent q = decide (q < s.variant.ports) := rfl

theorem State.routePacket_unrouted (h : s.route pk.dstDev pk.epoch = none) (arr : Option Nat) :
    s.routePacket pk arr = s.bump .fabDropNoRoute := by
  unfold State.routePacket
  rw [h]

theorem State.routePacket_absent (h : s.route pk.dstDev pk.epoch = some q) (hq : s.variant.ports ≤ q) (arr : Option Nat) :
    s.routePacket pk arr = s.bump .fabDropAbsentPort := by
  unfold State.routePacket
  rw [h]
  exact if_pos (by simp [State.portPresent_eq, hq])

theorem State.routePacket_injected (h : s.route pk.dstDev pk.epoch = some q) (hq : q < s.variant.ports) (hh : pk.hops = 0) :
    s.routePacket pk none = s.toPort pk q none := by
  unfold State.routePacket
  rw [h]
  simp [State.portPresent_eq, hq, show ¬ pk.hops > s.rd .fabHopLimit by omega]

theorem State.routePacket_uturn (h : s.route pk.dstDev pk.epoch = some q) (hq : q < s.variant.ports) :
    s.routePacket pk (some q) = s.bump .fabDropUturn := by
  unfold State.routePacket
  rw [h]
  simp [State.portPresent_eq, hq]

theorem State.routePacket_worn (h : s.route pk.dstDev pk.epoch = some q) (hq : q < s.variant.ports) {p : Nat} (hp : q ≠ p)
    (hh : pk.hops + 1 > s.rd .fabHopLimit) : s.routePacket pk (some p) = s.bump .fabDropHops := by
  unfold State.routePacket
  rw [h]
  simp [State.portPresent_eq, hq, Ne.symm hp, hh]

theorem State.routePacket_onward (h : s.route pk.dstDev pk.epoch = some q) (hq : q < s.variant.ports) {p : Nat} (hp : q ≠ p)
    (hh : pk.hops + 1 ≤ s.rd .fabHopLimit) : s.routePacket pk (some p) = s.toPort { pk with hops := pk.hops + 1 } q (some p) := by
  unfold State.routePacket
  rw [h]
  simp [State.portPresent_eq, hq, Ne.symm hp, Nat.not_lt.mpr hh]

end

end Sys2Proof.Machine
end

section
/-! SUPPORT. PACKET_INJECT (R24, R31, R275, R287, R325, R421): whose turn it is, the stamp, and where the packet goes. -/
namespace Sys2Proof.Machine

/-! ### Whose turn it is (R31, R325) -/

/-- May the packet p at place n of the outbox go next? -/
def State.MayGo (s : State) (n : Nat) (p : Packet) : Prop :=
  let after (q : Packet) : Nat := (seamGid q + 65535 - (s.tile p.srcTile).seamTurn) % 65536
  if p.ty = 6
  then (∀ m q, m < n → s.outbox[m]? = some q → q.ty = 6 → packetFrom q = packetFrom p → seamGid q = seamGid p → q.vc ≠ p.vc) ∧
    (∀ q ∈ s.outbox, q.ty = 6 → packetFrom q = packetFrom p → after p ≤ after q)
  else ∀ m q, m < n → s.outbox[m]? = some q → q.ty ≠ 6 → packetFrom q = packetFrom p → q.vc ≠ p.vc

/-- No entry before place n passes a test. -/
theorem not_any_take_iff {α : Type} (l : List α) (n : Nat) (f : α → Bool) :
    (!(l.take n).any f) = true ↔ ∀ m x, m < n → l[m]? = some x → f x = false := by
  simp only [Bool.not_eq_true', List.any_eq_false, List.mem_take_iff_getElem, Bool.not_eq_true]
  constructor
  · intro h m x hm hx
    obtain ⟨hl, rfl⟩ := List.getElem?_eq_some_iff.mp hx
    exact h _ ⟨m, by omega, rfl⟩
  · rintro h x ⟨m, hm, rfl⟩
    exact h m _ (by omega) (List.getElem?_eq_getElem (by omega))

theorem State.mayInject_iff (s : State) (n : Nat) (p : Packet) : s.mayInject n p = true ↔ s.MayGo n p := by
  unfold State.mayInject State.MayGo
  split
  · rw [Bool.and_eq_true, not_any_take_iff, List.all_eq_true]
    simp [List.mem_filter, and_imp]
  · rw [not_any_take_iff]
    simp

/-- The packet p comes from a tile that is stopped (R421). -/
abbrev State.Held (s : State) (p : Packet) : Prop := packetFrom p = .tile p.srcTile ∧ (s.tile p.srcTile).stopped = true

/-- The state from which the packet p, taken from place n of the outbox, goes; a SEAM packet has had its collective's turn. -/
def State.taken (s : State) (n : Nat) (p : Packet) : State :=
  { (if p.ty = 6 then s.onTile p.srcTile (fun x => { x with seamTurn := seamGid p }) else s) with outbox := s.outbox.eraseIdx n }

section
variable (s : State) (n : Nat) (p : Packet)

theorem State.only_taken : s.Only (s.taken n p) [.tiles, .outbox] :=
  (State.Only.ite ((s.only_onTile _ _).mono (by simp)) (.refl s _)).trans ((State.only_outbox _ _).mono (by simp))

@[simp] theorem State.rd_taken (f : Field) (i j : Nat) : (s.taken n p).rd f i j = s.rd f i j := (s.only_taken n p).rd (by simp) (by simp) f i j
@[simp] theorem State.variant_taken : (s.taken n p).variant = s.variant := s.only_taken n p .variant (by simp)
@[simp] theorem State.tally_taken : (s.taken n p).tally = s.tally := s.only_taken n p .tally (by simp)
@[simp] theorem State.ring_taken : (s.taken n p).ring = s.ring := s.only_taken n p .ring (by simp)

@[simp] theorem State.port_taken (q : Nat) : (s.taken n p).port q = s.port q := (s.only_taken n p).port (by simp) q

@[simp] theorem State.route_taken (dev e : Nat) : (s.taken n p).route dev e = s.route dev e := (s.only_taken n p).route (by simp) dev e

@[simp] theorem State.fieldsBut_taken (t : State) (l : List (Field × Nat × Nat)) : (s.taken n p).FieldsBut t l ↔ s.FieldsBut t l := by
  simp only [State.FieldsBut, State.rd_taken]

end

/-- A packet whose turn it is not, or of a stopped tile, stays; another is taken and injected. -/
theorem State.packetInject_queued (s : State) (n : Nat) : s.packetInject (.queued n) =
    (s.outbox[n]?).elim s (fun p => if !s.mayInject n p ∨ s.Held p then s else (s.taken n p).inject p) := by
  rw [State.packetInject]
  cases s.outbox[n]? with
  | none => rfl
  | some p =>
    refine ite_congr rfl (fun _ => rfl) (fun _ => congrArg (State.inject · p) ?_)
    unfold State.taken
    split <;> rfl

theorem State.packetInject_none {s : State} {n : Nat} (h : s.outbox.length ≤ n) : s.packetInject (.queued n) = s := by
  rw [State.packetInject_queued, List.getElem?_eq_none h]
  rfl

theorem State.packetInject_waits {s : State} {n : Nat} {p : Packet} (hp : s.outbox[n]? = some p) (h : ¬ s.MayGo n p ∨ s.Held p) :
    s.packetInject (.queued n) = s := by
  rw [State.packetInject_queued, hp]
  exact if_pos (h.imp_left (fun hn => by simpa [← State.mayInject_iff] using hn))

theorem State.packetInject_goes {s : State} {n : Nat} {p : Packet} (hp : s.outbox[n]? = some p) (h : s.MayGo n p) (hh : ¬ s.Held p) :
    s.packetInject (.queued n) = (s.taken n p).inject p := by
  rw [State.packetInject_queued, hp]
  exact if_neg (not_or.mpr ⟨by simp [(s.mayInject_iff n p).mpr h], hh⟩)

/-! ### The stamp, and where a packet goes (R275, R277, R287) -/

/-- The packet p as it is injected. -/
def State.stamped (s : State) (p : Packet) : Packet :=
  { p with epoch := s.rd .fabEpochInj, hops := 0, injAt := s.tally % 2 ^ 32, srcDev := s.rd .fabDevIdId }

/-- The packet p is for this die, or for this device. -/
def State.ForHere (s : State) (p : Packet) : Prop := p.onDie = true ∨ (p.dstDev ≠ 0xFFFFF ∧ s.rd .fabDevIdValid ≠ 0 ∧ p.dstDev = s.rd .fabDevIdId)

section
variable {s : State} {p : Packet} {q : Nat}

theorem State.inject_here (h : s.ForHere p) :
    s.inject p = s.ringEnter (s.stamped p) (packetFrom p) (s.ringTo (s.stamped p)) none none s.tally := by
  cases hd : p.onDie with
  | true => exact if_pos hd
  | false =>
    obtain hd' | ⟨h1, h2, h3⟩ := h
    · exact absurd (hd.symm.trans hd') (by decide)
    · exact (if_neg (by simp [hd])).trans ((if_neg h1).trans ((if_neg (by simpa [State.on] using h2)).trans (if_pos h3)))

variable (hd : p.onDie = false)
include hd

theorem State.inject_unnamed (h : p.dstDev = 0xFFFFF) (hv : p.via = none) : s.inject p = s.bump .fabDropNoRoute := by
  simp [State.inject, hd, h, hv]

theorem State.inject_absent (h : p.dstDev = 0xFFFFF) (hv : p.via = some q) (hq : q ≥ s.variant.ports) : s.inject p = s.bump .fabDropAbsentPort := by
  simp [State.inject, hd, h, hv, State.portPresent_eq, hq]

theorem State.inject_via (h : p.dstDev = 0xFFFFF) (hv : p.via = some q) (hq : q < s.variant.ports) : s.inject p = s.toPort (s.stamped p) q none := by
  simp [State.inject, State.stamped, hd, h, hv, State.portPresent_eq, hq]

theorem State.inject_unassigned (h : p.dstDev ≠ 0xFFFFF) (hv : s.rd .fabDevIdValid = 0) : s.inject p = s.bump .fabDropUnassigned :=
  (if_neg (by simp [hd])).trans ((if_neg h).trans (if_pos (by simp [State.on, hv])))

theorem State.inject_away (h : p.dstDev ≠ 0xFFFFF) (hv : s.rd .fabDevIdValid ≠ 0) (hi : p.dstDev ≠ s.rd .fabDevIdId) :
    s.inject p = s.routePacket (s.stamped p) none :=
  (if_neg (by simp [hd])).trans ((if_neg h).trans ((if_neg (by simpa [State.on] using hv)).trans (if_neg hi)))

end

end Sys2Proof.Machine
end

section
/-! SUPPORT. What each PACKET_INJECT answers. -/
namespace Sys2Proof.Machine

/-- The counters of packets and of their drops have 64 bits. -/
theorem State.rd_bump_wide (s : State) {f : Field} (hw : f.info.width = 64) : (s.bump f).rd f = (s.rd f + 1) % 2 ^ 64 := by
  rw [State.rd_bump_same, hw]

@[simp] theorem State.stamped_taken (s : State) (n : Nat) (p : Packet) : (s.taken n p).stamped p = s.stamped p := by
  simp only [State.stamped, State.rd_taken, State.tally_taken]

/-- Queueing at an UP port changes the ports alone. -/
theorem State.portQueue_only {s : State} {q : Nat} (h : (s.port q).mode = .up) (pk : Packet) (arr : Option Nat) :
    s.Only (s.portQueue pk q arr) [.ports] := by
  rw [State.portQueue_up h]
  exact s.only_onPort q _

/-- An injected packet for an UP port changes the rings or the port's queue, and the count. -/
theorem State.toPort_injected_only {s : State} {q : Nat} (h : (s.port q).mode = .up) (pk : Packet) :
    (s.bump .fabInjPkts).Only (s.toPort pk q none) [.ring, .ports] := by
  rw [State.toPort_injected h]
  exact State.ringEnter_only _ pk _ _ _ none _ (by simp) ((State.portQueue_only (s := s.bump .fabInjPkts) h pk none).mono (by simp))

/-! ### Waiting packets -/

section
variable (s : State) (n : Nat) (p : Packet)

/-- The packet p goes from place n, and is dropped and counted in f. -/
def State.InjectDrops (f : Field) : Prop := Completes (.packetInject (.queued n)) s (fun s' =>
  s'.rd f = (s.rd f + 1) % 2 ^ 64 ∧ s.FieldsBut s' [(f, 0, 0)] ∧ (s.taken n p).Only s' [.regs])

/-- The packet p goes from place n to port q: onto the rings, or at once into the port's queue, while the port is UP; else it is dropped (R263). -/
def State.InjectsToPort (q : Nat) : Prop :=
  ((s.port q).mode = .up → Completes (.packetInject (.queued n)) s (fun s' =>
    (s.taken n p).SetsOut s' (s.stamped p) (packetFrom (s.stamped p)) (.ioDie (q / 2)) (some q) none s.tally ∧
    (ringPath (packetFrom (s.stamped p)) (.ioDie (q / 2)) = [] → s'.ring = s.ring ∧
      (∃ v, (s'.port q).txq = (s.port q).txq ++ [{ pkt := s.stamped p, vc := v, arrival := none }] ∧ (p.vc ≥ 2 → v = p.vc)) ∧
      (∀ r, r ≠ q → s'.port r = s.port r)) ∧
    s'.rd .fabInjPkts = (s.rd .fabInjPkts + 1) % 2 ^ 64 ∧ s.FieldsBut s' [(.fabInjPkts, 0, 0)] ∧ (s.taken n p).Only s' [.regs, .ring, .ports])) ∧
  ((s.port q).mode ≠ .up → Completes (.packetInject (.queued n)) s (fun s' =>
    s'.rd .portDropPortDown q = (s.rd .portDropPortDown q + 1) % 2 ^ 64 ∧ (s.taken n p).Only s' [.regs]))

end

section
variable {s : State} {n : Nat} {p : Packet} (hp : s.outbox[n]? = some p) (hg : s.MayGo n p) (hh : ¬ s.Held p)
include hp hg hh

theorem Completes.injects {P : State → Prop} {r : State} (he : (s.taken n p).inject p = r) (hP : P r) : Completes (.packetInject (.queued n)) s P :=
  ⟨r, congrArg Host.Outcome.next ((State.packetInject_goes hp hg hh).trans he), hP⟩

theorem injects_here (h : s.ForHere p) : Completes (.packetInject (.queued n)) s (fun s' =>
    (s.taken n p).Delivers s' (s.stamped p) (packetFrom (s.stamped p)) none s.tally ∧ (s.taken n p).Only s' [.ring, .dieNet]) := by
  have h' : (s.taken n p).ForHere p := by simpa only [State.ForHere, State.rd_taken] using h
  have he := State.inject_here h'
  rw [State.stamped_taken, State.tally_taken] at he
  exact .injects hp hg hh he ⟨State.ringEnter_delivers _ _ _ _ _, State.ringEnter_die_only _ _ _ _ _ _⟩

theorem injects_drop {f : Field} (hw : f.info.width = 64) (he : (s.taken n p).inject p = (s.taken n p).bump f) : s.InjectDrops n p f := by
  refine .injects hp hg hh he ⟨?_, ?_, State.only_bump _ f⟩
  · rw [State.rd_bump_wide _ hw, State.rd_taken]
  · exact (s.fieldsBut_taken n p _ _).mp (State.fieldsBut_bump _ f)

theorem injects_toPort {q : Nat} (he : (s.taken n p).inject p = (s.taken n p).toPort (s.stamped p) q none) : s.InjectsToPort n p q := by
  refine ⟨fun hup => ?_, fun hdown => ?_⟩
  · have hup' : ((s.taken n p).port q).mode = .up := by rwa [State.port_taken]
    have ho := State.toPort_injected_only hup' (s.stamped p)
    have hrd := ho.rd (by simp) (by simp)
    refine .injects hp hg hh he ⟨?_, fun hoff => ?_, ?_, fun f i j hf => ?_,
      ((State.only_bump _ _).mono (by simp)).trans (ho.mono (by simp))⟩
    · rw [State.toPort_injected hup', State.tally_taken]
      exact State.ringEnter_setsOut _ _ _ _ _ _ _
    · rw [State.toPort_injected hup', State.ringEnter_off _ _ _ _ _ _ _ hoff]
      have hq := State.portQueue_up (s := (s.taken n p).bump .fabInjPkts) hup' (s.stamped p) none
      refine ⟨?_, ⟨((s.taken n p).bump .fabInjPkts).outVc (s.stamped p) q none, ?_, fun hv => State.outVc_data _ hv q none⟩, fun r hr => ?_⟩
      · rw [State.ringLeave, hq]
        exact s.ring_taken n p
      · rw [State.ringLeave, hq, State.port_onPort_same, State.port_bump, State.port_taken]
        rfl
      · rw [State.ringLeave, hq, State.port_onPort_ne _ hr, State.port_bump, State.port_taken]
    · rw [hrd, State.rd_bump_wide _ rfl, State.rd_taken]
    · rw [hrd, State.fieldsBut_bump _ _ f i j hf, State.rd_taken]
  · have hdown' : ((s.taken n p).port q).mode ≠ .up := by rwa [State.port_taken]
    refine .injects hp hg hh (he.trans (State.toPort_down hdown' _ _)) ⟨?_, State.only_cnt _ _ _ _ _⟩
    rw [State.rd_cnt_same, State.rd_taken]
    rfl

theorem injects_linkLocal (hd : p.onDie = false) (hl : p.dstDev = 0xFFFFF) :
    (p.via = none → s.InjectDrops n p .fabDropNoRoute) ∧
    (∀ q, p.via = some q → (q ≥ s.variant.ports → s.InjectDrops n p .fabDropAbsentPort) ∧ (q < s.variant.ports → s.InjectsToPort n p q)) := by
  refine ⟨fun hv => injects_drop hp hg hh rfl (State.inject_unnamed hd hl hv), fun q hv => ⟨fun hq => ?_, fun hq => ?_⟩⟩
  · exact injects_drop hp hg hh rfl (State.inject_absent hd hl hv (by rwa [State.variant_taken]))
  · have he := State.inject_via hd hl hv (s := s.taken n p) (by rwa [State.variant_taken])
    exact injects_toPort hp hg hh (by rwa [State.stamped_taken] at he)

theorem injects_routed (hd : p.onDie = false) (hl : p.dstDev ≠ 0xFFFFF) :
    (s.rd .fabDevIdValid = 0 → s.InjectDrops n p .fabDropUnassigned) ∧
    (s.rd .fabDevIdValid ≠ 0 → p.dstDev ≠ s.rd .fabDevIdId →
      (s.route p.dstDev (s.rd .fabEpochInj) = none → s.InjectDrops n p .fabDropNoRoute) ∧
      (∀ q, s.route p.dstDev (s.rd .fabEpochInj) = some q →
        (q ≥ s.variant.ports → s.InjectDrops n p .fabDropAbsentPort) ∧ (q < s.variant.ports → s.InjectsToPort n p q))) := by
  refine ⟨fun hv => injects_drop hp hg hh rfl (State.inject_unassigned hd hl (by rwa [State.rd_taken])), fun hv hi => ?_⟩
  have he := State.inject_away hd (s := s.taken n p) hl (by rwa [State.rd_taken]) (by rwa [State.rd_taken])
  rw [State.stamped_taken] at he
  have hr (o : Option Nat) (h : s.route p.dstDev (s.rd .fabEpochInj) = o) :
      (s.taken n p).route (s.stamped p).dstDev (s.stamped p).epoch = o := by rwa [State.route_taken]
  refine ⟨fun hn => ?_, fun q hq => ⟨fun ha => ?_, fun ha => ?_⟩⟩
  · exact injects_drop hp hg hh rfl (he.trans (State.routePacket_unrouted (hr _ hn) none))
  · exact injects_drop hp hg hh rfl (he.trans (State.routePacket_absent (hr _ hq) (by rwa [State.variant_taken]) none))
  · exact injects_toPort hp hg hh (he.trans (State.routePacket_injected (hr _ hq) (by rwa [State.variant_taken]) rfl))

end

/-! ### Reads of a hoist (R238, R245) -/

/-- The lines that a read of a hoist keeps outstanding. -/
def readLines (addr len : Nat) : Nat := max 1 (linesOf addr len)

section
variable (s : State) (t : TileId) (addr len : Nat)

/-- The state in which a read has taken its TAG. -/
def State.readTagged : State :=
  s.onTile t (fun x => { x with hoist := { x.hoist with
    nextTag := (x.hoist.nextTag + 1) % 2 ^ 32, reads := x.hoist.reads ++ List.replicate (readLines addr len) x.hoist.nextTag } })

/-- The read as its packet. -/
def State.readPacket : Packet := s.tilePacket t { ty := 4, addr := addr, len := len, tag := (s.tile t).hoist.nextTag, onDie := true }

/-- A read that the tile, its limit or the size of a packet does not allow. -/
theorem State.packetInject_read_waits (h : (s.tile t).active = false ∨ (s.tile t).hoist.reads.length + readLines addr len > 1024 ∨ len > 8192) :
    s.packetInject (.read t addr len) = s := by
  rw [State.packetInject]
  exact if_pos (h.imp_left (by simp))

theorem State.packetInject_read_goes (ha : (s.tile t).active = true) (hl : (s.tile t).hoist.reads.length + readLines addr len ≤ 1024)
    (hs : len ≤ 8192) : s.packetInject (.read t addr len) = (s.readTagged t addr len).inject (s.readPacket t addr len) := by
  rw [State.packetInject]
  refine if_neg (not_or.mpr ⟨by simp [ha], not_or.mpr ⟨Nat.not_lt.mpr hl, Nat.not_lt.mpr hs⟩⟩)

/-- A read takes the TAG and is delivered on this die. -/
theorem injects_read (ha : (s.tile t).active = true) (hl : (s.tile t).hoist.reads.length + readLines addr len ≤ 1024) (hs : len ≤ 8192) :
    Completes (.packetInject (.read t addr len)) s (fun s' =>
      (s'.tile t).hoist = { (s.tile t).hoist with
        nextTag := ((s.tile t).hoist.nextTag + 1) % 2 ^ 32,
        reads := (s.tile t).hoist.reads ++ List.replicate (readLines addr len) (s.tile t).hoist.nextTag } ∧
      (∃ pk : Packet, s.Delivers s' pk (.tile t) none s.tally ∧ pk.ty = 4 ∧ pk.addr = addr ∧ pk.len = len ∧
        pk.tag = (s.tile t).hoist.nextTag ∧ pk.srcTile = t.val ∧ pk.gen = s.rd .tileGen t) ∧
      s.TilesBut s' t ∧ s.Only s' [.tiles, .ring, .dieNet]) := by
  have he := (s.packetInject_read_goes t addr len ha hl hs).trans (State.inject_here (p := s.readPacket t addr len) (Or.inl rfl))
  have ho := (s.readTagged t addr len).ringEnter_die_only ((s.readTagged t addr len).stamped (s.readPacket t addr len)) (.tile t)
    ((s.readTagged t addr len).ringTo ((s.readTagged t addr len).stamped (s.readPacket t addr len))) none (s.readTagged t addr len).tally
  have hdel := State.Delivers.congr ((s.only_onTile t _).ringTo (by simp) (by simp) (by simp) (by simp) _) rfl rfl rfl
    ((s.readTagged t addr len).ringEnter_delivers ((s.readTagged t addr len).stamped (s.readPacket t addr len)) (.tile t) none s.tally)
  have htile := ho.tile (by simp)
  refine ⟨_, congrArg Host.Outcome.next he, ?_,
    ⟨(s.readTagged t addr len).stamped (s.readPacket t addr len), hdel, rfl, rfl, rfl, rfl, rfl, rfl⟩, fun u hu => ?_,
    ((s.only_onTile t _).mono (by simp)).trans (ho.mono (by simp))⟩
  · exact (congrArg Tile.hoist (htile t)).trans (congrArg Tile.hoist (s.tile_onTile_same t _))
  · exact (htile u).trans (s.tile_onTile_ne hu _)

end

end Sys2Proof.Machine
end

section
/-! SUPPORT. PACKET_RECEIVE_PORT (R257, R276, R277, R284, R285, R424): the packet that leaves the port's queue, and where it goes. -/
namespace Sys2Proof.Machine

/-! ### Headers (R276) -/

/-- A header that R276 refuses. -/
def BadHdr (pk : Packet) (v : Nat) : Prop := pk.len > 8192 ∨ pk.ty = 4 ∨ pk.ty = 5 ∨ pk.ty = 7 ∨ pk.ty ≥ 0xC ∨ pk.vc ≠ v

section
variable {pk : Packet} {v : Nat}

theorem badHeader_bad (h : BadHdr pk v) : badHeader pk v = some .fabDropBadhdr := by
  refine if_pos ?_
  unfold BadHdr at h
  omega

theorem badHeader_eq (h : ¬ BadHdr pk v) : badHeader pk v = if (8 ≤ pk.ty ↔ v < 2) then none else some .fabDropBadvc := by
  obtain rfl : pk.vc = v := by unfold BadHdr at h; omega
  refine (if_neg (by unfold BadHdr at h; omega)).trans ?_
  by_cases h8 : 8 ≤ pk.ty <;> by_cases h2 : pk.vc < 2 <;> simp [h8, h2]

end

/-! ### Taking a packet from the queue (R257) -/

section
variable (s : State) (p : Nat) (r : RxPkt) (rest : List RxPkt)

/-- The state in which the port's oldest packet r has left its queue, and its flits are owed as credits. -/
def State.popped : State := (s.onPort p (fun x => { x with rxq := rest })).owe p r.vc r.flits

@[simp] theorem State.port_popped : (s.popped p r rest).port p =
    { s.port p with rxq := rest, owed := sput 0 r.vc (sget 0 r.vc (s.port p).owed + r.flits) (s.port p).owed } := by
  simp [State.popped, State.owe]

theorem State.port_popped_ne {q : Nat} (h : q ≠ p) : (s.popped p r rest).port q = s.port q := by
  rw [State.popped, State.owe, State.port_onPort_ne _ h, State.port_onPort_ne _ h]

theorem State.only_popped : s.Only (s.popped p r rest) [.ports] := (s.only_onPort p _).trans (State.only_onPort (s.onPort p _) p _)

@[simp] theorem State.rd_popped (f : Field) (i j : Nat) : (s.popped p r rest).rd f i j = s.rd f i j :=
  (s.only_popped p r rest).rd (by simp) (by simp) f i j

@[simp] theorem State.variant_popped : (s.popped p r rest).variant = s.variant := s.only_popped p r rest .variant (by simp)

@[simp] theorem State.route_popped (dev e : Nat) : (s.popped p r rest).route dev e = s.route dev e :=
  (s.only_popped p r rest).route (by simp) dev e

@[simp] theorem State.ringTo_popped (pk : Packet) : (s.popped p r rest).ringTo pk = s.ringTo pk :=
  (s.only_popped p r rest).ringTo (by simp) (by simp) (by simp) (by simp) pk

@[simp] theorem State.fieldsBut_popped (t : State) (l : List (Field × Nat × Nat)) : (s.popped p r rest).FieldsBut t l ↔ s.FieldsBut t l := by
  simp only [State.FieldsBut, State.rd_popped]

end

section
variable (s : State) (p : Nat) (r : RxPkt) (rest : List RxPkt)

/-- The state in which r has also been counted as a packet for this device. -/
def State.ejected : State := (s.popped p r rest).bump .fabEjectPkts

theorem State.port_ejected : (s.ejected p r rest).port p = (s.popped p r rest).port p := State.port_bump _ _ _

theorem State.rd_ejected : (s.ejected p r rest).rd .fabEjectPkts = (s.rd .fabEjectPkts + 1) % 2 ^ 64 := by
  rw [State.ejected, State.rd_bump_wide _ rfl, State.rd_popped]

theorem State.only_ejected : s.Only (s.ejected p r rest) [.regs, .ports] :=
  ((s.only_popped p r rest).mono (by simp)).trans ((State.only_bump _ _).mono (by simp))

theorem State.ring_ejected : (s.ejected p r rest).ring = s.ring := s.only_ejected p r rest .ring (by simp)
theorem State.dieNet_ejected : (s.ejected p r rest).dieNet = s.dieNet := s.only_ejected p r rest .dieNet (by simp)

end

/-- Counting in a counter that no address depends on leaves the ends of packets' paths. -/
theorem State.ringTo_ejected (s : State) (pk : Packet) : (s.bump .fabEjectPkts).ringTo pk = s.ringTo pk := by
  refine State.ringTo_congr (s.bump_variant _) (State.bandMode_congr (s.bump_bandNext _) fun f hf => ?_) (s.bump_hfOut _) pk
  have hne : f ≠ .fabEjectPkts := by rintro rfl; simp at hf
  exact s.rd_bump_ne hne 0 0

/-- Where a packet goes that came in by port p on VC r.vc: it is dropped for its header, delivered here, or routed on. -/
def State.receive (s : State) (p : Nat) (r : RxPkt) : State :=
  match badHeader r.pkt r.vc with
  | some f => s.bump f
  | none =>
    if r.pkt.dstDev = 0xFFFFF then
      if r.pkt.ty ≥ 8 then (s.bump .fabEjectPkts).ringEnter r.pkt (.ioDie (p / 2)) .headframe none (some p) r.stamp else s.bump .fabEjectPkts
    else if !s.on .fabDevIdValid then s.bump .fabDropUnassigned
    else if r.pkt.dstDev = s.rd .fabDevIdId then (s.bump .fabEjectPkts).deliver r.pkt (.ioDie (p / 2)) (some p) r.stamp
    else s.routePacket r.pkt (some p)

section
variable {s : State} {p : Nat} {r : RxPkt} {rest : List RxPkt}

theorem State.packetReceive_none (h : (s.port p).rxq = [] ∨ (s.port p).halted = true) : s.packetReceive p = s := by
  unfold State.packetReceive
  cases hq : (s.port p).rxq with
  | nil => rfl
  | cons r rest =>
    obtain hn | hh := h
    · simp [hq] at hn
    · exact if_pos (Or.inl hh)

/-- Its port may yet bring more of the packet's flits (log 94). -/
def State.MayLengthen (s : State) (p : Nat) (r : RxPkt) (rest : List RxPkt) : Prop := (s.port p).mode = .up ∧ rest = [] ∧ (s.port p).tail = some r.vc

variable (hq : (s.port p).rxq = r :: rest)
include hq

theorem State.packetReceive_waits (h : s.MayLengthen p r rest) : s.packetReceive p = s := by
  unfold State.packetReceive
  rw [hq]
  exact if_pos (Or.inr h)

theorem State.packetReceive_goes (hh : (s.port p).halted = false) (h : ¬ s.MayLengthen p r rest) :
    s.packetReceive p = (s.popped p r rest).receive p r := by
  unfold State.packetReceive
  rw [hq]
  exact if_neg (not_or.mpr ⟨by simp [hh], h⟩)

end

section
variable {s : State} {p : Nat} {r : RxPkt}

theorem State.receive_bad {f : Field} (h : badHeader r.pkt r.vc = some f) : s.receive p r = s.bump f := by
  unfold State.receive
  rw [h]

variable (hg : badHeader r.pkt r.vc = none)
include hg

theorem State.receive_linkLocal (hd : r.pkt.dstDev = 0xFFFFF) : s.receive p r =
    if r.pkt.ty ≥ 8 then (s.bump .fabEjectPkts).ringEnter r.pkt (.ioDie (p / 2)) .headframe none (some p) r.stamp else s.bump .fabEjectPkts := by
  unfold State.receive
  rw [hg]
  exact if_pos hd

variable (hd : r.pkt.dstDev ≠ 0xFFFFF)
include hd

theorem State.receive_unassigned (hv : s.rd .fabDevIdValid = 0) : s.receive p r = s.bump .fabDropUnassigned := by
  unfold State.receive
  rw [hg]
  exact (if_neg hd).trans (if_pos (by simp [State.on, hv]))

theorem State.receive_here (hv : s.rd .fabDevIdValid ≠ 0) (hi : r.pkt.dstDev = s.rd .fabDevIdId) :
    s.receive p r = (s.bump .fabEjectPkts).ringEnter r.pkt (.ioDie (p / 2)) (s.ringTo r.pkt) none (some p) r.stamp := by
  rw [← s.ringTo_ejected]
  unfold State.receive
  rw [hg]
  exact (if_neg hd).trans ((if_neg (by simpa [State.on] using hv)).trans (if_pos hi))

theorem State.receive_away (hv : s.rd .fabDevIdValid ≠ 0) (hi : r.pkt.dstDev ≠ s.rd .fabDevIdId) :
    s.receive p r = s.routePacket r.pkt (some p) := by
  unfold State.receive
  rw [hg]
  exact (if_neg hd).trans ((if_neg (by simpa [State.on] using hv)).trans (if_neg hi))

end

/-! ### What each PACKET_RECEIVE_PORT answers -/

/-- The packet r of port p is dropped and counted in f. -/
def State.ReceiveDrops (s : State) (p : PortId) (r : RxPkt) (rest : List RxPkt) (f : Field) : Prop := Completes (.packetReceivePort p) s (fun s' =>
  s'.rd f = (s.rd f + 1) % 2 ^ 64 ∧ (s'.port p).rxq = rest ∧ sget 0 r.vc (s'.port p).owed = sget 0 r.vc (s.port p).owed + r.flits ∧
  s.FieldsBut s' [(f, 0, 0)] ∧ s.Only s' [.regs, .ports])

section
variable {s : State} {p : PortId} {r : RxPkt} {rest : List RxPkt}
  (hq : (s.port p).rxq = r :: rest) (hh : (s.port p).halted = false) (hm : ¬ s.MayLengthen p r rest)
include hq hh hm

theorem Completes.receives {P : State → Prop} {t : State} (he : (s.popped p r rest).receive p r = t) (hP : P t) : Completes (.packetReceivePort p) s P :=
  ⟨t, congrArg Host.Outcome.next ((State.packetReceive_goes hq hh hm).trans he), hP⟩

theorem receives_drop {f : Field} (hw : f.info.width = 64) (he : (s.popped p r rest).receive p r = (s.popped p r rest).bump f) :
    s.ReceiveDrops p r rest f := by
  refine .receives hq hh hm he ⟨?_, ?_, ?_, ?_, ((s.only_popped p r rest).mono (by simp)).trans ((State.only_bump _ f).mono (by simp))⟩
  · rw [State.rd_bump_wide _ hw, State.rd_popped]
  · rw [State.port_bump, State.port_popped]
  · rw [State.port_bump, State.port_popped, sget_sput_same]
  · exact (s.fieldsBut_popped p r rest _ _).mp (State.fieldsBut_bump _ f)

theorem receives_linkLocal (hg : badHeader r.pkt r.vc = none) (hd : r.pkt.dstDev = 0xFFFFF) : Completes (.packetReceivePort p) s (fun s' =>
    (s'.port p).rxq = rest ∧ s'.rd .fabEjectPkts = (s.rd .fabEjectPkts + 1) % 2 ^ 64 ∧
    (r.pkt.ty ≥ 8 → ringPath (.ioDie (p / 2)) .headframe = [] → s'.dieNet = s.dieNet ++ [{ pkt := r.pkt, port := some p.val, stamp := r.stamp }]) ∧
    s.Only s' [.regs, .ports, .ring, .dieNet]) := by
  have hrxq : ((s.ejected p r rest).port p).rxq = rest := by rw [State.port_ejected, State.port_popped]
  have hpop := (s.only_ejected p r rest).mono (l' := [.regs, .ports, .ring, .dieNet]) (by simp)
  have he := State.receive_linkLocal (s := s.popped p r rest) (p := p) hg hd
  by_cases hty : r.pkt.ty ≥ 8
  · rw [if_pos hty, State.ringEnter_off _ _ _ _ _ _ _ rfl] at he
    have hdie := (s.ejected p r rest).only_dieNet ((s.ejected p r rest).dieNet ++ [{ pkt := r.pkt, port := some p.val, stamp := r.stamp }])
    refine .receives hq hh hm he ⟨?_, ?_, fun _ _ => ?_, hpop.trans (hdie.mono (by simp))⟩
    · exact (congrArg Port.rxq (hdie.port (by simp) p)).trans hrxq
    · exact (hdie.rd (by simp) (by simp) _ _ _).trans (s.rd_ejected p r rest)
    · exact congrArg (· ++ _) (s.dieNet_ejected p r rest)
  · rw [if_neg hty] at he
    exact .receives hq hh hm he ⟨hrxq, s.rd_ejected p r rest, fun h => absurd h hty, hpop⟩

theorem receives_here (hg : badHeader r.pkt r.vc = none) (hd : r.pkt.dstDev ≠ 0xFFFFF) (hv : s.rd .fabDevIdValid ≠ 0)
    (hi : r.pkt.dstDev = s.rd .fabDevIdId) : Completes (.packetReceivePort p) s (fun s' =>
    { s with ports := s'.ports }.SetsOut s' r.pkt (.ioDie (p / 2)) (s.ringTo r.pkt) none (some p.val) r.stamp ∧
    (ringPath (.ioDie (p / 2)) (s.ringTo r.pkt) = [] → s'.ring = s.ring ∧
      s'.dieNet = s.dieNet ++ [{ pkt := r.pkt, port := some p.val, stamp := r.stamp }]) ∧
    (s'.port p).rxq = rest ∧ s'.rd .fabEjectPkts = (s.rd .fabEjectPkts + 1) % 2 ^ 64 ∧
    sget 0 r.vc (s'.port p).owed = sget 0 r.vc (s.port p).owed + r.flits ∧ s.Only s' [.regs, .ports, .ring, .dieNet]) := by
  have he := State.receive_here (s := s.popped p r rest) (p := p) hg hd (by rwa [State.rd_popped]) (by rwa [State.rd_popped])
  rw [State.ringTo_popped] at he
  have ho := (s.ejected p r rest).ringEnter_die_only r.pkt (.ioDie (p / 2)) (s.ringTo r.pkt) (some p.val) r.stamp
  have hport := (ho.port (by simp) p).trans ((s.port_ejected p r rest).trans (s.port_popped p r rest))
  refine .receives hq hh hm he ⟨?_, fun h => ?_, congrArg Port.rxq hport, ?_, ?_, ?_⟩
  · exact State.SetsOut.congr (s.dieNet_ejected p r rest) (ho .ports (by simp)).symm (s.ring_ejected p r rest)
      ((s.ejected p r rest).ringEnter_setsOut _ _ _ _ _ _)
  · rw [State.ringEnter_off _ _ _ _ _ _ _ h]
    exact ⟨s.ring_ejected p r rest, congrArg (· ++ _) (s.dieNet_ejected p r rest)⟩
  · exact (ho.rd (by simp) (by simp) _ _ _).trans (s.rd_ejected p r rest)
  · exact (congrArg (sget 0 r.vc ·.owed) hport).trans (sget_sput_same _ _ _ _)
  · exact ((s.only_ejected p r rest).mono (by simp)).trans (ho.mono (by simp))

/-- A way on whose port is not UP. -/
theorem receives_closed {q : Nat} (hqp : q ≠ p) (hn : q < s.variant.ports) (hdown : (s.port q).mode ≠ .up) {pk : Packet}
    (he : (s.popped p r rest).receive p r = (s.popped p r rest).toPort pk q (some p.val)) : Completes (.packetReceivePort p) s (fun s' =>
    s'.rd .portDropPortDown q = (s.rd .portDropPortDown q + 1) % 2 ^ 64 ∧ (s'.port p).rxq = rest ∧
    s.FieldsBut s' [(.portDropPortDown, q, 0)] ∧ s.Only s' [.regs, .ports]) := by
  have hdown' : ((s.popped p r rest).port q).mode ≠ .up := by rwa [State.port_popped_ne _ _ _ _ hqp]
  have hmod : q % 65536 = q := Nat.mod_eq_of_lt (by have := ports_le_eight s.variant; omega)
  refine .receives hq hh hm (he.trans (State.toPort_down hdown' _ _)) ⟨?_, ?_, ?_,
    ((s.only_popped p r rest).mono (by simp)).trans ((State.only_cnt _ _ _ _ _).mono (by simp))⟩
  · rw [State.rd_cnt_same, State.rd_popped]
    rfl
  · rw [State.port_cnt, State.port_popped]
  · exact (s.fieldsBut_popped p r rest _ _).mp ((State.FieldsBut.refl _ _).cnt (by simp [hmod]) 1)

/-- A way on whose port is UP. -/
theorem receives_onward {q : Nat} (hqp : q ≠ p) (hup : (s.port q).mode = .up) {pk : Packet}
    (he : (s.popped p r rest).receive p r = (s.popped p r rest).toPort pk q (some p.val)) : Completes (.packetReceivePort p) s (fun s' =>
    (∃ v, (s'.port q).txq = (s.port q).txq ++ [{ pkt := pk, vc := v, arrival := some p.val }]) ∧
    (s'.port p).rxq = rest ∧ s'.rd .fabTransitPkts = (s.rd .fabTransitPkts + 1) % 2 ^ 64 ∧
    s.FieldsBut s' [(.fabTransitPkts, 0, 0)] ∧ s.Only s' [.regs, .ports]) := by
  have hup' : ((s.popped p r rest).port q).mode = .up := by rwa [State.port_popped_ne _ _ _ _ hqp]
  refine .receives hq hh hm (he.trans (State.toPort_transit hup' _ _))
    ⟨⟨((s.popped p r rest).bump .fabTransitPkts).outVc pk q (some p.val), ?_⟩, ?_, ?_, ?_,
    ((s.only_popped p r rest).mono (by simp)).trans (((State.only_bump _ _).mono (by simp)).trans ((State.only_onPort _ _ _).mono (by simp)))⟩
  · rw [State.port_onPort_same, State.port_bump, State.port_popped_ne _ _ _ _ hqp]
    rfl
  · rw [State.port_onPort_ne _ (Ne.symm hqp), State.port_bump, State.port_popped]
  · rw [State.rd_onPort, State.rd_bump_wide _ rfl, State.rd_popped]
  · exact (s.fieldsBut_popped p r rest _ _).mp ((State.fieldsBut_bump _ _).congr rfl rfl)

/-- A packet for another device, by the case of its route that holds first (R285). -/
theorem receives_away (hg : badHeader r.pkt r.vc = none) (hd : r.pkt.dstDev ≠ 0xFFFFF) (hv : s.rd .fabDevIdValid ≠ 0)
    (hi : r.pkt.dstDev ≠ s.rd .fabDevIdId) :
    (s.route r.pkt.dstDev r.pkt.epoch = none → s.ReceiveDrops p r rest .fabDropNoRoute) ∧
    (∀ q, s.route r.pkt.dstDev r.pkt.epoch = some q →
      (q ≥ s.variant.ports → s.ReceiveDrops p r rest .fabDropAbsentPort) ∧
      (q < s.variant.ports → q = p → s.ReceiveDrops p r rest .fabDropUturn) ∧
      (q < s.variant.ports → q ≠ p → r.pkt.hops + 1 > s.rd .fabHopLimit → s.ReceiveDrops p r rest .fabDropHops) ∧
      (q < s.variant.ports → q ≠ p → r.pkt.hops + 1 ≤ s.rd .fabHopLimit → (s.port q).mode ≠ .up → Completes (.packetReceivePort p) s (fun s' =>
        s'.rd .portDropPortDown q = (s.rd .portDropPortDown q + 1) % 2 ^ 64 ∧ (s'.port p).rxq = rest ∧
        s.FieldsBut s' [(.portDropPortDown, q, 0)] ∧ s.Only s' [.regs, .ports])) ∧
      (q < s.variant.ports → q ≠ p → r.pkt.hops + 1 ≤ s.rd .fabHopLimit → (s.port q).mode = .up → Completes (.packetReceivePort p) s (fun s' =>
        (∃ v, (s'.port q).txq = (s.port q).txq ++ [{ pkt := { r.pkt with hops := r.pkt.hops + 1 }, vc := v, arrival := some p.val }]) ∧
        (s'.port p).rxq = rest ∧ s'.rd .fabTransitPkts = (s.rd .fabTransitPkts + 1) % 2 ^ 64 ∧
        s.FieldsBut s' [(.fabTransitPkts, 0, 0)] ∧ s.Only s' [.regs, .ports]))) := by
  have he := State.receive_away (s := s.popped p r rest) (p := p) hg hd (by rwa [State.rd_popped]) (by rwa [State.rd_popped])
  have hr := s.route_popped p r rest r.pkt.dstDev r.pkt.epoch
  have hn := s.variant_popped p r rest
  refine ⟨fun h => ?_, fun q h => ⟨fun ha => ?_, fun ha hqp => ?_, fun ha hqp hl => ?_, fun ha hqp hl hdown => ?_, fun ha hqp hl hup => ?_⟩⟩
  · exact receives_drop hq hh hm rfl (he.trans (State.routePacket_unrouted (hr.trans h) _))
  · exact receives_drop hq hh hm rfl (he.trans (State.routePacket_absent (hr.trans h) (by rwa [hn]) _))
  · subst hqp
    exact receives_drop hq hh hm rfl (he.trans (State.routePacket_uturn (hr.trans h) (by rwa [hn])))
  · exact receives_drop hq hh hm rfl (he.trans (State.routePacket_worn (hr.trans h) (by rwa [hn]) hqp (by rwa [State.rd_popped])))
  · exact receives_closed hq hh hm hqp ha hdown (he.trans (State.routePacket_onward (hr.trans h) (by rwa [hn]) hqp (by rwa [State.rd_popped])))
  · exact receives_onward hq hh hm hqp hup (he.trans (State.routePacket_onward (hr.trans h) (by rwa [hn]) hqp (by rwa [State.rd_popped])))

end

end Sys2Proof.Machine
end

section
/-! SUPPORT. The arbiter of a ring link (R24, R32, R279): which packet it grants. -/
namespace Sys2Proof.Machine

/-! ### Deficit round robin -/

/-- What deficit round robin chooses, it has been offered. -/
theorem drrChoose_offered {pick : Nat → Option (Nat × Nat)} {w i : Nat} {out : Nat × List (Nat × Nat)} (fuel : Nat) {fresh : Bool} {v : Nat}
    {defs : List (Nat × Nat)} (h : drrChoose pick w fuel fresh v defs = some (i, out)) : ∃ u n, pick u = some (i, n) := by
  induction fuel generalizing fresh v defs with
  | zero => simp [drrChoose] at h
  | succ fuel ih =>
    rw [drrChoose] at h
    cases hp : pick v with
    | none =>
      rw [hp] at h
      exact ih h
    | some e =>
      obtain ⟨j, n⟩ := e
      rw [hp] at h
      dsimp only at h
      generalize sget 0 v defs + (if fresh then 34 * vcWeightOf w v else 0) = d at h
      by_cases hd : d ≥ n
      · rw [if_pos hd] at h
        obtain ⟨rfl, -⟩ := Prod.mk.inj (Option.some.inj h)
        exact ⟨v, n, hp⟩
      · rw [if_neg hd] at h
        exact ih h

/-! ### Lists -/

theorem getElem?_of_mem_zip_range {α : Type} {l : List α} {e : Nat × α} (h : e ∈ (List.range l.length).zip l) : l[e.1]? = some e.2 := by
  obtain ⟨i, hi, rfl⟩ := List.mem_iff_getElem.mp h
  have hl : i < l.length := by simpa using hi
  simp [hl]

theorem le_foldl_max {n : Nat} (l : List Nat) (a : Nat) : n ≤ l.foldl max a ↔ n ≤ a ∨ ∃ x ∈ l, n ≤ x := by
  induction l generalizing a with
  | nil => simp
  | cons x l ih => simp [ih, or_assoc]

/-- The longest passed over of two requesters. -/
def worse (x y : Nat × Nat) : Nat × Nat := if y.2 > x.2 then y else x

theorem le_worse (x y : Nat × Nat) : x.2 ≤ (worse x y).2 ∧ y.2 ≤ (worse x y).2 := by
  unfold worse
  split <;> omega

theorem foldl_worse_mem (l : List (Nat × Nat)) (x : Nat × Nat) : l.foldl worse x = x ∨ l.foldl worse x ∈ l := by
  induction l generalizing x with
  | nil => exact .inl rfl
  | cons y l ih =>
    obtain h | h := ih (worse x y)
    · rw [List.foldl_cons, h]
      unfold worse
      split <;> simp
    · exact .inr (List.mem_cons_of_mem _ h)

theorem foldl_worse_headD_mem {l : List (Nat × Nat)} (h : l ≠ []) (d : Nat × Nat) : l.foldl worse (l.headD d) ∈ l := by
  cases l with
  | nil => exact absurd rfl h
  | cons y l =>
    obtain e | hm := foldl_worse_mem (y :: l) y
    · exact List.mem_cons.mpr (.inl e)
    · exact hm

theorem le_foldl_worse (l : List (Nat × Nat)) (x : Nat × Nat) : x.2 ≤ (l.foldl worse x).2 ∧ ∀ y ∈ l, y.2 ≤ (l.foldl worse x).2 := by
  induction l generalizing x with
  | nil => simp
  | cons y l ih =>
    obtain ⟨hx, hl⟩ := ih (worse x y)
    obtain ⟨h1, h2⟩ := le_worse x y
    exact ⟨h1.trans hx, fun z hz => (List.mem_cons.mp hz).elim (fun e => e ▸ h2.trans hx) (hl z)⟩

/-- One that has been passed over 15 times must go next (R32). -/
theorem starved_of_mem {l : List Nat} {m : Nat} (h : m ∈ l) (hm : 15 ≤ m) : starved l = true := by
  refine List.any_eq_true.mpr ⟨0, List.mem_range.mpr (List.length_pos_of_mem h), decide_eq_true ?_⟩
  exact List.length_pos_of_mem (List.mem_filter.mpr ⟨h, decide_eq_true hm⟩)

/-! ### The packets that wait at a link -/

section
variable (s : State) (a b : Nat)

/-- A link could take the packet r now. -/
def State.RingReady (r : RingPkt) : Prop :=
  r ∈ s.ring ∧ r.place = a ∧ r.next = b ∧ r.movedAt ≠ s.tally + 1 ∧ s.ringEligible r = true ∧ s.ringFirst r = true

theorem State.ringReady_iff (r : RingPkt) : s.RingReady a b r ↔ r ∈ s.ring ∧ s.ringHere a b r = true := by
  simp [State.RingReady, State.ringHere, and_assoc]

/-- The oldest packet that passes a test is one of the rings' that passes it. -/
theorem State.ringOldest_some {s : State} {ok : RingPkt → Bool} {i : Nat} (h : s.ringOldest ok = some i) : ∃ r, s.ring[i]? = some r ∧ ok r = true := by
  revert i
  unfold State.ringOldest
  refine List.foldlRecOn (motive := fun best : Option Nat => ∀ {i}, best = some i → ∃ r, s.ring[i]? = some r ∧ ok r = true) _ _ (by simp) ?_
  intro best ih e he i h
  have hr := getElem?_of_mem_zip_range he
  by_cases hok : ok e.2 = true
  · rw [if_pos hok] at h
    split at h
    · obtain rfl := Option.some.inj h
      exact ⟨e.2, hr, hok⟩
    · split at h
      · obtain rfl := Option.some.inj h
        exact ⟨e.2, hr, hok⟩
      · exact ih h
  · rw [if_neg hok] at h
    exact ih h

/-- A requester that waits has been passed over 15 times where one of its packets has. -/
theorem State.ringWaits_late (enter : Bool) (k : Nat) : (∃ m, (k, m) ∈ s.ringWaits a b enter ∧ 15 ≤ m) ↔
    ∃ q, s.RingReady a b q ∧ q.enters = enter ∧ q.last = k ∧ 15 ≤ q.passed := by
  simp only [State.ringWaits, List.mem_map, List.mem_eraseDups, List.mem_filter, Prod.mk.injEq, State.ringReady_iff, Bool.and_eq_true, beq_iff_eq]
  constructor
  · rintro ⟨m, ⟨k', -, rfl, rfl⟩, hm⟩
    obtain h0 | ⟨x, hx, hx15⟩ := (le_foldl_max _ _).mp hm
    · omega
    · obtain ⟨q, hq, rfl⟩ := List.mem_map.mp hx
      simp only [List.mem_filter, Bool.and_eq_true, beq_iff_eq] at hq
      obtain ⟨⟨hmem, hhere, hent⟩, hlast⟩ := hq
      exact ⟨q, ⟨hmem, hhere⟩, hent, hlast, hx15⟩
  · rintro ⟨q, ⟨hmem, hhere⟩, hent, hlast, hq15⟩
    refine ⟨_, ⟨k, ⟨q, ⟨hmem, hhere, hent⟩, hlast⟩, rfl, rfl⟩, (le_foldl_max _ _).mpr (.inr ⟨q.passed, List.mem_map.mpr ⟨q, ?_, rfl⟩, hq15⟩)⟩
    simp only [List.mem_filter, Bool.and_eq_true, beq_iff_eq]
    exact ⟨⟨hmem, hhere, hent⟩, hlast⟩

end

/-! ### The grant -/

section
variable (s : State) (a b : Nat)

/-- Does the link take a packet that enters the ring? Only where none travels on. -/
def State.grantEnters : Bool := !s.ring.any (fun r => s.ringHere a b r && !r.enters)

/-- The requester that has been passed over longest. -/
def State.grantWorst : Nat × Nat :=
  let ws := s.ringWaits a b (s.grantEnters a b)
  ws.foldl worse (ws.headD (0, 0))

/-- The link grants a packet that it could take, of the standing that goes first, and of the requester that must go next where there is one. -/
theorem State.ringGrant_granted {s : State} {a b i : Nat} {arb : Nat × List (Nat × Nat)} (h : s.ringGrant a b = some (i, arb)) :
    ∃ r, s.ring[i]? = some r ∧ s.RingReady a b r ∧ r.enters = s.grantEnters a b ∧
      (starved ((s.ringWaits a b (s.grantEnters a b)).map Prod.snd) = true → r.last = (s.grantWorst a b).1) := by
  unfold State.ringGrant at h
  obtain ⟨v, n, hpick⟩ := drrChoose_offered 17 h
  obtain ⟨j, hold, hj⟩ := Option.bind_eq_some_iff.mp hpick
  obtain ⟨r', -, he⟩ := Option.map_eq_some_iff.mp hj
  obtain rfl : j = i := congrArg Prod.fst he
  obtain ⟨r, hr, hok⟩ := State.ringOldest_some hold
  simp only [Bool.and_eq_true, beq_iff_eq, Bool.or_eq_true, Bool.not_eq_true'] at hok
  obtain ⟨⟨⟨hhere, -⟩, hent⟩, hlast⟩ := hok
  refine ⟨r, hr, (s.ringReady_iff a b r).mpr ⟨List.mem_of_getElem? hr, hhere⟩, hent, fun hst => hlast.resolve_left ?_⟩
  exact ne_false_of_eq_true hst

/-- A packet that travels on goes before one that enters (R24). -/
theorem State.grantEnters_of_onward {q : RingPkt} (hq : s.RingReady a b q) (he : q.enters = false) : s.grantEnters a b = false := by
  obtain ⟨hmem, hhere⟩ := (s.ringReady_iff a b q).mp hq
  have : s.ring.any (fun r => s.ringHere a b r && !r.enters) = true := List.any_eq_true.mpr ⟨q, hmem, by simp [hhere, he]⟩
  simp [State.grantEnters, this]

/-- Where a requester has been passed over 15 times, one must go next, and the one passed over longest is such (R32). -/
theorem State.grantWorst_late {q : RingPkt} (hq : s.RingReady a b q) (he : q.enters = s.grantEnters a b) (hl : 15 ≤ q.passed) :
    starved ((s.ringWaits a b (s.grantEnters a b)).map Prod.snd) = true ∧
    ∃ r, s.RingReady a b r ∧ r.enters = s.grantEnters a b ∧ r.last = (s.grantWorst a b).1 ∧ 15 ≤ r.passed := by
  obtain ⟨m, hm, h15⟩ := (s.ringWaits_late a b _ q.last).mpr ⟨q, hq, he, rfl, hl⟩
  have hworst : s.grantWorst a b ∈ s.ringWaits a b (s.grantEnters a b) := foldl_worse_headD_mem (List.ne_nil_of_mem hm) _
  have hmost : m ≤ (s.grantWorst a b).2 := (le_foldl_worse _ _).2 _ hm
  exact ⟨starved_of_mem (List.mem_map.mpr ⟨_, hm, rfl⟩) h15, (s.ringWaits_late a b _ _).mp ⟨_, hworst, h15.trans hmost⟩⟩

end

/-- What a ring link grants (R24, R32). -/
theorem ringGrant_order (a b i : Nat) (arb : Nat × List (Nat × Nat)) (s : State) (h : s.ringGrant a b = some (i, arb)) :
    ∃ r, s.ring[i]? = some r ∧ s.RingReady a b r ∧ ((∃ q, s.RingReady a b q ∧ q.enters = false) → r.enters = false) ∧
      ((∃ q, s.RingReady a b q ∧ q.enters = r.enters ∧ 15 ≤ q.passed) →
        ∃ q, s.RingReady a b q ∧ q.enters = r.enters ∧ q.last = r.last ∧ 15 ≤ q.passed) := by
  obtain ⟨r, hr, hready, hent, hlast⟩ := State.ringGrant_granted h
  refine ⟨r, hr, hready, ?_, ?_⟩
  · rintro ⟨q, hq, he⟩
    exact hent.trans (s.grantEnters_of_onward a b hq he)
  · rintro ⟨q, hq, he, hl⟩
    obtain ⟨hst, t, ht, hte, htl, ht15⟩ := s.grantWorst_late a b hq (he.trans hent) hl
    exact ⟨t, ht, hte.trans hent.symm, htl.trans (hlast hst).symm, ht15⟩

end Sys2Proof.Machine
end

section
/-! The statement about packets on their way. -/
namespace Sys2Proof.Machine

/-- Settles O45: a command's answer is the equation of its case (whose turn it is, then where the packet goes), with what that leaves alone; the order of a
link's grants is what its arbiter's choice is offered. -/
theorem packetsRouted : Obligations.PacketsRouted := by
  refine ⟨fun n s hn => ⟨s, congrArg Host.Outcome.next (State.packetInject_none hn), rfl⟩, fun n p s hp => ⟨fun hw => ?_, fun hg hh => ?_⟩,
    fun t addr len s => ⟨injects_read s t addr len, fun hw => ?_⟩,
    fun p s hn => ⟨s, congrArg Host.Outcome.next (State.packetReceive_none hn), rfl⟩, fun p r rest s hq hh => ⟨fun hw => ?_, fun hm => ?_⟩,
    ringGrant_order⟩
  · exact ⟨s, congrArg Host.Outcome.next (State.packetInject_waits hp hw), rfl⟩
  · exact ⟨injects_here hp hg hh, injects_linkLocal hp hg hh, injects_routed hp hg hh⟩
  · exact ⟨s, congrArg Host.Outcome.next (s.packetInject_read_waits t addr len hw), rfl⟩
  · exact ⟨s, congrArg Host.Outcome.next (State.packetReceive_waits hq hw), rfl⟩
  · have good (hb : ¬ BadHdr r.pkt r.vc) (hv : 8 ≤ r.pkt.ty ↔ r.vc < 2) : badHeader r.pkt r.vc = none := (badHeader_eq hb).trans (if_pos hv)
    refine ⟨fun hb => ?_, fun hb hv => ?_, fun hb hv => receives_linkLocal hq hh hm (good hb hv), fun hb hv hd => ⟨fun h0 => ?_, ?_, ?_⟩⟩
    · exact receives_drop hq hh hm rfl (State.receive_bad (badHeader_bad hb))
    · exact receives_drop hq hh hm rfl (State.receive_bad ((badHeader_eq hb).trans (if_neg hv)))
    · exact receives_drop hq hh hm rfl (State.receive_unassigned (good hb hv) hd (by rwa [State.rd_popped]))
    · exact receives_here hq hh hm (good hb hv) hd
    · exact receives_away hq hh hm (good hb hv) hd

end Sys2Proof.Machine
end

section
/-! SUPPORT. Every command and every idle step keeps what `Keeps` says: each is an operation of the model, and one lemma of Laws/Keeps says so of each. -/
namespace Sys2Proof.Machine

/-- A command that answers the state r answers nothing else. -/
theorem Keeps.of_next {z r s' : State} (k : Keeps z r) (h : (.next r : Result) = .next s') : Keeps z s' := by
  cases h
  exact k

/-- The same for a command that is refused where its data is not well formed. -/
theorem Keeps.of_next_if {z r s' : State} {c : Prop} [Decidable c] {e : Refusal} (k : Keeps z r)
    (h : (if c then .next r else .refused e : Result) = .next s') : Keeps z s' := by
  split at h
  · exact k.of_next h
  · cases h

/-- No command touches the queue, the variant or the time, makes a sound state unsound, or lowers a monotonic counter. -/
theorem exec_keeps {c : Instr} {s s' : State} (h : exec c s = .next s') : Keeps s s' := by
  have k := Keeps.refl s
  cases c with
  | selectRegisterWrite _ _ _ => exact .of_next (k.selectWrite _ _ _) h
  | registerWrite _ _ _ _ => exact .of_next (k.registerWrite _ _ _ _ _ _) h
  | lowHalfRead _ _ _ => exact .of_next (k.targetRead _ _ _) h
  | highHalfRead _ _ _ => exact .of_next (k.regRead _ _ _) h
  | rcCounterRead _ _ _ => exact .of_next (k.rcRead _ _ _) h
  | talignRequestSend => exact .of_next k.talignSend h
  | talignRequestReceive _ => exact .of_next (k.talignRequest _) h
  | talignResponseReceive _ => exact .of_next (k.talignResponse _) h
  | holdoverEntry => exact .of_next k.holdover h
  | xdevLock => exact .of_next k.xdevLock h
  | replicaResync _ => exact .of_next (k.replicaResync _) h
  | tlySnapArmWrite _ => exact .of_next (k.snapArmWrite _) h
  | tallySnapshot => exact .of_next k.snapshot h
  | hbmBandModeWrite _ _ => exact .of_next (k.bandModeWrite _ _) h
  | bandModeSwitch => exact .of_next k.bandSwitch h
  | add _ | sub _ | and _ | or _ | xor _ | sll _ | srl _ | sra _ | slt _ | sltu _ | mul _ | mulh _ | mulhu _ | min _ | max _ | minu _
  | maxu _ =>
    exact .of_next (k.alu _ _) h
  | lui _ => exact .of_next (k.lui _) h
  | load _ => exact .of_next (k.load _) h
  | store _ => exact .of_next (k.store _) h
  | beq _ | bne _ | blt _ | bge _ | bltu _ | bgeu _ => exact .of_next (k.branch _ _) h
  | jal _ => exact .of_next (k.jal _) h
  | jalr _ => exact .of_next (k.jalr _) h
  | crd _ => exact .of_next (k.crd _) h
  | cwr _ => exact .of_next (k.cwr _ _ _) h
  | post _ | postNb _ => exact .of_next (k.postOp _ _) h
  | postUnblock _ => exact .of_next (k.postUnblock _) h
  | pop _ => exact .of_next (k.popOp _) h
  | semSig _ => exact .of_next (k.semSig _) h
  | semSigr _ => exact .of_next (k.semSigr _) h
  | semWait _ => exact .of_next (k.semWait _) h
  | semWaitSatisfied _ => exact .of_next (k.semWaitDone _) h
  | semTry _ => exact .of_next (k.semTry _) h
  | semRd _ => exact .of_next (k.semRd _) h
  | opeIssue _ => exact .of_next (k.opeIssue _) h
  | veIssue _ => exact .of_next (k.veIssue _) h
  | issueUnblock _ => exact .of_next (k.issueUnblock _) h
  | wait _ | waitc _ => exact .of_next (k.waitOp _ _) h
  | eventWaitReturn _ => exact .of_next (k.waitReturn _) h
  | specOpen _ => exact .of_next (k.specOpen _) h
  | specBegin _ => exact .of_next (k.specBegin _) h
  | specEnd _ => exact .of_next (k.specEnd _) h
  | specWait _ => exact .of_next (k.specWait _) h
  | specWaitReturn _ => exact .of_next (k.specWaitReturn _) h
  | specResolve _ => exact .of_next (k.specResolve _) h
  | specCommit _ _ => exact .of_next (k.specCommit _ _) h
  | specWritebackLine _ _ => exact .of_next (k.specWriteback _ _ _) h
  | specCancelDone _ _ => exact .of_next (k.specCancelDone _ _) h
  | specTimeout _ _ => exact .of_next (k.specTimeout _ _) h
  | fenceMem _ => exact .of_next (k.fenceMem _) h
  | fenceMemComplete _ => exact .of_next (k.fenceDone _) h
  | brk _ => exact .of_next (k.break_ _) h
  | opeMma _ | opeMma1 _ => exact .of_next (k.opeStart _ _) h
  | opeStep _ => exact .of_next (k.opeStep _) h
  | opeDrainBlock _ => exact .of_next (k.drainStart _) h
  | opeDrainRowWrite _ => exact .of_next (k.drainWrite _ _) h
  | opeCompletion _ => exact .of_next (k.opeComplete _) h
  | veAdd _ | veSub _ | veMul _ | veFma _ | veMin _ | veMax _ | veAbs _ | veNeg _ | veExp2 _ | veLog2 _ | veRcp _ | veRsqrt _ | veSqrt _
  | veCmp _ | veSel _ | veRsum _ | veRmax _ | veRmin _ | veCvt _ | vePerm _ | veTransp _ =>
    exact .of_next (k.veRow _ _) h
  | veCompletion _ => exact .of_next (k.veComplete _) h
  | tileQcfgWrite t q v => exact .of_next (k.islandWrite _ _ _ _ (k.qcfgWrite t q v)) h
  | tileSemWrite t j v => exact .of_next (k.islandWrite _ _ _ _ (k.semWrite t j v)) h
  | tilePhaseWrite t v => exact .of_next (k.islandWrite _ _ _ _ (k.phaseWrite t (v % 2 ^ 16))) h
  | postPacketReceive _ => exact .of_next (k.postReceive _) h
  | signalPacketReceive _ => exact .of_next (k.signalReceive _) h
  | writePacketReceive _ => exact .of_next (k.writeReceive _) h
  | ackPacketReceive _ => exact .of_next (k.ackReceive _) h
  | readPacketReceive _ => exact .of_next (k.readReceive _) h
  | readDataReceive _ => exact .of_next (k.readDataReceive _) h
  | bankAccess t b reqs u => exact .of_next_if (k.bankAccess t b reqs u) h
  | eccWriteback _ _ => exact .of_next (k.eccWriteback _ _ _) h
  | scrubLineRead _ _ _ => exact .of_next (k.scrubLine _ _ _ _) h
  | spdClearWrite t b => exact .of_next (k.islandWrite _ _ _ _ (k.spdClear t b)) h
  | bankClearComplete _ _ => exact .of_next (k.clearDone _ _) h
  | hbmAccess r u w => exact .of_next_if (k.hbmAccess r u w) h
  | hbmRefresh _ => exact .of_next (k.hbmRefresh _) h
  | hbmScrubLineRead _ _ => exact .of_next (k.hbmScrub _ _) h
  | hbmTrained _ => exact .of_next (k.hbmTrained _) h
  | hoistLinear _ | hoistStrided _ | hoistGather _ | hoistScatter _ => exact .of_next (k.hoistRow _ _) h
  | hoistCompletion _ _ => exact .of_next (k.hoistComplete _ _) h
  | hoistRemoteTimeout _ _ => exact .of_next (k.hoistTimeout _ _) h
  | bar2Write _ _ _ => exact .of_next (k.bar2Write _ _ _) h
  | bar2Read _ _ => exact .of_next (k.bar2Read _ _) h
  | bar2ReadComplete => exact .of_next k.bar2Complete h
  | flitTransmit _ => exact .of_next (k.flitTransmit _) h
  | flitReceive p f => exact .of_next_if (k.flitArrive p f) h
  | retryReqReceive _ _ _ => exact .of_next (k.retryReq _ _ _) h
  | replayTimeout _ => exact .of_next (k.replayTimeout _) h
  | initFlitReceive _ _ => exact .of_next (k.initReceive _ _) h
  | downNoticeReceive _ => exact .of_next (k.downNotice _) h
  | laneLockLoss _ _ => exact .of_next (k.laneLoss _ _ _) h
  | crcSilenceTimeout _ => exact .of_next (k.crcSilence _) h
  | portEnableWrite _ _ => exact .of_next (k.portEnable _ _) h
  | portRetrainWrite p => exact .of_next ((k.portRetrain p).ite (k.bump .hfSelAbsentWr)) h
  | trainingComplete _ => exact .of_next (k.trainingDone _) h
  | trainingTimeout _ => exact .of_next (k.trainingLate _) h
  | alignmentComplete _ _ _ => exact .of_next (k.aligned _ _ _) h
  | autoRetrainTimer _ => exact .of_next (k.autoRetrain _) h
  | packetInject _ => exact .of_next (k.packetInject _) h
  | packetReceivePort _ => exact .of_next (k.packetReceive _) h
  | rtAccDataWrite _ => exact .of_next (k.rtWrite _) h
  | rtAccDataRead a => exact .of_next (k.rtAdvance.answer a s.rtRead) h
  | fabEpochWrite _ => exact .of_next (k.epochWrite _) h
  | allreduce _ | reduceScatter _ | allgather _ | reduce _ | broadcast _ | alltoall _ | barrier _ => exact .of_next (k.seamRow _ _) h
  | seamReadyReceive _ => exact .of_next (k.seamReady _) h
  | seamDataReceive _ => exact .of_next (k.seamData _) h
  | seamAckReceive _ => exact .of_next (k.seamAck _) h
  | seamReplayReceive _ => exact .of_next (k.seamReplay _) h
  | collAbortReceive _ => exact .of_next (k.collAbortReceive _) h
  | collStepBegin _ => exact .of_next (k.collStepBegin _) h
  | seamItemAccept _ => exact .of_next (k.seamItem _) h
  | collCommit _ => exact .of_next (k.collCommit _) h
  | collComplete _ => exact .of_next (k.collComplete _) h
  | collStepTimeout _ => exact .of_next (k.collStepTimeout _) h
  | collAckTimeout _ => exact .of_next (k.collAckTimeout _) h
  | collStall _ => exact .of_next (k.collStall _) h
  | hostSideReset _ => exact .of_next (k.hostReset _) h
  | unsupportedRequest => exact .of_next k.unsupported h
  | msixEvent _ => exact .of_next (k.msix _) h
  | msixUnmask _ _ => exact .of_next (k.msixMask _ _) h
  | mbxDoorbellWrite _ _ => exact .of_next (k.doorbell _ _) h
  | mbxReqWrite _ _ _ _ => exact .of_next (k.mbxReqWrite _ _ _ _) h
  | mbxDispatch => exact .of_next k.dispatch h
  | hello _ => exact .of_next (k.hello _) h
  | getInfo _ => exact .of_next (k.getInfo _) h
  | evtSubscribe _ _ _ => exact .of_next (k.evtSubscribe _ _ _) h
  | echo _ => exact .of_next (k.echo _) h
  | setWindow _ _ _ => exact .of_next (k.setWindow _ _ _) h
  | setBandMode _ _ => exact .of_next (k.setBandMode _ _) h
  | bankClear _ _ _ => exact .of_next (k.bankClear _ _ _) h
  | queueCfg _ _ => exact .of_next (k.queueCfg _ _) h
  | streamBind _ _ _ _ => exact .of_next (k.streamBind _ _ _ _) h
  | stageSet _ _ => exact .of_next (k.stageSet _ _) h
  | srKeys _ _ => exact .of_next (k.srKeys _ _) h
  | snapshotArm _ _ => exact .of_next (k.snapshotArm _ _) h
  | tallyRole _ _ _ => exact .of_next (k.tallyRole _ _ _) h
  | setPerstScope _ _ => exact .of_next (k.setPerstScope _ _) h
  | tileStart _ => exact .of_next (k.tileStart _) h
  | portCfg _ _ _ => exact .of_next (k.portCfg _ _ _) h
  | portRetrain _ _ => exact .of_next (k.portRetrainCmd _ _) h
  | setDevId _ _ => exact .of_next (k.setDevId _ _) h
  | rtLoad _ _ _ => exact .of_next (k.rtLoad _ _ _) h
  | epochSet _ _ => exact .of_next (k.epochSet _ _) h
  | vcWeight _ _ _ => exact .of_next (k.vcWeightCmd _ _ _) h
  | groupCfg _ _ _ => exact .of_next (k.groupCfg _ _ _) h
  | groupReset _ _ _ => exact .of_next (k.groupReset _ _ _) h
  | groupAbort _ _ => exact .of_next (k.groupAbort _ _) h
  | groupOrder _ _ _ => exact .of_next (k.groupOrder _ _ _) h
  | setCap _ _ => exact .of_next (k.setCap _ _) h
  | getPower _ => exact .of_next (k.getPower _) h
  | paceMode _ _ => exact .of_next (k.paceMode _ _) h
  | pbGate _ _ _ => exact .of_next (k.pbGate _ _ _) h
  | reset _ => exact .of_next (k.resetCmd _) h
  | getErrors _ => exact .of_next (k.getErrors _) h
  | postmortemRead _ _ => exact .of_next (k.pmRead _ _) h
  | rasSet _ => exact .of_next (k.rasSet _) h
  | rasClear _ => exact .of_next (k.rasClear _) h
  | dbgChallenge _ => exact .of_next (k.dbgChallenge _) h
  | dbgUnlock _ => exact .of_next (k.dbgUnlock _) h
  | globalStop _ => exact .of_next (k.globalStop _) h
  | resume _ => exact .of_next (k.resumeCmd _) h
  | pcsCfg _ => exact .of_next (k.pcsCfg _) h
  | pcsTail _ => exact .of_next (k.pcsTail _) h
  | skipStart _ => exact .of_next (k.skipStart _) h
  | crcScan _ => exact .of_next (k.crcScan _) h
  | backfill _ => exact .of_next (k.backfill _) h
  | fwWrite _ _ _ _ => exact .of_next (k.fwWrite _ _ _ _) h
  | fwActivate _ => exact .of_next (k.fwActivate _) h
  | attest _ => exact .of_next (k.attest _) h
  | cfgRecordWrite _ => exact .of_next (k.cfgRecordWrite _) h
  | rasNoticeReceive _ => exact .of_next (k.noticeReceive _) h
  | componentFault _ _ => exact .of_next (k.compCause _ _) h
  | heartbeatMiss _ => exact .of_next (k.beatMiss _) h
  | componentRestartComplete _ => exact .of_next (k.compRestarted _) h
  | romBoot _ _ _ => exact .of_next (k.romBoot _ _ _) h
  | hfBootReadyWrite v => exact .of_next (k.hfAwake (k.bootReady v)) h
  | bootWatchdogExpiry => exact .of_next k.bootWatchdog h
  | interruptEvent _ => exact .of_next (k.irq _) h
  | interruptDelivery _ _ => exact .of_next (k.icDeliver _ _) h
  | icSrcCfgWrite _ _ => exact .of_next (k.icSrcCfg _ _) h
  | icEoiWrite _ _ => exact .of_next (k.icEoi _ _) h
  | icStackFixWrite _ => exact .of_next (k.icFix _) h
  | icSignalWrite _ _ => exact .of_next (k.icSignal _) h
  | icTimerExpiry _ _ => exact .of_next (k.icTimer _ _) h
  | headframeStandby => exact .of_next k.standby h
  | lampWake => exact .of_next k.lampWake h
  | estimationWindowClose _ => exact .of_next (k.windowClose _) h
  | powerLoopInterval _ => exact .of_next (k.powerLoop _) h
  | vsetSlewComplete _ => exact .of_next (k.slewDone _) h
  | gainCalibration _ => exact .of_next (k.calibrate _) h
  | droopTrip _ => exact .of_next (k.droopTrip _) h
  | droopHoldEnd _ => exact .of_next (k.droopEnd _) h
  | paceBeaconSend => exact .of_next k.beaconSend h
  | paceBeaconReceive _ => exact .of_next (k.beaconReceive _) h
  | dbgHaltGoWrite _ _ => exact .of_next (k.haltGo _ _) h
  | dbgHaltResumeWrite _ => exact .of_next (k.resumeWrite _) h
  | haltComplete => exact .of_next k.haltComplete h
  | haltFlitReceive _ _ _ _ _ => exact .of_next (k.haltReceive _ _ _ _ _) h
  | resumeFlitReceive _ _ => exact .of_next (k.resumeReceive _ _) h
  | linkRecordTimeout _ => exact .of_next (k.linkTimeout _) h
  | scanOut => exact .of_next k.scanOut h
  | pcsSample => exact .of_next k.pcsSample h
  | debugAccessExpiry => exact .of_next k.debugExpiry h
  | nonceExpiry => exact .of_next k.nonceExpiry h
  | rasErrorReport => exact .of_next k.rasReport h
  | ceThresholdPoll => exact .of_next k.cePoll h
  | hangScan => exact .of_next k.hangScan h
  | postmortemComplete => exact .of_next k.pmComplete h
  | tileReset _ => exact .of_next (k.tileReset _) h
  | portReset _ => exact .of_next (k.portReset _) h
  | hbmcReset _ => exact .of_next (k.hbmcReset _) h
  | warmReset => exact .of_next k.warmReset h
  | coldReset _ => exact .of_next (k.coldReset _) h
  | skipStagingStart => exact .of_next k.skipBegin h
  | skipStaged => exact .of_next k.skipStaged h
  | skipChunkShipped => exact .of_next k.skipShipped h
  | skipChunkTimeout => exact .of_next k.skipTimeout h
  | skipHeartbeat => exact .of_next k.skipBeat h
  | crcCtrlWrite v => exact .of_next (k.hfAwake (k.crcCtrl v)) h
  | crcData8Write v => exact .of_next (k.hfAwake (k.crcData 1 v)) h
  | crcData16Write v => exact .of_next (k.hfAwake (k.crcData 2 v)) h
  | crcData32Write v => exact .of_next (k.hfAwake (k.crcData 4 v)) h
  | crcResultRead _ => exact .of_next (k.crcRead _) h
  | nhSample => exact .of_next k.nhSample h
  | rollbackAdvance _ => exact .of_next (k.rollbackAdvance _) h
  | auxPowerOn => exact .of_next k.auxOn h
  | modPwrEnRise => exact .of_next k.enRise h
  | railsGood => exact .of_next k.railsGood h
  | modPwrEnFall => exact .of_next k.enFall h
  | perstDeassert => exact .of_next k.perstDeassert h
  | powerStageWarning => exact .of_next k.stageWarn h
  | trip _ => exact .of_next (k.trip _) h
  | refClockLoss => exact .of_next k.refLoss h
  | sidebandI2cRead _ => exact .of_next (k.sidebandRead _) h
  | uartRxChar _ => exact .of_next k h
  | jtagInstruction _ => exact .of_next (k.jtag _) h
  | hbmTrainingLoss _ => exact .of_next (k.trainingLoss _) h
  | powerStageWarningClear => exact .of_next k.stageClear h
  | tripLatchRelease => exact .of_next k.tripRelease h
  | auxPowerLoss => exact .of_next k.auxLoss h
  | aditLinkUp _ _ => exact .of_next (k.aditUp _ _) h
  | pciConfigWrite _ => exact .of_next (k.pciWrite _) h

/-- The state in which an idle step has moved the time and the tally, before anything else happens in it (R35, R38). -/
def State.advance (s : State) : State :=
  { s with time := s.time + 1, tally := (s.tally + s.tallyStep.1) % 2 ^ 64, talign := { s.talign with slew := s.tallyStep.2 } }

theorem State.advance_sound {s : State} (h : s.Sound) : s.advance.Sound := ⟨h.mem, h.flash, h.regs, Nat.mod_lt _ (by decide)⟩

/-- What follows in an idle step on the advance of time keeps its queue, variant and time, a sound state sound, and the monotonic counters. -/
theorem State.tick_keeps (s : State) : Keeps s.advance s.tick := by
  have k : Keeps s.advance (if s.advance.on .tlyStatusCoarseSlew ∧ s.tallyStep.2 ≥ -4000 then s.advance.settle else s.advance) :=
    (Keeps.refl _).settle.ite (Keeps.refl _)
  have k := (k.timeCounters s.tallyStep.1).snapCopy.bar2Drain.jtagRetry
  exact (k.ite k.ringStep).perstStart

/-- Settles O4: a command keeps a sound state sound (`exec_keeps`), and so does an idle step, which first moves the time and the tally. -/
theorem everyStepKeepsSoundness : Obligations.EveryStepKeepsSoundness := by
  intro s s' hs h
  unfold step at h
  split at h
  case h_1 =>
    cases h
    exact s.tick_keeps.sound (State.advance_sound hs)
  case h_2 c rest _ =>
    exact (exec_keeps h).sound ⟨hs.mem, hs.flash, hs.regs, hs.tally⟩

end Sys2Proof.Machine
end

section
/-! The statement about the state at reset. -/
namespace Sys2Proof.Machine

/-- No register is listed at reset, so that every field reads its reset value, whatever the variant. -/
theorem State.rd_reset (v : Variant) (f : Field) (i j : Nat) : ({ State.reset with variant := v } : State).rd f i j = f.reset v i j := rfl

/-- Settles O6: every field reads as its table says, and every list of the state is empty. -/
theorem resetState : Obligations.ResetState := by
  unfold Obligations.ResetState
  refine ⟨State.reset_sound, rfl, rfl, rfl, State.rd_reset .m8i4, fun v => ⟨State.rd_reset v _ _ _, State.rd_reset v _ _ _⟩, rfl, rfl, rfl, rfl, rfl, rfl, rfl,
    rfl, rfl, rfl, rfl, rfl, rfl, rfl, rfl, fun _ => ⟨rfl, rfl⟩, fun _ => ⟨rfl, rfl⟩, fun _ => ⟨rfl, rfl, rfl, rfl⟩, fun p => ⟨rfl, rfl, rfl, rfl, rfl, fun v h2 _ => ?_⟩⟩
  have : ¬ v < 2 := by omega
  exact (State.rd_reset .m8i4 .portRxbufVc p v).trans (if_neg this)

end Sys2Proof.Machine
end

section
/-! SUPPORT. States that refute statements on clears and snapshots: each satisfies the hypotheses of one clause, and the model's answer to its command,
evaluated, contradicts the clause. -/
namespace Sys2Proof.Machine

/-! ### SPD_CLEARS is full

The count of a bank's clears has 32 bits in its register table, and its next clear wraps it to 0; the statements count modulo 2^64. -/

/-- Tile 0 runs, its bank MA holds no request and is not clearing, and has been cleared 2^32 - 1 times. The mailbox service is about to run BANK_CLEAR of
channel 0. -/
def clearsFull : State :=
  { tiles := [(0, { tallyValid := true })], regs := [(fkey .spdClears 0 0, 2 ^ 32 - 1)], comps := [(0, { mode := .running })],
    mbx := { run := [⟨0, 0x0103, 0, 0, false⟩], pair := some 0 } }

theorem clearsFull_runs : clearsFull.YcpRuns 0 0x0103 0 ⟨0, 0x0103, 0, 0, false⟩ := ⟨rfl, rfl, rfl, rfl, rfl, rfl⟩

/-- A write of CLEAR wraps the count. -/
theorem clearsFull_write : (clearsFull.islandWrite 0x06040100 0 0 2 (fun s => s.spdClear 0 .ma)).rd .spdClears 0 0 = 0 := by decide +kernel

/-- So does BANK_CLEAR. -/
theorem clearsFull_command : (clearsFull.bankClear 0 0 .ma).rd .spdClears 0 0 = 0 := by decide +kernel

/-! ### A snapshot's copy is noted although no snapshot is armed -/

/-- Nothing is armed, TLY_SNAP_AT lies 2 µs ahead, and the counters count as copied (R46). -/
def copiedUnpended : State := { regs := [(fkey .tlySnapAt 0 0, 2000)], snapCopied := true }

/-- A write of ARM clears the note. -/
theorem copiedUnpended_arms : (copiedUnpended.snapArmWrite 1).snapCopied = false := by decide +kernel

end Sys2Proof.Machine
end

section
/-! The statements that these states refute. -/
namespace Sys2Proof.Machine

/-- Refutes O29: a clear is to count modulo 2^64, but SPD_CLEARS has 32 bits and wraps. -/
theorem not_bankUpkeep : ¬ Obligations.BankUpkeep := by
  intro h
  obtain ⟨-, -, hclear, -⟩ := h 0 .ma clearsFull
  obtain ⟨s', hx, -, hcount, -⟩ := (hclear (by decide +kernel) (by decide +kernel)).2.1 (by decide +kernel) (by decide +kernel)
  obtain rfl := Host.Outcome.next.inj hx
  exact absurd (clearsFull_write.symm.trans hcount) (by decide +kernel)

/-- Refutes O40: an arm is to change the armed instant and SNAP_PENDING only, but it also clears the note that the counters have been copied, and nothing
says that the note is clear while no snapshot is armed. -/
theorem not_replicasAndSnapshots : ¬ Obligations.ReplicasAndSnapshots := by
  rintro ⟨-, harm, -⟩
  obtain ⟨s', hx, honly, -⟩ := (harm 1 copiedUnpended rfl).2.2 (by decide +kernel) (by decide +kernel)
  obtain rfl := Host.Outcome.next.inj hx
  have hkept : (copiedUnpended.snapArmWrite 1).snapCopied = true := honly .snapCopied (by decide)
  exact absurd (copiedUnpended_arms.symm.trans hkept) (by decide)

/-- Refutes O52: BANK_CLEAR is to count its clear modulo 2^64, but SPD_CLEARS has 32 bits and wraps. -/
theorem not_serviceCommands : ¬ Obligations.ServiceCommands := by
  intro h
  obtain ⟨-, -, -, -, -, -, hclear, -⟩ := h 0 clearsFull ⟨0, 0x0103, 0, 0, false⟩
  obtain ⟨s', hx, -, hcount, -⟩ := (hclear clearsFull_runs 0 .ma).2.1 (by decide) rfl (by decide +kernel) (by decide +kernel) (by decide +kernel)
    (by decide +kernel)
  obtain rfl := Host.Outcome.next.inj hx
  exact absurd (clearsFull_command.symm.trans hcount) (by decide +kernel)

end Sys2Proof.Machine
end

section
/-! SUPPORT. Frames: which parts of the state an operation may change, and which register fields, each said once for an operation. -/
namespace Sys2Proof.Machine

/-! ### Frames and how they join -/

/-- From s to s' only the listed parts have changed, and of the registers only instances of the listed fields. -/
structure State.Frame (s s' : State) (parts : List Part) (fields : List Field) : Prop where
  only : s.Only s' parts
  rd : ∀ f i j, f ∉ fields → s'.rd f i j = s.rd f i j

theorem State.FieldsBut.rd {s s' : State} {l : List (Field × Nat × Nat)} (h : s.FieldsBut s' l) {f : Field} (hf : f ∉ l.map Prod.fst) (i j : Nat) :
    s'.rd f i j = s.rd f i j :=
  h f i j fun hm => hf (List.mem_map_of_mem (f := Prod.fst) hm)

theorem State.FieldsBut.trans {a b c : State} {l : List (Field × Nat × Nat)} (h1 : a.FieldsBut b l) (h2 : b.FieldsBut c l) : a.FieldsBut c l :=
  fun f i j hm => (h2 f i j hm).trans (h1 f i j hm)

theorem State.FieldsBut.ite {s a b : State} {l : List (Field × Nat × Nat)} {c : Prop} [Decidable c] (ha : s.FieldsBut a l) (hb : s.FieldsBut b l) :
    s.FieldsBut (if c then a else b) l := by
  split
  · exact ha
  · exact hb

theorem State.Only.foldl {α : Type} {s a : State} {l : List Part} {f : State → α → State} (h : s.Only a l) (hf : ∀ (x : State) e, x.Only (f x e) l)
    (es : List α) : s.Only (es.foldl f a) l := by
  induction es generalizing a with
  | nil => exact h
  | cons e es ih => exact ih (h.trans (hf a e))

namespace State.Frame

variable {s a b : State} {ps : List Part} {fs : List Field}

theorem refl (s : State) (ps : List Part) (fs : List Field) : s.Frame s ps fs := ⟨.refl s ps, fun _ _ _ _ => rfl⟩

/-- A step whose own frame is smaller. -/
theorem after {ps' : List Part} {fs' : List Field} (h : s.Frame a ps fs) (h' : a.Frame b ps' fs') (hp : ps' ⊆ ps := by decide)
    (hf : fs' ⊆ fs := by decide) : s.Frame b ps fs :=
  ⟨h.only.trans (h'.only.mono fun _ hx => hp hx), fun f i j hm => (h'.rd f i j fun hx => hm (hf hx)).trans (h.rd f i j hm)⟩

theorem mono {ps' : List Part} {fs' : List Field} (h : s.Frame a ps' fs') (hp : ps' ⊆ ps := by decide) (hf : fs' ⊆ fs := by decide) :
    s.Frame a ps fs := (refl s ps fs).after h hp hf

theorem ite {c : Prop} [Decidable c] (ha : s.Frame a ps fs) (hb : s.Frame b ps fs) : s.Frame (if c then a else b) ps fs := by
  split
  · exact ha
  · exact hb

theorem foldl {α : Type} {f : State → α → State} (h : s.Frame a ps fs) (hf : ∀ x e, s.Frame x ps fs → s.Frame (f x e) ps fs) (es : List α) :
    s.Frame (es.foldl f a) ps fs := by
  induction es generalizing a with
  | nil => exact h
  | cons e es ih => exact ih (hf a e h)

/-- A change that leaves the registers alone. -/
theorem of_only {ps' : List Part} (h : s.Only a ps') (hr : Part.regs ∉ ps' := by decide) (hv : Part.variant ∉ ps' := by decide) :
    s.Frame a ps' [] := ⟨h, fun f i j _ => h.rd hr hv f i j⟩

theorem of_fieldsBut {l : List (Field × Nat × Nat)} (ho : s.Only a ps) (hf : s.FieldsBut a l) : s.Frame a ps (l.map Prod.fst) :=
  ⟨ho, fun _ i j hm => hf.rd hm i j⟩

theorem wr (h : s.Frame a ps fs) {f : Field} (i j v : Nat) (hp : Part.regs ∈ ps := by decide) (hf : f ∈ fs := by decide) :
    s.Frame (a.wr f i j v) ps fs :=
  h.after (fs' := [f]) ⟨a.only_wr f i j v, fun _ _ _ hg => a.rd_wr_ne (by simpa using hg) i j v _ _⟩ (by simpa using hp) (by simpa using hf)

theorem cnt (h : s.Frame a ps fs) {f : Field} (i j n : Nat) (hp : Part.regs ∈ ps := by decide) (hf : f ∈ fs := by decide) :
    s.Frame (a.cnt f i j n) ps fs := h.wr i j _ hp hf

theorem bump (h : s.Frame a ps fs) {f : Field} (hp : Part.regs ∈ ps := by decide) (hf : f ∈ fs := by decide) :
    s.Frame (a.bump f) ps fs := h.wr 0 0 _ hp hf

theorem onTile (h : s.Frame a ps fs) (t : Nat) (g : Tile → Tile) (hp : Part.tiles ∈ ps := by decide) : s.Frame (a.onTile t g) ps fs :=
  h.after (of_only (a.only_onTile t g)) (by simpa using hp) (by simp)

theorem activity (h : s.Frame a ps fs) (u c n : Nat) (hp : Part.act ∈ ps := by decide) : s.Frame (a.activity u c n) ps fs :=
  h.after (of_only (a.only_activity u c n)) (by simpa using hp) (by simp)

/-- A field that is not listed is as before. -/
theorem on (h : s.Frame a ps fs) (f : Field) (i j : Nat) (hf : f ∉ fs := by decide) : a.on f i j = s.on f i j := by
  simp only [State.on, h.rd f i j hf]

theorem tile (h : s.Frame a ps fs) (t : Nat) (hp : Part.tiles ∉ ps := by decide) : a.tile t = s.tile t := h.only.tile hp t

end State.Frame

/-! ### Events -/

theorem State.fieldsBut_msix (s : State) (v : Nat) : s.FieldsBut (s.msix v) eventFields :=
  have h (f : Field) (hf : (f, 0, 0) ∈ eventFields) : s.FieldsBut (s.bump f) eventFields := (State.FieldsBut.refl s _).cnt hf 1
  .ite (h _ (by decide)) (.ite (h _ (by decide)) (.ite (.congr (h .adtMsixMasked (by decide)) rfl rfl) (.congr (h .adtMsixSent (by decide)) rfl rfl)))

theorem State.fieldsBut_irq (s : State) (n : Nat) : s.FieldsBut (s.irq n) eventFields := by
  have set {a : State} (h : s.FieldsBut a eventFields) (w : Prop) [Decidable w] (x : Ic) :
      s.FieldsBut (if w then { a with ic := x } else a) eventFields := .ite (h.congr rfl rfl) h
  have raised {a : State} (h : s.FieldsBut a eventFields) (w : Prop) [Decidable w] (x : Ic) :
      s.FieldsBut (if w then a.bump .icMerged else { a.bump .icRaised with ic := x }) eventFields :=
    .ite (h.cnt (by decide) 1) (.congr (h.cnt (f := .icRaised) (i := 0) (j := 0) (by decide) 1) rfl rfl)
  have seen (w : Prop) [Decidable w] (x : Ic) := set (.refl s _) w x
  refine .ite (.refl s _) (.ite ((seen _ _).cnt (by decide) 1) ?_)
  exact .ite (.trans (raised (set (seen _ _) _ _) _ _) (State.fieldsBut_msix _ _)) (raised (set (seen _ _) _ _) _ _)

/-- The counters that an event may add to. -/
def eventNames : List Field := eventFields.map Prod.fst

theorem State.frame_msix (s : State) (v : Nat) : s.Frame (s.msix v) [.regs, .adit] eventNames := .of_fieldsBut (s.only_msix v) (s.fieldsBut_msix v)

theorem State.frame_irq (s : State) (n : Nat) : s.Frame (s.irq n) [.regs, .ic, .adit] eventNames := .of_fieldsBut (s.only_irq n) (s.fieldsBut_irq n)

end Sys2Proof.Machine
end

section
/-! SUPPORT. Effects of engine work, at once or held by a branch (R155): what each counts and changes. -/
namespace Sys2Proof.Machine

theorem Field.idx_lt (f : Field) : f.idx < 644 := by cases f <;> decide

theorem Field.all_eq : Field.all = (List.range 644).map Field.ofNat := by decide +kernel

/-- The table lists each field at its own index. -/
theorem Field.all_idx (f : Field) : Field.all[f.idx]? = some f := by
  rw [Field.all_eq, List.getElem?_map, List.getElem?_range f.idx_lt]
  exact congrArg some (Field.ofNat_ctorIdx f)

/-- An effect that counts names its counter and array position. -/
theorem State.applyHeld_count (s : State) (t : Nat) (f : Field) {sub : Nat} (n : Nat) (hs : sub < 4096) :
    s.applyHeld t (.count (f.idx * 4096 + sub) n) = s.cnt f t sub n := by
  have hi : (f.idx * 4096 + sub) / 4096 = f.idx := by omega
  have hm : (f.idx * 4096 + sub) % 4096 = sub := by omega
  simp only [State.applyHeld, hi, hm, Field.all_idx]

/-- Untagged work counts at once. -/
theorem State.effCnt_now (s : State) (t : Nat) (f : Field) {sub : Nat} (n : Nat) (hs : sub < 4096) :
    s.effCnt t none f sub n = if n = 0 then s else s.cnt f t sub n := by
  simp only [State.effCnt, State.eff, s.applyHeld_count t f n hs]

theorem State.frame_setSlot (s : State) (t i : Nat) (x : Slot) : s.Frame (s.setSlot t i x) [.tiles] [] := .of_only (s.only_onTile t _)

namespace State.Frame

variable {s a : State} {ps : List Part} {fs : List Field}

theorem effCnt (h : s.Frame a ps fs) (t : Nat) (slot : Option Nat) {f : Field} (sub n : Nat) (hs : sub < 4096 := by decide)
    (hp : [Part.regs, .tiles] ⊆ ps := by decide) (hf : f ∈ fs := by decide) : s.Frame (a.effCnt t slot f sub n) ps fs := by
  simp only [List.cons_subset] at hp
  obtain ⟨hr, ht, -⟩ := hp
  cases slot with
  | none =>
    rw [a.effCnt_now t f n hs]
    exact h.ite (h.cnt t sub n hr hf)
  | some i => exact h.ite (h.after (a.frame_setSlot t i _) (by simpa using ht) (by simp))

theorem cntIf (h : s.Frame a ps fs) (c : Bool) {f : Field} (i j n : Nat) (hp : Part.regs ∈ ps := by decide) (hf : f ∈ fs := by decide) :
    s.Frame (a.cntIf c f i j n) ps fs := (h.cnt i j n hp hf).ite h

end State.Frame

end Sys2Proof.Machine
end

section
/-! SUPPORT. An idle step (R35, R38, R502): what its parts leave alone. -/
namespace Sys2Proof.Machine

/-- The counters of time (R111, R112, R115, R171, R172, R174, R188, R245, R248, R257, R259, R279, R280, R320, R393, R394, R402, R403, R408, R469). -/
def timeFields : List Field :=
  [.tileOpeStarveNs, .tileWaitNs, .tileOpeQfullNs, .tileVeQfullNs, .tileStrmWaitNs, .opeDrainStallNs, .opeOperandWaitNs, .veOperandWaitNs,
   .hstSlotWaitNs, .opeSeamWaitNs, .hstOutstandingFullNs, .portTxCreditWaitNs, .portTxWindowFullNs, .vcCreditWaitNs, .vcBubbleWaitNs, .vcArbWaitNs,
   .pwrDroopHoldNs, .pwrThermHoldNs, .pwrHbmHotNs, .pwrSafeNs, .pwrCapUnmetNs, .pwrPaceMatchNs, .adtBar2FlushWaitNs, .skpStageWaitNs, .collWaitNs]

section
variable {s a : State}

theorem State.Frame.tileTime (h : s.Frame a [.regs, .tiles] timeFields) (d t : Nat) : s.Frame (a.tileTime d t) [.regs, .tiles] timeFields := by
  have starve := h.cntIf (f := .tileOpeStarveNs) (!(a.tile t).ope.busy && (a.tile t).ope.queue.isEmpty && !(a.tile t).stopped && !(a.tile t).gated) t 0 d
  have strm {x : State} (hx : s.Frame x [.regs, .tiles] timeFields) (w : Wait) : s.Frame (match w with
      | .sem k _ => (List.range 16).foldl (fun (s : State) e =>
          s.cntIf (s.on .tileEpEn t e && s.rd .tileEpLocalSem t e == k) .tileStrmWaitNs t e d) x
      | _ => x) [.regs, .tiles] timeFields := by
    cases w with
    | sem k n => exact hx.foldl (fun _ _ hy => hy.cntIf _ _ _ _) _
    | _ => exact hx
  have held {x : State} (hx : s.Frame x [.regs, .tiles] timeFields) (c : Prop) [Decidable c] (slot : Option Nat) {f : Field} (hf : f ∈ timeFields) :
      s.Frame (if c then x.effCnt t slot f 0 d else x) [.regs, .tiles] timeFields :=
    .ite (hx.effCnt t slot 0 d (hf := hf)) hx
  have waits := ((starve.cntIf (f := .tileWaitNs) (a.tile t).core.wait.timed t 0 d).cntIf (f := .tileOpeQfullNs)
    (match (a.tile t).core.wait with | .ope .. => true | _ => false) t 0 d).cntIf (f := .tileVeQfullNs)
    (match (a.tile t).core.wait with | .ve .. => true | _ => false) t 0 d
  have engines := held (held (held (strm waits (a.tile t).core.wait) ((a.tile t).drainStalled = true) (a.tile t).runSlot (f := .opeDrainStallNs) (by decide))
    ((a.tile t).operandWaits = true) (a.tile t).runSlot (f := .opeOperandWaitNs) (by decide))
    ((a.tile t).veWaits = true) ((a.tile t).ve.queue.head?.bind (fun i => i.slot)) (f := .veOperandWaitNs) (by decide)
  exact starve.ite (((engines.cntIf _ t 0 d).cntIf _ t 0 d).cntIf _ t 0 d)

theorem State.Frame.portTime (h : s.Frame a [.regs, .tiles] timeFields) (d p : Nat) : s.Frame (a.portTime d p) [.regs, .tiles] timeFields :=
  ((h.cntIf _ p 0 d).cntIf _ p 0 d).foldl (fun _ v hx => ((hx.cntIf _ p v d).cntIf _ p v d).cntIf _ p v d) _

theorem State.Frame.deviceTime (h : s.Frame a [.regs, .tiles] timeFields) (d : Nat) : s.Frame (a.deviceTime d) [.regs, .tiles] timeFields := by
  have blocks := h.foldl (f := fun x k => (x.cntIf (x.on .pwrPbStatusDroop k) .pwrDroopHoldNs k 0 d).cntIf (x.on .pwrPbStatusHot k) .pwrThermHoldNs k 0 d)
    (fun _ k hx => (hx.cntIf _ k 0 d).cntIf _ k 0 d) (List.range 16)
  have power (w : Nat) (c1 c2 c3 : Bool) :=
    (((blocks.cnt (f := .pwrHbmHotNs) 0 0 w).cntIf (f := .pwrSafeNs) c1 0 0 d).cntIf (f := .pwrCapUnmetNs) c2 0 0 d).cntIf (f := .pwrPaceMatchNs) c3 0 0 d
  exact (((power _ _ _ _).cnt (f := .adtBar2FlushWaitNs) 0 0 _).cntIf (f := .skpStageWaitNs) _ 0 0 d).foldl (fun _ _ hx => hx.cntIf _ _ 0 d) _

theorem State.frame_timeCounters (s : State) (d : Nat) : s.Frame (s.timeCounters d) [.regs, .tiles] timeFields :=
  .ite (.refl _ _ _) ((((State.Frame.refl s _ _).foldl (fun _ t hx => hx.tileTime d t) _).foldl (fun _ p hx => hx.portTime d p) _).deviceTime d)

end

theorem State.only_talign (s : State) (x : Talign) : s.Only { s with talign := x } [.talign] := by
  intro p hp
  cases p with
  | talign => simp at hp
  | _ => rfl

theorem State.frame_settle (s : State) : s.Frame s.settle [.regs, .talign] [.tlyStatusCoarseSlew] :=
  ((State.Frame.refl s _ _).wr 0 0 0).after (.of_only (State.only_talign _ _))

/-- The fields that a snapshot's copy writes (R46, R412). -/
def shadowFields : List Field := [.dbgShadowSeq, .dbgShadowAt]

theorem State.frame_snapCopy (s : State) : s.Frame s.snapCopy [.regs, .shadows, .snapCopied] shadowFields := by
  have copied : s.Frame { s with shadows := s.shadowCopy, snapCopied := true } [.regs, .shadows, .snapCopied] shadowFields :=
    .mono (.of_only (ps' := [.shadows, .snapCopied]) fun p hp => by
      cases p with
      | shadows | snapCopied => simp at hp
      | _ => rfl)
  exact .ite (.refl _ _ _) (copied.foldl (fun _ k hx => ((hx.wr k 0 _).wr k 0 _).ite hx) _)

/-! ### The idle step -/

/-- The state of an idle step at which the packets on the rings move. -/
def State.idled (s : State) : State :=
  ((if s.advance.on .tlyStatusCoarseSlew ∧ s.tallyStep.2 ≥ -4000 then s.advance.settle else s.advance).timeCounters s.tallyStep.1).snapCopy

theorem State.frame_idled (s : State) : s.advance.Frame s.idled [.regs, .tiles, .talign, .shadows, .snapCopied]
    (.tlyStatusCoarseSlew :: (shadowFields ++ timeFields)) := by
  have settled : s.advance.Frame (if s.advance.on .tlyStatusCoarseSlew ∧ s.tallyStep.2 ≥ -4000 then s.advance.settle else s.advance)
      [.regs, .tiles, .talign, .shadows, .snapCopied] (.tlyStatusCoarseSlew :: (shadowFields ++ timeFields)) :=
    .ite (State.frame_settle _).mono (.refl _ _ _)
  exact (settled.after (State.frame_timeCounters _ _)).after (State.frame_snapCopy _)

/-- A state whose host port holds no line has none to perform. -/
theorem State.bar2Drain_none {s : State} (h : s.adit.writes = []) : s.bar2Drain = s := by
  have e : ({ s.adit with writes := [] } : Adit) = s.adit := by rw [← h]
  unfold State.bar2Drain State.bar2Take
  rw [h]
  exact congrArg (fun x => { s with adit := x }) e

theorem State.jtagRetry_none {s : State} (h : s.mod.jtagWait = []) : s.jtagRetry = s := by
  have e : ({ s.mod with jtagWait := [] } : Mod) = s.mod := by rw [← h]
  unfold State.jtagRetry
  rw [h]
  exact congrArg (fun x => { s with mod := x }) e

theorem State.ringStep_none {s : State} (h : s.ring = []) : s.ringStep = s := if_pos (.inl (by rw [h]; rfl))

/-- Where nothing waits at the host port, on the rings and at the debug port, an idle step counts time and starts what is due. -/
theorem State.tick_quiet {s : State} (hw : s.adit.writes = []) (hr : s.ring = []) (hj : s.mod.jtagWait = []) : s.tick = s.idled.perstStart := by
  have k := s.frame_idled.only
  have e : s.idled.bar2Drain.jtagRetry = s.idled := by
    rw [State.bar2Drain_none ((congrArg Adit.writes (k .adit (by decide))).trans hw),
      State.jtagRetry_none ((congrArg Mod.jtagWait (k .mod (by decide))).trans hj)]
  show (if s.tallyStep.1 = 0 then s.idled.bar2Drain.jtagRetry else s.idled.bar2Drain.jtagRetry.ringStep).perstStart = _
  rw [e, State.ringStep_none ((k .ring (by decide)).trans hr), ite_self]

end Sys2Proof.Machine
end

section
/-! The statement about an idle step. -/
namespace Sys2Proof.Machine

theorem State.frame_startClear (s : State) (t : Nat) (b : BankId) : s.Frame (s.startClear t b) [.regs, .tiles] [.spdClears] :=
  .ite (.refl _ _ _) (((State.Frame.refl s _ _).onTile t _).cnt t _ 1)

theorem State.frame_tileAlign (s : State) (t : Nat) : s.Frame (s.tileAlign t) [.regs, .tiles] [.spdClears] :=
  ((State.Frame.refl s _ _).onTile t _).foldl (fun x b hx => hx.after (x.frame_startClear t b)) _

/-- The device does not start at this instant (R502). -/
def State.NoStart (s : State) : Prop :=
  s.mod.pwrgd = false ∨ s.mod.running = true ∨ s.mod.perst = true ∨ s.mod.refOk = false ∨ s.time < s.mod.pgAt + 100000000

theorem State.perstStart_waits {s : State} (h : s.NoStart) : s.perstStart = s := if_pos (by simpa [State.NoStart] using h)

theorem State.perstStart_starts {s : State} (h : ¬ s.NoStart) :
    s.perstStart.mod.running = true ∧ s.perstStart.tally = 0 ∧ s.perstStart.devValid = true ∧ s.perstStart.boot = { rom := true, cold := true } := by
  have e : s.perstStart = (List.range 256).foldl State.tileAlign
      (({ s with tally := 0, mod := { s.mod with running := true }, boot := { rom := true, cold := true } } : State).wr .tlyStatusDevValid 0 0 1) :=
    if_neg (by simpa [State.NoStart] using h)
  have k := (State.Frame.refl
    (({ s with tally := 0, mod := { s.mod with running := true }, boot := { rom := true, cold := true } } : State).wr .tlyStatusDevValid 0 0 1)
    [.regs, .tiles] [.spdClears]).foldl (fun x t hx => hx.after (x.frame_tileAlign t)) (List.range 256)
  rw [e]
  refine ⟨congrArg Mod.running (k.only .mod (by decide)), k.only .tally (by decide), ?_, k.only .boot (by decide)⟩
  rw [State.devValid, k.on .tlyStatusDevValid 0 0, State.on, State.rd_wr_same]
  rfl

/-- How far the tally moves in an idle step without correction (R35). -/
theorem State.tallyStep_free {s : State} (hv : s.devValid = true) (hr : s.mod.refOk = true) (hc : s.on .tlyStatusCoarseSlew = false)
    (hs : s.talign.slew = 0) : s.tallyStep.1 = 1 := by
  simp [State.tallyStep, hv, hr, hc, hs]

theorem State.tallyStep_stopped {s : State} (h : s.devValid = false ∨ s.mod.refOk = false) : s.tallyStep.1 = 0 := by
  simp [State.tallyStep, h]

theorem State.idled_tally (s : State) : s.idled.tally = (s.tally + s.tallyStep.1) % 2 ^ 64 := s.frame_idled.only .tally (by decide)
theorem State.idled_time (s : State) : s.idled.time = s.time + 1 := s.frame_idled.only .time (by decide)
theorem State.idled_mod (s : State) : s.idled.mod = s.mod := s.frame_idled.only .mod (by decide)
theorem State.idled_devValid (s : State) : s.idled.devValid = s.devValid := s.frame_idled.on .tlyStatusDevValid 0 0

/-- Settles O2: where nothing waits an idle step advances the time and the tally, counts, and starts a device whose 100 ms have passed; nothing else of it
touches what the statement names. -/
theorem idleStepIsOneNanosecond : Obligations.IdleStepIsOneNanosecond := by
  intro s hq hw hr hj
  have tick := State.tick_quiet hw hr hj
  have waits (h : s.mod.running = true ∨ s.mod.perst = true) : s.tick = s.idled := by
    refine tick.trans (State.perstStart_waits (.inr ?_))
    rw [s.idled_mod]
    exact h.imp_right .inl
  refine ⟨s.tick, by rw [step, hq], s.tick_keeps.time, s.tick_keeps.pending.trans hq, fun h hv ho hc hs => ?_, fun h ht hstop => ?_,
    fun hpg hrun hperst ho => ⟨fun hdue => ?_, fun hearly => ?_⟩⟩
  · rw [waits h, s.idled_tally, State.tallyStep_free hv ho hc hs]
  · rw [waits h, s.idled_tally, State.tallyStep_stopped hstop, Nat.add_zero, Nat.mod_eq_of_lt ht]
  · have due : ¬ s.idled.NoStart := by
      rw [State.NoStart, s.idled_mod, s.idled_time]
      simp [hpg, hrun, hperst, ho]
      omega
    exact tick ▸ State.perstStart_starts due
  · have early : s.idled.NoStart := by
      rw [State.NoStart, s.idled_mod, s.idled_time]
      simp [hearly]
    rw [tick, State.perstStart_waits early, s.idled_mod, s.idled_devValid]
    exact ⟨hrun, rfl⟩

end Sys2Proof.Machine
end

section
/-! The statement about firmware writes of a tile. -/
namespace Sys2Proof.Machine

section
variable (s : State) (t : TileId)

/-- A write to a stopped tile waits, unless debug access is open with STATE_WRITE (R426). -/
theorem State.islandWrite_held {s : State} {t : TileId} (h : (s.tile t).stopped = true) (hw : s.stateWriteOpen = false) (off q v : Nat) (f : State → State) :
    s.islandWrite off t q v f = { s with dbg := { s.dbg with heldWrites := s.dbg.heldWrites ++ [⟨off, t, q, v⟩] } } := if_pos (by simp [h, hw])

theorem State.islandWrite_made {s : State} {t : TileId} (h : (s.tile t).stopped = false) (off q v : Nat) (f : State → State) :
    s.islandWrite off t q v f = f s := if_neg (by simp [h])

theorem qInst_mod (t : TileId) (q : Fin 128) : qInst t q % 65536 = qInst t q := by
  unfold qInst
  omega

theorem tile_mod (t : TileId) : t.val % 65536 = t.val := by omega

/-- The three fields of TILE_QCFG as a write stores them. -/
def State.qcfgStore (i v : Nat) : State :=
  ((s.wr .tileQcfgEn i 0 (v / 2 ^ 31)).wr .tileQcfgLog2Depth i 0 (v / 2 ^ 24)).wr .tileQcfgBase i 0 v

theorem State.only_qcfgStore (i v : Nat) : s.Only (s.qcfgStore i v) [.regs] :=
  ((s.only_wr _ _ _ _).trans (State.only_wr _ _ _ _ _)).trans (State.only_wr _ _ _ _ _)

theorem State.fieldsBut_qcfgStore (q : Fin 128) (v : Nat) : s.FieldsBut (s.qcfgStore (qInst t q) v)
    [(.tileQcfgEn, qInst t q, 0), (.tileQcfgLog2Depth, qInst t q, 0), (.tileQcfgBase, qInst t q, 0)] := by
  unfold State.qcfgStore
  exact (((State.FieldsBut.refl s _).wr (by simp [qInst_mod]) _).wr (by simp [qInst_mod]) _).wr (by simp [qInst_mod]) _

theorem State.rd_qcfgStore (i v : Nat) :
    (s.qcfgStore i v).rd .tileQcfgEn i = v / 2 ^ 31 % 2 ∧ (s.qcfgStore i v).rd .tileQcfgBase i = v % 2 ^ Field.tileQcfgBase.info.width ∧
      (s.qcfgStore i v).rd .tileQcfgLog2Depth i = v / 2 ^ 24 % 2 ^ Field.tileQcfgLog2Depth.info.width := by
  refine ⟨?_, State.rd_wr_same _ _ _ _ _, ?_⟩
  · rw [State.qcfgStore, State.rd_wr_ne _ (by decide), State.rd_wr_ne _ (by decide), State.rd_wr_same]
    rfl
  · rw [State.qcfgStore, State.rd_wr_ne _ (by decide), State.rd_wr_same]

/-- A queue that loses EN loses its entries, which are counted, and its pointers (R176). -/
def State.qEmptied (t q : Nat) : State :=
  ((s.cnt .tileQDropDisabled (qInst t q) 0 (if s.qEnabled t q then s.qOcc t q else 0)).wr .tileQHead (qInst t q) 0 0).wr .tileQTail (qInst t q) 0 0

theorem State.qcfgWrite_idle {s : State} {t q : Nat} (h : s.rd .tileQcfgEn (qInst t q) = 0) (v : Nat) : s.qcfgWrite t q v = s.qcfgStore (qInst t q) v :=
  if_neg (by simp [State.on, h])

theorem State.qcfgWrite_kept {s : State} {t q v : Nat} (h : s.rd .tileQcfgEn (qInst t q) ≠ 0) (hv : v.testBit 31 = true) : s.qcfgWrite t q v = s :=
  (if_pos (by simp [State.on, h])).trans (if_pos hv)

theorem State.qcfgWrite_cleared {s : State} {t q v : Nat} (h : s.rd .tileQcfgEn (qInst t q) ≠ 0) (hv : v.testBit 31 = false) :
    s.qcfgWrite t q v = (s.qEmptied t q).qcfgStore (qInst t q) v :=
  (if_pos (by simp [State.on, h])).trans (if_neg (by rw [show bitOf v 31 = v.testBit 31 from rfl, hv]; simp))

theorem State.only_phaseMark : s.Only (s.phaseMark t) [.pwr] := .ite (.refl _ _) fun p hp => by
  cases p with
  | pwr => simp at hp
  | _ => rfl

/-- TILE_PHASE as a write stores it. -/
def State.phaseStored (v : Nat) : State := (s.phaseMark t).wr .tilePhasePhase t 0 v

theorem State.only_phaseStored (v : Nat) : s.Only (s.phaseStored t v) [.regs, .pwr] :=
  ((s.only_phaseMark t).mono (by simp)).trans ((State.only_wr _ _ _ _ _).mono (by simp))

theorem State.fieldsBut_phaseStored (v : Nat) : s.FieldsBut (s.phaseStored t v) [(.tilePhasePhase, t, 0), (.tilePhaseAt, t, 0), (.tilePhaseChg, t, 0)] := by
  have k : s.FieldsBut (s.phaseMark t) [(.tilePhasePhase, t, 0), (.tilePhaseAt, t, 0), (.tilePhaseChg, t, 0)] :=
    fun f i j _ => (s.only_phaseMark t).rd (by decide) (by decide) f i j
  exact k.wr (by simp [tile_mod]) v

theorem State.rd_phaseStored (v : Nat) : (s.phaseStored t v).rd .tilePhasePhase t = v % 2 ^ 16 := State.rd_wr_same _ _ _ _ _

theorem State.rd_phaseStored_ne (v : Nat) {f : Field} (hf : f ≠ .tilePhasePhase) : (s.phaseStored t v).rd f t = s.rd f t :=
  (State.rd_wr_ne _ hf _ _ _ _ _).trans ((s.only_phaseMark t).rd (by decide) (by decide) _ _ _)

/-- The phase that is already in force, or one at a tile without a valid replica, is not stamped (R42, R182). -/
theorem State.phaseWrite_quiet {v : Nat} (h : (s.tile t).tallyValid = false ∨ v % 2 ^ 16 = s.rd .tilePhasePhase t) : s.phaseWrite t v = s.phaseStored t v := by
  refine if_pos ?_
  have hv : ((s.phaseStored t v).tile t).tallyValid = (s.tile t).tallyValid := congrArg Tile.tallyValid ((s.only_phaseStored t v).tile (by decide) t)
  exact h.symm.imp (fun h => (s.rd_phaseStored t v).trans h) fun h => by simpa [State.phaseStored] using hv.trans h

/-- A new phase is stamped and counted (R182). -/
theorem State.phaseWrite_changed {v : Nat} (hv : (s.tile t).tallyValid = true) (h : v % 2 ^ 16 ≠ s.rd .tilePhasePhase t) :
    s.phaseWrite t v = ((s.phaseStored t v).wr .tilePhaseAt t 0 s.tally).cnt .tilePhaseChg t 0 1 := by
  have ht : (s.phaseStored t v).tally = s.tally := s.only_phaseStored t v .tally (by decide)
  have hx : ((s.phaseStored t v).tile t).tallyValid = (s.tile t).tallyValid := congrArg Tile.tallyValid ((s.only_phaseStored t v).tile (by decide) t)
  have hn : ¬ ((s.phaseStored t v).rd .tilePhasePhase t = s.rd .tilePhasePhase t ∨ (!((s.phaseStored t v).tile t).tallyValid) = true) := by
    rw [s.rd_phaseStored, hx, hv]
    exact not_or.mpr ⟨h, Bool.false_ne_true⟩
  refine (if_neg hn).trans ?_
  show ((s.phaseStored t v).wr .tilePhaseAt t 0 (s.phaseStored t v).tally).cnt .tilePhaseChg t 0 1 = _
  rw [ht]

end

/-- A TILE_PHASE write (R42, R182). -/
theorem phaseWrite_runs (s : State) (t : TileId) (v : Nat) (hs : (s.tile t).stopped = false) :
    Runs (.tilePhaseWrite t v) s [.regs, .pwr] [(.tilePhasePhase, t, 0), (.tilePhaseAt, t, 0), (.tilePhaseChg, t, 0)] (fun s' =>
      s'.rd .tilePhasePhase t = v % 2 ^ 16 ∧
      ((s.tile t).tallyValid = true → v % 2 ^ 16 ≠ s.rd .tilePhasePhase t → s'.rd .tilePhaseAt t = s.tally % 2 ^ 64 ∧
        s'.rd .tilePhaseChg t = (s.rd .tilePhaseChg t + 1) % 2 ^ 64) ∧
      ((s.tile t).tallyValid = false ∨ v % 2 ^ 16 = s.rd .tilePhasePhase t → s'.rd .tilePhaseAt t = s.rd .tilePhaseAt t ∧
        s'.rd .tilePhaseChg t = s.rd .tilePhaseChg t)) := by
  have e := State.islandWrite_made hs 0x06008510 0 v (fun s => s.phaseWrite t (v % 2 ^ 16))
  by_cases h : (s.tile t).tallyValid = false ∨ v % 2 ^ 16 = s.rd .tilePhasePhase t
  · refine .of_eq (e.trans (s.phaseWrite_quiet t (by simpa using h))) (s.only_phaseStored t _) (s.fieldsBut_phaseStored t _) ⟨?_, fun h1 h2 => ?_, fun _ => ?_⟩
    · rw [s.rd_phaseStored, Nat.mod_mod]
    · exact absurd h (not_or.mpr ⟨by simp [h1], h2⟩)
    · exact ⟨s.rd_phaseStored_ne t _ (by decide), s.rd_phaseStored_ne t _ (by decide)⟩
  · obtain ⟨hv, hne⟩ := not_or.mp h
    refine .of_eq (e.trans (s.phaseWrite_changed t (by simpa using hv) (by simpa using hne)))
      ((s.only_phaseStored t _).trans (((State.only_wr _ _ _ _ _).trans (State.only_cnt _ _ _ _ _)).mono (by simp)))
      (((s.fieldsBut_phaseStored t _).wr (by simp [tile_mod]) _).cnt (by simp [tile_mod]) 1) ⟨?_, fun _ _ => ⟨?_, ?_⟩, fun h' => absurd h' h⟩
    · rw [State.rd_cnt_ne _ (by decide), State.rd_wr_ne _ (by decide), s.rd_phaseStored, Nat.mod_mod]
    · rw [State.rd_cnt_ne _ (by decide), State.rd_wr_same]
      rfl
    · rw [State.rd_cnt_same, State.rd_wr_ne _ (by decide), s.rd_phaseStored_ne t _ (by decide)]
      rfl

/-- A TILE_QCFG write that clears EN (R176). -/
theorem qcfgWrite_clears (s : State) (t : TileId) (q : Fin 128) {v : Nat} (hs : (s.tile t).stopped = false) (h : s.rd .tileQcfgEn (qInst t q) ≠ 0)
    (hv : v.testBit 31 = false) (hq : s.qEnabled t q = true) : Completes (.tileQcfgWrite t q v) s (fun s' =>
      s'.rd .tileQcfgEn (qInst t q) = 0 ∧ s'.rd .tileQHead (qInst t q) = 0 ∧ s'.rd .tileQTail (qInst t q) = 0 ∧
      s'.rd .tileQDropDisabled (qInst t q) = (s.rd .tileQDropDisabled (qInst t q) + s.qOcc t q) % 2 ^ 64 ∧ s.Only s' [.regs]) := by
  refine ⟨_, congrArg Host.Outcome.next ((State.islandWrite_made hs _ _ _ _).trans (State.qcfgWrite_cleared h hv)), ?_⟩
  have keep {f : Field} (he : f ≠ .tileQcfgEn) (hl : f ≠ .tileQcfgLog2Depth) (hb : f ≠ .tileQcfgBase) :
      ((s.qEmptied t q).qcfgStore (qInst t q) v).rd f (qInst t q) = (s.qEmptied t q).rd f (qInst t q) := by
    rw [State.qcfgStore, State.rd_wr_ne _ hb, State.rd_wr_ne _ hl, State.rd_wr_ne _ he]
  refine ⟨?_, ?_, ?_, ?_, ?_⟩
  · rw [(State.rd_qcfgStore _ _ _).1]
    simpa [Nat.testBit_eq_decide_div_mod_eq] using hv
  · rw [keep (by decide) (by decide) (by decide), State.qEmptied, State.rd_wr_ne _ (by decide), State.rd_wr_same]
    rfl
  · rw [keep (by decide) (by decide) (by decide), State.qEmptied, State.rd_wr_same]
    rfl
  · rw [keep (by decide) (by decide) (by decide), State.qEmptied, State.rd_wr_ne _ (by decide), State.rd_wr_ne _ (by decide), State.rd_cnt_same, if_pos hq]
    rfl
  · exact (((s.only_cnt _ _ _ _).trans (State.only_wr _ _ _ _ _)).trans (State.only_wr _ _ _ _ _)).trans (State.only_qcfgStore _ _ _)

/-- Settles O35: each write is the equation of its case, held, stored or ignored. -/
theorem tileRegisterWrites : Obligations.TileRegisterWrites := by
  intro t v s
  refine ⟨fun hs hw => ⟨fun k => ?_, fun q => ?_, ?_⟩, fun hs => ⟨fun q h => ?_, fun q h hv => ?_, fun q h hv hq => qcfgWrite_clears s t q hs h hv hq,
    fun k => ?_, phaseWrite_runs s t v hs⟩⟩
  · exact ⟨_, rfl, State.islandWrite_held hs hw _ _ _ _⟩
  · exact ⟨_, rfl, State.islandWrite_held hs hw _ _ _ _⟩
  · exact ⟨_, rfl, State.islandWrite_held hs hw _ _ _ _⟩
  · refine .of_eq ((State.islandWrite_made hs _ _ _ _).trans (State.qcfgWrite_idle h v)) (s.only_qcfgStore _ v) (s.fieldsBut_qcfgStore t q v) (s.rd_qcfgStore _ v)
  · exact ⟨_, rfl, (State.islandWrite_made hs _ _ _ _).trans (State.qcfgWrite_kept h hv)⟩
  · have hk : k.val % 4096 = k.val := by omega
    have hf : s.FieldsBut (s.semWrite t k v) [(.tileSem, t, k)] := (State.FieldsBut.refl s _).wr (by simp [tile_mod, hk]) v
    exact .of_eq (State.islandWrite_made hs _ _ _ _) (s.only_wr _ _ _ _) hf (s.rd_wr_same _ _ _ _)

end Sys2Proof.Machine
end

section
/-! SUPPORT. The alignment of a follower's tally (R38 to R40): what its operations do and leave alone. -/
namespace Sys2Proof.Machine

/-! ### Packets -/

/-- The oldest packet on the die is the oldest of its channel. -/
theorem State.netTake_head {s : State} {a : Arrival} {rest : List Arrival} (h : s.dieNet = a :: rest) {p : Packet → Bool} {ty : Nat} (hty : a.pkt.ty = ty)
    (hp : p a.pkt = true) : s.netTake ty 0 p = some (a, { s with dieNet := rest }) := by
  have hf : s.netFirst 0 a = true := by simp [State.netFirst]
  simp [State.netTake, h, List.range_succ_eq_map, hty, hp, hf]

theorem State.only_send (s : State) (p : Packet) : s.Only (s.send p) [.outbox] := s.only_outbox _

/-! ### An exchange that completes -/

theorem State.frame_xdev (s : State) (v : Bool) : s.Frame (s.xdev v) [.regs, .ic, .adit] (.tlyStatusXdevLocked :: eventNames) :=
  .ite (.refl _ _ _) (((State.Frame.refl s _ _).wr 0 0 _).after (State.frame_irq _ _))

/-- Since when the offset has been within 20 ns, once it measures off. -/
def State.nearSince (s : State) (off : Int) : Nat :=
  if decide (off.natAbs ≤ 20) then (if s.talign.inSince = 0 then s.tally + 1 else s.talign.inSince) else 0

/-- The alignment once an exchange has completed. -/
def State.exchanged (s : State) (off : Int) : Talign :=
  { s.talign with out := none, done := true, lastAt := s.tally, holdover := false, inSince := s.nearSince off }

/-- The state that has noted the offset of an exchange, before any correction. -/
def State.measured (s : State) (off : Int) : State :=
  let x := { s.wr .tlyOffset 0 0 (toBits64 off) with talign := s.exchanged off }
  if decide (off.natAbs ≤ 20) then x else x.xdev false

section
variable (s : State) (off : Int)

theorem State.frame_noted : s.Frame { s.wr .tlyOffset 0 0 (toBits64 off) with talign := s.exchanged off } [.regs, .talign] [.tlyOffset] :=
  ((State.Frame.refl s _ _).wr 0 0 _).after (.of_only (State.only_talign _ _))

theorem State.frame_judged : State.Frame { s.wr .tlyOffset 0 0 (toBits64 off) with talign := s.exchanged off } (s.measured off) [.regs, .ic, .adit]
    (.tlyStatusXdevLocked :: eventNames) := .ite (.refl _ _ _) (State.frame_xdev _ _)

theorem State.frame_measured : s.Frame (s.measured off) [.regs, .talign, .ic, .adit] (.tlyOffset :: .tlyStatusXdevLocked :: eventNames) :=
  (State.Frame.mono (s.frame_noted off)).after (s.frame_judged off)

theorem State.measured_talign : (s.measured off).talign = s.exchanged off := (s.frame_judged off).only .talign (by decide)

theorem State.measured_tally : (s.measured off).tally = s.tally := (s.frame_measured off).only .tally (by decide)

theorem State.measured_offset : (s.measured off).rd .tlyOffset = (off % 2 ^ 64).toNat := by
  refine ((s.frame_judged off).rd .tlyOffset 0 0 (by decide)).trans ((s.rd_wr_same .tlyOffset 0 0 _).trans ?_)
  show (off % 2 ^ 64).toNat % 2 ^ 64 = _
  omega

theorem State.measured_coarse : (s.measured off).on .tlyStatusCoarseSlew = s.on .tlyStatusCoarseSlew := (s.frame_measured off).on _ 0 0

/-- The offset becomes what the slew has to make good. -/
def State.slewing : State := { s.measured off with talign := { s.exchanged off with slew := off } }

theorem State.talignDone_eq : s.talignDone off =
    if (!s.talign.done && decide (off > 4000)) = true then ((s.measured off).stepForward off.toNat).settle
    else if ((!s.talign.done || s.on .tlyStatusCoarseSlew) && decide (off < -4000)) = true then (s.slewing off).wr .tlyStatusCoarseSlew 0 0 1
    else if (!s.talign.done || s.on .tlyStatusCoarseSlew) = true then (s.slewing off).settle
    else s.slewing off := by
  rw [← s.measured_coarse off, State.slewing, ← s.measured_talign off]
  rfl

/-! ### The correction -/

/-- The parts that an exchange's correction may change. -/
def correctionParts : List Part := [.regs, .talign, .tally, .ic, .adit, .pwr, .shadows, .snapCopied]

/-- The master after a forward step of n ns, before an armed snapshot that the step passes is taken (R40). -/
def State.stepped (n : Nat) : State :=
  { s with
    tally := (s.tally + n) % 2 ^ 64
    talign := { s.talign with slew := 0, lastAt := (s.tally + n) % 2 ^ 64 }
    pwr := { s.pwr with window := max s.pwr.window ((s.tally + n) % 2 ^ 64 / 2048), tileE := [], windows := 0 } }

theorem State.only_stepped (n : Nat) : s.Only (s.stepped n) [.tally, .talign, .pwr] := by
  intro p hp
  cases p with
  | tally | talign | pwr => simp at hp
  | _ => rfl

/-- A first exchange that finds the master more than 4 µs behind steps it. -/
theorem State.talignDone_steps {s : State} {off : Int} (hd : s.talign.done = false) (ho : off > 4000) :
    s.talignDone off = ((s.measured off).stepped off.toNat).snapCopy.settle := by
  rw [State.talignDone_eq, if_pos (by simp [hd, ho])]
  rfl

/-- Every other exchange leaves its offset to the slew. -/
theorem State.talignDone_slews {s : State} {off : Int} (h : s.talign.done = true ∨ off ≤ 4000) : s.talignDone off =
    if (!s.talign.done || s.on .tlyStatusCoarseSlew) && decide (off < -4000) then (s.slewing off).wr .tlyStatusCoarseSlew 0 0 1
    else if !s.talign.done || s.on .tlyStatusCoarseSlew then (s.slewing off).settle
    else s.slewing off := by
  rw [State.talignDone_eq, if_neg]
  rcases h with h | h
  · simp [h]
  · simp [show ¬ off > 4000 by omega]

theorem State.frame_talignDone_steps {s : State} {off : Int} (hd : s.talign.done = false) (ho : off > 4000) :
    ((s.measured off).stepped off.toNat).Frame (s.talignDone off) [.regs, .talign, .shadows, .snapCopied] (.tlyStatusCoarseSlew :: shadowFields) := by
  rw [State.talignDone_steps hd ho]
  exact (State.Frame.mono (State.frame_snapCopy _)).after (State.frame_settle _)

theorem State.frame_talignDone_slews {s : State} {off : Int} (h : s.talign.done = true ∨ off ≤ 4000) :
    (s.slewing off).Frame (s.talignDone off) [.regs, .talign] [.tlyStatusCoarseSlew] := by
  rw [State.talignDone_slews h]
  exact .ite ((State.Frame.refl _ _ _).wr 0 0 1) (.ite (State.frame_settle _) (.refl _ _ _))

theorem State.only_talignDone : s.Only (s.talignDone off) correctionParts := by
  have measured : s.Only (s.measured off) correctionParts := (s.frame_measured off).only.mono (by decide)
  by_cases h : s.talign.done = false ∧ off > 4000
  · exact (measured.trans ((State.only_stepped _ _).mono (by decide))).trans ((State.frame_talignDone_steps h.1 h.2).only.mono (by decide))
  · have h : s.talign.done = true ∨ off ≤ 4000 := by simpa [or_iff_not_imp_left] using h
    exact (measured.trans ((State.only_talign _ _).mono (by decide))).trans ((State.frame_talignDone_slews h).only.mono (by decide))

/-- What an exchange sets whatever its offset: the offset and the alignment but for the correction owed and the settling time. -/
structure State.Exchanged (s s' : State) (off : Int) : Prop where
  offset : s'.rd .tlyOffset = (off % 2 ^ 64).toNat
  out : s'.talign.out = none
  done : s'.talign.done = true
  holdover : s'.talign.holdover = false

theorem State.talignDone_steps_talign {s : State} {off : Int} (hd : s.talign.done = false) (ho : off > 4000) : ∃ l n,
    (s.talignDone off).talign = { s.exchanged off with slew := 0, lastAt := l, settle := n } := by
  rw [State.talignDone_steps hd ho, ← s.measured_talign off]
  have e : ((s.measured off).stepped off.toNat).snapCopy.talign = _ := (State.frame_snapCopy _).only .talign (by decide)
  unfold State.settle
  rw [e]
  exact ⟨_, _, rfl⟩

theorem State.talignDone_slews_talign {s : State} {off : Int} (h : s.talign.done = true ∨ off ≤ 4000) : ∃ n,
    (s.talignDone off).talign = { s.exchanged off with slew := off, settle := n } := by
  rw [State.talignDone_slews h]
  split
  · exact ⟨_, rfl⟩
  · split
    · exact ⟨_, rfl⟩
    · exact ⟨_, rfl⟩

theorem State.talignDone_exchanged : s.Exchanged (s.talignDone off) off := by
  by_cases h : s.talign.done = false ∧ off > 4000
  · obtain ⟨l, n, e⟩ := State.talignDone_steps_talign h.1 h.2
    refine ⟨?_, by rw [e]; rfl, by rw [e]; rfl, by rw [e]; rfl⟩
    exact ((State.frame_talignDone_steps h.1 h.2).rd .tlyOffset 0 0 (by decide)).trans (s.measured_offset off)
  · have h : s.talign.done = true ∨ off ≤ 4000 := by simpa [or_iff_not_imp_left] using h
    obtain ⟨n, e⟩ := State.talignDone_slews_talign h
    refine ⟨?_, by rw [e]; rfl, by rw [e]; rfl, by rw [e]; rfl⟩
    exact ((State.frame_talignDone_slews h).rd .tlyOffset 0 0 (by decide)).trans (s.measured_offset off)

theorem State.talignDone_slews_tally {s : State} {off : Int} (h : s.talign.done = true ∨ off ≤ 4000) : (s.talignDone off).tally = s.tally :=
  ((State.frame_talignDone_slews h).only .tally (by decide)).trans (s.measured_tally off)

theorem State.talignDone_steps_tally {s : State} {off : Int} (hd : s.talign.done = false) (ho : off > 4000) :
    (s.talignDone off).tally = (s.tally + off.toNat) % 2 ^ 64 := by
  refine ((State.frame_talignDone_steps hd ho).only .tally (by decide)).trans ?_
  show ((s.measured off).tally + off.toNat) % 2 ^ 64 = _
  rw [s.measured_tally]

/-- A first exchange that finds the master far ahead sets COARSE_SLEW. -/
theorem State.talignDone_coarse {s : State} {off : Int} (hd : s.talign.done = false) (ho : off < -4000) :
    (s.talignDone off).rd .tlyStatusCoarseSlew = 1 := by
  rw [State.talignDone_slews (.inr (by omega)), if_pos (by simp [hd, ho]), State.rd_wr_same]
  rfl

/-- An offset within 4 µs leaves COARSE_SLEW 0. -/
theorem State.talignDone_near {s : State} {off : Int} (hlo : -4000 ≤ off) (hhi : off ≤ 4000) : (s.talignDone off).rd .tlyStatusCoarseSlew = 0 := by
  rw [State.talignDone_slews (.inr hhi), if_neg (by simp [show ¬ off < -4000 by omega])]
  split
  · exact (State.rd_wr_same (s.slewing off) .tlyStatusCoarseSlew 0 0 0)
  · next h =>
    have hc : s.on .tlyStatusCoarseSlew = false := by simp_all
    rw [← s.measured_coarse off] at hc
    exact by_contra fun hne => Bool.false_ne_true (hc.symm.trans (bne_iff_ne.mpr hne))

end

end Sys2Proof.Machine
end

section
/-! The statement about the alignment of a follower's tally. -/
namespace Sys2Proof.Machine

section
variable {s : State} {a : Arrival} {rest : List Arrival}

/-- A REQUEST is answered (R39). -/
theorem talignRequest_answers (hd : s.dieNet = a :: rest) (hty : a.pkt.ty = 0xA) (hk : talignKind a.pkt = 0) (hv : s.devValid = true) :
    Completes (.talignRequestReceive 0) s (fun s' =>
      (∃ p : Packet, s'.outbox = s.outbox ++ [p] ∧ p.ty = 0xA ∧ p.vc = 0 ∧ p.len = 64 ∧ p.tag = payWord a.pkt 0 % 2 ^ 32 ∧ p.via = some (a.port.getD 0) ∧
        p.payload = talignPayload 1 (payWord a.pkt 0 % 2 ^ 32) (payWord a.pkt 1) a.stamp 0) ∧
      s'.dieNet = rest ∧ s.Only s' [.dieNet, .outbox]) := by
  have e : s.talignRequest 0 = ({ s with dieNet := rest } : State).send
      (talignPacket (a.port.getD 0) (payWord a.pkt 0 % 2 ^ 32) (talignPayload 1 (payWord a.pkt 0 % 2 ^ 32) (payWord a.pkt 1) a.stamp 0)) := by
    have hv' : ({ s with dieNet := rest } : State).devValid = true := hv
    simp only [State.talignRequest, State.netTake_head hd hty (p := fun p => talignKind p != 1) (by simp [hk]), hk, hv']
    rfl
  exact ⟨_, congrArg Host.Outcome.next e, ⟨_, rfl, rfl, rfl, rfl, rfl, rfl, rfl⟩, rfl,
    ((s.only_dieNet rest).mono (by decide)).trans ((State.only_send _ _).mono (by decide))⟩

/-- A TALIGN packet of another KIND is discarded and counted. -/
theorem talignRequest_discards (hd : s.dieNet = a :: rest) (hty : a.pkt.ty = 0xA) (hk : talignKind a.pkt > 1) :
    Completes (.talignRequestReceive 0) s (fun s' =>
      s'.rd .tlyAlignDiscard = (s.rd .tlyAlignDiscard + 1) % 2 ^ 64 ∧ s'.dieNet = rest ∧ s.FieldsBut s' [(.tlyAlignDiscard, 0, 0)] ∧
      s.Only s' [.dieNet, .regs]) := by
  have e : s.talignRequest 0 = ({ s with dieNet := rest } : State).bump .tlyAlignDiscard := by
    simp only [State.talignRequest, State.netTake_head hd hty (p := fun p => talignKind p != 1) (bne_iff_ne.mpr (Nat.ne_of_gt hk))]
    exact if_pos (Nat.ne_of_gt (Nat.zero_lt_of_lt hk))
  exact ⟨_, congrArg Host.Outcome.next e, State.rd_bump_same _ _, rfl, State.fieldsBut_bump _ _,
    ((s.only_dieNet rest).mono (by decide)).trans ((State.only_bump _ _).mono (by decide))⟩

/-- What a RESPONSE meets once it has been taken. -/
theorem State.talignResponse_head (hd : s.dieNet = a :: rest) (hty : a.pkt.ty = 0xA) (hk : talignKind a.pkt = 1) : s.talignResponse 0 =
    if s.talign.out ≠ some (payWord a.pkt 0 % 2 ^ 32) ∨ a.stamp > payWord a.pkt 1 + 100000 then ({ s with dieNet := rest } : State).bump .tlyAlignDiscard
    else ({ s with dieNet := rest } : State).talignDone (talignOffset (payWord a.pkt 1) (payWord a.pkt 2) (payWord a.pkt 3) a.stamp) := by
  simp only [State.talignResponse, State.netTake_head hd hty (p := fun p => talignKind p == 1) (by simp [hk])]

/-- A RESPONSE of another exchange, or a late one, is discarded and counted. -/
theorem talignResponse_discards (hd : s.dieNet = a :: rest) (hty : a.pkt.ty = 0xA) (hk : talignKind a.pkt = 1)
    (h : s.talign.out ≠ some (payWord a.pkt 0 % 2 ^ 32) ∨ a.stamp > payWord a.pkt 1 + 100000) : Completes (.talignResponseReceive 0) s (fun s' =>
      s'.rd .tlyAlignDiscard = (s.rd .tlyAlignDiscard + 1) % 2 ^ 64 ∧ s'.talign = s.talign ∧ s'.tally = s.tally) :=
  ⟨_, congrArg Host.Outcome.next ((State.talignResponse_head hd hty hk).trans (if_pos h)), State.rd_bump_same _ _, rfl, rfl⟩

/-- A RESPONSE completes its exchange (R38, R40). -/
theorem talignResponse_completes (hd : s.dieNet = a :: rest) (hty : a.pkt.ty = 0xA) (hk : talignKind a.pkt = 1) {off : Int}
    (ho : off = (((payWord a.pkt 2 : Int) - payWord a.pkt 1) - ((a.stamp : Int) - payWord a.pkt 3)).tdiv 2)
    (hs : s.talign.out = some (payWord a.pkt 0 % 2 ^ 32)) (hl : a.stamp ≤ payWord a.pkt 1 + 100000) : Completes (.talignResponseReceive 0) s (fun s' =>
      s'.rd .tlyOffset = (off % 2 ^ 64).toNat ∧ s'.talign.out = none ∧ s'.talign.done = true ∧ s'.talign.holdover = false ∧
      (s.talign.done = false → off > 4000 → s'.tally = (s.tally + off.toNat) % 2 ^ 64 ∧ s'.talign.slew = 0) ∧
      (s.talign.done = false → off < -4000 → s'.tally = s.tally ∧ s'.rd .tlyStatusCoarseSlew = 1) ∧
      (-4000 ≤ off → off ≤ 4000 → s'.tally = s.tally ∧ s'.talign.slew = off ∧ s'.rd .tlyStatusCoarseSlew = 0) ∧
      (s.talign.done = true → s'.tally = s.tally) ∧
      (s.talign.done = true ∨ off ≤ 4000 → s'.talign.slew = off) ∧
      s.Only s' [.regs, .talign, .tally, .dieNet, .ic, .adit, .pwr, .shadows, .snapCopied]) := by
  have e : s.talignResponse 0 = ({ s with dieNet := rest } : State).talignDone off := by
    rw [State.talignResponse_head hd hty hk, if_neg (not_or.mpr ⟨not_not.mpr hs, Nat.not_lt.mpr hl⟩), ho]
    rfl
  obtain ⟨hoff, hout, hdone, hhold⟩ := State.talignDone_exchanged { s with dieNet := rest } off
  have slew (h : s.talign.done = true ∨ off ≤ 4000) : (({ s with dieNet := rest } : State).talignDone off).talign.slew = off := by
    obtain ⟨n, e⟩ := State.talignDone_slews_talign (s := { s with dieNet := rest }) h
    rw [e]
  have tally (h : s.talign.done = true ∨ off ≤ 4000) : (({ s with dieNet := rest } : State).talignDone off).tally = s.tally :=
    State.talignDone_slews_tally (s := { s with dieNet := rest }) h
  refine ⟨_, congrArg Host.Outcome.next e, hoff, hout, hdone, hhold, fun hf h => ⟨State.talignDone_steps_tally (s := { s with dieNet := rest }) hf h, ?_⟩,
    fun hf h => ⟨tally (.inr (by omega)), State.talignDone_coarse (s := { s with dieNet := rest }) hf h⟩,
    fun h1 h2 => ⟨tally (.inr h2), slew (.inr h2), State.talignDone_near h1 h2⟩, fun h => tally (.inl h), slew,
    ((s.only_dieNet rest).mono (by decide)).trans ((State.only_talignDone _ _).mono (by decide))⟩
  obtain ⟨l, n, e⟩ := State.talignDone_steps_talign (s := { s with dieNet := rest }) hf h
  rw [e]

end

section
variable {s : State}

/-- A follower that is due sends a REQUEST (R39). -/
theorem talignSend_sends (hv : s.devValid = true) (hr : s.rd .tlyCtrlRole = 1) (h : s.talign.sentAt = 0 ∨ s.tally + 1 ≥ s.talign.sentAt + 125000) :
    Completes .talignRequestSend s (fun s' =>
      s'.talign = { s.talign with out := some s.talign.next, next := (s.talign.next + 1) % 2 ^ 32, sentAt := s.tally + 1 } ∧
      (∃ p : Packet, s'.outbox = s.outbox ++ [p] ∧ p.ty = 0xA ∧ p.vc = 0 ∧ p.len = 64 ∧ p.tag = s.talign.next ∧
        p.via = some (s.rd .tlyCtrlUpstreamPort) ∧ p.payload = talignPayload 0 s.talign.next s.tally 0 0) ∧
      s.Only s' [.talign, .outbox]) := by
  have hn : ¬ ((!s.devValid) = true ∨ (!s.follower) = true ∨ (s.talign.sentAt ≠ 0 ∧ s.tally + 1 < s.talign.sentAt + 125000)) := by
    simp only [State.follower, hv, hr]
    simp
    omega
  exact ⟨_, congrArg Host.Outcome.next (if_neg hn), rfl, ⟨_, rfl, rfl, rfl, rfl, rfl, rfl, rfl⟩,
    ((s.only_talign _).mono (by decide)).trans ((State.only_send _ _).mono (by decide))⟩

/-- The registers of a follower that enters holdover (R40). -/
def State.unlocked (s : State) : State := ((s.wr .tlyStatusXdevLocked 0 0 0).wr .tlyStatusCoarseSlew 0 0 0).bump .tlyHoldover

/-- A follower in holdover, before the event that says so (R40). -/
def State.inHoldover (s : State) : State := { s.unlocked with talign := { s.talign with holdover := true, inSince := 0, settle := 0, slew := 0 } }

theorem State.rd_inHoldover (f : Field) : s.inHoldover.rd f = s.unlocked.rd f := rfl

/-- A follower without an exchange for 1 ms enters holdover (R40). -/
theorem holdover_enters (hr : s.rd .tlyCtrlRole = 1) (hv : s.devValid = true) (hh : s.talign.holdover = false) (ht : s.tally ≥ s.talign.lastAt + 1000000) :
    Completes .holdoverEntry s (fun s' =>
      s'.rd .tlyStatusXdevLocked = 0 ∧ s'.rd .tlyHoldover = (s.rd .tlyHoldover + 1) % 2 ^ 64 ∧ s'.talign.holdover = true ∧ s'.talign.slew = 0 ∧
      s.FieldsBut s' ([(Field.tlyStatusXdevLocked, 0, 0), (Field.tlyStatusCoarseSlew, 0, 0), (Field.tlyHoldover, 0, 0)] ++ eventFields) ∧
      s.Only s' [.regs, .talign, .ic, .adit]) := by
  have e : s.holdover = s.inHoldover.irq 436 := by
    refine if_neg ?_
    simp only [State.follower, hv, hr, hh]
    simp
    omega
  have k := s.inHoldover.frame_irq 436
  have talign : (s.inHoldover.irq 436).talign = s.inHoldover.talign := k.only .talign (by decide)
  have fields : s.FieldsBut s.inHoldover ([(Field.tlyStatusXdevLocked, 0, 0), (Field.tlyStatusCoarseSlew, 0, 0), (Field.tlyHoldover, 0, 0)] ++ eventFields) :=
    .congr (s' := s.unlocked) ((((State.FieldsBut.refl s _).wr (by decide) 0).wr (by decide) 0).cnt (by decide) 1) rfl rfl
  refine ⟨_, congrArg Host.Outcome.next e, ?_, ?_, by rw [talign]; rfl, by rw [talign]; rfl,
    fields.trans ((State.fieldsBut_irq _ _).mono fun _ => List.mem_append_right _), ?_⟩
  · rw [k.rd .tlyStatusXdevLocked 0 0 (by decide), s.rd_inHoldover, State.unlocked, State.rd_bump_ne _ (by decide), State.rd_wr_ne _ (by decide),
      State.rd_wr_same]
    rfl
  · rw [k.rd .tlyHoldover 0 0 (by decide), s.rd_inHoldover, State.unlocked, State.rd_bump_same, State.rd_wr_ne _ (by decide), State.rd_wr_ne _ (by decide)]
    rfl
  · have written : s.Only s.unlocked [.regs] := ((s.only_wr _ 0 0 0).trans (State.only_wr _ _ 0 0 0)).trans (State.only_bump _ _)
    exact ((written.mono (by decide)).trans ((State.only_talign _ _).mono (by decide))).trans (k.only.mono (by decide))

theorem holdover_early (h : s.tally < s.talign.lastAt + 1000000) : s.holdover = s := if_pos (.inr (.inr (.inr h)))

/-- The offset has been within 20 ns, or come within 4 µs, for 10 ms (R40). -/
theorem xdevLock_locks (hr : s.rd .tlyCtrlRole = 1) (hx : s.rd .tlyStatusXdevLocked = 0) (hi : s.talign.inSince ≠ 0)
    (ht : s.tally + 1 ≥ (if s.talign.settle = 0 then s.talign.inSince else s.talign.settle) + 10000000) : Completes .xdevLock s (fun s' =>
      s'.rd .tlyStatusXdevLocked = 1 ∧ s'.talign = { s.talign with settle := 0 } ∧
      s.FieldsBut s' ((.tlyStatusXdevLocked, 0, 0) :: eventFields) ∧ s.Only s' [.regs, .ic, .adit, .talign]) := by
  have hon : s.on .tlyStatusXdevLocked = false := by simp [State.on, hx]
  have e : s.xdev true = (s.wr .tlyStatusXdevLocked 0 0 1).irq 436 := if_neg (by simp [hon])
  have el : s.xdevLock = { (s.wr .tlyStatusXdevLocked 0 0 1).irq 436 with talign := { s.talign with settle := 0 } } := by
    rw [← e]
    exact if_pos ⟨by simp [State.follower, hr], by simp [hon], hi, ht⟩
  have k := State.frame_irq (s.wr .tlyStatusXdevLocked 0 0 1) 436
  refine ⟨_, congrArg Host.Outcome.next el, ?_, rfl, ?_, ?_⟩
  · exact (k.rd .tlyStatusXdevLocked 0 0 (by decide)).trans (s.rd_wr_same _ _ _ _)
  · exact .congr (((State.FieldsBut.refl s _).wr (by decide) 1).trans ((State.fieldsBut_irq _ _).mono fun _ => List.mem_cons_of_mem _)) rfl rfl
  · exact (((s.only_wr _ _ _ _).mono (by decide)).trans (k.only.mono (by decide))).trans ((State.only_talign _ _).mono (by decide))

theorem xdevLock_early (h : s.talign.inSince = 0 ∨ s.tally + 1 < (if s.talign.settle = 0 then s.talign.inSince else s.talign.settle) + 10000000) :
    s.xdevLock = s := if_neg fun ⟨_, _, hi, ht⟩ => h.elim hi (Nat.not_lt.mpr ht)

end

/-- Settles O39: each packet is answered, discarded or completes its exchange, and each timer is due or not. -/
theorem tallyAlignment : Obligations.TallyAlignment := by
  refine ⟨fun s hv hr => ⟨talignSend_sends hv hr, fun h0 ht => ⟨_, rfl, if_pos (.inr (.inr ⟨h0, ht⟩))⟩⟩,
    fun a rest s hd hty => ⟨talignRequest_answers hd hty, talignRequest_discards hd hty, fun hk off ho =>
      ⟨talignResponse_discards hd hty hk, talignResponse_completes hd hty hk ho⟩⟩,
    fun s hr => ⟨holdover_enters hr, fun h => ⟨_, rfl, holdover_early h⟩, fun hx hi since hs => ?_, fun h => ⟨_, rfl, xdevLock_early (.inl h)⟩⟩⟩
  subst hs
  exact ⟨xdevLock_locks hr hx hi, fun h => ⟨_, rfl, xdevLock_early (.inr h)⟩⟩

end Sys2Proof.Machine
end

section
/-! SUPPORT. Errors and faults that an access of memory can cause (R51, R218, R348 to R352): which parts and fields they may change. -/
namespace Sys2Proof.Machine

/-! ### Parts -/

theorem State.only_setBytes (s : State) (k : Nat) (l : List Byte) : s.Only (s.setBytes k l) [.mem] := by
  induction l generalizing s k with
  | nil => exact .refl s _
  | cons v l ih =>
    refine State.Only.trans (b := s.setByte k v) (fun p hp => ?_) (ih _ _)
    cases p with
    | mem => simp at hp
    | _ => rfl

theorem State.only_free (s : State) (n : Nat) : s.Only { s with free := n } [.free] := by
  intro p hp
  cases p with
  | free => simp at hp
  | _ => rfl

theorem State.only_mbx (s : State) (x : Mbx) : s.Only { s with mbx := x } [.mbx] := by
  intro p hp
  cases p with
  | mbx => simp at hp
  | _ => rfl

theorem State.only_setComp (s : State) (k : Nat) (c : Comp) : s.Only (s.setComp k c) [.comps] := by
  intro p hp
  cases p with
  | comps => simp at hp
  | _ => rfl

theorem State.only_mod (s : State) (x : Mod) : s.Only { s with mod := x } [.mod] := by
  intro p hp
  cases p with
  | mod => simp at hp
  | _ => rfl

/-! ### Reports -/

theorem State.frame_report (s : State) (cls : Nat) (kind : RasKind) (inst code gen detail : Nat) :
    s.Frame (s.report cls kind inst code gen detail) [.regs, .ras] [.rasResetSuppress] := by
  have queued : s.Frame { s with ras := s.ras ++ [⟨cls, kind, inst, code, gen, detail⟩] } [.regs, .ras] [.rasResetSuppress] :=
    .mono (.of_only (ps' := [.ras]) fun p hp => by
      cases p with
      | ras => simp at hp
      | _ => rfl)
  exact .ite (.ite (State.Frame.refl s _ _).bump queued) (.refl _ _ _)

theorem State.frame_reportTile (s : State) (cls t code detail : Nat) : s.Frame (s.reportTile cls t code detail) [.regs, .ras] [.rasResetSuppress] :=
  s.frame_report _ _ _ _ _ _

/-- The counters of accesses that reach no memory (R51). -/
def decodeFields : List Field :=
  [.tileDecodeErr, .hstDecodeErr, .tileSeamDecodeErr, .adtBar2DecodeErr, .hfDecodeErr, .dbgDecodeErr, .rasResetSuppress]

theorem State.frame_decodeCount (s : State) (r : Requester) (a : Nat) : s.Frame (s.decodeCount r a) [.regs, .ras] decodeFields := by
  have k := State.Frame.refl s [.regs, .ras] decodeFields
  cases r with
  | core t => exact (k.cnt t 0 1).after (State.frame_reportTile _ _ _ _ _)
  | hoist t => exact (k.cnt t 0 1).after (State.frame_reportTile _ _ _ _ _)
  | seam t => exact (k.cnt t 0 1).after (State.frame_reportTile _ _ _ _ _)
  | unit t => exact k.after (State.frame_reportTile _ _ _ _ _)
  | bar2 => exact k.bump.after (State.frame_report _ _ _ _ _ _ _)
  | hf n => exact k.bump.after (State.frame_report _ _ _ _ _ _ _)
  | dbg => exact k.bump.after (State.frame_report _ _ _ _ _ _ _)

/-! ### Component faults -/

/-- The parts that a fault of a firmware component may change. -/
def faultParts : List Part := [.regs, .mem, .free, .ras, .ic, .adit, .mbx, .comps, .uart, .hfOut, .demand, .rasLog, .rasw, .nhLast, .nhWait]

/-- The fields that a fault of a firmware component may change. -/
def faultFields : List Field :=
  .rasResetSuppress :: .hfCompFaults :: .hfCompStatusGen :: .mbxState :: .mbxErrStatus :: .mbxEvtHead :: .mbxEvtDrop :: eventNames

section
variable {s a : State}

theorem State.Frame.takeFree (h : s.Frame a faultParts faultFields) : s.Frame a.takeFree.2 faultParts faultFields := h.after (.of_only (a.only_free _))

theorem State.Frame.setBytes (h : s.Frame a faultParts faultFields) (k : Nat) (l : List Byte) : s.Frame (a.setBytes k l) faultParts faultFields :=
  h.after (.of_only (a.only_setBytes k l))

theorem State.Frame.respond (h : s.Frame a faultParts faultFields) (c comp stamp status : Nat) (payload : List Byte) :
    s.Frame (a.respond c comp stamp status payload) faultParts faultFields := by
  have answered {x : State} (hx : s.Frame x faultParts faultFields) (bytes : List Byte) :
      s.Frame ((if status = 0 then (x.setBytes (mbxKey c 0x2000) bytes).wr .mbxState c 0 2
        else ((x.setBytes (mbxKey c 0x2000) bytes).wr .mbxState c 0 2).cnt .mbxErrStatus c 0 1).msix c) faultParts faultFields :=
    have done := (hx.setBytes (mbxKey c 0x2000) bytes).wr (f := .mbxState) c 0 2
    State.Frame.after (.ite done (done.cnt c 0 1)) (State.frame_msix _ _)
  unfold State.respond
  cases a.mbx.pair with
  | none => exact answered h.takeFree _
  | some p => exact answered h _

theorem State.Frame.postEvent (h : s.Frame a faultParts faultFields) (code comp : Nat) (data : List Byte) :
    s.Frame (a.postEvent code comp data) faultParts faultFields := by
  have noted (x : Mbx) (l : List UartLine) : s.Frame { a with mbx := x, uart := l } faultParts faultFields :=
    h.after (.of_only (ps' := [.mbx, .uart]) fun p hp => by
      cases p with
      | mbx | uart => simp at hp
      | _ => rfl)
  exact State.Frame.after (.ite ((noted _ _).cnt 63 0 1) (((noted _ _).setBytes _ _).wr 63 0 _)) (State.frame_msix _ _)

theorem State.Frame.postClass (h : s.Frame a faultParts faultFields) (cls comp : Nat) : s.Frame (a.postClass cls comp) faultParts faultFields :=
  State.Frame.postEvent (State.Frame.takeFree h.takeFree) _ _ _

theorem State.only_icForget (s : State) (k : Nat) : s.Only (s.icForget k) [.ic] :=
  .trans (.foldl (.refl s _) (fun x _ => (x.only_ic _).trans (State.only_ic _ _)) _) (State.only_ic _ _)

theorem State.Frame.areaInit (h : s.Frame a faultParts faultFields) (k : Nat) : s.Frame (a.areaInit k) faultParts faultFields := by
  unfold State.areaInit
  split
  · exact h
  · exact (h.after (.of_only (a.only_free _))).setBytes _ _

/-- What a component loses when it is reset: its outstanding requests, and its working data (R350, R448). -/
def State.forgotten (s : State) (k : Nat) : State :=
  let s := { s with hfOut := s.hfOut.filter (fun e => e.2 != k) }
  if k = 1 then { s with demand := [] }
  else if k = 3 then
    { s with
      rasLog := []
      rasw := { flashNext := s.rasw.flashNext, flashAt := s.rasw.flashAt, ceAt := s.rasw.ceAt, scanAt := s.rasw.scanAt, warmPlan := s.rasw.warmPlan } }
  else if k = 5 then { s with nhLast := none, nhWait := none }
  else s

theorem State.only_forgotten (s : State) (k : Nat) : s.Only (s.forgotten k) [.hfOut, .demand, .rasLog, .rasw, .nhLast, .nhWait] := by
  refine .ite ?_ (.ite ?_ (.ite ?_ ?_)) <;> intro p hp <;> cases p <;> first | rfl | simp at hp

theorem State.compReset_eq (s : State) (k : Nat) : s.compReset k =
    ((((s.setComp k { s.comp k with mode := .restarting, resetAt := s.tally }).icForget k).areaInit k).cnt .hfCompStatusGen 0 k 1).forgotten k := by
  unfold State.compReset State.forgotten
  rfl

theorem State.Frame.compReset (h : s.Frame a faultParts faultFields) (k : Nat) : s.Frame (a.compReset k) faultParts faultFields := by
  rw [State.compReset_eq]
  exact ((((h.after (.of_only (State.only_setComp _ k _))).after (.of_only (State.only_icForget _ k))).areaInit k).cnt 0 k 1).after
    (.of_only (State.only_forgotten _ k))

theorem State.Frame.compAbandon (h : s.Frame a faultParts faultFields) (k : Nat) : s.Frame (a.compAbandon k) faultParts faultFields := by
  unfold State.compAbandon
  split
  · exact h
  · exact (h.after (.of_only (a.only_mbx _))).respond _ _ _ _ _

theorem State.Frame.report (h : s.Frame a faultParts faultFields) (cls : Nat) (kind : RasKind) (inst code gen detail : Nat) :
    s.Frame (a.report cls kind inst code gen detail) faultParts faultFields := h.after (State.frame_report _ _ _ _ _ _ _)

/-- The faults of a component within 60 s, with the present one (R351). -/
def State.faultsNow (s : State) (k : Nat) : List Nat := (s.comp k).faults.filter (fun a => decide (s.tally < a + 60000000000)) ++ [s.tally]

/-- A running component's fault has been counted, its command abandoned and the RAS agent told. -/
def State.faultTold (s : State) (k : Nat) (left : Bool) : State :=
  let x := ((s.cnt .hfCompFaults 0 k 1).setComp k { s.comp k with faults := s.faultsNow k }).compAbandon k
  x.report 2 .component k (b2n (left && decide ((s.faultsNow k).length < 3))) (x.rd .hfCompStatusGen 0 k) x.tally

/-- A component has failed (R351). -/
def State.faultFailed (s : State) (k : Nat) (left : Bool) : State :=
  ((s.faultTold k left).setComp k { s.comp k with faults := s.faultsNow k, mode := .failed }).postClass 0 (watcher k)

theorem State.compFault_running {k : Nat} (h : (a.comp k).mode = .running) (left : Bool) : a.compFault k left =
    if (a.faultsNow k).length ≥ 3 then
      if k = 0 ∨ k = 3 then
        (a.faultFailed k left).report 3 .component k 0 ((a.faultFailed k left).rd .hfCompStatusGen 0 k) (a.faultFailed k left).tally
      else a.faultFailed k left
    else if left then a.faultTold k left else (a.faultTold k left).compReset k := by
  unfold State.compFault State.faultFailed State.faultTold State.faultsNow
  dsimp only
  rw [h]

theorem State.compFault_idle {k : Nat} (h : (a.comp k).mode ≠ .running) (left : Bool) : a.compFault k left = a.bump .rasResetSuppress ∨ a.compFault k left = a := by
  unfold State.compFault
  dsimp only
  split
  · exact .inl rfl
  · next e => exact absurd e h
  · exact .inr rfl

theorem State.Frame.compFault (h : s.Frame a faultParts faultFields) (k : Nat) (left : Bool) : s.Frame (a.compFault k left) faultParts faultFields := by
  have told : s.Frame (a.faultTold k left) faultParts faultFields :=
    (((h.cnt 0 k 1).after (.of_only (State.only_setComp _ k _))).compAbandon k).report _ _ _ _ _ _
  have failed : s.Frame (a.faultFailed k left) faultParts faultFields := (told.after (.of_only (State.only_setComp _ k _))).postClass _ _
  by_cases hm : (a.comp k).mode = .running
  · rw [State.compFault_running hm]
    exact .ite (.ite (failed.report _ _ _ _ _ _) failed) (.ite told (told.compReset k))
  · rcases State.compFault_idle hm left with e | e
    · exact e ▸ h.bump
    · rwa [e]

/-- Finding out which component acts takes at most a free value. -/
theorem State.actingComp_some {core : Nat} {r : Nat × State} (h : a.actingComp core = some r) : r.2 = a ∨ r.2 = a.takeFree.2 := by
  unfold State.actingComp at h
  split at h
  · cases h
  · cases h
    exact .inl rfl
  · cases h
    exact .inr rfl

theorem State.Frame.accessFault (h : s.Frame a faultParts faultFields) (k : Nat) : s.Frame (a.accessFault k) faultParts faultFields :=
  .ite (h.report _ _ _ _ _ _) (h.compFault k false)

theorem State.Frame.busFault (h : s.Frame a faultParts faultFields) (core : Nat) : s.Frame (a.busFault core) faultParts faultFields := by
  have raised : s.Frame (a.irq (428 + core)) faultParts faultFields := h.after (State.frame_irq _ _)
  unfold State.busFault
  dsimp only
  split
  · exact raised
  · next r he =>
    rcases State.actingComp_some he with e | e
    · exact e ▸ raised.accessFault r.1
    · exact e ▸ raised.takeFree.accessFault r.1

end

theorem State.frame_busFault (s : State) (core : Nat) : s.Frame (s.busFault core) faultParts faultFields := (State.Frame.refl s _ _).busFault core

/-- A core on which no component acts only takes the event (R349). -/
theorem State.busFault_of_idle {s : State} {core : Nat} (h : s.coreComps core = []) : s.busFault core = s.irq (428 + core) := by
  have hc : (s.irq (428 + core)).coreComps core = [] := by
    rw [State.coreComps_congr (s.only_irq _ .comps (by decide)), h]
  simp only [State.busFault, State.actingComp, hc]

theorem State.frame_decodeError (s : State) (r : Requester) (a : Nat) : s.Frame (s.decodeError r a) (.mod :: faultParts) (decodeFields ++ faultFields) := by
  have counted : s.Frame (s.decodeCount r a) (.mod :: faultParts) (decodeFields ++ faultFields) := (s.frame_decodeCount r a).mono
  cases r with
  | hf n => exact counted.after (State.frame_busFault _ n)
  | dbg => exact counted.after (.of_only (State.only_mod _ _))
  | _ => exact counted

/-- An access of a unit that is no headframe core faults nothing. -/
theorem State.only_decodeError {r : Requester} (hr : ∀ n, r ≠ .hf n) (s : State) (a : Nat) : s.Only (s.decodeError r a) [.regs, .ras, .mod] := by
  have counted : s.Only (s.decodeCount r a) [.regs, .ras, .mod] := (s.frame_decodeCount r a).only.mono (by decide)
  cases r with
  | hf n => exact absurd rfl (hr n)
  | dbg => exact counted.trans ((State.only_mod _ _).mono (by decide))
  | _ => exact counted

end Sys2Proof.Machine
end

section
/-! SUPPORT. Words, spans and requests of a scratchpad bank (R212 to R218): what each operation does to bytes, marks, and the requests that wait. -/
namespace Sys2Proof.Machine

/-! ### Banks of a tile -/

theorem bankIdx_injective {b c : BankId} (h : bankIdx b = bankIdx c) : b = c := by
  cases b <;> cases c <;> first | rfl | exact absurd h (by decide)

theorem bankIdx_lt (b : BankId) : bankIdx b < 4096 := by cases b <;> decide

theorem State.bank_setBank_same (s : State) (t : Nat) (b : BankId) (x : Bank) : (s.setBank t b x).bank t b = x := by
  simp [State.bank, State.setBank, sget_sput_same]

theorem State.bank_setBank_ne (s : State) (t : Nat) {b c : BankId} (h : c ≠ b) (x : Bank) : (s.setBank t b x).bank t c = s.bank t c := by
  have hi : bankIdx c ≠ bankIdx b := fun e => h (bankIdx_injective e)
  simp [State.bank, State.setBank, sget_sput_ne _ hi]

theorem State.tile_setBank (s : State) (t : Nat) (b : BankId) (x : Bank) :
    (s.setBank t b x).tile t = { s.tile t with banks := ((s.setBank t b x).tile t).banks } := by simp [State.setBank]

theorem State.tilesBut_onTile (s : State) (t : Nat) (g : Tile → Tile) : s.TilesBut (s.onTile t g) t := fun _ hu => s.tile_onTile_ne hu g

theorem State.only_setBank (s : State) (t : Nat) (b : BankId) (x : Bank) : s.Only (s.setBank t b x) [.tiles] := s.only_onTile t _

theorem State.TilesBut.trans {a b c : State} {t : Nat} (h1 : a.TilesBut b t) (h2 : b.TilesBut c t) : a.TilesBut c t :=
  fun u hu => (h2 u hu).trans (h1 u hu)

theorem State.Only.tilesBut {s a : State} {l : List Part} (h : s.Only a l) (hl : Part.tiles ∉ l) (t : Nat) : s.TilesBut a t := fun u _ => h.tile hl u

theorem State.Only.bank {s a : State} {l : List Part} (h : s.Only a l) (hl : Part.tiles ∉ l) (t : Nat) (b : BankId) : a.bank t b = s.bank t b := by
  simp only [State.bank, h.tile hl t]

theorem State.Only.byte {s a : State} {l : List Part} (h : s.Only a l) (hl : Part.mem ∉ l) (k : Nat) : a.byte k = s.byte k :=
  congrArg (sget 0#8 k) (h .mem hl)

theorem State.Only.mark {s a : State} {l : List Part} (h : s.Only a l) (hl : Part.ecc ∉ l) (k : Nat) : a.mark k = s.mark k :=
  congrArg (sget 0 k) (h .ecc hl)

theorem State.Only.setMark {s a : State} {l : List Part} (h : s.Only a l) (hl : Part.ecc ∈ l) (k v : Nat) : s.Only (a.setMark k v) l :=
  h.trans fun p hp => by
    cases p with
    | ecc => exact absurd hl hp
    | _ => rfl

theorem spdAddr_add (t : Nat) (b : BankId) (off i : Nat) : spdAddr t b (off + i) = spdAddr t b off + i := by
  unfold spdAddr
  omega

/-! ### A bank without errors and a tile without a commit

Such a bank's words are read and written as they stand. -/

/-- No word of the bank is in error, and no branch of the tile commits. -/
structure State.Clean (s : State) (t : Nat) (b : BankId) : Prop where
  marks : ∀ w, s.mark (spdAddr t b (8 * w)) = 0
  steady : ∀ i, (s.slot t i).mode ≠ .committing

section
variable {s a : State} {t : Nat} {b : BankId}

theorem State.Clean.of_same (h : s.Clean t b) (he : ∀ w, a.mark (spdAddr t b (8 * w)) = s.mark (spdAddr t b (8 * w)))
    (hs : ∀ i, (a.slot t i).mode = (s.slot t i).mode) : a.Clean t b :=
  ⟨fun w => (he w).trans (h.marks w), fun i => hs i ▸ h.steady i⟩

theorem State.slot_setBank (s : State) (t : Nat) (b : BankId) (x : Bank) (i : Nat) : (s.setBank t b x).slot t i = s.slot t i := by
  simp [State.slot, State.setBank]

/-- An effect that a branch holds leaves its slot's mode. -/
theorem State.mode_held (s : State) (t j : Nat) (h : List Machine.Held) (i : Nat) :
    ((s.setSlot t j { s.slot t j with held := h }).slot t i).mode = (s.slot t i).mode := by
  have hi : (s.setSlot t j { s.slot t j with held := h }).slot t i = sget {} i (sput {} j { s.slot t j with held := h } (s.tile t).slots) := by
    simp [State.slot, State.setSlot]
  rw [hi]
  by_cases e : i = j
  · rw [e, sget_sput_same]
  · rw [sget_sput_ne _ e]
    rfl

theorem State.Clean.effCnt (h : s.Clean t b) (slot : Option Nat) (f : Field) {sub : Nat} (n : Nat) (hs : sub < 4096) : (s.effCnt t slot f sub n).Clean t b := by
  cases slot with
  | none =>
    rw [s.effCnt_now t f n hs]
    split
    · exact h
    · exact h.of_same (fun _ => rfl) (fun _ => rfl)
  | some j =>
    unfold State.effCnt
    split
    · exact h
    · exact h.of_same (fun _ => rfl) (s.mode_held t j _)

theorem State.Clean.activity (h : s.Clean t b) (u c n : Nat) : (s.activity u c n).Clean t b :=
  h.of_same (fun _ => (s.only_activity u c n).mark (by decide) _) (fun i => by simp only [State.slot, State.tile_activity])

theorem State.Clean.setBank (h : s.Clean t b) (c : BankId) (x : Bank) : (s.setBank t c x).Clean t b :=
  h.of_same (fun _ => rfl) (fun i => congrArg Slot.mode (s.slot_setBank t c x i))

/-- Without a commit no shadow byte stands before the bank's, for untagged work. -/
theorem State.Clean.shadowByte (h : s.Clean t b) (c : BankId) (off : Nat) : s.shadowByte t c off none = none := by
  have hm : ∀ i, (sget {} i (s.tile t).slots).mode ≠ .committing := h.steady
  simp [State.shadowByte, hm]

theorem State.Clean.spdByte (h : s.Clean t b) (c : BankId) (off : Nat) : s.spdByte t c off none = s.byte (spdAddr t c off) := by
  simp [State.spdByte, h.shadowByte]

theorem State.Clean.shadowLine (h : s.Clean t b) (off : Nat) : (s.tile t).shadowLine off = none := by
  have hm : ∀ i, (sget {} i (s.tile t).slots).mode ≠ .committing := h.steady
  simp [Tile.shadowLine, hm]

/-- Good words are read without an effect. -/
theorem State.Clean.wordsRead (h : s.Clean t b) (source off n : Nat) (slot : Option Nat) : s.spdWordsRead t b source off n slot = (s, false) := by
  unfold State.spdWordsRead
  generalize wordParts off n = l
  induction l with
  | nil => rfl
  | cons p l ih =>
    rw [List.foldl_cons]
    have hw : s.spdWordRead t b source (p.1 / 8) slot = (s, false) := by simp [State.spdWordRead, h.marks]
    simp only [hw, Bool.or_false, ite_self]
    exact ih

end

end Sys2Proof.Machine
end

section
/-! SUPPORT. How requests reach a bank (R42, R212, R221, R223, R348): which of them fail, which wait, and which ask for a slot. -/
namespace Sys2Proof.Machine

/-! ### The ways of a request -/

/-- Requests wait at a bank. -/
def State.bankQueued (s : State) (t : Nat) (b : BankId) (reqs : List BankReq) : State :=
  s.setBank t b { s.bank t b with waiting := (s.bank t b).waiting ++ reqs.map (fun r => { req := r }) }

/-- A clearing bank holds requests, and counts each (R223). -/
def State.bankHeld (s : State) (t : Nat) (b : BankId) (reqs : List BankReq) : State :=
  reqs.foldl (fun s r => s.effCnt t (reqSlot r) .spdClearHold (bankIdx b) 1) (s.bankQueued t b reqs)

/-- What the environment brings to the word that the first request names. -/
def State.bankUpset (s : State) (t : Nat) (b : BankId) (reqs : List BankReq) (u : Upset) : State :=
  match reqs with
  | r :: _ => s.upsetWord (spdAddr t b (r.off / 8 * 8)) u
  | [] => s

/-- Requests that no MPU blocks reach a bank. -/
def State.bankReached (s : State) (t : Nat) (b : BankId) (reqs : List BankReq) (u : Upset) : State :=
  if (s.tile t).gated then reqs.foldl (fun s r => s.bankFail t b r) s
  else if s.clearing t b then s.bankHeld t b reqs
  else if (s.tile t).stopped ∨ !(s.tile t).tallyValid then s.bankQueued t b reqs
  else (s.bankUpset t b reqs u).bankPeriod t b ((s.bank t b).waiting ++ reqs.map (fun r => { req := r }))

/-- Is an access of a bank blocked by the MPU of the core that makes it (R348)? -/
def State.bankStops (s : State) (t : Nat) (b : BankId) (r : BankReq) : Bool := s.mpuStops r.who (spdAddr t b r.off) r.len r.write

theorem State.bankAccess_eq (s : State) (t : Nat) (b : BankId) (reqs : List BankReq) (u : Upset) : s.bankAccess t b reqs u =
    ((reqs.filter (s.bankStops t b)).foldl (fun s r => s.bankBlocked t r) s).bankReached t b (reqs.filter (fun r => !s.bankStops t b r)) u := rfl

section
variable {s : State} {t : Nat} {b : BankId} {reqs : List BankReq}

theorem State.bankAccess_of_may (u : Upset) (h : ∀ r ∈ reqs, s.bankStops t b r = false) : s.bankAccess t b reqs u = s.bankReached t b reqs u := by
  have stopped : reqs.filter (s.bankStops t b) = [] := List.filter_eq_nil_iff.2 fun r hr => by simp [h r hr]
  have rest : reqs.filter (fun r => !s.bankStops t b r) = reqs := List.filter_eq_self.2 fun r hr => by simp [h r hr]
  rw [State.bankAccess_eq, stopped, rest]
  rfl

theorem State.bankAccess_of_stopped {r : BankReq} (u : Upset) (h : s.bankStops t b r = true) :
    s.bankAccess t b [r] u = (s.bankBlocked t r).bankReached t b [] u := by
  simp [State.bankAccess_eq, h]

theorem State.bankReached_gated (u : Upset) (h : (s.tile t).gated = true) :
    s.bankReached t b reqs u = reqs.foldl (fun s r => s.bankFail t b r) s := if_pos h

theorem State.bankReached_clearing (u : Upset) (hg : (s.tile t).gated = false) (hc : s.clearing t b = true) :
    s.bankReached t b reqs u = s.bankHeld t b reqs := by simp [State.bankReached, hg, hc]

theorem State.bankReached_waits (u : Upset) (hg : (s.tile t).gated = false) (hc : s.clearing t b = false)
    (hw : (s.tile t).stopped = true ∨ (s.tile t).tallyValid = false) : s.bankReached t b reqs u = s.bankQueued t b reqs := by
  simp [State.bankReached, hg, hc, hw]

theorem State.bankReached_open (u : Upset) (h : s.bankOpen t b = true) : s.bankReached t b reqs u =
    (s.bankUpset t b reqs u).bankPeriod t b ((s.bank t b).waiting ++ reqs.map (fun r => { req := r })) := by
  simp only [State.bankOpen, Bool.and_eq_true, Bool.not_eq_true'] at h
  obtain ⟨⟨⟨hg, hv⟩, hs⟩, hc⟩ := h
  simp [State.bankReached, hg, hv, hs, hc]

/-- Well-formed requests that no MPU blocks are taken by the bank. -/
theorem Completes.bankReached {t : TileId} {u : Upset} {P : State → Prop}
    (hm : ∀ r ∈ reqs, bankReqOk b r = true ∧ s.bankStops t b r = false) (h : P (s.bankReached t b reqs u)) : Completes (.bankAccess t b reqs u) s P := by
  refine ⟨s.bankAccess t b reqs u, if_pos (List.all_eq_true.2 fun r hr => (hm r hr).1), ?_⟩
  rwa [State.bankAccess_of_may u fun r hr => (hm r hr).2]

/-! ### Waiting, and being counted -/

theorem State.only_bankQueued (s : State) (t : Nat) (b : BankId) (reqs : List BankReq) : s.Only (s.bankQueued t b reqs) [.tiles] := s.only_setBank t b _

/-- A count that every entry of a list adds one to. -/
theorem State.rd_foldl_counted {α : Type} {f : Field} {i j : Nat} {g : State → α → State} {l : List α}
    (hg : ∀ e ∈ l, ∀ x : State, (g x e).rd f i j = (x.rd f i j + 1) % 2 ^ 64) (s : State) (h : l ≠ []) :
    (l.foldl g s).rd f i j = (s.rd f i j + l.length) % 2 ^ 64 := by
  induction l generalizing s with
  | nil => exact absurd rfl h
  | cons e l ih =>
    have first := hg e (by simp) s
    rw [List.foldl_cons]
    by_cases hl : l = []
    · subst hl
      simpa using first
    · rw [ih (fun e he => hg e (by simp [he])) _ hl, first, List.length_cons]
      omega

theorem State.effCnt_one (s : State) (t : Nat) (f : Field) {sub : Nat} (hs : sub < 4096) : s.effCnt t none f sub 1 = s.cnt f t sub 1 :=
  (s.effCnt_now t f 1 hs).trans (if_neg (by decide))

theorem State.bankHeld_untagged (h : ∀ r ∈ reqs, r.slot = none) :
    s.bankHeld t b reqs = reqs.foldl (fun x _ => x.cnt .spdClearHold t (bankIdx b) 1) (s.bankQueued t b reqs) := by
  refine List.foldl_ext _ _ _ fun x r hr => ?_
  rw [reqSlot, h r hr]
  exact x.effCnt_one t .spdClearHold (bankIdx_lt b)

theorem State.tile_bankHeld (h : ∀ r ∈ reqs, r.slot = none) (u : Nat) : (s.bankHeld t b reqs).tile u = (s.bankQueued t b reqs).tile u := by
  rw [State.bankHeld_untagged h]
  exact (State.Only.foldl (.refl _ [.regs]) (fun x _ => x.only_cnt _ _ _ _) _).tile (by decide) u

theorem State.only_bankHeld (h : ∀ r ∈ reqs, r.slot = none) : s.Only (s.bankHeld t b reqs) [.regs, .tiles] := by
  rw [State.bankHeld_untagged h]
  exact .foldl ((s.only_bankQueued t b reqs).mono (by decide)) (fun x _ => (x.only_cnt _ _ _ _).mono (by decide)) _

theorem State.FieldsBut.foldl {α : Type} {a : State} {l : List (Field × Nat × Nat)} {g : State → α → State} (h : s.FieldsBut a l)
    (hg : ∀ x e, s.FieldsBut x l → s.FieldsBut (g x e) l) (es : List α) : s.FieldsBut (es.foldl g a) l := by
  induction es generalizing a with
  | nil => exact h
  | cons e es ih => exact ih (hg a e h)

theorem State.fieldsBut_bankHeld {t : TileId} (h : ∀ r ∈ reqs, r.slot = none) : s.FieldsBut (s.bankHeld t b reqs) [(.spdClearHold, t, bankIdx b)] := by
  have queued : s.FieldsBut (s.bankQueued t b reqs) [(.spdClearHold, t, bankIdx b)] := .congr (.refl s _) rfl rfl
  have listed : (Field.spdClearHold, t.val % 65536, bankIdx b % 4096) ∈ [(Field.spdClearHold, t.val, bankIdx b)] := by
    rw [tile_mod, Nat.mod_eq_of_lt (bankIdx_lt b)]
    exact List.mem_singleton_self _
  rw [State.bankHeld_untagged h]
  exact queued.foldl (fun x _ hx => hx.cnt listed 1) _

theorem State.rd_bankHeld (h : ∀ r ∈ reqs, r.slot = none) (hn : reqs ≠ []) :
    (s.bankHeld t b reqs).rd .spdClearHold t (bankIdx b) = (s.rd .spdClearHold t (bankIdx b) + reqs.length) % 2 ^ 64 := by
  rw [State.bankHeld_untagged h]
  exact State.rd_foldl_counted (fun r _ x => x.rd_cnt_same _ _ _ _) _ hn

/-! ### A gated tile's bank -/

theorem State.rd_bankFail (s : State) (t : Nat) (b : BankId) (r : BankReq) : (s.bankFail t b r).rd .spdGatedAcc = (s.rd .spdGatedAcc + 1) % 2 ^ 64 :=
  ((State.frame_decodeError _ r.who _).rd .spdGatedAcc 0 0 (by decide)).trans (s.rd_bump_same .spdGatedAcc)

theorem State.reads_bankFail (s : State) (t : Nat) (b : BankId) (r : BankReq) :
    ((s.bankFail t b r).tile t).reads = (s.tile t).reads ++ [⟨r.tag, 0, false, true⟩] := by
  simp only [State.bankFail, State.tile_onTile_same]
  rw [(State.frame_decodeError _ r.who _).tile t]
  rfl

theorem State.only_bankFail {r : BankReq} (h : ∀ n, r.who ≠ .hf n) (s : State) (t : Nat) (b : BankId) :
    s.Only (s.bankFail t b r) [.regs, .tiles, .ras, .mod] :=
  (((s.only_bump _).mono (by decide)).trans ((State.only_decodeError h _ _).mono (by decide))).trans ((State.only_onTile _ _ _).mono (by decide))

theorem State.reads_foldl_bankFail (reqs : List BankReq) (s : State) (t : Nat) (b : BankId) :
    ((reqs.foldl (fun s r => s.bankFail t b r) s).tile t).reads = (s.tile t).reads ++ reqs.map (fun r => ⟨r.tag, 0, false, true⟩) := by
  induction reqs generalizing s with
  | nil => simp
  | cons r l ih => simp [ih, State.reads_bankFail]

theorem State.only_foldl_bankFail (h : ∀ r ∈ reqs, ∀ n, r.who ≠ .hf n) (s : State) (t : Nat) (b : BankId) :
    s.Only (reqs.foldl (fun s r => s.bankFail t b r) s) [.regs, .tiles, .ras, .mod] := by
  induction reqs generalizing s with
  | nil => exact .refl s _
  | cons r l ih => exact (State.only_bankFail (h r (by simp)) s t b).trans (ih (fun r hr => h r (by simp [hr])) _)

/-! ### An access that the MPU blocks -/

theorem grants_nil (n : Nat) : grants n [] = ([], []) := by cases n <;> rfl

theorem State.bankPeriod_nil (s : State) (t : Nat) (b : BankId) : s.bankPeriod t b [] = s.setBank t b { s.bank t b with waiting := [] } := by
  simp [State.bankPeriod, grants_nil, writeOrder]

/-- When no request is left, at most the bank's own record is written. -/
theorem State.bankReached_nil (u : Upset) (h : (s.bank t b).waiting = []) : s.bankReached t b [] u = s ∨ ∃ x, s.bankReached t b [] u = s.setBank t b x := by
  have h0 : (s.bank t b).waiting ++ List.map (fun r => ({ req := r } : WaitingReq)) [] = [] := by simp [h]
  unfold State.bankReached
  rw [h0]
  split
  · exact .inl rfl
  split
  · exact .inr ⟨_, rfl⟩
  split
  · exact .inr ⟨_, rfl⟩
  · exact .inr ⟨_, State.bankPeriod_nil s t b⟩

theorem State.bankBlocked_of_idle {r : BankReq} {c : Nat} (hw : r.who = .hf c) (hc : s.coreComps c = []) : s.bankBlocked t r =
    (s.irq (428 + c)).onTile t (fun x => { x with reads := if r.write then x.reads else x.reads ++ [⟨r.tag, 0, false, false⟩] }) := by
  simp only [State.bankBlocked, hw, State.busFault_of_idle hc]

end

end Sys2Proof.Machine
end

section
/-! SUPPORT. The grants of a step period (R32, R213): each slot goes to a request while one waits. -/
namespace Sys2Proof.Machine

/-! ### The request that takes the next slot -/

/-- The highest priority among the requests that wait; 8 when none does. -/
def bestClass (l : List WaitingReq) : Nat := l.foldl (fun m w => min m w.req.cls.val) 8

/-- The requester that has been passed over most, by class. -/
def worstClass (l : List WaitingReq) : Nat := ((classWaits l).foldl (fun a b => if b.2 > a.2 then b else a) (bestClass l, 0)).1

/-- The class that takes the next slot. -/
def nextClass (l : List WaitingReq) : Nat :=
  if bestClass l = 0 then 0 else if starved ((classWaits l).map Prod.snd) then worstClass l else bestClass l

theorem pickNext_eq (l : List WaitingReq) : pickNext l = l.findIdx? (fun w => w.req.cls.val == nextClass l) := rfl

/-- Is some request of the class waiting? -/
def HasClass (l : List WaitingReq) (c : Nat) : Prop := ∃ w ∈ l, w.req.cls.val = c

theorem bestClass_mem {l : List WaitingReq} (h : l ≠ []) : HasClass l (bestClass l) := by
  have least (l : List WaitingReq) (m : Nat) : l.foldl (fun m w => min m w.req.cls.val) m ≤ m ∧
      (l.foldl (fun m w => min m w.req.cls.val) m = m ∨ HasClass l (l.foldl (fun m w => min m w.req.cls.val) m)) := by
    induction l generalizing m with
    | nil => exact ⟨le_refl m, .inl rfl⟩
    | cons w l ih =>
      obtain ⟨hle, hm⟩ := ih (min m w.req.cls.val)
      refine ⟨hle.trans (min_le_left _ _), ?_⟩
      rcases hm with e | ⟨v, hv, e⟩
      · rcases min_choice m w.req.cls.val with c | c
        · exact .inl (e.trans c)
        · exact .inr ⟨w, by simp, (e.trans c).symm⟩
      · exact .inr ⟨v, by simp [hv], e⟩
  cases l with
  | nil => exact absurd rfl h
  | cons w l =>
    have below : min 8 w.req.cls.val < 8 := lt_of_le_of_lt (min_le_right _ _) w.req.cls.isLt
    obtain ⟨hle, hm⟩ := least l (min 8 w.req.cls.val)
    rcases hm with e | ⟨v, hv, e⟩
    · exact ⟨w, by simp, (e.trans (min_eq_right (le_of_lt w.req.cls.isLt))).symm⟩
    · exact ⟨v, by simp [hv], e⟩

theorem classWaits_mem {l : List WaitingReq} {p : Nat × Nat} (h : p ∈ classWaits l) : HasClass l p.1 := by
  obtain ⟨c, -, hc⟩ := List.mem_filterMap.1 h
  obtain ⟨w, hw, rfl⟩ := Option.map_eq_some_iff.1 hc
  exact ⟨w, List.mem_of_find?_eq_some hw, by simpa using List.find?_some hw⟩

theorem worstClass_mem {l : List WaitingReq} (h : l ≠ []) : HasClass l (worstClass l) := by
  have kept (ws : List (Nat × Nat)) (a : Nat × Nat) (ha : HasClass l a.1) (hw : ∀ p ∈ ws, HasClass l p.1) :
      HasClass l (ws.foldl (fun a b => if b.2 > a.2 then b else a) a).1 := by
    induction ws generalizing a with
    | nil => exact ha
    | cons p ws ih =>
      refine ih _ ?_ fun q hq => hw q (by simp [hq])
      dsimp only
      split
      · exact hw p (by simp)
      · exact ha
  exact kept _ _ (bestClass_mem h) fun _ hp => classWaits_mem hp

theorem nextClass_mem {l : List WaitingReq} (h : l ≠ []) : HasClass l (nextClass l) := by
  unfold nextClass
  split
  · next e => exact e ▸ bestClass_mem h
  split
  · exact worstClass_mem h
  · exact bestClass_mem h

/-- While a request waits, one is picked. -/
theorem pickNext_some {l : List WaitingReq} (h : l ≠ []) : ∃ i, pickNext l = some i ∧ i < l.length := by
  obtain ⟨w, hw, hc⟩ := nextClass_mem h
  have found : (l.findIdx? (fun w => w.req.cls.val == nextClass l)).isSome := by
    rw [List.findIdx?_isSome, List.any_eq_true]
    exact ⟨w, hw, by simpa using hc⟩
  obtain ⟨i, hi⟩ := Option.isSome_iff_exists.1 found
  obtain ⟨hlt, -⟩ := List.findIdx?_eq_some_iff_getElem.1 hi
  exact ⟨i, hi, hlt⟩

/-! ### Grants -/

/-- What a grant to a request of class c does to one that waits on (R32). -/
def WaitingReq.passedBy (c : ReqClass) (w : WaitingReq) : WaitingReq :=
  if w.req.cls = 0 ∨ c = 0 then w else { w with passed := if w.req.cls = c then 0 else w.passed + 1 }

theorem grants_succ {l : List WaitingReq} {i : Nat} {w : WaitingReq} (n : Nat) (hp : pickNext l = some i) (hw : l[i]? = some w) :
    grants (n + 1) l = (w :: (grants n ((l.eraseIdx i).map (WaitingReq.passedBy w.req.cls))).1,
      (grants n ((l.eraseIdx i).map (WaitingReq.passedBy w.req.cls))).2) := by
  simp only [grants, hp, hw]
  rfl

/-- As many requests leave as there are slots. -/
theorem length_grants (n : Nat) (l : List WaitingReq) : (grants n l).2.length = l.length - n := by
  induction n generalizing l with
  | zero => rfl
  | succ n ih =>
    by_cases h : l = []
    · simp [h, grants_nil]
    · obtain ⟨i, hp, hi⟩ := pickNext_some h
      rw [grants_succ n hp (List.getElem?_eq_getElem hi), ih, List.length_map, List.length_eraseIdx_of_lt hi]
      omega

theorem grants_one (n : Nat) (w : WaitingReq) : grants (n + 1) [w] = ([w], []) := by
  obtain ⟨i, hp, hi⟩ := pickNext_some (List.cons_ne_nil w [])
  obtain rfl : i = 0 := by simpa using hi
  rw [grants_succ n hp rfl]
  simp [grants_nil]

/-- Nobody who has just come is starved. -/
theorem starved_fresh {l : List Nat} (h : ∀ p ∈ l, p = 0) (hl : l.length ≤ 7) : starved l = false := by
  rw [starved, List.any_eq_false]
  intro k hk
  have hk : k < l.length := List.mem_range.1 hk
  have none : l.filter (fun p => decide (p + k ≥ 15)) = [] := List.filter_eq_nil_iff.2 fun p hp => by
    rw [h p hp]
    simp only [decide_eq_true_eq]
    omega
  simp [none]

theorem classWaits_fresh {l : List WaitingReq} (h : ∀ w ∈ l, w.passed = 0) : starved ((classWaits l).map Prod.snd) = false := by
  refine starved_fresh (fun p hp => ?_) ?_
  · obtain ⟨⟨c, p⟩, hm, rfl⟩ := List.mem_map.1 hp
    obtain ⟨c, -, hc⟩ := List.mem_filterMap.1 hm
    obtain ⟨w, hw, e⟩ := Option.map_eq_some_iff.1 hc
    rw [← e]
    exact h w (List.mem_of_find?_eq_some hw)
  · rw [List.length_map]
    exact List.length_filterMap_le _ _

theorem WaitingReq.passedBy_req (c : ReqClass) (w : WaitingReq) : (w.passedBy c).req = w.req := by
  unfold WaitingReq.passedBy
  split <;> rfl

theorem WaitingReq.passedBy_counted (c : ReqClass) (w : WaitingReq) : (w.passedBy c).counted = w.counted := by
  unfold WaitingReq.passedBy
  split <;> rfl

/-- Of two fresh requests the one of the higher priority is granted first. -/
theorem grants_two (n : Nat) {q r : BankReq} (h : r.cls.val < q.cls.val) :
    grants (n + 2) [{ req := q }, { req := r }] = ([{ req := r }, WaitingReq.passedBy r.cls { req := q }], []) := by
  have best : bestClass [{ req := q }, { req := r }] = r.cls.val := by
    have := q.cls.isLt
    simp only [bestClass, List.foldl_cons, List.foldl_nil]
    omega
  have fresh : starved ((classWaits [{ req := q }, { req := r }]).map Prod.snd) = false := classWaits_fresh (by simp)
  have next : nextClass [{ req := q }, { req := r }] = r.cls.val := by
    simp only [nextClass, best, fresh]
    split <;> simp_all
  have hp : pickNext [{ req := q }, { req := r }] = some 1 := by
    rw [pickNext_eq, next]
    simp [List.findIdx?_cons, h.ne']
  rw [grants_succ (n + 1) hp rfl, List.eraseIdx_cons_succ, List.eraseIdx_cons_zero, List.map_singleton, grants_one]

theorem bankSlots_eq (b : BankId) : ∃ n, bankSlots b = n + 2 := ⟨bankSlots b - 2, by cases b <;> rfl⟩

end Sys2Proof.Machine
end

section
/-! SUPPORT. A step period of a bank (R213 to R216): its parts, and that granted accesses leave the requests that wait on. -/
namespace Sys2Proof.Machine

/-! ### The parts of a period -/

/-- The non-masters that another is granted before, and that have not been counted yet (R214). -/
def lateReqs (b : BankId) (all : List WaitingReq) : List WaitingReq :=
  ((grants (bankSlots b) all).1.drop 1 ++ (grants (bankSlots b) all).2).filter (fun w => w.req.cls != 0 && !w.counted)

/-- Those that another is granted before are deferred, and those that no slot is left for wait on. -/
def State.bankWaits (s : State) (t : Nat) (b : BankId) (all : List WaitingReq) : State :=
  let s := (lateReqs b all).foldl (fun s w => s.deferred t b w.req) s
  s.setBank t b { s.bank t b with waiting := (grants (bankSlots b) all).2.map (fun w => { w with counted := true }) }

/-- The granted accesses count. -/
def State.bankCounts (s : State) (t : Nat) (b : BankId) (gs : List WaitingReq) : State :=
  gs.foldl (fun s w => s.effBankCount t (reqSlot w.req) b (w.req.cls == 0) 1) s

/-- The granted reads are answered from the content before the period. -/
def State.bankReads (s : State) (t : Nat) (b : BankId) (gs : List WaitingReq) : State :=
  ((gs.filter (fun w => !w.req.write)).map (fun w =>
    (w.req, (List.range w.req.len).map (fun i => s.spdByte t b (w.req.off + i) (reqSlot w.req))))).foldl (fun s p => s.bankReadDone t b p.1 p.2) s

/-- The granted writes take effect in their order. -/
def State.bankWrites (s : State) (t : Nat) (b : BankId) (gs : List WaitingReq) : State :=
  (writeOrder gs).foldl (fun s r => s.bankStore t b r) s

theorem State.bankPeriod_eq (s : State) (t : Nat) (b : BankId) (all : List WaitingReq) : s.bankPeriod t b all =
    (((s.bankWaits t b all).bankCounts t b (grants (bankSlots b) all).1).bankReads t b (grants (bankSlots b) all).1).bankWrites t b
      (grants (bankSlots b) all).1 := rfl

/-! ### Errors of a word -/

/-- The fields that the first error of a tile's scratchpad is recorded in (R220). -/
def recordFields : List Field :=
  .spdErrInfoUe :: .spdErrInfoBank :: .spdErrInfoSource :: .spdErrInfoWord :: .spdErrSyndSyndrome :: .spdErrInfoValid :: eventNames

/-- The fields that an error of a word of a scratchpad may change. -/
def spdErrFields : List Field := .spdUe :: .spdCe :: .rasResetSuppress :: recordFields

theorem State.frame_spdRecord (s : State) (t : Nat) (b : BankId) (ue : Bool) (source word : Nat) :
    s.Frame (s.spdRecord t b ue source word) [.regs, .ic, .adit] recordFields := by
  have start := State.Frame.refl s [.regs, .ic, .adit] recordFields
  exact .ite start (((((((start.wr t 0 _).wr t 0 _).wr t 0 _).wr t 0 _).wr t 0 _).wr t 0 1).after (State.frame_irq _ t))

/-- An error of a word counts and is recorded. -/
def State.spdNoted (s : State) (t : Nat) (b : BankId) (ue : Bool) (source word : Nat) : State :=
  (s.cnt (if ue then .spdUe else .spdCe) t (bankIdx b) 1).spdRecord t b ue source word

theorem State.frame_spdNoted (s : State) (t : Nat) (b : BankId) (ue : Bool) (source word : Nat) :
    s.Frame (s.spdNoted t b ue source word) [.regs, .ic, .adit] spdErrFields := by
  have start := State.Frame.refl s [.regs, .ic, .adit] spdErrFields
  have counted : s.Frame (s.cnt (if ue then .spdUe else .spdCe) t (bankIdx b) 1) [.regs, .ic, .adit] spdErrFields := by
    cases ue
    · exact start.cnt t _ 1
    · exact start.cnt t _ 1
  exact counted.after (State.frame_spdRecord _ _ _ _ _ _)

theorem State.applyHeld_ue (s : State) (t : Nat) (b : BankId) (source word : Nat) :
    s.applyHeld t (.spdErr b true source word) = s.spdNoted t b true source word := rfl

theorem State.applyHeld_ce (s : State) (t : Nat) (b : BankId) (source word : Nat) : s.applyHeld t (.spdErr b false source word) =
    ((s.spdNoted t b false source word).reportTile 0 t 1 (spdAddr t b (8 * word))).fixLater t b source word := rfl

/-! ### The requests that wait -/

/-- At every bank the same requests wait. -/
def State.SameWaits (s a : State) : Prop := ∀ t b, (a.bank t b).waiting = (s.bank t b).waiting

namespace State.SameWaits

variable {s a c : State}

theorem refl (s : State) : s.SameWaits s := fun _ _ => rfl

theorem trans (h : s.SameWaits a) (h' : a.SameWaits c) : s.SameWaits c := fun t b => (h' t b).trans (h t b)

theorem of_only {l : List Part} (h : s.Only a l) (hl : Part.tiles ∉ l := by decide) : s.SameWaits a := fun t b => by rw [h.bank hl t b]

theorem of_onTile (s : State) (t : Nat) {g : Tile → Tile} (hg : ∀ x, (g x).banks = x.banks := by exact fun _ => rfl) : s.SameWaits (s.onTile t g) := fun u b => by
  by_cases h : u = t
  · subst h
    simp only [State.bank, State.tile_onTile_same, hg]
  · simp only [State.bank, State.tile_onTile_ne s h]

theorem of_setBank {t : Nat} {b : BankId} {x : Bank} (hx : x.waiting = (s.bank t b).waiting) : s.SameWaits (s.setBank t b x) := fun u d => by
  by_cases h : u = t
  · subst h
    by_cases e : d = b
    · subst e
      rwa [State.bank_setBank_same]
    · rw [State.bank_setBank_ne s u e]
  · simp only [State.bank, State.setBank, State.tile_onTile_ne s h]

theorem foldl {α : Type} {g : State → α → State} (h : s.SameWaits a) (hg : ∀ (x : State) e, x.SameWaits (g x e)) (l : List α) : s.SameWaits (l.foldl g a) := by
  induction l generalizing a with
  | nil => exact h
  | cons e l ih => exact ih (h.trans (hg a e))

theorem ite {p : Prop} [Decidable p] (ha : s.SameWaits a) (hc : s.SameWaits c) : s.SameWaits (if p then a else c) := by
  split
  · exact ha
  · exact hc

end State.SameWaits

section
variable (s : State) (t : Nat) (b : BankId)

theorem State.sameWaits_setSlot (i : Nat) (x : Slot) : s.SameWaits (s.setSlot t i x) := .of_onTile s t

theorem State.sameWaits_effCnt (slot : Option Nat) (f : Field) {sub : Nat} (n : Nat) (hs : sub < 4096) : s.SameWaits (s.effCnt t slot f sub n) := by
  cases slot with
  | none => exact s.effCnt_now t f n hs ▸ .ite (.refl s) (.of_only (s.only_cnt f t sub n))
  | some i => exact .ite (.refl s) (s.sameWaits_setSlot t i _)

theorem State.sameWaits_effBankCount (slot : Option Nat) (m : Bool) (n : Nat) : s.SameWaits (s.effBankCount t slot b m n) :=
  .ite (.refl s) ((s.sameWaits_effCnt t slot _ n (bankIdx_lt b)).trans (.of_only (State.only_activity _ t 6 n)))

theorem State.sameWaits_fixLater (source word : Nat) : s.SameWaits (s.fixLater t b source word) := .ite (.refl s) (.of_setBank rfl)

theorem State.sameWaits_spdErr (ue : Bool) (source word : Nat) : s.SameWaits (s.applyHeld t (.spdErr b ue source word)) := by
  have noted := State.SameWaits.of_only (s.frame_spdNoted t b ue source word).only
  cases ue with
  | true => exact noted
  | false => exact (noted.trans (.of_only (State.frame_reportTile _ _ _ _ _).only)).trans (State.sameWaits_fixLater _ t b source word)

theorem State.sameWaits_spdWordRead (source word : Nat) (slot : Option Nat) : s.SameWaits (s.spdWordRead t b source word slot).1 := by
  have held (ue : Bool) : s.SameWaits (s.eff t slot (.spdErr b ue source word)) := by
    cases slot with
    | none => exact s.sameWaits_spdErr t b ue source word
    | some i => exact s.sameWaits_setSlot t i _
  unfold State.spdWordRead
  split
  · exact .refl s
  · exact held false
  · exact (held true).trans (.of_only (State.frame_reportTile _ _ _ _ _).only)

theorem State.sameWaits_spdWordsRead (source off n : Nat) (slot : Option Nat) : s.SameWaits (s.spdWordsRead t b source off n slot).1 := by
  have kept (l : List (Nat × Nat)) (acc : State × Bool) (h : s.SameWaits acc.1) : s.SameWaits (l.foldl (fun acc p =>
      if acc.1.shadowed t b p.1 p.2 slot then acc
      else ((acc.1.spdWordRead t b source (p.1 / 8) slot).1, acc.2 || (acc.1.spdWordRead t b source (p.1 / 8) slot).2)) acc).1 := by
    induction l generalizing acc with
    | nil => exact h
    | cons p l ih =>
      refine ih _ ?_
      dsimp only
      split
      · exact h
      · exact h.trans (State.sameWaits_spdWordRead _ t b source _ slot)
  exact kept _ _ (.refl s)

theorem State.sameWaits_poisonAnswer (who : Requester) : s.SameWaits (s.poisonAnswer who) := by
  cases who with
  | hf n => exact .of_only (s.frame_busFault n).only
  | dbg => exact .of_only (s.only_mod _)
  | _ => exact .refl s

theorem State.sameWaits_bankReadDone (r : BankReq) (data : List Byte) : s.SameWaits (s.bankReadDone t b r data) := by
  have answered := (s.sameWaits_spdWordsRead t b (b2n (r.cls != 0)) r.off r.len (reqSlot r)).trans (.of_onTile _ t
    (g := fun x => { x with reads := x.reads ++ [⟨r.tag, leNat data, (s.spdWordsRead t b (b2n (r.cls != 0)) r.off r.len (reqSlot r)).2, false⟩] }))
  exact .ite (answered.trans (State.sameWaits_poisonAnswer _ r.who)) answered

theorem State.sameWaits_shadowPut (i off : Nat) (bs : List (Option Byte)) : s.SameWaits (s.shadowPut t i off bs) := .of_onTile s t

theorem State.sameWaits_spdPoisonWord (word : Nat) : s.SameWaits (s.spdPoisonWord t b word) :=
  .of_only (l := [.mem, .ecc, .regs]) ((((s.only_setBytes _ _).mono (by decide)).setMark (by decide) _ _).trans ((State.only_cnt _ _ _ _ _).mono (by decide)))

/-- A refused merge keeps the word poisoned (R216). -/
theorem State.sameWaits_refused (k : Nat) (source word : Nat) (l : List Byte) :
    s.SameWaits (((s.applyHeld t (.spdErr b true source word)).reportTile 1 t 2 k).setBytes k l) :=
  ((s.sameWaits_spdErr t b true source word).trans (.of_only (State.frame_reportTile _ _ _ _ _).only)).trans (.of_only (State.only_setBytes _ _ _))

theorem State.sameWaits_spdPoisonPart (word n : Nat) : s.SameWaits (s.spdPoisonPart t b word n) :=
  .ite (s.sameWaits_refused t b _ 3 word _) (s.sameWaits_spdPoisonWord t b word)

theorem State.only_setByte (k : Nat) (v : Byte) : s.Only (s.setByte k v) [.mem] := s.only_setBytes k [v]

theorem State.sameWaits_setMark (k v : Nat) : s.SameWaits (s.setMark k v) := .of_only (l := [.ecc]) (State.Only.setMark (.refl s _) (by decide) k v)

theorem State.sameWaits_spdWordMerge (word : Nat) (l : List (Nat × Byte)) : s.SameWaits (s.spdWordMerge t b word l) := by
  have store (x : State) (k : Nat) : x.SameWaits (l.foldl (fun s p => s.setByte (k + p.1) p.2) x) :=
    .foldl (.refl x) (fun y _ => .of_only (y.only_setByte _ _)) l
  refine .ite ?_ (.ite ?_ (.ite ?_ (store s _)))
  · exact (store s _).trans (State.sameWaits_setMark _ _ _)
  · exact s.sameWaits_refused t b _ 3 word _
  · exact ((s.sameWaits_spdErr t b false 3 word).trans (State.sameWaits_setMark _ _ _)).trans (store _ _)

theorem State.sameWaits_spdWrite (off : Nat) (bs : List Byte) (poison : Bool) : s.SameWaits (s.spdWrite t b off bs poison) := by
  refine .foldl (.refl s) (fun x p => ?_) _
  dsimp only
  split
  · exact .ite ((x.sameWaits_shadowPut t _ _ _).trans (State.sameWaits_spdPoisonWord _ t b _)) (x.sameWaits_shadowPut t _ _ _)
  · exact .ite (x.sameWaits_spdPoisonPart t b _ _) (x.sameWaits_spdWordMerge t b _ _)

theorem State.sameWaits_bankStore (r : BankReq) : s.SameWaits (s.bankStore t b r) := by
  unfold State.bankStore
  split
  · exact s.sameWaits_spdWrite t b _ _ _
  · exact .ite (s.sameWaits_shadowPut t _ _ _) (.refl s)

/-- What a period grants leaves the others waiting. -/
theorem State.sameWaits_period (all : List WaitingReq) : (s.bankWaits t b all).SameWaits (s.bankPeriod t b all) := by
  rw [State.bankPeriod_eq]
  refine .foldl (.foldl (.foldl (.refl _) ?_ _) ?_ _) ?_ _
  · exact fun x w => x.sameWaits_effBankCount t b _ _ _
  · exact fun x p => x.sameWaits_bankReadDone t b _ _
  · exact fun x r => x.sameWaits_bankStore t b r

/-- A period serves at most the bank's slots (R212). -/
theorem State.length_waiting_period (all : List WaitingReq) : ((s.bankPeriod t b all).bank t b).waiting.length = all.length - bankSlots b := by
  rw [s.sameWaits_period t b all t b]
  simp only [State.bankWaits, State.bank_setBank_same, List.length_map, length_grants]

end

end Sys2Proof.Machine
end

section
/-! SUPPORT. A write of a span of a bank without errors stores exactly its bytes (R215, R216). -/
namespace Sys2Proof.Machine

/-! ### One word -/

/-- Bytes stored each at its place are a run of bytes. -/
theorem State.foldl_setByte (s : State) (k o : Nat) (l : List Byte) :
    (((List.range l.length).map (· + o)).zip l).foldl (fun s p => s.setByte (k + p.1) p.2) s = s.setBytes (k + o) l := by
  have places (n : Nat) : (List.range n).map (· + o) = List.range' o n := by
    rw [List.range'_eq_map_range]
    exact List.map_congr_left fun i _ => Nat.add_comm i o
  rw [places]
  clear places
  induction l generalizing s o with
  | nil => rfl
  | cons v l ih =>
    rw [List.length_cons, List.range'_succ, List.zip_cons_cons, List.foldl_cons, ih]
    rfl

/-- From s to a only memory and marks may have been touched, no mark has changed, and the bytes are as c holds them. -/
structure State.StoredAs (s c a : State) : Prop where
  only : s.Only a [.mem, .ecc]
  mark : ∀ k, a.mark k = s.mark k
  byte : ∀ k, a.byte k = c.byte k

section
variable {s a c : State} {t : Nat} {b : BankId}

theorem State.StoredAs.clean (h : s.StoredAs c a) (hc : s.Clean t b) : a.Clean t b :=
  hc.of_same (fun _ => h.mark _) fun i => congrArg Slot.mode (by simp only [State.slot, h.only.tile (by decide)])

theorem State.mark_setBytes (s : State) (k : Nat) (l : List Byte) (j : Nat) : (s.setBytes k l).mark j = s.mark j := (s.only_setBytes k l).mark (by decide) j

/-- A merge into a good word stores the bytes. -/
theorem State.Clean.wordMerge (h : s.Clean t b) (off : Nat) (l : List Byte) :
    s.StoredAs (s.setBytes (spdAddr t b off) l) (s.spdWordMerge t b (off / 8) (((List.range l.length).map (· + off % 8)).zip l)) := by
  have here : spdAddr t b (8 * (off / 8)) + off % 8 = spdAddr t b off := by rw [← spdAddr_add, Nat.div_add_mod]
  have stored := s.only_setBytes (spdAddr t b off) l
  simp only [State.spdWordMerge, State.foldl_setByte, here, h.marks, zero_ne_one, OfNat.zero_ne_ofNat, if_false]
  split
  · refine ⟨(stored.mono (by decide)).setMark (by decide) _ _, fun k => ?_, fun _ => rfl⟩
    by_cases e : k = spdAddr t b (8 * (off / 8))
    · rw [e, State.mark_setMark_same, h.marks]
    · rw [State.mark_setMark_ne _ e, State.mark_setBytes]
  · exact ⟨stored.mono (by decide), State.mark_setBytes _ _ _, fun _ => rfl⟩

/-! ### A span -/

/-- First byte of the i-th word's part of a span. -/
def partLo (off i : Nat) : Nat := max off (8 * (off / 8 + i))

/-- End of the i-th word's part of a span. -/
def partHi (off n i : Nat) : Nat := min (off + n) (8 * (off / 8 + i + 1))

theorem wordParts_eq {off n : Nat} (h : n ≠ 0) : wordParts off n =
    (List.range ((off + n - 1) / 8 + 1 - off / 8)).map (fun i => (partLo off i, partHi off n i - partLo off i)) := if_neg h

/-- A write of the i-th word's part of a span. -/
def State.writePart (s : State) (t : Nat) (b : BankId) (off : Nat) (bs : List Byte) (i : Nat) : State :=
  s.spdWordMerge t b (partLo off i / 8) (((List.range (partHi off bs.length i - partLo off i)).map (· + partLo off i % 8)).zip
    ((bs.drop (partLo off i - off)).take (partHi off bs.length i - partLo off i)))

theorem State.Clean.writePart (h : s.Clean t b) (off : Nat) (bs : List Byte) (i : Nat) :
    s.StoredAs (s.setBytes (spdAddr t b (partLo off i)) ((bs.drop (partLo off i - off)).take (partHi off bs.length i - partLo off i)))
      (s.writePart t b off bs i) := by
  have size : ((bs.drop (partLo off i - off)).take (partHi off bs.length i - partLo off i)).length = partHi off bs.length i - partLo off i := by
    simp only [List.length_take, List.length_drop, partLo, partHi]
    omega
  have merged := h.wordMerge (partLo off i) ((bs.drop (partLo off i - off)).take (partHi off bs.length i - partLo off i))
  rwa [size] at merged

/-- The i-th byte of a span, when its first m words' parts are written and the next one is written too. -/
theorem byte_parts {off : Nat} {bs : List Byte} {k : Nat} (m i : Nat)
    (h : ∀ j, a.byte j = (s.setBytes k (bs.take (8 * (off / 8 + m) - off))).byte j) :
    (a.setBytes (k + (partLo off m - off)) ((bs.drop (partLo off m - off)).take (partHi off bs.length m - partLo off m))).byte (k + i) =
      (s.setBytes k (bs.take (8 * (off / 8 + (m + 1)) - off))).byte (k + i) := by
  simp only [State.byte_setBytes, h, List.getElem?_take, List.getElem?_drop, Nat.add_le_add_iff_left, Nat.add_sub_cancel_left, Nat.le_add_right, if_true,
    Nat.add_sub_add_left]
  by_cases inside : i < bs.length
  · by_cases reached : partLo off m - off ≤ i
    · rw [if_pos reached, Nat.add_sub_cancel' reached]
      unfold partLo partHi at *
      grind
    · rw [if_neg reached]
      unfold partLo at *
      grind
  · have none : bs[i]? = none := List.getElem?_eq_none (Nat.le_of_not_lt inside)
    split_ifs with h1 h2 <;> simp_all

/-- The first m words' parts of a span are written. -/
theorem State.Clean.writeParts (h : s.Clean t b) (off : Nat) (bs : List Byte) (m : Nat) :
    s.StoredAs (s.setBytes (spdAddr t b off) (bs.take (8 * (off / 8 + m) - off))) ((List.range m).foldl (fun s i => s.writePart t b off bs i) s) := by
  induction m with
  | zero =>
    have none : bs.take (8 * (off / 8 + 0) - off) = [] := by
      rw [show 8 * (off / 8 + 0) - off = 0 by omega, List.take_zero]
    exact ⟨.refl s _, fun _ => rfl, fun k => by rw [none]; rfl⟩
  | succ m ih =>
    rw [List.range_succ, List.foldl_append, List.foldl_cons, List.foldl_nil]
    have part := (ih.clean h).writePart off bs m
    refine ⟨ih.only.trans part.only, fun k => (part.mark k).trans (ih.mark k), fun k => ?_⟩
    rw [part.byte]
    by_cases before : k < spdAddr t b off
    · have : k < spdAddr t b (partLo off m) := before.trans_le (Nat.add_le_add_left (le_max_left _ _) _)
      simp only [State.byte_setBytes, ih.byte, if_neg before.not_ge, if_neg this.not_ge]
    obtain ⟨i, rfl⟩ := Nat.exists_eq_add_of_le (Nat.le_of_not_lt before)
    have later : spdAddr t b (partLo off m) = spdAddr t b off + (partLo off m - off) := by
      rw [← spdAddr_add, Nat.add_sub_cancel' (show off ≤ partLo off m from le_max_left _ _)]
    rw [later]
    exact byte_parts m i ih.byte

/-- A write of a span of good words stores its bytes. -/
theorem State.Clean.spdWrite (h : s.Clean t b) (off : Nat) {bs : List Byte} (hn : bs ≠ []) :
    s.StoredAs (s.setBytes (spdAddr t b off) bs) (s.spdWrite t b off bs) := by
  have size : bs.length ≠ 0 := fun e => hn (List.eq_nil_of_length_eq_zero e)
  have parts (m : Nat) : ((List.range m).map (fun i => (partLo off i, partHi off bs.length i - partLo off i))).foldl (fun s p =>
        match if b = .sb then (s.tile t).shadowLine p.1 else none with
        | some i => s.shadowPut t i p.1 (((bs.drop (p.1 - off)).take p.2).map some)
        | none => s.spdWordMerge t b (p.1 / 8) (((List.range p.2).map (· + p.1 % 8)).zip ((bs.drop (p.1 - off)).take p.2))) s =
      (List.range m).foldl (fun s i => s.writePart t b off bs i) s := by
    induction m with
    | zero => rfl
    | succ m ih =>
      simp only [List.range_succ, List.map_append, List.foldl_append, ih, List.map_singleton, List.foldl_cons, List.foldl_nil,
        ((h.writeParts off bs m).clean h).shadowLine, ite_self]
      rfl
  have whole := h.writeParts off bs ((off + bs.length - 1) / 8 + 1 - off / 8)
  rw [List.take_of_length_le (by omega), ← parts, ← wordParts_eq size] at whole
  exact whole

end

end Sys2Proof.Machine
end

section
/-! SUPPORT. A lone untagged request of an open bank (R212 to R215): what it counts, reads and writes. -/
namespace Sys2Proof.Machine

/-- The counter of granted accesses of a requester's class (R214). -/
def accField (r : BankReq) : Field := if r.cls = 0 then .spdAccMaster else .spdAccOther

/-- Nobody waits at a bank any more. -/
def State.bankIdle (s : State) (t : Nat) (b : BankId) : State := s.setBank t b { s.bank t b with waiting := [] }

/-- A granted access of untagged work counts (R214). -/
def State.bankCounted (s : State) (t : Nat) (b : BankId) (r : BankReq) : State := (s.cnt (accField r) t (bankIdx b) 1).activity t 6 1

/-- A lone untagged request has been granted and counted. -/
def State.bankLone (s : State) (t : Nat) (b : BankId) (r : BankReq) : State := (s.bankIdle t b).bankCounted t b r

section
variable {s : State} {t : Nat} {b : BankId} {r : BankReq}

theorem State.effBankCount_untagged (s : State) (t : Nat) (b : BankId) (r : BankReq) :
    s.effBankCount t none b (r.cls == 0) 1 = s.bankCounted t b r := by
  simp only [State.effBankCount, one_ne_zero, if_false, State.effCnt_one _ _ _ (bankIdx_lt b), State.bankCounted, accField, beq_iff_eq]

theorem State.bankWaits_one (s : State) (t : Nat) (b : BankId) (w : WaitingReq) : s.bankWaits t b [w] = s.bankIdle t b := by
  obtain ⟨n, hn⟩ := bankSlots_eq b
  simp [State.bankWaits, lateReqs, hn, grants_one, State.bankIdle]

theorem State.bankCounts_one (s : State) (t : Nat) (b : BankId) (hr : r.slot = none) : s.bankCounts t b [{ req := r }] = s.bankCounted t b r := by
  rw [← State.effBankCount_untagged]
  simp [State.bankCounts, reqSlot, hr]

theorem writeOrder_one (hw : r.write = true) : writeOrder [{ req := r }] = [r] := by simp [writeOrder, hw, List.eraseDups_cons]

theorem writeOrder_read (hw : r.write = false) : writeOrder [{ req := r }] = [] := by simp [writeOrder, hw]

/-- A lone read is answered. -/
theorem State.bankPeriod_read (s : State) (t : Nat) (b : BankId) (hr : r.slot = none) (hw : r.write = false) : s.bankPeriod t b [{ req := r }] =
    (s.bankLone t b r).bankReadDone t b r ((List.range r.len).map (fun i => (s.bankLone t b r).spdByte t b (r.off + i))) := by
  obtain ⟨n, hn⟩ := bankSlots_eq b
  rw [State.bankPeriod_eq, hn, grants_one, State.bankWaits_one, State.bankCounts_one _ _ _ hr, State.bankWrites, writeOrder_read hw]
  simp [State.bankReads, hw, reqSlot, hr, State.bankLone]

/-- A lone write takes effect. -/
theorem State.bankPeriod_write (s : State) (t : Nat) (b : BankId) (hr : r.slot = none) (hw : r.write = true) :
    s.bankPeriod t b [{ req := r }] = (s.bankLone t b r).spdWrite t b r.off r.data r.poison := by
  obtain ⟨n, hn⟩ := bankSlots_eq b
  rw [State.bankPeriod_eq, hn, grants_one, State.bankWaits_one, State.bankCounts_one _ _ _ hr, State.bankWrites, writeOrder_one hw]
  simp [State.bankReads, hw, State.bankStore, reqSlot, hr, State.bankLone]

/-! ### What stays -/

theorem State.only_bankCounted (s : State) (t : Nat) (b : BankId) (r : BankReq) : s.Only (s.bankCounted t b r) [.regs, .act] :=
  ((s.only_cnt _ _ _ _).mono (by decide)).trans ((State.only_activity _ _ _ _).mono (by decide))

theorem State.only_bankIdle (s : State) (t : Nat) (b : BankId) : s.Only (s.bankIdle t b) [.tiles] := s.only_setBank t b _

theorem State.only_bankLone (s : State) (t : Nat) (b : BankId) (r : BankReq) : s.Only (s.bankLone t b r) [.regs, .tiles, .act] :=
  ((s.only_bankIdle t b).mono (by decide)).trans ((State.only_bankCounted _ _ _ _).mono (by decide))

theorem State.fieldsBut_bankLone (s : State) (t : TileId) (b : BankId) (r : BankReq) :
    s.FieldsBut (s.bankLone t b r) [(accField r, t, bankIdx b)] := by
  have idle : s.FieldsBut (s.bankIdle t b) [(accField r, t, bankIdx b)] := .congr (.refl s _) rfl rfl
  have listed : (accField r, t.val % 65536, bankIdx b % 4096) ∈ [(accField r, t.val, bankIdx b)] := by
    rw [tile_mod, Nat.mod_eq_of_lt (bankIdx_lt b)]
    exact List.mem_singleton_self _
  have kept := State.only_activity ((s.bankIdle t b).cnt (accField r) t (bankIdx b) 1) t 6 1
  exact (idle.cnt listed 1).congr (kept .regs (by decide)) (kept .variant (by decide))

theorem State.tile_bankLone (s : State) (t u : Nat) (b : BankId) (r : BankReq) : (s.bankLone t b r).tile u = (s.bankIdle t b).tile u :=
  (State.only_bankCounted _ t b r).tile (by decide) u

theorem State.tilesBut_bankLone (s : State) (t : Nat) (b : BankId) (r : BankReq) : s.TilesBut (s.bankLone t b r) t :=
  (s.tilesBut_onTile t _).trans ((State.only_bankCounted _ t b r).tilesBut (by decide) t)

theorem State.bank_bankLone (h : (s.bank t b).waiting = []) (c : BankId) : (s.bankLone t b r).bank t c = s.bank t c := by
  have kept : (s.bankLone t b r).bank t c = (s.bankIdle t b).bank t c := by simp only [State.bank, State.tile_bankLone]
  rw [kept]
  by_cases e : c = b
  · rw [e, State.bankIdle, State.bank_setBank_same, ← h]
  · exact s.bank_setBank_ne t e _

theorem State.byte_bankLone (k : Nat) : (s.bankLone t b r).byte k = s.byte k := (s.only_bankLone t b r).byte (by decide) k

theorem State.mark_bankLone (k : Nat) : (s.bankLone t b r).mark k = s.mark k := (s.only_bankLone t b r).mark (by decide) k

theorem State.slot_bankLone (i : Nat) : (s.bankLone t b r).slot t i = s.slot t i :=
  (show (s.bankLone t b r).slot t i = (s.bankIdle t b).slot t i by simp only [State.slot, State.tile_bankLone]).trans (s.slot_setBank t b _ i)

theorem State.Clean.bankLone (h : s.Clean t b) (r : BankReq) : (s.bankLone t b r).Clean t b :=
  h.of_same (fun _ => State.mark_bankLone _) fun i => by rw [State.slot_bankLone]

/-! ### A read and a write of good words -/

/-- The bytes that a request names, as a reader gets them. -/
def State.bankBytes (s : State) (t : Nat) (b : BankId) (r : BankReq) : Nat := leNat ((List.range r.len).map (fun i => s.byte (spdAddr t b r.off + i)))

/-- An answered read is appended to those that its tile has not taken yet. -/
def State.bankAnswered (s : State) (t : Nat) (r : BankReq) (data : Nat) (poison : Bool) : State :=
  s.onTile t (fun x => { x with reads := x.reads ++ [⟨r.tag, data, poison, false⟩] })

/-- The bytes of a lone read, when no branch commits. -/
theorem State.bankData (h : ∀ i, (s.slot t i).mode ≠ .committing) :
    leNat ((List.range r.len).map (fun i => (s.bankLone t b r).spdByte t b (r.off + i))) = s.bankBytes t b r := by
  have steady : ∀ i, (sget {} i ((s.bankLone t b r).tile t).slots).mode ≠ .committing := fun i => by
    have := h i
    rwa [← State.slot_bankLone (b := b) (r := r)] at this
  refine congrArg leNat (List.map_congr_left fun i _ => ?_)
  simp [State.spdByte, State.shadowByte, steady, State.byte_bankLone, spdAddr_add]

theorem State.Clean.bankPeriod_read (h : s.Clean t b) (hr : r.slot = none) (hw : r.write = false) :
    s.bankPeriod t b [{ req := r }] = (s.bankLone t b r).bankAnswered t r (s.bankBytes t b r) false := by
  rw [State.bankPeriod_read s t b hr hw]
  simp only [State.bankReadDone, (h.bankLone r).wordsRead, State.bankData h.steady]
  rfl

theorem State.Clean.bankPeriod_write (h : s.Clean t b) (hr : r.slot = none) (hw : r.write = true) (hp : r.poison = false) (hd : r.data ≠ []) :
    (s.bankLone t b r).StoredAs ((s.bankLone t b r).setBytes (spdAddr t b r.off) r.data) (s.bankPeriod t b [{ req := r }]) := by
  rw [State.bankPeriod_write s t b hr hw, hp]
  exact (h.bankLone r).spdWrite r.off hd

end

end Sys2Proof.Machine
end

section
/-! SUPPORT. Two writes of one step period to the same bytes (R215): the one of the higher priority takes effect last. -/
namespace Sys2Proof.Machine

section
variable {s : State} {t : Nat} {b : BankId} {q r : BankReq}

theorem bankReqOk_iff (b : BankId) (r : BankReq) : bankReqOk b r = true ↔
    1 ≤ r.len ∧ r.off % 64 + r.len ≤ 64 ∧ r.off + r.len ≤ bankSize b ∧ (r.write = true → r.data.length = r.len) := by
  cases hw : r.write <;> simp [bankReqOk, hw, and_assoc]

/-- A well-formed write brings its bytes. -/
theorem bankReqOk_write (h : bankReqOk b r = true) (hw : r.write = true) : r.data.length = r.len ∧ r.data ≠ [] := by
  obtain ⟨hn, -, -, hd⟩ := (bankReqOk_iff b r).1 h
  refine ⟨hd hw, fun e => ?_⟩
  have := hd hw
  rw [e, List.length_nil] at this
  omega

/-! ### Clean states that keep their memory -/

/-- From s to a only registers, tiles and activity have changed, and the bank stays clean. -/
structure State.Tame (s a : State) (t : Nat) (b : BankId) : Prop where
  only : s.Only a [.regs, .tiles, .act]
  clean : a.Clean t b

namespace State.Tame

variable {a : State}

theorem refl (h : s.Clean t b) : s.Tame s t b := ⟨.refl s _, h⟩

theorem effCnt (h : s.Tame a t b) (slot : Option Nat) (f : Field) {sub : Nat} (n : Nat) (hs : sub < 4096) : s.Tame (a.effCnt t slot f sub n) t b := by
  refine ⟨h.only.trans ?_, h.clean.effCnt slot f n hs⟩
  cases slot with
  | none => exact a.effCnt_now t f n hs ▸ .ite (.refl a _) ((a.only_cnt f t sub n).mono (by decide))
  | some i => exact .ite (.refl a _) ((a.frame_setSlot t i _).only.mono (by decide))

theorem cnt (h : s.Tame a t b) (f : Field) (i j n : Nat) : s.Tame (a.cnt f i j n) t b :=
  ⟨h.only.trans ((a.only_cnt f i j n).mono (by decide)), h.clean.of_same (fun _ => rfl) fun _ => rfl⟩

theorem setBank (h : s.Tame a t b) (c : BankId) (x : Bank) : s.Tame (a.setBank t c x) t b :=
  ⟨h.only.trans ((a.only_setBank t c x).mono (by decide)), h.clean.setBank c x⟩

theorem activity (h : s.Tame a t b) (u c n : Nat) : s.Tame (a.activity u c n) t b :=
  ⟨h.only.trans ((a.only_activity u c n).mono (by decide)), h.clean.activity u c n⟩

theorem deferred (h : s.Tame a t b) (q : BankReq) : s.Tame (a.deferred t b q) t b := by
  have counted := h.effCnt (reqSlot q) .spdDefer 1 (bankIdx_lt b)
  unfold State.deferred
  dsimp only
  split
  · exact counted.effCnt _ _ 1 (by decide)
  · exact counted.effCnt _ _ 1 (by decide)
  · exact counted.cnt _ _ _ _
  · split
    · exact counted.cnt _ _ _ _
    · exact counted

theorem effBankCount (h : s.Tame a t b) (slot : Option Nat) (m : Bool) (n : Nat) : s.Tame (a.effBankCount t slot b m n) t b := by
  unfold State.effBankCount
  split
  · exact h
  · exact (h.effCnt slot _ n (bankIdx_lt b)).activity _ _ _

theorem foldl {α : Type} {g : State → α → State} (h : s.Tame a t b) (hg : ∀ x e, s.Tame x t b → s.Tame (g x e) t b) (l : List α) :
    s.Tame (l.foldl g a) t b := by
  induction l generalizing a with
  | nil => exact h
  | cons e l ih => exact ih (hg a e h)

theorem bankWaits (h : s.Tame a t b) (all : List WaitingReq) : s.Tame (a.bankWaits t b all) t b :=
  (h.foldl (fun _ w hx => hx.deferred w.req) _).setBank b _

theorem bankCounts (h : s.Tame a t b) (gs : List WaitingReq) : s.Tame (a.bankCounts t b gs) t b :=
  h.foldl (fun _ _ hx => hx.effBankCount _ _ 1) _

end State.Tame

/-! ### Two writes -/

theorem writeOrder_two {q' : WaitingReq} (hq : q'.req.write = true) (hr : r.write = true) (h : r.cls.val < q'.req.cls.val) :
    writeOrder [{ req := r }, q'] = [q'.req, r] := by
  have hne : r.cls ≠ q'.req.cls := fun e => by rw [e] at h; exact lt_irrefl _ h
  simp [writeOrder, hq, hr, List.eraseDups_cons, hne, hne.symm]

theorem State.BytesBut.trans {a c : State} {k n : Nat} (h : s.BytesBut a k n) (h' : a.BytesBut c k n) : s.BytesBut c k n :=
  fun j hj => (h' j hj).trans (h j hj)

theorem State.bytesBut_setBytes (s : State) (k : Nat) (l : List Byte) : s.BytesBut (s.setBytes k l) k l.length := fun j hj => by
  rw [State.byte_setBytes]
  split
  · rw [List.getElem?_eq_none (by omega), Option.getD_none]
  · rfl

theorem State.StoredAs.bytesBut {a : State} {k : Nat} {l : List Byte} (h : s.StoredAs (s.setBytes k l) a) : s.BytesBut a k l.length :=
  fun j hj => (h.byte j).trans (s.bytesBut_setBytes k l j hj)

theorem State.StoredAs.byte_inside {a : State} {k : Nat} {l : List Byte} (h : s.StoredAs (s.setBytes k l) a) {i : Nat} (hi : i < l.length) :
    a.byte (k + i) = l.getD i 0#8 := by
  rw [h.byte, State.byte_setBytes, if_pos (Nat.le_add_right k i), Nat.add_sub_cancel_left, List.getElem?_eq_getElem hi, List.getD_eq_getElem?_getD,
    List.getElem?_eq_getElem hi]
  rfl

theorem State.Clean.shadowPut (h : s.Clean t b) (i off : Nat) (bs : List (Option Byte)) : (s.shadowPut t i off bs).Clean t b :=
  h.of_same (fun _ => rfl) fun j => by simp [State.slot, State.shadowPut]

/-- A granted write leaves a clean bank clean, and writes no byte but its own. -/
theorem State.Clean.bankStore (h : s.Clean t b) (hq : bankReqOk b q = true) (hw : q.write = true) (hp : q.poison = false) :
    (s.bankStore t b q).Clean t b ∧ s.BytesBut (s.bankStore t b q) (spdAddr t b q.off) q.len := by
  obtain ⟨size, some⟩ := bankReqOk_write hq hw
  unfold State.bankStore
  split
  · have stored := h.spdWrite q.off some
    rw [hp, ← size]
    exact ⟨stored.clean h, stored.bytesBut⟩
  · dsimp only
    split
    · exact ⟨h.shadowPut _ _ _, fun _ _ => rfl⟩
    · exact ⟨h, fun _ _ => rfl⟩

/-- Of two writes to the same bytes, the one of the higher priority stands. -/
theorem State.Clean.bankPeriod_two (h : s.Clean t b) (hq : bankReqOk b q = true) (hr : bankReqOk b r = true) (hwq : q.write = true) (hwr : r.write = true)
    (hpq : q.poison = false) (hpr : r.poison = false) (hs : r.slot = none) (ho : q.off = r.off) (hl : q.len = r.len) (hc : r.cls.val < q.cls.val) :
    (∀ i, i < r.len → (s.bankPeriod t b [{ req := q }, { req := r }]).byte (spdAddr t b r.off + i) = r.data.getD i 0#8) ∧
      s.BytesBut (s.bankPeriod t b [{ req := q }, { req := r }]) (spdAddr t b r.off) r.len := by
  obtain ⟨n, hn⟩ := bankSlots_eq b
  obtain ⟨size, some⟩ := bankReqOk_write hr hwr
  have granted : s.bankPeriod t b [{ req := q }, { req := r }] =
      ((((s.bankWaits t b [{ req := q }, { req := r }]).bankCounts t b [{ req := r }, WaitingReq.passedBy r.cls { req := q }]).bankStore t b q).spdWrite t b
        r.off r.data) := by
    have reads (x : State) : x.bankReads t b [{ req := r }, WaitingReq.passedBy r.cls { req := q }] = x := by
      simp [State.bankReads, hwr, WaitingReq.passedBy_req, hwq]
    rw [State.bankPeriod_eq, hn, grants_two n hc, reads, State.bankWrites, writeOrder_two (by rwa [WaitingReq.passedBy_req]) hwr
      (by rwa [WaitingReq.passedBy_req]), WaitingReq.passedBy_req, List.foldl_cons, List.foldl_cons, List.foldl_nil]
    simp only [State.bankStore, reqSlot, hs, Option.map_none, hpr]
  have counted := ((State.Tame.refl h).bankWaits [{ req := q }, { req := r }]).bankCounts [{ req := r }, WaitingReq.passedBy r.cls { req := q }]
  obtain ⟨clean, others⟩ := counted.clean.bankStore hq hwq hpq
  have last := clean.spdWrite r.off some
  rw [granted]
  rw [ho, hl] at others
  refine ⟨fun i hi => last.byte_inside (size ▸ hi), State.BytesBut.trans (fun j _ => counted.only.byte (by decide) j) (others.trans (size ▸ last.bytesBut))⟩

end

end Sys2Proof.Machine
end

section
/-! SUPPORT. A read that meets an uncorrectable word (R217, R218, R220): poison, a count, and a record. -/
namespace Sys2Proof.Machine

section
variable {s : State} {t : Nat} {b : BankId} {r : BankReq}

/-! ### The words of a read -/

theorem State.shadowed_of_steady (h : ∀ i, (s.slot t i).mode ≠ .committing) (b : BankId) (off : Nat) {n : Nat} (hn : n ≠ 0) :
    s.shadowed t b off n none = false := by
  have steady : ∀ i, (sget {} i (s.tile t).slots).mode ≠ .committing := h
  obtain ⟨m, rfl⟩ := Nat.exists_eq_succ_of_ne_zero hn
  simp [State.shadowed, State.shadowByte, steady, List.range_succ_eq_map]

/-- One part of a span is read. -/
def State.readPart (t : Nat) (b : BankId) (source : Nat) (acc : State × Bool) (p : Nat × Nat) : State × Bool :=
  if acc.1.shadowed t b p.1 p.2 none then acc
  else ((acc.1.spdWordRead t b source (p.1 / 8) none).1, acc.2 || (acc.1.spdWordRead t b source (p.1 / 8) none).2)

theorem State.spdWordsRead_eq (s : State) (t : Nat) (b : BankId) (source off n : Nat) :
    s.spdWordsRead t b source off n none = (wordParts off n).foldl (State.readPart t b source) (s, false) := rfl

/-- Good words add nothing to a read. -/
theorem State.foldl_readPart_good {l : List (Nat × Nat)} (h : ∀ p ∈ l, s.mark (spdAddr t b (8 * (p.1 / 8))) = 0) (source : Nat) (bad : Bool) :
    l.foldl (State.readPart t b source) (s, bad) = (s, bad) := by
  induction l with
  | nil => rfl
  | cons p l ih =>
    have good : State.readPart t b source (s, bad) p = (s, bad) := by simp [State.readPart, State.spdWordRead, h p (by simp)]
    rw [List.foldl_cons, good, ih fun p hp => h p (by simp [hp])]

/-- An uncorrectable word is counted, recorded and reported (R217). -/
def State.spdPoisoned (s : State) (t : Nat) (b : BankId) (source word : Nat) : State :=
  (s.spdNoted t b true source word).reportTile 1 t 2 (spdAddr t b (8 * word))

theorem State.frame_spdPoisoned (s : State) (t : Nat) (b : BankId) (source word : Nat) :
    s.Frame (s.spdPoisoned t b source word) [.regs, .ras, .ic, .adit] spdErrFields :=
  (State.Frame.mono (s.frame_spdNoted t b true source word)).after (State.frame_reportTile _ _ _ _ _)

/-- A span whose first word alone is uncorrectable is read as poison. -/
theorem State.spdWordsRead_poison {off n : Nat} (source : Nat) (hn : n ≠ 0) (steady : ∀ i, (s.slot t i).mode ≠ .committing)
    (bad : s.mark (spdAddr t b (8 * (off / 8))) = 2) (good : ∀ w, w ≠ off / 8 → s.mark (spdAddr t b (8 * w)) = 0) :
    s.spdWordsRead t b source off n none = (s.spdPoisoned t b source (off / 8), true) := by
  obtain ⟨m, hm⟩ : ∃ m, (off + n - 1) / 8 + 1 - off / 8 = m + 1 := ⟨(off + n - 1) / 8 - off / 8, by omega⟩
  have first : State.readPart t b source (s, false) (partLo off 0, partHi off n 0 - partLo off 0) = (s.spdPoisoned t b source (off / 8), true) := by
    have lo : partLo off 0 = off := by unfold partLo; omega
    have some : partHi off n 0 - off ≠ 0 := by unfold partHi; omega
    simp only [State.readPart, lo, State.shadowed_of_steady steady b off some, State.spdWordRead, bad]
    rfl
  rw [State.spdWordsRead_eq, wordParts_eq hn, hm, List.range_succ_eq_map, List.map_cons, List.foldl_cons, first]
  refine State.foldl_readPart_good (fun p hp => ?_) source true
  obtain ⟨j, hj, rfl⟩ := List.mem_map.1 hp
  obtain ⟨i, -, rfl⟩ := List.mem_map.1 hj
  rw [(s.frame_spdPoisoned t b source _).only.mark (by decide)]
  exact good _ (by unfold partLo; dsimp only; omega)

/-! ### The record -/

theorem State.rd_spdRecord (s : State) (t : Nat) (b : BankId) (ue : Bool) (source word : Nat) (h : s.rd .spdErrInfoValid t = 0) :
    (s.spdRecord t b ue source word).rd .spdErrInfoValid t = 1 ∧ (s.spdRecord t b ue source word).rd .spdErrInfoUe t = b2n ue ∧
      (s.spdRecord t b ue source word).rd .spdErrInfoBank t = bankIdx b ∧ (s.spdRecord t b ue source word).rd .spdErrInfoWord t = word % 2 ^ 18 := by
  have off : ¬ s.on .spdErrInfoValid t := by simp [State.on, h]
  have kept (x : State) (f : Field) (hf : f ∉ eventNames) : (x.irq t).rd f t = x.rd f t := (x.frame_irq t).rd f t 0 hf
  rw [State.spdRecord, if_neg off]
  refine ⟨?_, ?_, ?_, ?_⟩ <;> rw [kept _ _ (by decide)]
  · exact State.rd_wr_same _ _ _ _ _
  · simp only [State.rd_wr_ne, ne_eq, reduceCtorEq, not_false_eq_true, State.rd_wr_same]
    cases ue <;> rfl
  · simp only [State.rd_wr_ne, ne_eq, reduceCtorEq, not_false_eq_true, State.rd_wr_same]
    cases b <;> rfl
  · simp only [State.rd_wr_ne, ne_eq, reduceCtorEq, not_false_eq_true, State.rd_wr_same]
    rfl

theorem State.rd_spdPoisoned (s : State) (t : Nat) (b : BankId) (source word : Nat) :
    (s.spdPoisoned t b source word).rd .spdUe t (bankIdx b) = (s.rd .spdUe t (bankIdx b) + 1) % 2 ^ 64 ∧
      (s.rd .spdErrInfoValid t = 0 → (s.spdPoisoned t b source word).rd .spdErrInfoValid t = 1 ∧
        (s.spdPoisoned t b source word).rd .spdErrInfoUe t = 1 ∧ (s.spdPoisoned t b source word).rd .spdErrInfoBank t = bankIdx b ∧
        (s.spdPoisoned t b source word).rd .spdErrInfoWord t = word % 2 ^ 18) := by
  have told (f : Field) (j : Nat) (hf : f ∉ [Field.rasResetSuppress]) :
      (s.spdPoisoned t b source word).rd f t j = ((s.cnt .spdUe t (bankIdx b) 1).spdRecord t b true source word).rd f t j :=
    (State.frame_reportTile _ 1 t 2 _).rd f t j hf
  refine ⟨?_, fun h => ?_⟩
  · rw [told _ _ (by decide), (State.frame_spdRecord _ _ _ _ _ _).rd _ _ _ (by decide), State.rd_cnt_same]
    rfl
  · rw [told _ _ (by decide), told _ _ (by decide), told _ _ (by decide), told _ _ (by decide)]
    exact State.rd_spdRecord _ t b true source word ((State.rd_cnt_ne _ (by decide) _ _ _ _ _).trans h)

/-! ### The read -/

theorem State.frame_bankLone (s : State) (t : Nat) (b : BankId) (r : BankReq) :
    s.Frame (s.bankLone t b r) [.regs, .tiles, .act] [.spdAccMaster, .spdAccOther] := by
  have idle : s.Frame (s.bankIdle t b) [.regs, .tiles, .act] [.spdAccMaster, .spdAccOther] := .mono (.of_only (s.only_bankIdle t b))
  have listed : accField r ∈ [Field.spdAccMaster, Field.spdAccOther] := by
    unfold accField
    split <;> decide
  exact (idle.cnt t (bankIdx b) 1 (by decide) listed).activity t 6 1

/-- The word that a request begins in becomes uncorrectable. -/
def State.bankSpoilt (s : State) (t : Nat) (b : BankId) (r : BankReq) : State := s.setMark (spdAddr t b (8 * (r.off / 8))) 2

theorem State.bankUpset_uncorrectable (s : State) (t : Nat) (b : BankId) (r : BankReq) : s.bankUpset t b [r] .uncorrectable = s.bankSpoilt t b r := by
  rw [State.bankSpoilt, Nat.mul_comm]
  rfl

theorem State.Clean.bankPeriod_spoilt (h : s.Clean t b) (hr : r.slot = none) (hw : r.write = false) (hn : r.len ≠ 0) (hf : ∀ n, r.who ≠ .hf n)
    (hd : r.who ≠ .dbg) : (s.bankSpoilt t b r).bankPeriod t b [{ req := r }] =
      (((s.bankSpoilt t b r).bankLone t b r).spdPoisoned t b (b2n (r.cls != 0)) (r.off / 8)).bankAnswered t r (s.bankBytes t b r) true := by
  have steady : ∀ i, ((s.bankSpoilt t b r).slot t i).mode ≠ .committing := h.steady
  have bad : ((s.bankSpoilt t b r).bankLone t b r).mark (spdAddr t b (8 * (r.off / 8))) = 2 := by
    rw [State.mark_bankLone, State.bankSpoilt, State.mark_setMark_same]
  have good (w : Nat) (hw : w ≠ r.off / 8) : ((s.bankSpoilt t b r).bankLone t b r).mark (spdAddr t b (8 * w)) = 0 := by
    have apart : spdAddr t b (8 * w) ≠ spdAddr t b (8 * (r.off / 8)) := by
      unfold spdAddr
      omega
    rw [State.mark_bankLone, State.bankSpoilt, State.mark_setMark_ne _ apart, h.marks]
  have lone : ∀ i, (((s.bankSpoilt t b r).bankLone t b r).slot t i).mode ≠ .committing := fun i => by
    rw [State.slot_bankLone]
    exact steady i
  have quiet (x : State) : x.poisonAnswer r.who = x := by
    cases hwho : r.who with
    | hf n => exact absurd hwho (hf n)
    | dbg => exact absurd hwho hd
    | _ => rfl
  rw [State.bankPeriod_read _ t b hr hw]
  simp only [State.bankReadDone, reqSlot, hr, Option.map_none, State.spdWordsRead_poison _ hn lone bad good, quiet, if_true, State.bankData steady]
  rfl

end

end Sys2Proof.Machine
end

section
/-! PROOF. Accesses of a scratchpad bank (R42, R212 to R218, R221, R223, R348). -/
namespace Sys2Proof.Machine

/-- Does a well-formed request pass the MPU (R348)? -/
def State.Admits (s : State) (t : Nat) (b : BankId) (r : BankReq) : Prop := bankReqOk b r = true ∧ s.bankStops t b r = false

section
variable {s : State} {t : TileId} {b : BankId} {r : BankReq} {reqs : List BankReq}

theorem bankAccess_blocked {c : CoreId} (u : Upset) (hk : bankReqOk b r = true) (hr : r.who = .hf c)
    (hm : s.mpuMay c (spdAddr t b r.off) r.len (b2n r.write) = false) (hc : s.coreComps c = []) (hq : (s.bank t b).waiting = []) :
    Completes (.bankAccess t b [r] u) s (fun s' =>
      (s'.tile t).reads = (s.tile t).reads ++ (if r.write then [] else [⟨r.tag, 0, false, false⟩]) ∧
      (∀ k, s'.byte k = s.byte k) ∧ (∀ k, s'.mark k = s.mark k) ∧ s.FieldsBut s' eventFields) := by
  have stops : s.bankStops t b r = true := by simp [State.bankStops, State.mpuStops, hr, hm]
  have raised := s.frame_irq (428 + c)
  have blocked := State.bankBlocked_of_idle (t := t) hr hc
  have reads : ((s.bankBlocked t r).tile t).reads = (s.tile t).reads ++ (if r.write then [] else [⟨r.tag, 0, false, false⟩]) := by
    rw [blocked, State.tile_onTile_same, raised.tile t]
    cases r.write <;> simp
  have only : s.Only (s.bankBlocked t r) [.regs, .ic, .adit, .tiles] := by
    rw [blocked]
    exact (raised.only.mono (by decide)).trans ((State.only_onTile _ _ _).mono (by decide))
  have fields : s.FieldsBut (s.bankBlocked t r) eventFields := by
    rw [blocked]
    exact (s.fieldsBut_irq _).congr rfl rfl
  have waiting : ((s.bankBlocked t r).bank t b).waiting = [] := by
    rw [← hq, blocked]
    simp only [State.bank, State.tile_onTile_same, raised.tile]
  have unread (x : Bank) : (((s.bankBlocked t r).setBank t b x).tile t).reads = ((s.bankBlocked t r).tile t).reads := by
    rw [State.tile_setBank]
  refine ⟨_, if_pos (by simpa using hk), ?_⟩
  rw [State.bankAccess_of_stopped u stops]
  rcases State.bankReached_nil u waiting with e | ⟨x, e⟩ <;> rw [e]
  · exact ⟨reads, only.byte (by decide), only.mark (by decide), fields⟩
  · exact ⟨(unread x).trans reads, only.byte (by decide), only.mark (by decide), fields.congr rfl rfl⟩

theorem bankAccess_gated (u : Upset) (hn : reqs ≠ []) (hm : ∀ r ∈ reqs, s.Admits t b r) (hg : (s.tile t).gated = true) :
    Completes (.bankAccess t b reqs u) s (fun s' =>
      s'.rd .spdGatedAcc = (s.rd .spdGatedAcc + reqs.length) % 2 ^ 64 ∧
      (s'.tile t).reads = (s.tile t).reads ++ reqs.map (fun r => ⟨r.tag, 0, false, true⟩) ∧
      ((∀ r ∈ reqs, ∀ n, r.who ≠ .hf n) → s.Only s' [.regs, .tiles, .ras, .mod])) := by
  refine .bankReached hm ?_
  rw [State.bankReached_gated u hg]
  exact ⟨State.rd_foldl_counted (fun r _ x => x.rd_bankFail t b r) s hn, State.reads_foldl_bankFail reqs s t b,
    fun h => State.only_foldl_bankFail h s t b⟩

theorem bankAccess_waits (u : Upset) (hm : ∀ r ∈ reqs, s.Admits t b r) (hg : (s.tile t).gated = false) (hc : s.clearing t b = false)
    (hw : (s.tile t).stopped = true ∨ (s.tile t).tallyValid = false) : Completes (.bankAccess t b reqs u) s (fun s' =>
      s'.bank t b = { s.bank t b with waiting := (s.bank t b).waiting ++ reqs.map (fun r => { req := r }) } ∧
      (∀ c, c ≠ b → s'.bank t c = s.bank t c) ∧ s'.tile t = { s.tile t with banks := (s'.tile t).banks } ∧ s.TilesBut s' t ∧
      s.Only s' [.tiles]) := by
  refine .bankReached hm ?_
  rw [State.bankReached_waits u hg hc hw]
  exact ⟨s.bank_setBank_same t b _, fun c e => s.bank_setBank_ne t e _, s.tile_setBank t b _, s.tilesBut_onTile t _, s.only_bankQueued t b reqs⟩

theorem bankAccess_held (u : Upset) (hn : reqs ≠ []) (hm : ∀ r ∈ reqs, s.Admits t b r) (hs : ∀ r ∈ reqs, r.slot = none)
    (hg : (s.tile t).gated = false) (hc : s.clearing t b = true) : Completes (.bankAccess t b reqs u) s (fun s' =>
      s'.bank t b = { s.bank t b with waiting := (s.bank t b).waiting ++ reqs.map (fun r => { req := r }) } ∧
      s'.rd .spdClearHold t (bankIdx b) = (s.rd .spdClearHold t (bankIdx b) + reqs.length) % 2 ^ 64 ∧
      (∀ c, c ≠ b → s'.bank t c = s.bank t c) ∧ s'.tile t = { s.tile t with banks := (s'.tile t).banks } ∧ s.TilesBut s' t ∧
      s.FieldsBut s' [(.spdClearHold, t, bankIdx b)] ∧ s.Only s' [.regs, .tiles]) := by
  have tile := State.tile_bankHeld (s := s) (t := t) (b := b) hs
  have bank (c : BankId) : (s.bankHeld t b reqs).bank t c = (s.bankQueued t b reqs).bank t c := by simp only [State.bank, tile]
  refine .bankReached hm ?_
  rw [State.bankReached_clearing u hg hc]
  refine ⟨(bank b).trans (s.bank_setBank_same t b _), State.rd_bankHeld hs hn, fun c e => (bank c).trans (s.bank_setBank_ne t e _), ?_,
    fun v hv => (tile v).trans (s.tilesBut_onTile t _ v hv), State.fieldsBut_bankHeld hs, State.only_bankHeld hs⟩
  rw [tile]
  exact s.tile_setBank t b _

/-! ### A lone request of an open bank -/

/-- A lone untagged request of an open bank is a period of its own. -/
theorem Completes.bankLone {u : Upset} {P : State → Prop} (hm : s.Admits t b r) (ho : s.bankOpen t b = true) (hq : (s.bank t b).waiting = [])
    (h : P ((s.bankUpset t b [r] u).bankPeriod t b [{ req := r }])) : Completes (.bankAccess t b [r] u) s P := by
  refine .bankReached (fun _ hx => List.mem_singleton.1 hx ▸ hm) ?_
  rw [State.bankReached_open u ho, hq]
  exact h

theorem bankAccess_read (hm : s.Admits t b r) (hs : r.slot = none) (ho : s.bankOpen t b = true) (hq : (s.bank t b).waiting = [])
    (clean : s.Clean t b) (hw : r.write = false) : Completes (.bankAccess t b [r] .none) s (fun s' =>
      s'.tile t = { s.tile t with banks := (s'.tile t).banks, reads := (s.tile t).reads ++
        [⟨r.tag, leNat ((List.range r.len).map (fun i => s.byte (spdAddr t b r.off + i))), false, false⟩] } ∧
      (∀ c, s'.bank t c = s.bank t c) ∧ s.TilesBut s' t ∧
      s.FieldsBut s' [(if r.cls = 0 then .spdAccMaster else .spdAccOther, t, bankIdx b)] ∧ s.Only s' [.regs, .tiles, .act]) := by
  refine .bankLone hm ho hq ?_
  rw [show s.bankUpset t b [r] .none = s from rfl, clean.bankPeriod_read hs hw]
  have tile : ((s.bankLone t b r).bankAnswered t r (s.bankBytes t b r) false).tile t =
      { s.tile t with banks := ((s.bankLone t b r).tile t).banks, reads := (s.tile t).reads ++ [⟨r.tag, s.bankBytes t b r, false, false⟩] } := by
    simp only [State.bankAnswered, State.tile_onTile_same, State.tile_bankLone]
    rw [State.bankIdle, State.tile_setBank]
  refine ⟨?_, fun c => ?_, (s.tilesBut_bankLone t b r).trans (State.tilesBut_onTile _ t _), (s.fieldsBut_bankLone t b r).congr rfl rfl,
    (s.only_bankLone t b r).trans ((State.only_onTile _ _ _).mono (by decide))⟩
  · rw [tile]
    rfl
  · rw [← State.bank_bankLone (r := r) hq c]
    simp only [State.bank, tile]

theorem bankAccess_write (hm : s.Admits t b r) (hs : r.slot = none) (ho : s.bankOpen t b = true) (hq : (s.bank t b).waiting = [])
    (clean : s.Clean t b) (hw : r.write = true) (hp : r.poison = false) : Completes (.bankAccess t b [r] .none) s (fun s' =>
      (∀ i, i < r.len → s'.byte (spdAddr t b r.off + i) = r.data.getD i 0#8) ∧ s.BytesBut s' (spdAddr t b r.off) r.len ∧
      (∀ k, s'.mark k = s.mark k) ∧ (∀ c, s'.bank t c = s.bank t c) ∧ s'.tile t = { s.tile t with banks := (s'.tile t).banks } ∧
      s.TilesBut s' t ∧ s.FieldsBut s' [(if r.cls = 0 then .spdAccMaster else .spdAccOther, t, bankIdx b)] ∧
      s.Only s' [.regs, .tiles, .act, .mem, .ecc]) := by
  obtain ⟨size, some⟩ := bankReqOk_write hm.1 hw
  have stored := clean.bankPeriod_write hs hw hp some
  have tile := stored.only.tile (by decide)
  refine .bankLone hm ho hq ?_
  rw [show s.bankUpset t b [r] .none = s from rfl]
  refine ⟨fun i hi => stored.byte_inside (size ▸ hi), State.BytesBut.trans (fun k _ => State.byte_bankLone k) (size ▸ stored.bytesBut),
    fun k => (stored.mark k).trans (State.mark_bankLone k), fun c => (stored.only.bank (by decide) t c).trans (State.bank_bankLone hq c), ?_,
    (s.tilesBut_bankLone t b r).trans (stored.only.tilesBut (by decide) t),
    (s.fieldsBut_bankLone t b r).congr (stored.only .regs (by decide)) (stored.only .variant (by decide)),
    ((s.only_bankLone t b r).mono (by decide)).trans (stored.only.mono (by decide))⟩
  rw [tile, State.tile_bankLone]
  exact s.tile_setBank t b _

theorem bankAccess_two {q : BankReq} (hm : s.Admits t b r) (hs : r.slot = none) (ho : s.bankOpen t b = true) (hq : (s.bank t b).waiting = [])
    (clean : s.Clean t b) (hw : r.write = true) (hp : r.poison = false) (hmq : s.Admits t b q) (hwq : q.write = true) (hpq : q.poison = false)
    (hoff : q.off = r.off) (hlen : q.len = r.len) (hc : r.cls.val < q.cls.val) : Completes (.bankAccess t b [q, r] .none) s (fun s' =>
      (∀ i, i < r.len → s'.byte (spdAddr t b r.off + i) = r.data.getD i 0#8) ∧ s.BytesBut s' (spdAddr t b r.off) r.len) := by
  refine .bankReached (by simpa using ⟨hmq, hm⟩) ?_
  rw [State.bankReached_open .none ho, hq]
  exact clean.bankPeriod_two hmq.1 hm.1 hwq hw hpq hp hs hoff hlen hc

theorem bankAccess_uncorrectable (hm : s.Admits t b r) (hs : r.slot = none) (ho : s.bankOpen t b = true) (hq : (s.bank t b).waiting = [])
    (clean : s.Clean t b) (hw : r.write = false) (hf : ∀ n, r.who ≠ .hf n) (hd : r.who ≠ .dbg) :
    Completes (.bankAccess t b [r] .uncorrectable) s (fun s' =>
      (s'.tile t).reads = (s.tile t).reads ++
        [⟨r.tag, leNat ((List.range r.len).map (fun i => s.byte (spdAddr t b r.off + i))), true, false⟩] ∧
      s'.rd .spdUe t (bankIdx b) = (s.rd .spdUe t (bankIdx b) + 1) % 2 ^ 64 ∧
      (s.rd .spdErrInfoValid t = 0 → s'.rd .spdErrInfoValid t = 1 ∧ s'.rd .spdErrInfoUe t = 1 ∧
        s'.rd .spdErrInfoBank t = bankIdx b ∧ s'.rd .spdErrInfoWord t = r.off / 8) ∧
      (∀ k, s'.byte k = s.byte k) ∧ s.TilesBut s' t ∧ s.Only s' [.regs, .tiles, .act, .ecc, .ras, .ic, .adit]) := by
  obtain ⟨hn, -, inside, -⟩ := (bankReqOk_iff b r).1 hm.1
  refine .bankLone hm ho hq ?_
  rw [State.bankUpset_uncorrectable, clean.bankPeriod_spoilt hs hw (Nat.one_le_iff_ne_zero.1 hn) hf hd]
  have spoilt : s.Only (s.bankSpoilt t b r) [.ecc] := State.Only.setMark (.refl s _) (by decide) _ _
  have lone := (s.bankSpoilt t b r).frame_bankLone t b r
  have poisoned := ((s.bankSpoilt t b r).bankLone t b r).frame_spdPoisoned t b (b2n (r.cls != 0)) (r.off / 8)
  obtain ⟨counted, recorded⟩ := ((s.bankSpoilt t b r).bankLone t b r).rd_spdPoisoned t b (b2n (r.cls != 0)) (r.off / 8)
  have before (f : Field) (j : Nat) (hf : f ∉ [Field.spdAccMaster, .spdAccOther]) : ((s.bankSpoilt t b r).bankLone t b r).rd f t j = s.rd f t j :=
    lone.rd f t j hf
  have word : r.off / 8 % 2 ^ 18 = r.off / 8 := by
    have : bankSize b ≤ 8 * 2 ^ 18 := by cases b <;> decide
    exact Nat.mod_eq_of_lt (by omega)
  have only : s.Only ((((s.bankSpoilt t b r).bankLone t b r).spdPoisoned t b (b2n (r.cls != 0)) (r.off / 8)).bankAnswered t r (s.bankBytes t b r) true)
      [.regs, .tiles, .act, .ecc, .ras, .ic, .adit] :=
    (((spoilt.mono (by decide)).trans (lone.only.mono (by decide))).trans (poisoned.only.mono (by decide))).trans
      ((State.only_onTile _ _ _).mono (by decide))
  refine ⟨?_, ?_, fun h => ?_, only.byte (by decide), ?_, only⟩
  · rw [State.bankAnswered, State.tile_onTile_same, poisoned.tile t, State.tile_bankLone, State.bankIdle, State.tile_setBank]
    rfl
  · rw [State.bankAnswered, State.rd_onTile, counted, before .spdUe _ (by decide)]
  · rw [← before .spdErrInfoValid 0 (by decide)] at h
    obtain ⟨valid, ue, bank, at0⟩ := recorded h
    simp only [State.bankAnswered, State.rd_onTile]
    exact ⟨valid, ue, bank, at0.trans word⟩
  · exact ((spoilt.tilesBut (by decide) t).trans (State.tilesBut_bankLone _ t b r)).trans
      ((poisoned.only.tilesBut (by decide) t).trans (State.tilesBut_onTile _ t _))

theorem bankAccess_slots (hm : ∀ r ∈ reqs, s.Admits t b r) (ho : s.bankOpen t b = true) : Completes (.bankAccess t b reqs .none) s (fun s' =>
    (s'.bank t b).waiting.length = (s.bank t b).waiting.length + reqs.length - (if b = .vb then 16 else 4)) := by
  have upset : s.bankUpset t b reqs .none = s := by cases reqs <;> rfl
  refine .bankReached hm ?_
  rw [State.bankReached_open .none ho, upset, State.length_waiting_period, List.length_append, List.length_map]
  rfl

end

/-- Settles O28: what becomes of a request by the state of its tile and bank, and one step period of an open bank. -/
theorem bankAccesses : Obligations.BankAccesses := by
  unfold Obligations.BankAccesses
  intro t b s may
  refine ⟨fun r c u hk hr hm hc hq => bankAccess_blocked u hk hr hm hc hq, fun reqs u hn hm hg => bankAccess_gated u hn hm hg,
    fun reqs u hm hg hc hw => bankAccess_waits u hm hg hc hw,
    fun reqs u hn hm hg hc => bankAccess_held u hn (fun r hr => (hm r hr).1) (fun r hr => (hm r hr).2) hg hc,
    fun r hm hs ho hq marks steady => ?_, fun reqs hm ho => bankAccess_slots hm ho⟩
  have clean : s.Clean t b := ⟨marks, steady⟩
  exact ⟨bankAccess_read hm hs ho hq clean, bankAccess_write hm hs ho hq clean,
    fun hw hp q hmq hwq hpq hoff hlen hc => bankAccess_two hm hs ho hq clean hw hp hmq hwq hpq hoff hlen hc,
    bankAccess_uncorrectable hm hs ho hq clean⟩

end Sys2Proof.Machine
end

section
/-! SUPPORT. Controllers of HBM (R52, R227 to R236): how the line of an address lies, and what reading and writing it does. -/
namespace Sys2Proof.Machine

/-! ### Parts -/

theorem State.only_onHbmc (s : State) (c : Nat) (g : Hbmc → Hbmc) : s.Only (s.onHbmc c g) [.hbmcs] := by
  intro p hp
  cases p with
  | hbmcs => simp at hp
  | _ => rfl

theorem State.only_hbmReads (s : State) (l : List ReadDone) : s.Only { s with hbmReads := l } [.hbmReads] := by
  intro p hp
  cases p with
  | hbmReads => simp at hp
  | _ => rfl

theorem State.Only.hbmReads {s a : State} {l : List Part} (h : s.Only a l) (hl : Part.hbmReads ∈ l) (x : List ReadDone) :
    s.Only { a with hbmReads := x } l := h.trans ((a.only_hbmReads x).mono (by simpa using hl))

theorem State.Only.setBytes {s a : State} {l : List Part} (h : s.Only a l) (hl : Part.mem ∈ l) (k : Nat) (bs : List Byte) : s.Only (a.setBytes k bs) l :=
  h.trans ((a.only_setBytes k bs).mono (by simpa using hl))

/-! ### Where the bytes of an address lie (R52) -/

/-- Consecutive addresses of a line stay together in every band mode, in the first 8 stacks. -/
theorem State.place_hbm {s : State} {a st l : Nat} (h : s.place a = .hbm st l) : st < 8 ∧ l % 64 = a % 64 := by
  have number : s.variant.stacks = 4 ∨ s.variant.stacks = 6 ∨ s.variant.stacks = 8 := by cases s.variant <;> decide
  have decoded : s.hbmDecode (a - 0x10000000000) = .hbm st l ∧ 0x10000000000 ≤ a := by
    unfold State.place at h
    split_ifs at h with _ _ _ _ hr
    · split at h <;> cases h
    · exact ⟨h, hr.1⟩
  obtain ⟨hd, ha⟩ := decoded
  unfold State.hbmDecode at hd
  dsimp only at hd
  split_ifs at hd <;> cases hd <;> rcases number with e | e | e <;> rw [e] <;> omega

theorem hbmcOf_lt {st : Nat} (h : st < 8) (l : Nat) : hbmcOf st l < 16 := by
  unfold hbmcOf
  omega

/-- The line of a local address. -/
def lineKey (st l : Nat) : Nat := (Place.hbm st (l / 64 * 64)).key

/-! ### Reading a line (R227, R230, R231) -/

/-- A line read counts at its controller. -/
def State.hbmReadCounted (s : State) (c : Nat) : State := (s.cnt .hbmRdLines c 0 1).activity (280 + c) 9 1

theorem State.only_hbmReadCounted (s : State) (c : Nat) : s.Only (s.hbmReadCounted c) [.regs, .act] :=
  ((s.only_cnt _ _ _ _).mono (by decide)).trans ((State.only_activity _ _ _ _).mono (by decide))

@[simp] theorem State.rd_hbmReadCounted (s : State) (c : Nat) (f : Field) (i j : Nat) :
    (s.hbmReadCounted c).rd f i j = (s.cnt .hbmRdLines c 0 1).rd f i j := State.rd_activity _ _ _ _ _ _ _

/-- An uncorrectable line is counted, recorded and reported. -/
def State.hbmUeNoted (s : State) (c source line k : Nat) : State := ((s.cnt .hbmUe c 0 1).hbmRecord c true source 0xFF line).reportHbm 1 c 2 k

/-- The fields that the record of an error may change. -/
def hbmRecordFields : List Field :=
  .hbmErrInfoUe :: .hbmErrInfoSource :: .hbmErrInfoSymbols :: .hbmErrLine :: .hbmErrInfoValid :: eventNames

theorem State.frame_hbmRecord (s : State) (c : Nat) (ue : Bool) (source symbols line : Nat) :
    s.Frame (s.hbmRecord c ue source symbols line) [.regs, .ic, .adit] hbmRecordFields := by
  have start := State.Frame.refl s [.regs, .ic, .adit] hbmRecordFields
  exact .ite start ((((((start.wr c 0 _).wr c 0 _).wr c 0 _).wr c 0 _).wr c 0 1).after (State.frame_irq _ _))

theorem State.frame_reportHbm (s : State) (cls c code detail : Nat) : s.Frame (s.reportHbm cls c code detail) [.regs, .ras] [.rasResetSuppress] :=
  s.frame_report _ _ _ _ _ _

theorem State.only_hbmUeNoted (s : State) (c source line k : Nat) : s.Only (s.hbmUeNoted c source line k) [.regs, .ras, .ic, .adit] :=
  (((s.only_cnt _ _ _ _).mono (by decide)).trans ((State.frame_hbmRecord _ _ _ _ _ _).only.mono (by decide))).trans
    ((State.frame_reportHbm _ _ _ _ _).only.mono (by decide))

theorem State.rd_hbmUeNoted (s : State) (c source line k : Nat) : (s.hbmUeNoted c source line k).rd .hbmUe c = (s.rd .hbmUe c + 1) % 2 ^ 64 := by
  rw [State.hbmUeNoted, (State.frame_reportHbm _ _ _ _ _).rd _ _ _ (by decide), (State.frame_hbmRecord _ _ _ _ _ _).rd _ _ _ (by decide),
    State.rd_cnt_same]
  rfl

section
variable {s : State} {st l : Nat}

theorem State.hbmLineRead_good (h : s.mark (lineKey st l) = 0) (source : Nat) : s.hbmLineRead st l source = (s, false) := if_pos h

theorem State.hbmLineRead_correctable (h : s.mark (lineKey st l) = 1 ∨ s.mark (lineKey st l) = 5) (source : Nat) :
    s.hbmLineRead st l source = ((((s.cnt .hbmCe (hbmcOf st l) 0 1).hbmRecord (hbmcOf st l) false source
      (if s.mark (lineKey st l) = 1 then 1 else 2) (l / 64)).reportHbm 0 (hbmcOf st l) 1 (lineKey st l)).setMark (lineKey st l) 0, false) :=
  (if_neg (show ¬ s.mark (lineKey st l) = 0 by omega)).trans (if_pos h)

theorem State.hbmLineRead_bad (good : s.mark (lineKey st l) ≠ 0)
    (ce : ¬ (s.mark (lineKey st l) = 1 ∨ s.mark (lineKey st l) = 5)) (source : Nat) : s.hbmLineRead st l source =
      ((if s.mark (lineKey st l) = 3 then s.cnt .hbmPoisonRd (hbmcOf st l) 0 1 else s).hbmUeNoted (hbmcOf st l) source (l / 64) (lineKey st l), true) :=
  (if_neg good).trans (if_neg ce)

theorem State.hbmLineRead_uncorrectable (h : s.mark (lineKey st l) = 2) (source : Nat) :
    s.hbmLineRead st l source = (s.hbmUeNoted (hbmcOf st l) source (l / 64) (lineKey st l), true) := by
  rw [State.hbmLineRead_bad (by omega) (by omega), if_neg (by omega)]

theorem State.mark_hbmReadCounted (c k : Nat) : (s.hbmReadCounted c).mark k = s.mark k := (s.only_hbmReadCounted c).mark (by decide) k

theorem State.hbmLineFetch_good (h : s.mark (lineKey st l) = 0) (source : Nat) : s.hbmLineFetch st l source = (s.hbmReadCounted (hbmcOf st l), false) :=
  State.hbmLineRead_good (State.mark_hbmReadCounted _ _ |>.trans h) source

theorem State.hbmLineFetch_uncorrectable (h : s.mark (lineKey st l) = 2) (source : Nat) : s.hbmLineFetch st l source =
    ((s.hbmReadCounted (hbmcOf st l)).hbmUeNoted (hbmcOf st l) source (l / 64) (lineKey st l), true) :=
  State.hbmLineRead_uncorrectable (State.mark_hbmReadCounted _ _ |>.trans h) source

/-! ### Writing a line (R227, R231) -/

/-- A line write counts at its controller, and one of part of a line as a read-modify-write too. -/
def State.hbmWriteCounted (s : State) (c n : Nat) : State :=
  if n = 64 then (s.cnt .hbmWrLines c 0 1).activity (280 + c) 9 1
  else (((s.cnt .hbmWrLines c 0 1).activity (280 + c) 9 1).cnt .hbmRmw c 0 1).activity (280 + c) 9 1

theorem State.only_hbmWriteCounted (s : State) (c n : Nat) : s.Only (s.hbmWriteCounted c n) [.regs, .act] := by
  have once (x : State) (f : Field) : x.Only ((x.cnt f c 0 1).activity (280 + c) 9 1) [.regs, .act] :=
    ((x.only_cnt _ _ _ _).mono (by decide)).trans ((State.only_activity _ _ _ _).mono (by decide))
  exact .ite (once s _) ((once s _).trans (once _ _))

theorem State.rd_hbmWriteCounted (s : State) (c n : Nat) :
    (s.hbmWriteCounted c n).rd .hbmWrLines c = (s.rd .hbmWrLines c + 1) % 2 ^ 64 ∧
      (n < 64 → (s.hbmWriteCounted c n).rd .hbmRmw c = (s.rd .hbmRmw c + 1) % 2 ^ 64) := by
  unfold State.hbmWriteCounted
  split
  · simp only [State.rd_activity, State.rd_cnt_same]
    exact ⟨rfl, fun h => by omega⟩
  · simp only [State.rd_activity, State.rd_cnt_same, State.rd_cnt_ne, ne_eq, reduceCtorEq, not_false_eq_true]
    exact ⟨rfl, fun _ => rfl⟩

theorem State.FieldsBut.activity {s a : State} {l : List (Field × Nat × Nat)} (h : s.FieldsBut a l) (u c n : Nat) : s.FieldsBut (a.activity u c n) l :=
  h.congr (a.activity_regs u c n) (a.activity_variant u c n)

theorem State.FieldsBut.hbmWriteCounted {s a : State} {fs : List (Field × Nat × Nat)} {c : Nat} (h : s.FieldsBut a fs)
    (hw : (Field.hbmWrLines, c % 65536, 0) ∈ fs) (hr : (Field.hbmRmw, c % 65536, 0) ∈ fs) (n : Nat) : s.FieldsBut (a.hbmWriteCounted c n) fs :=
  .ite ((h.cnt hw 1).activity _ _ _) ((((h.cnt hw 1).activity _ _ _).cnt hr 1).activity _ _ _)

/-- A line is written as the poison pattern. -/
def State.hbmPoisoned (s : State) (c k : Nat) : State := ((s.setBytes k (List.replicate 64 0xFF#8)).setMark k 3).cnt .hbmPoisonWr c 0 1

theorem State.mark_hbmPoisoned (s : State) (c k : Nat) :
    (s.hbmPoisoned c k).mark k = 3 ∧ ∀ j, j ≠ k → (s.hbmPoisoned c k).mark j = s.mark j := by
  have counted (x : State) (j : Nat) : (x.cnt .hbmPoisonWr c 0 1).mark j = x.mark j := (x.only_cnt _ _ _ _).mark (by decide) j
  refine ⟨?_, fun j hj => ?_⟩ <;> rw [State.hbmPoisoned, counted]
  · exact State.mark_setMark_same _ _ _
  · rw [State.mark_setMark_ne _ hj, State.mark_setBytes]

theorem State.bytesBut_hbmPoisoned (s : State) (c k : Nat) : s.BytesBut (s.hbmPoisoned c k) k 64 := by
  have stored := s.bytesBut_setBytes k (List.replicate 64 0xFF#8)
  rw [List.length_replicate] at stored
  intro j hj
  rw [State.hbmPoisoned, State.byte_cnt, State.byte_setMark]
  exact stored j hj

theorem State.hbmLineWrite_poison (h : s.mark (lineKey st l) = 0) (bs : List Byte) :
    s.hbmLineWrite st l bs true = (s.hbmWriteCounted (hbmcOf st l) bs.length).hbmPoisoned (hbmcOf st l) (lineKey st l) := by
  have kept := (s.only_hbmWriteCounted (hbmcOf st l) bs.length).mark (by decide) (lineKey st l)
  by_cases hn : bs.length = 64
  · simp only [State.hbmLineWrite, State.hbmWriteCounted, hn, if_true]
    rfl
  · simp only [State.hbmWriteCounted, if_neg hn] at kept ⊢
    have good := kept.trans h
    unfold lineKey at good
    simp only [State.hbmLineWrite, if_neg hn, good, State.hbmLineRead_good (kept.trans h)]
    rfl

/-- A write of bytes within a good line stores them, and leaves it good. -/
theorem State.hbmLineWrite_good (h : s.mark (lineKey st l) = 0) {bs : List Byte} (fits : l % 64 + bs.length ≤ 64) :
    (s.hbmWriteCounted (hbmcOf st l) bs.length).StoredAs ((s.hbmWriteCounted (hbmcOf st l) bs.length).setBytes (Place.hbm st l).key bs)
      (s.hbmLineWrite st l bs false) := by
  have good := ((s.only_hbmWriteCounted (hbmcOf st l) bs.length).mark (by decide) (lineKey st l)).trans h
  have stored := (s.hbmWriteCounted (hbmcOf st l) bs.length).only_setBytes (Place.hbm st l).key bs
  by_cases hn : bs.length = 64
  · have whole : lineKey st l = (Place.hbm st l).key := by
      unfold lineKey
      rw [show l / 64 * 64 = l by omega]
    have e : s.hbmLineWrite st l bs false =
        ((s.hbmWriteCounted (hbmcOf st l) bs.length).setBytes (lineKey st l) bs).setMark (lineKey st l) 0 := by
      simp only [State.hbmLineWrite, State.hbmWriteCounted, hn, if_true]
      rfl
    rw [e, whole]
    rw [whole] at good
    refine ⟨(stored.mono (by decide)).setMark (by decide) _ _, fun k => ?_, fun _ => rfl⟩
    by_cases hk : k = (Place.hbm st l).key
    · rw [hk, State.mark_setMark_same, good]
    · rw [State.mark_setMark_ne _ hk, State.mark_setBytes]
  · have e : s.hbmLineWrite st l bs false = (s.hbmWriteCounted (hbmcOf st l) bs.length).setBytes (Place.hbm st l).key bs := by
      simp only [State.hbmWriteCounted, if_neg hn] at good ⊢
      have good' := good
      unfold lineKey at good'
      simp only [State.hbmLineWrite, if_neg hn, good', State.hbmLineRead_good good]
      rfl
    rw [e]
    exact ⟨stored.mono (by decide), State.mark_setBytes _ _ _, fun _ => rfl⟩

end

end Sys2Proof.Machine
end

section
/-! PROOF. Accesses of HBM (R52, R54, R227, R231, R233, R348). -/
namespace Sys2Proof.Machine

theorem hbmReqOk_iff (r : HbmReq) : hbmReqOk r = true ↔ 1 ≤ r.len ∧ r.addr % 64 + r.len ≤ 64 ∧ (r.write = true → r.data.length = r.len) := by
  cases hw : r.write <;> simp [hbmReqOk, hw, and_assoc]

/-- A well-formed write brings bytes that fit in the line. -/
theorem hbmReqOk_write {r : HbmReq} (h : hbmReqOk r = true) (hw : r.write = true) : r.data.length = r.len ∧ r.addr % 64 + r.data.length ≤ 64 := by
  obtain ⟨-, inside, size⟩ := (hbmReqOk_iff r).1 h
  exact ⟨size hw, (size hw).symm ▸ inside⟩

theorem Completes.hbmAccess {r : HbmReq} {u : HbmUpset} {wait : Fin 191} {s : State} {P : State → Prop} (hk : hbmReqOk r = true)
    (h : P (s.hbmAccess r u wait)) : Completes (.hbmAccess r u wait) s P := ⟨_, if_pos hk, h⟩

section
variable {r : HbmReq} {s : State} {st l : Nat}

/-! ### The ways of an access -/

theorem State.hbmAccess_held (hm : s.mpuStops r.who r.addr r.len r.write = false) (hb : s.bandHolds r.addr = true) (u : HbmUpset) (wait : Nat) :
    s.hbmAccess r u wait = { s with bandHeld := s.bandHeld ++ [r] } := by simp [State.hbmAccess, hm, hb]

theorem State.hbmAccess_performs (hm : s.mpuStops r.who r.addr r.len r.write = false) (hb : s.bandHolds r.addr = false) (u : HbmUpset) (wait : Nat) :
    s.hbmAccess r u wait = s.hbmPerform r u wait := by simp [State.hbmAccess, hm, hb]

/-- A read that its controller answers. -/
def State.hbmAnswered (s : State) (r : HbmReq) (data : Nat) (poison err : Bool) : State :=
  { s with hbmReads := s.hbmReads ++ [⟨r.tag, data, poison, err⟩] }

@[simp] theorem State.rd_hbmAnswered (s : State) (r : HbmReq) (data : Nat) (poison err : Bool) (f : Field) (i j : Nat) :
    (s.hbmAnswered r data poison err).rd f i j = s.rd f i j := rfl

theorem State.only_hbmAnswered (s : State) (r : HbmReq) (data : Nat) (poison err : Bool) : s.Only (s.hbmAnswered r data poison err) [.hbmReads] :=
  s.only_hbmReads _

/-- The answer to a read whose line's fetch leaves memory and the answers before it alone. -/
theorem State.hbmReads_hbmAnswered {s a : State} {l : List Part} (h : s.Only a l) (hm : Part.mem ∉ l) (hr : Part.hbmReads ∉ l) (r : HbmReq) (k : Nat)
    (poison err : Bool) : (a.hbmAnswered r (leNat (a.bytes k r.len)) poison err).hbmReads =
      s.hbmReads ++ [⟨r.tag, leNat ((List.range r.len).map (fun i => s.byte (k + i))), poison, err⟩] := by
  have reads : a.hbmReads = s.hbmReads := h .hbmReads hr
  simp only [State.hbmAnswered, State.bytes, h.byte hm, reads]

theorem State.hbmPerform_discards (hp : s.place r.addr = .hbm st l) (hr : s.hbmReady (hbmcOf st l) = false) (u : HbmUpset) (wait : Nat) :
    s.hbmPerform r u wait = (s.cnt .hbmResetDiscard (hbmcOf st l) 0 1).hbmAnswered r 0 false true := by
  simp only [State.hbmPerform, hp, hr, Bool.not_false, if_true]
  rfl

/-- An access waits for a refresh, and its line meets what the environment brings. -/
def State.hbmMet (s : State) (st l : Nat) (u : HbmUpset) (wait : Nat) : State :=
  (s.cnt .hbmRefWaitNs (hbmcOf st l) 0 wait).upsetLine (hbmcOf st l) (lineKey st l) u

theorem State.hbmMet_none (wait : Nat) : s.hbmMet st l .none wait = s.cnt .hbmRefWaitNs (hbmcOf st l) 0 wait := rfl

theorem State.hbmPerform_write (hp : s.place r.addr = .hbm st l) (hr : s.hbmReady (hbmcOf st l) = true) (hw : r.write = true) (u : HbmUpset) (wait : Nat) :
    s.hbmPerform r u wait = (s.hbmMet st l u wait).hbmLineWrite st l r.data r.poison := by
  simp only [State.hbmPerform, hp, hr, hw, Bool.not_true, Bool.false_eq_true, if_false, if_true]
  rfl

theorem State.hbmPerform_read (hp : s.place r.addr = .hbm st l) (hr : s.hbmReady (hbmcOf st l) = true) (hw : r.write = false) {u : HbmUpset} {wait : Nat}
    {a : State} {bad : Bool} (hf : (s.hbmMet st l u wait).hbmLineFetch st l 0 = (a, bad)) : s.hbmPerform r u wait =
      if bad then (a.hbmAnswered r (leNat (a.bytes (Place.hbm st l).key r.len)) bad false).poisonAnswer r.who
      else a.hbmAnswered r (leNat (a.bytes (Place.hbm st l).key r.len)) bad false := by
  unfold State.hbmMet lineKey at hf
  simp only [State.hbmPerform, hp, hr, hw, Bool.not_true, Bool.false_eq_true, if_false, hf]
  rfl

/-- An access that completes is performed at its controller, in the line that holds its address. -/
structure State.HbmServes (s : State) (r : HbmReq) (st l : Nat) : Prop where
  ok : hbmReqOk r = true
  place : s.place r.addr = .hbm st l
  may : s.mpuStops r.who r.addr r.len r.write = false
  free : s.bandHolds r.addr = false

theorem State.HbmServes.completes (h : s.HbmServes r st l) {u : HbmUpset} {wait : Fin 191} {P : State → Prop} (hP : P (s.hbmPerform r u wait)) :
    Completes (.hbmAccess r u wait) s P := .hbmAccess h.ok (by rwa [State.hbmAccess_performs h.may h.free])

theorem State.HbmServes.index (h : s.HbmServes r st l) : hbmcOf st l % 65536 = hbmcOf st l := by
  have := hbmcOf_lt (State.place_hbm h.place).1 l
  omega

/-! ### What becomes of it -/

theorem hbmAccess_blocked {c : CoreId} (hk : hbmReqOk r = true) (hw : r.who = .hf c) (hm : s.mpuMay c r.addr r.len (b2n r.write) = false)
    (hc : s.coreComps c = []) : Completes (.hbmAccess r .none 0) s (fun s' =>
      s'.hbmReads = s.hbmReads ++ (if r.write then [] else [⟨r.tag, 0, false, false⟩]) ∧ s'.mem = s.mem ∧ s.FieldsBut s' eventFields) := by
  have stops : s.mpuStops r.who r.addr r.len r.write = true := by simp [State.mpuStops, hw, hm]
  have e : s.hbmAccess r .none 0 = { s.irq (428 + c) with
      hbmReads := if r.write then (s.irq (428 + c)).hbmReads else (s.irq (428 + c)).hbmReads ++ [⟨r.tag, 0, false, false⟩] } := by
    refine (if_pos stops).trans ?_
    simp only [hw, State.busFault_of_idle hc]
  have raised := s.only_irq (428 + c)
  refine .hbmAccess hk (e ▸ ⟨?_, raised .mem (by decide), (s.fieldsBut_irq _).congr rfl rfl⟩)
  have reads : (s.irq (428 + c)).hbmReads = s.hbmReads := raised .hbmReads (by decide)
  cases r.write <;> simp [reads]

theorem hbmAccess_discarded (h : s.HbmServes r st l) (hr : s.hbmReady (hbmcOf st l) = false) : Completes (.hbmAccess r .none 0) s (fun s' =>
    s'.rd .hbmResetDiscard (hbmcOf st l) = (s.rd .hbmResetDiscard (hbmcOf st l) + 1) % 2 ^ 64 ∧
      s'.hbmReads = s.hbmReads ++ [⟨r.tag, 0, false, true⟩] ∧ s.FieldsBut s' [(.hbmResetDiscard, hbmcOf st l, 0)] ∧
      s.Only s' [.regs, .hbmReads]) := by
  have counted : s.FieldsBut (s.cnt .hbmResetDiscard (hbmcOf st l) 0 1) [(.hbmResetDiscard, hbmcOf st l, 0)] :=
    (State.FieldsBut.refl s _).cnt (by simp [h.index]) 1
  refine h.completes ?_
  rw [State.hbmPerform_discards h.place hr]
  exact ⟨State.rd_cnt_same _ _ _ _ _, rfl, counted.congr rfl rfl, ((s.only_cnt _ _ _ _).mono (by decide)).hbmReads (by decide) _⟩

/-- A good line is read as it stands. -/
theorem hbmAccess_read (h : s.HbmServes r st l) (hr : s.hbmReady (hbmcOf st l) = true) (good : s.mark (lineKey st l) = 0) (hw : r.write = false)
    (wait : Fin 191) : Completes (.hbmAccess r .none wait) s (fun s' =>
      s'.hbmReads = s.hbmReads ++ [⟨r.tag, leNat ((List.range r.len).map (fun i => s.byte ((Place.hbm st l).key + i))), false, false⟩] ∧
      s'.rd .hbmRdLines (hbmcOf st l) = (s.rd .hbmRdLines (hbmcOf st l) + 1) % 2 ^ 64 ∧
      s'.rd .hbmRefWaitNs (hbmcOf st l) = (s.rd .hbmRefWaitNs (hbmcOf st l) + wait) % 2 ^ 64 ∧
      s.FieldsBut s' [(.hbmRdLines, hbmcOf st l, 0), (.hbmRefWaitNs, hbmcOf st l, 0)] ∧ s.Only s' [.regs, .act, .hbmReads]) := by
  have waited : s.FieldsBut (s.cnt .hbmRefWaitNs (hbmcOf st l) 0 wait) [(.hbmRdLines, hbmcOf st l, 0), (.hbmRefWaitNs, hbmcOf st l, 0)] :=
    (State.FieldsBut.refl s _).cnt (by simp [h.index]) _
  have fields := (waited.cnt (f := .hbmRdLines) (i := hbmcOf st l) (j := 0) (by simp [h.index]) 1).activity (280 + hbmcOf st l) 9 1
  have only : s.Only ((s.cnt .hbmRefWaitNs (hbmcOf st l) 0 wait).hbmReadCounted (hbmcOf st l)) [.regs, .act] :=
    ((s.only_cnt _ _ _ _).mono (by decide)).trans (State.only_hbmReadCounted _ _)
  refine h.completes ?_
  rw [State.hbmPerform_read h.place hr hw (State.hbmLineFetch_good (s := s.hbmMet st l .none wait) good 0), State.hbmMet_none, if_neg Bool.false_ne_true]
  refine ⟨?_, ?_, ?_, fields.congr rfl rfl, (only.mono (by decide)).hbmReads (by decide) _⟩
  · exact State.hbmReads_hbmAnswered only (by decide) (by decide) _ _ _ _
  · rw [State.rd_hbmAnswered, State.rd_hbmReadCounted, State.rd_cnt_same, State.rd_cnt_ne _ (by decide)]
    rfl
  · rw [State.rd_hbmAnswered, State.rd_hbmReadCounted, State.rd_cnt_ne _ (by decide), State.rd_cnt_same]
    rfl

/-- The bytes of a write take their places in a good line. -/
theorem hbmAccess_write (h : s.HbmServes r st l) (hr : s.hbmReady (hbmcOf st l) = true) (good : s.mark (lineKey st l) = 0) (hw : r.write = true)
    (hp : r.poison = false) (wait : Fin 191) : Completes (.hbmAccess r .none wait) s (fun s' =>
      (∀ i, i < r.len → s'.byte ((Place.hbm st l).key + i) = r.data.getD i 0#8) ∧ s.BytesBut s' (Place.hbm st l).key r.len ∧
      (∀ k, s'.mark k = s.mark k) ∧ s'.rd .hbmWrLines (hbmcOf st l) = (s.rd .hbmWrLines (hbmcOf st l) + 1) % 2 ^ 64 ∧
      (r.len < 64 → s'.rd .hbmRmw (hbmcOf st l) = (s.rd .hbmRmw (hbmcOf st l) + 1) % 2 ^ 64) ∧
      s.FieldsBut s' [(.hbmWrLines, hbmcOf st l, 0), (.hbmRmw, hbmcOf st l, 0), (.hbmRefWaitNs, hbmcOf st l, 0)] ∧
      s.Only s' [.regs, .act, .mem, .ecc]) := by
  obtain ⟨size, inside⟩ := hbmReqOk_write h.ok hw
  rw [← (State.place_hbm h.place).2] at inside
  have stored := State.hbmLineWrite_good (s := s.cnt .hbmRefWaitNs (hbmcOf st l) 0 wait) good inside
  obtain ⟨lines, parts⟩ := (s.cnt .hbmRefWaitNs (hbmcOf st l) 0 wait).rd_hbmWriteCounted (hbmcOf st l) r.data.length
  have waited : s.FieldsBut (s.cnt .hbmRefWaitNs (hbmcOf st l) 0 wait)
      [(.hbmWrLines, hbmcOf st l, 0), (.hbmRmw, hbmcOf st l, 0), (.hbmRefWaitNs, hbmcOf st l, 0)] :=
    (State.FieldsBut.refl s _).cnt (by simp [h.index]) _
  have fields := waited.hbmWriteCounted (c := hbmcOf st l) (by simp [h.index]) (by simp [h.index]) r.data.length
  have counted : s.Only ((s.cnt .hbmRefWaitNs (hbmcOf st l) 0 wait).hbmWriteCounted (hbmcOf st l) r.data.length) [.regs, .act] :=
    ((s.only_cnt _ _ _ _).mono (by decide)).trans (State.only_hbmWriteCounted _ _ _)
  refine h.completes ?_
  rw [State.hbmPerform_write h.place hr hw, State.hbmMet_none, hp, ← size]
  refine ⟨fun i hi => stored.byte_inside hi, State.BytesBut.trans (fun k _ => counted.byte (by decide) k) stored.bytesBut,
    fun k => (stored.mark k).trans (counted.mark (by decide) k), ?_, fun hn => ?_,
    fields.congr (stored.only .regs (by decide)) (stored.only .variant (by decide)), (counted.mono (by decide)).trans (stored.only.mono (by decide))⟩
  · exact (stored.only.rd (by decide) (by decide) _ _ _).trans (lines.trans (by rw [State.rd_cnt_ne _ (by decide)]))
  · exact (stored.only.rd (by decide) (by decide) _ _ _).trans ((parts hn).trans (by rw [State.rd_cnt_ne _ (by decide)]))

theorem hbmAccess_poison (h : s.HbmServes r st l) (hr : s.hbmReady (hbmcOf st l) = true) (good : s.mark (lineKey st l) = 0) (hw : r.write = true)
    (hp : r.poison = true) (wait : Fin 191) : Completes (.hbmAccess r .none wait) s (fun s' =>
      s'.mark (lineKey st l) = 3 ∧ s.BytesBut s' (lineKey st l) 64 ∧ (∀ k, k ≠ lineKey st l → s'.mark k = s.mark k)) := by
  have counted : s.Only ((s.cnt .hbmRefWaitNs (hbmcOf st l) 0 wait).hbmWriteCounted (hbmcOf st l) r.data.length) [.regs, .act] :=
    ((s.only_cnt _ _ _ _).mono (by decide)).trans (State.only_hbmWriteCounted _ _ _)
  refine h.completes ?_
  rw [State.hbmPerform_write h.place hr hw, State.hbmMet_none, hp, State.hbmLineWrite_poison (s := s.cnt .hbmRefWaitNs (hbmcOf st l) 0 wait) good]
  obtain ⟨here, elsewhere⟩ := State.mark_hbmPoisoned ((s.cnt .hbmRefWaitNs (hbmcOf st l) 0 wait).hbmWriteCounted (hbmcOf st l) r.data.length)
    (hbmcOf st l) (lineKey st l)
  exact ⟨here, .trans (fun k _ => counted.byte (by decide) k) (State.bytesBut_hbmPoisoned _ _ _),
    fun k hk => (elsewhere k hk).trans (counted.mark (by decide) k)⟩

/-- An uncorrectable line is delivered as poison. -/
theorem hbmAccess_uncorrectable (h : s.HbmServes r st l) (hr : s.hbmReady (hbmcOf st l) = true) (good : s.mark (lineKey st l) = 0) (hw : r.write = false)
    (hf : ∀ n, r.who ≠ .hf n) (wait : Fin 191) : Completes (.hbmAccess r .uncorrectable wait) s (fun s' =>
      s'.hbmReads = s.hbmReads ++ [⟨r.tag, leNat ((List.range r.len).map (fun i => s.byte ((Place.hbm st l).key + i))), true, false⟩] ∧
      s'.rd .hbmUe (hbmcOf st l) = (s.rd .hbmUe (hbmcOf st l) + 1) % 2 ^ 64 ∧ (∀ k, s'.byte k = s.byte k)) := by
  have met : s.hbmMet st l .uncorrectable wait = (s.cnt .hbmRefWaitNs (hbmcOf st l) 0 wait).setMark (lineKey st l) 2 := by
    have unpoisoned : (s.cnt .hbmRefWaitNs (hbmcOf st l) 0 wait).mark (lineKey st l) ≠ 3 := fun e => absurd (e.symm.trans good) (by decide)
    exact if_neg unpoisoned
  have bad : (s.hbmMet st l .uncorrectable wait).mark (lineKey st l) = 2 := by rw [met, State.mark_setMark_same]
  have fetched := State.hbmLineFetch_uncorrectable bad 0
  have quiet (x : State) : x.Only (x.poisonAnswer r.who) [.mod] := by
    cases hwho : r.who with
    | hf n => exact absurd hwho (hf n)
    | dbg => exact x.only_mod _
    | _ => exact .refl x _
  have noted : (s.hbmMet st l .uncorrectable wait).Only
      (((s.hbmMet st l .uncorrectable wait).hbmReadCounted (hbmcOf st l)).hbmUeNoted (hbmcOf st l) 0 (l / 64) (lineKey st l)) [.regs, .act, .ras, .ic, .adit] :=
    ((State.only_hbmReadCounted _ _).mono (by decide)).trans ((State.only_hbmUeNoted _ _ _ _ _).mono (by decide))
  have begun : s.Only (s.hbmMet st l .uncorrectable wait) [.regs, .ecc] := by
    rw [met]
    exact ((s.only_cnt _ _ _ _).mono (by decide)).setMark (by decide) _ _
  have only := (begun.mono (l' := [.regs, .ecc, .act, .ras, .ic, .adit]) (by decide)).trans (noted.mono (by decide))
  refine h.completes ?_
  rw [State.hbmPerform_read h.place hr hw fetched, if_pos rfl]
  refine ⟨?_, ?_, fun k => ?_⟩
  · rw [quiet _ .hbmReads (by decide)]
    exact State.hbmReads_hbmAnswered only (by decide) (by decide) _ _ _ _
  · rw [(quiet _).rd (by decide) (by decide), State.rd_hbmAnswered, State.rd_hbmUeNoted, State.rd_hbmReadCounted, State.rd_cnt_ne _ (by decide), met,
      State.rd_setMark, State.rd_cnt_ne _ (by decide)]
  · rw [(quiet _).byte (by decide), (State.only_hbmAnswered _ _ _ _ _).byte (by decide), only.byte (by decide)]

end

/-- Settles O30: what becomes of an access by the MPU, the mode of its band, and its controller, and what a good line answers and stores. -/
theorem hbmAccesses : Obligations.HbmAccesses := by
  unfold Obligations.HbmAccesses
  intro r s st l hk hp
  refine ⟨fun c hw hm hc => hbmAccess_blocked hk hw hm hc, fun may => ⟨fun hb => .hbmAccess hk (State.hbmAccess_held may hb _ _), fun hb hr => ?_,
    fun hb hr good => ?_⟩⟩
  · exact hbmAccess_discarded ⟨hk, hp, may, hb⟩ hr
  · have serves : s.HbmServes r st l := ⟨hk, hp, may, hb⟩
    exact ⟨fun hw => hbmAccess_read serves hr good hw, fun hw hq => hbmAccess_write serves hr good hw hq,
      fun hw hq => hbmAccess_poison serves hr good hw hq 0,
      fun hw hf => hbmAccess_uncorrectable serves hr good hw hf 0⟩

end Sys2Proof.Machine
end

section
/-! SUPPORT. Restoring fields to their reset values, and the controllers of HBM in their own reset (R16, R233, R443). -/
namespace Sys2Proof.Machine

/-! ### Restoring -/

theorem slook_sdrop {α : Type} {p : Nat → Bool} {k : Nat} (h : p k = false) (l : List (Nat × α)) : slook k (sdrop p l) = slook k l := by
  induction l with
  | nil => rfl
  | cons e l ih =>
    unfold sdrop at ih ⊢
    by_cases hk : k = e.1
    · simp [← hk, h, slook]
    · by_cases he : p e.1 = true <;> simp [he, slook, hk, ih]

theorem keyField_fkey (f : Field) (i j : Nat) : keyField (fkey f i j) = some f := by
  have index : fkey f i j / 2 ^ 28 = f.idx := by
    unfold fkey
    omega
  rw [keyField, index, Field.all_idx]

theorem keyInst_fkey (f : Field) (i j : Nat) : keyInst (fkey f i j) = i % 65536 := by
  unfold keyInst fkey
  omega

/-- A field that a restoring does not name stays. -/
theorem State.rd_restore_of_not {p : Field → Nat → Bool} {f : Field} {i : Nat} (h : p f (i % 65536) = false) (s : State) (j : Nat) :
    (s.restore p).rd f i j = s.rd f i j := by
  have kept : (keyField (fkey f i j)).any (fun g => p g (keyInst (fkey f i j))) = false := by
    rw [keyField_fkey, keyInst_fkey]
    exact h
  simp only [State.rd, State.restore, slook_sdrop (p := fun k => (keyField k).any fun g => p g (keyInst k)) kept]

theorem State.only_restore (s : State) (p : Field → Nat → Bool) : s.Only (s.restore p) [.regs] := by
  intro q hq
  cases q with
  | regs => simp at hq
  | _ => rfl

theorem hbmcDomain_of_space {f : Field} (h : f.info.space ≠ .hbmc) (c i : Nat) : hbmcDomain c f i = false := by simp [hbmcDomain, h]

/-! ### A controller's own state -/

theorem State.hbmc_onHbmc_same (s : State) (c : Nat) (g : Hbmc → Hbmc) : sget {} c (s.onHbmc c g).hbmcs = g (sget {} c s.hbmcs) := sget_sput_same _ _ _ _

theorem State.hbmc_onHbmc_ne (s : State) {c d : Nat} (h : d ≠ c) (g : Hbmc → Hbmc) : sget {} d (s.onHbmc c g).hbmcs = sget {} d s.hbmcs :=
  sget_sput_ne _ h _ _

theorem State.Only.onHbmc {s a : State} {l : List Part} (h : s.Only a l) (hl : Part.hbmcs ∈ l) (c : Nat) (g : Hbmc → Hbmc) : s.Only (a.onHbmc c g) l :=
  h.trans ((a.only_onHbmc c g).mono (by simpa using hl))

/-- A controller that is not in its own reset sends its errors to the RAS agent. -/
theorem State.only_reportHbm_of_steady {s : State} {c : Nat} (h : (sget {} c s.hbmcs).resetAt = none) (cls code detail : Nat) :
    s.Only (s.reportHbm cls c code detail) [.ras] := by
  have steady : ¬ s.inReset .hbmc c = true := by simp [State.inReset, h]
  refine .ite ?_ (.refl s _)
  rw [State.rasQueue, if_neg steady]
  intro p hp
  cases p with
  | ras => simp at hp
  | _ => rfl

section
variable {s : State} {c : Nat}

/-- A controller that becomes ready, or is no longer, raises its source. -/
def State.hbmRaised (s : State) (c : Nat) (changed : Bool) : State := if changed then s.irq (328 + c) else s

theorem State.only_hbmRaised (s : State) (c : Nat) (changed : Bool) : s.Only (s.hbmRaised c changed) [.regs, .ic, .adit] := .ite (s.only_irq _) (.refl s _)

theorem State.fieldsBut_hbmRaised (s : State) (c : Nat) (changed : Bool) : s.FieldsBut (s.hbmRaised c changed) eventFields :=
  .ite (s.fieldsBut_irq _) (.refl s _)

theorem State.hbmTrained_ready (hc : c < s.variant.hbmcs) (hv : s.rd .tlyStatusDevValid ≠ 0) (hr : (sget {} c s.hbmcs).resetAt = none) :
    s.hbmTrained c = (s.hbmRaised c (!s.hbmReady c)).onHbmc c (fun h => { h with trained := true, selfRefresh := false }) := by
  have valid : s.on .tlyStatusDevValid = true := by simp [State.on, hv]
  simp only [State.hbmTrained, hr, Option.isNone_none, true_or, if_true, State.hbmTrain, hc, valid, true_and, State.hbmRaised]
  cases s.hbmReady c <;> rfl

theorem State.hbmTrained_waits (hv : s.rd .tlyStatusDevValid = 0) (hr : (sget {} c s.hbmcs).resetAt = none) : s.hbmTrained c = s := by
  have invalid : s.on .tlyStatusDevValid = false := by simp [State.on, hv]
  simp [State.hbmTrained, hr, State.hbmTrain, invalid]

/-- A controller's reset discards the accesses that it has accepted and not performed. -/
def State.hbmcDropped (s : State) (c : Nat) : State :=
  ({ s with
      bandHeld := s.bandHeld.filter (fun r => !s.reqTo c r)
      hbmReads := s.hbmReads ++ (s.bandHeld.filter (s.reqTo c)).map (fun r => ⟨r.tag, 0, false, true⟩) } : State).cnt .hbmResetDiscard c 0
    (s.bandHeld.filter (s.reqTo c)).length

theorem State.only_hbmcDropped (s : State) (c : Nat) : s.Only (s.hbmcDropped c) [.regs, .bandHeld, .hbmReads] := by
  intro p hp
  cases p with
  | regs | bandHeld | hbmReads => simp at hp
  | _ => rfl

theorem State.hbmcReset_begins (hc : c < s.variant.hbmcs) (hr : (sget {} c s.hbmcs).resetAt = none) : s.hbmcReset c =
    (((s.hbmcDropped c).hbmRaised c (s.hbmReady c)).onHbmc c (fun h => { h with trained := false, selfRefresh := true, resetAt := some s.tally })).restore
      (hbmcDomain c) := by
  have begins : ¬ ((sget {} c s.hbmcs).resetAt.isSome = true ∨ c ≥ s.variant.hbmcs) := by simp [hr, hc]
  have begun : s.hbmcReset c = (((s.hbmcDropped c).hbmRaised c (s.hbmReady c)).onHbmc c (fun h =>
      { h with trained := false, selfRefresh := true, resetAt := some ((s.hbmcDropped c).hbmRaised c (s.hbmReady c)).tally })).restore (hbmcDomain c) :=
    if_neg begins
  have tally : ((s.hbmcDropped c).hbmRaised c (s.hbmReady c)).tally = s.tally := (State.only_hbmRaised _ _ _) .tally (by decide)
  rw [begun, tally]

end

end Sys2Proof.Machine
end

section
/-! SUPPORT. Band modes (R53, R54): the two bits of a band, and which changes wait. -/
namespace Sys2Proof.Machine

/-! ### Digits of a register -/

/-- A digit depends on the digits up to it alone. -/
theorem digit_eq_of_mod {a b : Nat} (i : Nat) (h : a % 4 ^ (i + 1) = b % 4 ^ (i + 1)) : a / 4 ^ i % 4 = b / 4 ^ i % 4 := by
  rw [← Nat.mod_mul_right_div_self a, ← Nat.mod_mul_right_div_self b, ← Nat.pow_succ, h]

/-- A register with digit i set to m. -/
def withDigit (w i m : Nat) : Nat := w - w / 4 ^ i % 4 * 4 ^ i + m % 4 * 4 ^ i

theorem withDigit_eq (w i m : Nat) : withDigit w i m = w / 4 ^ (i + 1) * 4 ^ (i + 1) + m % 4 * 4 ^ i + w % 4 ^ i := by
  have digits : w = w / 4 ^ (i + 1) * 4 ^ (i + 1) + w / 4 ^ i % 4 * 4 ^ i + w % 4 ^ i :=
    calc w = 4 ^ i * (w / 4 ^ i) + w % 4 ^ i := (Nat.div_add_mod w _).symm
      _ = 4 ^ i * (4 * (w / 4 ^ i / 4) + w / 4 ^ i % 4) + w % 4 ^ i := by rw [Nat.div_add_mod (w / 4 ^ i)]
      _ = w / 4 ^ (i + 1) * 4 ^ (i + 1) + w / 4 ^ i % 4 * 4 ^ i + w % 4 ^ i := by
        rw [Nat.div_div_eq_div_mul, ← Nat.pow_succ]
        ring
  unfold withDigit
  omega

theorem digit_withDigit_same (w i m : Nat) : withDigit w i m / 4 ^ i % 4 = m % 4 := by
  have pos : 0 < 4 ^ i := by positivity
  have shape : withDigit w i m = w % 4 ^ i + 4 ^ i * (4 * (w / 4 ^ (i + 1)) + m % 4) := by
    rw [withDigit_eq, Nat.pow_succ]
    ring
  rw [shape, Nat.add_mul_div_left _ _ pos, Nat.div_eq_of_lt (Nat.mod_lt _ pos)]
  omega

theorem digit_withDigit_ne {i j : Nat} (h : j ≠ i) (w m : Nat) : withDigit w i m / 4 ^ j % 4 = w / 4 ^ j % 4 := by
  have pos : 0 < 4 ^ i := by positivity
  rcases Nat.lt_or_gt_of_ne h with below | above
  · refine digit_eq_of_mod j ?_
    have dvd : 4 ^ (j + 1) ∣ 4 ^ i := Nat.pow_dvd_pow 4 below
    have shape : withDigit w i m = w % 4 ^ i + 4 ^ i * (4 * (w / 4 ^ (i + 1)) + m % 4) := by
      rw [withDigit_eq, Nat.pow_succ]
      ring
    rw [← Nat.mod_mod_of_dvd (withDigit w i m) dvd, ← Nat.mod_mod_of_dvd w dvd, shape, Nat.add_mul_mod_self_left, Nat.mod_mod]
  · obtain ⟨d, rfl⟩ : ∃ d, j = i + 1 + d := ⟨j - (i + 1), by omega⟩
    have small : m % 4 * 4 ^ i + w % 4 ^ i < 4 ^ (i + 1) := by
      have := Nat.mod_lt w pos
      have := Nat.mod_lt m (show 0 < 4 by decide)
      rw [Nat.pow_succ]
      nlinarith
    have high : withDigit w i m / 4 ^ (i + 1) = w / 4 ^ (i + 1) := by
      rw [withDigit_eq, Nat.add_assoc, Nat.add_comm, Nat.add_mul_div_right _ _ (by positivity), Nat.div_eq_of_lt small, Nat.zero_add]
    rw [Nat.pow_add, ← Nat.div_div_eq_div_mul, ← Nat.div_div_eq_div_mul, high]

/-- A band's two bits lie within its field. -/
theorem digit_mod_width {band : Nat} (h : band < 36) (w : Nat) :
    w % 2 ^ (bandField band).info.width / 4 ^ (band % 16) % 4 = w / 4 ^ (band % 16) % 4 := by
  have inside : 2 * (band % 16 + 1) ≤ (bandField band).info.width := by
    unfold bandField
    split_ifs
    · show 2 * (band % 16 + 1) ≤ 32
      omega
    · show 2 * (band % 16 + 1) ≤ 32
      omega
    · show 2 * (band % 16 + 1) ≤ 8
      omega
  refine digit_eq_of_mod _ (Nat.mod_mod_of_dvd _ ?_)
  rw [show (4 : Nat) = 2 ^ 2 from rfl, ← Nat.pow_mul]
  exact Nat.pow_dvd_pow 2 inside

/-! ### Values of bands -/

theorem bandField_eq_iff {a b : Nat} (ha : a < 36) (hb : b < 36) : bandField a = bandField b ↔ a / 16 = b / 16 := by
  unfold bandField
  split_ifs <;> simp only [false_iff, true_iff] <;> omega

theorem State.bandValue_eq (s : State) (band : Nat) : s.bandValue band = s.rd (bandField band) / 4 ^ (band % 16) % 4 := by
  unfold State.bandValue bandField
  split_ifs <;> rfl

theorem State.bandStore_eq (s : State) (band m : Nat) :
    s.bandStore band m = s.wr (bandField band) 0 0 (withDigit (s.rd (bandField band)) (band % 16) m) := rfl

theorem State.bandValue_bandStore_same {band : Nat} (h : band < 36) (s : State) (m : Nat) : (s.bandStore band m).bandValue band = m % 4 := by
  rw [State.bandValue_eq, State.bandStore_eq, State.rd_wr_same, digit_mod_width h, digit_withDigit_same]

theorem State.bandValue_bandStore_ne {band other : Nat} (h : band < 36) (ho : other < 36) (hne : other ≠ band) (s : State) (m : Nat) :
    (s.bandStore band m).bandValue other = s.bandValue other := by
  rw [State.bandValue_eq, State.bandValue_eq, State.bandStore_eq]
  by_cases e : bandField other = bandField band
  · have place : other % 16 ≠ band % 16 := by
      have := (bandField_eq_iff ho h).1 e
      omega
    have inField := digit_mod_width ho (withDigit (s.rd (bandField band)) (band % 16) m)
    rw [e] at inField ⊢
    rw [State.rd_wr_same, inField, digit_withDigit_ne place]
  · rw [State.rd_wr_ne _ e]

/-! ### Entries of a list by key -/

theorem slook_eq_none_iff {α : Type} {k : Nat} {l : List (Nat × α)} : slook k l = none ↔ ∀ x, (k, x) ∉ l := by
  induction l with
  | nil => simp [slook]
  | cons e l ih =>
    obtain ⟨j, y⟩ := e
    by_cases h : k = j
    · simp only [slook, h, if_true, reduceCtorEq, false_iff, not_forall, not_not]
      exact ⟨y, List.mem_cons_self⟩
    · simp [slook, h, ih]

theorem mem_of_slook {α : Type} {k : Nat} {x : α} {l : List (Nat × α)} (h : slook k l = some x) : (k, x) ∈ l := by
  induction l with
  | nil => cases h
  | cons e l ih =>
    obtain ⟨j, y⟩ := e
    by_cases hk : k = j
    · simp only [slook, hk, if_true, Option.some.injEq] at h
      simp [hk, h]
    · simp only [slook, hk, if_false] at h
      exact List.mem_cons_of_mem _ (ih h)

theorem slook_concat {α : Type} (k j : Nat) (x : α) (l : List (Nat × α)) :
    slook k (l ++ [(j, x)]) = (slook k l).or (if k = j then some x else none) := by
  induction l with
  | nil => simp [slook]
  | cons e l ih =>
    by_cases h : k = e.1
    · simp [slook, h]
    · simp [slook, h, ih]

theorem any_key_iff {α : Type} {k : Nat} {l : List (Nat × α)} : l.any (fun e => e.1 == k) = true ↔ (slook k l).isSome = true := by
  rw [Option.isSome_iff_ne_none, ne_eq, slook_eq_none_iff]
  simp

/-! ### Requests (R54) -/

/-- The value in force for a band. -/
def State.bandInForce (s : State) (band : Nat) : Nat := (slook band s.bandNext).getD (s.bandValue band)

/-- What a release does while no access is held. -/
theorem State.bandRelease_idle {s : State} (h : s.bandHeld = []) (band : Nat) :
    s.bandRelease band = { s with bandNext := s.bandNext.filter (fun p => p.1 != band) } := by
  unfold State.bandRelease
  simp [h]

theorem State.only_bandNext (s : State) (l : List (Nat × Nat)) : s.Only { s with bandNext := l } [.bandNext] := by
  intro p hp
  cases p with
  | bandNext => simp at hp
  | _ => rfl

/-- The changes that wait after a value has been written for a band. -/
def State.bandsWaiting (s : State) (band m : Nat) : List (Nat × Nat) :=
  if m % 4 = s.bandInForce band then s.bandNext.filter (fun p => p.1 != band)
  else if s.bandNext.any (fun p => p.1 == band) then s.bandNext
  else s.bandNext ++ [(band, s.bandInForce band)]

theorem State.bandRequest_eq {s : State} (h : s.bandHeld = []) (band m : Nat) :
    s.bandRequest band m = { s.bandStore band m with bandNext := s.bandsWaiting band m } := by
  by_cases same : m % 4 = s.bandInForce band
  · have released : s.bandRequest band m = (s.bandStore band m).bandRelease band := if_pos same
    rw [released, State.bandRelease_idle (s := s.bandStore band m) h, State.bandsWaiting, if_pos same]
    rfl
  · have asked : s.bandRequest band m = if s.bandNext.any (fun p => p.1 == band) then s.bandStore band m
        else { s.bandStore band m with bandNext := s.bandNext ++ [(band, s.bandInForce band)] } := if_neg same
    rw [asked, State.bandsWaiting, if_neg same]
    split_ifs <;> rfl

/-- A value written that differs from the one in force waits; one that restores it ends the wait. -/
theorem State.slook_bandsWaiting_same (s : State) (band m : Nat) :
    slook band (s.bandsWaiting band m) = if m % 4 = s.bandInForce band then none else some (s.bandInForce band) := by
  unfold State.bandsWaiting
  split_ifs with same waits
  · exact slook_drop_same _ _
  · obtain ⟨x, hx⟩ := Option.isSome_iff_exists.1 (any_key_iff.1 waits)
    rw [State.bandInForce, hx]
    rfl
  · have none : slook band s.bandNext = none := Option.not_isSome_iff_eq_none.1 fun e => waits (any_key_iff.2 e)
    rw [slook_concat, none, if_pos rfl]
    rfl

theorem State.slook_bandsWaiting_ne {band other : Nat} (h : other ≠ band) (s : State) (m : Nat) :
    slook other (s.bandsWaiting band m) = slook other s.bandNext := by
  unfold State.bandsWaiting
  split_ifs
  · exact slook_drop_ne h _
  · rfl
  · rw [slook_concat, if_neg h, Option.or_none]

/-! ### A write of a register of 16 bands -/

/-- A band's field holds the value m, and the band waits unless that is the value which was in force in s. -/
structure State.BandWritten (s a : State) (band m : Nat) : Prop where
  value : a.bandValue band = m
  waits : slook band a.bandNext = if m = s.bandInForce band then none else some (s.bandInForce band)

/-- A band is as before. -/
structure State.BandKept (s a : State) (band : Nat) : Prop where
  value : a.bandValue band = s.bandValue band
  waits : slook band a.bandNext = slook band s.bandNext

theorem State.BandKept.inForce {s a : State} {band : Nat} (h : s.BandKept a band) : a.bandInForce band = s.bandInForce band := by
  rw [State.bandInForce, h.value, h.waits]
  rfl

theorem State.bandRequest_written {s : State} (h : s.bandHeld = []) {band m : Nat} (hb : band < 36) (hm : m < 4) :
    s.BandWritten (s.bandRequest band m) band m := by
  have fits : m % 4 = m := Nat.mod_eq_of_lt hm
  have waits := s.slook_bandsWaiting_same band m
  have value := State.bandValue_bandStore_same hb s m
  rw [fits] at waits value
  rw [State.bandRequest_eq h]
  exact ⟨value, waits⟩

theorem State.bandRequest_kept {s : State} (h : s.bandHeld = []) {band other : Nat} (hb : band < 36) (ho : other < 36) (hne : other ≠ band) (m : Nat) :
    s.BandKept (s.bandRequest band m) other := by
  rw [State.bandRequest_eq h]
  exact ⟨State.bandValue_bandStore_ne hb ho hne s m, State.slook_bandsWaiting_ne hne s m⟩

theorem State.only_bandRequest {s : State} (h : s.bandHeld = []) (band m : Nat) : s.Only (s.bandRequest band m) [.regs, .bandNext] := by
  rw [State.bandRequest_eq h]
  exact ((s.only_wr _ _ _ _).mono (by decide)).trans ((State.only_bandNext _ _).mono (by decide))

theorem State.FieldsBut.bandRequest {s a : State} {l : List (Field × Nat × Nat)} (h : s.FieldsBut a l) (ha : a.bandHeld = []) {band : Nat}
    (hm : (bandField band, 0, 0) ∈ l) (m : Nat) : s.FieldsBut (a.bandRequest band m) l := by
  rw [State.bandRequest_eq ha]
  exact (h.wr (i := 0) (j := 0) hm _).congr rfl rfl

/-- The first n bands of a register are written. -/
def State.bandsWritten (s : State) (reg v n : Nat) : State := (List.range n).foldl (fun s k => s.bandRequest (16 * reg + k) (v / 4 ^ k % 4)) s

theorem State.bandsWritten_succ (s : State) (reg v n : Nat) :
    s.bandsWritten reg v (n + 1) = (s.bandsWritten reg v n).bandRequest (16 * reg + n) (v / 4 ^ n % 4) := by
  simp [State.bandsWritten, List.range_succ]

section
variable {s : State} {reg : Nat} (h : s.bandHeld = []) (v : Nat)
include h

theorem State.only_bandsWritten (n : Nat) : s.Only (s.bandsWritten reg v n) [.regs, .bandNext] := by
  induction n with
  | zero => exact .refl s _
  | succ n ih =>
    rw [State.bandsWritten_succ]
    exact ih.trans (State.only_bandRequest ((ih .bandHeld (by decide)).trans h) _ _)

theorem State.bandHeld_bandsWritten (n : Nat) : (s.bandsWritten reg v n).bandHeld = [] := (State.only_bandsWritten h v n .bandHeld (by decide)).trans h

theorem State.fieldsBut_bandsWritten {n : Nat} (hn : n ≤ 16) (hr : reg < 3) : s.FieldsBut (s.bandsWritten reg v n) [(bandField (16 * reg), 0, 0)] := by
  induction n with
  | zero => exact .refl s _
  | succ n ih =>
    have field : bandField (16 * reg + n) = bandField (16 * reg) := by
      unfold bandField
      split_ifs <;> first | rfl | omega
    rw [State.bandsWritten_succ]
    exact (ih (by omega)).bandRequest (State.bandHeld_bandsWritten h v n) (by simp [field]) _

/-- Each of the bands holds its own two bits of the value; the others are as before. -/
theorem State.bandsWritten_spec {n : Nat} (hn : 16 * reg + n ≤ 36) {band : Nat} (hb : band < 36) :
    if 16 * reg ≤ band ∧ band < 16 * reg + n then s.BandWritten (s.bandsWritten reg v n) band (v / 4 ^ (band - 16 * reg) % 4)
    else s.BandKept (s.bandsWritten reg v n) band := by
  induction n with
  | zero =>
    rw [if_neg (by omega)]
    exact ⟨rfl, rfl⟩
  | succ n ih =>
    have before := ih (by omega)
    have idle := State.bandHeld_bandsWritten (reg := reg) h v n
    rw [State.bandsWritten_succ]
    by_cases last : band = 16 * reg + n
    · have now := State.bandRequest_written (band := 16 * reg + n) (m := v / 4 ^ n % 4) idle (by omega) (Nat.mod_lt _ (by decide))
      rw [if_neg (by omega)] at before
      rw [if_pos (by omega), last, Nat.add_sub_cancel_left]
      rw [last] at before
      exact ⟨now.value, before.inForce ▸ now.waits⟩
    · have kept := State.bandRequest_kept idle (show 16 * reg + n < 36 by omega) hb last (v / 4 ^ n % 4)
      by_cases inside : 16 * reg ≤ band ∧ band < 16 * reg + n
      · rw [if_pos inside] at before
        rw [if_pos (by omega)]
        exact ⟨kept.value.trans before.value, kept.waits.trans before.waits⟩
      · rw [if_neg inside] at before
        rw [if_neg (by omega)]
        exact ⟨kept.value.trans before.value, kept.waits.trans before.waits⟩

end

end Sys2Proof.Machine
end

section
/-! SUPPORT. Held accesses that go (R54): which parts an access at a controller may change, in a line of any state. -/
namespace Sys2Proof.Machine

/-- What an access may change at its controller, or where it is not decoded any more. -/
def hbmParts : List Part := [.act, .ecc, .hbmReads, .mod] ++ faultParts

theorem State.only_hbmLineRead (s : State) (st l source : Nat) : s.Only (s.hbmLineRead st l source).1 hbmParts := by
  have corrected (symbols : Nat) : s.Only (((s.cnt .hbmCe (hbmcOf st l) 0 1).hbmRecord (hbmcOf st l) false source symbols (l / 64)).reportHbm 0
      (hbmcOf st l) 1 (lineKey st l)) hbmParts :=
    (((s.only_cnt _ _ _ _).mono (by decide)).trans ((State.frame_hbmRecord _ _ _ _ _ _).only.mono (by decide))).trans
      ((State.frame_reportHbm _ _ _ _ _).only.mono (by decide))
  have noted (x : State) : x.Only (x.hbmUeNoted (hbmcOf st l) source (l / 64) (lineKey st l)) hbmParts :=
    (x.only_hbmUeNoted _ _ _ _).mono (by decide)
  have poisoned : s.Only (if s.mark (lineKey st l) = 3 then s.cnt .hbmPoisonRd (hbmcOf st l) 0 1 else s) hbmParts :=
    .ite ((s.only_cnt _ _ _ _).mono (by decide)) (.refl s _)
  by_cases good : s.mark (lineKey st l) = 0
  · rw [State.hbmLineRead_good good]
    exact .refl s _
  by_cases ce : s.mark (lineKey st l) = 1 ∨ s.mark (lineKey st l) = 5
  · rw [State.hbmLineRead_correctable ce]
    exact (corrected _).setMark (by decide) _ _
  · rw [State.hbmLineRead_bad good ce]
    exact poisoned.trans (noted _)

theorem State.only_hbmPoisoned (s : State) (c k : Nat) : s.Only (s.hbmPoisoned c k) hbmParts :=
  (((State.Only.refl s _).setBytes (by decide) _ _).setMark (by decide) _ _).trans ((State.only_cnt _ _ _ _ _).mono (by decide))

theorem State.only_hbmLineWrite (s : State) (st l : Nat) (bs : List Byte) (poison : Bool) : s.Only (s.hbmLineWrite st l bs poison) hbmParts := by
  have counted (x : State) (f : Field) : x.Only ((x.cnt f (hbmcOf st l) 0 1).activity (280 + hbmcOf st l) 9 1) hbmParts :=
    ((x.only_cnt _ _ _ _).mono (by decide)).trans ((State.only_activity _ _ _ _).mono (by decide))
  have once := counted s .hbmWrLines
  have twice := once.trans (counted _ .hbmRmw)
  unfold State.hbmLineWrite
  dsimp only
  split_ifs
  · exact once.trans (State.only_hbmPoisoned _ _ _)
  · exact (once.setBytes (by decide) _ _).setMark (by decide) _ _
  · exact (twice.trans ((State.only_hbmUeNoted _ _ _ _ _).mono (by decide))).setMark (by decide) _ _
  · exact (twice.trans (State.only_hbmLineRead _ _ _ _)).trans (State.only_hbmPoisoned _ _ _)
  · exact (twice.trans (State.only_hbmLineRead _ _ _ _)).setBytes (by decide) _ _

theorem State.only_poisonAnswer (s : State) (who : Requester) : s.Only (s.poisonAnswer who) hbmParts := by
  cases who with
  | hf n => exact (s.frame_busFault n).only.mono (by decide)
  | dbg => exact (s.only_mod _).mono (by decide)
  | _ => exact .refl s _

theorem State.only_hbmPerform (s : State) (r : HbmReq) (wait : Nat) : s.Only (s.hbmPerform r .none wait) hbmParts := by
  unfold State.hbmPerform
  split
  · next st l hp =>
    have waited : s.Only (s.cnt .hbmRefWaitNs (hbmcOf st l) 0 wait) hbmParts := (s.only_cnt _ _ _ _).mono (by decide)
    have fetched : s.Only ((s.cnt .hbmRefWaitNs (hbmcOf st l) 0 wait).hbmLineFetch st l 0).1 hbmParts :=
      (waited.trans ((State.only_hbmReadCounted _ (hbmcOf st l)).mono (by decide))).trans (State.only_hbmLineRead _ _ _ _)
    have answered (x : List ReadDone) := fetched.hbmReads (by decide) x
    exact .ite (((s.only_cnt _ _ _ _).mono (by decide)).hbmReads (by decide) _)
      (.ite (waited.trans (State.only_hbmLineWrite _ _ _ _ _)) (.ite ((answered _).trans (State.only_poisonAnswer _ _)) (answered _)))
  · exact ((s.frame_decodeError _ _).only.mono (by decide)).hbmReads (by decide) _

/-- A release puts the value written in force and lets the band's accesses go. -/
theorem State.bandRelease_spec (s : State) (band : Nat) : (s.bandRelease band).bandNext = s.bandNext.filter (fun p => p.1 != band) ∧
    (s.bandRelease band).bandHeld = s.bandHeld.filter (fun r => s.bandOf r.addr != band) := by
  have released := State.Only.foldl (f := fun s r => s.hbmPerform r .none 0)
    (.refl ({ s with
      bandNext := s.bandNext.filter (fun p => p.1 != band)
      bandHeld := s.bandHeld.filter (fun r => s.bandOf r.addr != band) } : State) hbmParts)
    (fun x r => x.only_hbmPerform r 0) (s.bandHeld.filter (fun r => s.bandOf r.addr == band))
  exact ⟨released .bandNext (by decide), released .bandHeld (by decide)⟩

end Sys2Proof.Machine
end

section
/-! PROOF. Controllers of HBM and band modes (R54, R229, R232, R233, R443). -/
namespace Sys2Proof.Machine

theorem hbmc_mod (c : HbmcId) : c.val % 65536 = c.val := by omega

section
variable {c : HbmcId} {s : State}

/-! ### Refresh and scrub (R229, R232) -/

theorem hbmRefresh_counts (h : s.hbmRuns c = true) :
    Runs (.hbmRefresh c) s [.regs] [(.hbmRefresh, c, 0)] (fun s' => s'.rd .hbmRefresh c = (s.rd .hbmRefresh c + 1) % 2 ^ 64) := by
  have e : s.hbmRefresh c = s.cnt .hbmRefresh c 0 1 := if_pos h
  exact ⟨_, rfl, e ▸ ⟨s.only_cnt _ _ _ _, (State.FieldsBut.refl s _).cnt (by simp [hbmc_mod]) 1, State.rd_cnt_same _ _ _ _ _⟩⟩

/-- A line without errors is scrubbed. -/
theorem hbmScrub_reads (h : s.hbmRuns c = true) (he : s.rd .hbmScrubCfgEn c ≠ 0)
    (due : s.tally ≥ (sget {} c.val s.hbmcs).scrubAt + max 1 (s.rd .hbmScrubCfgIntervalNs c)) (good : ∀ k, s.mark k = 0) :
    Runs (.hbmScrubLineRead c .none) s [.regs, .hbmcs, .act] [(.hbmScrubLines, c, 0)] (fun s' =>
      sget {} c.val s'.hbmcs = { sget {} c.val s.hbmcs with
        scrubLine := ((sget {} c.val s.hbmcs).scrubLine + 1) % 301989888, scrubAt := s.tally } ∧
      s'.rd .hbmScrubLines c = (s.rd .hbmScrubLines c + 1) % 2 ^ 64) := by
  have counted := s.only_activity (280 + c) 9 1
  have clean (l : Nat) : ((s.activity (280 + c) 9 1).hbmLineRead (c / 2) l 1).1 = s.activity (280 + c) 9 1 :=
    congrArg Prod.fst (State.hbmLineRead_good ((counted.mark (by decide) _).trans (good _)) 1)
  have waits : ¬ ((!s.hbmRuns c) = true ∨ (!s.on .hbmScrubCfgEn c) = true ∨
      s.tally < (sget {} c.val s.hbmcs).scrubAt + max 1 (s.rd .hbmScrubCfgIntervalNs c)) := by
    simp [h, State.on, he, due]
  have e : s.hbmScrub c .none = ((s.activity (280 + c) 9 1).onHbmc c (fun h =>
      { h with scrubLine := (h.scrubLine + 1) % 301989888, scrubAt := (s.activity (280 + c) 9 1).tally })).cnt .hbmScrubLines c 0 1 := by
    refine (if_neg waits).trans ?_
    simp only [State.upsetLine, clean]
  have tally : (s.activity (280 + c) 9 1).tally = s.tally := counted .tally (by decide)
  have hbmcs : (s.activity (280 + c) 9 1).hbmcs = s.hbmcs := counted .hbmcs (by decide)
  have line := (s.activity (280 + c) 9 1).hbmc_onHbmc_same c (fun h => { h with scrubLine := (h.scrubLine + 1) % 301989888, scrubAt := s.tally })
  have fields : s.FieldsBut (s.activity (280 + c) 9 1) [(.hbmScrubLines, c, 0)] := (State.FieldsBut.refl s _).activity _ _ _
  rw [hbmcs] at line
  rw [tally] at e
  refine ⟨_, rfl, e ▸ ⟨?_, (fields.congr rfl rfl).cnt (by simp [hbmc_mod]) 1, line, ?_⟩⟩
  · exact ((counted.mono (by decide)).onHbmc (by decide) _ _).trans ((State.only_cnt _ _ _ _ _).mono (by decide))
  · rw [State.rd_cnt_same, State.rd_onHbmc, State.rd_activity]
    rfl

/-! ### Training and reset (R233, R443) -/

theorem hbmTrained_readies (hc : c.val < s.variant.hbmcs) (hv : s.rd .tlyStatusDevValid ≠ 0) (hr : (sget {} c.val s.hbmcs).resetAt = none) :
    Completes (.hbmTrained c) s (fun s' =>
      sget {} c.val s'.hbmcs = { sget {} c.val s.hbmcs with trained := true, selfRefresh := false } ∧
      (∀ d, d ≠ c.val → sget {} d s'.hbmcs = sget {} d s.hbmcs) ∧ s.FieldsBut s' eventFields ∧ s.Only s' [.regs, .hbmcs, .ic, .adit]) := by
  have raised := s.only_hbmRaised c (!s.hbmReady c)
  have hbmcs : (s.hbmRaised c (!s.hbmReady c)).hbmcs = s.hbmcs := raised .hbmcs (by decide)
  refine ⟨_, rfl, ?_⟩
  rw [State.hbmTrained_ready hc hv hr]
  refine ⟨?_, fun d hd => ?_, (s.fieldsBut_hbmRaised _ _).congr rfl rfl, (raised.mono (by decide)).onHbmc (by decide) _ _⟩
  · rw [State.hbmc_onHbmc_same, hbmcs]
  · rw [State.hbmc_onHbmc_ne _ hd, hbmcs]

theorem hbmcReset_discards (hc : c.val < s.variant.hbmcs) (hr : (sget {} c.val s.hbmcs).resetAt = none) : Completes (.hbmcReset c) s (fun s' =>
    sget {} c.val s'.hbmcs = { sget {} c.val s.hbmcs with trained := false, selfRefresh := true, resetAt := some s.tally } ∧
    (∀ d, d ≠ c.val → sget {} d s'.hbmcs = sget {} d s.hbmcs) ∧
    (∀ f i j, f.info.space ≠ .hbmc → (f, 0, 0) ∉ eventFields → s'.rd f i j = s.rd f i j) ∧
    s'.bandHeld = s.bandHeld.filter (fun r => !s.reqTo c r) ∧
    s'.hbmReads = s.hbmReads ++ (s.bandHeld.filter (s.reqTo c)).map (fun r => ⟨r.tag, 0, false, true⟩) ∧
    s.Only s' [.regs, .hbmcs, .bandHeld, .hbmReads, .ic, .adit]) := by
  have dropped := s.only_hbmcDropped c
  have raised := (s.hbmcDropped c).only_hbmRaised c (s.hbmReady c)
  have fields := (s.hbmcDropped c).fieldsBut_hbmRaised c (s.hbmReady c)
  have hbmcs : ((s.hbmcDropped c).hbmRaised c (s.hbmReady c)).hbmcs = s.hbmcs := raised .hbmcs (by decide)
  have restored (x : State) := x.only_restore (hbmcDomain c)
  refine ⟨_, rfl, ?_⟩
  rw [State.hbmcReset_begins hc hr]
  refine ⟨?_, fun d hd => ?_, fun f i j hs hf => ?_, (raised .bandHeld (by decide)), raised .hbmReads (by decide), ?_⟩
  · rw [restored _ .hbmcs (by decide), State.hbmc_onHbmc_same, hbmcs]
  · rw [restored _ .hbmcs (by decide), State.hbmc_onHbmc_ne _ hd, hbmcs]
  · have named : f ∉ eventFields.map Prod.fst := fun hm => by
      obtain ⟨e, he, rfl⟩ := List.mem_map.1 hm
      have place : ∀ e ∈ eventFields, e = (e.1, 0, 0) := by decide
      exact hf (place e he ▸ he)
    have counted : f ≠ .hbmResetDiscard := fun e => hs (e ▸ rfl)
    rw [State.rd_restore_of_not (hbmcDomain_of_space hs _ _), State.rd_onHbmc, fields.rd named, State.hbmcDropped, State.rd_cnt_ne _ counted]
    rfl
  · exact (((dropped.mono (by decide)).trans (raised.mono (by decide))).onHbmc (by decide) _ _).trans ((restored _).mono (by decide))

theorem hbmTrainingLoss_ends (h : s.hbmReady c = true) (hr : (sget {} c.val s.hbmcs).resetAt = none) : Completes (.hbmTrainingLoss c) s (fun s' =>
    sget {} c.val s'.hbmcs = { sget {} c.val s.hbmcs with trained := false } ∧
    (∀ d, d ≠ c.val → sget {} d s'.hbmcs = sget {} d s.hbmcs) ∧ s.FieldsBut s' eventFields ∧ s.Only s' [.regs, .hbmcs, .ic, .adit, .ras]) := by
  have e : s.trainingLoss c = ((s.onHbmc c (fun h => { h with trained := false })).irq (328 + c)).reportHbm 2 c 5 s.tally := if_neg (by simp [h])
  have raised := (s.onHbmc c (fun h => { h with trained := false })).only_irq (328 + c)
  have same := s.hbmc_onHbmc_same c (fun h => { h with trained := false })
  have hbmcs : ((s.onHbmc c (fun h => { h with trained := false })).irq (328 + c)).hbmcs = (s.onHbmc c (fun h => { h with trained := false })).hbmcs :=
    raised .hbmcs (by decide)
  have steady : (sget {} c.val ((s.onHbmc c (fun h => { h with trained := false })).irq (328 + c)).hbmcs).resetAt = none := by rw [hbmcs, same, hr]
  have told := State.only_reportHbm_of_steady steady 2 5 s.tally
  have fields : s.FieldsBut ((s.onHbmc c (fun h => { h with trained := false })).irq (328 + c)) eventFields :=
    .trans (.congr (.refl s _) rfl rfl) (State.fieldsBut_irq _ _)
  refine ⟨_, rfl, ?_⟩
  rw [e]
  refine ⟨?_, fun d hd => ?_, fields.congr (told .regs (by decide)) (told .variant (by decide)), ?_⟩
  · rw [told .hbmcs (by decide), hbmcs, same]
  · rw [told .hbmcs (by decide), hbmcs, State.hbmc_onHbmc_ne _ hd]
  · exact (((s.only_onHbmc _ _).mono (by decide)).trans (raised.mono (by decide))).trans (told.mono (by decide))

end

/-! ### Band modes (R54) -/

theorem hbmBandModeWrite_stores (reg : Fin 3) (v : Nat) {s : State} (h : s.bandHeld = []) :
    Runs (.hbmBandModeWrite reg v) s [.regs, .bandNext] [(bandField (16 * reg.val), 0, 0)] (fun s' =>
      ∀ band, reg.val * 16 ≤ band → band < min (reg.val * 16 + 16) 36 →
        let old := (slook band s.bandNext).getD (s.bandValue band)
        let new := v / 4 ^ (band % 16) % 4
        s'.rd (bandField band) / 4 ^ (band % 16) % 4 = new ∧
        (new = old → ∀ m, (band, m) ∉ s'.bandNext) ∧ (new ≠ old → (band, old) ∈ s'.bandNext)) := by
  obtain ⟨n, hn, most, rest⟩ : ∃ n, (if reg.val = 2 then 4 else 16) = n ∧ n ≤ 16 ∧ 16 * reg.val + n = min (reg.val * 16 + 16) 36 := by
    refine ⟨_, rfl, ?_, ?_⟩ <;> split_ifs <;> omega
  have e : s.bandModeWrite reg v = s.bandsWritten reg v n := by rw [← hn]; rfl
  refine ⟨_, rfl, ?_⟩
  rw [e]
  refine ⟨State.only_bandsWritten h v n, State.fieldsBut_bandsWritten h v most reg.isLt, fun band low high => ?_⟩
  have spec := State.bandsWritten_spec h (reg := reg.val) (n := n) v (by omega) (band := band) (by omega)
  rw [if_pos (by omega), show band - 16 * reg.val = band % 16 by omega] at spec
  obtain ⟨value, waits⟩ := spec
  refine ⟨(State.bandValue_eq _ _).symm.trans value, fun same => ?_, fun differs => mem_of_slook ?_⟩
  · exact slook_eq_none_iff.1 (waits.trans (if_pos same))
  · exact waits.trans (if_neg differs)

theorem bandModeSwitch_releases {band m : Nat} {rest : List (Nat × Nat)} {s : State} (h : s.bandNext = (band, m) :: rest) :
    Completes .bandModeSwitch s (fun s' => s'.bandNext = rest.filter (fun e => e.1 != band) ∧
      s'.bandHeld = s.bandHeld.filter (fun r => s.bandOf r.addr != band)) ∧
    (s.bandHeld = [] → Runs .bandModeSwitch s [.regs, .bandNext] [(.hbmBandRemap, 0, 0)] (fun s' =>
      s'.rd .hbmBandRemap = (s.rd .hbmBandRemap + 1) % 2 ^ 64)) := by
  have e : s.bandSwitch = (s.bump .hbmBandRemap).bandRelease band := by
    unfold State.bandSwitch
    rw [h]
  obtain ⟨next, held⟩ := (s.bump .hbmBandRemap).bandRelease_spec band
  refine ⟨⟨_, rfl, e ▸ ⟨next.trans ?_, held⟩⟩, fun idle => ⟨_, rfl, ?_⟩⟩
  · show s.bandNext.filter _ = _
    simp [h]
  · rw [e, State.bandRelease_idle (s := s.bump .hbmBandRemap) idle]
    exact ⟨((s.only_bump _).mono (by decide)).trans ((State.only_bandNext _ _).mono (by decide)), (s.fieldsBut_bump _).congr rfl rfl, s.rd_bump_same _⟩

/-- Settles O31: what refresh, scrub, training, its loss and the controller's own reset do, and which band modes a write and a switch leave in force. -/
theorem hbmUpkeep : Obligations.HbmUpkeep := by
  unfold Obligations.HbmUpkeep
  refine ⟨fun c s runs => ⟨hbmRefresh_counts runs, hbmScrub_reads runs⟩,
    fun c s present => ⟨hbmTrained_readies present, fun invalid steady => ⟨_, rfl, State.hbmTrained_waits invalid steady⟩,
      hbmcReset_discards present, hbmTrainingLoss_ends⟩,
    fun reg v s idle => hbmBandModeWrite_stores reg v idle, fun band m rest s next => bandModeSwitch_releases next⟩

end Sys2Proof.Machine
end

section
/-! SUPPORT. Little-endian numbers in memory (R10), and the response that firmware writes (R357, R358, R362). -/
namespace Sys2Proof.Machine

/-! ### Little-endian numbers -/

theorem length_natLe (n v : Nat) : (natLe n v).length = n := by
  induction n generalizing v with
  | zero => rfl
  | succ n ih => simp [natLe, ih]

theorem leNat_natLe (n v : Nat) : leNat (natLe n v) = v % 256 ^ n := by
  induction n generalizing v with
  | zero => simp [natLe, leNat, Nat.mod_one]
  | succ n ih =>
    rw [natLe, leNat, ih, BitVec.toNat_ofNat, show 256 ^ (n + 1) = 256 * 256 ^ n from Nat.pow_succ']
    exact Nat.mod_mul.symm

theorem leNat_lt (l : List Byte) : leNat l < 256 ^ l.length := by
  induction l with
  | nil => simp [leNat]
  | cons b l ih =>
    have := b.isLt
    rw [leNat, List.length_cons, Nat.pow_succ]
    omega

theorem State.length_bytes (s : State) (k n : Nat) : (s.bytes k n).length = n := by simp [State.bytes]

theorem State.reqNat_lt (s : State) (c off n : Nat) : s.reqNat c off n < 256 ^ n := by
  have bound := leNat_lt (s.bytes (mbxKey c (0x40 + off)) n)
  rwa [State.length_bytes] at bound

/-- Bytes that have been written read as written. -/
theorem State.bytes_setBytes (s : State) (k : Nat) {l : List Byte} {o n : Nat} (h : o + n ≤ l.length) :
    (s.setBytes k l).bytes (k + o) n = (l.drop o).take n := by
  refine List.ext_getElem? fun i => ?_
  rw [State.bytes, List.getElem?_map, List.getElem?_take, List.getElem?_drop]
  by_cases hi : i < n
  · rw [if_pos hi, List.getElem?_range hi, Option.map_some, State.byte_setBytes, if_pos (by omega), show k + o + i - k = o + i by omega,
      List.getElem?_eq_getElem (by omega), Option.getD_some]
  · rw [if_neg hi, List.getElem?_eq_none (by simpa using hi), Option.map_none]

theorem State.Only.bytes {s a : State} {l : List Part} (h : s.Only a l) (hl : Part.mem ∉ l) (k n : Nat) : a.bytes k n = s.bytes k n := by
  simp only [State.bytes, h.byte hl]

/-- A field among the bytes of a list of fields. -/
theorem fieldBytes_field {l : List (Nat × Nat)} {i v n : Nat} (h : l[i]? = some (v, n)) (rest : List Byte) :
    ((fieldBytes l ++ rest).drop ((l.take i).map Prod.snd).sum).take n = natLe n v := by
  induction l generalizing i with
  | nil => simp at h
  | cons e l ih =>
    have first : fieldBytes (e :: l) ++ rest = natLe e.2 e.1 ++ (fieldBytes l ++ rest) := by simp [fieldBytes]
    rw [first]
    cases i with
    | zero =>
      obtain rfl : e = (v, n) := by simpa using h
      exact List.take_left' (length_natLe _ _)
    | succ i =>
      rw [List.take_succ_cons, List.map_cons, List.sum_cons, ← List.drop_drop, List.drop_left' (length_natLe _ _)]
      exact ih (by simpa using h)

theorem length_fieldBytes (l : List (Nat × Nat)) : (fieldBytes l).length = (l.map Prod.snd).sum := by
  induction l with
  | nil => rfl
  | cons e l ih => simp [fieldBytes, length_natLe]

theorem mbxKey_add (c o i : Nat) : mbxKey c (o + i) = mbxKey c o + i := by
  unfold mbxKey
  omega

/-! ### The response -/

/-- The state in which firmware answers: before any HELLO the version pair is a free value. -/
def State.respBase (s : State) : State := if s.mbx.pair.isSome then s else s.takeFree.2

/-- The version pair of a response. -/
def State.respPair (s : State) : Nat := s.mbx.pair.getD (s.takeFree.1 % 2 ^ 16)

/-- The fields of a response's header, with their sizes (R362). -/
def State.respFields (s : State) (c comp stamp status len : Nat) : List (Nat × Nat) :=
  [(s.reqNat c 0 2, 2), (s.respPair, 2), (s.reqNat c 4 4, 4), (len, 2), (status, 2), (comp, 1), (s.rd .hfCompStatusGen 0 comp, 1), (0, 2),
    (stamp, 8), (s.tally, 8)]

/-- The header of a response. -/
def State.respHead (s : State) (c comp stamp status len : Nat) : List Byte := fieldBytes (s.respFields c comp stamp status len)

/-- The response stands in the channel's buffer. -/
def State.respWritten (s : State) (c comp stamp status : Nat) (payload : List Byte) : State :=
  s.respBase.setBytes (mbxKey c 0x2000) (s.respHead c comp stamp status payload.length ++ payload)

/-- The channel reads DONE, and a failing status has counted. -/
def State.respDone (s : State) (c status : Nat) : State := if status = 0 then s.wr .mbxState c 0 2 else (s.wr .mbxState c 0 2).cnt .mbxErrStatus c 0 1

theorem State.respond_eq (s : State) (c comp stamp status : Nat) (payload : List Byte) :
    s.respond c comp stamp status payload = ((s.respWritten c comp stamp status payload).respDone c status).msix c := by
  unfold State.respond State.respWritten State.respBase State.respHead State.respFields State.respPair
  cases h : s.mbx.pair <;> rfl

section
variable {s : State} {c comp stamp status : Nat} {payload : List Byte}

theorem length_respHead (len : Nat) : (s.respHead c comp stamp status len).length = 32 := by
  rw [State.respHead, length_fieldBytes]
  rfl

theorem State.only_respBase (s : State) : s.Only s.respBase [.free] := .ite (.refl s _) (s.only_free _)

theorem State.only_respDone (s : State) (c status : Nat) : s.Only (s.respDone c status) [.regs] :=
  .ite (s.only_wr _ _ _ _) ((s.only_wr _ _ _ _).trans (State.only_cnt _ _ _ _ _))

theorem State.only_respond (s : State) (c comp stamp status : Nat) (payload : List Byte) :
    s.Only (s.respond c comp stamp status payload) [.regs, .mem, .adit, .free] := by
  rw [State.respond_eq]
  exact ((((s.only_respBase).mono (by decide)).setBytes (by decide) _ _).trans ((State.only_respDone _ _ _).mono (by decide))).trans
    ((State.only_msix _ _).mono (by decide))

/-- What the channel's buffer holds after an answer. -/
theorem State.bytes_respond {o n : Nat} (h : o + n ≤ 32 + payload.length) : (s.respond c comp stamp status payload).bytes (mbxKey c 0x2000 + o) n =
    ((s.respHead c comp stamp status payload.length ++ payload).drop o).take n := by
  rw [State.respond_eq, (State.only_msix _ _).bytes (by decide), (State.only_respDone _ _ _).bytes (by decide), State.respWritten]
  exact State.bytes_setBytes _ _ (by rw [List.length_append, length_respHead]; exact h)

theorem State.bytesBut_respond (s : State) (c comp stamp status : Nat) (payload : List Byte) :
    s.BytesBut (s.respond c comp stamp status payload) (mbxKey c 0x2000) (32 + payload.length) := by
  have stored := State.bytesBut_setBytes s.respBase (mbxKey c 0x2000) (s.respHead c comp stamp status payload.length ++ payload)
  rw [List.length_append, length_respHead] at stored
  intro k hk
  rw [State.respond_eq, (State.only_msix _ _).byte (by decide), (State.only_respDone _ _ _).byte (by decide)]
  exact (stored k hk).trans (s.only_respBase.byte (by decide) k)

theorem State.fieldsBut_respond (hc : c < 65536) : s.FieldsBut (s.respond c comp stamp status payload)
    ([(Field.mbxState, c, 0), (Field.mbxErrStatus, c, 0)] ++ eventFields) := by
  have written : s.Only (s.respWritten c comp stamp status payload) [.free, .mem] := ((s.only_respBase).mono (by decide)).setBytes (by decide) _ _
  have start : s.FieldsBut (s.respWritten c comp stamp status payload) ([(Field.mbxState, c, 0), (Field.mbxErrStatus, c, 0)] ++ eventFields) :=
    .congr (.refl s _) (written .regs (by decide)) (written .variant (by decide))
  have done := start.wr (f := .mbxState) (i := c) (j := 0) (by simp [Nat.mod_eq_of_lt hc]) 2
  rw [State.respond_eq]
  exact State.FieldsBut.trans (.ite done (done.cnt (by simp [Nat.mod_eq_of_lt hc]) 1))
    ((State.fieldsBut_msix _ _).mono fun _ h => List.mem_append_right _ h)

/-- A field of the header, as it reads back. -/
theorem State.leNat_respond (s : State) (c comp stamp status : Nat) (payload : List Byte) {n v : Nat} (i o : Nat)
    (field : (s.respFields c comp stamp status payload.length)[i]? = some (v, n))
    (place : (((s.respFields c comp stamp status payload.length).take i).map Prod.snd).sum = o) (inside : o + n ≤ 32) :
    leNat ((s.respond c comp stamp status payload).bytes (mbxKey c (0x2000 + o)) n) = v % 256 ^ n := by
  have written := fieldBytes_field field payload
  rw [place] at written
  rw [mbxKey_add, State.bytes_respond (by omega), State.respHead, written, leNat_natLe]

/-- Firmware's answer is the response of R362. -/
theorem State.responded_respond (hs : status < 2 ^ 16) (hk : comp < 2 ^ 8) :
    s.Responded (s.respond c comp stamp status payload) c comp stamp status payload := by
  have written : s.Only (s.respWritten c comp stamp status payload) [.free, .mem] := ((s.only_respBase).mono (by decide)).setBytes (by decide) _ _
  have opcode := s.leNat_respond c comp stamp status payload 0 0 rfl rfl (by decide)
  have tag := s.leNat_respond c comp stamp status payload 2 4 rfl rfl (by decide)
  have result := s.leNat_respond c comp stamp status payload 4 10 rfl rfl (by decide)
  have component := s.leNat_respond c comp stamp status payload 5 12 rfl rfl (by decide)
  refine ⟨?_, opcode.trans (Nat.mod_eq_of_lt (s.reqNat_lt c 0 2)), tag.trans (Nat.mod_eq_of_lt (s.reqNat_lt c 4 4)),
    s.leNat_respond c comp stamp status payload 3 8 rfl rfl (by decide), result.trans (Nat.mod_eq_of_lt hs), component.trans (Nat.mod_eq_of_lt hk),
    s.leNat_respond c comp stamp status payload 8 16 rfl rfl (by decide), s.leNat_respond c comp stamp status payload 9 24 rfl rfl (by decide), ?_, ?_⟩
  · rw [State.respond_eq, (State.frame_msix _ _).rd _ _ _ (by decide), State.respDone]
    split_ifs
    · exact State.rd_wr_same _ _ _ _ _
    · rw [State.rd_cnt_ne _ (by decide), State.rd_wr_same]
      rfl
  · refine (State.bytes_respond (o := 32) (n := payload.length) (by omega)).trans ?_
    rw [List.drop_left' (length_respHead _), List.take_length]
  · rw [State.respond_eq, (State.frame_msix _ _).rd _ _ _ (by decide), State.respDone]
    split_ifs
    · rw [State.rd_wr_ne _ (by decide), written.rd (by decide) (by decide)]
    · rw [State.rd_cnt_same, State.rd_wr_ne _ (by decide), written.rd (by decide) (by decide)]
      rfl

end

end Sys2Proof.Machine
end

section
/-! SUPPORT. Doorbells: the source that they raise (R372), which of them is next (R359), and the checks of a request (R364). -/
namespace Sys2Proof.Machine

/-! ### Pending sources -/

theorem State.ic_msix (s : State) (v : Nat) : (s.msix v).ic = s.ic := s.only_msix v .ic (by decide)

/-- Does an event of source n call for a wake (R382)? -/
def State.lampWatches (s : State) (n : Nat) : Bool :=
  s.ic.asleep && (List.range 32).any (fun i => s.on .icLampSrcEn 0 i && s.rd .icLampSrcSource 0 i == n)

/-- A watched source calls for a wake. -/
def State.lampSeen (s : State) (watched : Bool) : State := if watched then { s with ic := { s.ic with lampHit := true } } else s

/-- The lamp notes the source of the event. -/
def State.lampNoted (s : State) (watched : Bool) (n : Nat) : State :=
  if watched then { s with ic := { s.ic with lampFree := n :: s.ic.lampFree.filter (· != n) } } else s

/-- The event sets its PENDING bit, or merges. -/
def State.irqMarked (s : State) (n : Nat) : State :=
  if sget false n s.ic.pending then s.bump .icMerged
  else { s.bump .icRaised with ic := { s.ic with pending := sput false n true s.ic.pending } }

/-- An enabled source's event. -/
def State.irqTaken (s : State) (n : Nat) : State := ((s.lampSeen (s.lampWatches n)).lampNoted (s.lampWatches n) n).irqMarked n

theorem State.irq_eq (s : State) (n : Nat) : s.irq n =
    if s.warmAt ≠ 0 ∨ !srcOk n then s
    else if !(s.lampSeen (s.lampWatches n)).on .icSrcCfgEn 0 n then (s.lampSeen (s.lampWatches n)).bump .icDisabledDrop
    else if (s.irqTaken n).on .icSrcCfgFwd 0 n then (s.irqTaken n).msix (64 + n) else s.irqTaken n := rfl

theorem State.pending_lampSeen (s : State) (watched : Bool) : (s.lampSeen watched).ic.pending = s.ic.pending := by cases watched <;> rfl

theorem State.pending_lampNoted (s : State) (watched : Bool) (n : Nat) : (s.lampNoted watched n).ic.pending = s.ic.pending := by cases watched <;> rfl

theorem State.on_lampSeen (s : State) (watched : Bool) (f : Field) (i j : Nat) : (s.lampSeen watched).on f i j = s.on f i j := by cases watched <;> rfl

theorem State.pending_irqMarked (s : State) (n : Nat) :
    (s.irqMarked n).ic.pending = if sget false n s.ic.pending then s.ic.pending else sput false n true s.ic.pending := by
  unfold State.irqMarked
  split_ifs <;> rfl

theorem State.pending_irqTaken (s : State) (n : Nat) :
    (s.irqTaken n).ic.pending = if sget false n s.ic.pending then s.ic.pending else sput false n true s.ic.pending := by
  rw [State.irqTaken, State.pending_irqMarked, State.pending_lampNoted, State.pending_lampSeen]

/-- An event leaves pending what was, and with it its own source if that is enabled. -/
theorem State.pending_irq (s : State) (n : Nat) :
    (s.irq n).ic.pending = s.ic.pending ∧ (s.warmAt ≠ 0 ∨ srcOk n = false ∨ s.on .icSrcCfgEn 0 n = false) ∨
      (s.irq n).ic.pending = (s.irqTaken n).ic.pending := by
  rw [State.irq_eq]
  split_ifs with quiet disabled
  · exact .inl ⟨rfl, quiet.imp_right fun h => .inl (by simpa using h)⟩
  · refine .inl ⟨s.pending_lampSeen _, .inr (.inr ?_)⟩
    rwa [State.on_lampSeen, Bool.not_eq_true'] at disabled
  · exact .inr (congrArg Ic.pending (State.ic_msix _ _))
  · exact .inr rfl

theorem State.pending_irq_same {s : State} {n : Nat} (hw : s.warmAt = 0) (hn : srcOk n = true) (he : s.on .icSrcCfgEn 0 n = true) :
    sget false n (s.irq n).ic.pending = true := by
  rcases s.pending_irq n with ⟨-, off⟩ | e
  · simp [hw, hn, he] at off
  · rw [e, State.pending_irqTaken]
    split_ifs with h
    · exact h
    · exact sget_sput_same _ _ _ _

/-- No event takes another's PENDING bit back. -/
theorem State.pending_irq_kept {s : State} {m : Nat} (h : sget false m s.ic.pending = true) (n : Nat) : sget false m (s.irq n).ic.pending = true := by
  rcases s.pending_irq n with ⟨e, -⟩ | e <;> rw [e]
  · exact h
  · rw [State.pending_irqTaken]
    split_ifs
    · exact h
    · by_cases same : m = n
      · rw [same, sget_sput_same]
      · rwa [sget_sput_ne _ same]

/-! ### The next doorbell -/

theorem foldl_min_spec (l : List (Nat × Nat)) (a : Nat) : (∀ e ∈ l, l.foldl (fun c x => min c x.1) a ≤ e.1) ∧
    l.foldl (fun c x => min c x.1) a ≤ a ∧ (l.foldl (fun c x => min c x.1) a = a ∨ ∃ e ∈ l, l.foldl (fun c x => min c x.1) a = e.1) := by
  induction l generalizing a with
  | nil => simp
  | cons x l ih =>
    obtain ⟨low, start, found⟩ := ih (min a x.1)
    rw [List.foldl_cons]
    refine ⟨fun e he => ?_, start.trans (min_le_left _ _), ?_⟩
    · rcases List.mem_cons.1 he with rfl | he
      · exact start.trans (min_le_right _ _)
      · exact low e he
    · rcases found with found | ⟨e, he, found⟩
      · rcases min_choice a x.1 with m | m
        · exact .inl (found.trans m)
        · exact .inr ⟨x, List.mem_cons_self, found.trans m⟩
      · exact .inr ⟨e, List.mem_cons_of_mem _ he, found⟩

/-- Of the doorbells latched at the oldest instant, that of the lowest channel is next. -/
theorem nextDoorbell_eq {first : Nat × Nat} {rest l : List (Nat × Nat)} {c : Nat} (hl : l = first :: rest) (hc : (c, first.2) ∈ l)
    (low : ∀ e ∈ l, e.2 = first.2 → c ≤ e.1) : nextDoorbell l = some c := by
  subst hl
  obtain ⟨least, start, found⟩ := foldl_min_spec (rest.filter (fun x => x.2 == first.2)) first.1
  refine congrArg some (Nat.le_antisymm ?_ ?_)
  · rcases List.mem_cons.1 hc with e | hr
    · rw [← e] at start ⊢
      exact start
    · exact least (c, first.2) (List.mem_filter.2 ⟨hr, by simp⟩)
  · rcases found with found | ⟨e, he, found⟩ <;> rw [found]
    · exact low first List.mem_cons_self rfl
    · obtain ⟨hm, same⟩ := List.mem_filter.1 he
      exact low e (List.mem_cons_of_mem _ hm) (by simpa using same)

/-! ### Dispatch -/

section
variable {s : State} {c : Nat}

/-- Channel c's doorbell is taken. -/
def State.doorbellTaken (s : State) (c : Nat) : State := { s with mbx := { s.mbx with latched := s.mbx.latched.filter (fun e => e.1 != c) } }

theorem State.dispatch_idle (h : s.mbx.latched = [] ∨ ((s.comp 0).mode ≠ .running ∧ (s.comp 0).mode ≠ .failed) ∨ s.ic.asleep = true) :
    s.dispatch = s := by
  unfold State.dispatch
  split
  · rfl
  · next d hd =>
    refine if_pos ?_
    rcases h with none | down | asleep
    · have empty : s.doorbells = [] := by simp [State.doorbells, none]
      rw [empty] at hd
      cases hd
    · exact .inl ⟨down.1, by simpa using down.2⟩
    · exact .inr asleep

theorem State.dispatch_failed (hm : (s.comp 0).mode = .failed) (ha : s.ic.asleep = false) (hn : nextDoorbell s.doorbells = some c) :
    s.dispatch = (s.doorbellTaken c).respond c 0 s.tally 15 [] := by
  simp [State.dispatch, hn, hm, ha]
  rfl

/-- A request that fails a check is answered (R364). -/
theorem State.dispatch_answers (hm : (s.comp 0).mode = .running) (ha : s.ic.asleep = false) (hn : nextDoorbell s.mbx.latched = some c) {st : Nat}
    (hc : s.mbxCheck c = some st) : s.dispatch = (s.doorbellTaken c).respond c 0 s.tally st [] := by
  have all : s.doorbells = s.mbx.latched := if_neg (by simp [hm])
  have check : (s.doorbellTaken c).mbxCheck c = some st := hc
  unfold State.doorbellTaken at check
  simp only [State.dispatch, all, hn, hm, ha, check, State.doorbellTaken]
  exact if_neg (by decide)

/-- Any other request goes to its component (R359). -/
theorem State.dispatch_hands (hm : (s.comp 0).mode = .running) (ha : s.ic.asleep = false) (hn : nextDoorbell s.mbx.latched = some c) {k feat : Nat}
    (hk : ycpOf (s.reqNat c 0 2) = some (k, feat)) (hc : s.mbxCheck c = none) : s.dispatch =
      { s with mbx := { (s.doorbellTaken c).mbx with run := s.mbx.run ++ [⟨c, s.reqNat c 0 2, k, s.tally, false⟩] } } := by
  have all : s.doorbells = s.mbx.latched := if_neg (by simp [hm])
  have check : (s.doorbellTaken c).mbxCheck c = none := hc
  have component : ((ycpOf ((s.doorbellTaken c).reqNat c 0 2)).map (fun e => e.1)).getD 0 = k := congrArg (fun o => (o.map Prod.fst).getD 0) hk
  unfold State.doorbellTaken at check component
  simp only [State.dispatch, all, hn, hm, ha, check, component]
  exact if_neg (by decide)

/-! ### The checks of a request (R364) -/

theorem State.mbxCheck_unknown (h : ycpOf (s.reqNat c 0 2) = none) : s.mbxCheck c = some 1 := by simp only [State.mbxCheck, h]

section
variable {k feat : Nat} (h : ycpOf (s.reqNat c 0 2) = some (k, feat))
include h

theorem State.mbxCheck_length (hl : s.reqNat c 8 2 > 8096 ∨ ycpLenOk (s.reqNat c 0 2) (s.reqNat c 8 2) (s.pay c 46 2) = false) :
    s.mbxCheck c = some 2 := by
  simp only [State.mbxCheck, h]
  exact if_pos (hl.imp_right fun e => by rw [e]; rfl)

variable (hl : s.reqNat c 8 2 ≤ 8096) (ho : ycpLenOk (s.reqNat c 0 2) (s.reqNat c 8 2) (s.pay c 46 2) = true)
include hl ho

theorem State.mbxCheck_unpaired (hp : s.mbx.pair = none) : s.mbxCheck c =
    if s.reqNat c 0 2 = 1 ∨ s.reqNat c 0 2 = 2 ∨ s.reqNat c 0 2 = 4 then none else some 4 := by
  simp only [State.mbxCheck, h, hp, ho]
  exact if_neg (by simpa using hl)

theorem State.mbxCheck_paired {p : Nat} (hp : s.mbx.pair = some p) : s.mbxCheck c =
    if p ≠ s.reqNat c 2 2 then some 3 else if s.mbx.features.testBit feat then none else some 5 := by
  simp only [State.mbxCheck, h, hp, ho]
  exact if_neg (by simpa using hl)

end

end

end Sys2Proof.Machine
end

section
/-! PROOF. Mailbox channels (R60, R336, R357 to R359, R362, R364). -/
namespace Sys2Proof.Machine

theorem chan_mod (c : ChanId) : c.val % 65536 = c.val := by omega

section
variable {s : State}

/-! ### Doorbells (R336, R358) -/

/-- An odd doorbell in IDLE or DONE is latched, and the channel is BUSY. -/
def State.doorbellLatched (s : State) (c : Nat) : State :=
  { (s.wr .mbxState c 0 1).cnt .mbxCmds c 0 1 with mbx := { s.mbx with latched := s.mbx.latched ++ [(c, s.tally)] } }

theorem State.rd_doorbellLatched (s : State) (c : Nat) (f : Field) (i j : Nat) :
    (s.doorbellLatched c).rd f i j = ((s.wr .mbxState c 0 1).cnt .mbxCmds c 0 1).rd f i j := rfl

theorem doorbell_early {c : ChanId} {v : Nat} (hv : v % 2 = 1) (hf : s.adit.fwReady = false) :
    Runs (.mbxDoorbellWrite c v) s [.regs] [(.adtEarlyDoorbell, 0, 0)] (fun s' =>
      s'.rd .adtEarlyDoorbell = (s.rd .adtEarlyDoorbell + 1) % 2 ^ 64) := by
  have e : s.doorbell c v = s.bump .adtEarlyDoorbell := by simp [State.doorbell, hv, hf]
  exact .of_eq e (s.only_bump _) (s.fieldsBut_bump _) (s.rd_bump_same _)

theorem doorbell_rejected {c : ChanId} {v : Nat} (hv : v % 2 = 1) (hf : s.adit.fwReady = true) (hb : c.val = 63 ∨ s.rd .mbxState c = 1) :
    Runs (.mbxDoorbellWrite c v) s [.regs] [(.mbxDoorbellReject, c.val, 0)] (fun s' =>
      s'.rd .mbxDoorbellReject c = (s.rd .mbxDoorbellReject c + 1) % 2 ^ 64) := by
  have e : s.doorbell c v = s.cnt .mbxDoorbellReject c 0 1 := by simp [State.doorbell, hv, hf, hb]
  exact ⟨_, rfl, e ▸ ⟨s.only_cnt _ _ _ _, (State.FieldsBut.refl s _).cnt (by simp [chan_mod]) 1, State.rd_cnt_same _ _ _ _ _⟩⟩

theorem doorbell_latched {c : ChanId} {v : Nat} (hv : v % 2 = 1) (hf : s.adit.fwReady = true) (hc : c.val ≠ 63) (hb : s.rd .mbxState c ≠ 1) :
    Runs (.mbxDoorbellWrite c v) s [.regs, .mbx, .ic, .adit] ([(Field.mbxState, c.val, 0), (Field.mbxCmds, c.val, 0)] ++ eventFields) (fun s' =>
      s'.rd .mbxState c = 1 ∧ s'.rd .mbxCmds c = (s.rd .mbxCmds c + 1) % 2 ^ 64 ∧
      s'.mbx = { s.mbx with latched := s.mbx.latched ++ [(c.val, s.tally)] } ∧
      (s.warmAt = 0 → s.on .icSrcCfgEn 0 (360 + c) = true → sget false (360 + c.val) s'.ic.pending = true)) := by
  have e : s.doorbell c v = ((s.doorbellLatched c).irq (360 + c)).irq 447 := by
    simp only [State.doorbell, hv, hf, hc, hb, one_ne_zero, Bool.not_true, Bool.false_eq_true, or_self, if_false]
    rfl
  have events (x : State) : x.Frame ((x.irq (360 + c)).irq 447) [.regs, .ic, .adit] eventNames := (x.frame_irq _).after (State.frame_irq _ _)
  have counted : s.Only ((s.wr .mbxState c 0 1).cnt .mbxCmds c 0 1) [.regs] := (s.only_wr _ _ _ _).trans (State.only_cnt _ _ _ _ _)
  have latched : s.Only (s.doorbellLatched c) [.regs, .mbx] := (counted.mono (by decide)).trans ((State.only_mbx _ _).mono (by decide))
  have fields : s.FieldsBut (s.doorbellLatched c) ([(Field.mbxState, c.val, 0), (Field.mbxCmds, c.val, 0)] ++ eventFields) :=
    (((State.FieldsBut.refl s _).wr (f := .mbxState) (i := c) (j := 0) (by simp [chan_mod]) 1).cnt (f := .mbxCmds) (i := c) (j := 0)
      (by simp [chan_mod]) 1).congr rfl rfl
  have raised (x : State) (n : Nat) : x.FieldsBut (x.irq n) ([(Field.mbxState, c.val, 0), (Field.mbxCmds, c.val, 0)] ++ eventFields) :=
    (x.fieldsBut_irq n).mono fun _ h => List.mem_append_right _ h
  have state : (s.doorbellLatched c).rd .mbxState c = 1 := by
    rw [State.rd_doorbellLatched, State.rd_cnt_ne _ (by decide), State.rd_wr_same]
    rfl
  have count : (s.doorbellLatched c).rd .mbxCmds c = (s.rd .mbxCmds c + 1) % 2 ^ 64 := by
    rw [State.rd_doorbellLatched, State.rd_cnt_same, State.rd_wr_ne _ (by decide)]
    rfl
  refine ⟨_, rfl, ?_⟩
  rw [e]
  refine ⟨(latched.mono (by decide)).trans ((events _).only.mono (by decide)), (fields.trans (raised _ (360 + c))).trans (raised _ 447), ?_, ?_, ?_,
    fun warm enabled => ?_⟩
  · rw [(events _).rd _ _ _ (by decide), state]
  · rw [(events _).rd _ _ _ (by decide), count]
  · rw [(events _).only .mbx (by decide)]
    rfl
  · have source : srcOk (360 + c) = true := by
      have := c.isLt
      simp only [srcOk, Bool.or_eq_true, decide_eq_true_eq]
      omega
    have kept : (s.doorbellLatched c).on .icSrcCfgEn 0 (360 + c) = true := by
      rw [State.on, State.rd_doorbellLatched, State.rd_cnt_ne _ (by decide), State.rd_wr_ne _ (by decide)]
      exact enabled
    exact State.pending_irq_kept (State.pending_irq_same ((latched .warmAt (by decide)).trans warm) source kept) 447

/-! ### Request buffers (R60, R358) -/

theorem mbxReqWrite_misaligned {c : ChanId} {word : Fin 2032} {wide : Bool} {v : Nat} (hw : wide = true) (ho : word.val % 2 = 1) :
    Runs (.mbxReqWrite c word wide v) s [.regs] [(.adtRegSizeErr, 0, 0)] (fun s' => s'.rd .adtRegSizeErr = (s.rd .adtRegSizeErr + 1) % 2 ^ 64) := by
  have e : s.mbxReqWrite c word wide v = s.bump .adtRegSizeErr := if_pos ⟨hw, .inl ho⟩
  exact .of_eq e (s.only_bump _) (s.fieldsBut_bump _) (s.rd_bump_same _)

/-- The size and place of a request-buffer write are right. -/
theorem mbxReqWrite_aligned {word : Fin 2032} {wide : Bool} (h : wide = false ∨ word.val % 2 = 0) :
    ¬ (wide = true ∧ (word.val % 2 = 1 ∨ word.val + 1 ≥ 2032)) := by
  rintro ⟨hw, odd | last⟩ <;> rcases h with h | h
  · exact absurd (hw.symm.trans h) (by decide)
  · omega
  · exact absurd (hw.symm.trans h) (by decide)
  · omega

theorem mbxReqWrite_busy {c : ChanId} {word : Fin 2032} {wide : Bool} {v : Nat} (hw : wide = false ∨ word.val % 2 = 0) (hb : s.rd .mbxState c = 1) :
    Runs (.mbxReqWrite c word wide v) s [.regs] [(.mbxWrBusy, c.val, 0)] (fun s' => s'.rd .mbxWrBusy c = (s.rd .mbxWrBusy c + 1) % 2 ^ 64) := by
  have e : s.mbxReqWrite c word wide v = s.cnt .mbxWrBusy c 0 1 := (if_neg (mbxReqWrite_aligned hw)).trans (if_pos hb)
  exact ⟨_, rfl, e ▸ ⟨s.only_cnt _ _ _ _, (State.FieldsBut.refl s _).cnt (by simp [chan_mod]) 1, State.rd_cnt_same _ _ _ _ _⟩⟩

theorem mbxReqWrite_stores {c : ChanId} {word : Fin 2032} {wide : Bool} {v : Nat} (hw : wide = false ∨ word.val % 2 = 0) (hb : s.rd .mbxState c ≠ 1) :
    Completes (.mbxReqWrite c word wide v) s (fun s' => ∀ n, n = (if wide then 8 else 4) →
      leNat (s'.bytes (mbxKey c (0x40 + 4 * word)) n) = v % 2 ^ (8 * n) ∧ s.BytesBut s' (mbxKey c (0x40 + 4 * word)) n ∧ s.Only s' [.mem]) := by
  have e : s.mbxReqWrite c word wide v = s.setBytes (mbxKey c (0x40 + 4 * word)) (natLe (if wide then 8 else 4) v) :=
    (if_neg (mbxReqWrite_aligned hw)).trans (if_neg hb)
  refine ⟨_, rfl, fun n hn => ?_⟩
  rw [e, ← hn]
  have stored := s.bytesBut_setBytes (mbxKey c (0x40 + 4 * word)) (natLe n v)
  have read := s.bytes_setBytes (mbxKey c (0x40 + 4 * word)) (l := natLe n v) (o := 0) (n := n) (by rw [length_natLe, Nat.zero_add])
  rw [length_natLe] at stored
  rw [Nat.add_zero, List.drop_zero, List.take_of_length_le (length_natLe _ _).le] at read
  exact ⟨by rw [read, leNat_natLe, Nat.pow_mul], stored, s.only_setBytes _ _⟩

/-! ### Dispatch (R351, R359, R364) -/

theorem mbxDispatch_failed {c t : Nat} (hm : (s.comp 0).mode = .failed) (ha : s.ic.asleep = false) (hl : s.mbx.latched = [(c, t)])
    (hk : (ycpOf (s.reqNat c 0 2)).map (fun k => k.1) = some 0) :
    Completes .mbxDispatch s (fun s' => s.Responded s' c 0 s.tally 15 [] ∧ s'.mbx = { s.mbx with latched := [] }) := by
  have own : (ycpOf (s.reqNat c 0 2)).any (fun k => k.1 == 0) = true := by
    obtain ⟨k, hk, zero⟩ := Option.map_eq_some_iff.1 hk
    rw [hk]
    simp [zero]
  have next : nextDoorbell s.doorbells = some c := by
    have mine : s.doorbells = [(c, t)] := by simp [State.doorbells, hm, hl, own]
    rw [mine]
    rfl
  have responded := State.responded_respond (s := s.doorbellTaken c) (c := c) (comp := 0) (stamp := s.tally) (status := 15) (payload := []) (by decide)
    (by decide)
  refine ⟨_, rfl, ?_⟩
  rw [State.dispatch_failed hm ha next]
  refine ⟨⟨responded.done, responded.opcode, responded.tag, responded.len, responded.result, responded.comp, responded.started, responded.finished,
    responded.data, responded.count⟩, (State.only_respond _ _ _ _ _ _ .mbx (by decide)).trans ?_⟩
  simp [State.doorbellTaken, hl]

theorem mbxDispatch_answers {c st : Nat} (hc : c < 64) (hs : st ≠ 0 ∧ st < 2 ^ 16) (hm : (s.comp 0).mode = .running) (ha : s.ic.asleep = false)
    (hn : nextDoorbell s.mbx.latched = some c) (hk : s.mbxCheck c = some st) : Completes .mbxDispatch s (fun s' =>
      s.Responded s' c 0 s.tally st [] ∧ s'.mbx = { s.mbx with latched := s.mbx.latched.filter (fun e => e.1 != c) } ∧
      s.BytesBut s' (mbxKey c 0x2000) 32 ∧ s.FieldsBut s' ([(Field.mbxState, c, 0), (Field.mbxErrStatus, c, 0)] ++ eventFields) ∧
      s.Only s' [.regs, .mem, .mbx, .adit, .free]) := by
  have responded := State.responded_respond (s := s.doorbellTaken c) (c := c) (comp := 0) (stamp := s.tally) (payload := []) hs.2 (by decide)
  have only := (s.doorbellTaken c).only_respond c 0 s.tally st []
  have fields := State.fieldsBut_respond (s := s.doorbellTaken c) (c := c) (comp := 0) (stamp := s.tally) (status := st) (payload := []) (by omega)
  refine ⟨_, rfl, ?_⟩
  rw [State.dispatch_answers hm ha hn hk]
  exact ⟨⟨responded.done, responded.opcode, responded.tag, responded.len, responded.result, responded.comp, responded.started, responded.finished,
    responded.data, responded.count⟩, only .mbx (by decide), State.bytesBut_respond (s.doorbellTaken c) c 0 s.tally st [], fields,
    ((s.only_mbx _).mono (by decide)).trans (only.mono (by decide))⟩

end

/-- Settles O50: which doorbells and request writes are taken, and what the mailbox service does with the doorbell that is next. -/
theorem mailboxChannels : Obligations.MailboxChannels := by
  unfold Obligations.MailboxChannels
  refine ⟨fun c v s => ⟨fun even => ⟨_, rfl, if_pos even⟩, doorbell_early, doorbell_rejected, doorbell_latched⟩,
    fun c word wide v s => ⟨mbxReqWrite_misaligned, mbxReqWrite_busy, mbxReqWrite_stores⟩,
    fun s => ⟨fun h => ⟨_, rfl, State.dispatch_idle h⟩, fun c t hm ha hl _ hk => mbxDispatch_failed hm ha hl hk,
      fun c first rest hl hin low hc hm ha => ?_⟩⟩
  have next := nextDoorbell_eq hl hin low
  have fails {st : Nat} (hs : st ≠ 0 ∧ st < 2 ^ 16) (hk : s.mbxCheck c = some st) := mbxDispatch_answers hc hs hm ha next hk
  refine ⟨fun unknown => fails (by decide) (State.mbxCheck_unknown unknown), fun k feat known =>
    ⟨fun wrong => fails (by decide) (State.mbxCheck_length known wrong), fun short fits => ⟨fun unpaired h1 h2 h4 => fails (by decide) ?_,
      fun p paired => ⟨fun other => fails (by decide) ?_, fun same lacks => fails (by decide) ?_⟩, fun accepted =>
        ⟨_, rfl, State.dispatch_hands hm ha next known ?_⟩⟩⟩⟩
  · rw [State.mbxCheck_unpaired known short fits unpaired, if_neg (by simp [h1, h2, h4])]
  · rw [State.mbxCheck_paired known short fits paired, if_pos other]
  · rw [State.mbxCheck_paired known short fits paired, if_neg (not_not.2 same), if_neg (by simp [lacks])]
  · rcases accepted with ⟨unpaired, hello⟩ | ⟨paired, has⟩
    · rw [State.mbxCheck_unpaired known short fits unpaired, if_pos hello]
    · rw [State.mbxCheck_paired known short fits paired, if_neg (not_not.2 rfl), if_pos has]

end Sys2Proof.Machine
end

section
/-! SUPPORT. How a tile-core instruction retires or waits, and how the engines accept work under the tag in force (R152, R155, R158, R171). -/
namespace Sys2Proof.Machine

/-! ### From a state to the one in which an instruction acts -/

/-- From z to m only notes of tile t's held accesses and CB's count of its master's accesses have changed: m is z, or z with an instruction word fetched. -/
structure State.Looked (z m : State) (t : Nat) : Prop where
  tile : m.tile t = { z.tile t with held := (m.tile t).held }
  tiles : z.TilesBut m t
  fields : z.FieldsBut m [(.spdAccMaster, t, 3)]
  only : z.Only m [.regs, .tiles, .act]

theorem State.Looked.refl (z : State) (t : Nat) : z.Looked z t := ⟨rfl, fun _ _ => rfl, .refl z _, .refl z _⟩

theorem State.looked_fetched (z : State) (t : TileId) : z.Looked (z.fetched t) t := by
  refine ⟨z.fetched_tile t, z.fetched_tiles t, ?_, z.only_fetched t⟩
  have ht : t.val % 65536 = t.val := by omega
  have counted : z.FieldsBut ((z.unhold t 0).cnt .spdAccMaster t 3 1) [(.spdAccMaster, t.val, 3)] :=
    .cnt (.congr (.refl z _) rfl rfl) (by simp [ht]) 1
  have fetched : z.fetched t = ((z.unhold t 0).cnt .spdAccMaster t 3 1).activity t 6 1 := rfl
  rw [fetched]
  exact counted.congr (State.activity_regs _ _ _ _) (State.activity_variant _ _ _ _)

theorem State.Looked.rd {z m : State} {t : Nat} (h : z.Looked m t) {f : Field} (hf : f ≠ .spdAccMaster) (i j : Nat) : m.rd f i j = z.rd f i j :=
  h.fields.rd (by simpa using hf) i j

section
variable {z m : State} {t : Nat}

theorem State.Looked.core (h : z.Looked m t) : (m.tile t).core = (z.tile t).core := by rw [h.tile]

theorem State.Looked.ope (h : z.Looked m t) : (m.tile t).ope = (z.tile t).ope := by rw [h.tile]

theorem State.Looked.ve (h : z.Looked m t) : (m.tile t).ve = (z.tile t).ve := by rw [h.tile]

theorem State.Looked.xr (h : z.Looked m t) (i : Nat) : m.xr t i = z.xr t i := by simp only [State.xr, h.core]

theorem State.Looked.slot (h : z.Looked m t) (i : Nat) : m.slot t i = z.slot t i := by
  rw [State.slot, h.tile]
  rfl

theorem State.Looked.tagStale (h : z.Looked m t) : m.tagStale t ↔ z.tagStale t := by simp only [State.tagStale, h.slot, h.core]

end

/-! ### Retiring and waiting -/

section
variable (m : State) (t : Nat)

theorem State.tile_retire : (m.retire t).tile t =
    { m.tile t with core := { (m.tile t).core with pc := ((m.tile t).core.pc + 4) % 2 ^ 32, wait := .running } } := by
  simp [State.retire, State.retireTo, State.onCore]

theorem State.tilesBut_retire : m.TilesBut (m.retire t) t := fun u hu => by
  simp [State.retire, State.retireTo, State.onCore, State.tile_onTile_ne _ hu]

theorem State.rd_retire_instr : (m.retire t).rd .tileInstr t = (m.rd .tileInstr t + 1) % 2 ^ 64 :=
  (State.rd_activity _ _ _ _ _ _ _).trans (State.rd_cnt_same _ _ _ _ _)

theorem State.fieldsBut_retire (t : TileId) : m.FieldsBut (m.retire t) [(.tileInstr, t.val, 0)] := by
  have ht : t.val % 65536 = t.val := by omega
  have counted : m.FieldsBut ((m.onCore t (fun c => { c with pc := ((m.tile t).core.pc + 4) % 2 ^ 32, wait := .running })).cnt .tileInstr t 0 1)
      [(.tileInstr, t.val, 0)] := .cnt (.congr (.refl m _) rfl rfl) (by simp [ht]) 1
  exact counted.congr (State.activity_regs _ _ _ _) (State.activity_variant _ _ _ _)

theorem State.only_retirePlain : m.Only (m.retire t) [.regs, .tiles, .act] :=
  ((m.only_onTile t _).mono (by decide)).trans (((State.only_cnt _ _ _ _ _).mono (by decide)).trans ((State.only_activity _ _ _ _).mono (by decide)))

theorem State.tile_park (w : Wait) : (m.park t w).tile t = { m.tile t with core := { (m.tile t).core with wait := w } } := m.tile_onTile_same t _

end

/-- An instruction that waits changes nothing but what its core waits for, beside what the fetch of its word counts. -/
theorem State.Looked.park {z m : State} {t : TileId} (h : z.Looked m t) (w : Wait) :
    ((m.park t w).tile t).core = { (z.tile t).core with wait := w } ∧ ((m.park t w).tile t).ope = (z.tile t).ope ∧
      ((m.park t w).tile t).ve = (z.tile t).ve ∧ z.TilesBut (m.park t w) t ∧ z.FieldsBut (m.park t w) [(.spdAccMaster, t.val, 3)] ∧
      z.Only (m.park t w) [.regs, .tiles, .act] := by
  rw [State.tile_park, h.core]
  exact ⟨rfl, h.ope, h.ve, h.tiles.trans (m.tilesBut_onTile t _), h.fields.congr rfl rfl, h.only.trans ((m.only_onTile t _).mono (by decide))⟩

/-! ### The tag in force (R152, R158) -/

/-- Work whose tag is stale is discarded and counted. -/
theorem State.tagged_stale {s : State} {t : Nat} (h : s.tagStale t) : s.tagged t = (s.cnt .specStale t 0 1, false) := by
  obtain ⟨i, tag, closed⟩ := h
  simp only [State.tagged, State.tag, tag, if_neg closed]

/-- What accepting other work does to its slot: from s to a the slot that the tag names, if any, has one more unit of work, and counts it (R155). -/
structure State.Joined (s a : State) (t : Nat) : Prop where
  plain : (s.tile t).core.tagSlot = none → a = s
  tagged : ∀ i, (s.tile t).core.tagSlot = some i → a.slot t i = { s.slot t i with live := (s.slot t i).live + 1 } ∧
    (∀ j, j ≠ i → a.slot t j = s.slot t j) ∧ a.rd .specInstr t = (s.rd .specInstr t + 1) % 2 ^ 64
  tile : a.tile t = { s.tile t with slots := (a.tile t).slots }
  tiles : s.TilesBut a t
  fields : s.FieldsBut a [(.specInstr, t, 0)]
  only : s.Only a [.regs, .tiles]

theorem State.slot_setSlot_same (s : State) (t i : Nat) (x : Slot) : (s.setSlot t i x).slot t i = x := by
  simp [State.slot, State.setSlot, sget_sput_same]

theorem State.slot_setSlot_ne (s : State) (t : Nat) {i j : Nat} (h : j ≠ i) (x : Slot) : (s.setSlot t i x).slot t j = s.slot t j := by
  simp [State.slot, State.setSlot, sget_sput_ne _ h]

theorem State.tilesBut_setSlot (s : State) (t i : Nat) (x : Slot) : s.TilesBut (s.setSlot t i x) t := s.tilesBut_onTile t _

/-- Work whose tag is not stale is accepted. -/
theorem State.tagged_open {s : State} {t : TileId} (h : ¬ s.tagStale t) : (s.tagged t).2 = true ∧ s.Joined (s.tagged t).1 t := by
  cases tag : (s.tile t).core.tagSlot with
  | none =>
    have untagged : s.tagged t = (s, true) := by simp only [State.tagged, State.tag, tag]
    rw [untagged]
    exact ⟨rfl, fun _ => rfl, fun i hi => absurd (tag.symm.trans hi) (by simp), rfl, fun _ _ => rfl, .refl s _, .refl s _⟩
  | some i =>
    have opened : (s.slot t i).mode = .opened := by_contra fun closed => h ⟨i, tag, closed⟩
    have joins : s.tagged t = ((s.setSlot t i { s.slot t i with live := (s.slot t i).live + 1 }).cnt .specInstr t 0 1, true) := by
      simp only [State.tagged, State.tag, tag, opened, if_true]
    have ht : t.val % 65536 = t.val := by omega
    rw [joins]
    refine ⟨rfl, fun none' => absurd (tag.symm.trans none') (by simp), fun k hk => ?_, ?_, ?_, ?_, ?_⟩
    · obtain rfl : i = k := Option.some.inj (tag.symm.trans hk)
      exact ⟨s.slot_setSlot_same t i _, fun j hj => s.slot_setSlot_ne t hj _, State.rd_cnt_same _ _ _ _ _⟩
    · simp [State.setSlot]
    · exact (s.tilesBut_setSlot t i _).trans ((State.only_cnt _ _ _ _ _).tilesBut (by decide) t)
    · exact .cnt (.congr (.refl s _) rfl rfl) (by simp [ht]) 1
    · exact ((s.only_onTile t _).mono (by decide)).trans ((State.only_cnt _ _ _ _ _).mono (by decide))

/-! ### Engines accept work (R96, R171, R188) -/

section
variable {z m : State} {t : TileId}

/-- Accepted work: g puts it into an engine of the tile, and the instruction retires. -/
theorem State.Looked.issued (h : z.Looked m t) (current : ¬ z.tagStale t) {g : Tile → Tile} (core : ∀ x, (g x).core = x.core)
    (slots : ∀ x, (g x).slots = x.slots) : z.Issued (((m.tagged t).1.onTile t g).retire t) t := by
  obtain ⟨-, joined⟩ := State.tagged_open (h.tagStale.not.2 current)
  generalize (m.tagged t).1 = a at joined ⊢
  have tile : (((a.onTile t g).retire t).tile t) = { g (a.tile t) with
      core := { (z.tile t).core with pc := ((z.tile t).core.pc + 4) % 2 ^ 32, wait := .running } } := by
    rw [State.tile_retire, State.tile_onTile_same, core, joined.tile, h.tile]
  have tag : (m.tile t).core.tagSlot = (z.tile t).core.tagSlot := by rw [h.tile]
  have slot (i : Nat) : ((a.onTile t g).retire t).slot t i = a.slot t i := by
    simp only [State.slot, tile, slots]
  have instr : ((a.onTile t g).retire t).rd .specInstr t = a.rd .specInstr t :=
    (State.fieldsBut_retire _ t).rd (by simp) _ _
  refine ⟨fun plain => ?_, fun i tagged => ?_, by rw [tile], ?_, ?_, ?_⟩
  · have same : a = m := joined.plain (tag.trans plain)
    rw [instr, tile, same, h.rd (by decide)]
    exact ⟨(slots _).trans (by rw [h.tile]), rfl⟩
  · obtain ⟨mine, others, counted⟩ := joined.tagged i (tag.trans tagged)
    refine ⟨?_, fun j hj => ?_, ?_⟩
    · rw [slot, mine, h.slot]
    · rw [slot, others j hj, h.slot]
    · rw [instr, counted, h.rd (by decide)]
  · exact ((h.tiles.trans joined.tiles).trans (a.tilesBut_onTile t g)).trans (State.tilesBut_retire _ t)
  · refine .trans (.trans (h.fields.mono ?_) (.congr (joined.fields.mono ?_) rfl rfl)) ((State.fieldsBut_retire _ t).mono ?_) <;> simp
  · exact h.only.trans ((joined.only.mono (by decide)).trans (((a.only_onTile t g).mono (by decide)).trans (State.only_retirePlain _ t)))

/-- Discarded work: SPEC_STALE counts, and the instruction retires. -/
theorem State.Looked.discarded (h : z.Looked m t) (running : (z.tile t).core.wait = .running) (inCb : (z.tile t).core.pc + 4 ≤ bankSize .cb) :
    ((m.cnt .specStale t 0 1).retire t).rd .specStale t = (z.rd .specStale t + 1) % 2 ^ 64 ∧
      z.Retired ((m.cnt .specStale t 0 1).retire t) t 0 ((z.tile t).core.pc + 4) [(.specStale, t.val, 0)] ∧
      z.Only ((m.cnt .specStale t 0 1).retire t) [.regs, .tiles, .act] := by
  have ht : t.val % 65536 = t.val := by omega
  have tile : ((m.cnt .specStale t 0 1).retire t).tile t = { z.tile t with
      held := (m.tile t).held, core := { (z.tile t).core with pc := (z.tile t).core.pc + 4, wait := .running } } := by
    have small : ((z.tile t).core.pc + 4) % 2 ^ 32 = (z.tile t).core.pc + 4 := by
      rw [show bankSize .cb = 0x80000 from rfl] at inCb
      omega
    rw [State.tile_retire, State.tile_cnt, h.tile, small]
  refine ⟨?_, ⟨⟨(z.tile t).core.x, ?_⟩, fun i _ => ?_, ?_, ?_, ?_, ?_⟩, ?_⟩
  · rw [(State.fieldsBut_retire _ t).rd (by simp), State.rd_cnt_same, h.rd (by decide)]
    rfl
  · rw [tile, ← running]
  · simp only [State.xr, tile]
    rfl
  · rw [tile]
  · exact h.tiles.trans (State.tilesBut_retire _ t)
  · rw [State.rd_retire_instr, State.rd_cnt_ne _ (by decide), h.rd (by decide)]
  · exact .trans (.cnt (h.fields.mono (by simp)) (by simp [ht]) 1) ((State.fieldsBut_retire _ t).mono (by simp))
  · exact h.only.trans (((State.only_cnt _ _ _ _ _).mono (by decide)).trans (State.only_retirePlain _ t))

end

/-- An instruction joins the OPE's queue. -/
def Tile.opeTakes (i : OpeInstr) (x : Tile) : Tile := { x with ope := { x.ope with queue := x.ope.queue ++ [i] } }

/-- An instruction joins the VE's queue. -/
def Tile.veTakes (i : VeInstr) (x : Tile) : Tile := { x with ve := { x.ve with queue := x.ve.queue ++ [i] } }

/-- The OPE instruction that a tile issues with two words (R79, R152). -/
def State.opeIssued (s : State) (t w0 w1 : Nat) : OpeInstr :=
  { w0 := w0, w1 := w1, key := s.rd .tileSrKey t (bitsOf w0 4 2), tag := s.rd .tileSrTag t, slot := (s.tile t).core.tagSlot,
    cold := (s.tile t).ope.queue.isEmpty && (s.tile t).ope.run.isNone }

/-- The VE instruction that a tile issues with a word (R79, R152, R171). -/
def State.veIssued (s : State) (t w : Nat) : VeInstr :=
  { word := w, d := s.xr t (bitsOf w 43 39), a := s.xr t (bitsOf w 38 34), b := s.xr t (bitsOf w 33 29), c := s.xr t (bitsOf w 28 24),
    n := s.xr t (bitsOf w 23 19) % 2 ^ 20, flush := s.on .veFmodeFlush t, key := s.rd .tileSrKey t (bitsOf w 46 44), tag := s.rd .tileSrTag t,
    slot := (s.tile t).core.tagSlot }

section
variable {z m : State} {t : TileId}

theorem State.Looked.opeIssued (h : z.Looked m t) (w0 w1 : Nat) : m.opeIssued t w0 w1 = z.opeIssued t w0 w1 := by
  simp only [State.opeIssued, h.rd (f := .tileSrKey) (by decide), h.rd (f := .tileSrTag) (by decide), h.core, h.ope]

theorem State.Looked.veIssued (h : z.Looked m t) (w : Nat) : m.veIssued t w = z.veIssued t w := by
  simp only [State.veIssued, State.on, h.xr, h.rd (f := .tileSrKey) (by decide), h.rd (f := .tileSrTag) (by decide),
    h.rd (f := .veFmodeFlush) (by decide), h.core]

theorem State.opeAccept_stale (h : m.tagStale t) (w0 w1 : Nat) : m.opeAccept t w0 w1 = m.cnt .specStale t 0 1 := by
  simp [State.opeAccept, State.tagged_stale h]

theorem State.veAccept_stale (h : m.tagStale t) (w : Nat) : m.veAccept t w = m.cnt .specStale t 0 1 := by
  simp [State.veAccept, State.tagged_stale h]

theorem State.opeAccept_open (h : ¬ m.tagStale t) (w0 w1 : Nat) :
    m.opeAccept t w0 w1 = (m.tagged t).1.onTile t (Tile.opeTakes (m.opeIssued t w0 w1)) := if_pos (State.tagged_open h).1

theorem State.veAccept_open (h : ¬ m.tagStale t) (w : Nat) :
    m.veAccept t w = (m.tagged t).1.onTile t (Tile.veTakes (m.veIssued t w)) := if_pos (State.tagged_open h).1

/-- The OPE accepts an instruction, and the core goes on. -/
theorem State.Looked.opeAccepted (h : z.Looked m t) (current : ¬ z.tagStale t) (w0 w1 : Nat) :
    z.Issued ((m.opeAccept t w0 w1).retire t) t ∧
      (((m.opeAccept t w0 w1).retire t).tile t).ope =
        { (z.tile t).ope with queue := (z.tile t).ope.queue ++ [z.opeIssued t w0 w1] } ∧
      (((m.opeAccept t w0 w1).retire t).tile t).ve = (z.tile t).ve := by
  have current' := h.tagStale.not.2 current
  rw [State.opeAccept_open current', State.tile_retire, State.tile_onTile_same, (State.tagged_open current').2.tile, h.tile, h.opeIssued]
  exact ⟨h.issued current (fun _ => rfl) (fun _ => rfl), rfl, rfl⟩

/-- The VE accepts an instruction, and the core goes on. -/
theorem State.Looked.veAccepted (h : z.Looked m t) (current : ¬ z.tagStale t) (w : Nat) :
    z.Issued ((m.veAccept t w).retire t) t ∧
      (((m.veAccept t w).retire t).tile t).ve = { (z.tile t).ve with queue := (z.tile t).ve.queue ++ [z.veIssued t w] } ∧
      (((m.veAccept t w).retire t).tile t).ope = (z.tile t).ope := by
  have current' := h.tagStale.not.2 current
  rw [State.veAccept_open current', State.tile_retire, State.tile_onTile_same, (State.tagged_open current').2.tile, h.tile, h.veIssued]
  exact ⟨h.issued current (fun _ => rfl) (fun _ => rfl), rfl, rfl⟩

end

end Sys2Proof.Machine
end

section
/-! PROOF. The issue of engine instructions (R96, R158, R171, R188). -/
namespace Sys2Proof.Machine

section
variable {s : State} {t : TileId} {w : CoreWord}

/-- OPE.ISSUE waits while 8 instructions wait at the OPE. -/
theorem State.Fetches.opeIssue (h : s.Fetches t .opeIssue w) : s.opeIssue t =
    if (s.tile t).ope.queue.length ≥ 8 then (s.fetched t).park t (.ope (s.xr t w.rs1) (s.xr t w.rs2))
    else ((s.fetched t).opeAccept t (s.xr t w.rs1) (s.xr t w.rs2)).retire t := by
  rw [State.opeIssue, h.coreRow]
  simp only [State.fetched_xr, (s.looked_fetched t).ope]

/-- VE.ISSUE waits while the VE holds 4 instructions. -/
theorem State.Fetches.veIssue (h : s.Fetches t .veIssue w) : s.veIssue t =
    if (s.tile t).ve.queue.length + (s.tile t).ve.fins.length ≥ 4 then (s.fetched t).park t (.ve (s.xr t w.rs1))
    else ((s.fetched t).veAccept t (s.xr t w.rs1)).retire t := by
  rw [State.veIssue, h.coreRow]
  simp only [State.fetched_xr, Ve.count, (s.looked_fetched t).ve]

/-- A blocked OPE.ISSUE goes on once an entry frees. -/
theorem State.issueUnblock_ope {w0 w1 : Nat} (active : (s.tile t).active = true) (waits : (s.tile t).core.wait = .ope w0 w1) :
    s.issueUnblock t = if (s.tile t).ope.queue.length < 8 then (s.opeAccept t w0 w1).retire t else s := by
  simp only [State.issueUnblock, active, waits, Bool.not_true, Bool.false_eq_true, if_false]

/-- A blocked VE.ISSUE goes on once the VE holds fewer than 4 instructions. -/
theorem State.issueUnblock_ve {w : Nat} (active : (s.tile t).active = true) (waits : (s.tile t).core.wait = .ve w) :
    s.issueUnblock t = if (s.tile t).ve.queue.length + (s.tile t).ve.fins.length < 4 then (s.veAccept t w).retire t else s := by
  simp only [State.issueUnblock, active, waits, Bool.not_true, Bool.false_eq_true, if_false]
  rfl

end

/-- Settles O20: an issue waits, is discarded, or joins its engine's queue; a blocked one does so from the state as it stands, with no word fetched. -/
theorem engineIssue : Obligations.EngineIssue := by
  unfold Obligations.EngineIssue
  refine ⟨fun t w s => ?_, fun t s active => ⟨fun w0 w1 waits => ?_, fun w waits => ?_⟩⟩
  · have looked := s.looked_fetched t
    refine ⟨fun h => ⟨fun room current => ⟨_, rfl, ?_⟩, fun room stale => ⟨_, rfl, ?_⟩, fun full => ⟨_, rfl, ?_⟩⟩,
      fun h => ⟨fun room current => ⟨_, rfl, ?_⟩, fun room stale => ⟨_, rfl, ?_⟩, fun full => ⟨_, rfl, ?_⟩⟩⟩
    · rw [h.opeIssue, if_neg (by omega)]
      exact looked.opeAccepted current _ _
    · rw [h.opeIssue, if_neg (by omega), State.opeAccept_stale (looked.tagStale.2 stale)]
      exact looked.discarded h.running h.inCb
    · rw [h.opeIssue, if_pos full]
      obtain ⟨core, ope, -, rest⟩ := looked.park (.ope (s.xr t w.rs1) (s.xr t w.rs2))
      exact ⟨core, ope, rest⟩
    · rw [h.veIssue, if_neg (by omega)]
      exact looked.veAccepted current _
    · rw [h.veIssue, if_neg (by omega), State.veAccept_stale (looked.tagStale.2 stale)]
      exact looked.discarded h.running h.inCb
    · rw [h.veIssue, if_pos full]
      obtain ⟨core, -, ve, rest⟩ := looked.park (.ve (s.xr t w.rs1))
      exact ⟨core, ve, rest⟩
  · refine ⟨fun room current => ⟨_, rfl, ?_⟩, fun full => ⟨_, rfl, ?_⟩⟩
    · rw [State.issueUnblock_ope active waits, if_pos room]
      obtain ⟨issued, ope, -⟩ := (State.Looked.refl s t).opeAccepted current w0 w1
      exact ⟨issued, congrArg Ope.queue ope⟩
    · rw [State.issueUnblock_ope active waits, if_neg (by omega)]
  · refine ⟨fun room current => ⟨_, rfl, ?_⟩, fun full => ⟨_, rfl, ?_⟩⟩
    · rw [State.issueUnblock_ve active waits, if_pos room]
      obtain ⟨issued, ve, -⟩ := (State.Looked.refl s t).veAccepted current w
      exact ⟨issued, s.veIssued t w, congrArg Ve.queue ve, rfl, rfl⟩
    · rw [State.issueUnblock_ve active waits, if_neg (by omega)]

end Sys2Proof.Machine
end

section
/-! SUPPORT. What the operations that begin and abort the blocks of an OPE instruction leave alone (R108, R116, R217, R223). -/
namespace Sys2Proof.Machine

/-! ### Reads of banks -/

/-- From s to a no tile but t has changed, and t's OPE stands as it was. -/
structure State.OpeKept (s a : State) (t : Nat) : Prop where
  tiles : s.TilesBut a t
  ope : (a.tile t).ope = (s.tile t).ope

namespace State.OpeKept

variable {s a c : State} {t : Nat}

theorem refl (s : State) (t : Nat) : s.OpeKept s t := ⟨fun _ _ => rfl, rfl⟩

theorem trans (h : s.OpeKept a t) (h' : a.OpeKept c t) : s.OpeKept c t := ⟨h.tiles.trans h'.tiles, h'.ope.trans h.ope⟩

theorem of_only {l : List Part} (h : s.Only a l) (hl : Part.tiles ∉ l := by decide) : s.OpeKept a t :=
  ⟨h.tilesBut hl t, congrArg Tile.ope (h.tile hl t)⟩

theorem of_onTile (s : State) (t : Nat) {g : Tile → Tile} (hg : ∀ x, (g x).ope = x.ope := by exact fun _ => rfl) : s.OpeKept (s.onTile t g) t :=
  ⟨s.tilesBut_onTile t g, by rw [State.tile_onTile_same, hg]⟩

theorem ite {p : Prop} [Decidable p] (ha : s.OpeKept a t) (hc : s.OpeKept c t) : s.OpeKept (if p then a else c) t := by
  split
  · exact ha
  · exact hc

end State.OpeKept

section
variable (s : State) (t : Nat) (b : BankId)

theorem State.opeKept_setSlot (i : Nat) (x : Slot) : s.OpeKept (s.setSlot t i x) t := .of_onTile s t

theorem State.opeKept_effCnt (slot : Option Nat) (f : Field) {sub : Nat} (n : Nat) (hs : sub < 4096) : s.OpeKept (s.effCnt t slot f sub n) t := by
  cases slot with
  | none => exact s.effCnt_now t f n hs ▸ .ite (.refl s t) (.of_only (s.only_cnt f t sub n))
  | some i => exact .ite (.refl s t) (s.opeKept_setSlot t i _)

theorem State.opeKept_effBankCount (slot : Option Nat) (m : Bool) (n : Nat) : s.OpeKept (s.effBankCount t slot b m n) t :=
  .ite (.refl s t) ((s.opeKept_effCnt t slot _ n (bankIdx_lt b)).trans (.of_only (State.only_activity _ t 6 n)))

theorem State.opeKept_unhold (kind : Nat) : s.OpeKept (s.unhold t kind) t := .of_onTile s t

theorem State.opeKept_holdAccess (kind : Nat) (slot : Option Nat) (n : Nat) : s.OpeKept (s.holdAccess t b kind slot n) t :=
  .ite (.refl s t) (.trans (.of_onTile s t) (State.opeKept_effCnt _ t slot _ n (bankIdx_lt b)))

theorem State.opeKept_spdErr (ue : Bool) (source word : Nat) : s.OpeKept (s.applyHeld t (.spdErr b ue source word)) t := by
  have noted : s.OpeKept (s.spdNoted t b ue source word) t := .of_only (s.frame_spdNoted t b ue source word).only
  cases ue with
  | true => exact noted
  | false => exact (noted.trans (.of_only (State.frame_reportTile _ _ _ _ _).only)).trans (.ite (.refl _ t) (.of_onTile _ t))

theorem State.opeKept_spdWordRead (source word : Nat) (slot : Option Nat) : s.OpeKept (s.spdWordRead t b source word slot).1 t := by
  have held (ue : Bool) : s.OpeKept (s.eff t slot (.spdErr b ue source word)) t := by
    cases slot with
    | none => exact s.opeKept_spdErr t b ue source word
    | some i => exact s.opeKept_setSlot t i _
  unfold State.spdWordRead
  split
  · exact .refl s t
  · exact held false
  · exact (held true).trans (.of_only (State.frame_reportTile _ _ _ _ _).only)

theorem State.opeKept_spdWordsRead (source off n : Nat) (slot : Option Nat) : s.OpeKept (s.spdWordsRead t b source off n slot).1 t := by
  unfold State.spdWordsRead
  refine List.foldlRecOn (wordParts off n) _ (motive := fun (acc : State × Bool) => s.OpeKept acc.1 t) (.refl s t) fun acc kept p _ => ?_
  dsimp only
  split
  · exact kept
  · exact kept.trans (State.opeKept_spdWordRead _ t b source _ slot)

/-- Good words are read without an effect. -/
theorem State.spdWordsRead_of_marks {s : State} (good : ∀ k, s.mark k = 0) (t : Nat) (b : BankId) (source off n : Nat) (slot : Option Nat) :
    s.spdWordsRead t b source off n slot = (s, false) := by
  unfold State.spdWordsRead
  refine List.foldlRecOn (wordParts off n) _ (motive := fun (acc : State × Bool) => acc = (s, false)) rfl fun acc same p _ => ?_
  have word : s.spdWordRead t b source (p.1 / 8) slot = (s, false) := by simp [State.spdWordRead, good]
  simp only [same, word, Bool.or_false, ite_self]

end

/-! ### Accumulators -/

/-- From s to a no tile but t has changed, and of t only accumulators with the exact sums that they stand for. -/
structure State.AccsBut (s a : State) (t : Nat) : Prop where
  tiles : s.TilesBut a t
  tile : ∃ acc exact, a.tile t = { s.tile t with ope := { (s.tile t).ope with acc := acc, exact := exact } }

namespace State.AccsBut

variable {s a c : State} {t : Nat}

theorem refl (s : State) (t : Nat) : s.AccsBut s t := ⟨fun _ _ => rfl, _, _, rfl⟩

theorem trans (h : s.AccsBut a t) (h' : a.AccsBut c t) : s.AccsBut c t := by
  obtain ⟨acc, sums, tile⟩ := h.tile
  obtain ⟨acc', sums', tile'⟩ := h'.tile
  exact ⟨h.tiles.trans h'.tiles, acc', sums', by rw [tile', tile]⟩

theorem foldl {α : Type} {g : State → α → State} (h : s.AccsBut a t) (hg : ∀ (x : State) e, x.AccsBut (g x e) t) (l : List α) :
    s.AccsBut (l.foldl g a) t := by
  induction l generalizing a with
  | nil => exact h
  | cons e l ih => exact ih (h.trans (hg a e))

end State.AccsBut

theorem State.accsBut_accSet (s : State) (t blk i j v : Nat) : s.AccsBut (s.accSet t blk i j v) t :=
  ⟨s.tilesBut_onTile t _, _, _, s.tile_onTile_same t _⟩

theorem State.accsBut_opeInit (s : State) (t : Nat) (f : OpeF) (blk bn mb nb : Nat) : s.AccsBut (s.opeInit t f blk bn mb nb) t :=
  .foldl (.refl s t) (fun x _ => .foldl (.refl x t) (fun y _ => y.accsBut_accSet t _ _ _ _) _) _

theorem State.accsBut_accScramble (s : State) (t blk : Nat) : s.AccsBut (s.accScramble t blk) t := by
  refine .foldl ⟨fun u hu => ?_, _, _, State.tile_onTile_same _ t _⟩ (fun x i => ⟨x.tilesBut_onTile t _, _, _, x.tile_onTile_same t _⟩) _
  exact State.tile_onTile_ne { s with free := s.free + 16384 } hu _

theorem State.only_accSet (s : State) (t blk i j v : Nat) : s.Only (s.accSet t blk i j v) [.tiles] := s.only_onTile t _

theorem State.only_opeInit (s : State) (t : Nat) (f : OpeF) (blk bn mb nb : Nat) : s.Only (s.opeInit t f blk bn mb nb) [.tiles] :=
  .foldl (.refl s _) (fun x _ => .foldl (.refl x _) (fun y _ => y.only_accSet t _ _ _ _) _) _

/-! ### The accumulators of a block that begins (R108) -/

/-- The initial value of the accumulators of a column: zero, or the column's bias word. -/
def State.initValue (s : State) (t : Nat) (f : OpeF) (j : Nat) : Nat := if f.biasEn then s.bankNat t .cb (f.bias + 4 * j) 4 else 0

theorem State.bankNat_eq (s : State) (t : Nat) (b : BankId) (off n : Nat) : s.bankNat t b off n = leNat (s.bytes (spdAddr t b off) n) := by
  simp only [State.bankNat, State.bytes, spdAddr_add]

theorem State.initValue_congr {s a : State} (h : a.mem = s.mem) (t : Nat) (f : OpeF) (j : Nat) : a.initValue t f j = s.initValue t f j := by
  simp only [State.initValue, State.bankNat, State.byte, h]

/-- One row of a block takes its initial values. -/
def State.initRow (s : State) (t : Nat) (f : OpeF) (blk bn nb i : Nat) : State :=
  (List.range nb).foldl (fun s j => s.accSet t blk i j (s.initValue t f (bn + j))) s

theorem State.only_initRow (s : State) (t : Nat) (f : OpeF) (blk bn nb i : Nat) : s.Only (s.initRow t f blk bn nb i) [.tiles] :=
  .foldl (.refl s _) (fun x _ => x.only_accSet t _ _ _ _) _

theorem State.opeInit_eq (s : State) (t : Nat) (f : OpeF) (blk bn mb nb : Nat) :
    s.opeInit t f blk bn mb nb = (List.range mb).foldl (fun s i => s.initRow t f blk bn nb i) s := rfl

section
variable (s : State) (t : Nat) (f : OpeF) (blk bn : Nat)

theorem State.accGet_accSet {i j a b : Nat} (hj : j < 128) (hb : b < 128) (v : Nat) :
    (s.accSet t blk i j v).accGet t blk a b = if a = i ∧ b = j then v else s.accGet t blk a b := by
  have get : (s.accSet t blk i j v).accGet t blk a b = sget 0 (accKey blk a b) (sput 0 (accKey blk i j) v (s.tile t).ope.acc) := by
    simp [State.accGet, State.accSet, State.accPut]
  rw [get]
  split
  next same =>
    obtain ⟨rfl, rfl⟩ := same
    exact sget_sput_same _ _ _ _
  next other =>
    have key : accKey blk a b ≠ accKey blk i j := by
      unfold accKey
      omega
    exact sget_sput_ne _ key _ _

theorem State.accGet_initRow {nb i a b : Nat} (hnb : nb ≤ 128) (hb : b < 128) :
    (s.initRow t f blk bn nb i).accGet t blk a b = if a = i ∧ b < nb then s.initValue t f (bn + b) else s.accGet t blk a b := by
  induction nb with
  | zero => simp [State.initRow]
  | succ nb ih =>
    have last : s.initRow t f blk bn (nb + 1) i =
        (s.initRow t f blk bn nb i).accSet t blk i nb ((s.initRow t f blk bn nb i).initValue t f (bn + nb)) := by
      simp only [State.initRow, List.range_succ, List.foldl_append, List.foldl_cons, List.foldl_nil]
    have value := State.initValue_congr (s.only_initRow t f blk bn nb i .mem (by decide)) t f (bn + nb)
    rw [last, State.accGet_accSet _ t blk (by omega) hb, value, ih (by omega)]
    by_cases h : b = nb
    · subst h
      simp
    · simp only [h, and_false, if_false, (by omega : b < nb + 1 ↔ b < nb)]

theorem State.accGet_opeInit {mb nb a b : Nat} (hnb : nb ≤ 128) (hb : b < 128) :
    (s.opeInit t f blk bn mb nb).accGet t blk a b = if a < mb ∧ b < nb then s.initValue t f (bn + b) else s.accGet t blk a b := by
  induction mb with
  | zero => simp [State.opeInit]
  | succ mb ih =>
    have last : s.opeInit t f blk bn (mb + 1) nb = (s.opeInit t f blk bn mb nb).initRow t f blk bn nb mb := by
      simp only [State.opeInit_eq, List.range_succ, List.foldl_append, List.foldl_cons, List.foldl_nil]
    have value := State.initValue_congr (s.only_opeInit t f blk bn mb nb .mem (by decide)) t f (bn + b)
    rw [last, State.accGet_initRow _ t f blk bn hnb hb, value, ih]
    by_cases h : a = mb
    · subst h
      simp
    · simp only [h, false_and, if_false, (by omega : a < mb + 1 ↔ a < mb)]

end

end Sys2Proof.Machine
end

section
/-! SUPPORT. How the OPE's running instruction moves on without a step (R103, R108, R111, R116): the block that begins, and what every move keeps. -/
namespace Sys2Proof.Machine

/-! ### A block begins (R108) -/

/-- The bias words of the running instruction's block are read where it has a bias: the state after the counted read, and whether a word is poisoned. -/
def State.biasRead (s : State) (t : Nat) (r : OpeRun) : State × Bool :=
  let f := opeFields r.ins
  let off := f.bias + 4 * r.bn
  let n := 4 * (f.blockDims r.bm r.bn).2
  let q := s.spdRead t .cb 1 off n r.ins.slot
  if f.biasEn then (q.1.effBankCount t r.ins.slot .cb false (linesOf off n), q.2.2) else (s, false)

theorem State.opeKept_biasRead (s : State) (t : Nat) (r : OpeRun) : s.OpeKept (s.biasRead t r).1 t := by
  unfold State.biasRead
  dsimp only
  split
  · exact (s.opeKept_spdWordsRead t .cb _ _ _ _).trans (State.opeKept_effBankCount _ t .cb _ _ _)
  · exact .refl s t

/-- The accumulators of the running instruction's block take their initial values, and its first segment is next. -/
def State.blockBegun (s : State) (t : Nat) (r : OpeRun) : State :=
  let f := opeFields r.ins
  let d := f.blockDims r.bm r.bn
  let s := if f.acc then s else s.opeInit t f r.blk r.bn d.1 d.2
  let sg := if f.k = 0 then ([], 0) else s.opeSegment t f r.bm r.bn 0 0 0
  s.setRun t (some { r with begun := true, k0 := 0, sm := 0, sn := 0, seg := sg.1, scans := sg.2, staged := false, lines := 0 })

/-- The running instruction's complete block is queued to drain, where the instruction drains (R110). -/
def State.drainQueued (s : State) (t : Nat) (r : OpeRun) : State :=
  let f := opeFields r.ins
  let d := f.blockDims r.bm r.bn
  let drain : OpeDrain := { ins := r.ins, blk := r.blk, bm := r.bm, bn := r.bn, mb := d.1, nb := d.2 }
  if f.drain = 0 then s else s.onTile t (fun x => { x with ope := { x.ope with drains := x.ope.drains ++ [drain] } })

/-- An abort's effect on the tile but for its accumulators: the running instruction waits to complete, its drains are dropped, and with the last drain of
the OPE the item that it offers (R116). -/
def State.opeStopped (s : State) (t : Nat) (r : OpeRun) : State :=
  s.onTile t (fun x =>
    let kept := x.ope.drains.take (x.ope.drains.length - r.drains)
    { x with
      items := if kept.isEmpty then [] else x.items
      ope := { x.ope with
        run := none, drains := kept, fins := x.ope.fins ++ [{ ins := r.ins, steps := r.steps, drains := 0, reason := 0x10 }] } })

theorem State.opeAbort_eq (s : State) (t : Nat) (r : OpeRun) : s.opeAbort t r = (s.opeStopped t r).accScramble t r.blk := rfl

section
variable {s : State} {t : Nat} {r : OpeRun}

theorem State.opeAdvance_idle (idle : (s.tile t).ope.run = none) (fuel : Nat) : s.opeAdvance t fuel = s := by
  cases fuel with
  | zero => rfl
  | succ fuel => rw [State.opeAdvance, idle]

/-- A block that has not begun waits for its output tile, waits for its bias bank, is aborted by a poisoned bias word, or begins. -/
theorem State.opeAdvance_waiting (runs : (s.tile t).ope.run = some r) (waits : r.begun = false) (fuel : Nat) :
    s.opeAdvance t (fuel + 1) =
      if (s.tile t).drainBlocks r then s
      else if (opeFields r.ins).biasEn ∧ s.clearing t .cb then s.holdAccess t .cb 6 r.ins.slot
      else if ((s.unhold t 6).biasRead t r).2 then ((s.unhold t 6).biasRead t r).1.opeAbort t r
      else (((s.unhold t 6).biasRead t r).1.blockBegun t r).opeAdvance t fuel := by
  cases bias : (opeFields r.ins).biasEn <;>
    simp [State.opeAdvance, runs, waits, State.biasRead, State.blockBegun, bias]

/-- A segment with steps left waits for them. -/
theorem State.opeAdvance_stepping (runs : (s.tile t).ope.run = some r) (begun : r.begun = true) (steps : r.seg ≠ []) (fuel : Nat) :
    s.opeAdvance t fuel = s := by
  cases fuel with
  | zero => rfl
  | succ fuel => simp [State.opeAdvance, runs, begun, steps]

/-- A read of good bias words counts and does nothing else. -/
theorem State.biasRead_good (untagged : r.ins.slot = none) (good : (opeFields r.ins).biasEn = true → ∀ k, s.mark k = 0) (ht : t < 256) :
    (s.biasRead t r).2 = false ∧ s.Only (s.biasRead t r).1 [.regs, .act] ∧ s.FieldsBut (s.biasRead t r).1 [(.spdAccOther, t, 3)] := by
  cases bias : (opeFields r.ins).biasEn with
  | false =>
    have same : s.biasRead t r = (s, false) := by simp [State.biasRead, bias]
    rw [same]
    exact ⟨rfl, .refl s _, .refl s _⟩
  | true =>
    have read : s.biasRead t r = (s.effBankCount t none .cb false
        (linesOf ((opeFields r.ins).bias + 4 * r.bn) (4 * ((opeFields r.ins).blockDims r.bm r.bn).2)), false) := by
      simp [State.biasRead, bias, State.spdRead, State.spdWordsRead_of_marks (good bias), untagged]
    rw [read]
    generalize linesOf _ _ = n
    refine ⟨rfl, ?_⟩
    unfold State.effBankCount
    split
    · exact ⟨.refl s _, .refl s _⟩
    · next some =>
      have ht' : t % 65536 = t := by omega
      rw [s.effCnt_now t _ n (bankIdx_lt .cb), if_neg some]
      exact ⟨((s.only_cnt _ _ _ _).mono (by decide)).trans ((State.only_activity _ _ _ _).mono (by decide)),
        .congr (.cnt (.refl s _) (f := .spdAccOther) (i := t) (j := 3) (by simp [ht']) n) (State.activity_regs _ _ _ _) (State.activity_variant _ _ _ _)⟩

end

/-! ### What every move keeps -/

/-- Instruction i has left the queue: it is being folded, or its steps are over and it waits to complete. -/
def Ope.Folds (o : Ope) (i : OpeInstr) : Prop := (∃ r, o.run = some r ∧ r.ins = i) ∨ (o.run = none ∧ ∃ n ∈ o.fins, n.ins = i)

/-- From z to s no tile but t has changed; t's OPE queue is `rest`, and instruction i has left it. -/
structure State.Folding (z s : State) (t : Nat) (rest : List OpeInstr) (i : OpeInstr) : Prop where
  tiles : z.TilesBut s t
  queue : (s.tile t).ope.queue = rest
  folds : (s.tile t).ope.Folds i

namespace State.Folding

variable {z s a : State} {t : Nat} {rest : List OpeInstr} {i : OpeInstr}

theorem kept (h : z.Folding s t rest i) (k : s.OpeKept a t) : z.Folding a t rest i :=
  ⟨h.tiles.trans k.tiles, k.ope ▸ h.queue, k.ope ▸ h.folds⟩

theorem ite {p : Prop} [Decidable p] (ha : z.Folding s t rest i) (hc : z.Folding a t rest i) : z.Folding (if p then s else a) t rest i := by
  split
  · exact ha
  · exact hc

theorem accs (h : z.Folding s t rest i) (k : s.AccsBut a t) : z.Folding a t rest i := by
  obtain ⟨acc, sums, tile⟩ := k.tile
  exact ⟨h.tiles.trans k.tiles, by rw [tile]; exact h.queue, by rw [tile]; exact h.folds⟩

/-- A change of the tile that keeps the queue, after which the OPE folds i or has it finished. -/
theorem onTile (h : z.Folding s t rest i) {g : Tile → Tile} (queue : (g (s.tile t)).ope.queue = (s.tile t).ope.queue)
    (folds : (g (s.tile t)).ope.Folds i) : z.Folding (s.onTile t g) t rest i :=
  ⟨h.tiles.trans (s.tilesBut_onTile t g), by rw [State.tile_onTile_same, queue, h.queue], by rw [State.tile_onTile_same]; exact folds⟩

theorem setRun (h : z.Folding s t rest i) {r : OpeRun} (hr : r.ins = i) : z.Folding (s.setRun t (some r)) t rest i :=
  h.onTile rfl (.inl ⟨r, rfl, hr⟩)

/-- The running instruction's steps are over. -/
theorem ended (h : z.Folding s t rest i) {g : Tile → Tile} {n : OpeFin} (queue : (g (s.tile t)).ope.queue = (s.tile t).ope.queue)
    (run : (g (s.tile t)).ope.run = none) (fins : (g (s.tile t)).ope.fins = (s.tile t).ope.fins ++ [n]) (hn : n.ins = i) :
    z.Folding (s.onTile t g) t rest i :=
  h.onTile queue (.inr ⟨run, n, by simp [fins], hn⟩)

theorem abort (h : z.Folding s t rest i) {r : OpeRun} (hr : r.ins = i) : z.Folding (s.opeAbort t r) t rest i :=
  have stopped : z.Folding (s.opeStopped t r) t rest i := h.ended rfl rfl rfl hr
  State.opeAbort_eq s t r ▸ stopped.accs (State.accsBut_accScramble _ t _)

theorem blockBegun (h : z.Folding s t rest i) {r : OpeRun} (hr : r.ins = i) : z.Folding (s.blockBegun t r) t rest i := by
  unfold State.blockBegun
  dsimp only
  split
  · exact h.setRun hr
  · exact (h.accs (s.accsBut_opeInit t _ _ _ _ _)).setRun hr

/-- The running instruction stays in the OPE as it moves on. -/
theorem opeAdvance (h : z.Folding s t rest i) (fuel : Nat) : z.Folding (s.opeAdvance t fuel) t rest i := by
  induction fuel generalizing s with
  | zero => exact h
  | succ fuel ih =>
    cases runs : (s.tile t).ope.run with
    | none => rwa [State.opeAdvance_idle runs]
    | some r =>
      have hr : r.ins = i := by
        rcases h.folds with ⟨r', runs', hr'⟩ | ⟨idle, -⟩
        · exact Option.some.inj (runs.symm.trans runs') ▸ hr'
        · exact absurd (runs.symm.trans idle) (by simp)
      cases begun : r.begun with
      | false =>
        have read := h.kept ((s.opeKept_unhold t 6).trans (State.opeKept_biasRead _ t r))
        rw [State.opeAdvance_waiting runs begun]
        split
        · exact h
        · split
          · exact h.kept (s.opeKept_holdAccess t .cb _ _ _)
          · split
            · exact read.abort hr
            · exact ih (read.blockBegun hr)
      | true =>
        rw [State.opeAdvance]
        simp only [runs, begun, Bool.not_true, Bool.false_eq_true, if_false]
        split
        · exact h
        · split
          · exact ih (h.setRun hr)
          · have drained : z.Folding (s.drainQueued t r) t rest i := .ite h (h.onTile rfl (.inl ⟨r, runs, hr⟩))
            split
            · exact ih (drained.setRun hr)
            · exact drained.ended rfl rfl rfl hr

end State.Folding

end Sys2Proof.Machine
end

section
/-! SUPPORT. The first segment of a dense block (R103), and the record of an illegal instruction (R99). -/
namespace Sys2Proof.Machine

/-! ### The first segment -/

/-- Every pair of operands is multiplied in at least one pass (R94). -/
theorem opePair_passes {opcode : Nat} {a b : Fmt} {accInt : Bool} {p : Nat × Nat} (h : opePair opcode a b accInt = some p) : 0 < p.2 := by
  unfold opePair at h
  repeat' split at h
  all_goals cases h
  all_goals decide

theorem OpeF.np_pos (f : OpeF) : 0 < f.np := by
  unfold OpeF.np
  cases pair : opePair f.opcode f.a f.b f.accInt with
  | none => exact Nat.one_pos
  | some p => exact opePair_passes pair

theorem OpeF.psteps_pos (f : OpeF) : 0 < f.psteps := by
  unfold OpeF.psteps
  split <;> decide

/-- The steps of a dense panel: its positions, pass by pass. -/
def OpeF.denseSegment (f : OpeF) (k0 : Nat) : List (Nat × Nat) :=
  (List.range f.np).flatMap (fun p => (((List.range f.psteps).map (fun q => k0 + q * f.kd)).filter (fun k => decide (k < f.k))).map (fun k => (k, p)))

theorem State.opeSegment_dense (s : State) (t : Nat) {f : OpeF} (dense : f.sparse = 0) (bm bn k0 sm sn : Nat) :
    s.opeSegment t f bm bn k0 sm sn = (f.denseSegment k0, 0) := by
  simp [State.opeSegment, OpeF.denseSegment, State.groupTaken, OpeF.span, dense]

theorem OpeF.denseSegment_ne_nil {f : OpeF} {k0 : Nat} (h : k0 < f.k) : f.denseSegment k0 ≠ [] := by
  refine List.ne_nil_of_mem (a := (k0, 0)) (List.mem_flatMap.2 ⟨0, List.mem_range.2 f.np_pos, List.mem_map.2 ⟨k0, ?_, rfl⟩⟩)
  exact List.mem_filter.2 ⟨List.mem_map.2 ⟨0, List.mem_range.2 f.psteps_pos, by omega⟩, by simpa using h⟩

/-! ### The record of an illegal instruction -/

/-- The fields that the first error of a tile's OPE is recorded in (R99). -/
def opeErrFields : List Field := .opeErrInfoReason :: .opeErrWord0 :: .opeErrWord1 :: .opeErrInfoValid :: .rasResetSuppress :: eventNames

section
variable (s : State) (t reason w0 w1 : Nat)

theorem State.frame_opeErr : s.Frame (s.applyHeld t (.opeErr reason w0 w1)) [.regs, .ras, .ic, .adit] opeErrFields := by
  have told : s.Frame (s.reportTile 1 t (0x100 + reason) w0) [.regs, .ras, .ic, .adit] opeErrFields :=
    .mono (s.frame_reportTile 1 t (0x100 + reason) w0)
  exact .ite told (((((told.wr t 0 _).wr t 0 _).wr t 0 _).wr t 0 1).after (State.frame_irq _ t))

/-- While VALID is 0 the reason and both words are recorded. -/
theorem State.opeErr_recorded (empty : s.rd .opeErrInfoValid t = 0) :
    (s.applyHeld t (.opeErr reason w0 w1)).rd .opeErrInfoValid t = 1 ∧
      (s.applyHeld t (.opeErr reason w0 w1)).rd .opeErrInfoReason t = reason % 256 ∧
      (s.applyHeld t (.opeErr reason w0 w1)).rd .opeErrWord0 t = w0 % 2 ^ 64 ∧
      (s.applyHeld t (.opeErr reason w0 w1)).rd .opeErrWord1 t = w1 % 2 ^ 64 := by
  have told := s.frame_reportTile 1 t (0x100 + reason) w0
  have records : s.applyHeld t (.opeErr reason w0 w1) = (((((s.reportTile 1 t (0x100 + reason) w0).wr .opeErrInfoReason t 0 reason).wr
      .opeErrWord0 t 0 w0).wr .opeErrWord1 t 0 w1).wr .opeErrInfoValid t 0 1).irq t :=
    if_neg (by simp [State.on, told.rd .opeErrInfoValid t 0 (by decide), empty])
  have after (a : State) {f : Field} (hf : f ∉ eventNames) : (a.irq t).rd f t = a.rd f t := (a.frame_irq t).rd f t 0 hf
  rw [records]
  refine ⟨?_, ?_, ?_, ?_⟩
  · rw [after _ (by decide), State.rd_wr_same]
    rfl
  · rw [after _ (by decide), State.rd_wr_ne _ (by decide), State.rd_wr_ne _ (by decide), State.rd_wr_ne _ (by decide), State.rd_wr_same]
    rfl
  · rw [after _ (by decide), State.rd_wr_ne _ (by decide), State.rd_wr_ne _ (by decide), State.rd_wr_same]
    rfl
  · rw [after _ (by decide), State.rd_wr_ne _ (by decide), State.rd_wr_same]
    rfl

end

/-- An untagged illegal instruction counts and is recorded, and its completion is signalled. -/
theorem State.opeRefuse_untagged (s : State) (t : Nat) {i : OpeInstr} (untagged : i.slot = none) (reason : Nat) :
    s.opeRefuse t i reason = ((((s.cnt .opeIllegal t 0 1).cnt .opeDone t 0 1).applyHeld t (.opeErr reason i.w0 i.w1)).applyHeld t (.event 0)) := by
  simp [State.opeRefuse, untagged, State.effCnt_now, State.eff, State.tagOver]

theorem State.only_event (s : State) (t b : Nat) : s.Only (s.applyHeld t (.event b)) [.tiles] := s.only_onTile t _

/-- Two counters count, and the first error is recorded. -/
theorem State.opeRefuse_counts (s : State) (t : Nat) {i : OpeInstr} (untagged : i.slot = none) (reason : Nat) :
    (s.opeRefuse t i reason).rd .opeIllegal t = (s.rd .opeIllegal t + 1) % 2 ^ 64 ∧
      (s.opeRefuse t i reason).rd .opeDone t = (s.rd .opeDone t + 1) % 2 ^ 64 ∧
      (s.rd .opeErrInfoValid t = 0 → (s.opeRefuse t i reason).rd .opeErrInfoValid t = 1 ∧
        (s.opeRefuse t i reason).rd .opeErrInfoReason t = reason % 256 ∧ (s.opeRefuse t i reason).rd .opeErrWord0 t = i.w0 % 2 ^ 64 ∧
        (s.opeRefuse t i reason).rd .opeErrWord1 t = i.w1 % 2 ^ 64) := by
  rw [s.opeRefuse_untagged t untagged]
  have signalled (a : State) (f : Field) : (a.applyHeld t (.event 0)).rd f t = a.rd f t := a.rd_onTile t _ f t 0
  simp only [signalled]
  refine ⟨?_, ?_, fun empty => ?_⟩
  · rw [(State.frame_opeErr _ t reason i.w0 i.w1).rd _ _ _ (by decide), State.rd_cnt_ne _ (by decide), State.rd_cnt_same]
    rfl
  · rw [(State.frame_opeErr _ t reason i.w0 i.w1).rd _ _ _ (by decide), State.rd_cnt_same, State.rd_cnt_ne _ (by decide)]
    rfl
  · exact State.opeErr_recorded _ t reason i.w0 i.w1
      (by rw [State.rd_cnt_ne _ (by decide), State.rd_cnt_ne _ (by decide), empty])

/-- Beside its tile's event bit it changes registers, reports and interrupts only. -/
theorem State.opeRefuse_frame (s : State) (t : Nat) {i : OpeInstr} (untagged : i.slot = none) (reason : Nat) :
    (s.opeRefuse t i reason).tile t = { s.tile t with core := { (s.tile t).core with ev0 := (s.tile t).core.ev0 ||| 2 ^ 0 } } ∧
      s.TilesBut (s.opeRefuse t i reason) t ∧ s.Only (s.opeRefuse t i reason) [.regs, .ras, .ic, .adit, .tiles] := by
  rw [s.opeRefuse_untagged t untagged]
  have counted : s.Only ((s.cnt .opeIllegal t 0 1).cnt .opeDone t 0 1) [.regs, .ras, .ic, .adit] :=
    ((s.only_cnt _ _ _ _).trans (State.only_cnt _ _ _ _ _)).mono (by decide)
  have recorded := counted.trans (State.frame_opeErr _ t reason i.w0 i.w1).only
  generalize ((s.cnt .opeIllegal t 0 1).cnt .opeDone t 0 1).applyHeld t (.opeErr reason i.w0 i.w1) = a at recorded ⊢
  refine ⟨?_, ?_, (recorded.mono (by decide)).trans ((State.only_event a t 0).mono (by decide))⟩
  · rw [show (a.applyHeld t (.event 0)).tile t = _ from a.tile_onTile_same t _, recorded.tile (by decide)]
  · exact (recorded.tilesBut (by decide) t).trans (a.tilesBut_onTile t _)

end Sys2Proof.Machine
end

section
/-! PROOF. How an instruction of the outer-product engine leaves its queue (R96, R99, R103, R108). -/
namespace Sys2Proof.Machine

/-- The head of the queue, i, has left it to be folded. -/
def State.opeTaken (s : State) (t : Nat) (i : OpeInstr) (rest : List OpeInstr) : State :=
  s.onTile t (fun x => { x with ope := { x.ope with queue := rest, run := some { ins := i } } })

section
variable {s : State} {t : TileId} {i : OpeInstr} {rest : List OpeInstr} {mma1 : Bool}

/-- OPE_MMA and OPE_MMA1 answer what `State.opeStart` says. -/
theorem completes_opeStart {P : State → Prop} (h : P (s.opeStart t mma1)) : Completes (if mma1 then .opeMma1 t else .opeMma t) s P := by
  cases mma1 with
  | false => exact ⟨_, rfl, h⟩
  | true => exact ⟨_, rfl, h⟩

/-- The tile's OPE folds no instruction, and the next one is i, of the kind that the command starts. -/
structure State.OpeNext (s : State) (t : Nat) (i : OpeInstr) (rest : List OpeInstr) (mma1 : Bool) : Prop where
  active : (s.tile t).active = true
  idle : (s.tile t).ope.run = none
  queue : (s.tile t).ope.queue = i :: rest
  kind : (bitsOf i.w0 63 58 == 2) = mma1

theorem State.OpeNext.illegal (h : s.OpeNext t i rest mma1) {reason : Nat} (bad : s.opeIllegal t i = some reason) :
    s.opeStart t mma1 = s.opeDiscard t i reason := by
  obtain ⟨active, idle, queue, kind⟩ := h
  simp [State.opeStart, active, idle, queue, kind, bad]

theorem State.OpeNext.legal (h : s.OpeNext t i rest mma1) (good : s.opeIllegal t i = none) :
    s.opeStart t mma1 = (s.opeTaken t i rest).opeAdvance t opeFuel := by
  obtain ⟨active, idle, queue, kind⟩ := h
  simp [State.opeStart, active, idle, queue, kind, good, State.opeTaken]

/-- An illegal instruction with no other yet to complete leaves the queue and completes. -/
theorem State.opeDiscard_first (s : State) (t : Nat) (i : OpeInstr) (reason : Nat)
    (first : (s.tile t).ope.fins = []) : s.opeDiscard t i reason =
      (s.onTile t (fun x => { x with ope := { x.ope with queue := x.ope.queue.tail } })).opeRefuse t i reason := by
  simp [State.opeDiscard, first]

/-- Behind others it waits to do so. -/
theorem State.opeDiscard_behind (s : State) (t : Nat) (i : OpeInstr) (reason : Nat) (behind : (s.tile t).ope.fins ≠ []) :
    s.opeDiscard t i reason = s.onTile t (fun x => { x with ope := { x.ope with
      queue := x.ope.queue.tail, fins := x.ope.fins ++ [{ ins := i, steps := 0, drains := 0, reason := reason }] } }) := by
  simp [State.opeDiscard, behind]

theorem State.opeTaken_folding (s : State) (t : Nat) (i : OpeInstr) (rest : List OpeInstr) : s.Folding (s.opeTaken t i rest) t rest i :=
  ⟨s.tilesBut_onTile t _, by simp [State.opeTaken], .inl ⟨{ ins := i }, by simp [State.opeTaken], rfl⟩⟩

/-- The first block of an untagged instruction goes to the output tile that TSEL names. -/
theorem OpeRun.blk_first (untagged : i.slot = none) : OpeRun.blk { ins := i } = (opeFields i).tsel % 2 := by
  simp [OpeRun.blk, untagged, opeFields]

/-- i may begin its first block: it is untagged and dense with a K, no drain holds its output tile, and its bias words, if any, are good. -/
structure State.FirstBegins (s : State) (t : Nat) (i : OpeInstr) : Prop where
  untagged : i.slot = none
  dense : (opeFields i).sparse = 0
  positive : 0 < (opeFields i).k
  free : (s.tile t).ope.drains = []
  bias : (opeFields i).biasEn = true → s.clearing t .cb = false ∧ ∀ k, s.mark k = 0

/-- The state in which the bias words of i's first block have been read. -/
def State.firstRead (s : State) (t : Nat) (i : OpeInstr) (rest : List OpeInstr) : State := (((s.opeTaken t i rest).unhold t 6).biasRead t { ins := i }).1

/-- The instruction as its first block begins. -/
def OpeInstr.first (i : OpeInstr) : OpeRun := { ins := i, begun := true, seg := (opeFields i).denseSegment 0 }

theorem State.FirstBegins.read (h : s.FirstBegins t i) (rest : List OpeInstr) :
    (((s.opeTaken t i rest).unhold t 6).biasRead t { ins := i }).2 = false ∧
      ((s.opeTaken t i rest).unhold t 6).Only (s.firstRead t i rest) [.regs, .act] ∧
      ((s.opeTaken t i rest).unhold t 6).FieldsBut (s.firstRead t i rest) [(.spdAccOther, t.val, 3)] :=
  State.biasRead_good h.untagged (fun bias => (h.bias bias).2) t.isLt

theorem State.FirstBegins.blockBegun (h : s.FirstBegins t i) (a : State) : a.blockBegun t { ins := i } =
    (if (opeFields i).acc then a else a.opeInit t (opeFields i) ((opeFields i).tsel % 2) 0 (min 128 (opeFields i).m) (min 128 (opeFields i).n)).setRun t
      (some i.first) := by
  have positive := Nat.ne_of_gt h.positive
  simp [State.blockBegun, State.opeSegment_dense _ t h.dense, positive, OpeRun.blk_first h.untagged, OpeF.blockDims, OpeInstr.first]

/-- The instruction begins its first block, whose first segment then waits for its steps. -/
theorem State.FirstBegins.opeAdvance (h : s.FirstBegins t i) (rest : List OpeInstr) :
    (s.opeTaken t i rest).opeAdvance t opeFuel = (s.firstRead t i rest).blockBegun t { ins := i } := by
  have runs : ((s.opeTaken t i rest).tile t).ope.run = some { ins := i } := by simp [State.opeTaken]
  have begins : ¬ ((s.opeTaken t i rest).tile t).drainBlocks { ins := i } = true := by
    simp [Tile.drainBlocks, Tile.drainPending, State.opeTaken, h.free]
  have isOpen : ¬ ((opeFields i).biasEn = true ∧ (s.opeTaken t i rest).clearing t .cb = true) := fun ⟨bias, clearing⟩ => by
    have same : (s.opeTaken t i rest).clearing t .cb = s.clearing t .cb := by simp [State.clearing, State.bank, State.opeTaken]
    exact absurd (same.symm.trans clearing) (by simp [(h.bias bias).1])
  have begun : (((s.firstRead t i rest).blockBegun t { ins := i }).tile t).ope.run = some i.first := by
    rw [h.blockBegun]
    simp [State.setRun]
  rw [show opeFuel = 2199 + 1 from rfl, State.opeAdvance_waiting runs rfl, if_neg begins, if_neg isOpen, if_neg (by simp [(h.read rest).1])]
  exact State.opeAdvance_stepping begun rfl (OpeF.denseSegment_ne_nil h.positive) _

/-- What reading the bias words of the first block leaves as it is. -/
theorem State.FirstBegins.read_frame (h : s.FirstBegins t i) (rest : List OpeInstr) :
    (s.firstRead t i rest).tile t = { s.tile t with
      ope := { (s.tile t).ope with queue := rest, run := some { ins := i } }
      held := (s.tile t).held.filter (fun k => k != 6 && !holdOf 6 k) } ∧
      s.TilesBut (s.firstRead t i rest) t ∧ s.FieldsBut (s.firstRead t i rest) [(.spdAccOther, t.val, 3)] ∧
      s.Only (s.firstRead t i rest) [.regs, .tiles, .act] := by
  obtain ⟨-, only, fields⟩ := h.read rest
  refine ⟨?_, ?_, .trans (.congr (.refl s _) rfl rfl) fields, ?_⟩
  · rw [only.tile (by decide)]
    simp [State.unhold, State.opeTaken]
  · exact ((s.tilesBut_onTile t _).trans (State.tilesBut_onTile _ t _)).trans (only.tilesBut (by decide) t)
  · exact (((s.only_onTile t _).trans (State.only_onTile _ t _)).mono (by decide)).trans (only.mono (by decide))

theorem State.accGet_setRun (s : State) (t : Nat) (r : Option OpeRun) (blk a b : Nat) : (s.setRun t r).accGet t blk a b = s.accGet t blk a b := by
  simp [State.accGet, State.setRun]

/-- Once the accumulators of the first block are placed, the instruction runs. -/
theorem State.FirstBegins.placed (h : s.FirstBegins t i) (rest : List OpeInstr) {c : State} (accs : (s.firstRead t i rest).AccsBut c t)
    (onlyTiles : (s.firstRead t i rest).Only c [.tiles]) :
    let s' := c.setRun t (some i.first)
    (s'.tile t).ope.run = some i.first ∧ (s'.tile t).ope.queue = rest ∧
      s'.tile t = { s.tile t with ope := (s'.tile t).ope, held := (s'.tile t).held } ∧ s.TilesBut s' t ∧
      s.FieldsBut s' [(.spdAccOther, t.val, 3)] ∧ s.Only s' [.regs, .tiles, .act] := by
  obtain ⟨tile, tiles, fields, only⟩ := h.read_frame rest
  obtain ⟨acc, sums, changed⟩ := accs.tile
  have run : (c.setRun t (some i.first)).tile t = { c.tile t with ope := { (c.tile t).ope with run := some i.first } } := c.tile_onTile_same t _
  dsimp only
  rw [run, changed, tile]
  exact ⟨rfl, rfl, rfl, (tiles.trans accs.tiles).trans (c.tilesBut_onTile t _),
    fields.trans (.congr (.refl _ _) (onlyTiles .regs (by decide)) (onlyTiles .variant (by decide))),
    only.trans ((onlyTiles.mono (by decide)).trans ((c.only_onTile t _).mono (by decide)))⟩

/-- What the beginning of the first block changes. -/
theorem State.FirstBegins.begun (h : s.FirstBegins t i) (rest : List OpeInstr) :
    let s' := (s.firstRead t i rest).blockBegun t { ins := i }
    let f := opeFields i
    (s'.tile t).ope.run = some i.first ∧ (s'.tile t).ope.queue = rest ∧
      (f.acc = false → ∀ a b, a < min 128 f.m → b < min 128 f.n → s'.accGet t (f.tsel % 2) a b = s.initValue t f b) ∧
      (f.acc = true → (s'.tile t).ope.acc = (s.tile t).ope.acc) ∧
      s'.tile t = { s.tile t with ope := (s'.tile t).ope, held := (s'.tile t).held } ∧ s.TilesBut s' t ∧
      s.FieldsBut s' [(.spdAccOther, t.val, 3)] ∧ s.Only s' [.regs, .tiles, .act] := by
  obtain ⟨tile, -, -, only⟩ := h.read_frame rest
  rw [h.blockBegun]
  cases acc : (opeFields i).acc with
  | true =>
    obtain ⟨run, queue, kept⟩ := h.placed rest (.refl _ t) (.refl _ _)
    refine ⟨run, queue, fun off => absurd (acc.symm.trans off) (by simp), fun _ => ?_, kept⟩
    simp [State.setRun, tile]
  | false =>
    have wide := Nat.min_le_left 128 (opeFields i).n
    have mem : (s.firstRead t i rest).mem = s.mem := only .mem (by decide)
    obtain ⟨run, queue, kept⟩ := h.placed rest (State.accsBut_opeInit _ t (opeFields i) ((opeFields i).tsel % 2) 0 (min 128 (opeFields i).m) _)
      (State.only_opeInit _ t _ _ _ _ (min 128 (opeFields i).n))
    refine ⟨run, queue, fun _ x y hx hy => ?_, fun on => absurd (acc.symm.trans on) (by simp), kept⟩
    rw [State.accGet_setRun, if_neg (by simp), State.accGet_opeInit _ t _ _ _ wide (Nat.lt_of_lt_of_le hy wide), if_pos ⟨hx, hy⟩, Nat.zero_add,
      State.initValue_congr mem]

end

/-- Settles O23: an illegal head of the queue is discarded, at once or behind others; a legal one stays in the OPE through every move of `opeAdvance`,
and a dense one begins its first block at once. -/
theorem opeInstructionsStart : Obligations.OpeInstructionsStart := by
  unfold Obligations.OpeInstructionsStart
  intro mma1 t s i rest active idle queue untagged kind
  have next : s.OpeNext t i rest mma1 := ⟨active, idle, queue, kind⟩
  refine ⟨fun reason bad first => completes_opeStart ?_, fun reason bad behind => completes_opeStart ?_, fun good => completes_opeStart ?_,
    fun good dense positive free bias => completes_opeStart ?_⟩
  · rw [next.illegal bad, State.opeDiscard_first s t i reason first]
    set a := s.onTile t (fun x => { x with ope := { x.ope with queue := x.ope.queue.tail } }) with ha
    obtain ⟨illegal, done, recorded⟩ := a.opeRefuse_counts t untagged reason
    obtain ⟨tile, tiles, only⟩ := a.opeRefuse_frame t untagged reason
    have left : (a.tile t).ope = { (s.tile t).ope with queue := rest } := by simp [ha, queue]
    refine ⟨by rw [tile]; exact left, ?_, illegal, done, recorded, (s.tilesBut_onTile t _).trans tiles, fun k => only.byte (by decide) k⟩
    rw [tile]
    simp
  · rw [next.illegal bad, State.opeDiscard_behind s t i reason behind, State.tile_onTile_same, queue]
    exact ⟨rfl, s.tilesBut_onTile t _, s.only_onTile t _⟩
  · rw [next.legal good]
    obtain ⟨tiles, queue', folds⟩ := (s.opeTaken_folding t i rest).opeAdvance opeFuel
    exact ⟨queue', folds, tiles⟩
  · have begins : s.FirstBegins t i := ⟨untagged, dense, positive, free, bias⟩
    rw [next.legal good, begins.opeAdvance]
    obtain ⟨run, queue', fresh, kept⟩ := begins.begun rest
    refine ⟨⟨i.first, run, rfl, rfl, rfl, rfl, rfl, rfl, rfl⟩, queue', fun acc a b ha hb => ?_, kept⟩
    rw [fresh acc a b ha hb]
    simp only [State.initValue, State.bankNat_eq]

end Sys2Proof.Machine
end

section
/-! SUPPORT. A state that refutes the statement on steps, drains and completions: the model's answer to OPE_DRAIN_ROW_WRITE contradicts the clause on
DRAIN = 2. An item that frees the output tile lets the instruction's next block begin; a poisoned bias word of that block aborts the instruction, and the
abort drops the item (R111, R116). -/
namespace Sys2Proof.Machine

/-- An OPE_MMA1 instruction with M = 1, N = 384, K = 1, a bias at the start of CB, and DRAIN = 2: three blocks, the third of which fills the first's output
tile. -/
def biasedSeam : OpeInstr := ⟨2 * 2 ^ 58 + 383 * 2 ^ 21 + 1 * 2 ^ 8, 2 ^ 63 + 2 ^ 58, 0, 0, none, true⟩

/-- Its third block waits for the drain of its first. -/
def biasedSeamRun : OpeRun := { ins := biasedSeam, bn := 256, sn := 64, lines := 1, steps := 4, drains := 2 }

/-- The drain of its first block, at the second and last piece of its one row. -/
def biasedSeamDrain : OpeDrain := { ins := biasedSeam, blk := 0, bm := 0, bn := 0, mb := 1, nb := 128, col := 64, started := true }

/-- The drain of its second block, which has not started. -/
def biasedSeamNext : OpeDrain := { ins := biasedSeam, blk := 1, bm := 0, bn := 128, mb := 1, nb := 128 }

/-- Two blocks are complete, and the seam engine has accepted the first piece of the first one; all memory is zero, and the bias word of column 256 is
poisoned. The instruction itself brings the OPE there, by OPE_MMA1, two OPE_STEPs for each block, OPE_DRAIN_BLOCK, OPE_DRAIN_ROW_WRITE, and the
acceptance of the item. -/
def biasPoisoned : State :=
  { ecc := [(spdAddr 0 .cb 1024, 2)],
    tiles := [(0, { tallyValid := true, ope := { run := some biasedSeamRun, drains := [biasedSeamDrain, biasedSeamNext] } })] }

/-- The items that stand offered after an abort that leaves the OPE no drain. -/
theorem State.items_opeAbort (s : State) {t : Nat} {r : OpeRun} (all : (s.tile t).ope.drains.length ≤ r.drains) : ((s.opeAbort t r).tile t).items = [] := by
  obtain ⟨_, _, tile⟩ := ((s.opeStopped t r).accsBut_accScramble t r.blk).tile
  have none_left : (s.tile t).ope.drains.length - r.drains = 0 := by omega
  rw [State.opeAbort_eq, tile]
  simp [State.opeStopped, none_left]

/-- A drain with DRAIN = 2 offers its row piece to the seam engine. -/
theorem State.drainWrite_offers {s : State} {t : Nat} {d : OpeDrain} {rest : List OpeDrain} (active : (s.tile t).active = true)
    (drains : (s.tile t).ope.drains = d :: rest) (started : d.started = true) (untagged : d.ins.slot = none) (items : (s.tile t).items = [])
    (seam : (opeFields d.ins).drain = 2) (granted : List Bool) :
    s.drainWrite t granted = s.drainOffer t (opeFields d.ins) d (s.drainRow t (opeFields d.ins) d d.row d.col (min 64 (d.nb - d.col))).1 := by
  simp [State.drainWrite, active, drains, started, untagged, items, seam, State.cancelled]

/-- The state with the row piece of values offered as one item. -/
def State.offered (s : State) (t : Nat) (f : OpeF) (d : OpeDrain) (vals : List Stored) : State :=
  let item : SeamItem := ⟨f.out % 32, d.bm + d.row, d.bn + d.col, f.o.code, vals.map (·.bits),
    (vals.foldl (fun a st => a.or st.fl) ({} : NumFlags)).toBits, vals.flatMap (healthKeys f.o)⟩
  s.onTile t (fun x => { x with items := x.items ++ [item] })

theorem State.drainOffer_eq (s : State) (t : Nat) (f : OpeF) (d : OpeDrain) (vals : List Stored) :
    s.drainOffer t f d vals = (s.offered t f d vals).opeAdvance t opeFuel := rfl

/-- `biasPoisoned` with the piece offered. -/
def biasPoisonedOffers : State :=
  biasPoisoned.offered 0 (opeFields biasedSeam) biasedSeamDrain (biasPoisoned.drainRow 0 (opeFields biasedSeam) biasedSeamDrain 0 64 64).1

theorem biasPoisonedOffers_read : ((biasPoisonedOffers.unhold 0 6).biasRead 0 biasedSeamRun).2 = true := by decide +kernel

/-- The third block begins, and its bias aborts the instruction with both its drains. -/
theorem biasPoisonedOffers_dropped : ((biasPoisonedOffers.opeAdvance 0 opeFuel).tile 0).items = [] := by
  have runs : (biasPoisonedOffers.tile 0).ope.run = some biasedSeamRun := by decide +kernel
  have free : (biasPoisonedOffers.tile 0).drainBlocks biasedSeamRun = false := by decide +kernel
  have bank : biasPoisonedOffers.clearing 0 .cb = false := by decide +kernel
  have kept := (biasPoisonedOffers.opeKept_unhold 0 6).trans (State.opeKept_biasRead _ 0 biasedSeamRun)
  rw [show opeFuel = 2199 + 1 from rfl, State.opeAdvance_waiting runs rfl, if_neg (by simp [free]), if_neg (by simp [bank]),
    if_pos biasPoisonedOffers_read]
  exact State.items_opeAbort _ (by rw [kept.ope]; decide +kernel)

/-- Offering the piece leaves no item. -/
theorem biasPoisoned_drops : ((biasPoisoned.drainWrite 0 []).tile 0).items = [] := by
  have offers : biasPoisoned.drainWrite 0 [] = biasPoisonedOffers.opeAdvance 0 opeFuel :=
    State.drainWrite_offers (d := biasedSeamDrain) (rest := [biasedSeamNext]) (by decide +kernel) (by decide +kernel) rfl rfl (by decide +kernel)
      (by decide +kernel) []
  rw [offers, biasPoisonedOffers_dropped]

end Sys2Proof.Machine
end

section
/-! The statement that this state refutes. -/
namespace Sys2Proof.Machine

/-- Refutes O24: with DRAIN = 2 one item is to stand offered after OPE_DRAIN_ROW_WRITE, but where the offer frees the output tile of the instruction's own
next block and a bias word of that block is poisoned, the abort drops the item at once. -/
theorem not_opeStepsDrainsAndCompletes : ¬ Obligations.OpeStepsDrainsAndCompletes := by
  rintro ⟨-, -, drains, -⟩
  obtain ⟨-, offers⟩ := drains 0 biasPoisoned biasedSeamDrain [biasedSeamNext] .vb 0 (by decide +kernel) (by decide +kernel) rfl rfl rfl
    (by decide +kernel)
  obtain ⟨s', hx, ⟨e, he, -⟩, -⟩ := offers (by decide +kernel) []
  obtain rfl := Host.Outcome.next.inj hx
  exact absurd (biasPoisoned_drops.symm.trans he) (by simp)

end Sys2Proof.Machine
end

section
/-! SUPPORT. A state that refutes the statement on speculative branches: it satisfies the hypotheses of the clause on SPEC.RESOLVE, and the model's answer,
evaluated, contradicts it. -/
namespace Sys2Proof.Machine

/-- The SPEC.RESOLVE that names no slot. -/
def resolveNone : CoreWord := ⟨9, 0, 0, 0, 0x500⟩

/-- Tile 0 is about to execute it; its 64-bit counter SPEC_CONFIRM holds 2^64, which no write stores but neither the type of a state nor `State.Sound`
excludes. -/
def confirmTooWide : State :=
  ({ regs := [(fkey .specConfirm 0 0, 2 ^ 64)] } : State).setTile 0 { tallyValid := true, core := { mode := .running } }
    |>.setBytes (spdAddr 0 .cb 0) (natLe 4 (9 * 2 ^ 28 + 0x500))

theorem confirmTooWide_fetches : confirmTooWide.Fetches (0 : TileId) .specResolve resolveNone where
  ready := by decide +kernel
  aligned := by decide +kernel
  inCb := by decide +kernel
  clear := by decide +kernel
  good := by decide +kernel
  word := by decide +kernel
  op := by decide +kernel

/-- It counts nothing, so the counter keeps its value. -/
theorem confirmTooWide_keeps : (confirmTooWide.specResolve 0).rd .specConfirm = 2 ^ 64 := by decide +kernel

end Sys2Proof.Machine
end

section
/-! The statement that this state refutes. -/
namespace Sys2Proof.Machine

/-- Refutes O22: its clause on SPEC.RESOLVE says what SPEC_CONFIRM reads modulo 2^64 even where no slot is confirmed, but the model writes the counter
only when it counts, and nothing bounds what it holds by the field's width. -/
theorem not_speculativeBranches : ¬ Obligations.SpeculativeBranches := by
  rintro ⟨-, tagging, -⟩
  obtain ⟨-, -, -, -, resolves⟩ := tagging 0 resolveNone confirmTooWide
  obtain ⟨s', hx, -, -, -, confirmed, -⟩ := resolves confirmTooWide_fetches
  obtain rfl := Host.Outcome.next.inj hx
  have wrapped : (confirmTooWide.specResolve 0).rd .specConfirm < 2 ^ 64 := confirmed ▸ Nat.mod_lt _ (by decide)
  exact absurd wrapped (by rw [confirmTooWide_keeps]; decide)

end Sys2Proof.Machine
end

section
/-! PROOF. Loads of the tile core (R157, R162). -/
namespace Sys2Proof.Machine

section
variable {s : State} {t : TileId} {w : CoreWord} {b : BankId} {off n : Nat}

/-- A read within one good word changes nothing: in SB the words that a committing branch answers are left out, and the others are good. -/
theorem State.spdWordsRead_word (hn : 0 < n) (hw : off % 8 + n ≤ 8) (hm : s.mark (spdAddr t b (off / 8 * 8)) = 0) (source : Nat) :
    s.spdWordsRead t b source off n = (s, false) := by
  have one : (off + n - 1) / 8 + 1 - off / 8 = 1 := by omega
  have here : partLo off 0 = off := by
    unfold partLo
    omega
  have parts : wordParts off n = [(off, partHi off n 0 - off)] := by
    rw [wordParts_eq (by omega), one]
    simp [here]
  simp [State.spdWordsRead, parts, State.spdWordRead, Nat.mul_comm 8 (off / 8), hm]

/-- A bank's offsets start at its base. -/
theorem bankBase_le {o : Nat} {c : BankId} (h : bankAt o = some c) : bankBase c ≤ o := by
  unfold bankAt at h
  split_ifs at h <;> cases h <;> simp only [bankBase] <;> omega

/-- An address in one of the tile's banks is aligned within the bank too, for each bank starts at a multiple of 8. -/
theorem coreAddr_aligned {a k : Nat} (h : coreAddr t a (2 ^ k) = .ok (b, off)) (hk : k < 4) : off % 8 + 2 ^ k ≤ 8 := by
  have decoded : a % 2 ^ k = 0 ∧ bankAt (a % 0x800000) = some b ∧ a % 0x800000 - bankBase b = off := by
    unfold coreAddr at h
    split_ifs at h with aligned own
    split at h
    · cases h
    · next c hc =>
      cases h
      exact ⟨not_not.1 aligned, hc, rfl⟩
  obtain ⟨aligned, bank, rfl⟩ := decoded
  have from_ := bankBase_le bank
  have base : bankBase b % 8 = 0 := by cases b <;> rfl
  have size : 2 ^ k = 1 ∨ 2 ^ k = 2 ∨ 2 ^ k = 4 ∨ 2 ^ k = 8 := by interval_cases k <;> decide
  generalize 2 ^ k = n at *
  rcases size with rfl | rfl | rfl | rfl <;> omega

/-- The state in which a load's word is read: its access counted at its bank, and no longer held or deferred (R214). -/
def State.loadReady (s : State) (t : Nat) (b : BankId) : State := ((s.fetched t).unhold t 9).bankCount t b (b = .cb) 1

/-- What a load of n bytes puts into its register, sign-extended or not (R162). -/
def State.loadValue (s : State) (t : Nat) (b : BankId) (off n : Nat) (signed : Bool) : Nat :=
  let v := leNat ((List.range n).map (fun i => s.spdByte t b (off + i)))
  if signed then ofSigned 64 (toSigned (8 * n) v) else v

theorem State.loadValue_lt (s : State) (t : Nat) (b : BankId) (off : Nat) (signed : Bool) (hn : n ≤ 8) : s.loadValue t b off n signed < 2 ^ 64 := by
  have raw : leNat ((List.range n).map (fun i => s.spdByte t b (off + i))) < 256 ^ 8 := by
    refine (leNat_lt _).trans_le (Nat.pow_le_pow_right (by decide) ?_)
    rwa [List.length_map, List.length_range]
  unfold State.loadValue
  cases signed
  · exact raw
  · simp only [if_true, ofSigned]
    omega

theorem State.tile_loadReady (s : State) (t : Nat) (b : BankId) :
    (s.loadReady t b).tile t = { s.tile t with held := ((s.loadReady t b).tile t).held } := by
  simp [State.loadReady, State.bankCount, State.unhold, State.fetched]

theorem State.tilesBut_loadReady (s : State) (t : Nat) (b : BankId) : s.TilesBut (s.loadReady t b) t := fun u hu => by
  simp [State.loadReady, State.bankCount, State.unhold, State.tile_onTile_ne _ hu, s.fetched_tiles t u hu]

theorem State.fieldsBut_loadReady (s : State) (t : TileId) (b : BankId) :
    s.FieldsBut (s.loadReady t b) ([(.spdAccMaster, t.val, 3)] ++ [(.spdAccOther, t.val, bankIdx b)]) := by
  have fetched := (s.looked_fetched t).fields.mono (l' := [(.spdAccMaster, t.val, 3)] ++ [(.spdAccOther, t.val, bankIdx b)]) (by simp)
  have ready : s.FieldsBut ((s.fetched t).unhold t 9) ([(.spdAccMaster, t.val, 3)] ++ [(.spdAccOther, t.val, bankIdx b)]) := fetched.congr rfl rfl
  have place : (if b = .cb then Field.spdAccMaster else .spdAccOther, t.val % 65536, bankIdx b % 4096) ∈
      [(Field.spdAccMaster, t.val, 3)] ++ [(.spdAccOther, t.val, bankIdx b)] := by
    rw [tile_mod]
    cases b <;> simp [bankIdx]
  have counted := (ready.cnt place 1).activity t 6 1
  simpa only [State.loadReady, State.bankCount, one_ne_zero, if_false, decide_eq_true_eq] using counted

theorem State.only_bankCount (s : State) (t : Nat) (b : BankId) (master : Bool) (n : Nat) : s.Only (s.bankCount t b master n) [.regs, .act] :=
  .ite (.refl s _) (((s.only_cnt _ t (bankIdx b) n).mono (by decide)).trans ((State.only_activity _ t 6 n).mono (by decide)))

theorem State.only_loadReady (s : State) (t : Nat) (b : BankId) : s.Only (s.loadReady t b) [.regs, .tiles, .act] :=
  (s.only_fetched t).trans ((((s.fetched t).only_onTile t _).mono (by decide)).trans ((State.only_bankCount _ t b _ 1).mono (by decide)))

/-- A fetched load whose bank is open and idle, and whose word is good, takes its bytes and retires. -/
theorem State.Fetches.load (h : s.Fetches t .load w) (addr : coreAddr t (s.effAddr t w) (2 ^ (w.rs2 % 4)) = .ok (b, off))
    (clear : s.clearing t b = false) (idle : b = .cb ∨ (s.bank t b).waiting = []) (good : s.mark (spdAddr t b (off / 8 * 8)) = 0) :
    s.load t = ((s.loadReady t b).xw t w.rd (s.loadValue t b off (2 ^ (w.rs2 % 4)) (w.rs2.testBit 2))).retireTo t ((s.tile t).core.pc + 4) := by
  have looked := s.looked_fetched t
  have eff : ofSigned 64 (((s.fetched t).xr t w.rs1 : Int) + w.simm) = s.effAddr t w := by rw [looked.xr, State.effAddr]
  have bank : (s.fetched t).bank t b = s.bank t b := by rw [State.bank, looked.tile, State.bank]
  have open' : (s.fetched t).clearing t b = false := by rwa [State.clearing, bank]
  have first : ¬ (b ≠ .cb ∧ (!((s.fetched t).bank t b).waiting.isEmpty) = true) := by
    rw [bank]
    rcases idle with rfl | none <;> simp_all
  have mark : ((s.fetched t).unhold t 9).mark (spdAddr t b (off / 8 * 8)) = 0 := (looked.only.mark (by decide) _).trans good
  have read := State.spdWordsRead_word (t := t) (Nat.two_pow_pos _) (coreAddr_aligned addr (Nat.mod_lt _ (by decide))) mark
  have byte (i : Nat) : ((s.fetched t).unhold t 9).spdByte t b i = s.spdByte t b i := by
    have same : ((s.fetched t).unhold t 9).byte = s.byte := funext fun k => looked.only.byte (by decide) k
    have slots : (((s.fetched t).unhold t 9).tile t).slots = (s.tile t).slots := by
      rw [State.unhold, State.tile_onTile_same, looked.tile]
    have shadow : (((s.fetched t).unhold t 9).tile t).shadow = (s.tile t).shadow := by
      rw [State.unhold, State.tile_onTile_same, looked.tile]
    simp only [State.spdByte, State.shadowByte, same, slots, shadow]
  unfold State.load
  rw [h.coreRow]
  simp only [eff, addr, open', Bool.false_eq_true, if_false, if_neg first, State.spdRead, read, byte]
  have pc : (((s.loadReady t b).xw t w.rd (s.loadValue t b off (2 ^ (w.rs2 % 4)) (w.rs2.testBit 2))).tile t).core.pc = (s.tile t).core.pc := by
    simp only [State.xw, State.onCore, State.tile_onTile_same, Core.set]
    split <;> rw [s.tile_loadReady]
  rw [← pc]
  rfl

end

/-- Settles O12: a load whose bank is open and idle reads the bytes of one good word, through the shadow lines in SB, and retires with them. -/
theorem loads : Obligations.Loads := by
  intro t w s b off fetches addr clear idle good
  have inCb := fetches.inCb
  rw [show bankSize .cb = 0x80000 from rfl] at inCb
  have small : ((s.tile t).core.pc + 4) % 2 ^ 32 = (s.tile t).core.pc + 4 := by omega
  have fields := s.fieldsBut_loadReady t b
  have retired := State.retired_of (rd := w.rd) (v := s.loadValue t b off (2 ^ (w.rs2 % 4)) (w.rs2.testBit 2)) (pc := (s.tile t).core.pc + 4)
    fetches.running (s.tilesBut_loadReady t b) (s.tile_loadReady t b) (fields.rd (by simp) _ _)
    (fields.mono (l' := [(.tileInstr, t.val, 0), (.spdAccMaster, t.val, 3)] ++ [(.spdAccOther, t.val, bankIdx b)]) (by simp))
  rw [small] at retired
  have size : 2 ^ (w.rs2 % 4) ≤ 8 := Nat.pow_le_pow_right (by decide) (Nat.le_of_lt_succ (Nat.mod_lt _ (by decide))) |>.trans_eq (by rfl : 2 ^ 3 = 8)
  refine ⟨_, congrArg Host.Outcome.next (fetches.load addr clear idle good), ?_, retired, (s.only_loadReady t b).trans (State.only_retire _ _ _ _ _)⟩
  rw [State.xr_retireTo, Core.get_set_same, Nat.mod_eq_of_lt (s.loadValue_lt t b off _ size)]
  rfl

end Sys2Proof.Machine
end

section
/-! SUPPORT. Bytes at device addresses (R47 to R52): each address that decodes has its own byte, and the bytes of a word or line lie together. -/
namespace Sys2Proof.Machine

section
variable {s : State} {a b : Nat}

/-! ### From a place back to its address -/

theorem stacks_cases (v : Variant) : v.stacks = 4 ∨ v.stacks = 6 ∨ v.stacks = 8 := by cases v <;> decide

theorem State.place_hbm_decode {st l : Nat} (h : s.place a = .hbm st l) :
    s.hbmDecode (a - 0x10000000000) = .hbm st l ∧ 0x10000000000 ≤ a ∧ a < 0x14800000000 := by
  unfold State.place at h
  split_ifs at h with _ _ _ _ hr
  · split at h <;> cases h
  · exact ⟨h, hr⟩

theorem State.place_spd_eq {t off : Nat} {c : BankId} (h : s.place a = .spd t c off) :
    a < 0x80000000 ∧ t = a / 0x800000 ∧ bankAt (a % 0x800000) = some c ∧ off = a % 0x800000 - bankBase c := by
  unfold State.place at h
  split_ifs at h with hs
  · split at h
    · next e =>
      cases h
      exact ⟨hs, rfl, e, rfl⟩
    · cases h
  · unfold State.hbmDecode at h
    dsimp only at h
    split_ifs at h

/-- Neighbours within a word lie in one bank. -/
theorem bankAt_add {o i : Nat} {c : BankId} (h : bankAt o = some c) (hi : o % 8 + i < 8) : bankAt (o + i) = some c := by
  grind [bankAt]

/-- The device address whose byte lies at a local address of a stack (R52). -/
def State.hbmAddr (s : State) (st l : Nat) : Nat :=
  let n := s.variant.stacks
  let band := l / 0x40000000
  let r := l % 0x40000000
  let g := if s.bandMode band = 1 then 0x100000 else 0x1000
  0x10000000000 + band * (n * 0x40000000) + (if s.bandMode band = 2 then st * 0x40000000 + r else (r / g * n + st) * g + r % g)

/-- R52 gives each local address to one device address. -/
theorem State.hbmAddr_place {st l : Nat} (h : s.place a = .hbm st l) : s.hbmAddr st l = a ∧ l < 0x900000000 := by
  obtain ⟨hd, ha, -⟩ := s.place_hbm_decode h
  unfold State.hbmDecode at hd
  dsimp only at hd
  have band : l / 0x40000000 = (a - 0x10000000000) / (s.variant.stacks * 0x40000000) := by
    split_ifs at hd <;> cases hd <;> rcases stacks_cases s.variant with e | e | e <;> rw [e] <;> omega
  unfold State.hbmAddr
  dsimp only
  rw [band]
  have number := stacks_cases s.variant
  generalize s.variant.stacks = n at *
  rcases number with rfl | rfl | rfl <;> split_ifs at hd ⊢ <;> cases hd <;> omega

/-- What does not lie in HBM lies at its device address. -/
theorem State.place_key (h : s.place a ≠ .undecoded) :
    (∃ st l, s.place a = .hbm st l) ∨ ((s.place a).key = a ∧ a < 0x10000000000) := by
  unfold State.place at h ⊢
  split_ifs at h ⊢ with spd rom sram reg hbm
  · cases bank : bankAt (a % 0x800000) with
    | none => simp [bank] at h
    | some c =>
      have := bankBase_le bank
      refine .inr ⟨?_, by omega⟩
      simp only [Place.key, spdAddr]
      omega
  · exact .inr ⟨Nat.add_sub_cancel' rom.1, by omega⟩
  · exact .inr ⟨Nat.add_sub_cancel' sram.1, by omega⟩
  · exact .inr ⟨Nat.add_sub_cancel' reg.1, by omega⟩
  · unfold State.hbmDecode at h ⊢
    dsimp only at h ⊢
    split_ifs at h ⊢
    · exact absurd rfl h
    · exact .inl ⟨_, _, rfl⟩
    · exact .inl ⟨_, _, rfl⟩
    · exact .inl ⟨_, _, rfl⟩
  · exact absurd rfl h

/-- Two addresses share no byte. -/
theorem State.place_injective (ha : s.place a ≠ .undecoded) (hb : s.place b ≠ .undecoded) (h : (s.place a).key = (s.place b).key) : a = b := by
  have far {st l : Nat} : 0x10000000000 ≤ (Place.hbm st l).key := by
    simp only [Place.key]
    omega
  rcases State.place_key ha with ⟨st, l, e⟩ | ⟨ka, la⟩ <;> rcases State.place_key hb with ⟨st', l', e'⟩ | ⟨kb, lb⟩
  · obtain ⟨back, small⟩ := State.hbmAddr_place e
    obtain ⟨back', small'⟩ := State.hbmAddr_place e'
    rw [e, e'] at h
    simp only [Place.key] at h
    obtain ⟨rfl, rfl⟩ : st = st' ∧ l = l' := by omega
    exact back.symm.trans back'
  · rw [e, kb] at h
    have := far (st := st) (l := l)
    omega
  · rw [e', ka] at h
    have := far (st := st') (l := l')
    omega
  · rw [← ka, h, kb]

/-! ### Words and lines -/

/-- Where an access of a unit goes: to a bank or to a stack. -/
theorem State.place_of_ok (h : s.accessAt a = .ok) : (∃ t c off, s.place a = .spd t c off) ∨ ∃ st l, s.place a = .hbm st l := by
  unfold State.accessAt at h
  split at h
  · next e => exact .inl ⟨_, _, _, e⟩
  · next e => exact .inr ⟨_, _, e⟩
  · cases h

theorem lt_unitEnd (a : Nat) : a < unitEnd a := by
  unfold unitEnd
  split <;> omega

theorem State.place_spd_add {t off i : Nat} {c : BankId} (h : s.place a = .spd t c off) (hi : a + i < unitEnd a) :
    s.place (a + i) = .spd t c (off + i) := by
  obtain ⟨small, rfl, bank, rfl⟩ := State.place_spd_eq h
  have := bankBase_le bank
  unfold unitEnd at hi
  rw [if_neg (by omega)] at hi
  have inBank := bankAt_add (i := i) bank (by omega)
  have hd : (a + i) / 0x800000 = a / 0x800000 := by omega
  have hm : (a + i) % 0x800000 = a % 0x800000 + i := by omega
  unfold State.place
  rw [if_pos (by omega), hm, inBank, hd]
  simp only [Place.spd.injEq, true_and]
  omega

theorem State.place_hbm_add {st l i : Nat} (h : s.place a = .hbm st l) (hi : a + i < unitEnd a) : s.place (a + i) = .hbm st (l + i) := by
  obtain ⟨hd, ha, hb⟩ := s.place_hbm_decode h
  unfold unitEnd at hi
  rw [if_pos (by omega)] at hi
  have sum : a + i - 0x10000000000 = a - 0x10000000000 + i := by omega
  unfold State.place
  rw [if_neg (by omega), if_neg (by omega), if_neg (by omega), if_neg (by omega), if_pos (by omega), sum]
  unfold State.hbmDecode at hd ⊢
  dsimp only at hd ⊢
  have band : (a - 0x10000000000 + i) / (s.variant.stacks * 0x40000000) = (a - 0x10000000000) / (s.variant.stacks * 0x40000000) := by
    rcases stacks_cases s.variant with e | e | e <;> rw [e] <;> omega
  have range : (a - 0x10000000000 + i ≥ s.variant.stacks * (36 * 0x40000000)) = (a - 0x10000000000 ≥ s.variant.stacks * (36 * 0x40000000)) := by
    rcases stacks_cases s.variant with e | e | e <;> rw [e] <;> exact propext (by omega)
  simp only [band, range]
  have number := stacks_cases s.variant
  generalize s.variant.stacks = n at *
  rcases number with rfl | rfl | rfl <;> split_ifs at hd ⊢ <;> cases hd <;> rw [Place.hbm.injEq] <;> omega

/-- The bytes of a word or line lie one after the other. -/
theorem State.place_add {i : Nat} (h : s.accessAt a = .ok) (hi : a + i < unitEnd a) :
    s.place (a + i) ≠ .undecoded ∧ (s.place (a + i)).key = (s.place a).key + i := by
  rcases State.place_of_ok h with ⟨t, c, off, e⟩ | ⟨st, l, e⟩
  · rw [State.place_spd_add e hi, e]
    exact ⟨by simp, spdAddr_add t c off i⟩
  · rw [State.place_hbm_add e hi, e]
    exact ⟨by simp, (Nat.add_assoc _ l i).symm⟩

end

end Sys2Proof.Machine
end

section
/-! SUPPORT. What moving bytes changes (R237 to R245): counts, and bytes at their device addresses. -/
namespace Sys2Proof.Machine

/-! ### A memory without errors -/

/-- No word of memory is in error, and no branch commits. -/
structure State.Calm (s : State) : Prop where
  marks : ∀ k, s.mark k = 0
  steady : ∀ u i, (s.slot u i).mode ≠ .committing

section
variable {s a c : State} {t : Nat}

theorem State.Calm.clean (h : s.Calm) (u : Nat) (b : BankId) : s.Clean u b := ⟨fun _ => h.marks _, h.steady u⟩

/-- Without a commit a byte reads as memory holds it. -/
theorem State.Calm.memByte (h : s.Calm) (x : Nat) : s.memByte x = if s.place x = .undecoded then 0#8 else s.byte (s.place x).key := by
  unfold State.memByte
  cases e : s.place x with
  | spd u b off => exact ((h.clean u b).spdByte b off).trans (if_neg (by simp)).symm
  | undecoded => exact (if_pos rfl).symm
  | _ => exact (if_neg (by simp)).symm

theorem State.Calm.memBad (h : s.Calm) (x : Nat) : s.memBad x = false := by
  unfold State.memBad
  split
  · simp [State.spdBad, h.marks]
  · simp [h.marks]
  · rfl

/-! ### What a byte depends on -/

theorem State.place_congr (variant : a.variant = s.variant) (waits : a.bandNext = s.bandNext)
    (modes : ∀ f ∈ [Field.hbmBandMode0, .hbmBandMode1, .hbmBandMode2], a.rd f = s.rd f) (x : Nat) : a.place x = s.place x := by
  have decode : a.hbmDecode = s.hbmDecode := funext fun o => by
    unfold State.hbmDecode
    rw [State.bandMode_congr waits modes, variant]
  unfold State.place
  rw [decode]

theorem State.memByte_congr (place : ∀ x, a.place x = s.place x) (slots : ∀ u, (a.tile u).slots = (s.tile u).slots)
    (shadow : ∀ u, (a.tile u).shadow = (s.tile u).shadow) (bytes : ∀ k, a.byte k = s.byte k) (x : Nat) : a.memByte x = s.memByte x := by
  unfold State.memByte
  rw [place]
  split
  · simp only [State.spdByte, State.shadowByte, slots, shadow, bytes]
  · rfl
  · exact bytes _

/-! ### From one state to another in which bytes have moved -/

/-- The fields that the hoist's reads and writes of memory count in. -/
def spanFields : List Field := moveFields.erase .tileQHead

/-- From s to a bytes have moved: only counts and memory have changed, no error mark has, and of the tiles only the note of what tile t's units hold. -/
structure State.Moved (s a : State) (t : Nat) : Prop where
  frame : s.Frame a [.regs, .tiles, .act, .mem, .ecc, .free] spanFields
  marks : ∀ k, a.mark k = s.mark k
  tile : a.tile t = { s.tile t with held := (a.tile t).held }
  tiles : s.TilesBut a t

theorem State.Moved.refl (s : State) (t : Nat) : s.Moved s t := ⟨.refl s _ _, fun _ => rfl, rfl, fun _ _ => rfl⟩

theorem State.Moved.trans (h : s.Moved a t) (h' : a.Moved c t) : s.Moved c t :=
  ⟨h.frame.after h'.frame, fun k => (h'.marks k).trans (h.marks k), by rw [h'.tile, h.tile], h.tiles.trans h'.tiles⟩

/-- A change that touches no tile moves as it leaves the marks. -/
theorem State.Moved.of_frame {ps : List Part} (h : s.Frame a ps spanFields) (marks : ∀ k, a.mark k = s.mark k)
    (hp : ps ⊆ [.regs, .act, .mem, .ecc, .free] := by decide) : s.Moved a t :=
  have tile := h.only.tile fun hx => absurd (hp hx) (by decide)
  ⟨h.mono (List.Subset.trans hp (by decide)) (List.Subset.refl _), marks, by rw [tile], fun u _ => tile u⟩

/-- Whatever of a tile is not that note is as before. -/
theorem State.Moved.of_tile {α : Type} (h : s.Moved a t) (p : Tile → α) (hp : ∀ x l, p { x with held := l } = p x) (u : Nat) :
    p (a.tile u) = p (s.tile u) := by
  by_cases e : u = t
  · rw [e, h.tile, hp]
  · rw [h.tiles u e]

section
variable (h : s.Moved a t)
include h

theorem State.Moved.slot (u i : Nat) : a.slot u i = s.slot u i := by
  rw [State.slot, h.of_tile Tile.slots (fun _ _ => rfl) u, State.slot]

theorem State.Moved.calm (calm : s.Calm) : a.Calm := ⟨fun k => (h.marks k).trans (calm.marks k), fun u i => h.slot u i ▸ calm.steady u i⟩

theorem State.Moved.place (x : Nat) : a.place x = s.place x :=
  State.place_congr (h.frame.only .variant (by decide)) (h.frame.only .bandNext (by decide))
    (fun f hf => h.frame.rd f 0 0 fun hx => by fin_cases hf <;> exact absurd hx (by decide)) x

theorem State.Moved.accessAt (x : Nat) : a.accessAt x = s.accessAt x := by
  have banks (u : Nat) (b : BankId) : a.clearing u b = s.clearing u b := by
    unfold State.clearing State.bank
    rw [h.of_tile Tile.banks (fun _ _ => rfl) u]
  have bands : a.bandHolds x = s.bandHolds x := by
    unfold State.bandHolds State.bandOf
    rw [h.frame.only .bandNext (by decide), h.frame.only .variant (by decide)]
  have ready (k : Nat) : a.hbmReady k = s.hbmReady k := by
    unfold State.hbmReady
    rw [h.frame.only .hbmcs (by decide)]
  unfold State.accessAt
  rw [h.place]
  split
  · next u b off e =>
    rw [h.of_tile Tile.gated (fun _ _ => rfl) u, h.of_tile Tile.stopped (fun _ _ => rfl) u, h.of_tile Tile.tallyValid (fun _ _ => rfl) u, banks]
  · rw [bands, ready]
  · rfl

theorem State.Moved.okBytes (x n : Nat) : a.okBytes x n = s.okBytes x n := by
  unfold State.okBytes
  simp only [h.accessAt]

/-- A byte reads as before when memory holds what it held. -/
theorem State.Moved.memByte_of_byte (bytes : ∀ k, a.byte k = s.byte k) (x : Nat) : a.memByte x = s.memByte x :=
  State.memByte_congr h.place (h.of_tile Tile.slots fun _ _ => rfl) (h.of_tile Tile.shadow fun _ _ => rfl) bytes x

end

/-! ### Bytes that have been put -/

/-- The bytes that a list puts at an address. -/
def putAt (at_ : Nat) (bs : List Byte) (x : Nat) : Option Byte := if at_ ≤ x then bs[x - at_]? else none

theorem putAt_append (p : Nat) (l l' : List Byte) (x : Nat) : (putAt (p + l.length) l' x).or (putAt p l x) = putAt p (l ++ l') x := by
  unfold putAt
  by_cases before : x < p
  · rw [if_neg (by omega), if_neg (by omega), if_neg (by omega)]
    rfl
  by_cases first : x - p < l.length
  · rw [if_neg (by omega), if_pos (by omega), if_pos (by omega), List.getElem?_append_left first]
    rfl
  · rw [if_pos (by omega), if_pos (by omega), if_pos (by omega), List.getElem?_append_right (by omega), List.getElem?_eq_none (l := l) (by omega),
      Option.or_none, Nat.sub_add_eq]

theorem putAt_nil (p : Nat) : putAt p [] = fun _ => none := by
  funext x
  simp [putAt]

/-- From s to a bytes have moved, and now read as `put` says, or as before where it says nothing. -/
structure State.Puts (s a : State) (t : Nat) (put : Nat → Option Byte) : Prop where
  moved : s.Moved a t
  byte : ∀ x, a.memByte x = (put x).getD (s.memByte x)

theorem State.Puts.refl (s : State) (t : Nat) : s.Puts s t fun _ => none := ⟨.refl s t, fun _ => rfl⟩

theorem State.Puts.trans {p q : Nat → Option Byte} (h : s.Puts a t p) (h' : a.Puts c t q) : s.Puts c t fun x => (q x).or (p x) :=
  ⟨h.moved.trans h'.moved, fun x => by rw [h'.byte, h.byte, Option.getD_or]⟩

theorem State.Puts.congr {p q : Nat → Option Byte} (h : s.Puts a t p) (e : ∀ x, q x = p x) : s.Puts a t q := ⟨h.moved, fun x => e x ▸ h.byte x⟩

/-- What only counts puts nothing. -/
theorem State.Puts.of_quiet {ps : List Part} (h : s.Frame a ps spanFields) (hp : ps ⊆ [.regs, .act, .free] := by decide) : s.Puts a t fun _ => none :=
  have moved : s.Moved a t := .of_frame h (fun k => h.only.mark (fun hx => absurd (hp hx) (by decide)) k) (List.Subset.trans hp (by decide))
  ⟨moved, fun x => moved.memByte_of_byte (fun k => h.only.byte (fun hx => absurd (hp hx) (by decide)) k) x⟩

theorem State.Puts.quiet {p : Nat → Option Byte} {ps : List Part} (h : s.Puts a t p) (h' : a.Frame c ps spanFields)
    (hp : ps ⊆ [.regs, .act, .free] := by decide) : s.Puts c t p :=
  (h.trans (.of_quiet h' hp)).congr fun _ => rfl

/-- Bytes stored within one word or line are put at their addresses. -/
theorem State.Moved.puts_unit (h : s.Moved a t) (calm : s.Calm) {p : Nat} {bs : List Byte} (ok : s.accessAt p = .ok) (fits : p + bs.length ≤ unitEnd p)
    (bytes : ∀ k, a.byte k = (s.setBytes (s.place p).key bs).byte k) : s.Puts a t (putAt p bs) := by
  have inside {i : Nat} (hi : i < bs.length) := State.place_add (i := i) ok (by omega)
  refine ⟨h, fun x => ?_⟩
  rw [(h.calm calm).memByte, calm.memByte, h.place, bytes, State.byte_setBytes]
  by_cases here : p ≤ x ∧ x - p < bs.length
  · obtain ⟨i, rfl⟩ := Nat.exists_eq_add_of_le here.1
    rw [Nat.add_sub_cancel_left] at here
    obtain ⟨decoded, key⟩ := inside here.2
    simp only [decoded, if_false, key, Nat.le_add_right, if_true, Nat.add_sub_cancel_left, putAt, List.getElem?_eq_getElem here.2, Option.getD_some]
  · have nothing : putAt p bs x = none := by
      unfold putAt
      split
      · exact List.getElem?_eq_none (by omega)
      · rfl
    rw [nothing, Option.getD_none]
    by_cases decoded : s.place x = .undecoded
    · simp only [decoded, if_true]
    · rw [if_neg decoded, if_neg decoded]
      by_cases reached : (s.place p).key ≤ (s.place x).key ∧ (s.place x).key - (s.place p).key < bs.length
      · obtain ⟨i, hi⟩ := Nat.exists_eq_add_of_le reached.1
        obtain ⟨decoded', key⟩ := inside (i := i) (by omega)
        have := State.place_injective decoded decoded' (hi.trans key.symm)
        omega
      · split
        · rw [List.getElem?_eq_none (by omega), Option.getD_none]
        · rfl

end

end Sys2Proof.Machine
end

section
/-! SUPPORT. The hoist's reads and writes of spans of a memory without errors (R237 to R245): what they count, and the bytes that a write puts. -/
namespace Sys2Proof.Machine

/-! ### The units of a span -/

theorem prefixOk_unitsOf_le (ok : Nat → Bool) (fuel a n : Nat) : prefixOk ok (unitsOf fuel a n) ≤ n := by
  induction fuel generalizing a n with
  | zero => exact Nat.zero_le n
  | succ fuel ih =>
    simp only [unitsOf]
    split_ifs with hn
    · exact Nat.zero_le n
    · have := ih (a + min n (unitEnd a - a)) (n - min n (unitEnd a - a))
      simp only [prefixOk]
      split <;> omega

/-- A span that is reached whole is reached at every unit. -/
theorem unitsOf_ok {ok : Nat → Bool} {fuel a n : Nat} (h : prefixOk ok (unitsOf fuel a n) = n) : ∀ u ∈ unitsOf fuel a n, ok u.1 = true := by
  induction fuel generalizing a n with
  | zero => simp [unitsOf]
  | succ fuel ih =>
    have := lt_unitEnd a
    simp only [unitsOf] at h ⊢
    split_ifs at h ⊢ with hn
    · simp
    · have rest := prefixOk_unitsOf_le ok fuel (a + min n (unitEnd a - a)) (n - min n (unitEnd a - a))
      simp only [prefixOk] at h
      split_ifs at h with first
      · intro u hu
        rcases List.mem_cons.1 hu with rfl | hu
        · exact first
        · exact ih (by omega) u hu
      · omega

theorem State.spanUnits_ok {s : State} {a n : Nat} (h : s.okBytes a n = n) : ∀ u ∈ spanUnits a n, s.accessAt u.1 = .ok :=
  fun u hu => eq_of_beq (unitsOf_ok h u hu)

section
variable {s a : State} {t : Nat}

/-! ### What is counted -/

/-- The parts of a state that counting changes. -/
def countParts : List Part := [.regs, .act]

theorem State.Frame.bankCount {ps : List Part} (h : s.Frame a ps spanFields) (u : Nat) (b : BankId) (m : Bool) (n : Nat)
    (hp : [Part.regs, .act] ⊆ ps := by decide) : s.Frame (a.bankCount u b m n) ps spanFields := by
  simp only [List.cons_subset] at hp
  obtain ⟨hr, ha, -⟩ := hp
  unfold State.bankCount
  cases m
  · exact h.ite ((h.cnt u _ n hr).activity _ _ _ ha)
  · exact h.ite ((h.cnt u _ n hr).activity _ _ _ ha)

theorem State.Frame.spanCount (h : s.Frame a countParts spanFields) (p n : Nat) (m : BankId → Nat → Bool) :
    s.Frame (a.spanCount p n m) countParts spanFields := by
  refine .ite h (.foldl h (fun x i hx => ?_) _)
  dsimp only
  split
  · exact hx.bankCount _ _ _ 1
  · exact hx

theorem State.Frame.hoistDefer (h : s.Frame a countParts spanFields) (t p n : Nat) : s.Frame (a.hoistDefer t p n) countParts spanFields := by
  refine .ite h (.foldl h (fun x i hx => ?_) _)
  dsimp only
  split
  · exact .ite ((hx.cnt _ _ 1).cnt _ _ 1) hx
  · exact hx

theorem State.Frame.lineFlits (h : s.Frame a countParts spanFields) (who : RingEnd) (p n : Nat) (read : Bool) :
    s.Frame (a.lineFlits who p n read) countParts spanFields :=
  .ite h (.foldl h (fun _ _ hx => .foldl hx (fun _ _ hy => (hy.activity _ _ _).cnt _ _ _) _) _)

theorem State.Frame.progress (h : s.Frame a countParts spanFields) (t n : Nat) : s.Frame (a.progress t n) countParts spanFields :=
  h.ite ((h.cnt t 0 n).wr t 0 _)

/-- A draw of a free value on top of counts. -/
theorem State.Frame.drawn (h : s.Frame a countParts spanFields) (n : Nat) : s.Frame { a with free := n } [.regs, .act, .free] spanFields :=
  h.mono.after (.of_only (a.only_free n))

theorem State.quiet_hbmReadCounted (s : State) (c : Nat) : s.Frame (s.hbmReadCounted c) countParts spanFields :=
  ((State.Frame.refl s countParts spanFields).cnt c 0 1).activity _ _ _

theorem State.quiet_hbmWriteCounted (s : State) (c n : Nat) : s.Frame (s.hbmWriteCounted c n) countParts spanFields :=
  have lines := ((State.Frame.refl s countParts spanFields).cnt (f := .hbmWrLines) c 0 1).activity (280 + c) 9 1
  .ite lines ((lines.cnt c 0 1).activity _ _ _)

/-! ### Reads -/

theorem State.Frame.calm (h : s.Frame a countParts spanFields) (calm : s.Calm) : a.Calm := (State.Puts.of_quiet (t := 0) h).moved.calm calm

/-- Reading a unit of a memory without errors only counts. -/
theorem State.Calm.unitRead (h : s.Calm) (p n : Nat) (m : BankId → Nat → Bool) : s.Frame (s.unitRead p n m).1 countParts spanFields := by
  unfold State.unitRead
  split
  · next u b off _ =>
    rw [(h.clean u b).wordsRead]
    exact .refl s _ _
  · rw [State.hbmLineFetch_good (h.marks _)]
    exact s.quiet_hbmReadCounted _
  · exact .refl s _ _

theorem State.Calm.spanRead (h : s.Calm) (p n : Nat) : s.Frame (s.spanRead p n).1 countParts spanFields := by
  have units (l : List (Nat × Nat)) (acc : State × List (Nat × Bool)) (hacc : s.Frame acc.1 countParts spanFields) :
      s.Frame (l.foldl (fun acc u =>
        ((acc.1.unitRead u.1 u.2 (fun _ _ => false)).1, acc.2 ++ [(u.1, (acc.1.unitRead u.1 u.2 (fun _ _ => false)).2)])) acc).1 countParts spanFields := by
    induction l generalizing acc with
    | nil => exact hacc
    | cons u l ih => exact ih _ (hacc.after ((hacc.calm h).unitRead _ _ _))
  exact (units _ _ (.refl s _ _)).spanCount p n _

/-- The hoist's read of a span of a memory without errors only counts. -/
theorem State.Calm.hoistRead (h : s.Calm) (t p n : Nat) : s.Frame (s.hoistRead t p n) countParts spanFields :=
  have deferred := (State.Frame.refl s countParts spanFields).hoistDefer t p n
  ((deferred.after ((deferred.calm h).spanRead p n)).lineFlits _ p n true).cnt t 0 _

/-! ### Writes -/

/-- A write within a good word or line puts its bytes. -/
theorem State.Calm.unitWrite (h : s.Calm) {p : Nat} {bs : List Byte} (ok : s.accessAt p = .ok) (some : bs ≠ []) (fits : p + bs.length ≤ unitEnd p) :
    s.Puts (s.unitWrite p bs false) t (putAt p bs) := by
  unfold State.unitWrite
  rcases State.place_of_ok ok with ⟨u, b, off, e⟩ | ⟨st, l, e⟩
  · have stored := (h.clean u b).spdWrite off some
    have moved : s.Moved (s.spdWrite u b off bs) t := .of_frame (.mono (.of_only stored.only) (List.Subset.refl _) (List.nil_subset _)) stored.mark
    rw [e]
    exact moved.puts_unit h ok fits fun k => by rw [e]; exact stored.byte k
  · obtain ⟨-, far, -⟩ := s.place_hbm_decode e
    have line : l % 64 + bs.length ≤ 64 := by
      have := (State.place_hbm e).2
      unfold unitEnd at fits
      rw [if_pos far] at fits
      omega
    have counted := s.quiet_hbmWriteCounted (hbmcOf st l) bs.length
    have stored := State.hbmLineWrite_good (h.marks (lineKey st l)) line
    have moved : s.Moved (s.hbmLineWrite st l bs false) t := (State.Puts.of_quiet counted).moved.trans
      (.of_frame (.mono (.of_only stored.only) (List.Subset.refl _) (List.nil_subset _)) stored.mark)
    rw [e]
    refine moved.puts_unit h ok fits fun k => ?_
    rw [e, stored.byte, State.byte_setBytes, State.byte_setBytes, counted.only.byte (by decide)]

/-- The units of a span are written one after the other. -/
theorem State.Calm.unitsWrite (h : s.Calm) {base : Nat} {bs : List Byte} (fuel p n : Nat) (enough : n < fuel) (from_ : base ≤ p)
    (size : p - base + n = bs.length) (ok : ∀ u ∈ unitsOf fuel p n, s.accessAt u.1 = .ok) :
    s.Puts ((unitsOf fuel p n).foldl (fun s u => s.unitWrite u.1 ((bs.drop (u.1 - base)).take u.2) false) s) t (putAt p (bs.drop (p - base))) := by
  induction fuel generalizing s p n with
  | zero => omega
  | succ fuel ih =>
    have := lt_unitEnd p
    simp only [unitsOf] at ok ⊢
    split_ifs at ok ⊢ with hn
    · rw [List.drop_eq_nil_of_le (by omega), putAt_nil]
      exact .refl s t
    · generalize hk : min n (unitEnd p - p) = k at ok ⊢
      have length : ((bs.drop (p - base)).take k).length = k := by
        rw [List.length_take, List.length_drop]
        omega
      have first := h.unitWrite (t := t) (ok (p, k) List.mem_cons_self) (bs := (bs.drop (p - base)).take k)
        (fun e => by rw [e, List.length_nil] at length; omega) (by dsimp only; omega)
      have rest := ih (first.moved.calm h) (p + k) (n - k) (by omega) (by omega) (by omega)
        fun u hu => (first.moved.accessAt _).trans (ok u (List.mem_cons_of_mem _ hu))
      refine (first.trans rest).congr fun x => ?_
      have joined := putAt_append p ((bs.drop (p - base)).take k) ((bs.drop (p - base)).drop k) x
      rw [List.take_append_drop, length, List.drop_drop, show p - base + k = p + k - base by omega] at joined
      exact joined.symm

/-- The hoist's write of a span that it reaches whole puts its bytes. -/
theorem State.Calm.hoistWrite (h : s.Calm) {p : Nat} {bs : List Byte} (ok : s.okBytes p bs.length = bs.length) :
    s.Puts (s.hoistWrite t p bs (fun _ => false)) t (putAt p bs) := by
  have deferred := State.Puts.of_quiet (t := t) ((State.Frame.refl s countParts spanFields).hoistDefer t p bs.length)
  have written := (deferred.moved.calm h).unitsWrite (t := t) (base := p) (bs := bs) (bs.length + 1) p bs.length (Nat.lt_succ_self _) (le_refl p)
    (by omega) fun u hu => (deferred.moved.accessAt _).trans (State.spanUnits_ok ok u hu)
  rw [Nat.sub_self, List.drop_zero] at written
  have put := (deferred.trans written).congr fun x => (Option.or_none (o := putAt p bs x)).symm
  have clean (l : List Nat) : l.any (fun _ => false) = false := by simp
  unfold State.hoistWrite State.spanWrite
  simp only [clean]
  exact put.quiet ((((((State.Frame.refl _ countParts spanFields).spanCount p _ _).lineFlits _ p _ false).cnt t 0 _).cnt t 0 _).progress t _)

end

end Sys2Proof.Machine
end

section
/-! SUPPORT. Rows that the hoist moves (R149, R239, R240): each puts its bytes, and a later row's stand over an earlier one's. -/
namespace Sys2Proof.Machine

/-! ### Bytes put one after the other -/

/-- What several rows put at an address: the last of them that puts a byte there. -/
def overlay : List (Nat → Option Byte) → Nat → Option Byte
  | [], _ => none
  | p :: ps, x => (overlay ps x).or (p x)

theorem overlay_none {ps : List (Nat → Option Byte)} {x : Nat} (h : ∀ p ∈ ps, p x = none) : overlay ps x = none := by
  induction ps with
  | nil => rfl
  | cons p ps ih => rw [overlay, ih fun q hq => h q (List.mem_cons_of_mem _ hq), h p List.mem_cons_self, Option.or_none]

/-- Rows that put the same byte at an address put it in any order. -/
theorem overlay_some {ps : List (Nat → Option Byte)} {x : Nat} {v : Byte} (h : ∀ p ∈ ps, p x = none ∨ p x = some v) (one : ∃ p ∈ ps, p x = some v) :
    overlay ps x = some v := by
  induction ps with
  | nil => simp at one
  | cons p ps ih =>
    rw [overlay]
    by_cases later : ∃ q ∈ ps, q x = some v
    · rw [ih (fun q hq => h q (List.mem_cons_of_mem _ hq)) later, Option.some_or]
    · rw [overlay_none fun q hq => (h q (List.mem_cons_of_mem _ hq)).resolve_right fun e => later ⟨q, hq, e⟩, Option.none_or]
      obtain ⟨q, hq, e⟩ := one
      rcases List.mem_cons.1 hq with rfl | hq
      · exact e
      · exact absurd ⟨q, hq, e⟩ later

theorem putAt_inside {p i : Nat} {bs : List Byte} : putAt p bs (p + i) = bs[i]? := by simp [putAt]

theorem putAt_outside {p x : Nat} {bs : List Byte} (h : ¬ (p ≤ x ∧ x < p + bs.length)) : putAt p bs x = none := by
  unfold putAt
  split
  · exact List.getElem?_eq_none (by omega)
  · rfl

@[simp] theorem State.length_memBytes (s : State) (p n : Nat) : (s.memBytes p n).length = n := by simp [State.memBytes]

theorem State.getElem?_memBytes (s : State) (p : Nat) {n i : Nat} (h : i < n) : (s.memBytes p n)[i]? = some (s.memByte (p + i)) := by
  simp [State.memBytes, h]

/-! ### Movements that nothing stops -/

/-- From s a movement has put bytes, has not been stopped, and has met no poison. -/
structure Move.Wrote (s : State) (t : Nat) (m : Move) (put : Nat → Option Byte) : Prop where
  going : m.stop = none
  clean : m.bad = none
  puts : s.Puts m.s t put

/-- The rows that can be moved lie in those that are to be moved. -/
theorem State.movable_covers {s : State} {rows : Rows} {r : HoistRow} (h : r ∈ s.movable rows) {x : Nat} (hx : r.covers x = true) :
    ∃ q ∈ rows, q.covers x = true := by
  induction rows with
  | nil => simp [State.movable] at h
  | cons q rows ih =>
    simp only [State.movable] at h
    split at h
    · rcases List.mem_cons.1 h with rfl | h
      · exact ⟨r, List.mem_cons_self, hx⟩
      · obtain ⟨q', hq, hc⟩ := ih h
        exact ⟨q', List.mem_cons_of_mem _ hq, hc⟩
    · obtain rfl := List.mem_singleton.1 h
      have : s.okBytes q.dst q.n ≤ q.n := prefixOk_unitsOf_le _ _ _ _
      refine ⟨q, List.mem_cons_self, ?_⟩
      simp only [HoistRow.covers, Bool.and_eq_true, decide_eq_true_eq] at hx ⊢
      omega

section
variable {s : State} {t : Nat} {m : Move} {p : Nat → Option Byte}

theorem Move.Wrote.congr {q : Nat → Option Byte} (h : Move.Wrote s t m p) (e : ∀ x, q x = p x) : Move.Wrote s t m q :=
  ⟨h.going, h.clean, h.puts.congr e⟩

/-- Counting moves nothing. -/
theorem Move.Wrote.quiet {a : State} (h : Move.Wrote s t m p) (ha : m.s.Frame a countParts spanFields) : Move.Wrote s t { m with s := a } p :=
  ⟨h.going, h.clean, h.puts.quiet ha⟩

/-- A copy from bytes that the descriptor does not write stores them as they stood. -/
theorem State.Calm.copyBytes (h : s.Calm) {rows : Rows} {src n : Nat} (apart : ∀ i, i < n → ∀ r ∈ rows, r.covers (src + i) = false) (pick dst : Nat) :
    s.copyBytes rows pick src dst n = (s.memBytes src n).map (fun b => (b, false)) := by
  unfold State.copyBytes State.memBytes
  rw [List.map_map]
  refine List.map_congr_left fun i hi => ?_
  have none : rows.any (fun r => r.covers (src + i)) = false :=
    List.any_eq_false.2 fun r hr => by rw [apart i (List.mem_range.1 hi) r hr]; exact Bool.false_ne_true
  simp only [none, Bool.and_false, Bool.false_eq_true, if_false, h.memBad, Function.comp]

theorem Move.Wrote.copy (h : Move.Wrote s t m p) (calm : s.Calm) {rows : Rows} {src dst n : Nat} (okSrc : s.okBytes src n = n)
    (okDst : s.okBytes dst n = n) (apart : ∀ i, i < n → ∀ r ∈ rows, r.covers (src + i) = false) (pick : Nat) :
    Move.Wrote s t (m.copy s rows pick t src dst n) (fun x => (putAt dst (s.memBytes src n) x).or (p x)) := by
  have moved := h.puts.moved
  have read := (moved.calm calm).hoistRead t src n
  have before := h.puts.quiet read
  have written := (before.moved.calm calm).hoistWrite (t := t) (p := dst) (bs := s.memBytes src n)
    (by rw [s.length_memBytes, before.moved.okBytes, okDst])
  have whole : min (m.s.okBytes src n) (m.s.okBytes dst n) = n := by rw [moved.okBytes, moved.okBytes, okSrc, okDst, Nat.min_self]
  have data := calm.copyBytes apart pick dst
  have bytes : (s.copyBytes rows pick src dst n).map Prod.fst = s.memBytes src n := by simp [data, Function.comp_def]
  have good : (fun i : Nat => ((s.copyBytes rows pick src dst n)[i]?).any Prod.snd) = fun _ => false := by
    funext i
    rw [data, List.getElem?_map]
    cases (s.memBytes src n)[i]? <;> rfl
  have first : (List.range n).find? (fun _ => false) = none := List.find?_eq_none.2 (by simp)
  have copied : m.copy s rows pick t src dst n = { m with s := (m.s.hoistRead t src n).hoistWrite t dst (s.memBytes src n) (fun _ => false) } := by
    unfold Move.copy
    simp only [h.going, Option.isSome_none, Bool.false_eq_true, if_false, whole, bytes, good, first, if_true]
  rw [copied]
  exact ⟨h.going, h.clean, before.trans written⟩

/-- A row of zeros. -/
theorem Move.Wrote.fill (h : Move.Wrote s t m p) (calm : s.Calm) {dst n : Nat} (okDst : s.okBytes dst n = n) :
    Move.Wrote s t (m.fill t dst n none) (fun x => (putAt dst (List.replicate n 0#8) x).or (p x)) := by
  have moved := h.puts.moved
  have whole : m.s.okBytes dst n = n := by rw [moved.okBytes, okDst]
  have written := (moved.calm calm).hoistWrite (t := t) (p := dst) (bs := List.replicate n 0#8) (by rwa [List.length_replicate])
  have filled : m.fill t dst n none = { m with s := m.s.hoistWrite t dst (List.replicate n 0#8) (fun _ => false) } := by
    unfold Move.fill
    simp only [h.going, Option.isSome_none, Bool.false_eq_true, if_false, whole, if_true]
  rw [filled]
  exact ⟨h.going, h.clean, h.puts.trans written⟩

theorem Move.Wrote.oor (h : Move.Wrote s t m p) : Move.Wrote s t (m.oor t) p := by
  unfold Move.oor
  rw [if_neg (by simp [h.going])]
  exact h.quiet ((State.Frame.refl m.s countParts spanFields).cnt (f := .hstIdxOor) t 0 1)

theorem Move.Wrote.repeated (h : Move.Wrote s t m p) (seen : List Nat) (n : Nat) : Move.Wrote s t (m.repeated t seen n) p := by
  unfold Move.repeated
  split
  · exact h.quiet ((State.Frame.refl m.s countParts spanFields).cnt (f := .hstSegRepeat) t 0 1)
  · exact h

/-- Steps that each put bytes put them one after the other; b holds the movement beside what else the steps carry. -/
theorem Move.Wrote.foldl {β ε : Type} {move : β → Move} {g : β → ε → β} {q : ε → Nat → Option Byte} {l : List ε}
    (step : ∀ b e p, e ∈ l → Move.Wrote s t (move b) p → Move.Wrote s t (move (g b e)) (fun x => (q e x).or (p x))) {b : β}
    (h : Move.Wrote s t (move b) p) : Move.Wrote s t (move (l.foldl g b)) (fun x => (overlay (l.map q) x).or (p x)) := by
  induction l generalizing b p with
  | nil => exact h
  | cons e l ih =>
    exact (ih (fun b e p he => step b e p (List.mem_cons_of_mem _ he)) (step b e p List.mem_cons_self h)).congr fun x => Option.or_assoc.symm ▸ rfl

end

end Sys2Proof.Machine
end

section
/-! SUPPORT. The rows of a copy, a gather and a scatter without reduction (R149, R239). -/
namespace Sys2Proof.Machine

section
variable {s : State} {t : Nat} {f : HoistF}

/-! ### Copies (R239) -/

/-- The rows of a copy: (source, destination). -/
def HoistF.copies (f : HoistF) : List (Nat × Nat) :=
  (List.range (if f.kind = 0 then 1 else f.count)).map (fun r =>
    if f.kind = 0 then (f.src, f.dst) else (f.src + r * f.srcStride, f.dst + r * f.dstStride))

/-- What a row of a copy puts. -/
def State.copyRow (s : State) (f : HoistF) (r : Nat × Nat) : Nat → Option Byte := putAt r.2 (s.memBytes r.1 f.rowBytes)

/-- A copy on this device, no source row of which meets a destination row, puts its rows one after the other. -/
theorem State.Calm.copied (h : s.Calm) (here : f.remote = false)
    (ok : ∀ r ∈ f.copies, s.okBytes r.1 f.rowBytes = f.rowBytes ∧ s.okBytes r.2 f.rowBytes = f.rowBytes)
    (apart : ∀ r ∈ f.copies, ∀ i, i < f.rowBytes → ∀ r' ∈ f.copies, ¬ (r'.2 ≤ r.1 + i ∧ r.1 + i < r'.2 + f.rowBytes)) :
    (hoistCopy s t f).2 = [] ∧ Move.Wrote s t (hoistCopy s t f).1 (overlay (f.copies.map (s.copyRow f))) := by
  let rows : Rows := s.movable (f.copies.map (fun r => { src := some r.1, dst := r.2, n := f.rowBytes }))
  let start : Move := { s := s.takeFree.2 }
  have copied : hoistCopy s t f =
      (f.copies.foldl (fun m r => m.copy s rows s.takeFree.1 t r.1 r.2 f.rowBytes) start, []) := by
    unfold hoistCopy
    simp only [here, Bool.false_eq_true, if_false]
    exact List.foldl_hom (fun m : Move => (m, ([] : List Nat))) fun _ _ => rfl
  have begun : Move.Wrote s t start fun _ => none := ⟨rfl, rfl, .of_quiet ((State.Frame.refl s _ _).drawn _)⟩
  rw [copied]
  refine ⟨rfl, (begun.foldl (move := id) (q := s.copyRow f) (fun m r p hr hm => ?_)).congr fun x => Option.or_none.symm⟩
  refine hm.copy h (ok r hr).1 (ok r hr).2 (fun i hi q hq => ?_) _
  by_contra covers
  obtain ⟨q', hq', hc⟩ := State.movable_covers hq (eq_true_of_ne_false covers)
  obtain ⟨r', hr', rfl⟩ := List.mem_map.1 hq'
  simp only [HoistRow.covers, Bool.and_eq_true, decide_eq_true_eq] at hc
  exact apart r hr i hi r' hr' hc

/-! ### Index lists (R149) -/

/-- Entry r of the index list. -/
def State.idxAt (s : State) (f : HoistF) (r : Nat) : Nat := leNat (s.memBytes (f.idx + 4 * r) 4)

/-- What entry r names, in a memory without errors. -/
def State.idxEntry (s : State) (f : HoistF) (r : Nat) : IdxEntry :=
  if s.idxAt f r < f.srcStride then .row (s.idxAt f r) else if s.idxAt f r = 0xFFFFFFFF then .null else .outOfRange

/-- The entries of an index list that is reached whole, without errors. -/
theorem State.Calm.indexEntries (h : s.Calm) (ok : s.okBytes f.idx (4 * f.count) = 4 * f.count) (small : f.srcStride < 2 ^ 32) :
    (s.indexList t f).2 = (List.range f.count).map (s.idxEntry f) := by
  unfold State.indexList
  simp only [ok, h.memBad, Bool.or_false, Bool.false_eq_true, if_false, Nat.mul_div_cancel_left f.count (by decide : 0 < 4)]
  refine List.map_congr_left fun r _ => ?_
  unfold State.idxEntry State.idxAt
  grind

theorem State.Calm.indexed (h : s.Calm) (ok : s.okBytes f.idx (4 * f.count) = 4 * f.count) (small : f.srcStride < 2 ^ 32) :
    (s.indexList t f).2.zip (List.range (s.indexList t f).2.length) = (List.range f.count).map (fun r => (s.idxEntry f r, r)) := by
  rw [h.indexEntries ok small, List.length_map, List.length_range]
  have pairs := List.zip_map' (f := s.idxEntry f) (g := id) (l := List.range f.count)
  rwa [List.map_id] at pairs

/-- Reading the index list only counts. -/
theorem State.Calm.quiet_indexList (h : s.Calm) : s.Frame (s.indexList t f).1 countParts spanFields := h.hoistRead t _ _

/-- The index list of a gather or scatter ends where it should. -/
theorem Move.indexEnd_of_ok {m : Move} (ok : s.okBytes f.idx (4 * f.count) = 4 * f.count) : m.indexEnd s t f = m := if_pos (.inr ok)

/-- The rows that are written lie where the index list puts them. -/
theorem HoistF.rows_covers {l : List (IdxEntry × Nat)} {ix : List IdxEntry} (zipped : ix.zip (List.range ix.length) = l) {r : HoistRow} (hr : r ∈ f.rows ix)
    {x : Nat} (hx : r.covers x = true) : ∃ e ∈ l, (f.kind = 2 ∧ f.dst + e.2 * f.rowBytes ≤ x ∧ x < f.dst + e.2 * f.rowBytes + f.rowBytes) ∨
      (∃ n, f.kind ≠ 2 ∧ e.1 = .row n ∧ f.dst + n * f.rowBytes ≤ x ∧ x < f.dst + n * f.rowBytes + f.rowBytes) := by
  unfold HoistF.rows at hr
  rw [zipped] at hr
  obtain ⟨e, he, row⟩ := List.mem_filterMap.1 hr
  refine ⟨e, he, ?_⟩
  split at row
  · next n hn =>
    split_ifs at row with kind <;> cases row <;> simp only [HoistRow.covers, Bool.and_eq_true, decide_eq_true_eq] at hx
    · exact .inl ⟨kind, hx⟩
    · exact .inr ⟨n, kind, hn, hx⟩
  · split_ifs at row with kind
    cases row
    simp only [HoistRow.covers, Bool.and_eq_true, decide_eq_true_eq] at hx
    exact .inl ⟨kind, hx⟩

/-! ### Gather (R149) -/

/-- What row r of a gather puts: its table row, or zeros. -/
def State.gatherRow (s : State) (f : HoistF) (r : Nat) : Nat → Option Byte :=
  putAt (f.dst + r * f.rowBytes)
    (if s.idxAt f r < f.srcStride then s.memBytes (f.src + s.idxAt f r * f.rowBytes) f.rowBytes else List.replicate f.rowBytes 0#8)

/-- A gather whose table rows lie apart from its destination puts its rows one after the other. -/
theorem State.Calm.gathered (h : s.Calm) (kind : f.kind = 2) (small : f.srcStride < 2 ^ 32)
    (okIdx : s.okBytes f.idx (4 * f.count) = 4 * f.count)
    (okSrc : ∀ r, r < f.count → s.idxAt f r < f.srcStride → s.okBytes (f.src + s.idxAt f r * f.rowBytes) f.rowBytes = f.rowBytes)
    (okDst : ∀ r, r < f.count → s.okBytes (f.dst + r * f.rowBytes) f.rowBytes = f.rowBytes)
    (apart : ∀ r i j, r < f.count → s.idxAt f r < f.srcStride → i < f.rowBytes → j < f.count * f.rowBytes →
      f.src + s.idxAt f r * f.rowBytes + i ≠ f.dst + j) :
    Move.Wrote s t (hoistGather s t f) (overlay ((List.range f.count).map (s.gatherRow f))) := by
  have zipped := h.indexed (t := t) okIdx small
  unfold hoistGather
  dsimp only
  split_ifs with empty
  · refine ⟨rfl, rfl, (State.Puts.refl s t).congr fun x => overlay_none fun p hp => ?_⟩
    obtain ⟨r, -, rfl⟩ := List.mem_map.1 hp
    simp [State.gatherRow, empty, putAt, State.memBytes]
  rw [Move.indexEnd_of_ok okIdx, zipped, List.foldl_map]
  have begun : Move.Wrote s t { s := (s.indexList t f).1.takeFree.2 } fun _ => none :=
    ⟨rfl, rfl, .of_quiet (h.quiet_indexList.drawn _)⟩
  refine (begun.foldl (move := id) (q := s.gatherRow f) (fun m r p hr hm => ?_)).congr fun x => Option.or_none.symm
  have hr := List.mem_range.1 hr
  unfold State.gatherRow State.idxEntry
  dsimp only [id]
  split_ifs with named null
  · refine hm.copy h (okSrc r hr named) (okDst r hr) (fun i hi q hq => ?_) _
    by_contra covers
    obtain ⟨q', hq', hc⟩ := State.movable_covers hq (eq_true_of_ne_false covers)
    obtain ⟨e, he, ⟨-, from_, to_⟩ | ⟨n, other, -⟩⟩ := HoistF.rows_covers zipped hq' hc
    · obtain ⟨r', hr', rfl⟩ := List.mem_map.1 he
      have inside : (r' + 1) * f.rowBytes ≤ f.count * f.rowBytes := Nat.mul_le_mul_right _ (List.mem_range.1 hr')
      rw [Nat.add_mul, Nat.one_mul] at inside
      dsimp only at from_ to_
      exact apart r i (f.src + s.idxAt f r * f.rowBytes + i - f.dst) hr named hi (by omega) (by omega)
    · exact other kind
  · exact hm.fill h (okDst r hr)
  · exact hm.oor.fill h (okDst r hr)

/-! ### Scatter without reduction (R149) -/

/-- What source row r of a scatter puts, if its index names a table row. -/
def State.scatterRow (s : State) (f : HoistF) (r : Nat) : Nat → Option Byte :=
  if s.idxAt f r < f.srcStride then putAt (f.dst + s.idxAt f r * f.rowBytes) (s.memBytes (f.src + r * f.rowBytes) f.rowBytes) else fun _ => none

/-- A scatter whose source rows lie apart from the table rows it writes puts its rows one after the other. -/
theorem State.Calm.scattered (h : s.Calm) (kind : f.kind = 3) (plain : f.redOp = 0) (small : f.srcStride < 2 ^ 32)
    (okIdx : s.okBytes f.idx (4 * f.count) = 4 * f.count)
    (okSrc : ∀ r, r < f.count → s.idxAt f r < f.srcStride → s.okBytes (f.src + r * f.rowBytes) f.rowBytes = f.rowBytes)
    (okDst : ∀ r, r < f.count → s.idxAt f r < f.srcStride → s.okBytes (f.dst + s.idxAt f r * f.rowBytes) f.rowBytes = f.rowBytes)
    (apart : ∀ r i j, r < f.count → s.idxAt f r < f.srcStride → i < f.rowBytes → j < f.count * f.rowBytes →
      f.dst + s.idxAt f r * f.rowBytes + i ≠ f.src + j) :
    Move.Wrote s t (hoistScatter s t f) (overlay ((List.range f.count).map (s.scatterRow f))) := by
  have zipped := h.indexed (t := t) okIdx small
  unfold hoistScatter
  simp only [if_pos plain]
  split_ifs with empty
  · refine ⟨rfl, rfl, (State.Puts.refl s t).congr fun x => overlay_none fun p hp => ?_⟩
    obtain ⟨r, -, rfl⟩ := List.mem_map.1 hp
    unfold State.scatterRow
    split_ifs <;> simp [empty, putAt, State.memBytes]
  rw [Move.indexEnd_of_ok okIdx]
  unfold hoistScatterPlain
  dsimp only
  rw [zipped, List.foldl_map]
  have begun : Move.Wrote s t (({ s := (s.indexList t f).1.takeFree.2 } : Move), ([] : List Nat)).1 fun _ => none :=
    ⟨rfl, rfl, .of_quiet (h.quiet_indexList.drawn _)⟩
  refine (begun.foldl (move := Prod.fst) (q := s.scatterRow f) (fun b r p hr hm => ?_)).congr fun x => Option.or_none.symm
  have hr := List.mem_range.1 hr
  unfold State.scatterRow State.idxEntry
  split_ifs with named null
  · refine (hm.repeated b.2 _).copy h (okSrc r hr named) (okDst r hr named) (fun i hi q hq => ?_) _
    by_contra covers
    obtain ⟨q', hq', hc⟩ := State.movable_covers hq (eq_true_of_ne_false covers)
    obtain ⟨e, he, ⟨gather, -⟩ | ⟨n, -, row, from_, to_⟩⟩ := HoistF.rows_covers zipped hq' hc
    · omega
    · obtain ⟨r', hr', rfl⟩ := List.mem_map.1 he
      have named' : s.idxAt f r' < f.srcStride ∧ s.idxAt f r' = n := by
        unfold State.idxEntry at row
        split_ifs at row with hn
        cases row
        exact ⟨hn, rfl⟩
      obtain ⟨named', rfl⟩ := named'
      have inside : (r + 1) * f.rowBytes ≤ f.count * f.rowBytes := Nat.mul_le_mul_right _ hr
      rw [Nat.add_mul, Nat.one_mul] at inside
      exact apart r' (f.src + r * f.rowBytes + i - (f.dst + s.idxAt f r' * f.rowBytes)) (r * f.rowBytes + i) (List.mem_range.1 hr') named'
        (by omega) (by omega) (by omega)
  · exact hm
  · exact hm.oor

end

end Sys2Proof.Machine
end

section
/-! SUPPORT. A reducing scatter of one INT32 row (R150): each element adds to the table row's, modulo 2^32. -/
namespace Sys2Proof.Machine

/-! ### INT32 arithmetic that wraps (R84) -/

theorem narrowInt_wraps (f : Fmt) (v : Int) : (narrowInt f false v).bits = ofSigned f.width v := by
  simp only [narrowInt, Bool.false_eq_true, if_false]
  split <;> rfl

theorem ofSigned_toSigned (n : Nat) : ofSigned 32 (toSigned 32 n) = n % 2 ^ 32 := by
  unfold ofSigned toSigned trunc
  split_ifs <;> omega

theorem addC_int32 (flush : Bool) (a b : Nat) : (addC .int32 false flush a b).bits = (a + b) % 2 ^ 32 := by
  have sum : ofSigned 32 (toSigned 32 a + toSigned 32 b) = (a + b) % 2 ^ 32 := by
    unfold ofSigned toSigned trunc
    split_ifs <;> omega
  exact (narrowInt_wraps .int32 _).trans sum

/-- An INT32 value narrowed to INT32 is itself. -/
theorem convert_int32 (r : Round) (flush : Bool) (n : Nat) : (convert .int32 .int32 r false false flush n).bits = n % 2 ^ 32 := by
  have value : (if toSigned 32 n < 0 then -((toSigned 32 n).natAbs : Int) else (toSigned 32 n).natAbs) = toSigned 32 n := by
    split_ifs <;> omega
  have exact_ : roundMag r (toSigned 32 n).natAbs 0 false 0 = ((toSigned 32 n).natAbs, false) := by simp [roundMag]
  have unpacked : unpackFlush false .int32 n = (.fin (toSigned 32 n < 0) (toSigned 32 n).natAbs 0, {}) := rfl
  have wide : Fmt.int32.width = 32 := rfl
  have int : Fmt.int32.isInt = true := rfl
  simp only [convert, unpacked, narrow, int, if_true, exact_, decide_eq_true_eq, value, narrowInt_wraps, wide, ofSigned_toSigned]

theorem Stored.bits_reduced (f : Fmt) (e : Num) (lost : Bool) (st : Stored) : (st.reduced f e lost).bits = st.bits := by
  unfold Stored.reduced
  dsimp only
  split_ifs <;> rfl

/-- An element of a one-row segment in accumulate mode. -/
theorem redElem_int32 {f : HoistF} (sum : f.redOp = 1) (wraps : f.sat = false) (r : Round) (old v : Nat) :
    (redElem f .int32 r (some old) [v]).bits = (old + v) % 2 ^ 32 := by
  have int : Fmt.int32.isInt = true := rfl
  have wide : Fmt.int32.width = 32 := rfl
  unfold redElem
  simp only [Stored.bits_reduced, int, wide, if_true, List.map_cons, List.map_nil, chainSum, List.foldl_nil, Option.map_some, sum, wraps, Bool.not_true,
    convert_int32, addC_int32, ofSigned_toSigned]
  omega

end Sys2Proof.Machine
end

section
/-! SUPPORT. A reducing scatter of one INT32 row (R150): the row it leaves in the table. -/
namespace Sys2Proof.Machine

theorem healthKeys_code {f : Fmt} {v : Stored} {k : Nat} (h : k ∈ healthKeys f v) : k / 4 = f.code := by
  unfold healthKeys at h
  simp only [List.mem_append, List.mem_singleton] at h
  rcases h with ((rfl | h) | h) | h
  · omega
  all_goals
    split at h
    · rw [List.mem_singleton] at h
      omega
    · simp at h

theorem Fmt.code_lt (f : Fmt) : f.code < 4096 := by cases f <;> decide

theorem State.Frame.foldl_mem {α : Type} {s a : State} {ps : List Part} {fs : List Field} {g : State → α → State} {l : List α} (h : s.Frame a ps fs)
    (step : ∀ x e, e ∈ l → s.Frame x ps fs → s.Frame (g x e) ps fs) : s.Frame (l.foldl g a) ps fs := by
  induction l generalizing a with
  | nil => exact h
  | cons e l ih => exact ih (step a e List.mem_cons_self h) fun x e' he => step x e' (List.mem_cons_of_mem _ he)

section
variable {s a x : State} {t : Nat} {f : HoistF}

/-- The health of a stored value is only counted. -/
theorem State.Frame.health (h : s.Frame a countParts spanFields) (t : Nat) (fmt : Fmt) (v : Stored) : s.Frame (a.health t fmt v) countParts spanFields := by
  unfold State.health State.effHealth
  refine h.foldl_mem fun x k hk hx => ?_
  have small : k / 4 < 4096 := (healthKeys_code hk).trans_lt fmt.code_lt
  rw [x.effCnt_now t _ 1 small, if_neg one_ne_zero]
  refine hx.cnt t _ 1 (by decide) ?_
  unfold healthField
  split <;> decide

/-- The hoist's flags are registers of their own. -/
theorem State.Frame.setFlags (h : s.Frame a countParts spanFields) (t bits : Nat) : s.Frame (a.setFlags .hst t bits) countParts spanFields := by
  refine h.foldl_mem fun x p hp hx => hx.wr t 0 1 (by decide) ?_
  have listed := (List.of_mem_zip (List.mem_of_mem_filter hp)).1
  revert listed
  generalize p.1 = field
  decide +revert

/-- The row of sums that a reducing scatter of one INT32 row leaves: the table row at dst, with the source row at src added. -/
def State.sumRow (s : State) (dst src n : Nat) : List Byte :=
  (List.range (n / 4)).flatMap (fun e => natLe 4 ((leNat (s.memBytes (dst + 4 * e) 4) + leNat (s.memBytes (src + 4 * e) 4)) % 2 ^ 32))

theorem State.rowElem_int32 (s : State) (p e : Nat) : s.rowElem .int32 p e = leNat (s.memBytes (p + 4 * e) 4) := by
  have small : leNat (s.memBytes (p + 4 * e) 4) < 2 ^ 32 := (leNat_lt _).trans_eq (by rw [s.length_memBytes]; rfl)
  have four : (elemBitPos .int32 0).2 / 8 = 4 := rfl
  unfold State.rowElem
  simp only [four, Nat.mul_comm e 4]
  exact Nat.mod_eq_of_lt small

/-! ### The bytes of that row -/

theorem length_flatMap_four {g : Nat → List Byte} (len : ∀ e, (g e).length = 4) (n : Nat) : ((List.range n).flatMap g).length = 4 * n := by
  simp [List.length_flatMap, len, Nat.mul_comm]

theorem getElem?_flatMap_four {g : Nat → List Byte} (len : ∀ e, (g e).length = 4) {n e i : Nat} (he : e < n) (hi : i < 4) :
    ((List.range n).flatMap g)[4 * e + i]? = (g e)[i]? := by
  induction n with
  | zero => omega
  | succ n ih =>
    have before := length_flatMap_four len n
    rw [List.range_succ, List.flatMap_append, List.flatMap_singleton]
    by_cases last : e = n
    · rw [List.getElem?_append_right (by omega), before, last, Nat.add_sub_cancel_left]
    · rw [List.getElem?_append_left (by omega), ih (by omega)]

theorem State.length_sumRow (s : State) (dst src : Nat) {n : Nat} (words : n % 4 = 0) : (s.sumRow dst src n).length = n := by
  rw [State.sumRow, length_flatMap_four (fun _ => length_natLe _ _)]
  omega

/-! ### The segment -/

/-- A segment of one INT32 row, met by nothing that stops it, puts its sums over the table row. -/
theorem State.Calm.segment (h : s.Calm) (quiet : s.Frame x countParts spanFields) (sum : f.redOp = 1) (code : f.fmt = 9) (acc : f.acc = true)
    (wraps : f.sat = false) (words : f.rowBytes % 4 = 0) {n r : Nat} {rows : Rows}
    (okSrc : s.okBytes (f.src + r * f.rowBytes) f.rowBytes = f.rowBytes) (okDst : s.okBytes (f.dst + n * f.rowBytes) f.rowBytes = f.rowBytes) :
    Move.Wrote s t (Move.segment { s := x } s rows t f n r 1)
      (putAt (f.dst + n * f.rowBytes) (s.sumRow (f.dst + n * f.rowBytes) (f.src + r * f.rowBytes) f.rowBytes)) := by
  have same := State.Puts.of_quiet (t := t) quiet
  have moved := same.moved
  unfold Move.segment
  rw [if_neg (by simp)]
  extract_lets s0 fmt w dst srcs stop taken per s1 s2 key mixed pick res poisoned badOld badElem firstBad s2' s3 good s4 m m'
  have hfmt : fmt = .int32 := by simp only [fmt, code]; rfl
  have hw : w = 4 := by simp only [w, hfmt]; rfl
  have hsrcs : srcs = [f.src + r * f.rowBytes] := by simp [srcs]
  have hstop : stop = none := by
    simp [stop, hsrcs, s0, dst, State.segmentStop, moved.okBytes, okSrc, okDst]
  have htaken (e : Nat) : taken e = 1 := by simp only [taken, hstop]
  have hper : per = f.rowBytes / 4 := by simp [per, htaken, hw]
  have byte (e a : Nat) : (pick e).memByte a = s.memByte a := by
    simp only [pick, s0]
    split
    · rfl
    · exact same.byte a
  have clean (e a : Nat) : (pick e).memBad a = false := by
    simp only [pick, s0]
    split
    · exact h.memBad a
    · exact (moved.calm h).memBad a
  have hpoisoned (e a i : Nat) : poisoned (pick e) a i = false := by simp [poisoned, clean]
  have hold (e : Nat) : badOld e = false := by simp [badOld, poisoned, s0, (moved.calm h).memBad]
  have hbad (e : Nat) : badElem e = false := by simp [badElem, hpoisoned, hold]
  have hfirst : firstBad = none := by simp [firstBad, hpoisoned, hold]
  have read1 : s.Frame s1 countParts spanFields := by
    simp only [s1, s0, hsrcs, List.range_one, List.zip_cons_cons, List.zip_nil_right, List.foldl_cons, List.foldl_nil]
    exact quiet.after ((moved.calm h).hoistRead t _ _)
  have read2 : s.Frame s2 countParts spanFields := .ite (read1.after ((read1.calm h).hoistRead t _ _)) read1
  have drawn : s.Frame s2' [.regs, .act, .free] spanFields := .ite (read2.drawn _) read2.mono
  have bytes : res.flatMap (fun st => natLe w (toContainer fmt st.bits)) = s.sumRow dst (f.src + r * f.rowBytes) f.rowBytes := by
    have sums (e : Nat) (draw : Round) : (redElem f fmt draw (if f.acc = true then some (s0.rowElem fmt dst e) else none)
        (((srcs.take (taken e)).map (fun a => (pick e).rowElem fmt a e)))).bits =
        (leNat (s.memBytes (dst + 4 * e) 4) + leNat (s.memBytes (f.src + r * f.rowBytes + 4 * e) 4)) % 2 ^ 32 := by
      have old : s0.memBytes (dst + 4 * e) 4 = s.memBytes (dst + 4 * e) 4 := by simp [State.memBytes, s0, same.byte]
      have new : (pick e).memBytes (f.src + r * f.rowBytes + 4 * e) 4 = s.memBytes (f.src + r * f.rowBytes + 4 * e) 4 := by
        simp only [State.memBytes, byte]
      rw [hfmt, hsrcs, htaken, if_pos acc, List.take_of_length_le (by simp), List.map_singleton, redElem_int32 sum wraps, State.rowElem_int32,
        State.rowElem_int32, old, new]
    simp only [res, hper, List.flatMap_map, sums, hw, State.sumRow]
    rw [hfmt]
    rfl
  have written : s.Puts s3 t (putAt dst (s.sumRow dst (f.src + r * f.rowBytes) f.rowBytes)) := by
    have before := State.Puts.of_quiet (t := t) drawn
    have stored := (before.moved.calm h).hoistWrite (t := t) (p := dst) (bs := s.sumRow dst (f.src + r * f.rowBytes) f.rowBytes)
      (by rw [s.length_sumRow _ _ words, before.moved.okBytes, okDst])
    have whole : s3 = s2'.hoistWrite t dst (s.sumRow dst (f.src + r * f.rowBytes) f.rowBytes) (fun _ => false) := by
      simp only [s3, bytes, hbad]
    rw [whole]
    exact (before.trans stored).congr fun _ => Option.or_none.symm
  have flagged : s3.Frame m.s countParts spanFields := .foldl ((State.Frame.refl _ _ _).setFlags t _) (fun _ _ hx => hx.health t fmt _) good
  rw [hstop]
  simp only [m', hfirst]
  exact ⟨rfl, rfl, written.quiet flagged⟩

/-- A reducing scatter of one INT32 row adds it to the table row that its index names. -/
theorem State.Calm.reduced (h : s.Calm) (sum : f.redOp = 1) (code : f.fmt = 9) (acc : f.acc = true) (wraps : f.sat = false)
    (words : f.rowBytes % 4 = 0) (one : f.count = 1) (small : f.srcStride < 2 ^ 32) (named : s.idxAt f 0 < f.srcStride)
    (okIdx : s.okBytes f.idx (4 * f.count) = 4 * f.count) (okSrc : s.okBytes f.src f.rowBytes = f.rowBytes)
    (okDst : s.okBytes (f.dst + s.idxAt f 0 * f.rowBytes) f.rowBytes = f.rowBytes) :
    Move.Wrote s t (hoistScatter s t f) (putAt (f.dst + s.idxAt f 0 * f.rowBytes) (s.sumRow (f.dst + s.idxAt f 0 * f.rowBytes) f.src f.rowBytes)) := by
  have entries : (s.indexList t f).2 = [.row (s.idxAt f 0)] := by
    rw [h.indexEntries okIdx small, one, List.range_one, List.map_singleton, State.idxEntry, if_pos named]
  have first : f.src + 0 * f.rowBytes = f.src := by omega
  have moved := h.segment (t := t) (rows := f.rows [.row (s.idxAt f 0)]) (r := 0) (h.quiet_indexList (t := t) (f := f)) sum code acc wraps words
    (by rwa [first]) okDst
  rw [first] at moved
  unfold hoistScatter
  simp only [sum, one_ne_zero, if_false]
  split_ifs with empty
  · refine ⟨rfl, rfl, (State.Puts.refl s t).congr fun x => ?_⟩
    simp [empty, State.sumRow, putAt]
  · rw [Move.indexEnd_of_ok okIdx, hoistScatterRed, entries]
    exact moved

end
end Sys2Proof.Machine
end

section
/-! SUPPORT. The hoist takes a descriptor of a memory without errors (R237), and executes it once its bytes have moved. -/
namespace Sys2Proof.Machine

section
variable {s a : State} {t q : Nat} {d : List Nat} {put : Nat → Option Byte}

theorem State.HoistTakes.calm (h : s.HoistTakes t q d) : s.Calm := ⟨h.good, h.steady⟩

/-- The state in which a descriptor's bytes move: its entry read, and no longer held (R237). -/
def State.hoistReady (s : State) (t q : Nat) : State := (s.bankCount t .cb false 1).unhold t (16 + q)

theorem State.frame_hoistReady (s : State) (t q : Nat) : s.Frame (s.hoistReady t q) [.regs, .tiles, .act] spanFields := by
  unfold State.hoistReady State.unhold
  exact ((State.Frame.refl s _ _).bankCount t .cb false 1).onTile t _

theorem State.moved_hoistReady (s : State) (t q : Nat) : s.Moved (s.hoistReady t q) t := by
  have tile (u : Nat) : (s.bankCount t .cb false 1).tile u = s.tile u := (s.only_bankCount t .cb false 1).tile (by decide) u
  refine ⟨(s.frame_hoistReady t q).mono, fun k => (s.only_bankCount t .cb false 1).mark (by decide) k, ?_, fun u hu => ?_⟩
  · rw [State.hoistReady, State.unhold, State.tile_onTile_same, tile]
  · rw [State.hoistReady, State.unhold, State.tile_onTile_ne _ hu, tile]

theorem State.puts_hoistReady (s : State) (t q : Nat) : s.Puts (s.hoistReady t q) t fun _ => none :=
  ⟨s.moved_hoistReady t q, fun x => (s.moved_hoistReady t q).memByte_of_byte (fun k => (s.only_bankCount t .cb false 1).byte (by decide) k) x⟩

/-- A span within a span of memory. -/
theorem State.bytes_part (s : State) (k : Nat) {n i m : Nat} (h : i + m ≤ n) : ((s.bytes k n).drop i).take m = s.bytes (k + i) m := by
  refine List.ext_getElem (by simp [State.bytes]; omega) fun j _ _ => ?_
  simp [State.bytes, Nat.add_assoc]

/-- The words of the head entry of a hoist queue. -/
theorem State.HoistTakes.entry (h : s.HoistTakes t q d) : (List.range 8).map (fun i => leNat (((s.spdRead t .cb 1
    (s.qLine t (64 + q) (s.rd .tileQHead (qInst t (64 + q)))) 64).2.1.drop (8 * i)).take 8)) = d := by
  rw [h.words]
  refine List.map_congr_left fun i hi => ?_
  have hi := List.mem_range.1 hi
  rw [← s.bytes_part _ (show 8 * i + 8 ≤ 64 by omega)]
  simp only [State.spdRead, (h.calm.clean t .cb).spdByte, State.bytes, spdAddr_add]

/-- A legal descriptor whose spans nothing holds leaves its queue when its bytes have moved. -/
theorem State.HoistTakes.hoistRow (h : s.HoistTakes t q d) (legal : (hoistFields d).illegal = none)
    (free : s.heldAt (s.hoistSpans (hoistFields d)) = none) : s.hoistRow t (hoistFields d).kind =
      let m := (s.hoistReady t q).hoistMove t (hoistFields d)
      m.1.s.hoistBegin t (m.1.run q d m.2) := by
  have none_ : s.hoistHeld t (hoistFields d).kind = none := List.find?_eq_none.2 fun r hr => by simp [h.moving r hr]
  have good (off n : Nat) : s.poisonWords t .cb off n = [] := List.filter_eq_nil_iff.2 fun i _ => by simp [h.good]
  have room : s.readsFull t (hoistFields d) = false := by
    have := h.lines
    unfold State.readsFull
    rw [decide_eq_false (by omega), Bool.false_and]
  have words := h.entry
  have read (off : Nat) : (s.spdRead t .cb 1 off 64).1 = s := by rw [State.spdRead, (h.calm.clean t .cb).wordsRead]
  unfold State.hoistRow
  simp only [h.active, Bool.not_true, Bool.false_eq_true, if_false, none_, if_neg (Nat.not_le.2 h.room), h.next, State.hoistTake, h.clear, good,
    List.isEmpty_nil, words, read, BEq.rfl, Bool.true_or, legal, free, room]
  rfl

/-! ### The descriptor executes -/

/-- A descriptor begins where only what it may change of its tile has changed. -/
theorem State.Frame.hoistBegun {ps : List Part} (frame : s.Frame a ps spanFields) (marks : ∀ k, a.mark k = s.mark k) (tiles : s.TilesBut a t)
    (tile : a.tile t = { s.tile t with held := (a.tile t).held, hoist := { (s.tile t).hoist with nextTag := (a.tile t).hoist.nextTag } })
    (r : HoistRun) : s.HoistBegun (a.hoistBegin t r) t r := by
  have width : (2 : Nat) ^ (Field.tileQHead.info).width = 2 ^ 9 := rfl
  refine ⟨?_, fun u hu => ?_, ?_, marks, fun f i j hf => ?_⟩
  · rw [State.hoistBegin, State.tile_onTile_same, State.qDropHead, State.tile_wr, tile]
  · rw [State.hoistBegin, State.tile_onTile_ne _ hu]
    exact tiles u hu
  · have depth : a.qDepth t (64 + r.queue) = s.qDepth t (64 + r.queue) := by
      simp only [State.qDepth, frame.rd .tileQcfgLog2Depth _ _ (by decide)]
    rw [State.hoistBegin, State.rd_onTile, State.qDropHead, State.rd_wr_same, width, depth, frame.rd .tileQHead _ _ (by decide)]
  · rw [State.hoistBegin, State.rd_onTile, State.qDropHead, State.rd_wr_ne _ (by rintro rfl; exact hf (by decide))]
    exact frame.rd f i j fun hm => hf (List.mem_of_mem_erase hm)

theorem State.Only.hoistBegin {ps : List Part} (h : s.Only a ps) (t : Nat) (r : HoistRun) (hp : [Part.regs, .tiles] ⊆ ps := by decide) :
    s.Only (a.hoistBegin t r) ps :=
  (h.trans ((a.only_wr _ _ _ _).mono fun _ hx => hp (by simp_all))).trans ((State.only_onTile _ _ _).mono fun _ hx => hp (by simp_all))

/-- The queue pointer and the list of executing descriptors hold no bytes. -/
theorem State.memByte_hoistBegin (a : State) (t : Nat) (r : HoistRun) (x : Nat) : (a.hoistBegin t r).memByte x = a.memByte x := by
  have tile {α : Type} (p : Tile → α) (hp : ∀ y l, p { y with hoist := l } = p y) (u : Nat) : p ((a.hoistBegin t r).tile u) = p (a.tile u) := by
    by_cases e : u = t
    · rw [e, State.hoistBegin, State.tile_onTile_same, hp]
      rfl
    · rw [State.hoistBegin, State.tile_onTile_ne _ e]
      rfl
  refine State.memByte_congr (s := a) (a := a.hoistBegin t r) (State.place_congr rfl rfl fun f hf => ?_)
    (tile Tile.slots fun _ _ => rfl) (tile Tile.shadow fun _ _ => rfl)
    (fun _ => rfl) x
  exact State.rd_wr_ne a (by rintro rfl; simp at hf) _ _ _ _ _

/-- A descriptor whose bytes have been put executes without an error, and its bytes stand as they were put. -/
theorem Move.Wrote.begun {m : Move} (wrote : Move.Wrote (s.hoistReady t q) t m put) :
    (∀ x, (m.s.hoistBegin t (m.run q d [])).memByte x = (put x).getD (s.memByte x)) ∧
      s.HoistBegun (m.s.hoistBegin t (m.run q d [])) t { queue := q, desc := d, lastSent := s.tally } ∧
      s.Only (m.s.hoistBegin t (m.run q d [])) [.regs, .tiles, .act, .mem, .ecc, .free] := by
  have puts := ((s.puts_hoistReady t q).trans wrote.puts).congr fun x => (Option.or_none (o := put x)).symm
  have frame := puts.moved.frame
  have run : m.run q d [] = { queue := q, desc := d, lastSent := s.tally } := by
    have tally : m.s.tally = s.tally := frame.only .tally (by decide)
    simp [Move.run, wrote.going, wrote.clean, tally]
  have tag : m.s.tile t = { s.tile t with held := (m.s.tile t).held, hoist := { (s.tile t).hoist with nextTag := (m.s.tile t).hoist.nextTag } } := by
    rw [puts.moved.tile]
  rw [run]
  exact ⟨fun x => (m.s.memByte_hoistBegin t _ x).trans (puts.byte x), frame.hoistBegun puts.moved.marks puts.moved.tiles tag _,
    frame.only.hoistBegin t _⟩

end
end Sys2Proof.Machine
end

section
/-! SUPPORT. Copies, gathers and scatters that the hoist takes (R149, R239): the bytes of each row. -/
namespace Sys2Proof.Machine

theorem putAt_memBytes (s : State) (dst src : Nat) {n i : Nat} (hi : i < n) : putAt dst (s.memBytes src n) (dst + i) = some (s.memByte (src + i)) := by
  rw [putAt_inside, s.getElem?_memBytes src hi]

/-- Rows of one length lie one after the other. -/
theorem row_eq {n r r' i i' : Nat} (hi : i < n) (hi' : i' < n) (h : r * n + i = r' * n + i') : r = r' ∧ i = i' := by
  have number {r i : Nat} (hi : i < n) : (r * n + i) / n = r := by
    rw [Nat.mul_comm, Nat.mul_add_div (by omega), Nat.div_eq_of_lt hi, Nat.add_zero]
  have rows := number (r := r) hi
  rw [h, number hi'] at rows
  exact ⟨rows.symm, by rw [rows] at h; omega⟩

theorem row_inside {n r c i : Nat} (hr : r < c) (hi : i < n) : r * n + i < c * n := by
  have := Nat.mul_le_mul_right n (Nat.succ_le_of_lt hr)
  rw [Nat.succ_mul] at this
  omega

/-- A row puts nothing at an address that none of its bytes has. -/
theorem putAt_apart {p x : Nat} {bs : List Byte} (h : ∀ i, i < bs.length → x ≠ p + i) : putAt p bs x = none :=
  putAt_outside fun hx => h (x - p) (by omega) (by omega)

/-! ### What a legal descriptor's fields say -/

theorem hoistFields_srcStride_lt (d : List Nat) : (hoistFields d).srcStride < 2 ^ 32 := by
  simp only [hoistFields, bitsOf]
  exact Nat.mod_lt _ (by decide)

theorem HoistF.rowBytes_of_legal {f : HoistF} (legal : f.illegal = none) (kind : 2 ≤ f.kind) : f.rowBytes % 64 = 0 := by
  by_contra odd
  unfold HoistF.illegal at legal
  split_ifs at legal with _ _ words
  exact words ⟨kind, odd⟩

section
variable {s : State} {t q : Nat} {d : List Nat} {f : HoistF}

/-- The rows of a copy are among its spans. -/
theorem HoistF.copies_spans (kind : f.kind < 2) (here : f.remote = false) {r : Nat × Nat} (hr : r ∈ f.copies) :
    (r.1, f.rowBytes) ∈ s.hoistSpans f ∧ (r.2, f.rowBytes) ∈ s.hoistSpans f := by
  obtain ⟨n, hn, rfl⟩ := List.mem_map.1 hr
  unfold State.hoistSpans
  rcases (by omega : f.kind = 0 ∨ f.kind = 1) with e | e
  · simp [e, here]
  · have hn : n < f.count := by simpa [e] using hn
    simp only [e, here, Bool.false_eq_true, if_false, one_ne_zero]
    exact ⟨List.mem_flatMap.2 ⟨n, List.mem_range.2 hn, by simp⟩, List.mem_flatMap.2 ⟨n, List.mem_range.2 hn, by simp⟩⟩

theorem HoistF.idx_span (kind : 2 ≤ f.kind) : (f.idx, 4 * f.count) ∈ s.hoistSpans f := by
  unfold State.hoistSpans
  split
  · omega
  · omega
  · exact List.mem_cons_self

theorem HoistF.gather_spans (kind : f.kind = 2) {r : Nat} (hr : r < f.count) : (f.dst + r * f.rowBytes, f.rowBytes) ∈ s.hoistSpans f ∧
    (s.idxAt f r < f.srcStride → (f.src + s.idxAt f r * f.rowBytes, f.rowBytes) ∈ s.hoistSpans f) := by
  unfold State.hoistSpans
  simp only [kind, if_true]
  unfold State.idxAt
  refine ⟨List.mem_cons_of_mem _ (List.mem_flatMap.2 ⟨r, List.mem_range.2 hr, ?_⟩), fun named =>
    List.mem_cons_of_mem _ (List.mem_flatMap.2 ⟨r, List.mem_range.2 hr, ?_⟩)⟩
  · split_ifs <;> simp
  · simp [Nat.not_le.2 named]

theorem HoistF.scatter_spans (kind : f.kind = 3) {r : Nat} (hr : r < f.count) (named : s.idxAt f r < f.srcStride) :
    (f.src + r * f.rowBytes, f.rowBytes) ∈ s.hoistSpans f ∧ (f.dst + s.idxAt f r * f.rowBytes, f.rowBytes) ∈ s.hoistSpans f := by
  unfold State.hoistSpans
  unfold State.idxAt at named ⊢
  simp only [kind]
  refine ⟨List.mem_cons_of_mem _ (List.mem_flatMap.2 ⟨r, List.mem_range.2 hr, ?_⟩),
    List.mem_cons_of_mem _ (List.mem_flatMap.2 ⟨r, List.mem_range.2 hr, ?_⟩)⟩
  · simp [Nat.not_le.2 named]
  · simp [Nat.not_le.2 named]

/-! ### From the state in which the bytes move to the one in which the descriptor was taken -/

theorem State.hoistReady_memByte (s : State) (t q x : Nat) : (s.hoistReady t q).memByte x = s.memByte x := (s.puts_hoistReady t q).byte x

theorem State.hoistReady_memBytes (s : State) (t q p n : Nat) : (s.hoistReady t q).memBytes p n = s.memBytes p n := by
  simp only [State.memBytes, s.hoistReady_memByte]

theorem State.hoistReady_idxAt (s : State) (t q : Nat) (f : HoistF) (r : Nat) : (s.hoistReady t q).idxAt f r = s.idxAt f r := by
  simp only [State.idxAt, s.hoistReady_memBytes]

theorem State.hoistReady_okBytes (s : State) (t q p n : Nat) : (s.hoistReady t q).okBytes p n = s.okBytes p n := (s.moved_hoistReady t q).okBytes p n

theorem State.HoistTakes.ready (h : s.HoistTakes t q d) : (s.hoistReady t q).Calm := (s.moved_hoistReady t q).calm h.calm

/-! ### Descriptors that are taken -/

/-- What a descriptor leaves whose bytes have been put: they stand where they were put, and it executes without an error. -/
structure State.HoistDone (s s' : State) (t q : Nat) (d : List Nat) (put : Nat → Option Byte) : Prop where
  byte : ∀ x, s'.memByte x = (put x).getD (s.memByte x)
  begun : s.HoistBegun s' t { queue := q, desc := d, lastSent := s.tally }
  only : s.Only s' [.regs, .tiles, .act, .mem, .ecc, .free]

section
variable (h : s.HoistTakes t q d) (fields : hoistFields d = f) (legal : f.illegal = none) (free : s.heldAt (s.hoistSpans f) = none)
  (ok : ∀ p ∈ s.hoistSpans f, s.okBytes p.1 p.2 = p.2)
include h fields legal free

theorem State.HoistTakes.done {m : Move} {put : Nat → Option Byte} (moves : (s.hoistReady t q).hoistMove t f = (m, []))
    (wrote : Move.Wrote (s.hoistReady t q) t m put) : s.HoistDone (s.hoistRow t f.kind) t q d put := by
  subst fields
  rw [h.hoistRow legal free, moves]
  obtain ⟨byte, begun, only⟩ := wrote.begun
  exact ⟨byte, begun, only⟩

include ok

theorem State.HoistTakes.copies (kind : f.kind < 2) (here : f.remote = false)
    (apart : ∀ r ∈ f.copies, ∀ i, i < f.rowBytes → ∀ r' ∈ f.copies, ¬ (r'.2 ≤ r.1 + i ∧ r.1 + i < r'.2 + f.rowBytes)) :
    s.HoistDone (s.hoistRow t f.kind) t q d (overlay (f.copies.map (s.copyRow f))) := by
  have reached (r : Nat × Nat) (hr : r ∈ f.copies) := HoistF.copies_spans (s := s) kind here hr
  obtain ⟨tags, wrote⟩ := h.ready.copied (t := t) here (fun r hr => by
    rw [s.hoistReady_okBytes, s.hoistReady_okBytes]
    exact ⟨ok _ (reached r hr).1, ok _ (reached r hr).2⟩) apart
  have rows : (s.hoistReady t q).copyRow f = s.copyRow f := funext fun r => by simp only [State.copyRow, s.hoistReady_memBytes]
  rw [rows] at wrote
  have moves : (s.hoistReady t q).hoistMove t f = ((hoistCopy (s.hoistReady t q) t f).1, []) := by
    rw [State.hoistMove, if_pos kind, ← tags]
  exact h.done fields legal free moves wrote

theorem State.HoistTakes.gather (kind : f.kind = 2) (apart : ∀ r i j, r < f.count → s.idxAt f r < f.srcStride → i < f.rowBytes →
      j < f.count * f.rowBytes → f.src + s.idxAt f r * f.rowBytes + i ≠ f.dst + j) :
    s.HoistDone (s.hoistRow t 2) t q d (overlay ((List.range f.count).map (s.gatherRow f))) := by
  have reached {r : Nat} (hr : r < f.count) := HoistF.gather_spans (s := s) kind hr
  have wrote := h.ready.gathered (t := t) (f := f) kind (fields ▸ hoistFields_srcStride_lt d)
    (by rw [s.hoistReady_okBytes]; exact ok _ (HoistF.idx_span kind.ge))
    (fun r hr named => by
      rw [s.hoistReady_idxAt] at named ⊢
      rw [s.hoistReady_okBytes]
      exact ok _ ((reached hr).2 named))
    (fun r hr => by rw [s.hoistReady_okBytes]; exact ok _ (reached hr).1)
    (by simpa only [s.hoistReady_idxAt] using apart)
  have rows : (s.hoistReady t q).gatherRow f = s.gatherRow f := funext fun r => by
    simp only [State.gatherRow, s.hoistReady_memBytes, s.hoistReady_idxAt]
  rw [rows] at wrote
  have moves : (s.hoistReady t q).hoistMove t f = (hoistGather (s.hoistReady t q) t f, []) := by
    rw [State.hoistMove, if_neg (by omega), if_pos kind]
  exact kind ▸ h.done fields legal free moves wrote

section
variable (kind : f.kind = 3)
include kind

theorem State.HoistTakes.scatter (plain : f.redOp = 0) (apart : ∀ r i j, r < f.count → s.idxAt f r < f.srcStride → i < f.rowBytes →
      j < f.count * f.rowBytes → f.dst + s.idxAt f r * f.rowBytes + i ≠ f.src + j) :
    s.HoistDone (s.hoistRow t 3) t q d (overlay ((List.range f.count).map (s.scatterRow f))) := by
  have reached {r : Nat} (hr : r < f.count) (named : s.idxAt f r < f.srcStride) := HoistF.scatter_spans (s := s) kind hr named
  have wrote := h.ready.scattered (t := t) (f := f) kind plain (fields ▸ hoistFields_srcStride_lt d)
    (by rw [s.hoistReady_okBytes]; exact ok _ (HoistF.idx_span (by omega)))
    (fun r hr named => by
      rw [s.hoistReady_idxAt] at named
      rw [s.hoistReady_okBytes]
      exact ok _ (reached hr named).1)
    (fun r hr named => by
      rw [s.hoistReady_idxAt] at named ⊢
      rw [s.hoistReady_okBytes]
      exact ok _ (reached hr named).2)
    (by simpa only [s.hoistReady_idxAt] using apart)
  have rows : (s.hoistReady t q).scatterRow f = s.scatterRow f := funext fun r => by
    simp only [State.scatterRow, s.hoistReady_memBytes, s.hoistReady_idxAt]
  rw [rows] at wrote
  have moves : (s.hoistReady t q).hoistMove t f = (hoistScatter (s.hoistReady t q) t f, []) := by
    rw [State.hoistMove, if_neg (by omega), if_neg (by omega)]
  exact kind ▸ h.done fields legal free moves wrote

theorem State.HoistTakes.reduce (sum : f.redOp = 1) (code : f.fmt = 9) (acc : f.acc = true) (wraps : f.sat = false) (one : f.count = 1)
    (named : s.idxAt f 0 < f.srcStride) : s.HoistDone (s.hoistRow t 3) t q d
      (putAt (f.dst + s.idxAt f 0 * f.rowBytes) (s.sumRow (f.dst + s.idxAt f 0 * f.rowBytes) f.src f.rowBytes)) := by
  have reached := HoistF.scatter_spans (s := s) kind (by omega) named
  have words := HoistF.rowBytes_of_legal legal (by omega)
  rw [Nat.zero_mul, Nat.add_zero] at reached
  have wrote := h.ready.reduced (t := t) (f := f) sum code acc wraps (by omega) one (fields ▸ hoistFields_srcStride_lt d)
    (by rwa [s.hoistReady_idxAt])
    (by rw [s.hoistReady_okBytes]; exact ok _ (HoistF.idx_span (by omega)))
    (by rw [s.hoistReady_okBytes]; exact ok _ reached.1)
    (by rw [s.hoistReady_okBytes, s.hoistReady_idxAt]; exact ok _ reached.2)
  simp only [State.sumRow, s.hoistReady_idxAt, s.hoistReady_memBytes] at wrote
  have moves : (s.hoistReady t q).hoistMove t f = (hoistScatter (s.hoistReady t q) t f, []) := by
    rw [State.hoistMove, if_neg (by omega), if_neg (by omega)]
  exact kind ▸ h.done fields legal free moves wrote

end
end
end
end Sys2Proof.Machine
end

section
/-! SUPPORT. What the rows of a descriptor put at an address (R149, R150, R239). -/
namespace Sys2Proof.Machine

section
variable {s a : State} {f : HoistF} {x : Nat}

/-! ### A linear copy -/

theorem State.linear_copies (s : State) (kind : f.kind = 0) (x : Nat) :
    overlay (f.copies.map (s.copyRow f)) x = putAt f.dst (s.memBytes f.src f.rowBytes) x := by
  simp [HoistF.copies, kind, overlay, State.copyRow]

/-! ### A strided copy -/

theorem HoistF.copies_strided (kind : f.kind = 1) : f.copies = (List.range f.count).map (fun r => (f.src + r * f.srcStride, f.dst + r * f.dstStride)) := by
  simp [HoistF.copies, kind]

theorem State.strided_inside (kind : f.kind = 1) {r i : Nat} (hr : r < f.count) (hi : i < f.rowBytes)
    (apart : ∀ r' i', r' < f.count → i' < f.rowBytes → f.dst + r * f.dstStride + i = f.dst + r' * f.dstStride + i' → r = r') :
    overlay (f.copies.map (s.copyRow f)) (f.dst + r * f.dstStride + i) = some (s.memByte (f.src + r * f.srcStride + i)) := by
  have own : s.copyRow f (f.src + r * f.srcStride, f.dst + r * f.dstStride) (f.dst + r * f.dstStride + i) = some (s.memByte (f.src + r * f.srcStride + i)) :=
    putAt_memBytes s _ _ hi
  rw [HoistF.copies_strided kind, List.map_map]
  refine overlay_some (fun p hp => ?_) ⟨_, List.mem_map.2 ⟨r, List.mem_range.2 hr, rfl⟩, own⟩
  obtain ⟨r', hr', rfl⟩ := List.mem_map.1 hp
  by_cases same : r = r'
  · subst same
    exact .inr own
  · refine .inl (putAt_apart fun i' hi' => fun e => same ?_)
    rw [s.length_memBytes] at hi'
    exact apart r' i' (List.mem_range.1 hr') hi' e

theorem State.strided_outside (kind : f.kind = 1) (apart : ∀ r i, r < f.count → i < f.rowBytes → x ≠ f.dst + r * f.dstStride + i) :
    overlay (f.copies.map (s.copyRow f)) x = none := by
  rw [HoistF.copies_strided kind, List.map_map]
  refine overlay_none fun p hp => ?_
  obtain ⟨r, hr, rfl⟩ := List.mem_map.1 hp
  exact putAt_apart fun i hi => apart r i (List.mem_range.1 hr) (by rwa [s.length_memBytes] at hi)

/-! ### A gather -/

theorem State.length_gatherRow (s : State) (f : HoistF) (r : Nat) :
    (if s.idxAt f r < f.srcStride then s.memBytes (f.src + s.idxAt f r * f.rowBytes) f.rowBytes else List.replicate f.rowBytes 0#8).length = f.rowBytes := by
  split_ifs <;> simp

theorem State.gather_inside {r i : Nat} (hr : r < f.count) (hi : i < f.rowBytes) :
    overlay ((List.range f.count).map (s.gatherRow f)) (f.dst + r * f.rowBytes + i) =
      some (if s.idxAt f r < f.srcStride then s.memByte (f.src + s.idxAt f r * f.rowBytes + i) else 0#8) := by
  have own : s.gatherRow f r (f.dst + r * f.rowBytes + i) =
      some (if s.idxAt f r < f.srcStride then s.memByte (f.src + s.idxAt f r * f.rowBytes + i) else 0#8) := by
    unfold State.gatherRow
    split_ifs
    · exact putAt_memBytes s _ _ hi
    · rw [putAt_inside, List.getElem?_replicate, if_pos hi]
  refine overlay_some (fun p hp => ?_) ⟨_, List.mem_map.2 ⟨r, List.mem_range.2 hr, rfl⟩, own⟩
  obtain ⟨r', -, rfl⟩ := List.mem_map.1 hp
  by_cases same : r = r'
  · subst same
    exact .inr own
  · refine .inl (putAt_apart fun i' hi' => fun e => same ?_)
    rw [s.length_gatherRow] at hi'
    exact (row_eq hi hi' (by omega)).1

theorem State.gather_outside (apart : ¬ (f.dst ≤ x ∧ x < f.dst + f.count * f.rowBytes)) :
    overlay ((List.range f.count).map (s.gatherRow f)) x = none := by
  refine overlay_none fun p hp => ?_
  obtain ⟨r, hr, rfl⟩ := List.mem_map.1 hp
  refine putAt_apart fun i hi => ?_
  rw [s.length_gatherRow] at hi
  have := row_inside (List.mem_range.1 hr) hi
  omega

/-! ### A scatter -/

theorem State.scatter_inside {r i : Nat} (hr : r < f.count) (hi : i < f.rowBytes) (named : s.idxAt f r < f.srcStride)
    (once : ∀ r', r' < f.count → s.idxAt f r' = s.idxAt f r → r' = r) :
    overlay ((List.range f.count).map (s.scatterRow f)) (f.dst + s.idxAt f r * f.rowBytes + i) = some (s.memByte (f.src + r * f.rowBytes + i)) := by
  have own : s.scatterRow f r (f.dst + s.idxAt f r * f.rowBytes + i) = some (s.memByte (f.src + r * f.rowBytes + i)) := by
    rw [State.scatterRow, if_pos named, putAt_memBytes s _ _ hi]
  refine overlay_some (fun p hp => ?_) ⟨_, List.mem_map.2 ⟨r, List.mem_range.2 hr, rfl⟩, own⟩
  obtain ⟨r', hr', rfl⟩ := List.mem_map.1 hp
  by_cases same : r' = r
  · subst same
    exact .inr own
  · unfold State.scatterRow
    split_ifs with named'
    · refine .inl (putAt_apart fun i' hi' => fun e => same (once r' (List.mem_range.1 hr') ?_))
      rw [s.length_memBytes] at hi'
      exact (row_eq hi hi' (by omega)).1.symm
    · exact .inl rfl

theorem State.scatter_outside
    (apart : ∀ r i, r < f.count → s.idxAt f r < f.srcStride → i < f.rowBytes → x ≠ f.dst + s.idxAt f r * f.rowBytes + i) :
    overlay ((List.range f.count).map (s.scatterRow f)) x = none := by
  refine overlay_none fun p hp => ?_
  obtain ⟨r, hr, rfl⟩ := List.mem_map.1 hp
  unfold State.scatterRow
  split_ifs with named
  · exact putAt_apart fun i hi => apart r i (List.mem_range.1 hr) named (by rwa [s.length_memBytes] at hi)
  · rfl

/-! ### A reducing scatter -/

/-- Element e of the row of sums. -/
theorem State.sumRow_elem {dst src n e : Nat} (byte : ∀ x, a.memByte x = (putAt dst (s.sumRow dst src n) x).getD (s.memByte x)) (he : 4 * e < n)
    (words : n % 4 = 0) : leNat (a.memBytes (dst + 4 * e) 4) = (leNat (s.memBytes (dst + 4 * e) 4) + leNat (s.memBytes (src + 4 * e) 4)) % 2 ^ 32 := by
  have here : a.memBytes (dst + 4 * e) 4 = natLe 4 ((leNat (s.memBytes (dst + 4 * e) 4) + leNat (s.memBytes (src + 4 * e) 4)) % 2 ^ 32) := by
    refine List.ext_getElem (by rw [a.length_memBytes, length_natLe]) fun i hi hi' => ?_
    rw [a.length_memBytes] at hi
    have put : putAt dst (s.sumRow dst src n) (dst + 4 * e + i) = some ((natLe 4 _)[i]) := by
      rw [Nat.add_assoc, putAt_inside, State.sumRow, getElem?_flatMap_four (fun _ => length_natLe _ _) (by omega) hi]
      exact List.getElem?_eq_getElem hi'
    simp [State.memBytes, byte, put]
  rw [here, leNat_natLe]
  exact Nat.mod_mod _ _

end
end Sys2Proof.Machine
end

section
/-! SUPPORT. A copy to another device (R240): what it sends. -/
namespace Sys2Proof.Machine

section
variable {s a c : State} {t q : Nat} {f : HoistF} {d : List Nat}

/-- From s to a the hoist of tile t has sent a packet: only counts have changed besides, and of the tile its next tag and the note of what its units hold. -/
structure State.Sent (s a : State) (t : Nat) (p : Packet) : Prop where
  frame : s.Frame a [.regs, .tiles, .act, .outbox] spanFields
  outbox : a.outbox = s.outbox ++ [p]
  tile : a.tile t = { s.tile t with held := (a.tile t).held, hoist := { (s.tile t).hoist with nextTag := (a.tile t).hoist.nextTag } }
  tiles : s.TilesBut a t

/-- The WRITE packet that carries a row to another device. -/
def State.hoistPacket (s : State) (t : Nat) (f : HoistF) : Packet := s.tilePacket t
  { ty := 0, vc := f.vc, dstDev := f.dstDevice, dstTile := f.dst / 0x800000 % 256, len := f.rowBytes, addr := f.dst, tag := (s.tile t).hoist.nextTag,
    payload := s.memBytes f.src f.rowBytes, poison := [] }

/-- A row of one packet is sent in one packet, and its acknowledgement awaited. -/
theorem State.Calm.sendChunks (h : s.Calm) (some : 0 < f.rowBytes) (one : f.rowBytes ≤ 8192) (ok : s.okBytes f.src f.rowBytes = f.rowBytes) (fuel : Nat) :
    ∃ a, Move.sendChunks t f (fuel + 1) ({ s := s }, []) f.src f.dst f.rowBytes = ({ s := a }, [(s.tile t).hoist.nextTag]) ∧
      s.Sent a t (s.hoistPacket t f) := by
  unfold Move.sendChunks
  rw [if_neg (by simp; omega)]
  extract_lets want k read bad tag tagged p out m m' m''
  have hwant : want = f.rowBytes := Nat.min_eq_left one
  have hk : k = f.rowBytes := by simp only [k, hwant, ok]
  have hbad : bad = [] := by simp [bad, h.memBad]
  have quiet : s.Frame read countParts spanFields := h.hoistRead t _ _
  have tile (u : Nat) : read.tile u = s.tile u := quiet.tile u
  have htag : tag = (s.tile t).hoist.nextTag := by simp only [tag, tile]
  have hp : p = s.hoistPacket t f := by
    have gen : tagged.rd .tileGen t = s.rd .tileGen t := quiet.rd .tileGen _ _ (by decide)
    have dev : tagged.rd .fabDevIdId = s.rd .fabDevIdId := quiet.rd .fabDevIdId _ _ (by decide)
    simp only [p, State.hoistPacket, State.tilePacket, gen, dev, hk, htag, hbad]
  have counted : (tagged.send p).Frame out countParts spanFields := by
    simp only [out, if_neg (show k ≠ 0 by omega)]
    exact (((State.Frame.refl _ _ _).cnt t 0 _).progress t _).cnt t 0 _
  have moved : m'' = { s := out } := by simp only [m'', m', m, hbad, hk, hwant, if_true]
  have last : Move.sendChunks t f fuel (m'', [tag]) (f.src + k) (f.dst + k) 0 = (m'', [tag]) := by
    cases fuel with
    | zero => rfl
    | succ fuel => rw [Move.sendChunks, if_pos (.inl rfl)]
  have sent : (tagged.send p).tile = tagged.tile := rfl
  refine ⟨out, ?_, ?_, ?_, ?_, fun u hu => ?_⟩
  · rw [if_neg (by omega), if_pos (by omega), List.nil_append, show f.rowBytes - k = 0 by omega, last, moved, htag]
  · have tagging : s.Frame tagged [.regs, .tiles, .act, .outbox] spanFields := quiet.mono.onTile t _
    exact (tagging.after (.of_only (tagged.only_send p))).after counted
  · have before : (tagged.send p).outbox = s.outbox ++ [p] := congrArg (· ++ [p]) (quiet.only .outbox (by decide))
    exact (counted.only .outbox (by decide)).trans (hp ▸ before)
  · rw [counted.tile t, sent, State.tile_onTile_same, tile]
  · rw [counted.tile u, sent, State.tile_onTile_ne _ hu, tile]

/-- A linear copy to another device is one packet. -/
theorem State.Calm.sends (h : s.Calm) (kind : f.kind = 0) (there : f.remote = true) (some : 0 < f.rowBytes) (one : f.rowBytes ≤ 8192)
    (ok : s.okBytes f.src f.rowBytes = f.rowBytes) :
    ∃ a, s.hoistMove t f = ({ s := a }, [(s.tile t).hoist.nextTag]) ∧ s.Sent a t (s.hoistPacket t f) := by
  obtain ⟨a, sent, rest⟩ := h.sendChunks (t := t) some one ok (f.rowBytes / 8192)
  refine ⟨a, ?_, rest⟩
  rw [State.hoistMove, if_pos (by omega)]
  simp only [hoistCopy, kind, there, if_true, List.range_one, List.map_singleton, List.foldl_cons, List.foldl_nil]
  exact sent

/-- What the state in which the bytes move sends is what the state in which the descriptor was taken would send. -/
theorem State.hoistReady_packet (s : State) (t q : Nat) (f : HoistF) : (s.hoistReady t q).hoistPacket t f = s.hoistPacket t f := by
  have moved := s.moved_hoistReady t q
  have gen : (s.hoistReady t q).rd .tileGen t = s.rd .tileGen t := moved.frame.rd .tileGen _ _ (by decide)
  have dev : (s.hoistReady t q).rd .fabDevIdId = s.rd .fabDevIdId := moved.frame.rd .fabDevIdId _ _ (by decide)
  have tag : ((s.hoistReady t q).tile t).hoist = (s.tile t).hoist := moved.of_tile Tile.hoist (fun _ _ => rfl) t
  simp only [State.hoistPacket, State.tilePacket, gen, dev, tag, s.hoistReady_memBytes]

/-- A descriptor of one packet executes and waits for its acknowledgement. -/
theorem State.HoistTakes.sends (h : s.HoistTakes t q d) (fields : hoistFields d = f) (legal : f.illegal = none)
    (free : s.heldAt (s.hoistSpans f) = none) (ok : ∀ p ∈ s.hoistSpans f, s.okBytes p.1 p.2 = p.2)
    (kind : f.kind = 0) (there : f.remote = true) (some : 0 < f.rowBytes) (one : f.rowBytes ≤ 8192) :
    (s.hoistRow t 0).outbox = s.outbox ++ [s.hoistPacket t f] ∧
      s.HoistBegun (s.hoistRow t 0) t { queue := q, desc := d, lastSent := s.tally, acks := [(s.tile t).hoist.nextTag] } ∧
      s.Only (s.hoistRow t 0) [.regs, .tiles, .act, .outbox] := by
  obtain ⟨a, moves, sent⟩ := h.ready.sends (t := t) kind there some one
    (by rw [s.hoistReady_okBytes]; exact ok (f.src, f.rowBytes) (by simp [State.hoistSpans, kind]))
  have ready := s.moved_hoistReady t q
  have frame : s.Frame a [.regs, .tiles, .act, .outbox] spanFields := (s.frame_hoistReady t q).mono.after sent.frame
  have tag : ((s.hoistReady t q).tile t).hoist = (s.tile t).hoist := ready.of_tile Tile.hoist (fun _ _ => rfl) t
  have tally : a.tally = s.tally := frame.only .tally (by decide)
  have outbox : a.outbox = s.outbox ++ [s.hoistPacket t f] := by
    rw [sent.outbox, s.hoistReady_packet, ready.frame.only .outbox (by decide)]
  have tile : a.tile t = { s.tile t with held := (a.tile t).held, hoist := { (s.tile t).hoist with nextTag := (a.tile t).hoist.nextTag } } := by
    rw [sent.tile, ready.tile]
  have row := h.hoistRow (fields ▸ legal) (fields ▸ free)
  subst fields
  simp only [moves, kind, tag, Move.run, tally] at row
  rw [row]
  exact ⟨outbox, frame.hoistBegun (fun k => frame.only.mark (by decide) k) (ready.tiles.trans sent.tiles) tile _, frame.only.hoistBegin t _⟩

end
end Sys2Proof.Machine
end

section
/-! PROOF. Descriptors of the hoist that move bytes (R149, R237 to R240). -/
namespace Sys2Proof.Machine

section
variable {s s' : State} {t q : Nat} {d : List Nat} {put : Nat → Option Byte} {x : Nat}

theorem State.HoistDone.moved (h : s.HoistDone s' t q d put) {v : Byte} (here : put x = some v) : s'.memByte x = v := by rw [h.byte, here, Option.getD_some]

theorem State.HoistDone.kept (h : s.HoistDone s' t q d put) (elsewhere : put x = none) : s'.memByte x = s.memByte x := by
  rw [h.byte, elsewhere, Option.getD_none]

end

/-- Settles O32: each row is copied, filled or added to as the hoist reaches it, which puts its bytes over those of the rows before it. -/
theorem hoistMoves : Obligations.HoistMoves := by
  intro t s q d h f legal free ok
  refine ⟨fun kind here apart => ?_, fun kind there some one => ?_, fun kind here apart => ?_, fun kind apart => ?_, fun kind plain apart => ?_,
    fun kind sum code acc wraps one named => ?_⟩
  · have rows : f.copies = [(f.src, f.dst)] := by simp [HoistF.copies, kind]
    have done := h.copies (f := f) rfl legal free ok (by omega) here (by simp only [rows, List.mem_singleton]; rintro _ rfl i hi _ rfl; dsimp only; omega)
    rw [kind] at done
    refine ⟨_, rfl, fun i hi => done.moved ?_, fun a ha => done.kept ?_, done.begun, done.only⟩
    · rw [s.linear_copies kind, putAt_memBytes s _ _ hi]
    · rw [s.linear_copies kind]
      exact putAt_outside (by rwa [s.length_memBytes])
  · obtain ⟨sent, begun, only⟩ := h.sends (f := f) rfl legal free ok kind there some one
    exact ⟨_, rfl, ⟨_, sent, rfl, rfl, rfl, rfl, rfl, rfl, rfl, rfl, rfl, rfl⟩, begun, only⟩
  · have done := h.copies (f := f) rfl legal free ok (by omega) here (by
      simp only [HoistF.copies_strided kind, List.mem_map, List.mem_range]
      rintro _ ⟨r, hr, rfl⟩ i hi _ ⟨r', hr', rfl⟩ inside
      dsimp only at inside
      exact (apart r i r' (f.src + r * f.srcStride + i - (f.dst + r' * f.dstStride)) hr hi hr' (by omega)).1 (by omega))
    rw [kind] at done
    exact ⟨_, rfl, fun r i hr hi => done.moved (s.strided_inside kind hr hi fun r' i' hr' hi' => (apart r i r' i' hr hi hr' hi').2),
      fun a ha => done.kept (s.strided_outside kind ha), done.begun, done.only⟩
  · have done := h.gather (f := f) rfl legal free ok kind apart
    exact ⟨_, rfl, fun r i hr hi => done.moved (s.gather_inside hr hi), fun a ha => done.kept (s.gather_outside ha), done.begun, done.only⟩
  · have done := h.scatter (f := f) rfl legal free ok kind plain apart
    exact ⟨_, rfl, fun r i hr hi named once => done.moved (s.scatter_inside hr hi named once), fun a ha => done.kept (s.scatter_outside ha),
      done.begun, done.only⟩
  · have done := h.reduce (f := f) rfl legal free ok kind sum code acc wraps one named
    have words := HoistF.rowBytes_of_legal legal (by omega)
    refine ⟨_, rfl, fun e he => State.sumRow_elem done.byte he (by omega), fun a ha => done.kept (putAt_outside ?_)⟩
    rwa [s.length_sumRow _ _ (by omega)]

end Sys2Proof.Machine
end

section
/-! SUPPORT. Integer arithmetic of the tile core (R164): the model's numbers are the values of 64-bit words. -/
namespace Sys2Proof.Machine

/-! ### Two's complement -/

theorem toSigned_eq_toInt {w : Nat} (hw : 0 < w) (n : Nat) : toSigned w n = (BitVec.ofNat w n).toInt := by
  obtain ⟨v, rfl⟩ : ∃ v, w = v + 1 := ⟨w - 1, by omega⟩
  simp only [toSigned, trunc, BitVec.toInt_eq_toNat_cond, BitVec.toNat_ofNat, Nat.add_sub_cancel, Nat.pow_succ]
  push_cast
  split_ifs <;> omega

theorem ofSigned_eq_toNat (w : Nat) (i : Int) : ofSigned w i = (BitVec.ofInt w i).toNat := by
  rw [BitVec.toNat_ofInt]
  simp [ofSigned]

theorem ofSigned_toInt {w : Nat} (v : BitVec w) : ofSigned w v.toInt = v.toNat := by
  rw [ofSigned_eq_toNat, BitVec.ofInt_toInt]

/-! ### The operations of the table -/

/-- The integer operations of R164, each with its command and its meaning on 64-bit words. -/
def aluRows : List (CoreOp × (TileId → Instr) × (BitVec 64 → BitVec 64 → BitVec 64)) :=
  [(.add, .add, (· + ·)), (.sub, .sub, (· - ·)), (.and, .and, (· &&& ·)), (.or, .or, (· ||| ·)), (.xor, .xor, (· ^^^ ·)),
    (.sll, .sll, fun a b => a <<< (b.toNat % 64)), (.srl, .srl, fun a b => a >>> (b.toNat % 64)),
    (.sra, .sra, fun a b => a.sshiftRight (b.toNat % 64)),
    (.slt, .slt, fun a b => if a.toInt < b.toInt then 1 else 0), (.sltu, .sltu, fun a b => if a.toNat < b.toNat then 1 else 0),
    (.mul, .mul, (· * ·)), (.mulh, .mulh, fun a b => ((a.signExtend 128 * b.signExtend 128) >>> 64).setWidth 64),
    (.mulhu, .mulhu, fun a b => ((a.setWidth 128 * b.setWidth 128) >>> 64).setWidth 64),
    (.min, .min, fun a b => if a.toInt ≤ b.toInt then a else b), (.max, .max, fun a b => if a.toInt ≤ b.toInt then b else a),
    (.minu, .minu, fun a b => if a.toNat ≤ b.toNat then a else b), (.maxu, .maxu, fun a b => if a.toNat ≤ b.toNat then b else a)]

section
variable (a b : BitVec 64)

theorem aluResult_sub : aluResult .sub a.toNat b.toNat = (a - b).toNat := by
  simp only [aluResult, BitVec.toNat_sub]
  omega

theorem aluResult_sra : aluResult .sra a.toNat b.toNat = (a.sshiftRight (b.toNat % 64)).toNat := by
  have shifted : a.toInt / 2 ^ (b.toNat % 64) = (a.sshiftRight (b.toNat % 64)).toInt := by
    rw [BitVec.toInt_sshiftRight, Int.shiftRight_eq_div_pow]
    norm_cast
  simp only [aluResult, toSigned_eq_toInt (show 0 < 64 by decide), BitVec.ofNat_toNat, BitVec.setWidth_eq, shifted, ofSigned_toInt]

theorem aluResult_mulh : aluResult .mulh a.toNat b.toNat = (((a.signExtend 128 * b.signExtend 128) >>> 64).setWidth 64).toNat := by
  have product : a.signExtend 128 * b.signExtend 128 = BitVec.ofInt 128 (a.toInt * b.toInt) := by
    rw [BitVec.signExtend, BitVec.signExtend, BitVec.ofInt_mul]
  simp only [aluResult, toSigned_eq_toInt (show 0 < 64 by decide), BitVec.ofNat_toNat, BitVec.setWidth_eq, ofSigned, product,
    BitVec.toNat_setWidth, BitVec.toNat_ushiftRight, BitVec.toNat_ofInt, Nat.shiftRight_eq_div_pow]
  generalize a.toInt * b.toInt = p
  omega

theorem aluResult_mulhu : aluResult .mulhu a.toNat b.toNat = (((a.setWidth 128 * b.setWidth 128) >>> 64).setWidth 64).toNat := by
  have small : a.toNat * b.toNat < 2 ^ 64 * 2 ^ 64 := Nat.mul_lt_mul'' a.isLt b.isLt
  simp only [aluResult, BitVec.toNat_setWidth, BitVec.toNat_ushiftRight, BitVec.toNat_mul, Nat.shiftRight_eq_div_pow,
    Nat.mod_eq_of_lt (show a.toNat < 2 ^ 128 by omega), Nat.mod_eq_of_lt (show b.toNat < 2 ^ 128 by omega)]
  generalize a.toNat * b.toNat = p at *
  omega

end

/-- An operation of the table gives its word. -/
theorem aluResult_rows {op : CoreOp} {c : TileId → Instr} {f : BitVec 64 → BitVec 64 → BitVec 64} (h : (op, c, f) ∈ aluRows) (a b : BitVec 64) :
    aluResult op a.toNat b.toNat = (f a b).toNat := by
  have signed (v : BitVec 64) : toSigned 64 v.toNat = v.toInt := by
    rw [toSigned_eq_toInt (by decide), BitVec.ofNat_toNat, BitVec.setWidth_eq]
  simp only [aluRows, List.mem_cons, Prod.mk.injEq, List.not_mem_nil, or_false] at h
  rcases h with ⟨rfl, -, rfl⟩ | ⟨rfl, -, rfl⟩ | ⟨rfl, -, rfl⟩ | ⟨rfl, -, rfl⟩ | ⟨rfl, -, rfl⟩ | ⟨rfl, -, rfl⟩ | ⟨rfl, -, rfl⟩ | ⟨rfl, -, rfl⟩ | ⟨rfl, -, rfl⟩ |
    ⟨rfl, -, rfl⟩ | ⟨rfl, -, rfl⟩ | ⟨rfl, -, rfl⟩ | ⟨rfl, -, rfl⟩ | ⟨rfl, -, rfl⟩ | ⟨rfl, -, rfl⟩ | ⟨rfl, -, rfl⟩ | ⟨rfl, -, rfl⟩
  case _ => exact (BitVec.toNat_add a b).symm
  case _ => exact aluResult_sub a b
  case _ => exact (BitVec.toNat_and a b).symm
  case _ => exact (BitVec.toNat_or a b).symm
  case _ => exact (BitVec.toNat_xor a b).symm
  case _ => exact (BitVec.toNat_shiftLeft ..).symm
  case _ => exact (BitVec.toNat_ushiftRight ..).symm
  case _ => exact aluResult_sra a b
  case _ => simp [aluResult, signed, b2n, apply_ite BitVec.toNat]
  case _ => simp [aluResult, b2n, apply_ite BitVec.toNat]
  case _ => exact (BitVec.toNat_mul a b).symm
  case _ => exact aluResult_mulh a b
  case _ => exact aluResult_mulhu a b
  case _ => simp [aluResult, signed, apply_ite BitVec.toNat]
  case _ => simp [aluResult, signed, apply_ite BitVec.toNat]
  case _ => simp [aluResult, apply_ite BitVec.toNat, Nat.min_def]
  case _ => simp [aluResult, apply_ite BitVec.toNat, Nat.max_def]

end Sys2Proof.Machine
end

section
/-! SUPPORT. How a tile-core instruction that has acted retires (R161, R163), and how one whose word is illegal faults (R169). -/
namespace Sys2Proof.Machine

/-! ### Instructions that act and retire -/

/-- From z to m an instruction of tile t's core has acted without writing the core: of the tile only notes of held accesses have changed, and beside CB's count
of its master's accesses only the listed fields, and the listed parts. -/
structure State.Acted (z m : State) (t : Nat) (l : List (Field × Nat × Nat)) (parts : List Part) : Prop where
  tile : m.tile t = { z.tile t with held := (m.tile t).held }
  tiles : z.TilesBut m t
  fields : z.FieldsBut m ((.spdAccMaster, t, 3) :: l)
  only : z.Only m ([.regs, .tiles, .act] ++ parts)

theorem State.acted_fetched (z : State) (t : TileId) : z.Acted (z.fetched t) t [] [] :=
  have looked := z.looked_fetched t
  ⟨looked.tile, looked.tiles, looked.fields, looked.only⟩

theorem State.Fetches.pc {s : State} {t : Nat} {op : CoreOp} {w : CoreWord} (h : s.Fetches t op w) :
    ((s.tile t).core.pc + 4) % 2 ^ 32 = (s.tile t).core.pc + 4 := by
  have inCb := h.inCb
  rw [show bankSize .cb = 0x80000 from rfl] at inCb
  omega

theorem State.xr_lt (s : State) (t i : Nat) : s.xr t i < 2 ^ 64 := by
  unfold State.xr Core.get
  split
  · decide
  · exact Nat.mod_lt _ (by decide)

section
variable {z m a : State} {t : TileId} {l : List (Field × Nat × Nat)} {parts : List Part}

theorem State.Acted.core (h : z.Acted m t l parts) : (m.tile t).core = (z.tile t).core := by rw [h.tile]

theorem State.Acted.xr (h : z.Acted m t l parts) (i : Nat) : m.xr t i = z.xr t i := by simp only [State.xr, h.core]

/-- What an instruction does next, when it touches no tile. -/
theorem State.Acted.step {ps : List Part} (h : z.Acted m t l parts) (only : m.Only a ps) (fields : m.FieldsBut a ((.spdAccMaster, t.val, 3) :: l))
    (hp : ps ⊆ [.regs, .tiles, .act] ++ parts) (ht : Part.tiles ∉ ps := by decide) : z.Acted a t l parts :=
  ⟨by rw [only.tile ht, h.tile], h.tiles.trans (only.tilesBut ht t), h.fields.trans fields, h.only.trans (only.mono fun _ hx => hp hx)⟩

theorem State.Acted.mono {l' : List (Field × Nat × Nat)} {parts' : List Part} (h : z.Acted m t l parts) (hl : l ⊆ l') (hp : parts ⊆ parts') :
    z.Acted m t l' parts' :=
  ⟨h.tile, h.tiles, h.fields.mono fun _ hx => List.cons_subset_cons _ hl hx,
    h.only.mono fun _ hx => List.append_subset.2 ⟨List.subset_append_left _ _, List.Subset.trans hp (List.subset_append_right _ _)⟩ hx⟩

theorem State.xr_xw_retireTo (m : State) (t rd v pc : Nat) :
    ((m.xw t rd v).retireTo t pc).xr t rd = if rd = 0 then 0 else v % 2 ^ 64 := (m.xr_retireTo t rd v pc rd).trans (Core.get_set_same _ _ _)

/-- It retires, and has written x[rd]. -/
theorem State.Acted.retireTo (h : z.Acted m t l parts) (running : (z.tile t).core.wait = .running) (hi : Field.tileInstr ∉ l.map Prod.fst) (rd v pc : Nat) :
    z.Retired ((m.xw t rd v).retireTo t pc) t rd (pc % 2 ^ 32) l ∧ z.Only ((m.xw t rd v).retireTo t pc) ([.regs, .tiles, .act] ++ parts) :=
  ⟨State.retired_of running h.tiles h.tile (h.fields.rd (by simpa using hi) _ _) (h.fields.mono fun _ hx => List.mem_cons_of_mem _ hx),
    h.only.trans ((State.only_retire m t rd v pc).mono fun _ hx => List.mem_append_left _ hx)⟩

theorem State.only_retireTo (m : State) (t pc : Nat) : m.Only (m.retireTo t pc) [.regs, .tiles, .act] :=
  ((m.only_onTile t _).mono (by decide)).trans (((State.only_cnt _ _ _ _ _).mono (by decide)).trans ((State.only_activity _ _ _ _).mono (by decide)))

/-- It retires, and has written no register. -/
theorem State.Acted.retirePlain (h : z.Acted m t l parts) (running : (z.tile t).core.wait = .running) (hi : Field.tileInstr ∉ l.map Prod.fst) (pc : Nat) :
    z.Retired (m.retireTo t pc) t 0 (pc % 2 ^ 32) l ∧ z.Only (m.retireTo t pc) ([.regs, .tiles, .act] ++ parts) := by
  have tile : (m.retireTo t pc).tile t = { z.tile t with
      held := (m.tile t).held, core := { (z.tile t).core with pc := pc % 2 ^ 32, wait := .running } } := by
    simp only [State.retireTo, State.onCore, State.tile_activity, State.tile_cnt, State.tile_onTile_same]
    rw [h.tile]
  have counted : m.FieldsBut (m.retireTo t pc) [(.tileInstr, t.val, 0)] :=
    (State.FieldsBut.cnt (.congr (.refl m _) rfl rfl) (by simp [tile_mod]) 1).activity t 7 1
  refine ⟨⟨⟨(z.tile t).core.x, ?_⟩, fun i _ => ?_, ?_, ?_, ?_, ?_⟩, ?_⟩
  · rw [tile, ← running]
  · simp only [State.xr, tile]
    rfl
  · rw [tile]
  · exact h.tiles.trans fun u hu => by
      simp only [State.retireTo, State.onCore, State.tile_activity, State.tile_cnt, State.tile_onTile_ne _ hu]
  · rw [← h.fields.rd (by simpa using hi) t 0]
    exact (State.rd_activity _ _ _ _ _ _ _).trans (State.rd_cnt_same _ _ _ _ _)
  · exact .trans (h.fields.mono fun _ hx => List.mem_cons_of_mem _ hx) (counted.mono (by simp))
  · exact h.only.trans ((m.only_retireTo t pc).mono fun _ hx => List.mem_append_left _ hx)

variable {op : CoreOp} {w : CoreWord}

/-- A fetched instruction that has acted retires and goes on. -/
theorem State.Acted.retires (h : z.Acted m t l parts) (f : z.Fetches t op w) (hi : Field.tileInstr ∉ l.map Prod.fst) :
    z.Retired (m.retire t) t 0 ((z.tile t).core.pc + 4) l ∧ z.Only (m.retire t) ([.regs, .tiles, .act] ++ parts) := by
  have retired := h.retirePlain f.running hi ((z.tile t).core.pc + 4)
  rw [f.pc] at retired
  rwa [State.retire, h.core]

/-- A fetched instruction that has acted writes x[rd], retires and goes on. -/
theorem State.Acted.writes (h : z.Acted m t l parts) (f : z.Fetches t op w) (hi : Field.tileInstr ∉ l.map Prod.fst) (rd v : Nat) :
    ((m.xw t rd v).retire t).xr t rd = (if rd = 0 then 0 else v % 2 ^ 64) ∧
      z.Retired ((m.xw t rd v).retire t) t rd ((z.tile t).core.pc + 4) l ∧ z.Only ((m.xw t rd v).retire t) ([.regs, .tiles, .act] ++ parts) := by
  have pc : ((m.xw t rd v).tile t).core.pc = (z.tile t).core.pc := by
    simp only [State.xw, State.onCore, State.tile_onTile_same, Core.set]
    split <;> rw [h.core]
  have retired := h.retireTo f.running hi rd v ((z.tile t).core.pc + 4)
  rw [f.pc] at retired
  rw [State.retire, pc]
  exact ⟨State.xr_xw_retireTo _ _ _ _ _, retired⟩

end

/-! ### Faults -/

section
variable (s : State) (t : Nat) (cause : Nat)

/-- The first fault of a core is recorded (R169). -/
def State.faultNoted (s : State) (t cause : Nat) : State :=
  let pc := (s.tile t).core.pc
  let a := s.onCore t (fun c => { c with mode := .faulted, wait := .running })
  if a.on .tileFaultInfoValid t then a else ((a.wr .tileFaultInfoCause t 0 cause).wr .tileFaultPc t 0 pc).wr .tileFaultInfoValid t 0 1

theorem State.coreFault_eq : s.coreFault t cause =
    (((s.faultNoted t cause).cnt .tileFaults t 0 1).reportTile 2 t (0x300 + cause) (s.tile t).core.pc).irq t := rfl

/-- Counting and reporting a fault touches no tile, nor the record. -/
theorem State.frame_coreFault : (s.faultNoted t cause).Frame (s.coreFault t cause) [.regs, .ras, .ic, .adit] (.tileFaults :: .rasResetSuppress :: eventNames) :=
  (((State.Frame.refl _ _ _).cnt t 0 1).after (State.frame_reportTile _ _ _ _ _)).after (State.frame_irq _ _)

theorem State.coreFault_core : ((s.coreFault t cause).tile t).core = { (s.tile t).core with mode := .faulted, wait := .running } := by
  rw [(s.frame_coreFault t cause).tile]
  unfold State.faultNoted
  dsimp only
  split <;> simp [State.onCore]

theorem State.coreFault_xr (i : Nat) : (s.coreFault t cause).xr t i = s.xr t i := by
  rw [State.xr, s.coreFault_core]
  rfl

theorem State.coreFault_cause (fresh : s.rd .tileFaultInfoValid t = 0) (hc : cause < 2 ^ Field.tileFaultInfoCause.info.width) :
    (s.coreFault t cause).rd .tileFaultInfoCause t = cause := by
  rw [(s.frame_coreFault t cause).rd _ _ _ (by decide)]
  have unset : (s.onCore t (fun c => { c with mode := .faulted, wait := .running })).on .tileFaultInfoValid t = false := by
    simpa [State.on, State.onCore] using fresh
  unfold State.faultNoted
  dsimp only
  rw [unset]
  simp only [Bool.false_eq_true, if_false]
  rw [State.rd_wr_ne _ (by decide), State.rd_wr_ne _ (by decide), State.rd_wr_same, Nat.mod_eq_of_lt hc]

end

/-- A word that names no operation faults with cause 1, whatever the command. -/
theorem State.coreRow_illegal {s : State} {t : Nat} (ready : (s.tile t).coreReady = true) (aligned : (s.tile t).core.pc % 4 = 0)
    (inCb : (s.tile t).core.pc + 4 ≤ bankSize .cb) (clear : s.clearing t .cb = false) (good : s.mark (spdAddr t .cb ((s.tile t).core.pc / 8 * 8)) = 0)
    (illegal : coreDecode (coreFields (leNat (s.bytes (spdAddr t .cb (s.tile t).core.pc) 4))) = none) (op : CoreOp) (run : State → CoreWord → State) :
    s.coreRow t op run = (s.bankCount t .cb true 1).coreFault t 1 := by
  have read := State.spdRead_good s (t := t) (b := .cb) (off := (s.tile t).core.pc) (n := 4) 0 (by decide) (by decide) (by omega) good
  unfold State.coreRow
  simp only [ready, Bool.not_true, Bool.false_eq_true, if_false, inCb.not_gt, clear, read, illegal]

end Sys2Proof.Machine
end

section
/-! PROOF. Integer operations of the tile core (R161, R164). -/
namespace Sys2Proof.Machine

/-! ### Words -/

theorem bitsOf_lt (n hi lo : Nat) : bitsOf n hi lo < 2 ^ (hi + 1 - lo) := Nat.mod_lt _ (Nat.two_pow_pos _)

theorem State.Fetches.imm_lt {s : State} {t : Nat} {op : CoreOp} {w : CoreWord} (h : s.Fetches t op w) : w.imm < 2 ^ 13 :=
  h.word ▸ bitsOf_lt _ 12 0

/-- The second operand of an integer operation (R164). -/
def aluOperand (op : CoreOp) (w : CoreWord) (x : Nat) : BitVec 64 :=
  if w.cls = 0 then BitVec.ofNat 64 x
  else if op = .and ∨ op = .or ∨ op = .xor then BitVec.ofNat 64 w.imm
  else if op = .sll ∨ op = .srl ∨ op = .sra then BitVec.ofNat 64 (w.imm % 64)
  else (BitVec.ofNat 13 w.imm).signExtend 64

theorem aluB_eq (s : State) (t : Nat) (op : CoreOp) {w : CoreWord} (small : w.imm < 2 ^ 13) : aluB s t op w = (aluOperand op w (s.xr t w.rs2)).toNat := by
  have immediate : ofSigned 64 w.simm = ((BitVec.ofNat 13 w.imm).signExtend 64).toNat := by
    rw [CoreWord.simm, toSigned_eq_toInt (by decide), ofSigned_eq_toNat, BitVec.signExtend]
  have register := s.xr_lt t w.rs2
  unfold aluB aluOperand
  split
  · rw [BitVec.toNat_ofNat, Nat.mod_eq_of_lt register]
  · cases op <;> simp only [reduceCtorEq, or_self, or_true, true_or, if_true, if_false, immediate, BitVec.toNat_ofNat, bitsOf, Nat.shiftRight_zero] <;> omega

/-- The commands of the table are integer instructions. -/
theorem exec_aluRows {op : CoreOp} {c : TileId → Instr} {f : BitVec 64 → BitVec 64 → BitVec 64} (h : (op, c, f) ∈ aluRows) (t : TileId) (s : State) :
    exec (c t) s = .next (s.alu t op) := by
  simp only [aluRows, List.mem_cons, Prod.mk.injEq, List.not_mem_nil, or_false] at h
  rcases h with ⟨rfl, rfl, -⟩ | ⟨rfl, rfl, -⟩ | ⟨rfl, rfl, -⟩ | ⟨rfl, rfl, -⟩ | ⟨rfl, rfl, -⟩ | ⟨rfl, rfl, -⟩ | ⟨rfl, rfl, -⟩ | ⟨rfl, rfl, -⟩ | ⟨rfl, rfl, -⟩ |
    ⟨rfl, rfl, -⟩ | ⟨rfl, rfl, -⟩ | ⟨rfl, rfl, -⟩ | ⟨rfl, rfl, -⟩ | ⟨rfl, rfl, -⟩ | ⟨rfl, rfl, -⟩ | ⟨rfl, rfl, -⟩ | ⟨rfl, rfl, -⟩ <;> rfl

section
variable {s : State} {t : TileId} {w : CoreWord} {op : CoreOp}

theorem State.Fetches.alu (h : s.Fetches t op w) :
    s.alu t op = ((s.fetched t).xw t w.rd (aluResult op (s.xr t w.rs1) (aluOperand op w (s.xr t w.rs2)).toNat)).retire t := by
  rw [State.alu, h.coreRow, aluB_eq _ _ _ h.imm_lt, State.fetched_xr, State.fetched_xr]

theorem State.Fetches.lui (h : s.Fetches t .lui w) :
    s.lui t = ((s.fetched t).xw t w.rd ((BitVec.ofNat 5 w.rs1 ++ BitVec.ofNat 13 w.imm).signExtend 64 * 8192#64).toNat).retire t := by
  have fields : BitVec.ofNat 5 w.rs1 ++ BitVec.ofNat 13 w.imm = BitVec.ofNat 18 (w.rs1 * 2 ^ 13 + w.imm) := by
    have small : w.rs1 < 2 ^ 5 := h.word ▸ bitsOf_lt _ 22 18
    apply BitVec.eq_of_toNat_eq
    rw [BitVec.toNat_append, BitVec.toNat_ofNat, BitVec.toNat_ofNat, BitVec.toNat_ofNat, Nat.mod_eq_of_lt small, Nat.mod_eq_of_lt h.imm_lt,
      ← Nat.shiftLeft_add_eq_or_of_lt h.imm_lt, Nat.shiftLeft_eq]
    have := h.imm_lt
    omega
  have scaled : ofSigned 64 (toSigned 18 (w.rs1 * 2 ^ 13 + w.imm) * 2 ^ 13) = ((BitVec.ofNat 18 (w.rs1 * 2 ^ 13 + w.imm)).signExtend 64 * 8192#64).toNat := by
    rw [toSigned_eq_toInt (by decide), ofSigned_eq_toNat, BitVec.ofInt_mul, BitVec.signExtend]
    rfl
  rw [State.lui, h.coreRow, scaled, fields]

end

/-- The codes that the table does not list for their class name no operation. -/
theorem coreDecode_unlisted {w : CoreWord} (h : (w.cls = 0 ∧ w.imm % 64 > 0x10) ∨ (w.cls = 1 ∧ (w.rs2 = 0x01 ∨ (w.rs2 > 0x10 ∧ w.rs2 ≠ 0x1F)))) :
    coreDecode w = none := by
  have unlisted {n : Nat} (hn : n > 0x10) : aluOf n = none := by
    unfold aluOf
    split
    case h_18 => rfl
    all_goals omega
  rcases h with ⟨cls, code⟩ | ⟨cls, code | ⟨code, notLui⟩⟩
  · simp only [coreDecode, cls]
    exact unlisted code
  · simp [coreDecode, cls, code]
  · simp only [coreDecode, cls, if_neg notLui, if_neg (show ¬ w.rs2 = 0x01 by omega)]
    exact unlisted code

/-- Settles O11: each operation's result is that of the 64-bit words, and a word that names no operation faults. -/
theorem integerOperations : Obligations.IntegerOperations := by
  refine ⟨fun op c f row t w s h => ⟨_, exec_aluRows row t s, ?_⟩, fun t w s h => ⟨_, rfl, ?_⟩,
    fun t s ready aligned inCb clear good unlisted => ⟨_, rfl, ?_⟩⟩
  · have result := aluResult_rows row (BitVec.ofNat 64 (s.xr t w.rs1)) (aluOperand op w (s.xr t w.rs2))
    rw [BitVec.toNat_ofNat, Nat.mod_eq_of_lt (s.xr_lt t w.rs1)] at result
    rw [h.alu, result]
    obtain ⟨value, rest⟩ := (s.acted_fetched t).writes h (by simp) w.rd (f (BitVec.ofNat 64 (s.xr t w.rs1)) (aluOperand op w (s.xr t w.rs2))).toNat
    rw [Nat.mod_eq_of_lt (BitVec.isLt _)] at value
    exact ⟨value, rest⟩
  · rw [h.lui]
    obtain ⟨value, rest⟩ := (s.acted_fetched t).writes h (by simp) w.rd ((BitVec.ofNat 5 w.rs1 ++ BitVec.ofNat 13 w.imm).signExtend 64 * 8192#64).toNat
    rw [Nat.mod_eq_of_lt (BitVec.isLt _)] at value
    exact ⟨value, rest⟩
  · rw [State.alu, State.coreRow_illegal ready aligned inCb clear good (coreDecode_unlisted unlisted)]
    have counted := s.only_bankCount t .cb true 1
    have tile := counted.tile (by decide) t
    have valid : (s.bankCount t .cb true 1).rd .tileFaultInfoValid t = s.rd .tileFaultInfoValid t := by
      simp [State.bankCount, State.rd_cnt_ne]
    refine ⟨by rw [State.coreFault_core], fun i => ?_, fun fresh => State.coreFault_cause _ _ _ (valid.trans fresh) (by decide)⟩
    rw [State.coreFault_xr, State.xr, tile, State.xr]

end Sys2Proof.Machine
end

section
/-! PROOF. Branches and jumps of the tile core (R165). -/
namespace Sys2Proof.Machine

/-- The conditional branches of R165, each with its command and its condition on 64-bit words. -/
def branchRows : List (CoreOp × (TileId → Instr) × (BitVec 64 → BitVec 64 → Bool)) :=
  [(.beq, .beq, fun a b => decide (a = b)), (.bne, .bne, fun a b => decide (a ≠ b)),
    (.blt, .blt, fun a b => decide (a.toInt < b.toInt)), (.bge, .bge, fun a b => decide (a.toInt ≥ b.toInt)),
    (.bltu, .bltu, fun a b => decide (a.toNat < b.toNat)), (.bgeu, .bgeu, fun a b => decide (a.toNat ≥ b.toNat))]

theorem branchTaken_rows {op : CoreOp} {c : TileId → Instr} {taken : BitVec 64 → BitVec 64 → Bool} (h : (op, c, taken) ∈ branchRows) (a b : BitVec 64) :
    branchTaken op a.toNat b.toNat = taken a b := by
  have signed (v : BitVec 64) : toSigned 64 v.toNat = v.toInt := by
    rw [toSigned_eq_toInt (by decide), BitVec.ofNat_toNat, BitVec.setWidth_eq]
  simp only [branchRows, List.mem_cons, Prod.mk.injEq, List.not_mem_nil, or_false] at h
  rcases h with ⟨rfl, -, rfl⟩ | ⟨rfl, -, rfl⟩ | ⟨rfl, -, rfl⟩ | ⟨rfl, -, rfl⟩ | ⟨rfl, -, rfl⟩ | ⟨rfl, -, rfl⟩
  case _ => simp [branchTaken, BitVec.toNat_eq, beq_eq_decide]
  case _ => simp [branchTaken, BitVec.toNat_eq, bne, beq_eq_decide]
  case _ => simp only [branchTaken, signed]
  case _ => simp only [branchTaken, signed, ge_iff_le]
  case _ => rfl
  case _ => rfl

theorem exec_branchRows {op : CoreOp} {c : TileId → Instr} {taken : BitVec 64 → BitVec 64 → Bool} (h : (op, c, taken) ∈ branchRows) (t : TileId)
    (s : State) : exec (c t) s = .next (s.branch t op) := by
  simp only [branchRows, List.mem_cons, Prod.mk.injEq, List.not_mem_nil, or_false] at h
  rcases h with ⟨rfl, rfl, -⟩ | ⟨rfl, rfl, -⟩ | ⟨rfl, rfl, -⟩ | ⟨rfl, rfl, -⟩ | ⟨rfl, rfl, -⟩ | ⟨rfl, rfl, -⟩ <;> rfl

theorem pcPlus_mod (pc : Nat) (d : Int) : pcPlus pc d % 2 ^ 32 = pcPlus pc d := by
  unfold pcPlus ofSigned
  omega

section
variable {s : State} {t : TileId} {w : CoreWord} {op : CoreOp}

theorem State.Fetches.branch (h : s.Fetches t op w) : s.branch t op = (s.fetched t).retireTo t
    (if branchTaken op (s.xr t w.rs1) (s.xr t w.rs2) then pcPlus (s.tile t).core.pc (w.simm * 4) else (s.tile t).core.pc + 4) := by
  rw [State.branch, h.coreRow, State.fetched_xr, State.fetched_xr, State.retire, State.fetched_core]
  exact (apply_ite ((s.fetched t).retireTo t) _ _ _).symm

theorem State.Fetches.jal (h : s.Fetches t .jal w) : s.jal t = ((s.fetched t).xw t w.rs2 ((s.tile t).core.pc + 4)).retireTo t
    (pcPlus (s.tile t).core.pc (toSigned 18 (w.rs1 * 2 ^ 13 + w.imm) * 4)) := by
  rw [State.jal, h.coreRow, State.fetched_core]

/-- What a jump to any 64-bit address leaves: x[rd] written, counts, and the program counter. -/
def State.jumped (m : State) (t rd v pc : Nat) : State := (((m.xw t rd v).cnt .tileInstr t 0 1).activity t 7 1).onCore t (fun c => { c with pc := pc })

theorem State.Fetches.jalr (h : s.Fetches t .jalr w) :
    s.jalr t = (s.fetched t).jumped t w.rs2 ((s.tile t).core.pc + 4) (s.effAddr t w / 4 * 4) := by
  rw [State.jalr, h.coreRow]
  dsimp only
  rw [State.fetched_core, State.fetched_xr]
  rfl

theorem State.jumped_core (m : State) (t rd v pc : Nat) : ((m.jumped t rd v pc).tile t).core = { (m.tile t).core.set rd v with pc := pc } := by
  simp [State.jumped, State.onCore, State.xw]

theorem State.only_jumped (m : State) (t rd v pc : Nat) : m.Only (m.jumped t rd v pc) [.regs, .tiles, .act] :=
  ((m.only_onTile t _).mono (by decide)).trans (((State.only_cnt _ _ _ _ _).mono (by decide)).trans
    (((State.only_activity _ _ _ _).mono (by decide)).trans ((State.only_onTile _ t _).mono (by decide))))

/-- A jump retires at its target, every bit of it up to 2^64. -/
theorem State.retired_jumped (s : State) (t : TileId) (rd v pc : Nat) : s.Retired ((s.fetched t).jumped t rd v pc) t rd pc [] := by
  have acted := s.acted_fetched t
  have core := (s.fetched t).jumped_core t rd v pc
  rw [acted.core] at core
  refine ⟨?_, fun i hi => ?_, ?_, ?_, ?_, ?_⟩
  · by_cases zero : rd = 0
    · exact ⟨(s.tile t).core.x, by rw [core]; simp [Core.set, zero]⟩
    · exact ⟨_, by rw [core]; simp only [Core.set, if_neg zero]; rfl⟩
  · rw [State.xr, core]
    exact Core.get_set_ne _ hi v
  · simp only [State.jumped, State.xw, State.onCore, State.tile_activity, State.tile_cnt, State.tile_onTile_same]
    rw [acted.tile]
  · exact acted.tiles.trans fun u hu => by
      simp only [State.jumped, State.xw, State.onCore, State.tile_activity, State.tile_cnt, State.tile_onTile_ne _ hu]
  · rw [← acted.fields.rd (f := .tileInstr) (by simp) t 0]
    rw [State.jumped, State.onCore, State.rd_onTile, State.rd_activity, State.rd_cnt_same]
    rfl
  · have counted : (s.fetched t).FieldsBut ((((s.fetched t).xw t rd v).cnt .tileInstr t 0 1).activity t 7 1) [(.tileInstr, t.val, 0)] :=
      (State.FieldsBut.cnt (.congr (.refl _ _) rfl rfl) (by simp [tile_mod]) 1).activity t 7 1
    exact (acted.fields.mono (by simp)).trans ((counted.mono (by simp)).congr rfl rfl)

end

/-- Settles O15: a branch retires at its target or behind it, and a jump links before it goes. -/
theorem branchesAndJumps : Obligations.BranchesAndJumps := by
  refine ⟨fun op c taken row t w s h => ⟨_, exec_branchRows row t s, ?_⟩, fun t w s h => ⟨_, rfl, ?_⟩, fun t w s h => ⟨_, rfl, ?_⟩⟩
  · have condition := branchTaken_rows row (BitVec.ofNat 64 (s.xr t w.rs1)) (BitVec.ofNat 64 (s.xr t w.rs2))
    rw [BitVec.toNat_ofNat, BitVec.toNat_ofNat, Nat.mod_eq_of_lt (s.xr_lt t _), Nat.mod_eq_of_lt (s.xr_lt t _)] at condition
    rw [h.branch, ← condition]
    have retired := (s.acted_fetched t).retirePlain h.running (by simp)
      (if branchTaken op (s.xr t w.rs1) (s.xr t w.rs2) then pcPlus (s.tile t).core.pc (w.simm * 4) else (s.tile t).core.pc + 4)
    rwa [apply_ite (· % 2 ^ 32), pcPlus_mod, h.pc] at retired
  · have retired := (s.acted_fetched t).retireTo h.running (by simp) w.rs2 ((s.tile t).core.pc + 4)
      (pcPlus (s.tile t).core.pc (toSigned 18 (w.rs1 * 2 ^ 13 + w.imm) * 4))
    rw [pcPlus_mod] at retired
    have small := h.pc
    rw [h.jal]
    exact ⟨by rw [State.xr_xw_retireTo, Nat.mod_eq_of_lt (by omega)], retired⟩
  · have small := h.pc
    rw [h.jalr]
    refine ⟨?_, s.retired_jumped t _ _ _, (s.only_fetched t).trans (State.only_jumped _ t _ _ _)⟩
    rw [State.xr, State.jumped_core]
    exact (Core.get_set_same _ _ _).trans (by rw [Nat.mod_eq_of_lt (by omega)])

end Sys2Proof.Machine
end

section
/-! SUPPORT. A write within one good word of a bank, and notes of accesses that a bank holds or defers (R214, R216, R223). -/
namespace Sys2Proof.Machine

section
variable {s : State} {t : Nat} {b : BankId} {off : Nat}

theorem natLe_getD (n v i : Nat) : (natLe n v)[i]? = if i < n then some (BitVec.ofNat 8 (v / 256 ^ i)) else none := by
  induction n generalizing v i with
  | zero => simp [natLe]
  | succ n ih =>
    cases i with
    | zero => simp [natLe]
    | succ i => simp [natLe, ih, Nat.div_div_eq_div_mul, Nat.pow_succ']

/-- A merge into a good word stores the bytes, whatever the state of the bank's other words. -/
theorem State.wordMerge_good (good : s.mark (spdAddr t b (off / 8 * 8)) = 0) (l : List Byte) :
    s.StoredAs (s.setBytes (spdAddr t b off) l) (s.spdWordMerge t b (off / 8) (((List.range l.length).map (· + off % 8)).zip l)) := by
  have here : spdAddr t b (8 * (off / 8)) + off % 8 = spdAddr t b off := by rw [← spdAddr_add, Nat.div_add_mod]
  have stored := s.only_setBytes (spdAddr t b off) l
  rw [Nat.mul_comm] at good
  simp only [State.spdWordMerge, State.foldl_setByte, here, good, zero_ne_one, OfNat.zero_ne_ofNat, if_false]
  split
  · refine ⟨(stored.mono (by decide)).setMark (by decide) _ _, fun k => ?_, fun _ => rfl⟩
    by_cases e : k = spdAddr t b (8 * (off / 8))
    · rw [e, State.mark_setMark_same, good]
    · rw [State.mark_setMark_ne _ e, State.mark_setBytes]
  · exact ⟨stored.mono (by decide), State.mark_setBytes _ _ _, fun _ => rfl⟩

/-- A write within one good word stores its bytes. In SB no branch commits. -/
theorem State.spdWrite_word (good : s.mark (spdAddr t b (off / 8 * 8)) = 0) (steady : b = .sb → ∀ i, (s.slot t i).mode ≠ .committing) {bs : List Byte}
    (some : 0 < bs.length) (fits : off % 8 + bs.length ≤ 8) :
    s.StoredAs (s.setBytes (spdAddr t b off) bs) (s.spdWrite t b off bs) := by
  have one : (off + bs.length - 1) / 8 + 1 - off / 8 = 1 := by omega
  have first : partLo off 0 = off := by
    unfold partLo
    omega
  have whole : partHi off bs.length 0 - off = bs.length := by
    unfold partHi
    omega
  have parts : wordParts off bs.length = [(off, bs.length)] := by
    rw [wordParts_eq (by omega), one, List.range_one, List.map_singleton, first, whole]
  have shadow : (if b = .sb then (s.tile t).shadowLine off else none) = none := by
    split
    · next sb =>
      have hm : ∀ i, (sget {} i (s.tile t).slots).mode ≠ .committing := steady sb
      simp [Tile.shadowLine, hm]
    · rfl
  have merged := State.wordMerge_good good bs
  simpa only [State.spdWrite, parts, List.foldl_cons, List.foldl_nil, shadow, Nat.sub_self, List.drop_zero, List.take_length, Bool.false_eq_true,
    if_false] using merged

end

/-! ### Held and deferred accesses -/

/-- From s to a an access of tile t has been noted as held or deferred, which a counter of its bank may count: neither the core nor a bank changes. -/
structure State.Kept (s a : State) (t : Nat) (b : BankId) : Prop where
  core : (a.tile t).core = (s.tile t).core
  bank : ∀ u c, a.bank u c = s.bank u c
  tiles : s.TilesBut a t
  fields : s.FieldsBut a [(.spdClearHold, t, bankIdx b), (.spdDefer, t, bankIdx b)]
  only : s.Only a [.regs, .tiles]

section
variable (s : State) (t : TileId) (b : BankId)

theorem State.Kept.refl : s.Kept s t b := ⟨rfl, fun _ _ => rfl, fun _ _ => rfl, .refl s _, .refl s _⟩

/-- The note is made, and counted. -/
theorem State.kept_noted (key : Nat) {f : Field} (hf : f = .spdClearHold ∨ f = .spdDefer) :
    s.Kept ((s.onTile t (fun x => { x with held := key :: x.held })).cnt f t (bankIdx b) 1) t b := by
  have noted : s.FieldsBut (s.onTile t (fun x => { x with held := key :: x.held })) [(.spdClearHold, t.val, bankIdx b), (.spdDefer, t.val, bankIdx b)] :=
    .congr (.refl s _) rfl rfl
  refine ⟨by simp, fun u c => ?_, (s.tilesBut_onTile t _).trans ((State.only_cnt _ _ _ _ _).tilesBut (by decide) t), noted.cnt ?_ 1, ((s.only_onTile t _).mono (by decide)).trans ((State.only_cnt _ _ _ _ _).mono (by decide))⟩
  · by_cases e : u = t.val
    · simp [State.bank, e]
    · simp [State.bank, State.tile_onTile_ne _ e]
  · rw [tile_mod, Nat.mod_eq_of_lt (bankIdx_lt b)]
    rcases hf with rfl | rfl <;> simp

theorem State.kept_holdAccess (kind : Nat) : s.Kept (s.holdAccess t b kind) t b := by
  unfold State.holdAccess
  dsimp only
  split
  · exact .refl s t b
  · rw [State.effCnt_now _ _ _ _ (bankIdx_lt b), if_neg one_ne_zero]
    exact s.kept_noted t b _ (.inl rfl)

theorem State.kept_deferOnce (kind : Nat) : s.Kept (s.deferOnce t b kind) t b := by
  unfold State.deferOnce
  split
  · exact .refl s t b
  · exact s.kept_noted t b _ (.inr rfl)

end

end Sys2Proof.Machine
end

section
/-! PROOF. Stores of the tile core (R162, R168, R213). -/
namespace Sys2Proof.Machine

section
variable {s : State} {t : TileId} {w : CoreWord} {b : BankId} {off : Nat}

theorem State.acted_loadReady (s : State) (t : TileId) (b : BankId) : s.Acted (s.loadReady t b) t [(.spdAccOther, t.val, bankIdx b)] [] :=
  ⟨s.tile_loadReady t b, s.tilesBut_loadReady t b, s.fieldsBut_loadReady t b, s.only_loadReady t b⟩

/-- The bytes that a store writes (R162). -/
def State.storeBytes (s : State) (t : Nat) (w : CoreWord) : List Byte := natLe (2 ^ (w.rd % 4)) (s.xr t w.rs2)

/-- A fetched store's wait at a bank that is being cleared is counted (R223). -/
def State.holdCounted (s : State) (t : Nat) (b : BankId) : State :=
  if (s.fetched t).clearing t b then (s.fetched t).cnt .spdClearHold t (bankIdx b) 1 else s.fetched t

theorem State.acted_holdCounted (s : State) (t : TileId) (b : BankId) : s.Acted (s.holdCounted t b) t [(.spdClearHold, t.val, bankIdx b)] [] := by
  have fetched := (s.acted_fetched t).mono (List.nil_subset [(.spdClearHold, t.val, bankIdx b)]) (List.Subset.refl _)
  unfold State.holdCounted
  split
  · refine fetched.step (State.only_cnt _ _ _ _ _) ((State.FieldsBut.refl _ _).cnt ?_ 1) (by simp)
    simp [tile_mod, Nat.mod_eq_of_lt (bankIdx_lt b)]
  · exact fetched

/-- A store waits in its bank's queue (R168, R213). -/
def State.storeQueued (s : State) (t : Nat) (b : BankId) (off : Nat) (w : CoreWord) : State :=
  let a := s.holdCounted t b
  a.setBank t b { a.bank t b with waiting := (a.bank t b).waiting ++
    [{ req := { cls := 3, write := true, off := off, len := 2 ^ (w.rd % 4), data := s.storeBytes t w, who := .core t } }] }

section
variable (h : s.Fetches t .store w) (addr : coreAddr t (s.effAddr t w) (2 ^ (w.rd % 4)) = .ok (b, off)) (good : s.mark (spdAddr t b (off / 8 * 8)) = 0)
include h addr good

/-- What becomes of a fetched store to a good word: it is held, or deferred, or writes, or waits at its bank. -/
theorem State.Fetches.store : s.store t =
    if (b = .cb ∨ 2 ^ (w.rd % 4) < 8) ∧ s.clearing t b then s.holdAccess t b 0
    else if b ≠ .cb ∧ 2 ^ (w.rd % 4) < 8 ∧ !(s.bank t b).waiting.isEmpty then s.deferOnce t b 9
    else if b = .cb ∨ (!(s.clearing t b) ∧ (s.bank t b).waiting.isEmpty) then ((s.loadReady t b).spdWrite t b off (s.storeBytes t w)).retire t
    else (s.storeQueued t b off w).retire t := by
  have looked := s.looked_fetched t
  have eff : ofSigned 64 (((s.fetched t).xr t w.rs1 : Int) + w.simm) = s.effAddr t w := by rw [looked.xr, State.effAddr]
  have bank : (s.fetched t).bank t b = s.bank t b := by rw [State.bank, looked.tile, State.bank]
  have clearing : (s.fetched t).clearing t b = s.clearing t b := by simp only [State.clearing, bank]
  have mark : (s.fetched t).mark (spdAddr t b (off / 8 * 8)) = 0 := (looked.only.mark (by decide) _).trans good
  have value : (s.fetched t).xr t w.rs2 = s.xr t w.rs2 := looked.xr _
  unfold State.store
  rw [h.coreRow]
  simp only [eff, addr, mark, value, OfNat.zero_ne_ofNat, false_and, and_false, if_false]
  unfold State.storeQueued State.holdCounted State.storeBytes State.loadReady
  simp only [clearing, bank]

/-- A store whose bank is open and idle puts its bytes. -/
theorem State.Fetches.store_writes (clear : s.clearing t b = false) (idle : b = .cb ∨ (s.bank t b).waiting = [])
    (steady : b = .sb → ∀ i, (s.slot t i).mode ≠ .committing) :
    s.store t = ((s.loadReady t b).spdWrite t b off (s.storeBytes t w)).retire t ∧
      (s.loadReady t b).StoredAs ((s.loadReady t b).setBytes (spdAddr t b off) (s.storeBytes t w)) ((s.loadReady t b).spdWrite t b off (s.storeBytes t w)) := by
  have ready := s.acted_loadReady t b
  have slot (i : Nat) : (s.loadReady t b).slot t i = s.slot t i := by
    rw [State.slot, ready.tile]
    rfl
  have size : (s.storeBytes t w).length = 2 ^ (w.rd % 4) := length_natLe _ _
  refine ⟨?_, State.spdWrite_word ((ready.only.mark (by decide) _).trans good) (fun sb i => slot i ▸ steady sb i) (size ▸ Nat.two_pow_pos _)
    (size ▸ coreAddr_aligned addr (Nat.mod_lt _ (by decide)))⟩
  rw [h.store addr good, clear]
  rcases idle with rfl | none <;> simp [*]

end

theorem State.store_eight (three : w.rd % 4 = 3) : s.storeBytes t w = natLe 8 (s.xr t w.rs2) := by
  rw [State.storeBytes, three]
  rfl

/-- The word that a fetched store of eight bytes puts into its bank's queue. -/
theorem State.Fetches.storeQueued (h : s.Fetches t .store w) (three : w.rd % 4 = 3) :
    (((s.storeQueued t b off w).retire t).bank t b).waiting = (s.bank t b).waiting ++
        [{ req := { cls := 3, write := true, off := off, len := 8, data := natLe 8 (s.xr t w.rs2), who := .core t } }] ∧
      (((s.storeQueued t b off w).retire t).tile t).core = { (s.tile t).core with pc := (s.tile t).core.pc + 4 } := by
  have acted := s.acted_holdCounted t b
  have bank : (s.holdCounted t b).bank t b = s.bank t b := by rw [State.bank, acted.tile, State.bank]
  have kept : ((s.storeQueued t b off w).retire t).bank t b = (s.storeQueued t b off w).bank t b := by rw [State.bank, State.tile_retire, State.bank]
  have core : ((s.storeQueued t b off w).tile t).core = (s.tile t).core := by rw [State.storeQueued, State.tile_setBank, acted.core]
  refine ⟨?_, ?_⟩
  · rw [kept, State.storeQueued, State.bank_setBank_same, bank, State.store_eight three, three]
    rfl
  · rw [State.tile_retire, core, h.pc, ← h.running]

end

/-- Settles O13: a store writes its bytes within one word, waits at its bank, or keeps the core. -/
theorem stores : Obligations.Stores := by
  intro t w s b off h addr good
  refine ⟨fun clear idle steady => ⟨_, rfl, ?_⟩, fun notCb narrow busy => ⟨_, rfl, ?_⟩, fun notCb three busy => ⟨_, rfl, ?_⟩⟩
  · obtain ⟨writes, stored⟩ := h.store_writes addr good clear idle steady
    have ready := s.acted_loadReady t b
    have acted : s.Acted ((s.loadReady t b).spdWrite t b off (s.storeBytes t w)) t [(.spdAccOther, t.val, bankIdx b)] [.mem, .ecc] :=
      (ready.mono (List.Subset.refl _) (by simp)).step stored.only (.congr (.refl _ _) (stored.only .regs (by decide)) (stored.only .variant (by decide)))
        (by decide)
    have after := State.only_retirePlain ((s.loadReady t b).spdWrite t b off (s.storeBytes t w)) t
    have byte (k : Nat) : (s.store t).byte k = ((s.loadReady t b).setBytes (spdAddr t b off) (s.storeBytes t w)).byte k := by
      rw [writes, after.byte (by decide), stored.byte]
    have before (k : Nat) : (s.loadReady t b).byte k = s.byte k := ready.only.byte (by decide) k
    refine ⟨fun i hi => ?_, fun k outside => ?_, fun k => ?_, ?_⟩
    · rw [byte, State.byte_setBytes, if_pos (by omega), State.storeBytes, natLe_getD, if_pos (by omega), Option.getD_some]
      congr 3
      omega
    · rw [byte, State.byte_setBytes, before, State.storeBytes, natLe_getD]
      by_cases inside : spdAddr t b off ≤ k
      · rw [if_pos inside, if_neg (by omega)]
        rfl
      · rw [if_neg inside]
    · rw [writes, after.mark (by decide), stored.mark, ready.only.mark (by decide)]
    · rw [writes]
      exact acted.retires h (by simp)
  · have small : 2 ^ (w.rd % 4) < 8 := by
      have : w.rd % 4 < 3 := by omega
      exact Nat.pow_lt_pow_right (by decide) this
    have kept : s.Kept (s.store t) t b := by
      rw [h.store addr good]
      by_cases clear : s.clearing t b = true
      · rw [if_pos ⟨.inr small, clear⟩]
        exact s.kept_holdAccess t b 0
      · rw [if_neg (fun held => clear held.2), if_pos ⟨notCb, small, by simp [busy.resolve_left clear]⟩]
        exact s.kept_deferOnce t b 9
    exact ⟨kept.core, kept.bank, kept.tiles, kept.fields, kept.only⟩
  · have wide : ¬ 2 ^ (w.rd % 4) < 8 := by rw [three]; decide
    have queued : s.store t = (s.storeQueued t b off w).retire t := by
      rw [h.store addr good, if_neg (by simp [notCb, wide]), if_neg (by simp [wide]), if_neg]
      rcases busy with clear | waits
      · simp [notCb, clear]
      · simp [notCb, waits]
    obtain ⟨waiting, core⟩ := h.storeQueued (b := b) (off := off) three
    have acted := s.acted_holdCounted t b
    have set : (s.holdCounted t b).FieldsBut (s.storeQueued t b off w) [] := .congr (.refl _ _) rfl rfl
    rw [queued]
    refine ⟨waiting, fun i => ?_, core, ?_, ?_, ?_⟩
    · simp only [State.xr, core]
      rfl
    · exact (acted.tiles.trans (State.tilesBut_onTile _ t _)).trans (State.tilesBut_retire _ t)
    · refine .trans (.trans (acted.fields.mono ?_) (set.mono ?_)) ((State.fieldsBut_retire _ t).mono ?_) <;> simp
    · exact acted.only.trans (((State.only_setBank _ t b _).mono (by decide)).trans (State.only_retirePlain _ t))

end Sys2Proof.Machine
end

section
/-! PROOF. Event waits, the memory fence and BREAK of the tile core (R168, R173, R174, R430). -/
namespace Sys2Proof.Machine

/-! ### The event unit's view of a fetched instruction -/

section
variable {z m : State} {t : TileId}

theorem State.Looked.tally (h : z.Looked m t) : m.tally = z.tally := h.only .tally (by decide)

theorem State.Looked.ev0 (h : z.Looked m t) : m.ev0 t = z.ev0 t := by
  simp only [State.ev0, h.core, h.tally, h.rd (f := .tileWakeAt) (by decide), h.rd (f := .tileSem) (by decide), h.rd (f := .tileSemWatchSem) (by decide),
    h.rd (f := .tileSemWatchThresh) (by decide)]

/-- The fields that say what a queue is and holds (R176, R192). -/
def queueFields : List Field := [.tileQcfgLog2Depth, .tileQcfgEn, .tileQcfgBase, .tileQHead, .tileQTail]

/-- From z to m no queue of tile t changes. -/
def State.SameQueues (z m : State) : Prop := ∀ f ∈ queueFields, ∀ i, m.rd f i = z.rd f i

theorem State.FieldsBut.sameQueues {l : List (Field × Nat × Nat)} (h : z.FieldsBut m l) (hl : ∀ f ∈ queueFields, f ∉ l.map Prod.fst) : z.SameQueues m :=
  fun f hf i => h.rd (hl f hf) i 0

theorem State.SameQueues.qDepth (h : z.SameQueues m) (u q : Nat) : m.qDepth u q = z.qDepth u q := by
  rw [State.qDepth, h .tileQcfgLog2Depth (by decide), State.qDepth]

theorem State.SameQueues.qEnabled (h : z.SameQueues m) (u q : Nat) : m.qEnabled u q = z.qEnabled u q := by
  unfold State.qEnabled State.on
  dsimp only
  rw [h .tileQcfgLog2Depth (by decide), h .tileQcfgEn (by decide), h .tileQcfgBase (by decide)]

theorem State.SameQueues.qOcc (h : z.SameQueues m) (u q : Nat) : m.qOcc u q = z.qOcc u q := by
  unfold State.qOcc
  rw [h .tileQHead (by decide), h .tileQTail (by decide), h.qDepth]

theorem State.SameQueues.qLine (h : z.SameQueues m) (u q p : Nat) : m.qLine u q p = z.qLine u q p := by
  rw [State.qLine, h .tileQcfgBase (by decide), State.qLine]

theorem State.Looked.evq (h : z.Looked m t) : m.evq t = z.evq t := by
  have same : z.SameQueues m := h.fields.sameQueues (by simp [queueFields])
  simp only [State.evq, same.qEnabled, same.qOcc]

theorem State.Looked.bank (h : z.Looked m t) (b : BankId) : m.bank t b = z.bank t b := by rw [State.bank, h.tile, State.bank]

theorem State.Looked.storesPending (h : z.Looked m t) : m.storesPending t = z.storesPending t := by simp only [State.storesPending, h.bank]

/-- The condition of WAIT, as a proposition (R174). -/
theorem State.eventReady_iff (s : State) (t m0 m1 : Nat) :
    s.eventReady t m0 m1 = true ↔ (s.ev0 t &&& m0) ≠ 0 ∨ (s.evq t &&& m1) ≠ 0 ∨ (m0 = 0 ∧ m1 = 0) := by simp [State.eventReady, or_assoc]

theorem State.Looked.eventReady (h : z.Looked m t) (m0 m1 : Nat) : m.eventReady t m0 m1 = z.eventReady t m0 m1 := by
  simp only [State.eventReady, h.ev0, h.evq]

end

/-! ### WAIT and WAITC -/

/-- What a WAIT or WAITC does that returns EV0 under the mask m0 (R174). -/
structure State.EventReturned (s s' : State) (t rd m0 : Nat) (clear : Bool) : Prop where
  value : s'.xr t rd = if rd = 0 then 0 else (s.ev0 t &&& m0) % 2 ^ 64
  others : ∀ i, i ≠ rd → s'.xr t i = s.xr t i
  sticky : ∀ b, (s'.tile t).core.ev0.testBit b = ((s.tile t).core.ev0.testBit b && !(clear && (s.ev0 t &&& m0 &&& stickyMask).testBit b))
  wait : (s'.tile t).core.wait = .running
  pc : (s'.tile t).core.pc = ((s.tile t).core.pc + 4) % 2 ^ 32
  tiles : s.TilesBut s' t
  fields : s.FieldsBut s' [(.tileInstr, t, 0)]
  only : s.Only s' [.regs, .tiles, .act]

/-- What WAITC leaves of the sticky bits when it returns v. -/
def Core.clearSticky (v : Nat) (c : Core) : Core := { c with ev0 := c.ev0 ^^^ (c.ev0 &&& v &&& stickyMask) }

theorem testBit_clearSticky (c : Core) (v b : Nat) : (c.clearSticky v).ev0.testBit b = (c.ev0.testBit b && !(v &&& stickyMask).testBit b) := by
  simp only [Core.clearSticky, Nat.testBit_xor, Nat.testBit_and]
  cases c.ev0.testBit b <;> simp

/-- The core once its register is written, and for WAITC its sticky bits cleared. -/
def Core.eventTaken (rd v : Nat) (clear : Bool) (c : Core) : Core := if clear then (c.set rd v).clearSticky v else c.set rd v

theorem Core.get_eventTaken (c : Core) (rd v : Nat) (clear : Bool) (i : Nat) : (c.eventTaken rd v clear).get i = (c.set rd v).get i := by
  unfold Core.eventTaken
  split <;> rfl

theorem Core.ev0_set (c : Core) (rd v : Nat) : (c.set rd v).ev0 = c.ev0 := by
  unfold Core.set
  split <;> rfl

theorem Core.pc_eventTaken (c : Core) (rd v : Nat) (clear : Bool) : (c.eventTaken rd v clear).pc = c.pc := by
  unfold Core.eventTaken Core.set
  split <;> split <;> rfl

theorem State.eventReturn_tile (s : State) (t rd m0 : Nat) (clear : Bool) : (s.eventReturn t rd m0 clear).tile t = { s.tile t with
    core := { (s.tile t).core.eventTaken rd (s.ev0 t &&& m0) clear with pc := ((s.tile t).core.pc + 4) % 2 ^ 32, wait := .running } } := by
  rw [← Core.pc_eventTaken _ rd (s.ev0 t &&& m0) clear]
  unfold State.eventReturn
  rw [State.tile_retire]
  cases clear <;> simp [State.xw, State.onCore, Core.eventTaken, Core.clearSticky]

theorem State.eventReturned (s : State) (t : TileId) (rd m0 : Nat) (clear : Bool) : s.EventReturned (s.eventReturn t rd m0 clear) t rd m0 clear := by
  have tile := s.eventReturn_tile t rd m0 clear
  refine ⟨?_, fun i hi => ?_, fun b => ?_, by rw [tile], by rw [tile], fun u hu => ?_, ?_, ?_⟩
  · rw [State.xr, tile]
    exact (Core.get_eventTaken _ _ _ _ _).trans (Core.get_set_same _ _ _)
  · rw [State.xr, tile]
    exact (Core.get_eventTaken _ _ _ _ _).trans (Core.get_set_ne _ hi _)
  · rw [tile]
    cases clear
    · simp [Core.eventTaken, Core.ev0_set]
    · simpa only [Core.eventTaken, Core.ev0_set, if_true, Bool.true_and] using testBit_clearSticky ((s.tile t).core.set rd (s.ev0 t &&& m0)) (s.ev0 t &&& m0) b
  · unfold State.eventReturn
    rw [State.tilesBut_retire _ t u hu]
    split <;> simp [State.xw, State.onCore, State.tile_onTile_ne _ hu]
  · unfold State.eventReturn
    exact .trans (.congr (.refl s _) (by split <;> rfl) (by split <;> rfl)) (State.fieldsBut_retire _ t)
  · unfold State.eventReturn
    refine .trans (b := if clear then _ else _) ?_ (State.only_retirePlain _ t)
    split
    · exact ((s.only_onTile t _).mono (by decide)).trans ((State.only_onTile _ t _).mono (by decide))
    · exact (s.only_onTile t _).mono (by decide)

/-- A fetched WAIT or WAITC returns, or sleeps. -/
theorem State.Fetches.waitOp {s : State} {t : TileId} {w : CoreWord} {clear : Bool} (h : s.Fetches t (if clear then .waitc else .wait) w) :
    s.waitOp t clear = if s.eventReady t (s.xr t w.rs1) (s.xr t w.rs2) then (s.fetched t).eventReturn t w.rd (s.xr t w.rs1) clear
      else (s.fetched t).park t (.event w.rd (s.xr t w.rs1) (s.xr t w.rs2) clear) := by
  unfold State.waitOp
  rw [h.coreRow]
  simp only [(s.looked_fetched t).xr, (s.looked_fetched t).eventReady]

theorem completes_waitOp {clear : Bool} {t : TileId} {s : State} {P : State → Prop} (h : P (s.waitOp t clear)) :
    Completes (if clear then .waitc t else .wait t) s P := by
  cases clear <;> exact ⟨_, rfl, h⟩

/-! ### BREAK -/

theorem State.Fetches.brk {s : State} {t : TileId} {w : CoreWord} (h : s.Fetches t .brk w) : s.break_ t =
    if s.on .dbgLockOpen then ((s.fetched t).retire t).onCore t (fun c => { c with mode := .broken }) else ((s.fetched t).retire t).bump .dbgBreakIgnored := by
  have looks : ((s.fetched t).retire t).on .dbgLockOpen = s.on .dbgLockOpen := by
    rw [State.on, (State.fieldsBut_retire _ t).rd (by simp), (s.looked_fetched t).rd (by decide), State.on]
  unfold State.break_
  rw [h.coreRow]
  simp only [looks]

/-- An ignored BREAK retires, and counts at the debug port. -/
theorem State.Fetches.brk_ignored {s : State} {t : TileId} {w : CoreWord} (h : s.Fetches t .brk w) (closed : s.rd .dbgLockOpen = 0) :
    (s.break_ t).rd .dbgBreakIgnored = (s.rd .dbgBreakIgnored + 1) % 2 ^ 64 ∧
      s.Retired (s.break_ t) t 0 ((s.tile t).core.pc + 4) [(.dbgBreakIgnored, 0, 0)] ∧ s.Only (s.break_ t) [.regs, .tiles, .act] := by
  obtain ⟨⟨core, regs, pc, tiles, instr, fields⟩, only⟩ := (s.acted_fetched t).retires h (by simp)
  have brk : s.break_ t = ((s.fetched t).retire t).cnt .dbgBreakIgnored 0 0 1 := by
    rw [h.brk, State.on, closed]
    rfl
  have ignored : ((s.fetched t).retire t).rd .dbgBreakIgnored = s.rd .dbgBreakIgnored := by
    rw [(State.fieldsBut_retire _ t).rd (by simp), (s.looked_fetched t).rd (by decide)]
  rw [brk]
  refine ⟨?_, ⟨by simpa using core, by simpa [State.xr] using regs, by simpa using pc, ?_, ?_, ?_⟩, ?_⟩
  · rw [State.rd_cnt_same, ignored]
    rfl
  · exact tiles.trans ((State.only_cnt _ _ _ _ _).tilesBut (by decide) t)
  · rw [State.rd_cnt_ne _ (by decide), instr]
  · exact .cnt (fields.mono (by simp)) (by simp) 1
  · exact only.trans ((State.only_cnt _ _ _ _ _).mono (by decide))

/-- A BREAK that is taken stops its core once it has retired. -/
theorem State.Fetches.brk_stops {s : State} {t : TileId} {w : CoreWord} (h : s.Fetches t .brk w) (opened : s.rd .dbgLockOpen ≠ 0) :
    ((s.break_ t).tile t).core = { (s.tile t).core with mode := .broken, pc := (s.tile t).core.pc + 4 } ∧
      ((s.break_ t).tile t).ope = (s.tile t).ope ∧ ((s.break_ t).tile t).ve = (s.tile t).ve ∧ s.TilesBut (s.break_ t) t ∧
      s.FieldsBut (s.break_ t) [(.tileInstr, t, 0), (.spdAccMaster, t, 3)] ∧ s.Only (s.break_ t) [.regs, .tiles, .act] := by
  have looked := s.looked_fetched t
  have brk : s.break_ t = ((s.fetched t).retire t).onCore t (fun c => { c with mode := .broken }) := by
    rw [h.brk, if_pos (by simpa [State.on] using opened)]
  have tile : (s.break_ t).tile t = { s.tile t with
      held := ((s.fetched t).tile t).held, core := { (s.tile t).core with mode := .broken, pc := (s.tile t).core.pc + 4 } } := by
    rw [brk, State.onCore, State.tile_onTile_same, State.tile_retire, looked.tile, h.pc, ← h.running]
  refine ⟨by rw [tile], by rw [tile], by rw [tile], ?_, ?_, ?_⟩
  · rw [brk]
    exact (looked.tiles.trans (State.tilesBut_retire _ t)).trans (State.tilesBut_onTile _ t _)
  · rw [brk]
    exact .congr (.trans (looked.fields.mono (by simp)) ((State.fieldsBut_retire _ t).mono (by simp))) rfl rfl
  · rw [brk]
    exact (looked.only.trans (State.only_retirePlain _ t)).trans ((State.only_onTile _ t _).mono (by decide))

/-- Settles O21: WAIT and WAITC return or sleep, FENCE.MEM retires or waits, and BREAK stops its core or is ignored. -/
theorem eventsFencesAndBreak : Obligations.EventsFencesAndBreak := by
  refine ⟨fun clear t w s h => ⟨fun ready => completes_waitOp ?_, fun sleeps => completes_waitOp ?_⟩,
    fun t rd m0 m1 clear s waits active => ⟨fun ready => ⟨_, rfl, ?_⟩, fun early => ⟨_, rfl, ?_⟩⟩,
    fun t w s h => ⟨fun none => ⟨_, rfl, ?_⟩, fun pending => ⟨_, rfl, ?_⟩⟩, fun t s waits active none => ⟨_, rfl, ?_⟩,
    fun t w s h => ⟨fun opened => ⟨_, rfl, h.brk_stops opened⟩, fun closed => ⟨_, rfl, h.brk_ignored closed⟩⟩⟩
  · have looked := s.looked_fetched t
    have returned := (s.fetched t).eventReturned t w.rd (s.xr t w.rs1) clear
    rw [h.waitOp, if_pos ((s.eventReady_iff _ _ _).2 ready)]
    refine ⟨by rw [returned.value, looked.ev0], fun i hi => by rw [returned.others i hi, looked.xr], by rw [returned.pc, looked.core, h.pc],
      fun b => by rw [returned.sticky, looked.core, looked.ev0], looked.tiles.trans returned.tiles, ?_, looked.only.trans returned.only⟩
    exact .trans (looked.fields.mono (by simp)) (returned.fields.mono (by simp))
  · obtain ⟨core, -, -, tiles, fields, only⟩ := (s.looked_fetched t).park (.event w.rd (s.xr t w.rs1) (s.xr t w.rs2) clear)
    rw [h.waitOp, if_neg (mt (s.eventReady_iff _ _ _).1 sleeps)]
    exact ⟨core, tiles, fields, only⟩
  · have returned := s.eventReturned t rd m0 clear
    have returns : s.waitReturn t = s.eventReturn t rd m0 clear := by simp [State.waitReturn, waits, active, ready]
    rw [returns]
    exact ⟨returned.value, returned.others, returned.sticky, returned.wait, returned.pc, returned.tiles, returned.fields, returned.only⟩
  · simp [State.waitReturn, waits, early]
  · have retires : s.fenceMem t = (s.fetched t).retire t := by
      rw [State.fenceMem, h.coreRow, (s.looked_fetched t).storesPending, none, if_neg Bool.false_ne_true]
    rw [retires]
    exact (s.acted_fetched t).retires h (by simp)
  · have parks : s.fenceMem t = (s.fetched t).park t .fence := by
      rw [State.fenceMem, h.coreRow, (s.looked_fetched t).storesPending, pending, if_pos rfl]
    obtain ⟨core, -, -, tiles, fields, only⟩ := (s.looked_fetched t).park .fence
    rw [parks]
    exact ⟨core, tiles, fields, only⟩
  · have retires : s.fenceDone t = s.retire t := by simp [State.fenceDone, waits, active, none]
    rw [retires]
    exact ⟨by rw [State.tile_retire], State.tilesBut_retire s t, State.fieldsBut_retire s t, State.only_retirePlain s t⟩

end Sys2Proof.Machine
end

section
/-! SUPPORT. What a signal to a semaphore, and a wait on it, do to the registers (R180, R181, R203, R204). -/
namespace Sys2Proof.Machine

section
variable (s : State) (t : TileId)

/-- The fields in which the stream endpoints of tile t count (R203, R204). -/
def streamFields (t : Nat) : List (Field × Nat × Nat) :=
  [(.tileProgress, t, 0), (.tileProgressAt, t, 0)] ++
    (List.range 16).flatMap (fun e => [(.tileStrmArrived, t, e), (.tileStrmTaken, t, e), (.tileStrmLastAt, t, e)])

theorem semFields_eq (k : Nat) : semFields t k = [(.tileSem, t.val, k), (.tileSemSat, t.val, 0)] ++ streamFields t := rfl

theorem mem_streamFields {f : Field} (hf : f = .tileStrmArrived ∨ f = .tileStrmTaken ∨ f = .tileStrmLastAt) {e : Nat} (he : e < 16) :
    (f, t.val % 65536, e % 4096) ∈ streamFields t := by
  rw [tile_mod, Nat.mod_eq_of_lt (by omega)]
  refine List.mem_append_right _ (List.mem_flatMap.2 ⟨e, List.mem_range.2 he, ?_⟩)
  rcases hf with rfl | rfl | rfl <;> simp

theorem notMem_streamFields {f : Field} (hf : f ∉ [Field.tileProgress, .tileProgressAt, .tileStrmArrived, .tileStrmTaken, .tileStrmLastAt]) :
    f ∉ (streamFields t).map Prod.fst := by
  intro h
  obtain ⟨x, hx, rfl⟩ := List.mem_map.1 h
  apply hf
  rcases List.mem_append.1 hx with hx | hx
  · rcases List.mem_pair.1 hx with rfl | rfl <;> simp
  · obtain ⟨e, -, he⟩ := List.mem_flatMap.1 hx
    simp only [List.mem_cons, List.not_mem_nil, or_false] at he
    rcases he with rfl | rfl | rfl <;> simp

/-- An endpoint's count changes only what endpoints count in. -/
theorem State.strmCount_counts {f : Field} (hf : f = .tileStrmArrived ∨ f = .tileStrmTaken) {e : Nat} (he : e < 16) (n : Nat) :
    s.FieldsBut (s.strmCount t e n f) (streamFields t) ∧ s.Only (s.strmCount t e n f) [.regs] := by
  unfold State.strmCount State.progress
  split
  · exact ⟨.refl _ _, .refl _ _⟩
  · refine ⟨.wr (.cnt (.wr (.cnt (.refl s _) (mem_streamFields t (hf.elim .inl (.inr ∘ .inl)) he) _) (mem_streamFields t (.inr (.inr rfl)) he) _) ?_ _) ?_ _,
      ((State.only_cnt _ _ _ _ _).trans (State.only_wr _ _ _ _ _)).trans ((State.only_cnt _ _ _ _ _).trans (State.only_wr _ _ _ _ _))⟩
    all_goals simp [tile_mod, streamFields]

theorem State.strmCounts {f : Field} (hf : f = .tileStrmArrived ∨ f = .tileStrmTaken) (n : Nat) {es : List Nat} (inRange : ∀ e ∈ es, e < 16) :
    s.FieldsBut (es.foldl (fun s e => s.strmCount t e n f) s) (streamFields t) ∧ s.Only (es.foldl (fun s e => s.strmCount t e n f) s) [.regs] := by
  induction es generalizing s with
  | nil => exact ⟨.refl _ _, .refl _ _⟩
  | cons e es ih =>
    obtain ⟨fields, only⟩ := s.strmCount_counts t hf (inRange e (by simp)) n
    obtain ⟨fields', only'⟩ := ih (s.strmCount t e n f) (fun x hx => inRange x (by simp [hx]))
    exact ⟨fields.trans fields', only.trans only'⟩

theorem State.endpointsOn_lt {k e : Nat} (h : e ∈ s.endpointsOn t k) : e < 16 := List.mem_range.1 (List.mem_filter.1 h).1

/-- From s to a semaphore k of tile t has become v, and its count of saturations c. -/
structure State.SemMoved (s a : State) (t k v c : Nat) : Prop where
  sem : a.rd .tileSem t k = v
  sat : a.rd .tileSemSat t = c
  fields : s.FieldsBut a (semFields t k)
  only : s.Only a [.regs]

variable {k : Nat} (hk : k < 64)
include hk

/-- A signal adds to the semaphore, saturating (R181). -/
theorem State.semAdd_moved (a : Nat) : s.SemMoved (s.semAdd t k a) t k (min (s.rd .tileSem t k + a % 2 ^ 32) 0xFFFFFFFF)
    (if s.rd .tileSem t k + a % 2 ^ 32 > 0xFFFFFFFF then (s.rd .tileSemSat t + 1) % 2 ^ 64 else s.rd .tileSemSat t) := by
  generalize hv : min (s.rd .tileSem t k + a % 2 ^ 32) 0xFFFFFFFF = v
  have small : v % 2 ^ Field.tileSem.info.width = v := Nat.mod_eq_of_lt (hv ▸ Nat.lt_of_le_of_lt (Nat.min_le_right _ _) (by decide))
  let counted := if s.rd .tileSem t k + a % 2 ^ 32 > 0xFFFFFFFF then s.cnt .tileSemSat t 0 1 else s
  have sat : counted.rd .tileSemSat t =
      if s.rd .tileSem t k + a % 2 ^ 32 > 0xFFFFFFFF then (s.rd .tileSemSat t + 1) % 2 ^ 64 else s.rd .tileSemSat t := by
    simp only [counted]
    split
    · exact State.rd_cnt_same _ _ _ _ _
    · rfl
  have fields : s.FieldsBut (counted.wr .tileSem t k v) (semFields t k) :=
    .wr (.ite (.cnt (.refl _ _) (by simp [tile_mod, semFields_eq]) 1) (.refl _ _)) (by simp [tile_mod, semFields_eq]; omega) _
  have only : s.Only (counted.wr .tileSem t k v) [.regs] := by
    refine State.Only.trans ?_ (State.only_wr _ _ _ _ _)
    simp only [counted]
    split
    · exact State.only_cnt _ _ _ _ _
    · exact .refl _ _
  have added : s.semAdd t k a = (s.endpointsOn t k).foldl (fun x e => x.strmCount t e (v - s.rd .tileSem t k) .tileStrmArrived) (counted.wr .tileSem t k v) := by
    rw [← hv]
    rfl
  obtain ⟨streams, regs⟩ := (counted.wr .tileSem t k v).strmCounts t (.inl rfl) (v - s.rd .tileSem t k) (fun e => s.endpointsOn_lt t (k := k))
  rw [added]
  refine ⟨?_, ?_, fields.trans (streams.mono ?_), only.trans regs⟩
  · rw [streams.rd (notMem_streamFields t (by simp)), State.rd_wr_same, small]
  · rw [streams.rd (notMem_streamFields t (by simp)), State.rd_wr_ne _ (by decide), sat]
  · rw [semFields_eq]
    exact fun x hx => List.mem_append_right _ hx

/-- A wait takes its amount from the semaphore (R180). -/
theorem State.semTake_moved (small : s.rd .tileSem t k < 2 ^ 32) (a : Nat) :
    s.SemMoved (s.semTake t k a) t k (s.rd .tileSem t k - a % 2 ^ 32) (s.rd .tileSemSat t) := by
  have fits : (s.rd .tileSem t k - a % 2 ^ 32) % 2 ^ Field.tileSem.info.width = s.rd .tileSem t k - a % 2 ^ 32 :=
    Nat.mod_eq_of_lt (Nat.lt_of_le_of_lt (Nat.sub_le _ _) small)
  obtain ⟨streams, regs⟩ := (s.wr .tileSem t k (s.rd .tileSem t k - a % 2 ^ 32)).strmCounts t (.inr rfl) (a % 2 ^ 32)
    (fun e => s.endpointsOn_lt t (k := k))
  refine ⟨?_, ?_, .trans (.wr (.refl _ _) (by simp [tile_mod, semFields_eq]; omega) _) (streams.mono ?_), (State.only_wr _ _ _ _ _).trans regs⟩
  · exact (streams.rd (notMem_streamFields t (by simp)) _ _).trans ((State.rd_wr_same _ _ _ _ _).trans fits)
  · exact (streams.rd (notMem_streamFields t (by simp)) _ _).trans (State.rd_wr_ne _ (by decide) _ _ _ _ _)
  · rw [semFields_eq]
    exact fun x hx => List.mem_append_right _ hx

end

end Sys2Proof.Machine
end

section
/-! PROOF. Semaphore operations of the tile core (R180, R181, R201). -/
namespace Sys2Proof.Machine

theorem instr_notMem_semFields (t : TileId) (k : Nat) : Field.tileInstr ∉ (semFields t k).map Prod.fst := by
  rw [semFields_eq, List.map_append]
  simpa using notMem_streamFields t (f := .tileInstr) (by simp)

section
variable {s m a : State} {t : TileId} {w : CoreWord} {op : CoreOp} {k v c : Nat}

/-- Semaphore fields read the same in a fetched instruction. -/
theorem State.Looked.sem (h : s.Looked m t) (u i : Nat) : m.rd .tileSem u i = s.rd .tileSem u i := h.rd (by decide) u i

theorem State.SemMoved.acted (h : (s.fetched t).SemMoved a t k v c) : s.Acted a t (semFields t k) [] :=
  ((s.acted_fetched t).mono (List.nil_subset _) (List.Subset.refl _)).step h.only (h.fields.mono fun _ hx => List.mem_cons_of_mem _ hx) (by simp)

/-- A fetched instruction that has moved its semaphore retires. -/
theorem State.SemMoved.retires (h : (s.fetched t).SemMoved a t k v c) (f : s.Fetches t op w) :
    (a.retire t).rd .tileSem t k = v ∧ (a.retire t).rd .tileSemSat t = c ∧
      s.Retired (a.retire t) t 0 ((s.tile t).core.pc + 4) (semFields t k) ∧ s.Only (a.retire t) [.regs, .tiles, .act] := by
  obtain ⟨retired, only⟩ := h.acted.retires f (instr_notMem_semFields t k)
  refine ⟨?_, ?_, retired, only⟩
  · rw [(State.fieldsBut_retire _ t).rd (by simp), h.sem]
  · rw [(State.fieldsBut_retire _ t).rd (by simp), h.sat]

/-- A fetched SEM.SIG, or SEM.SIGR to its own tile. -/
theorem State.Fetches.semAdd (f : s.Fetches t op w) (hk : k < 64) (x : Nat) :
    (((s.fetched t).semAdd t k x).retire t).rd .tileSem t k = min (s.rd .tileSem t k + x % 2 ^ 32) 0xFFFFFFFF ∧
      (((s.fetched t).semAdd t k x).retire t).rd .tileSemSat t =
        (if s.rd .tileSem t k + x % 2 ^ 32 > 0xFFFFFFFF then (s.rd .tileSemSat t + 1) % 2 ^ 64 else s.rd .tileSemSat t) ∧
      s.Retired (((s.fetched t).semAdd t k x).retire t) t 0 ((s.tile t).core.pc + 4) (semFields t k) ∧
      s.Only (((s.fetched t).semAdd t k x).retire t) [.regs, .tiles, .act] := by
  have looked := s.looked_fetched t
  have retires := ((s.fetched t).semAdd_moved t hk x).retires f
  rwa [looked.sem, looked.rd (f := .tileSemSat) (by decide)] at retires

/-! ### Signals to other tiles -/

theorem State.Looked.targetHere (h : s.Looked m t) (target : Nat) : m.targetHere target = s.targetHere target := by
  unfold State.targetHere State.on
  rw [h.rd (by decide), h.rd (by decide)]

theorem State.Looked.on (h : s.Looked m t) {f : Field} (hf : f ≠ .spdAccMaster) (i j : Nat) : m.on f i j = s.on f i j := by
  rw [State.on, h.rd hf, State.on]

theorem State.Looked.signalVc (h : s.Looked m t) (u i target : Nat) : m.signalVc u i target = s.signalVc u i target := by
  simp only [State.signalVc, h.on (f := .tileEpPeerLocal) (by decide), h.on (f := .tileEpEn) (by decide), h.targetHere,
    h.rd (f := .tileEpPeerDevice) (by decide), h.rd (f := .tileEpPeerSem) (by decide), h.rd (f := .tileEpPeerTile) (by decide),
    h.rd (f := .tileEpVc) (by decide)]

/-- Without an enabled endpoint a signal goes on VC2 (R180). -/
theorem State.signalVc_plain {u : Nat} (h : ∀ e, e < 16 → s.on .tileEpEn u e = false) (i target : Nat) : s.signalVc u i target = 2 := by
  have none : (List.range 16).find? (fun e => s.on .tileEpEn u e && s.rd .tileEpPeerSem u e == i && s.rd .tileEpPeerTile u e == targetTile target &&
      (if s.on .tileEpPeerLocal u e then s.targetHere target else !bitOf target 35 && s.rd .tileEpPeerDevice u e == targetDev target)) = none :=
    List.find?_eq_none.2 fun e he => by simp [h e (List.mem_range.1 he)]
  unfold State.signalVc
  dsimp only
  rw [none]

/-- A packet that a fetched instruction sends joins the outbox, and the instruction retires. -/
theorem State.Fetches.sends (f : s.Fetches t op w) (p : Packet) :
    (((s.fetched t).send p).retire t).outbox = s.outbox ++ [p] ∧ s.Retired (((s.fetched t).send p).retire t) t 0 ((s.tile t).core.pc + 4) [] ∧
      s.Only (((s.fetched t).send p).retire t) [.regs, .tiles, .act, .outbox] := by
  have acted : s.Acted ((s.fetched t).send p) t [] [.outbox] :=
    ((s.acted_fetched t).mono (List.Subset.refl _) (List.nil_subset [Part.outbox])).step (State.only_send _ p) (.congr (.refl _ _) rfl rfl) (by simp)
  refine ⟨?_, acted.retires f (by simp)⟩
  rw [State.only_retirePlain _ t .outbox (by decide)]
  exact congrArg (· ++ [p]) ((s.looked_fetched t).only .outbox (by decide))

end

/-! ### The obligation -/

section
variable {s : State} {t : TileId} {w : CoreWord}

theorem State.xw_rd (s : State) (t rd v : Nat) (f : Field) (i j : Nat) : (s.xw t rd v).rd f i j = s.rd f i j := rfl

theorem State.Looked.semHas {m : State} (h : s.Looked m t) (u k a : Nat) : m.semHas u k a = s.semHas u k a := by simp only [State.semHas, h.sem]

/-- The SIGNAL packet of x for semaphore k of a target (R180). -/
def State.signalPacket (s : State) (t k x target vc : Nat) : Packet := s.tilePacket t
  { ty := 3, vc := vc, dstDev := targetDev target, dstTile := targetTile target, sem := k, addr := x % 2 ^ 32, onDie := bitOf target 35 }

theorem State.Fetches.semSigr_sends (h : s.Fetches t .semSigr w) (away : ¬ (s.targetHere (s.xr t w.rs2) = true ∧ targetTile (s.xr t w.rs2) = t)) :
    s.semSigr t = ((s.fetched t).send ((s.fetched t).signalPacket t (w.imm8 % 64) (s.xr t w.rs1) (s.xr t w.rs2)
      (s.signalVc t (w.imm8 % 64) (s.xr t w.rs2)))).retire t := by
  have looked := s.looked_fetched t
  rw [State.semSigr, h.coreRow, looked.xr, looked.xr, looked.signalVc, State.signal, looked.targetHere, if_neg (by simpa using away), State.signalPacket]

theorem State.Fetches.semWait (h : s.Fetches t .semWait w) : s.semWait t =
    if s.semHas t (w.imm8 % 64) (s.xr t w.rs1 % 2 ^ 32) then ((s.fetched t).semTake t (w.imm8 % 64) (s.xr t w.rs1 % 2 ^ 32)).retire t
    else (s.fetched t).park t (.sem (w.imm8 % 64) (s.xr t w.rs1 % 2 ^ 32)) := by
  unfold State.semWait
  rw [h.coreRow]
  simp only [(s.looked_fetched t).xr, (s.looked_fetched t).semHas]

theorem State.Fetches.semTry (h : s.Fetches t .semTry w) : s.semTry t =
    if s.semHas t (w.imm8 % 64) (s.xr t w.rs1) then (((s.fetched t).semTake t (w.imm8 % 64) (s.xr t w.rs1)).xw t w.rd 1).retire t
    else ((s.fetched t).xw t w.rd 0).retire t := by
  unfold State.semTry
  rw [h.coreRow]
  simp only [(s.looked_fetched t).xr, (s.looked_fetched t).semHas]

theorem State.semHas_iff {u k a : Nat} : s.semHas u k a = true ↔ a % 2 ^ 32 ≤ s.rd .tileSem u k := by simp [State.semHas]

/-- The semaphore of a fetched SEM.TRY, when it holds the amount: it is taken, and the answer is 1. -/
theorem State.Fetches.semTry_takes (h : s.Fetches t .semTry w) {k : Nat} (hk : k < 64) (small : s.rd .tileSem t k < 2 ^ 32) (x : Nat) :
    ((((s.fetched t).semTake t k x).xw t w.rd 1).retire t).xr t w.rd = (if w.rd = 0 then 0 else 1) ∧
      ((((s.fetched t).semTake t k x).xw t w.rd 1).retire t).rd .tileSem t k = s.rd .tileSem t k - x % 2 ^ 32 ∧
      s.Retired ((((s.fetched t).semTake t k x).xw t w.rd 1).retire t) t w.rd ((s.tile t).core.pc + 4) (semFields t k) ∧
      s.Only ((((s.fetched t).semTake t k x).xw t w.rd 1).retire t) [.regs, .tiles, .act] := by
  have looked := s.looked_fetched t
  have moved := (s.fetched t).semTake_moved t hk (by rwa [looked.sem]) x
  obtain ⟨value, retired, only⟩ := moved.acted.writes h (instr_notMem_semFields t k) w.rd 1
  refine ⟨value, ?_, retired, only⟩
  rw [(State.fieldsBut_retire _ t).rd (by simp), State.xw_rd, moved.sem, looked.sem]

/-- Settles O19: signals add or are sent, waits take or sleep, and tries and reads answer. -/
theorem semaphores : Obligations.Semaphores := by
  refine ⟨fun t w s k hk => ?_, fun t k a s waits active hk ha small => ⟨fun held => ⟨_, rfl, ?_⟩, fun early => ⟨_, rfl, ?_⟩⟩⟩
  · have inRange : k < 64 := hk ▸ Nat.mod_lt _ (by decide)
    have looked := s.looked_fetched t
    refine ⟨fun h => ⟨_, rfl, ?_⟩, fun h here own => ⟨_, rfl, ?_⟩, fun h away => ⟨_, rfl, ?_⟩, fun h small held => ⟨_, rfl, ?_⟩,
      fun h early => ⟨_, rfl, ?_⟩, fun h small => ⟨_, rfl, ?_⟩, fun h => ⟨_, rfl, ?_⟩⟩
    · have acts : s.semSig t = ((s.fetched t).semAdd t k (s.xr t w.rs1)).retire t := by rw [State.semSig, h.coreRow, looked.xr, hk]
      rw [acts]
      exact h.semAdd inRange _
    · have acts : s.semSigr t = ((s.fetched t).semAdd t k (s.xr t w.rs1)).retire t := by
        rw [State.semSigr, h.coreRow, looked.xr, looked.xr, ← hk, State.signal, looked.targetHere, here, own]
        simp
      rw [acts]
      exact h.semAdd inRange _
    · obtain ⟨outbox, retired, only⟩ := h.sends ((s.fetched t).signalPacket t k (s.xr t w.rs1) (s.xr t w.rs2) (s.signalVc t k (s.xr t w.rs2)))
      rw [h.semSigr_sends away, ← hk]
      exact ⟨⟨_, outbox, rfl, rfl, fun plain => State.signalVc_plain plain k _, rfl, rfl, rfl, rfl, rfl⟩, retired, only⟩
    · have acts : s.semWait t = ((s.fetched t).semTake t k (s.xr t w.rs1 % 2 ^ 32)).retire t := by
        rw [h.semWait, ← hk, if_pos (State.semHas_iff.2 (by rwa [Nat.mod_mod]))]
      obtain ⟨sem, -, retired, only⟩ := ((s.fetched t).semTake_moved t inRange (by rwa [looked.sem]) (s.xr t w.rs1 % 2 ^ 32)).retires h
      rw [acts]
      exact ⟨by rw [sem, looked.sem, Nat.mod_mod], retired, only⟩
    · have acts : s.semWait t = (s.fetched t).park t (.sem k (s.xr t w.rs1 % 2 ^ 32)) := by
        rw [h.semWait, ← hk, if_neg (mt State.semHas_iff.1 (by rw [Nat.mod_mod]; omega))]
      obtain ⟨core, -, -, tiles, fields, only⟩ := looked.park (.sem k (s.xr t w.rs1 % 2 ^ 32))
      rw [acts]
      exact ⟨core, tiles, fields, only⟩
    · by_cases held : s.xr t w.rs1 % 2 ^ 32 ≤ s.rd .tileSem t k
      · obtain ⟨value, sem, retired, only⟩ := h.semTry_takes inRange small (s.xr t w.rs1)
        rw [h.semTry, ← hk, if_pos (State.semHas_iff.2 held)]
        exact ⟨fun _ => ⟨value, sem⟩, fun short => absurd held short.not_ge, retired, only⟩
      · obtain ⟨value, retired, only⟩ := ((s.acted_fetched t).mono (List.nil_subset (semFields t k)) (List.Subset.refl _)).writes h
          (instr_notMem_semFields t k) w.rd 0
        rw [h.semTry, ← hk, if_neg (mt State.semHas_iff.1 held)]
        refine ⟨fun enough => absurd enough held, fun _ => ⟨by simpa using value, ?_⟩, retired, only⟩
        rw [(State.fieldsBut_retire _ t).rd (by simp), State.xw_rd, looked.sem]
    · have acts : s.semRd t = ((s.fetched t).xw t w.rd (s.rd .tileSem t k)).retire t := by rw [State.semRd, h.coreRow, looked.sem, hk]
      rw [acts]
      exact (s.acted_fetched t).writes h (by simp) w.rd _
  · have moved := s.semTake_moved t hk small a
    have acts : s.semWaitDone t = (s.semTake t k a).retire t := by
      simp only [State.semWaitDone, waits, active, Bool.true_and]
      rw [if_pos (State.semHas_iff.2 (by rwa [Nat.mod_eq_of_lt ha]))]
    rw [acts]
    refine ⟨?_, ?_, (moved.only.tilesBut (by decide) t).trans (State.tilesBut_retire _ t), ?_, ?_⟩
    · rw [(State.fieldsBut_retire _ t).rd (by simp), moved.sem, Nat.mod_eq_of_lt ha]
    · rw [State.tile_retire, moved.only.tile (by decide)]
    · exact .trans (moved.fields.mono fun _ hx => List.mem_cons_of_mem _ hx) ((State.fieldsBut_retire _ t).mono (by simp))
    · exact (moved.only.mono (by decide)).trans (State.only_retirePlain _ t)
  · have short : s.semHas t k a = false := by
      rw [State.semHas, Nat.mod_eq_of_lt ha]
      exact decide_eq_false early.not_ge
    simp [State.semWaitDone, waits, short]

end

end Sys2Proof.Machine
end

section
/-! SUPPORT. Reads and writes of spans of a bank whose other words may be in error (R216, R217). -/
namespace Sys2Proof.Machine

section
variable {s a : State} {t : Nat} {b : BankId} {off : Nat}

/-! ### Reads -/

theorem partLo_div (off i : Nat) : partLo off i / 8 = off / 8 + i := by
  unfold partLo
  omega

/-- No branch of the tile commits, if the bank is SB: no shadow line stands before its words. -/
def State.Steady (s : State) (t : Nat) (b : BankId) : Prop := b = .sb → ∀ i, (s.slot t i).mode ≠ .committing

theorem State.Steady.shadowByte (h : s.Steady t b) (o : Nat) : s.shadowByte t b o none = none := by
  unfold State.shadowByte
  split
  · next sb =>
    have hm : ∀ i, (sget {} i (s.tile t).slots).mode ≠ .committing := h sb
    simp [hm]
  · rfl

theorem State.Steady.shadowLine (h : s.Steady t b) (o : Nat) : (if b = .sb then (s.tile t).shadowLine o else none) = none := by
  split
  · next sb =>
    have hm : ∀ i, (sget {} i (s.tile t).slots).mode ≠ .committing := h sb
    simp [Tile.shadowLine, hm]
  · rfl

theorem State.Steady.of_tile (h : s.Steady t b) (same : (a.tile t).slots = (s.tile t).slots) : a.Steady t b :=
  fun sb i => by rw [State.slot, same]; exact h sb i

/-- Good words of a span are read as they stand, without an effect. -/
theorem State.Steady.spdRead (h : s.Steady t b) {n : Nat} (good : ∀ i, i < (off + n - 1) / 8 + 1 - off / 8 → s.mark (spdAddr t b (8 * (off / 8 + i))) = 0)
    (source : Nat) : s.spdRead t b source off n = (s, s.bytes (spdAddr t b off) n, false) := by
  have words : s.spdWordsRead t b source off n = (s, false) := by
    rw [State.spdWordsRead_eq]
    refine State.foldl_readPart_good (fun p hp => ?_) source false
    rcases Nat.eq_zero_or_pos n with rfl | size
    · simp [wordParts] at hp
    · rw [wordParts_eq size.ne'] at hp
      obtain ⟨i, hi, rfl⟩ := List.mem_map.1 hp
      rw [partLo_div]
      exact good i (List.mem_range.1 hi)
  simp only [State.spdRead, words, State.spdByte, h.shadowByte, Option.getD_none, State.bytes, spdAddr_add]

/-- A line's words: 64 bytes aligned to a word. -/
theorem State.Steady.spdRead_line (h : s.Steady t b) (aligned : off % 8 = 0) (good : ∀ i, i < 8 → s.mark (spdAddr t b off + 8 * i) = 0) (source : Nat) :
    s.spdRead t b source off 64 = (s, s.bytes (spdAddr t b off) 64, false) := by
  refine h.spdRead (fun i hi => ?_) source
  rw [show 8 * (off / 8 + i) = off + 8 * i by omega, spdAddr_add]
  exact good i (by omega)

theorem State.poisonWords_none (aligned : off % 8 = 0) (good : ∀ i, i < 8 → s.mark (spdAddr t b off + 8 * i) = 0) : s.poisonWords t b off 64 = [] := by
  refine List.filter_eq_nil_iff.2 fun i hi => ?_
  have here : spdAddr t b ((off / 8 + i) * 8) = spdAddr t b off + 8 * i := by
    rw [← spdAddr_add, show (off / 8 + i) * 8 = off + 8 * i by omega]
  rw [here, good i (List.mem_range.1 hi)]
  decide

/-! ### Writes -/

/-- From s to a only memory and marks may have been touched, no word has become bad, and the bytes are as c holds them. -/
structure State.Written (s c a : State) : Prop where
  only : s.Only a [.mem, .ecc]
  mark : ∀ k, a.mark k = s.mark k ∨ a.mark k = 0
  byte : ∀ k, a.byte k = c.byte k

/-- Eight bytes replace their word, and a merge into a good word stores the bytes. -/
theorem State.wordMerge_written (l : List Byte) (takes : s.mark (spdAddr t b (8 * (off / 8))) = 0 ∨ l.length = 8) :
    s.Written (s.setBytes (spdAddr t b off) l) (s.spdWordMerge t b (off / 8) (((List.range l.length).map (· + off % 8)).zip l)) := by
  have here : spdAddr t b (8 * (off / 8)) + off % 8 = spdAddr t b off := by rw [← spdAddr_add, Nat.div_add_mod]
  have stored := s.only_setBytes (spdAddr t b off) l
  simp only [State.spdWordMerge, State.foldl_setByte, here, List.length_zip, List.length_map, List.length_range, Nat.min_self]
  by_cases whole : l.length = 8
  · rw [if_pos whole]
    refine ⟨(stored.mono (by decide)).setMark (by decide) _ _, fun k => ?_, fun _ => rfl⟩
    by_cases e : k = spdAddr t b (8 * (off / 8))
    · exact .inr (by rw [e, State.mark_setMark_same])
    · exact .inl (by rw [State.mark_setMark_ne _ e, State.mark_setBytes])
  · have good := takes.resolve_right whole
    rw [if_neg whole, if_neg (by simp [good]), if_neg (by simp [good])]
    exact ⟨stored.mono (by decide), fun k => .inl (State.mark_setBytes _ _ _ _), fun _ => rfl⟩

/-- May the i-th word that a span touches be written: it is good, or wholly replaced (R216)? -/
def State.Takes (s : State) (t : Nat) (b : BankId) (off n i : Nat) : Prop :=
  s.mark (spdAddr t b (8 * (off / 8 + i))) = 0 ∨ partHi off n i - partLo off i = 8

theorem State.Takes.writePart {bs : List Byte} {i : Nat} (h : s.Takes t b off bs.length i) :
    s.Written (s.setBytes (spdAddr t b (partLo off i)) ((bs.drop (partLo off i - off)).take (partHi off bs.length i - partLo off i)))
      (s.writePart t b off bs i) := by
  have size : ((bs.drop (partLo off i - off)).take (partHi off bs.length i - partLo off i)).length = partHi off bs.length i - partLo off i := by
    simp only [List.length_take, List.length_drop, partLo, partHi]
    omega
  have merged := s.wordMerge_written (t := t) (b := b) (off := partLo off i) ((bs.drop (partLo off i - off)).take (partHi off bs.length i - partLo off i))
    (by rw [size, partLo_div]; exact h)
  rwa [size] at merged

/-- The first m words' parts of a span are written. -/
theorem State.written_parts {bs : List Byte} (m : Nat) (h : ∀ i, i < m → s.Takes t b off bs.length i) :
    s.Written (s.setBytes (spdAddr t b off) (bs.take (8 * (off / 8 + m) - off))) ((List.range m).foldl (fun s i => s.writePart t b off bs i) s) := by
  induction m with
  | zero =>
    have none : bs.take (8 * (off / 8 + 0) - off) = [] := by
      rw [show 8 * (off / 8 + 0) - off = 0 by omega, List.take_zero]
    exact ⟨.refl s _, fun _ => .inl rfl, fun k => by rw [none]; rfl⟩
  | succ m ih =>
    rw [List.range_succ, List.foldl_append, List.foldl_cons, List.foldl_nil]
    have before := ih fun i hi => h i (by omega)
    generalize (List.range m).foldl (fun s i => s.writePart t b off bs i) s = a at before
    have takes : a.Takes t b off bs.length m := (h m (by omega)).imp_left fun good => (before.mark _).elim (·.trans good) id
    have part := takes.writePart
    refine ⟨before.only.trans part.only, fun k => ?_, fun k => ?_⟩
    · rcases part.mark k with same | good
      · exact (before.mark k).imp same.trans same.trans
      · exact .inr good
    · rw [part.byte]
      by_cases outside : k < spdAddr t b off
      · have : k < spdAddr t b (partLo off m) := outside.trans_le (Nat.add_le_add_left (le_max_left _ _) _)
        simp only [State.byte_setBytes, before.byte, if_neg outside.not_ge, if_neg this.not_ge]
      · obtain ⟨i, rfl⟩ := Nat.exists_eq_add_of_le (Nat.le_of_not_lt outside)
        have later : spdAddr t b (partLo off m) = spdAddr t b off + (partLo off m - off) := by
          rw [← spdAddr_add, Nat.add_sub_cancel' (show off ≤ partLo off m from le_max_left _ _)]
        rw [later]
        exact byte_parts m i before.byte

theorem State.Written.steady (h : s.Written c a) (hs : s.Steady t b) : a.Steady t b := hs.of_tile (by rw [h.only.tile (by decide)])

/-- A write of a span whose words can all be written stores its bytes. -/
theorem State.Steady.spdWrite (hs : s.Steady t b) {bs : List Byte} (size : bs.length ≠ 0)
    (h : ∀ i, i < (off + bs.length - 1) / 8 + 1 - off / 8 → s.Takes t b off bs.length i) :
    s.Written (s.setBytes (spdAddr t b off) bs) (s.spdWrite t b off bs) := by
  have parts (m : Nat) (hm : ∀ i, i < m → s.Takes t b off bs.length i) :
      ((List.range m).map (fun i => (partLo off i, partHi off bs.length i - partLo off i))).foldl (fun s p =>
        match if b = .sb then (s.tile t).shadowLine p.1 else none with
        | some i => s.shadowPut t i p.1 (((bs.drop (p.1 - off)).take p.2).map some)
        | none => s.spdWordMerge t b (p.1 / 8) (((List.range p.2).map (· + p.1 % 8)).zip ((bs.drop (p.1 - off)).take p.2))) s =
      (List.range m).foldl (fun s i => s.writePart t b off bs i) s := by
    induction m with
    | zero => rfl
    | succ m ih =>
      have before := ih fun i hi => hm i (by omega)
      have steady := (s.written_parts m fun i hi => hm i (by omega)).steady hs
      rw [List.range_succ, List.map_append, List.foldl_append, List.foldl_append, before, List.map_singleton, List.foldl_cons, List.foldl_nil,
        List.foldl_cons, List.foldl_nil]
      simp only [steady.shadowLine]
      rfl
  have whole := s.written_parts _ h
  rw [List.take_of_length_le (by omega), ← parts _ h, ← wordParts_eq size] at whole
  exact whole

/-- A line of 64 bytes aligned to words replaces its words, whatever they hold. -/
theorem State.Steady.spdWrite_line (hs : s.Steady t b) {bs : List Byte} (size : bs.length = 64) (aligned : off % 8 = 0) :
    s.Written (s.setBytes (spdAddr t b off) bs) (s.spdWrite t b off bs) := by
  refine hs.spdWrite (by omega) fun i hi => .inr ?_
  rw [size] at hi ⊢
  unfold partHi partLo
  omega

/-- What a write of a span leaves: its bytes, and every other byte. -/
theorem State.Written.bytes {k : Nat} {bs : List Byte} (h : s.Written (s.setBytes k bs) a) :
    (∀ i, i < bs.length → a.byte (k + i) = bs.getD i 0#8) ∧ s.BytesBut a k bs.length := by
  refine ⟨fun i hi => ?_, fun j outside => ?_⟩
  · rw [h.byte, State.byte_setBytes, if_pos (by omega), Nat.add_sub_cancel_left, List.getD_eq_getElem?_getD, List.getElem?_eq_getElem hi]
    rfl
  · rw [h.byte, State.byte_setBytes]
    by_cases inside : k ≤ j
    · rw [if_pos inside, List.getElem?_eq_none (by omega)]
      rfl
    · rw [if_neg inside]

end

end Sys2Proof.Machine
end

section
/-! SUPPORT. A queue admits an entry (R178). -/
namespace Sys2Proof.Machine

section
variable {s a : State} {t : TileId} {b : BankId}

/-- The counter of a bank's granted accesses. -/
def accOf (master : Bool) : Field := if master then .spdAccMaster else .spdAccOther

theorem State.fieldsBut_bankCount (s : State) (t : TileId) (b : BankId) (master : Bool) (n : Nat) :
    s.FieldsBut (s.bankCount t b master n) [(accOf master, t.val, bankIdx b)] := by
  unfold State.bankCount
  refine .ite (.refl _ _) (.activity (.cnt (.refl _ _) ?_ n) _ _ _)
  simp [accOf, tile_mod, Nat.mod_eq_of_lt (bankIdx_lt b)]

theorem accOf_ne (master : Bool) {f : Field} (h1 : f ≠ .spdAccMaster) (h2 : f ≠ .spdAccOther) : f ≠ accOf master := by
  cases master
  · exact h2
  · exact h1

/-- From s to a queue q of tile t has admitted an entry. -/
structure State.Admitted (s a : State) (t q : Nat) (entry : List Byte) (master : Bool) : Prop where
  entry : ∀ i, i < 64 → a.byte (spdAddr t (qBank q) (s.qLine t q (s.rd .tileQTail (qInst t q))) + i) = entry.getD i 0#8
  bytes : s.BytesBut a (spdAddr t (qBank q) (s.qLine t q (s.rd .tileQTail (qInst t q)))) 64
  tail : a.rd .tileQTail (qInst t q) = qNext (s.qDepth t q) (s.rd .tileQTail (qInst t q)) % 2 ^ 9
  posts : a.rd .tileQPosts (qInst t q) = (s.rd .tileQPosts (qInst t q) + 1) % 2 ^ 64
  fields : s.FieldsBut a [(.tileQTail, qInst t q, 0), (.tileQPosts, qInst t q, 0), (accOf master, t, bankIdx (qBank q))]
  only : s.Only a [.regs, .act, .mem, .ecc]

/-- An entry without poison is admitted. -/
theorem State.qAdmit_admitted {q : Nat} (hq : q < 128) (steady : s.Steady t (qBank q)) {entry : List Byte} (size : entry.length = 64) (master : Bool) :
    s.Admitted (s.qAdmit t q entry [] master) t q entry master := by
  have counts := s.fieldsBut_bankCount t (qBank q) master 1
  have only := s.only_bankCount t (qBank q) master 1
  generalize counted : s.bankCount t (qBank q) master 1 = m at counts only
  have steadyM : m.Steady t (qBank q) := steady.of_tile (by rw [only.tile (by decide)])
  generalize line : s.qLine t q (s.rd .tileQTail (qInst t q)) = off
  have aligned : off % 8 = 0 := by
    rw [← line, State.qLine]
    omega
  have stored := steadyM.spdWrite_line size aligned
  have admits : s.qAdmit t q entry [] master = ((m.spdWrite t (qBank q) off entry).wr .tileQTail (qInst t q) 0
      (qNext (s.qDepth t q) (s.rd .tileQTail (qInst t q)))).cnt .tileQPosts (qInst t q) 0 1 := by
    simp only [← counted, ← line, State.qAdmit, List.foldl_nil]
  generalize m.spdWrite t (qBank q) off entry = x at stored admits
  have fieldsX : m.FieldsBut x [] := .congr (.refl _ _) (stored.only .regs (by decide)) (stored.only .variant (by decide))
  have postsX : x.rd .tileQPosts (qInst t q) = s.rd .tileQPosts (qInst t q) := by
    rw [fieldsX.rd (by simp), counts.rd (by simpa using accOf_ne master (by decide) (by decide))]
  have byte (k : Nat) : (s.qAdmit t q entry [] master).byte k = x.byte k := by
    rw [admits]
    rfl
  have before (k : Nat) : m.byte k = s.byte k := only.byte (by decide) k
  have bytes := stored.bytes
  rw [size] at bytes
  obtain ⟨inside, outside⟩ := bytes
  refine ⟨fun i hi => ?_, fun k hk => ?_, ?_, ?_, ?_, ?_⟩
  · rw [line, byte, inside i hi]
  · rw [line] at hk
    rw [byte, outside k hk, before]
  · rw [admits, State.rd_cnt_ne _ (by decide), State.rd_wr_same]
    rfl
  · rw [admits, State.rd_cnt_same, State.rd_wr_ne _ (by decide), postsX]
    rfl
  · rw [admits]
    refine .cnt (.wr (.trans (counts.mono (by simp)) (fieldsX.mono (by simp))) ?_ _) ?_ 1 <;> simp [qInst_mod t ⟨q, hq⟩]
  · rw [admits]
    exact (only.mono (by decide)).trans ((stored.only.mono (by decide)).trans
      (((State.only_wr _ _ _ _ _).mono (by decide)).trans ((State.only_cnt _ _ _ _ _).mono (by decide))))

end

end Sys2Proof.Machine
end

section
/-! PROOF. Posts to queues, posts that wait, and POP (R177 to R179). -/
namespace Sys2Proof.Machine

/-! ### A local post -/

section
variable {s m : State} {t : TileId} {q e : Nat}

/-- From s to a the entry at e in CB has been posted to queue q of the tile itself. -/
structure State.Posted (s a : State) (t q e : Nat) : Prop where
  entry : ∀ i, i < 64 → a.byte (spdAddr t (qBank q) (s.qLine t q (s.rd .tileQTail (qInst t q))) + i) = s.byte (spdAddr t .cb e + i)
  bytes : s.BytesBut a (spdAddr t (qBank q) (s.qLine t q (s.rd .tileQTail (qInst t q)))) 64
  tail : a.rd .tileQTail (qInst t q) = qNext (s.qDepth t q) (s.rd .tileQTail (qInst t q)) % 2 ^ 9
  posts : a.rd .tileQPosts (qInst t q) = (s.rd .tileQPosts (qInst t q) + 1) % 2 ^ 64
  fields : s.FieldsBut a [(.spdAccMaster, t, 3), (.tileQTail, qInst t q, 0), (.tileQPosts, qInst t q, 0), (.spdAccOther, t, 4)]
  only : s.Only a [.regs, .act, .mem, .ecc]

theorem State.postLocal_disabled (h : s.qEnabled t q = false) : s.postLocal t q e = (s.cnt .tileQDropDisabled (qInst t q) 0 1, 3) := by
  simp [State.postLocal, h]

theorem State.postLocal_full (enabled : s.qEnabled t q = true) (full : s.qOcc t q ≥ s.qDepth t q) : s.postLocal t q e = (s, 1) := by
  simp [State.postLocal, enabled, full]

/-- The grant of a queue's bank counts for CB's master, or for another unit of SB. -/
theorem accOf_qBank (t q : Nat) : (accOf (decide (q < 96)), t, bankIdx (qBank q)) = if q < 96 then (Field.spdAccMaster, t, 3) else (.spdAccOther, t, 4) := by
  by_cases h : q < 96 <;> simp [accOf, qBank, h, bankIdx]

/-- An entry of good words is posted to a queue with room. -/
theorem State.postLocal_posted (hq : q < 128) (enabled : s.qEnabled t q = true) (room : s.qOcc t q < s.qDepth t q) (aligned : e % 64 = 0)
    (good : ∀ i, i < 8 → s.mark (spdAddr t .cb e + 8 * i) = 0) (steady : ∀ i, (s.slot t i).mode ≠ .committing) :
    (s.postLocal t q e).2 = 0 ∧ s.Posted (s.postLocal t q e).1 t q e := by
  have read := State.Steady.spdRead_line (b := .cb) (fun sb => nomatch sb) (show e % 8 = 0 by omega) good 0
  have clean := State.poisonWords_none (b := .cb) (show e % 8 = 0 by omega) good
  have posts : s.postLocal t q e = ((s.bankCount t .cb true 1).qAdmit t q (s.bytes (spdAddr t .cb e) 64) [] (q < 96), 0) := by
    simp [State.postLocal, enabled, room.not_ge, read, clean]
  have counts := s.fieldsBut_bankCount t .cb true 1
  have only := s.only_bankCount t .cb true 1
  have same : s.SameQueues (s.bankCount t .cb true 1) := counts.sameQueues (by simp [queueFields, accOf])
  have steadyM : (s.bankCount t .cb true 1).Steady t (qBank q) := State.Steady.of_tile (fun _ => steady) (by rw [only.tile (by decide)])
  have admitted := State.qAdmit_admitted hq steadyM (entry := s.bytes (spdAddr t .cb e) 64) (by simp [State.bytes]) (decide (q < 96))
  obtain ⟨entry, bytes, tail, posted, fields, parts⟩ := admitted
  rw [same.qLine, same .tileQTail (by decide)] at entry bytes
  rw [same.qDepth, same .tileQTail (by decide)] at tail
  rw [counts.rd (by simp [accOf])] at posted
  rw [accOf_qBank] at fields
  rw [posts]
  refine ⟨rfl, fun i hi => ?_, fun k hk => (bytes k hk).trans (only.byte (by decide) k), tail, posted, .trans (counts.mono ?_) (fields.mono ?_),
    (only.mono (by decide)).trans parts⟩
  · rw [entry i hi]
    simp [State.bytes, hi]
  · simp [accOf, bankIdx]
  · split <;> simp

end

/-! ### POST and POST.NB -/

section
variable {s : State} {t : TileId} {w : CoreWord} {nb : Bool}

theorem State.Looked.bytes {m : State} (h : s.Looked m t) (k n : Nat) : m.bytes k n = s.bytes k n := by
  simp only [State.bytes, h.only.byte (l := [.regs, .tiles, .act]) (by decide)]

theorem State.Looked.sameQueues {m : State} (h : s.Looked m t) : s.SameQueues m := h.fields.sameQueues (by simp [queueFields])

theorem completes_post {P : State → Prop} (h : P (s.postOp t nb)) : Completes (if nb then .postNb t else .post t) s P := by
  cases nb <;> exact ⟨_, rfl, h⟩

theorem targetQueue_lt (target : Nat) : targetQueue target < 128 := bitsOf_lt _ _ _

section
variable (h : s.Fetches t (if nb then .postNb else .post) w) (inCb : s.xr t w.rs1 + 64 ≤ bankSize .cb) (aligned : s.xr t w.rs1 % 64 = 0)
include h inCb aligned

/-- A post to the tile's own queue. -/
theorem State.Fetches.post_local (here : s.targetHere (s.xr t w.rs2) = true ∧ targetTile (s.xr t w.rs2) = t)
    (clear : s.clearing t (qBank (targetQueue (s.xr t w.rs2))) = false) : s.postOp t nb =
      if ((s.fetched t).postLocal t (targetQueue (s.xr t w.rs2)) (s.xr t w.rs1)).2 = 1 ∧ !nb
      then (s.fetched t).park t (.post w.rd (s.xr t w.rs1) (s.xr t w.rs2))
      else (((s.fetched t).postLocal t (targetQueue (s.xr t w.rs2)) (s.xr t w.rs1)).1.xw t w.rd
        ((s.fetched t).postLocal t (targetQueue (s.xr t w.rs2)) (s.xr t w.rs1)).2).retire t := by
  have looked := s.looked_fetched t
  obtain ⟨device, tile⟩ := here
  unfold State.postOp
  rw [h.coreRow]
  simp only [looked.xr, inCb.not_gt, aligned, if_false, looked.targetHere, device, tile, BEq.rfl, Bool.and_self, if_true, State.clearing, looked.bank, ne_eq,
    not_true_eq_false]
  rw [State.clearing] at clear
  rw [clear]
  simp

/-- A post to another tile. -/
theorem State.Fetches.post_remote (away : ¬ (s.targetHere (s.xr t w.rs2) = true ∧ targetTile (s.xr t w.rs2) = t)) :
    s.postOp t nb = (((s.fetched t).postRemote t (s.xr t w.rs1) (s.xr t w.rs2)).xw t w.rd 2).retire t := by
  have looked := s.looked_fetched t
  unfold State.postOp
  rw [h.coreRow]
  simp only [looked.xr, inCb.not_gt, aligned, if_false, looked.targetHere, ne_eq, not_true_eq_false]
  rw [if_neg (by simpa using away)]

end

/-- The POST packet of an entry (R177). -/
def State.postPacket (s : State) (t : Nat) (payload : List Byte) (target : Nat) : Packet := s.tilePacket t
  { ty := 2, vc := 2, dstDev := targetDev target, dstTile := targetTile target, dstQueue := targetQueue target, len := 64, payload := payload,
    poison := [], onDie := bitOf target 35 }

/-- An entry of good words goes out as it stands. -/
theorem State.postRemote_sends {e : Nat} (aligned : e % 64 = 0) (good : ∀ i, i < 8 → s.mark (spdAddr t .cb e + 8 * i) = 0) (target : Nat) :
    s.postRemote t e target = (s.bankCount t .cb true 1).send (s.postPacket t (s.bytes (spdAddr t .cb e) 64) target) := by
  have read := State.Steady.spdRead_line (b := .cb) (fun sb => nomatch sb) (show e % 8 = 0 by omega) good 0
  have clean := State.poisonWords_none (b := .cb) (show e % 8 = 0 by omega) good
  simp only [State.postRemote, read, clean, State.postPacket]

/-- Settles O17: where the entry goes, and what the core is told. -/
theorem posts : Obligations.Posts := by
  intro nb t w s h inCb aligned good q hq here line
  have looked := s.looked_fetched t
  have hq' : q < 128 := hq ▸ targetQueue_lt _
  have same := looked.sameQueues
  have goodM : ∀ i, i < 8 → (s.fetched t).mark (spdAddr t .cb (s.xr t w.rs1) + 8 * i) = 0 := fun i hi => (looked.only.mark (by decide) _).trans (good i hi)
  refine ⟨fun own clear enabled room steady => completes_post ?_, fun own clear enabled full => ⟨fun hn => ?_, fun hn => ?_⟩,
    fun own clear disabled => completes_post ?_, fun away => completes_post ?_⟩
  · obtain ⟨code, posted⟩ := State.postLocal_posted hq' ((same.qEnabled _ _).trans enabled) (by rwa [same.qOcc, same.qDepth]) aligned goodM
      (fun i => by rw [looked.slot]; exact steady i)
    have acts := h.post_local inCb aligned own (hq ▸ clear)
    rw [← hq, code, if_neg (by simp)] at acts
    have acted : s.Acted ((s.fetched t).postLocal t q (s.xr t w.rs1)).1 t
        [(.tileQTail, qInst t q, 0), (.tileQPosts, qInst t q, 0), (.spdAccOther, t, 4)] [.mem, .ecc] :=
      ((s.acted_fetched t).mono (List.nil_subset _) (List.nil_subset _)).step posted.only posted.fields (by decide)
    obtain ⟨value, retired, only⟩ := acted.writes h (by simp) w.rd 0
    rw [acts]
    have after := State.only_retire ((s.fetched t).postLocal t q (s.xr t w.rs1)).1 t w.rd 0
      ((((((s.fetched t).postLocal t q (s.xr t w.rs1)).1).xw t w.rd 0).tile t).core.pc + 4)
    refine ⟨by simpa using value, fun i hi => ?_, fun k hk => ?_, ?_, ?_, retired, only⟩
    · refine (after.byte (by decide) _).trans ?_
      have entry := posted.entry i hi
      rw [same.qLine, same .tileQTail (by decide)] at entry
      exact entry.trans (looked.only.byte (by decide) _)
    · refine (after.byte (by decide) _).trans ?_
      have outside := posted.bytes k
      rw [same.qLine, same .tileQTail (by decide)] at outside
      exact (outside hk).trans (looked.only.byte (by decide) _)
    · rw [(State.fieldsBut_retire _ t).rd (by simp), State.xw_rd, posted.tail, same.qDepth, same .tileQTail (by decide)]
    · rw [(State.fieldsBut_retire _ t).rd (by simp), State.xw_rd, posted.posts, looked.rd (by decide)]
  · have fills := State.postLocal_full (e := s.xr t w.rs1) ((same.qEnabled t q).trans enabled) (by rwa [same.qOcc, same.qDepth])
    have acts := h.post_local inCb aligned own (hq ▸ clear)
    rw [← hq, fills, if_neg (by simp [hn])] at acts
    subst hn
    refine ⟨_, rfl, ?_⟩
    rw [acts]
    exact (s.acted_fetched t).writes h (by simp) w.rd 1
  · have fills := State.postLocal_full (e := s.xr t w.rs1) ((same.qEnabled t q).trans enabled) (by rwa [same.qOcc, same.qDepth])
    have acts := h.post_local inCb aligned own (hq ▸ clear)
    rw [← hq, fills, if_pos (by simp [hn])] at acts
    subst hn
    obtain ⟨core, -, -, tiles, fields, only⟩ := looked.park (.post w.rd (s.xr t w.rs1) (s.xr t w.rs2))
    refine ⟨_, rfl, ?_⟩
    rw [acts]
    exact ⟨core, tiles, fields, only⟩
  · have drops := State.postLocal_disabled (e := s.xr t w.rs1) ((same.qEnabled t q).trans disabled)
    have acts := h.post_local inCb aligned own (hq ▸ clear)
    rw [← hq, drops, if_neg (by simp)] at acts
    have acted : s.Acted ((s.fetched t).cnt .tileQDropDisabled (qInst t q) 0 1) t [(.tileQDropDisabled, qInst t q, 0)] [] :=
      ((s.acted_fetched t).mono (List.nil_subset _) (List.nil_subset _)).step (State.only_cnt _ _ _ _ _)
        (.cnt (.refl _ _) (by simp [qInst_mod t ⟨q, hq'⟩]) 1) (by decide)
    obtain ⟨value, retired, only⟩ := acted.writes h (by simp) w.rd 3
    rw [acts]
    refine ⟨value, ?_, retired, only⟩
    rw [(State.fieldsBut_retire _ t).rd (by simp), State.xw_rd, State.rd_cnt_same, looked.rd (by decide)]
    rfl
  · have acted : s.Acted ((s.fetched t).postRemote t (s.xr t w.rs1) (s.xr t w.rs2)) t [] [.outbox] := by
      rw [State.postRemote_sends aligned goodM]
      refine ((s.acted_fetched t).mono (List.nil_subset _) (List.nil_subset _)).step
        (((State.only_bankCount _ _ _ _ _).mono (l' := [.regs, .act, .outbox]) (by decide)).trans ((State.only_send _ _).mono (by decide))) ?_ (by decide)
      exact .congr (State.fieldsBut_bankCount _ t .cb true 1) rfl rfl
    obtain ⟨value, retired, only⟩ := acted.writes h (by simp) w.rd 2
    have sent : ((s.fetched t).postRemote t (s.xr t w.rs1) (s.xr t w.rs2)).outbox =
        s.outbox ++ [(s.fetched t).postPacket t (s.bytes (spdAddr t .cb (s.xr t w.rs1)) 64) (s.xr t w.rs2)] := by
      rw [State.postRemote_sends aligned goodM, looked.bytes]
      have before : ((s.fetched t).bankCount t .cb true 1).outbox = s.outbox :=
        (State.only_bankCount _ _ _ _ _ .outbox (by decide)).trans (looked.only .outbox (by decide))
      exact congrArg (· ++ _) before
    rw [h.post_remote inCb aligned away]
    refine ⟨value, ⟨_, (State.only_retire _ t w.rd 2 _ .outbox (by decide)).trans sent, rfl, rfl, rfl, hq.symm, rfl, rfl, ?_, rfl, rfl⟩, retired, only⟩
    exact looked.rd (by decide) _ _

end

end Sys2Proof.Machine
end

section
/-! PROOF. A post that waits, and POP (R177, R179). -/
namespace Sys2Proof.Machine

/-! ### A post that waits -/

section
variable {s a : State} {t : TileId} {q rd entry target : Nat}

/-- A post that waits is tried again where no bank is being cleared. -/
theorem State.postUnblock_eq (active : (s.tile t).active = true) (waits : (s.tile t).core.wait = .post rd entry target) (clear : s.clearing t .cb = false)
    (open_ : s.clearing t (qBank (targetQueue target)) = false) : s.postUnblock t =
      if (s.postLocal t (targetQueue target) entry).2 = 1 then s
      else ((s.postLocal t (targetQueue target) entry).1.xw t rd (s.postLocal t (targetQueue target) entry).2).retire t := by
  simp [State.postUnblock, waits, active, clear, open_]

/-- The core of a post that no longer waits. -/
theorem State.goesOn (same : a.tile t = s.tile t) (rd v : Nat) :
    ((a.xw t rd v).retire t).xr t rd = (if rd = 0 then 0 else v % 2 ^ 64) ∧ (((a.xw t rd v).retire t).tile t).core.wait = .running ∧
      (((a.xw t rd v).retire t).tile t).core.pc = ((s.tile t).core.pc + 4) % 2 ^ 32 := by
  have pc : ((a.tile t).core.set rd v).pc = (s.tile t).core.pc := by
    rw [same, Core.set]
    split <;> rfl
  refine ⟨State.xr_xw_retireTo _ _ _ _ _, by rw [State.tile_retire], ?_⟩
  rw [State.tile_retire, State.xw, State.onCore, State.tile_onTile_same, pc]

end

/-! ### POP -/

section
variable {s : State} {t : TileId} {w : CoreWord}

/-- The head entry of a queue, moved to an offset of CB (R179). -/
def State.headMoved (s : State) (t q d : Nat) : State :=
  ((s.bankCount t .cb true 2).spdWrite t .cb d (s.bytes (spdAddr t .cb (s.qLine t q (s.rd .tileQHead (qInst t q)))) 64)).qDropHead t q

theorem State.Fetches.pop_empty (h : s.Fetches t .pop w) (empty : s.qEnabled t (w.imm8 % 64) = false ∨ s.qOcc t (w.imm8 % 64) = 0) :
    s.popOp t = ((s.fetched t).xw t w.rd 0).retire t := by
  have same := (s.looked_fetched t).sameQueues
  unfold State.popOp
  rw [h.coreRow]
  simp only [same.qEnabled, same.qOcc]
  rw [if_pos]
  rcases empty with e | e <;> simp [e]

theorem State.Fetches.pop_moves (h : s.Fetches t .pop w) (enabled : s.qEnabled t (w.imm8 % 64) = true) (some : s.qOcc t (w.imm8 % 64) ≠ 0)
    (inCb : s.xr t w.rs1 + 64 ≤ bankSize .cb)
    (good : ∀ i, i < 8 → s.mark (spdAddr t .cb (s.qLine t (w.imm8 % 64) (s.rd .tileQHead (qInst t (w.imm8 % 64)))) + 8 * i) = 0) :
    s.popOp t = (((s.fetched t).headMoved t (w.imm8 % 64) (s.xr t w.rs1)).xw t w.rd 1).retire t := by
  have looked := s.looked_fetched t
  have same := looked.sameQueues
  have line : (s.fetched t).qLine t (w.imm8 % 64) ((s.fetched t).rd .tileQHead (qInst t (w.imm8 % 64))) % 8 = 0 := by
    unfold State.qLine
    omega
  have goodM : ∀ i, i < 8 → (s.fetched t).mark (spdAddr t .cb ((s.fetched t).qLine t (w.imm8 % 64)
      ((s.fetched t).rd .tileQHead (qInst t (w.imm8 % 64)))) + 8 * i) = 0 := fun i hi => by
    rw [looked.only.mark (by decide), same.qLine, same .tileQHead (by decide)]
    exact good i hi
  have read := State.Steady.spdRead_line (b := .cb) (fun sb => nomatch sb) line goodM 0
  have clean := State.poisonWords_none (b := .cb) line goodM
  unfold State.popOp
  rw [h.coreRow]
  simp only [same.qEnabled, same.qOcc, enabled, some, looked.xr, inCb.not_gt, read, clean, List.foldl_nil, Bool.not_true, decide_false, Bool.or_false,
    Bool.false_eq_true, if_false]
  rfl

/-- What the move leaves. -/
structure State.HeadMoved (s a : State) (t q d : Nat) : Prop where
  bytes : ∀ i, i < 64 → a.byte (spdAddr t .cb d + i) = s.byte (spdAddr t .cb (s.qLine t q (s.rd .tileQHead (qInst t q))) + i)
  rest : s.BytesBut a (spdAddr t .cb d) 64
  head : a.rd .tileQHead (qInst t q) = qNext (s.qDepth t q) (s.rd .tileQHead (qInst t q)) % 2 ^ 9
  fields : s.FieldsBut a [(.spdAccMaster, t, 3), (.tileQHead, qInst t q, 0)]
  only : s.Only a [.regs, .act, .mem, .ecc]

theorem State.headMoved_moved {q : Nat} (hq : q < 128) {d : Nat} (good : ∀ i, i < 9 → s.mark (spdAddr t .cb (d / 8 * 8) + 8 * i) = 0) :
    s.HeadMoved (s.headMoved t q d) t q d := by
  have counts := s.fieldsBut_bankCount t .cb true 2
  have only := s.only_bankCount t .cb true 2
  have same : s.SameQueues (s.bankCount t .cb true 2) := counts.sameQueues (by simp [queueFields, accOf])
  have size : (s.bytes (spdAddr t .cb (s.qLine t q (s.rd .tileQHead (qInst t q)))) 64).length = 64 := by simp [State.bytes]
  have stored := State.Steady.spdWrite (s := s.bankCount t .cb true 2) (b := .cb) (t := t) (off := d) (fun sb => nomatch sb) (by rw [size]; decide)
    (bs := s.bytes (spdAddr t .cb (s.qLine t q (s.rd .tileQHead (qInst t q)))) 64) fun i hi => .inl (by
      rw [size] at hi
      rw [only.mark (by decide), show 8 * (d / 8 + i) = d / 8 * 8 + 8 * i by omega, spdAddr_add]
      exact good i (by omega))
  have fieldsX : (s.bankCount t .cb true 2).FieldsBut _ [] := .congr (.refl _ _) (stored.only .regs (by decide)) (stored.only .variant (by decide))
  have sameX := fieldsX.sameQueues (by simp)
  have bytes := stored.bytes
  rw [size] at bytes
  obtain ⟨inside, outside⟩ := bytes
  refine ⟨fun i hi => (inside i hi).trans ?_, fun k hk => (outside k hk).trans (only.byte (by decide) k), ?_, ?_, ?_⟩
  · simp [State.bytes, hi]
  · rw [State.headMoved, State.qDropHead, State.rd_wr_same, sameX.qDepth, sameX .tileQHead (by decide), same.qDepth, same .tileQHead (by decide)]
    rfl
  · refine .wr (.trans (counts.mono (by simp [accOf, bankIdx])) (fieldsX.mono (by simp))) ?_ _
    simp [qInst_mod t ⟨q, hq⟩]
  · exact (only.mono (by decide)).trans ((stored.only.mono (by decide)).trans ((State.only_wr _ _ _ _ _).mono (by decide)))

/-- Settles O18: a post goes on when its queue has room or is disabled, and POP moves the head entry. -/
theorem queueWaitAndPop : Obligations.QueueWaitAndPop := by
  refine ⟨fun t rd entry target q s active waits hq clear open_ => ?_, fun t w s q h hq => ?_⟩
  · intro line
    have hq' : q < 128 := hq ▸ targetQueue_lt _
    have acts := State.postUnblock_eq active waits clear (hq ▸ open_)
    rw [← hq] at acts
    refine ⟨fun enabled full => ⟨_, rfl, ?_⟩, fun enabled room aligned good steady => ⟨_, rfl, ?_⟩, fun disabled => ⟨_, rfl, ?_⟩⟩
    · rw [acts, State.postLocal_full enabled full, if_pos rfl]
    · obtain ⟨code, posted⟩ := State.postLocal_posted hq' enabled room aligned good steady
      rw [acts, code, if_neg (by simp)]
      obtain ⟨value, wait, pc⟩ := State.goesOn (s := s) (posted.only.tile (by decide) t) rd 0
      have after := State.only_retire (s.postLocal t q entry).1 t rd 0 ((((s.postLocal t q entry).1.xw t rd 0).tile t).core.pc + 4)
      refine ⟨by simpa using value, wait, pc, ?_, ?_, fun i hi => (after.byte (by decide) _).trans (posted.entry i hi),
        fun k hk => (after.byte (by decide) _).trans (posted.bytes k hk), ?_, ?_, ?_⟩
      · rw [(State.fieldsBut_retire _ t).rd (by simp), State.xw_rd, posted.tail]
      · rw [(State.fieldsBut_retire _ t).rd (by simp), State.xw_rd, posted.posts]
      · exact (posted.only.tilesBut (by decide) t).trans ((State.tilesBut_onTile _ t _).trans (State.tilesBut_retire _ t))
      · exact .trans (.congr (posted.fields.mono (by simp)) rfl rfl) ((State.fieldsBut_retire _ t).mono (by simp))
      · exact (posted.only.mono (by decide)).trans (after.mono (by decide))
    · have drops := State.postLocal_disabled (e := entry) disabled
      have acts : s.postUnblock t = ((s.cnt .tileQDropDisabled (qInst t q) 0 1).xw t rd 3).retire t := by
        rw [acts, drops]
        exact if_neg (show (3 : Nat) ≠ 1 by decide)
      rw [acts]
      have only := State.only_cnt s .tileQDropDisabled (qInst t q) 0 1
      obtain ⟨value, wait, pc⟩ := State.goesOn (s := s) (only.tile (by decide) t) rd 3
      refine ⟨value, wait, pc, ?_, ?_, ?_, ?_⟩
      · rw [(State.fieldsBut_retire _ t).rd (by simp), State.xw_rd, State.rd_cnt_same]
        rfl
      · exact (only.tilesBut (by decide) t).trans ((State.tilesBut_onTile _ t _).trans (State.tilesBut_retire _ t))
      · have counted : s.FieldsBut (s.cnt .tileQDropDisabled (qInst t q) 0 1) [(.tileQDropDisabled, qInst t q, 0)] :=
          .cnt (.refl s _) (by simp [qInst_mod t ⟨q, hq'⟩]) 1
        have written : s.FieldsBut ((s.cnt .tileQDropDisabled (qInst t q) 0 1).xw t rd 3) [(.tileQDropDisabled, qInst t q, 0)] := .congr counted rfl rfl
        exact .trans (written.mono (by simp)) ((State.fieldsBut_retire _ t).mono (by simp))
      · exact (only.mono (by decide)).trans ((State.only_retire _ t rd 3 _).mono (by decide))
  · refine ⟨fun empty => ⟨_, rfl, ?_⟩, fun enabled some inCb good goodHead => ⟨_, rfl, ?_⟩⟩
    · obtain ⟨value, retired, only⟩ := (s.acted_fetched t).writes h (by simp) w.rd 0
      rw [h.pop_empty (hq ▸ empty)]
      exact ⟨by simpa using value, retired, only⟩
    · have looked := s.looked_fetched t
      have same := looked.sameQueues
      have popped := State.headMoved_moved (s := s.fetched t) (t := t) (q := q) (by omega) (d := s.xr t w.rs1)
        (fun i hi => (looked.only.mark (by decide) _).trans (good i hi))
      have acted : s.Acted ((s.fetched t).headMoved t q (s.xr t w.rs1)) t [(.tileQHead, qInst t q, 0)] [.mem, .ecc] :=
        ((s.acted_fetched t).mono (List.nil_subset _) (List.nil_subset _)).step popped.only popped.fields (by decide)
      obtain ⟨value, retired, only⟩ := acted.writes h (by simp) w.rd 1
      have after := State.only_retire ((s.fetched t).headMoved t q (s.xr t w.rs1)) t w.rd 1
        ((((((s.fetched t).headMoved t q (s.xr t w.rs1))).xw t w.rd 1).tile t).core.pc + 4)
      rw [h.pop_moves (hq ▸ enabled) (hq ▸ some) inCb (hq ▸ goodHead), ← hq]
      refine ⟨value, fun i hi => (after.byte (by decide) _).trans ((popped.bytes i hi).trans ?_),
        fun k hk => (after.byte (by decide) _).trans ((popped.rest k hk).trans (looked.only.byte (by decide) k)), ?_, retired, only⟩
      · rw [looked.only.byte (by decide), same.qLine, same .tileQHead (by decide)]
      · rw [(State.fieldsBut_retire _ t).rd (by simp), State.xw_rd, popped.head, same.qDepth, same .tileQHead (by decide)]

end

end Sys2Proof.Machine
end

section
/-! SUPPORT. What a completed vector instruction enters: counts, flags, numeric health and its error record (R87, R90, R188, R189). -/
namespace Sys2Proof.Machine

section
variable (s : State) (t reason word : Nat)

/-! ### The error record -/

/-- The fields that the record of a VE error may write. -/
def veErrFields : List Field := .veErrInfoReason :: .veErrWord :: .veErrInfoValid :: .rasResetSuppress :: eventNames

theorem State.frame_veErr : s.Frame (s.applyHeld t (.veErr reason word)) [.regs, .ras, .ic, .adit] veErrFields := by
  have told : s.Frame (s.reportTile 1 t (0x200 + reason) word) [.regs, .ras, .ic, .adit] veErrFields :=
    .mono (s.frame_reportTile 1 t (0x200 + reason) word)
  exact .ite told ((((told.wr t 0 _).wr t 0 _).wr t 0 1).after (State.frame_irq _ t))

/-- While VALID is 0 the reason and the word are recorded. -/
theorem State.veErr_recorded (empty : s.rd .veErrInfoValid t = 0) :
    (s.applyHeld t (.veErr reason word)).rd .veErrInfoValid t = 1 ∧ (s.applyHeld t (.veErr reason word)).rd .veErrInfoReason t = reason % 256 ∧
      (s.applyHeld t (.veErr reason word)).rd .veErrWord t = word % 2 ^ 64 := by
  have told := s.frame_reportTile 1 t (0x200 + reason) word
  have records : s.applyHeld t (.veErr reason word) = ((((s.reportTile 1 t (0x200 + reason) word).wr .veErrInfoReason t 0 reason).wr
      .veErrWord t 0 word).wr .veErrInfoValid t 0 1).irq t :=
    if_neg (by simp [State.on, told.rd .veErrInfoValid t 0 (by decide), empty])
  have after (a : State) {f : Field} (hf : f ∉ eventNames) : (a.irq t).rd f t = a.rd f t := (a.frame_irq t).rd f t 0 hf
  rw [records]
  refine ⟨?_, ?_, ?_⟩
  · rw [after _ (by decide), State.rd_wr_same]
    rfl
  · rw [after _ (by decide), State.rd_wr_ne _ (by decide), State.rd_wr_ne _ (by decide), State.rd_wr_same]
    rfl
  · rw [after _ (by decide), State.rd_wr_ne _ (by decide), State.rd_wr_same]
    rfl

/-! ### An illegal instruction -/

/-- An untagged illegal instruction completes: counted, recorded, its completion signalled. -/
def State.veRefused (s : State) (t reason word : Nat) : State :=
  (((s.cnt .veIllegal t 0 1).applyHeld t (.veErr reason word)).cnt .veDone t 0 1).applyHeld t (.event 1)

theorem State.testBit_event (b : Nat) : ((s.applyHeld t (.event b)).tile t).core.ev0.testBit b = true := by
  rw [show (s.applyHeld t (.event b)).tile t = _ from s.tile_onTile_same t _, Nat.testBit_or, Nat.testBit_two_pow_self, Bool.or_true]

theorem State.rd_event (b : Nat) (f : Field) (i j : Nat) : (s.applyHeld t (.event b)).rd f i j = s.rd f i j := s.rd_onTile t _ f i j

/-- The completion of an illegal instruction. -/
theorem State.veRefused_spec : ((s.veRefused t reason word).tile t).ve = (s.tile t).ve ∧ ((s.veRefused t reason word).tile t).core.ev0.testBit 1 = true ∧
    (s.veRefused t reason word).rd .veIllegal t = (s.rd .veIllegal t + 1) % 2 ^ 64 ∧
    (s.veRefused t reason word).rd .veDone t = (s.rd .veDone t + 1) % 2 ^ 64 ∧
    (s.rd .veErrInfoValid t = 0 → (s.veRefused t reason word).rd .veErrInfoValid t = 1 ∧ (s.veRefused t reason word).rd .veErrInfoReason t = reason % 256 ∧
      (s.veRefused t reason word).rd .veErrWord t = word % 2 ^ 64) ∧
    s.TilesBut (s.veRefused t reason word) t ∧ (∀ k, (s.veRefused t reason word).byte k = s.byte k) := by
  have frame := (s.cnt .veIllegal t 0 1).frame_veErr t reason word
  have only : s.Only (((s.cnt .veIllegal t 0 1).applyHeld t (.veErr reason word)).cnt .veDone t 0 1) [.regs, .ras, .ic, .adit] :=
    (((State.only_cnt _ _ _ _ _).mono (by decide)).trans frame.only).trans ((State.only_cnt _ _ _ _ _).mono (by decide))
  unfold State.veRefused
  refine ⟨?_, State.testBit_event _ _ _, ?_, ?_, fun empty => ?_, ?_, fun k => ?_⟩
  · rw [show (State.applyHeld _ t (.event 1)).tile t = _ from State.tile_onTile_same _ t _, only.tile (by decide)]
  · rw [State.rd_event, State.rd_cnt_ne _ (by decide), frame.rd _ _ _ (by decide), State.rd_cnt_same]
    rfl
  · rw [State.rd_event, State.rd_cnt_same, frame.rd _ _ _ (by decide), State.rd_cnt_ne _ (by decide)]
    rfl
  · simp only [State.rd_event]
    rw [State.rd_cnt_ne _ (by decide), State.rd_cnt_ne _ (by decide), State.rd_cnt_ne _ (by decide)]
    exact State.veErr_recorded _ t reason word (by rw [State.rd_cnt_ne _ (by decide), empty])
  · exact (only.tilesBut (by decide) t).trans (State.tilesBut_onTile _ t _)
  · exact ((State.only_event _ t 1).byte (by decide) k).trans (only.byte (by decide) k)

end

/-! ### Counts -/

section
variable {s : State} {t : Nat}

/-- Untagged work that counts n. -/
theorem State.rd_effCnt (s : State) (t : Nat) (f : Field) {sub n : Nat} (hs : sub < 4096) (hn : 0 < n) :
    (s.effCnt t none f sub n).rd f t sub = (s.rd f t sub + n) % 2 ^ f.info.width := by
  rw [s.effCnt_now t f n hs, if_neg hn.ne', State.rd_cnt_same]

theorem State.Frame.countNow {a : State} {ps : List Part} {fs : List Field} (h : s.Frame a ps fs) (u : Nat) {f : Field} {sub : Nat} (n : Nat) (hs : sub < 4096)
    (hp : Part.regs ∈ ps := by decide) (hf : f ∈ fs := by decide) : s.Frame (a.effCnt u none f sub n) ps fs := by
  rw [a.effCnt_now u f n hs]
  exact h.ite (h.cnt u sub n hp hf)

/-! ### Flags -/

/-- The fields of the VE's flags, flag k at place k (R87). -/
def veFlagFields : List Field := [.veFlagsOvf, .veFlagsUnf, .veFlagsInx, .veFlagsInv, .veFlagsFlushed]

theorem State.frame_foldl_wr {l : List (Field × Nat)} {fs : List Field} (h : ∀ p ∈ l, p.1 ∈ fs) :
    s.Frame (l.foldl (fun s p => s.wr p.1 t 0 1) s) [.regs] fs := by
  induction l generalizing s with
  | nil => exact .refl _ _ _
  | cons p l ih =>
    have first : s.Frame (s.wr p.1 t 0 1) [.regs] fs := (State.Frame.refl s _ _).wr t 0 1 (by decide) (h p (by simp))
    exact first.after (ih fun x hx => h x (by simp [hx])) (List.Subset.refl _) (List.Subset.refl _)

/-- A field that a list of writes of 1 names, and whose width holds it, is 1. -/
theorem State.rd_foldl_wr {l : List (Field × Nat)} {f : Field} (h : f ∈ l.map Prod.fst) (wide : 1 % 2 ^ f.info.width = 1) :
    (l.foldl (fun s p => s.wr p.1 t 0 1) s).rd f t = 1 := by
  induction l generalizing s with
  | nil => simp at h
  | cons p l ih =>
    by_cases later : f ∈ l.map Prod.fst
    · exact ih later
    · obtain rfl : f = p.1 := by simpa [later] using h
      have kept := (State.frame_foldl_wr (s := s.wr p.1 t 0 1) (t := t) (l := l) fun x hx => List.mem_map_of_mem (f := Prod.fst) hx).rd p.1 t 0 later
      rw [List.foldl_cons, kept, State.rd_wr_same, wide]

theorem State.frame_veFlags (bits : Nat) : s.Frame (s.setFlags .ve t bits) [.regs] veFlagFields :=
  State.frame_foldl_wr fun p hp => by
    have named : ∀ p ∈ NumEngine.ve.flagFields.zip [4, 3, 2, 1, 0], p.1 ∈ veFlagFields := by decide
    exact named p (List.mem_filter.1 hp).1

/-- Each flag that an instruction raises is set. -/
theorem State.rd_veFlags {bits k : Nat} (hk : k < 5) (raised : bits.testBit k = true) : (s.setFlags .ve t bits).rd (veFlagFields.getD k .veFlagsOvf) t = 1 := by
  have bit : bitOf bits k = true := raised
  have named : (veFlagFields.getD k .veFlagsOvf, k) ∈ NumEngine.ve.flagFields.zip [4, 3, 2, 1, 0] := by
    interval_cases k <;> decide
  exact State.rd_foldl_wr (List.mem_map.2 ⟨_, List.mem_filter.2 ⟨named, bit⟩, rfl⟩) (by interval_cases k <;> decide)

/-! ### Numeric health -/

def healthFields : List Field := [.tileNhTotal, .tileNhOvf, .tileNhVanish, .tileNhNan]

theorem healthField_mem (n : Nat) : healthField n ∈ healthFields := by
  unfold healthField
  split <;> decide

theorem healthField_width (n : Nat) : (healthField n).info.width = 64 := by
  unfold healthField
  split <;> rfl

theorem healthField_inj {m n : Nat} (hm : m < 4) (hn : n < 4) (h : healthField m = healthField n) : m = n := by
  have all : ∀ m < 4, ∀ n < 4, healthField m = healthField n → m = n := by decide
  exact all m hm n hn h

/-- The counts of numeric health that a list enters (R90). -/
def State.healthEntered (s : State) (t : Nat) (l : List (Nat × Nat)) : State :=
  l.foldl (fun s k => s.effCnt t none (healthField (k.1 % 4)) (k.1 / 4) k.2) s

theorem State.frame_health {l : List (Nat × Nat)} (h : ∀ e ∈ l, e.1 / 4 < 4096) : s.Frame (s.healthEntered t l) [.regs] healthFields := by
  induction l generalizing s with
  | nil => exact .refl _ _ _
  | cons e l ih =>
    have first : s.Frame (s.effCnt t none (healthField (e.1 % 4)) (e.1 / 4) e.2) [.regs] healthFields :=
      (State.Frame.refl s _ _).countNow t e.2 (h e (by simp)) (by decide) (healthField_mem _)
    exact first.after (ih fun x hx => h x (by simp [hx])) (List.Subset.refl _) (List.Subset.refl _)

/-- What a list counts for a key. -/
def healthOf (l : List (Nat × Nat)) (key : Nat) : Nat := ((l.filter (fun e => e.1 == key)).map (·.2)).sum

theorem healthOf_cons (e : Nat × Nat) (l : List (Nat × Nat)) (key : Nat) : healthOf (e :: l) key = (if e.1 = key then e.2 else 0) + healthOf l key := by
  by_cases same : e.1 = key <;> simp [healthOf, same]

/-- Entering an item counts for its own key only. -/
theorem State.rd_effCnt_health (s : State) (t key : Nat) {e : Nat × Nat} (he : e.1 / 4 < 4096) (hk : key / 4 < 4096) :
    (s.effCnt t none (healthField (e.1 % 4)) (e.1 / 4) e.2).rd (healthField (key % 4)) t (key / 4) =
      if e.1 = key ∧ 0 < e.2 then (s.rd (healthField (key % 4)) t (key / 4) + e.2) % 2 ^ 64 else s.rd (healthField (key % 4)) t (key / 4) := by
  by_cases none : e.2 = 0
  · rw [s.effCnt_now t _ _ he, if_pos none, if_neg (by omega)]
  rw [s.effCnt_now t _ _ he, if_neg none]
  by_cases same : e.1 = key
  · rw [if_pos ⟨same, by omega⟩, same, State.rd_cnt_same, healthField_width]
  · rw [if_neg fun both => same both.1]
    by_cases field : e.1 % 4 = key % 4
    · rw [field]
      exact State.rd_wr_sub _ (by omega) _ _ _
    · exact State.rd_cnt_ne _ (fun h => field (healthField_inj (Nat.mod_lt _ (by decide)) (Nat.mod_lt _ (by decide)) h.symm)) _ _ _ _ _

theorem State.rd_health {l : List (Nat × Nat)} (h : ∀ e ∈ l, e.1 / 4 < 4096) {key : Nat} (hk : key / 4 < 4096) :
    (s.healthEntered t l).rd (healthField (key % 4)) t (key / 4) =
      if healthOf l key = 0 then s.rd (healthField (key % 4)) t (key / 4) else (s.rd (healthField (key % 4)) t (key / 4) + healthOf l key) % 2 ^ 64 := by
  induction l generalizing s with
  | nil => rfl
  | cons e l ih =>
    have later := ih (s := s.effCnt t none (healthField (e.1 % 4)) (e.1 / 4) e.2) fun x hx => h x (by simp [hx])
    rw [s.rd_effCnt_health t key (h e (by simp)) hk] at later
    rw [State.healthEntered, List.foldl_cons]
    refine later.trans ?_
    rw [healthOf_cons]
    grind

end

end Sys2Proof.Machine
end

section
/-! PROOF. A vector instruction completes (R188, R189). -/
namespace Sys2Proof.Machine

/-! ### What a result enters -/

section
variable (s : State) (t : Nat) (n : VeFin)

def veCountFields : List Field := [.veInstr, .vePasses, .veElems, .vePermOor]

/-- A completed instruction counts (R188). -/
def State.veCounted (s : State) (t : Nat) (n : VeFin) : State :=
  (((s.effCnt t none .veInstr 0 1).effCnt t none .vePasses 0 n.passes).effCnt t none .veElems (veFields n.ins.word).s.code
    (min n.ins.n (n.passes * (veFields n.ins.word).lanes))).effCnt t none .vePermOor 0 n.permOor

/-- Its flags and health counts are entered (R87, R90). -/
def State.veEntered (s : State) (t : Nat) (n : VeFin) : State :=
  (if n.flags = 0 then s.veCounted t n else (s.veCounted t n).setFlags .ve t n.flags).healthEntered t n.health

theorem State.frame_veCounted : s.Frame (s.veCounted t n) [.regs] veCountFields :=
  ((((State.Frame.refl s _ _).countNow t 1 (by decide)).countNow t n.passes (by decide)).countNow t _ (Fmt.code_lt _)).countNow t n.permOor (by decide)

theorem State.rd_veCounted : (s.veCounted t n).rd .veInstr t = (s.rd .veInstr t + 1) % 2 ^ 64 ∧
    (0 < n.passes → (s.veCounted t n).rd .vePasses t = (s.rd .vePasses t + n.passes) % 2 ^ 64) ∧
    (0 < min n.ins.n (n.passes * (veFields n.ins.word).lanes) → (s.veCounted t n).rd .veElems t (veFields n.ins.word).s.code =
      (s.rd .veElems t (veFields n.ins.word).s.code + min n.ins.n (n.passes * (veFields n.ins.word).lanes)) % 2 ^ 64) ∧
    (0 < n.permOor → (s.veCounted t n).rd .vePermOor t = (s.rd .vePermOor t + n.permOor) % 2 ^ 64) := by
  have elems := Fmt.code_lt (veFields n.ins.word).s
  have other (a : State) {f g : Field} (hg : g ≠ f) {sub : Nat} (hs : sub < 4096) (m j : Nat) : (a.effCnt t none f sub m).rd g t j = a.rd g t j :=
    ((State.Frame.refl a [.regs] [f]).countNow t m hs (hf := by simp)).rd g t j (by simpa using hg)
  unfold State.veCounted
  refine ⟨?_, fun hn => ?_, fun hn => ?_, fun hn => ?_⟩
  · rw [other _ (by decide) (by decide), other _ (by decide) elems, other _ (by decide) (by decide), State.rd_effCnt _ _ _ (by decide) (by decide)]
    rfl
  · rw [other _ (by decide) (by decide), other _ (by decide) elems, State.rd_effCnt _ _ _ (by decide) hn, other _ (by decide) (by decide)]
    rfl
  · rw [other _ (by decide) (by decide), State.rd_effCnt _ _ _ elems hn, other _ (by decide) (by decide), other _ (by decide) (by decide)]
    rfl
  · rw [State.rd_effCnt _ _ _ (by decide) hn, other _ (by decide) elems, other _ (by decide) (by decide), other _ (by decide) (by decide)]
    rfl

theorem State.frame_veFlagged : (s.veCounted t n).Frame (if n.flags = 0 then s.veCounted t n else (s.veCounted t n).setFlags .ve t n.flags) [.regs]
    veFlagFields := .ite (.refl _ _ _) (State.frame_veFlags _)

variable {n} (inRange : ∀ e ∈ n.health, e.1 / 4 < 4096)
include inRange

/-- The fields in which an untagged result is entered. -/
def veResultFields : List Field := veCountFields ++ healthFields ++ veFlagFields

theorem State.frame_veEntered : s.Frame (s.veEntered t n) [.regs] veResultFields :=
  (((s.frame_veCounted t n).mono (fs := veResultFields) (by decide) (by decide)).after (s.frame_veFlagged t n)).after (State.frame_health inRange)

theorem State.rd_veEntered_count {f : Field} (hf : f ∈ veCountFields) (j : Nat) : (s.veEntered t n).rd f t j = (s.veCounted t n).rd f t j := by
  have kept : ∀ f ∈ veCountFields, f ∉ healthFields ∧ f ∉ veFlagFields := by decide
  obtain ⟨health, flags⟩ := kept f hf
  exact ((State.frame_health inRange).rd f t j health).trans ((s.frame_veFlagged t n).rd f t j flags)

theorem State.rd_veEntered_flag {k : Nat} (hk : k < 5) (raised : n.flags.testBit k = true) :
    (s.veEntered t n).rd (veFlagFields.getD k .veFlagsOvf) t = 1 := by
  have kept : veFlagFields.getD k .veFlagsOvf ∉ healthFields := by interval_cases k <;> decide
  have some : n.flags ≠ 0 := by
    rintro none
    simp [none] at raised
  refine ((State.frame_health inRange).rd _ t 0 kept).trans ?_
  rw [if_neg some]
  exact State.rd_veFlags hk raised

theorem State.rd_veEntered_health {key : Nat} (some : 0 < healthOf n.health key) : (s.veEntered t n).rd (healthField (key % 4)) t (key / 4) =
    (s.rd (healthField (key % 4)) t (key / 4) + healthOf n.health key) % 2 ^ 64 := by
  have hk : key / 4 < 4096 := by
    by_contra large
    have none : n.health.filter (fun e => e.1 == key) = [] := List.filter_eq_nil_iff.2 fun e he same => by
      have small := inRange e he
      have : e.1 = key := by simpa using same
      omega
    simp [healthOf, none] at some
  have kept : ∀ f ∈ healthFields, f ∉ veFlagFields ∧ f ∉ veCountFields := by decide
  obtain ⟨flags, counts⟩ := kept _ (healthField_mem (key % 4))
  rw [State.veEntered, State.rd_health inRange hk, if_neg some.ne', (s.frame_veFlagged t n).rd _ _ _ flags, (s.frame_veCounted t n).rd _ _ _ counts]

end

/-! ### The completion -/

section
variable {s : State} {t : TileId} {n : VeFin} {rest : List VeFin}

/-- The oldest instruction has left. -/
def State.veLeft (s : State) (t : Nat) (rest : List VeFin) : State := s.onTile t (fun x => { x with ve := { x.ve with fins := rest } })

/-- What a result enters, with what an operand's error adds. -/
def State.veResult (s : State) (t : Nat) (n : VeFin) : State :=
  if n.reason = 0 then s.veEntered t n else ((s.veEntered t n).cnt .veAbort t 0 1).applyHeld t (.veErr n.reason n.ins.word)

section
variable (active : (s.tile t).active = true) (fins : (s.tile t).ve.fins = n :: rest) (untagged : n.ins.slot = none)
include active fins untagged

theorem State.veComplete_result (legal : n.reason = 0 ∨ n.reason = 0x10) :
    s.veComplete t = (((s.veLeft t rest).veResult t n).cnt .veDone t 0 1).applyHeld t (.event 1) := by
  have reason : ¬ (n.reason ≠ 0 ∧ n.reason ≠ 16) := by omega
  simp only [State.veComplete, fins, active, untagged, State.cancelled, Bool.not_true, Bool.false_eq_true, or_self, if_false, reason, State.tagOver,
    State.effCnt_one _ _ _ (show 0 < 4096 by decide), State.eff]
  rfl

theorem State.veComplete_refused (illegal : n.reason ≠ 0 ∧ n.reason ≠ 0x10) : s.veComplete t = (s.veLeft t rest).veRefused t n.reason n.ins.word := by
  simp only [State.veComplete, fins, active, untagged, State.cancelled, Bool.not_true, Bool.false_eq_true, or_self, if_false, State.tagOver,
    State.effCnt_one _ _ _ (show 0 < 4096 by decide), State.eff]
  rw [if_pos illegal]
  rfl

end

theorem State.frame_veResult (inRange : ∀ e ∈ n.health, e.1 / 4 < 4096) :
    s.Frame (s.veResult t n) [.regs, .ras, .ic, .adit] (.veAbort :: veErrFields ++ veResultFields) := by
  have entered := (s.frame_veEntered t inRange).mono (ps := [.regs, .ras, .ic, .adit]) (fs := .veAbort :: veErrFields ++ veResultFields)
  exact .ite entered ((entered.cnt t 0 1).after (State.frame_veErr _ _ _ _))

/-- A result's own fields are as they were entered. -/
theorem State.rd_veResult {f : Field} (hf : f ∈ veResultFields) (j : Nat) : (s.veResult t n).rd f t j = (s.veEntered t n).rd f t j := by
  have kept : ∀ f ∈ veResultFields, f ∉ veErrFields ∧ f ≠ .veAbort := by decide
  obtain ⟨err, abort⟩ := kept f hf
  unfold State.veResult
  split
  · rfl
  · rw [(State.frame_veErr _ _ _ _).rd _ _ _ err, State.rd_cnt_ne _ abort]

/-- An operand's error counts VE_ABORT, and is recorded while VALID is 0 (R189). -/
theorem State.veResult_abort (inRange : ∀ e ∈ n.health, e.1 / 4 < 4096) (error : n.reason = 0x10) :
    (s.veResult t n).rd .veAbort t = (s.rd .veAbort t + 1) % 2 ^ 64 ∧
      (s.rd .veErrInfoValid t = 0 → (s.veResult t n).rd .veErrInfoValid t = 1 ∧ (s.veResult t n).rd .veErrInfoReason t = 0x10 ∧
        (s.veResult t n).rd .veErrWord t = n.ins.word % 2 ^ 64) := by
  have entered := s.frame_veEntered t inRange
  rw [State.veResult, if_neg (by omega), error]
  refine ⟨?_, fun empty => State.veErr_recorded _ t 0x10 _ ?_⟩
  · rw [(State.frame_veErr _ _ _ _).rd _ _ _ (by decide), State.rd_cnt_same, entered.rd _ _ _ (by decide)]
    rfl
  · rw [State.rd_cnt_ne _ (by decide), entered.rd _ _ _ (by decide), empty]

theorem health_foldl_eq (l : List (Nat × Nat)) (key : Nat) :
    ((l.filter (fun e => e.1 == key)).map (·.2)).foldl (· + ·) 0 = healthOf l key := List.sum_eq_foldl.symm

/-- An illegal instruction has left the engine, by a change g of the tile, and is refused. -/
theorem State.veRefused_left (s : State) (t reason word : Nat) (g : Tile → Tile) : let a := (s.onTile t g).veRefused t reason word
    (a.tile t).ve = (g (s.tile t)).ve ∧ (a.tile t).core.ev0.testBit 1 = true ∧ a.rd .veIllegal t = (s.rd .veIllegal t + 1) % 2 ^ 64 ∧
      a.rd .veDone t = (s.rd .veDone t + 1) % 2 ^ 64 ∧
      (s.rd .veErrInfoValid t = 0 → a.rd .veErrInfoValid t = 1 ∧ a.rd .veErrInfoReason t = reason % 256 ∧ a.rd .veErrWord t = word % 2 ^ 64) ∧
      s.TilesBut a t ∧ (∀ k, a.byte k = s.byte k) := by
  have left (f : Field) : (s.onTile t g).rd f t = s.rd f t := s.rd_onTile t _ f t 0
  obtain ⟨ve, event, illegal, done, record, tiles, bytes⟩ := (s.onTile t g).veRefused_spec t reason word
  rw [left] at illegal done record
  rw [State.tile_onTile_same] at ve
  exact ⟨ve, event, illegal, done, record, (s.tilesBut_onTile t g).trans tiles, bytes⟩

/-- What a completion's own fields read, once VE_DONE has counted and the event unit is signalled. -/
theorem State.rd_completed (a : State) (t : Nat) {f : Field} (hf : f ≠ .veDone) (i j : Nat) :
    ((a.cnt .veDone t 0 1).applyHeld t (.event 1)).rd f i j = a.rd f i j := by rw [State.rd_event, State.rd_cnt_ne _ hf]

/-- An undefined head of the queue is refused. -/
theorem State.veComplete_undefined {i : VeInstr} {queued : List VeInstr} (active : (s.tile t).active = true) (fins : (s.tile t).ve.fins = [])
    (queue : (s.tile t).ve.queue = i :: queued) (untagged : i.slot = none) (undefined : (veFields i.word).op = none) :
    s.veComplete t = (s.veTake t).veRefused t 1 i.word := by
  simp only [State.veComplete, fins, queue, active, undefined, untagged, Bool.not_true, Bool.false_eq_true, Option.isSome_none, or_self, if_false, State.tagOver,
    State.effCnt_one _ _ _ (show 0 < 4096 by decide), State.eff]
  rfl

/-- Settles O27: what completes, by its reason, and an undefined head of the queue. -/
theorem vectorCompletion : Obligations.VectorCompletion := by
  refine ⟨fun t s n rest active fins untagged => ⟨fun legal inRange => ⟨_, rfl, ?_⟩, fun h0 h1 => ⟨_, rfl, ?_⟩⟩,
    fun t s i rest active fins queue untagged undefined => ⟨_, rfl, ?_⟩⟩
  · have frame := State.frame_veResult (s := s.veLeft t rest) (t := t) inRange
    have left (f : Field) (j : Nat) : (s.veLeft t rest).rd f t j = s.rd f t j := s.rd_onTile t _ f t j
    have only : ((s.veLeft t rest)).Only (((s.veLeft t rest).veResult t n).cnt .veDone t 0 1) [.regs, .ras, .ic, .adit] :=
      frame.only.trans ((State.only_cnt _ _ _ _ _).mono (by decide))
    obtain ⟨instr, passes, elems, permOor⟩ := (s.veLeft t rest).rd_veCounted t n
    have counted {f : Field} (hf : f ∈ veCountFields) (j : Nat) : ((((s.veLeft t rest).veResult t n).cnt .veDone t 0 1).applyHeld t (.event 1)).rd f t j =
        ((s.veLeft t rest).veCounted t n).rd f t j := by
      have kept : ∀ f ∈ veCountFields, f ≠ .veDone ∧ f ∈ veResultFields := by decide
      rw [State.rd_completed _ _ (kept f hf).1, State.rd_veResult (kept f hf).2, State.rd_veEntered_count _ _ inRange hf]
    rw [State.veComplete_result active fins untagged legal]
    refine ⟨?_, State.testBit_event _ _ _, ?_, ?_, fun hn => ?_, fun hn => ?_, fun hn => ?_, fun k hk raised => ?_, fun key hn => ?_, fun error => ?_,
      ?_, fun k => ?_, fun none => ⟨?_, fun g i j other => ?_⟩⟩
    · rw [show (State.applyHeld _ t (.event 1)).tile t = _ from State.tile_onTile_same _ t _, only.tile (by decide), State.veLeft, State.tile_onTile_same]
    · rw [State.rd_event, State.rd_cnt_same, frame.rd _ _ _ (by decide), left]
      rfl
    · rw [counted (by decide), instr, left]
    · rw [counted (by decide), passes hn, left]
    · rw [counted (by decide), elems hn, left]
    · rw [counted (by decide), permOor hn, left]
    · have kept : veFlagFields.getD k .veFlagsOvf ≠ .veDone ∧ veFlagFields.getD k .veFlagsOvf ∈ veResultFields := by interval_cases k <;> decide
      refine (State.rd_completed _ _ kept.1 _ _).trans ?_
      rw [State.rd_veResult kept.2, State.rd_veEntered_flag _ _ inRange hk raised]
    · dsimp only at hn ⊢
      rw [health_foldl_eq] at hn ⊢
      have kept : ∀ f ∈ healthFields, f ≠ .veDone ∧ f ∈ veResultFields := by decide
      obtain ⟨done, result⟩ := kept _ (healthField_mem (key % 4))
      rw [State.rd_completed _ _ done, State.rd_veResult result, State.rd_veEntered_health _ _ inRange hn, left]
    · obtain ⟨abort, record⟩ := State.veResult_abort (s := s.veLeft t rest) (t := t) inRange error
      rw [left] at abort record
      simp only [State.rd_completed _ _ (show Field.veAbort ≠ .veDone by decide), State.rd_completed _ _ (show Field.veErrInfoValid ≠ .veDone by decide),
        State.rd_completed _ _ (show Field.veErrInfoReason ≠ .veDone by decide), State.rd_completed _ _ (show Field.veErrWord ≠ .veDone by decide)]
      exact ⟨abort, record⟩
    · exact ((s.tilesBut_onTile t _).trans (only.tilesBut (by decide) t)).trans (State.tilesBut_onTile _ t _)
    · exact ((State.only_event _ t 1).byte (by decide) k).trans ((only.byte (by decide) k).trans ((s.only_onTile t _).byte (by decide) k))
    · have entered := ((s.veLeft t rest).frame_veEntered t inRange).only
      rw [State.veResult, if_pos none]
      exact ((s.only_onTile t _).mono (by decide)).trans ((entered.mono (by decide)).trans
        (((State.only_cnt _ _ _ _ _).mono (by decide)).trans ((State.only_event _ t 1).mono (by decide))))
    · have entered := (s.veLeft t rest).frame_veEntered t inRange
      have kept : g ∉ veResultFields ∧ g ≠ .veDone := by
        simp only [List.mem_append, List.mem_cons, List.not_mem_nil, or_false, not_or] at other
        simp only [veResultFields, veCountFields, healthFields, veFlagFields, List.mem_append, List.mem_cons, List.not_mem_nil, or_false, not_or]
        tauto
      rw [State.rd_completed _ _ kept.2, State.veResult, if_pos none, entered.rd _ _ _ kept.1]
      exact s.rd_onTile t _ g i j
  · rw [State.veComplete_refused active fins untagged ⟨h0, h1⟩]
    exact s.veRefused_left t n.reason n.ins.word _
  · have refused := s.veRefused_left t 1 i.word (fun x => { x with ve := { x.ve with queue := x.ve.queue.tail } })
    simp only [queue, List.tail_cons] at refused
    rw [State.veComplete_undefined active fins queue untagged undefined]
    exact refused

end

end Sys2Proof.Machine
end

section
/-! SUPPORT. Layouts of the vector engine's results, and its reads and writes of good banks (R67 to R70, R183, R187). -/
namespace Sys2Proof.Machine

/-! ### Spans of bytes -/

/-- The spans follow one another, none of them empty, within n bytes from d. -/
structure Spans (l : List (Nat × List Byte)) (d n : Nat) : Prop where
  filled : ∀ p ∈ l, p.2 ≠ []
  within : ∀ p ∈ l, d ≤ p.1 ∧ p.1 + p.2.length ≤ d + n
  apart : l.Pairwise (fun p q => p.1 + p.2.length ≤ q.1)

theorem Spans.nil (d n : Nat) : Spans [] d n := ⟨by simp, by simp, .nil⟩

theorem Spans.single {d n : Nat} {bs : List Byte} (filled : bs ≠ []) (fits : bs.length ≤ n) : Spans [(d, bs)] d n :=
  ⟨by simpa using filled, by simpa using fits, by simp⟩

/-- The spans after the first lie behind it. -/
theorem Spans.tail {p : Nat × List Byte} {l : List (Nat × List Byte)} {d n : Nat} (h : Spans (p :: l) d n) :
    Spans l (p.1 + p.2.length) (d + n - (p.1 + p.2.length)) := by
  obtain ⟨filled, within, apart⟩ := h
  obtain ⟨behind, apart⟩ := List.pairwise_cons.1 apart
  refine ⟨fun q hq => filled q (by simp [hq]), fun q hq => ⟨behind q hq, ?_⟩, apart⟩
  have fits := (within q (by simp [hq])).2
  have after := behind q hq
  omega

/-! ### Places in the tile -/

/-- The offsets that lie in a bank (R48). -/
theorem bankAt_eq_some {o : Nat} {b : BankId} : bankAt o = some b ↔ bankBase b ≤ o ∧ o < bankBase b + bankSize b := by
  unfold bankAt
  cases b <;> simp only [bankBase, bankSize] <;> split_ifs <;> simp <;> omega

theorem bankAt_within {d n o : Nat} {b : BankId} (h : bankAt d = some b) (fits : d + n ≤ bankBase b + bankSize b) (lo : d ≤ o) (hi : o < d + n) :
    bankAt o = some b := by
  rw [bankAt_eq_some] at h ⊢
  omega

theorem spdAddr_stride {t o : Nat} {b : BankId} (h : bankAt o = some b) : spdAddr t b (o - bankBase b) = t * 0x800000 + o := by
  have base := bankBase_le h
  unfold spdAddr
  omega

/-! ### Writes -/

section
variable {s : State} {t : Nat} {b : BankId}

/-- Spans of a good bank are written. -/
structure State.SpansWritten (s a : State) (t : Nat) (l : List (Nat × List Byte)) (d n : Nat) : Prop where
  only : s.Only a [.mem, .ecc]
  mark : ∀ k, a.mark k = s.mark k
  stored : ∀ p ∈ l, ∀ j, j < p.2.length → a.byte (t * 0x800000 + p.1 + j) = p.2.getD j 0#8
  rest : s.BytesBut a (t * 0x800000 + d) n

theorem State.Clean.engineWrite (h : s.Clean t b) {o : Nat} (place : bankAt o = some b) {bs : List Byte} (filled : bs ≠ []) :
    s.StoredAs (s.setBytes (t * 0x800000 + o) bs) (s.engineWrite t none o bs) := by
  have stored := h.spdWrite (o - bankBase b) filled
  rw [spdAddr_stride place] at stored
  simpa only [State.engineWrite, place] using stored

theorem State.Clean.engineWrites (h : s.Clean t b) {l : List (Nat × List Byte)} {d n : Nat} (spans : Spans l d n)
    (place : ∀ o, d ≤ o → o < d + n → bankAt o = some b) :
    s.SpansWritten (l.foldl (fun s p => s.engineWrite t none p.1 p.2) s) t l d n := by
  induction l generalizing s d n with
  | nil => exact ⟨.refl _ _, fun _ => rfl, by simp, fun _ _ => rfl⟩
  | cons p l ih =>
    obtain ⟨lo, hi⟩ := spans.within p (by simp)
    have filled := spans.filled p (by simp)
    have size := List.length_pos_of_ne_nil filled
    have stored := h.engineWrite (place p.1 lo (by omega)) filled
    have later := ih (stored.clean h) spans.tail fun o lo' hi' => place o (by omega) (by omega)
    refine ⟨stored.only.trans later.only, fun k => (later.mark k).trans (stored.mark k), fun q hq j hj => ?_, fun k hk => ?_⟩
    · rcases List.mem_cons.1 hq with rfl | hq
      · refine (later.rest _ (by omega)).trans ?_
        rw [stored.byte, State.byte_setBytes, if_pos (by omega), Nat.add_sub_cancel_left, List.getD_eq_getElem?_getD, List.getElem?_eq_getElem hj]
        rfl
      · exact later.stored q hq j hj
    · refine (later.rest k (by omega)).trans ?_
      rw [stored.byte, State.byte_setBytes]
      by_cases inside : t * 0x800000 + p.1 ≤ k
      · rw [if_pos inside, List.getElem?_eq_none (by omega)]
        rfl
      · rw [if_neg inside]

end

/-! ### Counts of accesses -/

/-- The fields in which the VE's accesses count: VB's own master, and the other banks' other units (R187, R214). -/
def veAccFields (t : Nat) : List (Field × Nat × Nat) :=
  [(.spdAccMaster, t, 2), (.spdAccOther, t, 0), (.spdAccOther, t, 1), (.spdAccOther, t, 2), (.spdAccOther, t, 3), (.spdAccOther, t, 4)]

/-- From s to a only accesses of the VE have been counted. -/
structure State.VeCounted (s a : State) (t : Nat) : Prop where
  fields : s.FieldsBut a (veAccFields t)
  only : s.Only a [.regs, .act]

section
variable {s a c : State} {t : TileId}

theorem State.VeCounted.refl (s : State) (t : Nat) : s.VeCounted s t := ⟨.refl _ _, .refl _ _⟩

theorem State.VeCounted.trans (h : s.VeCounted a t) (h' : a.VeCounted c t) : s.VeCounted c t := ⟨h.fields.trans h'.fields, h.only.trans h'.only⟩

theorem State.VeCounted.clean {b : BankId} (h : s.VeCounted a t) (hc : s.Clean t b) : a.Clean t b :=
  hc.of_same (fun _ => h.only.mark (by decide) _) fun i => by rw [State.slot, h.only.tile (by decide), State.slot]

theorem State.veCounted_bankCount (s : State) (t : TileId) (b : BankId) (n : Nat) : s.VeCounted (s.bankCount t b (decide (b = .vb)) n) t := by
  refine ⟨(s.fieldsBut_bankCount t b (decide (b = .vb)) n).mono ?_, s.only_bankCount t b _ n⟩
  cases b <;> simp [accOf, bankIdx, veAccFields]

theorem State.effBankCount_now (s : State) (t : Nat) (b : BankId) (master : Bool) (n : Nat) : s.effBankCount t none b master n = s.bankCount t b master n := by
  unfold State.effBankCount State.bankCount
  rw [s.effCnt_now t _ n (bankIdx_lt b)]
  split <;> rfl

/-- Extents of good banks are read: they count, and none is poisoned. -/
theorem State.veReads_good (clean : ∀ b, s.Clean t b) (l : List (Nat × Nat)) : s.VeCounted (s.veReads t none l).1 t ∧ (s.veReads t none l).2 = false := by
  unfold State.veReads
  induction l generalizing s with
  | nil => exact ⟨.refl s t, rfl⟩
  | cons e l ih =>
    have first : s.veAccess t none e = (s.bankCount t (strideBank e.1).1 (decide ((strideBank e.1).1 = .vb)) (linesOf (strideBank e.1).2 e.2), false) := by
      simp only [State.veAccess, (clean (strideBank e.1).1).wordsRead, State.effBankCount_now]
    have counted := s.veCounted_bankCount t (strideBank e.1).1 (linesOf (strideBank e.1).2 e.2)
    obtain ⟨later, good⟩ := ih fun b => counted.clean (clean b)
    rw [List.foldl_cons, first]
    exact ⟨counted.trans later, good⟩

/-- The writing of spans counts. -/
theorem State.veCounted_parts (s : State) (t : TileId) (l : List (Nat × List Byte)) : s.VeCounted
    (l.foldl (fun s p => let q := strideBank p.1; s.bankCount t q.1 (q.1 = .vb) (linesOf q.2 p.2.length)) s) t := by
  induction l generalizing s with
  | nil => exact .refl s t
  | cons p l ih => exact (s.veCounted_bankCount t _ _).trans (ih _)

end

/-! ### Layouts -/

/-- Elements of a format take whole bytes of its stored width. -/
theorem elemBytes_eq (f : Fmt) (n : Nat) : elemBytes f n = ceilDiv ((elemBitPos f 0).2 * n) 8 := by
  cases f <;> simp only [elemBytes, elemBitPos, Fmt.width, ceilDiv] <;> omega

theorem elemBytes_mono (f : Fmt) {m n : Nat} (h : m ≤ n) : elemBytes f m ≤ elemBytes f n := by
  rw [elemBytes_eq, elemBytes_eq]
  have wider := Nat.mul_le_mul_left (elemBitPos f 0).2 h
  unfold ceilDiv
  omega

theorem elemBytes_pos (f : Fmt) {n : Nat} (h : 0 < n) : 0 < elemBytes f n := by
  cases f <;> simp only [elemBytes, ceilDiv] <;> omega

theorem length_packElems (f : Fmt) (l : List Nat) : (packElems f l).length = elemBytes f l.length := by rw [packElems, length_natLe, elemBytes_eq]

theorem rowElemBytes_le (f : Fmt) (n : Nat) : rowElemBytes f n ≤ rowScaleOff f n := by
  unfold rowScaleOff roundUp ceilDiv
  omega

end Sys2Proof.Machine
end

section
/-! PROOF. Every operation of the vector engine runs (R185, R187 to R189). -/
namespace Sys2Proof.Machine

section
variable {s a : State} {t : TileId} {i : VeInstr}

/-! ### How much an instruction writes -/

/-- The blocks of a block-scaled vector of n elements hold n elements. -/
theorem sum_blocks (n m : Nat) : ((List.range m).map (fun b => min 32 (n - 32 * b))).sum = min (32 * m) n := by
  induction m with
  | zero => simp
  | succ m ih =>
    rw [List.range_succ, List.map_append, List.sum_append, ih]
    simp
    omega

/-- At most as many results as the operation has. -/
theorem State.length_vals_le (s : State) (t : Nat) (i : VeInstr) : (s.veCompute t i).vals.length ≤ (veFields i.word).results i.n := by
  unfold State.veCompute
  dsimp only
  split
  next h => simp [VeF.results, h]
  next h => simp [VeF.results, h]
  next h => simp [VeF.results, h]
  next h => simp [VeF.results, h]
  next h => simp [VeF.results, h]
  next h =>
    have all : (veFields i.word).results i.n = i.n := by simp [VeF.results, h]
    rw [all]
    split
    · rw [List.flatMap_map, List.length_flatMap]
      refine (List.sum_le_sum (g := fun b => min 32 (i.n - 32 * b)) fun b _ => ?_).trans ((sum_blocks i.n (ceilDiv i.n 32)).le.trans (Nat.min_le_right _ _))
      simp
    · simp
  next h => simp [VeF.results, h]
  next h => simp [VeF.results, h]
  next =>
    have all : (veFields i.word).results i.n = i.n := by
      unfold VeF.results
      split <;> simp_all
    simp [all]

theorem State.length_scales (s : State) (t : Nat) {i : VeInstr} (cvt : (veFields i.word).op = some .cvt) (mx : (veFields i.word).d.isMx = true) :
    (s.veCompute t i).scales.length = ceilDiv i.n 32 := by simp [State.veCompute, cvt, mx]

theorem Spans.natLe {d n m : Nat} (v : Nat) (filled : 0 < m) (fits : m ≤ n) : Spans [(d, natLe m v)] d n :=
  .single (List.ne_nil_of_length_pos (by rwa [length_natLe])) (by rwa [length_natLe])

/-- Elements and then scale bytes of a block-scaled vector. -/
theorem Spans.scaled {f : Fmt} {d n : Nat} {els : List Nat} {scales : List Byte} (some : 0 < els.length) (most : els.length ≤ roundUp n 32) (mx : f.isMx = true)
    (sc : scales.length = ceilDiv n 32) :
    Spans [(d, packElems f els), (d + rowScaleOff f n, scales)] d (rowScaleOff f n + ceilDiv n 32) := by
  have fits : (packElems f els).length ≤ rowScaleOff f n := by
    rw [length_packElems]
    refine (elemBytes_mono f most).trans ?_
    have row := rowElemBytes_le f n
    rwa [rowElemBytes, if_pos mx] at row
  have filled := elemBytes_pos f some
  rw [← length_packElems] at filled
  have blocks : 0 < ceilDiv n 32 := by
    unfold roundUp at most
    omega
  refine ⟨?_, ?_, by simpa using fits⟩
  · simp only [List.mem_cons, List.not_mem_nil, or_false, forall_eq_or_imp, forall_eq]
    exact ⟨List.ne_nil_of_length_pos filled, List.ne_nil_of_length_pos (by omega)⟩
  · simp only [List.mem_cons, List.not_mem_nil, or_false, forall_eq_or_imp, forall_eq]
    omega

/-- The parts that an instruction writes lie in its destination, one after another. -/
theorem State.spans_veParts (s : State) (t : Nat) (i : VeInstr) :
    Spans (s.veParts t i (veFields i.word) (s.veCompute t i)) i.d ((veFields i.word).dest i).2 := by
  have most := s.length_vals_le t i
  unfold State.veParts
  by_cases none : (s.veCompute t i).vals.length = 0
  · rw [if_pos none]
    exact .nil _ _
  have filled : 0 < (s.veCompute t i).vals.length := Nat.pos_of_ne_zero none
  rw [if_neg none]
  by_cases cmp : (veFields i.word).op = some .cmp
  · have dest : ((veFields i.word).dest i).2 = ceilDiv i.n 8 := by simp [VeF.dest, cmp]
    rw [show (veFields i.word).results i.n = i.n by simp [VeF.results, cmp]] at most
    rw [if_pos cmp, dest]
    refine .natLe _ ?_ ?_ <;> unfold ceilDiv <;> omega
  have dest : ((veFields i.word).dest i).2 = veBytes (veFields i.word).d (decide ((veFields i.word).op = some .cvt)) ((veFields i.word).results i.n) := by
    unfold VeF.dest
    split
    · contradiction
    · rfl
  rw [if_neg cmp, dest]
  by_cases mx : (veFields i.word).op = some .cvt ∧ (veFields i.word).d.isMx = true
  · obtain ⟨cvt, scaled⟩ := mx
    rw [show (veFields i.word).results i.n = i.n by simp [VeF.results, cvt]] at most ⊢
    have bytes : veBytes (veFields i.word).d (decide ((veFields i.word).op = some .cvt)) i.n = rowScaleOff (veFields i.word).d i.n + ceilDiv i.n 32 := by
      simp [veBytes, cvt, scaled, show i.n ≠ 0 by omega]
    rw [if_pos ⟨cvt, scaled⟩, bytes]
    refine .scaled ?_ ?_ scaled ?_
    · simp
      omega
    · simp only [List.length_append, List.length_map, List.length_replicate]
      unfold roundUp ceilDiv
      omega
    · simp [s.length_scales t cvt scaled]
  · have bytes : veBytes (veFields i.word).d (decide ((veFields i.word).op = some .cvt)) ((veFields i.word).results i.n) =
        elemBytes (veFields i.word).d ((veFields i.word).results i.n) := by
      unfold veBytes
      rw [if_neg (by simpa using mx)]
    rw [if_neg mx, bytes]
    refine .natLe _ ?_ ?_ <;> rw [← elemBytes_eq]
    · exact elemBytes_pos _ filled
    · exact elemBytes_mono _ most

/-! ### What an instruction computes does not depend on counts -/

/-- Bytes of a tile without a commit are read as they stand. -/
theorem State.veNat_eq (steady : ∀ k, (s.slot t k).mode ≠ .committing) (o n : Nat) :
    s.veNat t none o n = leNat (s.bytes (spdAddr t (strideBank o).1 (strideBank o).2) n) := by
  have plain : s.Steady t (strideBank o).1 := fun _ => steady
  simp only [State.veNat, State.spdByte, plain.shadowByte, Option.getD_none, State.bytes, spdAddr_add]

/-- Two states in which an untagged instruction reads the same. -/
def State.ReadsSame (s a : State) (t : Nat) : Prop := ∀ o n, a.veNat t none o n = s.veNat t none o n

theorem State.ReadsSame.veCompute (h : s.ReadsSame a t) (untagged : i.slot = none) : a.veCompute t i = s.veCompute t i := by
  simp only [State.veCompute, State.veElemAt, State.cvtIn, untagged, h _ _]

theorem State.ReadsSame.veParts (h : s.ReadsSame a t) (untagged : i.slot = none) (f : VeF) (r : VeResult) : a.veParts t i f r = s.veParts t i f r := by
  simp only [State.veParts, untagged, h _ _]

/-! ### The row of an operation -/

theorem State.veIllegal_extents (legal : s.veIllegal t i = none) :
    ∀ e ∈ (veFields i.word).dest i :: (veFields i.word).sources i, extentOk e = true := by
  unfold State.veIllegal at legal
  dsimp only at legal
  split at legal
  next => contradiction
  next =>
    split at legal
    next => contradiction
    next =>
      split at legal
      next => contradiction
      next all => exact List.all_eq_true.1 (by simpa only [Bool.not_eq_true, Bool.not_eq_false'] using all)

theorem VeF.dest_fst (f : VeF) (i : VeInstr) : (f.dest i).1 = i.d := by
  unfold VeF.dest
  split <;> rfl

/-- The destination of a legal instruction lies within one bank (R187). -/
theorem State.veIllegal_bank (legal : s.veIllegal t i = none) :
    ∃ b, ∀ o, i.d ≤ o → o < i.d + ((veFields i.word).dest i).2 → bankAt o = some b := by
  have extent := State.veIllegal_extents legal _ List.mem_cons_self
  simp only [extentOk, VeF.dest_fst, Bool.and_eq_true] at extent
  obtain ⟨-, inside⟩ := extent
  split at inside
  next b place => exact ⟨b, fun o lo hi => bankAt_within place (of_decide_eq_true inside) lo hi⟩
  next => contradiction

end

section
variable {s a : State} {t : TileId} {i : VeInstr} {rest : List VeInstr} {op : VeOp}

/-- Its operation's command runs what heads the queue. -/
theorem exec_veRows {c : TileId → Instr} (h : (op, c) ∈ veRows) (t : TileId) (s : State) : exec (c t) s = .next (s.veRow t op) := by
  have rows : ∀ e ∈ veRows, exec (e.2 t) s = .next (s.veRow t e.1) := by
    simp only [veRows, List.forall_mem_cons]
    exact ⟨rfl, rfl, rfl, rfl, rfl, rfl, rfl, rfl, rfl, rfl, rfl, rfl, rfl, rfl, rfl, rfl, rfl, rfl, rfl, rfl, rfl, by simp⟩
  exact rows (op, c) h

/-- What waits to complete after a legal instruction has run. -/
def State.veFin (s : State) (t : Nat) (i : VeInstr) : VeFin :=
  { ins := i, reason := 0, passes := ceilDiv i.n (veFields i.word).lanes,
    flags := ((s.veCompute t i).vals.foldl (fun a st => a.or st.fl) ({} : NumFlags)).toBits, permOor := (s.veCompute t i).oor.length,
    health := if (veFields i.word).counted then (s.veCompute t i).vals.flatMap (fun st => (healthKeys (veFields i.word).d st).map (fun k => (k, 1))) else [] }

/-- The state in which the operands of the head of the queue have been read. -/
def State.veRead (s : State) (t : Nat) (i : VeInstr) : State := ((s.unhold t 2).veReads t none (s.veExtents t i (veFields i.word))).1

/-- The state in which its results have been written. -/
def State.veWritten (s : State) (t : Nat) (i : VeInstr) : State :=
  (s.veParts t i (veFields i.word) (s.veCompute t i)).foldl (fun s p => s.engineWrite t none p.1 p.2) (s.veRead t i)

/-- The state in which its writes have been counted. -/
def State.veStored (s : State) (t : Nat) (i : VeInstr) : State :=
  (s.veParts t i (veFields i.word) (s.veCompute t i)).foldl
    (fun s p => let q := strideBank p.1; s.bankCount t q.1 (q.1 = .vb) (linesOf q.2 p.2.length)) (s.veWritten t i)

/-- i heads the queue of a VE that may run it: it is untagged, and no branch commits and no word is in error. -/
structure State.VeNext (s : State) (t : Nat) (i : VeInstr) (rest : List VeInstr) (op : VeOp) : Prop where
  active : (s.tile t).active = true
  queue : (s.tile t).ve.queue = i :: rest
  untagged : i.slot = none
  op : (veFields i.word).op = some op
  legal : s.veIllegal t i = none
  clear : ∀ b, s.clearing t b = false
  good : ∀ b w, s.mark (spdAddr t b (8 * w)) = 0
  steady : ∀ k, (s.slot t k).mode ≠ .committing

theorem State.veRow_illegal {reason : Nat} (active : (s.tile t).active = true) (queue : (s.tile t).ve.queue = i :: rest)
    (isOp : (veFields i.word).op = some op) (illegal : s.veIllegal t i = some reason) :
    s.veRow t op = (s.veTake t).veOver t { ins := i, reason := reason } := by simp [State.veRow, queue, active, isOp, illegal]

section
variable (h : s.VeNext t i rest op)
include h

/-- Its operands are read with counts alone. -/
theorem State.VeNext.read : (s.unhold t 2).VeCounted (s.veRead t i) t ∧
    ((s.unhold t 2).veReads t none (s.veExtents t i (veFields i.word))).2 = false :=
  State.veReads_good (s := s.unhold t 2) (fun b => ⟨h.good b, fun k => by simpa [State.slot, State.unhold] using h.steady k⟩) _

theorem State.VeNext.tile_read : (s.veRead t i).tile t = { s.tile t with held := ((s.veRead t i).tile t).held } := by
  rw [h.read.1.only.tile (by decide), State.unhold, State.tile_onTile_same]

theorem State.VeNext.byte_read (k : Nat) : (s.veRead t i).byte k = s.byte k :=
  (h.read.1.only.byte (by decide) k).trans ((s.only_onTile t _).byte (by decide) k)

theorem State.VeNext.clean_read (b : BankId) : (s.veRead t i).Clean t b :=
  ⟨fun w => (h.read.1.only.mark (by decide) _).trans ((s.only_onTile t _).mark (by decide) _ |>.trans (h.good b w)), fun k => by
    rw [State.slot, h.tile_read]
    exact h.steady k⟩

theorem State.VeNext.readsSame : s.ReadsSame (s.veRead t i) t := fun o n => by
  rw [State.veNat_eq (h.clean_read .ma).steady, State.veNat_eq h.steady]
  simp only [State.bytes, h.byte_read]

/-- Its results are written into its destination. -/
theorem State.VeNext.written : (s.veRead t i).SpansWritten (s.veWritten t i) t (s.veParts t i (veFields i.word) (s.veCompute t i)) i.d
    ((veFields i.word).dest i).2 := by
  obtain ⟨b, place⟩ := State.veIllegal_bank h.legal
  exact (h.clean_read b).engineWrites (s.spans_veParts t i) place

/-- A legal head of the queue runs. -/
theorem State.VeNext.runs : s.veRow t op =
    ((((s.veStored t i).progress t (ceilDiv i.n (veFields i.word).lanes)).activity t 5 (ceilDiv i.n (veFields i.word).lanes)).veTake t).veOver t
      (s.veFin t i) := by
  have same := h.readsSame
  have compute := same.veCompute h.untagged
  have parts := same.veParts h.untagged
  have executes : s.veRow t op = (s.veRead t i).veExecute t i (veFields i.word) (ceilDiv i.n (veFields i.word).lanes) 0 := by
    have free : ((veFields i.word).dest i :: (veFields i.word).sources i).find? (fun e => s.clearing t (strideBank e.1).1 && e.2 != 0) = none :=
      List.find?_eq_none.2 fun e _ => by simp [h.clear]
    simp only [State.veRow, h.queue, h.active, h.op, h.legal, h.untagged, Bool.not_true, Bool.false_eq_true, ne_eq, not_true_eq_false, or_self, if_false,
      Option.isSome_none, free, h.read.2]
    rfl
  rw [executes]
  simp only [State.veExecute, compute, parts, h.untagged, Option.isSome_none, Bool.false_eq_true, if_false, if_true]
  rfl

end

/-- Passes are noted as progress, and as activity. -/
theorem State.progress_frame (s : State) (t : TileId) (n : Nat) :
    s.FieldsBut (s.progress t n) [(.tileProgress, t.val, 0), (.tileProgressAt, t.val, 0)] ∧ s.Only (s.progress t n) [.regs] := by
  unfold State.progress
  split
  · exact ⟨.refl _ _, .refl _ _⟩
  · exact ⟨.wr (.cnt (.refl _ _) (by simp [tile_mod]) n) (by simp [tile_mod]) _, (State.only_cnt _ _ _ _ _).trans (State.only_wr _ _ _ _ _)⟩

/-- Settles O25: an illegal head of the queue waits to complete with its reason; a legal one writes its parts, and waits with its passes. -/
theorem vectorOperationsRun : Obligations.VectorOperationsRun := by
  intro op c row t s i rest active queue untagged isOp
  refine ⟨fun reason illegal => ⟨_, exec_veRows row t s, ?_⟩, fun legal clear good steady => ⟨_, exec_veRows row t s, ?_⟩⟩
  · rw [State.veRow_illegal active queue isOp illegal]
    refine ⟨?_, (s.tilesBut_onTile t _).trans (State.tilesBut_onTile _ t _), (s.only_onTile t _).trans (State.only_onTile _ t _)⟩
    simp [State.veOver, State.veTake, queue]
  · have h : s.VeNext t i rest op := ⟨active, queue, untagged, isOp, legal, clear, good, steady⟩
    have read := h.read.1
    have written := h.written
    have counted := (s.veWritten t i).veCounted_parts t (s.veParts t i (veFields i.word) (s.veCompute t i))
    obtain ⟨progressed, progress⟩ := (s.veStored t i).progress_frame t (ceilDiv i.n (veFields i.word).lanes)
    rw [h.runs]
    generalize ceilDiv i.n (veFields i.word).lanes = passes at progressed progress
    have acted := State.only_activity ((s.veStored t i).progress t passes) t 5 passes
    generalize ran : ((s.veStored t i).progress t passes).activity t 5 passes = z at acted
    have counts : (s.veWritten t i).Only z [.regs, .act] := counted.only.trans ((progress.mono (by decide)).trans (acted.mono (by decide)))
    have parts : (s.veRead t i).Only z [.regs, .act, .mem, .ecc] := (written.only.mono (by decide)).trans (counts.mono (by decide))
    have tile : z.tile t = { s.tile t with held := (z.tile t).held } := by rw [parts.tile (by decide), h.tile_read]
    have final : ((z.veTake t).veOver t (s.veFin t i)).tile t =
        { z.tile t with ve := { (z.tile t).ve with queue := (z.tile t).ve.queue.tail, fins := (z.tile t).ve.fins ++ [s.veFin t i] } } := by
      simp [State.veOver, State.veTake]
    have left : z.Only ((z.veTake t).veOver t (s.veFin t i)) [.tiles] := (z.only_onTile t _).trans (State.only_onTile _ t _)
    have byte (k : Nat) : ((z.veTake t).veOver t (s.veFin t i)).byte k = (s.veWritten t i).byte k :=
      (left.byte (by decide) k).trans (counts.byte (by decide) k)
    refine ⟨⟨s.veFin t i, ?_, rfl, rfl, rfl⟩, fun part hp j hj => (byte _).trans (written.stored part hp j hj),
      fun k hk => (byte k).trans ((written.rest k hk).trans (h.byte_read k)), ?_, ?_, ?_, ?_⟩
    · rw [final, tile, queue]
      rfl
    · rw [final, tile]
    · exact ((s.tilesBut_onTile t _).trans (read.only.tilesBut (by decide) t)).trans
        ((parts.tilesBut (by decide) t).trans ((z.tilesBut_onTile t _).trans (State.tilesBut_onTile _ t _)))
    · have unheld : s.FieldsBut (s.unhold t 2) [] := .congr (.refl _ _) rfl rfl
      have stored : (s.veRead t i).FieldsBut (s.veWritten t i) [] := .congr (.refl _ _) (written.only .regs (by decide)) (written.only .variant (by decide))
      have noted : ((s.veStored t i).progress t passes).FieldsBut ((z.veTake t).veOver t (s.veFin t i)) [] :=
        .congr (.refl _ _) ((left .regs (by decide)).trans (acted .regs (by decide))) ((left .variant (by decide)).trans (acted .variant (by decide)))
      refine .trans (unheld.mono (by simp)) (.trans (read.fields.mono ?_) (.trans (stored.mono (by simp)) (.trans (counted.fields.mono ?_)
        (.trans (progressed.mono ?_) (noted.mono (by simp))))))
      all_goals simp [veAccFields]
    · exact ((s.only_onTile t _).mono (by decide)).trans ((read.only.mono (by decide)).trans ((parts.mono (by decide)).trans (left.mono (by decide))))

end

end Sys2Proof.Machine
end

section
/-! SUPPORT. Results of 32-bit formats: what some operations make of an element (R66, R77, R84, R186), and the words of a packed vector (R67). -/
namespace Sys2Proof.Machine

/-! ### Results fit their words -/

theorem ofSigned_lt (w : Nat) (v : Int) : ofSigned w v < 2 ^ w := by
  have small := Int.emod_lt_of_pos v (show (0 : Int) < 2 ^ w by positivity)
  have positive := Int.emod_nonneg v (show (2 : Int) ^ w ≠ 0 by positivity)
  unfold ofSigned
  zify
  rwa [Int.toNat_of_nonneg positive]

theorem narrowInt_lt (sat : Bool) (v : Int) : (narrowInt .int32 sat v).bits < 2 ^ 32 := by
  have signed (x : Int) : ofSigned Fmt.int32.width x < 2 ^ 32 := ofSigned_lt 32 x
  unfold narrowInt
  dsimp only
  split_ifs <;> simp only [signed]

/-- The sign bit of a FP32 word. -/
def fp32Sign (neg : Bool) : Nat := if neg then 2 ^ 31 else 0

/-- The exponent field of a magnitude m * 2^q rounded to FP32, and its encoding without a sign (R66). -/
def fp32Exp (m : Nat) (q : Int) : Int := if leadExp m q < -126 then 0 else leadExp m q + 127

def fp32Enc (m : Nat) (q : Int) : Nat := (fp32Exp m q).toNat * 2 ^ 23 +
  (if leadExp m q < -126 then m else (if leadExp m q - 23 ≥ q then m >>> (leadExp m q - 23 - q).toNat else m) % 2 ^ 23)

/-- What stands for a magnitude beyond FP32 (R77). -/
def fp32Over (r : Round) (sat : Bool) : Nat :=
  match r with
  | .rtz => 0x7F7FFFFF
  | _ => if sat then 0x7F7FFFFF else 0x7F800000

/-- A finite number narrowed to FP32 on a path without FLUSH. -/
theorem narrowFin_fp32 (r : Round) (sat neg : Bool) (mant : Nat) (exp : Int) : (narrowFin .fp32 r sat false neg mant exp false).bits =
    let q := max (leadExp mant exp) (-126) - 23
    let m := (roundMag r mant exp false q).1
    if mant = 0 ∨ m = 0 then fp32Sign neg
    else if fp32Exp m q > 254 ∨ fp32Enc m q > 0x7F7FFFFF then fp32Over r sat + fp32Sign neg
    else fp32Enc m q + fp32Sign neg := by
  have sign : (if neg then Fmt.fp32.signBit else 0) = fp32Sign neg := rfl
  have emin : Fmt.fp32.emin = -126 := rfl
  have frac : Fmt.fp32.fracBits = 23 := rfl
  have most : Fmt.fp32.maxFinite = 0x7F7FFFFF := rfl
  have exps : 0x7F7FFFFF >>> 23 = 254 := rfl
  have plain : (Fmt.fp32 == Fmt.e4m3) = false := rfl
  have ieee : Fmt.fp32.isIeee = true := rfl
  have infinite : Fmt.fp32.infinity = 0x7F800000 := rfl
  unfold narrowFin
  simp only [sign, emin, frac, most, exps, plain, Bool.and_false, Bool.false_and, Bool.false_eq_true, if_false, beq_iff_eq, Nat.cast_ofNat,
    overflowBits, ieee, infinite, if_true]
  generalize (roundMag r mant exp false (max (leadExp mant exp) (-126) - 23)).1 = m
  generalize max (leadExp mant exp) (-126) - 23 = q
  by_cases none : mant = 0
  · simp [none]
  by_cases zero : m = 0
  · simp [none, zero]
  have shift : leadExp m q - -126 + 1 = leadExp m q + 127 := by omega
  have exponent : (if leadExp m q < -126 then 0 else leadExp m q + 127) = fp32Exp m q := rfl
  have encoding : (fp32Exp m q).toNat * 2 ^ 23 + (if leadExp m q < -126 then m
      else (if leadExp m q - 23 ≥ q then m >>> (leadExp m q - 23 - q).toNat else m) % 2 ^ 23) = fp32Enc m q := rfl
  simp only [none, zero, or_self, if_false, shift, exponent, encoding, Bool.or_eq_true, decide_eq_true_eq]
  by_cases beyond : fp32Exp m q > 254 ∨ fp32Enc m q > 0x7F7FFFFF
  · rw [if_pos beyond, if_pos beyond]
    cases r <;> rfl
  · rw [if_neg beyond, if_neg beyond]

theorem narrowFin_lt (r : Round) (sat neg : Bool) (mant : Nat) (exp : Int) : (narrowFin .fp32 r sat false neg mant exp false).bits < 2 ^ 32 := by
  have sign : fp32Sign neg ≤ 2 ^ 31 := by cases neg <;> decide
  have beyond : fp32Over r sat ≤ 0x7F800000 := by
    unfold fp32Over
    split <;> [skip; split] <;> decide
  rw [narrowFin_fp32]
  dsimp only
  split_ifs <;> omega

/-- A finite FP32 word narrows to itself with the sign asked for: its fraction fr and exponent field e are exact. -/
theorem narrowFin_exact (r : Round) (sat neg : Bool) {e fr : Nat} (he : e < 255) (hf : fr < 2 ^ 23) :
    (narrowFin .fp32 r sat false neg (if e = 0 then fr else 2 ^ 23 + fr) ((if e = 0 then 1 else e : Nat) - 150 : Int) false).bits =
      e * 2 ^ 23 + fr + fp32Sign neg := by
  have exact (m : Nat) (x : Int) : (roundMag r m x false x).1 = m := by simp [roundMag]
  rw [narrowFin_fp32]
  by_cases sub : e = 0
  · simp only [sub, if_true]
    by_cases zero : fr = 0
    · simp [zero]
    have small : Nat.log2 fr < 23 := (Nat.log2_lt zero).2 hf
    have lead : leadExp fr (((1 : Nat) : Int) - 150) < -126 := by
      unfold leadExp
      omega
    have unit : max (leadExp fr (((1 : Nat) : Int) - 150)) (-126) - 23 = ((1 : Nat) : Int) - 150 := by omega
    have exponent : fp32Exp fr (((1 : Nat) : Int) - 150) = 0 := if_pos lead
    have encoding : fp32Enc fr (((1 : Nat) : Int) - 150) = fr := by
      rw [fp32Enc, exponent, if_pos lead]
      omega
    rw [unit, exact, exponent, encoding, if_neg (by omega), if_neg (by omega)]
    omega
  · simp only [sub, if_false]
    have log : Nat.log2 (2 ^ 23 + fr) = 23 := by
      have low : 23 ≤ Nat.log2 (2 ^ 23 + fr) := (Nat.le_log2 (by omega)).2 (by omega)
      have high : Nat.log2 (2 ^ 23 + fr) < 24 := (Nat.log2_lt (by omega)).2 (by omega)
      omega
    have lead : leadExp (2 ^ 23 + fr) ((e : Int) - 150) = e - 127 := by
      unfold leadExp
      rw [log]
      omega
    have unit : max ((e : Int) - 127) (-126) - 23 = e - 150 := by omega
    have exponent : fp32Exp (2 ^ 23 + fr) (e - 150) = e := by
      rw [fp32Exp, lead, if_neg (by omega)]
      omega
    have encoding : fp32Enc (2 ^ 23 + fr) (e - 150) = e * 2 ^ 23 + fr := by
      have shift : ((e : Int) - 127 - 23 - (e - 150)).toNat = 0 := by omega
      have fraction : (2 ^ 23 + fr) % 2 ^ 23 = fr := by omega
      rw [fp32Enc, exponent, lead, if_neg (by omega), if_pos (by omega), shift, Nat.shiftRight_zero, fraction, Int.toNat_natCast]
    rw [lead, unit, exact, exponent, encoding, if_neg (by omega), if_neg (by omega)]

/-- A FP32 word that is no infinity and no NaN (R66). -/
theorem unpack_fp32 {w : Nat} (finite : (unpack .fp32 w).isSpecial = false) : w / 2 ^ 23 % 2 ^ 8 < 255 ∧ unpack .fp32 w =
    .fin (w.testBit 31) (if w / 2 ^ 23 % 2 ^ 8 = 0 then w % 2 ^ 23 else 2 ^ 23 + w % 2 ^ 23)
      ((if w / 2 ^ 23 % 2 ^ 8 = 0 then 1 else w / 2 ^ 23 % 2 ^ 8 : Nat) - 150 : Int) := by
  have small := Nat.mod_lt (w / 2 ^ 23) (show 0 < 2 ^ 8 by decide)
  have fields : unpack .fp32 w = if w / 2 ^ 23 % 2 ^ 8 = 255 then (if w % 2 ^ 23 = 0 then .inf (w.testBit 31) else .nan (!(bitOf (w % 2 ^ 23) 22)))
      else if w / 2 ^ 23 % 2 ^ 8 = 0 then .fin (w.testBit 31) (w % 2 ^ 23) (-149)
      else .fin (w.testBit 31) (2 ^ 23 + w % 2 ^ 23) ((w / 2 ^ 23 % 2 ^ 8 : Nat) - 127 - 23) := by
    have differ : (Fmt.fp32 != Fmt.e5m2) = true := rfl
    rw [← Nat.shiftRight_eq_div_pow]
    simp [differ, unpack, Fmt.isInt, Fmt.isIeee, Fmt.fracBits, Fmt.expBits, Fmt.bias, Fmt.width, bitOf]
  have ordinary : w / 2 ^ 23 % 2 ^ 8 ≠ 255 := fun special => by
    rw [fields, if_pos special] at finite
    split at finite <;> simp [Num.isSpecial] at finite
  rw [fields, if_neg ordinary]
  refine ⟨by omega, ?_⟩
  split
  · rfl
  · rw [show ((w / 2 ^ 23 % 2 ^ 8 : Nat) : Int) - 127 - 23 = (w / 2 ^ 23 % 2 ^ 8 : Nat) - 150 by omega]

/-- The integers that two INT32 words stand for add modulo 2^32 (R84). -/
theorem add_int32 (r : Round) (flush : Bool) (a b : Nat) :
    (narrow .int32 r false flush (Num.add (unpack .int32 a) (unpack .int32 b)).1).bits = (a + b) % 2 ^ 32 := by
  have sum : ofSigned 32 (toSigned 32 a + toSigned 32 b) = (a + b) % 2 ^ 32 := by
    unfold ofSigned toSigned trunc
    split_ifs <;> omega
  have value (v : Int) : (if decide (v < 0) = true then -((v.natAbs : Nat) : Int) else (v.natAbs : Int)) = v := by
    simp only [decide_eq_true_eq]
    split <;> omega
  have read (n : Nat) : unpack .int32 n = .fin (decide (toSigned 32 n < 0)) (toSigned 32 n).natAbs 0 := rfl
  have word (v : Int) : (narrow .int32 r false flush (.fin (decide (v < 0)) v.natAbs 0)).bits = ofSigned 32 v := by
    have magnitude : (roundMag r v.natAbs 0 false 0).1 = v.natAbs := by simp [roundMag]
    have stored := narrowInt_wraps .int32 v
    rw [← value v, ← magnitude] at stored
    exact stored.trans (by rw [magnitude, value]; rfl)
  have scaled (v : Int) : Num.scaledTo 0 (.fin (decide (v < 0)) v.natAbs 0) = v := by
    simpa [Num.scaledTo] using value v
  have exact (u v : Int) : ∃ z, (Num.add (.fin (decide (u < 0)) u.natAbs 0) (.fin (decide (v < 0)) v.natAbs 0)).1 =
      if u + v = 0 then .fin z 0 0 else .fin (decide (u + v < 0)) (u + v).natAbs 0 := by
    have finite (x : Bool) (m : Nat) (e : Int) (y : Bool) : (Num.fin x m e == .inf y) = false := beq_eq_false_iff_ne.2 nofun
    refine ⟨[Num.fin (decide (u < 0)) u.natAbs 0, .fin (decide (v < 0)) v.natAbs 0].all (fun n => n.isZero && n.sign) && true, ?_⟩
    simp only [Num.add, Num.sum, List.any_cons, List.any_nil, Num.isNan, Bool.or_false, Bool.false_eq_true, if_false, beq_iff_eq, finite,
      Bool.and_false, List.head?_cons, Option.bind_some, Num.exp?, Option.getD_some, List.foldl_cons, List.foldl_nil, min_self, scaled, zero_add]
    split
    · rfl
    · rfl
  have zero (z : Bool) : (narrow .int32 r false flush (.fin z 0 0)).bits = ofSigned 32 0 := by cases z <;> simp [narrow, Fmt.isInt, roundMag, narrowInt_wraps, Fmt.width]
  obtain ⟨z, added⟩ := exact (toSigned 32 a) (toSigned 32 b)
  rw [read, read, added, ← sum]
  split
  · next none => rw [zero, none]
  · exact word _

end Sys2Proof.Machine
end

section
/-! PROOF. What the operations of the vector engine on 32-bit formats write, word by word (R185, R186). -/
namespace Sys2Proof.Machine

/-! ### Words of a packed vector -/

/-- A FP32 or an INT32 vector. -/
def Fmt.isWord (f : Fmt) : Prop := f = .fp32 ∨ f = .int32

theorem Fmt.isWord.pos {f : Fmt} (h : f.isWord) (j : Nat) : elemBitPos f j = (32 * j, 32) := by rcases h with rfl | rfl <;> rfl

theorem Fmt.isWord.out {f : Fmt} (h : f.isWord) (v : Nat) : ofContainer f v = v % 2 ^ 32 := by rcases h with rfl | rfl <;> rfl

theorem Fmt.isWord.into {f : Fmt} (h : f.isWord) (v : Nat) : toContainer f v = v := by rcases h with rfl | rfl <;> rfl

theorem Fmt.isWord.bytes {f : Fmt} (h : f.isWord) (n : Nat) : elemBytes f n = 4 * n := by rcases h with rfl | rfl <;> rfl

theorem Fmt.isWord.notMx {f : Fmt} (h : f.isWord) : f.isMx = false := by rcases h with rfl | rfl <;> rfl

/-- Four bytes of a little-endian number. -/
theorem leNat_slice {nb k : Nat} (v : Nat) (h : k + 4 ≤ nb) :
    leNat ((List.range 4).map (fun i => (natLe nb v).getD (k + i) 0#8)) = v / 256 ^ k % 2 ^ 32 := by
  have slice : (List.range 4).map (fun i => (natLe nb v).getD (k + i) 0#8) = natLe 4 (v / 256 ^ k) := by
    refine List.ext_getElem? fun i => ?_
    rw [natLe_getD, List.getElem?_map]
    by_cases hi : i < 4
    · rw [List.getElem?_range hi, if_pos hi, Option.map_some, List.getD_eq_getElem?_getD, natLe_getD, if_pos (by omega), Option.getD_some, Nat.pow_add,
        Nat.div_div_eq_div_mul]
    · rw [if_neg hi, List.getElem?_eq_none (by simpa using hi), Option.map_none]
  rw [slice, leNat_natLe, show (256 : Nat) ^ 4 = 2 ^ 32 by rfl]

/-- A word of a packed vector. -/
theorem ofDigits_word {l : List Nat} (small : ∀ v ∈ l, v < 2 ^ 32) {j : Nat} (hj : j < l.length) :
    Nat.ofDigits (2 ^ 32) l / (2 ^ 32) ^ j % 2 ^ 32 = l[j] := by
  rw [Nat.ofDigits_div_pow_eq_ofDigits_drop j (by decide) l small, List.drop_eq_getElem_cons hj, Nat.ofDigits_cons, Nat.add_mul_mod_self_left,
    Nat.mod_eq_of_lt (small _ (List.getElem_mem hj))]

theorem Fmt.isWord.packed {f : Fmt} (h : f.isWord) (l : List Nat) :
    l.foldr (fun v acc => toContainer f v + acc * 2 ^ 32) 0 = Nat.ofDigits (2 ^ 32) l := by
  induction l with
  | nil => rfl
  | cons v l ih => rw [List.foldr_cons, ih, h.into, Nat.ofDigits_cons, Nat.mul_comm]

section
variable {s a : State} {t : TileId} {i : VeInstr}

/-! ### Reading -/

theorem bankAt_of_extentOk {e : Nat × Nat} (h : extentOk e = true) {o : Nat} (lo : e.1 ≤ o) (hi : o < e.1 + e.2) : ∃ b, bankAt o = some b := by
  simp only [extentOk, Bool.and_eq_true] at h
  obtain ⟨-, inside⟩ := h
  split at inside
  next b place => exact ⟨b, bankAt_within place (of_decide_eq_true inside) lo hi⟩
  next => contradiction

/-- A number in an extent of a tile without a commit. -/
theorem State.veNat_of_extentOk {e : Nat × Nat} (h : extentOk e = true) (steady : ∀ k, (s.slot t k).mode ≠ .committing) {o : Nat} (lo : e.1 ≤ o) (hi : o < e.1 + e.2)
    (n : Nat) : s.veNat t none o n = leNat (s.bytes (t * 0x800000 + o) n) := by
  obtain ⟨b, place⟩ := bankAt_of_extentOk h lo hi
  rw [State.veNat_eq steady, strideBank, place, spdAddr_stride place]

/-- An element of a vector of words. -/
theorem State.veElemAt_word {f : Fmt} (hf : f.isWord) {base n : Nat} (h : extentOk (base, 4 * n) = true) (steady : ∀ k, (s.slot t k).mode ≠ .committing) {k : Nat}
    (hk : k < n) : s.veElemAt t none f base k = leNat (s.bytes (t * 0x800000 + base + 4 * k) 4) := by
  have place : base + 32 * k / 8 = base + 4 * k := by omega
  have aligned : 32 * k % 8 = 0 := by omega
  have word := leNat_lt (s.bytes (t * 0x800000 + base + 4 * k) 4)
  simp only [State.veElemAt, hf.pos, hf.out, place, aligned]
  rw [State.veNat_of_extentOk h steady (by dsimp only; omega) (by dsimp only; omega), ← Nat.add_assoc]
  have size : (s.bytes (t * 0x800000 + base + 4 * k) 4).length = 4 := by simp [State.bytes]
  rw [size] at word
  simp only [Nat.shiftRight_zero, Nat.zero_add]
  norm_num at word ⊢
  omega

/-! ### Writing -/

/-- The one part that a vector of words makes. -/
theorem State.veParts_words {f : VeF} {r : VeResult} (hd : f.d.isWord) (h1 : f.op ≠ some .cmp) {n : Nat} (hn : 0 < n) {g : Nat → Stored}
    (vals : r.vals = (List.range n).map g) (small : ∀ k, (g k).bits < 2 ^ 32) :
    s.veParts t i f r = [(i.d, natLe (4 * n) (Nat.ofDigits (2 ^ 32) ((List.range n).map fun k => (g k).bits)))] := by
  have length : r.vals.length = n := by simp [vals]
  have scaled : ¬ (f.op = some .cvt ∧ f.d.isMx = true) := by simp [hd.notMx]
  have whole : 32 * n % 8 = 0 := by omega
  have bytes : ceilDiv (32 * n) 8 = 4 * n := by
    unfold ceilDiv
    omega
  have bits : (r.vals.map (·.bits)) = (List.range n).map fun k => (g k).bits := by rw [vals, List.map_map]; rfl
  have packed : leNat (packElems f.d (r.vals.map (·.bits))) % 2 ^ (32 * n) = Nat.ofDigits (2 ^ 32) ((List.range n).map fun k => (g k).bits) := by
    have bound := Nat.ofDigits_lt_base_pow_length (b := 2 ^ 32) (l := (List.range n).map fun k => (g k).bits) (by decide) (by simpa using fun k _ => small k)
    rw [List.length_map, List.length_range, ← Nat.pow_mul] at bound
    rw [packElems, hd.pos, leNat_natLe, hd.packed, bits, List.length_map, List.length_range, bytes, show (256 : Nat) = 2 ^ 8 by rfl, ← Nat.pow_mul,
      show 8 * (4 * n) = 32 * n by omega, Nat.mod_mod, Nat.mod_eq_of_lt bound]
  simp only [State.veParts, length, if_neg hn.ne', if_neg h1, if_neg scaled, hd.pos, whole, if_true, bytes, packed, Nat.add_zero]

/-- A word of a vector as it stands in memory. -/
theorem State.word_stored {d n j v : Nat} (stored : ∀ k, k < (natLe (4 * n) v).length → a.byte (t * 0x800000 + d + k) = (natLe (4 * n) v).getD k 0#8)
    (hj : j < n) : leNat (a.bytes (t * 0x800000 + d + 4 * j) 4) = v / (2 ^ 32) ^ j % 2 ^ 32 := by
  have bytes : a.bytes (t * 0x800000 + d + 4 * j) 4 = (List.range 4).map (fun i => (natLe (4 * n) v).getD (4 * j + i) 0#8) :=
    List.map_congr_left fun i hi => by
      have small := List.mem_range.1 hi
      rw [Nat.add_assoc]
      exact stored _ (by rw [length_natLe]; omega)
  rw [bytes, leNat_slice v (by omega), show (256 : Nat) = 2 ^ 8 by rfl, ← Nat.pow_mul, ← Nat.pow_mul,
    show 8 * (4 * j) = 32 * j by omega]

/-- Whatever the bytes, an element of a vector of words is a word. -/
theorem State.veElemAt_lt {f : Fmt} (hf : f.isWord) (base k : Nat) : s.veElemAt t none f base k < 2 ^ 32 := by
  simp only [State.veElemAt, hf.out]
  exact Nat.mod_lt _ (by decide)

/-! ### Arithmetic -/

theorem narrow_fp32_fin (r : Round) (sat neg : Bool) (m : Nat) (e : Int) :
    narrow .fp32 r sat false (.fin neg m e) = narrowFin .fp32 r sat false neg m e false := rfl

/-- A number narrowed to FP32 fits a word. -/
theorem narrow_fp32_lt (r : Round) (sat : Bool) (n : Num) : (narrow .fp32 r sat false n).bits < 2 ^ 32 := by
  cases n with
  | nan sg =>
    change (storeNan .fp32 sg).bits < 2 ^ 32
    cases sg <;> decide
  | inf neg =>
    change (storeInf .fp32 sat neg).bits < 2 ^ 32
    cases sat <;> cases neg <;> decide
  | fin neg m e => exact narrowFin_lt r sat neg m e

theorem veElem_abs {f : VeF} (op : f.op = some .abs) (hd : f.d = .fp32) (hs : f.s = .fp32) (r : Round) (a b c : Nat) :
    (veElem f false r a b c).bits = (narrow .fp32 r f.sat false (unpack .fp32 a).abs).bits := by
  simp [veElem, op, veOut, veIn, unpackFlush, Stored.with, hd, hs]

theorem veElem_neg {f : VeF} (op : f.op = some .neg) (hd : f.d = .fp32) (hs : f.s = .fp32) (r : Round) (a b c : Nat) :
    (veElem f false r a b c).bits = (narrow .fp32 r f.sat false (unpack .fp32 a).neg).bits := by
  simp [veElem, op, veOut, veIn, unpackFlush, Stored.with, hd, hs]

theorem veElem_add {f : VeF} (op : f.op = some .add) (hd : f.d = .int32) (hs : f.s = .int32) (sat : f.sat = false) (r : Round) (a b c : Nat) :
    (veElem f false r a b c).bits = (a + b) % 2 ^ 32 := by
  rw [← add_int32 r false a b]
  simp [veElem, op, veOut, veIn, unpackFlush, Stored.with, hd, hs, sat]

/-- The sign bit of a word. -/
theorem testBit_31 {w : Nat} (small : w < 2 ^ 32) : w / 2 ^ 23 % 2 ^ 8 * 2 ^ 23 + w % 2 ^ 23 = w % 2 ^ 31 ∧
    w = w % 2 ^ 31 + fp32Sign (w.testBit 31) := by
  refine ⟨by omega, ?_⟩
  rw [Nat.testBit_eq_decide_div_mod_eq, fp32Sign]
  simp only [decide_eq_true_eq]
  split <;> omega

/-- A finite word without its sign. -/
theorem narrow_abs {w : Nat} (finite : (unpack .fp32 w).isSpecial = false) (small : w < 2 ^ 32) (r : Round) (sat : Bool) :
    (narrow .fp32 r sat false (unpack .fp32 w).abs).bits = w % 2 ^ 31 := by
  obtain ⟨he, read⟩ := unpack_fp32 finite
  rw [read, Num.abs, narrow_fp32_fin, narrowFin_exact r sat false he (Nat.mod_lt w (by decide)), (testBit_31 small).1]
  rfl

/-- A finite word with its sign flipped. -/
theorem narrow_neg {w : Nat} (finite : (unpack .fp32 w).isSpecial = false) (small : w < 2 ^ 32) (r : Round) (sat : Bool) :
    (narrow .fp32 r sat false (unpack .fp32 w).neg).bits = (w + 2 ^ 31) % 2 ^ 32 := by
  obtain ⟨he, read⟩ := unpack_fp32 finite
  obtain ⟨magnitude, sign⟩ := testBit_31 small
  have flipped : w % 2 ^ 31 + fp32Sign (!w.testBit 31) = (w + 2 ^ 31) % 2 ^ 32 := by
    cases bit : w.testBit 31 <;> simp only [bit, fp32Sign, if_true, if_false, Bool.not_true, Bool.not_false, Bool.false_eq_true] at sign ⊢ <;> omega
  rw [read, Num.neg, narrow_fp32_fin, narrowFin_exact r sat _ he (Nat.mod_lt w (by decide)), magnitude, flipped]

end

section
variable {s : State} {t : TileId} {i : VeInstr} {rest : List VeInstr} {op : VeOp} {c : TileId → Instr}

/-- Word k of a vector at a stride offset. -/
def State.veWord (s : State) (t : TileId) (base k : Nat) : Nat := leNat (s.bytes (t * 0x800000 + base + 4 * k) 4)

theorem State.veWord_lt (s : State) (t : TileId) (base k : Nat) : s.veWord t base k < 2 ^ 32 := by
  have word := leNat_lt (s.bytes (t * 0x800000 + base + 4 * k) 4)
  rwa [show (s.bytes (t * 0x800000 + base + 4 * k) 4).length = 4 by simp [State.bytes]] at word

/-- The conditions of the results: an instruction with vector operands that runs, from words to words. -/
structure State.VeWords (s : State) (t : Nat) (i : VeInstr) (rest : List VeInstr) (op : VeOp) : Prop where
  next : s.VeNext t i rest op
  noFlush : i.flush = false
  vectorA : (veFields i.word).bA = false
  vectorB : (veFields i.word).bB = false
  vectorC : (veFields i.word).bC = false
  same : (veFields i.word).d = (veFields i.word).s
  word : (veFields i.word).s.isWord
  notCvt : op ≠ .cvt
  notCmp : op ≠ .cmp

section
variable (h : s.VeWords t i rest op)
include h

theorem State.VeWords.word_d : (veFields i.word).d.isWord := h.same ▸ h.word

theorem State.VeWords.bytes (n : Nat) : veBytes (veFields i.word).s (decide ((veFields i.word).op = some .cvt)) n = 4 * n := by
  rw [veBytes, h.word.notMx, Bool.and_false, if_neg Bool.false_ne_true, h.word.bytes]

/-- Element k of a source. -/
theorem State.VeWords.elem {base k : Nat} (source : (base, 4 * i.n) ∈ (veFields i.word).sources i) (hk : k < i.n) :
    s.veElemAt t none (veFields i.word).s base k = s.veWord t base k :=
  State.veElemAt_word h.word (State.veIllegal_extents h.next.legal _ (List.mem_cons_of_mem _ source)) h.next.steady hk

/-- A number of a source of another kind. -/
theorem State.VeWords.nat {e : Nat × Nat} (source : e ∈ (veFields i.word).sources i) {o : Nat} (lo : e.1 ≤ o) (hi : o < e.1 + e.2) (n : Nat) :
    s.veNat t none o n = leNat (s.bytes (t * 0x800000 + o) n) :=
  State.veNat_of_extentOk (State.veIllegal_extents h.next.legal _ (List.mem_cons_of_mem _ source)) h.next.steady lo hi n

/-- The words that the instruction computes are the words that it writes. -/
theorem State.VeWords.completes (row : (op, c) ∈ veRows) {g : Nat → Stored} (vals : (s.veCompute t i).vals = (List.range i.n).map g)
    (small : ∀ k, (g k).bits < 2 ^ 32) {j : Nat} (hj : j < i.n) : Completes (c t) s (fun s' => s'.veWord t i.d j = (g j).bits) := by
  obtain ⟨active, queue, untagged, isOp, legal, clear, good, steady⟩ := h.next
  obtain ⟨s', ran, -, stored, -⟩ := (vectorOperationsRun op c row t s i rest active queue untagged isOp).2 legal clear good steady
  have notCmp : (veFields i.word).op ≠ some .cmp := by simpa [isOp] using h.notCmp
  rw [State.veParts_words h.word_d notCmp (by omega) vals small] at stored
  refine ⟨s', ran, (State.word_stored (stored _ (List.mem_singleton_self _)) hj).trans ?_⟩
  rw [ofDigits_word (by simpa using fun k _ => small k) (by simpa using hj)]
  simp

/-- What an operation on the elements of its sources makes of them. -/
theorem State.VeWords.vals (arith : op = .abs ∨ op = .neg ∨ op = .add) : (s.veCompute t i).vals = (List.range i.n).map (fun k =>
    veElem (veFields i.word) false (veRound (veFields i.word) i k) (s.veElemAt t none (veFields i.word).s i.a k)
      (s.veElemAt t none (veFields i.word).s i.b k) (s.veElemAt t none (veFields i.word).s i.c k)) := by
  rcases arith with rfl | rfl | rfl <;>
    simp [State.veCompute, h.next.op, h.next.untagged, h.noFlush, h.vectorA, h.vectorB, h.vectorC]

/-- The first source. -/
theorem State.VeWords.source_a : (i.a, 4 * i.n) ∈ (veFields i.word).sources i := by
  have first : (i.a, veBytes (veFields i.word).s (decide ((veFields i.word).op = some .cvt)) i.n) ∈ (veFields i.word).sources i := by
    unfold VeF.sources
    simp only [h.vectorA, Bool.false_eq_true, if_false]
    split <;> exact List.mem_cons_self
  rwa [h.bytes] at first

/-- The second source of an operation that has one. -/
theorem State.VeWords.source_b (two : op = .add ∨ op = .sel) : (i.b, 4 * i.n) ∈ (veFields i.word).sources i := by
  have second : (i.b, veBytes (veFields i.word).s (decide ((veFields i.word).op = some .cvt)) i.n) ∈ (veFields i.word).sources i := by
    rcases two with rfl | rfl <;> simp [VeF.sources, h.next.op, h.vectorB]
  rwa [h.bytes] at second

end

variable {j : Nat}

theorem State.VeWords.abs (h : s.VeWords t i rest .abs) (row : (VeOp.abs, c) ∈ veRows) (fp : (veFields i.word).s = .fp32) (hj : j < i.n)
    (finite : (unpack .fp32 (s.veWord t i.a j)).isSpecial = false) :
    Completes (c t) s (fun s' => s'.veWord t i.d j = s.veWord t i.a j % 2 ^ 31) := by
  have bits := veElem_abs h.next.op (h.same.trans fp) fp
  have done := h.completes row (h.vals (by simp)) (fun k => (bits _ _ _ _).trans_lt (narrow_fp32_lt _ _ _)) hj
  rwa [bits, h.elem h.source_a hj, narrow_abs finite (s.veWord_lt t i.a j)] at done

theorem State.VeWords.neg (h : s.VeWords t i rest .neg) (row : (VeOp.neg, c) ∈ veRows) (fp : (veFields i.word).s = .fp32) (hj : j < i.n)
    (finite : (unpack .fp32 (s.veWord t i.a j)).isSpecial = false) :
    Completes (c t) s (fun s' => s'.veWord t i.d j = (s.veWord t i.a j + 2 ^ 31) % 2 ^ 32) := by
  have bits := veElem_neg h.next.op (h.same.trans fp) fp
  have done := h.completes row (h.vals (by simp)) (fun k => (bits _ _ _ _).trans_lt (narrow_fp32_lt _ _ _)) hj
  rwa [bits, h.elem h.source_a hj, narrow_neg finite (s.veWord_lt t i.a j)] at done

theorem State.VeWords.add (h : s.VeWords t i rest .add) (row : (VeOp.add, c) ∈ veRows) (int : (veFields i.word).s = .int32)
    (wraps : (veFields i.word).sat = false) (hj : j < i.n) :
    Completes (c t) s (fun s' => s'.veWord t i.d j = (s.veWord t i.a j + s.veWord t i.b j) % 2 ^ 32) := by
  have bits := veElem_add h.next.op (h.same.trans int) int wraps
  have done := h.completes row (h.vals (by simp)) (fun k => (bits _ _ _ _).trans_lt (Nat.mod_lt _ (by decide))) hj
  rwa [bits, h.elem h.source_a hj, h.elem (h.source_b (by simp)) hj] at done

/-- SEL picks by the bits of its mask. -/
theorem State.VeWords.sel (h : s.VeWords t i rest .sel) (row : (VeOp.sel, c) ∈ veRows) (hj : j < i.n) :
    Completes (c t) s (fun s' => s'.veWord t i.d j =
      if (s.byte (t * 0x800000 + i.c + j / 8)).toNat.testBit (j % 8) then s.veWord t i.a j else s.veWord t i.b j) := by
  have mask : (i.c, ceilDiv i.n 8) ∈ (veFields i.word).sources i := by simp [VeF.sources, h.next.op, h.vectorC]
  have byte : s.veNat t none (i.c + j / 8) 1 = (s.byte (t * 0x800000 + i.c + j / 8)).toNat := by
    rw [h.nat mask (Nat.le_add_right _ _) (by dsimp only [ceilDiv]; omega), ← Nat.add_assoc]
    simp [State.bytes, leNat]
  have vals : (s.veCompute t i).vals = (List.range i.n).map (fun k =>
      { bits := if bitOf (s.veNat t none (i.c + k / 8) 1) (k % 8) then s.veElemAt t none (veFields i.word).s i.a k
                else s.veElemAt t none (veFields i.word).s i.b k }) := by
    simp [State.veCompute, h.next.op, h.next.untagged, h.vectorA, h.vectorB, h.vectorC]
  have small (k : Nat) : (if bitOf (s.veNat t none (i.c + k / 8) 1) (k % 8) then s.veElemAt t none (veFields i.word).s i.a k
      else s.veElemAt t none (veFields i.word).s i.b k) < 2 ^ 32 := by
    split <;> exact State.veElemAt_lt h.word _ _
  have done := h.completes row vals small hj
  rwa [h.elem h.source_a hj, h.elem (h.source_b (by simp)) hj, byte] at done

/-- PERM gathers by its indices. -/
theorem State.VeWords.perm (h : s.VeWords t i rest .perm) (row : (VeOp.perm, c) ∈ veRows) (hj : j < i.n) :
    Completes (c t) s (fun s' => s'.veWord t i.d j =
      if leNat (s.bytes (t * 0x800000 + i.c + 2 * j) 2) ≥ i.n then 0 else s.veWord t i.a (leNat (s.bytes (t * 0x800000 + i.c + 2 * j) 2))) := by
  have indices : (i.c, 2 * i.n) ∈ (veFields i.word).sources i := by simp [VeF.sources, h.next.op, h.vectorC]
  have index : s.veNat t none (i.c + 2 * j) 2 = leNat (s.bytes (t * 0x800000 + i.c + 2 * j) 2) := by
    rw [h.nat indices (Nat.le_add_right _ _) (by dsimp only; omega), ← Nat.add_assoc]
  have vals : (s.veCompute t i).vals = (List.range i.n).map (fun k =>
      { bits := if s.veNat t none (i.c + 2 * k) 2 ≥ i.n then 0
                else s.veElemAt t none (veFields i.word).s i.a (s.veNat t none (i.c + 2 * k) 2) }) := by
    simp [State.veCompute, h.next.op, h.next.untagged, h.vectorA, h.vectorC]
  have small (k : Nat) : (if s.veNat t none (i.c + 2 * k) 2 ≥ i.n then 0
      else s.veElemAt t none (veFields i.word).s i.a (s.veNat t none (i.c + 2 * k) 2)) < 2 ^ 32 := by
    split
    · decide
    · exact State.veElemAt_lt h.word _ _
  have done := h.completes row vals small hj
  rw [index] at done
  by_cases beyond : leNat (s.bytes (t * 0x800000 + i.c + 2 * j) 2) ≥ i.n
  · simpa only [if_pos beyond] using done
  · rw [h.elem h.source_a (by omega)] at done
    simpa only [if_neg beyond] using done

/-- A legal TRANSP moves whole blocks (R187). -/
theorem State.veIllegal_blocks (isOp : (veFields i.word).op = some .transp) (legal : s.veIllegal t i = none) : i.n % 4096 = 0 := by
  unfold State.veIllegal at legal
  simp only [isOp] at legal
  by_contra part
  split_ifs at legal

/-- TRANSP transposes blocks. -/
theorem State.VeWords.transp (h : s.VeWords t i rest .transp) (row : (VeOp.transp, c) ∈ veRows) (hj : j < i.n) :
    Completes (c t) s (fun s' => s'.veWord t i.d j = s.veWord t i.a (j / 4096 * 4096 + (j % 64) * 64 + j % 4096 / 64)) := by
  have blocks := State.veIllegal_blocks h.next.op h.next.legal
  have vals : (s.veCompute t i).vals = (List.range i.n).map (fun k =>
      { bits := s.veElemAt t none (veFields i.word).s i.a (k / 4096 * 4096 + (k % 64) * 64 + k % 4096 / 64) }) := by
    simp [State.veCompute, h.next.op, h.next.untagged, h.vectorA]
  have done := h.completes row vals (fun _ => State.veElemAt_lt h.word _ _) hj
  rwa [h.elem h.source_a (by omega)] at done

/-- Settles O26: the words that each operation computes from its sources. -/
theorem vectorResults : Obligations.VectorResults := by
  intro op c row t s i rest j active queue untagged noFlush isOp vectorA vectorB vectorC legal clear good steady hj same
  have words (hs : (veFields i.word).s.isWord) (notCvt : op ≠ .cvt) (notCmp : op ≠ .cmp) : s.VeWords t i rest op :=
    ⟨⟨active, queue, untagged, isOp, legal, clear, good, steady⟩, noFlush, vectorA, vectorB, vectorC, same, hs, notCvt, notCmp⟩
  refine ⟨?_, ?_, ?_, ?_, ?_, ?_⟩ <;> rintro rfl
  · exact fun fp finite => (words (.inl fp) nofun nofun).abs row fp hj finite
  · exact fun fp finite => (words (.inl fp) nofun nofun).neg row fp hj finite
  · exact fun int wraps => (words (.inr int) nofun nofun).add row int wraps hj
  · exact fun word => (words word nofun nofun).sel row hj
  · exact fun word => (words word nofun nofun).perm row hj
  · exact fun word => (words word nofun nofun).transp row hj

end

end Sys2Proof.Machine
end

section
/-! SUPPORT. Packets that reach this die: what is taken from the network, dropped, written, read and answered (R178, R240, R275, R448). -/
namespace Sys2Proof.Machine

section
variable {s s1 a : State} {t n ty : Nat} {p : Arrival}

/-! ### Arrivals -/

/-- An arrival is taken from the die's network, and nothing else changes. -/
theorem State.Arrives.taken (h : s.Arrives ty n p s1) :
    ∃ i, s.dieNet[i]? = some p ∧ p.pkt.ty = ty ∧ s1 = { s with dieNet := s.dieNet.eraseIdx i } := by
  unfold State.Arrives State.netTake at h
  dsimp only at h
  split at h
  · next i b found =>
    split at h
    · obtain ⟨rfl, rfl⟩ := Prod.mk.inj (Option.some.inj h)
      obtain ⟨listed, isTy⟩ := List.mem_filter.1 (List.mem_of_getElem? found)
      refine ⟨i, ?_, by simpa using isTy, rfl⟩
      obtain ⟨k, hk⟩ := List.mem_iff_getElem?.1 listed
      obtain ⟨index, value⟩ := List.getElem?_zip_eq_some.1 hk
      obtain ⟨_, here⟩ := List.getElem?_eq_some_iff.1 index
      rw [List.getElem_range] at here
      obtain rfl : k = i := here
      exact value
    · contradiction
  · contradiction

section
variable (h : s.Arrives ty n p s1)
include h

theorem State.Arrives.tile (t : Nat) : s1.tile t = s.tile t := by
  obtain ⟨i, -, -, rfl⟩ := h.taken
  rfl

theorem State.Arrives.rd (f : Field) (i j : Nat) : s1.rd f i j = s.rd f i j := by
  obtain ⟨i, -, -, rfl⟩ := h.taken
  rfl

theorem State.Arrives.outbox : s1.outbox = s.outbox := by
  obtain ⟨i, -, -, rfl⟩ := h.taken
  rfl

theorem State.Arrives.memByte (x : Nat) : s1.memByte x = s.memByte x := by
  obtain ⟨i, -, -, rfl⟩ := h.taken
  rfl

theorem State.Arrives.accessAt (x : Nat) : s1.accessAt x = s.accessAt x := by
  obtain ⟨i, -, -, rfl⟩ := h.taken
  rfl

theorem State.Arrives.okBytes (x m : Nat) : s1.okBytes x m = s.okBytes x m := by simp only [State.okBytes, h.accessAt]

theorem State.Arrives.heldAt (l : List (Nat × Nat)) : s1.heldAt l = s.heldAt l := by simp only [State.heldAt, h.accessAt]

theorem State.Arrives.calm (marks : ∀ k, s.mark k = 0) (steady : ∀ u i, (s.slot u i).mode ≠ .committing) : s1.Calm := by
  obtain ⟨i, -, -, rfl⟩ := h.taken
  exact ⟨marks, steady⟩

/-- A packet that is dropped counts once, and nothing else changes. -/
theorem State.Arrives.counted {f : Field} (wide : f.info.width = 64) {i : Nat} (hi : i < 65536) :
    (s1.cnt f i 0 1).rd f i = (s.rd f i + 1) % 2 ^ 64 ∧ s1.FieldsBut (s1.cnt f i 0 1) [(f, i, 0)] ∧ s1.Only (s1.cnt f i 0 1) [.regs] :=
  ⟨by rw [State.rd_cnt_same, wide, h.rd], .cnt (.refl _ _) (by simp [Nat.mod_eq_of_lt hi]) 1, s1.only_cnt _ _ _ _⟩

/-- Only a tile changes. -/
theorem State.Arrives.tilesBut (t : Nat) (g : Tile → Tile) : s.TilesBut (s1.onTile t g) t := fun u hu => (s1.tile_onTile_ne hu g).trans (h.tile u)

end

/-! ### Spans -/

theorem State.Frame.lineDefer (h : s.Frame a countParts spanFields) (p n : Nat) (rank : Nat → Nat) (hoist : Option Nat) :
    s.Frame (a.lineDefer p n rank hoist) countParts spanFields := by
  refine .ite h (.foldl h (fun x i hx => ?_) _)
  dsimp only
  split
  · cases hoist with
    | none => exact .ite (hx.cnt _ _ 1) hx
    | some t => exact .ite ((hx.cnt _ _ 1).cnt _ _ 1) hx
  · exact hx

/-- The units of a span lie within it, each within one word or line. -/
theorem unitsOf_within (fuel p n : Nat) : ∀ u ∈ unitsOf fuel p n, 0 < u.2 ∧ u.1 + u.2 ≤ unitEnd u.1 ∧ p ≤ u.1 ∧ u.1 + u.2 ≤ p + n := by
  induction fuel generalizing p n with
  | zero => simp [unitsOf]
  | succ fuel ih =>
    have := lt_unitEnd p
    simp only [unitsOf]
    split_ifs with hn
    · simp
    · refine List.forall_mem_cons.2 ⟨by dsimp only; omega, fun u hu => ?_⟩
      have := ih _ _ u hu
      omega

/-- What writes of a memory without errors change. -/
def writeParts : List Part := [.regs, .act, .mem, .ecc]

theorem State.Calm.only_unitWrite (h : s.Calm) {p : Nat} {bs : List Byte} (ok : s.accessAt p = .ok) (some : bs ≠ []) (fits : p + bs.length ≤ unitEnd p) :
    s.Only (s.unitWrite p bs false) writeParts := by
  unfold State.unitWrite
  rcases State.place_of_ok ok with ⟨u, b, off, e⟩ | ⟨st, l, e⟩
  · rw [e]
    exact ((h.clean u b).spdWrite off some).only.mono (by decide)
  · obtain ⟨-, far, -⟩ := s.place_hbm_decode e
    have line : l % 64 + bs.length ≤ 64 := by
      have := (State.place_hbm e).2
      unfold unitEnd at fits
      rw [if_pos far] at fits
      omega
    rw [e]
    exact ((s.only_hbmWriteCounted _ _).mono (by decide)).trans ((State.hbmLineWrite_good (h.marks (lineKey st l)) line).only.mono (by decide))

theorem State.Calm.only_unitsWrite (h : s.Calm) {base : Nat} {bs : List Byte} {us : List (Nat × Nat)} (ok : ∀ u ∈ us, s.accessAt u.1 = .ok)
    (within : ∀ u ∈ us, 0 < u.2 ∧ u.1 + u.2 ≤ unitEnd u.1 ∧ base ≤ u.1 ∧ u.1 + u.2 ≤ base + bs.length) :
    s.Only (us.foldl (fun s u => s.unitWrite u.1 ((bs.drop (u.1 - base)).take u.2) false) s) writeParts := by
  induction us generalizing s with
  | nil => exact .refl _ _
  | cons u us ih =>
    obtain ⟨size, fits, lo, hi⟩ := within u List.mem_cons_self
    have length : ((bs.drop (u.1 - base)).take u.2).length = u.2 := by
      rw [List.length_take, List.length_drop]
      omega
    have filled : (bs.drop (u.1 - base)).take u.2 ≠ [] := List.ne_nil_of_length_pos (by omega)
    have first := h.only_unitWrite (ok u List.mem_cons_self) filled (by omega)
    have moved := (h.unitWrite (t := 0) (ok u List.mem_cons_self) filled (by omega)).moved
    exact first.trans (ih (moved.calm h) (fun w hw => (moved.accessAt _).trans (ok w (List.mem_cons_of_mem _ hw)))
      fun w hw => within w (List.mem_cons_of_mem _ hw))

/-! ### Answers -/

/-- Who answers decides only on the packet's sender. -/
theorem State.answerFrom_keeps (s : State) (x : Nat) (r : Packet) : (s.answerFrom x r).ty = r.ty ∧ (s.answerFrom x r).len = r.len ∧
    (s.answerFrom x r).payload = r.payload ∧ (s.answerFrom x r).poison = r.poison := by
  unfold State.answerFrom
  split <;> exact ⟨rfl, rfl, rfl, rfl⟩

end

end Sys2Proof.Machine
end

section
/-! PROOF. Packets that reach this die (R178, R180, R240, R275, R421, R448, R449). -/
namespace Sys2Proof.Machine

section
variable {s s1 : State} {n : Nat} {p : Arrival}

/-- A POST that reaches a running tile whose queue's bank is not clearing. -/
theorem State.Arrives.post (h : s.Arrives 2 n p s1) (active : (s.tile p.pkt.dstTile).active = true)
    (clear : s.clearing p.pkt.dstTile (qBank p.pkt.dstQueue) = false) : s.postReceive n =
      if s.fenced p.pkt.dstTile p.pkt.injAt then s1.cnt .tileGenDrop p.pkt.dstTile 0 1
      else if !s.qEnabled p.pkt.dstTile p.pkt.dstQueue then s1.cnt .tileQDropDisabled (qInst p.pkt.dstTile p.pkt.dstQueue) 0 1
      else if s.qOcc p.pkt.dstTile p.pkt.dstQueue ≥ s.qDepth p.pkt.dstTile p.pkt.dstQueue then
        s1.cnt .tileQDropFull (qInst p.pkt.dstTile p.pkt.dstQueue) 0 1
      else s1.qAdmit p.pkt.dstTile p.pkt.dstQueue (padTo 64 p.pkt.payload) p.pkt.poison false := by
  obtain ⟨i, -, -, rfl⟩ := h.taken
  have taken : s.netTake 2 n = some (p, _) := h
  rw [State.postReceive, taken]
  have steps : ¬ ((!(s.tile p.pkt.dstTile).active) = true ∨ s.clearing p.pkt.dstTile (qBank p.pkt.dstQueue) = true) := by simp [active, clear]
  exact if_neg steps

theorem State.Arrives.signal (h : s.Arrives 3 n p s1) (active : (s.tile p.pkt.dstTile).active = true)
    (fresh : s.fenced p.pkt.dstTile p.pkt.injAt = false) : s.signalReceive n = s1.semAdd p.pkt.dstTile p.pkt.sem p.pkt.addr := by
  obtain ⟨i, -, -, rfl⟩ := h.taken
  have taken : s.netTake 3 n = some (p, _) := h
  have steps : ¬ ((!(s.tile p.pkt.dstTile).active) = true) := by simp [active]
  rw [State.signalReceive, taken]
  exact (if_neg steps).trans (if_neg (by rw [← Bool.not_eq_true] at fresh; exact fresh))

/-! ### WRITE and READ -/

/-- The bytes of a WRITE are stored. -/
def State.writeUnits (s : State) (p : Packet) : State :=
  (spanUnits p.addr p.len).foldl (fun s u => s.unitWrite u.1 ((p.payload.drop (u.1 - p.addr)).take u.2) false) s

/-- They are stored, and their lines counted. -/
def State.writeStored (s : State) (p : Packet) : State := ((s.writeUnits p).lineDefer p.addr p.len (fun _ => 6) none).spanCount p.addr p.len

/-- A WRITE that is reached whole is stored and acknowledged. -/
theorem State.Arrives.write (h : s.Arrives 0 n p s1) (fresh : ∀ t, s.tileAt p.pkt.addr = some t → s.fenced t p.pkt.injAt = false)
    (free : s.heldAt [(p.pkt.addr, p.pkt.len)] = none) (ok : s.okBytes p.pkt.addr p.pkt.len = p.pkt.len) (clean : p.pkt.poison = []) :
    s.writeReceive n = (s1.writeStored p.pkt).reply p.pkt (s1.answerFrom p.pkt.addr { ty := 1 }) := by
  have fence (t : Nat) : s1.fenced t p.pkt.injAt = s.fenced t p.pkt.injAt := by
    obtain ⟨i, -, -, rfl⟩ := h.taken
    rfl
  have tile : s1.tileAt p.pkt.addr = s.tileAt p.pkt.addr := by
    obtain ⟨i, -, -, rfl⟩ := h.taken
    rfl
  have held : s1.heldAt [(p.pkt.addr, p.pkt.len)] = none := (h.heldAt _).trans free
  have reached : ∀ u ∈ spanUnits p.pkt.addr p.pkt.len, (s1.accessAt u.1 == .ok) = true := fun u hu =>
    beq_iff_eq.2 ((h.accessAt _).trans (State.spanUnits_ok ok u hu))
  have all : (spanUnits p.pkt.addr p.pkt.len).filter (fun u => s1.accessAt u.1 == .ok) = spanUnits p.pkt.addr p.pkt.len := List.filter_eq_self.2 reached
  have lost : (spanUnits p.pkt.addr p.pkt.len).filter (fun u => s1.accessAt u.1 != .ok) = [] :=
    List.filter_eq_nil_iff.2 fun u hu => by simp [bne, reached u hu]
  have answered : (spanUnits p.pkt.addr p.pkt.len).all (fun u => s1.accessAt u.1 == .ok) = true := List.all_eq_true.2 reached
  have good (l : List Nat) : l.any (fun _ => false) = false := by simp
  rw [State.writeReceive, show s.netTake 0 n = some (p, s1) from h]
  have passes : ∀ t, s1.tileAt p.pkt.addr = some t → s1.fenced t p.pkt.injAt = false := fun t ht => (fence t).trans (fresh t (tile ▸ ht))
  dsimp only
  refine (if_neg ?_).trans ?_
  · split
    · next t place => simp [passes t place]
    · simp
  · simp only [held, all, lost, answered, clean, List.contains_nil, good, if_true]
    rfl

/-- What storing a WRITE changes, and the bytes that it puts. -/
theorem State.Calm.writeStored (h : s.Calm) {p : Packet} (size : p.payload.length = p.len) (ok : s.okBytes p.addr p.len = p.len) :
    s.Only (s.writeStored p) writeParts ∧ ∀ x, (s.writeStored p).memByte x = (putAt p.addr p.payload x).getD (s.memByte x) := by
  have reached := State.spanUnits_ok ok
  have only := h.only_unitsWrite (base := p.addr) (bs := p.payload) reached fun u hu => by
    rw [size]
    exact unitsOf_within _ _ _ u hu
  have puts := h.unitsWrite (t := 0) (base := p.addr) (bs := p.payload) (p.len + 1) p.addr p.len (Nat.lt_succ_self _) (le_refl _) (by omega) reached
  rw [Nat.sub_self, List.drop_zero] at puts
  have counted : (s.writeUnits p).Frame (s.writeStored p) countParts spanFields := ((State.Frame.refl _ _ _).lineDefer _ _ _ _).spanCount _ _ _
  exact ⟨only.trans (counted.only.mono (by decide)), (puts.quiet counted).byte⟩

/-- The state in which the bytes of a READ have been read. -/
def State.readDone (s : State) (p : Packet) : State :=
  ((s.lineDefer p.addr p.len (fun _ => 6) (if p.onDie then some p.srcTile else none)).spanRead p.addr p.len).1

/-- A READ of a memory without errors only counts. -/
theorem State.Calm.readDone (h : s.Calm) (p : Packet) : s.Frame (s.readDone p) countParts spanFields :=
  have deferred := (State.Frame.refl s countParts spanFields).lineDefer p.addr p.len (fun _ => 6) (if p.onDie then some p.srcTile else none)
  deferred.after ((deferred.calm h).spanRead p.addr p.len)

/-- A READ that is reached whole is answered. -/
theorem State.Arrives.read (h : s.Arrives 4 n p s1) (calm : s1.Calm) (free : s.heldAt [(p.pkt.addr, p.pkt.len)] = none)
    (ok : s.okBytes p.pkt.addr p.pkt.len = p.pkt.len) : s.readReceive n = (s1.readDone p.pkt).reply p.pkt
      (s1.answerFrom p.pkt.addr { ty := 5, len := p.pkt.len, payload := s1.memBytes p.pkt.addr p.pkt.len, poison := [] }) := by
  have held : s1.heldAt [(p.pkt.addr, p.pkt.len)] = none := (h.heldAt _).trans free
  have whole : s1.okBytes p.pkt.addr p.pkt.len = p.pkt.len := (h.okBytes _ _).trans ok
  have deferred := (State.Frame.refl s1 countParts spanFields).lineDefer p.pkt.addr p.pkt.len (fun _ => 6)
    (if p.pkt.onDie then some p.pkt.srcTile else none)
  have bytes : (s1.lineDefer p.pkt.addr p.pkt.len (fun _ => 6) (if p.pkt.onDie then some p.pkt.srcTile else none)).memBytes p.pkt.addr p.pkt.len =
      s1.memBytes p.pkt.addr p.pkt.len := List.map_congr_left fun x _ => (State.Puts.of_quiet (t := 0) deferred).byte _
  rw [State.readReceive, show s.netTake 4 n = some (p, s1) from h]
  simp only [held, whole, lt_self_iff_false, if_false, State.spanRead, bytes, calm.memBad]
  simp
  rfl

/-! ### ACK and READ_DATA -/

/-- The hoist of a tile has an acknowledgement. -/
def State.hoistAcked (s : State) (t tag : Nat) : State := s.onTile t (fun x => { x with hoist := { x.hoist with
  active := x.hoist.active.map (fun r => { r with acks := r.acks.filter (· != tag) }) } })

/-- The headframe has an acknowledgement. -/
def State.hfAcked (s : State) (tag : Nat) : State :=
  { s with hfOut := s.hfOut.filter (fun e => e.1 != tag)
           skip := { s.skip with chunks := s.skip.chunks.map (fun k => { k with tags := k.tags.filter (· != tag) }) } }

theorem State.only_hfAcked (s : State) (tag : Nat) : s.Only (s.hfAcked tag) [.hfOut, .skip] := by
  intro p hp
  cases p
  case hfOut | skip => simp at hp
  all_goals rfl

/-- An ACK goes to the hoist that awaits it, else to the headframe if it is tile 255's, and else it is late. -/
theorem State.Arrives.ack (h : s.Arrives 1 n p s1) : s.ackReceive n =
    if p.pkt.gen = s.rd .tileGen p.pkt.dstTile ∧ (s.tile p.pkt.dstTile).hoist.active.any (fun r => r.acks.contains p.pkt.tag) then
      if (s.tile p.pkt.dstTile).stopped then s else s1.hoistAcked p.pkt.dstTile p.pkt.tag
    else if p.pkt.dstTile = 0xFF ∧ s.hfOut.any (fun e => e.1 == p.pkt.tag && s.rd .hfCompStatusGen 0 e.2 == p.pkt.gen) then
      s1.hfAcked p.pkt.tag
    else if p.pkt.dstTile = 0xFF then s1.bump .rasLateDrop
    else if (s.tile p.pkt.dstTile).stopped then s else s1.cnt .tileGenDrop p.pkt.dstTile 0 1 := by
  obtain ⟨i, -, -, rfl⟩ := h.taken
  rw [State.ackReceive, show s.netTake 1 n = some (p, _) from h]
  rfl

theorem State.Arrives.readData (h : s.Arrives 5 n p s1) : s.readDataReceive n =
    if (s.tile p.pkt.dstTile).stopped then s
    else if p.pkt.gen = s.rd .tileGen p.pkt.dstTile ∧ (s.tile p.pkt.dstTile).hoist.reads.contains p.pkt.tag then
      s1.readOver p.pkt.dstTile p.pkt.tag (leNat p.pkt.payload) (!p.pkt.poison.isEmpty) false
    else s1.cnt .tileGenDrop p.pkt.dstTile 0 1 := by
  obtain ⟨i, -, -, rfl⟩ := h.taken
  rw [State.readDataReceive, show s.netTake 5 n = some (p, _) from h]
  rfl

/-! ### What has become of them -/

/-- A POST that is admitted stands in its queue. -/
theorem State.Arrives.admits (h : s.Arrives 2 n p s1) (hq : p.pkt.dstQueue < 128) (ht : p.pkt.dstTile < 256) (size : p.pkt.payload.length = 64)
    (steady : ∀ i, (s.slot p.pkt.dstTile i).mode ≠ .committing) :
    s1.Admitted (s1.qAdmit p.pkt.dstTile p.pkt.dstQueue (padTo 64 p.pkt.payload) [] false) p.pkt.dstTile p.pkt.dstQueue p.pkt.payload false := by
  have still : s1.Steady p.pkt.dstTile (qBank p.pkt.dstQueue) := fun _ i => by
    rw [State.slot, h.tile]
    exact steady i
  rw [show padTo 64 p.pkt.payload = p.pkt.payload by simp [padTo, size]]
  exact State.qAdmit_admitted (t := ⟨p.pkt.dstTile, ht⟩) hq still size false

/-- An ACK that the hoist awaits. -/
theorem State.hoistAcked_spec (s : State) (t tag : Nat) : (∀ r ∈ ((s.hoistAcked t tag).tile t).hoist.active, tag ∉ r.acks) ∧
    ((s.hoistAcked t tag).tile t).hoist.active.length = (s.tile t).hoist.active.length := by
  simp [State.hoistAcked]

/-- A READ_DATA that the hoist awaits. -/
theorem State.readOver_spec (s : State) (t tag v : Nat) (bad : Bool) :
    ((s.readOver t tag v bad false).tile t).reads = (s.tile t).reads ++ [⟨tag, v, bad, false⟩] ∧
      tag ∉ ((s.readOver t tag v bad false).tile t).hoist.reads := by
  simp [State.readOver]

end

/-- Settles O34: what each packet finds at its target. -/
theorem packetsReceived : Obligations.PacketsReceived := by
  refine ⟨fun ty n p s s1 h => h.taken, fun n p s s1 h active hq ht clear => ?_, fun n p s s1 h active ht hk fresh => ⟨_, rfl, ?_⟩,
    fun n p s s1 marks steady free ok => ⟨fun h size clean fresh => ⟨_, rfl, ?_⟩, fun h => ⟨_, rfl, ?_⟩⟩, fun n p s s1 h ht => ?_,
    fun n p s s1 h ht others => ?_, fun n p s s1 h ht => ?_⟩
  case refine_1 =>
    have ran := h.post active clear
    have hi : qInst p.pkt.dstTile p.pkt.dstQueue < 65536 := by
      unfold qInst
      omega
    refine ⟨fun late => ⟨_, rfl, ?_⟩, fun fresh off => ⟨_, rfl, ?_⟩, fun fresh on full => ⟨_, rfl, ?_⟩,
      fun fresh on room size clean steady => ⟨_, rfl, ?_⟩⟩
    · rw [ran, if_pos late]
      exact h.counted rfl (by omega)
    · rw [ran, fresh, off]
      exact h.counted rfl hi
    · rw [ran, fresh, on, if_pos full]
      exact h.counted rfl hi
    · obtain ⟨entry, bytes, tail, posts, fields, only⟩ := h.admits hq ht size steady
      rw [ran, fresh, on, if_neg Bool.false_ne_true, if_neg (by decide), if_neg (Nat.not_le.2 room), clean]
      obtain ⟨i, -, -, rfl⟩ := h.taken
      exact ⟨entry, bytes, tail, posts, fields, only⟩
  case refine_2 =>
    have moved := s1.semAdd_moved ⟨p.pkt.dstTile, ht⟩ hk p.pkt.addr
    rw [h.signal active fresh, ← h.rd]
    exact ⟨moved.sem, moved.fields, moved.only⟩
  case refine_3 =>
    obtain ⟨only, bytes⟩ := (h.calm marks steady).writeStored size ((h.okBytes _ _).trans ok)
    have outbox : (s1.writeStored p.pkt).outbox = s.outbox := (only .outbox (by decide)).trans h.outbox
    obtain ⟨isAck, empty, -, -⟩ := s1.answerFrom_keeps p.pkt.addr { ty := 1 }
    rw [h.write fresh free ok clean]
    refine ⟨fun k hk => (bytes _).trans ?_, fun k hk => (bytes k).trans ?_, ⟨_, congrArg (· ++ [_]) outbox, isAck, empty, rfl, rfl, rfl, rfl⟩,
      (only.mono (by decide)).trans ((State.only_send _ _).mono (by decide))⟩
    · rw [putAt_inside, List.getD_eq_getElem?_getD, List.getElem?_eq_getElem (by omega)]
      rfl
    · rw [putAt_outside (by omega), h.memByte]
      rfl
  case refine_4 =>
    have calm := h.calm marks steady
    have only := (calm.readDone p.pkt).only
    have outbox : (s1.readDone p.pkt).outbox = s.outbox := (only .outbox (by decide)).trans h.outbox
    have bytes : s1.memBytes p.pkt.addr p.pkt.len = s.memBytes p.pkt.addr p.pkt.len := List.map_congr_left fun x _ => h.memByte _
    rw [h.read calm free ok, bytes]
    obtain ⟨isData, len, payload, good⟩ := s1.answerFrom_keeps p.pkt.addr
      { ty := 5, len := p.pkt.len, payload := s.memBytes p.pkt.addr p.pkt.len, poison := [] }
    exact ⟨⟨_, congrArg (· ++ [_]) outbox, isData, len, payload, rfl, rfl, rfl, rfl, good⟩,
      (only.mono (by decide)).trans ((State.only_send _ _).mono (by decide))⟩
  case refine_5 =>
    have ran := h.ack
    have tile : p.pkt.dstTile ≠ 0xFF := by omega
    refine ⟨fun stopped => ⟨_, rfl, ?_⟩, fun going gen listed => ⟨_, rfl, ?_⟩, fun going late => ⟨_, rfl, ?_⟩⟩
    · simp [ran, stopped, tile]
    · obtain ⟨gone, length⟩ := s1.hoistAcked_spec p.pkt.dstTile p.pkt.tag
      rw [ran, if_pos ⟨gen, listed⟩, going, if_neg Bool.false_ne_true]
      exact ⟨gone, length.trans (by rw [h.tile]), h.tilesBut _ _, State.only_onTile _ _ _⟩
    · rw [ran, if_neg (fun x => late.elim (fun other => other x.1) fun none => Bool.false_ne_true (none.symm.trans x.2)), if_neg (fun x => tile x.1),
        if_neg tile, going]
      exact h.counted rfl (by omega)
  case refine_6 =>
    have ran := h.ack
    rw [if_neg (ht ▸ others)] at ran
    refine ⟨fun awaited => ⟨_, rfl, ?_⟩, fun late => ⟨_, rfl, ?_⟩⟩
    · have outstanding : s1.hfOut = s.hfOut := by
        obtain ⟨i, -, -, rfl⟩ := h.taken
        rfl
      rw [ran, if_pos ⟨ht, by simpa using awaited⟩, ← outstanding]
      exact ⟨rfl, by simp [State.hfAcked], State.only_hfAcked _ _⟩
    · have none : s.hfOut.any (fun e => e.1 == p.pkt.tag && s.rd .hfCompStatusGen 0 e.2 == p.pkt.gen) = false := by simpa using late
      rw [ran, if_neg (fun x => Bool.false_ne_true (none.symm.trans x.2)), if_pos ht]
      exact h.counted rfl (by omega)
  case refine_7 =>
    have ran := h.readData
    refine ⟨fun stopped => ⟨_, rfl, ?_⟩, fun going gen listed => ⟨_, rfl, ?_⟩, fun going late => ⟨_, rfl, ?_⟩⟩
    · rw [ran, if_pos stopped]
    · obtain ⟨reads, gone⟩ := s1.readOver_spec p.pkt.dstTile p.pkt.tag (leNat p.pkt.payload) (!p.pkt.poison.isEmpty)
      rw [ran, going, if_neg Bool.false_ne_true, if_pos ⟨gen, listed⟩]
      exact ⟨reads.trans (by rw [h.tile]), gone, h.tilesBut _ _, State.only_onTile _ _ _⟩
    · rw [ran, going, if_neg Bool.false_ne_true, if_neg (fun x => late.elim (fun other => other x.1) fun none => Bool.false_ne_true (none.symm.trans x.2))]
      exact h.counted rfl (by omega)

end Sys2Proof.Machine
end

section
/-! The statement about refusals: only a command whose data is not well formed is turned away. -/
namespace Sys2Proof.Machine

/-- A bank access is made only where each of its requests lies in one line of the bank (R213). -/
theorem exec_bankAccess (t : TileId) (b : BankId) (reqs : List BankReq) (u : Upset) (s : State) :
    exec (.bankAccess t b reqs u) s =
      if (Instr.bankAccess t b reqs u).wellFormed then .next (s.bankAccess t b reqs u) else .refused (.illFormed "BANK_ACCESS") := rfl

/-- An HBM access is made only where its request lies in one line (R227). -/
theorem exec_hbmAccess (r : HbmReq) (u : HbmUpset) (wait : Fin 191) (s : State) :
    exec (.hbmAccess r u wait) s =
      if (Instr.hbmAccess r u wait).wellFormed then .next (s.hbmAccess r u wait) else .refused (.illFormed "HBM_ACCESS") := rfl

/-- A flit is taken only with a body of 248 bytes (R253). -/
theorem exec_flitReceive (p : PortId) (f : Flit) (s : State) :
    exec (.flitReceive p f) s =
      if (Instr.flitReceive p f).wellFormed then .next (s.flitArrive p f) else .refused (.illFormed "FLIT_RECEIVE") := by
  simp only [exec, execFlitReceive, Instr.wellFormed, beq_iff_eq]

/-- Every command answers a next state where its data is well formed and is turned away where it is not. Three commands carry data that can fail
the check; any other is well formed whatever its operands, and its arm of `exec` is a next state in every state. -/
theorem exec_eq_next_or_refused (c : Instr) (s : State) :
    ∃ r m, exec c s = if c.wellFormed then .next r else .refused (.illFormed m) := by
  cases c with
  | bankAccess t b reqs u => exact ⟨_, _, exec_bankAccess t b reqs u s⟩
  | hbmAccess r u wait => exact ⟨_, _, exec_hbmAccess r u wait s⟩
  | flitReceive p f => exact ⟨_, _, exec_flitReceive p f s⟩
  | _ => exact ⟨_, "", rfl⟩

/-- Settles O7: which of the two answers a command gives is decided by its well-formedness alone (`exec_eq_next_or_refused`). -/
theorem onlyIllFormedCommandsStop : Obligations.OnlyIllFormedCommandsStop := by
  intro c s
  obtain ⟨r, m, answer⟩ := exec_eq_next_or_refused c s
  exact ⟨fun good => ⟨r, answer.trans (if_pos good)⟩, fun bad => ⟨m, answer.trans (if_neg (Bool.eq_false_iff.mp bad))⟩⟩

end Sys2Proof.Machine
end

section
/-! SUPPORT. How a descriptor of the hoist ends (R242 to R244): refused as it is taken, or completed, with the record of its error and its signal. -/
namespace Sys2Proof.Machine

section
variable {s a : State} {t q : Nat} {d : List Nat} {r : HoistRun}

/-! ### A descriptor that is refused (R243) -/

/-- The command of a descriptor's kind takes it, and HOIST_LINEAR one whose KIND is illegal; a refused one executes with its status. -/
theorem State.HoistTakes.hoistRow_refused (h : s.HoistTakes t q d) {st kind : Nat} (illegal : (hoistFields d).illegal = some st)
    (takes : (hoistFields d).kind = kind ∨ kind = 0 ∧ 4 ≤ (hoistFields d).kind) :
    s.hoistRow t kind = (s.hoistReady t q).hoistBegin t { queue := q, desc := d, status := st } := by
  have none_ : s.hoistHeld t kind = none := List.find?_eq_none.2 fun r hr => by simp [h.moving r hr]
  have good (off n : Nat) : s.poisonWords t .cb off n = [] := List.filter_eq_nil_iff.2 fun i _ => by simp [h.good]
  have mine : ((hoistFields d).kind == kind || (kind == 0 && decide ((hoistFields d).kind ≥ 4))) = true := by simpa using takes
  have words := h.entry
  have read (off : Nat) : (s.spdRead t .cb 1 off 64).1 = s := by rw [State.spdRead, (h.calm.clean t .cb).wordsRead]
  unfold State.hoistRow
  simp only [h.active, Bool.not_true, Bool.false_eq_true, if_false, none_, if_neg (Nat.not_le.2 h.room), h.next, State.hoistTake, h.clear, good,
    List.isEmpty_nil, words, read, mine, illegal]
  rfl

/-- It moves nothing. -/
theorem State.HoistTakes.refused (h : s.HoistTakes t q d) {st kind : Nat} (illegal : (hoistFields d).illegal = some st)
    (takes : (hoistFields d).kind = kind ∨ kind = 0 ∧ 4 ≤ (hoistFields d).kind) :
    s.HoistBegun (s.hoistRow t kind) t { queue := q, desc := d, status := st } ∧ s.Only (s.hoistRow t kind) [.regs, .tiles, .act] := by
  have frame := s.frame_hoistReady t q
  have moved := s.moved_hoistReady t q
  rw [h.hoistRow_refused illegal takes]
  exact ⟨frame.hoistBegun moved.marks moved.tiles (by rw [moved.tile]) _, frame.only.hoistBegin t _⟩

/-! ### The event and the count of a completion (R242) -/

/-- The descriptor of queue q has left the hoist, which has signalled HST_DONE and counted it. -/
def State.hoistEnded (s : State) (t q : Nat) : State :=
  ((s.onTile t (fun x => { x with hoist := { x.hoist with active := x.hoist.active.filter (fun a => a.queue != q) } })).event t 2).cnt .hstDescDone t 0 1

theorem State.hoist_hoistEnded (s : State) (t q : Nat) : ((s.hoistEnded t q).tile t).hoist =
    { (s.tile t).hoist with active := (s.tile t).hoist.active.filter (fun a => a.queue != q) } := by
  rw [State.hoistEnded, State.tile_cnt, State.event, State.applyHeld, State.tile_onTile_same, State.tile_onTile_same]

theorem State.event_hoistEnded (s : State) (t q : Nat) : ((s.hoistEnded t q).tile t).core.ev0.testBit 2 = true :=
  State.testBit_event _ t 2

theorem State.tilesBut_hoistEnded (s : State) (t q : Nat) : s.TilesBut (s.hoistEnded t q) t := fun u hu => by
  rw [State.hoistEnded, State.tile_cnt, State.event, State.applyHeld, State.tile_onTile_ne _ hu, State.tile_onTile_ne _ hu]

theorem State.rd_hoistEnded (s : State) (t q : Nat) : (s.hoistEnded t q).rd .hstDescDone t = (s.rd .hstDescDone t + 1) % 2 ^ 64 :=
  State.rd_cnt_same _ _ _ _ _

theorem State.fieldsBut_hoistEnded (s : State) (t : TileId) (q : Nat) : s.FieldsBut (s.hoistEnded t q) [(.hstDescDone, t, 0)] :=
  .cnt (.congr (.refl s _) rfl rfl) (by simp [tile_mod]) 1

theorem State.frame_hoistEnded (s : State) (t q : Nat) : s.Frame (s.hoistEnded t q) [.regs, .tiles] [.hstDescDone] :=
  (((State.Frame.refl s _ _).onTile t _).onTile t _).cnt t 0 1

/-! ### The signal of a completion -/

theorem hoistFields_sem_lt (d : List Nat) : (hoistFields d).sem < 64 := Nat.mod_lt _ (by decide)

theorem State.Frame.targetHere {ps : List Part} {fs : List Field} (h : s.Frame a ps fs) (target : Nat) (hv : Field.fabDevIdValid ∉ fs := by decide)
    (hd : Field.fabDevIdId ∉ fs := by decide) : a.targetHere target = s.targetHere target := by
  unfold State.targetHere
  rw [h.on _ 0 0 hv, h.rd _ 0 0 hd]

/-- A signal to a semaphore of the tile itself. -/
theorem State.signal_here {k x target vc : Nat} (here : s.targetHere target = true) (own : targetTile target = t) :
    s.signal t k x target vc = s.semAdd t k x := by simp [State.signal, here, own]

/-- A signal to any other tile. -/
theorem State.signal_away {k x target vc : Nat} (away : ¬ (s.targetHere target = true ∧ targetTile target = t)) :
    s.signal t k x target vc = s.send (s.signalPacket t k x target vc) := if_neg (by simpa using away)

/-- A descriptor that ends without an error sends its signal, if it has one. -/
theorem State.hoistFinish_good (good : r.status = 0) : s.hoistFinish t r =
    if (hoistFields r.desc).sigEn then (s.hoistEnded t r.queue).signal t (hoistFields r.desc).sem 1 (hoistFields r.desc).sigTarget
      (if (hoistFields r.desc).vc < 2 then 2 else (hoistFields r.desc).vc)
    else s.hoistEnded t r.queue := by
  unfold State.hoistFinish State.hoistEnded
  cases e : (hoistFields r.desc).sigEn <;> simp [good, e]

/-! ### The record of an error (R243) -/

/-- The fields that the record of a hoist's error may write. -/
def hoistErrFields : List Field :=
  .hstErrInfoQueue :: .hstErrInfoStatus :: .hstErrTag :: .hstErrAddr :: .hstErrInfoValid :: .rasResetSuppress :: eventNames

/-- The error has been reported to the RAS agent, but for one that its access has reported (R51). -/
def State.hoistTold (s : State) (t : Nat) (r : HoistRun) : State := if r.status = 0x11 then s else s.reportTile 1 t (0x400 + r.status) r.errAddr

theorem State.frame_hoistTold (s : State) (t : Nat) (r : HoistRun) : s.Frame (s.hoistTold t r) [.regs, .ras] [.rasResetSuppress] :=
  .ite (.refl _ _ _) (s.frame_reportTile _ _ _ _)

theorem State.hoistRecord_eq (s : State) (t : Nat) (r : HoistRun) : s.hoistRecord t r =
    if (s.hoistTold t r).on .hstErrInfoValid t then s.hoistTold t r
    else ((((((s.hoistTold t r).wr .hstErrInfoQueue t 0 r.queue).wr .hstErrInfoStatus t 0 r.status).wr .hstErrTag t 0
      (if r.status = 0x13 then 0 else (hoistFields r.desc).tag)).wr .hstErrAddr t 0 (if r.status = 0x10 ∨ r.status = 0x11 then r.errAddr else 0)).wr
      .hstErrInfoValid t 0 1).irq t := rfl

theorem State.frame_hoistRecord (s : State) (t : Nat) (r : HoistRun) : s.Frame (s.hoistRecord t r) [.regs, .ras, .ic, .adit] hoistErrFields := by
  have told : s.Frame (s.hoistTold t r) [.regs, .ras, .ic, .adit] hoistErrFields := (s.frame_hoistTold t r).mono
  rw [s.hoistRecord_eq]
  exact .ite told ((((((told.wr t 0 _).wr t 0 _).wr t 0 _).wr t 0 _).wr t 0 1).after (State.frame_irq _ t))

/-- The error of a descriptor stands in the hoist's record. -/
structure State.HoistError (s : State) (t : Nat) (r : HoistRun) : Prop where
  valid : s.rd .hstErrInfoValid t = 1
  status : s.rd .hstErrInfoStatus t = r.status % 2 ^ 8
  queue : s.rd .hstErrInfoQueue t = r.queue % 2 ^ 5
  tag : s.rd .hstErrTag t = (if r.status = 0x13 then 0 else (hoistFields r.desc).tag) % 2 ^ 32

/-- While VALID is 0 the error is recorded. -/
theorem State.hoistRecord_records (empty : s.rd .hstErrInfoValid t = 0) : (s.hoistRecord t r).HoistError t r := by
  have valid : ¬ (s.hoistTold t r).on .hstErrInfoValid t = true := by
    simp [State.on, (s.frame_hoistTold t r).rd .hstErrInfoValid t 0 (by decide), empty]
  have after (a : State) {f : Field} (hf : f ∉ eventNames) : (a.irq t).rd f t = a.rd f t := (a.frame_irq t).rd f t 0 hf
  rw [s.hoistRecord_eq, if_neg valid]
  refine ⟨?_, ?_, ?_, ?_⟩
  · rw [after _ (by decide), State.rd_wr_same]
    rfl
  · rw [after _ (by decide), State.rd_wr_ne _ (by decide), State.rd_wr_ne _ (by decide), State.rd_wr_ne _ (by decide), State.rd_wr_same]
    rfl
  · rw [after _ (by decide), State.rd_wr_ne _ (by decide), State.rd_wr_ne _ (by decide), State.rd_wr_ne _ (by decide), State.rd_wr_ne _ (by decide),
      State.rd_wr_same]
    rfl
  · rw [after _ (by decide), State.rd_wr_ne _ (by decide), State.rd_wr_ne _ (by decide), State.rd_wr_same]
    rfl

/-! ### A signal that is withheld -/

/-- The error is recorded, and the signal of its descriptor withheld. -/
def State.hoistWithheld (s : State) (t : Nat) (r : HoistRun) : State := (s.hoistRecord t r).cnt .hstSigWithheld t 0 1

theorem State.frame_hoistWithheld (s : State) (t : Nat) (r : HoistRun) :
    s.Frame (s.hoistWithheld t r) [.regs, .ras, .ic, .adit] (.hstSigWithheld :: hoistErrFields) :=
  (s.frame_hoistRecord t r).mono.cnt t 0 1

theorem State.rd_hoistWithheld (s : State) (t : Nat) (r : HoistRun) : (s.hoistWithheld t r).rd .hstSigWithheld t = (s.rd .hstSigWithheld t + 1) % 2 ^ 64 := by
  rw [State.hoistWithheld, State.rd_cnt_same, (s.frame_hoistRecord t r).rd _ _ _ (by decide)]
  rfl

theorem State.hoistWithheld_records (empty : s.rd .hstErrInfoValid t = 0) : (s.hoistWithheld t r).HoistError t r := by
  have recorded := State.hoistRecord_records (r := r) empty
  have kept {f : Field} (hf : f ≠ .hstSigWithheld) : (s.hoistWithheld t r).rd f t = (s.hoistRecord t r).rd f t := State.rd_cnt_ne _ hf _ _ _ _ _
  exact ⟨(kept (by decide)).trans recorded.valid, (kept (by decide)).trans recorded.status, (kept (by decide)).trans recorded.queue,
    (kept (by decide)).trans recorded.tag⟩

/-- An illegal descriptor counts, and its signal is withheld. -/
theorem State.hoistFinish_illegal (error : 0 < r.status) (illegal : r.status < 0x10) (signals : (hoistFields r.desc).sigEn = true) :
    s.hoistFinish t r = ((s.hoistEnded t r.queue).cnt .hstDescIllegal t 0 1).hoistWithheld t r := by
  simp [State.hoistFinish, State.hoistEnded, State.hoistWithheld, signals, illegal, error.ne', show r.status ≠ 0x10 by omega, show r.status ≠ 0x12 by omega]

/-- So is that of one whose acknowledgements have not come in time (R244). -/
theorem State.hoistFinish_late (late : r.status = 0x12) (signals : (hoistFields r.desc).sigEn = true) :
    s.hoistFinish t r = (((s.hoistEnded t r.queue).cnt .hstDescErr t 0 1).cnt .hstRemoteTimeout t 0 1).hoistWithheld t r := by
  simp [State.hoistFinish, State.hoistEnded, State.hoistWithheld, signals, late]

/-! ### When a descriptor completes -/

theorem State.hoistComplete_of_some (taken : s.hoistOf t q = some r) (active : (s.tile t).active = true) (moved : r.waits = false) :
    s.hoistComplete t q = if r.acks = [] then s.hoistFinish t r else s := by
  unfold State.hoistComplete
  rw [taken]
  cases e : r.acks <;> simp [active, moved, e]

theorem State.hoistTimeout_early (taken : s.hoistOf t q = some r) (early : s.tally < r.lastSent + s.rd .hstRemoteTimeoutNs t) : s.hoistTimeout t q = s := by
  simp [State.hoistTimeout, taken, early]

/-- A descriptor that waits no longer for its acknowledgements. -/
def HoistRun.late (r : HoistRun) : HoistRun := { r with acks := [], status := 0x12 }

theorem State.hoistTimeout_due (taken : s.hoistOf t q = some r) (active : (s.tile t).active = true) (outstanding : r.acks ≠ [])
    (limited : s.rd .hstRemoteTimeoutNs t ≠ 0) (due : r.lastSent + s.rd .hstRemoteTimeoutNs t ≤ s.tally) (good : r.status = 0) :
    s.hoistTimeout t q = s.hoistFinish t r.late := by
  simp [State.hoistTimeout, HoistRun.late, taken, active, outstanding, limited, Nat.not_lt.2 due, good]

end

end Sys2Proof.Machine
end

section
/-! PROOF. Refused and completed descriptors of the hoist (R242 to R244). -/
namespace Sys2Proof.Machine

section
variable {s a : State} {t : TileId} {q : Nat} {r : HoistRun}

/-- From s to a the descriptor r of queue q has ended with an error, and its signal has been withheld. -/
structure State.HoistFailed (s a : State) (t q : Nat) (r : HoistRun) : Prop where
  hoist : (a.tile t).hoist = { (s.tile t).hoist with active := (s.tile t).hoist.active.filter (fun x => x.queue != q) }
  frame : s.Frame a [.regs, .tiles, .ras, .ic, .adit]
    (.hstDescDone :: .hstDescIllegal :: .hstDescErr :: .hstRemoteTimeout :: .hstSigWithheld :: hoistErrFields)
  tiles : s.TilesBut a t
  done : a.rd .hstDescDone t = (s.rd .hstDescDone t + 1) % 2 ^ 64
  withheld : a.rd .hstSigWithheld t = (s.rd .hstSigWithheld t + 1) % 2 ^ 64
  records : s.rd .hstErrInfoValid t = 0 → a.HoistError t r

/-- The counters of errors leave what the hoist and the other tiles hold. -/
theorem State.hoistFailed_of_counted (counted : (s.hoistEnded t q).Frame a [.regs] [.hstDescIllegal, .hstDescErr, .hstRemoteTimeout]) :
    s.HoistFailed (a.hoistWithheld t r) t q r := by
  have ended := s.frame_hoistEnded t q
  have withheld := a.frame_hoistWithheld t r
  have tiles (u : Nat) : (a.hoistWithheld t r).tile u = (s.hoistEnded t q).tile u := (withheld.only.tile (by decide) u).trans (counted.tile u)
  refine ⟨?_, (ended.mono.after counted).after withheld, fun u hu => (tiles u).trans (s.tilesBut_hoistEnded t q u hu), ?_, ?_, fun empty =>
    State.hoistWithheld_records ?_⟩
  · rw [tiles, s.hoist_hoistEnded]
  · rw [withheld.rd _ _ _ (by decide), counted.rd _ _ _ (by decide), s.rd_hoistEnded]
  · rw [State.rd_hoistWithheld, counted.rd _ _ _ (by decide), ended.rd _ _ _ (by decide)]
  · rw [counted.rd _ _ _ (by decide), ended.rd _ _ _ (by decide), empty]

end

/-- Settles O33: a refused descriptor begins with its status, and one whose acknowledgements have come, or come no more, ends with its counts, its
record and its signal. -/
theorem hoistCompletes : Obligations.HoistCompletes := by
  refine ⟨fun t s q d h st illegal => ?_, fun t q s r taken active isQueue moved => ?_⟩
  case refine_1 =>
    split
    case h_1 kind => exact ⟨_, rfl, h.refused illegal (.inl kind)⟩
    case h_2 kind => exact ⟨_, rfl, h.refused illegal (.inl kind)⟩
    case h_3 kind => exact ⟨_, rfl, h.refused illegal (.inl kind)⟩
    case h_4 one two three =>
      rw [imp_false] at one two three
      exact ⟨_, rfl, h.refused (kind := 0) illegal (by omega)⟩
  case refine_2 =>
    dsimp only
    have completes := State.hoistComplete_of_some taken active moved
    have ended := s.frame_hoistEnded t q
    have fields := s.fieldsBut_hoistEnded t q
    have tiles := s.tilesBut_hoistEnded t q
    have hoist := s.hoist_hoistEnded t q
    have done := s.rd_hoistEnded t q
    refine ⟨fun acks good silent => ⟨_, rfl, ?_⟩, fun acks good signals here own => ⟨_, rfl, ?_⟩, fun acks good signals away => ⟨_, rfl, ?_⟩,
      fun acks error illegal signals => ⟨_, rfl, ?_⟩, fun waits => ⟨_, rfl, completes.trans (if_neg waits)⟩,
      fun waits limited => ⟨fun late good signals => ⟨_, rfl, ?_⟩, fun early => ⟨_, rfl, ?_⟩⟩⟩
    · rw [completes, if_pos acks, State.hoistFinish_good good, silent, if_neg Bool.false_ne_true, isQueue]
      exact ⟨hoist, s.event_hoistEnded t q, done, tiles, fields, ended.only⟩
    · have added := (s.hoistEnded t q).semAdd_moved t (hoistFields_sem_lt r.desc) 1
      have notDone : Field.hstDescDone ∉ (semFields t (hoistFields r.desc).sem).map Prod.fst := by
        rw [semFields_eq, List.map_append]
        simpa using notMem_streamFields t (f := .hstDescDone) (by simp)
      rw [completes, if_pos acks, State.hoistFinish_good good, if_pos signals, isQueue,
        State.signal_here ((ended.targetHere _).trans here) own]
      refine ⟨by rw [added.only.tile (by decide), hoist], by rw [added.fields.rd notDone, done], ?_, fun u hu => ?_,
        (fields.mono (by simp)).trans (added.fields.mono fun _ hx => List.mem_cons_of_mem _ hx), ended.only.trans (added.only.mono (by decide))⟩
      · rw [added.sem, ended.rd _ _ _ (by decide)]
        rfl
      · rw [added.only.tile (by decide), tiles u hu]
    · rw [completes, if_pos acks, State.hoistFinish_good good, if_pos signals, isQueue,
        State.signal_away (by rwa [ended.targetHere])]
      exact ⟨hoist, done, ⟨_, congrArg (· ++ [_]) (ended.only .outbox (by decide)), rfl, rfl, rfl, rfl, rfl, rfl, rfl⟩, tiles, fields,
        (ended.only.mono (by decide)).trans ((State.only_send _ _).mono (by decide))⟩
    · have counted : (s.hoistEnded t q).Frame ((s.hoistEnded t q).cnt .hstDescIllegal t 0 1) [.regs] [.hstDescIllegal, .hstDescErr, .hstRemoteTimeout] :=
        (State.Frame.refl _ _ _).cnt t 0 1
      have failed := State.hoistFailed_of_counted (r := r) counted
      rw [completes, if_pos acks, State.hoistFinish_illegal error illegal signals, isQueue]
      refine ⟨failed.done, ?_, failed.withheld, fun empty => ?_, fun k => failed.frame.rd _ _ _ (by decide), failed.tiles, failed.frame.only⟩
      · rw [(State.frame_hoistWithheld _ _ _).rd _ _ _ (by decide), State.rd_cnt_same, ended.rd _ _ _ (by decide)]
        rfl
      · obtain ⟨valid, status, queue, tag⟩ := failed.records empty
        refine ⟨valid, status.trans (Nat.mod_eq_of_lt (by omega)), queue.trans ?_, tag.trans ?_⟩
        · rw [isQueue]
          exact Nat.mod_eq_of_lt q.isLt
        · rw [if_neg (by omega)]
    · have counted : (s.hoistEnded t q).Frame (((s.hoistEnded t q).cnt .hstDescErr t 0 1).cnt .hstRemoteTimeout t 0 1) [.regs]
          [.hstDescIllegal, .hstDescErr, .hstRemoteTimeout] := ((State.Frame.refl _ _ _).cnt t 0 1).cnt t 0 1
      have failed := State.hoistFailed_of_counted (r := r.late) counted
      rw [State.hoistTimeout_due taken active waits limited late good, State.hoistFinish_late (r := r.late) rfl signals,
        show r.late.queue = q.val from isQueue]
      refine ⟨failed.hoist, ?_, ?_, failed.withheld, fun empty => (failed.records empty).status, failed.tiles, failed.frame.only⟩
      · rw [(State.frame_hoistWithheld _ _ _).rd _ _ _ (by decide), State.rd_cnt_same, State.rd_cnt_ne _ (by decide), ended.rd _ _ _ (by decide)]
        rfl
      · rw [(State.frame_hoistWithheld _ _ _).rd _ _ _ (by decide), State.rd_cnt_ne _ (by decide), State.rd_cnt_same, ended.rd _ _ _ (by decide)]
        rfl
    · exact State.hoistTimeout_early taken early

end Sys2Proof.Machine
end

section
/-! SUPPORT. What an access of the host port makes of its span of BAR2 (R247, R248, R332, R337, R338): lines, TLPs and Unsupported Requests. -/
namespace Sys2Proof.Machine

section
variable {s a : State} {off n : Nat} {data : List Byte}

/-! ### The window of an offset (R338) -/

theorem State.winBytes_eq (s : State) : s.winBytes = 2 ^ (34 + s.adit.bar2Size) := by
  rw [State.winBytes, State.bar2Bytes, show 36 + s.adit.bar2Size = 34 + s.adit.bar2Size + 2 by omega, Nat.pow_add]
  exact Nat.mul_div_cancel _ (by decide)

theorem State.bar2Addr_eq (s : State) (off : Nat) : s.bar2Addr off =
    s.rd .adtWinBase 0 (off / 2 ^ (34 + s.adit.bar2Size)) + off % 2 ^ (34 + s.adit.bar2Size) := by rw [State.bar2Addr, s.winBytes_eq]

/-- A span within one line of BAR2. -/
theorem State.bar2Lines_one (s : State) (some : 0 < n) (fits : off % 64 + n ≤ 64) : s.bar2Lines (n + 1) off n = [(s.bar2Addr off, n)] := by
  obtain ⟨m, rfl⟩ := Nat.exists_eq_succ_of_ne_zero some.ne'
  have whole : min (m + 1) (64 - off % 64) = m + 1 := by omega
  simp [State.bar2Lines, whole]

/-! ### Unsupported Requests (R337, R346) -/

/-- From s to a, n accesses have been Unsupported Requests: each counts, and Advanced Error Reporting records them and reports what is not masked. -/
structure State.Unsupported (s a : State) (n : Nat) : Prop where
  count : a.rd .adtUr = (s.rd .adtUr + n) % 2 ^ 64
  adit : a.adit = { s.adit with uncSts := s.adit.uncSts ||| 2 ^ 20 }
  reported : a.rd .adtUncorrErr = if s.adit.uncMask.testBit 20 then s.rd .adtUncorrErr else (s.rd .adtUncorrErr + n) % 2 ^ 64
  fields : s.FieldsBut a [(.adtUr, 0, 0), (.adtUncorrErr, 0, 0)]
  only : s.Only a [.regs, .adit]

/-- An Unsupported Request is counted and its status bit set. -/
def State.urNoted (s : State) : State := { s.bump .adtUr with adit := { s.adit with uncSts := s.adit.uncSts ||| 2 ^ 20 } }

theorem State.unsupported_eq (s : State) : s.unsupported = if s.adit.uncMask.testBit 20 then s.urNoted else s.urNoted.bump .adtUncorrErr := rfl

theorem State.unsupported_one (s : State) : s.Unsupported s.unsupported 1 := by
  have count : s.urNoted.rd .adtUr = (s.rd .adtUr + 1) % 2 ^ 64 := State.rd_cnt_same s _ _ _ _
  have reported : s.urNoted.rd .adtUncorrErr = s.rd .adtUncorrErr := s.rd_bump_ne (by decide) 0 0
  have fields : s.FieldsBut s.urNoted [(.adtUr, 0, 0), (.adtUncorrErr, 0, 0)] :=
    .congr (.cnt (.refl s _) (f := .adtUr) (i := 0) (j := 0) (by decide) 1) rfl rfl
  have only : s.Only s.urNoted [.regs, .adit] := .adit (.bump (.refl s _) (by decide) _) (by decide) _
  rw [s.unsupported_eq]
  split
  · next masked => exact ⟨count, rfl, by rw [if_pos masked, reported], fields, only⟩
  · next open_ =>
    refine ⟨(State.rd_bump_ne _ (by decide) 0 0).trans count, rfl, ?_, fields.cnt (by decide) 1, only.bump (by decide) _⟩
    rw [if_neg open_, ← reported]
    exact State.rd_cnt_same _ _ _ _ _

theorem State.Unsupported.more (h : s.Unsupported a n) : s.Unsupported a.unsupported (n + 1) := by
  have last := a.unsupported_one
  refine ⟨?_, ?_, ?_, h.fields.trans last.fields, h.only.trans last.only⟩
  · rw [last.count, h.count, Nat.mod_add_mod, Nat.add_assoc]
  · rw [last.adit, h.adit]
    simp only [Nat.or_assoc, Nat.or_self]
  · rw [last.reported, h.reported, h.adit]
    split
    · rfl
    · rw [Nat.mod_add_mod, Nat.add_assoc]

/-! ### TLPs (R332) -/

theorem State.maxPayload_ge (s : State) : 128 ≤ s.maxPayload := Nat.le_mul_of_pos_right 128 (Nat.two_pow_pos _)

/-- Bytes that fit a TLP are written in one. -/
theorem State.bar2Write_one (up : s.adit.linkUp = true) (some : 0 < data.length) (fits : data.length ≤ 128) (poison : Bool) :
    s.bar2Write off data poison = s.bar2Tlp off data poison := by
  have size := s.maxPayload_ge
  have one : ceilDiv data.length s.maxPayload = 1 := Nat.div_eq_of_lt_le (by omega) (by omega)
  have whole : data.take s.maxPayload = data := List.take_of_length_le (by omega)
  simp [State.bar2Write, up, one, whole]

/-- A TLP that ends beyond BAR2. -/
theorem State.bar2Tlp_beyond (h : s.bar2Bytes < off + data.length) (poison : Bool) : s.bar2Tlp off data poison = s.unsupported := if_pos (.inr h)

/-- The TLPs of a write beyond BAR2 are unsupported one by one. -/
theorem State.bar2Tlps_beyond {f : Nat → Nat} {g : Nat → List Byte} (beyond : ∀ i, i ≤ n → s.bar2Bytes < f i + (g i).length) (poison : Bool) :
    s.Unsupported ((List.range (n + 1)).foldl (fun x i => x.bar2Tlp (f i) (g i) poison) s) (n + 1) := by
  induction n with
  | zero =>
    rw [List.range_one, List.foldl_cons, List.foldl_nil, State.bar2Tlp_beyond (beyond 0 (le_refl 0))]
    exact s.unsupported_one
  | succ n ih =>
    have before := ih fun i hi => beyond i (Nat.le_succ_of_le hi)
    rw [List.range_succ, List.foldl_append, List.foldl_cons, List.foldl_nil, State.bar2Tlp_beyond]
    · exact before.more
    · rw [State.bar2Bytes, before.adit]
      exact beyond (n + 1) (le_refl _)

/-- A write beyond BAR2 is one Unsupported Request for each of its TLPs. -/
theorem State.bar2Write_beyond (up : s.adit.linkUp = true) (beyond : s.bar2Bytes ≤ off) (some : 0 < data.length) (poison : Bool) :
    s.Unsupported (s.bar2Write off data poison) (ceilDiv data.length s.maxPayload) := by
  have size := s.maxPayload_ge
  generalize hk : s.maxPayload = k at size
  have within {i : Nat} (hi : i < ceilDiv data.length k) : k * i < data.length := by
    have := (Nat.le_div_iff_mul_le (by omega)).1 (Nat.succ_le_of_lt hi)
    rw [Nat.succ_mul, Nat.mul_comm i k] at this
    omega
  obtain ⟨n, hn⟩ := Nat.exists_eq_succ_of_ne_zero (show ceilDiv data.length k ≠ 0 from (Nat.div_pos (by omega) (by omega)).ne')
  have tlps := State.bar2Tlps_beyond (s := s) (n := n) (f := fun i => off + k * i) (g := fun i => (data.drop (k * i)).take k) (fun i hi => by
    have := within (i := i) (by omega)
    rw [List.length_take, List.length_drop]
    omega) poison
  have ran : s.bar2Write off data poison =
      (List.range (n + 1)).foldl (fun x i => x.bar2Tlp (off + k * i) ((data.drop (k * i)).take k) poison) s := by
    simp [State.bar2Write, up, hk, hn]
  rw [ran, hn]
  exact tlps

end

end Sys2Proof.Machine
end

section
/-! SUPPORT. Lines of BAR2 at their device addresses (R213, R218, R223, R247): which wait, and what one that is performed reads or stores. -/
namespace Sys2Proof.Machine

/-! ### Where an access goes depends on little -/

section
variable {s a : State} {ps : List Part} {fs : List Field} (h : s.Frame a ps fs)
include h

theorem State.Frame.place (hp : ∀ p ∈ [Part.variant, .bandNext], p ∉ ps := by decide)
    (hf : ∀ f ∈ [Field.hbmBandMode0, .hbmBandMode1, .hbmBandMode2], f ∉ fs := by decide) (x : Nat) : a.place x = s.place x :=
  State.place_congr (h.only .variant (hp _ (by decide))) (h.only .bandNext (hp _ (by decide))) (fun f hm => h.rd f 0 0 (hf f hm)) x

theorem State.Frame.accessAt (hp : ∀ p ∈ [Part.variant, .bandNext, .tiles, .hbmcs], p ∉ ps := by decide)
    (hf : ∀ f ∈ [Field.hbmBandMode0, .hbmBandMode1, .hbmBandMode2], f ∉ fs := by decide) (x : Nat) : a.accessAt x = s.accessAt x := by
  have tiles := h.only.tile (hp .tiles (by decide))
  have bands : a.bandHolds x = s.bandHolds x := by
    unfold State.bandHolds State.bandOf
    rw [h.only .bandNext (hp _ (by decide)), h.only .variant (hp _ (by decide))]
  have ready (k : Nat) : a.hbmReady k = s.hbmReady k := by
    unfold State.hbmReady
    rw [h.only .hbmcs (hp _ (by decide))]
  unfold State.accessAt
  rw [h.place (fun p hm => hp p (by fin_cases hm <;> decide)) hf]
  split
  · next u b _ _ => rw [tiles, State.clearing, State.clearing, h.only.bank (hp .tiles (by decide))]
  · rw [bands, ready]
  · rfl

theorem State.Frame.memByte (hp : ∀ p ∈ [Part.variant, .bandNext, .tiles, .mem], p ∉ ps := by decide)
    (hf : ∀ f ∈ [Field.hbmBandMode0, .hbmBandMode1, .hbmBandMode2], f ∉ fs := by decide) (x : Nat) : a.memByte x = s.memByte x :=
  have tiles := h.only.tile (hp .tiles (by decide))
  State.memByte_congr (h.place (fun p hm => hp p (by fin_cases hm <;> decide)) hf) (fun u => by rw [tiles]) (fun u => by rw [tiles])
    (h.only.byte (hp .mem (by decide))) x

theorem State.Frame.keepsCalm (calm : s.Calm) (hp : ∀ p ∈ [Part.tiles, .ecc], p ∉ ps := by decide) : a.Calm :=
  ⟨fun k => (h.only.mark (hp .ecc (by decide)) k).trans (calm.marks k),
   fun u i => by rw [State.slot, h.only.tile (hp .tiles (by decide))]; exact calm.steady u i⟩

end

section
variable {s a : State} {p n : Nat} {bs : List Byte}

/-! ### Spans of a memory without errors -/

/-- A span that is reached whole is reached at its start. -/
theorem State.accessAt_of_okBytes (some : 0 < n) (ok : s.okBytes p n = n) : s.accessAt p = .ok :=
  State.spanUnits_ok ok (p, min n (unitEnd p - p)) (by simp only [spanUnits, unitsOf, if_neg some.ne', List.mem_cons, true_or])

/-- A write of a span that is reached whole stores its bytes. -/
theorem State.Calm.spanWrite (h : s.Calm) (ok : s.okBytes p bs.length = bs.length) :
    s.Puts (s.spanWrite p bs (fun _ => false)) 0 (putAt p bs) ∧ s.Only (s.spanWrite p bs (fun _ => false)) writeParts := by
  have reached := State.spanUnits_ok ok
  have puts := h.unitsWrite (t := 0) (base := p) (bs := bs) (bs.length + 1) p bs.length (Nat.lt_succ_self _) (le_refl p) (by omega) reached
  have only := h.only_unitsWrite (base := p) (bs := bs) reached (unitsOf_within _ _ _)
  rw [Nat.sub_self, List.drop_zero] at puts
  have clean (l : List Nat) : l.any (fun _ => false) = false := by simp
  have counted (x : State) : x.Frame (x.spanCount p bs.length fun _ _ => false) countParts spanFields := (State.Frame.refl x _ _).spanCount _ _ _
  unfold State.spanWrite
  simp only [clean]
  exact ⟨puts.quiet (counted _), only.trans ((counted _).only.mono (by decide))⟩

theorem State.Calm.unitRead_good (h : s.Calm) (p n : Nat) (m : BankId → Nat → Bool) : (s.unitRead p n m).2 = false := by
  unfold State.unitRead
  split
  · next u b off _ => rw [(h.clean u b).wordsRead]
  · rw [State.hbmLineFetch_good (h.marks _)]
  · rfl

/-- A read meets no poison. -/
theorem State.Calm.spanRead_good (h : s.Calm) (p n : Nat) : (s.spanRead p n).2.2.any (fun u => u.2) = false := by
  have units (l : List (Nat × Nat)) (acc : State × List (Nat × Bool)) (calm : acc.1.Calm) (good : acc.2.any (fun u => u.2) = false) :
      (l.foldl (fun acc u => ((acc.1.unitRead u.1 u.2 (fun _ _ => false)).1, acc.2 ++ [(u.1, (acc.1.unitRead u.1 u.2 (fun _ _ => false)).2)]))
        acc).2.any (fun u => u.2) = false := by
    induction l generalizing acc with
    | nil => exact good
    | cons u l ih =>
      refine ih _ ((calm.unitRead u.1 u.2 _).calm calm) ?_
      simp [good, calm.unitRead_good]
  exact units _ _ h rfl

/-! ### Lines that wait (R54, R223) -/

/-- A line that is reached meets no clearing bank. -/
theorem State.bar2Hold_ok (ok : s.accessAt p = .ok) : s.bar2Hold p = s := by
  rcases State.place_of_ok ok with ⟨u, b, off, e⟩ | ⟨st, l, e⟩
  · have clear : s.clearing u b = false := by
      unfold State.accessAt at ok
      simp only [e] at ok
      split_ifs at ok with _ held
      exact Bool.eq_false_iff.2 fun clearing => held (.inl clearing)
    simp [State.bar2Hold, e, clear]
  · simp [State.bar2Hold, e]

/-- Before the firmware is ready no line reaches a bank. -/
theorem State.bar2Hold_notReady (off : s.adit.fwReady = false) : s.bar2Hold p = s := by
  unfold State.bar2Hold
  split
  · rw [off]
    rfl
  · rfl

theorem State.frame_bar2Hold (s : State) (p : Nat) : s.Frame (s.bar2Hold p) [.regs] [.spdClearHold] := by
  unfold State.bar2Hold
  split
  · exact .ite ((State.Frame.refl s _ _).cnt _ _ 1) (.refl _ _ _)
  · exact .refl _ _ _

/-- Outside a stop only a hold of its place keeps a line. -/
theorem State.bar2Held_ok (ok : s.accessAt p = .ok) (going : s.inStop = false) : s.bar2Held p = false := by
  rw [State.bar2Held, ok, going]
  rfl

/-! ### Lines that are performed -/

/-- A line that waits for nothing is performed alone. -/
theorem State.bar2Take_one {w : HostWrite} (free : s.bar2Waits [] w = false) (alone : (s.bar2Put w).adit.writes = []) :
    s.bar2Take [w] = s.bar2Put w := by
  have same : ({ (s.bar2Put w).adit with writes := [] } : Adit) = (s.bar2Put w).adit := by rw [← alone]
  simp [State.bar2Take, free, same]

/-- A good line that is reached whole stores its bytes and counts. -/
theorem State.bar2Put_stores {w : HostWrite} (calm : s.Calm) (ready : s.adit.fwReady = true) (some : 0 < w.data.length) (good : w.poison = false)
    (ok : s.okBytes w.addr w.data.length = w.data.length) : (∀ x, (s.bar2Put w).memByte x = (putAt w.addr w.data x).getD (s.memByte x)) ∧
      (s.bar2Put w).rd .adtBar2WrLines = (s.rd .adtBar2WrLines + 1) % 2 ^ 64 ∧ s.Only (s.bar2Put w) writeParts := by
  have bumped : s.Frame (s.bump .adtBar2WrLines) [.regs] [.adtBar2WrLines] := (State.Frame.refl s _ _).bump
  have first := State.accessAt_of_okBytes some ok
  have deferred : (s.bump .adtBar2WrLines).Frame ((s.bump .adtBar2WrLines).lineDefer w.addr w.data.length (fun _ => 6) none) countParts spanFields :=
    (State.Frame.refl _ _ _).lineDefer _ _ _ _
  have reached : ((s.bump .adtBar2WrLines).lineDefer w.addr w.data.length (fun _ => 6) none).okBytes w.addr w.data.length = w.data.length := by
    simp only [State.okBytes, deferred.accessAt, bumped.accessAt]
    exact ok
  obtain ⟨puts, only⟩ := (deferred.keepsCalm (bumped.keepsCalm calm)).spanWrite reached
  have passed (x : State) : x.Frame (x.lineFlits (.ioDie 0) w.addr w.data.length false) countParts spanFields := (State.Frame.refl x _ _).lineFlits _ _ _ _
  have puts' := puts.quiet (passed _)
  have stored : s.bar2Put w = (((s.bump .adtBar2WrLines).lineDefer w.addr w.data.length (fun _ => 6) none).spanWrite w.addr w.data
      (fun _ => false)).lineFlits (.ioDie 0) w.addr w.data.length false := by
    simp [State.bar2Put, ready, bumped.accessAt, first, good]
  rw [stored]
  refine ⟨fun x => ?_, ?_, ((bumped.only.mono (by decide)).trans (deferred.only.mono (by decide))).trans
    (only.trans ((passed _).only.mono (by decide)))⟩
  · rw [puts'.byte, deferred.memByte, bumped.memByte]
  · rw [puts'.moved.frame.rd _ _ _ (by decide), deferred.rd _ _ _ (by decide)]
    exact State.rd_cnt_same s _ _ _ _

/-- Before the firmware is ready a line reaches nothing (R51). -/
theorem State.bar2Put_notReady {w : HostWrite} (off : s.adit.fwReady = false) :
    (s.bar2Put w).rd .adtBar2DecodeErr = (s.rd .adtBar2DecodeErr + 1) % 2 ^ 64 ∧
      (s.bar2Put w).rd .adtBar2WrLines = (s.rd .adtBar2WrLines + 1) % 2 ^ 64 ∧ s.Only (s.bar2Put w) [.regs, .ras] := by
  have told := ((s.bump .adtBar2WrLines).bump .adtBar2DecodeErr).frame_report 1 .hostPort 0 1 0 w.addr
  have put : s.bar2Put w = ((s.bump .adtBar2WrLines).bump .adtBar2DecodeErr).report 1 .hostPort 0 1 0 w.addr := by
    simp [State.bar2Put, off, State.decodeError, State.decodeCount]
  have only : s.Only ((s.bump .adtBar2WrLines).bump .adtBar2DecodeErr) [.regs, .ras] := .bump (.bump (.refl s _) (by decide) _) (by decide) _
  rw [put]
  refine ⟨?_, ?_, only.trans told.only⟩
  · rw [told.rd _ _ _ (by decide), State.bump, State.rd_cnt_same, State.rd_bump_ne _ (by decide)]
    rfl
  · rw [told.rd _ _ _ (by decide), State.rd_bump_ne _ (by decide), State.bump, State.rd_cnt_same]
    rfl

/-- A line of a read that is reached answers its bytes and counts. -/
theorem State.bar2Get_reads (calm : s.Calm) (ready : s.adit.fwReady = true) (ok : s.accessAt p = .ok) :
    (s.bar2Get (p, n)).2 = (s.memBytes p n, false) ∧ (s.bar2Get (p, n)).1.rd .adtBar2RdLines = (s.rd .adtBar2RdLines + 1) % 2 ^ 64 ∧
      s.Only (s.bar2Get (p, n)).1 countParts := by
  have bumped : s.Frame (s.bump .adtBar2RdLines) [.regs] [.adtBar2RdLines] := (State.Frame.refl s _ _).bump
  have deferred : (s.bump .adtBar2RdLines).Frame ((s.bump .adtBar2RdLines).lineDefer p n (fun _ => 6) none) countParts spanFields :=
    (State.Frame.refl _ _ _).lineDefer _ _ _ _
  have quiet := deferred.keepsCalm (bumped.keepsCalm calm)
  have read := (quiet.spanRead p n).lineFlits (.ioDie 0) p n true
  have bytes : ((s.bump .adtBar2RdLines).lineDefer p n (fun _ => 6) none).memBytes p n = s.memBytes p n := by
    simp only [State.memBytes, deferred.memByte, bumped.memByte]
  have got : s.bar2Get (p, n) = ((((s.bump .adtBar2RdLines).lineDefer p n (fun _ => 6) none).spanRead p n).1.lineFlits (.ioDie 0) p n true,
      s.memBytes p n, false) := by
    simp only [State.bar2Get, State.bump_adit, ready, Bool.not_true, Bool.false_eq_true, if_false, bumped.accessAt, ok, quiet.spanRead_good]
    rw [← bytes]
    rfl
  rw [got]
  refine ⟨rfl, ?_, (bumped.only.mono (by decide)).trans (deferred.only.trans read.only)⟩
  rw [read.rd _ _ _ (by decide), deferred.rd _ _ _ (by decide)]
  exact State.rd_cnt_same s _ _ _ _

end

end Sys2Proof.Machine
end

section
/-! PROOF. Writes and reads of BAR2 (R247, R248, R332, R337, R338, R346). -/
namespace Sys2Proof.Machine

section
variable {s : State} {off len : Nat} {data : List Byte}

/-! ### Writes -/

/-- A TLP has taken its number. -/
def State.bar2Numbered (s : State) : State := { s with adit := { s.adit with nextId := s.adit.nextId + 1 } }

/-- The line of a good write at an offset. -/
def State.bar2Line (s : State) (off : Nat) (data : List Byte) : HostWrite := ⟨s.adit.nextId, s.bar2Addr off, data, false⟩

section
variable (up : s.adit.linkUp = true) (awake : s.adit.d3 = false) (inside : off + data.length ≤ 2 ^ (36 + s.adit.bar2Size)) (some : 0 < data.length)
  (fits : off % 64 + data.length ≤ 64) (empty : s.adit.writes = [])
include up awake inside some fits empty

/-- A good write within one line, when no line waits, is that line. -/
theorem State.bar2Write_line : s.bar2Write off data false = (s.bar2Numbered.bar2Hold (s.bar2Addr off)).bar2Take [s.bar2Line off data] := by
  have numbered : ({ s with adit := { s.adit with nextId := s.adit.nextId + 1 } } : State) = s.bar2Numbered := rfl
  have lines : s.bar2Numbered.bar2Lines (data.length + 1) off data.length = [(s.bar2Addr off, data.length)] := s.bar2Numbered.bar2Lines_one some fits
  have accepted : ¬ (s.adit.d3 = true ∨ off + data.length > s.bar2Bytes) := by simp [awake, State.bar2Bytes, inside]
  have waiting : (s.bar2Numbered.bar2Hold (s.bar2Addr off)).adit.writes = [] :=
    (congrArg Adit.writes ((s.bar2Numbered.frame_bar2Hold _).only .adit (by decide))).trans empty
  rw [State.bar2Write_one up some (by omega), State.bar2Tlp, if_neg accepted]
  simp only [Bool.false_eq_true, if_false, numbered, lines, List.foldl_cons, List.foldl_nil, List.nil_append, List.drop_zero, List.take_length, waiting]
  rfl

/-- To an open place: its bytes are stored there. -/
theorem State.bar2Write_stores (going : s.inStop = false) (ready : s.adit.fwReady = true) (calm : s.Calm)
    (ok : s.okBytes (s.bar2Addr off) data.length = data.length) :
    (∀ x, (s.bar2Write off data false).memByte x = (putAt (s.bar2Addr off) data x).getD (s.memByte x)) ∧
      (s.bar2Write off data false).rd .adtBar2WrLines = (s.rd .adtBar2WrLines + 1) % 2 ^ 64 ∧
      (s.bar2Write off data false).adit = { s.adit with nextId := s.adit.nextId + 1 } ∧ s.bar2Numbered.Only (s.bar2Write off data false) writeParts := by
  have first : s.bar2Numbered.accessAt (s.bar2Addr off) = .ok := State.accessAt_of_okBytes (s := s) some ok
  obtain ⟨bytes, count, only⟩ := State.bar2Put_stores (s := s.bar2Numbered) (w := s.bar2Line off data) ⟨calm.marks, calm.steady⟩ ready some rfl ok
  have adit : (s.bar2Numbered.bar2Put (s.bar2Line off data)).adit = s.bar2Numbered.adit := only .adit (by decide)
  have free : s.bar2Numbered.bar2Waits [] (s.bar2Line off data) = false := by
    have open_ : s.bar2Numbered.bar2Held (s.bar2Line off data).addr = false := State.bar2Held_ok first going
    simp [State.bar2Waits, open_]
  rw [State.bar2Write_line up awake inside some fits empty, State.bar2Hold_ok first,
    State.bar2Take_one free ((congrArg Adit.writes adit).trans empty)]
  exact ⟨bytes, count, adit, only⟩

/-- Before the firmware is ready: it reaches nothing. -/
theorem State.bar2Write_notReady (notReady : s.adit.fwReady = false) :
    (s.bar2Write off data false).rd .adtBar2DecodeErr = (s.rd .adtBar2DecodeErr + 1) % 2 ^ 64 ∧
      (s.bar2Write off data false).rd .adtBar2WrLines = (s.rd .adtBar2WrLines + 1) % 2 ^ 64 ∧
      (s.bar2Write off data false).adit = { s.adit with nextId := s.adit.nextId + 1 } ∧ s.bar2Numbered.Only (s.bar2Write off data false) [.regs, .ras] := by
  obtain ⟨error, count, only⟩ := State.bar2Put_notReady (s := s.bar2Numbered) (w := s.bar2Line off data) notReady
  have adit : (s.bar2Numbered.bar2Put (s.bar2Line off data)).adit = s.bar2Numbered.adit := only .adit (by decide)
  have free : s.bar2Numbered.bar2Waits [] (s.bar2Line off data) = false := by
    rw [State.bar2Waits, show s.bar2Numbered.adit.fwReady = false from notReady, Bool.false_and]
  rw [State.bar2Write_line up awake inside some fits empty, State.bar2Hold_notReady (s := s.bar2Numbered) notReady,
    State.bar2Take_one free ((congrArg Adit.writes adit).trans empty)]
  exact ⟨error, count, adit, only⟩

end

theorem State.only_bar2Numbered (s : State) : s.Only s.bar2Numbered [.adit] := s.only_adit _

/-! ### Reads -/

theorem State.bar2Read_beyond (up : s.adit.linkUp = true) (beyond : off + len > 2 ^ (36 + s.adit.bar2Size) ∨ len > 4096) :
    s.bar2Read off len = s.unsupported := by
  have up' : ¬ (!s.adit.linkUp) = true := by simp [up]
  exact (if_neg up').trans (if_pos (.inr beyond))

/-- A read within one line, when no write waits. -/
theorem State.bar2Read_line (up : s.adit.linkUp = true) (awake : s.adit.d3 = false) (inside : off + len ≤ 2 ^ (36 + s.adit.bar2Size)) (some : 0 < len)
    (fits : off % 64 + len ≤ 64) (empty : s.adit.writes = []) : s.bar2Read off len =
      { s.bar2Hold (s.bar2Addr off) with adit := { s.adit with reads := s.adit.reads ++ [⟨[(s.bar2Addr off, len)], []⟩] } } := by
  have accepted : ¬ (s.adit.d3 = true ∨ off + len > s.bar2Bytes ∨ len > 4096) := by
    simp only [awake, State.bar2Bytes, Bool.false_eq_true, false_or]
    omega
  have adit : (s.bar2Hold (s.bar2Addr off)).adit = s.adit := (s.frame_bar2Hold _).only .adit (by decide)
  simp only [State.bar2Read, up, Bool.not_true, Bool.false_eq_true, if_false, if_neg accepted, State.bar2Drain_none empty, s.bar2Lines_one some fits,
    empty, List.map_nil, List.eraseDups_nil, List.foldl_cons, List.foldl_nil, adit]

/-- The oldest read has left the host port. -/
def State.bar2Taken (s : State) (rest : List HostRead) : State := { s with adit := { s.adit with reads := rest } }

/-- What a read answers by its bytes, and whether they are poisoned (R218). -/
def State.bar2Answered (q : State × List Byte × Bool) : State :=
  let s := if q.2.2 then q.1.bump .adtPoisonTx else q.1
  { s with adit := { s.adit with ep := q.2.2 } }.answer .host (leNat q.2.1)

/-- The oldest read, when it is of one line that nothing holds. -/
theorem State.bar2Complete_line {p : Nat} {rest : List HostRead} (oldest : s.adit.reads = ⟨[(p, len)], []⟩ :: rest) (empty : s.adit.writes = [])
    (free : s.bar2Held p = false) : s.bar2Complete = State.bar2Answered ((s.bar2Taken rest).bar2Get (p, len)) := by
  rw [State.bar2Complete, State.bar2Drain_none empty, oldest]
  exact if_neg (by simp [empty, free])

/-- It completes with its bytes, and counts, when the line is reached. -/
theorem State.bar2Complete_reads {p : Nat} {rest : List HostRead} (oldest : s.adit.reads = ⟨[(p, len)], []⟩ :: rest) (empty : s.adit.writes = [])
    (ready : s.adit.fwReady = true) (going : s.inStop = false) (ok : s.accessAt p = .ok) (calm : s.Calm) :
    sget 0 0 s.bar2Complete.answers = leNat (s.memBytes p len) ∧ s.bar2Complete.adit = { s.adit with reads := rest, ep := false } ∧
      s.bar2Complete.rd .adtBar2RdLines = (s.rd .adtBar2RdLines + 1) % 2 ^ 64 ∧ s.Only s.bar2Complete [.regs, .act, .adit, .answers] := by
  obtain ⟨got, count, only⟩ := State.bar2Get_reads (s := s.bar2Taken rest) (p := p) (n := len) ⟨calm.marks, calm.steady⟩ ready ok
  rw [State.bar2Complete_line oldest empty (State.bar2Held_ok ok going)]
  generalize (s.bar2Taken rest).bar2Get (p, len) = q at got count only
  obtain ⟨x, bytes, poisoned⟩ := q
  obtain ⟨rfl, rfl⟩ := Prod.mk.inj got
  have adit : x.adit = { s.adit with reads := rest } := only .adit (by decide)
  have taken : s.Only x [.regs, .act, .adit, .answers] := .trans ((s.only_adit _).mono (by decide)) (only.mono (by decide))
  refine ⟨State.answered _ .host _, ?_, count, (taken.adit (by decide) _).trans ((State.only_answer _ _ _).mono (by decide))⟩
  exact congrArg (fun d : Adit => { d with ep := false }) adit

end

/-- Settles O36: what becomes of a write and of a read by its span, and of the oldest read once nothing before it waits. -/
theorem bar2Accesses : Obligations.Bar2Accesses := by
  refine ⟨fun off len data poison s down => ⟨⟨_, rfl, ?_⟩, ⟨_, rfl, ?_⟩⟩, fun off data poison s up awake going =>
    ⟨fun beyond some => ⟨_, rfl, ?_⟩, fun a ha inside some fits empty => ⟨fun ready good marks steady ok => ⟨_, rfl, ?_⟩,
      fun notReady good => ⟨_, rfl, ?_⟩⟩⟩,
    fun off len s up awake => ⟨fun beyond => ⟨_, rfl, ?_⟩, fun empty some fits inside => ⟨_, rfl, ?_⟩⟩,
    fun a len rest s oldest empty ready going fits ok steady marks => ⟨_, rfl, ?_⟩, fun s => ⟨_, rfl, ?_⟩⟩
  · exact if_pos (by rw [down]; rfl)
  · exact if_pos (by rw [down]; rfl)
  · have lost := State.bar2Write_beyond up beyond some poison
    exact ⟨lost.count, lost.adit, lost.reported, lost.fields, lost.only⟩
  · obtain rfl : a = s.bar2Addr off := ha.trans (s.bar2Addr_eq off).symm
    obtain ⟨bytes, count, adit, only⟩ := State.bar2Write_stores up awake inside some fits empty going ready ⟨marks, steady⟩ ok
    rw [good]
    refine ⟨fun i hi => ?_, fun k hk => ?_, count, adit, only .tiles (by decide), (s.only_bar2Numbered.mono (by decide)).trans (only.mono (by decide))⟩
    · rw [bytes, putAt_inside, List.getD_eq_getElem?_getD, List.getElem?_eq_getElem hi]
      rfl
    · rw [bytes, putAt_outside hk]
      rfl
  · obtain ⟨error, count, adit, only⟩ := State.bar2Write_notReady up awake inside some fits empty notReady
    rw [good]
    exact ⟨error, count, adit, (s.only_bar2Numbered.mono (by decide)).trans (only.mono (by decide))⟩
  · have lost := s.unsupported_one
    rw [State.bar2Read_beyond up beyond]
    exact ⟨lost.only, lost.fields, lost.count, lost.adit⟩
  · have held := s.frame_bar2Hold (s.bar2Addr off)
    rw [← s.bar2Addr_eq, State.bar2Read_line up awake inside some fits empty]
    exact ⟨rfl, fun f i j hf => held.rd f i j (by simpa using hf), State.Only.adit (l := [.regs, .adit]) (held.only.mono (by decide)) (by decide) _⟩
  · exact State.bar2Complete_reads oldest empty ready going ok ⟨marks, steady⟩
  · have lost := s.unsupported_one
    exact ⟨lost.only, lost.fields, lost.count, lost.adit, lost.reported⟩

end Sys2Proof.Machine
end
